-- ==== Sys2Proof/Word.lean ====
section
/-! DEFINITION. The word types of the block and their plainest arithmetic. -/

namespace Sys2Proof

/-- One byte of memory. -/
abbrev Byte := BitVec 8

/-- A register word of the block's register file (file 12, R353). -/
abbrev Word32 := BitVec 32

/-- A core register or a filet word. -/
abbrev Word64 := BitVec 64

/-- The 128-bit digests of files 06 and 13. -/
abbrev Word128 := BitVec 128

/-- The 64 bytes of a descriptor or of a request record, byte 0 least significant (files 06, 12). -/
abbrev Word512 := BitVec 512

/-- A keyed table in one canonical form: keys strictly rising. What an unlisted key holds is said by whoever reads it. -/
abbrev Tbl (α : Type) := List (Nat × α)

/-- A finite set of numbers, strictly rising. -/
abbrev NSet := List Nat

end Sys2Proof
end

