-- ==== Sys2Proof/Types.lean ====
section
/-! DEFINITION. The data types that commands and the state share: number formats, packets, records. -/

namespace Sys2Proof

/-- The format codes 0x00 to 0x0F of Table 2-1 (R25). -/
inductive Fmt where
  | binary32 | binary16 | bfloat16 | e4m3 | e5m2 | e3m2 | e2m3 | fp4
  | int8 | int4 | int2 | t2 | couched | filet | accWord | e8m0
  deriving DecidableEq, Repr

/-- An exact value: NaN, a signed infinity, or a signed rational num/den with den > 0 (a zero keeps its sign). -/
inductive Val where
  | nan
  | inf (neg : Bool)
  | fin (neg : Bool) (num den : Nat)
  deriving DecidableEq, Repr

/-- The internal digit of an array operand (file 02, "The internal digit"): sign, 7-bit exponent, 4-bit significand. -/
structure Digit where
  s : Bool
  e : Nat
  m : Nat
  deriving DecidableEq, Repr

/-- The column sum of the adder tree (R64 to R67): one or two integers each with its grid exponent, the column's
special-value flags, and whether a product had a set bit below the grid. -/
structure ColSum where
  sums : List (Int × Int)
  nan : Bool
  pinf : Bool
  ninf : Bool
  trunc : Bool
  deriving DecidableEq, Repr

/-- An accumulator word (R75, Table 4-1): SIG as a signed number, WEXP, the sticky flags, EMPTY, RND_EVENTS. -/
structure AccWord where
  sig : Int
  wexp : Nat
  nan : Bool
  pinf : Bool
  ninf : Bool
  empty : Bool
  rnd : Nat
  deriving DecidableEq, Repr

/-- A stream descriptor (R114, Table 5-7); fmt is the 5-bit format code. -/
structure Stream where
  base : Nat
  len : Nat
  count : Nat
  stride : Nat
  sbase : Nat
  sstride : Nat
  fmt : Nat
  scaled : Bool
  blkdim : Bool
  deriving DecidableEq, Repr

/-- The stationary operand of a core's two arrays (R63): format, SHAPE, PAIR, the digits of each cell by array, row and physical
column, each physical column's scale exponent by array and half, and the scale exponent of each couched cell (log entry 38). -/
structure Weights where
  fmt : Fmt
  shape : Nat
  pair : Nat
  cells : Tbl (List Digit)
  xw : Tbl Int
  cx : Tbl Int
  deriving DecidableEq, Repr

/-- What an output conversion was issued with (R98, R117): the output stream, the scale and bias streams it uses,
OUTFN, NANBLK, the clip bounds, RMODE and OVFM. -/
structure ConvParams where
  out : Stream
  scs : Option Stream
  bis : Option Stream
  outfn : Nat
  nanblk : Bool
  lo : Word32
  hi : Word32
  rmode : Nat
  ovfm : Bool
  deriving DecidableEq, Repr

/-- The status codes of Table 12-11 (R375) and the firmware statuses of file 17 (fw n is code 0x40 + n). -/
inductive Status where
  | ok | alreadyComplete | aborted | timeout | faulted | noReplay | incomplete
  | badDesc | badFormat | badInsn | badAddr | badSlot | badShape | badClip | badKnot | badReq | badCore
  | badGroup | badTime | badGate | permDenied
  | coreGone | engineGone | dieUnreachable | homeLost | memUe | noAck
  | noRoom | noBuf | ctxBusy | setBusy | gateBusy | hoopBusy | notReady | notTimed | noSet | duplicate
  | noModule | modNoack
  | fw (n : Nat)
  | raw (code : Nat)
  deriving DecidableEq, Repr

/-- Where a byte address of the device's own accesses leads (R132, R236, R237, R514): a core's scratchpad, a die's ground
memory, a die's stack, another chip's memory (reached by packets), the companion's memory. -/
inductive Place where
  | scratch (d c off : Nat)
  | ground (d off : Nat)
  | stack (d off : Nat)
  | remote (chip addr : Nat)
  | board (addr : Nat)
  deriving DecidableEq, Repr

/-- A core job accepted and waiting or running (R102, R151): its descriptor and the record it owes.
op is the accepted descriptor operation, none for a chained job, whose record goes to ring cq. told says that RING_ERROR has been posted
for its wait; pos is the position that the run before a replay reached (R109), instr the cycles in which that run issued (R493). -/
structure Job where
  op : Option Nat
  cq : Nat
  tag : Nat
  desc : Word512
  replay : Bool
  told : Bool
  pos : Nat := 0
  instr : Nat := 0
  deriving DecidableEq, Repr

/-- The array unit's instructions. -/
inductive ArrKind where
  | wld | pass | cvt | acsv | acrs
  deriving DecidableEq, Repr

/-- An array instruction issued and not finished (R57, R98): what it captured at issue. k, n, v are the values of its registers
(first reduction index, n0 or first column index, first vector index; a save or restore keeps its address in k). -/
structure ArrOp where
  kind : ArrKind
  word : Word64
  ord : Nat
  wr : Nat
  seq : Nat
  k : Nat
  n : Nat
  v : Nat
  src : Stream
  conv : Option ConvParams
  pos : Nat
  deriving DecidableEq, Repr

/-- One accumulator row's column sums on their way to the accumulator (R58, R59): the row, whether the row is replaced first
(R77), the column sums by column, the step of R83, and the conversion that follows in a STREAM pass: output vector, n0,
row ordinal. last marks the end of instruction seq. -/
structure RowUpd where
  row : Nat
  replace : Bool
  cols : List (Nat × ColSum)
  step : Nat
  conv : Option ConvParams
  o : Nat
  n0 : Nat
  ordinal : Nat
  wr : Nat
  seq : Nat
  last : Bool
  deriving DecidableEq, Repr

/-- A vector instruction issued and not finished (R98, R128): the opcode word, its ordinals, the streams and registers it captured,
and the array instructions it waits for when it reads accumulator rows (R60). -/
structure VecOp where
  word : Word64
  nv : Nat
  wr : Nat
  n : Nat
  row : Nat
  a : Stream
  b : Stream
  c : Stream
  d : Stream
  bval : Word64
  cval : Word64
  thr : Word64
  idx : Word64
  need : Nat
  deriving DecidableEq, Repr

/-- A KARV or KSIG issued whose effect waits for the job's earlier writes (R131). -/
structure Deferred where
  sig : Bool
  knot : Nat
  reg : Nat
  amount : Nat
  needArr : Nat
  needVec : Nat
  needDma : List Nat
  deriving DecidableEq, Repr

/-- A core stalled in KWAIT (generation gen) or KTAKE (amount gen), and the register its result goes to (R130). -/
structure KnotWait where
  take : Bool
  knot : Nat
  gen : Nat
  limited : Bool
  reg : Nat
  deriving DecidableEq, Repr

/-- The job on a core (R97 to R110). -/
structure Run where
  job : Job
  pc : Nat
  prog : Nat
  status : Word32
  vstatus : Word32
  ord : Nat
  nv : Nat
  wr : Nat
  arrIss : Nat
  arrDone : Nat
  vecIss : Nat
  vecDone : Nat
  digest : Word128
  posts : List (Nat × Word512)
  shared : Bool
  halted : Bool
  ended : Option Status
  wait : Option KnotWait
  pend : NSet
  defer : List Deferred
  load : Option (Nat × Nat × Fmt × Bool)
  startCyc : Nat
  instr : Nat
  deriving DecidableEq, Repr

/-- ARR_REPAIR of one array (R74): FAILED_COL, SPARE_USED, EXHAUSTED, CHECK_ERR. -/
structure ArrRepair where
  failed : Nat
  used : Bool
  exhausted : Bool
  chk : Nat
  deriving DecidableEq, Repr

/-- Who posted an engine request and waits for it (R152): a core, a descriptor operation, a packet of another chip, a chained
request of the same die (bound: by the partition of what chained it). seq is the packet's TAG, port the grant's port of an endpoint's
request, which what it chains keeps. -/
inductive EngSrc where
  | core (d c : Nat)
  | op (id : Nat)
  | packet (chip reply : Nat) (seq : Nat) (port : Option Nat)
  | chain (bound : Bool) (port : Option Nat)
  deriving DecidableEq, Repr

/-- The done word's status, conditions and count (Table 6-5). -/
structure DoneWord where
  status : Status
  conds : Word32
  count : Nat
  deriving DecidableEq, Repr

/-- An engine request: its 64-byte record, its source, the unit that holds it (0 pooling, 1 top-k, 2 and 3 codec, 4 digest), and what
it is to commit once its work is done (DIGEST output included); writes counts its outputs outside the package that are not acknowledged,
wstatus the status that they have earned. got holds the operand bytes read outside the package, reads the TAGs of the READs that wait for
more. way is the die from which its packet is on the way (R8), room the die and buffer that keep space for its response (R284). -/
structure EngReq where
  id : Nat
  req : Word512
  src : EngSrc
  unit : Nat
  done : Option DoneWord
  digest : Option Word128
  writes : Nat
  wstatus : Status
  got : List Host.Cell
  reads : NSet
  replayed : Bool
  aborted : Bool
  way : Option Nat := none
  room : Option (Nat × Nat) := none
  deriving DecidableEq, Repr

/-- An open top-k merge set (R164 to R168): its completion fields and the space kept for its response are those of the OPEN's record. Records are
(score code, rank, index); merged counts those that its ADDs have merged (Table 6-6). -/
structure TopkSet where
  req : Word512
  k : Nat
  l : Nat
  smallest : Bool
  dst : Nat
  ranks : NSet
  recs : List (Nat × Nat × Nat)
  nan : Bool
  src : EngSrc
  room : Option (Nat × Nat) := none
  merged : Nat := 0
  deriving DecidableEq, Repr

/-- Who a DMA request belongs to: a core's TAG (R132) or a descriptor operation (R175). -/
inductive DmaOwner where
  | core (c tag : Nat)
  | op (id : Nat)
  deriving DecidableEq, Repr

/-- A part of a range of bytes: its offset in the range, its length and the place it maps to. -/
structure Seg where
  off : Nat
  len : Nat
  place : Place
  deriving DecidableEq, Repr

/-- A DMA request in flight: its owner, the parts of its source and of its destination, its length, the bytes begun, the 4 KiB units
completed, the packets outstanding by unit, the status it has so far, whether it is to stop at the end of what it has begun, whether it
has been replayed, the units of which a packet was given up. -/
structure DmaReq where
  id : Nat
  owner : DmaOwner
  src : List Seg
  dst : List Seg
  len : Nat
  next : Nat
  units : Nat
  busy : Tbl Nat
  status : Status
  aborted : Bool
  replayed : Bool
  lost : NSet := []
  deriving DecidableEq, Repr

/-- A descriptor operation accepted and not committed (R368). pos is its position and wpos that of its last progress entry (R367). begun says that
its activity, port control or module access has begun; stop that an abort is to end it at its next safe boundary (R448). writes counts its packets
outside the package that are not acknowledged, wstatus is the status that they have earned, and fin what it completes with once none is left (R250). -/
structure Op where
  id : Nat
  sq : Nat
  idx : Nat
  cq : Nat
  tag : Nat
  noint : Bool
  hoopWait : Bool
  type : Nat
  desc : Word512
  pos : Nat
  total : Nat
  begun : Bool
  stop : Bool
  wpos : Nat := 0
  writes : Nat := 0
  wstatus : Status := .ok
  fin : Option (Status × Nat) := none
  deriving DecidableEq, Repr

/-- A completion record (Table 12-4) that is written, or waits at its commit point for room (R365). An abort's record with after waits until
what the descriptor of that ring and index started has its record (R369). -/
structure Rec where
  op : Option Nat
  cq : Nat
  tag : Nat
  status : Status
  sq : Nat
  source : Nat
  idx : Nat
  pos : Nat
  d0 : Word32
  d1 : Word32
  d2 : Word32
  noint : Bool
  told : Bool
  after : Option (Nat × Nat) := none
  total : Option Nat := none
  deriving DecidableEq, Repr

/-- A submission ring (Table 12-15, R361). state: 0 DISABLED, 1 RUNNING, 2 DRAINING, 3 ERROR. aborts: the indices that an abort reached before
acceptance; quiet: those accepted NOPs and aborts; waitPosted: RING_ERROR was posted for the descriptor at the head. -/
structure SubRing where
  base : Nat
  pbase : Nat
  pen : Bool
  log2 : Nat
  rver : Nat
  dver : Nat
  en : Bool
  state : Nat
  err : Nat
  head : Nat
  tail : Nat
  aborts : NSet
  quiet : NSet
  waitPosted : Bool
  deriving DecidableEq, Repr

/-- A completion ring (Table 12-16, R365, R366), or the event ring, which has no STATE. count is the records since the last interrupt
that count toward one; armed says that an interrupt may be raised. -/
structure ComRing where
  base : Nat
  log2 : Nat
  ien : Bool
  vector : Nat
  coalN : Nat
  coalT : Nat
  en : Bool
  state : Nat
  err : Nat
  head : Nat
  tail : Nat
  count : Nat
  armed : Bool
  deriving DecidableEq, Repr

/-- A hardware knot (R388 to R397). waiting arrivals of a timed barrier's armed release: armed holds T; takes is the queue of KTAKEs
(die, core, amount). For a semaphore, count is its count. results keeps the KWAIT result of a released generation that is not 0.
At the home of a fabric-wide
knot: the chips whose packages have been counted (32,768 for its own), the generation that the home counts, and the last release's T and
TIMED, where there has been one. -/
structure Knot where
  cfg : Word32
  time : Word32
  fab : Word32
  gen : Nat
  arrivals : Nat
  count : Nat
  takes : List (Nat × Nat × Nat)
  armed : List (Nat × Nat)
  results : Tbl Nat
  sentArrive : Bool
  counted : NSet
  hgen : Nat
  lastOk : Bool
  lastT : Nat
  lastTimed : Bool
  deriving DecidableEq, Repr


/-- A packet as it crosses a link (R224): the 32 header bytes (byte 0 least significant), the payload with its pad, the trailer. -/
structure Packet where
  hdr : BitVec 256
  body : List Byte
  trailer : Word32
  deriving DecidableEq, Repr

/-- The three parts and their sizes (Table 0-1): dies 8, 4 and 2. -/
inductive Variant where
  | tx8 | tx4 | tx2
  deriving DecidableEq, Repr

/-- Something the block sends out: a store to the companion's memory (R354), a message interrupt (R366), data answered to an access,
a packet at a port, a bridge or none, a control word (kinds 2 to 4), training frame (8), fault ordered set (9) or test levels (10), a frame at a port, an atomic on the companion's memory (R237), an access to a module's
CMIS memory, test data. -/
inductive Out where
  | ptp (msg : List Byte)
  | store (addr : Nat) (bytes : List Byte)
  | interrupt (vector : Nat)
  | data (bytes : List Byte)
  | packet (die port : Nat) (p : Packet)
  | control (die port : Nat) (kind : Nat) (body : List Nat)
  | frame (die port : Nat) (bytes : List Byte)
  | atomic (addr aop : Nat) (operand : List Byte)
  | cmis (die octet bank page offset : Nat) (write : Bool) (bytes : List Byte)
  | test (bits : Nat)
  deriving DecidableEq, Repr

/-- A resident program image: its words (file 05; R102). -/
abbrev Image := List Word64

/-- A core's performance counters (file 18): the eight counters, their select words, the four slot counters, the latched high words. -/
structure CorePmc where
  cnt : Tbl Nat
  sel : Tbl Word32
  slot : Tbl Nat
  latch : Tbl Nat
  deriving DecidableEq, Repr

/-- A logical core and everything it holds (files 03 to 05). -/
structure Core where
  phys : Nat
  retired : Bool
  asleep : Bool
  testing : Bool
  fenced : Bool
  c2 : List Nat
  image : Option Image
  scratch : List Host.Cell
  acc : Tbl AccWord
  g : Tbl Word64
  slots : Tbl (BitVec 256)
  convs : Tbl (BitVec 256)
  jobs : List Job
  run : Option Run
  weights : Option Weights
  aq : List ArrOp
  accq : List RowUpd
  vq : List VecOp
  rep0 : ArrRepair
  rep1 : ArrRepair
  accStatus : Word32
  vecStatus : Word32
  pmc : CorePmc
  deriving DecidableEq, Repr

/-- A die's ground memory (file 06): its bytes, the poisoned 8-byte words, the words with a correctable error not yet corrected, those with an
error of two bits or more not yet detected (bad), the counts of GND_ECC, the retired banks in order, the banks whose level-15 segments serve
a retired bank's segments of levels 0 to 14 (R144), the spare rows used by bank, and the scrub passes in a row in which a row
(bank × 1024 + row) showed correctable errors. fenced are the banks that wait for their repair (R425). -/
structure Ground where
  cells : List Host.Cell
  pois : NSet
  latent : NSet
  ce : Nat
  ue : Nat
  retired : List Nat
  rows : Tbl Nat
  weak : Tbl Nat
  bad : NSet := []
  donors : Tbl (List Nat) := []
  fenced : NSet := []
  deriving DecidableEq, Repr

/-- The package's power phases (file 16, R458; file 15, R435). -/
inductive Phase where
  | off | held | booting | up | standby | safe
  deriving DecidableEq, Repr

/-- A hoop activity that holds its dies' hoops or waits in the package's hoop queue (R370, R445, R446): its code of Table 12-10, its
dies, the descriptor operation that started it (none when the device did), the unit it acts on, its position, and the status it has
earned. -/
structure HoopReq where
  act : Nat
  dies : NSet
  op : Option Nat
  die : Nat
  unit : Nat
  arg : Nat
  pos : Nat := 0
  st : Option Status := none
  deriving DecidableEq, Repr

/-- An entry of the repair record (Table 15-7), its time in seconds. -/
structure RepEntry where
  kind : Nat
  die : Nat
  unit : Nat
  site : Nat
  spare : Nat
  time : Nat
  deriving DecidableEq, Repr

/-- A firmware slot of the keep: its valid flag, its image's SVN and measurement, and the image's bytes as STAGE wrote them (R470, R472, R481). -/
structure FwSlot where
  valid : Bool
  svn : Nat
  meas : List Byte
  image : List Byte := []
  deriving DecidableEq, Repr

/-- The keep (Table 17-1): slots A and B, the preferred slot, the repair record, the trained presets by die × 96 + lane (−c(−1), c(0),
−c(+1)) and when each was last written (ns), the two certificates, the anti-rollback counter, which is the number of its cells written, the C4
fault log, and the dies' identity helper data, as one number (R475). adapts holds the receivers' adaptation beside the presets (R338), tags the
tags of the counter's cells (R480). -/
structure Keep where
  a : FwSlot
  b : FwSlot
  pref : Nat
  record : List RepEntry
  presets : Tbl (Nat × Nat × Nat)
  presetAt : Tbl Nat
  adapts : Tbl Nat := []
  certs : List (List Byte)
  arb : Nat
  faultLog : List Nat
  ident : Nat
  tags : List (List Byte) := []
  deriving DecidableEq, Repr

/-- Power (file 16): a Standby request refused; a Standby entry in progress; the capping duty, when it reached 2, and the stack limit of
R462; the power measured; THROT_N low; the enable outputs; whether ALIVE toggles; the reset inputs held low; whether VDD_STK has been off since
the last reset. enAt is when the enables last rose, none where that was long ago (R452); drive says that the outputs of Table 19-6 are driven, not
high-impedance (R505); aliveAt is when ALIVE began to toggle and aliveHi the level that it holds while it does not (R437). -/
structure Power where
  refused : Bool
  entering : Bool
  capDuty : Nat
  capAt : Option Nat
  capLim : Bool
  watts : Nat
  throt : Bool
  coreEn : Bool
  laneEn : Bool
  alive : Bool
  porst : Bool
  sysrst : Bool
  stkOff : Bool
  enAt : Option Nat := none
  drive : Bool := true
  aliveAt : Nat := 0
  aliveHi : Bool := false
  deriving DecidableEq, Repr

/-- Start-up and identity (R466, R472 to R476): firmware verified; dies whose boot checks are complete;
BOOTED; the booted slot, FALLBACK and the preferred slot's failing status; the dies whose stewards hold the identity and those found
without it; the UID given out; the running SVN and measurement. told says that the FIRMWARE events of the boot were posted; seed is the identity
seed that the stewards have rebuilt (R475, R477). -/
structure Boot where
  verified : Bool
  checked : NSet
  booted : Bool
  slot : Nat
  fallback : Bool
  failing : Nat
  ids : NSet
  noIds : NSet
  fenced : NSet
  uid : Nat
  svn : Nat
  meas : List Byte
  told : Bool
  seed : Option Nat := none
  deriving DecidableEq, Repr

/-- The test access port (R507 to R509): the instruction in force and the boundary register's cells. -/
structure TestPort where
  ir : Nat
  cells : Nat
  deriving DecidableEq, Repr

/-- A digest log record (R402) that waits for its partner's (R403): source, tag, digest, and when it was made or came (ns). -/
structure LsRec where
  source : Nat
  tag : Nat
  digest : Nat
  at0 : Nat
  deriving DecidableEq, Repr

/-- A foreign master that announces itself in the PTP domain (R382): its port identity, what its last Announce compares by (priority 1, class,
accuracy, variance, priority 2, as one number), its grandmaster, the steps removed, and when its last Announces came (ns). -/
structure PtpMaster where
  port : Nat
  quality : Nat
  gm : Nat
  steps : Nat
  heard : List Nat
  deriving DecidableEq, Repr

/-- The PTP clock of the management port (R382): the foreign masters, the master followed, a two-step Sync that waits for its Follow_Up (SEQ, arrival,
correction), the last difference from the master, the delay request sent (SEQ, departure), the mean path delay, the peer delay request sent, the
peer's two-step answer that waits for its follow-up (SEQ, departure, arrival, receipt, correction), the peer delay, and the next SEQ. Times and
differences are in 2^-16 ns. -/
structure Ptp where
  masters : List PtpMaster := []
  parent : Option Nat := none
  sync : Option (Nat × Int × Int) := none
  diff : Option Int := none
  req : Option (Nat × Int) := none
  delay : Option Int := none
  peerReq : Option (Nat × Int) := none
  peerRsp : Option (Nat × Int × Int × Int) := none
  peer : Option Int := none
  seq : Nat := 0
  deriving DecidableEq, Repr

/-- The package's time (file 13): the state of Table 13-1, the root's validity as last heard, hops from the root, measurements within the
threshold in a row, whether the counter has been stepped in this ACQUIRE, the last offset (1/16 ns), FADJ (2^-32 ns), frames discarded,
digest records written, and the lock-step counts and records. -/
structure TimeSt where
  ptp : Ptp := {}
  st : Nat
  rootValid : Bool
  hops : Nat
  good : Nat
  stepped : Bool
  offset : Int
  fadj : Int
  ptpDrop : Nat
  logIdx : Nat
  lsMatch : Nat
  lsMis : Nat
  lsOrph : Nat
  own : List LsRec
  peer : List LsRec
  deriving DecidableEq, Repr

/-- A failure that the boot checks of a die find (R467): a row of a ground bank; a row of a packet-buffer bank; a row of a
bank of a core's memories; a physical column of a core's array; any other failure of a core; an engine; a reduction pipeline; a
mover; the switch slice, or checks that do not finish. -/
inductive BootFind where
  | gndRow (bank row : Nat)
  | bufRow (bank row : Nat)
  | coreRow (core bank row : Nat)
  | column (core arr col : Nat)
  | core (core : Nat)
  | engine (unit : Nat)
  | pipe (unit : Nat)
  | mover (unit : Nat)
  | slice
  deriving DecidableEq, Repr

/-- A die's fault counts (file 15, R449), and for each detector code the time of its last FAULT event and the faults suppressed since
(R423). -/
structure FaultLog where
  c0 : Nat
  c1 : Nat
  c2 : Nat
  c3 : Nat
  last : Tbl (Nat × Nat)
  deriving DecidableEq, Repr

end Sys2Proof
end

