-- ==== Sys2Proof/Syntax.lean ====
section
/-! DEFINITION. The commands of the block: one constructor for each row of the command table.
A docstring gives the row's mnemonic, its rule and the row's own summary. -/

namespace Sys2Proof

/-- A command to the block (the 242 rows of the command table). -/
inductive Instr where
  /- Core instructions
  `d` is the die position and `c` the core on it. -/
  /-- NOP (R112). Core instruction NOP issues and does nothing. -/
  | nop (d c : Nat)
  /-- ADD (R112). Core instruction ADD writes g[A] + g[B] modulo 2^64 to g[D]. -/
  | add (d c : Nat)
  /-- SUB (R112). Core instruction SUB writes g[A] − g[B] to g[D]. -/
  | sub (d c : Nat)
  /-- MUL (R112). Core instruction MUL writes the low 64 bits of the product to g[D] after 3 cycles. -/
  | mul (d c : Nat)
  /-- AND (R112). Core instruction AND writes the bitwise and to g[D]. -/
  | and (d c : Nat)
  /-- OR (R112). Core instruction OR writes the bitwise or to g[D]. -/
  | or (d c : Nat)
  /-- XOR (R112). Core instruction XOR writes the bitwise exclusive or to g[D]. -/
  | xor (d c : Nat)
  /-- SHL (R112). Core instruction SHL shifts g[A] left by g[B] & 63. -/
  | shl (d c : Nat)
  /-- SHR (R112). Core instruction SHR shifts g[A] right logically by g[B] & 63. -/
  | shr (d c : Nat)
  /-- SRA (R112). Core instruction SRA shifts g[A] right arithmetically by g[B] & 63. -/
  | sra (d c : Nat)
  /-- SLT (R112). Core instruction SLT writes 1 to g[D] if g[A] < g[B] signed. -/
  | slt (d c : Nat)
  /-- ADDI (R112). Core instruction ADDI writes g[A] + IMM to g[D]. -/
  | addi (d c : Nat)
  /-- LI (R112). Core instruction LI writes the sign-extended immediate to g[D]. -/
  | li (d c : Nat)
  /-- LIH (R112). Core instruction LIH places IMM in the upper 32 bits of g[D]. -/
  | lih (d c : Nat)
  /-- LD (R95). Core load from scratchpad or ground memory, checked against the address map and partition. -/
  | ld (d c : Nat)
  /-- ST (R95). Core store of 1 to 8 bytes to a mapped, aligned address. -/
  | st (d c : Nat)
  /-- GAT (R145). Core 8-byte ground-memory atomic returning the old value in g[D]. -/
  | gat (d c : Nat)
  /-- SLD (R114). Loads a 32-byte stream descriptor into a stream slot. -/
  | sld (d c : Nat)
  /-- SBASE (R114). Sets the BASE of a stream slot. -/
  | sbase (d c : Nat)
  /-- CVLD (R117). Loads a 32-byte conversion descriptor into a conversion slot. -/
  | cvld (d c : Nat)
  /-- FENCE (R99). Stalls issue until the named units have completed all earlier writes. -/
  | fence (d c : Nat)
  /-- PROG (R109). Sets the job's progress position. -/
  | prog (d c : Nat)
  /-- BEQ (R113). Branches relative to PC when g[A] equals g[B]. -/
  | beq (d c : Nat)
  /-- BNE (R113). Branches when g[A] differs from g[B]. -/
  | bne (d c : Nat)
  /-- BLT (R113). Branches when g[A] < g[B] signed. -/
  | blt (d c : Nat)
  /-- BGE (R113). Branches when g[A] ≥ g[B] signed. -/
  | bge (d c : Nat)
  /-- BLTU (R113). Branches when g[A] < g[B] unsigned. -/
  | bltu (d c : Nat)
  /-- JAL (R113). Writes PC + 1 to g[D] and jumps relative to PC. -/
  | jal (d c : Nat)
  /-- JR (R113). Jumps to g[A] + IMM, ending the job with BAD_INSN when outside the image. -/
  | jr (d c : Nat)
  /-- HALT (R105). Waits for the core's units and DMA to go idle before the job may commit. -/
  | halt (d c : Nat)
  /-- WLD (R119). Array weight load from a weight stream, queued on the array unit. -/
  | wld (d c : Nat)
  /-- PASS (R120). Array pass streaming activation vectors against the loaded weights. -/
  | pass (d c : Nat)
  /-- CVT (R121). Output conversion of a range of accumulator rows through a conversion slot. -/
  | cvt (d c : Nat)
  /-- ACSV (R92). Saves accumulator rows at full width as 12-byte words. -/
  | acsv (d c : Nat)
  /-- ACRS (R93). Restores accumulator rows from 12-byte words in update order. -/
  | acrs (d c : Nat)
  /-- VOP (R123). Vector unary or binary function over N elements. -/
  | vop (d c : Nat)
  /-- VFMA (R124). Vector fused multiply-add with a single rounding. -/
  | vfma (d c : Nat)
  /-- VRED (R125). Vector reduction in the fixed 64-lane order into g[D]. -/
  | vred (d c : Nat)
  /-- VKEEP (R126). Vector compare and compact, writing passing records and their count. -/
  | vkeep (d c : Nat)
  /-- KARV (R130). Barrier arrive, taking effect once earlier writes complete. -/
  | karv (d c : Nat)
  /-- KWAIT (R390). Stalls until a barrier generation is released or times out. -/
  | kwait (d c : Nat)
  /-- KSIG (R130). Adds an amount to a semaphore once earlier writes complete. -/
  | ksig (d c : Nat)
  /-- KTAKE (R391). Queues at a semaphore until its amount can be taken. -/
  | ktake (d c : Nat)
  /-- DMA (R132). Core hands a copy of up to 16 MiB to a DMA mover under a tag. -/
  | dma (d c : Nat)
  /-- DMAW (R132). Stalls until no DMA request of the tag is outstanding. -/
  | dmaw (d c : Nat)
  /-- ENG (R133). Copies a 64-byte record and holds it as a post until commit. -/
  | eng (d c : Nat)
  /-- CTRD (R134). Reads a cycle or programmable counter into g[D], subject to PERM. -/
  | ctrd (d c : Nat)
  /-- ARRIVAL_TAKES_EFFECT (R131). A deferred KARV or KSIG reaches its knot after the job's earlier writes complete. -/
  | arrivalTakesEffect (d c : Nat)
  /-- KNOT_WAIT_TIMEOUT (R130). A KWAIT or KTAKE gives up after g[GT] cycles and writes 1. -/
  | knotWaitTimeout (d c : Nat)
  /-- ARRAY_PORT_CYCLE (R58). The array operand port delivers one activation vector or weight row. -/
  | arrayPortCycle (d c : Nat)
  /-- ACC_UPDATE (R79). A column sum is folded into an accumulator word with window rise and stochastic rounding. -/
  | accUpdate (d c : Nat) (mismatch : Bool)
  /-- VECTOR_INSTRUCTION_DONE (R128). A vector instruction writes its last result and the next one may start. -/
  | vectorInstructionDone (d c : Nat)
  /-- JOB_START (R103). The device prepares the fixed start state and issues the job's first instruction. -/
  | jobStart (d c : Nat)
  /-- JOB_COMMIT (R105). After HALT the posts are accepted and the job's completion record is written. -/
  | jobCommit (d c : Nat)
  /-- JOB_TIMEOUT (R108). A job running past TIME_LIMIT ends with TIMEOUT. -/
  | jobTimeout (d c : Nat)
  /- Descriptors
  `q` is the submission ring, `desc` the 64 bytes of its slot (byte 0 lowest) and `ext` what the
  board memory holds where the operation reads it. -/
  /-- NOP_DESCRIPTOR (R364). A NOP descriptor completes with OK. -/
  | nopDescriptor (q : Nat) (desc : Word512) (ext : List Host.Cell)
  /-- CORE_JOB (R102). A core job descriptor is checked and queued for its logical core. -/
  | coreJob (q : Nat) (desc : Word512) (ext : List Host.Cell)
  /-- ENGINE_OPERATION (R177). An engine-operation descriptor copies its request record and submits it. -/
  | engineOperation (q : Nat) (desc : Word512) (ext : List Host.Cell)
  /-- DMA_DESCRIPTOR (R175). A DMA descriptor runs on the movers of the die owning SRC or DST. -/
  | dmaDescriptor (q : Nat) (desc : Word512) (ext : List Host.Cell)
  /-- CONTEXT_OPEN (R180). A context-open descriptor copies and checks the context block and seeks admission. -/
  | contextOpen (q : Nat) (desc : Word512) (ext : List Host.Cell)
  /-- CONTEXT_CLOSE (R218). A context-close descriptor ends the named context at its package. -/
  | contextClose (q : Nat) (desc : Word512) (ext : List Host.Cell)
  /-- TABLE_UPDATE (R371). Writes staged fabric table entries on every die without activation. -/
  | tableUpdate (q : Nat) (desc : Word512) (ext : List Host.Cell)
  /-- TABLE_UPDATE_ACTIVATE (R371). Writes staged entries and then runs the four-stage drain. -/
  | tableUpdateActivate (q : Nat) (desc : Word512) (ext : List Host.Cell)
  /-- MAINT_RECAL (R341). Maintenance descriptor requesting a port recalibration. -/
  | maintRecal (q : Nat) (desc : Word512) (ext : List Host.Cell)
  /-- MAINT_STACK_SCRUB (R414). Maintenance descriptor requesting a stack scrub of a range. -/
  | maintStackScrub (q : Nat) (desc : Word512) (ext : List Host.Cell)
  /-- MAINT_STACK_REPAIR (R447). Maintenance descriptor requesting a stack repair at an offset. -/
  | maintStackRepair (q : Nat) (desc : Word512) (ext : List Host.Cell)
  /-- MAINT_CORE (R428). Maintenance descriptor requesting a core test or spare substitution. -/
  | maintCore (q : Nat) (desc : Word512) (ext : List Host.Cell)
  /-- MAINT_GND (R447). Maintenance descriptor requesting a ground-bank repair. -/
  | maintGnd (q : Nat) (desc : Word512) (ext : List Host.Cell)
  /-- MAINT_SELFTEST (R447). Maintenance descriptor requesting a unit self-test. -/
  | maintSelftest (q : Nat) (desc : Word512) (ext : List Host.Cell)
  /-- GATE_LIST (R309). A gate-list descriptor is checked and its list staged for a port. -/
  | gateList (q : Nat) (desc : Word512) (ext : List Host.Cell)
  /-- FW_STAGE (R481). Writes a firmware image to a slot and checks it under the boot rules. -/
  | fwStage (q : Nat) (desc : Word512) (ext : List Host.Cell)
  /-- FW_SELECT (R481). Makes a valid slot preferred from the next reset. -/
  | fwSelect (q : Nat) (desc : Word512) (ext : List Host.Cell)
  /-- FW_COMMIT_SVN (R480). Raises the anti-rollback counter to the running SVN and invalidates older slots. -/
  | fwCommitSvn (q : Nat) (desc : Word512) (ext : List Host.Cell)
  /-- FW_ATTEST (R478). Writes a doubly signed attestation report at ADDR. -/
  | fwAttest (q : Nat) (desc : Word512) (ext : List Host.Cell)
  /-- FW_READ_CERT (R481). Writes an identity certificate at ADDR. -/
  | fwReadCert (q : Nat) (desc : Word512) (ext : List Host.Cell)
  /-- PORT_ADMIT (R337). Admits a LINK_UP port, reserving its buffers and advertising credit. -/
  | portAdmit (q : Nat) (desc : Word512) (ext : List Host.Cell)
  /-- PORT_WITHDRAW (R337). Returns an ACTIVE port to LINK_UP. -/
  | portWithdraw (q : Nat) (desc : Word512) (ext : List Host.Cell)
  /-- MODULE_READ (R372). Reads bytes of a cage module's CMIS memory into a buffer. -/
  | moduleRead (q : Nat) (desc : Word512) (ext : List Host.Cell)
  /-- MODULE_WRITE (R372). Writes bytes of a cage module's CMIS memory from a buffer. -/
  | moduleWrite (q : Nat) (desc : Word512) (ext : List Host.Cell)
  /-- ABORT (R369). An abort descriptor settles the fate of its target at acceptance. -/
  | abort (q : Nat) (desc : Word512) (ext : List Host.Cell)
  /- Rings and registers -/
  /-- SQ_TAIL_WRITE (R361). A doorbell write of a submission ring's tail submits descriptors. -/
  | sqTailWrite (q : Nat) (v : Word32)
  /-- CQ_HEAD_WRITE (R366). A doorbell write of a completion or event ring's head frees slots and re-arms interrupts. -/
  | cqHeadWrite (ring : Nat) (v : Word32)
  /-- DESCRIPTOR_WAIT_TIMEOUT (R363). A descriptor waiting 1 ms at its ring head posts RING_ERROR once. -/
  | descriptorWaitTimeout (q : Nat) (desc : Word512) (ext : List Host.Cell)
  /-- COMPLETION_RECORD_WRITE (R365). An operation waiting at its commit point writes its record when the ring has room. -/
  | completionRecordWrite (cq : Nat)
  /-- INTERRUPT_COALESCE_TIMEOUT (R366). The oldest unsignalled record has waited COAL_T and the ring interrupts. -/
  | interruptCoalesceTimeout (ring : Nat)
  /-- PROGRESS_ENTRY_WRITE (R367). A progress entry is rewritten at least every 1 ms. -/
  | progressEntryWrite (q idx pos : Nat)
  /-- RING_ENABLE (R376). Writing EN = 1 starts a ring with head and tail at 0, checking its versions. -/
  | ringEnable (kind ring : Nat) (v : Word32)
  /-- RING_DISABLE (R376). Writing EN = 0 stops a ring accepting; it drains to DISABLED. -/
  | ringDisable (kind ring : Nat) (v : Word32)
  /-- RING_SETUP_LOCK (R358). Writing LOCK sets every setup lock of every die. -/
  | ringSetupLock (v : Word32)
  /-- REGISTER_WRITE (R3). A companion write to a register field with no behaviour of its own. -/
  | registerWrite (addr : Nat) (v : Word32)
  /-- COMPANION_MEMORY_ACCESS (R353). A companion read or write of ground memory or a stack over the Itgil link. -/
  | companionMemoryAccess (write : Bool) (addr n : Nat) (data : List Byte)
  /-- COMPANION_ATOMIC (R353). A companion atomic request on package memory. -/
  | companionAtomic (addr aop y : Nat)
  /-- ITG_SWITCH (R355). Writing ITG_CTL.SWITCH moves to the other Itgil link if up. -/
  | itgSwitch (v : Word32)
  /-- ITG_LINK_DOWN (R355). The active Itgil link has been down 20 µs and the device fails over. -/
  | itgLinkDown
  /- Engines
  `d` is the die, `e` or `u` the engine of it. -/
  /-- ENGINE_REQUEST_ACCEPT (R152). An engine accepts a waiting request when it has a free record. -/
  | engineRequestAccept (d e : Nat)
  /-- POOL (R161). A pooling request gathers, sums exactly and converts bags of rows. -/
  | pool (d : Nat) (ext : List Host.Cell)
  /-- TOPK_OPEN (R165). Opens a top-k merge set. -/
  | topkOpen (d : Nat)
  /-- TOPK_ADD (R166). Merges one ranked list into a top-k set indivisibly. -/
  | topkAdd (d : Nat) (ext : List Host.Cell)
  /-- TOPK_CLOSE (R168). Closes a top-k set before all lists arrived. -/
  | topkClose (d : Nat)
  /-- CONVERT (R169). A codec request converts N elements between formats. -/
  | convert (d u : Nat) (ext : List Host.Cell)
  /-- HASH (R172). A digest request hashes N elements into a 128-bit digest. -/
  | hash (d : Nat) (ext : List Host.Cell)
  /-- SUM (R172). A digest request sums N digests modulo 2^128. -/
  | sum (d : Nat) (ext : List Host.Cell)
  /-- ENGINE_REQUEST_COMMIT (R151). An engine request commits and performs its selected completion actions. -/
  | engineRequestCommit (d u : Nat)
  /-- CHAINED_JOB_WAIT_TIMEOUT (R151). A chained job waiting 1 ms for a disabled ring posts RING_ERROR. -/
  | chainedJobWaitTimeout (d : Nat)
  /-- DMA_REQUEST_COMPLETE (R174). Every write of a DMA request is visible and the request completes. -/
  | dmaRequestComplete (d id : Nat) (ext : List Host.Cell)
  /-- HANDLE_CACHE_FETCH (R298). A handle cache below 64 fetches 128 handles from its pool's ring. -/
  | handleCacheFetch (d p g : Nat)
  /- Fabric
  `d` is the die and `l` the port (by its lowest lane) an event happens at. -/
  /-- PACKET_HEADER_ARRIVAL (R293). A packet header arrives and the ingress allocates its buffer. -/
  | packetHeaderArrival (d l : Nat) (hdr : BitVec 256)
  /-- PACKET_RECEIVED (R230). A whole packet is checked, granted, policed and routed. -/
  | packetReceived (d l : Nat) (rest : List Byte) (fecOk : Bool)
  /-- BRIDGE_HOP (R294). A packet is stored on the receiving die after a bridge transfer. -/
  | bridgeHop (d b : Nat)
  /-- PACKET_TRANSMIT (R306). An output scheduler selects and starts a queued packet. -/
  | packetTransmit (d l : Nat)
  /-- RESIDENCE_EXPIRY (R296). A packet reaching RESIDE_US is removed and its buffer freed. -/
  | residenceExpiry (d o i : Nat)
  /-- ESC_WAIT_EXPIRY (R274). A waiting adaptive packet moves to its escape VC. -/
  | escWaitExpiry (d i : Nat)
  /-- WARM_GROUP_END (R275). An output group completes warming after 4,096 decisions and 100 µs. -/
  | warmGroupEnd (g : Nat)
  /-- DEPTH_SAMPLE (R313). Every queue is sampled, histories updated and histograms counted. -/
  | depthSample (d : Nat)
  /-- WRITE (R255). An accepted WRITE packet lands and adds to its message's finish entry. -/
  | write (d : Nat)
  /-- READ (R234). A READ request is served and answered with READ_DATA. -/
  | read (d : Nat)
  /-- ATOMIC (R145). An ATOMIC request executes at a bank or stack base die. -/
  | atomic (d : Nat)
  /-- ENGINE (R152). An ENGINE request packet is submitted to its executing die's engine. -/
  | engine (d : Nat)
  /-- READ_DATA (R518). A read response is written at its reply address if it matches a request. -/
  | readData (d : Nat)
  /-- ATOMIC_DATA (R518). An atomic response returns the old value to the requester. -/
  | atomicData (d : Nat)
  /-- ENG_DONE (R518). An engine done word returns to the requester. -/
  | engDone (d : Nat)
  /-- REPLY_WRITE (R518). Engine output data lands at its reply address. -/
  | replyWrite (d : Nat)
  /-- ACK (R245). An acknowledgement frees the source's replay records. -/
  | ack (d : Nat)
  /-- RESEND (R247). A re-send request makes the source re-send by message, from a SEQ, or restart. -/
  | resend (d : Nat)
  /-- MGMT_MSG (R233). A steward-to-steward firmware message is consumed. -/
  | mgmtMsg (d : Nat)
  /-- ACK_DELAY_EXPIRY (R245). A destination sends the ACK owed for accepted packets. -/
  | ackDelayExpiry (d agent chip : Nat)
  /-- RTO_EXPIRY (R246). An unacknowledged packet is re-sent, or after RETRY abandoned with NO_ACK. -/
  | rtoExpiry (d agent chip seq : Nat)
  /-- FIN_WAIT_EXPIRY (R257). A parked incomplete message sends RESEND MESSAGE or is freed. -/
  | finWaitExpiry (d src tag : Nat)
  /-- SEQUENCE_HOLDOFF_EXPIRY (R244). 3 ms after reset the dies may send sequenced packets. -/
  | sequenceHoldoffExpiry
  /-- FAB_SELF_WRITE (R516). Setting FAB_SELF.VALID releases work waiting to send packets. -/
  | fabSelfWrite (d : Nat) (v : Word32)
  /- Collectives, knots and time -/
  /-- DATA (R197). A contribution piece is staged and, when complete, counted and added once. -/
  | data (d poison : Nat)
  /-- PRICK (R194). Pricking bytes are counted and, at NC ranks, the chunk's windows fixed. -/
  | prick (d poison : Nat)
  /-- RESULT (R209). A result packet is written to members and replicated along the tree. -/
  | result (d : Nat)
  /-- WINDOW (R196). A window notice is delivered to contributors and the local contribution. -/
  | window (d : Nat)
  /-- RECONTRIB (R200). A re-contribute request makes the named ranks send again. -/
  | recontrib (d : Nat)
  /-- DELIVER (R209). Result bytes are written into a member endpoint. -/
  | deliver (d : Nat)
  /-- COLL_ACK (R249). A collective acknowledgement frees a collective replay record. -/
  | collAck (d : Nat)
  /-- CHUNK_RESULT_CONVERT (R207). A codec converts a full chunk to RFMT and the home sends its RESULT. -/
  | chunkResultConvert (d poison : Nat)
  /-- CONTEXT_ADMISSION_TRY (R204). The head of the admission queue is tried when collective memory is released. -/
  | contextAdmissionTry
  /-- ADMISSION_TIMEOUT (R204). A context queued ADM_MS completes with NO_ROOM. -/
  | admissionTimeout (id : Nat)
  /-- LOCAL_CONTRIBUTION_START (R215). A pipeline takes LOCAL_KNOT and contributes the local vector. -/
  | localContributionStart (d : Nat)
  /-- CONTEXT_COMMIT (R216). All chunks done: the context's completion record is written and resources freed. -/
  | contextCommit
  /-- CONTEXT_LIMIT_EXPIRY (R219). A context open LIMIT_MS ends with TIMEOUT. -/
  | contextLimitExpiry (id gen : Nat)
  /-- ARRIVE (R394). A fabric knot's home counts one package's arrival or re-answers it. -/
  | arrive (d : Nat)
  /-- RELEASE (R395). A package arms or performs the release of a fabric knot generation. -/
  | release (d : Nat)
  /-- ARRIVE_REPEAT (R394). A package without RELEASE repeats its ARRIVE every 2 µs. -/
  | arriveRepeat (k : Nat)
  /-- TIMED_RELEASE (R395). The counter reaches T and a timed barrier's waiters are released. -/
  | timedRelease (d k : Nat)
  /-- KNOT_CFG_WRITE (R397). A taken KNOT_CFG write resets the knot and returns 1 to its waiters. -/
  | knotCfgWrite (d k : Nat) (v : Word32)
  /-- SYNC_TIME (R385). A sync flit from the parent port yields a time measurement. -/
  | syncTime (d : Nat)
  /-- SYNC_TIME_SEND (R385). Every 1 µs a SYNC_TIME is sent on every ACTIVE trunk port. -/
  | syncTimeSend
  /-- DELAY_REQ (R384). A trunk port answers a DELAY_REQ with a DELAY_RSP. -/
  | delayReq (d : Nat)
  /-- DELAY_REQ_SEND (R384). Every 10 µs a DELAY_REQ is sent on every ACTIVE trunk port. -/
  | delayReqSend
  /-- DELAY_RSP (R384). A response updates the port's mean link delay. -/
  | delayRsp (d : Nat)
  /-- PTP_MESSAGE (R382). A PTP frame on the management port is processed as a slave-only clock. -/
  | ptpMessage (transport : Nat) (msg : List Byte)
  /-- MEASUREMENT_TIMEOUT (R380). No measurement for 1 s or 100 µs moves LOCKED to HOLDOVER. -/
  | measurementTimeout
  /-- HOLD_S_EXPIRY (R380). HOLDOVER lasting HOLD_S moves to ACQUIRE. -/
  | holdSExpiry
  /-- TIME_CFG_SRC_WRITE (R379). A write of TIME_CFG.SRC selects the time source and moves the state. -/
  | timeCfgSrcWrite (v : Word32)
  /-- TIME_NOW_READ (R405). A read of TIME_NOWLO latches the high word. -/
  | timeNowRead (d : Nat)
  /-- LOCKSTEP_ORPHAN_TIMEOUT (R403). A log record unmatched within WAIT_MS counts as an orphan. -/
  | lockstepOrphanTimeout
  /-- GATE_TAKEOVER (R311). The counter reaches START and the staged gate list takes over. -/
  | gateTakeover (d l : Nat)
  /-- GATE_ENTRY_CHANGE (R311). A gate-list entry ends and the next entry's open queues apply. -/
  | gateEntryChange (d l : Nat)
  /- Hoop, drain -/
  /-- HOOP_GRANT (R370). The head of the hoop queue is granted when conflicting hoops are released. -/
  | hoopGrant
  /-- HOOP_ACTIVITY_COMMIT (R370). A hoop activity commits and releases its hoops. -/
  | hoopActivityCommit (act d : Nat) (found : List Nat) (ext : List Host.Cell)
  /-- CORE_TEST_COMPLETE (R428). A core test ends with return, column remap, spare substitution or retirement. -/
  | coreTestComplete (d find arr col row : Nat)
  /-- DRAIN_STOP_COMPLETE (R286). Every entry point has stopped; stage 2 begins. -/
  | drainStopComplete
  /-- DRAIN_WAIT_COMPLETE (R288). FAB_INFLIGHT reaches zero and stage 2 ends. -/
  | drainWaitComplete
  /-- DRAIN_COMMIT (R290). Held packets are routed, admission reopens and the drain commits. -/
  | drainCommit
  /- Ports
  `i` is a lane, `l` a port by its lowest lane, `o` an octet. -/
  /-- CODEWORD_RECEIVED (R321). A lane decodes one RS(544,514) codeword with its control words and data.
  Its bits as they arrive, bit 0 the first: the 7 control words, the 625 data bytes, the 30 parity symbols. -/
  | codewordReceived (d i : Nat) (ctl : BitVec 140) (data : BitVec 5000) (par : BitVec 300)
  /-- CREDIT (R515). A CREDIT control word returns cumulative units for a buffer. -/
  | credit (d l b cnt : Nat)
  /-- ADVERT (R515). An ADVERT control word replaces the advertised units for a buffer. -/
  | advert (d l b units : Nat)
  /-- STATE (R322). A STATE control word reports the far port state and DRAINED. -/
  | state (d l st : Nat) (drained : Bool)
  /-- CREDIT_REPEAT (R325). Each buffer's current credit count is repeated at least every 10 µs. -/
  | creditRepeat (d l : Nat)
  /-- ADVERT_REPEAT (R336). Each ADVERT is repeated at least every 100 µs. -/
  | advertRepeat (d l : Nat)
  /-- LANE_SIGNAL_DETECT (R328). A lane detects signal without a module and the port starts training. -/
  | laneSignalDetect (d i : Nat) (long : Bool)
  /-- TRAINING_FRAME (R329). A training frame's control field adjusts coefficients and status. `c` is the
  field, `inv` says that its marker is inverted; `ask` holds what the lane's receiver has it send: bits 9 to 0 and 16 of Table 11-5. -/
  | trainingFrame (d i : Nat) (c : BitVec 64) (inv : Bool) (ask : Nat)
  /-- TRAIN_MS_EXPIRY (R331). Lanes not in codewords after TRAIN_MS fail for this bring-up. -/
  | trainMsExpiry (d l : Nat)
  /-- HELLO_FRAME (R332). A hello frame is received and, at completion, width, version and cabling are settled. -/
  | helloFrame (d i : Nat) (bs : List Byte)
  /-- HELLO_TIMEOUT (R332). A port still in HELLO 1 ms after training restarts bring-up. -/
  | helloTimeout (d l : Nat)
  /-- LOSS_OF_SIGNAL (R340). A lane in use loses signal for 100 ns. -/
  | lossOfSignal (d i : Nat)
  /-- FAULT_ORDERED_SET (R436). Two fault ordered sets in a row take the port down. -/
  | faultOrderedSet (d i : Nat)
  /-- PRESENCE_DEBOUNCED (R339). PRS_N held present 10 ms moves EMPTY to MODULE. -/
  | presenceDebounced (d o : Nat)
  /-- UNPLUG (R339). Loss of presence moves every port of the cage to EMPTY. -/
  | unplug (d o : Nat)
  /-- CMIS_POLL (R348). The steward polls module flags and readiness every 100 ms. `app` is the
  application that a module with managed memory advertises at 200 Gbit/s a lane, none for one whose memory is flat. -/
  | cmisPoll (d o : Nat) (ack : Bool) (app : Option Nat) (ready : Bool) (modst alarms : Nat)
  /-- MODULE_READY_TIMEOUT (R348). A managed module not ready 5 s after presence is treated as ready. -/
  | moduleReadyTimeout (d o : Nat)
  /-- BUTTON_RELEASE (R345). A released press is a short press, a long press requesting removal, or bounce. -/
  | buttonRelease (d o ms : Nat)
  /-- BUTTON_STUCK (R344). BTN_N low for more than 10 s sets BTN_STUCK. -/
  | buttonStuck (d o : Nat)
  /-- SIDEBAND_TEST (R344). The once-a-second tests of the cage wires set CAGE_STAT faults. -/
  | sidebandTest (d o : Nat) (found : NSet)
  /-- REMOVAL_COMPLETE (R346). A REMOVING port, drained or after RESIDE_US, stops signalling and enters SAFE. -/
  | removalComplete (d l : Nat) (late : Bool)
  /-- PORT_CFG_WRITE (R349). A write of MODE or ROLE takes every port of the octet down and restarts them. -/
  | portCfgWrite (d o : Nat) (v : Word32)
  /-- LANE_CTL_WRITE (R342). A LANE_CTL write sets the test mode and clears LANE_PRBSE. -/
  | laneCtlWrite (d i : Nat) (v : Word32)
  /-- SW_POLRATE_WRITE (R307). A write setting policer EN refills its bucket. -/
  | swPolrateWrite (d l c : Nat) (v : Word32)
  /-- SW_HIST_BASE_WRITE (R314). A histogram area outside the user area leaves HIST_EN off and posts an event. -/
  | swHistBaseWrite (d : Nat) (v : Word32)
  /-- TIME_DLOG_WRITE (R402). A digest log outside the user area leaves EN off and posts a TIME event. -/
  | timeDlogWrite (v : Word32)
  /-- PMC_LOW_WORD_READ (R486). A read of a counter's low word latches its high word. -/
  | pmcLowWordRead (d off : Nat)
  /-- PMC_COUNTER_WRITE (R487). A counter write sets its value and overrides that cycle's add. -/
  | pmcCounterWrite (d off : Nat) (v : Word32)
  /-- PMC_PWIN_WRITE (R495). A PMC_PWIN write clears TX, RX and PEAK. -/
  | pmcPwinWrite (d l : Nat) (v : Word32)
  /-- BANDWIDTH_WINDOW_END (R495). A port's bandwidth window ends and TX, RX and PEAK are latched. -/
  | bandwidthWindowEnd (d l : Nat)
  /- Faults, power, boot and test -/
  /-- GROUND_SCRUB (R143). The steward reads and corrects ground memory lines and replaces weak rows. -/
  | groundScrub (d ces : Nat) (ues rows turned : List Nat)
  /-- STACK_PATROL_SCRUB (R414). The base die reads and corrects stack lines. -/
  | stackPatrolScrub (d ces : Nat) (ues rows tested cols chans lines turned : List Nat)
  /-- STACK_REFRESH (R415). The base die refreshes a row, holding its bank 350 ns. -/
  | stackRefresh (d : Nat)
  /-- STACK_TEMPERATURE (R416). A stack layer crosses 85, 92 or 95 °C, changing refresh rate or throttling. -/
  | stackTemperature (d t : Nat)
  /-- STACK_CHANNEL_COPY_COMPLETE (R419). The copy to the spare channel completes and it stands in alone. -/
  | stackChannelCopyComplete (d : Nat) (bad : List Nat)
  /-- STACK_ZERO_FILL_COMPLETE (R418). A stack finishes writing zeros after power-on and may serve accesses. -/
  | stackZeroFillComplete (d : Nat)
  /-- KEEP_REPAIR_RECORD_WRITE (R441). The lead steward adds an in-service change to the repair record. -/
  | keepRepairRecordWrite
  /-- KEEP_PRESET_WRITE (R338). The lead steward writes changed lane coefficients to the keep. -/
  | keepPresetWrite (d l : Nat)
  /-- UNIT_FAULT_C2 (R425). A unit fault fences the unit and replays its work. -/
  | unitFaultC2 (d code idx arg : Nat)
  /-- BRIDGE_TRANSFER_FAILURE (R429). A bridge wire fails repeatedly and is spared, its group dropped or the bridge failed. -/
  | bridgeTransferFailure (d b g w how : Nat)
  /-- DIE_FAULT_C3 (R430). A die enters selvage mode or is fenced within 10 µs. -/
  | dieFaultC3 (d code : Nat)
  /-- STEWARD_HEARTBEAT_LOST (R422). A steward's heartbeat is missing 10 ms and its die is fenced. -/
  | stewardHeartbeatLost (d : Nat)
  /-- PACKAGE_FAULT_C4 (R435). A C4 fault puts the package into the safe state within 2 µs. -/
  | packageFaultC4 (code : Nat)
  /-- RAIL_OUT_OF_RANGE (R452). A monitored rail leaves its thresholds for 1 µs: a C4 fault. -/
  | railOutOfRange (rail : Nat)
  /-- REF25_ABSENT (R422). The 25 MHz reference absent for 1 µs: a C4 fault. -/
  | ref25Absent
  /-- JUNCTION_TEMPERATURE_SAMPLE (R463). A die samples its junction temperature and adjusts thermal duty or trips. -/
  | junctionTemperatureSample (d tj : Nat)
  /-- POWER_CAP_STEP (R462). Every 100 µs the capping duty is adjusted from the 1 ms power average. -/
  | powerCapStep (watts : Nat)
  /-- THROT_N_CHANGE (R464). THROT_N going low holds every die's duty at 4 or less. -/
  | throtNChange (low : Bool)
  /-- AVS_SETPOINT_STEP (R453). A die moves its core rail setpoint one 5 mV step. -/
  | avsSetpointStep (d : Nat) (rise ack : Bool)
  /-- CORE_IDLE_SLEEP (R457). A core idle CORE_US goes to sleep. -/
  | coreIdleSleep (d c : Nat)
  /-- ENGINE_IDLE_SLEEP (R457). An engine idle ENG_US goes to sleep. -/
  | engineIdleSleep (d u : Nat)
  /-- PWR_CTL_STANDBY (R459). A write of TARGET 1 requests Standby, accepted or refused. -/
  | pwrCtlStandby (woken : Bool)
  /-- PWR_CTL_READY (R460). A write of TARGET 2 leaves Standby and raises the enables. -/
  | pwrCtlReady (woken : Bool)
  /-- WAKE_N_ASSERT (R460). WAKE_N low 1 µs with WAKE_EN leaves Standby. -/
  | wakeNAssert
  /-- CORE_RAILS_IN_RANGE (R460). After a wake the re-enabled rails reach range and the package enters Ready. -/
  | coreRailsInRange
  /-- PORST_N_RELEASE (R454). Release of PORST_N after 10 µs low causes a package reset and boot. -/
  | porstNRelease (low : Bool)
  /-- SYSRST_N_RELEASE (R454). Release of SYSRST_N after 10 µs low causes a warm package reset. -/
  | sysrstNRelease (low : Bool)
  /-- POWER_OFF (R438). VDD_AON falls below the power-off threshold and the package is Off. -/
  | powerOff
  /-- FIRMWARE_VERIFY (R473). The boot ROMs verify the preferred or other slot and start ALIVE. -/
  | firmwareVerify (ids bad : List Nat) (stA stB : Nat)
  /-- BOOT_CHECKS_COMPLETE (R467). A die finishes its boot checks, repairing or fencing units. -/
  | bootChecksComplete (d : Nat) (found : List BootFind)
  /-- BOOT_COMPLETE (R466). Fast clocks and links are up; CORE_AVAIL and BOOTED are set and the package is Ready. -/
  | bootComplete (width0 width1 : Nat)
  /-- TEST_LOGIC_RESET (R507). The test access port resets and selects IDCODE. -/
  | testLogicReset
  /-- IDCODE (R508). Test instruction reading the package's IDCODE. -/
  | idcode
  /-- SAMPLE_PRELOAD (R507). Test instruction sampling or preloading the boundary register. -/
  | samplePreload (pins v : Nat)
  /-- EXTEST (R509). Boundary test drive, effective only while reset is held. -/
  | extest (pins v low : Nat)
  /-- EXTEST_PULSE (R509). AC-coupled pulse boundary test, effective only while reset is held. -/
  | extestPulse (pins v low : Nat)
  /-- EXTEST_TRAIN (R509). AC-coupled pulse-train boundary test, effective only while reset is held. -/
  | extestTrain (pins v low : Nat)
  /-- HIGHZ (R509). Places outputs high-impedance while reset is held. -/
  | highz (low : Nat)
  /-- CLAMP (R509). Holds boundary outputs while bypassing, only while reset is held. -/
  | clamp (low : Nat)
  /-- BYPASS (R507). Test instruction selecting the one-bit bypass register. -/
  | bypass (code : Nat)
  /-- POWER_UP (R505). The board applies power; as VDD_IO reaches 90% the package drives CORE_EN and LANE_EN high within 100 µs and its outputs leave high impedance. -/
  | powerUp
  /-- PRBS_CHECKER_LOCK (R343). In a lane test mode the PRBS checker gains lock after 256 correctly predicted bits, or loses it after 256 errors in 1,024 bits.
  The lane runs for `n` symbols; `rx` holds the levels that come from the line, 2 bits each, the first lowest. -/
  | prbsCheckerLock (d i n rx : Nat)
  /-- BUTTON_STUCK_CLEAR (R344). BTN_STUCK clears once the button line has been high for 1 s. -/
  | buttonStuckClear (d o : Nat)
  /-- STANDBY_ENTRY_COMPLETE (R459). An accepted Standby request finishes within 1 ms: transmitters and fast clocks stop, stacks self-refresh and CORE_EN and LANE_EN fall. -/
  | standbyEntryComplete
  /-- MODULE_ACCESS_START (R373). The steward begins an accepted module access between its own CMIS polls, after which an abort no longer stops it. -/
  | moduleAccessStart (d octet : Nat) (ack : Bool) (bytes : List Byte) (ext : List Host.Cell)
  deriving DecidableEq, Repr

end Sys2Proof
end

