-- ==== Sys2Proof/Decode.lean ====
section
/-! DEFINITION. Commands from words: the command table gives no row any bits, so no word spells a command (log entry 27). -/

namespace Sys2Proof

/-- The command that a word of nbits bits spells: none, as no row of the table has bits. -/
def decodeTableWord (_nbits _w : Nat) : Option Instr := none

end Sys2Proof
end

