-- ==== Sys2Proof/Machine/Bits.lean ====
section
/-! DEFINITION. Bit fields, sign extension, byte order, saturating counts, tables and sets. -/

namespace Sys2Proof.Machine

/-- Bits hi down to lo of a number. -/
def nbits (w hi lo : Nat) : Nat := (w >>> lo) % 2 ^ (hi + 1 - lo)

/-- Bits hi down to lo of a bit vector, as a number. -/
def fld {n : Nat} (w : BitVec n) (hi lo : Nat) : Nat := nbits w.toNat hi lo

/-- Bit i of a bit vector. -/
def bit {n : Nat} (w : BitVec n) (i : Nat) : Bool := w.toNat.testBit i

/-- A number below 2^n read as two's complement. -/
def signed (n v : Nat) : Int := if v % 2 ^ n < 2 ^ (n - 1) then (v % 2 ^ n : Nat) else ((v % 2 ^ n : Nat) : Int) - 2 ^ n

/-- 1 for true, 0 for false. -/
def b2n (b : Bool) : Nat := if b then 1 else 0

/-- A count that stops at its maximum. -/
def satInc (max v : Nat) : Nat := if v < max then v + 1 else v

/-- A sum that stops at its maximum. -/
def satAdd (max v n : Nat) : Nat := if v + n ≤ max then v + n else max

/-- The number that a list of bytes spells, first byte least significant (little-endian, R26, R136). -/
def leNat : List Byte → Nat
  | [] => 0
  | b :: bs => b.toNat + 256 * leNat bs

/-- n bytes of a number, least significant first. -/
def toLe : Nat → Nat → List Byte
  | 0, _ => []
  | n + 1, v => BitVec.ofNat 8 v :: toLe n (v / 256)

/-- A big-endian byte list of n bytes. -/
def toBe (n v : Nat) : List Byte := (toLe n v).reverse

/-- Position i of a list, or d where there is none. -/
def nth {α : Type} (l : List α) (i : Nat) (d : α) : α := (l[i]?).getD d

/-- A list with position i replaced (unchanged where there is no position i). -/
def setNth {α : Type} : List α → Nat → α → List α
  | [], _, _ => []
  | _ :: l, 0, v => v :: l
  | a :: l, i + 1, v => a :: setNth l i v

/-- The entry of a table, if listed. -/
def tfind {α : Type} : Tbl α → Nat → Option α
  | [], _ => none
  | (k, v) :: t, i => if k = i then some v else tfind t i

/-- The entry of a table, or d where none is listed. -/
def tget {α : Type} (t : Tbl α) (i : Nat) (d : α) : α := (tfind t i).getD d

/-- A table with one entry written; keys stay rising. -/
def tset {α : Type} : Tbl α → Nat → α → Tbl α
  | [], i, v => [(i, v)]
  | (k, w) :: t, i, v =>
    if i < k then (i, v) :: (k, w) :: t
    else if i = k then (i, v) :: t
    else (k, w) :: tset t i v

/-- A table with one entry removed. -/
def tdel {α : Type} : Tbl α → Nat → Tbl α
  | [], _ => []
  | (k, w) :: t, i => if k = i then t else (k, w) :: tdel t i

/-- A set with one member added; members stay rising. -/
def sadd : NSet → Nat → NSet
  | [], i => [i]
  | k :: t, i => if i < k then i :: k :: t else if i = k then k :: t else k :: sadd t i

/-- A set with one member removed. -/
def sdel (s : NSet) (i : Nat) : NSet := s.filter (· != i)

/-- The largest k with 2^k ≤ num/den, for num and den positive (0 where num is 0). -/
def ratLog2 (num den : Nat) : Int :=
  let k : Int := (num.log2 : Int) - den.log2
  let ge : Bool := if 0 ≤ k then den * 2 ^ k.toNat ≤ num else den ≤ num * 2 ^ (-k).toNat
  if ge then k else k - 1

/-- The numbers 0 to n-1. -/
def upto (n : Nat) : List Nat := List.range n

/-- A fold over the numbers 0 to n-1. -/
def foldUpto {α : Type} (n : Nat) (a : α) (f : α → Nat → α) : α := (upto n).foldl f a

/-- Ceiling division. -/
def cdiv (a b : Nat) : Nat := (a + b - 1) / b

end Sys2Proof.Machine
end

