-- ==== Sys2Proof/Machine/Formats.lean ====
section
/-! DEFINITION. File 02: format codes, element packing, code values, conversion, block scales, couched blocks, digits. -/

namespace Sys2Proof.Machine

/-- R25, Table 2-1: the format a 5-bit code names; none for a reserved code. -/
def fmtOf (c : Nat) : Option Fmt :=
  match c with
  | 0 => some .binary32 | 1 => some .binary16 | 2 => some .bfloat16 | 3 => some .e4m3
  | 4 => some .e5m2 | 5 => some .e3m2 | 6 => some .e2m3 | 7 => some .fp4
  | 8 => some .int8 | 9 => some .int4 | 10 => some .int2 | 11 => some .t2
  | 12 => some .couched | 13 => some .filet | 14 => some .accWord | 15 => some .e8m0
  | _ => none

/-- Table 2-1, column "Array operand". -/
def fmtArray (f : Fmt) : Bool :=
  match f with
  | .binary32 | .binary16 | .filet | .accWord | .e8m0 => false
  | _ => true

/-- Table 2-1, column "Conversion output" (elements; the block scale is not an element format). -/
def fmtOut (f : Fmt) : Bool :=
  match f with
  | .filet | .accWord | .e8m0 => false
  | _ => true

/-- R33, R513: the formats that may be named with SCALED = 1. -/
def fmtScalable (f : Fmt) : Bool :=
  match f with
  | .e4m3 | .e5m2 | .e3m2 | .e2m3 | .fp4 | .int8 | .int4 | .int2 | .t2 => true
  | _ => false

/-- Table 2-1: the width of an element in bits (a couched element is counted with its block). -/
def fmtBits (f : Fmt) : Nat :=
  match f with
  | .binary32 => 32 | .binary16 => 16 | .bfloat16 => 16 | .e4m3 => 8 | .e5m2 => 8
  | .e3m2 => 6 | .e2m3 => 6 | .fp4 => 4 | .int8 => 8 | .int4 => 4 | .int2 => 2 | .t2 => 2
  | .couched => 4 | .filet => 64 | .accWord => 96 | .e8m0 => 8

/-- The floating formats' exponent bits, mantissa bits and bias; none for the others. -/
def fmtFloat (f : Fmt) : Option (Nat × Nat × Nat) :=
  match f with
  | .binary32 => some (8, 23, 127) | .binary16 => some (5, 10, 15) | .bfloat16 => some (8, 7, 127)
  | .e4m3 => some (4, 3, 7) | .e5m2 => some (5, 2, 15) | .e3m2 => some (3, 2, 3)
  | .e2m3 => some (2, 3, 1) | .fp4 => some (2, 1, 1)
  | _ => none

/-- Table 2-10: the largest finite code of a floating format, its sign off. -/
def fmtMaxCode (f : Fmt) : Nat :=
  match f with
  | .binary32 => 0x7F7FFFFF | .binary16 => 0x7BFF | .bfloat16 => 0x7F7F | .e4m3 => 0x7E
  | .e5m2 => 0x7B | .e3m2 => 0x1F | .e2m3 => 0x1F | .fp4 => 0x7
  | _ => 0

/-- Table 2-12: the canonical NaN code. -/
def fmtNan (f : Fmt) : Nat :=
  match f with
  | .binary32 => 0x7FC00000 | .binary16 => 0x7E00 | .bfloat16 => 0x7FC0 | .e4m3 => 0x7F | .e5m2 => 0x7E
  | _ => 0

/-- R44: the formats that follow IEEE 754 overflow for a value of OVFM. -/
def fmtIeee (f : Fmt) (ovfm : Bool) : Bool :=
  match f with
  | .binary32 | .binary16 | .bfloat16 => true
  | .e5m2 => ovfm
  | _ => false

/-- Conversion conditions, with the bit places of Table 4-11: INX 0, SAT 1, OVF 2, NAN 3, INF 4, DFL 5. -/
def cINX : Word32 := 1
def cSAT : Word32 := 2
def cOVF : Word32 := 4
def cNAN : Word32 := 8
def cINF : Word32 := 16
def cDFL : Word32 := 32

/-- A condition where b holds, else none. -/
def cIf (b : Bool) (c : Word32) : Word32 := if b then c else 0

/-! Exact values -/

/-- ± n × 2^e. -/
def vPow (neg : Bool) (n : Nat) (e : Int) : Val :=
  if 0 ≤ e then .fin neg (n * 2 ^ e.toNat) 1 else .fin neg n (2 ^ (-e).toNat)

/-- An integer as a value (zero is +0). -/
def vInt (i : Int) : Val := .fin (i < 0) i.natAbs 1

/-- A value times 2^e. -/
def vScale (v : Val) (e : Int) : Val :=
  match v with
  | .fin s n d => if 0 ≤ e then .fin s (n * 2 ^ e.toNat) d else .fin s n (d * 2 ^ (-e).toNat)
  | v => v

def vNeg (v : Val) : Val :=
  match v with
  | .nan => .nan
  | .inf s => .inf (!s)
  | .fin s n d => .fin (!s) n d

def vAbs (v : Val) : Val :=
  match v with
  | .nan => .nan
  | .inf _ => .inf false
  | .fin _ n d => .fin false n d

def vIsNan (v : Val) : Bool := v == .nan

def vIsInf (v : Val) : Bool :=
  match v with
  | .inf _ => true
  | _ => false

def vIsZero (v : Val) : Bool :=
  match v with
  | .fin _ n _ => n == 0
  | _ => false

/-- The signed numerator of a finite value. -/
def vNum (v : Val) : Int :=
  match v with
  | .fin s n _ => if s then -(n : Int) else n
  | _ => 0

def vDen (v : Val) : Nat :=
  match v with
  | .fin _ _ d => d
  | _ => 1

/-- A signed fraction as a value; a zero takes the sign given. -/
def vFrac (zneg : Bool) (num : Int) (den : Nat) : Val :=
  .fin (if num = 0 then zneg else num < 0) num.natAbs den

/-- Whether |a| < |b| for finite or infinite values (NaN below nothing). -/
def vAbsLt (a b : Val) : Bool :=
  match a, b with
  | .fin _ n d, .fin _ m e => n * e < m * d
  | .fin _ _ _, .inf _ => true
  | _, _ => false

/-- Whether a < b in value (false where either is NaN; −0 equals +0). -/
def vLt (a b : Val) : Bool :=
  match a, b with
  | .fin _ _ _, .fin _ _ _ => vNum a * (vDen b : Int) < vNum b * (vDen a : Int)
  | .fin _ _ _, .inf s => !s
  | .inf s, .fin _ _ _ => s
  | .inf s, .inf t => s && !t
  | _, _ => false

/-- Whether a = b in value (false where either is NaN). -/
def vEq (a b : Val) : Bool :=
  match a, b with
  | .fin _ _ _, .fin _ _ _ => vNum a * (vDen b : Int) == vNum b * (vDen a : Int)
  | .inf s, .inf t => s == t
  | _, _ => false

/-! Codes to values -/

/-- The magnitude of a floating code without its sign: mantissa and power of two (R27 to R31). -/
def codeMag (mb bias c : Nat) : Nat × Int :=
  let e := c >>> mb
  let m := c % 2 ^ mb
  if e = 0 then (m, 1 - (bias : Int) - mb) else (2 ^ mb + m, (e : Int) - bias - mb)

/-- The value of an element's code (R27 to R31). -/
def decodeCode (f : Fmt) (c : Nat) : Val :=
  match fmtFloat f with
  | some (eb, mb, bias) =>
    let w := 1 + eb + mb
    let neg := c.testBit (w - 1)
    let mag := c % 2 ^ (w - 1)
    if mag ≤ fmtMaxCode f then
      let (m, e) := codeMag mb bias mag
      vPow neg m e
    else
      match f with
      | .e4m3 => .nan
      | _ => if mag % 2 ^ mb = 0 then .inf neg else .nan
  | none =>
    match f with
    | .int8 => vInt (signed 8 c)
    | .int4 => vInt (signed 4 c)
    | .int2 => vInt (signed 2 c)
    | .t2 => if c % 4 = 1 then vInt 1 else if c % 4 = 3 then vInt (-1) else vInt 0
    | .e8m0 => if c % 256 = 255 then .nan else vPow false 1 ((c % 256 : Nat) - 127)
    | _ => .nan

/-- The value of an E8M0 scale byte's exponent; none for a NaN block (R32). -/
def scaleExp (b : Byte) : Option Int := if b = 0xFF then none else some ((b.toNat : Int) - 127)

/-- An element's value with its block's scale (R32). -/
def decodeScaled (f : Fmt) (c : Nat) (scale : Byte) : Val :=
  match scaleExp scale with
  | none => .nan
  | some e => vScale (decodeCode f c) e

/-! Conversion of one value (R41 to R48) -/

/-- Table 2-10a: whether the value rounds away from zero, given the parity of the low code and the remainder rem/den of one step. -/
def roundUp (rmode : Nat) (r : Nat) (loOdd : Bool) (rem den : Nat) : Bool :=
  match rmode with
  | 0 => if 2 * rem = den then loOdd else den < 2 * rem
  | 1 => 2 ^ 24 ≤ rem * 2 ^ 24 / den + r % 2 ^ 24
  | _ => false

/-- One conversion to a floating format, its exponent range not limited above: the code without sign and whether it is inexact.
D of Table 2-10a is the remainder over one step. -/
def convMag (mb bias rmode r num den : Nat) : Nat × Bool :=
  if num = 0 then (0, false) else
  let emin : Int := 1 - (bias : Int)
  let e2 := ratLog2 num den
  let q := if e2 < emin then emin else e2
  let sh := q - mb
  let a := if 0 ≤ sh then num else num * 2 ^ (-sh).toNat
  let b := if 0 ≤ sh then den * 2 ^ sh.toNat else den
  let lo := a / b
  let rem := a % b
  let lc := (q - emin).toNat * 2 ^ mb + lo
  if rem = 0 then (lc, false) else
  (if roundUp rmode r (lc % 2 = 1) rem b then lc + 1 else lc, true)

/-- Table 2-10: the threshold T of a format for a sign, as a fraction (max + ½ ulp at max). -/
def fmtThreshold (f : Fmt) (neg : Bool) : Nat × Nat :=
  match f with
  | .fp4 => (7, 1) | .e3m2 => (30, 1) | .e2m3 => (31, 4) | .e4m3 => (464, 1) | .e5m2 => (61440, 1)
  | .int8 => (if neg then 257 else 255, 2)
  | .int4 => (if neg then 17 else 15, 2)
  | .int2 => (if neg then 5 else 3, 2)
  | .t2 => (3, 2)
  | .binary16 => (65520, 1)
  | .bfloat16 => ((2 ^ 9 - 1) * 2 ^ 119, 1)
  | .binary32 => ((2 ^ 25 - 1) * 2 ^ 103, 1)
  | _ => (1, 1)

/-- The largest magnitude of an integer or ternary format for a sign (R30). -/
def intMax (f : Fmt) (neg : Bool) : Nat :=
  match f with
  | .int8 => if neg then 128 else 127
  | .int4 => if neg then 8 else 7
  | .int2 => if neg then 2 else 1
  | _ => 1

/-- The two's complement (or ternary) code of a signed magnitude. -/
def intCode (f : Fmt) (neg : Bool) (mag : Nat) : Nat :=
  let w := fmtBits f
  if neg ∧ mag ≠ 0 then 2 ^ w - mag else mag

/-- A code with its sign. -/
def withSign (f : Fmt) (neg : Bool) (mag : Nat) : Nat :=
  match fmtFloat f with
  | some (eb, mb, _) => mag + (if neg then 2 ^ (eb + mb) else 0)
  | none => intCode f neg mag

/-- The code of ±max. -/
def maxCode (f : Fmt) (neg : Bool) : Nat :=
  match fmtFloat f with
  | some _ => withSign f neg (fmtMaxCode f)
  | none => intCode f neg (intMax f neg)

/-- R41 to R46: one value to one code of format f, unblocked, with the conditions of Table 2-11.
r is the generator's bits [23:0] for the element, used under RMODE 1. -/
def convertVal (f : Fmt) (rmode : Nat) (ovfm : Bool) (r : Nat) (v : Val) : Nat × Word32 :=
  match v with
  | .nan => (fmtNan f, cNAN)
  | .inf neg =>
    match f with
    | .binary32 | .binary16 | .bfloat16 | .e5m2 => (withSign f neg (fmtMaxCode f + 1), cINF)
    | .e4m3 => if ovfm then (0x7F, cNAN) else (maxCode f neg, cSAT)
    | _ => (maxCode f neg, cSAT)
  | .fin neg num den =>
    match fmtFloat f with
    | some (_, mb, bias) =>
      let (c, inx) := convMag mb bias rmode r num den
      let (tn, td) := fmtThreshold f neg
      let geT : Bool := tn * den ≤ num * td
      let (mm, me) := codeMag mb bias (fmtMaxCode f)
      let mx := mm * 2 ^ me.toNat
      let gtMax : Bool := if 0 ≤ me then mx * den < num else mm * den < num * 2 ^ (-me).toNat
      if !gtMax then (withSign f neg c, cIf inx cINX)
      else if fmtIeee f ovfm then
        -- R44: RNE to infinity from T on, RZ never, SR as if a code stood at max + ulp
        let toInf : Bool :=
          match rmode with
          | 0 => geT
          | 1 => fmtMaxCode f < c
          | _ => false
        if toInf then (withSign f neg (fmtMaxCode f + 1), cINX ||| cINF ||| cIf geT cOVF)
        else (maxCode f neg, cINX ||| cIf geT cOVF)
      else if f == .e4m3 && ovfm && geT then (0x7F, cNAN)
      else (maxCode f neg, cINX ||| cIf geT cSAT)
    | none =>
      let (tn, td) := fmtThreshold f neg
      let geT : Bool := tn * den ≤ num * td
      let lo := num / den
      let rem := num % den
      let mx := intMax f neg
      if geT then (maxCode f neg, cSAT ||| cIf (num != mx * den) cINX)
      else if mx ≤ lo then (maxCode f neg, cIf (rem != 0) cINX)
      else if rem = 0 then (intCode f neg lo, 0)
      else (intCode f neg (if roundUp rmode r (lo % 2 = 1) rem den then lo + 1 else lo), cINX)

/-! Block scales (R34, R35) -/

/-- The smallest integer X with |v| × 2^−X < tn/td, for a positive v. -/
def minScale (num den tn td : Nat) : Int := ratLog2 (num * td) (den * tn) + 1

/-- An option's maximum with an integer. -/
def optMax (a : Option Int) (b : Int) : Option Int :=
  match a with
  | none => some b
  | some x => some (max x b)

def clampScale (x : Option Int) : Int := max (-127) (min 127 (x.getD 0))

/-- R34: the scale exponent of a block of values. -/
def blockScale (f : Fmt) (vs : List Val) : Int :=
  clampScale (vs.foldl (fun a v =>
    match v with
    | .fin neg n d => if n = 0 then a else optMax a (minScale n d (fmtThreshold f neg).1 (fmtThreshold f neg).2)
    | _ => a) none)

/-- Converts a list of values element by element; element i draws bits rnd i. -/
def convertList (f : Fmt) (rmode : Nat) (ovfm : Bool) (rnd : Nat → Nat) : Nat → List Val → List Nat × Word32
  | _, [] => ([], 0)
  | i, v :: vs =>
    let (c, k) := convertVal f rmode ovfm (rnd i) v
    let (cs, ks) := convertList f rmode ovfm rnd (i + 1) vs
    (c :: cs, k ||| ks)

/-- R34, R35: a block of values to a scale byte, codes and conditions. nanBlk selects NaN blocks for E4M3 and E5M2. -/
def encodeBlock (f : Fmt) (rmode : Nat) (ovfm nanBlk : Bool) (rnd : Nat → Nat) (vs : List Val) : Byte × List Nat × Word32 :=
  let nanRule : Bool := match f with
    | .e4m3 | .e5m2 => nanBlk
    | _ => true
  if nanRule && vs.any vIsNan then (0xFF, vs.map (fun _ => 0), cNAN)
  else
    let x := blockScale f vs
    let (cs, k) := convertList f rmode ovfm rnd 0 (vs.map (fun v => vScale v (-x)))
    (BitVec.ofNat 8 (x + 127).toNat, cs, k)

/-! Couched blocks (R36 to R38) -/

/-- R37 step 2: the index of the first-ranked element not in skip: greatest magnitude, the lower index first; none where all are skipped. -/
def rankFirst (vs : List Val) (skip : List Nat) : Option Nat :=
  (vs.zipIdx.foldl (fun (a : Option (Nat × Val)) (p : Val × Nat) =>
    if skip.contains p.2 then a else
    match a with
    | none => some (p.2, p.1)
    | some (_, w) => if vAbsLt w p.1 then some (p.2, p.1) else a) none).map (·.1)

/-- R37 steps 3: a magnitude's constraint on X, with threshold t. -/
def couchConstraint (v : Option Val) (t : Nat) : Option Int :=
  match v with
  | some (.fin _ n d) => if n = 0 then none else some (minScale n d t 1)
  | _ => none

def optMax2 (a b : Option Int) : Option Int :=
  match a, b with
  | none, b => b
  | some x, b => optMax b x

/-- R37: the 21 bytes of a couched block of 32 values and the conditions raised. -/
def encodeCouched (rmode : Nat) (ovfm : Bool) (rnd : Nat → Nat) (vs : List Val) : List Byte × Word32 :=
  if vs.any vIsNan then (0xFF :: List.replicate 20 0, cNAN)
  else
    let at' (i : Option Nat) : Option Val := i.bind (fun i => vs[i]?)
    let ia := rankFirst vs []
    let ib := rankFirst vs ia.toList
    let ic := rankFirst vs (ia.toList ++ ib.toList)
    let present (i : Option Nat) : Option Nat := i.bind (fun i => if vIsZero (nth vs i .nan) then none else some i)
    let pa := present ia
    let pb := present ib
    let fins := [at' pa, at' pb].filterMap (fun v => v.bind (fun v => if vIsInf v then none else some v))
    let mA := fins.head?
    let x := clampScale (optMax2 (couchConstraint (at' ic) 7) (couchConstraint mA 464))
    let out (i : Option Nat) : Nat × Nat × Nat × Word32 :=
      match i with
      | none => (0, 0, 0, 0)
      | some i =>
        let (c, k) := convertVal .e4m3 rmode ovfm (rnd i) (vScale (nth vs i .nan) (-x))
        (i, c, 1, k)
    let (xa, ca, va, ka) := out pa
    let (xb, cb, vb, kb) := out pb
    let nib := vs.zipIdx.map (fun (v, i) =>
      if some i = pa || some i = pb then (0, (0 : Word32)) else convertVal .fp4 rmode ovfm (rnd i) (vScale v (-x)))
    let bytes := (upto 16).map (fun i => BitVec.ofNat 8 ((nth nib (2 * i) (0, 0)).1 + 16 * (nth nib (2 * i + 1) (0, 0)).1))
    let word := xa + ca * 2 ^ 5 + xb * 2 ^ 13 + cb * 2 ^ 18 + va * 2 ^ 26 + vb * 2 ^ 27
    (BitVec.ofNat 8 (x + 127).toNat :: bytes ++ toLe 4 word,
      nib.foldl (fun a p => a ||| p.2) (ka ||| kb))

/-- R38: element i of a couched block: its code's format and code before the scale. -/
def couchedCode (blk : List Byte) (i : Nat) : Fmt × Nat :=
  let w := leNat (blk.drop 17)
  if w.testBit 26 ∧ nbits w 4 0 = i then (.e4m3, nbits w 12 5)
  else if w.testBit 27 ∧ nbits w 17 13 = i then (.e4m3, nbits w 25 18)
  else
    let b := (nth blk (1 + i / 2) 0).toNat
    (.fp4, if i % 2 = 0 then b % 16 else b / 16)

/-- R38: the value of element i of a couched block. -/
def decodeCouched (blk : List Byte) (i : Nat) : Val :=
  let (f, c) := couchedCode blk i
  decodeScaled f c (nth blk 0 0xFF)

/-! Packing (R26) -/

/-- Bytes that n elements of a format take (R26; the last unit padded; couched blocks of 21 bytes per 32). -/
def packBytes (f : Fmt) (n : Nat) : Nat :=
  match f with
  | .couched => 21 * cdiv n 32
  | .e3m2 | .e2m3 => 3 * cdiv n 4
  | _ => cdiv (n * fmtBits f) 8

/-- The code of element n of packed bytes (Table 2-2). -/
def unpackAt (f : Fmt) (bs : List Byte) (n : Nat) : Nat :=
  match f with
  | .e3m2 | .e2m3 =>
    let g := leNat ((bs.drop (3 * (n / 4))).take 3)
    nbits g (6 * (n % 4) + 5) (6 * (n % 4))
  | .fp4 | .int4 => nbits (nth bs (n / 2) 0).toNat (4 * (n % 2) + 3) (4 * (n % 2))
  | .int2 | .t2 => nbits (nth bs (n / 4) 0).toNat (2 * (n % 4) + 1) (2 * (n % 4))
  | _ =>
    let w := fmtBits f / 8
    leNat ((bs.drop (w * n)).take w)

/-- Codes packed as Table 2-2 states, the last unit padded with code 0. -/
def packCodes (f : Fmt) (cs : List Nat) : List Byte :=
  let w := fmtBits f
  let v := (cs.zipIdx.map (fun (c, i) => c <<< (w * i))).foldl (· + ·) 0
  toLe (packBytes f cs.length) v

/-- The next element's code and the codes left to read, least significant first. -/
def unpackCodes (f : Fmt) (bs : List Byte) (n : Nat) : List Nat := (upto n).map (unpackAt f bs)

/-! Digits (R39, R40) -/

def dZero (s : Bool) : Digit := ⟨s, 0, 0⟩
def dNan : Digit := ⟨false, 127, 12⟩
def dInf (s : Bool) : Digit := ⟨s, 127, 8⟩

/-- Digits per element: two for INT8 and bfloat16. -/
def fmtDigits (f : Fmt) : Nat :=
  match f with
  | .int8 | .bfloat16 => 2
  | _ => 1

/-- R40: the block base of bfloat16 codes: the largest max(f,1) among finite non-zero elements, or 1. -/
def bf16Base (cs : List Nat) : Nat :=
  cs.foldl (fun a c =>
    let e := nbits c 14 7
    let m := nbits c 6 0
    if e = 255 ∨ (e = 0 ∧ m = 0) then a else max a (max e 1)) 1

/-- R39, R40: the digits of one element's code (high digit first), its block base for bfloat16, and whether DFL is raised. -/
def digitsOf (f : Fmt) (base : Nat) (nanBlk : Bool) (c : Nat) : List Digit × Bool :=
  let two := fmtDigits f = 2
  let sp (d : Digit) : List Digit := if two then [d, dZero false] else [d]
  if nanBlk then (sp dNan, false) else
  match f with
  | .bfloat16 =>
    let s := c.testBit 15
    let e := nbits c 14 7
    let m := nbits c 6 0
    if e = 255 then (sp (if m = 0 then dInf s else dNan), false)
    else if e = 0 ∧ m = 0 then ([dZero s, dZero s], false)
    else
      let ef := max e 1
      let sg := (if e = 0 then 0 else 128) + m
      let d := base - ef
      if 122 < d then ([dZero s, dZero s], true)
      else
        ([⟨s, 126 - d, sg >>> 4⟩, ⟨s, 122 - d, sg % 16⟩], false)
  | .int8 =>
    let v := signed 8 c
    let h := v / 16
    let l := (v % 16).toNat
    if v = 0 then ([dZero false, dZero false], false) else ([⟨h < 0, 70, h.natAbs⟩, ⟨false, 66, l⟩], false)
  | .int4 | .int2 | .t2 =>
    let v := vNum (decodeCode f c)
    ([if v = 0 then dZero false else ⟨v < 0, 66, v.natAbs⟩], false)
  | _ =>
    match fmtFloat f, decodeCode f c with
    | _, .nan => ([dNan], false)
    | _, .inf s => ([dInf s], false)
    | some (eb, mb, bias), .fin s n _ =>
      if n = 0 then ([dZero s], false)
      else
        let mag := c % 2 ^ (eb + mb)
        let e := mag >>> mb
        ([⟨s, 63 - bias + max e 1, (if e = 0 then 0 else 8) + (mag % 2 ^ mb) * 2 ^ (3 - mb)⟩], false)
    | none, .fin s _ _ => ([dZero s], false)

end Sys2Proof.Machine
end

