-- ==== Sys2Proof/Machine/Accum.lean ====
section
/-! DEFINITION. Files 03 and 04: the column adder tree, the accumulator word and its update, the stochastic-rounding
generator, the fused output conversion of one value. -/

namespace Sys2Proof.Machine

/-! The stochastic-rounding generator (R82) -/

def w32 (n : Nat) : Nat := n % 2 ^ 32

def rotl32 (x n : Nat) : Nat := (w32 (x <<< n)) ||| (x >>> (32 - n))

/-- One round of R82's listing. -/
def srRound (seed : Nat) (ab : Nat × Nat) (i : Nat) : Nat × Nat :=
  let k := w32 ((seed >>> (32 * (i % 2))) % 2 ^ 32 + i)
  let a := rotl32 (w32 (ab.1 + (ab.2 ^^^ k))) 12
  let b := rotl32 (w32 (ab.2 + (a ^^^ 0x9E3779B9))) 20
  (a, b)

/-- R82: sr_gen(seed, coord, step). -/
def srGen (seed coord step : Nat) : Nat :=
  let ab := [0, 1, 2, 3].foldl (srRound seed) (w32 coord, w32 step)
  ab.1 ^^^ ab.2

/-! The column adder tree (R64 to R67, R78) -/

/-- The exponent e = E − 66 of a digit. -/
def digExp (d : Digit) : Int := (d.e : Int) - 66

def digSpecial (d : Digit) : Bool := d.e == 127
def digNan (d : Digit) : Bool := d.e == 127 && d.m == 12
def digZero (d : Digit) : Bool := d.e != 127 && d.m == 0

/-- R78, Table 4-3: the flags NAN, PINF, NINF that a product sets. -/
def prodFlags (p : Digit × Digit) : Bool × Bool × Bool :=
  let (w, a) := p
  if digNan w || digNan a then (true, false, false)
  else if digSpecial w || digSpecial a then
    if digZero w || digZero a then (true, false, false)
    else (false, w.s == a.s, w.s != a.s)
  else (false, false, false)

/-- A finite non-zero product of a weight digit and an activation digit: negative, significand, exponent. -/
def prodFinite (p : Digit × Digit) : Option (Bool × Nat × Int) :=
  let (w, a) := p
  if digSpecial w || digSpecial a || w.m * a.m == 0 then none
  else some (w.s != a.s, w.m * a.m, digExp w + digExp a)

/-- Bv: the binade of the largest finite non-zero product (R64); none where there is none. -/
def treeBv (ps : List (Digit × Digit)) : Option Int :=
  ps.foldl (fun b p =>
    match prodFinite p with
    | none => b
    | some (_, m, e) => optMax b (e + (m.log2 : Int))) none

/-- One product on the grid 2^(bv−32), rounded toward −∞, and whether bits fell below the grid. -/
def onGrid (bv : Int) (p : Bool × Nat × Int) : Int × Bool :=
  let (neg, m, e) := p
  let sm : Int := if neg then -(m : Int) else m
  let sh := e - (bv - 32)
  if 0 ≤ sh then (sm * 2 ^ sh.toNat, false)
  else (sm / 2 ^ (-sh).toNat, m % 2 ^ (-sh).toNat != 0)

/-- S of one tree on a grid. -/
def treeS (bv : Int) (ps : List (Digit × Digit)) : Int × Bool :=
  (ps.filterMap prodFinite).foldl (fun (s : Int × Bool) p =>
    let (t, b) := onGrid bv p
    (s.1 + t, s.2 || b)) (0, false)

/-- A sum with its scale exponent among those before it: sums of equal exponent are added (R66, level 5). -/
def addGroup : List (Int × Int) → Int × Int → List (Int × Int)
  | [], p => [p]
  | q :: l, p => if q.2 = p.2 then (q.1 + p.1, q.2) :: l else q :: addGroup l p

/-- R64 to R67, R78: the column sum of a column's groups of products, each with its scale exponent X, on the column's common grid. Groups
are the two half-trees of SHAPE 1, the rows of a couched weight (log entry 38), else the column as a whole. -/
def columnSum (groups : List (List (Digit × Digit) × Int)) : ColSum :=
  let all := (groups.map (·.1)).flatten
  let fl := all.map prodFlags
  let bv := (treeBv all).getD 0
  let ss := groups.map (fun (ps, x) => (treeS bv ps, x))
  let sums := (ss.foldl (fun l p => addGroup l (p.1.1, p.2)) []).map (fun p => (p.1, bv - 32 + p.2))
  ⟨sums, fl.any (·.1), fl.any (·.2.1), fl.any (·.2.2), ss.any (fun p => p.1.2)⟩

/-! The accumulator word (R75 to R81) -/

/-- R77: the word after a replace. -/
def accEmpty : AccWord := ⟨0, 0, false, false, false, true, 0⟩

/-- R76: the value of an accumulator word. -/
def accValue (w : AccWord) : Val :=
  if w.nan then .nan
  else if w.pinf && w.ninf then .nan
  else if w.pinf then .inf false
  else if w.ninf then .inf true
  else if w.empty then .fin false 0 1
  else
    let e := (w.wexp : Int) - 600
    if 0 ≤ e then vFrac false (w.sig * 2 ^ e.toNat) 1 else vFrac false w.sig (2 ^ (-e).toNat)

/-- A dyadic sum as num / 2^k with k natural: the exact q of R79, in units of 2^W. -/
def dyAdd (a b : Int × Nat) : Int × Nat :=
  if a.2 ≤ b.2 then (a.1 * 2 ^ (b.2 - a.2) + b.1, b.2) else (a.1 + b.1 * 2 ^ (a.2 - b.2), a.2)

def dyOf (s e : Int) : Int × Nat := if 0 ≤ e then (s * 2 ^ e.toNat, 0) else (s, (-e).toNat)

/-- Whether num / 2^k lies in [−2^62, 2^62 − 1]. -/
def inSig (q : Int × Nat) : Bool :=
  decide (-(2 ^ 62 : Int) * 2 ^ q.2 ≤ q.1) && decide (q.1 ≤ (2 ^ 62 - 1) * 2 ^ q.2)

/-- The window rise loop of R79: W rises by 8 until the exact sum is in range. -/
def raise : Nat → Int → (Int × Nat) → Int × (Int × Nat)
  | 0, w, q => (w, q)
  | f + 1, w, q => if inSig q then (w, q) else raise f (w + 8) (q.1, q.2 + 8)

/-- Bits of the status word raised by accumulation (Table 4-11). -/
def sTRUNC : Word32 := 0x40
def sACCRND : Word32 := 0x80
def sACCNAN : Word32 := 0x100
def sACCINF : Word32 := 0x200
def sACCOVF : Word32 := 0x400

/-- R79: acc_update; the new word and the status bits raised. r is the generator's 32-bit output. A window overflow, which sets PINF or
NINF, raises ACC_INF beside ACC_OVF (DEDUCED, log entry 39). -/
def accUpdate (w : AccWord) (c : ColSum) (r : Nat) : AccWord × Word32 :=
  let w1 := { w with nan := w.nan || c.nan, pinf := w.pinf || c.pinf, ninf := w.ninf || c.ninf }
  let st := cIf c.nan sACCNAN ||| cIf (c.pinf || c.ninf) sACCINF ||| cIf c.trunc sTRUNC
  let nz := c.sums.filter (fun p => p.1 != 0)
  if nz.isEmpty then (w1, st) else
  let w2 := if w1.empty then
      let g := nz.foldl (fun (a : Option Int) p => match a with | none => some p.2 | some x => some (min x p.2)) none
      { w1 with empty := false, sig := 0, wexp := (g.getD 0 - 16 + 600).toNat }
    else w1
  let win := (w2.wexp : Int) - 600
  let q0 := nz.foldl (fun q p => dyAdd q (dyOf p.1 (p.2 - win))) (w2.sig, 0)
  let (win', q) := raise 200 win q0
  if 423 < win' then
    ({ w2 with sig := 0, pinf := w2.pinf || decide (0 < q.1), ninf := w2.ninf || decide (q.1 ≤ 0) },
      st ||| sACCOVF ||| sACCINF)
  else
    let den : Int := 2 ^ q.2
    let fl := q.1 / den
    let rem := q.1 - fl * den
    let d := (rem * 2 ^ 32 / den).toNat
    let rounds := decide (rem ≠ 0)
    ({ w2 with
        sig := fl + (if 2 ^ 32 ≤ d + r then 1 else 0)
        wexp := (win' + 600).toNat
        rnd := if rounds then satInc 63 w2.rnd else w2.rnd }, st ||| cIf rounds sACCRND)

/-- R92, Table 4-1: the 96-bit number of an accumulator word. -/
def accWordNat (w : AccWord) : Nat :=
  let sg := if w.empty then 0 else (w.sig % 2 ^ 64).toNat
  let we := if w.empty then 0 else w.wexp
  sg + we * 2 ^ 64 + b2n w.nan * 2 ^ 74 + b2n w.pinf * 2 ^ 75 + b2n w.ninf * 2 ^ 76 + b2n w.empty * 2 ^ 77 + w.rnd * 2 ^ 78

/-- R92: a saved word's 12 bytes. -/
def accSave (w : AccWord) : List Byte := toLe 12 (accWordNat w)

/-- R93: a restored word from its 96-bit number. -/
def accRestore (n : Nat) : AccWord :=
  let e := n.testBit 77
  ⟨if e then 0 else signed 64 (n % 2 ^ 64), if e then 0 else nbits n 73 64,
    n.testBit 74, n.testBit 75, n.testBit 76, e, nbits n 83 78⟩

/-! Output conversion (R85 to R87) -/

/-- The exact product of two values that Table 4-7 leaves finite. -/
def vMulFin (a b : Val) : Val := vFrac false (vNum a * vNum b) (vDen a * vDen b)

def vAddFin (a b : Val) : Val := vFrac false (vNum a * (vDen b : Int) + vNum b * (vDen a : Int)) (vDen a * vDen b)

def vSign (v : Val) : Bool :=
  match v with
  | .nan => false
  | .inf s => s
  | .fin s _ _ => s

/-- R86, Table 4-7: y = A × s + b, exact; an exact zero is +0. -/
def fusedVal (a s b : Val) : Val :=
  if vIsNan a || vIsNan s || vIsNan b then .nan
  else if (vIsInf a && vIsZero s) || (vIsZero a && vIsInf s) then .nan
  else if vIsInf a || vIsInf s then
    let neg := vSign a != vSign s
    if vIsInf b && vSign b != neg then .nan else .inf neg
  else if vIsInf b then b
  else vAddFin (vMulFin a s) b

/-- R87, Table 4-8. lo and hi are the clip bounds as values; a bound of −0 acts as +0. -/
def outFn (fn : Nat) (lo hi y : Val) : Val :=
  let z (v : Val) : Val := if vIsZero v then .fin false 0 1 else v
  match fn with
  | 1 => if vLt y (.fin false 0 1) then .fin false 0 1 else y
  | 2 => if vLt y lo then z lo else if vLt hi y then z hi else y
  | _ => y

/-- R87: whether clip bounds make the instruction fail with BAD_CLIP. -/
def badClip (lo hi : Val) : Bool := vIsNan lo || vIsNan hi || vLt hi lo

/-- The conversion of a row's 32 values (R88). -/
def rowValues (a : List Val) (s b : List Val) (fn : Nat) (lo hi : Val) : List Val :=
  (a.zip (s.zip b)).map (fun (x, y, z) => outFn fn lo hi (fusedVal x y z))

/-- R88, R89: the 32 values of a row to the output format's bytes of one block or codes, with conditions.
Answers the scale byte (for a scaled format), the codes, the couched block's bytes (for couched), the conditions. -/
structure RowOut where
  scale : Byte
  codes : List Nat
  couched : List Byte
  conds : Word32
  deriving DecidableEq, Repr

def convertRow (f : Fmt) (scaled : Bool) (rmode : Nat) (ovfm nanblk : Bool) (rnd : Nat → Nat) (ys : List Val) : RowOut :=
  if f == .couched then
    let (b, k) := encodeCouched rmode ovfm rnd ys
    ⟨0, [], b, k⟩
  else if scaled then
    let (s, cs, k) := encodeBlock f rmode ovfm nanblk rnd ys
    ⟨s, cs, [], k⟩
  else
    let (cs, k) := convertList f rmode ovfm rnd 0 ys
    ⟨0, cs, [], k⟩

end Sys2Proof.Machine
end

