-- ==== Sys2Proof/Machine/Codec.lean ====
section
/-! DEFINITION. Vectors of elements as bytes (R26, R34 to R38, R88, R160, R163, R169), the units of a digest (R170, R171), and the filet grid
(R189, R191, R193, R194). -/

namespace Sys2Proof.Machine

/-! Digests (R170, R171) -/

/-- dig_h of R170: the hash of a unit with value v at position p under key k. -/
def digH (k p v : Nat) : Nat :=
  let seed := k * 2 ^ 32 + v
  [0, 1, 2, 3].foldl (fun h j => h + srGen seed p j <<< (32 * j)) 0

/-- Adds units to a digest: (index, value) pairs at positions base + index (R170, R400). -/
def digUnits (g : Word128) (key base : Nat) (us : List (Nat × Nat)) : Word128 :=
  g + BitVec.ofNat 128 ((us.map (fun (u, v) => digH key ((base + u) % 2 ^ 32) v)).foldl (· + ·) 0)

/-- The little-endian 32-bit words of bytes, the last padded with zero. -/
def words32 (bs : List Byte) : List Nat := (upto (cdiv bs.length 4)).map (fun i => leNat ((bs.drop (4 * i)).take 4))

/-- R171: the units of n elements of a format in their bytes. -/
def digestUnits (f : Fmt) (bs : List Byte) (n : Nat) : List Nat :=
  match f with
  | .couched => ((upto (cdiv n 32)).map (fun b => words32 ((bs.drop (21 * b)).take 21))).flatten
  | .filet => words32 (bs.take (8 * n))
  | .accWord => words32 (bs.take (12 * n))
  | _ => unpackCodes f bs n

/-- The digest of units at positions from base. -/
def digestOf (key base : Nat) (us : List Nat) : Word128 := digUnits 0 key base (us.zipIdx.map (fun p => (p.2, p.1)))

/-! Vectors -/

/-- Scale bytes of n elements of a SCALED vector. -/
def scaleBytes (scaled : Bool) (n : Nat) : Nat := if scaled then cdiv n 32 else 0

/-- The exact values of n elements in their bytes and scale bytes. -/
def decodeVector (f : Fmt) (scaled : Bool) (bs sc : List Byte) (n : Nat) : List Val :=
  (upto n).map (fun i =>
    if f == .couched then decodeCouched ((bs.drop (21 * (i / 32))).take 21) (i % 32)
    else if scaled then decodeScaled f (unpackAt f bs i) (nth sc (i / 32) 0xFF)
    else decodeScaled f (unpackAt f bs i) 0x7F)

/-- A vector encoded: element bytes, scale bytes, conditions. -/
structure VecOut where
  bytes : List Byte
  scales : List Byte
  conds : Word32
  deriving DecidableEq, Repr

/-- Encodes values, blocks of 32 along the vector; element i draws rnd i. A couched block that is not full is filled with +0. -/
def encodeVector (f : Fmt) (scaled : Bool) (rmode : Nat) (ovfm nanBlk : Bool) (rnd : Nat → Nat) (vs : List Val) : VecOut :=
  let blocks := (upto (cdiv vs.length 32)).map (fun b => (b, (vs.drop (32 * b)).take 32))
  if f == .couched then
    let l := blocks.map (fun (b, ws) =>
      encodeCouched rmode ovfm (fun i => rnd (32 * b + i)) (ws ++ List.replicate (32 - ws.length) (Val.fin false 0 1)))
    { bytes := (l.map (·.1)).flatten, scales := [], conds := l.foldl (fun a p => a ||| p.2) 0 }
  else if scaled then
    let l := blocks.map (fun (b, ws) => encodeBlock f rmode ovfm nanBlk (fun i => rnd (32 * b + i)) ws)
    { bytes := packCodes f (l.map (fun p => p.2.1)).flatten, scales := l.map (·.1), conds := l.foldl (fun a p => a ||| p.2.2) 0 }
  else
    let (cs, k) := convertList f rmode ovfm rnd 0 vs
    { bytes := packCodes f cs, scales := [], conds := k }

/-- R25, R513: the format of a 5-bit code and SCALED bit that vectors may have: 0x00 to 0x0C, SCALED where R513 allows it. -/
def vecFmt (code : Nat) (scaled : Bool) : Option Fmt :=
  match fmtOf code with
  | some f => if fmtOut f && (!scaled || fmtScalable f) then some f else none
  | none => none

/-- Whether a vector's elements share block scales, so that its length is a multiple of 32 (R169). -/
def vecBlocked (f : Fmt) (scaled : Bool) : Bool := scaled || f == .couched

/-! The filet grid (R189 to R194) -/

/-- R189: to_grid: the grid integer of a finite value, whether it was inexact, whether it was clamped; r is the random draw. -/
def toGrid (v : Val) (w : Int) (rmode r : Nat) : Int × Bool × Bool :=
  match v with
  | .fin neg num den =>
    let (n, d) := if 0 ≤ w then (num, den * 2 ^ w.toNat) else (num * 2 ^ (-w).toNat, den)
    let lo := n / d
    let rem := n % d
    let inx := rem != 0
    let up : Bool := inx && (match rmode with
      | 0 => decide (d < 2 * rem) || (decide (2 * rem = d) && lo % 2 == 1)
      | 1 => decide (2 ^ 24 ≤ rem * 2 ^ 24 / d + r % 2 ^ 24)
      | _ => false)
    let a := if up then lo + 1 else lo
    let sat := decide (2 ^ 51 - 1 < a)
    let b := if sat then 2 ^ 51 - 1 else a
    (if neg then -(b : Int) else b, inx, sat)
  | _ => (0, false, false)

/-- R191: the special code of a value. -/
def specCode (v : Val) : Nat :=
  match v with
  | .nan => 3
  | .inf false => 1
  | .inf true => 2
  | _ => 0

/-- R193: the pricking byte of a grain's values. -/
def prickByte (vs : List Val) : Nat :=
  match vs.foldl (fun a v => match v with
    | .fin _ n d => if n = 0 then a else optMax a (ratLog2 n d)
    | _ => a) (none : Option Int) with
  | none => 0
  | some m => (min (max m (-126)) 127 + 127).toNat

/-- R194: the window of a grain whose largest pricking byte is p. -/
def windowOf (p : Nat) : Int := if p = 0 then 0 else (p : Int) - 177

/-- R191: the value of a filet word with its special code. -/
def filetVal (f : Int) (spec : Nat) (w : Int) : Val :=
  match spec with
  | 0 => vScale (vInt f) w
  | 1 => .inf false
  | 2 => .inf true
  | _ => .nan

end Sys2Proof.Machine
end

