-- ==== Sys2Proof/Machine/Memory.lean ====
section
/-! DEFINITION. Byte memories in their canonical form: addresses strictly rising, no entry equal to 0, which is what an unlisted
address reads as (file 16, R467: the device zeroes its memories at boot). -/

namespace Sys2Proof.Machine

/-- The canonical form from an address on: addresses at least lo and strictly rising, no byte 0. -/
def memWfFrom : Nat → List Host.Cell → Bool
  | _, [] => true
  | lo, (a, b) :: m => decide (lo ≤ a) && b != 0 && memWfFrom (a + 1) m

/-- The canonical form of a memory. -/
def Memory.wf (m : List Host.Cell) : Bool := memWfFrom 0 m

/-- The byte at an address: 0 where none is listed. -/
def memGet : List Host.Cell → Nat → Byte
  | [], _ => 0
  | (k, b) :: m, a => if k = a then b else memGet m a

/-- A memory with a byte listed at an address, in its place. -/
def memIns : List Host.Cell → Nat → Byte → List Host.Cell
  | [], a, b => [(a, b)]
  | (k, c) :: m, a, b =>
    if a < k then (a, b) :: (k, c) :: m
    else if k = a then (a, b) :: m
    else (k, c) :: memIns m a b

/-- A memory with one byte written; writing 0 removes the entry. -/
def memSet (m : List Host.Cell) (a : Nat) (b : Byte) : List Host.Cell :=
  if b = 0 then m.filter (fun c => c.1 != a) else memIns m a b

/-- n bytes from an address. -/
def memRead (m : List Host.Cell) (a : Nat) : Nat → List Byte
  | 0 => []
  | n + 1 => memGet m a :: memRead m (a + 1) n

/-- A list of bytes written from an address. -/
def memWrite (m : List Host.Cell) (a : Nat) : List Byte → List Host.Cell
  | [] => m
  | b :: bs => memWrite (memSet m a b) (a + 1) bs

/-- A little-endian number of n bytes at an address. -/
def memNat (m : List Host.Cell) (a n : Nat) : Nat := leNat (memRead m a n)

/-- The bytes of a list of cells that a range names, d where it names none. -/
def cellsRead (m : List Host.Cell) (d : Nat → Byte) (a : Nat) : Nat → List Byte
  | 0 => []
  | n + 1 => ((m.find? (fun c => c.1 == a)).map (·.2)).getD (d a) :: cellsRead m d (a + 1) n

end Sys2Proof.Machine
end

