-- ==== Sys2Proof/Config.lean ====
section
/-! DEFINITION. What the spec leaves open: free values. None has a body, so nothing can be proved of the value it gives. -/

namespace Sys2Proof.Config

/-- A byte of the companion's or another chip's memory that no operand supplies, by address and draw (log entry 13). -/
opaque outsideByte : Nat → Nat → Byte

/-- Which of the results within a vector function's stated accuracy an implementation gives (R123), by function and operand code:
an offset that the model brings into the allowed range (log entry 14). -/
opaque ulpChoice : Nat → Nat → Nat

/-- The bytes that overlapping copies or outputs leave in the overlap (R132, R154, R174, R175), by draw and offset (log entry 15). -/
opaque overlapByte : Nat → Nat → Byte

/-- A completion status that the spec does not name, by the operation's type and field value (log entry 16). -/
opaque openStatus : Nat → Nat → Nat

/-- The answer that a void REQ of another package gets (R517, R234): its payload, which held the reply address, is dropped at the die of
entry; whether a response is due and at which address, by source chip and tag (log entry 18). -/
opaque voidReply : Nat → Nat → Option Nat

/-- R140: the partition that the grant of another package's port gives the endpoint of a chip number, which this package does not hold (log
entry 56). -/
opaque farPart : Nat → Nat

/-- The bytes of an open top-k set's area, whose contents are device-defined (R164), by address and draw (log entry 21). -/
opaque setArea : Nat → Nat → Byte

/-- The records of a TOPK context's local contribution, whose number no field gives (R214, R215), by CTX_ID: an offset that the model brings
into the allowed range (log entry 22). -/
opaque localRecords : Nat → Nat

/-- The bytes of a POOLED_SUM vector for which R213 states no place or value: bytes shared by two chunks, and blocks that cross rows (R213), by
CTX_ID and address (log entry 23). -/
opaque rowByte : Nat → Nat → Byte

/-- The correction that the time servo gives FADJ after a measurement (R381), by draw and offset in 1/16 ns; the model brings it into the range of
R377 (log entry 24). -/
opaque servo : Nat → Int → Int

/-- The port identity of the management port's PTP clock (R382): the spec names none (log entry 37). -/
opaque ptpIdentity : Nat

/-- The link delay of a port in 1/16 ns before its first delay exchange (R384, R385), by port number (log entry 12). -/
opaque firstDelay : Nat → Nat

/-- How a mean link delay that is no multiple of 1/16 ns is rounded (R384), by draw: up where odd (log entry 25). -/
opaque meanUp : Nat → Nat

/-- The identity seed that the dies' PUFs and the helper data give (R475): neither is printed (log entry 7). -/
opaque seedOf : Nat → Nat

/-- The root hashes in the boot ROM (R472): SHA-384 of the RSA modulus and of the SLH-DSA key that it accepts (log entry 26). -/
opaque rsaRoot : List Byte
opaque slhRoot : List Byte

/-- A byte of the salt (positions 0 to 47) and of the randomizer (48 to 71) of an attestation report's signatures (R478), by draw (log entry 26). -/
opaque signRandom : Nat → Nat → Byte

/-- How many 4 KiB units of a DMA that no packet paces have begun when an abort reaches it (R176), by draw; the model brings it into range (log
entry 52). -/
opaque unitsBegun : Nat → Nat

/-- What a lane's receiver has adapted to when its training ends (R331, R338), by draw (log entry 62). -/
opaque rxAdapt : Nat → Nat

/-- How many tests beyond one show that a candidate of R476's key generation is prime (log entry 69). -/
opaque primeTests : Nat

/-- The buffers, by handle, that a row of a packet-buffer bank holds (R440, R443), by die, bank and row: the spec gives no layout (log entry 31). -/
opaque rowBuffers : Nat → Nat → Nat → List Nat

end Sys2Proof.Config
end

