-- ==== Sys2Proof/FabTypes.lean ====
section
/-! DEFINITION. The data types of the fabric: packets held, buffers, transport records, ports, lanes, cages, tables. -/

namespace Sys2Proof

/-- A packet copy that a die holds: the packet, its buffer, the time it arrived at the package and at this die (ns), the input where
it entered the die (0 to 95 a port, 96 to 99 a bridge, 100 the die itself), the output die and port chosen (port 100: consumed by the
die), the queue and sub-list it waits in, the bridge hops it has made, and for a void made in this package the reply address that its
payload held (none inside: no response is due). brd says that a window of this package leads it to the companion. joined is the time at which it
joined its queue, fg the group that frees its buffer where that is not its input's (R298); more holds the outputs (port numbers and headers) of
other dies that a multicast copy on a bridge stands for (R302). eng is set in the packet of an engine request on its way to the die od (R8): the
die that sends it, the request's identifier, and the internal requester. stamp is the die's counter (1/16 ns) as a packet's header arrived. came is
the direction in which the packet came into the package and dl the DL that it came with, which a die in selvage mode decides by again (R431). -/
structure Held where
  pkt : Packet
  buf : Option Nat
  arr : Nat
  ein : Nat
  inp : Nat
  od : Nat
  op : Nat
  q : Nat
  sub : Nat
  hop : Nat
  vr : Option (Option Nat)
  brd : Bool
  joined : Nat := 0
  fg : Option Nat := none
  more : List (Nat × BitVec 256) := []
  eng : Option (Nat × Nat × Nat) := none
  stamp : Nat := 0
  came : Option Nat := none
  dl : Bool := false
  deriving DecidableEq, Repr

/-- A buffer in use (R301): its reference count, the group that allocated it, its charge in credit units, the input port or bridge and
buffer number whose credit it holds, and the internal requester charged with it. -/
structure BufEnt where
  refs : Nat
  grp : Nat
  units : Nat
  credit : Option (Nat × Nat)
  req : Option Nat
  deriving DecidableEq, Repr

/-- A pool's ring of free handles (R297): the indices from fresh upward have never left it; back holds the handles returned, in order. -/
structure Pool where
  fresh : Nat
  back : List Nat
  deriving DecidableEq, Repr

/-- What an emitted packet does for its source when it is acknowledged or given up (R246, R250): nothing; a DMA request's write at an
offset; an engine request's output; a DELIVER of a context's chunk; a companion access; a steward's message; a descriptor operation's bytes. -/
inductive Owner where
  | none
  | dma (id off : Nat)
  | eng (id : Nat)
  | deliver (ctx chunk port : Nat)
  | request (tag : Nat)
  | op (id : Nat)
  deriving DecidableEq, Repr

/-- A replay record (R246): the packet as sent, its number, its destination chip, the re-sends made, its owner and buffer; vr and brd as in Held, for
the packets of a TFP 1 endpoint that its port has sequenced (R259). -/
structure Replay where
  seq : Nat
  pkt : Packet
  dst : Nat
  tries : Nat
  owner : Owner
  buf : Option Nat
  vr : Option (Option Nat) := none
  brd : Bool := false
  deriving DecidableEq, Repr

/-- The sequence space of a source toward one destination chip (R241): the next number, whether no acknowledgement has come yet. -/
structure TxSpace where
  next : Nat
  fresh : Bool
  recs : List Replay
  deriving DecidableEq, Repr

/-- The receive window of a destination for one source chip (R242): base and the 256-bit map. -/
structure RxWin where
  base : Nat
  map : Nat
  deriving DecidableEq, Repr

/-- A chip's end of the transport: windows by source chip, spaces by destination chip, numbers to acknowledge by source chip. -/
structure Xport where
  rxw : Tbl RxWin
  txs : Tbl TxSpace
  ackDue : Tbl (List Nat)
  deriving DecidableEq, Repr

/-- A packet that waits at its point of emission (R516, R244, R241, R300): sequenced or not, its internal requester; buf is the RESULT's buffer
that a DELIVER takes its payload from (R303). bits are the destination bits of a packet that names no chip, room the lengths of the packets
for which a request reserves space before it leaves (R284). eng is set in the packet of an engine request for another die of the package (R8):
that die and the request's identifier. via is the port that sends the packet itself: a trunk port's link-local kinds (R386), what a TFP 1 port sends
for its endpoint (R259). -/
structure TxItem where
  pkt : Packet
  dst : Nat
  req : Nat
  owner : Owner
  sequenced : Bool
  buf : Option Nat := none
  bits : Option Nat := none
  room : List Nat := []
  eng : Option (Nat × Nat) := none
  via : Option Nat := none
  deriving DecidableEq, Repr

/-- A finish-table entry (R255 to R258). -/
structure FinEnt where
  count : Nat
  total : Option Nat
  ntf : Bool
  nknot : Nat
  asks : Nat
  mark : Nat
  deriving DecidableEq, Repr

/-- What a request issued by the device waits for (R518): bytes of a DMA request; an operand of an engine request; a companion's
answer; an engine request sent on to another package. -/
inductive ReqFor where
  | dma (id off len : Nat)
  | engine (id addr len : Nat)
  | companion (len : Nat)
  | posted (src : EngSrc)
  deriving DecidableEq, Repr

/-- A request that the die issued and has not seen answered (R518), the buffer that it reserved for the response (R250), those for the outputs
that come back as REPLY_WRITE (R284), and the reply address that the device chose for it, as an address of the package region. -/
structure ReqOut where
  chip : Nat
  tag : Nat
  kind : Nat
  addr : Nat
  what : ReqFor
  buf : Option Nat
  outs : List Nat := []
  reply : Nat := 0
  deriving DecidableEq, Repr

/-- A collective packet kept until everyone has acknowledged it (R249): the packages (by coordinates, as in a route word) or endpoints
(65,536 + port) that have not, the re-sends made, the buffer it refers to. sent is false while it waits for a buffer. -/
structure CollRec where
  id : Nat
  ctx : Nat
  gen : Nat
  chunk : Nat
  pkt : Packet
  wait : NSet
  tries : Nat
  buf : Option Nat
  sent : Bool
  deriving DecidableEq, Repr

/-- A part of a TFP 2 packet on its way to a TFP 1 endpoint (R259). -/
structure T1Part where
  seq1 : Nat
  src : Nat
  seq : Nat
  left : Nat
  bytes : List Byte
  deriving DecidableEq, Repr

/-- A REQ that a TFP 1 port has passed to its endpoint and that has not been answered: its source chip and SEQ, its kind, its TAG and its reply
address, by which the answer is known, since TFP 1 carries no TAG (R234, R259). -/
structure T1Req where
  chip : Nat
  seq : Nat
  kind : Nat
  tag : Nat
  reply : Nat
  deriving DecidableEq, Repr

/-- What a port does for a TFP 1 endpoint (R259, R260): its TFP 2 spaces and windows, the TFP 1 windows of both directions, the parts
not acknowledged, the last SEQ by (destination chip × 64 + channel), the packets (source × 2^24 + SEQ) of which a part was given up, the REQs
that the endpoint has not answered. -/
structure T1 where
  tr : Xport
  rx : RxWin
  next : Nat
  parts : List T1Part
  chans : Tbl Nat
  lost : NSet := []
  asked : List T1Req := []
  deriving DecidableEq, Repr

/-- An output's queues (R305, R306): the packets in the order they joined, and the deficit round robin's pointer, deficits and visited
marks. -/
structure OutQ where
  q : List Held
  ptr : Nat
  dfc : Tbl Nat
  vis : NSet
  deriving DecidableEq, Repr

/-- A gate list (R309): entries (DUR, OPEN), START, and the descriptor operation of a staged list. -/
structure GateList where
  ents : List (Nat × Nat)
  start : Nat
  op : Nat
  cur : Nat
  deriving DecidableEq, Repr

/-- A hello frame's contents (Table 11-7). -/
structure Hello where
  role : Nat
  lane : Nat
  width : Nat
  lanesOk : Nat
  rxOk : Nat
  hi : Nat
  lo : Nat
  cvalid : Bool
  miscabled : Bool
  removing : Bool
  port : Nat
  dir : Nat
  x : Nat
  y : Nat
  z : Nat
  shape : Nat
  uid : Nat
  deriving DecidableEq, Repr

/-- A port's performance counters (file 18, R494 to R496). -/
structure PortPmc where
  fix : Nat
  cnt : Tbl Nat
  sel : Tbl Word32
  win : Tbl Nat
  tx : Nat
  rx : Nat
  peak : Nat
  latch : Tbl Nat
  deriving DecidableEq, Repr

/-- A codeword's data field that waits for the others of its frame (R323): the codeword count, the logical lane, the bytes and FIRST; none where the
codeword could not be corrected. -/
structure RxWord where
  count : Nat
  lane : Nat
  body : Option (List Byte × Option Nat)
  deriving DecidableEq, Repr

/-- A lane's PRBS generator and checker (R343): the last bits and level sent; the last bits and level received, the bits that have seeded the
checker, those predicted right in a row, the bits since lock and the places of the errors among the last 1,024. -/
structure Prbs where
  gen : Nat := 2 ^ 31 - 1
  genP : Nat := 0
  chk : Nat := 0
  chkP : Nat := 0
  seeded : Nat := 0
  good : Nat := 0
  pos : Nat := 0
  errs : List Nat := []
  deriving DecidableEq, Repr

/-- A port (R336 to R340): its state, width, version, lanes in use; bring-ups failed in a row; the times it went down; the far identity
it had while ACTIVE, kept while it comes back; the last hello; the credit it holds as a sender (A, S, R and the last count, by buffer);
the counts it returns as a receiver and the units it holds; whether it keeps its reserves and advertises; the far state and DRAINED;
tokens of its shapers and policers (quarter bytes); its gate lists; its history and counters; (T4 − T1) − TURN of its last 64 delay exchanges in 1/16 ns; fos while fault ordered sets hold it down (R436); the units that it owes its
endpoint, by buffer, while a drain withholds credit (R287); the data fields that wait for their frame and the bytes of the packet that arrives in
frames, none between packets (R323); the test of its own that holds it in MISCABLED, 0 for none (R335). -/
structure Port where
  st : Nat
  width : Nat
  major : Nat
  minor : Nat
  txuse : Nat
  faruse : Nat
  fails : Nat
  downs : List Nat
  was : Option (Nat × Nat)
  recal : Option Nat
  far : Option Hello
  farSt : Nat
  farDrained : Bool
  txA : Tbl Nat
  txS : Tbl Nat
  txR : Tbl Nat
  txC : Tbl Nat
  rxRet : Tbl Nat
  held : Nat
  reserved : Bool
  adv : Bool
  remAt : Nat
  shTok : Tbl Int
  polTok : Tbl Nat
  gate : Option GateList
  staged : Option GateList
  hist : Nat
  pdrop : Nat
  pmc : PortPmc
  t1 : T1
  delays : List Int
  fos : Bool
  owed : Tbl Nat := []
  words : List RxWord := []
  part : Option (List Byte) := none
  mis : Nat := 0
  deriving DecidableEq, Repr

/-- A lane (R328 to R343). done says that it sends codewords; preTx that it precodes them; sts holds the statuses of Table 11-5's bits 15 to 10;
adapt what its receiver adapted to (R338); fosRow the fault ordered sets decoded in a row (R436). -/
structure Lane where
  sig : Bool
  lock : Bool
  trained : Bool
  pol : Bool
  rxmap : Nat
  rxuse : Bool
  txuse : Bool
  preRx : Bool
  prbsLock : Bool
  preset : Nat
  failed : Bool
  cm1 : Nat
  c0 : Nat
  cp1 : Nat
  fecc : Nat
  fecu : Nat
  prbse : Nat
  uncRow : Nat
  uncs : List Nat
  readySent : Nat
  readyGot : Nat
  hellos : Nat
  mark : Option Nat
  done : Bool
  preTx : Bool
  sts : Nat
  adapt : Nat := 0
  prbs : Prbs := {}
  fosRow : Nat := 0
  deriving DecidableEq, Repr

/-- A cage (R344 to R351): the thirteen fault bits of CAGE_STAT by their numbers. app says that the steward has selected the module's application
(R348). -/
structure Cage where
  prs : Bool
  btn : Bool
  faults : NSet
  early : Bool
  modst : Nat
  ready : Bool
  flat : Bool
  app : Bool := false
  deriving DecidableEq, Repr

/-- A bridge of a die (R19, R429): working groups, spare wires used by group, whether it has failed, the credit units in use at this
die's end by buffer set, VC and half, and the times of the last second at which each wire (group × 65 + wire) was corrected. -/
structure Bridge where
  groups : Nat
  spares : Tbl Nat
  failed : Bool
  use : Tbl Nat
  corr : Tbl (List Nat) := []
  deriving DecidableEq, Repr

/-- The shape entry (Table 9-1): coordinates, lengths minus 1, WRAP. -/
structure Shape where
  x : Nat
  y : Nat
  z : Nat
  lx : Nat
  ly : Nat
  lz : Nat
  wrap : Nat
  deriving DecidableEq, Repr

/-- A window entry (Table 8-8). -/
structure Window where
  base : Nat
  size : Nat
  lbase : Nat
  target : Nat
  flags : Nat
  deriving DecidableEq, Repr

/-- A set of fabric tables (R371): shape, trunk entries by direction, chip table, windows, port grants, and the dies that the paths of
R16 avoid. -/
structure Tables where
  shape : Option Shape
  trunk : Tbl (List Nat)
  chips : Tbl Word32
  wins : Tbl Window
  grants : Tbl Word64
  avoid : NSet
  deriving DecidableEq, Repr

/-- An output group's state under R275: decisions counted, the time of the admission that started its 100 µs. -/
structure Warm where
  dec : Nat
  since : Option Nat
  warming : Bool
  deriving DecidableEq, Repr

/-- A Darlet stack (file 14): bytes, poisoned words, words with a correctable error not yet corrected, words with a worse error not yet
detected (bad), the counts of STK_ECC, spare rows
used by bank (channel × 32 + bank), spare column groups used by channel, the channel retired, the channel that the spare serves, the
channel whose copy runs, readiness, self-refresh, temperature, the rates of R415 and R416, patrol passes by weak row, the rows
refreshed since the last pass began. -/
structure Stack where
  cells : List Host.Cell
  pois : NSet
  latent : NSet
  ce : Nat
  ue : Nat
  rows : Tbl Nat
  cols : Tbl Nat
  retired : Option Nat
  spareCh : Option Nat
  copying : Option Nat
  ready : Bool
  selfRef : Bool
  temp : Nat
  hotref : Bool
  throttle : Bool
  weak : Tbl Nat
  refreshed : Nat
  linkFails : Tbl (List Nat)
  bad : NSet := []
  deriving DecidableEq, Repr

/-- A piece of a contribution in staging (R198). -/
structure Piece where
  rank : Nat
  piece : Nat
  last : Bool
  cchk : Nat
  bytes : List Byte
  buf : Option Nat
  deriving DecidableEq, Repr

/-- A chunk slot of a home die (R202, R206): the slot's number, its words and special codes by element, the pricking maxima by grain and
the ranks counted, whether the windows are fixed, the arrival bitmap, the pieces staged, a TOPK chunk's records and dropped NaN. words and
spec are empty while they hold what a slot starts with. -/
structure Slot where
  die : Nat
  chunk : Nat
  idx : Nat
  words : List Word64
  spec : List Nat
  prick : List Nat
  pricked : NSet
  fixed : Bool
  arrived : NSet
  staged : List Piece
  recs : List (Nat × Nat × Nat)
  nan : Bool
  deriving DecidableEq, Repr

/-- A member table entry (Table 7-3); soff is signed. -/
structure Member where
  port : Nat
  recv : Bool
  contrib : Bool
  soff : Int
  base : Nat
  deriving DecidableEq, Repr

/-- A collective context at a package (file 07): the open's descriptor operation and record fields, the context block, whether it is open
(else queued), the time of acceptance (ns), the status word, the home-die list, the member table, the slots in use, the slots
reserved in overflow by die, the dies whose done map lies there, the done map, the result pieces (number, LAST, bytes) of chunks not wholly
received, the chunks received, the DELIVER packets outstanding by chunk, whether one was given up, and the local contribution: whether the
knot was taken, the chunks whose pricking bytes were sent, whose WINDOW arrived, whose data was sent, the first chunk never sent. cpos is the
position of its last progress entry. edges holds, by offset, the bits (their mask and value) that a POOLED_SUM's results have brought of a byte
that two of them share (R213); refused says that an access of its local contribution was refused (R408). -/
structure Ctx where
  id : Nat
  gen : Nat
  blk : BitVec 1024
  op : Option Nat
  sq : Nat
  idx : Nat
  cq : Nat
  tag : Nat
  noint : Bool
  opened : Bool
  at0 : Nat
  status : Word32
  dies : List Nat
  members : List Member
  slots : List Slot
  spill : Tbl Nat
  mapSpill : NSet
  emitted : NSet
  pieces : Tbl (List (Nat × Bool × List Byte))
  got : NSet
  dlv : Tbl Nat
  gaveUp : Bool
  ltaken : Bool
  lpricked : NSet
  lwin : NSet
  lsent : NSet
  lnext : Nat
  digest : Word128
  cpos : Nat := 0
  edges : Tbl (Nat × Nat) := []
  refused : Bool := false
  deriving DecidableEq, Repr

/-- The drain in progress (R286): stage, epoch, N0 and what started it. -/
structure Drain where
  stage : Nat
  epoch : Nat
  n0 : Nat
  op : Option Nat
  deriving DecidableEq, Repr

end Sys2Proof
end

