-- ==== Sys2Proof/Machine/State.lean ====
section
/-! DEFINITION. The state of the block: everything the spec gives the part, as plain data. -/

namespace Sys2Proof.Machine

/-- No command stops the block: the spec reports every error and goes on, so no fault has a constructor. -/
inductive Fault where
  deriving DecidableEq, Repr

/-- Why a command has no meaning. notModelled is raised by exec's arm of a command not yet modelled (safe: the block stops). -/
inductive Refusal where
  | notModelled (mnemonic : String)
  deriving DecidableEq, Repr

/-- The state of one die. -/
structure Die where
  /-- The register words that software wrote, by byte address in the die's window (file 12 Table 12-1); an unlisted one holds its reset value. -/
  regs : Tbl Word32
  /-- 0 in service, 1 in selvage, 2 fenced (R424, R425, R430, R449). -/
  flt : Nat
  /-- Ground memory (file 06). -/
  gnd : Ground
  /-- Logical cores 0 to 149, by number; an unlisted one is as at reset (R9). -/
  cores : Tbl Core
  /-- Engine requests accepted (R152). -/
  engs : List EngReq
  /-- The engines fenced: 0 pooling, 1 top-k, 2 and 3 codec, 4 digest (R153, R425). -/
  engFenced : NSet
  /-- The engines awake (R457). -/
  engAwake : NSet
  /-- The DMA movers fenced, of 0 to 3 (R176). -/
  moverFenced : NSet
  /-- The reduction pipelines fenced, of 0 and 1 (R222). -/
  pipeFenced : NSet
  /-- The spare physical cores in use (R9 to R11). -/
  physUsed : NSet
  /-- The physical cores retired (R11, R428). -/
  physBad : NSet
  /-- The die's compute is fenced (R425). -/
  compFenced : Bool
  /-- Open top-k sets by number (R164). -/
  topk : Tbl TopkSet
  /-- DMA requests in flight (R174). -/
  dmas : List DmaReq
  /-- Hardware knots 0 to 255 by number; an unlisted one is as at reset (R388). -/
  knots : Tbl Knot
  /-- The time counter, in units of 2^-32 ns (R377). -/
  clock : Nat
  /-- Latched high words of registers read in two halves, by register (R405). -/
  lat : Tbl Nat
  /-- Core clock cycles delivered, in sixteenths (R490). -/
  cycles : Nat
  /-- Fault counts and the last FAULT event by detector code (R422, R423, R449). -/
  faults : FaultLog
  /-- The Darlet stack (file 14). -/
  stk : Stack
  /-- The die's end of the transport (R241 to R246). -/
  tr : Xport
  /-- Packets that wait at their point of emission (R516, R244, R241). -/
  txq : List TxItem
  /-- The 3 ms wait after reset still holds sequenced packets back (R244). -/
  holdoff : Bool
  /-- The finish table, by source chip and tag (R255). -/
  fin : Tbl FinEnt
  /-- Requests issued and not seen answered (R518). -/
  reqs : List ReqOut
  /-- The next tag for a request (R254). -/
  nextTag : Nat
  /-- Packets delivered to the die and not consumed yet (R267). -/
  inbox : List Held
  /-- Event counts of the die's fabric registers, by register field (R262, R292, R223, R406). -/
  cnt : Tbl Nat
  /-- Packets held back by a drain (R286). -/
  held : List Held
  /-- Packets with no eligible output (R274). -/
  adapt : List Held
  /-- Rings of free packet-buffer handles by pool; an unlisted one is full (R297). -/
  pools : Tbl Pool
  /-- Handle caches by pool and group (R298). -/
  caches : Tbl (List Nat)
  /-- Packet buffers in use, by handle (R301). -/
  bufs : Tbl BufEnt
  /-- Credit units in use by internal requester (R300). -/
  reqUse : Tbl Nat
  /-- Bridges by number (R19, R429). -/
  brs : Tbl Bridge
  /-- Output queues by local port, 96 to 99 for the bridges (R305). -/
  outs : Tbl OutQ
  /-- Ports by their lowest lane; an unlisted one is as at reset (R336). -/
  ports : Tbl Port
  /-- Lanes 0 to 95 (R328). -/
  lanes : Tbl Lane
  /-- Cages by octet (R344). -/
  cages : Tbl Cage
  /-- Packets whose header has arrived and whose end has not, by input: header, buffer, the time of the header and the counter then, in 1/16 ns
  (R293, R296, R313, R384). -/
  rxPend : Tbl (BitVec 256 × Option Nat × Nat × Nat)
  /-- When the die last sent a RESEND, by source chip (R247). -/
  resendAt : Tbl Nat
  /-- When the last BARRED event of a port was posted (R238). -/
  barredAt : Tbl Nat
  /-- Which of two bridges the next sprayed packet takes (R14). -/
  spray : Nat
  /-- Collective packets kept until acknowledged (R249). -/
  coll : List CollRec
  /-- The next identifier for a request or record of the die (the model's own). -/
  nextId : Nat
  /-- Junction temperature (R463). -/
  tj : Nat
  /-- Highest junction temperature (R463). -/
  tjMax : Nat
  /-- Thermal duty in sixteenths (R463). -/
  tduty : Nat
  /-- When the thermal duty last changed (R463). -/
  tdAt : Nat
  /-- AVS setpoint (R453). -/
  vset : Nat
  /-- When the setpoint last stepped (R453). -/
  vAt : Nat
  /-- Whether the regulator has acknowledged the last step (R453). -/
  vAck : Bool
  /-- Since when the die has been at or above the trip temperature (R463). -/
  hotAt : Option Nat
  /-- Packet-buffer spare rows used, by bank (R442, R449). -/
  pbRows : Tbl Nat
  /-- Packet-buffer handles withdrawn (R442). -/
  pbOut : NSet
  /-- Packet-buffer rows lost (R449). -/
  pbLost : Nat
  /-- Spare rows used of the die's other memories (R443). -/
  memRows : Tbl Nat
  deriving DecidableEq, Repr

/-- The state of the package. -/
structure State where
  /-- TX8, TX4 or TX2 (Table 0-1; log entry 1). -/
  variant : Variant
  /-- The power phase (R458, R435). -/
  phase : Phase
  /-- The commands that wait, first in first out: the model's own field. -/
  pending : List Instr
  /-- What has left the package, newest last: the model's own field (log entry 4). -/
  out : List Out
  /-- The next index that a free value is drawn with: the model's own field (log entry 5). -/
  fresh : Nat
  /-- Time in ns since the release of reset: the model's own count (log entry 3). -/
  now : Nat
  /-- The dies by position; an unlisted one is as at reset. -/
  dies : Tbl Die
  /-- Descriptor operations accepted and not committed (R368). -/
  ops : List Op
  /-- Completion records that wait at their commit point (R365). -/
  recs : List Rec
  /-- Submission rings 0 to 255 (R361). -/
  sqs : Tbl SubRing
  /-- The submission ring whose turn comes next (R361; log entry 49). -/
  sqTurn : Nat
  /-- Completion rings 0 to 255 (R365). -/
  cqs : Tbl ComRing
  /-- The event ring (R374). -/
  ev : ComRing
  /-- Events dropped (R374). -/
  evLost : Nat
  /-- An event was dropped since the last one posted (R374). -/
  evFlag : Bool
  /-- Engine requests released by HALT that no engine has accepted (R105, R152). -/
  engWait : List EngReq
  /-- The activities that hold hoops (R370). -/
  hoopHold : List HoopReq
  /-- The hoop queue (R370). -/
  hoopQ : List HoopReq
  /-- The package-wide and fabric-wide knots, from 256 (R388). -/
  pknots : Tbl Knot
  /-- The fabric tables in force (R263, R371). -/
  tabs : Tables
  /-- Their staged copies (R371). -/
  stagedTabs : Tables
  /-- The drain in progress (R286). -/
  drain : Drain
  /-- Output groups that warm up, by direction (R275). -/
  warm : Tbl Warm
  /-- Collective contexts, open or queued (R180, R204). -/
  ctxs : List Ctx
  /-- Which Itgil link is active (R355). -/
  itgActive : Nat
  /-- Which Itgil links are up (R355). -/
  itgUp : NSet
  /-- The widths that the Itgil links trained to (R352). -/
  itgWidth : Tbl Nat
  /-- Whether failover is automatic (R355). -/
  itgAuto : Bool
  /-- Failovers made (R355). -/
  itgFail : Nat
  /-- R355: the active link is down and no other has taken over. -/
  itgLost : Bool
  /-- R355: the completion, event and progress stores and interrupts that may be in progress on the link: with the time, oldest first. -/
  itgWait : List (Nat × Out)
  /-- The die of the lead steward (R20). -/
  lead : Nat
  /-- Whether the setup locks are set (R358). -/
  locked : Bool
  /-- Time synchronization and the lock-step log (file 13). -/
  time : TimeSt
  /-- Power state of the package (file 16). -/
  power : Power
  /-- The boot in progress and what it settled (R466, R485). -/
  boot : Boot
  /-- The keep, which survives reset (Table 17-1). -/
  keep : Keep
  /-- Repair records that the keep does not hold yet (R441). -/
  recPending : List RepEntry
  /-- The test port (R507). -/
  test : TestPort
  deriving DecidableEq, Repr

/-- Table 12-15 at reset. -/
def sqReset : SubRing :=
  { base := 0, pbase := 0, pen := false, log2 := 6, rver := 0x10, dver := 0x10, en := false, state := 0, err := 0,
    head := 0, tail := 0, aborts := [], quiet := [], waitPosted := false }

/-- Table 12-16 at reset. -/
def cqReset : ComRing :=
  { base := 0, log2 := 6, ien := false, vector := 0, coalN := 1, coalT := 0, en := false, state := 0, err := 0,
    head := 0, tail := 0, count := 0, armed := true }

/-- Tables 3-12, 3-13 at reset. -/
def repReset : ArrRepair := { failed := 0x3F, used := false, exhausted := false, chk := 0 }

def corePmcReset : CorePmc := { cnt := [], sel := [], slot := [], latch := [] }

/-- A logical core at reset: its own physical core, asleep, nothing resident. -/
def coreReset (c : Nat) : Core :=
  { phys := c, retired := false, asleep := true, testing := false, fenced := false, c2 := [], image := none, scratch := [],
    acc := [], g := [], slots := [], convs := [], jobs := [], run := none, weights := none, aq := [], accq := [], vq := [],
    rep0 := repReset, rep1 := repReset, accStatus := 0, vecStatus := 0, pmc := corePmcReset }

/-- Table 13-9 at reset. -/
def knotReset : Knot :=
  { cfg := 0x4, time := 0x2814, fab := 0, gen := 0, arrivals := 0, count := 0, takes := [], armed := [], results := [],
    sentArrive := false, counted := [], hgen := 0, lastOk := false, lastT := 0, lastTimed := false }

def gndReset : Ground :=
  { cells := [], pois := [], latent := [], ce := 0, ue := 0, retired := [], rows := [], weak := [] }

def faultLogReset : FaultLog := { c0 := 0, c1 := 0, c2 := 0, c3 := 0, last := [] }

def stkReset : Stack :=
  { cells := [], pois := [], latent := [], ce := 0, ue := 0, rows := [], cols := [], retired := none, spareCh := none, copying := none,
    ready := false, selfRef := false, temp := 0, hotref := false, throttle := false, weak := [], refreshed := 0, linkFails := [] }

def xportReset : Xport := { rxw := [], txs := [], ackDue := [] }

/-- R297: every handle of pool k is in its ring. -/
def poolReset : Pool := { fresh := 0, back := [] }

def outReset : OutQ := { q := [], ptr := 4, dfc := [], vis := [] }

def t1Reset : T1 := { tr := xportReset, rx := { base := 0, map := 0 }, next := 0, parts := [], chans := [] }

def portPmcReset : PortPmc := { fix := 0, cnt := [], sel := [], win := [], tx := 0, rx := 0, peak := 0, latch := [] }

/-- Tables 11-18 to 11-20 at reset: state OFF. -/
def portReset : Port :=
  { st := 0, width := 0, major := 0, minor := 0, txuse := 0, faruse := 0, fails := 0, downs := [], was := none, recal := none, far := none,
    farSt := 0, farDrained := false, txA := [], txS := [], txR := [], txC := [], rxRet := [], held := 0, reserved := false, adv := false,
    remAt := 0, shTok := [], polTok := [], gate := none, staged := none, hist := 0, pdrop := 0, pmc := portPmcReset, t1 := t1Reset,
    delays := [], fos := false }

/-- Tables 11-22, 11-23 at reset. -/
def laneReset : Lane :=
  { sig := false, lock := false, trained := false, pol := false, rxmap := 0, rxuse := false, txuse := false, preRx := false,
    prbsLock := false, preset := 0, failed := false, cm1 := 0, c0 := 0, cp1 := 0, fecc := 0, fecu := 0, prbse := 0, uncRow := 0,
    uncs := [], readySent := 0, readyGot := 0, hellos := 0, mark := none, done := false, preTx := false, sts := 0 }

def cageReset : Cage := { prs := false, btn := false, faults := [], early := false, modst := 0, ready := false, flat := false }

/-- A bridge with its sixteen groups working. -/
def bridgeReset : Bridge := { groups := 16, spares := [], failed := false, use := [] }

def tablesReset : Tables := { shape := none, trunk := [], chips := [], wins := [], grants := [], avoid := [] }

def warmReset : Warm := { dec := 0, since := none, warming := true }

/-- Tables 13-1, 13-8 at reset. -/
def timeReset : TimeSt :=
  { st := 0, rootValid := false, hops := 0x3F, good := 0, stepped := false, offset := 0, fadj := 0, ptpDrop := 0, logIdx := 0, lsMatch := 0,
    lsMis := 0, lsOrph := 0, own := [], peer := [] }

def drainReset : Drain := { stage := 0, epoch := 0, n0 := 0, op := none }

def dieReset (_v : Variant) (_d : Nat) : Die :=
  { regs := [], flt := 0, gnd := gndReset, cores := [], engs := [], engFenced := [], engAwake := [], moverFenced := [], pipeFenced := [], physUsed := [], physBad := [], compFenced := false,
    topk := [], dmas := [],
    knots := [], clock := 0, lat := [], cycles := 0, faults := faultLogReset, stk := stkReset, tr := xportReset, txq := [], holdoff := true, fin := [],
    reqs := [], nextTag := 0, inbox := [], cnt := [], held := [], adapt := [], pools := [], caches := [], bufs := [], reqUse := [],
    brs := [], outs := [], ports := [], lanes := [], cages := [], rxPend := [], resendAt := [], barredAt := [], spray := 0,
    coll := [], nextId := 0, tj := 0, tjMax := 0, tduty := 16, tdAt := 0, vset := 30, vAt := 0, vAck := true, hotAt := none,
    pbRows := [], pbOut := [], pbLost := 0, memRows := [] }

/-- Table 16-6 at reset; VDD_STK was off (log entry 6). -/
def powerReset : Power :=
  { refused := false, entering := false, capDuty := 16, capAt := none, capLim := false, watts := 0, throt := false, coreEn := true,
    laneEn := true, alive := false, porst := false, sysrst := false, stkOff := true }

def bootReset : Boot :=
  { verified := false, checked := [], booted := false, slot := 0, fallback := false, failing := 0, ids := [], noIds := [],
    fenced := [], uid := 0, svn := 0, meas := [], told := false }

/-- The keep as the model's part leaves the factory (log entry 7): slot A valid with SVN 0, slot B empty, nothing recorded. -/
def keepReset : Keep :=
  { a := { valid := true, svn := 0, meas := List.replicate 48 0 }, b := { valid := false, svn := 0, meas := [] }, pref := 0, record := [],
    presets := [], presetAt := [], certs := [[], []], arb := 0, faultLog := [], ident := 1 }

/-- R507: IDCODE is selected. -/
def testReset : TestPort := { ir := 0x01, cells := 0 }

/-- The event ring at reset (Table 12-16): COAL_N counts as 1. -/
def evReset : ComRing := cqReset

/-- The package right after the release of its first package reset (R455, R466, R468): booting, every register at its reset value. The
variant and the Itgil widths are the model's choice (log entries 1, 6). -/
def State.reset : State :=
  { variant := .tx8, phase := .booting, pending := [], out := [], fresh := 0, now := 0, dies := [], ops := [], recs := [], sqs := [],
    sqTurn := 0, cqs := [], ev := evReset, evLost := 0, evFlag := false, engWait := [], hoopHold := [], hoopQ := [], pknots := [],
    tabs := tablesReset, stagedTabs := tablesReset, drain := drainReset, warm := [], ctxs := [], itgActive := 0, itgUp := [],
    itgWidth := [], itgAuto := true, itgFail := 0, itgLost := false, itgWait := [], lead := 0, locked := false, time := timeReset, power := powerReset, boot := bootReset,
    keep := keepReset, recPending := [], test := testReset }

end Sys2Proof.Machine
end

