-- ==== Sys2Proof/Machine/Ops.lean ====
section
/-! DEFINITION. The named operations over the state that every family uses: dies and cores, events, rings, completion records,
descriptor operations, progress entries. -/

namespace Sys2Proof.Machine

/-! Dies and cores -/

/-- Table 0-1: dies of a variant. -/
def ndies (v : Variant) : Nat :=
  match v with
  | .tx8 => 8 | .tx4 => 4 | .tx2 => 2

def getDie (s : State) (d : Nat) : Die := tget s.dies d (dieReset s.variant d)
def setDie (s : State) (d : Nat) (x : Die) : State := { s with dies := tset s.dies d x }
def updDie (s : State) (d : Nat) (f : Die → Die) : State := setDie s d (f (getDie s d))

def coreOf (x : Die) (c : Nat) : Core := tget x.cores c (coreReset c)
def getCore (s : State) (d c : Nat) : Core := coreOf (getDie s d) c
def setCore (s : State) (d c : Nat) (x : Core) : State := updDie s d (fun y => { y with cores := tset y.cores c x })
def updCore (s : State) (d c : Nat) (f : Core → Core) : State := setCore s d c (f (getCore s d c))

/-- Whether the register windows answer: after start-up, in Standby too (R459, R466). -/
def regsUp (s : State) : Bool := s.phase == .up || s.phase == .standby

/-- The time counter of a die in ns (file 13). -/
def timeNs (s : State) (d : Nat) : Nat := (getDie s d).clock >>> 32

/-- Adds something that leaves the block. -/
def emit (s : State) (o : Out) : State := { s with out := s.out ++ [o] }

def emits (s : State) (os : List Out) : State := { s with out := s.out ++ os }

/-- R355: a completion, event or progress store over the active link. While the link is down it waits for a failover; one of the last 20 µs may still
be in progress (log entry 68). -/
def linkStore (s : State) (addr : Nat) (bs : List Byte) : State :=
  if s.itgLost then { s with itgWait := s.itgWait ++ [(s.now, .store addr bs)] }
  else { s with out := s.out ++ [.store addr bs], itgWait := s.itgWait.filter (fun e => decide (s.now < e.1 + 20000)) ++ [(s.now, .store addr bs)] }

/-- R354, R355: an interrupt, which comes after the record that causes it. -/
def linkIrq (s : State) (v : Nat) : State :=
  if s.itgLost then { s with itgWait := s.itgWait ++ [(s.now, .interrupt v)] } else emit s (.interrupt v)

/-- Draws the next free value's index (log entry 5). -/
def draw (s : State) : Nat × State := (s.fresh, { s with fresh := s.fresh + 1 })

/-! Status codes (Table 12-11) -/

def statusCode (st : Status) : Nat :=
  match st with
  | .ok => 0x00 | .alreadyComplete => 0x01 | .aborted => 0x02 | .timeout => 0x03 | .faulted => 0x04
  | .noReplay => 0x05 | .incomplete => 0x06
  | .badDesc => 0x10 | .badFormat => 0x11 | .badInsn => 0x12 | .badAddr => 0x13 | .badSlot => 0x14
  | .badShape => 0x15 | .badClip => 0x16 | .badKnot => 0x17 | .badReq => 0x18 | .badCore => 0x19
  | .badGroup => 0x1A | .badTime => 0x1B | .badGate => 0x1C | .permDenied => 0x1D
  | .coreGone => 0x20 | .engineGone => 0x21 | .dieUnreachable => 0x22 | .homeLost => 0x23
  | .memUe => 0x24 | .noAck => 0x25
  | .noRoom => 0x30 | .noBuf => 0x31 | .ctxBusy => 0x32 | .setBusy => 0x33 | .gateBusy => 0x34
  | .hoopBusy => 0x35 | .notReady => 0x36 | .notTimed => 0x37 | .noSet => 0x38 | .duplicate => 0x39
  | .noModule => 0x3A | .modNoack => 0x3B
  | .fw n => 0x40 + n
  | .raw c => c

/-! Interrupts, events and completion records -/

/-- R365: the PHASE bit of the record at index j. -/
def phaseBit (log2 j : Nat) : Nat := if (j >>> log2) % 2 = 0 then 1 else 0

/-- R366: after a record that counts toward interrupts: the ring and whether its interrupt is raised. -/
def countRecord (r : ComRing) : ComRing × Bool :=
  let n := r.count + 1
  if r.ien && r.armed && decide (r.coalN ≤ n) then ({ r with count := 0, armed := false }, true)
  else ({ r with count := n }, false)

/-- Whether a ring has room for a record (R365). -/
def ringRoom (r : ComRing) : Bool := (r.tail + 2 ^ 32 - r.head) % 2 ^ 32 < 2 ^ r.log2

/-- R374, R366: posts an event; dropped and counted where the event ring is disabled, stopped or full. Its COAL_N counts as 1. -/
def postEvent (s : State) (code die d0 d1 d2 d3 : Nat) : State :=
  let r := s.ev
  if !r.en || r.state == 3 || !ringRoom r then
    { s with evLost := satInc (2 ^ 32 - 1) s.evLost, evFlag := true }
  else
    let j := r.tail
    let t := timeNs s (if die < ndies s.variant then die else s.lead)
    let bytes := toLe 2 code ++ toLe 1 die ++ toLe 1 (phaseBit r.log2 j + 2 * b2n s.evFlag) ++ toLe 4 0
      ++ toLe 8 t ++ toLe 4 d0 ++ toLe 4 d1 ++ toLe 4 d2 ++ toLe 4 d3
    let (r', irq) := countRecord { r with tail := (j + 1) % 2 ^ 32, coalN := 1 }
    let s1 := linkStore { s with ev := { r' with coalN := r.coalN }, evFlag := false } (r.base + 32 * (j % 2 ^ r.log2)) bytes
    if irq then linkIrq s1 r.vector else s1

def getSq (s : State) (q : Nat) : SubRing := tget s.sqs q sqReset
def setSq (s : State) (q : Nat) (r : SubRing) : State := { s with sqs := tset s.sqs q r }
def getCq (s : State) (q : Nat) : ComRing := tget s.cqs q cqReset
def setCq (s : State) (q : Nat) (r : ComRing) : State := { s with cqs := tset s.cqs q r }

/-- RING_ERROR (Table 12-14): d0 has bit 8 for a completion ring, d1 is ERR. -/
def ringError (s : State) (cq : Bool) (q err : Nat) : State := postEvent s 0x0D 0xFF (q + 256 * b2n cq) err 0 0

/-- Table 12-4: the 32 bytes of a record at index j of a ring. -/
def recBytes (r : Rec) (log2 j : Nat) : List Byte :=
  toLe 8 r.tag ++ toLe 2 (statusCode r.status) ++ toLe 1 r.sq ++ toLe 1 (phaseBit log2 j + 2 * r.source)
    ++ toLe 4 r.idx ++ toLe 4 r.pos ++ toLe 4 r.d0.toNat ++ toLe 4 r.d1.toNat ++ toLe 4 r.d2.toNat

/-- Whether a completion ring takes a record now: enabled (or draining) with room. -/
def cqTakes (s : State) (q : Nat) : Bool :=
  let r := getCq s q
  (r.state == 1 || r.state == 2) && ringRoom r

/-- R151, R376: whether an engine request's RING action names completion ring q. -/
def ringReq (r : Word512) (q : Nat) : Bool := bit r 26 && fld r 87 80 == q

/-- A ring version or descriptor version that the device supports (R359, R360): 1.0. -/
def versionOk (v : Nat) : Bool := v == 0x10

/-- R360: a submission ring that starts: RUNNING, or ERROR with ERR 1 where a version is not supported. -/
def startSq (r : SubRing) : SubRing :=
  if versionOk r.rver && versionOk r.dver then { r with state := 1, err := 0 } else { r with state := 3, err := 1 }

/-- A draining ring that no accepted operation names any more is DISABLED, or starts where EN was written 1 again (R376; log entry 75). -/
def settleRings (s : State) : State :=
  let job (j : Job) (q : Nat) : Bool := j.op.isNone && j.cq == q
  let core (k : Core) (q : Nat) : Bool :=
    k.jobs.any (fun j => job j q) || (match k.run with | some r => job r.job q | none => false)
  let sqBusy (q : Nat) : Bool :=
    s.ops.any (fun o => o.sq == q) || s.ctxs.any (fun c => c.sq == q) || s.recs.any (fun r => r.sq == q && decide (r.source ≤ 1))
  let cqBusy (q : Nat) : Bool :=
    s.ops.any (fun o => o.cq == q) || s.recs.any (fun r => r.cq == q) || s.ctxs.any (fun c => c.cq == q)
      || s.engWait.any (fun e => ringReq e.req q)
      || s.dies.any (fun x => x.2.cores.any (fun k => core k.2 q) || x.2.engs.any (fun e => ringReq e.req q)
        || x.2.topk.any (fun t => ringReq t.2.req q))
  { s with
    sqs := s.sqs.map (fun (q, r) => (q, if r.state == 2 && !sqBusy q then (if r.en then startSq r else { r with state := 0 }) else r))
    cqs := s.cqs.map (fun (q, r) => (q, if r.state == 2 && !cqBusy q then { r with state := b2n r.en } else r)) }

/-- R369: whether a record need wait for no other's. -/
def recReady (s : State) (r : Rec) : Bool :=
  match r.after with
  | some (q, i) => !s.ops.any (fun o => o.sq == q && o.idx == i) && !s.recs.any (fun x => x.sq == q && x.idx == i && x.source ≤ 1)
  | none => true

/-! Descriptor operations -/

def findOp (s : State) (id : Nat) : Option Op := s.ops.find? (fun o => o.id == id)

def updOp (s : State) (id : Nat) (f : Op → Op) : State :=
  { s with ops := s.ops.map (fun o => if o.id == id then f o else o) }

/-- R367: the 16-byte progress entry of descriptor idx. done says that the operation committed. -/
def progressBytes (idx pos total : Nat) (done : Bool) : List Byte :=
  let pm := if total = 0 then 0 else if done then 1000 else min 999 (1000 * pos / total)
  toLe 4 pos ++ toLe 4 total ++ toLe 2 pm ++ toLe 2 0 ++ toLe 4 idx

/-- R367: writes the progress entry of descriptor idx of ring q where that ring keeps them. -/
def progressEntry (s : State) (q idx pos total : Nat) (done : Bool) : State :=
  let r := getSq s q
  if r.pen then linkStore s (r.pbase + 16 * (idx % 2 ^ r.log2)) (progressBytes idx pos total done) else s

/-- R367: writes an operation's progress entry. -/
def putProgress (s : State) (o : Op) (done : Bool) : State := progressEntry s o.sq o.idx o.pos o.total done

/-- Moves an operation's position; its entry is written when it has advanced by ceil(TOTAL / 1024) since the last one (R367). -/
def setPos (s : State) (id pos : Nat) : State :=
  match findOp s id with
  | none => s
  | some o =>
    let due := decide (o.total ≠ 0 ∧ cdiv o.total 1024 ≤ pos - o.wpos)
    let s1 := updOp s id (fun o => { o with pos := pos, wpos := if due then pos else o.wpos })
    if due then putProgress s1 { o with pos := pos } false else s1

/-- R286, R287: whether a drain has stopped admission: it reopens with stage 4. -/
def stopped (s : State) : Bool := s.drain.stage != 0 && s.drain.stage != 4

/-- R368, R370: an operation has its record: it leaves the list with the hoops that it held, and a drain that it started is over (R286). -/
def endOp (s : State) (id : Nat) : State :=
  { s with
    ops := s.ops.filter (fun o => o.id != id)
    hoopHold := s.hoopHold.filter (fun h => h.op != some id)
    drain := if s.drain.op = some id then { s.drain with stage := 0, op := none } else s.drain }

/-- R216, R367: the progress entry that goes with a context's record. -/
def recProgress (s : State) (r : Rec) (done : Bool) : State :=
  match r.total with
  | some t => progressEntry s r.sq r.idx r.pos t done
  | none => s

/-- R481: a STAGE that commits sets its slot's valid flag. -/
def commitSlot (s : State) (r : Rec) : State :=
  match r.op.bind (findOp s) with
  | some o =>
    if o.type = 9 ∧ r.status = .ok ∧ fld o.desc 135 128 = 0 then
      (if fld o.desc 143 136 = 0 then { s with keep := { s.keep with a := { s.keep.a with valid := true } } }
       else { s with keep := { s.keep with b := { s.keep.b with valid := true } } })
    else s
  | none => s

/-- Writes a record at its completion ring's tail (R354, R365, R366), after its operation's last progress entry (R367), and ends its operation.
The entry of an open stays its context's, which has not committed (R205, R217). -/
def writeRec (s : State) (r : Rec) : State :=
  let s0 := match r.op.bind (findOp s) with
    | some o => putProgress (commitSlot s r) { o with pos := r.pos } (r.status == .ok && o.type != 4)
    | none => recProgress s r (r.status == .ok || r.status == .noAck)
  let c := getCq s0 r.cq
  let j := c.tail
  let c1 := { c with tail := (j + 1) % 2 ^ 32 }
  let (c2, irq) := if r.noint then (c1, false) else countRecord c1
  let s1 := linkStore (setCq s0 r.cq c2) (c.base + 32 * (j % 2 ^ c.log2)) (recBytes r c.log2 j)
  let s2 := if irq then linkIrq s1 c.vector else s1
  settleRings (match r.op with
    | some id => endOp s2 id
    | none => s2)

/-- R365: writes a record, or keeps it waiting at its commit point. -/
def postRec (s : State) (r : Rec) : State :=
  if cqTakes s r.cq && recReady s r && !s.recs.any (fun x => x.cq == r.cq && recReady s x) then writeRec s r
  else
    let s1 := match r.op with
      | some id => setPos s id r.pos
      | none => recProgress s r false
    { s1 with recs := s1.recs ++ [r] }

/-- The record of a descriptor operation. -/
def opRec (o : Op) (st : Status) (pos : Nat) (d0 d1 d2 : Word32) : Rec :=
  { op := some o.id, cq := o.cq, tag := o.tag, status := st, sq := o.sq, source := 0, idx := o.idx, pos := pos,
    d0 := d0, d1 := d1, d2 := d2, noint := o.noint, told := false }

/-- Completes a descriptor operation with a status at a position (R368). -/
def completeWith (s : State) (o : Op) (st : Status) (pos : Nat) (d0 d1 d2 : Word32) : State := postRec s (opRec o st pos d0 d1 d2)

def complete (s : State) (o : Op) (st : Status) (pos : Nat) : State := completeWith s o st pos 0 0 0

/-- Completes the operation of an identifier, where there is one. -/
def completeId (s : State) (id : Nat) (st : Status) (pos : Nat) : State :=
  match findOp s id with
  | none => s
  | some o => complete s o st pos

/-! The drain's position (R286, R288) -/

/-- R288: FAB_INFLIGHT: packets routed under the tables in force that have not left. -/
def inflight (s : State) : Nat :=
  ((upto (ndies s.variant)).map (fun d =>
    let x := getDie s d
    x.inbox.length + x.adapt.length + (x.outs.map (fun o => o.2.q.length)).foldl (· + ·) 0)).foldl (· + ·) 0

/-- R286: the drain's position. -/
def drainPos (s : State) : Nat :=
  match s.drain.stage with
  | 0 | 1 => 0
  | 2 => if s.drain.n0 = 0 then 960 else 64 + 896 * (s.drain.n0 - inflight s) / s.drain.n0
  | 3 => 992
  | _ => 1024

def drainProgress (s : State) : State :=
  match s.drain.op with
  | some id => setPos s id (drainPos s)
  | none => s

/-- R286: in stage 2 the position follows the packets in flight. -/
def drainTick (s : State) : State := if s.drain.stage = 2 then drainProgress s else s

/-! Commit points -/

/-- R365: whether an operation waits at its commit point. -/
def atCommit (s : State) (id : Nat) : Bool := s.recs.any (fun r => r.op == some id)

/-- Whether a holder's activity is over and only its record waits (R370). -/
def holdOver (s : State) (h : HoopReq) : Bool := match h.op with | some id => atCommit s id | none => false

end Sys2Proof.Machine
end

