-- ==== Sys2Proof/Machine/Regs.lean ====
section
/-! DEFINITION. The register words that software writes: their offsets in a die's window (Table 12-1) and their reset values. -/

namespace Sys2Proof.Machine

/-! Offsets of the blocks in a die's window (Table 12-1) -/

def oGND : Nat := 0x0000000
def oENG : Nat := 0x0001000
def oCOLL : Nat := 0x0002000
def oFAB : Nat := 0x0003000
def oSW : Nat := 0x0010000
def oBPM : Nat := 0x0020000
def oPORT : Nat := 0x0030000
def oLANE : Nat := 0x0040000
def oCAGE : Nat := 0x0050000
def oTIME : Nat := 0x0060000
def oKNOT : Nat := 0x0070000
def oSTK : Nat := 0x0080000
def oFLT : Nat := 0x0090000
def oREP : Nat := 0x00A0000
def oPWR : Nat := 0x00B0000
def oSEC : Nat := 0x00C0000
def oPMC : Nat := 0x00D0000
def oCORE : Nat := 0x1000000

def rGND_LAYOUT : Nat := oGND + 0x004
def rGND_PART (n : Nat) : Nat := oGND + 0x040 + 4 * n
def rENG_SEED_LO : Nat := oENG + 0x008
def rENG_SEED_HI : Nat := oENG + 0x00C
def rFAB_SELF : Nat := oFAB + 0x000
def rFAB_TIMERS : Nat := oFAB + 0x004
def rPMC_CCTL (c : Nat) : Nat := oPMC + 0x100 * c + 0x08

def rFAB_ROUTE : Nat := oFAB + 0x020
def rFAB_VCRES : Nat := oFAB + 0x024
def rSW_SAMPLE : Nat := oSW + 0x004
def rSW_HIST_BASE : Nat := oSW + 0x008
def rSW_PORT (l off : Nat) : Nat := oSW + 0x1000 + 0x100 * l + off
def rBPM_QUOTA (n : Nat) : Nat := oBPM + 0x040 + 4 * n
def rTIME_CFG : Nat := oTIME
def rTIME_ROOT : Nat := oTIME + 0x014
def rTIME_PTP : Nat := oTIME + 0x018
def rTIME_DLOG : Nat := oTIME + 0x020
def rTIME_LSTEP : Nat := oTIME + 0x028
def rPORT_TIMERS : Nat := oPORT
def rPORT_CFG (o : Nat) : Nat := oPORT + 0x040 + 4 * o
def rPWR_CTL : Nat := oPWR
def rPWR_CAP : Nat := oPWR + 0x008
def rPWR_IDLE : Nat := oPWR + 0x00C
def rPMC_PWIN (l : Nat) : Nat := oPMC + 0xA000 + 0x80 * l + 0x40
def rLANE_CTL (i : Nat) : Nat := oLANE + 0x20 * i
def rCAGE_CFG (o : Nat) : Nat := oCAGE + 0x10 * o

/-- Tables 10-13 to 10-17: the reset value of a port's SW_ register, by its port offset. -/
def swDefault (o : Nat) : Nat :=
  if o = 0x00 then 0x26534
  else if o = 0x08 ∨ o = 0x0C ∨ o = 0x10 then 0x11111111
  else if 0x20 ≤ o ∧ o < 0x90 then (if o % 8 = 4 then 0x100 else 0)
  else if o = 0xB8 ∨ o = 0xC0 then 0x10320
  else if 0x90 ≤ o ∧ o < 0xC8 then (if o % 8 = 4 then 0x400 else 0)
  else 0

/-- The reset value of a register word that software writes, by its offset in the die's window. -/
def regDefault (off : Nat) : Nat :=
  if off = rGND_LAYOUT then 0x20
  else if off = rFAB_TIMERS then 0x28414F10
  else if off = rFAB_ROUTE then 0x65
  else if off = rFAB_VCRES then 0x01004488
  else if off = rSW_SAMPLE then 0x4
  else if off = rTIME_CFG then 0x00119028
  else if off = rTIME_DLOG then 0xC
  else if off = rTIME_LSTEP then 0xA0000
  else if off = oPORT then 0x0008100A
  else if off = oSTK + 4 then 0x4
  else if off = oPWR then 0x6
  else if off = oPWR + 0x00C then 0x20A
  else if oBPM + 0x40 ≤ off ∧ off < oBPM + 0x74 then 0x4000
  else if off = oBPM + 0x74 then 0x20000
  else if oSW + 0x1000 ≤ off ∧ off < oSW + 0x7000 then swDefault ((off - oSW) % 0x100)
  else if oPMC + 0xA000 ≤ off ∧ off < oPMC + 0xD000 ∧ off % 0x80 = 0x40 then 0x3E8
  else 0

/-- A die's register word. -/
def regWord (x : Die) (off : Nat) : Word32 := tget x.regs off (BitVec.ofNat 32 (regDefault off))

/-- A field of a die's register word. -/
def regFld (x : Die) (off hi lo : Nat) : Nat := fld (regWord x off) hi lo

end Sys2Proof.Machine
end

