-- ==== Sys2Proof/Machine/Pmc.lean ====
section
/-! DEFINITION. File 18: adding to a core's performance counters. -/

namespace Sys2Proof.Machine

/-- Counter n of a core, and its select word. -/
def pmcSel (p : CorePmc) (n : Nat) : Word32 := tget p.sel n 0
def pmcCnt (p : CorePmc) (n : Nat) : Nat := tget p.cnt n 0

/-- R487, R488: adds k to counter n modulo 2^48; the carry sets OVF. Answers whether it carried. -/
def pmcBump (p : CorePmc) (n k : Nat) : CorePmc × Bool :=
  let v := pmcCnt p n + k
  if 2 ^ 48 ≤ v then
    ({ p with cnt := tset p.cnt n (v % 2 ^ 48), sel := tset p.sel n (pmcSel p n ||| 0x400) }, true)
  else ({ p with cnt := tset p.cnt n v }, false)

/-- R487, R488: k occurrences of event ev, over the eight counters in order, carries going to chained counters. -/
def pmcEvent (p : CorePmc) (ev k : Nat) : CorePmc :=
  (foldUpto 8 (p, false) (fun (a : CorePmc × Bool) n =>
    let sel := pmcSel a.1 n
    let chained : Bool := n != 0 && bit sel 8
    if chained then (if a.2 then pmcBump a.1 n 1 else (a.1, false))
    else if fld sel 7 0 = ev ∧ ev ≠ 0 ∧ k ≠ 0 then pmcBump a.1 n k else (a.1, false))).1

/-- R491: the counters with ZJ set are zeroed when a job's first instruction issues. -/
def pmcZeroJob (p : CorePmc) : CorePmc :=
  foldUpto 8 p (fun p n => if bit (pmcSel p n) 9 then { p with cnt := tset p.cnt n 0 } else p)

/-- R493: adds to slot counter j (0 RETIRED, 1 WASTED, 2 FRONT, 3 BACK), modulo 2^48. -/
def pmcSlot (p : CorePmc) (j k : Nat) : CorePmc := { p with slot := tset p.slot j ((tget p.slot j 0 + k) % 2 ^ 48) }

def corePmcEvent (k : Core) (ev n : Nat) : Core := { k with pmc := pmcEvent k.pmc ev n }

end Sys2Proof.Machine
end

