-- ==== Sys2Proof/Machine/CoreBase.lean ====
section
/-! DEFINITION. File 05: the machine a core program sees: registers, the core address map, streams, the issue of an instruction,
the end of a job. -/

namespace Sys2Proof.Machine

/-! Registers (R96) -/

/-- g[r]; g0 reads zero. -/
def greg (k : Core) (r : Nat) : Word64 := if r = 0 then 0 else tget k.g r 0

/-- Writes g[r]; writes to g0 are ignored. -/
def setReg (k : Core) (r : Nat) (v : Word64) : Core := if r = 0 then k else { k with g := tset k.g r v }

def gnat (k : Core) (r : Nat) : Nat := (greg k r).toNat

/-! Ground memory (R136 to R142) -/

/-- R136: the level of a ground offset. -/
def gndLevel (o : Nat) : Nat := nbits o 26 23

/-- R136: the bank of a ground offset within its level. -/
def gndBank (o : Nat) : Nat := nbits o 13 6 ^^^ nbits o 21 14

/-- R136: the line of a ground offset in its bank's segment for the level. -/
def gndLine (o : Nat) : Nat := nbits o 22 14

/-- R136, R144: where the line at a ground offset is kept: the bank, the level of the segment, and the line. The segments of a retired bank are
those of its donors in level 15. -/
def gndSite (g : Ground) (o : Nat) : Nat × Nat × Nat :=
  match tfind g.donors (gndBank o) with
  | some l => (nth l (gndLevel o) 0, 15, gndLine o)
  | none => (gndBank o, gndLevel o, gndLine o)

/-- R144: the available capacity in bytes. -/
def gndCap (x : Die) : Nat := if x.gnd.retired.isEmpty then 0x8000000 else 0x7800000

/-- Table 6-1: the end of the collective area. -/
def collEnd (x : Die) : Nat := 0x800000 + regFld x rGND_LAYOUT 6 0 * 0x100000

/-- Whether a range lies in the user area (Table 6-1). -/
def inUser (x : Die) (off n : Nat) : Bool := decide (collEnd x ≤ off) && decide (off + n ≤ gndCap x)

/-- R139, R140: whether a range lies in partition p. -/
def inPart (x : Die) (p off n : Nat) : Bool :=
  let w := regWord x (rGND_PART p)
  let lo := fld w 6 0 * 0x100000
  let hi := lo + fld w 14 7 * 0x100000
  decide (p < 16) && inUser x off n && decide (lo ≤ off) && decide (off + n ≤ hi)

/-- Whether word w of 8 bytes meets the range of n bytes at off. -/
def wordMeets (off n w : Nat) : Bool := decide (n ≠ 0) && decide (off / 8 ≤ w) && decide (w ≤ (off + n - 1) / 8)

/-- Whether word w of 8 bytes lies wholly in the range of n bytes at off. -/
def wordWhole (off n w : Nat) : Bool := decide (off ≤ 8 * w) && decide (8 * w + 8 ≤ off + n)

/-- The words of which a range covers only a part. -/
def partWords (off n : Nat) : List Nat :=
  if n = 0 then [] else [off / 8, (off + n - 1) / 8].filter (fun w => !wordWhole off n w)

/-- Whether a read of a range of ground memory returns a poisoned word: one marked so, or one whose error it detects (R142). -/
def gndPoisoned (g : Ground) (off n : Nat) : Bool := g.pois.any (wordMeets off n) || g.bad.any (wordMeets off n)

/-- R142: a write of a whole 8-byte word clears its poison and its errors; a write of part of one leaves them. -/
def gndWrite (g : Ground) (off : Nat) (bs : List Byte) : Ground :=
  let n := bs.length
  { g with
    cells := memWrite g.cells off bs
    pois := g.pois.filter (fun w => !wordWhole off n w)
    latent := g.latent.filter (fun w => !wordWhole off n w)
    bad := g.bad.filter (fun w => !wordWhole off n w) }

/-- R142: a read corrects the single-bit errors it meets, counting a C0 event for each word in GND_ECC; it marks the words with worse errors
poisoned and counts them. -/
def gndTouch (g : Ground) (off n : Nat) : Ground :=
  let hit := g.bad.filter (wordMeets off n)
  { g with
    latent := g.latent.filter (fun w => !wordMeets off n w)
    ce := satAdd 0xFFFF g.ce (g.latent.filter (wordMeets off n)).length
    bad := g.bad.filter (fun w => !wordMeets off n w)
    pois := hit.foldl sadd g.pois
    ue := satAdd 0xFF g.ue hit.length }

/-- R142, R422: a correction in the ground memory of a die counts in FLT_CNT0 too. -/
def dieGndTouch (x : Die) (off n : Nat) : Die :=
  let g := gndTouch x.gnd off n
  { x with
    gnd := g
    faults := { x.faults with c0 := satAdd (2 ^ 32 - 1) x.faults.c0 (x.gnd.latent.length - g.latent.length) } }

/-- R137, R142: a write to the ground memory of a die: the bank reads the words that it covers in part, and merges. -/
def dieGndWrite (x : Die) (off : Nat) (bs : List Byte) : Die :=
  let x1 := (partWords off bs.length).foldl (fun x w => dieGndTouch x (8 * w) 8) x
  { x1 with gnd := gndWrite x1.gnd off bs }

/-! The core address map (R95) -/

def spadEnd : Nat := 0x60000
def gndBase : Nat := 0x80000000

/-- Where a core's access of n bytes at an address leads: scratchpad (true) or ground memory, and the offset; none for BAD_ADDR. -/
def coreLoc (x : Die) (gpart a n : Nat) : Option (Bool × Nat) :=
  if a + n ≤ spadEnd then some (true, a)
  else if gndBase ≤ a ∧ a + n ≤ gndBase + 0x8000000 ∧ inPart x gpart (a - gndBase) n then some (false, a - gndBase)
  else none

/-- A core's read of n bytes: BAD_ADDR, MEM_UE on poison (R426), or the bytes. -/
def coreRead (x : Die) (k : Core) (gpart a n : Nat) : Except Status (List Byte) :=
  match coreLoc x gpart a n with
  | none => .error .badAddr
  | some (true, o) => .ok (memRead k.scratch o n)
  | some (false, o) => if gndPoisoned x.gnd o n then .error .memUe else .ok (memRead x.gnd.cells o n)

/-- A core's write: BAD_ADDR, or the die and core written. -/
def coreWrite (x : Die) (k : Core) (gpart a : Nat) (bs : List Byte) : Except Status (Die × Core) :=
  match coreLoc x gpart a bs.length with
  | none => .error .badAddr
  | some (true, o) => .ok (x, { k with scratch := memWrite k.scratch o bs })
  | some (false, o) => .ok (dieGndWrite x o bs, k)

/-- The byte a core sees at an address that has been checked. -/
def coreByte (x : Die) (k : Core) (a : Nat) : Byte :=
  if a < spadEnd then memGet k.scratch a else memGet x.gnd.cells (a - gndBase)

/-- Whether a core's access to a range is allowed, and if so whether it meets poison. -/
def coreCheck (x : Die) (gpart a n : Nat) : Option Status :=
  match coreLoc x gpart a n with
  | none => some .badAddr
  | some (true, _) => none
  | some (false, o) => if gndPoisoned x.gnd o n then some .memUe else none

/-! Job descriptor fields (Table 5-3) -/

def dGpart (j : Job) : Nat := fld j.desc 159 152
def dProgAddr (j : Job) : Nat := fld j.desc 191 160
def dProgLen (j : Job) : Nat := fld j.desc 207 192
def dEntry (j : Job) : Nat := fld j.desc 223 208
def dArgAddr (j : Job) : Nat := fld j.desc 255 224
def dSeed (j : Job) : Nat := fld j.desc 319 256
def dStep (j : Job) : Nat := fld j.desc 351 320
def dSrTag (j : Job) : Nat := fld j.desc 367 352
def dKnotLo (j : Job) : Nat := fld j.desc 376 368
def dKnotHi (j : Job) : Nat := fld j.desc 392 384
def dTimeLimit (j : Job) : Nat := fld j.desc 415 400
def dWorkTotal (j : Job) : Nat := fld j.desc 447 416
def dLoad (j : Job) : Bool := bit j.desc 144

/-! Streams (R114 to R116) -/

/-- R114, Table 5-7. Bits that are to be zero are ignored (DESIGN CHOICE, log entry 46). -/
def streamOf (w : BitVec 256) : Stream :=
  { base := fld w 31 0, len := fld w 47 32, count := fld w 63 48, stride := fld w 95 64, sbase := fld w 127 96,
    sstride := fld w 159 128, fmt := fld w 164 160, scaled := bit w 165, blkdim := bit w 166 }

def slotStream (k : Core) (i : Nat) : Stream := streamOf (tget k.slots i 0)

/-- R116, R513, Table 5-4: what is wrong with a stream that an instruction names as an element stream. -/
def streamErr (s : Stream) : Option Status :=
  if s.len = 0 ∨ s.count = 0 then some .badSlot
  else match fmtOf s.fmt with
    | none => some .badFormat
    | some f => if !fmtOut f || (s.scaled && !fmtScalable f) then some .badFormat else none

/-- The format of a stream that streamErr has passed. -/
def streamFmt (s : Stream) : Fmt := (fmtOf s.fmt).getD .binary32

/-- Whether a stream's elements carry block scales (a couched block carries its own). -/
def streamBlocked (s : Stream) : Bool := s.scaled || streamFmt s == .couched

/-- Elements per packing unit (R26). -/
def perUnit (f : Fmt) : Nat :=
  match f with
  | .e3m2 | .e2m3 | .int2 | .t2 => 4
  | .fp4 | .int4 => 2
  | _ => 1

/-- Bytes of one packing unit. -/
def unitBytes (f : Fmt) : Nat := packBytes f (perUnit f)

/-- R115: the address of the packing unit (or couched block) that holds element (v, i). -/
def elemAddr (s : Stream) (v i : Nat) : Nat :=
  let f := streamFmt s
  match f with
  | .couched => s.base + v * s.stride + 21 * (i / 32)
  | _ => s.base + v * s.stride + unitBytes f * (i / perUnit f)

/-- Bytes read at elemAddr. -/
def elemBytes (s : Stream) : Nat :=
  match streamFmt s with
  | .couched => 21
  | f => unitBytes f

/-- R115: the address of the scale byte of element (v, i). -/
def scaleAddr (s : Stream) (v i : Nat) : Nat :=
  if s.blkdim then s.sbase + (v / 32) * s.sstride + i else s.sbase + v * s.sstride + i / 32

/-- The memory ranges that a read of element (v, i) touches (R115). -/
def elemTouch (s : Stream) (v i : Nat) : List (Nat × Nat) :=
  if s.count ≤ v ∨ s.len ≤ i then []
  else (elemAddr s v i, elemBytes s) :: (if s.scaled then [(scaleAddr s v i, 1)] else [])

/-- R115: element (v, i): its element format, its code, its scale byte. rd reads a byte of the core's memory. -/
def elemAt (rd : Nat → Byte) (s : Stream) (v i : Nat) : Fmt × Nat × Byte :=
  let f := streamFmt s
  if s.count ≤ v ∨ s.len ≤ i then ((if f == .couched then .fp4 else f), 0, 0x7F)
  else
    let a := elemAddr s v i
    let bs := (upto (elemBytes s)).map (fun j => rd (a + j))
    if f == .couched then
      let (g, c) := couchedCode bs (i % 32)
      (g, c, nth bs 0 0xFF)
    else
      (f, unpackAt f bs (i % perUnit f), if s.scaled then rd (scaleAddr s v i) else 0x7F)

/-- The exact value of element (v, i), its block scale applied. -/
def elemVal (rd : Nat → Byte) (s : Stream) (v i : Nat) : Val :=
  let (f, c, sc) := elemAt rd s v i
  decodeScaled f c sc

/-- The first error among ranges: outside the map or the partition, or poisoned. The bytes of a stream need no alignment (DEDUCED, log
entry 42). -/
def touchErr (x : Die) (gpart : Nat) (spadOnly : Bool) (rs : List (Nat × Nat)) : Option Status :=
  rs.findSome? (fun (a, n) => if spadOnly && decide (spadEnd < a + n) then some .badAddr else coreCheck x gpart a n)

/-- The first error among ranges to be written: poison is no error of a write (R142). -/
def writeErr (x : Die) (gpart : Nat) (rs : List (Nat × Nat)) : Option Status :=
  rs.findSome? (fun (a, n) => if (coreLoc x gpart a n).isNone then some .badAddr else none)

/-- R142: reads of ground memory correct the single-bit errors that they meet, and mark worse ones. -/
def readTouch (x : Die) (rs : List (Nat × Nat)) : Die :=
  rs.foldl (fun x (a, n) => if a < spadEnd then x else dieGndTouch x (a - gndBase) n) x

/-- The ranges that are read before a refusal: up to the first that is refused, with it where it met poison. -/
def readUpTo (x : Die) (gpart : Nat) : List (Nat × Nat) → List (Nat × Nat)
  | [] => []
  | (a, n) :: rs =>
    match coreCheck x gpart a n with
    | none => (a, n) :: readUpTo x gpart rs
    | some .memUe => [(a, n)]
    | some _ => []

/-- R142: what the core's reads of ranges of its address map leave of die d. -/
def readRanges (s : State) (d gpart : Nat) (rs : List (Nat × Nat)) : State :=
  if rs.isEmpty then s else setDie s d (readTouch (getDie s d) (readUpTo (getDie s d) gpart rs))

/-! The end of a job -/

/-- A job that has ended for a cause other than HALT: its held posts are discarded and nothing more issues (R106, R108, R110). -/
def endRun (r : Run) (st : Status) : Run :=
  match r.ended with
  | some _ => r
  | none => { r with ended := some st, posts := [], wait := none }

/-- R113: on to the next instruction; past the last one the job ends with BAD_INSN. -/
def runNext (r : Run) : Run :=
  if r.pc + 1 < dProgLen r.job then { r with pc := r.pc + 1 } else endRun r .badInsn

/-- R113: a taken branch to a target; outside the image the job ends with BAD_INSN. -/
def runJump (r : Run) (target : Int) : Run :=
  if 0 ≤ target ∧ target < (dProgLen r.job : Int) then { r with pc := target.toNat } else endRun r .badInsn

def setRun (k : Core) (r : Run) : Core := { k with run := some r }

/-- Ends the job on a core. -/
def endJob (k : Core) (st : Status) : Core :=
  match k.run with
  | none => k
  | some r => setRun k (endRun r st)

/-- R109: a job's progress position. -/
def jobPos (r : Run) : Nat := if dWorkTotal r.job = 0 then (r.arrDone + r.vecDone) % 2 ^ 32 else r.prog

/-- R109, R367: the position of the operation whose job runs on core c of die d follows the job's. -/
def tellPos (s : State) (d c : Nat) : State :=
  match (getCore s d c).run with
  | some r =>
    match r.job.op with
    | some id => setPos s id (jobPos r)
    | none => s
  | none => s

/-- R131: whether every array instruction numbered below n has made its last write. -/
def arrWritten (k : Core) (n : Nat) : Bool :=
  !k.accq.any (fun u => decide (u.seq < n)) && !k.aq.any (fun o => decide (o.seq < n))

/-! Instruction words (R111, R112, Tables 5-5 to 5-16) -/

def opOf (w : Word64) : Nat := fld w 63 58
def fD (w : Word64) : Nat := fld w 57 53
def fA (w : Word64) : Nat := fld w 52 48
def fB (w : Word64) : Nat := fld w 47 43
def fImm (w : Word64) : Int := signed 32 (fld w 31 0)
def immWord (w : Word64) : Word64 := BitVec.ofInt 64 (fImm w)

/-- The ranges of bits that an opcode's layout uses beside the opcode; none for a reserved opcode. -/
def usedBits (op : Nat) : Option (List (Nat × Nat)) :=
  match op with
  | 0x00 => some []
  | 0x01 | 0x02 | 0x03 | 0x04 | 0x05 | 0x06 | 0x07 | 0x08 | 0x09 | 0x0A => some [(57, 43)]
  | 0x0B => some [(57, 48), (31, 0)]
  | 0x0C => some [(57, 53), (31, 0)]
  | 0x0D => some [(57, 48), (31, 0)]
  | 0x10 => some [(57, 48), (34, 0)]
  | 0x11 => some [(52, 43), (33, 0)]
  | 0x12 => some [(57, 43), (33, 0)]
  | 0x13 | 0x14 => some [(52, 48), (36, 0)]
  | 0x15 => some [(52, 48), (34, 0)]
  | 0x16 => some [(34, 32)]
  | 0x17 => some [(52, 48)]
  | 0x18 | 0x19 | 0x1A | 0x1B | 0x1C => some [(52, 43), (31, 0)]
  | 0x1D => some [(57, 53), (31, 0)]
  | 0x1E => some [(52, 48), (31, 0)]
  | 0x1F => some []
  | 0x20 => some [(57, 39)]
  | 0x21 => some [(57, 8)]
  | 0x22 => some [(57, 26)]
  | 0x23 | 0x24 => some [(57, 37)]
  | 0x28 => some [(57, 22)]
  | 0x29 => some [(57, 22)]
  | 0x2A => some [(57, 30)]
  | 0x2B => some [(57, 17)]
  | 0x30 => some [(57, 44)]
  | 0x31 | 0x33 => some [(57, 34)]
  | 0x32 => some [(57, 44)]
  | 0x38 => some [(57, 37)]
  | 0x39 => some [(57, 54)]
  | 0x3A => some [(57, 45)]
  | 0x3B => some [(57, 49)]
  | _ => none

/-- R111: the word with the used ranges cleared; a well-formed word leaves only its opcode. -/
def clearBits (w : Nat) : List (Nat × Nat) → Nat
  | [] => w
  | (hi, lo) :: rs => clearBits (w - (nbits w hi lo) <<< lo) rs

/-- Reserved functions within a defined opcode (Tables 5-6, 5-12, 5-13, 5-16; R134). -/
def reservedFn (w : Word64) : Bool :=
  match opOf w with
  | 0x12 => fld w 33 32 == 3
  | 0x28 => decide (0x10 ≤ fld w 57 52)
  | 0x2A => decide (4 ≤ fld w 57 54)
  | 0x3A => decide (4 ≤ fld w 57 55)
  | 0x3B => decide (10 ≤ fld w 52 49)
  | _ => false

/-- R111: the fields that an instruction does not use by its own bits: those of the conversion without STREAM, B of a unary function,
operand A's slot or row by ASRC, the conversion of VRED and VKEEP without ASRC (DEDUCED, log entry 45). -/
def unusedBits (w : Word64) : List (Nat × Nat) :=
  match opOf w with
  | 0x21 => if bit w 34 then [] else [(33, 31), (25, 23), (12, 8)]
  | 0x28 => (if fld w 57 52 = 0 ∨ 5 < fld w 57 52 then [(41, 37), (35, 35)] else []) ++ (if bit w 36 then [(46, 42)] else [(29, 25)])
  | 0x29 => if bit w 27 then [(52, 48)] else [(26, 22)]
  | 0x2A => if bit w 43 then [(48, 44)] else [(42, 38), (32, 30)]
  | 0x2B => if bit w 40 then [(45, 41)] else [(39, 35), (19, 17)]
  | _ => []

/-- R110 to R112: whether a word is an instruction: no reserved opcode or function, no unused field non-zero. -/
def wellWord (w : Word64) : Bool :=
  match usedBits (opOf w) with
  | none => false
  | some rs => clearBits (w.toNat % 2 ^ 58) rs == 0 && !reservedFn w && (unusedBits w).all (fun p => fld w p.1 p.2 == 0)

/-- The registers an instruction reads or writes, whose pending values it waits for (R97; a register that it only writes: log entry 43). -/
def regsOf (w : Word64) : List Nat :=
  match opOf w with
  | 0x01 | 0x02 | 0x03 | 0x04 | 0x05 | 0x06 | 0x07 | 0x08 | 0x09 | 0x0A | 0x12 => [fD w, fA w, fB w]
  | 0x0B | 0x0D | 0x10 => [fD w, fA w]
  | 0x0C | 0x1D => [fD w]
  | 0x11 | 0x18 | 0x19 | 0x1A | 0x1B | 0x1C => [fA w, fB w]
  | 0x13 | 0x14 | 0x15 | 0x17 | 0x1E => [fA w]
  | 0x20 => [fld w 48 44, fld w 43 39]
  | 0x21 => [fld w 22 18, fld w 17 13, fld w 12 8]
  | 0x22 => [fld w 35 31, fld w 30 26]
  | 0x23 | 0x24 => [fld w 41 37]
  | 0x28 => [fld w 34 30] ++ (if bit w 36 then [fld w 29 25] else []) ++ (if bit w 35 then [fld w 41 37] else [])
  | 0x29 => [fld w 35 31] ++ (if bit w 27 then [fld w 26 22] else []) ++ (if bit w 37 then [fld w 47 43] else [])
      ++ (if bit w 36 then [fld w 42 38] else [])
  | 0x2A => [fld w 53 49, fld w 37 33] ++ (if bit w 43 then [fld w 42 38] else [])
  | 0x2B => [fld w 55 51, fld w 34 30, fld w 29 25, fld w 24 20] ++ (if bit w 40 then [fld w 39 35] else [])
  | 0x30 => [fld w 48 44]
  | 0x31 | 0x33 => [fld w 48 44, fld w 43 39, fld w 38 34]
  | 0x32 => [fld w 48 44]
  | 0x38 => [fld w 57 53, fld w 52 48, fld w 47 43]
  | 0x3A => [fld w 54 50, fld w 49 45]
  | 0x3B => [fD w]
  | _ => []

/-! Issue (R97) -/

/-- Whether a die works: the package is up and the die is in service. -/
def dieUp (s : State) (d : Nat) : Bool := s.phase == .up && decide (d < ndies s.variant) && (getDie s d).flt == 0

/-- What the sequencer finds past the end of a resident image that is shorter than the job's PROG_LEN: a reserved opcode
(log entry 17). -/
def noWord : Word64 := 0xFFFFFFFFFFFFFFFF

/-- The word at the PC of a core that can issue: it holds a job that runs, is not halted and waits at no knot. -/
def issueWord (s : State) (d c : Nat) : Option (Core × Run × Word64) :=
  let k := getCore s d c
  if !dieUp s d || decide (150 ≤ c) then none else
  match k.run, k.image with
  | some r, some im =>
    if r.ended.isSome || r.halted || r.wait.isSome then none
    else some (k, r, nth im r.pc noWord)
  | _, _ => none

/-- One instruction taken from the sequencer: its cycle counts, with the core awake and holding a job (R491, R493). -/
def issued (k : Core) (r : Run) : Core :=
  corePmcEvent (corePmcEvent (corePmcEvent (setRun k { r with instr := r.instr + 1 }) 0x01 1) 0x02 1) 0x03 1

/-- R97: issues the instruction at a core's PC where it has opcode op: a word that is no instruction ends the job with BAD_INSN
(R110); another instruction, a pending register, or a core that does not issue leaves the state as it is. f gives the
instruction's effect from the core, its job and the word. -/
def issue (op : Nat) (d c : Nat) (s : State) (f : Core → Run → Word64 → State) : State :=
  match issueWord s d c with
  | none => s
  | some (k, r, w) =>
    if (usedBits (opOf w)).isNone || (opOf w == op && !wellWord w) then setCore s d c (setRun k (endRun r .badInsn))
    else if opOf w != op then s
    else if (regsOf w).any (fun g => r.pend.contains g) then s
    else f k r w

/-- An instruction of the sequencer alone: it changes the core and goes on. -/
def scalar (op : Nat) (d c : Nat) (s : State) (f : Core → Word64 → Core) : State :=
  issue op d c s (fun k r w =>
    setCore s d c (f (issued k (runNext r)) w))

/-- An ALU instruction: one register written from the core and the word (R96). -/
def alu (op : Nat) (d c : Nat) (s : State) (f : Core → Word64 → Word64) : State :=
  scalar op d c s (fun k w => setReg k (fD w) (f k w))

/-- A conditional branch: to PC + IMM where the condition holds (R113). -/
def branch (op : Nat) (d c : Nat) (s : State) (cond : Word64 → Word64 → Bool) : State :=
  issue op d c s (fun k r w =>
    let r' := if cond (greg k (fA w)) (greg k (fB w)) then runJump r (r.pc + fImm w) else runNext r
    setCore s d c (issued k r'))

end Sys2Proof.Machine
end

