-- ==== Sys2Proof/Machine/Float.lean ====
section
/-! DEFINITION. binary32 arithmetic of the vector engine and the atomics (R31, R123, R124, R145): correctly rounded operations, and the
functions that are accurate only to a stated number of ulp, whose result is a free value within that accuracy. -/

namespace Sys2Proof.Machine

abbrev F32 := Nat

def f32Nan : F32 := 0x7FC00000
def f32Inf (neg : Bool) : F32 := 0x7F800000 + (if neg then 0x80000000 else 0)
def f32Zero (neg : Bool) : F32 := if neg then 0x80000000 else 0
def f32One : F32 := 0x3F800000

def f32Val (c : F32) : Val := decodeCode .binary32 c
def f32Neg (c : F32) : Bool := c.testBit 31
def f32IsNan (c : F32) : Bool := vIsNan (f32Val c)

/-- An exact value rounded to binary32 under RNE, with the conditions raised. -/
def f32Round (v : Val) : F32 × Word32 := convertVal .binary32 0 false 0 v

/-- IEEE 754 addition; an exact zero sum of operands of unlike sign is +0. -/
def f32Add (a b : F32) : F32 × Word32 :=
  match f32Val a, f32Val b with
  | .nan, _ => (f32Nan, cNAN)
  | _, .nan => (f32Nan, cNAN)
  | .inf s, .inf t => if s = t then (f32Inf s, cINF) else (f32Nan, cNAN)
  | .inf s, _ => (f32Inf s, cINF)
  | _, .inf t => (f32Inf t, cINF)
  | x, y =>
    let n := vNum x * (vDen y : Int) + vNum y * (vDen x : Int)
    f32Round (vFrac (f32Neg a && f32Neg b) n (vDen x * vDen y))

def f32Negate (a : F32) : F32 := if f32IsNan a then f32Nan else (if f32Neg a then a - 0x80000000 else a + 0x80000000)

def f32Sub (a b : F32) : F32 × Word32 := if f32IsNan b then (f32Nan, cNAN) else f32Add a (f32Negate b)

/-- The exact product of two values, with IEEE 754's special values. -/
def vMul (x y : Val) : Val :=
  let s := vSign x != vSign y
  match x, y with
  | .nan, _ => .nan
  | _, .nan => .nan
  | .inf _, y => if vIsZero y then .nan else .inf s
  | x, .inf _ => if vIsZero x then .nan else .inf s
  | .fin _ n d, .fin _ m e => .fin s (n * m) (d * e)

def f32Mul (a b : F32) : F32 × Word32 := f32Round (vMul (f32Val a) (f32Val b))

/-- R124: A × B + C with one rounding. -/
def f32Fma (a b c : F32) : F32 × Word32 :=
  match vMul (f32Val a) (f32Val b), f32Val c with
  | .nan, _ => (f32Nan, cNAN)
  | _, .nan => (f32Nan, cNAN)
  | .inf s, .inf t => if s = t then (f32Inf s, cINF) else (f32Nan, cNAN)
  | .inf s, _ => (f32Inf s, cINF)
  | _, .inf t => (f32Inf t, cINF)
  | p, z =>
    let n := vNum p * (vDen z : Int) + vNum z * (vDen p : Int)
    f32Round (vFrac (vSign p && f32Neg c) n (vDen p * vDen z))

/-- Table 5-13, MAX: NaN if either is NaN; max(−0, +0) = +0. -/
def f32Max (a b : F32) : F32 :=
  if f32IsNan a || f32IsNan b then f32Nan
  else if vLt (f32Val a) (f32Val b) then b
  else if vLt (f32Val b) (f32Val a) then a
  else if f32Neg a then b else a

/-- Table 5-13, MIN: NaN if either is NaN; min(−0, +0) = −0. -/
def f32Min (a b : F32) : F32 :=
  if f32IsNan a || f32IsNan b then f32Nan
  else if vLt (f32Val a) (f32Val b) then a
  else if vLt (f32Val b) (f32Val a) then b
  else if f32Neg a then a else b

/-- A square root to 60 bits beyond what rounding needs, its last bit set where it is inexact, so that RNE rounds it correctly. -/
def sqrtFrac (n d : Nat) : Nat × Nat :=
  -- n/d = (n·d)/d²; √ = √(n·d·4^80) / (d·2^80)
  let m := n * d * 4 ^ 80
  let r := Nat.sqrt m
  (2 * r + (if r * r = m then 0 else 1), d * 2 ^ 81)

/-! Functions accurate to a number of ulp (R123): the result is a free value within the stated accuracy. -/

/-- Fixed-point numbers with 400 fraction bits. -/
def fxBits : Nat := 400
def fxOne : Int := 2 ^ fxBits
def fxMul (a b : Int) : Int := a * b / fxOne
def fxOf (num : Int) (den : Nat) : Int := num * fxOne / den

/-- ln 2 = Σ 1/(n·2^n). -/
def fxLn2 : Int := foldUpto 410 0 (fun (a : Int) i => a + fxOne / ((i + 1 : Nat) * 2 ^ (i + 1)))

/-- e^r for |r| < 1: the power series. -/
def fxExpSmall (r : Int) : Int :=
  (foldUpto 100 ((0 : Int), fxOne) (fun (a : Int × Int) i => (a.1 + a.2, fxMul a.2 r / ((i : Int) + 1)))).1

/-- e^(−y) for y ≥ 0 in fixed point. -/
def fxExpNeg (y : Int) : Int :=
  let k := y / fxLn2
  fxExpSmall (-(y - k * fxLn2)) / 2 ^ k.toNat

/-- 2 atanh z = ln((1+z)/(1−z)) for |z| ≤ 1/3. -/
def fxLn1 (z : Int) : Int :=
  let z2 := fxMul z z
  2 * (foldUpto 150 ((0 : Int), z) (fun (a : Int × Int) i => (a.1 + a.2 / (2 * (i : Int) + 1), fxMul a.2 z2))).1

/-- ln of a positive rational. -/
def fxLn (num den : Nat) : Int :=
  let e := ratLog2 num den
  let (n, d) := if 0 ≤ e then (num, den * 2 ^ e.toNat) else (num * 2 ^ (-e).toNat, den)
  let z := fxOf ((n : Int) - d) (n + d)
  e * fxLn2 + fxLn1 z

/-- The codes within n ulp of a positive magnitude num/den, and one of them drawn by the function's number and the operand's code:
the low code and the next where the magnitude is no code itself, so that n below and n above count from it. -/
def withinUlp (fn : Nat) (op : F32) (n num den : Nat) : F32 :=
  let (lo, inx) := convMag 23 127 2 0 num den
  let first := if inx then lo - (n - 1) else lo - n
  let last := min 0x7F7FFFFF (lo + n)
  first + Config.ulpChoice fn op % (last + 1 - first)

/-- Table 5-13's functions 0x09, 0x0B to 0x0F: the result and the conditions; status bits DIVZ (32) and INV (64) of Table 5-14. -/
def vDIVZ : Word32 := 0x20
def vINV : Word32 := 0x40

def f32Recip (a : F32) : F32 × Word32 :=
  match f32Val a with
  | .nan => (f32Nan, cNAN)
  | .inf s => (f32Zero s, 0)
  | .fin s n d =>
    if n = 0 then (f32Inf s, vDIVZ ||| cINF)
    else
      let (tn, td) := fmtThreshold .binary32 false
      -- beyond the range of binary32 the reciprocal of a subnormal is ±Inf
      if tn * n ≤ d * td then (f32Inf s, cOVF ||| cINF)
      else (f32Zero s + withinUlp 0x09 a 1 d n, 0)

def f32Sqrt (a : F32) : F32 × Word32 :=
  match f32Val a with
  | .nan => (f32Nan, cNAN)
  | .inf s => if s then (f32Nan, vINV ||| cNAN) else (f32Inf false, cINF)
  | .fin s n d =>
    if n = 0 then (f32Zero s, 0)
    else if s then (f32Nan, vINV ||| cNAN)
    else
      let (x, y) := sqrtFrac n d
      f32Round (.fin false x y)

def f32Rsqrt (a : F32) : F32 × Word32 :=
  match f32Val a with
  | .nan => (f32Nan, cNAN)
  | .inf s => if s then (f32Nan, vINV ||| cNAN) else (0, 0)
  | .fin s n d =>
    if n = 0 then (f32Inf s, vDIVZ ||| cINF)
    else if s then (f32Nan, vINV ||| cNAN)
    else
      let (x, y) := sqrtFrac n d
      (withinUlp 0x0B a 1 y x, 0)

def f32Exp (a : F32) : F32 × Word32 :=
  match f32Val a with
  | .nan => (f32Nan, cNAN)
  | .inf s => if s then (0, 0) else (f32Inf false, cINF)
  | .fin s n d =>
    if s ∧ 150 * d < n then (withinUlp 0x0C a 2 1 (2 ^ 300), 0)
    else if !s ∧ 100 * d < n then (f32Inf false, cOVF ||| cINF)
    else
      let e := fxExpNeg (fxOf n d)
      let (num, den) := if s then (e.toNat, fxOne.toNat) else (fxOne.toNat, e.toNat)
      let (tn, td) := fmtThreshold .binary32 false
      if tn * den ≤ num * td then (f32Inf false, cOVF ||| cINF) else (withinUlp 0x0C a 2 num den, 0)

def f32Log (a : F32) : F32 × Word32 :=
  match f32Val a with
  | .nan => (f32Nan, cNAN)
  | .inf s => if s then (f32Nan, vINV ||| cNAN) else (f32Inf false, cINF)
  | .fin s n d =>
    if n = 0 then (f32Inf true, vDIVZ ||| cINF)
    else if s then (f32Nan, vINV ||| cNAN)
    else
      let l := fxLn n d
      (f32Zero (l < 0) + withinUlp 0x0D a 2 l.natAbs fxOne.toNat, 0)

def f32Tanh (a : F32) : F32 × Word32 :=
  match f32Val a with
  | .nan => (f32Nan, cNAN)
  | .inf s => (f32Zero s + f32One, 0)
  | .fin s n d =>
    let t := if 100 * d < n then 1 else (fxExpNeg (2 * fxOf n d)).toNat
    (f32Zero s + withinUlp 0x0E a 2 (fxOne.toNat - t) (fxOne.toNat + t), 0)

def f32Sigmoid (a : F32) : F32 × Word32 :=
  match f32Val a with
  | .nan => (f32Nan, cNAN)
  | .inf s => (if s then 0 else f32One, 0)
  | .fin s n d =>
    let t := if 200 * d < n then 1 else (fxExpNeg (fxOf n d)).toNat
    (withinUlp 0x0F a 2 (if s then t else fxOne.toNat) (fxOne.toNat + t), 0)

end Sys2Proof.Machine
end

