-- ==== Sys2Proof/Machine/Atomic.lean ====
section
/-! DEFINITION. File 06, R145 to R149: the atomic operations of Table 6-3 on ground memory. -/

namespace Sys2Proof.Machine

/-- Table 6-3: the size in bytes of an AOP; none for a reserved code. -/
def atomicSize (aop : Nat) : Option Nat :=
  match aop with
  | 0 | 1 | 2 | 3 | 4 | 5 => some 8
  | 6 | 7 => some 4
  | 8 => some 64
  | _ => none

/-- Table 6-3: the new value of x under an AOP of one word. -/
def atomicNew (aop x y : Nat) : Nat :=
  match aop with
  | 0 => (x + y) % 2 ^ 64
  | 1 => y
  | 2 => if signed 64 x < signed 64 y then y else x
  | 3 => if signed 64 y < signed 64 x then y else x
  | 4 => x &&& y
  | 5 => x ||| y
  | 6 => (f32Add x y).1
  | 7 => f32Max x y
  | _ => x

/-- ADD64X8: eight ADD64, one on each word of the line; a word that is poisoned (keep) stays as it is (R147). -/
def add64x8 (keep : Nat → Bool) (x y : Nat) : Nat :=
  foldUpto 8 0 (fun a i =>
    let w := nbits x (64 * i + 63) (64 * i)
    a + (if keep i then w else (w + nbits y (64 * i + 63) (64 * i)) % 2 ^ 64) * 2 ^ (64 * i))

/-- The new value under any AOP; keep names the poisoned words of a line. -/
def atomicValue (keep : Nat → Bool) (aop x y : Nat) : Nat := if aop = 8 then add64x8 keep x y else atomicNew aop x y

/-- R145, R147: an atomic on ground memory at an offset: the old value and the memory, or what refuses it. A poisoned word stays
poisoned and is returned marked so; ADD64X8, which returns nothing, leaves it and does the other words. -/
def gndAtomic (g : Ground) (aop off y : Nat) : Except Status (Nat × Ground) :=
  match atomicSize aop with
  | none => .error .badReq
  | some n =>
    if off % n ≠ 0 then .error .badAddr
    else if aop ≠ 8 ∧ gndPoisoned g off n then .error .memUe
    else
      let x := memNat g.cells off n
      .ok (x, { g with cells := memWrite g.cells off (toLe n (atomicValue (fun i => gndPoisoned g (off + 8 * i) 8) aop x y)) })

end Sys2Proof.Machine
end

