-- ==== Sys2Proof/Machine/Faults.lean ====
section
/-! DEFINITION. File 15: reporting a fault (R422, R423), knots' take queues on a core's way out, and a C2 fault of a core
(R106, R425). -/

namespace Sys2Proof.Machine

/-- Table 12-14, 15-3: posts a FAULT event for a die and detector code, at most one in any 1 ms; the suppressed ones are counted. -/
def faultEvent (s : State) (cls kind idx die code react : Nat) : State :=
  let x := getDie s die
  let (t, sup) := tget x.faults.last code (0, 0)
  let seen := (tfind x.faults.last code).isSome
  if seen && decide (s.now < t + 1000000) then
    setDie s die { x with faults := { x.faults with last := tset x.faults.last code (t, satInc (2 ^ 24 - 1) sup) } }
  else
    let s1 := setDie s die { x with faults := { x.faults with last := tset x.faults.last code (s.now, 0) } }
    postEvent s1 0x03 die (cls + 256 * kind) idx code (react + 256 * sup)

/-- R422, R449: counts a fault of a class at a die; classes C1 to C3 (and C0 of code 0x0F) post FAULT. -/
def reportFault (s : State) (cls kind idx die code react : Nat) : State :=
  let x := getDie s die
  let f := x.faults
  let f' := match cls with
    | 0 => { f with c0 := satInc (2 ^ 32 - 1) f.c0 }
    | 1 => { f with c1 := satInc 0xFFFF f.c1 }
    | 2 => { f with c2 := satInc 0xFF f.c2 }
    | _ => { f with c3 := satInc 0xFF f.c3 }
  let s1 := setDie s die { x with faults := f' }
  if cls = 0 ∧ code ≠ 0x0F then s1 else faultEvent s1 cls kind idx die code react

/-- C0 faults of a die, counted (R422). -/
def countC0 (s : State) (die n : Nat) : State :=
  updDie s die (fun x => { x with faults := { x.faults with c0 := satAdd (2 ^ 32 - 1) x.faults.c0 n } })

/-- Where knot k of die d lives: die knots in their die, knots from 256 upward in the package (R388). -/
def getKnot (s : State) (d k : Nat) : Knot := if k < 256 then tget (getDie s d).knots k knotReset else tget s.pknots k knotReset

def setKnot (s : State) (d k : Nat) (n : Knot) : State :=
  if k < 256 then updDie s d (fun x => { x with knots := tset x.knots k n }) else { s with pknots := tset s.pknots k n }

/-- A KWAIT or KTAKE ends with a value: it is written to g[D], and the core goes on (R130). -/
def wake (s : State) (d c v : Nat) : State :=
  updCore s d c (fun k =>
    match k.run with
    | some r =>
      match r.wait with
      | some w => setReg (setRun k (runNext { r with wait := none })) w.reg (BitVec.ofNat 64 v)
      | none => k
    | none => k)

/-- R391: serves a semaphore's queue from its head while the count reaches the head's amount. -/
def serveTakes (s : State) (d k : Nat) : Nat → State
  | 0 => s
  | f + 1 =>
    let n := getKnot s d k
    match n.takes with
    | (d', c', a) :: rest =>
      if a ≤ n.count then serveTakes (wake (setKnot s d k { n with count := n.count - a, takes := rest }) d' c' 0) d k f else s
    | [] => s

/-- R391: a KTAKE that gives up, or whose job ends, leaves the queue. -/
def dropTake (s : State) (d c k : Nat) : State :=
  let n := getKnot s d k
  serveTakes (setKnot s d k { n with takes := n.takes.filter (fun t => !(t.1 == d && t.2.1 == c)) }) d k n.takes.length

/-- The knot a core waits at forgets it. -/
def leaveKnot (s : State) (d c : Nat) : State :=
  match (getCore s d c).run with
  | some r =>
    match r.wait with
    | some w => if w.take then dropTake s d c w.knot else s
    | none => s
  | none => s

/-- Ends the job on a core of a die from outside its program: its posts not yet accepted are discarded, and a KWAIT or KTAKE in
progress ends (R106, R108). -/
def stopJob (s : State) (d c : Nat) (st : Status) : State :=
  let s1 := leaveKnot s d c
  let s2 := { s1 with engWait := s1.engWait.filter (fun q => q.src != .core d c) }
  updCore s2 d c (fun k => endJob k st)

/-- R425: asks for an activity that the device starts itself: it joins the hoop queue (R370). -/
def askHoop (s : State) (act die unit arg : Nat) : State :=
  { s with hoopQ := s.hoopQ ++ [{ act := act, dies := [die], op := none, die := die, unit := unit, arg := arg }] }

/-- R72: a residue mismatch: counted in CHECK_ERR of the row's array. -/
def bumpCheck (k : Core) (row : Nat) : Core :=
  if row < 128 then { k with rep0 := { k.rep0 with chk := satInc 0xFF k.rep0.chk } }
  else { k with rep1 := { k.rep1 with chk := satInc 0xFF k.rep1.chk } }

/-- R106: a job struck before it commits ends with a status: its posts are discarded. -/
def strikeRun (r : Run) (st : Status) : Run := { r with defer := [], pend := [], ended := some st, posts := [], wait := none }

/-- R106: what becomes of the job on a core that a C2 fault strikes before it commits. An abort or TIMEOUT that reached it first stands, and
NO_REPLAY goes before FAULTED (log entry 44). -/
def replayJob (k : Core) : Core :=
  let k1 := { k with aq := [], accq := [], vq := [] }
  match k.run with
  | none => k1
  | some r =>
    if r.ended == some .aborted || r.ended == some .timeout then setRun k1 { r with defer := [], pend := [] }
    else if r.shared then setRun k1 (strikeRun r .noReplay)
    else if r.job.replay then setRun k1 (strikeRun r .faulted)
    else { k1 with run := none, jobs := { r.job with replay := true, pos := jobPos r, instr := r.instr } :: k.jobs }

/-- R106, R425: a C2 fault of a core with detector code: it is fenced, its work in flight is ended and replayed, and the CORE activity is
asked for. -/
def coreStruck (s : State) (d c code : Nat) : State :=
  let s1 := leaveKnot (reportFault s 2 1 (256 * d + c) d code 3) d c
  let s2 := { s1 with engWait := s1.engWait.filter (fun q => q.src != .core d c) }
  let s3 := updDie s2 d (fun x => { x with dmas := x.dmas.filter (fun q => match q.owner with
    | .core c' _ => c' != c
    | .op _ => true) })
  let s4 := updCore s3 d c (fun k =>
    let k1 := replayJob k
    { k1 with fenced := true, c2 := k.c2 ++ [s.now], image := if code = 0x21 then none else k.image })
  askHoop s4 4 d c 0

/-- R426: a job that consumed a poisoned word: C1, code 0x14, and the job ends with MEM_UE. -/
def reportPoison (s : State) (d : Nat) : State := reportFault s 1 12 (statusCode .memUe) d 0x14 2

/-- Sets a core whose job ends with a status; a poisoned word is reported (R426). -/
def endBy (s : State) (d c : Nat) (k : Core) (st : Status) : State :=
  let s1 := setCore s d c k
  if st = .memUe then reportPoison s1 d else s1

end Sys2Proof.Machine
end

