-- ==== Sys2Proof/Machine/CoreScalar.lean ====
section
/-! DEFINITION. File 05: the scalar, memory, setup and control instructions (Table 5-6, 0x00 to 0x1F) and CTRD, one meaning each. -/

namespace Sys2Proof.Machine

/-! Scalar arithmetic (R96, R112) -/

/-- R112: NOP. -/
def execNop (d c : Nat) (s : State) : Host.Outcome State Fault Refusal := .next (scalar 0x00 d c s (fun k _ => k))
/-- R112: ADD. -/
def execAdd (d c : Nat) (s : State) : Host.Outcome State Fault Refusal :=
  .next (alu 0x01 d c s (fun k w => greg k (fA w) + greg k (fB w)))
/-- R112: SUB. -/
def execSub (d c : Nat) (s : State) : Host.Outcome State Fault Refusal :=
  .next (alu 0x02 d c s (fun k w => greg k (fA w) - greg k (fB w)))
/-- R112: MUL. -/
def execMul (d c : Nat) (s : State) : Host.Outcome State Fault Refusal :=
  .next (alu 0x03 d c s (fun k w => greg k (fA w) * greg k (fB w)))
/-- R112: AND. -/
def execAnd (d c : Nat) (s : State) : Host.Outcome State Fault Refusal :=
  .next (alu 0x04 d c s (fun k w => greg k (fA w) &&& greg k (fB w)))
/-- R112: OR. -/
def execOr (d c : Nat) (s : State) : Host.Outcome State Fault Refusal :=
  .next (alu 0x05 d c s (fun k w => greg k (fA w) ||| greg k (fB w)))
/-- R112: XOR. -/
def execXor (d c : Nat) (s : State) : Host.Outcome State Fault Refusal :=
  .next (alu 0x06 d c s (fun k w => greg k (fA w) ^^^ greg k (fB w)))
/-- R112: SHL by g[B] & 63. -/
def execShl (d c : Nat) (s : State) : Host.Outcome State Fault Refusal :=
  .next (alu 0x07 d c s (fun k w => greg k (fA w) <<< (gnat k (fB w) % 64)))
/-- R112: SHR by g[B] & 63. -/
def execShr (d c : Nat) (s : State) : Host.Outcome State Fault Refusal :=
  .next (alu 0x08 d c s (fun k w => greg k (fA w) >>> (gnat k (fB w) % 64)))
/-- R112: SRA by g[B] & 63. -/
def execSra (d c : Nat) (s : State) : Host.Outcome State Fault Refusal :=
  .next (alu 0x09 d c s (fun k w => (greg k (fA w)).sshiftRight (gnat k (fB w) % 64)))
/-- R112: SLT, signed. -/
def execSlt (d c : Nat) (s : State) : Host.Outcome State Fault Refusal :=
  .next (alu 0x0A d c s (fun k w => if (greg k (fA w)).slt (greg k (fB w)) then 1 else 0))
/-- R112: ADDI. -/
def execAddi (d c : Nat) (s : State) : Host.Outcome State Fault Refusal :=
  .next (alu 0x0B d c s (fun k w => greg k (fA w) + immWord w))
/-- R112: LI. -/
def execLi (d c : Nat) (s : State) : Host.Outcome State Fault Refusal := .next (alu 0x0C d c s (fun _ w => immWord w))
/-- R112: LIH: the low half of g[A] under IMM shifted left by 32. -/
def execLih (d c : Nat) (s : State) : Host.Outcome State Fault Refusal :=
  .next (alu 0x0D d c s (fun k w => (greg k (fA w) &&& 0xFFFFFFFF) ||| (immWord w <<< 32)))

/-! Memory (R95, R113) -/

/-- g[A] + IMM modulo 2^64. -/
def effAddr (k : Core) (w : Word64) : Nat := (greg k (fA w) + immWord w).toNat

/-- An instruction ends the job where its access is refused; else it goes on with what was read. -/
def orEnd {α : Type} (s : State) (d c : Nat) (k : Core) (r : Run) (e : Except Status α) (f : α → State) : State :=
  match e with
  | .error st => endBy s d c (issued k (endRun r st)) st
  | .ok a => f a

/-- R95: the access must be a multiple of its size. -/
def aligned (a n : Nat) : Except Status Unit := if a % n = 0 then .ok () else .error .badAddr

/-- A read of the sequencer: aligned, mapped, in the partition, not poisoned; single-bit errors are corrected (R142). -/
def seqRead (s : State) (d : Nat) (k : Core) (r : Run) (a n : Nat) : Except Status (List Byte × State) :=
  let x := getDie s d
  match aligned a n with
  | .error e => .error e
  | .ok _ =>
    match coreRead x k (dGpart r.job) a n with
    | .error e => .error e
    | .ok bs =>
      if a < spadEnd then .ok (bs, s)
      else .ok (bs, setDie s d (dieGndTouch x (a - gndBase) n))

/-- R142: what a read of the sequencer that met poison leaves. -/
def seqSeen (s : State) (d : Nat) (r : Run) (a n : Nat) : State := if a % n = 0 then readRanges s d (dGpart r.job) [(a, n)] else s

/-- Table 18-1, event 0x0A: a load from ground memory. -/
def loadCounted (k : Core) (a : Nat) : Core := if a < spadEnd then k else corePmcEvent k 0x0A 1

/-- R112, R113, R142: LD of 1, 2, 4 or 8 bytes, sign-extended under FN[2]. -/
def execLd (d c : Nat) (s : State) : Host.Outcome State Fault Refusal :=
  .next (issue 0x10 d c s (fun k r w =>
    let n := 2 ^ fld w 33 32
    let a := effAddr k w
    let k1 := loadCounted k a
    orEnd (seqSeen s d r a n) d c k1 r (seqRead s d k r a n) (fun (bs, s1) =>
      let v := leNat bs
      let val : Word64 := if bit w 34 then BitVec.ofInt 64 (signed (8 * n) v) else BitVec.ofNat 64 v
      setCore s1 d c (setReg (issued k1 (runNext r)) (fD w) val))))

/-- R112, R113: ST of the low bytes of g[B]. -/
def execSt (d c : Nat) (s : State) : Host.Outcome State Fault Refusal :=
  .next (issue 0x11 d c s (fun k r w =>
    let n := 2 ^ fld w 33 32
    let a := effAddr k w
    let x := getDie s d
    orEnd s d c k r (do aligned a n; coreWrite x k (dGpart r.job) a (toLe n (gnat k (fB w)))) (fun (x1, k1) =>
      setCore (setDie s d x1) d c (issued k1 (runNext r)))))

/-- R112, R113, R145, R147: GAT on ground memory; the job is no longer replayed (R106). -/
def execGat (d c : Nat) (s : State) : Host.Outcome State Fault Refusal :=
  .next (issue 0x12 d c s (fun k r0 w =>
    let r := { r0 with shared := true }
    let a := effAddr k w
    let x := getDie s d
    let k1 := corePmcEvent k 0x0A 1
    let e : Except Status (Nat × Ground) :=
      match coreLoc x (dGpart r.job) a 8 with
      | some (false, o) => gndAtomic (dieGndTouch x o 8).gnd (fld w 33 32) o (gnat k (fB w))
      | _ => .error .badAddr
    orEnd (seqSeen s d r a 8) d c k1 r e (fun (old, g) =>
      setCore (setDie s d { dieGndTouch x (effAddr k w - gndBase) 8 with gnd := g }) d c
        (setReg (issued k1 (runNext r)) (fD w) (BitVec.ofNat 64 old)))))

/-! Slots (R114, R117) -/

/-- R114: SLD loads 32 bytes into stream slot FN[4:0]. -/
def execSld (d c : Nat) (s : State) : Host.Outcome State Fault Refusal :=
  .next (issue 0x13 d c s (fun k r w =>
    let k0 := loadCounted k (effAddr k w)
    orEnd (seqSeen s d r (effAddr k w) 32) d c k0 r (seqRead s d k r (effAddr k w) 32) (fun (bs, s1) =>
      let k1 := issued k0 (runNext r)
      setCore s1 d c { k1 with slots := tset k1.slots (fld w 36 32) (BitVec.ofNat 256 (leNat bs)) })))

/-- R114: SBASE sets BASE of stream slot FN[4:0] to the low 32 bits of g[A] + IMM. -/
def execSbase (d c : Nat) (s : State) : Host.Outcome State Fault Refusal :=
  .next (scalar 0x14 d c s (fun k w =>
    let i := fld w 36 32
    let old := (tget k.slots i 0).toNat
    { k with slots := tset k.slots i (BitVec.ofNat 256 (old - old % 2 ^ 32 + effAddr k w % 2 ^ 32)) }))

/-- R117: CVLD loads 32 bytes into conversion slot FN[2:0]. -/
def execCvld (d c : Nat) (s : State) : Host.Outcome State Fault Refusal :=
  .next (issue 0x15 d c s (fun k r w =>
    let k0 := loadCounted k (effAddr k w)
    orEnd (seqSeen s d r (effAddr k w) 32) d c k0 r (seqRead s d k r (effAddr k w) 32) (fun (bs, s1) =>
      let k1 := issued k0 (runNext r)
      setCore s1 d c { k1 with convs := tset k1.convs (fld w 34 32) (BitVec.ofNat 256 (leNat bs)) })))

/-! Control -/

/-- The DMA requests of a core in flight. -/
def coreDmas (x : Die) (c : Nat) : List DmaReq :=
  x.dmas.filter (fun q => match q.owner with
    | .core c' _ => c' == c
    | .op _ => false)

/-- Whether the array unit has finished everything issued. -/
def arrIdle (k : Core) : Bool := k.aq.isEmpty && k.accq.isEmpty

/-- R99: whether the units that a FENCE names (array, vector, DMA) have completed their writes. -/
def fenceReady (x : Die) (c : Nat) (k : Core) (w : Word64) : Bool :=
  (!bit w 32 || arrIdle k) && (!bit w 33 || k.vq.isEmpty) && (!bit w 34 || (coreDmas x c).isEmpty)

/-- R132: whether no request of the core with a DMAW's TAG is outstanding. -/
def dmawReady (x : Die) (c : Nat) (w : Word64) : Bool := !x.dmas.any (fun q => q.owner == .core c (fld w 57 54))

/-- R99: FENCE stalls until the units FN names have completed their writes. -/
def execFence (d c : Nat) (s : State) : Host.Outcome State Fault Refusal :=
  .next (issue 0x16 d c s (fun k r w =>
    if fenceReady (getDie s d) c k w then setCore s d c (issued k (runNext r)) else s))

/-- R109: PROG sets the progress position. -/
def execProg (d c : Nat) (s : State) : Host.Outcome State Fault Refusal :=
  .next (issue 0x17 d c s (fun k r w => tellPos (setCore s d c (issued k (runNext { r with prog := gnat k (fA w) % 2 ^ 32 }))) d c))

/-- R113: BEQ. -/
def execBeq (d c : Nat) (s : State) : Host.Outcome State Fault Refusal := .next (branch 0x18 d c s (fun a b => a == b))
/-- R113: BNE. -/
def execBne (d c : Nat) (s : State) : Host.Outcome State Fault Refusal := .next (branch 0x19 d c s (fun a b => a != b))
/-- R113: BLT, signed. -/
def execBlt (d c : Nat) (s : State) : Host.Outcome State Fault Refusal := .next (branch 0x1A d c s (fun a b => a.slt b))
/-- R113: BGE, signed. -/
def execBge (d c : Nat) (s : State) : Host.Outcome State Fault Refusal := .next (branch 0x1B d c s (fun a b => !a.slt b))
/-- R113: BLTU, unsigned. -/
def execBltu (d c : Nat) (s : State) : Host.Outcome State Fault Refusal := .next (branch 0x1C d c s (fun a b => a.ult b))

/-- R113: JAL writes PC + 1 and jumps by IMM. -/
def execJal (d c : Nat) (s : State) : Host.Outcome State Fault Refusal :=
  .next (issue 0x1D d c s (fun k r w =>
    setCore s d c (setReg (issued k (runJump r (r.pc + fImm w))) (fD w) (BitVec.ofNat 64 (r.pc + 1)))))

/-- R113: JR jumps to g[A] + IMM, taken as a signed 64-bit number. -/
def execJr (d c : Nat) (s : State) : Host.Outcome State Fault Refusal :=
  .next (issue 0x1E d c s (fun k r w => setCore s d c (issued k (runJump r (greg k (fA w) + immWord w).toInt))))

/-- R105: whether every unit of a core is idle, every arrival has taken effect and every DMA request has completed. -/
def haltReady (x : Die) (c : Nat) (k : Core) (r : Run) : Bool := arrIdle k && k.vq.isEmpty && (coreDmas x c).isEmpty && r.defer.isEmpty

/-- R105: HALT stalls until every unit is idle, every arrival has taken effect and every DMA request has completed; then the job's
posts are released to their engines in issue order. -/
def execHalt (d c : Nat) (s : State) : Host.Outcome State Fault Refusal :=
  .next (issue 0x1F d c s (fun k r _ =>
    if haltReady (getDie s d) c k r then
      let posts : List EngReq := r.posts.map (fun (e, q) =>
        { id := 0, req := q, src := .core d c, unit := e, done := none, digest := none, writes := 0, wstatus := .ok, got := [], reads := [], replayed := false, aborted := false })
      setCore { s with engWait := s.engWait ++ posts } d c
        (issued k { r with halted := true, posts := [] })
    else s))

/-- R134, R490 to R492: CTRD writes counter SEL. -/
def execCtrd (d c : Nat) (s : State) : Host.Outcome State Fault Refusal :=
  .next (issue 0x3B d c s (fun k r w =>
    let sel := fld w 52 49
    let x := getDie s d
    let cyc := x.cycles / 16
    let perm := bit (regWord x (rPMC_CCTL c)) 0
    if sel ≠ 0 ∧ sel ≠ 9 ∧ !perm then setCore s d c (issued k (endRun r .permDenied))
    else
      let v := if sel = 0 then cyc else if sel = 9 then cyc - r.startCyc else pmcCnt k.pmc (sel - 1)
      setCore s d c (setReg (issued k (runNext r)) (fD w) (BitVec.ofNat 64 v))))

end Sys2Proof.Machine
end

