-- ==== Sys2Proof/Machine/ArrayUnit.lean ====
section
/-! DEFINITION. Files 03 to 05: the array unit: weight loads, passes, output conversion, save and restore, the port cycle, the
accumulator update. -/

namespace Sys2Proof.Machine

/-! Shapes (Table 3-3) and checks (R52 to R55, R116) -/

def is2bit (f : Fmt) : Bool := f == .int2 || f == .t2

/-- Reduction elements per pass, for alignment (R54). -/
def perPass (shape : Nat) (wf : Fmt) : Nat :=
  match shape with
  | 1 => 64
  | 2 | 4 => 16
  | _ => if fmtDigits wf = 2 then 16 else 32

/-- R52, R53: a shape against the formats of weights and activations (none while only the load is known). -/
def shapeErr (shape : Nat) (wf : Fmt) (af : Option Fmt) : Option Status :=
  if 5 ≤ shape then some .badShape
  else if shape = 1 then
    (if is2bit wf && (match af with | none => true | some f => is2bit f) then none else some .badShape)
  else if (shape = 2 ∨ shape = 4) ∧ fmtDigits wf = 2 then some .badShape
  else none

/-- Whether a stream carries block scales or a block base (R54). -/
def blockBound (s : Stream) : Bool := streamBlocked s || streamFmt s == .bfloat16

/-- R25, R116: a stream as an array operand: BLKDIM as given when it is scaled. -/
def operandErr (s : Stream) (blkdim : Bool) : Option Status :=
  match streamErr s with
  | some e => some e
  | none => if !fmtArray (streamFmt s) || (s.scaled && s.blkdim != blkdim) then some .badFormat else none

/-- Table 3-4: the reduction elements (relative to the first) and weight digits of row r: one, two in SHAPE 1, none where the shape
uses no cell of the row. -/
def rowElems (shape nd r : Nat) : List (Nat × Nat) :=
  if shape = 1 then [(2 * r, 0), (2 * r + 1, 0)]
  else if shape = 2 ∧ 16 ≤ r then []
  else if nd = 2 then [(r / 2, r % 2)]
  else [(r, 0)]

/-- Whether the shape uses the cell of row r and column j. -/
def cellUsed (shape r j : Nat) : Bool :=
  match shape with
  | 3 => decide (j < 16)
  | 4 => r / 16 == j / 16
  | _ => true

/-- Logical columns that a shape uses. -/
def shapeCols (shape : Nat) : Nat := if shape = 3 then 16 else 32

/-- The digits of element (v, i) read along one dimension, its scale exponent, and DFL: the block base of a bfloat16 element is taken
over its aligned block of 32 (R40); at reads element index k of that dimension. -/
def elemDigits (f : Fmt) (at' : Nat → Fmt × Nat × Byte) (k : Nat) : List Digit × Int × Bool :=
  if f == .bfloat16 then
    let base := bf16Base ((upto 32).map (fun i => (at' (k - k % 32 + i)).2.1))
    let (ds, dfl) := digitsOf .bfloat16 base false (at' k).2.1
    (ds, (base : Int) - 190, dfl)
  else
    let (g, c, sc) := at' k
    let (ds, dfl) := digitsOf g 1 (sc == 0xFF) c
    (ds, (scaleExp sc).getD 0, dfl)

/-! Issue of array instructions -/

/-- Table 5-2: the array unit accepts an instruction while no more than one is queued behind the running one. -/
def arrAccepts (k : Core) : Bool := decide (k.aq.length < 2)

/-- Queues an array instruction; conv says whether it is numbered among passes and conversions (R83), wr whether it writes (R400). -/
def arrIssue (s : State) (d c : Nat) (k : Core) (r : Run) (o : ArrOp) (numbered writing : Bool) : State :=
  let r' := runNext { r with
    ord := if numbered then r.ord + 1 else r.ord
    wr := if writing then r.wr + 1 else r.wr
    arrIss := r.arrIss + 1 }
  let k1 := issued k r'
  setCore s d c { k1 with aq := k1.aq ++ [{ o with ord := r.ord, wr := r.wr, seq := r.arrIss }] }

def mkArr (kind : ArrKind) (w : Word64) (k n v : Nat) (src : Stream) (conv : Option ConvParams) : ArrOp :=
  { kind := kind, word := w, ord := 0, wr := 0, seq := 0, k := k, n := n, v := v, src := src, conv := conv, pos := 0 }

/-- First error of a list of checks. -/
def firstErr (l : List (Option Status)) : Option Status := l.findSome? id

/-- The reduction elements that a load or a pass reads for row r from element k on: those that the row takes, and of bfloat16 the aligned block of
32 that its block base is taken over (R40), once. -/
def rowReads (f : Fmt) (shape nd k r : Nat) : List Nat :=
  if f == .bfloat16 then (if r = 0 then (upto 32).map (k - k % 32 + ·) else [])
  else (rowElems shape nd r).map (fun e => k + e.1)

/-- The ranges of a weight load (R119): every element that a used cell takes, with its block (R40). -/
def wldTouch (o : ArrOp) (shape pair : Nat) : List (Nat × Nat) :=
  let f := streamFmt o.src
  ((upto 32).map (fun r => (upto (shapeCols shape)).map (fun j =>
    if cellUsed shape r j then
      (rowReads f shape (fmtDigits f) o.k r).map (fun e => elemTouch o.src e (o.n + j)
        ++ (if pair = 1 then elemTouch o.src e (o.n + 32 + j) else []))
    else []))).flatten.flatten.flatten

/-- R98, R119: what a WLD reads in the cycle it issues. -/
def wldOp (k : Core) (w : Word64) : ArrOp :=
  mkArr .wld w (gnat k (fld w 48 44)) (gnat k (fld w 43 39)) 0 (slotStream k (fld w 53 49)) none

/-- R52 to R55, R116, R119: what ends the job at a WLD; the order of its checks is the model's (log entry 41). -/
def wldErr (x : Die) (k : Core) (r : Run) (w : Word64) : Option Status :=
  let o := wldOp k w
  let shape := fld w 56 54
  let f := streamFmt o.src
  firstErr [operandErr o.src true, shapeErr shape f none,
    if blockBound o.src && o.k % perPass shape f != 0 then some .badShape else none,
    touchErr x (dGpart r.job) true (wldTouch o shape (fld w 57 57))]

/-- An array instruction: it stalls until the unit accepts it (Table 5-2); an error ends the job; else it is queued. rs are the ranges beyond
the scratchpad that it reads. -/
def arrOr (s : State) (d c : Nat) (k : Core) (r : Run) (e : Option Status) (rs : List (Nat × Nat)) (go : State → State) : State :=
  if !arrAccepts k then s else
  match e with
  | some st => endBy (if st = .memUe then readRanges s d (dGpart r.job) rs else s) d c (issued k (endRun r st)) st
  | none => go (readRanges s d (dGpart r.job) rs)

/-- R119: WLD. -/
def execWld (d c : Nat) (s : State) : Host.Outcome State Fault Refusal :=
  .next (issue 0x20 d c s (fun k r w =>
    let o := wldOp k w
    arrOr s d c k r (wldErr (getDie s d) k r w) []
      (fun s => arrIssue s d c k { r with load := some (fld w 56 54, fld w 57 57, streamFmt o.src, blockBound o.src) } o false false)))

/-! Output conversion (R85 to R89, R117, R118) -/

def convSlot (k : Core) (i : Nat) : BitVec 256 := tget k.convs i 0

/-- R117: what a conversion slot names, captured at issue (R98). Bits that are to be zero are ignored (DESIGN CHOICE, log entry 46). -/
def convParams (k : Core) (i rmode : Nat) (ovfm : Bool) : ConvParams :=
  let w := convSlot k i
  { out := slotStream k (fld w 12 8)
    scs := if bit w 21 then some (slotStream k (fld w 20 16)) else none
    bis := if bit w 29 then some (slotStream k (fld w 28 24)) else none
    outfn := fld w 1 0, nanblk := bit w 2, lo := BitVec.ofNat 32 (fld w 63 32), hi := BitVec.ofNat 32 (fld w 95 64)
    rmode := rmode, ovfm := ovfm }

/-- The ranges of a scale or bias stream that a conversion of cols columns from element n0 reads. -/
def vec0Touch (s : Option Stream) (n0 cols : Nat) : List (Nat × Nat) :=
  match s with
  | none => []
  | some s => ((upto cols).map (fun c => elemTouch s 0 (n0 + c))).flatten

/-- The ranges that a conversion reads. -/
def convReads (p : ConvParams) (n0 cols : Nat) : List (Nat × Nat) := vec0Touch p.scs n0 cols ++ vec0Touch p.bis n0 cols

/-- R117: a scale or bias stream is binary32 and unscaled, and its elements n0 to n0 + cols − 1 of vector 0 must be readable. -/
def vec0Err (x : Die) (gpart : Nat) (s : Option Stream) (n0 cols : Nat) : Option Status :=
  match s with
  | none => none
  | some s =>
    if s.len = 0 ∨ s.count = 0 then some .badSlot
    else if s.fmt ≠ 0 ∨ s.scaled then some .badFormat
    else touchErr x gpart false (vec0Touch (some s) n0 cols)

/-- R41, R87, R116, R118: what is wrong with a conversion that starts at element n0 of cols columns. -/
def convErr (x : Die) (gpart : Nat) (p : ConvParams) (n0 cols : Nat) : Option Status :=
  let blocked := streamBlocked p.out
  firstErr [streamErr p.out,
    if p.rmode = 3 ∨ p.outfn = 3 ∨ (blocked ∧ p.out.blkdim) then some .badFormat else none,
    if blocked ∧ (n0 % 32 ≠ 0 ∨ p.out.len < n0 + cols) then some .badFormat else none,
    if p.outfn = 2 ∧ badClip (f32Val p.lo.toNat) (f32Val p.hi.toNat) then some .badClip else none,
    vec0Err x gpart p.scs n0 cols, vec0Err x gpart p.bis n0 cols]

/-- The ranges that a conversion writes for output vector o, from element n0, and whether they are all allowed. -/
def convTouch (p : ConvParams) (o n0 : Nat) : List (Nat × Nat) :=
  ((upto 32).map (fun c => elemTouch p.out o (n0 + c))).flatten

/-- Element n of vector 0 of a scale or bias stream, or the default. -/
def vec0Val (rd : Nat → Byte) (s : Option Stream) (dflt : Val) (n : Nat) : Val :=
  match s with
  | none => dflt
  | some s => elemVal rd s 0 n

/-- Writes bytes at core addresses that were checked at issue. -/
def coreStore (x : Die) (k : Core) (a : Nat) (bs : List Byte) : Die × Core :=
  if a < spadEnd then (x, { k with scratch := memWrite k.scratch a bs })
  else (dieGndWrite x (a - gndBase) bs, k)

/-- Writes element code c into the packing unit of element (v, i); the rest of the unit is kept, and the codes past the vector's last
element are 0 (R26). -/
def putElem (x : Die) (k : Core) (s : Stream) (v i c : Nat) : Die × Core :=
  let f := streamFmt s
  let a := elemAddr s v i
  let nb := elemBytes s
  let w := fmtBits f
  let pos := i % perUnit f
  let old := leNat ((upto nb).map (fun j => coreByte x k (a + j)))
  let kept := old - (nbits old (w * pos + w - 1) (w * pos)) <<< (w * pos)
  let cut := if i + 1 = s.len then kept % 2 ^ (w * pos + w) else kept
  coreStore x k a (toLe nb (cut + c <<< (w * pos)))

/-- R400: the base position of writing instruction w. -/
def digBase (w : Nat) : Nat := (w <<< 20) % 2 ^ 32

/-- R83: the coordinate of an accumulator row and column under a USE. -/
def accCoord (tag use row col : Nat) : Nat := tag * 2 ^ 16 + use * 2 ^ 13 + row * 2 ^ 5 + col

/-- R85 to R89, R118, R400: converts accumulator row q to output vector o from element n0 and writes what lies inside the stream. -/
def convertAccRow (x : Die) (k : Core) (r : Run) (p : ConvParams) (row o n0 step ordinal wr : Nat) : Die × Core × Run :=
  let j := r.job
  let rd := coreByte x k
  let cols := upto 32
  let acc := cols.map (fun c => accValue (tget k.acc (32 * row + c) accEmpty))
  let sc := cols.map (fun c => vec0Val rd p.scs (vInt 1) (n0 + c))
  let bi := cols.map (fun c => vec0Val rd p.bis (vInt 0) (n0 + c))
  let ys := rowValues acc sc bi p.outfn (f32Val p.lo.toNat) (f32Val p.hi.toNat)
  let rnd (c : Nat) : Nat := srGen (dSeed j) (accCoord (dSrTag j) 1 row c) step % 2 ^ 24
  let f := streamFmt p.out
  let res := convertRow f p.out.scaled p.rmode p.ovfm p.nanblk rnd ys
  let r1 := { r with status := r.status ||| res.conds }
  let keep := decide (o < p.out.count)
  if !keep then (x, k, r1)
  else if f == .couched then
    if n0 + 32 ≤ p.out.len then
      let (x1, k1) := coreStore x k (elemAddr p.out o n0) res.couched
      let us := (upto 6).map (fun i => (i, leNat ((res.couched.drop (4 * i)).take 4)))
      (x1, k1, { r1 with digest := digUnits r1.digest (dSrTag j) (digBase wr + 32 * ordinal) us })
    else (x, k, r1)
  else if p.out.scaled && decide (p.out.len < n0 + 32) then (x, k, r1)
  else
    let kept := cols.filter (fun c => decide (n0 + c < p.out.len))
    let (x1, k1) := kept.foldl (fun (a : Die × Core) c => putElem a.1 a.2 p.out o (n0 + c) (nth res.codes c 0)) (x, k)
    let (x2, k2) := if p.out.scaled then coreStore x1 k1 (scaleAddr p.out o n0) [res.scale] else (x1, k1)
    let us := kept.map (fun c => (32 * ordinal + c, nth res.codes c 0))
    (x2, k2, { r1 with digest := digUnits r1.digest (dSrTag j) (digBase wr) us })

/-! PASS -/

/-- The activation vectors of a pass: index of vector i of array a (R51, R120). -/
def actIndex (pair v i a : Nat) : Nat := if pair = 0 then v + 2 * i + a else v + i

/-- The ranges of a pass's activations (R116, R120), with their blocks (R40). -/
def passTouch (o : ArrOp) (shape pair m nd : Nat) : List (Nat × Nat) :=
  let els := ((upto 32).map (rowReads (streamFmt o.src) shape nd o.k)).flatten
  ((upto (if pair = 0 then 2 * m else m)).map (fun v => (els.map (elemTouch o.src (o.v + v))).flatten)).flatten

/-- R98, R120: what a PASS reads in the cycle it issues; with STREAM it names a conversion slot. -/
def passOp (k : Core) (w : Word64) : ArrOp :=
  mkArr .pass w (gnat k (fld w 17 13)) (gnat k (fld w 12 8)) (gnat k (fld w 22 18)) (slotStream k (fld w 30 26))
    (if bit w 34 then some (convParams k (fld w 25 23) (fld w 33 32) (bit w 31)) else none)

/-- R51 to R55, R116, R118, R120: what ends the job at a PASS; the order of its checks is the model's (log entry 41). -/
def passErr (x : Die) (k : Core) (r : Run) (w : Word64) : Option Status :=
  let o := passOp k w
  let pair := fld w 57 57
  let shape := fld w 56 54
  let m := fld w 53 43 + 1
  firstErr [operandErr o.src false,
    match r.load with
    | none => some .badShape
    | some (ls, lp, wf, lb) =>
      firstErr [shapeErr shape wf (some (streamFmt o.src)),
        if ls ≠ shape ∨ lp ≠ pair then some .badShape else none,
        if 128 < m ∧ !bit w 34 then some .badShape else none,
        if (blockBound o.src || lb) && o.k % perPass shape wf != 0 then some .badShape else none,
        touchErr x (dGpart r.job) true (passTouch o shape pair m (fmtDigits wf))],
    match o.conv with
    | none => none
    | some p => firstErr [convErr x (dGpart r.job) p o.n (if pair = 0 then 32 else 64),
        writeErr x (dGpart r.job) (((upto (if pair = 0 then 2 * m else m)).map (fun v =>
          convTouch p (o.v + v) o.n ++ (if pair = 0 then [] else convTouch p (o.v + v) (o.n + 32)))).flatten)]]

/-- R120: PASS. -/
def execPass (d c : Nat) (s : State) : Host.Outcome State Fault Refusal :=
  .next (issue 0x21 d c s (fun k r w =>
    arrOr s d c k r (passErr (getDie s d) k r w)
      (match (passOp k w).conv with
        | none => []
        | some p => convReads p (passOp k w).n (if fld w 57 57 = 0 then 32 else 64))
      (fun s => arrIssue s d c k r (passOp k w) true (bit w 34))))

/-! CVT, ACSV, ACRS (R121) -/

/-- R117, R121: the conversion that a CVT names. -/
def cvtParams (k : Core) (w : Word64) : ConvParams := convParams k (fld w 41 39) (fld w 38 37) (bit w 36)

/-- R98, R121: what a CVT reads in the cycle it issues. -/
def cvtOp (k : Core) (w : Word64) : ArrOp :=
  mkArr .cvt w 0 (gnat k (fld w 30 26)) (gnat k (fld w 35 31)) (cvtParams k w).out (some (cvtParams k w))

/-- R51, R118, R121: what ends the job at a CVT; the order of its checks is the model's (log entry 41). -/
def cvtErr (x : Die) (k : Core) (r : Run) (w : Word64) : Option Status :=
  let rows := fld w 49 42 + 1
  let o := cvtOp k w
  let p := cvtParams k w
  firstErr [if 256 < fld w 57 50 + rows then some .badAddr else none,
    convErr x (dGpart r.job) p o.n 32,
    writeErr x (dGpart r.job) (((upto rows).map (fun i => convTouch p (o.v + i) o.n)).flatten)]

/-- R121: CVT. -/
def execCvt (d c : Nat) (s : State) : Host.Outcome State Fault Refusal :=
  .next (issue 0x22 d c s (fun k r w =>
    arrOr s d c k r (cvtErr (getDie s d) k r w) (convReads (cvtParams k w) (cvtOp k w).n 32)
      (fun s => arrIssue s d c k r (cvtOp k w) true true)))

/-- The stream that a save or restore does not have. -/
def noStream : Stream :=
  { base := 0, len := 0, count := 0, stride := 0, sbase := 0, sstride := 0, fmt := 0, scaled := false, blkdim := false }

/-- R98, R121: what an ACSV or ACRS reads in the cycle it issues. -/
def saveOp (kind : ArrKind) (k : Core) (w : Word64) : ArrOp := mkArr kind w (gnat k (fld w 41 37)) 0 0 noStream none

/-- The 384-byte rows that an ACSV or ACRS moves. -/
def saveRows (k : Core) (w : Word64) : List (Nat × Nat) := (upto (fld w 49 42 + 1)).map (fun i => (gnat k (fld w 41 37) + 384 * i, 384))

/-- R51, R92, R93, R121: what ends the job at an ACSV or ACRS; a restore that meets a poisoned word ends with MEM_UE (DEDUCED, log entry 73). -/
def saveErr (kind : ArrKind) (x : Die) (k : Core) (r : Run) (w : Word64) : Option Status :=
  let rows := fld w 49 42 + 1
  let a := gnat k (fld w 41 37)
  firstErr [if 256 < fld w 57 50 + rows ∨ a % 4 ≠ 0 then some .badAddr else none,
    if kind == .acsv then writeErr x (dGpart r.job) (saveRows k w) else touchErr x (dGpart r.job) false (saveRows k w)]

/-- R121: the checks of ACSV and ACRS, and their queueing. -/
def saveRestore (op : Nat) (kind : ArrKind) (d c : Nat) (s : State) : State :=
  issue op d c s (fun k r w =>
    arrOr s d c k r (saveErr kind (getDie s d) k r w) (if kind == .acsv then [] else saveRows k w)
      (fun s => arrIssue s d c k r (saveOp kind k w) false (kind == .acsv)))

/-- R92, R121: ACSV. -/
def execAcsv (d c : Nat) (s : State) : Host.Outcome State Fault Refusal := .next (saveRestore 0x23 .acsv d c s)
/-- R93, R121: ACRS. -/
def execAcrs (d c : Nat) (s : State) : Host.Outcome State Fault Refusal := .next (saveRestore 0x24 .acrs d c s)

/-! Port cycles (R57 to R63) -/

/-- An array instruction whose last port cycle (and, where it has one, last accumulator update) is over. -/
def arrFinish (r : Run) : Run := { r with arrDone := r.arrDone + 1 }

/-- R69: the physical column of logical column j, by the array's failed column F. -/
def physCol (a : ArrRepair) (j : Nat) : Nat := if a.failed < 32 ∧ a.failed ≤ j then j + 1 else j

/-- R69: the physical column of logical column j of array a of a core. -/
def colOf (k : Core) (a j : Nat) : Nat := physCol (if a = 0 then k.rep0 else k.rep1) j

/-- The key of the cell of array a, row r and physical column p, of 33 columns. -/
def cellKey (a r p : Nat) : Nat := 1056 * a + 33 * r + p

/-- The key of a physical column's scale register of a half. -/
def scaleKey (a half p : Nat) : Nat := 66 * a + 33 * half + p

/-- R61, R63, R69, R119: the cell of array a, row and logical column j takes its digits in a weight load, and DFL. In native mode both
arrays take the one weight set. A half's scale register takes its block's scale with the half's first row; a couched cell keeps its own
block's (log entry 38). -/
def loadCell (rd : Nat → Byte) (k : Core) (o : ArrOp) (a j : Nat) (acc : Weights × Bool) : Weights × Bool :=
  let shape := fld o.word 56 54
  let f := streamFmt o.src
  if !cellUsed shape o.pos j then acc else
  let ds : List (Digit × Int × Bool) := (rowElems shape (fmtDigits f) o.pos).map (fun (p : Nat × Nat) =>
    let t := elemDigits f (fun kk => elemAt rd o.src kk (o.n + 32 * (a * fld o.word 57 57) + j)) (o.k + p.1)
    (nth t.1 p.2 (dZero false), t.2.1, t.2.2))
  let key := cellKey a o.pos (colOf k a j)
  let sx : Int := (ds.map (fun (p : Digit × Int × Bool) => p.2.1)).headD 0
  let q := { acc.1 with cells := tset acc.1.cells key (ds.map (fun (p : Digit × Int × Bool) => p.1)) }
  let q1 := if f == .couched then { q with cx := tset q.cx key sx }
    else if o.pos % 16 = 0 then { q with xw := tset q.xw (scaleKey a (o.pos / 16) (colOf k a j)) sx } else q
  (q1, acc.2 || ds.any (fun p => p.2.2))

/-- R61, R63, R119: one row of a weight load; a load's first row replaces what the arrays held. -/
def loadRow (x : Die) (k : Core) (r : Run) (o : ArrOp) : Core × Run :=
  let shape := fld o.word 56 54
  let w0 : Weights := { fmt := streamFmt o.src, shape := shape, pair := fld o.word 57 57, cells := [], xw := [], cx := [] }
  let w1 : Weights := if o.pos = 0 then w0 else k.weights.getD w0
  let (q, dfl) := foldUpto 2 (w1, false) (fun acc a => foldUpto (shapeCols shape) acc (fun acc j => loadCell (coreByte x k) k o a j acc))
  let k1 := corePmcEvent { k with weights := some q } 0x05 1
  (k1, { r with status := r.status ||| cIf dfl cDFL })

/-- The element MACs of a port cycle of both arrays (file 18, event 0x06; Tables 3-5 and 3-9). -/
def portMacs (shape : Nat) (wf af : Fmt) : Nat :=
  let base := match shape with
    | 0 => 1024 | 1 => 2048 | 2 => 512 | 3 => 512 | _ => 512
  2 * base / (fmtDigits wf * fmtDigits af)

/-- R64 to R69: the column sums of one activation vector (half h) in array a, by logical column. -/
def vectorSums (rd : Nat → Byte) (k : Core) (q : Weights) (o : ArrOp) (a h : Nat) (v : Nat) : List (Nat × ColSum) × Bool :=
  let af := streamFmt o.src
  let nd := fmtDigits q.fmt
  let act := (upto 32).map (fun r => (rowElems q.shape nd r).map (fun (e, _) => elemDigits af (elemAt rd o.src v) (o.k + e)))
  let dfl := act.any (fun l => l.any (fun p => p.2.2))
  let xa (hf : Nat) : Int := ((nth act (16 * hf) []).map (fun p => p.2.1)).headD 0
  let rowPairs (j r : Nat) : List (Digit × Digit) :=
    ((tget q.cells (cellKey a r (colOf k a j)) []).zip (nth act r [])).map (fun (wd, ad) => (wd, nth ad.1 h (dZero false)))
  let group (j hf : Nat) (rows : List Nat) : List (List (Digit × Digit) × Int) :=
    if q.fmt == .couched then rows.map (fun r => (rowPairs j r, tget q.cx (cellKey a r (colOf k a j)) 0 + xa hf))
    else [((rows.map (rowPairs j)).flatten, tget q.xw (scaleKey a hf (colOf k a j)) 0 + xa hf)]
  let low := upto 16
  let high := low.map (· + 16)
  let col (j : Nat) : ColSum :=
    match q.shape with
    | 1 => columnSum (group j 0 low ++ group j 1 high)
    | 4 => columnSum (group j (j / 16) (if j < 16 then low else high))
    | _ => columnSum (group j 0 (low ++ high))
  ((upto (shapeCols q.shape)).map (fun j => (j, col j)), dfl)

/-- R58, R120: one port cycle of a pass: a row update for each array. -/
def passCycle (x : Die) (k : Core) (r : Run) (o : ArrOp) (q : Weights) : Core × Run :=
  let w := o.word
  let pair := fld w 57 57
  let af := streamFmt o.src
  let nh := fmtDigits af
  let i := o.pos / nh
  let h := o.pos % nh
  let m := fld w 53 43 + 1
  let rd := coreByte x k
  let lastCycle := decide (o.pos + 1 = m * nh)
  let mk (a : Nat) : RowUpd × Bool :=
    let v := actIndex pair o.v i a
    let (cols, dfl) := vectorSums rd k q o a h v
    ({ row := (fld w 42 36 + i) % 128 + 128 * a
       replace := !bit w 35 && h == 0
       cols := cols
       step := (dStep r.job + o.ord + (2 * i + h) <<< 20) % 2 ^ 32
       conv := if h + 1 = nh then o.conv else none
       o := v, n0 := o.n + (if pair = 0 then 0 else 32 * a)
       ordinal := 2 * i + a, wr := o.wr, seq := o.seq, last := lastCycle && a == 1 }, dfl)
  let (u0, f0) := mk 0
  let (u1, f1) := mk 1
  let k1 := corePmcEvent (corePmcEvent { k with accq := k.accq ++ [u0, u1] } 0x04 1) 0x06 (portMacs q.shape q.fmt af)
  (k1, { r with status := r.status ||| cIf (f0 || f1) cDFL })

/-- R121: one port cycle of CVT: two rows. -/
def cvtCycle (x : Die) (k : Core) (r : Run) (o : ArrOp) (p : ConvParams) : Die × Core × Run :=
  let w := o.word
  let rows := fld w 49 42 + 1
  [0, 1].foldl (fun (a : Die × Core × Run) b =>
    let i := 2 * o.pos + b
    if rows ≤ i then a
    else convertAccRow a.1 a.2.1 a.2.2 p (fld w 57 50 + i) (o.v + i) o.n ((dStep r.job + o.ord + (2 * i) <<< 20) % 2 ^ 32) i o.wr)
    (x, k, r)

/-- R92, R121, R400: one port cycle of a save: two rows of 384 bytes. -/
def acsvCycle (x : Die) (k : Core) (r : Run) (o : ArrOp) : Die × Core × Run :=
  let w := o.word
  let rows := fld w 49 42 + 1
  [0, 1].foldl (fun (a : Die × Core × Run) b =>
    let i := 2 * o.pos + b
    if rows ≤ i then a else
    let row := fld w 57 50 + i
    let ws := (upto 32).map (fun c => accSave (tget a.2.1.acc (32 * row + c) accEmpty))
    let (x1, k1) := coreStore a.1 a.2.1 (o.k + 384 * i) ws.flatten
    let us := (ws.zipIdx.map (fun (bs, c) => (upto 3).map (fun j => (96 * i + 3 * c + j, leNat ((bs.drop (4 * j)).take 4))))).flatten
    (x1, k1, { a.2.2 with digest := digUnits a.2.2.digest (dSrTag r.job) (digBase o.wr) us })) (x, k, r)

/-- R93, R121: one port cycle of a restore: two rows. -/
def acrsCycle (x : Die) (k : Core) (o : ArrOp) : Core :=
  let w := o.word
  let rows := fld w 49 42 + 1
  [0, 1].foldl (fun (a : Core) b =>
    let i := 2 * o.pos + b
    if rows ≤ i then a else
    let row := fld w 57 50 + i
    foldUpto 32 a (fun a c =>
      let n := leNat ((upto 12).map (fun j => coreByte x a (o.k + 384 * i + 12 * c + j)))
      { a with acc := tset a.acc (32 * row + c) (accRestore n) })) k

/-- Port cycles that an array instruction takes (R57, R61, R121). -/
def portCycles (o : ArrOp) : Nat :=
  match o.kind with
  | .wld => 32
  | .pass => (fld o.word 53 43 + 1) * fmtDigits (streamFmt o.src)
  | _ => cdiv (fld o.word 49 42 + 1) 2

/-- R121: the accumulator rows that the present port cycle of a conversion, save or restore moves. -/
def cycleRows (o : ArrOp) : List Nat :=
  ([0, 1].filter (fun b => decide (2 * o.pos + b ≤ fld o.word 49 42))).map (fun b => fld o.word 57 50 + 2 * o.pos + b)

/-- R60, R93: whether a port cycle of a conversion, save or restore waits for an earlier update to a row that it moves. -/
def cycleWaits (k : Core) (o : ArrOp) : Bool := k.accq.any (fun u => (cycleRows o).contains u.row)

/-- R51, R121: whether an array instruction still has an update of accumulator row q to put on its way. -/
def updatesRow (o : ArrOp) (q : Nat) : Bool :=
  match o.kind with
  | .pass =>
    let nh := fmtDigits (streamFmt o.src)
    (upto (fld o.word 53 43 + 1)).any (fun i => decide (o.pos < (i + 1) * nh) && (fld o.word 42 36 + i) % 128 == q % 128)
  | .acrs => (upto (fld o.word 49 42 + 1)).any (fun i => decide (2 * o.pos ≤ i) && fld o.word 57 50 + i == q)
  | _ => false

/-- R60: whether an array instruction numbered below n has an update of accumulator row q that is not written. -/
def rowPending (k : Core) (n q : Nat) : Bool :=
  k.accq.any (fun u => decide (u.seq < n) && u.row == q) || k.aq.any (fun o => decide (o.seq < n) && updatesRow o q)

/-- R58: the array operand port delivers one activation vector or weight row of the instruction that runs; a conversion, save or
restore moves two rows, once every earlier update to them is written (R60, R93). -/
def arrayPortCycle (d c : Nat) (s : State) : State :=
  let x := getDie s d
  let k := coreOf x c
  if !dieUp s d then s else
  match k.run, k.aq with
  | some r, o :: rest =>
    let adv := { o with pos := o.pos + 1 }
    let fin := decide (portCycles o ≤ o.pos + 1)
    let put (x : Die) (k : Core) (r : Run) (counts : Bool) : State :=
      let r' := if fin && counts then arrFinish r else r
      let s1 := setCore (setDie s d x) d c { setRun k r' with aq := if fin then rest else adv :: rest }
      if fin && counts then tellPos s1 d c else s1
    match o.kind, k.weights, o.conv with
    | .wld, _, _ =>
      let (k1, r1) := loadRow x k r o
      put x k1 r1 true
    | .pass, some q, _ =>
      let (k1, r1) := passCycle x k r o q
      put x k1 r1 false
    | .cvt, _, some p =>
      if cycleWaits k o then s else
      let (x1, k1, r1) := cvtCycle x k r o p
      put x1 k1 r1 true
    | .acsv, _, _ =>
      if cycleWaits k o then s else
      let (x1, k1, r1) := acsvCycle x k r o
      put x1 k1 r1 true
    | .acrs, _, _ => if cycleWaits k o then s else put x (acrsCycle x k o) r true
    | _, _, _ => s
  | _, _ => s

/-- R58: ARRAY_PORT_CYCLE. -/
def execArrayPortCycle (d c : Nat) (s : State) : Host.Outcome State Fault Refusal := .next (arrayPortCycle d c s)

/-! The accumulator update -/

/-- R77, R79, R83: one row's update: replaced first under ACC = 0, then each column's sum folded in. -/
def updateRow (k : Core) (r : Run) (u : RowUpd) : Core × Run :=
  let j := r.job
  let k0 := if u.replace then foldUpto 32 k (fun k c => { k with acc := tset k.acc (32 * u.row + c) accEmpty }) else k
  let res := u.cols.foldl (fun (a : Tbl AccWord × Word32 × Nat) (p : Nat × ColSum) =>
    let w := tget a.1 (32 * u.row + p.1) accEmpty
    let rr := srGen (dSeed j) (accCoord (dSrTag j) 0 u.row p.1) u.step
    let (w', st) := accUpdate w p.2 rr
    (tset a.1 (32 * u.row + p.1) w', a.2.1 ||| st, a.2.2 + b2n (bit st 7))) (k0.acc, 0, 0)
  (corePmcEvent { k0 with acc := res.1 } 0x10 res.2.2, { r with status := r.status ||| res.2.1 })

/-- R58, R59, R79: the oldest column sums are folded into their accumulator row; in a STREAM pass the row is then converted. A residue
mismatch (R72) ends the pass, the job does not commit, and the core has a C2 fault. -/
def accUpdateStep (d c : Nat) (mismatch : Bool) (s : State) : State :=
  let x := getDie s d
  let k := coreOf x c
  if !dieUp s d then s else
  match k.run, k.accq with
  | some r, u :: rest =>
    if mismatch then coreStruck (setCore s d c (bumpCheck k u.row)) d c 0x20
    else
      let (k1, r1) := updateRow { k with accq := rest } r u
      let (x2, k2, r2) := match u.conv with
        | none => (x, k1, r1)
        | some p => convertAccRow x k1 r1 p u.row u.o u.n0 u.step u.ordinal u.wr
      let s1 := setCore (setDie s d x2) d c (setRun k2 (if u.last then arrFinish r2 else r2))
      if u.last then tellPos s1 d c else s1
  | _, _ => s

/-- R79: ACC_UPDATE. -/
def execAccUpdate (d c : Nat) (mismatch : Bool) (s : State) : Host.Outcome State Fault Refusal :=
  .next (accUpdateStep d c mismatch s)

end Sys2Proof.Machine
end

