-- ==== Sys2Proof/Machine/Place.lean ====
section
/-! DEFINITION. Where an address of the device's own accesses leads (files 06, 08, 14), the paths between dies (file 01), and reads, writes
and atomics of ground memory and stacks by any party but a core. -/

namespace Sys2Proof.Machine

/-! Paths inside the package (R12, R13, R16) -/

/-- Table 1-2: the die at the far end of bridge b of die d; none where the variant does not connect it. -/
def bridgeTo (v : Variant) (d b : Nat) : Option Nat :=
  match v, b with
  | _, 0 => some (d ^^^ 1)
  | .tx8, 1 => some (d ^^^ 2)
  | .tx4, 1 => some (d ^^^ 2)
  | .tx8, 2 => some (d ^^^ 4)
  | .tx8, 3 => some (d ^^^ 7)
  | .tx4, 3 => some (d ^^^ 3)
  | .tx2, 3 => some (d ^^^ 1)
  | _, _ => none

/-- Tables 1-4 and 1-5: the bridge paths between dies s and t in order of choice. -/
def diePaths (v : Variant) (s t : Nat) : List (List Nat) :=
  match v, s ^^^ t with
  | _, 0 => [[]]
  | .tx8, 1 => [[0]]
  | .tx8, 2 => [[1]]
  | .tx8, 3 => [[0, 1], [1, 0], [3, 2]]
  | .tx8, 4 => [[2]]
  | .tx8, 5 => [[0, 2], [2, 0], [3, 1]]
  | .tx8, 6 => [[1, 2], [2, 1], [3, 0]]
  | .tx8, 7 => [[3]]
  | .tx4, 1 => [[0]]
  | .tx4, 2 => [[1]]
  | .tx4, 3 => [[3]]
  | .tx2, 1 => [[0]]
  | _, _ => []

/-- R16: the path in force: the first whose intermediate die is not among those that the tables in force avoid. -/
def diePath (s : State) (a b : Nat) : Option (List Nat) :=
  (diePaths s.variant a b).find? (fun p =>
    match p with
    | [x, _] => !s.tabs.avoid.contains ((bridgeTo s.variant a x).getD 0)
    | _ => true)

/-- Whether a die answers: it is there and not fenced. -/
def dieLives (s : State) (d : Nat) : Bool := decide (d < ndies s.variant) && decide ((getDie s d).flt < 2)

/-- Whether die b can be reached from die a (R16). -/
def reaches (s : State) (a b : Nat) : Bool := a == b || (dieLives s b && (diePath s a b).isSome)

/-- R13, R430: whether an access of die a crosses to die b now: a middle die that is fenced forwards nothing, though the tables in force may still
lead over it (log entry 57). -/
def crosses (s : State) (a b : Nat) : Bool :=
  reaches s a b && (match diePath s a b with
    | some [x, _] => dieLives s ((bridgeTo s.variant a x).getD 0)
    | _ => true)

/-- R431: whether a die's memories serve: it is in service, not fenced nor in selvage mode. -/
def dieServes (s : State) (d : Nat) : Bool := (getDie s d).flt == 0

/-- The die that holds an Itgil link (R22). -/
def itgDie (k : Nat) : Nat := if k = 0 then 0 else 7

/-- The die through which the companion's work reaches the package (R23). -/
def linkDie (s : State) : Nat := itgDie s.itgActive

/-- R16, R23: whether the companion reaches a die: over the active link's die. -/
def linkReaches (s : State) (d : Nat) : Bool := dieLives s d && crosses s (linkDie s) d

/-! Stacks (file 14) -/

/-- R407: the level of a stack offset. -/
def stkLevel (o : Nat) : Nat := nbits o 35 31

/-- R407: the logical channel of a stack offset within its level. -/
def stkChannel (o : Nat) : Nat := nbits o 12 8 ^^^ nbits o 17 13

/-- R407: the channel address of a stack offset in the segment of a level. -/
def stkChanAddr (level o : Nat) : Nat := level * 2 ^ 26 + (nbits o 30 13) <<< 8 + nbits o 7 0

/-- R407, R420: the logical channel that serves a stack offset, and the address in it: of a retired channel, level 31 of the donor that its level
names among the other channels in increasing order. -/
def stkSite (k : Stack) (o : Nat) : Nat × Nat :=
  if k.retired = some (stkChannel o) then
    (nth ((upto 32).filter (fun c => c != stkChannel o)) (stkLevel o) 0, stkChanAddr 31 o)
  else (stkChannel o, stkChanAddr (stkLevel o) o)

/-- Table 14-4: the available capacity of a stack in bytes. -/
def stkCap (k : Stack) : Nat := if k.retired.isSome then 62 * 2 ^ 30 else 64 * 2 ^ 30

def rSTK_LAYOUT : Nat := oSTK + 0x004

/-- Table 14-2: the end of the overflow area. -/
def ovfEnd (x : Die) : Nat := regFld x rSTK_LAYOUT 4 0 * 2 ^ 30

/-- Table 14-2: whether a range lies in the user area of a stack. -/
def inStkUser (x : Die) (off n : Nat) : Bool := decide (ovfEnd x ≤ off) && decide (off + n ≤ stkCap x.stk)

def stkPoisoned (k : Stack) (off n : Nat) : Bool := k.pois.any (wordMeets off n) || k.bad.any (wordMeets off n)

/-- R411, R413: a write; a whole word clears its poison and its errors. -/
def stkWrite (k : Stack) (off : Nat) (bs : List Byte) : Stack :=
  let n := bs.length
  { k with
    cells := memWrite k.cells off bs
    pois := k.pois.filter (fun w => !wordWhole off n w)
    latent := k.latent.filter (fun w => !wordWhole off n w)
    bad := k.bad.filter (fun w => !wordWhole off n w) }

/-- R413: a read corrects the single-bit errors it meets and marks worse ones poisoned. -/
def stkTouch (k : Stack) (off n : Nat) : Stack :=
  let hit := k.bad.filter (wordMeets off n)
  { k with
    latent := k.latent.filter (fun w => !wordMeets off n w)
    ce := satAdd 0xFFFF k.ce (k.latent.filter (wordMeets off n)).length
    bad := k.bad.filter (fun w => !wordMeets off n w)
    pois := hit.foldl sadd k.pois
    ue := satAdd 0xFF k.ue hit.length }

/-- R413, R422: a correction in the stack of a die counts in FLT_CNT0 too. -/
def dieStkTouch (x : Die) (off n : Nat) : Die :=
  let k := stkTouch x.stk off n
  { x with
    stk := k
    faults := { x.faults with c0 := satAdd (2 ^ 32 - 1) x.faults.c0 (x.stk.latent.length - k.latent.length) } }

/-- R411, R413: a write to the stack of a die: the base die reads the words that it covers in part, and merges. -/
def dieStkWrite (x : Die) (off : Nat) (bs : List Byte) : Die :=
  let x1 := (partWords off bs.length).foldl (fun x w => dieStkTouch x (8 * w) 8) x
  { x1 with stk := stkWrite x1.stk off bs }

/-! Addresses (R235 to R240, R514) -/

/-- Table 8-7: the package region below 0x100_0000_0000. -/
def regionPlace (v : Variant) (a : Nat) : Option Place :=
  if a < 0x8000000000 then
    if a / 0x1000000000 < ndies v then some (.stack (a / 0x1000000000) (a % 0x1000000000)) else none
  else if a < 0x8040000000 then
    let o := a - 0x8000000000
    if o / 0x8000000 < ndies v then some (.ground (o / 0x8000000) (o % 0x8000000)) else none
  else none

/-- The die that owns a place of the package. -/
def placeDie (p : Place) : Option Nat :=
  match p with
  | .scratch d _ _ => some d
  | .ground d _ => some d
  | .stack d _ => some d
  | _ => none

/-- The die of this package that FAB_SELF gives a chip number. -/
def dieOfChip (s : State) (chip : Nat) : Option Nat :=
  (upto (ndies s.variant)).find? (fun d =>
    let w := regWord (getDie s d) rFAB_SELF
    bit w 15 && fld w 14 0 == chip)

/-- R239: the chip table's valid entry. -/
def chipEntry (s : State) (chip : Nat) : Option Word32 :=
  match tfind s.tabs.chips chip with
  | some w => if bit w 31 then some w else none
  | none => none

/-- R237: the window that covers an address. -/
def findWindow (s : State) (a : Nat) : Option Window :=
  (s.tabs.wins.find? (fun p => bit (BitVec.ofNat 8 p.2.flags) 0 && decide (p.2.base ≤ a) && decide (a < p.2.base + p.2.size))).map (·.2)

/-- The types of access that Table 8-8 tells apart. -/
inductive Acc where
  | rd | wr | atom
  deriving DecidableEq, Repr

def winAllows (w : Window) (t : Acc) : Bool :=
  (BitVec.ofNat 8 w.flags).getLsbD (match t with | .rd => 1 | .wr => 2 | .atom => 3)

/-- Table 8-9: a port's grant. -/
def portGrant (s : State) (port : Nat) : Word64 := tget s.tabs.grants port 0

/-- R237: where an address above the package region leads: the companion, or a chip with the rewritten address. -/
def windowPlace (s : State) (a : Nat) (t : Acc) : Except Status Place :=
  match findWindow s a with
  | none => .error .badAddr
  | some w =>
    if !winAllows w t then .error .permDenied
    else
      let b := (w.lbase + (a - w.base)) % 2 ^ 63
      if w.target = 0x3FE then .ok (.board b)
      else
        let g := portGrant s w.target
        if bit g 15 then .ok (.remote (fld g 14 0) b) else .error .badAddr

/-- R235, R236, R514: where an address that the device emits leads. -/
def addrPlace (s : State) (a : Nat) (t : Acc) : Except Status Place :=
  if 2 ^ 63 ≤ a then
    let chip := nbits a 62 48
    match dieOfChip s chip with
    | some d =>
      match regionPlace s.variant (a % 2 ^ 48) with
      | some p => if placeDie p = some d then .ok p else .error .badAddr
      | none => .error .badAddr
    | none => if (chipEntry s chip).isSome then .ok (.remote chip a) else .error .badAddr
  else if a < 0x10000000000 then
    match regionPlace s.variant a with
    | some p => .ok p
    | none => .error .badAddr
  else windowPlace s a t

/-- A place n bytes further on. -/
def placeAdd (p : Place) (n : Nat) : Place :=
  match p with
  | .scratch d c o => .scratch d c (o + n)
  | .ground d o => .ground d (o + n)
  | .stack d o => .stack d (o + n)
  | .remote c a => .remote c (a + n)
  | .board a => .board (a + n)

/-! Accesses -/

/-- What refuses an access of n bytes at a place of the package, for a party that is no core: the areas of Tables 6-1 and 14-2; part is the
partition that binds it, if any (R140); frm is the die that asks (R16). A die in selvage mode serves no memory (R431, R432). -/
def placeErr (s : State) (frm : Nat) (part : Option Nat) (p : Place) (n : Nat) : Option Status :=
  match p with
  | .ground d o =>
    let x := getDie s d
    if !crosses s frm d || !dieServes s d then some .dieUnreachable
    else if !(match part with | some g => inPart x g o n | none => inUser x o n) then some .badAddr else none
  | .stack d o =>
    if !crosses s frm d || !dieServes s d then some .dieUnreachable
    else if !inStkUser (getDie s d) o n then some .badAddr else none
  | .scratch d _ o => if !crosses s frm d || !dieServes s d then some .dieUnreachable else if spadEnd < o + n then some .badAddr else none
  | .board _ => if !crosses s frm (linkDie s) then some .dieUnreachable else none
  | .remote _ _ => none

/-- Whether a range of a place of the package is poisoned. -/
def placePoisoned (s : State) (p : Place) (n : Nat) : Bool :=
  match p with
  | .ground d o => gndPoisoned (getDie s d).gnd o n
  | .stack d o => stkPoisoned (getDie s d).stk o n
  | _ => false

/-- The bytes at a place of the package (nothing checked). -/
def placeBytes (s : State) (p : Place) (n : Nat) : List Byte :=
  match p with
  | .ground d o => memRead (getDie s d).gnd.cells o n
  | .stack d o => memRead (getDie s d).stk.cells o n
  | .scratch d c o => memRead (getCore s d c).scratch o n
  | _ => []

/-- R142, R413: a read corrects the single-bit errors that it meets. -/
def placeTouch (s : State) (p : Place) (n : Nat) : State :=
  match p with
  | .ground d o => updDie s d (fun x => dieGndTouch x o n)
  | .stack d o => updDie s d (fun x => dieStkTouch x o n)
  | _ => s

/-- Writes bytes at a place of the package (nothing checked); elsewhere nothing is written. -/
def placePut (s : State) (p : Place) (bs : List Byte) : State :=
  match p with
  | .ground d o => updDie s d (fun x => dieGndWrite x o bs)
  | .stack d o => updDie s d (fun x => dieStkWrite x o bs)
  | .scratch d c o => updCore s d c (fun k => { k with scratch := memWrite k.scratch o bs })
  | _ => s

/-- A checked read: the bytes and the state, or what refuses it. -/
def placeRead (s : State) (frm : Nat) (part : Option Nat) (p : Place) (n : Nat) : Except Status (List Byte × State) :=
  match placeErr s frm part p n with
  | some e => .error e
  | none => if placePoisoned s p n then .error .memUe else .ok (placeBytes s p n, placeTouch s p n)

/-- What a checked read leaves where it met poison (R142). -/
def placeSeen (s : State) (frm : Nat) (part : Option Nat) (p : Place) (n : Nat) : State :=
  if (placeErr s frm part p n).isSome then s else placeTouch s p n

/-- What an atomic that met poison leaves (R142, R147). -/
def atomicSeen (s : State) (frm : Nat) (p : Place) (aop : Nat) : State :=
  match atomicSize aop, p with
  | some n, .ground _ o => if o % n = 0 then placeSeen s frm none p n else s
  | some n, .stack _ o => if o % n = 0 then placeSeen s frm none p n else s
  | _, _ => s

/-- R145, R147, R149: an atomic at a place of the package: the old value and the state, or what refuses it. -/
def placeAtomic (s : State) (frm : Nat) (p : Place) (aop y : Nat) : Except Status (Nat × State) :=
  match atomicSize aop with
  | none => .error .badReq
  | some n =>
    match placeErr s frm none p n with
    | some e => .error e
    | none =>
      match p with
      | .ground d o =>
        match gndAtomic (dieGndTouch (getDie s d) o n).gnd aop o y with
        | .error e => .error e
        | .ok (old, g) => .ok (old, updDie s d (fun x => { dieGndTouch x o n with gnd := g }))
      | .stack d o =>
        let k := (dieStkTouch (getDie s d) o n).stk
        if o % n ≠ 0 then .error .badAddr
        else if aop ≠ 8 ∧ stkPoisoned k o n then .error .memUe
        else
          let old := memNat k.cells o n
          .ok (old, updDie s d (fun x => { dieStkTouch x o n with stk := { k with cells := memWrite k.cells o (toLe n (atomicValue (fun i => stkPoisoned k (o + 8 * i) 8) aop old y)) } }))
      | _ => .error .badAddr

end Sys2Proof.Machine
end

