-- ==== Sys2Proof/Machine/Packet.lean ====
section
/-! DEFINITION. File 08: the packet: header fields, the check, the classes and kinds, the construction of the device's own packets. -/

namespace Sys2Proof.Machine

abbrev Hdr := BitVec 256

/-- A header with bits hi down to lo replaced. -/
def setH (h : Hdr) (hi lo v : Nat) : Hdr :=
  let w := h.toNat
  BitVec.ofNat 256 (w - (nbits w hi lo) <<< lo + (v % 2 ^ (hi + 1 - lo)) <<< lo)

/-! The route word (Table 8-1) -/
def hDX (h : Hdr) : Nat := fld h 4 0
def hDY (h : Hdr) : Nat := fld h 9 5
def hDZ (h : Hdr) : Nat := fld h 14 10
def hDPORT (h : Hdr) : Nat := fld h 24 15
def hDDIE (h : Hdr) : Nat := fld h 27 25
def hESC (h : Hdr) : Bool := bit h 28
def hDL (h : Hdr) : Bool := bit h 29
def hVC (h : Hdr) : Nat := fld h 33 30
def hHOPS (h : Hdr) : Nat := fld h 39 34
def hSHR (h : Hdr) : Bool := bit h 40

/-! Bytes 6 to 31 (Tables 8-2, 8-3) -/
def hVER (h : Hdr) : Nat := fld h 51 48
def hCLASS (h : Hdr) : Nat := fld h 55 52
def hKIND (h : Hdr) : Nat := fld h 63 56
def hLEN (h : Hdr) : Nat := fld h 76 64
def hCHAN (h : Hdr) : Nat := fld h 82 77
def hORD (h : Hdr) : Bool := bit h 83
def hFIN (h : Hdr) : Bool := bit h 84
def hRESENT (h : Hdr) : Bool := bit h 85
def hNTF (h : Hdr) : Bool := bit h 86
def hNEWW (h : Hdr) : Bool := bit h 87
def hSRC (h : Hdr) : Nat := fld h 102 88
def hSEQ (h : Hdr) : Nat := fld h 127 104
def hODELTA (h : Hdr) : Nat := fld h 135 128
def hTAG (h : Hdr) : Nat := fld h 151 136
def hTOTAL (h : Hdr) : Nat := fld h 175 152
def hNKNOT (h : Hdr) : Nat := fld h 183 176
def hAUX (h : Hdr) : Nat := fld h 191 184
def hADDR (h : Hdr) : Nat := fld h 255 192
def hCTX (h : Hdr) : Nat := fld h 159 128
def hGEN (h : Hdr) : Nat := fld h 167 160
def hPIECE (h : Hdr) : Nat := fld h 174 168
def hLAST (h : Hdr) : Bool := bit h 175
def hRANK (h : Hdr) : Nat := fld h 191 176
def hCHUNK (h : Hdr) : Nat := fld h 223 192
def hCCHK (h : Hdr) : Nat := fld h 255 224

def setRoute (h : Hdr) (v : Nat) : Hdr := setH h 47 0 v

/-! The check (R224, R229) -/

/-- One byte of CRC-32C, reflected. -/
def crcByte (c : Nat) (b : Byte) : Nat :=
  foldUpto 8 (c ^^^ b.toNat) (fun c _ => if c % 2 = 1 then (c >>> 1) ^^^ 0x82F63B78 else c >>> 1)

/-- CRC-32C of R229 over bytes. -/
def crc32c (bs : List Byte) : Nat := (bs.foldl crcByte 0xFFFFFFFF) ^^^ 0xFFFFFFFF

/-- R224: payload plus pad of a TFP 2 packet: a multiple of 4, and at least 28. -/
def bodyLen (len : Nat) : Nat := max 28 (4 * cdiv len 4)

/-- R229: the trailer of a header and body. -/
def trailerOf (h : Hdr) (body : List Byte) : Word32 :=
  BitVec.ofNat 32 (crc32c (toLe 32 (setRoute h 0).toNat ++ body))

def reseal (p : Packet) : Packet := { p with trailer := trailerOf p.hdr p.body }

/-- Bytes of a packet from header to trailer. -/
def pktLen (p : Packet) : Nat := 36 + p.body.length

def payload (p : Packet) : List Byte := p.body.take (hLEN p.hdr)

/-- R230: whether a packet's length and trailer are right. -/
def checkOk (p : Packet) : Bool := p.body.length == bodyLen (hLEN p.hdr) && p.trailer == trailerOf p.hdr p.body

def padTo (n : Nat) (bs : List Byte) : List Byte := bs ++ List.replicate (n - bs.length) 0

/-- A sealed packet: bytes 6 to 31 from the parts given, LEN from the payload. -/
def mkPacket (cls kind src : Nat) (flags : Nat) (rest : Nat) (bs : List Byte) : Packet :=
  let h := BitVec.ofNat 256 (2 <<< 48 + cls <<< 52 + kind <<< 56 + bs.length <<< 64 + flags + src <<< 88 + rest <<< 128)
  let body := padTo (bodyLen bs.length) bs
  { hdr := h, body := body, trailer := trailerOf h body }

def fFIN : Nat := 1 <<< 84

/-- Header bytes 16 to 31 in the memory form. -/
def memForm (tag total aux addr : Nat) : Nat := tag <<< 8 + total <<< 24 + aux <<< 56 + addr <<< 64

/-- Header bytes 16 to 31 in the collective form. -/
def collForm (ctx gen piece : Nat) (last : Bool) (rank chunk cchk : Nat) : Nat :=
  ctx + gen <<< 32 + piece <<< 40 + b2n last <<< 47 + rank <<< 48 + chunk <<< 64 + cchk <<< 96

/-! Classes and kinds (Tables 8-4, 8-5) -/

def kWRITE : Nat := 0x01
def kREAD : Nat := 0x02
def kATOMIC : Nat := 0x03
def kENGINE : Nat := 0x04
def kREAD_DATA : Nat := 0x05
def kATOMIC_DATA : Nat := 0x06
def kENG_DONE : Nat := 0x07
def kREPLY_WRITE : Nat := 0x08
def kDATA : Nat := 0x10
def kPRICK : Nat := 0x11
def kRESULT : Nat := 0x12
def kWINDOW : Nat := 0x13
def kRECONTRIB : Nat := 0x14
def kDELIVER : Nat := 0x15
def kACK : Nat := 0x18
def kRESEND : Nat := 0x19
def kCOLL_ACK : Nat := 0x1A
def kARRIVE : Nat := 0x1B
def kRELEASE : Nat := 0x1C
def kSYNC_TIME : Nat := 0x1D
def kDELAY_REQ : Nat := 0x1E
def kDELAY_RSP : Nat := 0x1F
def kMGMT_MSG : Nat := 0x20

/-- Table 8-5: the class of a kind; none for a reserved kind. -/
def kindClass (k : Nat) : Option Nat :=
  if k = 0x01 then some 2
  else if 0x02 ≤ k ∧ k ≤ 0x04 then some 0
  else if 0x05 ≤ k ∧ k ≤ 0x08 then some 1
  else if k = 0x10 ∨ k = 0x11 then some 3
  else if 0x12 ≤ k ∧ k ≤ 0x15 then some 4
  else if 0x18 ≤ k ∧ k ≤ 0x1F then some 5
  else if k = 0x20 then some 6
  else none

/-- Whether a kind uses the collective form (Table 8-5). -/
def kindColl (k : Nat) : Bool := (decide (0x10 ≤ k) && decide (k ≤ 0x14)) || k == 0x1A

/-- Table 8-4: whether packets of a kind are sequenced. -/
def kindSeq (k : Nat) : Bool :=
  match kindClass k with
  | some 0 | some 1 | some 2 | some 6 => true
  | some 4 => k == kDELIVER
  | _ => false

/-- The zero fields of header bytes 6 to 31 (R226, R227, R386). -/
def zeroFieldsOk (h : Hdr) : Bool :=
  let k := hKIND h
  let common := !bit h 103 && fld h 47 41 == 0 && (hORD h || hCHAN h == 0)
  if kindColl k then
    common && hSEQ h == 0 && hCHAN h == 0 && !hORD h && !hFIN h && !hNTF h && !hNEWW h
      && (match k with
          | 0x10 => hLAST h || hCCHK h == 0
          | 0x12 => hCCHK h < 2 ^ 9
          | 0x14 => hCCHK h < 2
          | 0x1A => hCCHK h < 2 ^ 8
          | _ => hCCHK h == 0)
  else match k with
    | 0x18 => common && fld h 175 167 == 0 && hAUX h == 0
    | 0x19 => common && fld h 175 167 == 0
    | 0x1B => common && hLEN h == 0 && hSEQ h == 0 && fld h 87 77 == 0 && fld h 191 160 == 0 && hADDR h == 0
    | 0x1C => common && hLEN h == 0 && hSEQ h == 0 && fld h 87 77 == 0 && fld h 191 161 == 0 && (bit h 160 || hADDR h == 0)
    | 0x1D => common && hLEN h == 0 && hSEQ h == 0 && fld h 87 77 == 0 && fld h 255 201 == 0
    | 0x1E => common && hLEN h == 0 && hSEQ h == 0 && fld h 87 77 == 0 && hADDR h == 0
    | 0x1F => common && hLEN h == 0 && hSEQ h == 0 && fld h 87 77 == 0 && fld h 255 224 == 0
    | 0x15 => common && hAUX h == 0
    | _ => common

/-- R517: whether the header is that of a void of its class: no payload, and PERM_DENIED or BAD_ADDR in AUX. -/
def voidForm (h : Hdr) : Bool := hLEN h == 0 && (hAUX h == 1 || hAUX h == 4)

/-- R228: whether a TFP 2 packet is one that a package discards and counts in KIND; trunk says that it came by a trunk port or bridge, where
a void (R517) may carry its status. -/
def badKind (h : Hdr) (trunk : Bool) : Bool :=
  hVER h != 2 || decide (4096 < hLEN h) || kindClass (hKIND h) != some (hCLASS h) || !zeroFieldsOk h
    || (hAUX h != 0 && !(trunk && voidForm h) && (hCLASS h == 0 || hCLASS h == 2 || hCLASS h == 6))

/-- Whether a packet is a void (R517). -/
def isVoid (h : Hdr) : Bool := hAUX h != 0 && (hCLASS h == 0 || hCLASS h == 2 || hCLASS h == 6)

/-- Table 8-6. -/
def replyCode (st : Status) : Nat :=
  match st with
  | .ok => 0 | .badAddr => 1 | .memUe => 2 | .badReq => 3 | .permDenied => 4 | .dieUnreachable => 5 | _ => 3

def replyStatus (n : Nat) : Status :=
  match n with
  | 0 => .ok | 1 => .badAddr | 2 => .memUe | 3 => .badReq | 4 => .permDenied | 5 => .dieUnreachable | n => .raw n

/-! The die's counters of discarded and faulty packets -/

def nCRC : Nat := 0
def nLIFE : Nat := 1
def nSPOOF : Nat := 2
def nWINDOW : Nat := 3
def nBADADDR : Nat := 4
def nNOFIN : Nat := 5
def nMSGERR : Nat := 6
def nKIND : Nat := 7
def nDUP : Nat := 8
def nDOWN : Nat := 9
def nNOROUTE : Nat := 10
def nNOT_OPEN : Nat := 11
def nNOSLOT : Nat := 12
def nEARLY : Nat := 13
def nCHUNK_CRC : Nat := 14
def nCOLLDUP : Nat := 15
def nDFREE : Nat := 16
def nNOADM : Nat := 17
def nKBAD : Nat := 18
def nKLATE : Nat := 19
def nKSAT : Nat := 20
def nKUNTIMED : Nat := 21

/-- The largest value of a counter (Tables 7-13, 7-14, 8-18 to 8-20, 9-16, 10-21, 13-10). -/
def cntMax (n : Nat) : Nat :=
  if n = nDUP ∨ n = nCOLLDUP then 2 ^ 32 - 1 else if n = nDOWN ∨ n = nNOROUTE ∨ n = nDFREE then 0xFFFF else 0xFF

def dieCnt (x : Die) (n : Nat) : Nat := tget x.cnt n 0

/-- Adds 1 to a counter of a die, saturating. -/
def bump (s : State) (d n : Nat) : State :=
  updDie s d (fun x => { x with cnt := tset x.cnt n (satInc (cntMax n) (dieCnt x n)) })

end Sys2Proof.Machine
end

