-- ==== Sys2Proof/Machine/Pools.lean ====
section
/-! DEFINITION. File 10, R297 to R304: buffer pools, handle caches, the reserves that back credit, reference counts; file 09, R279 and R280,
and file 11, R325 and R515: credit held by a sender and credit returned by a receiver. -/

namespace Sys2Proof.Machine

/-! Ports of an octet (R326) -/

def portCfg (x : Die) (l : Nat) : Word32 := regWord x (rPORT_CFG (l / 8))

/-- Table 11-4: the first lanes and widths (log2) of an octet's ports. -/
def modePorts (m : Nat) : List (Nat × Nat) :=
  match m with
  | 1 => [(0, 3)]
  | 2 => [(0, 2), (4, 2)]
  | 3 => [(0, 1), (2, 1), (4, 1), (6, 1)]
  | 4 => (upto 8).map (fun k => (k, 0))
  | 5 => [(0, 2), (4, 1), (6, 1)]
  | 6 => [(0, 1), (2, 1), (4, 2)]
  | _ => []

/-- The configured width (log2) of the port at local index l; none where no port starts there. -/
def portWidth (x : Die) (l : Nat) : Option Nat :=
  if 96 ≤ l then none
  else ((modePorts (fld (portCfg x l) 2 0)).find? (fun p => p.1 == l % 8)).map (·.2)

/-- The port that holds a lane. -/
def laneWidthPort (x : Die) (i : Nat) : Option Nat :=
  ((modePorts (fld (portCfg x i) 2 0)).find? (fun p => decide (p.1 ≤ i % 8) && decide (i % 8 < p.1 + 2 ^ p.2))).map
    (fun p => 8 * (i / 8) + p.1)

/-- The octet's ROLE: trunk or endpoint. -/
def isTrunk (x : Die) (l : Nat) : Bool := bit (portCfg x l) 3

def portOf (x : Die) (l : Nat) : Port := tget x.ports l portReset
def getPort (s : State) (d l : Nat) : Port := portOf (getDie s d) l
def setPort (s : State) (d l : Nat) (p : Port) : State := updDie s d (fun x => { x with ports := tset x.ports l p })
def updPort (s : State) (d l : Nat) (f : Port → Port) : State := setPort s d l (f (getPort s d l))

def bridgeOf (x : Die) (b : Nat) : Bridge := tget x.brs b bridgeReset
def updBridge (s : State) (d b : Nat) (f : Bridge → Bridge) : State :=
  updDie s d (fun x => { x with brs := tset x.brs b (f (bridgeOf x b)) })

/-! Pools (R297, Table 10-2) -/

/-- The smallest pool that holds a packet of n bytes. -/
def poolFor (n : Nat) : Nat := if n ≤ 256 then 0 else if n ≤ 1024 then 1 else 2
def poolUnits (p : Nat) : Nat := if p = 0 then 4 else if p = 1 then 16 else 68
def poolSize (p : Nat) : Nat := if p = 0 then 87040 else if p = 1 then 21760 else 5120

/-- Table 9-6: the charge of a packet of n bytes. -/
def chargeOf (n : Nat) : Nat := poolUnits (poolFor n)

/-- R297: a handle's 32-bit value. -/
def handleOf (pool idx : Nat) : Nat := pool + 4 * idx

def poolOf (x : Die) (p : Nat) : Pool := tget x.pools p poolReset

/-- Takes n handles from a ring: those that never left it first, then the returned ones in order; handles withdrawn with their rows
(R443) stay out. -/
def ringTake (p : Nat) (r : Pool) (n : Nat) (lost : NSet) : List Nat × Pool :=
  let m := min n (poolSize p - r.fresh)
  (((upto m).map (fun i => handleOf p (r.fresh + i)) ++ r.back.take (n - m)).filter (fun h => !lost.contains h),
    { fresh := r.fresh + m, back := r.back.drop (n - m) })

def cacheKey (p g : Nat) : Nat := 14 * p + g
def cacheOf (x : Die) (p g : Nat) : List Nat := tget x.caches (cacheKey p g) []

/-- R298: a cache fetches 128 handles from its pool's ring. -/
def cacheFetch (x : Die) (p g : Nat) : Die :=
  let (hs, r) := ringTake p (poolOf x p) 128 x.pbOut
  { x with pools := tset x.pools p r, caches := tset x.caches (cacheKey p g) (cacheOf x p g ++ hs) }

/-- R298, R431: a freed handle enters the cache of the group that frees it; above 224, 128 go back to the ring, which a die in selvage mode does
not touch. -/
def cachePut (x : Die) (p g h : Nat) : Die :=
  if x.pbOut.contains h then x else
  let c := cacheOf x p g ++ [h]
  if 224 < c.length ∧ x.flt = 0 then
    let r := poolOf x p
    { x with pools := tset x.pools p { r with back := r.back ++ c.take 128 }, caches := tset x.caches (cacheKey p g) (c.drop 128) }
  else { x with caches := tset x.caches (cacheKey p g) c }

/-- Table 10-19: the free handles of a pool, in its ring and caches. -/
def poolFree (x : Die) (p : Nat) : Nat :=
  let r := poolOf x p
  poolSize p - r.fresh - (x.pbOut.filter (fun h => h % 4 == p && decide (r.fresh ≤ h / 4))).length + r.back.length
    + ((upto 14).map (fun g => (cacheOf x p g).length)).foldl (· + ·) 0

/-! Reserves (R299) -/

/-- R299: a trunk port's advertised total. -/
def trunkU (x : Die) : Nat :=
  14 * regFld x rFAB_VCRES 7 0 + 4 * regFld x rFAB_VCRES 15 8 + 16 * regFld x rFAB_VCRES 27 16

/-- R299: the advertised total of the port at l. -/
def portU (x : Die) (l : Nat) : Nat := if isTrunk x l then trunkU x else 7 * regFld x rFAB_VCRES 7 0

/-- Credit units in use at a bridge port. -/
def bridgeHeld (b : Bridge) : Nat := (b.use.map (·.2)).foldl (· + ·) 0

/-- R299: the buffers of pool p that a die holds in reserve, for the ports that reserve and the connected bridge ports; extra is a port to be
admitted. -/
def poolReserve (v : Variant) (d : Nat) (x : Die) (p : Nat) (extra : Option Nat) : Nat :=
  let c := poolUnits p
  let ofPort (l : Nat) (h : Nat) : Nat := cdiv (portU x l - h) c
  let ports := (x.ports.map (fun (l, q) => if q.reserved || extra == some l then ofPort l q.held else 0)).foldl (· + ·) 0
  let more := match extra with
    | some l => if (tfind x.ports l).isNone then ofPort l 0 else 0
    | none => 0
  let brs := ((upto 4).map (fun b => if (bridgeTo v d b).isSome then cdiv (2 * trunkU x - bridgeHeld (bridgeOf x b)) c else 0)).foldl (· + ·) 0
  ports + more + brs

/-! Buffers (R300, R301) -/

/-- Takes a buffer of pool p for group g; an empty cache fetches first (log entry 9), but in selvage mode (R431). none where no handle is free. -/
def allocBuf (x : Die) (p g : Nat) (e : BufEnt) : Option (Nat × Die) :=
  let x1 := if (cacheOf x p g).isEmpty && x.flt == 0 then cacheFetch x p g else x
  match cacheOf x1 p g with
  | [] => none
  | h :: rest => some (h, { x1 with caches := tset x1.caches (cacheKey p g) rest, bufs := tset x1.bufs h e })

/-- R300: whether internal requester n may take a buffer of pool p: beyond the ports' reserves and within its quota. -/
def reqMay (v : Variant) (d : Nat) (x : Die) (n p : Nat) : Bool :=
  decide (poolReserve v d x p none < poolFree x p)
    && decide (tget x.reqUse n 0 + poolUnits p ≤ regFld x (rBPM_QUOTA n) 19 0)

/-- R300: takes a buffer for an internal requester, with a reference count. -/
def allocReq (v : Variant) (d : Nat) (x : Die) (n len refs : Nat) : Option (Nat × Die) :=
  let p := poolFor len
  if !reqMay v d x n p then none
  else
    match allocBuf x p 13 { refs := refs, grp := 13, units := poolUnits p, credit := none, req := some n } with
    | none => none
    | some (h, x1) => some (h, { x1 with reqUse := tset x1.reqUse n (tget x1.reqUse n 0 + poolUnits p) })

/-! Control words as sent (Table 11-3) -/
def creditOf (b n : Nat) : Nat := 2 + b <<< 3 + (n % 4096) <<< 8
def advertOf (b u : Nat) : Nat := 3 + b <<< 3 + (u % 4096) <<< 8
def stateOf (st : Nat) (drained : Bool) : Nat := 4 + st <<< 3 + b2n drained <<< 7

/-- R280, R325: a port's cumulative count of a buffer rises by the units returned, and a CREDIT word goes out. -/
def sendCredit (s : State) (d l b units : Nat) : State :=
  let p := getPort s d l
  let n := tget p.rxRet b 0 + units
  emit (setPort s d l { p with rxRet := tset p.rxRet b n }) (.control d l 2 [creditOf b n])

/-- R280, R287, R325: a receiver returns credit: a port to its sender, which an endpoint port puts off while a drain withholds credit; a bridge's
use falls. -/
def returnCredit (s : State) (d inp b units : Nat) : State :=
  if inp < 96 then
    let s1 := updPort s d inp (fun p => { p with held := p.held - units })
    if stopped s && !isTrunk (getDie s d) inp then updPort s1 d inp (fun p => { p with owed := tset p.owed b (tget p.owed b 0 + units) })
    else sendCredit s1 d inp b units
  else updBridge s d (inp - 96) (fun r => { r with use := tset r.use b (tget r.use b 0 - units) })

/-- R301: one event that takes 1 from a buffer's count, done by group g; at 0 the handle is freed and its credit returned. A decrement of a
free buffer is ignored, counted and reported. -/
def decBuf (s : State) (d h g : Nat) : State :=
  let x := getDie s d
  match tfind x.bufs h with
  | none => postEvent (bump s d nDFREE) 0x10 d h g 0 0
  | some e =>
    if e.refs = 0 then postEvent (bump s d nDFREE) 0x10 d h g 0 0
    else if 1 < e.refs then setDie s d { x with bufs := tset x.bufs h { e with refs := e.refs - 1 } }
    else
      let x1 := cachePut { x with bufs := tdel x.bufs h } (h % 4) g h
      let x2 := match e.req with
        | some n => { x1 with reqUse := tset x1.reqUse n (tget x1.reqUse n 0 - e.units) }
        | none => x1
      let s1 := setDie s d x2
      match e.credit with
      | some (inp, b) => returnCredit s1 d inp b e.units
      | none => s1

/-- The same where there is a buffer. -/
def decOpt (s : State) (d : Nat) (h : Option Nat) (g : Nat) : State :=
  match h with
  | some h => decBuf s d h g
  | none => s

/-- Adds references to a buffer (R301, R302). -/
def addRefs (x : Die) (h n : Nat) : Die :=
  match tfind x.bufs h with
  | some e => { x with bufs := tset x.bufs h { e with refs := e.refs + n } }
  | none => x

/-- The group of an input (R297). -/
def groupOf (inp : Nat) : Nat := if inp < 96 then inp / 8 else if inp < 100 then 12 else 13

/-! Credit held by a sender (R515) -/

/-- R515: A − S + R for a buffer. -/
def creditHeld (p : Port) (b : Nat) : Int :=
  (if b = 31 then 16 * tget p.txA b 0 else tget p.txA b 0 : Nat) - (tget p.txS b 0 : Nat) + (tget p.txR b 0 : Nat)

/-- R270: the virtual channel of a class under ESC. -/
def vcOf (cls : Nat) (esc : Bool) : Nat :=
  match cls with
  | 0 => if esc then 1 else 0
  | 1 => if esc then 3 else 2
  | 2 => if esc then 5 else 4
  | 3 => if esc then 7 else 6
  | 4 => 8
  | 5 => 9
  | _ => 10

/-- Whether a virtual channel is adaptive (Table 9-5). -/
def vcAdaptive (vc : Nat) : Bool := vc == 0 || vc == 2 || vc == 4 || vc == 6

/-- R322: the buffer of a VC and half. -/
def vcBuf (vc : Nat) (dl : Bool) : Nat := if vcAdaptive vc then 2 * vc else 2 * vc + b2n dl

/-- R279: the buffer whose units cover a packet's charge at a trunk port, and whether they are the shared ones; none where it waits. -/
def trunkCredit (p : Port) (vc : Nat) (dl : Bool) (charge : Nat) : Option (Nat × Bool) :=
  let b := vcBuf vc dl
  if (charge : Int) ≤ creditHeld p b then some (b, false)
  else if vcAdaptive vc && decide ((charge : Int) ≤ creditHeld p 31) then some (31, true) else none

/-- R279: the same at a bridge: the receiving die's units by set, VC and half, and its shared units by set. -/
def bridgeCredit (rx : Die) (b set vc : Nat) (dl : Bool) (charge : Nat) : Option Nat :=
  let use := (bridgeOf rx b).use
  let k := 32 * set + vcBuf vc dl
  let lim := if vcAdaptive vc then regFld rx rFAB_VCRES 15 8 else regFld rx rFAB_VCRES 7 0
  if tget use k 0 + charge ≤ lim then some k
  else if vcAdaptive vc && decide (tget use (32 * set + 31) 0 + charge ≤ 16 * regFld rx rFAB_VCRES 27 16) then some (32 * set + 31)
  else none

end Sys2Proof.Machine
end

