-- ==== Sys2Proof/Machine/Route.lean ====
section
/-! DEFINITION. Files 08 and 09: where a packet is to go (R240, R187, R225), dimension-order and adaptive routes (R266 to R276), the grant
check at the die of entry (R238, R517). -/

namespace Sys2Proof.Machine

/-! Coordinates and chips -/

def ownShape (s : State) : Shape := s.tabs.shape.getD { x := 0, y := 0, z := 0, lx := 0, ly := 0, lz := 0, wrap := 0 }

/-- Bits 0 to 27 of a route word. -/
def routeBits (x y z port die : Nat) : Nat := x + y <<< 5 + z <<< 10 + port <<< 15 + die <<< 25

def ownRoute (s : State) (port die : Nat) : Nat :=
  let h := ownShape s
  routeBits h.x h.y h.z port die

/-- A die's chip number (R262); none while VALID is 0. -/
def chipOfDie (s : State) (d : Nat) : Option Nat :=
  let w := regWord (getDie s d) rFAB_SELF
  if bit w 15 then some (fld w 14 0) else none

/-- The port of this package whose grant names a chip with CVALID = 1. -/
def portOfChip (s : State) (chip : Nat) : Option Nat :=
  (s.tabs.grants.find? (fun p => bit p.2 15 && fld p.2 14 0 == chip)).map (·.1)

/-- R225, R239, R240, R269: the destination bits for a chip, and whether the package itself resolves it. -/
def chipRoute (s : State) (chip : Nat) : Option (Nat × Bool) :=
  match dieOfChip s chip with
  | some d => some (ownRoute s 0x3FF d, true)
  | none =>
    match portOfChip s chip with
    | some p => some (ownRoute s p 0, true)
    | none => (chipEntry s chip).map (fun w => (fld w 27 0, false))

/-! Contexts by name (R187, R188) -/

def findCtx (s : State) (id gen : Nat) : Option Ctx := s.ctxs.find? (fun c => c.opened && c.id == id && c.gen == gen)

def ctxF (c : Ctx) (hi lo : Nat) : Nat := fld c.blk hi lo

/-- Bytes 16 to 19 of the context block: the box. -/
def boxX0 (c : Ctx) : Nat := ctxF c 132 128
def boxY0 (c : Ctx) : Nat := ctxF c 137 133
def boxZ0 (c : Ctx) : Nat := ctxF c 142 138
def boxDX (c : Ctx) : Nat := ctxF c 147 143 + 1
def boxDY (c : Ctx) : Nat := ctxF c 152 148 + 1
def boxDZ (c : Ctx) : Nat := ctxF c 157 153 + 1
def boxNP (c : Ctx) : Nat := boxDX c * boxDY c * boxDZ c

/-- R187: the home of a chunk: box order and index in the home-die list. -/
def homePkg (c : Ctx) (chunk : Nat) : Nat := (srGen c.id chunk 0 * boxNP c) >>> 32
def homeDie (c : Ctx) (chunk : Nat) : Nat := nth c.dies ((srGen c.id chunk 1 * c.dies.length) >>> 32) 0

/-- R182: the coordinates of the package at a box order. -/
def boxCoord (s : State) (c : Ctx) (o : Nat) : Nat × Nat × Nat :=
  let h := ownShape s
  let i := o % boxDX c
  let j := o / boxDX c % boxDY c
  let k := o / (boxDX c * boxDY c)
  ((boxX0 c + i) % (h.lx + 1), (boxY0 c + j) % (h.ly + 1), (boxZ0 c + k) % (h.lz + 1))

/-- This package's position in a context's box along an axis; none where it lies outside. -/
def boxPos1 (x0 d l x : Nat) : Option Nat :=
  let i := (x + (l + 1) - x0 % (l + 1)) % (l + 1)
  if i < d then some i else none

/-- R182: this package's position in a context's box. -/
def boxPos (s : State) (c : Ctx) : Option (Nat × Nat × Nat) :=
  let h := ownShape s
  match boxPos1 (boxX0 c) (boxDX c) h.lx h.x, boxPos1 (boxY0 c) (boxDY c) h.ly h.y, boxPos1 (boxZ0 c) (boxDZ c) h.lz h.z with
  | some i, some j, some k => some (i, j, k)
  | _, _, _ => none

/-- R182: this package's box order. -/
def boxOrder (s : State) (c : Ctx) : Nat :=
  match boxPos s c with
  | some (i, j, k) => i + boxDX c * (j + boxDY c * k)
  | none => 0

/-! Dimension order (R266 to R269) -/

/-- The coordinate and length − 1 of an axis (0 X, 1 Y, 2 Z). -/
def axisOf (h : Shape) (a : Nat) : Nat × Nat :=
  match a with
  | 0 => (h.x, h.lx)
  | 1 => (h.y, h.ly)
  | _ => (h.z, h.lz)

def wraps (h : Shape) (a : Nat) : Bool := h.wrap.testBit a

def destCoord (h : Hdr) (a : Nat) : Nat :=
  match a with
  | 0 => hDX h
  | 1 => hDY h
  | _ => hDZ h

/-- Table 9-3: the minimal directions of an axis, the dimension-order one first. -/
def axisDirs (h : Shape) (a t : Nat) : List Nat :=
  let (x, l) := axisOf h a
  if x = t then []
  else if wraps h a then
    let p := (t + (l + 1) - x) % (l + 1)
    let m := (x + (l + 1) - t) % (l + 1)
    (if p ≤ m then [2 * a] else []) ++ (if m ≤ p then [2 * a + 1] else [])
  else if x < t then [2 * a] else [2 * a + 1]

/-- R267: the dimension-order direction of a packet. -/
def dorDir (s : State) (h : Hdr) : Option Nat :=
  [0, 1, 2].findSome? (fun a => (axisDirs (ownShape s) a (destCoord h a)).head?)

def minDirs (s : State) (h : Hdr) : List Nat :=
  ([0, 1, 2].map (fun a => axisDirs (ownShape s) a (destCoord h a))).flatten

def trunkPorts (s : State) (dir : Nat) : List Nat := tget s.tabs.trunk dir []

/-- R268: the route hash; tree says that the copy is hashed as for ORD = 1 and CHAN = 0 (R282). -/
def routeHash (h : Hdr) (tree : Bool) : Nat :=
  let key := fld h 27 0
  let seed := hSRC h <<< 8 + (if tree then 0 else if hORD h then hCHAN h else 0x40)
  let flow := if tree || hORD h then 0
    else if kindColl (hKIND h) then (hCHUNK h + hRANK h <<< 20 + hPIECE h <<< 12) % 2 ^ 32
    else hSEQ h
  srGen seed key (flow ^^^ (hHOPS h <<< 24))

/-- R267: the trunk port of a direction that a packet hashes onto. -/
def dirPort (s : State) (h : Hdr) (dir : Nat) (tree : Bool) : Option Nat :=
  let ps := trunkPorts s dir
  if ps.isEmpty then none else ps[(routeHash h tree * ps.length) >>> 32]?

/-- Whether a port (by number) carries packets. -/
def portActive (s : State) (p : Nat) : Bool := (getPort s (p / 96) (p % 96)).st == 6

/-- The direction whose trunk entry lists a port. -/
def dirOfPort (s : State) (p : Nat) : Option Nat := (s.tabs.trunk.find? (fun e => e.2.contains p)).map (·.1)

/-- R272: DL on a trunk hop in a direction, for a packet that came in direction frm. -/
def nextDL (s : State) (h : Hdr) (frm : Option Nat) (dir : Nat) : Bool :=
  let sh := ownShape s
  let a := dir / 2
  let (x, l) := axisOf sh a
  if wraps sh a && ((dir % 2 == 0 && x == l) || (dir % 2 == 1 && x == 0)) then true
  else match frm with
    | some f => if f / 2 = a then hDL h else false
    | none => hDL h

/-! Adaptive choice (R274 to R276) -/

/-- R274: the candidate ports of a packet, by increasing port number. -/
def candidates (s : State) (h : Hdr) (charge : Nat) : List Nat :=
  let ps := ((minDirs s h).map (trunkPorts s)).flatten
  (upto (96 * ndies s.variant)).filter (fun p =>
    ps.contains p && portActive s p && (getDie s (p / 96)).flt == 0
      && (trunkCredit (getPort s (p / 96) (p % 96)) (vcOf (hCLASS h) false) false charge).isSome)

def warmOf (s : State) (dir : Nat) : Warm := tget s.warm dir warmReset

/-- R276: the weights of the candidates seen from die d. -/
def adaptWeight (s : State) (d : Nat) (warm : Bool) (p : Nat) : Nat :=
  if warm then 1
  else
    let bh := ((diePath s d (p / 96)).getD []).length
    max 1 (65536 / (1 + (getPort s (p / 96) (p % 96)).hist + 16 * bh))

/-- R276: adapt_choose: walks the weights from point t. -/
def adaptWalk (t : Nat) : List (Nat × Nat) → Option Nat
  | [] => none
  | (p, w) :: l => if t < w then some p else adaptWalk (t - w) l

/-- R276: the candidate chosen. -/
def adaptChoose (s : State) (d : Nat) (h : Hdr) (cs : List Nat) : Option Nat :=
  let warm := cs.any (fun p => match dirOfPort s p with | some g => (warmOf s g).warming | none => false)
  let ws := cs.map (fun p => (p, adaptWeight s d warm p))
  let sum := (ws.map (·.2)).foldl (· + ·) 0
  adaptWalk ((routeHash h false * sum) >>> 32) ws

/-- R275: a decision counts toward every group that holds a candidate. -/
def countDecision (s : State) (cs : List Nat) : State :=
  let gs := (upto 6).filter (fun g => cs.any (fun p => (trunkPorts s g).contains p))
  { s with warm := gs.foldl (fun w g => let e := tget w g warmReset; tset w g { e with dec := e.dec + 1 }) s.warm }

/-! Decisions (R267, R269, R274) -/

/-- What a package does with a packet: consume it at a die; send it from a port (number), on the escape VC or not; wait for a candidate;
discard it and count it. -/
inductive Route where
  | here (d : Nat)
  | port (p : Nat) (esc : Bool)
  | wait
  | drop (n : Nat)
  deriving DecidableEq, Repr

/-- R269: whether a port number starts a port of this package. -/
def portStarts (s : State) (p : Nat) : Bool :=
  decide (p / 96 < ndies s.variant) && (portWidth (getDie s (p / 96)) (p % 96)).isSome

/-- R267, R269: at the destination package. -/
def routeAtDest (s : State) (h : Hdr) : Route :=
  if hDPORT h = 0x3FF then (if hDDIE h < ndies s.variant then .here (hDDIE h) else .drop nNOROUTE)
  else if 0x300 ≤ hDPORT h ∨ !portStarts s (hDPORT h) then .drop nNOROUTE
  else if portActive s (hDPORT h) then .port (hDPORT h) true else .drop nDOWN

/-- Whether the destination coordinates are this package's. -/
def atDest (s : State) (h : Hdr) : Bool :=
  let sh := ownShape s
  hDX h == sh.x && hDY h == sh.y && hDZ h == sh.z

/-- R267, R278: the dimension-order output. -/
def routeEscape (s : State) (h : Hdr) : Route :=
  match dorDir s h with
  | none => .drop nNOROUTE
  | some g =>
    match dirPort s h g false with
    | none => .drop nNOROUTE
    | some p => if portActive s p then .port p true else .drop nDOWN

/-- R267 to R274: the route of a packet at die d; own says that this package resolved its destination. -/
def routeOf (s : State) (d : Nat) (h : Hdr) (own : Bool) : Route :=
  match s.tabs.shape with
  | none => if own then routeAtDest s h else .drop nNOROUTE
  | some sh =>
    if atDest s h then routeAtDest s h
    else if sh.lx < hDX h ∨ sh.ly < hDY h ∨ sh.lz < hDZ h then .drop nNOROUTE
    else if hESC h then routeEscape s h
    else
      match dorDir s h with
      | none => .drop nNOROUTE
      | some g =>
        if (trunkPorts s g).isEmpty then .drop nNOROUTE
        else
          match adaptChoose s d h (candidates s h (chargeOf (36 + bodyLen (hLEN h)))) with
          | some p => .port p false
          | none => .wait

/-- R271: ESC as the ingress package sets it. -/
def ingressEsc (x : Die) (h : Hdr) : Bool :=
  hORD h || hCLASS h == 4 || hCLASS h == 5 || hCLASS h == 6 || !bit (regWord x rFAB_ROUTE) 0

/-- R431: a packet that a die in selvage mode forwards keeps to the escape channel. -/
def selvageEsc (x : Die) (h : Hdr) : Hdr := if x.flt = 1 then setH (setH h 28 28 1) 33 30 (vcOf (hCLASS h) true) else h

/-- R225, R271: a header as the first package fills its route word: HOPS 1. -/
def fillRoute (x : Die) (h : Hdr) (bits : Nat) : Hdr :=
  let e := ingressEsc x h
  setRoute h (bits % 2 ^ 28 + b2n e <<< 28 + vcOf (hCLASS h) e <<< 30 + 1 <<< 34)

/-! Entry at an endpoint port (R238, R240) -/

/-- The offset, in an engine request record, of the address that Table 6-6 names. -/
def engAddrOff (e : Nat) : Option Nat :=
  match e with
  | 0 | 1 | 3 => some 16
  | 2 => some 24
  | _ => none

def bytesNat (bs : List Byte) (off n : Nat) : Nat := leNat ((bs.drop off).take n)

/-- R152, R240: the die or chip that executes a request record, seen from die d; where no die owns the address, the die that took it. -/
inductive EngDest where
  | die (d : Nat)
  | chip (c : Nat)
  | none
  deriving DecidableEq, Repr

def engDest (s : State) (rec : List Byte) : EngDest :=
  match engAddrOff (bytesNat rec 0 1) with
  | none => .none
  | some o =>
    let a := bytesNat rec o 8
    if 2 ^ 63 ≤ a then
      let chip := nbits a 62 48
      match dieOfChip s chip with
      | some d =>
        match regionPlace s.variant (a % 2 ^ 48) with
        | some p => if placeDie p = some d then .die d else .none
        | none => .none
      | none =>
        match chipEntry s chip with
        | some w => if fld w 24 15 = 0x3FF then .chip chip else .none
        | none => .none
    else
      match (if a < 0x10000000000 then regionPlace s.variant a else none) with
      | some p => match placeDie p with | some d => .die d | none => .none
      | none => .none

/-- The bytes that a packet's access covers. -/
def accessLen (p : Packet) : Nat :=
  let k := hKIND p.hdr
  if k = kREAD then max 1 (bytesNat (payload p) 8 2)
  else if k = kATOMIC then (atomicSize (bytesNat (payload p) 0 1)).getD 8
  else hLEN p.hdr

/-- R238, R409: the grant's bits for an access to a stack. -/
def stackGrant (g : Word64) (k : Nat) : Option Status :=
  if bit g (if k = kREAD then 20 else 21) then none else some .permDenied

/-- R238: the partition and stack checks of an access to a region place under a grant, with the layout of die x; BAD_ADDR comes before
PERM_DENIED. -/
def regionGrant (x : Die) (g : Word64) (k : Nat) (pl : Place) (n : Nat) : Option Status :=
  match pl with
  | .ground _ o =>
    if !inPart x (fld g 19 16) o n then some .badAddr
    else if k = kATOMIC ∧ !bit g 22 then some .permDenied else none
  | .stack _ o => if !inStkUser x o n then some .badAddr else stackGrant g k
  | _ => some .badAddr

/-- R238: the checks of an access of n bytes to die t of another package, made at the die of entry, x: its own partitions bind a ground access, the
grant's bits one to a stack, whose areas (R408) are the other package's to check (log entry 19). -/
def remoteGrant (x : Die) (g : Word64) (k a n t : Nat) : Option Status :=
  match regionPlace .tx8 (a % 2 ^ 48) with
  | some (.stack d o) => if placeDie (.stack d o) = some t then stackGrant g k else some .badAddr
  | some pl => if placeDie pl = some t then regionGrant x g k pl n else some .badAddr
  | none => some .badAddr

/-! The request record (R150, Table 6-4) -/

/-- n bytes of a record from byte off. -/
def rq (r : Word512) (off n : Nat) : Nat := nbits r.toNat (8 * (off + n) - 1) (8 * off)

def rqCmpl (r : Word512) (i : Nat) : Bool := bit r (24 + i)
def rqWordOff (r : Word512) : Nat := rq r 4 4
def rqChainOff (r : Word512) : Nat := rq r 12 4
def rqParam (r : Word512) : Nat := rq r 56 8

/-- R512: the address at a signed 32-bit distance from another; below 0 it is 0, of which the spec says nothing (DESIGN CHOICE, log entry 71). -/
def relAddr (a rel : Nat) : Nat := ((a : Int) + signed 32 rel).toNat

/-- R159: the address of the offsets array. -/
def offsAddr (r : Word512) : Nat := relAddr (rq r 24 8) (rq r 40 4)

/-- R159 to R172, R409: the ranges that a record names, by engine, OP and direction: address, bytes, whether they are written. Of a table and of an index
list, whose lengths the record does not give, the first byte counts; of a set that an ADD or a CLOSE names, its fixed part (log entry 19). -/
def engRanges (r : Word512) : List (Nat × Nat × Bool) :=
  let n := rq r 56 4
  let elems (o m : Nat) (scaled : Bool) : Nat := match vecFmt (fld r (o + 4) o) scaled with | some f => packBytes f m | none => 1
  let l : List (Nat × Nat × Bool) := match rq r 0 1 with
    | 0 =>
      let dim := rq r 50 2
      [(rq r 16 8, min 1 n, false), (rq r 24 8, min 1 n, false), (offsAddr r, 4 * (n + 1), false),
        (rq r 32 8, n * (64 * cdiv (elems 424 dim (bit r 429)) 64 + scaleBytes (bit r 429) dim), true)]
    | 1 => match rq r 1 1 with
      | 0 => [(rq r 16 8, 576 + 16 * rq r 32 2, true), (rq r 24 8, 8 * rq r 32 2, true)]
      | 1 => [(rq r 16 8, 576, true), (rq r 24 8, 8 * n, false)]
      | _ => [(rq r 16 8, 576, true)]
    | 2 =>
      [(rq r 16 8, elems 320 n (bit r 325), false), (relAddr (rq r 16 8) (rq r 32 4), scaleBytes (bit r 325) n, false),
        (rq r 24 8, elems 328 n (bit r 333), true), (relAddr (rq r 24 8) (rq r 36 4), scaleBytes (bit r 333) n, true)]
    | _ =>
      [(rq r 16 8, if rq r 1 1 = 0 then (match fmtOf (fld r 260 256) with | some f => packBytes f n | none => 1) else 16 * n, false),
        (rq r 24 8, 16, true)]
  l.filter (fun p => p.2.1 != 0)

/-- Whether a chip number names a die, of this package or another (Table 8-10). -/
def dieChip (s : State) (chip : Nat) : Bool :=
  (dieOfChip s chip).isSome || (match chipEntry s chip with | some w => fld w 24 15 == 0x3FF | none => false)

/-- R238: the grant bits that an address needs by its form: GLOBAL, or PEER for a window. -/
def formGrant (g : Word64) (a : Nat) : Option Status :=
  if (2 ^ 63 ≤ a ∧ !bit g 25) ∨ (0x10000000000 ≤ a ∧ a < 2 ^ 63 ∧ !bit g 24) then some .permDenied else none

/-- R140, R238, R409: what refuses, at the die of entry x, one range of an engine request that another package is to execute. -/
def engFar (s : State) (x : Die) (g : Word64) (a n : Nat) (wr : Bool) : Option Status :=
  if (0x10000000000 ≤ a ∧ a < 2 ^ 63) ∨ (2 ^ 63 ≤ a ∧ !dieChip s (nbits a 62 48)) then none
  else match regionPlace .tx8 (a % 2 ^ 48) with
    | some (.stack _ _) => stackGrant g (if wr then kWRITE else kREAD)
    | some (.ground _ o) => if inPart x (fld g 19 16) o n then none else some .badAddr
    | _ => none

/-- The more urgent of the statuses of a packet's checks: BAD_ADDR before PERM_DENIED. -/
def worstOf (l : List (Option Status)) : Option Status :=
  if l.contains (some .badAddr) then some .badAddr else l.findSome? id

/-- R238, R409: the checks at the die of entry, x, of an ENGINE packet under a grant: ENGINE, and the forms of the record's addresses. far says that
another package executes it, where the port's partition and stack bits are not known: they bind its ranges and ground offsets here. Within the
package the engine checks them, under Table 6-7. -/
def engGrant (s : State) (x : Die) (g : Word64) (far : Bool) (rec : List Byte) : Option Status :=
  let r : Word512 := BitVec.ofNat 512 (leNat (rec.take 64))
  let own (off n : Nat) : Option Status := if inPart x (fld g 19 16) off n then none else some .badAddr
  let ranges := engRanges r
  worstOf ((if bit g 23 then none else some .permDenied) :: ranges.map (fun p => formGrant g p.1)
    ++ (if far then
        ranges.map (fun p => engFar s x g p.1 p.2.1 p.2.2)
          ++ [if rqCmpl r 0 then own (rqWordOff r) 8 else none, if rqCmpl r 3 || rqCmpl r 4 then own (rqChainOff r) 64 else none,
            if rq r 0 1 == 2 && bit r 340 then own (rq r 48 4) 16 else none]
      else []))

/-- The type of access of a kind for a window's flags. -/
def kindAcc (k : Nat) : Acc := if k = kREAD then .rd else if k = kATOMIC then .atom else .wr

/-- What becomes of a packet that enters at an endpoint port: its destination bits, whether this package resolved it, the rewritten ADDR,
the status that bars it, and whether a window leads it to the companion; no destination where none covers the address. -/
structure Entry where
  dest : Option (Nat × Bool)
  addr : Nat
  bar : Option Status
  brd : Bool
  deriving DecidableEq, Repr

def regionEntry (s : State) (g : Word64) (p : Packet) (a : Nat) (chk : Bool) : Entry :=
  match regionPlace s.variant a with
  | none => ⟨none, hADDR p.hdr, some .badAddr, false⟩
  | some pl =>
    ⟨some (ownRoute s 0x3FF ((placeDie pl).getD 0), true), hADDR p.hdr,
      if chk then regionGrant (getDie s ((placeDie pl).getD 0)) g (hKIND p.hdr) pl (accessLen p) else none, false⟩

/-- R237, R238, R240: an address of the memory form that enters at die d: the grant binds its form for every kind; chk says that the kind is an access
(REQ or XFER), whose partition and stack are bound too. -/
def addrEntry (s : State) (d : Nat) (g : Word64) (p : Packet) (chk : Bool) : Entry :=
  let a := hADDR p.hdr
  if 2 ^ 63 ≤ a then
    let chip := nbits a 62 48
    let perm := formGrant g a
    match dieOfChip s chip with
    | some t =>
      match regionPlace s.variant (a % 2 ^ 48) with
      | some pl =>
        if placeDie pl = some t then
          let e := regionEntry s g p (a % 2 ^ 48) chk
          ⟨e.dest, a, if e.bar = some .badAddr then e.bar else perm.orElse (fun _ => e.bar), false⟩
        else ⟨some (ownRoute s 0x3FF t, true), a, if chk then some .badAddr else perm, false⟩
      | none => ⟨some (ownRoute s 0x3FF t, true), a, if chk then some .badAddr else perm, false⟩
    | none =>
      let far := match chipEntry s chip with
        | some w => if fld w 24 15 = 0x3FF ∧ chk then remoteGrant (getDie s d) g (hKIND p.hdr) a (accessLen p) (fld w 27 25) else none
        | none => none
      ⟨chipRoute s chip, a,
        if (chipRoute s chip).isNone || far == some .badAddr then some .badAddr else perm.orElse (fun _ => far), false⟩
  else if a < 0x10000000000 then
    -- the register and doorbell windows have an owning die, which no packet may touch (R236)
    if 0x9000000000 ≤ a ∧ a < 0xA000000000 then
      let d := (a - 0x9000000000) / 0x10000000
      if d < ndies s.variant then ⟨some (ownRoute s 0x3FF d, true), a, some .badAddr, false⟩ else ⟨none, a, some .badAddr, false⟩
    else regionEntry s g p a chk
  else
    match findWindow s a with
    | none => ⟨none, a, some .badAddr, false⟩
    | some w =>
      let b := (w.lbase + (a - w.base)) % 2 ^ 63
      let bar : Option Status :=
        if (formGrant g a).isSome then formGrant g a
        else if !winAllows w (kindAcc (hKIND p.hdr)) then some .permDenied else none
      if w.target = 0x3FE then ⟨some (ownRoute s 0x3FF (itgDie s.itgActive), true), b, bar, true⟩
      else
        let t := portGrant s w.target
        if bit t 15 then ⟨some (ownRoute s w.target 0, true), b, bar, false⟩ else ⟨none, a, some .badAddr, false⟩

/-- R188, R238, R240: where a packet that enters at endpoint port of die d (its grant g) is to go. -/
def entryOf (s : State) (d port : Nat) (g : Word64) (p : Packet) : Entry :=
  let h := p.hdr
  let k := hKIND h
  if k = kACK ∨ k = kRESEND then
    let r := chipRoute s (hTOTAL h % 2 ^ 15)
    ⟨r, hADDR h, if r.isNone then some .badAddr else none, false⟩
  else if k = kCOLL_ACK then ⟨some (ownRoute s 0x3FF d, true), hADDR h, none, false⟩
  else if k = kDATA ∨ k = kPRICK then
    if !bit g 26 then ⟨some (ownRoute s port 0, true), hADDR h, some .permDenied, false⟩
    else
      match findCtx s (hCTX h) (hGEN h) with
      | some c =>
        let (x, y, z) := boxCoord s c (homePkg c (hCHUNK h))
        ⟨some (routeBits x y z 0x3FF 0, true), hADDR h, none, false⟩
      | none => ⟨none, hADDR h, none, false⟩
  else if k = kENGINE then
    let rec' := payload p
    match engDest s rec' with
    | .die t => ⟨some (ownRoute s 0x3FF t, true), hADDR h, engGrant s (getDie s d) g false rec', false⟩
    | .chip c => ⟨chipRoute s c, hADDR h, engGrant s (getDie s d) g true rec', false⟩
    | .none => ⟨some (ownRoute s 0x3FF d, true), hADDR h, engGrant s (getDie s d) g false rec', false⟩
  else if kindClass k = some 0 ∨ kindClass k = some 2 then addrEntry s d g p true
  else if kindClass k = some 5 then ⟨none, hADDR h, some .badAddr, false⟩
  else addrEntry s d g p false

end Sys2Proof.Machine
end

