-- ==== Sys2Proof/Machine/Fabric.lean ====
section
/-! DEFINITION. Files 08 to 10: a packet in the package: queues, delivery to a die and its receive window, emission of the device's own
packets with their sequence numbers and replay records. -/

namespace Sys2Proof.Machine

/-! Queues (R305) -/

def outOf (x : Die) (o : Nat) : OutQ := tget x.outs o outReset

/-- R305: the queue of a class under a port's SW_QMAP. -/
def queueOf (qmap : Word32) (cls : Nat) : Nat :=
  match cls with
  | 5 => 0
  | 6 => 1
  | c => fld qmap (4 * c + 3) (4 * c)

/-- R305: the queue and sub-list of a packet at an output (port, or bridge from 96). -/
def queueAt (x : Die) (o : Nat) (h : Hdr) : Nat × Nat :=
  let cls := hCLASS h
  if 96 ≤ o then (queueOf 0x26534 cls, vcBuf (vcOf cls (hESC h)) (hDL h))
  else
    let q := queueOf (regWord x (rSW_PORT o 0)) cls
    if isTrunk x o then (q, vcBuf (vcOf cls (hESC h)) (hDL h)) else (q, cls)

/-- Joins the tail of an output's queue, whose group frees its buffer from then on. -/
def joinQueue (s : State) (d o : Nat) (e : Held) : State :=
  updDie s d (fun x =>
    let (q, sub) := queueAt x o e.pkt.hdr
    let u := outOf x o
    { x with outs := tset x.outs o { u with q := u.q ++ [{ e with q := q, sub := sub, joined := s.now, fg := some (groupOf o) }] } })

/-- A packet copy is over at die d: sent, consumed, stored elsewhere or discarded (R301): freed by the group that has it (R298). -/
def dropHeld (s : State) (d : Nat) (e : Held) : State := decOpt s d e.buf (e.fg.getD (groupOf e.inp))

/-- R8: the packet of an engine request for die t that waits to leave. -/
def reqItem (n : Nat) (p : Packet) (t id : Nat) : TxItem :=
  { pkt := p, dst := 0, req := n, owner := .none, sequenced := false, eng := some (t, id) }

/-- R18: an engine request whose packet is lost is sent again by its source. -/
def resendReq (s : State) (e : Held) : State :=
  match e.eng with
  | some (src, id, n) => updDie s src (fun x => { x with txq := x.txq ++ [reqItem n e.pkt e.od id] })
  | none => s

/-- A packet copy is lost at die d. -/
def loseHeld (s : State) (d : Nat) (e : Held) : State := resendReq (dropHeld s d e) e

def discard (s : State) (d : Nat) (e : Held) (n : Nat) : State := loseHeld (bump s d n) d e

/-- R429: the width of a bridge: its working groups rounded down to a multiple of 4, none once it has failed. -/
def bridgeWidth (x : Die) (b : Nat) : Nat := if (bridgeOf x b).failed then 0 else (bridgeOf x b).groups / 4 * 4

/-- R14, R17, R19: the TX2 spreads spray traffic over B0 and B3 by their present widths; an ordered channel keeps to one, which only the tables in
force change. -/
def tx2Bridge (s : State) (x : Die) (h : Hdr) : Nat × Nat :=
  let w0 := if s.tabs.avoid.contains 100 then 0 else bridgeWidth x 0
  let w3 := if s.tabs.avoid.contains 103 then 0 else bridgeWidth x 3
  if hORD h then
    (if s.tabs.avoid.contains 103 then 0 else if s.tabs.avoid.contains 100 then 3 else if hCHAN h % 2 = 0 then 0 else 3, x.spray)
  else if w3 = 0 then (0, x.spray)
  else if w0 = 0 then (3, x.spray)
  else
    let t := x.spray + w3
    if w0 + w3 ≤ t then (3, t - (w0 + w3)) else (0, t)

/-- R13, R14: sends a packet at die d on toward die od. -/
def toward (s : State) (d : Nat) (e : Held) : State :=
  match s.variant with
  | .tx2 =>
    let (b, sp) := tx2Bridge s (getDie s d) e.pkt.hdr
    joinQueue (updDie s d (fun x => { x with spray := sp })) d (96 + b) e
  | _ =>
    match diePath s d e.od with
    | some (b :: _) => joinQueue s d (96 + b) e
    | _ => loseHeld s d e

/-! Multicast copies (R302) -/

/-- The first bridge of a packet on its way from die d to die t; none where t is out of reach. -/
def firstBridge (s : State) (d t : Nat) (h : Hdr) : Option Nat :=
  if !dieLives s t then none
  else match s.variant with
    | .tx2 => some (tx2Bridge s (getDie s d) h).1
    | _ => (diePath s d t).bind (·.head?)

/-- A copy of a multicast packet from buffer buf of die d to an output of that die. -/
def copyHere (s : State) (d : Nat) (e : Held) (buf p : Nat) (h : Hdr) : State :=
  joinQueue (updDie s d (fun x => addRefs x buf 1)) d (p % 96)
    { e with pkt := { e.pkt with hdr := h }, buf := some buf, od := d, op := p % 96, vr := none, brd := false, more := [] }

/-- One copy of a multicast packet from buffer buf of die d over a bridge, for outputs ts beyond it. -/
def copyOver (s : State) (d : Nat) (e : Held) (buf b : Nat) (ts : List (Nat × Hdr)) : State :=
  match ts with
  | [] => s
  | (p, h) :: _ =>
    let s1 := updDie s d (fun x => addRefs { x with spray := if s.variant = .tx2 then (tx2Bridge s x h).2 else x.spray } buf 1)
    joinQueue s1 d (96 + b)
      { e with pkt := { e.pkt with hdr := h }, buf := some buf, od := p / 96, op := p % 96, vr := none, brd := false, more := ts }

/-- R302: copies of a packet that die d holds in buffer buf go to outputs of the package (port numbers and headers): one for each output of the die,
one for each bridge to be crossed. An output that is not ACTIVE gets none (R269, R278). -/
def copies (s : State) (d : Nat) (e : Held) (buf : Nat) (ts : List (Nat × Hdr)) : State :=
  let up := ts.filter (fun t => portActive s t.1)
  let s1 := foldUpto (ts.length - up.length) s (fun s _ => bump s d nDOWN)
  let s2 := (up.filter (fun t => t.1 / 96 == d)).foldl (fun s t => copyHere s d e buf t.1 t.2) s1
  let far := (up.filter (fun t => t.1 / 96 != d)).map (fun t => (firstBridge s2 d (t.1 / 96) t.2, t))
  foldUpto 4 s2 (fun s b => copyOver s d e buf b ((far.filter (fun t => t.1 == some b)).map (·.2)))

/-! The device's own unsequenced packets (SYNC, and collective copies) -/

/-- A packet of die d that has not been sent. -/
def freshHeld (s : State) (d : Nat) (p : Packet) : Held :=
  { pkt := p, buf := none, arr := s.now, ein := s.now, inp := 100, od := d, op := 100, q := 0, sub := 0, hop := 0, vr := none, brd := false }

/-- R225, R300: puts a packet of the die on its way with one reference more than keep; answers none where no buffer can be had. -/
def inject (s : State) (d : Nat) (p : Packet) (req refs : Nat) : Option (Held × State) :=
  match allocReq s.variant d (getDie s d) req (pktLen p) refs with
  | none => none
  | some (h, x) =>
    some ({ freshHeld s d p with buf := some h }, setDie s d x)

/-! The receive window (R242, R243, R252) -/

def xport (x : Die) (agent : Nat) : Xport := if agent < 96 then (portOf x agent).t1.tr else x.tr

def setXport (x : Die) (agent : Nat) (t : Xport) : Die :=
  if agent < 96 then
    let p := portOf x agent
    { x with ports := tset x.ports agent { p with t1 := { p.t1 with tr := t } } }
  else { x with tr := t }

/-- a − b modulo 2^24. -/
def seqSub (a b : Nat) : Nat := (a + 2 ^ 24 - b % 2 ^ 24) % 2 ^ 24

/-- The base past every set bit at its foot. -/
def winAdvance : Nat → RxWin → RxWin
  | 0, w => w
  | f + 1, w => if w.map % 2 = 1 then winAdvance f { base := (w.base + 1) % 2 ^ 24, map := w.map / 2 } else w

def winAccept (w : RxWin) (seq : Nat) : RxWin := winAdvance 257 { w with map := w.map ||| 2 ^ (seqSub seq w.base) }

/-- Whether a number has been accepted. -/
def winHas (w : RxWin) (seq : Nat) : Bool :=
  let r := seqSub seq w.base
  if r < 256 then w.map.testBit r else decide (2 ^ 24 - 2 ^ 23 ≤ r)

/-- What R242, R243 and R252 make of an arriving sequenced packet. -/
inductive Arrival where
  | accept (w : RxWin)
  | dup
  | outside
  | restart
  | resendFrom (seq : Nat)
  deriving DecidableEq, Repr

def arrivalOf (t : Xport) (h : Hdr) : Arrival :=
  let src := hSRC h
  let start : RxWin := { base := 0, map := 0 }
  let w? : Option RxWin := match tfind t.rxw src with
    | none => if hNEWW h then some start else none
    | some w => if hNEWW h && decide (256 < w.base) then some start else some w
  match w? with
  | none => .restart
  | some w =>
    let r := seqSub (hSEQ h) w.base
    if r < 256 then
      if w.map.testBit r then .dup
      else if hORD h && hODELTA h != 0 && !winHas w (seqSub (hSEQ h) (hODELTA h)) then .resendFrom (seqSub (hSEQ h) (hODELTA h))
      else .accept (winAccept w (hSEQ h))
    else if 2 ^ 24 - 2 ^ 23 ≤ r then .dup else .outside

/-- R245: a number to be acknowledged. -/
def oweAck (t : Xport) (src seq : Nat) : Xport := { t with ackDue := tset t.ackDue src (tget t.ackDue src [] ++ [seq]) }

/-- R255: the key of a finish-table entry. -/
def finKey (src tag : Nat) : Nat := src * 65536 + tag

def finEmpty : FinEnt := { count := 0, total := none, ntf := false, nknot := 0, asks := 0, mark := 0 }

/-- R517: whether a packet is a void: by its header, or by this package's own doing where a response was barred at one of its ports. -/
def heldVoid (e : Held) : Bool := isVoid e.pkt.hdr || e.vr.isSome

/-- R517: whether a packet neither opens nor adds to a finish-table entry: a void; a response that has the form of a void is one too, since nothing
in it tells the two apart (log entry 77). -/
def noFinish (e : Held) : Bool := heldVoid e || (hCLASS e.pkt.hdr == 1 && voidForm e.pkt.hdr)

/-- R255: whether an accepted packet would need an entry of a full finish table. -/
def finFull (x : Die) (e : Held) : Bool :=
  decide (4096 ≤ x.fin.length) && (tfind x.fin (finKey (hSRC e.pkt.hdr) (hTAG e.pkt.hdr))).isNone && !noFinish e

def openFin (x : Die) (e : Held) : Die :=
  let k := finKey (hSRC e.pkt.hdr) (hTAG e.pkt.hdr)
  if noFinish e || (tfind x.fin k).isSome then x else { x with fin := tset x.fin k finEmpty }

/-! Decisions -/

/-- The route decision of a packet that this package holds at die d, with the direction it came in (none where it began here): it goes to
an output of the package, to a die, waits for a candidate, or is discarded. consume delivers a packet at its die. A COLL_UP packet at its
home package first gets its home die (R188); a die in selvage mode keeps to the escape channel (R431). -/
def decideWith (consume : State → Nat → Held → State) (s : State) (d : Nat) (e : Held) (own : Bool) (frm : Option Nat) : State :=
  let up := hKIND e.pkt.hdr == kDATA || hKIND e.pkt.hdr == kPRICK
  let ctx := if up && (if s.tabs.shape.isNone then own else atDest s e.pkt.hdr) && hDPORT e.pkt.hdr == 0x3FF
    then some (findCtx s (hCTX e.pkt.hdr) (hGEN e.pkt.hdr)) else none
  if ctx == some none then discard s d e nNOT_OPEN else
  let h := selvageEsc (getDie s d) (match ctx with
    | some (some c) => setH e.pkt.hdr 27 25 (homeDie c (hCHUNK e.pkt.hdr))
    | _ => e.pkt.hdr)
  let e := { e with pkt := { e.pkt with hdr := h } }
  let adaptive := !hESC h && !atDest s h && s.tabs.shape.isSome
  let s0 := if adaptive then countDecision s (candidates s h (chargeOf (36 + bodyLen (hLEN h)))) else s
  match routeOf s d h own with
  | .drop n => discard s d e n
  | .wait => updDie s0 d (fun x => { x with adapt := x.adapt ++ [e] })
  | .here t => if t = d then consume s0 d { e with od := d, op := 100 } else
      if dieLives s0 t && (diePath s0 d t).isSome then toward s0 d { e with od := t, op := 100 } else dropHeld s0 d e
  | .port p esc =>
    let e1 : Hdr :=
      match dirOfPort s p with
      | some g =>
        if isTrunk (getDie s (p / 96)) (p % 96) then
          let dl := nextDL s h frm g
          let es := esc || hESC h
          setH (setH (setH h 28 28 (b2n es)) 29 29 (b2n dl)) 33 30 (vcOf (hCLASS h) es)
        else h
      | none => h
    let e2 := { e with pkt := { e.pkt with hdr := e1 }, od := p / 96, op := p % 96, came := frm, dl := hDL h }
    if p / 96 = d then joinQueue s0 d (p % 96) e2
    else if dieLives s0 (p / 96) && (diePath s0 d (p / 96)).isSome then toward s0 d e2 else dropHeld s0 d e2

/-- A packet emitted by die d whose destination the device knows: route filled, decision made; nothing is delivered within the die. -/
def launch (s : State) (d : Nat) (e : Held) (own : Bool) : State :=
  decideWith (fun s d e => dropHeld s d e) s d e own none

/-! Sequenced emission (R241, R246, R250, R516) -/

def spaceOf (t : Xport) (dst : Nat) : TxSpace := tget t.txs dst { next := 0, fresh := true, recs := [] }

/-- R241: whether the space has room for one more unacknowledged number. -/
def spaceRoom (sp : TxSpace) : Bool :=
  match sp.recs with
  | [] => true
  | r :: _ => decide (seqSub sp.next r.seq < 255)

/-- Gives a packet its place in a sequence space; vr and brd as in Held. -/
def numbered (t : Xport) (p : Packet) (dst : Nat) (owner : Owner) (buf : Option Nat) (vr : Option (Option Nat) := none) (brd : Bool := false) :
    Packet × Xport :=
  let sp := spaceOf t dst
  let h := setH (setH p.hdr 127 104 sp.next) 87 87 (b2n sp.fresh)
  let q := reseal { p with hdr := h }
  let r : Replay := { seq := sp.next, pkt := q, dst := dst, tries := 0, owner := owner, buf := buf, vr := vr, brd := brd }
  (q, { t with txs := tset t.txs dst { sp with next := (sp.next + 1) % 2 ^ 24, recs := sp.recs ++ [r] } })

/-- R518: the base of die d's ground memory in the package region: the reply address of a request whose operation has no memory of its own in
that die (log entry 78). -/
def replyBase (d : Nat) : Nat := 0x8000000000 + d * 0x8000000

/-- R516, R518: the reply address that a request of die d with TAG tag to chip dst carries: in board form for an endpoint of this package, in
global form elsewhere, which names the chip number that the die has as the packet leaves. -/
def replyAddr (s : State) (d dst tag : Nat) : Nat :=
  let r := (((getDie s d).reqs.find? (fun r => r.chip == dst && r.tag == tag)).map (·.reply)).getD (replyBase d)
  if (portOfChip s dst).isSome && (dieOfChip s dst).isNone then r else 2 ^ 63 + ((chipOfDie s d).getD 0) <<< 48 + r

/-- R516, R518: a request's payload with its reply address. -/
def withReply (s : State) (d : Nat) (i : TxItem) : Packet :=
  let at' (tag off : Nat) : Packet := { i.pkt with body := i.pkt.body.take off ++ toLe 8 (replyAddr s d i.dst tag) ++ i.pkt.body.drop (off + 8) }
  match i.owner with
  | .request tag => if hKIND i.pkt.hdr = kREAD then at' tag 0 else if hKIND i.pkt.hdr = kENGINE then at' tag 64 else i.pkt
  | _ => i.pkt

/-- R284: buffers for packets of the lengths given, reserved by die d; none where one is missing. -/
def reserveAll (d req : Nat) : List Nat → State → Option (List Nat × State)
  | [], s => some ([], s)
  | n :: l, s =>
    match allocReq s.variant d (getDie s d) req n 1 with
    | none => none
    | some (b, x) => (reserveAll d req l (setDie s d x)).map (fun p => (b :: p.1, p.2))

/-- R284: the space that a waiting request of die d reserves as it leaves: kept with the request. -/
def reserveRoom (s : State) (d : Nat) (i : TxItem) : Option State :=
  match i.room, i.owner with
  | [], _ => some s
  | l, .request tag => (reserveAll d i.req l s).map (fun p => updDie p.2 d (fun x => { x with
      reqs := x.reqs.map (fun r => if r.chip == i.dst && r.tag == tag then { r with outs := p.1 } else r) }))
  | _, _ => some s

/-- The destination bits of a waiting packet, and whether the package itself resolved them. -/
def itemRoute (s : State) (i : TxItem) : Option (Nat × Bool) :=
  if i.eng.isSome then some (0, true)
  else match i.bits with
    | some b => some (b, true)
    | none => chipRoute s i.dst

/-! Engine requests between the dies of the package (R8) -/

def getReq (s : State) (d id : Nat) : Option EngReq := (getDie s d).engs.find? (fun q => q.id == id)

def updReq (s : State) (d id : Nat) (f : EngReq → EngReq) : State :=
  updDie s d (fun x => { x with engs := x.engs.map (fun q => if q.id == id then f q else q) })

def doneWith (st : Status) : DoneWord := { status := st, conds := 0, count := 0 }

/-- R284: space for the 8 bytes of an engine request's response, which die d keeps for requester n. -/
def respRoom (s : State) (d n : Nat) : Option (Nat × State) :=
  (allocReq s.variant d (getDie s d) n (36 + bodyLen 8) 1).map (fun p => (p.1, setDie s d p.2))

/-- The space kept for a request's response is free again. -/
def freeRoom (s : State) (q : EngReq) : State :=
  match q.room with
  | some (d, b) => decOpt s d (some b) 13
  | none => s

/-- R8, R13: a packet of die d with request id for die t takes a buffer and its first bridge; none where no buffer can be had. -/
def launchReq (s : State) (d t id n : Nat) (p : Packet) : Option State :=
  (inject s d p n 1).map (fun r => toward r.2 d { r.1 with od := t, op := 100, eng := some (d, id, n) })

/-- R8, R16, R18, R284, R287: a waiting engine request of die d leaves for die t where it may: it keeps waiting while a drain runs and until the
tables in force lead around a die that forwards nothing; where no path is left it ends with DIE_UNREACHABLE. -/
def emitReq (s : State) (d : Nat) (i : TxItem) (t id : Nat) : Option State :=
  match getReq s t id with
  | none => some s
  | some q =>
    if q.way ≠ some d then some s
    else if !reaches s d t then
      some (updReq s t id (fun q => { q with way := none, done := q.done.orElse (fun _ => some (doneWith .dieUnreachable)) }))
    else if stopped s || !dieLives s d || !crosses s d t then none
    else if q.room.isSome then launchReq s d t id i.req i.pkt
    else (respRoom s d i.req).bind (fun r =>
      launchReq (updReq r.2 t id (fun q => { q with room := some (d, r.1) })) d t id i.req i.pkt)

/-- Emits one waiting packet of a die with a chip number if it may go (R516, R244, R241, R284, R287, R300); answers none where it waits on. -/
def emitPacket (s : State) (d : Nat) (i : TxItem) : Option State :=
  let x := getDie s d
  match chipOfDie s d with
  | none => none
  | some me =>
    if (stopped s ∧ hCLASS i.pkt.hdr ≠ 5) ∨ (i.sequenced ∧ (x.holdoff ∨ !spaceRoom (spaceOf x.tr i.dst))) then none
    else
      match itemRoute s i, reserveRoom s d i with
      | some (bits, own), some s0 =>
        let p := withReply s0 d i
        let p0 := { p with hdr := setH p.hdr 102 88 me }
        match (if i.buf.isSome then some (freshHeld s0 d p0, s0) else inject s0 d p0 i.req (if i.sequenced then 2 else 1)) with
        | none => none
        | some (e, s1) =>
          let x1 := getDie s1 d
          if i.sequenced then
            let (q, t) := numbered x1.tr p0 i.dst i.owner (i.buf.orElse (fun _ => e.buf))
            let e1 := { e with pkt := { q with hdr := fillRoute x1 q.hdr bits } }
            some (launch (setDie s1 d { x1 with tr := t }) d e1 own)
          else some (launch s1 d { e with pkt := { reseal p0 with hdr := fillRoute x1 (reseal p0).hdr bits } } own)
      | _, _ => none

/-! What a port sends itself (R244, R259, R300, R386, R516) -/

/-- R386: the link-local kinds. -/
def linkKind (k : Nat) : Bool := k == kSYNC_TIME || k == kDELAY_REQ || k == kDELAY_RSP

/-- R251, R259: sequences a converted packet in the port's space for the endpoint, with ODELTA from the port's table; none where the space or
the table is full. -/
def t1Sequence (t : T1) (p : Packet) (dst : Nat) (buf : Option Nat) (vr : Option (Option Nat) := none) (brd : Bool := false) :
    Option (Packet × T1) :=
  if !spaceRoom (spaceOf t.tr dst) then none
  else
    let key := dst * 64 + hCHAN p.hdr
    let live := match tfind t.chans key with
      | some q => (spaceOf t.tr dst).recs.any (fun r => r.seq == q)
      | none => false
    let room := (tfind t.chans key).isSome || decide (t.chans.length < 1024)
      || t.chans.any (fun e => !(spaceOf t.tr (e.1 / 64)).recs.any (fun r => r.seq == e.2))
    if hORD p.hdr && !room then none
    else
      let next := (spaceOf t.tr dst).next
      let od := if hORD p.hdr && live then seqSub next (tget t.chans key 0) else 0
      let (q, tr) := numbered t.tr { p with hdr := setH p.hdr 135 128 od } dst .none buf vr brd
      let chans0 := if 1024 ≤ t.chans.length ∧ (tfind t.chans key).isNone then
          (match t.chans.find? (fun e => !(spaceOf t.tr (e.1 / 64)).recs.any (fun r => r.seq == e.2)) with
            | some e => tdel t.chans e.1
            | none => t.chans)
        else t.chans
      some (q, { t with tr := tr, chans := if hORD p.hdr then tset chans0 key next else chans0 })

/-- R300, R386, R516: a link-local packet joins the queue of its trunk port: it waits for a chip number and a buffer, and goes nowhere once the
port is not ACTIVE. -/
def emitLink (s : State) (d l : Nat) (i : TxItem) : Option State :=
  match chipOfDie s d with
  | none => none
  | some me =>
    if (getPort s d l).st ≠ 6 then some s
    else (inject s d (reseal { i.pkt with hdr := setH i.pkt.hdr 102 88 me }) i.req 1).map (fun r =>
      joinQueue r.2 d l { r.1 with od := d, op := l })

/-- R234, R244, R259, R287, R300: a packet of TFP 1 port l for its endpoint: a RESEND, or a sequenced answer in the port's space; it waits for a
buffer, and a sequenced one for room in the space, for the end of a drain and for the wait after a reset. -/
def emitPort (s : State) (d l : Nat) (i : TxItem) : Option State :=
  match chipRoute s i.dst with
  | none => some (bump s d nBADADDR)
  | some (bits, own) =>
    if i.sequenced && (stopped s || (getDie s d).holdoff) then none
    else
      (inject s d i.pkt i.req (if i.sequenced then 2 else 1)).bind (fun r =>
        if i.sequenced then
          (t1Sequence (getPort r.2 d l).t1 i.pkt i.dst r.1.buf).map (fun q =>
            launch (updPort r.2 d l (fun x => { x with t1 := q.2 })) d
              { r.1 with pkt := { q.1 with hdr := fillRoute (getDie r.2 d) q.1.hdr bits } } own)
        else some (launch r.2 d { r.1 with pkt := { i.pkt with hdr := fillRoute (getDie r.2 d) i.pkt.hdr bits } } own))

/-- A packet that port l of die d sends itself goes, if it may. -/
def emitVia (s : State) (d l : Nat) (i : TxItem) : Option State :=
  if linkKind (hKIND i.pkt.hdr) then emitLink s d l i else emitPort s d l i

/-- Emits one waiting packet of a die or of one of its ports, or engine request for another of the package's dies, if it may go. -/
def emitItem (s : State) (d : Nat) (i : TxItem) : Option State :=
  match i.via, i.eng with
  | some l, _ => emitVia s d l i
  | none, some (t, id) => emitReq s d i t id
  | none, none => emitPacket s d i

/-- Emits what can go, in order. -/
def pumpList (s : State) (d : Nat) : List TxItem → State × List TxItem
  | [] => (s, [])
  | i :: l =>
    match emitItem s d i with
    | some s1 => pumpList s1 d l
    | none =>
      let (s1, r) := pumpList s d l
      (s1, i :: r)

/-- Tries a die's waiting packets. -/
def pumpDie (s : State) (d : Nat) : State :=
  match (getDie s d).txq with
  | [] => s
  | q =>
    let (s1, r) := pumpList (updDie s d (fun x => { x with txq := [] })) d q
    updDie s1 d (fun x => { x with txq := r ++ x.txq })

/-- Tries every die's waiting packets. -/
def pump (s : State) : State := foldUpto (ndies s.variant) s pumpDie

/-- A packet of the die joins those that wait to be emitted, and goes at once if it can. -/
def send (s : State) (d : Nat) (i : TxItem) : State := pumpDie (updDie s d (fun x => { x with txq := x.txq ++ [i] })) d

/-- R218, R369, R516: the packets that wait at their points of emission for work that is over do not leave. -/
def dropItems (s : State) (mine : Nat → TxItem → Bool) : State :=
  foldUpto (ndies s.variant) s (fun s d =>
    ((getDie s d).txq.filter (mine d)).foldl (fun s i => decOpt (updDie s d (fun x => { x with txq := x.txq.erase i })) d i.buf 13) s)

/-! The device's own unsequenced packets -/

/-- R239, R245, R247, R300: a SYNC packet of die d to a chip; one that cannot be addressed is dropped and counted, one that finds no buffer waits. -/
def sendSync (s : State) (d : Nat) (kind dst seq rest : Nat) : State :=
  if (chipRoute s dst).isNone then bump s d nBADADDR
  else send s d { pkt := mkPacket 5 kind 0 (seq <<< 104) rest [], dst := dst, req := 11, owner := .none, sequenced := false }

/-- R247: RESEND with a code, naming the chip asked. -/
def sendResend (s : State) (d : Nat) (dst code tag seq : Nat) : State :=
  sendSync s d kRESEND dst seq (memForm tag dst code 0)

/-- R245: an ACK of up to 64 numbers of a chip's packets: the start number and the map. -/
def ackStart (l : List Nat) : Nat :=
  l.foldl (fun a x => if seqSub a x < 2 ^ 23 then x else a) (l.headD 0)

def ackMap (start : Nat) (l : List Nat) : Nat :=
  l.foldl (fun m x => if seqSub x start < 64 then m ||| 2 ^ seqSub x start else m) 0

/-! Delivery to a die -/

/-- R228, R242, R255, R516: a packet reaches the die that consumes it: discarded while FAB_SELF.VALID is 0; a sequenced one goes through
the receive window; what is accepted waits for its kind's step. -/
def consumeAt (s : State) (d : Nat) (e0 : Held) : State :=
  let e := { e0 with fg := some 13 }
  let x := getDie s d
  let h := e.pkt.hdr
  let link := linkKind (hKIND h)
  if (chipOfDie s d).isNone && !link then dropHeld s d e
  else if !kindSeq (hKIND h) then setDie s d { x with inbox := x.inbox ++ [e] }
  else
    match arrivalOf x.tr h with
    | .outside => discard s d e nWINDOW
    | .dup =>
      dropHeld (updDie (bump s d nDUP) d (fun y => { y with tr := oweAck y.tr (hSRC h) (hSEQ h) })) d e
    | .restart => sendResend (dropHeld s d e) d (hSRC h) 2 0 0
    | .resendFrom q =>
      let last := tfind x.resendAt (hSRC h)
      let s1 := dropHeld s d e
      if (match last with | some t => decide (s.now < t + 1000) | none => false) then s1
      else sendResend (updDie s1 d (fun x => { x with resendAt := tset x.resendAt (hSRC h) s.now })) d (hSRC h) 1 0 q
    | .accept w =>
      if finFull x e then discard s d e nNOFIN
      else
        let t := oweAck { x.tr with rxw := tset x.tr.rxw (hSRC h) w } (hSRC h) (hSEQ h)
        setDie s d (openFin { x with tr := t, inbox := x.inbox ++ [e] } e)

/-- R8: what a bridge brings for its die: an engine request has arrived; other packets are consumed. -/
def takeAt (s : State) (d : Nat) (e : Held) : State :=
  match e.eng with
  | some (_, id, _) => dropHeld (updReq s d id (fun q => { q with way := none })) d e
  | none => consumeAt s d e

/-! Messages of the device's own -/

/-- A TAG for a message of the die that no unanswered request or unacknowledged message uses (R254). -/
def freeTag (used : List Nat) : Nat → Nat → Nat
  | 0, t => t
  | f + 1, t => if used.contains t then freeTag used f ((t + 1) % 2 ^ 16) else t

def takeTag (s : State) (d : Nat) : Nat × State :=
  let x := getDie s d
  let used := x.reqs.map (·.tag) ++ (x.tr.txs.map (fun e => e.2.recs.map (fun r => hTAG r.pkt.hdr))).flatten
    ++ (x.txq.filter (·.sequenced)).map (fun i => hTAG i.pkt.hdr)
  let t := freeTag used used.length (x.nextTag % 2 ^ 16)
  (t, setDie s d { x with nextTag := (t + 1) % 2 ^ 16 })

/-- A sequenced packet of the device: class, kind, tag, payload, ADDR, AUX; each packet is a message of its own. -/
def ownPacket (cls kind tag aux addr : Nat) (bs : List Byte) : Packet :=
  mkPacket cls kind 0 fFIN (memForm tag bs.length aux addr) bs

/-- R234: a response to a request. -/
def respond (s : State) (d : Nat) (kind chip tag : Nat) (st : Nat) (addr : Nat) (bs : List Byte) : State :=
  if (chipRoute s chip).isNone then bump s d nBADADDR
  else send s d { pkt := ownPacket 1 kind tag st addr (if st = 0 then bs else []), dst := chip, req := 11, owner := .none, sequenced := true }

/-- R517, R234: what the payload of a REQ asks for as an answer: some address, or none where it takes no response. -/
def reqReply (p : Packet) : Option Nat :=
  let b := payload p
  let k := hKIND p.hdr
  if k = kREAD then (if 8 ≤ b.length then some (bytesNat b 0 8) else none)
  else if k = kATOMIC then (if 16 ≤ b.length ∧ bytesNat b 8 8 ≠ 0 ∧ bytesNat b 0 1 ≠ 8 then some (bytesNat b 8 8) else none)
  else if k = kENGINE then (if 72 ≤ b.length ∧ bytesNat b 64 8 ≠ 0 then some (bytesNat b 64 8) else none)
  else none

/-- The kind of the response to a REQ kind (Table 8-5). -/
def replyKind (k : Nat) : Nat := if k = kREAD then kREAD_DATA else if k = kATOMIC then kATOMIC_DATA else kENG_DONE

/-! Re-sends (R243, R246, R247) -/

/-- Puts a re-send of a replay record on its way; the record keeps its buffer, which the copy shares. neww says that its sequence space has
seen no acknowledgement (R241). -/
def resend (s : State) (d : Nat) (neww : Bool) (r : Replay) : State :=
  match chipRoute s r.dst with
  | none => s
  | some (bits, own) =>
    let p := reseal { r.pkt with hdr := setH (setH r.pkt.hdr 85 85 1) 87 87 (b2n neww) }
    let s1 := match r.buf with | some b => updDie s d (fun x => addRefs x b 1) | none => s
    decideWith consumeAt s1 d { freshHeld s1 d { p with hdr := fillRoute (getDie s1 d) p.hdr bits } with buf := r.buf, vr := r.vr, brd := r.brd } own none

def updRecs (s : State) (d agent chip : Nat) (f : List Replay → List Replay) : State :=
  updDie s d (fun x =>
    let t := xport x agent
    let sp := spaceOf t chip
    setXport x agent { t with txs := tset t.txs chip { sp with recs := f sp.recs } })

/-- Whether re-sends of an end of the transport wait: a drain stops them (R287), and a die with no chip number emits nothing (R516). -/
def resendWaits (s : State) (d agent : Nat) : Bool := stopped s || (agent == 96 && (chipOfDie s d).isNone)

/-- R247: the records of a chip that ok selects are sent again, in order, each counted as a re-send. -/
def resendAll (s : State) (d agent chip : Nat) (ok : Replay → Bool) : State :=
  let sp := spaceOf (xport (getDie s d) agent) chip
  (sp.recs.filter ok).foldl (fun s r => resend s d sp.fresh r)
    (updRecs s d agent chip (fun l => l.map (fun r => if ok r then { r with tries := r.tries + 1 } else r)))

/-- R243: the unacknowledged packets toward a chip are numbered from 0 with NEWW. -/
def renumber (s : State) (d agent chip : Nat) : State :=
  updDie s d (fun x =>
    let t := xport x agent
    let recs := (spaceOf t chip).recs.zipIdx.map (fun (r, i) =>
      { r with seq := i, pkt := reseal { r.pkt with hdr := setH (setH r.pkt.hdr 127 104 i) 87 87 1 } })
    setXport x agent { t with txs := tset t.txs chip { next := recs.length, fresh := true, recs := recs } })

/-- R243: the unacknowledged packets toward a chip are renumbered, and sent again. -/
def restart (s : State) (d agent chip : Nat) : State :=
  resendAll (renumber s d agent chip) d agent chip (fun _ => true)

/-- R247, R287: RESEND at an end of the transport; what a drain stops is sent once its interval has passed (R246). -/
def resendStep (s : State) (d agent : Nat) (h : Hdr) : State :=
  let sp := spaceOf (xport (getDie s d) agent) (hSRC h)
  if sp.recs.isEmpty then s
  else if resendWaits s d agent then (if hAUX h = 2 then renumber s d agent (hSRC h) else s)
  else
    match hAUX h with
    | 0 => resendAll s d agent (hSRC h) (fun r => hTAG r.pkt.hdr == hTAG h)
    | 1 => resendAll s d agent (hSRC h) (fun r => decide (seqSub r.seq (hSEQ h) < 2 ^ 23))
    | 2 => restart s d agent (hSRC h)
    | _ => s

/-! Packets for dies that are gone -/

/-- R16, R432: a packet at die d for a die that is fenced, in selvage mode or out of reach: a REQ is answered with DIE_UNREACHABLE, SYNC still
reaches a steward in selvage mode, everything else is discarded. -/
def deadDest (s : State) (d t : Nat) (h : Hdr) : Bool :=
  (!reaches s d t) || ((getDie s t).flt != 0 && hCLASS h != 5)

/-- R16, R432: whether a packet at die d is refused there: its route leads to a die that is gone for it, or to a port of a die that cannot be
reached. -/
def refusedAt (s : State) (d : Nat) (h : Hdr) (own : Bool) : Bool :=
  match routeOf s d h own with
  | .here t => hKIND h != kDATA && hKIND h != kPRICK && deadDest s d t h
  | .port p _ => !reaches s d (p / 96)
  | _ => false

/-- R16, R432: a packet that die d refuses: a REQ that takes an answer gets DIE_UNREACHABLE, everything else is discarded. -/
def refuse (s : State) (d : Nat) (e : Held) : State :=
  let h := e.pkt.hdr
  let s1 := if hCLASS h = 0 ∧ !isVoid h then
      (match reqReply e.pkt with
        | some a => respond s d (replyKind (hKIND h)) (hSRC h) (hTAG h) 5 a []
        | none => s)
    else s
  dropHeld s1 d e

/-- The decision for a packet that may be consumed within its own die. -/
def decide' (s : State) (d : Nat) (e : Held) (own : Bool) (frm : Option Nat) : State :=
  if refusedAt s d e.pkt.hdr own then refuse s d e else decideWith consumeAt s d e own frm

end Sys2Proof.Machine
end

