-- ==== Sys2Proof/Machine/PortPmc.lean ====
section
/-! DEFINITION. File 18, R494 and R495: a port's counters. -/

namespace Sys2Proof.Machine

/-- Table 18-4: a port's select word. -/
def ppmcSel (p : PortPmc) (n : Nat) : Word32 := tget p.sel n 0x7F00

def ppmcBump (p : PortPmc) (n k : Nat) : PortPmc × Bool :=
  let v := tget p.cnt n 0 + k
  if 2 ^ 48 ≤ v then ({ p with cnt := tset p.cnt n (v % 2 ^ 48), sel := tset p.sel n (ppmcSel p n ||| 0x10000) }, true)
  else ({ p with cnt := tset p.cnt n v }, false)

/-- R488, R494: k occurrences of an event; a packet or byte event counts only where the class's bit is set. -/
def ppmcEvent (p : PortPmc) (ev k : Nat) (cls : Option Nat) : PortPmc :=
  (foldUpto 4 (p, false) (fun (a : PortPmc × Bool) n =>
    let sel := ppmcSel a.1 n
    if n != 0 && bit sel 15 then (if a.2 then ppmcBump a.1 n 1 else (a.1, false))
    else if fld sel 7 0 == ev && k != 0 && (match cls with | some c => bit sel (8 + c) | none => true) then ppmcBump a.1 n k
    else (a.1, false))).1

/-- R494: counts an event at a port of a die. -/
def portEvent (s : State) (d l ev k : Nat) (cls : Option Nat) : State :=
  updPort s d l (fun p => { p with pmc := ppmcEvent p.pmc ev k cls })

/-- R494, R495: a packet of n bytes of a class transmitted: packets, bytes, re-sends, the fixed counter, the window. -/
def portSent (s : State) (d l n cls : Nat) (resent : Bool) : State :=
  updPort s d l (fun p =>
    let c := some cls
    let q := ppmcEvent (ppmcEvent (ppmcEvent p.pmc 0x01 1 c) 0x02 n c) 0x09 (b2n resent) c
    { p with pmc := { q with fix := (q.fix + n) % 2 ^ 64, win := tset q.win 0 (tget q.win 0 0 + n) } })

def portTx (s : State) (d l n : Nat) (h : Hdr) : State := portSent s d l n (hCLASS h) (hRESENT h)

/-- R259, R494: a TFP 1 port sends a frame: its class and RESENT stand in bytes 0 and 4 (Table 8-14). -/
def frameTx (s : State) (d l : Nat) (f : List Byte) : State :=
  emit (portSent s d l f.length (bytesNat f 0 1 / 16) (bytesNat f 4 1 / 2 % 2 == 1)) (.frame d l f)

/-- The class of a packet by its header, as the version of its port has it. -/
def arrivalClass (x : Die) (l : Nat) (h : BitVec 256) : Nat := if (portOf x l).major == 1 then fld h 7 4 else hCLASS h

/-- R494, R495: a packet of n bytes of a class received that passes R230. -/
def portRx (s : State) (d l n cls : Nat) : State :=
  updPort s d l (fun p =>
    let c := some cls
    let q := ppmcEvent (ppmcEvent p.pmc 0x03 1 c) 0x04 n c
    { p with pmc := { q with win := tset q.win 1 (tget q.win 1 0 + n) } })

end Sys2Proof.Machine
end

