-- ==== Sys2Proof/Machine/Switch.lean ====
section
/-! DEFINITION. File 10: the switch slice: arrival of a packet, the scheduler, bridges, residence, sampling; file 08, R259 and R260: TFP 1. -/

namespace Sys2Proof.Machine

/-- Whether a die's switch slice works: the package is up and the die is not fenced. -/
def dieRuns (s : State) (d : Nat) : Bool := s.phase == .up && dieLives s d

/-- A port in service, or one that still sends its queued packets (R346). -/
def portSends (p : Port) : Bool := p.st == 6 || p.st == 9

/-! Voids and barred packets (R238, R517) -/

/-- R517: a barred sequenced packet as a void: no payload, its status in AUX, resealed. -/
def makeVoid (p : Packet) (st : Status) : Packet :=
  reseal { p with hdr := setH (setH p.hdr 76 64 0) 191 184 (replyCode st), body := padTo 28 [] }

/-- R238: counts a barred packet and posts BARRED, at most once in 1 ms for the port. -/
def reportBarred (s : State) (d l : Nat) (h : Hdr) : State :=
  let s1 := bump s d nBADADDR
  let seen := match tfind (getDie s1 d).barredAt l with
    | some t => decide (s1.now < t + 1000000)
    | none => false
  if seen then s1
  else
    postEvent (updDie s1 d (fun x => { x with barredAt := tset x.barredAt l s1.now })) 0x0A d (96 * d + l) (hKIND h + 256 * hCLASS h) 0 0

/-- R300: an unsequenced packet of die d with its destination bits given; it waits where it finds no buffer. -/
def sendUns (s : State) (d : Nat) (cls kind : Nat) (flags rest : Nat) (bs : List Byte) (bits req : Nat) : State :=
  send s d { pkt := mkPacket cls kind 0 flags rest bs, dst := 0, req := req, owner := .none, sequenced := false, bits := some bits }

/-- R249: header bytes 16 to 31 of the COLL_ACK for a collective packet. -/
def collAckRest (h : Hdr) : Nat :=
  collForm (hCTX h) (hGEN h) (hPIECE h) false (hRANK h) (hCHUNK h) (hKIND h)

/-- R249: COLL_ACK for a packet, to the chip that sent it. -/
def sendCollAck (s : State) (d : Nat) (h : Hdr) : State :=
  match chipRoute s (hSRC h) with
  | none => bump s d nBADADDR
  | some (bits, _) => sendUns s d 5 kCOLL_ACK 0 (collAckRest h) [] bits 11

/-! The policer (R307) -/

/-- R307: the tokens (quarter bytes) of an endpoint port's policer, at most BURST × 64 bytes. -/
def polTokens (x : Die) (l c : Nat) : Nat :=
  min (256 * regFld x (rSW_PORT l (0x94 + 8 * c)) 15 0) (tget (portOf x l).polTok c (4 * 64 * 0x400))

/-- R308: the tokens (quarter bytes) of a queue's shaper, at most BURST × 64 bytes. -/
def shTokens (x : Die) (l q : Nat) : Int :=
  min (256 * regFld x (rSW_PORT l (0x24 + 8 * (q - 2))) 15 0 : Nat) (tget (portOf x l).shTok q (4 * 64 * 0x100))

/-- R307: whether a packet passes an endpoint port's policer, and the port with the tokens it leaves (in quarter bytes). -/
def police (x : Die) (l cls len : Nat) : Bool × Port :=
  let p := portOf x l
  let r := regWord x (rSW_PORT l (0x90 + 8 * cls))
  let tok := polTokens x l cls
  if !bit r 16 then (true, p)
  else if tok < 4 * len then (false, { p with pdrop := satInc 0xFFFF p.pdrop })
  else (true, { p with polTok := tset p.polTok cls (tok - 4 * len) })

/-! Arrival (R293, R294) -/

/-- R377: a die's counter in 1/16 ns. -/
def time16 (s : State) (d : Nat) : Nat := (getDie s d).clock >>> 28

/-- R384 to R386: a link-local packet as its first bit leaves the balls at counter value t (1/16 ns): T_TX, T1, or TURN, which the queued packet
holds as the request's arrival; its route word is zero. -/
def stampLink (p : Packet) (t : Nat) : Packet :=
  let h := setRoute p.hdr 0
  if hKIND h = kDELAY_RSP then reseal { p with hdr := setH h 223 192 ((t + 2 ^ 32 - fld h 223 192) % 2 ^ 32) }
  else reseal { p with hdr := setH h 191 128 (t % 2 ^ 64) }

/-- The buffer number that a packet charges at its receiver (R270, R279, R322). -/
def arrivalBuf (x : Die) (l : Nat) (h : Hdr) : Nat :=
  if isTrunk x l then (if linkKind (hKIND h) then vcBuf (vcOf 5 false) false else if hSHR h then 31 else vcBuf (hVC h) (hDL h)) else hCLASS h

/-- A packet discarded at a port, with the port's counter (R494). -/
def portDiscard (s : State) (d l : Nat) (e : Held) (n : Option Nat) : State :=
  let s1 := portEvent s d l 0x05 1 (some (arrivalClass (getDie s d) l e.pkt.hdr))
  match n with
  | some n => discard s1 d e n
  | none => dropHeld s1 d e

/-- A packet of die d as it arrived at port l, with its buffer, the time of its header and the counter then. -/
def arrivedHeld (d l : Nat) (pk : Packet) (buf : Option Nat) (t : Nat × Nat) : Held :=
  { pkt := pk, buf := buf, arr := t.1, ein := t.1, inp := l, od := d, op := 100, q := 0, sub := 0, hop := 0, vr := none, brd := false, stamp := t.2 }

/-- R230, R293: the packet that was arriving at a port is discarded and counted. -/
def lostArriving (s : State) (d l : Nat) : State :=
  match tfind (getDie s d).rxPend l with
  | none => s
  | some (hdr, buf, t) =>
    let s1 := updDie s d (fun x => { x with rxPend := tdel x.rxPend l })
    portDiscard (reportFault s1 1 12 0 d 0x10 1) d l (arrivedHeld d l { hdr := hdr, body := [], trailer := 0 } buf t) (some nCRC)

/-- R293, R297, R299: a header arrives at a port: its buffer is allocated from the smallest pool that holds the packet; a LEN above 4,096 takes
none. A packet before it that has no trailer yet is lost. The header of a TFP 1 port has 24 bytes. -/
def headerArrival (d l : Nat) (hdr : BitVec 256) (s : State) : State :=
  let x := getDie s d
  let p := portOf x l
  if !dieRuns s d || !portSends p then s
  else
    let tfp1 := p.major == 1
    let len := if tfp1 then fld hdr 27 16 else hLEN hdr
    let old := lostArriving s d l
    let x := getDie old d
    if 4096 < len then
      let s1 := bump (setDie old d { x with rxPend := tdel x.rxPend l }) d nKIND
      portEvent s1 d l 0x05 1 (some (arrivalClass x l hdr))
    else
      let n := 36 + bodyLen len
      let pool := poolFor n
      let b := if tfp1 then fld hdr 7 4 else arrivalBuf x l hdr
      let ent : BufEnt := { refs := 1, grp := groupOf l, units := poolUnits pool, credit := some (l, b), req := none }
      match allocBuf x pool (groupOf l) ent with
      | none => setDie old d { x with rxPend := tset x.rxPend l (hdr, none, s.now, time16 s d) }
      | some (h, x1) =>
        let q := portOf x1 l
        setDie old d { x1 with
          rxPend := tset x1.rxPend l (hdr, some h, s.now, time16 s d)
          ports := tset x1.ports l { q with held := q.held + poolUnits pool } }

/-- R293: PACKET_HEADER_ARRIVAL. -/
def execPacketHeaderArrival (d l : Nat) (hdr : BitVec 256) (s : State) : Host.Outcome State Fault Refusal :=
  .next (headerArrival d l hdr s)

/-- R286: whether a drain holds a packet that arrives now. -/
def drainHolds (s : State) (h : Hdr) : Bool := stopped s && hCLASS h != 5

/-- R286: a packet that a drain holds at die d as it came. -/
def holdHeld (s : State) (d : Nat) (e : Held) : State := updDie s d (fun x => { x with held := x.held ++ [e] })

/-- The decision for a packet that arrived on a trunk port, or its hold by a drain (R286). -/
def arrived (s : State) (d : Nat) (e : Held) (own : Bool) (frm : Option Nat) : State :=
  if drainHolds s e.pkt.hdr then holdHeld s d e else decide' s d e own frm

/-- R238, R240, R286, R307, R517: a checked TFP 2 packet at endpoint port l: grant, policer, route word. One that a drain holds enters under the
tables in force as the drain releases it. -/
def endpointEntry (s : State) (d l : Nat) (e : Held) : State :=
  let g := portGrant s (96 * d + l)
  let h := e.pkt.hdr
  if drainHolds s h then holdHeld s d e
  else if !bit g 15 || hSRC h != fld g 14 0 then portDiscard s d l e (some nSPOOF)
  else
    let t := entryOf s d (96 * d + l) g e.pkt
    let x := getDie s d
    match t.bar with
    | some st =>
      let s1 := portEvent (reportBarred s d l h) d l 0x05 1 (some (hCLASS h))
      if kindColl (hKIND h) then
        dropHeld (sendUns s1 d 5 kCOLL_ACK 0 (collAckRest h) [] (ownRoute s (96 * d + l) 0) 11) d e
      else
        match t.dest with
        | none => dropHeld s1 d e
        | some (bits, own) =>
          if !kindSeq (hKIND h) then dropHeld s1 d e
          else
            let v := makeVoid e.pkt st
            decide' s1 d { e with pkt := { v with hdr := fillRoute x v.hdr bits }, vr := some (reqReply e.pkt), brd := t.brd } own none
    | none =>
      let (ok, q) := police x l (hCLASS h) (pktLen e.pkt)
      let s1 := setPort s d l q
      if !ok then portDiscard s1 d l e none
      else
        match t.dest with
        | none => if kindColl (hKIND h) then discard s1 d e nNOT_OPEN else portDiscard s1 d l e (some nBADADDR)
        | some (bits, own) =>
          let p1 := if kindColl (hKIND h) || t.addr == hADDR h then e.pkt else reseal { e.pkt with hdr := setH h 255 192 t.addr }
          decide' s1 d { e with pkt := { p1 with hdr := fillRoute x p1.hdr bits }, brd := t.brd } own none

/-- R248, R267, R282, R386, R520: a checked packet at trunk port l. Link-local kinds are consumed by the die of the port; a tree copy by the die
where it arrives, and so is a unicast re-send at its package. -/
def trunkEntry (s : State) (d l : Nat) (e : Held) : State :=
  let h := e.pkt.hdr
  let k := hKIND h
  let frm := (dirOfPort s (96 * d + l)).map (fun g => if g % 2 = 0 then g + 1 else g - 1)
  if linkKind k then consumeAt s d e
  else if hHOPS h = 63 then discard s d e nLIFE
  else
    let dn := k = kRESULT ∨ k = kWINDOW ∨ k = kRECONTRIB
    if dn ∧ (hRESENT h = false ∨ (s.tabs.shape.isSome ∧ atDest s h)) then
      if s.tabs.shape.isNone then discard s d e nNOROUTE
      else if drainHolds s h then holdHeld s d e
      else if (getDie s d).flt = 0 then consumeAt s d e else dropHeld s d e
    else
      arrived s d e false frm

/-! TFP 1 (R259, R260) -/

/-- Table 8-14's fields. -/
def t1Class (h : BitVec 256) : Nat := fld h 7 4
def t1Kind (h : BitVec 256) : Nat := fld h 15 8
def t1Len (h : BitVec 256) : Nat := fld h 27 16
def t1Chan (h : BitVec 256) : Nat := fld h 31 28
def t1Ord (h : BitVec 256) : Bool := bit h 32
def t1Src (h : BitVec 256) : Nat := fld h 62 48
def t1Seq (h : BitVec 256) : Nat := fld h 79 64
def t1Addr (h : BitVec 256) : Nat := fld h 191 128

/-- R228, R260: whether a TFP 1 packet is one that the port carries. -/
def t1Ok (h : BitVec 256) (body : List Byte) : Bool :=
  let k := t1Kind h
  let c := t1Class h
  fld h 3 0 == 1 && fld h 39 34 == 0 && !bit h 63 && fld h 127 80 == 0 && decide (t1Len h ≤ 2048)
    && decide (h.toNat < 2 ^ 192) && (t1Ord h || t1Chan h == 0)
    && ((k == 1 && c == 2) || ((k == 2 || k == 3) && c == 0) || ((k == 5 || k == 6) && c == 1) || (k == 0x0F && c == 6))
    && (c == 1 || fld h 47 40 == 0) && (k == 0x0F || !bit h 191)
    && !(k == 3 && decide (5 < bytesNat body 0 1))

/-- A TFP 1 ACK to the endpoint: start number and map (Table 8-14). -/
def t1Ack (src seq : Nat) : List Byte :=
  let h := 1 + 6 <<< 4 + 0x0F <<< 8 + src <<< 48 + seq <<< 64 + 1 <<< 128
  let body := padTo 28 []
  let bs := toLe 24 h ++ body
  bs ++ toLe 4 (crc32c bs)

/-- a − b modulo 2^16. -/
def seq16 (a b : Nat) : Nat := (a + 2 ^ 16 - b % 2 ^ 16) % 2 ^ 16

/-- The TFP 1 window of 64 numbers: whether a number is new, and the window with it. -/
def t1Accept (w : RxWin) (seq : Nat) : Option RxWin :=
  let r := seq16 seq w.base
  if r < 64 ∧ !w.map.testBit r then
    let w1 := winAdvance 65 { w with map := w.map ||| 2 ^ r }
    some { w1 with base := w1.base % 2 ^ 16 }
  else none

def t1Seen (w : RxWin) (seq : Nat) : Bool :=
  let r := seq16 seq w.base
  (decide (r < 64) && w.map.testBit r) || decide (2 ^ 15 ≤ r)

/-- R234, R259: the REQ that a TFP 1 response answers: of those that the endpoint was passed, the first with its reply address and kind of response
(log entry 79). -/
def t1Asker (t : T1) (h : BitVec 256) : Option T1Req :=
  if t1Class h = 1 then t.asked.find? (fun r => r.reply == t1Addr h && replyKind r.kind == t1Kind h) else none

/-- R259: a TFP 1 packet as a TFP 2 packet of the same source, kind, class, payload and ADDR, a message of its own under a TAG. -/
def t1Convert (h : BitVec 256) (body : List Byte) (tag : Nat) : Packet :=
  let bs := body.take (t1Len h)
  mkPacket (t1Class h) (t1Kind h) (t1Src h) (fFIN + b2n (t1Ord h) <<< 83 + t1Chan h <<< 77)
    (memForm tag bs.length (fld h 47 40) (t1Addr h)) bs

/-- The destination chip that the port numbers a converted packet toward: that of its destination bits. -/
def destChip (s : State) (bits : Nat) : Option Nat :=
  let port := nbits bits 24 15
  let here := bits % 2 ^ 15 == ownRoute s 0 0 % 2 ^ 15
  if here then
    if port = 0x3FF then chipOfDie s (nbits bits 27 25)
    else (let g := portGrant s port; if bit g 15 then some (fld g 14 0) else none)
  else ((s.tabs.chips.find? (fun e => bit e.2 31 && fld e.2 27 0 == bits))).map (·.1)

/-- R259: a TFP 1 packet that the endpoint acknowledges: its numbers' parts are over; a TFP 2 packet all of whose parts are over is
acknowledged to its source. -/
def t1Acked (t : T1) (start map : Nat) : T1 :=
  let isOver (q : T1Part) : Bool := let r := seq16 q.seq1 start; decide (r < 64) && map.testBit r
  let rest := t.parts.filter (fun q => !isOver q)
  let gone := (t.parts.filter isOver).filter (fun q => !rest.any (fun r => r.src == q.src && r.seq == q.seq))
  let keys := gone.foldl (fun (a : List (Nat × Nat)) q => if a.contains (q.src, q.seq) then a else a ++ [(q.src, q.seq)]) []
  { t with parts := rest, tr := keys.foldl (fun tr k => oweAck tr k.1 k.2) t.tr }

/-- R259, R260: a converted packet of a TFP 1 endpoint is sequenced in the port's space and goes on, acknowledged to the endpoint as held; one that
the space or the buffers do not take is dropped, and comes again. w is the endpoint's window with it. -/
def t1Forward (s : State) (d l : Nat) (h : BitVec 256) (e : Held) (w : RxWin) (q : Packet) (t : Entry) : State :=
  let ack := t1Ack (t1Src h) (t1Seq h)
  match t.dest.bind (fun b => (destChip s b.1).map (fun c => (b, c))) with
  | none => portDiscard s d l e none
  | some ((bits, own), dst) =>
    let q1 := match t.bar with
      | some st => makeVoid q st
      | none => { q with hdr := setH q.hdr 255 192 t.addr }
    let vr : Option (Option Nat) := if t.bar.isSome then some (reqReply q) else none
    let p := getPort s d l
    match t1Sequence p.t1 q1 dst e.buf vr t.brd with
    | none => dropHeld s d e
    | some (q2, t2) =>
      let asked := match t1Asker p.t1 h with | some r => p.t1.asked.erase r | none => p.t1.asked
      let s1 := setPort s d l { p with t1 := { t2 with rx := w, asked := asked } }
      let s2 := updDie s1 d (fun x => match e.buf with | some b => addRefs x b 1 | none => x)
      decide' (frameTx s2 d l ack) d
        { e with pkt := { q2 with hdr := fillRoute (getDie s2 d) q2.hdr bits }, vr := vr, brd := t.brd } own none

/-- R244, R259, R260, R286, R294, R307: a checked packet at a TFP 1 port: grant, policer, then the endpoint's window of 64. An ACK is for the port;
another packet is acknowledged once it is held and sequenced, which the wait after a package reset puts off; an ORD packet while an earlier number is
missing is not taken (log entry 80). One that a drain holds (marked in sub) enters as the drain releases it. -/
def t1Entry (s : State) (d l : Nat) (h : BitVec 256) (body : List Byte) (e : Held) : State :=
  let g := portGrant s (96 * d + l)
  let t1 := (getPort s d l).t1
  if !t1Ok h body then portDiscard s d l e (some nKIND)
  else if !bit g 15 || t1Src h != fld g 14 0 then portDiscard s d l e (some nSPOOF)
  else
    let ack := decide (t1Kind h = 0x0F)
    if !ack && stopped s then holdHeld s d { e with sub := 1 }
    else
      let q := t1Convert h body (((t1Asker t1 h).map (·.tag)).getD (t1Seq h))
      let t := entryOf s d (96 * d + l) g q
      let (ok, pp) := police (getDie s d) l (t1Class h) (24 + 4 + bodyLen (t1Len h))
      let bars := !ack && t.bar.isSome
      let s1 := if bars then reportBarred s d l q.hdr else setPort s d l pp
      if !bars && !ok then portDiscard s1 d l e none
      else if ack then pump (dropHeld (updPort s1 d l (fun p => { p with t1 := t1Acked p.t1 (t1Seq h) (t1Addr h) })) d e)
      else if (getDie s d).holdoff then dropHeld s1 d e
      else if t1Seen t1.rx (t1Seq h) then dropHeld (frameTx s1 d l (t1Ack (t1Src h) (t1Seq h))) d e
      else
        match t1Accept t1.rx (t1Seq h) with
        | none => portDiscard s1 d l e (some nKIND)
        | some w => if t1Ord h && t1Seq h != t1.rx.base then dropHeld s1 d e else t1Forward s1 d l h e w q t

/-- R230, R248, R228, R294: the whole packet is there: bytes after the header, and whether every codeword decoded. -/
def packetReceived (d l : Nat) (rest : List Byte) (fecOk : Bool) (s : State) : State :=
  let x := getDie s d
  if !dieRuns s d then s
  else
    match tfind x.rxPend l with
    | none => s
    | some (hdr, buf, t0) =>
      let s0 := setDie s d { x with rxPend := tdel x.rxPend l }
      let tfp1 := (portOf x l).major == 1
      let body := rest.take (rest.length - 4)
      let tr := BitVec.ofNat 32 (leNat (rest.drop (rest.length - 4)))
      let pk : Packet := { hdr := hdr, body := body, trailer := tr }
      let e := arrivedHeld d l pk buf t0
      let good := fecOk && decide (4 ≤ rest.length) && buf.isSome
        && (if tfp1 then body.length == bodyLen (t1Len hdr) && tr == BitVec.ofNat 32 (crc32c (toLe 24 hdr.toNat ++ body))
            else checkOk pk)
      if !good then portDiscard (reportFault s0 1 12 0 d 0x10 1) d l e (some nCRC)
      else
        let s1 := portRx s0 d l (if tfp1 then 28 + body.length else pktLen pk) (arrivalClass x l hdr)
        if tfp1 then t1Entry s1 d l hdr body e
        else if badKind hdr (isTrunk x l) then portDiscard s1 d l e (some nKIND)
        else if isTrunk x l then trunkEntry s1 d l e
        else endpointEntry s1 d l e

/-- R230: PACKET_RECEIVED. -/
def execPacketReceived (d l : Nat) (rest : List Byte) (fecOk : Bool) (s : State) : Host.Outcome State Fault Refusal :=
  .next (packetReceived d l rest fecOk s)

/-! Gates (R306, R311, R312) -/

/-- The entry of a list in force at counter value t, and the time left in it. -/
def gateEntry (ents : List (Nat × Nat)) (off : Nat) : Nat → Nat × Nat × Nat
  | i => match ents with
    | [] => (i, 0xFFFF, 0)
    | (dur, opn) :: l => if off < dur then (i, opn, dur - off) else gateEntry l (off - dur) (i + 1)

def gateCycle (g : GateList) : Nat := (g.ents.map (·.1)).foldl (· + ·) 0

/-- R312: entry number, OPEN and time left at counter value t. -/
def gateAt (g : GateList) (t : Nat) : Nat × Nat × Nat :=
  let cyc := gateCycle g
  if cyc = 0 then (0, 0xFFFF, 10 ^ 18)
  else gateEntry g.ents (((t : Int) - (g.start : Int)) % (cyc : Int)).toNat 0

/-- R306: whether queue q stays open from counter value t for n ns, through the list in force and the staged one. -/
def gateStays (frc stg : Option GateList) (q : Nat) : Nat → Nat → Nat → Bool
  | 0, _, _ => true
  | f + 1, t, n =>
    let staged := match stg with | some g => decide (g.start ≤ t) | none => false
    let cur := if staged then stg else frc
    let (opn, left) : Nat × Nat := match cur with
      | some g => ((gateAt g t).2.1, (gateAt g t).2.2)
      | none => (0xFFFF, 10 ^ 18)
    let left' := match stg with | some g => if t < g.start then min left (g.start - t) else left | none => left
    if !opn.testBit q then false
    else if n ≤ left' then true
    else gateStays frc stg q f (t + left') (n - left')

/-- Time in ns, rounded up, that n bytes take at a width (log2): 0.04 ns a byte and lane. -/
def wireNs (n w : Nat) : Nat := cdiv n (25 * 2 ^ w)

/-! The scheduler (R306, R308) -/

/-- The heads of the sub-lists of a queue list: for each packet, whether none before it shares its queue and sub-list. -/
def heads (l : List Held) : List Held :=
  (l.foldl (fun (a : List Held × List (Nat × Nat)) e =>
    if a.2.contains (e.q, e.sub) then a else (a.1 ++ [e], a.2 ++ [(e.q, e.sub)])) ([], [])).1

/-- R306: deficit round robin; answers the queue and the pointer, deficits and visited marks. cand gives a queue's candidate's charge. -/
def drrPick (weight : Nat → Nat) (hasAny : Nat → Bool) (cand : Nat → Option Nat) : Nat → OutQ → Option Nat × OutQ
  | 0, u => (none, u)
  | f + 1, u =>
    let q := u.ptr
    let move (u : OutQ) : OutQ := { u with vis := sdel u.vis q, ptr := if q = 15 then 4 else q + 1 }
    if !hasAny q then drrPick weight hasAny cand f (move { u with dfc := tset u.dfc q 0 })
    else
      match cand q with
      | none => drrPick weight hasAny cand f (move u)
      | some c =>
        let u1 := if u.vis.contains q then u
          else { u with dfc := tset u.dfc q (tget u.dfc q 0 + 256 * weight q), vis := sadd u.vis q }
        if c ≤ tget u1.dfc q 0 then (some q, { u1 with dfc := tset u1.dfc q (tget u1.dfc q 0 - c) })
        else drrPick weight hasAny cand f (move u1)

/-- R306: a queue's candidate: of the eligible heads hs, the one that joined first, and of those that joined at one time that of the lower
sub-list (log entry 59). -/
def candidateOf (hs : List Held) (q : Nat) : Option Held :=
  (hs.filter (fun e => e.q == q)).foldl (fun b e =>
    match b with
    | none => some e
    | some h => if e.joined < h.joined ∨ (e.joined = h.joined ∧ e.sub < h.sub) then some e else b) none

/-- R306: the packet that an output sends next, given which heads are eligible, the weights and the overhead in each charge. -/
def schedule (u : OutQ) (elig : Held → Bool) (weight : Nat → Nat) (ovh : Nat) : Option (Held × OutQ) :=
  let hs := (heads u.q).filter elig
  let cand := candidateOf hs
  match [0, 1, 2, 3].findSome? cand with
  | some e => some (e, u)
  | none =>
    if !hs.any (fun e => decide (4 ≤ e.q)) then none
    else
      let (r, u1) := drrPick weight (fun q => u.q.any (fun e => e.q == q))
        (fun q => (cand q).map (fun e => pktLen e.pkt + ovh)) 4000 u
      match r.bind cand with
      | some e => some (e, u1)
      | none => none

/-- Removes the first packet equal to the one chosen. -/
def takeOut (l : List Held) (e : Held) : List Held := l.erase e

/-- SW_WEIGHTj (Table 10-15). -/
def swWeight (x : Die) (l q : Nat) : Nat := regFld x (rSW_PORT l (8 + 4 * ((q - 4) / 4))) (8 * ((q - 4) % 4) + 7) (8 * ((q - 4) % 4))

/-- R308: whether a queue's shaper lets it send. -/
def shaperOk (x : Die) (l q : Nat) : Bool :=
  decide (q < 2) || !bit (regWord x (rSW_PORT l (0x20 + 8 * (q - 2)))) 16
    || decide (0 ≤ shTokens x l q)

/-- R279, R515: whether the next hop of an output port holds credit for a packet. -/
def portCredit (x : Die) (l : Nat) (e : Held) : Option (Nat × Bool) :=
  let p := portOf x l
  let c := chargeOf (pktLen e.pkt)
  if isTrunk x l then trunkCredit p (vcOf (hCLASS e.pkt.hdr) (hESC e.pkt.hdr)) (hDL e.pkt.hdr) c
  else if (c : Int) ≤ creditHeld p (hCLASS e.pkt.hdr) then some (hCLASS e.pkt.hdr, false) else none

/-- R259: the parts that a packet takes toward a TFP 1 endpoint; ACK and RESEND are for the port. -/
def t1Parts (h : Hdr) : Nat := if hCLASS h = 5 then 0 else max 1 (cdiv (hLEN h) 2048)

/-- R260: whether n parts more stay within the window of 64 numbers from the oldest part not acknowledged. -/
def t1Room (t : T1) (n : Nat) : Bool :=
  match t.parts with
  | [] => decide (n ≤ 64)
  | q :: _ => decide (seq16 t.next q.seq1 + n ≤ 64)

/-- R306: whether a head of output port l is eligible now. -/
def eligible (s : State) (d l : Nat) (e : Held) : Bool :=
  let x := getDie s d
  let p := portOf x l
  (portCredit x l e).isSome && shaperOk x l e.q
    && (decide (e.q < 2) || gateStays p.gate p.staged e.q 300 (timeNs s d) (wireNs (pktLen e.pkt) p.width))
    && (p.major != 1 || t1Room p.t1 (t1Parts e.pkt.hdr))

/-- R308: a packet of a queue starts: its charge leaves the shaper's tokens. -/
def shaperTake (x : Die) (l q n : Nat) : Die :=
  if q < 2 then x
  else
    let p := portOf x l
    let t := shTokens x l q - 4 * (n + regFld x (rSW_PORT l 4) 7 0 : Nat)
    { x with ports := tset x.ports l { p with shTok := tset p.shTok q t } }

/-- R259: the parts of a TFP 2 packet for a TFP 1 endpoint, with their frames: at most 2,048 bytes each. -/
def t1Frame (src kind cls aux seq addr : Nat) (ord : Bool) (chan : Nat) (bs : List Byte) : List Byte :=
  let h := 1 + cls <<< 4 + kind <<< 8 + bs.length <<< 16 + chan <<< 28 + b2n ord <<< 32 + aux <<< 40 + src <<< 48 + seq <<< 64
    + (addr % 2 ^ 64) <<< 128
  let b := toLe 24 h ++ padTo (bodyLen bs.length) bs
  b ++ toLe 4 (crc32c b)

def t1Split (t : T1) (h : Hdr) (bs : List Byte) : T1 × List (List Byte) :=
  let n := max 1 (cdiv bs.length 2048)
  foldUpto n (t, []) (fun (a : T1 × List (List Byte)) i =>
    let chunk := (bs.drop (2048 * i)).take 2048
    let f := t1Frame (hSRC h) (hKIND h) (hCLASS h) (if hCLASS h = 1 then hAUX h else 0) a.1.next (hADDR h + 2048 * i) (hORD h) (hCHAN h) chunk
    ({ a.1 with
        next := (a.1.next + 1) % 2 ^ 16
        parts := a.1.parts ++ [{ seq1 := a.1.next, src := hSRC h, seq := hSEQ h, left := 0, bytes := f }] }, a.2 ++ [f]))

/-- R245, R246, R247 at an end of the transport: numbers acknowledged by a chip free their records. Answers the records freed. -/
def ackedAt (t : Xport) (chip start map : Nat) : Xport × List Replay :=
  match tfind t.txs chip with
  | none => (t, [])
  | some sp =>
    let isOver (r : Replay) : Bool := let k := seqSub r.seq start; decide (k < 64) && map.testBit k
    ({ t with txs := tset t.txs chip { sp with fresh := false, recs := sp.recs.filter (fun r => !isOver r) } }, sp.recs.filter isOver)

/-- The reply address of a void REQ: as its payload said where this package made it, else free (log entry 18). -/
def voidReplyTo (e : Held) : Option Nat :=
  match e.vr with
  | some r => r
  | none => Config.voidReply (hSRC e.pkt.hdr) (hTAG e.pkt.hdr)

/-- R239, R243, R252, R300: a RESEND of TFP 1 port l, for its endpoint, with a code; it waits where it finds no buffer. -/
def t1Resend (s : State) (d l dst code seq : Nat) : State :=
  if (chipRoute s dst).isNone then bump s d nBADADDR
  else send s d { pkt := mkPacket 5 kRESEND (fld (portGrant s (96 * d + l)) 14 0) (seq <<< 104) (memForm 0 dst code 0) [], dst := dst, req := 11,
                  owner := .none, sequenced := false, via := some l }

/-- R234, R244, R300, R517: the answer of TFP 1 port l to a void REQ, in the port's space for its endpoint; it waits until it can be sent. -/
def t1Answer (s : State) (d l : Nat) (h : Hdr) (a : Nat) : State :=
  if (chipRoute s (hSRC h)).isNone then bump s d nBADADDR
  else send s d { pkt := mkPacket 1 (replyKind (hKIND h)) (fld (portGrant s (96 * d + l)) 14 0) fFIN (memForm (hTAG h) 0 (hAUX h) a) [],
                  dst := hSRC h, req := 11, owner := .none, sequenced := true, via := some l }

/-- R260: whether a packet for a TFP 1 endpoint needs what TFP 1 does not carry: a kind, a global-form address, a message of several packets or
with a signal, an ordered channel from 16, an atomic past AOP 5, a read that a part cannot answer, an answer at a global-form address. -/
def t1Bars (e : Held) : Bool :=
  let h := e.pkt.hdr
  let k := hKIND h
  !(k == 1 || k == 2 || k == 3 || k == 5 || k == 6) || bit h 255 || !hFIN h || hTOTAL h != hLEN h || hNTF h || decide (16 ≤ hCHAN h)
    || (k == 3 && decide (5 < bytesNat (payload e.pkt) 0 1)) || (k == 2 && decide (2048 < bytesNat (payload e.pkt) 8 2))
    || (match reqReply e.pkt with | some a => decide (2 ^ 63 ≤ a) | none => false)

/-- R252: whether TFP 1 port l asked source src for a re-send less than 1 µs ago, and the state with the time of this request. -/
def t1Asks (s : State) (d l src : Nat) : Bool × State :=
  let key := (l + 1) * 2 ^ 15 + src
  let soon := match tfind (getDie s d).resendAt key with
    | some t => decide (s.now < t + 1000)
    | none => false
  (soon, updDie s d (fun x => { x with resendAt := tset x.resendAt key s.now }))

/-- R246: the response to a request counts as its acknowledgement: the records of the chip's REQs under the TAG are over. Answers them. -/
def answeredAt (t : Xport) (h : Hdr) : Xport × List Replay :=
  match (if hCLASS h = 1 ∧ hKIND h ≠ kREPLY_WRITE then tfind t.txs (hSRC h) else none) with
  | none => (t, [])
  | some sp =>
    let mine (r : Replay) : Bool := hCLASS r.pkt.hdr == 0 && hTAG r.pkt.hdr == hTAG h
    ({ t with txs := tset t.txs (hSRC h) { sp with fresh := false, recs := sp.recs.filter (fun r => !mine r) } }, sp.recs.filter mine)

/-- R242, R246: TFP 1 port l accepts a sequenced packet into its window, and lets go of the request that it answers. -/
def t1Accepted (s : State) (d l : Nat) (h : Hdr) (w : RxWin) : State :=
  let p := getPort s d l
  let (tr, gone) := answeredAt { p.t1.tr with rxw := tset p.t1.tr.rxw (hSRC h) w } h
  gone.foldl (fun s r => decOpt s d r.buf 13) (setPort s d l { p with t1 := { p.t1 with tr := tr } })

/-- R242: a sequenced packet is accepted by TFP 1 port l: a void is acknowledged and, where it is a REQ, answered by the port; another is sent in
parts, and acknowledged once the endpoint has acknowledged each. -/
def t1Take (s : State) (d l : Nat) (e : Held) (w : RxWin) : State :=
  let h := e.pkt.hdr
  let s1 := t1Accepted s d l h w
  if heldVoid e then
    let s2 := updPort s1 d l (fun p => { p with t1 := { p.t1 with tr := oweAck p.t1.tr (hSRC h) (hSEQ h) } })
    match (if hCLASS h = 0 then voidReplyTo e else none) with
    | some a => dropHeld (t1Answer s2 d l h a) d e
    | none => dropHeld s2 d e
  else
    let p := getPort s1 d l
    let (t, fs) := t1Split p.t1 h (payload e.pkt)
    let asked := match reqReply e.pkt with
      | some a => t.asked ++ [{ chip := hSRC h, seq := hSEQ h, kind := hKIND h, tag := hTAG h, reply := a }]
      | none => t.asked
    dropHeld (fs.foldl (fun s f => frameTx s d l f) (setPort s1 d l { p with t1 := { t with asked := asked } })) d e

/-- R242: a duplicate at TFP 1 port l: acknowledged again once every part is, and never where a part was given up. -/
def t1Dup (s : State) (d l : Nat) (e : Held) : State :=
  let h := e.pkt.hdr
  let p := getPort s d l
  let open' := p.t1.parts.any (fun q => q.src == hSRC h && q.seq == hSEQ h) || p.t1.lost.contains (hSRC h * 2 ^ 24 + hSEQ h)
  let t := if open' then p.t1 else { p.t1 with tr := oweAck p.t1.tr (hSRC h) (hSEQ h) }
  dropHeld (setPort (bump s d nDUP) d l { p with t1 := t }) d e

/-- R242, R243, R247, R252, R259, R260, R517: a TFP 2 packet that reaches a TFP 1 port: ACK and RESEND are for the port; a sequenced packet passes
the port's receive window; what TFP 1 cannot carry is discarded. -/
def t1Send (s : State) (d l : Nat) (e : Held) : State :=
  let p := getPort s d l
  let h := e.pkt.hdr
  if hKIND h = kACK then
    let (tr, gone) := ackedAt p.t1.tr (hSRC h) (hSEQ h) (hADDR h)
    let s1 := setPort s d l { p with t1 := { p.t1 with tr := tr } }
    dropHeld (gone.foldl (fun s r => decOpt s d r.buf 13) s1) d e
  else if hKIND h = kRESEND then dropHeld (resendStep s d l h) d e
  else if !heldVoid e && t1Bars e then discard s d e nKIND
  else
    match arrivalOf p.t1.tr h with
    | .accept w => t1Take s d l e w
    | .dup => t1Dup s d l e
    | .outside => discard s d e nWINDOW
    | .restart => t1Resend (dropHeld s d e) d l (hSRC h) 2 0
    | .resendFrom q =>
      let (soon, s1) := t1Asks (dropHeld s d e) d l (hSRC h)
      if soon then dropHeld s d e else t1Resend s1 d l (hSRC h) 1 q

/-- R272, R273, R279, R306: output port l of die d starts the packet that the scheduler chooses. -/
def packetTransmit (d l : Nat) (s : State) : State :=
  let x := getDie s d
  let p := portOf x l
  if !dieRuns s d || !portSends p || decide (96 ≤ l) then s
  else
    match schedule (outOf x l) (eligible s d l) (swWeight x l) (regFld x (rSW_PORT l 4) 7 0) with
    | none => s
    | some (e, u) =>
      match portCredit x l e with
      | none => s
      | some (b, shr) =>
        let n := pktLen e.pkt
        let c := chargeOf n
        let x1 := shaperTake { x with outs := tset x.outs l { u with q := takeOut u.q e } } l e.q n
        let x2 := { x1 with ports := tset x1.ports l (let p1 := portOf x1 l; { p1 with txS := tset p1.txS b (tget p1.txS b 0 + c) }) }
        let s1 := setDie s d x2
        if isTrunk x l && linkKind (hKIND e.pkt.hdr) then
          let p' := stampLink e.pkt (time16 s d)
          dropHeld (portTx (emit s1 (.packet d l p')) d l n p'.hdr) d e
        else if isTrunk x l then
          let h := setH (setH e.pkt.hdr 40 40 (b2n shr)) 39 34 (hHOPS e.pkt.hdr + 1)
          dropHeld (portTx (emit s1 (.packet d l { e.pkt with hdr := h })) d l n h) d e
        else if p.major = 1 then t1Send s1 d l e
        else
          let h := setRoute e.pkt.hdr 0
          dropHeld (portTx (emit s1 (.packet d l { e.pkt with hdr := h })) d l n h) d e

/-- R322, R346: port l of die d tells its far end once its last queued packet has left while it is in REMOVING: s before, t after. -/
def tellDrained (s t : State) (d l : Nat) : State :=
  if (getPort t d l).st = 9 ∧ (outOf (getDie s d) l).q.isEmpty = false ∧ (outOf (getDie t d) l).q.isEmpty then emit t (.control d l 4 [stateOf 9 true]) else t

/-- R306: PACKET_TRANSMIT. -/
def execPacketTransmit (d l : Nat) (s : State) : Host.Outcome State Fault Refusal := .next (drainTick (tellDrained s (packetTransmit d l s) d l))

/-! Bridges (R13, R15, R294) -/

/-- R15, R280, R294, R302: the packet that bridge b of die d's scheduler chooses is stored by the die at the far end, which consumes it, queues it on
its output or sends it on over its next bridge; of a multicast copy it makes its own copies, but in selvage mode, where it replicates nothing and decides an adaptive packet anew by dimension order (R431). -/
def bridgeHop (d b : Nat) (s : State) : State :=
  let x := getDie s d
  if !dieRuns s d || (bridgeOf x b).failed then s
  else
    match bridgeTo s.variant d b with
    | none => s
    | some t =>
      if !dieLives s t then s
      else
        let y := getDie s t
        let cr (e : Held) : Option Nat :=
          bridgeCredit y b (min e.hop 1) (vcOf (hCLASS e.pkt.hdr) (hESC e.pkt.hdr)) (hDL e.pkt.hdr) (chargeOf (pktLen e.pkt))
        match schedule (outOf x (96 + b)) (fun e => (cr e).isSome) (fun _ => 17) 0 with
        | none => s
        | some (e, u) =>
          match cr e with
          | none => s
          | some key =>
            let pool := poolFor (pktLen e.pkt)
            let ent : BufEnt := { refs := 1, grp := 12, units := poolUnits pool, credit := some (96 + b, key), req := none }
            match allocBuf y pool 12 ent with
            | none => s
            | some (h, y1) =>
              let br := bridgeOf y1 b
              let y2 := { y1 with brs := tset y1.brs b { br with use := tset br.use key (tget br.use key 0 + poolUnits pool) } }
              let s1 := dropHeld (setDie (setDie s d { x with outs := tset x.outs (96 + b) { u with q := takeOut u.q e } }) t y2) d e
              let e1 := { e with buf := some h, ein := s.now, inp := 96 + b, hop := e.hop + 1, fg := none }
              if !e.more.isEmpty then dropHeld (if y.flt = 0 || e.more.length < 2 then copies s1 t e1 h e.more else s1) t e1
              else if e.od = t then
                (if e.op = 100 then takeAt s1 t e1
                else if portSends (getPort s1 t e.op) then joinQueue s1 t e.op e1 else discard s1 t e1 nDOWN)
              else if !reaches s1 t e.od then loseHeld s1 t e1
              else if y.flt = 1 ∧ !hESC e.pkt.hdr ∧ e.op < 96 ∧ isTrunk (getDie s1 e.od) e.op then
                decide' s1 t { e1 with pkt := { e.pkt with hdr := setH (setH e.pkt.hdr 28 28 1) 29 29 (b2n e.dl) } } false e.came
              else toward s1 t { e1 with pkt := { e.pkt with hdr := selvageEsc y e.pkt.hdr } }

/-- R294: BRIDGE_HOP. -/
def execBridgeHop (d b : Nat) (s : State) : Host.Outcome State Fault Refusal := .next (drainTick (bridgeHop d b s))

/-! Residence, waiting packets, caches (R296, R274, R275, R298) -/

/-- R248, R296: whether a packet's residence in the package has reached its limit. -/
def resideOver (s : State) (d : Nat) (e : Held) : Bool := decide (e.arr + 1000 * regFld (getDie s d) rFAB_TIMERS 29 24 ≤ s.now)

/-- R296: the packet at position i of an output's queue (o up to 99), of those that wait for a candidate (100) or of those that a drain holds
(101) has reached its residence limit. -/
def residenceExpiry (d o i : Nat) (s : State) : State :=
  let x := getDie s d
  if !dieRuns s d then s
  else if o = 100 then
    match x.adapt[i]? with
    | some e => if resideOver s d e then discard (setDie s d { x with adapt := x.adapt.eraseIdx i }) d e nLIFE else s
    | none => s
  else if o = 101 then
    match x.held[i]? with
    | some e => if resideOver s d e then discard (setDie s d { x with held := x.held.eraseIdx i }) d e nLIFE else s
    | none => s
  else
    let u := outOf x o
    match u.q[i]? with
    | some e =>
      if resideOver s d e then discard (setDie s d { x with outs := tset x.outs o { u with q := u.q.eraseIdx i } }) d e nLIFE else s
    | none => s

/-- R296: RESIDENCE_EXPIRY. -/
def execResidenceExpiry (d o i : Nat) (s : State) : Host.Outcome State Fault Refusal := .next (drainTick (tellDrained s (residenceExpiry d o i s) d o))

/-- The direction a waiting packet came in. -/
def cameFrom (s : State) (d : Nat) (e : Held) : Option Nat :=
  if e.inp < 96 then (dirOfPort s (96 * d + e.inp)).map (fun g => if g % 2 = 0 then g + 1 else g - 1) else none

/-- R274: tries again the packets that wait at a die for a candidate. -/
def retryAdapt (s : State) (d : Nat) : State :=
  let l := (getDie s d).adapt
  if l.isEmpty then s
  else l.foldl (fun s e => decide' s d e false (cameFrom s d e)) (updDie s d (fun x => { x with adapt := [] }))

def retryAll (s : State) : State := foldUpto (ndies s.variant) s retryAdapt

/-- R274: the packet at position i that waits at die d has had no candidate for ESC_WAIT: where the escape output of R267 has credit on the escape
VC, it moves there. -/
def escWaitExpiry (d i : Nat) (s : State) : State :=
  let x := getDie s d
  if !dieRuns s d then s
  else
    match x.adapt[i]? with
    | none => s
    | some e =>
      let h := e.pkt.hdr
      let s1 := setDie s d { x with adapt := x.adapt.eraseIdx i }
      if !(candidates s h (chargeOf (pktLen e.pkt))).isEmpty then decide' s1 d e false (cameFrom s d e)
      else
        match routeEscape s h with
        | .port p _ =>
          let dl := match dirOfPort s p with | some g => nextDL s h (cameFrom s d e) g | none => hDL h
          if (trunkCredit (getPort s (p / 96) (p % 96)) (vcOf (hCLASS h) true) dl (chargeOf (pktLen e.pkt))).isSome then
            decide' s1 d { e with pkt := { e.pkt with hdr := setH h 28 28 1 } } false (cameFrom s d e)
          else s
        | _ => s

/-- R274: ESC_WAIT_EXPIRY. -/
def execEscWaitExpiry (d i : Nat) (s : State) : Host.Outcome State Fault Refusal := .next (escWaitExpiry d i s)

/-- R275: an output group ends its warming once 4,096 decisions have counted toward it and 100 µs have passed since the admission that
started them. -/
def warmGroupEnd (g : Nat) (s : State) : State :=
  let w := warmOf s g
  if w.warming && decide (4096 ≤ w.dec) && (match w.since with | some t => decide (t + 100000 ≤ s.now) | none => false) then { s with warm := tset s.warm g { w with warming := false } } else s

/-- R275: WARM_GROUP_END. -/
def execWarmGroupEnd (g : Nat) (s : State) : Host.Outcome State Fault Refusal := .next (warmGroupEnd g s)

/-- R298: HANDLE_CACHE_FETCH: a cache below 64 handles fetches 128; a die in selvage mode never touches the rings (R431). -/
def handleCacheFetch (d p g : Nat) (s : State) : State :=
  let x := getDie s d
  if dieRuns s d && x.flt == 0 && decide (p < 3) && decide (g < 14) && decide ((cacheOf x p g).length < 64) then setDie s d (cacheFetch x p g)
  else s

def execHandleCacheFetch (d p g : Nat) (s : State) : Host.Outcome State Fault Refusal := .next (handleCacheFetch d p g s)

/-! Sampling (R277, R313, R314) -/

def depthBin (n : Nat) : Nat := if n = 0 then 0 else if n < 512 then 1 else min 15 ((n / 256).log2 + 1)
def delayBin (n : Option Nat) : Nat := match n with
  | none => 0
  | some n => if n < 40 then 1 else min 15 ((n / 20).log2 + 1)

/-- R314: adds 1 to a 32-bit bin, saturating. -/
def binInc (g : Ground) (off : Nat) : Ground :=
  { g with cells := memWrite g.cells off (toLe 4 (satInc (2 ^ 32 - 1) (memNat g.cells off 4))) }

/-- R313, R314: one sample of every queue of a die's output ports, and R277's history of each trunk port. -/
def depthSample (d : Nat) (s : State) : State :=
  let x := getDie s d
  if !dieRuns s d then s
  else
    let hist := bit (regWord x rSW_SAMPLE) 8
    let base := regFld x rSW_HIST_BASE 26 6 * 64
    let g1 := if !hist then x.gnd else
      foldUpto 96 x.gnd (fun g l =>
        if (portWidth x l).isNone then g else
        foldUpto 16 g (fun g q =>
          let es := (outOf x l).q.filter (fun e => e.q == q)
          let depth := (es.map (fun e => pktLen e.pkt)).foldl (· + ·) 0
          let delay := match es with
            | [] => none
            | e :: r => some (s.now - r.foldl (fun m e => min m e.ein) e.ein)
          let o := base + 64 * (32 * l + 2 * q)
          binInc (binInc g (o + 4 * depthBin depth)) (o + 64 + 4 * delayBin delay)))
    let ports := foldUpto 96 x.ports (fun ps l =>
      if (portWidth x l).isNone || !isTrunk x l then ps
      else
        let b := (((outOf x l).q.filter (fun e => vcAdaptive (vcOf (hCLASS e.pkt.hdr) (hESC e.pkt.hdr)))).map (fun e => pktLen e.pkt)).foldl (· + ·) 0
        let v := b / 256
        let p := tget ps l portReset
        tset ps l { p with hist := min 65535 (p.hist - p.hist / 8 + v / 8) })
    setDie s d { x with gnd := g1, ports := ports }

/-- R313: DEPTH_SAMPLE. -/
def execDepthSample (d : Nat) (s : State) : Host.Outcome State Fault Refusal := .next (depthSample d s)

end Sys2Proof.Machine
end

