-- ==== Sys2Proof/Machine/Clock.lean ====
section
/-! DEFINITION. What the clocks do as time passes: the core cycles, switch cycles, tokens, windows and counts that go with it (R307, R308, R461,
R487, R490, R493 to R495). Log entries 3 and 20. -/

namespace Sys2Proof.Machine

/-! The compute duty (R461) -/

def rPWR_CAP_default (v : Variant) : Nat := match v with | .tx8 => 0xC1A | .tx4 => 0xA1C | .tx2 => 0x91D

/-- Table 16-6: PWR_CAP, on die 0. -/
def pwrCap (s : State) : Word32 := tget (getDie s 0).regs rPWR_CAP (BitVec.ofNat 32 (rPWR_CAP_default s.variant))

/-- R461: the duty in force on a die. -/
def dieDuty (s : State) (d : Nat) : Nat :=
  min (min (if bit (pwrCap s) 11 then s.power.capDuty else 16) (getDie s d).tduty) (if s.power.throt then 4 else 16)

/-- R493: whether the next instruction w of a job on core c of a die waits: on a pending register (R97), a unit that takes no more (Table 5-2), the
DMA (R132), FENCE, DMAW or HALT. -/
def nextWaits (x : Die) (c : Nat) (k : Core) (r : Run) (w : Word64) : Bool :=
  (regsOf w).any (fun g => r.pend.contains g) ||
  (match opOf w with
   | 0x16 => !fenceReady x c k w
   | 0x1F => !haltReady x c k r
   | 0x20 | 0x21 | 0x22 | 0x23 | 0x24 => !arrAccepts k
   | 0x28 | 0x29 | 0x2A | 0x2B => decide (2 ≤ k.vq.length)
   | 0x38 => decide (64 ≤ (coreDmas x c).length)
   | 0x39 => !dmawReady x c w
   | _ => false)

/-- The instruction at the PC of a job that has not halted, ended or stalled at a knot. -/
def nextIn (k : Core) (r : Run) : Option Word64 :=
  if r.halted || r.ended.isSome || r.wait.isSome then none else k.image.map (fun im => nth im r.pc noWord)

/-- R493: why a job on core c of a die issues nothing: 3 BACK where it has halted or ended, waits at a knot, or its next instruction waits; else 2
FRONT, the next one not yet fetched. -/
def stallSlot (x : Die) (c : Nat) (k : Core) (r : Run) : Nat :=
  match nextIn k r with
  | none => 3
  | some w => if nextWaits x c k r w then 3 else 2

/-- Table 18-1, event 0x0D: whether a job stalls at FENCE or DMAW. -/
def stalledFence (x : Die) (c : Nat) (k : Core) (r : Run) : Bool :=
  match nextIn k r with
  | none => false
  | some w => (opOf w == 0x16 || opOf w == 0x39) && nextWaits x c k r w

/-- R489: whether a CORE activity tests core c of die d. -/
def underTest (s : State) (d c : Nat) : Bool :=
  s.hoopHold.any (fun h => h.act == 4 && h.die == d && h.unit == c && h.arg % 2 == 0 && h.st.isNone && !holdOver s h)

/-- Table 18-1, R489, R491, R493: n core clock cycles in which core c of a die issues nothing; test says that it is under test. -/
def coreTick (x : Die) (test : Bool) (n c : Nat) (k : Core) : Core :=
  if (test && k.run.isNone) || n = 0 then k
  else
    let p := pmcEvent k.pmc 0x01 (n * b2n (!k.asleep))
    let p := pmcEvent p 0x07 (n * b2n (!k.vq.isEmpty))
    match k.run with
    | none => { k with pmc := p }
    | some r =>
      let p := pmcEvent p 0x02 n
      let p := pmcEvent p 0x0C (n * b2n r.wait.isSome)
      let p := pmcEvent p 0x0D (n * b2n (stalledFence x c k r))
      { k with pmc := pmcSlot p (stallSlot x c k r) n }

/-- R308: a shaper's tokens (quarter bytes) after n times 20 ns: RATE × 12.5 bytes per µs are RATE quarter bytes, up to BURST × 64 bytes. -/
def shaperTick (x : Die) (n l q : Nat) (t : Int) : Int :=
  min (256 * regFld x (rSW_PORT l (0x24 + 8 * (q - 2))) 15 0 : Nat) (t + n * regFld x (rSW_PORT l (0x20 + 8 * (q - 2))) 15 0)

/-- R307: a policer's tokens after n times 20 ns. -/
def policerTick (x : Die) (n l c t : Nat) : Nat :=
  min (256 * regFld x (rSW_PORT l (0x94 + 8 * c)) 15 0) (t + n * regFld x (rSW_PORT l (0x90 + 8 * c)) 15 0)

/-- R494: whether an output has a packet that only credit holds back. -/
def creditHeldBack (s : State) (d l : Nat) : Bool :=
  let x := getDie s d
  let u := outOf x l
  let p := portOf x l
  let rest (e : Held) : Bool := shaperOk x l e.q
    && (decide (e.q < 2) || gateStays p.gate p.staged e.q 300 (timeNs s d) (wireNs (pktLen e.pkt) p.width))
    && (p.major != 1 || t1Room p.t1 (t1Parts e.pkt.hdr))
  portSends p && (heads u.q).any (fun e => rest e && (portCredit x l e).isNone) && !(heads u.q).any (eligible s d l)

/-- R495: the bandwidth window of a port in ns. -/
def windowNs (x : Die) (l : Nat) : Nat := 1000 * regFld x (rPMC_PWIN l) 19 0

/-- R495: m windows of a port end: TX and RX are latched, PEAK follows TX where TX exceeds it; of several, the later ones held nothing. -/
def endWindows (m : Nat) (p : PortPmc) : PortPmc :=
  if m = 0 then p
  else
    let t := tget p.win 0 0
    { p with tx := if m = 1 then t else 0, rx := if m = 1 then tget p.win 1 0 else 0, peak := max t p.peak, win := [] }

/-- A port of a die after n times 20 ns, 27 switch cycles each, in which the die's time counter has come from t0 to t1 ns. -/
def passPort (s : State) (d n t0 t1 l : Nat) (p : Port) : Port :=
  let x := getDie s d
  let w := windowNs x l
  let pmc := if creditHeldBack s d l then ppmcEvent p.pmc 0x06 (27 * n) none else p.pmc
  { p with
    shTok := foldUpto 14 p.shTok (fun t i => tset t (i + 2) (shaperTick x n l (i + 2) (shTokens x l (i + 2))))
    polTok := foldUpto 7 p.polTok (fun t c => tset t c (policerTick x n l c (polTokens x l c)))
    pmc := endWindows (t1 / w - t0 / w) pmc }

/-- R461, R490: the sixteenths of core cycles that 20 ns of 1.7 GHz deliver at the duty in force; none while the fast clocks are stopped
(Table 16-3). -/
def cyclesOf (s : State) (d : Nat) : Nat := if s.phase == .up then 34 * dieDuty s d else 0

/-- A die after n times 20 ns that bring its time counter to clk. -/
def passDie (s : State) (d n clk : Nat) (x : Die) : Die :=
  let c := x.cycles + n * cyclesOf s d
  { x with
    clock := clk
    cycles := c
    cores := x.cores.map (fun (i, k) => (i, coreTick x (underTest s d i) (c / 16 - x.cycles / 16) i k))
    ports := x.ports.map (fun (l, p) => (l, passPort s d n (x.clock >>> 32) (clk >>> 32) l p)) }

/-- R378: the time that passes until die d's counter reaches t ns, which the command reports that it has: every die's counter moves on by it, and
its clocks run (log entry 20). -/
def reachTime (s : State) (d t : Nat) : State :=
  let k := t * 2 ^ 32 - (getDie s d).clock
  let pass (x : Die) (e : Nat) : Die := passDie s e (k / (20 * 2 ^ 32)) ((x.clock + k) % 2 ^ 96) x
  { foldUpto (ndies s.variant) s (fun t e => setDie t e (pass (getDie s e) e)) with now := s.now + k / 2 ^ 32 }

end Sys2Proof.Machine
end

