-- ==== Sys2Proof/Machine/Knots.lean ====
section
/-! DEFINITION. File 13, R388 to R397, and file 05, R130 and R131: knots, the knot instructions, timed and fabric-wide barriers. -/

namespace Sys2Proof.Machine

/-! Time's validity (R380) and events (R404) -/

/-- R380: TIME_VALID. -/
def timeValid (s : State) : Bool :=
  (s.time.st == 2 || s.time.st == 3) && (regFld (getDie s 0) rTIME_CFG 1 0 != 2 || s.time.rootValid)

/-- R404, Table 13-7. -/
def timeEvent (s : State) (die sub d1 d2 : Nat) : State := postEvent s 0x11 die sub d1 d2 0

/-! Knots (R388, R389) -/

def knotKind (n : Knot) : Nat := fld n.cfg 1 0
def knotCount (n : Knot) : Nat := max 1 (fld n.cfg 14 2)
def knotHome (n : Knot) : Nat := fld n.fab 14 0
def knotNpkg (n : Knot) : Nat := fld n.fab 29 15 + 1

/-- The die on which a knot of die d acts: its own, or die 0 (R388, R406). -/
def knotDie (d k : Nat) : Nat := if k < 256 then d else 0

/-- R389: whether generation g has been released. -/
def knotReleased (n : Knot) (g : Nat) : Bool :=
  let r := (n.gen + 2 ^ 16 - g % 2 ^ 16) % 2 ^ 16
  decide (1 ≤ r) && decide (r ≤ 32767)

/-- Tables 13-3: the KWAIT result of a released generation. -/
def knotResult (n : Knot) (g : Nat) : Nat := tget n.results (g % 2 ^ 16) 0

/-- The cores that wait at a knot, with what they wait for. -/
def knotWaiters (s : State) (d k : Nat) : List (Nat × Nat × KnotWait) :=
  let ofDie (d : Nat) : List (Nat × Nat × KnotWait) :=
    (getDie s d).cores.filterMap (fun (c, q) =>
      match q.run with
      | some r => match r.wait with
        | some w => if w.knot = k then some (d, c, w) else none
        | none => none
      | none => none)
  if k < 256 then ofDie d else ((upto (ndies s.variant)).map ofDie).flatten

/-- R390, R393: every KWAIT whose generation has been released ends. -/
def wakeReleased (s : State) (d k : Nat) : State :=
  (knotWaiters s d k).foldl (fun s (d', c, w) =>
    let n := getKnot s d k
    if !w.take && knotReleased n w.gen then wake s d' c (knotResult n w.gen) else s) s

/-- R389: the current generation is released with a KWAIT result. -/
def releaseGen (s : State) (d k res : Nat) : State :=
  let n := getKnot s d k
  wakeReleased (setKnot s d k { n with
    gen := (n.gen + 1) % 2 ^ 16
    arrivals := n.arrivals - knotCount n
    armed := n.armed.drop 1
    results := if res = 0 then tdel n.results n.gen else tset n.results n.gen res }) d k

/-- R395: an untimed release. -/
def releaseUntimed (s : State) (d k : Nat) : State := releaseGen (bump s (knotDie d k) nKUNTIMED) d k 2

/-- R395: the release time that a decision at counter t gives. -/
def releaseTime (n : Knot) (t : Nat) : Nat :=
  let g := 2 ^ fld n.time 14 10
  cdiv (t + fld n.time 9 0 * 1000) g * g

/-- R389, R395: the generation that is decided next: those armed have been decided and wait for their times. -/
def knotNext (n : Knot) : Nat := (n.gen + n.armed.length) % 2 ^ 16

/-- R395: a decided release of a timed barrier reaches the package's waiters. Behind an armed release it waits for that one's, an untimed one (time
0) too: generations are released in order (log entry 76). -/
def armRelease (s : State) (d k t : Nat) (timed late : Bool) : State :=
  let n := getKnot s d k
  if !n.armed.isEmpty then setKnot s d k { n with armed := n.armed ++ [(knotNext n, if timed && timeValid s then t else 0)] }
  else if !timed || !timeValid s then releaseUntimed s d k
  else if late && decide (t < timeNs s (knotDie d k)) then
    let s1 := timeEvent (bump s (knotDie d k) nKLATE) (if k < 256 then d else 0xFF) 5 k n.gen
    releaseGen s1 d k 3
  else setKnot s d k { n with armed := [(n.gen, t)] }

/-! Fabric-wide knots (R394) -/

/-- The package that a chip number stands for: its coordinates; the own package's mark is 32,768. -/
def pkgKey (s : State) (who : Nat) : Nat :=
  if who = 32768 then 32768 else match chipEntry s who with
    | some w => fld w 14 0
    | none => 65536 + who

/-- R394: a RELEASE packet from the home die. -/
def sendRelease (s : State) (d k g t : Nat) (timed : Bool) (chip : Nat) : State :=
  sendSync s d kRELEASE chip 0 (k + g <<< 16 + b2n timed <<< 32 + (if timed then t else 0) <<< 64)

/-- R394: an ARRIVE packet from the lead die. -/
def sendArrive (s : State) (k : Nat) : State :=
  let n := getKnot s 0 k
  sendSync s s.lead kARRIVE (knotHome n) 0 (k + knotNext n <<< 16)

/-- R394: the home die counts a package's arrival of generation g. Answers the decided release (generation, T, TIMED), if this completes it. -/
def homeCount (s : State) (hd k g who : Nat) : Option (Nat × Nat × Bool) × State :=
  let n := getKnot s 0 k
  if g = n.hgen then
    let counted := if n.counted.any (fun c => pkgKey s c == pkgKey s who) then n.counted else sadd n.counted who
    if counted.length < knotNpkg n then (none, setKnot s 0 k { n with counted := counted })
    else
      let timed := knotKind n == 3 && timeValid s
      let t := if timed then releaseTime n (timeNs s hd) else 0
      let s1 := setKnot s 0 k { n with counted := [], hgen := (g + 1) % 2 ^ 16, lastOk := true, lastT := t, lastTimed := timed }
      (some (g, t, timed), (counted.filter (· != 32768)).foldl (fun s c => sendRelease s hd k g t timed c) s1)
  else if n.lastOk ∧ (g + 1) % 2 ^ 16 = n.hgen ∧ who ≠ 32768 then (none, sendRelease s hd k g n.lastT n.lastTimed who)
  else (none, s)

/-- R394, R395: RELEASE(g) reaches the package: only the generation that it has completed and waits for is released. -/
def applyRelease (s : State) (k g t : Nat) (timed late : Bool) : State :=
  let n := getKnot s 0 k
  let s1 := setKnot s 0 k { n with sentArrive := false }
  if g ≠ knotNext n ∨ !n.sentArrive then s
  else if knotKind n = 3 then armRelease s1 0 k t timed late
  else releaseGen s1 0 k 0

/-- R389, R394, R395: a knot's completed generations are decided in turn, each at its last arrival. -/
def settleKnot (d k : Nat) : Nat → State → State
  | 0, s => s
  | f + 1, s =>
    let n := getKnot s d k
    if (knotKind n ≠ 1 ∧ knotKind n ≠ 3) ∨ n.arrivals < (n.armed.length + 1) * knotCount n ∨ n.sentArrive then s
    else if 320 ≤ k then
      let s1 := setKnot s d k { n with sentArrive := true }
      match dieOfChip s (knotHome n) with
      | some hd =>
        match homeCount s1 hd k (knotNext n) 32768 with
        | (some (g, t, timed), s2) => settleKnot d k f (applyRelease s2 k g t timed false)
        | (none, s2) => s2
      | none => sendArrive s1 k
    else if knotKind n = 3 then
      settleKnot d k f (armRelease s d k (releaseTime n (timeNs s (knotDie d k))) true false)
    else settleKnot d k f (releaseGen s d k 0)

def settle (s : State) (d k : Nat) : State := settleKnot d k ((getKnot s d k).arrivals + 2) s

/-- R389: one arrival: the generation it arrives in. -/
def knotArrive (s : State) (d k : Nat) : Nat × State :=
  let n := getKnot s d k
  ((n.gen + n.arrivals / knotCount n) % 2 ^ 16, settle (setKnot s d k { n with arrivals := n.arrivals + 1 }) d k)

/-- R391: a signal reaches a semaphore. -/
def knotSignal (s : State) (d k amount : Nat) : State :=
  let n := getKnot s d k
  let s1 := if 2 ^ 32 ≤ n.count + amount then bump s (knotDie d k) nKSAT else s
  serveTakes (setKnot s1 d k { n with count := min (2 ^ 32 - 1) (n.count + amount) }) d k n.takes.length

/-- R392: a KSIG of a message or of an engine's KNOT action. -/
def signalFrom (s : State) (d k amount : Nat) : State :=
  if knotKind (getKnot s d k) = 2 ∧ k < 352 then knotSignal s d k amount else bump s (knotDie d k) nKBAD

/-! The knot instructions (R130, R131, R388, R389) -/

/-- The knot that an instruction names, where the job may use it and its kind suits. -/
def knotOk (s : State) (d : Nat) (r : Run) (k : Nat) (kinds : List Nat) : Bool :=
  decide (dKnotLo r.job ≤ k) && decide (k ≤ dKnotHi r.job) && decide (k < 352) && kinds.contains (knotKind (getKnot s d k))

/-- What a KARV or KSIG waits for: the unit instructions and DMA requests issued before it (R131). -/
def deferOf (s : State) (d c : Nat) (r : Run) (sig : Bool) (k reg amount : Nat) : Deferred :=
  { sig := sig, knot := k, reg := reg, amount := amount, needArr := r.arrIss, needVec := r.vecIss,
    needDma := (coreDmas (getDie s d) c).map (·.id) }

/-- R130, R131: KARV. -/
def execKarv (d c : Nat) (s : State) : Host.Outcome State Fault Refusal :=
  .next (issue 0x30 d c s (fun k r w =>
    let n := fld w 57 49
    if !knotOk s d r n [1, 3] then setCore s d c (setRun k (endRun r .badKnot))
    else
      let g := fld w 48 44
      setCore s d c (issued k (runNext { r with
        shared := true
        pend := if g = 0 then r.pend else sadd r.pend g
        defer := r.defer ++ [deferOf s d c r false n g 0] }))))

/-- R130, R131, R391: KSIG. -/
def execKsig (d c : Nat) (s : State) : Host.Outcome State Fault Refusal :=
  .next (issue 0x32 d c s (fun k r w =>
    let n := fld w 57 49
    let v := gnat k (fld w 48 44)
    if !knotOk s d r n [2] ∨ v = 0 ∨ 65535 < v then setCore s d c (setRun k (endRun r .badKnot))
    else
      setCore s d c (issued k (runNext { r with shared := true, defer := r.defer ++ [deferOf s d c r true n 0 v] }))))

/-- R130, R390: KWAIT: goes on at once where the generation has been released; else the core stalls at the knot. -/
def execKwait (d c : Nat) (s : State) : Host.Outcome State Fault Refusal :=
  .next (issue 0x31 d c s (fun k r w =>
    let n := fld w 57 49
    let kn := getKnot s d n
    let g := gnat k (fld w 48 44) % 2 ^ 16
    let rd := fld w 38 34
    if !knotOk s d r n [1, 3] then setCore s d c (setRun k (endRun r .badKnot))
    else if knotReleased kn g then setCore s d c (setReg (issued k (runNext r)) rd (BitVec.ofNat 64 (knotResult kn g)))
    else
      setCore s d c (issued k { r with
        wait := some { take := false, knot := n, gen := g, limited := gnat k (fld w 43 39) != 0, reg := rd } })))

/-- R130, R391: KTAKE: joins the semaphore's queue, whose head is served while the count reaches its amount. -/
def execKtake (d c : Nat) (s : State) : Host.Outcome State Fault Refusal :=
  .next (issue 0x33 d c s (fun k r w =>
    let n := fld w 57 49
    let v := gnat k (fld w 48 44)
    if !knotOk s d r n [2] ∨ v = 0 ∨ 65535 < v then setCore s d c (setRun k (endRun r .badKnot))
    else
      let s1 := setCore s d c (issued k { r with
        shared := true
        wait := some { take := true, knot := n, gen := v, limited := gnat k (fld w 43 39) != 0, reg := fld w 38 34 } })
      let kn := getKnot s1 d n
      serveTakes (setKnot s1 d n { kn with takes := kn.takes ++ [(d, c, v)] }) d n (kn.takes.length + 1)))

/-- Whether the writes that a KARV or KSIG waits for are complete. -/
def deferReady (s : State) (d c : Nat) (r : Run) (q : Deferred) : Bool :=
  arrWritten (getCore s d c) q.needArr && decide (q.needVec ≤ r.vecDone)
    && !(getDie s d).dmas.any (fun m => q.needDma.contains m.id)

/-- R131: the oldest KARV or KSIG of a core's job takes effect once the writes issued before it are complete. A knot that has changed its kind
since the issue ends the job with BAD_KNOT. -/
def arrivalTakesEffect (d c : Nat) (s : State) : State :=
  let k := getCore s d c
  if !dieUp s d then s else
  match k.run with
  | none => s
  | some r =>
    match r.defer with
    | [] => s
    | q :: rest =>
      if !deferReady s d c r q then s
      else
        let kind := knotKind (getKnot s d q.knot)
        let r1 := { r with defer := rest, pend := sdel r.pend q.reg }
        if q.sig then
          if kind ≠ 2 then setCore s d c (setRun k (endRun r1 .badKnot))
          else knotSignal (setCore s d c (setRun k r1)) d q.knot q.amount
        else if kind ≠ 1 ∧ kind ≠ 3 then setCore s d c (setRun k (endRun r1 .badKnot))
        else
          let s1 := setCore s d c (setRun k r1)
          let (g, _) := knotArrive s1 d q.knot
          (knotArrive (setCore s1 d c (setReg (setRun k r1) q.reg (BitVec.ofNat 64 g))) d q.knot).2

/-- R131: ARRIVAL_TAKES_EFFECT. -/
def execArrivalTakesEffect (d c : Nat) (s : State) : Host.Outcome State Fault Refusal := .next (arrivalTakesEffect d c s)

/-- R130, R391: a KWAIT or KTAKE that has a limit gives up: 1 is written, and a KTAKE leaves the queue. -/
def knotWaitTimeout (d c : Nat) (s : State) : State :=
  match (getCore s d c).run with
  | some r =>
    match r.wait with
    | some w =>
      if !w.limited || !dieUp s d then s
      else
        let s1 := wake s d c 1
        if w.take then dropTake s1 d c w.knot else s1
    | none => s
  | none => s

/-- R130: KNOT_WAIT_TIMEOUT. -/
def execKnotWaitTimeout (d c : Nat) (s : State) : Host.Outcome State Fault Refusal := .next (knotWaitTimeout d c s)

/-! Configuration (R388, R397) -/

/-- R388, R397, R406: a write of KNOT_CFG of knot k at die d. -/
def knotCfgWrite (d k : Nat) (v : Word32) (s : State) : State :=
  let kind := fld v 1 0
  if !regsUp s || !linkReaches s d || decide (352 ≤ k) || (decide (256 ≤ k) && d != 0) then s
  else if (fld v 14 2 = 0 ∧ kind ≠ 0) ∨ (320 ≤ k ∧ kind = 2) then s
  else
    let n := getKnot s d k
    let ws := knotWaiters s d k
    let s1 := setKnot s d k { knotReset with cfg := v &&& 0x7FFF, time := n.time, fab := n.fab }
    ws.foldl (fun s (d', c, _) => wake s d' c 1) s1

/-- R397: KNOT_CFG_WRITE. -/
def execKnotCfgWrite (d k : Nat) (v : Word32) (s : State) : Host.Outcome State Fault Refusal := .next (knotCfgWrite d k v s)

/-! Timed releases, ARRIVE and RELEASE (R394, R395) -/

/-- R395: the untimed releases that waited for an armed one. -/
def releaseBehind (d k : Nat) : Nat → State → State
  | 0, s => s
  | f + 1, s =>
    match (getKnot s d k).armed with
    | (_, 0) :: _ => releaseBehind d k f (releaseUntimed s d k)
    | _ => s

/-- R395: the counter reaches the armed release time of knot k (of die d, for a die knot). -/
def timedRelease (d k : Nat) (s : State) : State :=
  let n := getKnot s d k
  if s.phase != .up then s else
  match n.armed with
  | (_, t) :: l => settle (releaseBehind d k l.length (releaseGen (reachTime s (knotDie d k) t) d k 0)) d k
  | [] => s

/-- R395: TIMED_RELEASE. -/
def execTimedRelease (d k : Nat) (s : State) : Host.Outcome State Fault Refusal := .next (timedRelease d k s)

/-- R395: TIME_VALID has fallen to 0: every armed release is made at once, untimed. -/
def disarmAll (s : State) : State :=
  let one (s : State) (d k : Nat) : State :=
    if (getKnot s d k).armed.isEmpty then s
    else settle (foldUpto (getKnot s d k).armed.length s (fun s _ => releaseUntimed s d k)) d k
  let s1 := foldUpto (ndies s.variant) s (fun s d => ((getDie s d).knots.map (·.1)).foldl (fun s k => one s d k) s)
  (s1.pknots.map (·.1)).foldl (fun s k => one s 0 k) s1

/-- The oldest packet of a kind that waits at die d, no earlier packet of whose ordered channel waits before it (R252). -/
def takeKind (s : State) (d kind : Nat) : Option (Held × State) :=
  let x := getDie s d
  let blocked (i : Nat) (e : Held) : Bool :=
    hORD e.pkt.hdr && (x.inbox.take i).any (fun q => hORD q.pkt.hdr && hSRC q.pkt.hdr == hSRC e.pkt.hdr && hCHAN q.pkt.hdr == hCHAN e.pkt.hdr)
  if s.phase != .up || !dieLives s d then none
  else
    match x.inbox.zipIdx.find? (fun p => hKIND p.1.pkt.hdr == kind && !blocked p.2 p.1) with
    | none => none
    | some (e, i) => some (e, setDie s d { x with inbox := x.inbox.eraseIdx i })

/-- The step of the oldest packet of a kind at die d, the packet's buffer given back; a drain that waits sees it gone (R286). -/
def onKind (kind d : Nat) (s : State) (f : State → Held → State) : State :=
  match takeKind s d kind with
  | none => s
  | some (e, s1) => drainTick (dropHeld (f s1 e) d e)

/-- R394: an ARRIVE reaches die d: counted, answered or discarded by the home. -/
def arriveStep (s : State) (d : Nat) (h : Hdr) : State :=
  let k := fld h 143 128
  let g := fld h 159 144
  let n := getKnot s 0 k
  if k < 320 ∨ 352 ≤ k ∨ (knotKind n ≠ 1 ∧ knotKind n ≠ 3) ∨ chipOfDie s d ≠ some (knotHome n) then s
  else
    match homeCount s d k g (hSRC h) with
    | (some (g, t, timed), s1) => settle (applyRelease s1 k g t timed false) 0 k
    | (none, s1) => s1

/-- R394: ARRIVE. -/
def execArrive (d : Nat) (s : State) : Host.Outcome State Fault Refusal := .next (onKind kARRIVE d s (fun s e => arriveStep s d e.pkt.hdr))

/-- R395: a RELEASE reaches die d. -/
def releaseStep (s : State) (h : Hdr) : State :=
  let k := fld h 143 128
  if k < 320 ∨ 352 ≤ k then s else settle (applyRelease s k (fld h 159 144) (hADDR h) (bit h 160) true) 0 k

/-- R395: RELEASE. -/
def execRelease (d : Nat) (s : State) : Host.Outcome State Fault Refusal := .next (onKind kRELEASE d s (fun s e => releaseStep s e.pkt.hdr))

/-- R394: a package that has not received RELEASE repeats its ARRIVE. -/
def arriveRepeat (k : Nat) (s : State) : State :=
  let n := getKnot s 0 k
  if s.phase != .up || !n.sentArrive || decide (k < 320) || decide (352 ≤ k) || (dieOfChip s (knotHome n)).isSome then s
  else sendArrive s k

/-- R394: ARRIVE_REPEAT. -/
def execArriveRepeat (k : Nat) (s : State) : Host.Outcome State Fault Refusal := .next (arriveRepeat k s)

end Sys2Proof.Machine
end

