-- ==== Sys2Proof/Machine/Access.lean ====
section
/-! DEFINITION. The device's own accesses inside and outside the package (R149, R236, R237, R250, R514, R518): ranges as parts, reads
that go out as READ packets, writes that go out as WRITE or REPLY_WRITE packets, DMA requests (R174 to R176). -/

namespace Sys2Proof.Machine

/-! Ranges -/

/-- The first address past a at which the mapping of board and global addresses may change. -/
def mapEnd (s : State) (a : Nat) : Nat :=
  let region (o : Nat) : Nat :=
    if o < 0x8000000000 then (o / 0x1000000000 + 1) * 0x1000000000
    else if o < 0x8040000000 then 0x8000000000 + ((o - 0x8000000000) / 0x8000000 + 1) * 0x8000000
    else 2 ^ 48
  if 2 ^ 63 ≤ a then
    if (dieOfChip s (nbits a 62 48)).isSome then a - a % 2 ^ 48 + region (a % 2 ^ 48) else (a / 2 ^ 48 + 1) * 2 ^ 48
  else if a < 0x10000000000 then region a
  else
    let lim := match findWindow s a with
      | some w => w.base + w.size
      | none => a + 1
    s.tabs.wins.foldl (fun m w => if a < w.2.base ∧ w.2.base < m then w.2.base else m) lim

/-- The parts of a range of n bytes at address a, in order; what refuses it, otherwise. -/
def segsFrom (s : State) (acc : Acc) : Nat → Nat → Nat → Nat → Except Status (List Seg)
  | 0, _, _, n => if n = 0 then .ok [] else .error .badAddr
  | f + 1, a, off, n =>
    if n = 0 then .ok []
    else
      match addrPlace s a acc with
      | .error e => .error e
      | .ok p =>
        let m := min n (mapEnd s a - a)
        match segsFrom s acc f (a + m) (off + m) (n - m) with
        | .error e => .error e
        | .ok l => .ok ({ off := off, len := m, place := p } :: l)

def segs (s : State) (acc : Acc) (a n : Nat) : Except Status (List Seg) := segsFrom s acc 2100 a 0 n

/-- Whether every part is in the package. -/
def segsHere (l : List Seg) : Bool := l.all (fun g => (placeDie g.place).isSome)

/-- What refuses the parts of a range for a party at die d with a partition, if it has one. -/
def segsErr (s : State) (d : Nat) (part : Option Nat) (l : List Seg) : Option Status :=
  l.findSome? (fun g => placeErr s d part g.place g.len)

/-- The parts of a range cut to bytes lo up to hi of it. -/
def segsCut (l : List Seg) (lo hi : Nat) : List Seg :=
  l.filterMap (fun g =>
    let a := max lo g.off
    let b := min hi (g.off + g.len)
    if a < b then some { off := a, len := b - a, place := placeAdd g.place (a - g.off) } else none)

/-- Whether two ranges of places share a byte. -/
def placeOverlap (p : Place) (n : Nat) (q : Place) (m : Nat) : Bool :=
  let lap (a b : Nat) : Bool := decide (a < b + m) && decide (b < a + n) && decide (n ≠ 0) && decide (m ≠ 0)
  match p, q with
  | .scratch d c a, .scratch d' c' b => d == d' && c == c' && lap a b
  | .ground d a, .ground d' b => d == d' && lap a b
  | .stack d a, .stack d' b => d == d' && lap a b
  | .remote c a, .remote c' b => c == c' && lap a b
  | .board a, .board b => lap a b
  | _, _ => false

/-- R132, R154, R174: bytes written where a range that is read stands leave free values there. k draws them. -/
def blur (k : Nat) (p : Place) (bs : List Byte) (ins : List (Place × Nat)) : List Byte :=
  if ins.any (fun q => placeOverlap p bs.length q.1 q.2) then
    bs.zipIdx.map (fun (b, i) => if ins.any (fun q => placeOverlap (placeAdd p i) 1 q.1 q.2) then Config.overlapByte k i else b)
  else bs

/-! Packets of the device's own requests -/

/-- R518: the package-region address of a place of die d. -/
def placeAddr (d : Nat) (p : Place) : Option Nat :=
  match p with
  | .ground t o => if t = d then some (0x8000000000 + d * 0x8000000 + o) else none
  | .stack t o => if t = d then some (d * 0x1000000000 + o) else none
  | _ => none

/-- R518: the reply address of a read of die d: the DMA destination of its bytes, where that is memory of the die; else the base of its ground
memory (log entry 78). -/
def replyFor (s : State) (d : Nat) (what : ReqFor) : Nat :=
  let own : Option Nat := match what with
    | .dma id off len => ((getDie s d).dmas.find? (fun (q : DmaReq) => q.id == id)).bind (fun (q : DmaReq) =>
        match segsCut q.dst off (off + len) with
        | [g] => placeAddr d g.place
        | _ => none)
    | _ => none
  own.getD (replyBase d)

/-- R250, R518: die d issues a READ of at most 4,096 bytes once it has reserved space for the response; none where it finds none. The
reply address follows as the packet leaves. -/
def issueRead (s : State) (d req chip addr len : Nat) (what : ReqFor) : Option (Nat × State) :=
  match allocReq s.variant d (getDie s d) req (36 + bodyLen len) 1 with
  | none => none
  | some (b, x) =>
    let (tag, s1) := takeTag (setDie s d x) d
    let r : ReqOut := { chip := chip, tag := tag, kind := kREAD, addr := addr, what := what, buf := some b, reply := replyFor s d what }
    let s2 := updDie s1 d (fun x => { x with reqs := x.reqs ++ [r] })
    let p := ownPacket 0 kREAD tag 0 addr (toLe 8 0 ++ toLe 2 len ++ toLe 6 0)
    some (tag, send s2 d { pkt := p, dst := chip, req := req, owner := .request tag, sequenced := true })

/-- A list of bytes in pieces of n, with their offsets. -/
def pieces (n : Nat) (bs : List Byte) : List (Nat × List Byte) :=
  (upto (cdiv bs.length n)).map (fun i => (n * i, (bs.drop (n * i)).take n))

/-- Die d sends bytes to a chip, in packets of at most 4,096 bytes, each a message of its own: WRITE for a mover, REPLY_WRITE for an engine
(with the TAG of the ENGINE request, where it has one). -/
def issueWrites (s : State) (d req chip addr : Nat) (bs : List Byte) (kind : Nat) (tag : Option Nat) (owner : Owner) : State :=
  (pieces 4096 bs).foldl (fun s (o, b) =>
    let (t, s1) := match tag with
      | some t => (t, s)
      | none => takeTag s d
    send s1 d
      { pkt := ownPacket (if kind = kWRITE then 2 else 1) kind t 0 (addr + o) b, dst := chip, req := req, owner := owner,
        sequenced := true }) s

/-- The packets that issueWrites sends. -/
def writeCount (bs : List Byte) : Nat := cdiv bs.length 4096

/-! DMA requests (R174, R175, R176) -/

def getDma (s : State) (d id : Nat) : Option DmaReq := (getDie s d).dmas.find? (fun q => q.id == id)

def updDma (s : State) (d id : Nat) (f : DmaReq → DmaReq) : State :=
  updDie s d (fun x => { x with dmas := x.dmas.map (fun q => if q.id == id then f q else q) })

/-- The first fault a request meets is its status. -/
def dmaFail (q : DmaReq) (st : Status) : DmaReq := if q.status = .ok then { q with status := st } else q

/-- The next identifier of a die. -/
def takeId (s : State) (d : Nat) : Nat × State :=
  let x := getDie s d
  (x.nextId, setDie s d { x with nextId := x.nextId + 1 })

/-- The poisoned 8-byte words of a place, as runs of bytes (offset, length, poisoned). -/
def poisonRuns (s : State) (p : Place) (n : Nat) : List (Nat × Nat × Bool) :=
  match p with
  | .ground _ o | .stack _ o =>
    let first := 8 - o % 8
    let cuts := (0, min n first) :: (upto (cdiv (n - first) 8)).map (fun i => (first + 8 * i, min 8 (n - first - 8 * i)))
    if placePoisoned s p n then cuts.filterMap (fun (a, m) => if m = 0 then none else some (a, m, placePoisoned s (placeAdd p a) m))
    else [(0, n, false)]
  | _ => [(0, n, false)]

/-- R174: marks the destination words that poisoned source words reach; outside ground memory and stacks they are left unwritten. -/
def poisonPut (s : State) (p : Place) (n : Nat) : State :=
  match p with
  | .ground d o => updDie s d (fun x => { x with gnd := { x.gnd with
      pois := (upto (cdiv (o % 8 + n) 8)).foldl (fun t i => sadd t (o / 8 + i)) x.gnd.pois } })
  | .stack d o => updDie s d (fun x => { x with stk := { x.stk with
      pois := (upto (cdiv (o % 8 + n) 8)).foldl (fun t i => sadd t (o / 8 + i)) x.stk.pois } })
  | _ => s

/-- The inputs of a DMA request, for R132 and R175's overlap. -/
def dmaIns (q : DmaReq) : List (Place × Nat) := q.src.map (fun g => (g.place, g.len))

/-- R16: whether die d has a path now to where a place of the package, or the companion, is reached; a packet for elsewhere finds its own. -/
def pathTo (s : State) (d : Nat) (p : Place) : Bool :=
  match p with
  | .remote _ _ => true
  | .board _ => crosses s d (linkDie s)
  | p => match placeDie p with
    | some t => crosses s d t && dieServes s t
    | none => true

/-- R16: unit off of a request meets a place that its die cannot reach any more. -/
def dmaLost (s : State) (d : Nat) (q : DmaReq) (off : Nat) : State :=
  updDma s d q.id (fun q => { dmaFail q .dieUnreachable with lost := sadd q.lost off })

/-- R16: writes bytes of unit off of a request at a place: inside the package at once, to the companion by its link, elsewhere by packets that the
unit waits for. -/
def dmaPut (s : State) (d : Nat) (q : DmaReq) (off : Nat) (p : Place) (bs : List Byte) : State :=
  let (k, s0) := draw s
  if !pathTo s d p then dmaLost s d q off else
  let b := blur k p bs (dmaIns q)
  match p with
  | .remote chip a =>
    let s1 := updDma s0 d q.id (fun q => { q with busy := tset q.busy off (tget q.busy off 0 + writeCount b) })
    issueWrites s1 d 7 chip a b kWRITE none (.dma q.id off)
  | .board a => emit s0 (.store a b)
  | _ => placePut s0 p b

/-- R16, R142, R174: the bytes of one part of a unit whose source is in the package. -/
def dmaMove (s : State) (d : Nat) (q : DmaReq) (off : Nat) (src dst : Place) (n : Nat) : State :=
  if !pathTo s d src then dmaLost s d q off else
  (poisonRuns s src n).foldl (fun s (a, m, bad) =>
    let p := placeAdd dst a
    if bad then
      let s1 := updDma (placeTouch s (placeAdd src a) m) d q.id (fun q => dmaFail q .memUe)
      match p with
      | .ground _ _ | .stack _ _ => if !pathTo s1 d p then dmaLost s1 d q off else poisonPut (dmaPut s1 d q off p (placeBytes s1 (placeAdd src a) m)) p m
      | _ => s1
    else dmaPut (placeTouch s (placeAdd src a) m) d q off p (placeBytes s (placeAdd src a) m)) s

/-- The pairs of source and destination parts of bytes lo up to hi: offset, length, source, destination. -/
def dmaPairs (q : DmaReq) (lo hi : Nat) : List (Nat × Nat × Place × Place) :=
  ((segsCut q.src lo hi).map (fun g => (segsCut q.dst g.off (g.off + g.len)).map (fun h =>
    (h.off, h.len, placeAdd g.place (h.off - g.off), h.place)))).flatten

/-- Whether a part lies in another chip's memory. -/
def segFar (g : Seg) : Bool := match g.place with | .remote _ _ => true | _ => false

/-- R174: the bytes that a mover handles at once: 64 where packets carry them; a 4 KiB unit otherwise, whose parts nothing tells apart. -/
def dmaPiece (q : DmaReq) : Nat := if q.src.any segFar || q.dst.any segFar then 64 else 4096

/-- R176: where a request ends: an aborted one at the end of the 4 KiB unit that it has begun. -/
def dmaEnd (q : DmaReq) : Nat := if q.aborted then min q.len (4096 * cdiv q.next 4096) else q.len

/-- A unit that is begun whole and whose packets are all settled is complete, where none of them was given up or refused. -/
def dmaSettle (s : State) (d id off : Nat) : State :=
  match getDma s d id with
  | none => s
  | some q =>
    if tget q.busy off 0 = 0 ∧ min q.len (off + 4096) ≤ q.next then
      let n := if q.lost.contains off then q.units else q.units + 1
      let s1 := updDma s d id (fun q => { q with busy := tdel q.busy off, units := n })
      match q.owner with
      | .op i => setPos s1 i n
      | .core _ _ => s1
    else s

/-- Begins the next piece: reads of another chip go out as READs, the companion's bytes come from ext (or are free), everything else moves at
once. none where a READ finds no buffer space. -/
def dmaUnit (s : State) (d : Nat) (q : DmaReq) (ext : List Host.Cell) : Option State :=
  let off := q.next / 4096 * 4096
  let hi := min q.len (q.next + dmaPiece q)
  let r := (dmaPairs q q.next hi).foldl (fun (a : Option State) (o, n, src, dst) =>
    match a with
    | none => none
    | some s =>
      match src with
      | .remote chip ra =>
        match issueRead (updDma s d q.id (fun q => { q with busy := tset q.busy off (tget q.busy off 0 + 1) })) d 7 chip ra n (.dma q.id o n) with
        | none => none
        | some (_, s1) => some s1
      | .board ba =>
        let (k, s1) := draw s
        if !pathTo s d src then some (dmaLost s1 d q off) else
        some (dmaPut s1 d q off dst (cellsRead ext (Config.outsideByte k) ba n))
      | _ => some (dmaMove s d q off src dst n)) (some (updDma s d q.id (fun q => { q with next := hi })))
  r.map (fun s => dmaSettle s d q.id off)

/-- Whether the request's packets all wait for something else than this step: a packet of it is still at its point of emission. -/
def dmaHeldUp (s : State) (d id : Nat) : Bool :=
  (getDie s d).txq.any (fun i => match i.owner with
    | .dma j _ => j == id
    | .request t => (getDie s d).reqs.any (fun r => r.tag == t && (match r.what with | .dma j _ _ => j == id | _ => false))
    | _ => false)

/-- Whether the device can begin units of a request before its completion: its bytes leave or enter the package by packets. -/
def dmaOutside (q : DmaReq) : Bool :=
  let brd (g : Seg) : Bool := match g.place with | .board _ => true | _ => false
  (q.src.any segFar || q.dst.any segFar) && !q.src.any brd

/-- Begins pieces while packets go out. -/
def dmaAdvance (d id : Nat) (ext : List Host.Cell) : Nat → State → State
  | 0, s => s
  | f + 1, s =>
    match getDma s d id with
    | none => s
    | some q =>
      if dmaEnd q ≤ q.next ∨ dmaHeldUp s d id then s
      else
        match dmaUnit s d q ext with
        | none => s
        | some s1 => dmaAdvance d id ext f s1

def dmaFuel (q : DmaReq) : Nat := cdiv q.len (dmaPiece q) + 1

/-- Starts a DMA request at die d; what goes by packets begins at once. -/
def dmaStart (s : State) (d : Nat) (owner : DmaOwner) (src dst : List Seg) (len : Nat) : State :=
  let (id, s1) := takeId s d
  let q : DmaReq :=
    { id := id, owner := owner, src := src, dst := dst, len := len, next := 0, units := 0, busy := [], status := .ok,
      aborted := false, replayed := false }
  let s2 := updDie s1 d (fun x => { x with dmas := x.dmas ++ [q] })
  if dmaOutside q then dmaAdvance d id [] (dmaFuel q) s2 else s2

/-- R174, R176, R426: a request is over: the core's job goes on, or ends with the request's status; the descriptor's record is written. -/
def dmaDone (s : State) (d : Nat) (q : DmaReq) : State :=
  let s1 := updDie s d (fun x => { x with dmas := x.dmas.filter (fun p => p.id != q.id) })
  let st := q.status
  match q.owner with
  | .core c _ =>
    if st = .ok then s1
    else
      let s2 := updCore s1 d c (fun k => endJob k st)
      if st = .memUe then reportPoison s2 d else s2
  | .op i =>
    let s2 := if st = .memUe then reportPoison s1 d else s1
    completeId s2 i (if q.aborted then .aborted else st) q.units

/-- Whether nothing of a request is outstanding. -/
def dmaIdle (q : DmaReq) : Bool := q.busy.isEmpty

/-- R174: request id of die d: the units not begun are done (ext gives the companion's bytes), and with every write visible it completes. -/
def dmaComplete (d id : Nat) (ext : List Host.Cell) (s : State) : State :=
  if !dieUp s d then s else
  match getDma s d id with
  | none => s
  | some q =>
    if (getDie s d).moverFenced.length = 4 ∧ q.status = .ok then s else
    let s1 := dmaAdvance d id ext (dmaFuel q) s
    match getDma s1 d id with
    | none => s1
    | some q1 => if dmaEnd q1 ≤ q1.next ∧ dmaIdle q1 then dmaDone s1 d q1 else s1

/-- R174: DMA_REQUEST_COMPLETE. -/
def execDmaRequestComplete (d id : Nat) (ext : List Host.Cell) (s : State) : Host.Outcome State Fault Refusal :=
  .next (dmaComplete d id ext s)

/-! The core's DMA (R132) -/

/-- The parts of a core's DMA address: a core address within the core's map, or a board-form address bound by the job's partition. -/
def coreDmaSegs (s : State) (d c : Nat) (r : Run) (loc : Bool) (acc : Acc) (a n : Nat) : Except Status (List Seg) :=
  let x := getDie s d
  let gp := dGpart r.job
  if loc then
    match coreLoc x gp a n with
    | none => .error .badAddr
    | some (true, o) => .ok [{ off := 0, len := n, place := .scratch d c o }]
    | some (false, o) => .ok [{ off := 0, len := n, place := .ground d o }]
  else
    match segs s acc a n with
    | .error e => .error e
    | .ok l =>
      match segsErr s d (some gp) l with
      | some e => .error e
      | none => .ok l

/-- R132, Table 5-2: DMA stalls while 64 of the core's requests are outstanding; a length of 0 does nothing, one above 2^24 ends the job
with BAD_SLOT. -/
def execDma (d c : Nat) (s : State) : Host.Outcome State Fault Refusal :=
  .next (issue 0x38 d c s (fun k r w =>
    let n := gnat k (fld w 47 43)
    if 64 ≤ (coreDmas (getDie s d) c).length then s
    else if 2 ^ 24 < n then setCore s d c (setRun k (endRun r .badSlot))
    else if n = 0 then setCore s d c (issued k (runNext r))
    else
      match coreDmaSegs s d c r (bit w 38) .rd (gnat k (fld w 57 53)) n, coreDmaSegs s d c r (bit w 37) .wr (gnat k (fld w 52 48)) n with
      | .error e, _ => setCore s d c (setRun k (endRun r e))
      | _, .error e => setCore s d c (setRun k (endRun r e))
      | .ok src, .ok dst => dmaStart (setCore s d c (corePmcEvent (issued k (runNext r)) 0x0B n)) d (.core c (fld w 42 39)) src dst n))

/-- R132: DMAW stalls while a request of the core with the TAG is outstanding. -/
def execDmaw (d c : Nat) (s : State) : Host.Outcome State Fault Refusal :=
  .next (issue 0x39 d c s (fun k r w =>
    if dmawReady (getDie s d) c w then setCore s d c (issued k (runNext r)) else s))

/-- R133, R157: ENG copies the record at g[GA], with its ENGINE field, the job's GPART and g[GP] in it, and holds it as a post. -/
def execEng (d c : Nat) (s : State) : Host.Outcome State Fault Refusal :=
  .next (issue 0x3A d c s (fun k r w =>
    let a := gnat k (fld w 54 50)
    if 16 ≤ r.posts.length then setCore s d c (setRun k (endRun r .badInsn))
    else
      match aligned a 64 with
      | .error e => setCore s d c (setRun k (endRun r e))
      | .ok _ =>
        match seqRead s d k r a 64 with
        | .error e => endBy (seqSeen s d r a 64) d c (setRun k (endRun r e)) e
        | .ok (bs, s1) =>
          let e := fld w 57 55
          let body := BitVec.ofNat 8 e :: (bs.drop 1).take 1 ++ [BitVec.ofNat 8 (dGpart r.job)] ++ (bs.drop 3).take 53
            ++ toLe 8 (gnat k (fld w 49 45))
          setCore s1 d c (issued k (runNext { r with posts := r.posts ++ [(e, BitVec.ofNat 512 (leNat body))] }))))

end Sys2Proof.Machine
end

