-- ==== Sys2Proof/Machine/Identity.lean ====
section
/-! DEFINITION. File 17, R476: the identity keys and the UID that a seed gives. The standards that the rule names are not printed in the spec: their
constants and steps are PRESUMED (log entry 69). -/

namespace Sys2Proof.Machine

/-! HMAC-SHA-384 (FIPS 198-1) and HMAC_DRBG (SP 800-90A) -/

/-- HMAC-SHA-384 of a message under a key. -/
def hmac384 (key msg : List Byte) : List Byte :=
  let k := if 128 < key.length then sha384 key else key
  let pad (v : Byte) : List Byte := (k ++ List.replicate (128 - k.length) 0).map (· ^^^ v)
  sha384 (pad 0x5C ++ sha384 (pad 0x36 ++ msg))

/-- A short ASCII label. -/
def ascii (t : String) : List Byte := t.toList.map (fun c => BitVec.ofNat 8 c.toNat)

/-- An HMAC_DRBG's key and value. -/
structure Drbg where
  key : List Byte
  v : List Byte
  deriving DecidableEq, Repr

def drbgUpdate (g : Drbg) (data : List Byte) : Drbg :=
  let k1 := hmac384 g.key (g.v ++ [0x00] ++ data)
  let v1 := hmac384 k1 g.v
  if data.isEmpty then { key := k1, v := v1 }
  else
    let k2 := hmac384 k1 (v1 ++ [0x01] ++ data)
    { key := k2, v := hmac384 k2 v1 }

def drbgInit (seed : List Byte) : Drbg := drbgUpdate { key := List.replicate 48 0, v := List.replicate 48 1 } seed

/-- 192 bytes, the size of a prime, as a big-endian number. -/
def drbgDraw (g : Drbg) : Nat × Drbg :=
  let (v, bs) := foldUpto 4 (g.v, []) (fun (p : List Byte × List Byte) _ => let v := hmac384 g.key p.1; (v, p.2 ++ v))
  (leNat bs.reverse, drbgUpdate { g with v := v } [])

/-! RSA-3072 (FIPS 186-5, probable primes) -/

/-- b to the power e modulo n; e has at most f bits. -/
def powMod (n : Nat) : Nat → Nat → Nat → Nat → Nat
  | 0, _, _, r => r
  | f + 1, b, e, r => powMod n f (b * b % n) (e / 2) (if e % 2 = 1 then r * b % n else r)

/-- w − 1 as 2^a · m with m odd. -/
def oddPart : Nat → Nat → Nat → Nat × Nat
  | 0, a, m => (a, m)
  | f + 1, a, m => if m % 2 = 0 then oddPart f (a + 1) (m / 2) else (a, m)

/-- Whether z, squared up to a − 1 times, meets w − 1. -/
def meetsMinus (w : Nat) : Nat → Nat → Bool
  | 0, _ => false
  | a + 1, z => z == w - 1 || meetsMinus w a (z * z % w)

/-- One Miller and Rabin test of w to base b. -/
def millerRabin (w b : Nat) : Bool :=
  let (a, m) := oddPart 1536 0 (w - 1)
  let z := powMod w 1536 (b % w) m 1
  z == 1 || meetsMinus w a z

/-- A base from the generator: above 1 and below w − 1. -/
def drawBase (w : Nat) : Nat → Drbg → Nat × Drbg
  | 0, g => (2, g)
  | f + 1, g => let (b, g1) := drbgDraw g; if b ≤ 1 ∨ w - 1 ≤ b then drawBase w f g1 else (b, g1)

def testsPass (w : Nat) : Nat → Drbg → Bool × Drbg
  | 0, g => (true, g)
  | k + 1, g => let (b, g1) := drawBase w 65536 g; if millerRabin w b then testsPass w k g1 else (false, g1)

/-- The first candidate that is odd, at least the square root of 2 times 2^1535, far enough from p, coprime in its predecessor to 65,537 and probably
prime. How many tests show that is the implementation's choice. -/
def nextPrime (p : Nat) : Nat → Drbg → Nat × Drbg
  | 0, g => (0, g)
  | f + 1, g =>
    let (c, g1) := drbgDraw g
    let c := c ||| 1
    if c * c < 2 ^ 3071 ∨ (p ≠ 0 ∧ (c - p) + (p - c) ≤ 2 ^ 1436) ∨ Nat.gcd (c - 1) 65537 ≠ 1 then nextPrime p f g1
    else
      let (ok, g2) := testsPass c (Config.primeTests + 1) g1
      if ok then (c, g2) else nextPrime p f g2

/-- The two primes that a seed gives. -/
def rsaPrimes (seed : List Byte) : Nat × Nat :=
  let (p, g) := nextPrime 0 65536 (drbgInit (hmac384 seed (ascii "RSA")))
  (p, (nextPrime p 65536 g).1)

/-- The modulus that a seed gives. -/
def rsaModulus (seed : List Byte) : Nat := (rsaPrimes seed).1 * (rsaPrimes seed).2

/-- The private exponent: the inverse of 65,537, which is prime, modulo the least common multiple of p − 1 and q − 1. -/
def rsaPrivate (pq : Nat × Nat) : Nat :=
  let l := Nat.lcm (pq.1 - 1) (pq.2 - 1)
  let k := (65537 - powMod 65537 17 (l % 65537) 65535 1) % 65537
  (1 + k * l) / 65537

/-! SLH-DSA-SHA2-192s key generation (FIPS 205) -/

/-- The initial hash value of SHA-512; its upper halves are SHA-256's. -/
def shaH512 : List Nat :=
  [0x6A09E667F3BCC908, 0xBB67AE8584CAA73B, 0x3C6EF372FE94F82B, 0xA54FF53A5F1D36F1,
   0x510E527FADE682D1, 0x9B05688C2B3E6C1F, 0x1F83D9ABFB41BD6B, 0x5BE0CD19137E2179]

def sha512 (bs : List Byte) : List Byte :=
  let n := bs.length
  let blocks := (n + 17 + 127) / 128
  let padded := bs ++ [0x80] ++ List.replicate (128 * blocks - n - 17) 0 ++ toBe 16 (8 * n)
  ((shaBlocks blocks shaH512 padded).map (toBe 8)).flatten

def ror32 (x n : Nat) : Nat := x >>> n ||| (x <<< (32 - n)) % 2 ^ 32

def sha256Sched : Nat → List Nat → List Nat
  | 0, w => w
  | f + 1, w =>
    let a := nth w 14 0
    let b := nth w 1 0
    let s0 := ror32 a 7 ^^^ ror32 a 18 ^^^ a >>> 3
    let s1 := ror32 b 17 ^^^ ror32 b 19 ^^^ b >>> 10
    sha256Sched f ((nth w 15 0 + s0 + nth w 6 0 + s1) % 2 ^ 32 :: w)

def sha256Round (v : List Nat) (kw : Nat) : List Nat :=
  match v with
  | [a, b, c, d, e, f, g, h] =>
    let t1 := h + (ror32 e 6 ^^^ ror32 e 11 ^^^ ror32 e 25) + ((e &&& f) ^^^ ((2 ^ 32 - 1 - e) &&& g)) + kw
    let t2 := (ror32 a 2 ^^^ ror32 a 13 ^^^ ror32 a 22) + ((a &&& b) ^^^ (a &&& c) ^^^ (b &&& c))
    [(t1 + t2) % 2 ^ 32, a, b, c, (d + t1) % 2 ^ 32, e, f, g]
  | _ => v

def sha256Block (h : List Nat) (bs : List Byte) : List Nat :=
  let w := (sha256Sched 48 ((upto 16).map (fun i => leNat ((bs.drop (4 * i)).take 4).reverse)).reverse).reverse
  let v := ((shaK.take 64).zip w).foldl (fun v p => sha256Round v (p.1 / 2 ^ 32 + p.2)) h
  (h.zip v).map (fun p => (p.1 + p.2) % 2 ^ 32)

def sha256Blocks : Nat → List Nat → List Byte → List Nat
  | 0, h, _ => h
  | n + 1, h, bs => sha256Blocks n (sha256Block h (bs.take 64)) (bs.drop 64)

def sha256 (bs : List Byte) : List Byte :=
  let n := bs.length
  let blocks := (n + 9 + 63) / 64
  let padded := bs ++ [0x80] ++ List.replicate (64 * blocks - n - 9) 0 ++ toBe 8 (8 * n)
  ((sha256Blocks blocks (shaH512.map (· / 2 ^ 32)) padded).map (toBe 4)).flatten

/-- A compressed address: layer and tree, its type and its three last words. -/
def slhAdrs (lt : Nat × Nat) (type a b c : Nat) : List Byte := toBe 1 lt.1 ++ toBe 8 lt.2 ++ toBe 1 type ++ toBe 4 a ++ toBe 4 b ++ toBe 4 c

/-- PRF and F of category 3: SHA-256; H and the longer hashes: SHA-512. -/
def slhF (pk adrs m : List Byte) : List Byte := (sha256 (pk ++ List.replicate 40 0 ++ adrs ++ m)).take 24
def slhH (pk adrs m : List Byte) : List Byte := (sha512 (pk ++ List.replicate 104 0 ++ adrs ++ m)).take 24

/-- n steps of chain c of leaf i, from step j. -/
def slhChain (lt : Nat × Nat) (pk : List Byte) (i c j n : Nat) (x : List Byte) : List Byte :=
  foldUpto n x (fun m k => slhF pk (slhAdrs lt 0 i c (j + k)) m)

/-- The secret of chain c of leaf i. -/
def slhSecret (lt : Nat × Nat) (sk pk : List Byte) (i c : Nat) : List Byte := slhF pk (slhAdrs lt 5 i c 0) sk

/-- The public key of leaf i: 51 chains of 15 steps from secrets that SK.seed gives. -/
def slhLeaf (lt : Nat × Nat) (sk pk : List Byte) (i : Nat) : List Byte :=
  slhH pk (slhAdrs lt 1 i 0 0) ((upto 51).map (fun c => slhChain lt pk i c 0 15 (slhSecret lt sk pk i c))).flatten

/-- Node i at height z of a tree. -/
def slhNode (lt : Nat × Nat) (sk pk : List Byte) : Nat → Nat → List Byte
  | 0, i => slhLeaf lt sk pk i
  | z + 1, i => slhH pk (slhAdrs lt 2 0 (z + 1) i) (slhNode lt sk pk z (2 * i) ++ slhNode lt sk pk z (2 * i + 1))

/-- R476: SK.seed, SK.prf and PK.seed, from the first 72 bytes that the labels give. -/
structure SlhSeeds where
  sk : List Byte
  prf : List Byte
  pk : List Byte
  deriving DecidableEq, Repr

def slhSeeds (seed : List Byte) : SlhSeeds :=
  let k := hmac384 seed (ascii "SLH1") ++ hmac384 seed (ascii "SLH2")
  { sk := k.take 24, prf := (k.drop 24).take 24, pk := (k.drop 48).take 24 }

/-- The public key, PK.seed and PK.root, that a seed gives. -/
def slhPublic (seed : List Byte) : List Byte :=
  let k := slhSeeds seed
  k.pk ++ slhNode (6, 0) k.sk k.pk 9 0

/-- R476: the UID of a package whose 48-byte seed is the number given (its first byte least significant). -/
@[irreducible] def uidOf (seed : Nat) : Nat :=
  let bs := toLe 48 seed
  leNat ((sha384 (toBe 384 (rsaModulus bs) ++ slhPublic bs)).take 8)

end Sys2Proof.Machine
end

