-- ==== Sys2Proof/Machine/Sign.lean ====
section
/-! DEFINITION. File 17: the two signature schemes that R472 and R478 name: RSASSA-PSS with SHA-384 (RFC 8017) and SLH-DSA-SHA2-192s (FIPS 205), both
to verify an image and to sign a report. The standards are not printed in the spec: their constants and steps are PRESUMED (log entry 69). -/

namespace Sys2Proof.Machine

/-! RSASSA-PSS: SHA-384, MGF1 with SHA-384, a 48-byte salt -/

/-- A big-endian number. -/
def beNat (bs : List Byte) : Nat := leNat bs.reverse

/-- n bytes of MGF1 over a hash of h bytes. -/
def mgf1 (hash : List Byte → List Byte) (h : Nat) (seed : List Byte) (n : Nat) : List Byte :=
  ((upto ((n + h - 1) / h)).map (fun i => hash (seed ++ toBe 4 i))).flatten.take n

/-- The bytes of two lists, exclusive or. -/
def xorBytes (a b : List Byte) : List Byte := a.zipWith (· ^^^ ·) b

/-- The hash of an encoded message: of eight zeros, the message's hash and the salt. -/
def pssHash (m salt : List Byte) : List Byte := sha384 (List.replicate 8 0 ++ sha384 m ++ salt)

/-- The 384 bytes that encode a message for a modulus of 3,072 bits. -/
def pssEncode (m salt : List Byte) : List Byte :=
  let h := pssHash m salt
  let db := List.replicate 286 0 ++ [0x01] ++ salt
  match xorBytes db (mgf1 sha384 48 h 335) with
  | b :: rest => (b &&& 0x7F) :: rest ++ h ++ [0xBC]
  | [] => []

/-- Whether 384 bytes encode a message. -/
def pssChecks (m em : List Byte) : Bool :=
  let h := (em.drop 335).take 48
  match xorBytes (em.take 335) (mgf1 sha384 48 h 335) with
  | b :: rest =>
    let db := (b &&& 0x7F) :: rest
    (em.headD 0).getLsbD 7 == false && em.drop 383 == [0xBC] && db.take 287 == List.replicate 286 0 ++ [0x01] && pssHash m (db.drop 287) == h
  | [] => false

/-- R472 step 3: whether a signature of a message verifies under a modulus, the exponent being 65,537. -/
def pssVerify (n : Nat) (m sig : List Byte) : Bool :=
  let v := beNat sig
  decide (v < n) && pssChecks m (toBe 384 (powMod n 17 v 65537 1))

def pssSign (pq : Nat × Nat) (m salt : List Byte) : List Byte :=
  let n := pq.1 * pq.2
  toBe 384 (powMod n 3072 (beNat (pssEncode m salt) % n) (rsaPrivate pq) 1)

/-! SLH-DSA-SHA2-192s: 24-byte hashes, 7 layers of height 9, 17 trees of height 14 below them, Winternitz digits of 4 bits -/

def hmac512 (key msg : List Byte) : List Byte :=
  let pad (v : Byte) : List Byte := (key ++ List.replicate (128 - key.length) 0).map (· ^^^ v)
  sha512 (pad 0x5C ++ sha512 (pad 0x36 ++ msg))

/-- The 48 digits of a hash and the 3 of its checksum. -/
def slhDigits (m : List Byte) : List Nat :=
  let ds := (m.map (fun b => [b.toNat / 16, b.toNat % 16])).flatten
  let c := ds.foldl (fun n d => n + (15 - d)) 0
  ds ++ [c / 256 % 16, c / 16 % 16, c % 16]

/-- A one-time signature of a hash by leaf i, and the leaf's public key that a signature of a hash gives. -/
def wotsSign (lt : Nat × Nat) (sk pk : List Byte) (i : Nat) (m : List Byte) : List Byte :=
  ((slhDigits m).zipIdx.map (fun (d, c) => slhChain lt pk i c 0 d (slhSecret lt sk pk i c))).flatten

def wotsPublic (lt : Nat × Nat) (pk : List Byte) (i : Nat) (m sig : List Byte) : List Byte :=
  slhH pk (slhAdrs lt 1 i 0 0) ((slhDigits m).zipIdx.map (fun (d, c) => slhChain lt pk i c d (15 - d) ((sig.drop (24 * c)).take 24))).flatten

/-- The root that a node of index i at height 0 gives with its authentication path: z counts the heights already climbed. -/
def climb (hash : Nat → Nat → List Byte → List Byte) (i : Nat) : Nat → Nat → List Byte → List Byte → List Byte
  | 0, _, _, x => x
  | f + 1, z, path, x =>
    let p := path.take 24
    climb hash i f (z + 1) (path.drop 24) (hash (z + 1) (i / 2 ^ (z + 1)) (if i / 2 ^ z % 2 = 0 then x ++ p else p ++ x))

def treeHash (lt : Nat × Nat) (pk : List Byte) (z i : Nat) (m : List Byte) : List Byte := slhH pk (slhAdrs lt 2 0 z i) m

/-- A tree's signature of a hash by leaf i: the one-time signature and the path. -/
def xmssSign (lt : Nat × Nat) (sk pk : List Byte) (i : Nat) (m : List Byte) : List Byte :=
  wotsSign lt sk pk i m ++ ((upto 9).map (fun z => slhNode lt sk pk z (i / 2 ^ z ^^^ 1))).flatten

def xmssRoot (lt : Nat × Nat) (pk : List Byte) (i : Nat) (m sig : List Byte) : List Byte :=
  climb (treeHash lt pk) i 9 0 (sig.drop 1224) (wotsPublic lt pk i m (sig.take 1224))

/-- The layers' signatures, from layer l with n left, of a hash by leaf i of a tree. -/
def htSign (sk pk : List Byte) : Nat → Nat → Nat → Nat → List Byte → List Byte
  | 0, _, _, _, _ => []
  | n + 1, l, tree, i, m => xmssSign (l, tree) sk pk i m ++ htSign sk pk n (l + 1) (tree / 512) (tree % 512) (slhNode (l, tree) sk pk 9 0)

def htRoot (pk : List Byte) : Nat → Nat → Nat → Nat → List Byte → List Byte → List Byte
  | 0, _, _, _, m, _ => m
  | n + 1, l, tree, i, m, sig => htRoot pk n (l + 1) (tree / 512) (tree % 512) (xmssRoot (l, tree) pk i m (sig.take 1440)) (sig.drop 1440)

/-- Node i at height z of the few-time trees of a leaf, numbered through the 17 trees. -/
def forsNode (lt : Nat × Nat) (sk pk : List Byte) (leaf : Nat) : Nat → Nat → List Byte
  | 0, i => slhF pk (slhAdrs lt 3 leaf 0 i) (slhF pk (slhAdrs lt 6 leaf 0 i) sk)
  | z + 1, i => slhH pk (slhAdrs lt 3 leaf (z + 1) i) (forsNode lt sk pk leaf z (2 * i) ++ forsNode lt sk pk leaf z (2 * i + 1))

/-- The leaf that a message's 30 bytes choose in each of the 17 trees, numbered through them. -/
def forsLeaf (md : List Byte) (t : Nat) : Nat := t * 2 ^ 14 + beNat md / 2 ^ (240 - 14 * (t + 1)) % 2 ^ 14

def forsSign (lt : Nat × Nat) (sk pk : List Byte) (leaf : Nat) (md : List Byte) : List Byte :=
  ((upto 17).map (fun t =>
    let i := forsLeaf md t
    slhF pk (slhAdrs lt 6 leaf 0 i) sk ++ ((upto 14).map (fun z => forsNode lt sk pk leaf z (i / 2 ^ z ^^^ 1))).flatten)).flatten

/-- The few-time public key that a signature gives. -/
def forsRoot (lt : Nat × Nat) (pk : List Byte) (leaf : Nat) (md sig : List Byte) : List Byte :=
  slhH pk (slhAdrs lt 4 leaf 0 0) ((upto 17).map (fun t =>
    let g := (sig.drop (360 * t)).take 360
    let i := forsLeaf md t
    climb (fun z j m => slhH pk (slhAdrs lt 3 leaf z j) m) i 14 0 (g.drop 24) (slhF pk (slhAdrs lt 3 leaf 0 i) (g.take 24)))).flatten

/-- What a randomizer and a message choose: the 30 bytes, the tree and its leaf. -/
def slhChoose (r key m : List Byte) : List Byte × Nat × Nat :=
  let dg := mgf1 sha512 64 (r ++ key.take 24 ++ sha512 (r ++ key ++ m)) 39
  (dg.take 30, beNat ((dg.drop 30).take 7) % 2 ^ 54, beNat (dg.drop 37) % 2 ^ 9)

/-- Pure signing with an empty context: two zero bytes go before the message. -/
def slhPure (m : List Byte) : List Byte := [0x00, 0x00] ++ m

/-- R472 step 4: whether a signature of a message verifies under a key. -/
def slhVerify (key m sig : List Byte) : Bool :=
  let pk := key.take 24
  let (md, tree, leaf) := slhChoose (sig.take 24) key (slhPure m)
  let fk := forsRoot (0, tree) pk leaf md ((sig.drop 24).take 6120)
  sig.length == 16224 && htRoot pk 7 0 tree leaf fk (sig.drop 6144) == key.drop 24

/-- A signature of a message; rnd is its randomness. -/
def slhSign (k : SlhSeeds) (m rnd : List Byte) : List Byte :=
  let root := slhNode (6, 0) k.sk k.pk 9 0
  let r := (hmac512 k.prf (rnd ++ slhPure m)).take 24
  let (md, tree, leaf) := slhChoose r (k.pk ++ root) (slhPure m)
  let fs := forsSign (0, tree) k.sk k.pk leaf md
  r ++ fs ++ htSign k.sk k.pk 7 0 tree leaf (forsRoot (0, tree) k.pk leaf md fs)

/-! Images and reports -/

/-- R472: whether an image's keys and signatures pass steps 2 to 4 (Table 17-2). -/
@[irreducible] def imageSigned (bs : List Byte) : Bool :=
  let f (o n : Nat) : List Byte := (bs.drop o).take n
  let m := bs.take 256
  sha384 (f 256 384) == Config.rsaRoot && sha384 (f 640 48) == Config.slhRoot
    && pssVerify (beNat (f 256 384)) m (f 704 384) && slhVerify (f 640 48) m (f 1088 16224)

/-- R478: the two signatures of a report's first 256 bytes by the identity keys of a seed. -/
@[irreducible] def reportSigs (seed : Nat) (head salt rnd : List Byte) : List Byte :=
  let bs := toLe 48 seed
  pssSign (rsaPrimes bs) head salt ++ slhSign (slhSeeds bs) head rnd

end Sys2Proof.Machine
end

