-- ==== Sys2Proof/Machine/Codeword.lean ====
section
/-! DEFINITION. File 11: the RS(544,514) codeword (R321), its control words (R322), the PAM4 mapping (R317, R318) and the PRBS sequences (R343). -/

namespace Sys2Proof.Machine

/-! GF(2^10): IEEE 802.3 Clause 91, which R321 names and the spec does not print: PRESUMED (log entry 60). -/

/-- A product in GF(2^10) modulo x^10 + x^3 + 1. -/
def gfMul (a b : Nat) : Nat :=
  foldUpto 10 0 (fun r i =>
    let r2 := if 512 ≤ r then (2 * r) ^^^ 0x409 else 2 * r
    if b.testBit (9 - i) then r2 ^^^ a else r2)

/-- a to the power n. -/
def gfPow (a n : Nat) : Nat := foldUpto n 1 (fun r _ => gfMul r a)

/-- The inverse of a non-zero element: its power 2^10 − 2, from the powers 2, 4, …, 512. -/
def gfInv (a : Nat) : Nat :=
  (foldUpto 9 (a, 1) (fun (p : Nat × Nat) _ => let q := gfMul p.1 p.1; (q, gfMul p.2 q))).2

/-- A polynomial, its constant term first, at a point. -/
def gfEval (p : List Nat) (x : Nat) : Nat := p.foldr (fun c r => gfMul r x ^^^ c) 0

/-- p + k · x^m · q. -/
def gfAddMul (p : List Nat) (k m : Nat) (q : List Nat) : List Nat :=
  let r := List.replicate m 0 ++ q.map (gfMul k)
  (upto (max p.length r.length)).map (fun i => p.getD i 0 ^^^ r.getD i 0)

/-! RS(544,514): generator with the roots α^0 to α^29; the first symbol sent has the highest power. -/

/-- The 30 syndromes of a codeword's symbols in the order sent. -/
def rsSyndromes (c : List Nat) : List Nat :=
  (foldUpto 30 ([], 1) (fun (p : List Nat × Nat) _ => (p.1 ++ [c.foldl (fun r v => gfMul r p.2 ^^^ v) 0], gfMul p.2 2))).1

/-- Berlekamp and Massey's recursion: the shortest error locator of some syndromes, and its length. -/
structure RsLoc where
  c : List Nat
  b : List Nat
  len : Nat
  m : Nat
  last : Nat
  deriving DecidableEq, Repr

def rsLocStep (syn : List Nat) (u : RsLoc) (n : Nat) : RsLoc :=
  let e := foldUpto (u.len + 1) 0 (fun r i => r ^^^ gfMul (u.c.getD i 0) (syn.getD (n - i) 0))
  if e = 0 then { u with m := u.m + 1 }
  else
    let c := gfAddMul u.c (gfMul e (gfInv u.last)) u.m u.b
    if 2 * u.len ≤ n then { c := c, b := u.c, len := n + 1 - u.len, m := 1, last := e } else { u with c := c, m := u.m + 1 }

def rsLocator (syn : List Nat) : RsLoc := foldUpto 30 { c := [1], b := [1], len := 0, m := 1, last := 1 } (rsLocStep syn)

/-- Forney's value of the error whose locator has the inverse xi, for a locator polynomial and the syndromes. -/
def rsValue (loc syn : List Nat) (xi : Nat) : Nat :=
  let omega := (upto 30).map (fun n => foldUpto (n + 1) 0 (fun r i => r ^^^ gfMul (loc.getD i 0) (syn.getD (n - i) 0)))
  let deriv := (upto loc.length).map (fun i => if i % 2 = 0 then loc.getD (i + 1) 0 else 0)
  gfMul (gfInv xi) (gfMul (gfEval omega xi) (gfInv (gfEval deriv xi)))

/-- The symbols with their errors taken out; xi is the inverse locator of the first. -/
def rsFix (loc syn : List Nat) : List Nat → Nat → List Nat
  | [], _ => []
  | v :: c, xi => (if gfEval loc xi = 0 then v ^^^ rsValue loc syn xi else v) :: rsFix loc syn c (gfMul xi 2)

/-- R321, R322: the codeword as sent and the symbols corrected; none where it cannot be corrected (more than 15 symbols). -/
def rsDecode (c : List Nat) : Option (List Nat × Nat) :=
  let syn := rsSyndromes c
  if syn.all (· == 0) then some (c, 0)
  else
    let loc := rsLocator syn
    let fixed := rsFix loc.c syn c (gfPow 2 480)
    let n := ((fixed.zip c).filter (fun p => p.1 != p.2)).length
    if loc.len ≤ 15 ∧ n = loc.len ∧ (rsSyndromes fixed).all (· == 0) then some (fixed, n) else none

/-! The message (R321, R322). Bit n of a codeword is the n-th bit sent; a symbol's first bit is its least significant (log entry 60). -/

def cwSymbols (cw : BitVec 5440) : List Nat := (upto 544).map (fun k => fld cw (10 * k + 9) (10 * k))

/-- The n bits sent from bit o of a message, most significant first. -/
def sentBits (m o n : Nat) : Nat := foldUpto n 0 (fun r i => 2 * r + b2n (m.testBit (o + i)))

/-- A codeword's contents: its 7 control words and its 625 data bytes. -/
structure Codeword where
  ctl : List Nat
  bytes : List Byte
  deriving DecidableEq, Repr

/-- R321: the contents of a codeword's symbols. -/
def cwParts (c : List Nat) : Codeword :=
  let m := (c.take 514).foldr (fun v r => r <<< 10 + v) 0
  { ctl := (upto 7).map (fun k => sentBits m (20 * k) 20), bytes := (upto 625).map (fun k => BitVec.ofNat 8 (sentBits m (140 + 8 * k) 8)) }

/-! Control words (Table 11-3) -/

def cwType (w : Nat) : Nat := nbits w 2 0

/-- R322: the MARK of slot 0. -/
def cwMark (c : Codeword) : Option Nat := let w := c.ctl.getD 0 0; if cwType w = 1 then some (nbits w 19 3) else none

/-- R322: the FIRST of slot 1; none where no packet starts. -/
def cwFirst (c : Codeword) : Option Nat :=
  let w := c.ctl.getD 1 0
  if cwType w = 5 ∧ nbits w 19 3 ≠ 0x1FFFF then some (nbits w 19 3) else none

/-! Symbols and test sequences (R317, R318, R343) -/

/-- Table 11-1: the Gray value of a pair of bits, and the pair of a Gray value. -/
def grayOf (b1 b0 : Bool) : Nat := if b1 then (if b0 then 2 else 3) else (if b0 then 1 else 0)
def grayBits (g : Nat) : List Bool := [decide (2 ≤ g % 4), g % 4 == 1 || g % 4 == 2]

/-- R318: the level sent for Gray value g after level p. -/
def levelOf (pre : Bool) (p g : Nat) : Nat := if pre then (g + 4 - p % 4) % 4 else g

/-- R318: the Gray value of level v after level p. -/
def levelGray (pre : Bool) (p v : Nat) : Nat := if pre then (v + p) % 4 else v % 4

/-- Table 11-12: the next bit of a sequence whose last bits are r (bit 0 the latest). -/
def prbsBit (code r : Nat) : Bool :=
  match code with
  | 0 => r.testBit 6 != r.testBit 5
  | 1 => (r.testBit 12 != r.testBit 11) != (r.testBit 1 != r.testBit 0)
  | _ => r.testBit 30 != r.testBit 27

/-- A register of the last 31 bits takes one more. -/
def prbsShift (r : Nat) (b : Bool) : Nat := (2 * r + b2n b) % 2 ^ 31

/-- R343: the degree of a sequence: the bits that seed its checker. -/
def prbsLen (code : Nat) : Nat :=
  match code with
  | 0 => 7
  | 1 => 13
  | _ => 31

/-- R343: the generator's next level, and the generator after it. -/
def prbsLevel (code : Nat) (pre : Bool) (t : Prbs) : Nat × Prbs :=
  let b1 := prbsBit code t.gen
  let r := prbsShift t.gen b1
  let b0 := prbsBit code r
  let v := levelOf pre t.genP (grayOf b1 b0)
  (v, { t with gen := prbsShift r b0, genP := v })

/-- The next n levels of a generator. -/
def prbsLevels (code : Nat) (pre : Bool) : Nat → Prbs → List Nat
  | 0, _ => []
  | n + 1, t => let (v, u) := prbsLevel code pre t; v :: prbsLevels code pre n u

/-- R329: the 8,192 symbols of a training frame of transmitter lane t: marker, control field c, PRBS13 from the lane's seed; no precoding. -/
def trainLevels (c t : Nat) : List Nat :=
  List.replicate 16 3 ++ List.replicate 16 0 ++ (upto 64).map (fun k => if c.testBit k then 3 else 0)
    ++ prbsLevels 1 false 8096 { gen := 0x1FFF >>> t }

/-- R436: whether a codeword is a fault ordered set. -/
def cwFault (c : Codeword) : Bool :=
  (cwMark c).isSome && (c.ctl.drop 1).all (fun w => cwType w == 4 && nbits w 6 3 == 12 && !w.testBit 7) && c.bytes.all (· == 0xFF)

/-- R343: the checker of a lane takes one bit. Before lock it predicts from the bits received, after lock from its own sequence (log entry 61). -/
def prbsCheck (code : Nat) (n : Lane) (b : Bool) : Lane :=
  let t := n.prbs
  let want := prbsBit code t.chk
  if t.seeded < prbsLen code then { n with prbs := { t with chk := prbsShift t.chk b, seeded := t.seeded + 1, good := 0 } }
  else if n.prbsLock then
    let pos := t.pos + 1
    let errs := t.errs.filter (fun e => decide (pos < e + 1024)) ++ (if b = want then [] else [pos])
    let n1 := { n with prbse := if b = want then n.prbse else satInc (2 ^ 32 - 1) n.prbse }
    if 256 ≤ errs.length then { n1 with prbsLock := false, prbs := { t with seeded := 0, good := 0, pos := 0, errs := [] } }
    else { n1 with prbs := { t with chk := prbsShift t.chk want, pos := pos, errs := errs } }
  else
    let good := if b = want then t.good + 1 else 0
    { n with prbsLock := decide (256 ≤ good), prbs := { t with chk := prbsShift t.chk b, good := good, pos := 0, errs := [] } }

/-- R318, R343: the checker takes one level. -/
def prbsTake (code : Nat) (pre : Bool) (n : Lane) (v : Nat) : Lane :=
  (grayBits (levelGray pre n.prbs.chkP v)).foldl (prbsCheck code) { n with prbs := { n.prbs with chkP := v } }

end Sys2Proof.Machine
end

