-- ==== Sys2Proof/Machine/Jobs.lean ====
section
/-! DEFINITION. File 05, R102 to R110: core jobs; file 13, R402 and R403: the digest log and lock-step pairs. -/

namespace Sys2Proof.Machine

/-! The digest log (R402) and lock-step (R403) -/

/-- R402: the 32 bytes of a log record. -/
def logBytes (source die core key tag : Nat) (digest : Word128) : List Byte :=
  toLe 1 source ++ toLe 1 die ++ toLe 2 core ++ toLe 4 key ++ toLe 8 tag ++ toLe 16 digest.toNat

/-- R402: whether the log's ring lies in die 0's user area. -/
def logFits (x : Die) (v : Word32) : Bool := inUser x (fld v 26 6 * 64) (32 * 2 ^ fld v 5 1)

/-- R403: one comparison of an own record with the partner's. -/
def lsCompare (s : State) : State :=
  match s.time.own.findSome? (fun o => (s.time.peer.find? (fun p => p.source == o.source && p.tag == o.tag)).map (fun p => (o, p))) with
  | none => s
  | some (o, p) =>
    let t := { s.time with own := s.time.own.erase o, peer := s.time.peer.erase p }
    if o.digest = p.digest then { s with time := { t with lsMatch := satInc 0xFFFF t.lsMatch } }
    else timeEvent { s with time := { t with lsMis := satInc 0xFF t.lsMis } } 0xFF 6 (o.tag % 2 ^ 32) (o.tag >>> 32)

/-- R402, R403: a log record is written, and goes to the partner. -/
def putLog (s : State) (source die core key tag : Nat) (digest : Word128) : State :=
  let x := getDie s 0
  let v := regWord x rTIME_DLOG
  let ls := regWord x rTIME_LSTEP
  let bs := logBytes source die core key tag digest
  let s1 := if bit v 0 then
      let s1 := updDie s 0 (fun x => dieGndWrite x (fld v 26 6 * 64 + 32 * (s.time.logIdx % 2 ^ fld v 5 1)) bs)
      { s1 with time := { s1.time with logIdx := (s1.time.logIdx + 1) % 2 ^ 32 } }
    else s
  if bit v 0 && bit ls 15 then
    let (t, s2) := takeTag s1 0
    let chip := fld ls 14 0
    let s3 := send s2 0
      { pkt := ownPacket 6 kMGMT_MSG t 0 (2 ^ 63 + chip <<< 48 + 0x8000000000) bs, dst := chip, req := 11, owner := .none, sequenced := true }
    lsCompare { s3 with time := { s3.time with own := s3.time.own ++ [{ source := source, tag := tag, digest := digest.toNat, at0 := s.now }] } }
  else s1

/-- R403: whether WAIT_MS have passed since a record came. -/
def lsOver (s : State) (r : LsRec) : Bool := decide (r.at0 + 1000000 * regFld (getDie s 0) rTIME_LSTEP 23 16 ≤ s.now)

/-- R403: the oldest own record has had no partner for WAIT_MS; a partner's record that matches none is forgotten after as long. -/
def orphan (s0 : State) : State :=
  let s := { s0 with time := { s0.time with peer := s0.time.peer.filter (fun r => !lsOver s0 r) } }
  match s.time.own with
  | o :: rest =>
    if !lsOver s o then s else
    timeEvent { s with time := { s.time with own := rest, lsOrph := satInc 0xFF s.time.lsOrph } } 0xFF 7 (o.tag % 2 ^ 32) (o.tag >>> 32)
  | [] => s

/-- R403: LOCKSTEP_ORPHAN_TIMEOUT. -/
def execLockstepOrphanTimeout (s : State) : Host.Outcome State Fault Refusal := .next (if s.phase == .up then orphan s else s)

/-! The job descriptor (R102, R104, Table 5-3) -/

def jobDie (desc : Word512) : Nat := fld desc 143 136
def jobCore (desc : Word512) : Nat := fld desc 135 128

/-- R102, R104: what a core job descriptor completes with before it is queued, in the order of log entry 41. A job for a core whose CORE activity has
not committed waits (R427). -/
def jobErr (s : State) (desc : Word512) : Option Status :=
  if fld desc 151 145 ≠ 0 ∨ fld desc 383 377 ≠ 0 ∨ fld desc 399 393 ≠ 0 ∨ fld desc 511 448 ≠ 0 ∨ 16 ≤ fld desc 159 152
      ∨ fld desc 207 192 = 0 ∨ 8192 < fld desc 207 192 ∨ fld desc 207 192 ≤ fld desc 223 208 ∨ fld desc 191 160 % 64 ≠ 0 then some .badFormat
  else if ndies s.variant ≤ jobDie desc ∨ 150 ≤ jobCore desc then some .badCore
  else
    let x := getDie s (jobDie desc)
    let k := coreOf x (jobCore desc)
    if x.flt ≠ 0 ∨ x.compFenced ∨ (k.retired && !k.testing) then some .coreGone else none

/-- A job joins the jobs of the core that it names (R104), which wakes (R457). -/
def queueJob (s : State) (j : Job) : State :=
  updCore s (jobDie j.desc) (jobCore j.desc) (fun k => { k with asleep := false, jobs := k.jobs ++ [j] })

/-- The record of a job: its descriptor's, or a chained job's with SOURCE 3. -/
def jobRecord (s : State) (j : Job) (st : Status) (pos : Nat) (w v : Word32) : State :=
  match j.op with
  | some id =>
    match findOp s id with
    | some o => completeWith s o st pos w v 0
    | none => s
  | none =>
    postRec s { op := none, cq := j.cq, tag := j.tag, status := st, sq := 0, source := 3, idx := 0, pos := pos, d0 := w, d1 := v, d2 := 0,
                noint := bit j.desc 10, told := false }

/-- R493: a job ends on core c of die d with n issue cycles, which were in vain. -/
def wasteCycles (s : State) (d c n : Nat) : State :=
  if n = 0 then s else updCore s d c (fun k => { k with pmc := pmcSlot k.pmc 1 n })

/-- The record of a job that waits for core c of die d and will not start (again): of a struck one with its position, its status words 0 (log
entry 44). -/
def dropJob (s : State) (d c : Nat) (j : Job) (st : Status) : State := jobRecord (wasteCycles s d c j.instr) j st j.pos 0 0

/-- Whether a job's record has room now (R365). -/
def jobRoom (s : State) (j : Job) : Bool := cqTakes s j.cq && !s.recs.any (fun r => r.cq == j.cq && recReady s r)

/-- R102: a core address in ground memory with its range in the job's partition. -/
def jobGround (x : Die) (j : Job) (a n : Nat) : Option Nat :=
  if gndBase ≤ a ∧ inPart x (dGpart j) (a - gndBase) n then some (a - gndBase) else none

/-- R103: the core as a job finds it: nothing left of the job before; g1 to g8 from the argument block. -/
def startCore (x : Die) (k : Core) (j : Job) (im : Image) (args : List Byte) : Core :=
  let r : Run :=
    { job := j, pc := dEntry j, prog := 0, status := 0, vstatus := 0, ord := 0, nv := 0, wr := 0, arrIss := 0, arrDone := 0, vecIss := 0,
      vecDone := 0, digest := 0, posts := [], shared := false, halted := false, ended := none, wait := none, pend := [], defer := [],
      load := none, startCyc := x.cycles / 16, instr := j.instr }
  { k with
    asleep := false, image := some im, scratch := [], acc := [], slots := [], convs := [], weights := none, aq := [], accq := [], vq := [],
    g := (upto 8).map (fun i => (i + 1, BitVec.ofNat 64 (bytesNat args (8 * i) 8)))
    run := some r
    pmc := pmcEvent (pmcZeroJob k.pmc) 0x0E 1 }

/-- R102 to R104, R427: the next job of core c of die d starts: the image is loaded where FLAGS.LOAD or an empty core asks for it. -/
def jobStart (d c : Nat) (s : State) : State :=
  let x := getDie s d
  let k := coreOf x c
  if !dieUp s d || decide (150 ≤ c) || k.run.isSome || k.fenced || k.testing then s
  else
    match k.jobs with
    | [] => s
    | j :: rest =>
      let s0 := setCore s d c { k with jobs := rest }
      if k.retired || x.compFenced then dropJob s0 d c j .coreGone
      else
        match jobGround x j (dProgAddr j) (8 * dProgLen j), jobGround x j (dArgAddr j) 64 with
        | some po, some ao =>
          let need := dLoad j || k.image.isNone
          let s1 := updDie s0 d (fun x => dieGndTouch (if need then dieGndTouch x po (8 * dProgLen j) else x) ao 64)
          if (need && gndPoisoned x.gnd po (8 * dProgLen j)) || gndPoisoned x.gnd ao 64 then
            dropJob (reportPoison s1 d) d c j .memUe
          else
            let bs := if need then memRead x.gnd.cells po (8 * dProgLen j) else []
            let im : Image := if need then (upto (dProgLen j)).map (fun i => BitVec.ofNat 64 (bytesNat bs (8 * i) 8)) else k.image.getD []
            setCore s1 d c (startCore x { k with jobs := rest } j im (memRead x.gnd.cells ao 64))
        | _, _ => dropJob s0 d c j .badAddr

def execJobStart (d c : Nat) (s : State) : Host.Outcome State Fault Refusal := .next (jobStart d c s)

/-- Whether the units of a core have finished what its job issued. -/
def unitsIdle (s : State) (d c : Nat) (k : Core) (r : Run) : Bool :=
  arrIdle k && k.vq.isEmpty && (coreDmas (getDie s d) c).isEmpty && r.defer.isEmpty

/-- R105, R108, R110: the job on core c of die d commits, or ends with its status: once its units are idle and its record has room, and for
a commit once its posts are accepted. -/
def jobCommit (d c : Nat) (s : State) : State :=
  let k := getCore s d c
  match k.run with
  | none => s
  | some r =>
    let ok := r.ended.isNone
    if !dieUp s d || !(r.halted || r.ended.isSome) || !unitsIdle s d c k r || !jobRoom s r.job
        || (ok && s.engWait.any (fun q => q.src == .core d c)) then s
    else
      let k1 : Core := { k with
        run := none
        accStatus := if ok then r.status else k.accStatus
        vecStatus := if ok then r.vstatus else k.vecStatus
        pmc := pmcEvent (pmcSlot k.pmc (if ok then 0 else 1) r.instr) 0x0F (b2n ok) }
      let s1 := setCore s d c k1
      let s2 := if ok then putLog s1 1 d (256 * d + c) (dSrTag r.job) r.job.tag r.digest else s1
      jobRecord s2 r.job (r.ended.getD .ok) (jobPos r) r.status r.vstatus

def execJobCommit (d c : Nat) (s : State) : Host.Outcome State Fault Refusal := .next (jobCommit d c s)

/-- R108: the job on core c of die d has run past its TIME_LIMIT. -/
def jobTimeout (d c : Nat) (s : State) : State :=
  match (getCore s d c).run with
  | some r => if dTimeLimit r.job = 0 ∨ r.ended.isSome ∨ !dieUp s d then s else stopJob s d c .timeout
  | none => s

def execJobTimeout (d c : Nat) (s : State) : Host.Outcome State Fault Refusal := .next (jobTimeout d c s)

end Sys2Proof.Machine
end

