-- ==== Sys2Proof/Machine/Engines.lean ====
section
/-! DEFINITION. File 06, R150 to R173: engine requests, the pooling, top-k, codec and digest engines. -/

namespace Sys2Proof.Machine

/-- The units that serve an ENGINE code. -/
def engUnits (e : Nat) : List Nat :=
  match e with
  | 0 => [0]
  | 1 => [1]
  | 2 => [2, 3]
  | 3 => [4]
  | _ => []

/-- The ENGINE code of a unit. -/
def unitEng (u : Nat) : Nat := if u = 0 then 0 else if u = 1 then 1 else if u = 4 then 3 else 2

/-- R150, R151: whether a record has a reserved ENGINE or OP value, a non-zero zero field, or both chains. -/
def reqBad (r : Word512) : Bool :=
  let z (off n : Nat) : Bool := rq r off n == 0
  let common := fld r 31 29 == 0 && z 9 1 && z 11 1 && !(rqCmpl r 3 && rqCmpl r 4)
  let own : Bool := match rq r 0 1 with
    | 0 => fld r 9 8 != 3 && !bit r 15 && fld r 423 422 == 0 && fld r 431 430 == 0 && z 60 4
    | 1 => match rq r 1 1 with
      | 0 => z 37 19 && z 56 8
      | 1 => z 34 22 && z 60 4
      | 2 => z 24 32 && z 56 8
      | _ => false
    | 2 => rq r 1 1 == 0 && fld r 327 326 == 0 && fld r 335 334 == 0 && fld r 343 341 == 0 && z 60 4
    | 3 => decide (rq r 1 1 < 2) && fld r 263 261 == 0 && z 33 3 && z 44 12 && z 60 4 && (rq r 1 1 == 0 || z 32 1)
    | _ => false
  !(common && own)

/-- R139 and the engines' sections: formats, modes and ranges that complete with BAD_FORMAT. -/
def reqFormat (r : Word512) : Bool :=
  let bad : Bool := match rq r 0 1 with
    | 0 =>
      let tf := vecFmt (fld r 420 416) (bit r 421)
      let of := vecFmt (fld r 428 424) (bit r 429)
      let dim := rq r 50 2
      let row := match tf with
        | some f => packBytes f dim + scaleBytes (bit r 421) dim
        | none => 0
      tf.isNone || of.isNone || fld r 13 12 == 3 || dim == 0 || decide (4096 < dim) || rq r 48 2 == 0
        || (bit r 421 && decide (64 * rq r 48 2 < row))
    | 1 => match rq r 1 1 with
      | 0 => rq r 32 2 == 0 || decide (4096 < rq r 32 2) || rq r 34 2 == 0 || decide (4096 < rq r 34 2) || decide (1 < rq r 36 1)
      | 1 => decide (4095 < rq r 32 2) || decide (65536 < rq r 56 4)
      | _ => false
    | 2 =>
      match vecFmt (fld r 324 320) (bit r 325), vecFmt (fld r 332 328) (bit r 333) with
      | some sf, some df =>
        fld r 337 336 == 3
          || ((vecBlocked sf (bit r 325) || vecBlocked df (bit r 333)) && rq r 56 4 % 32 != 0)
      | _, _ => true
    | _ => rq r 1 1 == 0 && (match fmtOf (fld r 260 256) with
      | some .filet => true
      | some .accWord => true
      | some _ => false
      | none => true)
  bad

/-- A misaligned field of a record. -/
def reqMisaligned (r : Word512) : Bool :=
  (rqCmpl r 0 && rqWordOff r % 8 != 0) || ((rqCmpl r 3 || rqCmpl r 4) && rqChainOff r % 64 != 0)
    || (match rq r 0 1 with
      | 0 => rq r 32 8 % 64 != 0
      | 1 => rq r 16 8 % 64 != 0
      | 2 => bit r 340 && rq r 48 4 % 16 != 0
      | _ => rq r 24 8 % 16 != 0)

/-! The source of a request (R140, R157) -/

/-- R140: the partition that binds a request: of an endpoint's, its port's grant, which is free where that is another package's (log entry 56);
else the record's GPART. -/
def reqPart (s : State) (q : EngReq) : Nat :=
  match q.src with
  | .packet _ _ _ (some p) => fld (portGrant s p) 19 16
  | .packet chip _ _ none => if dieChip s chip then rq q.req 2 1 else Config.farPart chip % 16
  | _ => rq q.req 2 1

/-- R140: whether a chained request keeps the partition of the request that chained it. -/
def reqBound (src : EngSrc) : Bool :=
  match src with
  | .op _ => false
  | .chain b _ => b
  | _ => true

/-- R409: the endpoint port, if any, whose grant binds a request: its own, or that of the request that chained it. -/
def reqPort (src : EngSrc) : Option Nat :=
  match src with
  | .packet _ _ _ p => p
  | .chain _ p => p
  | _ => none

/-- R238, R409: what refuses, by the grant of the port of an endpoint's request, an access of n bytes at a place: the grant's bits bind a stack; the die
of another package is checked as a packet's access to it is. -/
def grantBars (s : State) (d : Nat) (q : EngReq) (wr : Bool) (p : Place) (n : Nat) : Option Status :=
  match reqPort q.src, p with
  | some port, .stack _ _ => stackGrant (portGrant s port) (if wr then kWRITE else kREAD)
  | some port, .remote c a =>
    (match chipEntry s c with
      | some w => if fld w 24 15 = 0x3FF then
          remoteGrant (getDie s d) (portGrant s port) (if wr then kWRITE else kREAD) a n (fld w 27 25) else none
      | none => none)
  | _, _ => none

/-- The parts of a range that a request accesses, or what refuses it. -/
def reqSegs (s : State) (d : Nat) (q : EngReq) (wr : Bool) (a n : Nat) : Except Status (List Seg) :=
  match segs s (if wr then .wr else .rd) a n with
  | .error e => .error e
  | .ok l =>
    match (segsErr s d (some (reqPart s q)) l).orElse (fun _ => worstOf (l.map (fun g => grantBars s d q wr g.place g.len))) with
    | some e => .error e
    | none => .ok l

/-- The checks of a request at its acceptance by die d: BAD_REQ, then BAD_FORMAT, then BAD_ADDR, which the spec does not rank (DESIGN CHOICE, log entry
41). -/
def reqErr (s : State) (d : Nat) (q : EngReq) : Option Status :=
  let r := q.req
  let own (off n : Nat) : Bool := inPart (getDie s d) (reqPart s q) off n
  if reqBad r then some .badReq
  else if 16 ≤ reqPart s q ∨ reqFormat r then some .badFormat
  else if reqMisaligned r || (rqCmpl r 0 && !own (rqWordOff r) 8) || ((rqCmpl r 3 || rqCmpl r 4) && !own (rqChainOff r) 64)
      || (rq r 0 1 == 2 && bit r 340 && !own (rq r 48 4) 16) then some .badAddr
  else none

/-! Records and reservations (R152) -/

/-- The bytes of the record or descriptor at a request's CHAIN_OFF. -/
def chainBytes (s : State) (d : Nat) (r : Word512) : List Byte := memRead (getDie s d).gnd.cells (rqChainOff r) 64

/-- The die and ENGINE code on which a request accepted by die d holds a record for its CHAIN_ENG. -/
def chainHold (s : State) (d : Nat) (r : Word512) : Option (Nat × Nat) :=
  if !rqCmpl r 4 then none
  else
    let b := chainBytes s d r
    match engDest s b with
    | .die t => some (t, bytesNat b 0 1)
    | _ => none

/-- The records of a die's requests and open sets. -/
def heldRecords (x : Die) : List Word512 := x.engs.map (·.req) ++ x.topk.map (fun e => e.2.req)

/-- Records of engine e of die d that are reserved for chained requests. -/
def reservedRecs (s : State) (d e : Nat) : Nat :=
  ((upto (ndies s.variant)).map (fun t => ((heldRecords (getDie s t)).filter (fun r => chainHold s t r == some (d, e))).length)).foldl (· + ·) 0

/-- R152: the free records of unit u of die d: of 256, less its requests and those reserved. A record reserved on the codecs counts on each of
them, since either may take the request (DESIGN CHOICE, log entry 50). -/
def freeRecs (s : State) (d u : Nat) : Nat :=
  256 - ((getDie s d).engs.filter (fun q => q.unit == u)).length - reservedRecs s d (unitEng u)

/-- Chained jobs of a die not completed, and the places reserved for more. -/
def chainJobs (x : Die) : Nat :=
  (x.cores.map (fun (_, k) => (k.jobs.filter (fun j => j.op.isNone)).length
    + (match k.run with | some r => b2n r.job.op.isNone | none => 0))).foldl (· + ·) 0
    + ((heldRecords x).filter (fun r => rqCmpl r 3)).length

/-- Bytes queued at a codec unit. -/
def codecLoad (x : Die) (u : Nat) : Nat :=
  ((x.engs.filter (fun q => q.unit == u)).map (fun q =>
    match fmtOf (fld q.req 324 320) with
    | some f => packBytes f (rq q.req 56 4)
    | none => 0)).foldl (· + ·) 0

/-- R152: the unit that takes a request: of two codecs the one with fewer bytes queued. -/
def pickUnit (x : Die) (e : Nat) : Option Nat :=
  match (engUnits e).filter (fun u => !x.engFenced.contains u) with
  | [u] => some u
  | [u, v] => some (if codecLoad x v < codecLoad x u then v else u)
  | _ => none

/-- R152: whether a request can be accepted by die d now: the unit that takes it has a free record, the chained-job queue a place, and each unit
that may take its chained request a free record beside. -/
def mayAccept (s : State) (d : Nat) (r : Word512) : Bool :=
  let u := pickUnit (getDie s d) (rq r 0 1)
  (match u with
    | some u => decide (1 ≤ freeRecs s d u)
    | none => true)
    && (!rqCmpl r 3 || decide (chainJobs (getDie s d) < 256))
    && (match chainHold s d r with
        | some (t, c) => ((engUnits c).filter (fun v => !(getDie s t).engFenced.contains v)).all (fun v =>
            decide (1 + b2n (t == d && u == some v) ≤ freeRecs s t v))
        | none => true)

/-- A request enters die d's records: one that cannot run is done at once, with its status. -/
def acceptOn (s : State) (d : Nat) (q : EngReq) (fail : Option Status) : State :=
  let x := getDie s d
  let e := rq q.req 0 1
  let st := fail.orElse (fun _ =>
    if 4 ≤ e then some .badReq
    else if (pickUnit x e).isNone then some .engineGone
    else reqErr s d q)
  let u := ((pickUnit x e).orElse (fun _ => (engUnits e).head?)).getD 0
  let (id, s1) := takeId s d
  updDie s1 d (fun x => { x with engs := x.engs ++ [{ q with id := id, unit := u, done := st.map doneWith }], engAwake := sadd x.engAwake u })

/-- The lengths of a request's outputs that lie at a chip of this package, where another package's die writes them: a pooling's rows and scales, a
set's records, a digest. -/
def outsHere (s : State) (r : Word512) : List Nat :=
  let (a, n) : Nat × Nat := match rq r 0 1 with
    | 0 => (rq r 32 8, match vecFmt (fld r 428 424) (bit r 429) with
        | some f => rq r 56 4 * (64 * cdiv (packBytes f (rq r 50 2)) 64 + scaleBytes (bit r 429) (rq r 50 2))
        | none => 0)
    | 1 => if rq r 1 1 = 0 then (rq r 24 8, 8 * rq r 32 2) else (0, 0)
    | 3 => (rq r 24 8, 16)
    | _ => (0, 0)
  if 2 ^ 63 ≤ a ∧ (dieOfChip s (nbits a 62 48)).isSome then (upto (min (cdiv n 4096) 16384)).map (fun i => min 4096 (n - 4096 * i)) else []

/-- R152, R284: a request record sent on to the die of another package, as an ENGINE request of die d. It leaves with space reserved for its
response and its outputs. -/
def forwardEng (s : State) (d chip : Nat) (q : EngReq) : State :=
  let (tag, s1) := takeTag s d
  let s2 := updDie s1 d (fun x => { x with
    reqs := x.reqs ++ [{ chip := chip, tag := tag, kind := kENGINE, addr := 0, what := .posted q.src, buf := none, reply := replyBase d }] })
  send s2 d
    { pkt := ownPacket 0 kENGINE tag 0 (rq q.req 16 8) (toLe 64 q.req.toNat ++ toLe 8 0), dst := chip, req := 12,
      owner := .request tag, sequenced := true, room := (8 :: outsHere s q.req).map (fun n => 36 + bodyLen n) }

/-- R8: the packet of an engine request between dies of the package, and the internal requester that has its buffers: the companion's, else the
engine's. -/
def reqPacket (q : EngReq) : Packet := ownPacket 0 kENGINE 0 0 (rq q.req 16 8) (toLe 64 q.req.toNat ++ toLe 8 0)

def reqUser (s : State) (t : Nat) (q : EngReq) : Nat :=
  match q.src with
  | .op _ => 12
  | _ => (pickUnit (getDie s t) (rq q.req 0 1)).getD 0

/-- R8, R152, R284: die t has a record for a request of die d, which sends it over the bridges: at once with space kept for its response, or when
it can. -/
def crossReq (s : State) (d t : Nat) (q : EngReq) : State :=
  let n := reqUser s t q
  let id := (takeId s t).1
  let now := if stopped s then none else (respRoom s d n).bind (fun r =>
    launchReq (acceptOn r.2 t { q with way := some d, room := some (d, r.1) } none) d t id n (reqPacket q))
  now.getD (updDie (acceptOn s t { q with way := some d } none) d (fun x => { x with txq := x.txq ++ [reqItem n (reqPacket q) t id] }))

/-- R8, R152, R432: a request that die d holds goes to its executing die; none where it waits for room. free says that its record is reserved. -/
def submit (s : State) (d : Nat) (q : EngReq) (free : Bool) : Option State :=
  match engDest s (toLe 64 q.req.toNat) with
  | .die t =>
    if !crosses s d t then some (acceptOn s d q (some (if dieLives s t then .dieUnreachable else .engineGone)))
    else if (getDie s t).flt ≠ 0 then some (acceptOn s d q (some .engineGone))
    else if free || mayAccept s t q.req then some (if t = d then acceptOn s t q none else crossReq s d t q)
    else none
  | .chip c => some (forwardEng s d c q)
  | .none => some (acceptOn s d q (some (if 4 ≤ rq q.req 0 1 then .badReq else .badAddr)))

/-- R152: ENGINE_REQUEST_ACCEPT: the oldest post of engine e released by a core of die d is accepted where it has room. -/
def engineAccept (d e : Nat) (s : State) : State :=
  let mine (q : EngReq) : Bool := q.unit == e && (match q.src with | .core t _ => t == d | _ => false)
  if !dieUp s d then s else
  match s.engWait.find? mine with
  | none => s
  | some q =>
    match submit { s with engWait := s.engWait.erase q } d q false with
    | some s1 => s1
    | none => s

def execEngineRequestAccept (d e : Nat) (s : State) : Host.Outcome State Fault Refusal := .next (engineAccept d e s)

/-! Operands and outputs -/

/-- Why an engine does not go on: the request ends with a status (at a range that met poison, where it did); or bytes of another chip must be
read first (raw address, chip, its address, length). -/
inductive Halt where
  | stop (st : Status) (at0 : Option (Nat × Nat))
  | wait (l : List (Nat × Nat × Nat × Nat))
  deriving DecidableEq, Repr

/-- n operand bytes at address a: from the package, from what READs have brought, from the companion (ext, else free). -/
def engGet (s : State) (d : Nat) (q : EngReq) (ext : List Host.Cell) (a n : Nat) : Except Halt (List Byte) :=
  match reqSegs s d q false a n with
  | .error e => .error (.stop e none)
  | .ok l =>
    if l.any (fun g => placePoisoned s g.place g.len) then .error (.stop .memUe (some (a, n)))
    else
      let missing := l.filterMap (fun g =>
        match g.place with
        | .remote c ra =>
          if (upto g.len).all (fun i => q.got.any (fun c => c.1 == a + g.off + i)) then none else some (a + g.off, c, ra, g.len)
        | _ => none)
      if !missing.isEmpty then .error (.wait missing)
      else .ok ((l.map (fun g =>
        match g.place with
        | .remote _ _ => cellsRead q.got (fun _ => 0) (a + g.off) g.len
        | .board ba => cellsRead ext (Config.outsideByte s.fresh) ba g.len
        | p => placeBytes s p g.len)).flatten)

/-- The places of ranges that a request reads. -/
def engPlaces (s : State) (rs : List (Nat × Nat)) : List (Place × Nat) :=
  (rs.map (fun (a, n) => match segs s .rd a n with
    | .ok l => l.map (fun g => (g.place, g.len))
    | .error _ => [])).flatten

/-- The bytes of a table row, and of its elements alone (R160). -/
def rowBytes (r : Word512) : Nat × Nat :=
  match vecFmt (fld r 420 416) (bit r 421) with
  | some f => (packBytes f (rq r 50 2) + scaleBytes (bit r 421) (rq r 50 2), packBytes f (rq r 50 2))
  | none => (0, 0)

/-- What a request finds at a range, where it may read it and nothing outside the package is missing; else nothing. -/
def engPeek (s : State) (d : Nat) (q : EngReq) (ext : List Host.Cell) (a n : Nat) : List Byte :=
  match engGet s d q ext a n with
  | .ok bs => bs
  | .error _ => []

/-- R159, R160: the ranges that a pooling request of die d reads: the offsets, the index-list entries that they name, the rows. -/
def poolReads (s : State) (d : Nat) (q : EngReq) (ext : List Host.Cell) : List (Nat × Nat) :=
  let r := q.req
  let nb := rq r 56 4
  let sz := if fld r 9 8 = 1 then 8 else 4
  let ob := engPeek s d q ext (offsAddr r) (4 * (nb + 1))
  let lo := bytesNat ob 0 4
  let hi := bytesNat ob (4 * nb) 4
  let ib := engPeek s d q ext (rq r 24 8 + sz * lo) (sz * (hi - lo))
  (offsAddr r, 4 * (nb + 1)) :: (rq r 24 8 + sz * lo, sz * (hi - lo))
    :: (upto (ib.length / sz)).map (fun i => (rq r 16 8 + 64 * rq r 48 2 * bytesNat ib (sz * i) 4, (rowBytes r).1))

/-- R154: the ranges that a request of die d reads. -/
def reqReads (s : State) (d : Nat) (q : EngReq) : List (Nat × Nat) :=
  match rq q.req 0 1 with
  | 0 => poolReads s d q []
  | 1 => if rq q.req 1 1 = 1 then [(rq q.req 24 8, 8 * rq q.req 56 4)] else []
  | _ => ((engRanges q.req).filter (fun p => !p.2.2)).map (fun p => (p.1, p.2.1))

/-- R154: what the requests in flight read, up to their commit, but request id of die d. -/
def otherReads (s : State) (d id : Nat) : List (Place × Nat) :=
  ((upto (ndies s.variant)).map (fun t => ((getDie s t).engs.filter (fun p => t != d || p.id != id)).map
    (fun p => engPlaces s (reqReads s t p)))).flatten.flatten

/-- R154, R163, R250: writes output bytes of a request at an address; ins are the places it reads. -/
def engPut (s : State) (d : Nat) (q : EngReq) (ins : List (Place × Nat)) (a : Nat) (bs : List Byte) : Except Status State :=
  match reqSegs s d q true a bs.length with
  | .error e => .error e
  | .ok l =>
    .ok (l.foldl (fun s g =>
      let (k, s0) := draw s
      let b := blur k g.place ((bs.drop g.off).take g.len) (ins ++ otherReads s d q.id)
      match g.place with
      | .remote c ra =>
        let s1 := updReq s0 d q.id (fun p => { p with writes := p.writes + writeCount b })
        issueWrites s1 d q.unit c ra b kREPLY_WRITE (match q.src with | .packet _ _ t _ => some t | _ => none) (.eng q.id)
      | .board ba => emit s0 (.store ba b)
      | p => placePut s0 p b) s)

/-- Writes a list of outputs in order, up to the first that is refused. -/
def engPuts (s : State) (d : Nat) (q : EngReq) (ins : List (Place × Nat)) : List (Nat × List Byte) → Except (Status × State) State
  | [] => .ok s
  | (a, b) :: l =>
    match engPut s d q ins a b with
    | .error e => .error (e, s)
    | .ok s1 => engPuts s1 d q ins l

/-- R142: what a request has read is corrected where it held single-bit errors. -/
def touchAll (s : State) (ins : List (Place × Nat)) : State := ins.foldl (fun s p => placeTouch s p.1 p.2) s

def setDone (s : State) (d id : Nat) (w : DoneWord) : State := updReq s d id (fun q => { q with done := some w })

/-- A request that stops with a status; what met poison was read (R142). -/
def stopReq (s : State) (d id : Nat) (w : DoneWord) (at0 : Option (Nat × Nat)) : State :=
  setDone (match at0 with | some r => touchAll s (engPlaces s [r]) | none => s) d id w

/-- Reads of another chip that a request needs and has not asked for go out. -/
def engFetch (s : State) (d : Nat) (q : EngReq) (l : List (Nat × Nat × Nat × Nat)) : State :=
  if !q.reads.isEmpty then s
  else
    l.foldl (fun s (a, c, ra, n) =>
      (upto (cdiv n 4096)).foldl (fun s i =>
        let m := min 4096 (n - 4096 * i)
        match issueRead s d q.unit c (ra + 4096 * i) m (.engine q.id (a + 4096 * i) m) with
        | some (tag, s1) => updReq s1 d q.id (fun p => { p with reads := sadd p.reads tag })
        | none => s) s) s

/-- The oldest request of a unit that has arrived and is not done. A fenced unit takes no new one, and replays after its reset what stays on it (R153). -/
def engHead (s : State) (d u : Nat) : Option EngReq :=
  if !dieUp s d then none
  else (getDie s d).engs.find? (fun q => q.unit == u && q.done.isNone && q.way.isNone)

/-- The step of an engine on its oldest request, where that has engine code e and the operation ok accepts. -/
def engStep (d u : Nat) (s : State) (ok : Word512 → Bool) (f : EngReq → State) : State :=
  match engHead s d u with
  | some q => if ok q.req then f q else s
  | none => s

/-! The pooling engine (R159 to R163) -/

/-- R158: ENG_SR_SEED of a die. -/
def engSeed (x : Die) : Nat := (regWord x rENG_SEED_LO).toNat + (regWord x rENG_SEED_HI).toNat <<< 32

/-- The exact value of a row element under WSUM's weight. -/
def poolTerm (wsum : Bool) (w : Nat) (v : Val) : Val := if wsum then vMul v (f32Val w) else v

/-- One bag's rows: for each entry, its values by column; and the ranges read. -/
def poolRows (s : State) (d : Nat) (q : EngReq) (ext : List Host.Cell) (es : List (Nat × Nat)) :
    Except Halt (List (List Val) × List (Nat × Nat)) :=
  let r := q.req
  let dim := rq r 50 2
  match vecFmt (fld r 420 416) (bit r 421) with
  | none => .error (.stop .badFormat none)
  | some f =>
    let n := (rowBytes r).2
    let m := (rowBytes r).1
    es.foldlM (fun (a : List (List Val) × List (Nat × Nat)) (i, w) =>
      let at' := rq r 16 8 + 64 * rq r 48 2 * i
      match engGet s d q ext at' m with
      | .error e => .error e
      | .ok bs =>
        .ok (a.1 ++ [(decodeVector f (bit r 421) (bs.take n) (bs.drop n) dim).map (poolTerm (fld r 9 8 == 1) w)], a.2 ++ [(at', m)])) ([], [])

/-- R161, R162: the pooled values of a bag. The grid rounds its terms in OP's RMODE, with one random draw for each column of the bag, of step SR_STEP
(DESIGN CHOICE, log entry 74). -/
def poolValues (r : Word512) (seed b : Nat) (rows : List (List Val)) : List Val :=
  let dim := rq r 50 2
  let step := rq r 44 4
  let rmode := fld r 13 12
  let grains := (upto (cdiv dim 256)).map (fun g =>
    if bit r 10 then
      windowOf (prickByte (rows.map (fun row => (row.drop (256 * g)).take 256)).flatten)
    else signed 16 (rq r 54 2))
  (upto dim).map (fun c =>
    let w := nth grains (c / 256) 0
    let rnd := srGen seed ((b * dim + c) % 2 ^ 32) step
    let (f, sp) := rows.foldl (fun (a : Int × Nat) row =>
      let v := nth row c .nan
      (a.1 + (toGrid v w rmode rnd).1, a.2 ||| specCode v)) (0, 0)
    let y := filetVal f sp w
    match y with
    | .fin _ _ _ => if fld r 9 8 = 2 ∧ rows.length ≠ 0 then vFrac false (vNum y) (vDen y * rows.length) else vFrac false (vNum y) (vDen y)
    | y => y)

/-- One bag: its outputs, its conditions, the ranges read. -/
def poolBag (s : State) (d : Nat) (q : EngReq) (ext : List Host.Cell) (offs : List Nat) (b : Nat) :
    Except Halt (List (Nat × List Byte) × Word32 × List (Nat × Nat)) :=
  let r := q.req
  let wsum := fld r 9 8 == 1
  let sz := if wsum then 8 else 4
  let n := nth offs (b + 1) 0 - nth offs b 0
  let a := rq r 24 8 + sz * nth offs b 0
  match engGet s d q ext a (sz * n) with
  | .error e => .error e
  | .ok bs =>
    let es := (upto n).map (fun i => (bytesNat bs (sz * i) 4, if wsum then bytesNat bs (sz * i + 4) 4 else 0))
    match poolRows s d q ext es with
    | .error e => .error e
    | .ok (rows, ins) =>
      match vecFmt (fld r 428 424) (bit r 429) with
      | none => .error (.stop .badFormat none)
      | some f =>
        let dim := rq r 50 2
        let seed := engSeed (getDie s d)
        let o := encodeVector f (bit r 429) (fld r 13 12) (bit r 14) (bit r 11)
          (fun c => srGen seed ((b * dim + c) % 2 ^ 32) (rq r 44 4)) (poolValues r seed b rows)
        let p := 64 * cdiv (packBytes f dim) 64
        let dst := rq r 32 8
        let outs := (dst + b * p, o.bytes) :: (if bit r 429 then [(dst + rq r 56 4 * p + b * cdiv dim 32, o.scales)] else [])
        .ok (outs, o.conds, (a, sz * n) :: ins)

/-- Bags b onward: each is written before the next is gathered (R162); a bag that needs another chip's bytes stops all and asks for them. own holds
all that the request reads (R154). -/
def poolBags (s0 : State) (d : Nat) (q : EngReq) (ext : List Host.Cell) (own : List (Place × Nat)) (offs : List Nat) :
    Nat → Nat → State → Word32 → Except (List (Nat × Nat × Nat × Nat)) (State × DoneWord)
  | 0, b, s, k => .ok (s, { status := .ok, conds := k, count := b })
  | f + 1, b, s, k =>
    match poolBag s0 d q ext offs b with
    | .error (.wait l) => .error l
    | .error (.stop st at0) => .ok (match at0 with | some r => touchAll s (engPlaces s [r]) | none => s, { status := st, conds := k, count := b })
    | .ok (outs, kb, ins) =>
      match engPuts (touchAll s (engPlaces s0 ins)) d q own outs with
      | .error (e, s1) => .ok (s1, { status := e, conds := k, count := b })
      | .ok s1 => poolBags s0 d q ext own offs f (b + 1) s1 (k ||| kb)

/-- Whether offsets never decrease. -/
def rising : List Nat → Bool
  | a :: b :: l => decide (a ≤ b) && rising (b :: l)
  | _ => true

/-- R159 to R163: POOL: the oldest pooling request gathers, sums and converts its bags. -/
def pool (d : Nat) (ext : List Host.Cell) (s : State) : State :=
  engStep d 0 s (fun _ => true) (fun q =>
    let nb := rq q.req 56 4
    let offA := offsAddr q.req
    match engGet s d q ext offA (4 * (nb + 1)) with
    | .error (.wait l) => engFetch s d q l
    | .error (.stop st at0) => stopReq s d q.id (doneWith st) at0
    | .ok bs =>
      let offs := (upto (nb + 1)).map (fun i => bytesNat bs (4 * i) 4)
      if !rising offs then setDone s d q.id (doneWith .badReq)
      else
        match poolBags s d q ext (engPlaces s (poolReads s d q ext)) offs nb 0 (touchAll s (engPlaces s [(offA, 4 * (nb + 1))])) 0 with
        | .error l => engFetch s d q l
        | .ok (s1, w) => setDone s1 d q.id w)

def execPool (d : Nat) (ext : List Host.Cell) (s : State) : Host.Outcome State Fault Refusal := .next (pool d ext s)

/-! The codec engines (R169, R173) -/

/-- R169, R173: CONVERT on codec unit u (2 or 3) of die d. -/
def convert (d u : Nat) (ext : List Host.Cell) (s : State) : State :=
  engStep d u s (fun r => rq r 0 1 == 2) (fun q =>
    let r := q.req
    let n := rq r 56 4
    let ss := bit r 325
    let ds := bit r 333
    match vecFmt (fld r 324 320) ss, vecFmt (fld r 332 328) ds with
    | some sf, some df =>
      let sa := rq r 16 8
      let sca := relAddr sa (rq r 32 4)
      let dst := rq r 24 8
      let dca := relAddr dst (rq r 36 4)
      let ins := [(sa, packBytes sf n), (sca, scaleBytes ss n)]
      match engGet s d q ext sa (packBytes sf n), engGet s d q ext sca (scaleBytes ss n) with
      | .error (.stop st at0), _ => stopReq s d q.id (doneWith st) at0
      | .error (.wait l), _ => engFetch s d q l
      | .ok _, .error (.stop st at0) => stopReq s d q.id (doneWith st) at0
      | .ok _, .error (.wait l) => engFetch s d q l
      | .ok bs, .ok sc =>
        let seed := engSeed (getDie s d)
        let o := encodeVector df ds (fld r 337 336) (bit r 338) (bit r 339) (fun e => srGen seed (e % 2 ^ 32) (rq r 44 4))
          (decodeVector sf ss bs sc n)
        let ps := engPlaces s ins
        match engPuts (touchAll s ps) d q ps ((dst, o.bytes) :: (if ds then [(dca, o.scales)] else [])) with
        | .error (e, s1) => setDone s1 d q.id (doneWith e)
        | .ok s1 =>
          let dg := if bit r 340 then some (digestOf (rq r 43 1) (rq r 52 4) (digestUnits df o.bytes n)) else none
          updReq s1 d q.id (fun p => { p with done := some { status := .ok, conds := o.conds, count := n }, digest := dg })
    | _, _ => setDone s d q.id (doneWith .badFormat))

def execConvert (d u : Nat) (ext : List Host.Cell) (s : State) : Host.Outcome State Fault Refusal := .next (convert d u ext s)

/-! The digest engine (R170 to R172) -/

/-- The outcome of a digest request: reads n bytes at SRC and writes 16 bytes at DST. -/
def digestStep (d : Nat) (ext : List Host.Cell) (s : State) (op : Nat) (n : Word512 → Nat) (f : Word512 → List Byte → Word128 × Nat) : State :=
  engStep d 4 s (fun r => rq r 1 1 == op) (fun q =>
    let r := q.req
    match engGet s d q ext (rq r 16 8) (n r) with
    | .error (.stop st at0) => stopReq s d q.id (doneWith st) at0
    | .error (.wait l) => engFetch s d q l
    | .ok bs =>
      let (g, c) := f r bs
      let ps := engPlaces s [(rq r 16 8, n r)]
      match engPut (touchAll s ps) d q ps (rq r 24 8) (toLe 16 g.toNat) with
      | .error e => setDone s d q.id (doneWith e)
      | .ok s1 => setDone s1 d q.id { status := .ok, conds := 0, count := c % 2 ^ 32 })

/-- The format of a HASH. -/
def hashFmt (r : Word512) : Fmt := (fmtOf (fld r 260 256)).getD .binary32

/-- R170 to R172: HASH. -/
def execHash (d : Nat) (ext : List Host.Cell) (s : State) : Host.Outcome State Fault Refusal :=
  .next (digestStep d ext s 0 (fun r => packBytes (hashFmt r) (rq r 56 4)) (fun r bs =>
    let us := digestUnits (hashFmt r) bs (rq r 56 4)
    (digestOf (rq r 36 4) (rq r 40 4) us, us.length)))

/-- R172: SUM. -/
def execSum (d : Nat) (ext : List Host.Cell) (s : State) : Host.Outcome State Fault Refusal :=
  .next (digestStep d ext s 1 (fun r => 16 * rq r 56 4) (fun r bs =>
    ((upto (rq r 56 4)).foldl (fun (a : Word128) i => a + BitVec.ofNat 128 (bytesNat bs (16 * i) 16)) 0, rq r 56 4)))

/-! Commit (R151, R153, R156) -/

/-- Table 6-6: a request's progress position: bags, records merged, or groups of 4,096 elements or units. -/
def reqPos (r : Word512) (count : Nat) : Nat := if rq r 0 1 < 2 then count else cdiv count 4096

/-- Table 6-6: a request's progress total; an OPEN and a CLOSE have none. -/
def reqTotal (r : Word512) : Nat :=
  let n := rq r 56 4
  match rq r 0 1 with
  | 0 => n
  | 1 => if rq r 1 1 = 1 then n else 0
  | 2 => cdiv n 4096
  | _ => cdiv (if rq r 1 1 = 0 then (match fmtOf (fld r 260 256) with
      | some .couched => 6 * (n / 32)
      | _ => n) else n) 4096

/-- Table 6-5: the done word. -/
def doneWord (w : DoneWord) : Nat := statusCode w.status % 2 ^ 16 + (w.conds.toNat % 64) <<< 16 + (w.count % 2 ^ 32) <<< 32

/-- Whether a ring takes one record more, and none waits for it. -/
def ringReady (s : State) (q : Nat) : Bool := cqTakes s q && !s.recs.any (fun r => r.cq == q && recReady s r)

/-- Whether a request's records have room at its commit point (R365). -/
def commitRoom (s : State) (q : EngReq) : Bool :=
  (!rqCmpl q.req 2 || ringReady s (rq q.req 10 1))
    && (match q.src with
        | .op id => match findOp s id with
          | some o => ringReady s o.cq
          | none => true
        | _ => true)

/-- R151: a chained job descriptor: BAD_DESC, what R102 and R104 refuse it with, or a job for the core that it names. -/
def chainJob (s : State) (bs : List Byte) : State :=
  let desc : Word512 := BitVec.ofNat 512 (leNat bs)
  let j : Job := { op := none, cq := bytesNat bs 2 1, tag := bytesNat bs 8 8, desc := desc, replay := false, told := false }
  if bytesNat bs 0 1 ≠ 1 ∨ 8 ≤ bytesNat bs 1 1 ∨ bytesNat bs 3 5 ≠ 0 then jobRecord s j .badDesc 0 0 0
  else
    match jobErr s desc with
    | some e => jobRecord s j e 0 0 0
    | none => queueJob s j

/-- R151: a chained request record of die d, submitted with the count as its PARAM. -/
def chainEng (s : State) (d : Nat) (q : EngReq) (count : Nat) : State :=
  let bs := chainBytes s d q.req
  let part := if reqBound q.src then [BitVec.ofNat 8 (reqPart s q)] else (bs.drop 2).take 1
  let rec' := bs.take 2 ++ part ++ (bs.drop 3).take 53 ++ toLe 8 count
  let p : EngReq :=
    { id := 0, req := BitVec.ofNat 512 (leNat rec'), src := .chain (reqBound q.src) (reqPort q.src), unit := 0, done := none, digest := none, writes := 0,
      wstatus := .ok, got := [], reads := [], replayed := false, aborted := false }
  (submit s d p true).getD s

/-- R151, R154: the completion actions of a request that commits at die d with done word w. -/
def fireActions (s : State) (d : Nat) (q : EngReq) (w : DoneWord) : State :=
  let r := q.req
  let own (off n : Nat) : Bool := inPart (getDie s d) (reqPart s q) off n
  let word := doneWord w
  let s1 := match q.digest with
    | some g =>
      let (k, s0) := draw s
      let b := blur k (.ground d (rq r 48 4)) (toLe 16 g.toNat) (engPlaces s (reqReads s d q) ++ otherReads s d q.id)
      updDie s0 d (fun x => dieGndWrite x (rq r 48 4) b)
    | none => s
  let s2 := if rqCmpl r 0 && rqWordOff r % 8 == 0 && own (rqWordOff r) 8 then
      updDie s1 d (fun x => dieGndWrite x (rqWordOff r) (toLe 8 word)) else s1
  let s3 := if rqCmpl r 1 then signalFrom s2 d (rq r 8 1) 1 else s2
  let s4 := if rqCmpl r 2 then
      postRec s3 { op := none, cq := rq r 10 1, tag := rqParam r, status := w.status, sq := 0, source := 2, idx := 0, pos := reqPos r w.count,
                   d0 := BitVec.ofNat 32 word, d1 := BitVec.ofNat 32 (word >>> 32), d2 := 0, noint := false, told := false }
    else s3
  let s5 := match q.src with
    | .op id => match findOp s4 id with
      | some o => completeWith s4 o w.status (reqPos r w.count) (BitVec.ofNat 32 word) (BitVec.ofNat 32 (word >>> 32)) 0
      | none => s4
    | .packet chip reply tag _ => if reply = 0 then s4 else respond s4 d kENG_DONE chip tag 0 reply (toLe 8 word)
    | _ => s4
  if w.status = .ok ∧ rqCmpl r 3 then chainJob s5 (chainBytes s5 d r)
  else if w.status = .ok ∧ rqCmpl r 4 then chainEng s5 d q w.count
  else s5

/-- The request leaves its record and its actions happen, all at one instant. A status that its outside writes have earned stands. -/
def commitReq (s : State) (d : Nat) (q : EngReq) (w : DoneWord) : State :=
  let w1 := if w.status = .ok then { w with status := q.wstatus } else w
  let s1 := updDie (freeRoom s q) d (fun x => { x with engs := x.engs.filter (fun p => p.id != q.id) })
  let s2 := if w1.status = .memUe then reportPoison s1 d else s1
  fireActions s2 d q w1

/-- R151, R250: ENGINE_REQUEST_COMMIT: the oldest request of unit u that is done, whose outside writes are acknowledged and whose records
have room. -/
def engineCommit (d u : Nat) (s : State) : State :=
  if !dieUp s d then s else
  match (getDie s d).engs.find? (fun q => q.unit == u && q.way.isNone && q.done.isSome && q.writes == 0 && commitRoom s q) with
  | some q => (match q.done with | some w => commitReq s d q w | none => s)
  | none => s

def execEngineRequestCommit (d u : Nat) (s : State) : Host.Outcome State Fault Refusal := .next (engineCommit d u s)

/-! The top-k engine (R164 to R168) -/

/-- The key of a set area: its place in the die. -/
def setKey (s : State) (a : Nat) : Option Nat :=
  match addrPlace s a .wr with
  | .ok (.ground _ o) => some o
  | .ok (.stack _ o) => some (2 ^ 40 + o)
  | _ => none

/-- R140, R164, R167: the open set that an ADD or CLOSE names, which must lie where the request may write; of one that is not open the fixed
part of a set area counts (log entry 51). -/
def openSet (s : State) (d : Nat) (q : EngReq) : Except Status (Nat × TopkSet) :=
  let set := rq q.req 16 8
  let t := (setKey s set).bind (fun k => (tfind (getDie s d).topk k).map (fun t => (k, t)))
  match reqSegs s d q true set (576 + 16 * (match t with | some (_, t) => t.k | none => 0)) with
  | .error e => .error e
  | .ok _ => match t with
    | some p => .ok p
    | none => .error .noSet

/-- R166: whether record a comes before record b. -/
def topkBefore (smallest : Bool) (a b : Nat × Nat × Nat) : Bool :=
  let x := f32Val a.1
  let y := f32Val b.1
  let lt := if smallest then vLt x y else vLt y x
  let gt := if smallest then vLt y x else vLt x y
  if lt then true else if gt then false
  else decide (a.2.1 < b.2.1) || (a.2.1 == b.2.1 && decide (a.2.2 < b.2.2))

def topkInsert (smallest : Bool) (a : Nat × Nat × Nat) : List (Nat × Nat × Nat) → List (Nat × Nat × Nat)
  | [] => [a]
  | b :: l => if topkBefore smallest a b then a :: b :: l else b :: topkInsert smallest a l

/-- R166: merges records of a rank into a sorted list of the K best; answers whether a NaN was dropped. -/
def topkMerge (smallest : Bool) (k : Nat) (recs : List (Nat × Nat × Nat)) (new : List (Nat × Nat × Nat)) : List (Nat × Nat × Nat) × Bool :=
  new.foldl (fun a r => if f32IsNan r.1 then (a.1, true) else ((topkInsert smallest r a.1).take k, a.2)) (recs, false)

/-- R165: TOPK_OPEN. -/
def topkOpen (d : Nat) (s : State) : State :=
  engStep d 1 s (fun r => rq r 1 1 == 0) (fun q =>
    let r := q.req
    let k := rq r 32 2
    let set := rq r 16 8
    match setKey s set, reqSegs s d q true set (576 + 16 * k), reqSegs s d q true (rq r 24 8) (8 * k) with
    | none, _, _ => setDone s d q.id (doneWith .badAddr)
    | _, .error e, _ => setDone s d q.id (doneWith e)
    | _, _, .error e => setDone s d q.id (doneWith e)
    | some key, .ok _, .ok _ =>
      if (tfind (getDie s d).topk key).isSome then setDone s d q.id (doneWith .setBusy)
      else
        let (n, s1) := draw s
        match engPut s1 d q [] set ((upto (576 + 16 * k)).map (fun i => Config.setArea n i)) with
        | .error e => setDone s d q.id (doneWith e)
        | .ok s2 =>
          let t : TopkSet :=
            { req := r, k := k, l := rq r 34 2, smallest := rq r 36 1 == 1, dst := rq r 24 8, ranks := [], recs := [],
              nan := false, src := q.src, room := q.room }
          updDie s2 d (fun x => { x with topk := tset x.topk key t, engs := x.engs.filter (fun p => p.id != q.id) }))

def execTopkOpen (d : Nat) (s : State) : Host.Outcome State Fault Refusal := .next (topkOpen d s)

/-- R168: a set is complete: its records are written, it is closed, and its OPEN's request is done. -/
def topkFinish (s : State) (d key : Nat) (t : TopkSet) (st : Status) : State :=
  let (id, s1) := takeId s d
  let q : EngReq :=
    { id := id, req := t.req, src := t.src, unit := 1, done := none, digest := none, writes := 0, wstatus := .ok, got := [], reads := [],
      replayed := false, aborted := false, room := t.room }
  let s2 := updDie s1 d (fun x => { x with topk := tdel x.topk key, engs := x.engs ++ [q] })
  let bs := (t.recs.map (fun r => toLe 4 r.1 ++ toLe 4 r.2.2)).flatten
  match engPut s2 d q [] t.dst bs with
  | .error e => setDone s2 d id (doneWith e)
  | .ok s3 => setDone s3 d id { status := st, conds := cIf t.nan cNAN, count := t.recs.length }

/-- R166, R167, R168: TOPK_ADD: merged and committed at one instant, once its own records have room. -/
def topkAdd (d : Nat) (ext : List Host.Cell) (s : State) : State :=
  engStep d 1 s (fun r => rq r 1 1 == 1) (fun q =>
    let r := q.req
    let n := rq r 56 4
    match openSet s d q with
    | .error e => setDone s d q.id (doneWith e)
    | .ok (key, t) =>
      let rank := rq r 32 2
      if t.ranks.contains rank then setDone s d q.id (doneWith .duplicate)
      else
        match engGet s d q ext (rq r 24 8) (8 * n) with
        | .error (.stop st at0) => stopReq s d q.id (doneWith st) at0
        | .error (.wait l) => engFetch s d q l
        | .ok bs =>
          if !commitRoom s q then s
          else
            let new := (upto n).map (fun i => (bytesNat bs (8 * i) 4, rank, bytesNat bs (8 * i + 4) 4))
            let (recs, nan) := topkMerge t.smallest t.k t.recs new
            let t1 := { t with recs := recs, nan := t.nan || nan, ranks := sadd t.ranks rank, merged := t.merged + n }
            let s1 := touchAll s (engPlaces s [(rq r 24 8, 8 * n)])
            let s2 := if t.l ≤ t1.ranks.length then topkFinish s1 d key t1 .ok
              else updDie s1 d (fun x => { x with topk := tset x.topk key t1 })
            commitReq s2 d q { status := .ok, conds := 0, count := n })

def execTopkAdd (d : Nat) (ext : List Host.Cell) (s : State) : Host.Outcome State Fault Refusal := .next (topkAdd d ext s)

/-- R168: TOPK_CLOSE. -/
def topkClose (d : Nat) (s : State) : State :=
  engStep d 1 s (fun r => rq r 1 1 == 2) (fun q =>
    match openSet s d q with
    | .error e => setDone s d q.id (doneWith e)
    | .ok (key, t) =>
      if !commitRoom s q then s
      else commitReq (topkFinish s d key t .incomplete) d q { status := .ok, conds := 0, count := 0 })

def execTopkClose (d : Nat) (s : State) : Host.Outcome State Fault Refusal := .next (topkClose d s)

/-! Chained jobs that wait for a ring (R151) -/

/-- R151: a chained job's record has waited 1 ms for a ring that is not enabled: RING_ERROR, once. -/
def chainedJobWait (d : Nat) (s : State) : State :=
  let off (q : Nat) : Bool := (getCq s q).state == 0 || (getCq s q).state == 3
  if s.phase != .up then s else
  match s.recs.find? (fun r => r.source == 3 && !r.told && off r.cq) with
  | some r =>
    ringError { s with recs := s.recs.map (fun x => if x == r then { x with told := true } else x) } true r.cq 4
  | none =>
    let x := getDie s d
    match x.cores.find? (fun e => match e.2.run with
      | some r => r.job.op.isNone && (r.halted || r.ended.isSome) && !r.job.told && off r.job.cq
      | none => false) with
    | some (c, k) =>
      match k.run with
      | some r => ringError (setCore s d c (setRun k { r with job := { r.job with told := true } })) true r.job.cq 4
      | none => s
    | none => s

def execChainedJobWaitTimeout (d : Nat) (s : State) : Host.Outcome State Fault Refusal := .next (chainedJobWait d s)

end Sys2Proof.Machine
end

