-- ==== Sys2Proof/Machine/Collect.lean ====
section
/-! DEFINITION. File 07, R180 to R222: collective contexts, contributions, windows, results; file 09, R282: the multicast tree; file 08, R249:
acknowledgement of collective packets. -/

namespace Sys2Proof.Machine

/-! The context block (Table 7-2) -/

def cOp (c : Ctx) : Nat := ctxF c 3 0
def cFmt (c : Ctx) : Fmt := (fmtOf (ctxF c 12 8)).getD .binary32
def cScaled (c : Ctx) : Bool := bit c.blk 13
def rFmt (c : Ctx) : Fmt := (fmtOf (ctxF c 20 16)).getD .binary32
def rScaled (c : Ctx) : Bool := bit c.blk 21
def cRIn (c : Ctx) : Nat := ctxF c 25 24
def cROut (c : Ctx) : Nat := ctxF c 27 26
def cWmode (c : Ctx) : Nat := ctxF c 31 30
def cNC (c : Ctx) : Nat := ctxF c 63 48
def cKib (c : Ctx) : Nat := if ctxF c 71 64 = 0 then 4 else ctxF c 71 64
def cSpill (c : Ctx) : Bool := bit c.blk 72
def cLocal (c : Ctx) : Bool := bit c.blk 73
def cSlots (c : Ctx) : Nat := ctxF c 95 80
def cNelem (c : Ctx) : Nat := ctxF c 127 96
def cSeed (c : Ctx) : Nat := ctxF c 255 192
def cK (c : Ctx) : Nat := ctxF c 351 336
def cDim (c : Ctx) : Nat := ctxF c 383 368
def cLocalAddr (c : Ctx) : Nat := ctxF c 447 384
def cLocalRank (c : Ctx) : Nat := ctxF c 479 464
def cPooled (c : Ctx) : Bool := cOp c == 6
def cTopk (c : Ctx) : Bool := cOp c == 5
def cSum (c : Ctx) : Bool := cOp c == 0 || cOp c == 6

/-- R185: the bytes of a grain, the elements and grains of a chunk, the chunks. -/
def cB256 (c : Ctx) : Nat := packBytes (cFmt c) 256 + (if cScaled c then 8 else 0)
def cGrains (c : Ctx) : Nat := cKib c * 1024 / cB256 c
def cE (c : Ctx) : Nat := 256 * cGrains c
def cChunks (c : Ctx) : Nat := if cTopk c then 1 else cdiv (cNelem c) (cE c)

/-- R186: the pieces of a chunk's contribution. -/
def cPieces (c : Ctx) : Nat := if cTopk c then cdiv (cKib c) 4 else cdiv (cGrains c) (4096 / cB256 c)

/-- Elements of a chunk below NELEM. -/
def cNel (c : Ctx) (ch : Nat) : Nat := min (cE c) (cNelem c - ch * cE c)

/-- R202: the footprint of a slot. -/
def cFootprint (c : Ctx) : Nat :=
  let b := 64 * cdiv (cNC c) 512
  let n := if cTopk c then 64 + 576 + 16 * cK c + b
    else 64 + 8 * cE c + cE c / 4 + 2 * cGrains c + b + (if cWmode c = 1 then b else 0)
  64 * cdiv n 64

/-- R203: the bytes of the done map. -/
def cMap (c : Ctx) : Nat := 64 * cdiv (cChunks c) 512

/-- A context of a block alone. -/
def blockCtx (b : BitVec 1024) : Ctx :=
  { id := 0, gen := 0, blk := b, op := none, sq := 0, idx := 0, cq := 0, tag := 0, noint := false, opened := false, at0 := 0, status := 0,
    dies := [], members := [], slots := [], spill := [], mapSpill := [], emitted := [], pieces := [], got := [], dlv := [], gaveUp := false,
    ltaken := false, lpricked := [], lwin := [], lsent := [], lnext := 0, digest := 0 }

/-- R180, R189, R211, R213, R214: whether a context block breaks Table 7-2 or Table 7-6. -/
def blockBad (b : BitVec 1024) : Bool :=
  let c := blockCtx b
  let z (hi lo : Nat) : Bool := fld b hi lo == 0
  let op := cOp c
  let cf := fmtOf (fld b 12 8)
  let rf := fmtOf (fld b 20 16)
  let rok := match rf with
    | some f => if f == .filet then cSum c && !rScaled c else fmtOut f && (!rScaled c || fmtScalable f)
    | none => false
  let fmts : Bool := match cf with
    | none => false
    | some f =>
      if op = 0 ∨ op = 6 then fmtOut f && (!cScaled c || fmtScalable f) && rok
      else if op = 1 ∨ op = 2 then fmtOut f && f != .couched && !cScaled c && rok
      else if op = 3 ∨ op = 4 then (f == .int8 || f == .int4 || f == .int2) && !cScaled c && rf == some f && !rScaled c
      else f == .binary32 && !cScaled c && rf == some .binary32 && !rScaled c
  let zeros := z 7 4 && z 15 14 && z 23 22 && z 79 74 && z 159 158 && z 167 168 && z 175 171 && z 367 360 && z 463 456 && z 1023 512
  let range := decide (1 ≤ cNC c) && decide (cNC c ≤ 4096) && decide (ctxF c 71 64 ≤ 16) && decide (1 ≤ cSlots c) && decide (cSlots c ≤ 256)
    && fld b 319 256 % 16 == 0 && decide (fld b 335 320 ≤ 384) && cRIn c != 3 && cROut c != 3
    && decide (cWmode c ≤ if cSum c then 1 else 0)
    && (if cTopk c then cNelem c == 0 && decide (1 ≤ cK c) && decide (cK c ≤ 4096) && decide (cK c ≤ 512 * cKib c) && decide (fld b 359 352 ≤ 1)
        else decide (1 ≤ cNelem c) && cK c == 0 && fld b 359 352 == 0)
    && (if cPooled c then decide (1 ≤ cDim c) && decide (cDim c ≤ 4096) && cNelem c % cDim c == 0 else cDim c == 0)
  !(decide (op ≤ 6) && fmts && zeros && range)

/-- R217: the total of the context that a block describes; 0 where the open will be refused. -/
def blockTotal (b : BitVec 1024) : Nat := if blockBad b then 0 else cChunks (blockCtx b)

/-- R187: the home-die list of a mask; none where the mask names a die that is not there, fenced or in selvage mode. -/
def homeDies (s : State) (mask : Nat) : Option (List Nat) :=
  let up := (upto (ndies s.variant)).filter (fun d => (getDie s d).flt == 0)
  if mask = 0 then some up
  else if (upto 8).all (fun d => !mask.testBit d || up.contains d) then some (up.filter (fun d => mask.testBit d)) else none

/-- R184, Table 7-3: the entries of a member table; none where a zero field is not zero. -/
def memberTable (bs : List Byte) (n : Nat) : Option (List Member) :=
  (upto n).mapM (fun i =>
    let e := (bs.drop (16 * i)).take 16
    if bytesNat e 2 1 < 4 ∧ bytesNat e 3 1 = 0 then
      some { port := bytesNat e 0 2, recv := (bytesNat e 2 1).testBit 0, contrib := (bytesNat e 2 1).testBit 1,
             soff := signed 32 (bytesNat e 4 4), base := bytesNat e 8 8 }
    else none)

/-- R182, R184, R260: what makes an open complete with BAD_GROUP. -/
def groupBad (s : State) (c : Ctx) : Bool :=
  let h := ownShape s
  decide (h.lx + 1 < boxDX c) || decide (h.ly + 1 < boxDY c) || decide (h.lz + 1 < boxDZ c) || (boxPos s c).isNone || c.dies.isEmpty
    || c.members.any (fun m => decide (96 * ndies s.variant ≤ m.port) || !portActive s m.port || (getPort s (m.port / 96) (m.port % 96)).major == 1
        || ((m.recv || m.contrib) && !bit (portGrant s m.port) 15))

/-- R222: the reduction pipeline that takes a chunk's work. Each command does its work at once, so neither queue ever holds any and pipeline 0
takes it; the other does where that is fenced (log entry 55). -/
def pipeOf (x : Die) : Option Nat := (upto 2).find? (fun p => !x.pipeFenced.contains p)

/-- R219, R222: whether die d can be a home: neither fenced nor in selvage mode, with a pipeline in service. -/
def homeOk (s : State) (d : Nat) : Bool := (getDie s d).flt == 0 && (pipeOf (getDie s d)).isSome

/-! Contexts in the state -/

def ctxMap (s : State) (id gen : Nat) (f : Ctx → Ctx) : State :=
  { s with ctxs := s.ctxs.map (fun c => if c.id == id && c.gen == gen then f c else c) }

/-- The context and generation as one number. -/
def ctxKey (c : Ctx) : Nat := c.id + c.gen <<< 32

def orStatus (s : State) (id gen : Nat) (w : Word32) : State := ctxMap s id gen (fun c => { c with status := c.status ||| w })

/-- Table 7-9's bits that the home keeps for every result. -/
def cGRIDINX : Word32 := 0x20
def cGRIDSAT : Word32 := 0x40
def cSPILLED : Word32 := 0x80
def cRECONTRIB : Word32 := 0x100

/-- Slots of a context in ground memory on a die. -/
def groundSlots (c : Ctx) (d : Nat) : Nat := cSlots c - tget c.spill d 0

/-- R203, Table 7-11: collective area that the open contexts reserve on a die. -/
def collUsed (s : State) (d : Nat) : Nat :=
  (s.ctxs.map (fun c => if c.opened && c.dies.contains d then
    groundSlots c d * cFootprint c + (if c.mapSpill.contains d then 0 else cMap c) else 0)).foldl (· + ·) 0

/-- Bytes of a die's overflow area that the open contexts reserve. -/
def ovfUsed (s : State) (d : Nat) : Nat :=
  (s.ctxs.map (fun c => if c.opened && c.dies.contains d then
    tget c.spill d 0 * cFootprint c + (if c.mapSpill.contains d then cMap c else 0) else 0)).foldl (· + ·) 0

/-- Table 7-11: contexts with an entry on a die. -/
def ctxEntries (s : State) (d : Nat) : Nat := (s.ctxs.filter (fun c => c.opened && c.dies.contains d)).length

/-- R203: what a context reserves on die d: slots in overflow, and whether the map goes there; none where it does not fit. -/
def fitOn (s : State) (c : Ctx) (d : Nat) : Option (Nat × Bool) :=
  let x := getDie s d
  let room := collEnd x - 0x800000 - collUsed s d
  let inGnd := decide (cMap c ≤ room)
  let n := min (cSlots c) ((room - (if inGnd then cMap c else 0)) / cFootprint c)
  let more := (cSlots c - n) * cFootprint c + (if inGnd then 0 else cMap c)
  if 2048 ≤ ctxEntries s d then none
  else if more ≠ 0 ∧ (!cSpill c ∨ ovfEnd x < ovfUsed s d + more) then none
  else some (cSlots c - n, !inGnd)

/-- R203, R205, R221: admits a queued context if every die has what it needs: its open completes with OK. -/
def admitCtx (s : State) (c : Ctx) : Option State :=
  let plan := c.dies.map (fun d => (d, fitOn s c d))
  if plan.any (fun p => p.2.isNone) then none
  else
    let spill := plan.foldl (fun (t : Tbl Nat) p => match p.2 with | some (n, _) => if n = 0 then t else tset t p.1 n | none => t) []
    let maps := plan.foldl (fun (t : NSet) p => match p.2 with | some (_, true) => sadd t p.1 | _ => t) []
    let s1 := ctxMap s c.id c.gen (fun c => { c with
      opened := true, op := none, spill := spill, mapSpill := maps,
      status := c.status ||| (if spill.isEmpty then 0 else cSPILLED) })
    some (match c.op with
      | some id => completeId s1 id .ok 0
      | none => s1)

/-- R204: the head of the admission queue. -/
def queueHead (s : State) : Option Ctx :=
  s.ctxs.foldl (fun (b : Option Ctx) c =>
    if c.opened then b
    else match b with
      | none => some c
      | some h => if ctxF h 170 168 < ctxF c 170 168 then some c else b) none

/-! The multicast tree (R282, R302) -/

/-- Table 9-7: the directions of a package's copies: frm is the direction that the packet moved in. -/
def treeDirs (c : Ctx) (pos : Nat × Nat × Nat) (frm : Option Nat) : List Nat :=
  (upto 6).filter (fun g =>
    let a := g / 2
    let (p, n) := match a with | 0 => (pos.1, boxDX c) | 1 => (pos.2.1, boxDY c) | _ => (pos.2.2, boxDZ c)
    let way := match frm with | none => true | some m => decide (m / 2 < a) || m == g
    way && (if g % 2 = 0 then decide (p + 1 < n) else decide (0 < p)))

/-- R269, R282: the onward copies of a tree packet that die d holds in buffer buf; one whose direction has no port is counted. -/
def treeCopies (s : State) (d : Nat) (c : Ctx) (e : Held) (buf : Nat) (frm : Option Nat) : State :=
  match boxPos s c with
  | none => s
  | some pos =>
    let n := pos.1 + boxDX c * (pos.2.1 + boxDY c * pos.2.2)
    let ts := (treeDirs c pos frm).map (fun g =>
      let step := match g / 2 with | 0 => 1 | 1 => boxDX c | _ => boxDX c * boxDY c
      let (x, y, z) := boxCoord s c (if g % 2 = 0 then n + step else n - step)
      let hops := if frm.isNone then 1 else hHOPS e.pkt.hdr
      let h0 := setRoute e.pkt.hdr (routeBits x y z 0x3FF 0 + 1 <<< 28 + 8 <<< 30 + hops <<< 34 + (b2n (hDL e.pkt.hdr)) <<< 29)
      (dirPort s h0 g true).map (fun p => (p, setH h0 29 29 (b2n (nextDL s h0 frm g)))))
    copies ((ts.filter (·.isNone)).foldl (fun s _ => bump s d nNOROUTE) s) d e buf (ts.filterMap id)

/-- The key of a package among those that acknowledge: its coordinates as in a route word. -/
def pkgAt (s : State) (c : Ctx) (o : Nat) : Nat :=
  let (x, y, z) := boxCoord s c o
  routeBits x y z 0 0

def ownPkg (s : State) : Nat := ownRoute s 0 0 % 2 ^ 15

/-- The header of a COLL_DN packet for a member of the package at port p. -/
def memberRoute (s : State) (h : Hdr) (p : Nat) : Hdr := setRoute h (ownRoute s p 0 + 1 <<< 28 + 8 <<< 30 + 1 <<< 34)

/-- R194, R200, R249: a window notice or a re-contribute request in buffer buf of die d goes to the package's contributors. The package
acknowledges it to each of them, and keeps it until they have acknowledged it (log entry 54). -/
def memberCopies (s : State) (d : Nat) (c : Ctx) (e : Held) (buf : Nat) : State :=
  let ports := (c.members.filter (fun m => m.contrib && bit (portGrant s m.port) 15)).map (·.port)
  if ports.isEmpty then s
  else
    let s0 := copies s d e buf (ports.map (fun p => (p, memberRoute s e.pkt.hdr p)))
    let s1 := ports.foldl (fun s p => sendUns s d 5 kCOLL_ACK 0 (collAckRest e.pkt.hdr) [] (ownRoute s p 0) 11) s0
    let (id, s2) := takeId s1 d
    updDie s2 d (fun x => { addRefs x buf 1 with coll := x.coll ++ [
      { id := id, ctx := c.id, gen := c.gen, chunk := hCHUNK e.pkt.hdr, pkt := e.pkt, wait := ports.foldl (fun t p => sadd t (65536 + p)) [],
        tries := 0, buf := some buf, sent := true }] })

/-- A COLL_DN packet of die d for a chunk. -/
def downPacket (s : State) (d : Nat) (c : Ctx) (kind ch piece : Nat) (last : Bool) (rank cchk : Nat) (bs : List Byte) : Packet :=
  mkPacket 4 kind ((chipOfDie s d).getD 0) 0 (collForm c.id c.gen piece last rank ch cchk) bs

/-- The packages of a context's box other than this one. -/
def otherPkgs (s : State) (c : Ctx) : NSet :=
  ((upto (boxNP c)).map (pkgAt s c)).foldl (fun t k => if k = ownPkg s then t else sadd t k) []

/-- A home's packet for the box: its copies go out from buffer buf, and it is kept until every package has acknowledged it. -/
def downSend (s : State) (d : Nat) (c : Ctx) (p : Packet) (buf : Nat) : State :=
  let s1 := treeCopies s d c (freshHeld s d p) buf none
  let w := otherPkgs s c
  if w.isEmpty then s1
  else
    let (id, s2) := takeId s1 d
    updDie s2 d (fun x => { addRefs x buf 1 with coll := x.coll ++ [
      { id := id, ctx := c.id, gen := c.gen, chunk := hCHUNK p.hdr, pkt := p, wait := w, tries := 0, buf := some buf, sent := true }] })

/-- R300: a buffer for a reduction pipeline's packet. -/
def pipeBuf (s : State) (d len : Nat) : Option (Nat × State) :=
  match allocReq s.variant d (getDie s d) 5 (36 + bodyLen len) 1 with
  | none => none
  | some (b, x) => some (b, setDie s d x)

/-- Sends one window notice or re-contribute request that waits for its buffer; its context may be gone, and then it goes nowhere. -/
def downTry (s : State) (d : Nat) (r : CollRec) : State :=
  if (chipOfDie s d).isNone || (getDie s d).holdoff || stopped s then s
  else
    match findCtx s r.ctx r.gen with
    | none => updDie s d (fun x => { x with coll := x.coll.filter (fun q => q.id != r.id) })
    | some c =>
      match pipeBuf s d (hLEN r.pkt.hdr) with
      | none => s
      | some (b, s1) =>
        let s2 := updDie s1 d (fun x => { x with coll := x.coll.filter (fun q => q.id != r.id) })
        let p := reseal { r.pkt with hdr := setH r.pkt.hdr 102 88 ((chipOfDie s d).getD 0) }
        let s3 := memberCopies (downSend s2 d c p b) d c (freshHeld s2 d p) b
        decBuf s3 d b 13

/-- Tries every die's collective packets that wait for a buffer. -/
def collPump (s : State) : State :=
  foldUpto (ndies s.variant) s (fun s d => ((getDie s d).coll.filter (fun r => !r.sent)).foldl (fun s r => downTry s d r) s)

/-- R194, R198, R199: die d, as a chunk's home, sends a window notice or a re-contribute request to the box. -/
def downPost (s : State) (d : Nat) (c : Ctx) (kind ch : Nat) (last : Bool) (rank cchk : Nat) (bs : List Byte) : State :=
  let (id, s1) := takeId s d
  collPump (updDie s1 d (fun x => { x with coll := x.coll ++ [
    { id := id, ctx := c.id, gen := c.gen, chunk := ch, pkt := downPacket s1 d c kind ch 0 last rank cchk bs, wait := [], tries := 0, buf := none,
      sent := false }] }))

/-! Local contributions (R213, R215) -/

/-- The die that owns an address of the package. -/
def addrDie (s : State) (a : Nat) : Option Nat :=
  match addrPlace s a .rd with
  | .ok p => placeDie p
  | .error _ => none

/-- R408: whether a stack's areas refuse a reduction pipeline of die d0 a range: the withdrawn area, and the overflow area of another die's stack. -/
def pipeBars (s : State) (d0 : Option Nat) (p : Place) (n : Nat) : Bool :=
  match p with
  | .stack t o => decide (stkCap (getDie s t).stk < o + n) || (d0 != some t && decide (o < ovfEnd (getDie s t)))
  | _ => false

/-- R408: whether a range of a context's local contribution is refused to the pipeline that owns LOCAL_ADDR. -/
def localBars (s : State) (c : Ctx) (r : Nat × Nat) : Bool :=
  match segs s .rd r.1 r.2 with
  | .ok l => l.any (fun g => pipeBars s (addrDie s (cLocalAddr c)) g.place g.len)
  | .error _ => false

/-- n bytes that a reduction pipeline reads at an address of the package; none where it reaches no such bytes, or a poisoned word. -/
def pipeRead (s : State) (a n : Nat) : Option (List Byte) :=
  if n = 0 then some []
  else
    match segs s .rd a n with
    | .error _ => none
    | .ok l =>
      if !segsHere l || l.any (fun g => placePoisoned s g.place g.len) then none
      else some ((l.map (fun g => placeBytes s g.place g.len)).flatten)

/-- Bits of an element, in 32nds: a couched element takes 168 / 32 bits. -/
def elemBits32 (f : Fmt) : Nat := if f == .couched then 168 else 32 * fmtBits f

/-- R163: the row pitch of a format. -/
def rowPitch (c : Ctx) (f : Fmt) : Nat := 64 * cdiv (packBytes f (cDim c)) 64

/-! R213: a POOLED_SUM vector lies in memory in rows of DIM elements; a row's blocks of 32 elements, its units, are numbered row by row. A vector
block of 32 elements is a unit of its own only where DIM is a multiple of 32. -/

/-- The units of a row, and the unit of an element of the vector. -/
def rowUnits (c : Ctx) : Nat := cdiv (cDim c) 32
def unitOf (c : Ctx) (e : Nat) : Nat := e / cDim c * rowUnits c + e % cDim c / 32

/-- The first element of a unit, and its elements. -/
def unitFirst (c : Ctx) (p : Nat) : Nat := p / rowUnits c * cDim c + 32 * (p % rowUnits c)
def unitLen (c : Ctx) (p : Nat) : Nat := min 32 (cDim c - 32 * (p % rowUnits c))

/-- The units whose first element lies in e0 up to e1. -/
def unitsFrom (c : Ctx) (e0 e1 : Nat) : List Nat :=
  ((upto (unitOf c e1 + 1 - unitOf c e0)).map (unitOf c e0 + ·)).filter (fun p => decide (e0 ≤ unitFirst c p) && decide (unitFirst c p < e1))

/-- The last element of a vector block. -/
def blockLast (c : Ctx) (k : Nat) : Nat := min (32 * k + 31) (cNelem c - 1)

/-- Whether a unit lies in one vector block, and whether a vector block lies in one unit. -/
def unitInBlock (c : Ctx) (p : Nat) : Bool := unitFirst c p / 32 == (unitFirst c p + unitLen c p - 1) / 32
def blockInUnit (c : Ctx) (k : Nat) : Bool := unitOf c (32 * k) == unitOf c (blockLast c k)

/-- Whether a vector block and a unit are the same elements. -/
def blockIsUnit (c : Ctx) (k : Nat) : Bool :=
  blockInUnit c k && unitFirst c (unitOf c (32 * k)) == 32 * k && unitLen c (unitOf c (32 * k)) == blockLast c k + 1 - 32 * k

/-- Where a couched unit lies: rows of pitch P, 21 bytes a unit. -/
def unitPlace (c : Ctx) (p : Nat) : Nat := p / rowUnits c * rowPitch c .couched + 21 * (p % rowUnits c)

/-- The parts of bits lo up to hi of a vector's packed elements in rows: (address offset, first bit in that byte, first bit, bits, whether
the part ends its row). -/
def rowParts (c : Ctx) (f : Fmt) (lo hi : Nat) : List (Nat × Nat × Nat × Nat × Bool) :=
  let row := max 1 (fmtBits f * cDim c)
  (upto (hi / row + 1 - lo / row)).filterMap (fun i =>
    let b := lo / row + i
    let x := max lo (b * row)
    let y := min hi ((b + 1) * row)
    if x < y then some (b * rowPitch c f + (x - b * row) / 8, (x - b * row) % 8, x, y - x, y == (b + 1) * row) else none)

/-- Bytes of the whole vector in a format, without scale bytes. -/
def vecBytes (c : Ctx) (f : Fmt) : Nat := if cPooled c then cNelem c / cDim c * rowPitch c f else packBytes f (cNelem c)

/-- The element bytes of elements from e0, n of them, of the local vector. A couched block that is no unit of a row has no stated bytes. -/
def localElems (s : State) (c : Ctx) (e0 n : Nat) : Option (List Byte) :=
  let f := cFmt c
  if !cPooled c then pipeRead s (cLocalAddr c + packBytes f e0) (packBytes f n)
  else if f == .couched then
    ((upto (cdiv n 32)).mapM (fun i =>
      let k := e0 / 32 + i
      if blockIsUnit c k then pipeRead s (cLocalAddr c + unitPlace c (unitOf c (32 * k))) 21
      else some ((upto 21).map (fun j => Config.rowByte c.id (cLocalAddr c + 21 * k + j))))).map List.flatten
  else
    let lo := fmtBits f * e0
    let v := (rowParts c f lo (lo + fmtBits f * n)).foldl (fun (a : Option Nat) (o, sh, x, m, _) =>
      match a, pipeRead s (cLocalAddr c + o) (cdiv (sh + m) 8) with
      | some a, some bs => some (a + ((leNat bs >>> sh) % 2 ^ m) <<< (x - lo))
      | _, _ => none) (some 0)
    v.map (fun v => toLe (packBytes f n) v)

/-- The addresses of the scale bytes of the blocks from b0, n of them, of the local vector: the first and how many. -/
def localScaleRange (c : Ctx) (b0 n : Nat) : Nat × Nat :=
  let a := cLocalAddr c + vecBytes c (cFmt c)
  if cPooled c then (a + unitOf c (32 * b0), if n = 0 then 0 else unitOf c (blockLast c (b0 + n - 1)) + 1 - unitOf c (32 * b0)) else (a + b0, n)

/-- The scale bytes from block b0, n of them: a block that lies in one unit of a row has that unit's; one that crosses units has none stated. -/
def localScales (s : State) (c : Ctx) (b0 n : Nat) : Option (List Byte) :=
  let (a, m) := localScaleRange c b0 n
  (pipeRead s a m).map (fun bs =>
    if !cPooled c then bs
    else (upto n).map (fun i =>
      if blockInUnit c (b0 + i) then nth bs (unitOf c (32 * (b0 + i)) - unitOf c (32 * b0)) 0
      else Config.rowByte c.id (a + b0 + i)))

/-- The ranges of the local vector that a chunk's contribution reads: address and length. -/
def localRanges (c : Ctx) (ch : Nat) : List (Nat × Nat) :=
  if cTopk c then [(cLocalAddr c, 8 * (Config.localRecords c.id % (128 * cKib c + 1)))]
  else
    let f := cFmt c
    let e0 := ch * cE c
    let n := cNel c ch
    let sc := if cScaled c then [localScaleRange c (e0 / 32) (cdiv n 32)] else []
    if !cPooled c then (cLocalAddr c + packBytes f e0, packBytes f n) :: sc
    else if f == .couched then
      ((upto (cdiv n 32)).filter (fun i => blockIsUnit c (e0 / 32 + i))).map (fun i => (cLocalAddr c + unitPlace c (unitOf c (e0 + 32 * i)), 21))
    else (rowParts c f (fmtBits f * e0) (fmtBits f * (e0 + n))).map (fun (o, sh, _, m, _) => (cLocalAddr c + o, cdiv (sh + m) 8)) ++ sc

/-- R142: what reading a chunk of the local vector leaves in memory. -/
def localTouch (s : State) (c : Ctx) (ch : Nat) : State := touchAll s (engPlaces s (localRanges c ch))

/-- R185, R186, R215: the grain bytes of a chunk of the local contribution, elements beyond the vector as code 0. -/
def localGrains (s : State) (c : Ctx) (ch : Nat) : Option (List Byte) :=
  if cTopk c then pipeRead s (cLocalAddr c) (8 * (Config.localRecords c.id % (128 * cKib c + 1)))
  else
    let f := cFmt c
    let nel := cNel c ch
    let nb := if cScaled c then cdiv nel 32 else 0
    match localElems s c (ch * cE c) nel, localScales s c (ch * cE c / 32) nb with
    | some es, some sc =>
      let es := padTo (packBytes f (cE c)) es
      let sc := padTo (if cScaled c then cE c / 32 else 0) sc
      let eb := packBytes f 256
      some (((upto (cGrains c)).map (fun g => (es.drop (eb * g)).take eb ++ (if cScaled c then (sc.drop (8 * g)).take 8 else []))).flatten)
    | _, _ => none

/-- The exact values of a chunk's elements below NELEM, from its grain bytes. -/
def grainValues (c : Ctx) (bs : List Byte) (ch : Nat) : List Val :=
  let eb := packBytes (cFmt c) 256
  (((upto (cGrains c)).map (fun g =>
    let gd := (bs.drop (cB256 c * g)).take (cB256 c)
    decodeVector (cFmt c) (cScaled c) (gd.take eb) (gd.drop eb) 256)).flatten).take (cNel c ch)

/-- R193: the pricking bytes of a chunk. -/
def prickBytes (c : Ctx) (bs : List Byte) (ch : Nat) : List Byte :=
  let vs := grainValues c bs ch
  (upto (cGrains c)).map (fun g => BitVec.ofNat 8 (prickByte ((vs.drop (256 * g)).take 256)))

/-- One COLL_UP packet of the local contribution: a copy on its way home and a record until it is acknowledged; none without a buffer, or while the die must not
send (R244, R516). -/
def upSend (s : State) (d : Nat) (c : Ctx) (kind ch piece : Nat) (last : Bool) (cchk : Nat) (bs : List Byte) : Option State :=
  if (getDie s d).holdoff then none else
  match chipOfDie s d, allocReq s.variant d (getDie s d) 5 (36 + bodyLen bs.length) 2 with
  | some me, some (b, x) =>
    let p := mkPacket 3 kind me 0 (collForm c.id c.gen piece last (cLocalRank c) ch cchk) bs
    let (hx, hy, hz) := boxCoord s c (homePkg c ch)
    let (id, s1) := takeId (setDie s d x) d
    let s2 := updDie s1 d (fun x => { x with coll := x.coll ++ [
      { id := id, ctx := c.id, gen := c.gen, chunk := ch, pkt := p, wait := [routeBits hx hy hz 0 0], tries := 0, buf := some b, sent := true }] })
    let h := fillRoute (getDie s2 d) p.hdr (routeBits hx hy hz 0x3FF 0)
    some (decideWith consumeAt s2 d { freshHeld s2 d { p with hdr := h } with buf := some b } true none)
  | _, _ => none

/-- R186: the data pieces of a chunk of the local contribution. -/
def upData (s : State) (d : Nat) (c : Ctx) (ch : Nat) : Option State :=
  match localGrains s c ch with
  | none => none
  | some bs =>
    let n := if cTopk c then 4096 else 4096 / cB256 c * cB256 c
    let ps := if bs.isEmpty then [(0, [])] else pieces n bs
    (ps.zipIdx.foldl (fun (a : Option State) (p, i) =>
      a.bind (fun s => upSend s d c kDATA ch i (i + 1 == ps.length) (if i + 1 = ps.length then crc32c bs else 0) p.2)) (some s))

/-- R193, R215: the pricking bytes of a chunk, as its piece 0 (log entry 53). -/
def upPrick (s : State) (d : Nat) (c : Ctx) (ch : Nat) : Option State :=
  (localGrains s c ch).bind (fun bs => upSend s d c kPRICK ch 0 (cPieces c == 1) 0 (prickBytes c bs ch))

/-- R200, R215: sends what the local contribution of a context can send now: pricking bytes of every chunk first, re-contributed chunks, then
chunks in increasing number; it stops where a buffer, a window or its bytes are missing, or where the areas of a stack refuse them (R408). -/
def localGo (d id gen : Nat) : Nat → State → State
  | 0, s => s
  | f + 1, s =>
    match findCtx s id gen with
    | none => s
    | some c =>
      let n := cChunks c
      let ready (ch : Nat) : Bool := cWmode c == 0 || c.lwin.contains ch
      let prick := if cWmode c = 1 then (upto n).find? (fun ch => !c.lpricked.contains ch) else none
      match prick with
      | some ch =>
        if (localRanges c ch).any (localBars s c) then ctxMap s id gen (fun c => { c with refused := true }) else
        let s0 := localTouch s c ch
        match upPrick (ctxMap s0 id gen (fun c => { c with lpricked := sadd c.lpricked ch })) d c ch with
        | some s1 => localGo d id gen f s1
        | none => s0
      | none =>
        let again := (upto c.lnext).find? (fun ch => !c.lsent.contains ch && ready ch)
        match (match again with | some ch => some ch | none => if c.lnext < n ∧ ready c.lnext then some c.lnext else none) with
        | none => s
        | some ch =>
          if (localRanges c ch).any (localBars s c) then ctxMap s id gen (fun c => { c with refused := true }) else
          let s0 := localTouch s c ch
          match upData (ctxMap s0 id gen (fun c => { c with lsent := sadd c.lsent ch, lnext := max c.lnext (ch + 1) })) d c ch with
          | some s1 => localGo d id gen f s1
          | none => s0

/-- Goes on with the local contribution of a context. -/
def localPump (s : State) (c : Ctx) : State :=
  if !c.ltaken || c.refused || stopped s then s
  else
    match addrDie s (cLocalAddr c) with
    | none => s
    | some d => if (pipeOf (getDie s d)).isNone || !dieLives s d then s else localGo d c.id c.gen (2 * cChunks c + 2) s

def localPumpAll (s : State) : State := (s.ctxs.filter (fun c => c.opened && c.ltaken)).foldl localPump s

/-! Progress (R216, R217) -/

/-- Whether a local contribution's result is delivered to LOCAL_ADDR (R209). -/
def localDelivers (c : Ctx) : Bool := cLocal c && elemBits32 (cFmt c) == elemBits32 (rFmt c)

def needsResult (c : Ctx) : Bool := c.members.any (·.recv) || localDelivers c

/-- R216: whether the conditions of a chunk hold at this package. -/
def chunkDone (s : State) (c : Ctx) (ch : Nat) : Bool :=
  (homePkg c ch != boxOrder s c || c.emitted.contains ch)
    && (!needsResult c || (c.got.contains ch && tget c.dlv ch 0 == 0))
    && (!cLocal c || (c.lsent.contains ch && (upto (ndies s.variant)).all (fun d => !(getDie s d).coll.any (fun r =>
        r.ctx == c.id && r.gen == c.gen && r.chunk == ch && (hKIND r.pkt.hdr == kDATA || hKIND r.pkt.hdr == kPRICK)))))

/-- R217: a context's progress position. -/
def ctxPos (s : State) (c : Ctx) : Nat := ((upto (cChunks c)).filter (chunkDone s c)).length

/-- R217, R367: the progress entry of an open context is written when its position has advanced by ceil(TOTAL / 1024) since the last one. -/
def ctxTell (s : State) (c : Ctx) : State :=
  let pos := ctxPos s c
  if c.opened && (getSq s c.sq).pen && decide (c.cpos + cdiv (cChunks c) 1024 ≤ pos) then
    progressEntry (ctxMap s c.id c.gen (fun k => { k with cpos := pos })) c.sq c.idx pos (cChunks c) false
  else s

/-- What collective traffic sets going: local contributions and packets that wait for a buffer go on, and progress is told. -/
def ctxPump (s : State) : State :=
  let s1 := collPump (localPumpAll s)
  s1.ctxs.foldl ctxTell s1

/-- R215: a reduction pipeline of die d takes 1 from a context's LOCAL_KNOT once it holds as much, and the contribution begins; one that has begun
goes on. -/
def localStart (d : Nat) (s : State) : State :=
  if s.phase != .up || !dieLives s d then s else
  match s.ctxs.find? (fun c => c.opened && cLocal c && !c.ltaken && addrDie s (cLocalAddr c) == some d
      && (let n := getKnot s d (ctxF c 455 448); knotKind n == 2 && decide (1 ≤ n.count))) with
  | none => ctxPump s
  | some c =>
    let k := ctxF c 455 448
    let n := getKnot s d k
    let s1 := ctxMap (setKnot s d k { n with count := n.count - 1 }) c.id c.gen (fun c => { c with ltaken := true })
    ctxPump s1

/-- R215: LOCAL_CONTRIBUTION_START. -/
def execLocalContributionStart (d : Nat) (s : State) : Host.Outcome State Fault Refusal := .next (localStart d s)

/-! Results at a package (R209, R210, R213, R401) -/

/-- R209: the element bytes and the tail bytes of a chunk's result. -/
def resultElems (c : Ctx) : Nat := packBytes (rFmt c) (cE c)
def resultTail (c : Ctx) : Nat := if rFmt c == .filet then 2 * cGrains c else if rScaled c then cE c / 32 else 0

/-- R26, R213: what bits lo up to hi of a POOLED_SUM's packed elements put in the rows, by part: its offset and its bytes, each with the mask of the
bits that another piece brings. A part that ends its row fills the row's last unit with code 0. -/
def rowBits (c : Ctx) (lo hi v : Nat) : List (Nat × List (Byte × Byte)) :=
  let f := rFmt c
  (rowParts c f lo hi).map (fun (o, sh, x, m, ends) =>
    let n := if ends then packBytes f (cDim c) - o % rowPitch c f else cdiv (sh + m) 8
    let raw := toLe n (((v >>> (x - lo)) % 2 ^ m) <<< sh)
    (o, raw.zipIdx.map (fun (b, i) =>
      let low := if i = 0 then 2 ^ sh - 1 else 0
      let high := if !ends ∧ i + 1 = n ∧ (sh + m) % 8 ≠ 0 then 2 ^ 8 - 2 ^ ((sh + m) % 8) else 0
      let other := BitVec.ofNat 8 (low ||| high)
      (b &&& ~~~other, other))))

/-- R26, R213: what they write: the other bits of a byte that two pieces share are those that the other piece has brought, and free until it has. -/
def rowWrites (c : Ctx) (lo hi v : Nat) : List (Bool × Nat × List Byte) :=
  (rowBits c lo hi v).map (fun (o, bs) =>
    (false, o, bs.zipIdx.map (fun ((b, other), i) =>
      let (m, w) := tget c.edges (o + i) (0, 0)
      let known := other &&& BitVec.ofNat 8 m
      b ||| (BitVec.ofNat 8 w &&& known) ||| (Config.rowByte c.id (o + i) &&& other &&& ~~~known))))

/-- The shared bytes of a piece, with the bits that it brings. -/
def rowEdges (c : Ctx) (lo hi v : Nat) : Tbl (Nat × Nat) :=
  (rowBits c lo hi v).foldl (fun t (o, bs) => bs.zipIdx.foldl (fun t ((b, other), i) =>
    if other = 0 then t
    else
      let (m, w) := tget t (o + i) (0, 0)
      let mine := (~~~other).toNat
      tset t (o + i) (m ||| mine, (w &&& (255 - mine)) ||| b.toNat)) t) c.edges

/-- R213: what bytes of a couched POOLED_SUM's blocks, from byte lo of the vector, write in the rows: a block that is a unit keeps its bytes; a unit
that is no block has none stated, and is written with the block of its first element. -/
def couchedWrites (c : Ctx) (lo : Nat) (bs : List Byte) : List (Bool × Nat × List Byte) :=
  let hi := lo + bs.length
  let whole := (upto (cdiv hi 21 - lo / 21)).filterMap (fun i =>
    let k := lo / 21 + i
    let x := max lo (21 * k)
    let y := min hi (21 * k + 21)
    if blockIsUnit c k then some (false, unitPlace c (unitOf c (32 * k)) + (x - 21 * k), (bs.drop (x - lo)).take (y - x)) else none)
  let torn := ((unitsFrom c (32 * cdiv lo 21) (min (32 * cdiv hi 21) (cNelem c))).filter (fun p =>
      !(unitFirst c p % 32 == 0 && blockIsUnit c (unitFirst c p / 32)))).map (fun p =>
    (false, unitPlace c p, (upto 21).map (fun j => Config.rowByte c.id (unitPlace c p + j))))
  whole ++ torn

/-- R213: what the scale bytes of the vector's blocks from b0 on write among a POOLED_SUM's: a unit that lies in one block has that block's;
one that crosses blocks has none stated. -/
def scaleWrites (c : Ctx) (b0 : Nat) (ts : List Byte) : List (Bool × Nat × List Byte) :=
  let us := unitsFrom c (32 * b0) (min (32 * (b0 + ts.length)) (cNelem c))
  match us with
  | [] => []
  | p :: _ => [(true, p, us.map (fun q => if unitInBlock c q then nth ts (unitFirst c q / 32 - b0) 0 else Config.rowByte c.id q))]

/-- The bits of the vector's packed elements that bytes from off of a chunk's result stream hold in rows, and their value: none where a POOLED_SUM's
elements do not lie so. -/
def rowSpan (c : Ctx) (ch off : Nat) (bs : List Byte) : Option (Nat × Nat × Nat) :=
  let f := rFmt c
  let nel := cNel c ch
  let at0 := packBytes f (ch * cE c) + off
  let es := bs.take (packBytes f nel - off)
  if cTopk c || !cPooled c || f == .couched || es.isEmpty then none
  else some (8 * at0, min (8 * (at0 + es.length)) (fmtBits f * (ch * cE c + nel)), leNat es)

/-- R209, R213: what bytes from off of a chunk's result stream write: whether they are tail bytes, their offset from the base of the elements
or of the tail, the bytes. Elements at or beyond NELEM are not delivered. -/
def resultWrites (c : Ctx) (ch off : Nat) (bs : List Byte) : List (Bool × Nat × List Byte) :=
  if cTopk c then [(false, off, bs)]
  else
    let f := rFmt c
    let nel := cNel c ch
    let eb := resultElems c
    let at0 := packBytes f (ch * cE c) + off
    let es := bs.take (packBytes f nel - off)
    let elems : List (Bool × Nat × List Byte) :=
      if es.isEmpty then []
      else if !cPooled c then [(false, at0, es)]
      else if f == .couched then couchedWrites c at0 es
      else match rowSpan c ch off bs with
        | some (lo, hi, v) => rowWrites c lo hi v
        | none => []
    let t0 := max off eb - eb
    let unit := if f == .filet then 2 * cdiv nel 256 else cdiv nel 32
    let ts := ((bs.drop (eb - off)).take (unit - t0))
    let tail : List (Bool × Nat × List Byte) :=
      if resultTail c = 0 ∨ ts.isEmpty ∨ off + bs.length ≤ eb then []
      else if f == .filet then [(true, 2 * (ch * cGrains c) + t0, ts)]
      else if cPooled c then scaleWrites c (ch * cE c / 32 + t0) ts
      else [(true, ch * cE c / 32 + t0, ts)]
    elems ++ tail

/-- Where the tail of a result begins, from the base of its elements: at SOFF; a POOLED_SUM's scale bytes follow the last row; a local
contribution's follow the elements. -/
def tailBase (c : Ctx) (soff : Option Int) : Int :=
  if cPooled c && rFmt c != .filet then (vecBytes c (rFmt c) : Nat)
  else match soff with
    | some o => o
    | none => (vecBytes c (rFmt c) : Nat)

def writeAddr (c : Ctx) (base : Nat) (soff : Option Int) (tail : Bool) (off : Nat) : Nat :=
  (((base : Int) + (if tail then tailBase c soff else 0) + (off : Int)) % 2 ^ 64).toNat

/-- R209, R303: DELIVER packets for the members of a package, sent by the die that holds the RESULT: each counts as one copy of its buffer until it
is acknowledged. They wait at the die's point of emission. -/
def deliverAll (s : State) (d : Nat) (c : Ctx) (ch : Nat) (ws : List (Bool × Nat × List Byte)) (buf : Nat) : State :=
  (c.members.filter (fun m => m.recv && bit (portGrant s m.port) 15)).foldl (fun s m =>
    ws.foldl (fun s (t, off, bs) =>
      let (tag, s1) := takeTag s d
      let a := writeAddr c m.base (some m.soff) t off
      let i : TxItem :=
        { pkt := mkPacket 4 kDELIVER 0 fFIN (memForm tag bs.length 0 a) bs, dst := fld (portGrant s m.port) 14 0, req := 5,
          owner := .deliver (ctxKey c) ch m.port, sequenced := true, buf := some buf }
      let s2 := updDie s1 d (fun x => { addRefs x buf 1 with txq := x.txq ++ [i] })
      ctxMap s2 c.id c.gen (fun c => { c with dlv := tset c.dlv ch (tget c.dlv ch 0 + 1) })) s) s

/-- R209, R215, R408: the result of a local contribution is written at LOCAL_ADDR, where the areas of a stack allow it. -/
def deliverLocal (s : State) (c : Ctx) (ws : List (Bool × Nat × List Byte)) : State :=
  ws.foldl (fun s (t, off, bs) =>
    let a := writeAddr c (cLocalAddr c) none t off
    if localBars s c (a, bs.length) then ctxMap s c.id c.gen (fun c => { c with refused := true })
    else match segs s .wr a bs.length with
      | .ok l => l.foldl (fun s g => placePut s g.place ((bs.drop g.off).take g.len)) s
      | .error _ => s) s

/-- R171, R401: the digest of a whole chunk's result units. -/
def chunkDigest (c : Ctx) (ch : Nat) (bs : List Byte) : Word128 :=
  if cTopk c then digestOf c.id 0 (words32 bs)
  else
    let f := rFmt c
    let nel := cNel c ch
    let per := match f with | .couched => 6 * (cE c / 32) | .filet => 2 * cE c | _ => cE c
    let g := digestOf c.id (ch * per) (digestUnits f bs nel)
    if rScaled c then
      g + digestOf c.id (2 ^ 31 + ch * cE c / 32) (((bs.drop (resultElems c)).take (cdiv nel 32)).map (·.toNat))
    else g

/-- R209, R210: a piece of a chunk's result reaches this package at die d, in buffer buf. -/
def gotResult (s : State) (d : Nat) (c : Ctx) (h : Hdr) (bs : List Byte) (buf : Nat) : State :=
  let ch := hCHUNK h
  let s1 := orStatus s c.id c.gen (BitVec.ofNat 32 (hCCHK h % 2 ^ 9))
  let have' := tget c.pieces ch []
  if c.got.contains ch || have'.any (fun p => p.1 == hPIECE h) then s1
  else
    let all := have' ++ [(hPIECE h, hLAST h, bs)]
    let ws := resultWrites c ch (4096 * hPIECE h) bs
    let s2 := deliverAll (match rowSpan c ch (4096 * hPIECE h) bs with
      | some (lo, hi, v) => ctxMap s1 c.id c.gen (fun k => { k with edges := rowEdges k lo hi v })
      | none => s1) d c ch ws buf
    let s3 := if localDelivers c then deliverLocal s2 c ws else s2
    match all.find? (fun p => p.2.1) with
    | some (n, _, _) =>
      if all.length = n + 1 then
        let whole := ((upto (n + 1)).map (fun i => ((all.find? (fun p => p.1 == i)).map (fun p => p.2.2)).getD [])).flatten
        ctxMap s3 c.id c.gen (fun k => { k with pieces := tdel k.pieces ch, got := sadd k.got ch, digest := k.digest + chunkDigest c ch whole })
      else ctxMap s3 c.id c.gen (fun k => { k with pieces := tset k.pieces ch all })
    | none => ctxMap s3 c.id c.gen (fun k => { k with pieces := tset k.pieces ch all })

/-- R216: a DELIVER of a chunk has been acknowledged, or given up. -/
def deliverSettled (s : State) (key ch : Nat) (ok : Bool) : State :=
  ctxMap s (key % 2 ^ 32) (key / 2 ^ 32) (fun c => { c with
    dlv := (let n := tget c.dlv ch 0 - 1; if n = 0 then tdel c.dlv ch else tset c.dlv ch n), gaveUp := c.gaveUp || !ok })

/-- R194, R196: the local contribution hears a chunk's windows. -/
def localWindow (s : State) (c : Ctx) (ch : Nat) : State := ctxMap s c.id c.gen (fun c => { c with lwin := sadd c.lwin ch })

/-- R200: the local contribution is asked for a chunk again. -/
def localAgain (s : State) (c : Ctx) (ch rank : Nat) (reprick : Bool) : State :=
  if cLocal c && (rank == 0xFFFF || rank == cLocalRank c) then
    ctxMap s c.id c.gen (fun c => { c with
      lsent := sdel c.lsent ch
      lpricked := if reprick then sdel c.lpricked ch else c.lpricked
      lwin := if reprick then sdel c.lwin ch else c.lwin })
  else s

/-! Packets of the home at a package (R188, R209, R249) -/

/-- R188, R249, R282: a RESULT, WINDOW or RECONTRIB reaches this package at die d: acknowledged to the home, sent onward, and acted on. -/
def downStep (s : State) (d : Nat) (e : Held) (act : State → Ctx → Held → Nat → State) : State :=
  let h := e.pkt.hdr
  let s0 := sendCollAck s d h
  match findCtx s (hCTX h) (hGEN h), e.buf with
  | some c, some b =>
    if cChunks c ≤ hCHUNK h then bump s0 d nNOT_OPEN
    else
      let s1 := if hRESENT h then s0 else treeCopies s0 d c e b (cameFrom s0 d e)
      ctxPump (act s1 c e b)
  | _, _ => bump s0 d nNOT_OPEN

/-- R209: RESULT. -/
def execResult (d : Nat) (s : State) : Host.Outcome State Fault Refusal :=
  .next (onKind kRESULT d s (fun s e => downStep s d e (fun s c e b => gotResult s d c e.pkt.hdr (payload e.pkt) b)))

/-- R196: WINDOW. -/
def execWindow (d : Nat) (s : State) : Host.Outcome State Fault Refusal :=
  .next (onKind kWINDOW d s (fun s e => downStep s d e (fun s c e b => localWindow (memberCopies s d c e b) c (hCHUNK e.pkt.hdr))))

/-- R200: RECONTRIB. -/
def execRecontrib (d : Nat) (s : State) : Host.Outcome State Fault Refusal :=
  .next (onKind kRECONTRIB d s (fun s e => downStep s d e (fun s c e b =>
    localAgain (memberCopies s d c e b) c (hCHUNK e.pkt.hdr) (hRANK e.pkt.hdr) (hCCHK e.pkt.hdr % 2 == 1))))

/-- R209: DELIVER: die d sends what waits for its members; a DELIVER that reaches a die writes nothing there. -/
def execDeliver (d : Nat) (s : State) : Host.Outcome State Fault Refusal :=
  .next (onKind kDELIVER d (if s.phase == .up then pumpDie s d else s) (fun s _ => s))

/-! Acknowledgements of collective packets (R249) -/

/-- Who a COLL_ACK comes from: a package by its coordinates, or an endpoint of this package. -/
def ackFrom (s : State) (chip : Nat) : Nat :=
  if (dieOfChip s chip).isSome then ownPkg s
  else
    match portOfChip s chip with
    | some p => 65536 + p
    | none => match chipEntry s chip with
      | some w => fld w 14 0
      | none => 2 ^ 20

/-- Whether a COLL_ACK's header names a record's packet. -/
def ackMatches (r : CollRec) (h : Hdr) (who : Nat) : Bool :=
  let p := r.pkt.hdr
  hCTX p == hCTX h && hGEN p == hGEN h && hCHUNK p == hCHUNK h && hPIECE p == hPIECE h && hRANK p == hRANK h && hKIND p == hCCHK h
    && r.wait.contains who

/-- R249: one acknowledgement at die d: a record that everyone has acknowledged is over. -/
def collAcked (s : State) (d : Nat) (h : Hdr) (who : Nat) : State :=
  let x := getDie s d
  let hit := x.coll.filter (fun r => ackMatches r h who)
  let over' := hit.filter (fun r => r.wait.length ≤ 1)
  let s1 := setDie s d { x with coll := (x.coll.filter (fun r => !(over'.any (fun o => o.id == r.id)))).map (fun r =>
    if ackMatches r h who then { r with wait := sdel r.wait who } else r) }
  over'.foldl (fun s r => decOpt s d r.buf 13) s1

/-- R249: COLL_ACK: an endpoint's acknowledgement ends the wait of whichever die holds the record. -/
def collAckStep (s : State) (d : Nat) (h : Hdr) : State :=
  let who := ackFrom s (hSRC h)
  let s1 := if 65536 ≤ who then foldUpto (ndies s.variant) s (fun s t => collAcked s t h who) else collAcked s d h who
  ctxPump s1

/-- R249: COLL_ACK. -/
def execCollAck (d : Nat) (s : State) : Host.Outcome State Fault Refusal := .next (onKind kCOLL_ACK d s (fun s e => collAckStep s d e.pkt.hdr))

/-- R249: acknowledges a COLL_UP packet; within the die there is no packet to send. -/
def ackUp (s : State) (d : Nat) (h : Hdr) : State :=
  if chipOfDie s d = some (hSRC h) then collAcked s d (setH h 255 224 (hKIND h)) (ownPkg s) else sendCollAck s d h

/-! Contributions at the home (R194 to R199, R206, R211, R212) -/

def slotFind (c : Ctx) (ch : Nat) : Option Slot := c.slots.find? (fun t => t.chunk == ch)

def slotPut (s : State) (c : Ctx) (t : Slot) : State :=
  ctxMap s c.id c.gen (fun c => { c with slots := c.slots.map (fun u => if u.chunk == t.chunk then t else u) })

/-- R206: the lowest-numbered free slot of die d. -/
def freeSlot (c : Ctx) (d : Nat) : Option Nat :=
  (upto (cSlots c)).find? (fun i => !c.slots.any (fun t => t.die == d && t.idx == i))

/-- A slot before anything was counted. -/
def slotNew (c : Ctx) (d ch i : Nat) : Slot :=
  { die := d, chunk := ch, idx := i, words := [], spec := [], prick := [], pricked := [], fixed := cWmode c == 0, arrived := [], staged := [],
    recs := [], nan := false }

/-- The windows in force in a slot, by grain. -/
def slotWins (c : Ctx) (t : Slot) : List Int :=
  if cWmode c = 0 then List.replicate (cGrains c) (signed 16 (ctxF c 47 32)) else t.prick.map windowOf

/-- Table 7-6: what slot words start as. -/
def startWord (c : Ctx) : Word64 :=
  match cOp c with
  | 1 => BitVec.ofNat 64 (2 ^ 63)
  | 2 => BitVec.ofNat 64 (2 ^ 63 - 1)
  | 3 => BitVec.ofNat 64 (2 ^ fmtBits (cFmt c) - 1)
  | _ => 0

def slotWords (c : Ctx) (t : Slot) : List Word64 := if t.words.isEmpty then List.replicate (cNel c t.chunk) (startWord c) else t.words
def slotSpec (c : Ctx) (t : Slot) : List Nat := if t.spec.isEmpty then List.replicate (cNel c t.chunk) 0 else t.spec

/-- R212: the key of an element's code; none for a NaN. -/
def keyOf (f : Fmt) (code : Nat) : Option Int :=
  match fmtFloat f with
  | none => some (vNum (decodeCode f code))
  | some _ =>
    let sgn := 2 ^ (fmtBits f - 1)
    if vIsNan (decodeCode f code) then none
    else if code < sgn then some code else some (-((code - sgn : Nat) : Int) - 1)

/-- R212: the value of the code whose key a slot holds. -/
def keyVal (f : Fmt) (k : Int) : Val :=
  match fmtFloat f with
  | none => vInt k
  | some _ => decodeCode f (if 0 ≤ k then k.toNat else 2 ^ (fmtBits f - 1) + (-k - 1).toNat)

/-- R189 to R191, R211, R212: one contribution combined into a slot's words and special codes; GRID_INX and GRID_SAT. -/
def combine (c : Ctx) (t : Slot) (rank : Nat) (bs : List Byte) : Slot × Word32 :=
  let ch := t.chunk
  let old := (slotWords c t).zip (slotSpec c t)
  if cTopk c then
    let n := bs.length / 8
    let new := (upto n).map (fun i => (bytesNat bs (8 * i) 4, rank, bytesNat bs (8 * i + 4) 4))
    let (recs, nan) := topkMerge (ctxF c 359 352 == 1) (cK c) t.recs new
    ({ t with recs := recs, nan := t.nan || nan }, 0)
  else if cSum c then
    let wins := slotWins c t
    let out := ((grainValues c bs ch).zip old).zipIdx.map (fun ((v, w, p), i) =>
      let e := (ch * cE c + i) % 2 ^ 32
      let r := if cRIn c = 1 then srGen (cSeed c) e rank else 0
      let (a, inx, sat) := toGrid v (nth wins (i / 256) 0) (cRIn c) r
      (w + BitVec.ofInt 64 a, p ||| specCode v, inx, sat))
    ({ t with words := out.map (fun o => o.1), spec := out.map (fun o => o.2.1) },
      cIf (out.any (fun o => o.2.2.1)) cGRIDINX ||| cIf (out.any (fun o => o.2.2.2)) cGRIDSAT)
  else
    let eb := packBytes (cFmt c) 256
    let codes := (((upto (cGrains c)).map (fun g => unpackCodes (cFmt c) ((bs.drop (cB256 c * g)).take eb) 256)).flatten).take (cNel c ch)
    let out := (codes.zip old).map (fun (k, w, p) =>
      match cOp c with
      | 3 => (w &&& BitVec.ofNat 64 k, p)
      | 4 => (w ||| BitVec.ofNat 64 k, p)
      | o =>
        match keyOf (cFmt c) k with
        | none => (w, 3)
        | some key => (BitVec.ofInt 64 (if o = 1 then max w.toInt key else min w.toInt key), p))
    ({ t with words := out.map (·.1), spec := out.map (·.2) }, 0)

/-- R142, R413: the bank, or the stack, that holds a slot counts the poisoned word found in it. -/
def slotUe (s : State) (d : Nat) (c : Ctx) (t : Slot) : State :=
  updDie s d (fun x =>
    if t.idx < groundSlots c d then { x with gnd := { x.gnd with ue := satAdd 0xFF x.gnd.ue 1 } }
    else { x with stk := { x.stk with ue := satAdd 0xFF x.stk.ue 1 } })

/-- R199: a poisoned word of a slot: no contribution is counted any more, and all ranks are asked again. win says that a word that holds the windows
is poisoned. -/
def slotPoisoned (s : State) (d : Nat) (c : Ctx) (t : Slot) (win : Bool) : State :=
  let lost := cWmode c == 1 && (!t.fixed || win)
  let t1 := { slotNew c t.die t.chunk t.idx with
    staged := t.staged, prick := if lost then [] else t.prick, pricked := if lost then [] else t.pricked, fixed := if lost then false else t.fixed }
  let s1 := orStatus (slotPut s c t1) c.id c.gen cRECONTRIB
  let s2 := reportFault (slotUe s1 d c t) 1 12 0 d 0x15 1
  localAgain (downPost s2 d c kRECONTRIB t.chunk false 0xFFFF (b2n lost) []) c t.chunk 0xFFFF lost

/-- R304: the buffer of a piece moves to the staging requester, where its quota has room: its credit goes back. -/
def stageBuf (s : State) (d h : Nat) : Option State :=
  let x := getDie s d
  match tfind x.bufs h with
  | none => none
  | some e =>
    if regFld x (rBPM_QUOTA 13) 19 0 < tget x.reqUse 13 0 + e.units then none
    else
      let free := match e.req with
        | some n => tset x.reqUse n (tget x.reqUse n 0 - e.units)
        | none => x.reqUse
      let s1 := setDie s d { x with
        bufs := tset x.bufs h { e with req := some 13, credit := none, refs := e.refs + 1 }
        reqUse := tset free 13 (tget free 13 0 + e.units) }
      some (match e.credit with
        | some (inp, b) => returnCredit s1 d inp b e.units
        | none => s1)

/-- Releases the buffers of staged pieces. -/
def unstage (s : State) (d : Nat) (ps : List Piece) : State := ps.foldl (fun s p => decOpt s d p.buf 13) s

/-- R197, R198, R249: the pieces of one rank's contribution are complete: checked, counted once and added. -/
def contribute (s : State) (d : Nat) (c : Ctx) (t : Slot) (rank : Nat) (ps : List Piece) (poison : Nat) : State :=
  let bs := ((upto ps.length).map (fun i => ((ps.find? (fun p => p.piece == i)).map (·.bytes)).getD [])).flatten
  let chk := ((ps.find? (fun p => p.last)).map (·.cchk)).getD 0
  let sizeOk := if cTopk c then bs.length % 8 == 0 && decide (bs.length ≤ 1024 * cKib c) else bs.length == cGrains c * cB256 c
  let t0 := { t with staged := t.staged.filter (fun p => p.rank != rank) }
  let s1 := unstage (slotPut s c t0) d (t.staged.filter (fun p => p.rank == rank))
  if crc32c bs ≠ chk ∨ !sizeOk then
    let s2 := reportFault (bump s1 d nCHUNK_CRC) 1 12 0 d 0x16 1
    localAgain (downPost s2 d c kRECONTRIB t.chunk false rank 0 []) c t.chunk rank false
  else if poison ≠ 0 then slotPoisoned s1 d c t0 (poison == 2)
  else
    let (t1, k) := combine c t0 rank bs
    orStatus (slotPut s1 c { t1 with arrived := sadd t1.arrived rank }) c.id c.gen k

/-- R188, R197, R519: whether a COLL_UP packet is for a chunk, rank and piece that the context has at this home. -/
def upValid (s : State) (d : Nat) (c : Ctx) (h : Hdr) : Bool :=
  decide (hCHUNK h < cChunks c) && decide (hRANK h < cNC c) && homePkg c (hCHUNK h) == boxOrder s c && homeDie c (hCHUNK h) == d
    && decide (hPIECE h < cPieces c) && (cTopk c || !hLAST h || hPIECE h + 1 == cPieces c)

/-- R203, R206: the slot of a chunk at die d, or the lowest free one given to it. -/
def slotFor (c : Ctx) (d ch : Nat) : Option Slot :=
  match slotFind c ch with
  | some t => some t
  | none => (freeSlot c d).map (slotNew c d ch)

/-- Whether a chunk's windows have been fixed (R194). -/
def slotFixed (c : Ctx) (ch : Nat) : Bool :=
  match slotFind c ch with
  | some t => t.fixed
  | none => false

/-- R194 to R198: a DATA piece at die d; poison is what the pipeline finds as it reads the slot (R199): nothing (0), a poisoned word, code or bitmap
(1), a poisoned window (2). -/
def dataStep (s : State) (d : Nat) (e : Held) (poison : Nat) : State :=
  let h := e.pkt.hdr
  let ch := hCHUNK h
  match findCtx s (hCTX h) (hGEN h) with
  | none => bump s d nNOT_OPEN
  | some c =>
    if !upValid s d c h then bump s d nNOT_OPEN
    else if c.emitted.contains ch then ackUp (bump s d nCOLLDUP) d h
    else
      if cWmode c == 1 && !slotFixed c ch then bump s d nEARLY
      else
        match slotFor c d ch with
        | none => bump s d nNOSLOT
        | some t =>
          if t.arrived.contains (hRANK h) || t.staged.any (fun p => p.rank == hRANK h && p.piece == hPIECE h) then ackUp (bump s d nCOLLDUP) d h
          else
            let mine := t.staged.filter (fun p => p.rank == hRANK h)
            let p : Piece :=
              { rank := hRANK h, piece := hPIECE h, last := hLAST h, cchk := hCCHK h, bytes := payload e.pkt, buf := none }
            let all := mine ++ [p]
            let whole := match all.find? (fun q => q.last) with
              | some q => (upto (q.piece + 1)).all (fun i => all.any (fun r => r.piece == i))
              | none => false
            let sl := if (slotFind c ch).isSome then s else ctxMap s c.id c.gen (fun c => { c with slots := c.slots ++ [t] })
            if whole then contribute (ackUp sl d h) d c t (hRANK h) all poison
            else
              match e.buf with
              | none => s
              | some b =>
                match stageBuf sl d b with
                | none => s
                | some s1 => slotPut (ackUp s1 d h) c { t with staged := t.staged ++ [{ p with buf := some b }] }

/-- R197: DATA. -/
def execData (d poison : Nat) (s : State) : Host.Outcome State Fault Refusal :=
  .next (onKind kDATA d s (fun s e => ctxPump (dataStep s d e poison)))

/-- The larger of two lists, position by position. -/
def maxList : List Nat → List Nat → List Nat
  | [], l => l
  | l, [] => l
  | a :: l, b :: m => max a b :: maxList l m

/-- R193, R194, R206: a PRICK packet at die d. -/
def prickStep (s : State) (d : Nat) (e : Held) (poison : Nat) : State :=
  let h := e.pkt.hdr
  let ch := hCHUNK h
  match findCtx s (hCTX h) (hGEN h) with
  | none => bump s d nNOT_OPEN
  | some c =>
    if !upValid s d c h || cWmode c != 1 then bump s d nNOT_OPEN
    else if c.emitted.contains ch then ackUp (bump s d nCOLLDUP) d h
    else
      match slotFor c d ch with
      | none => bump s d nNOSLOT
      | some t =>
        let s0 := if (slotFind c ch).isSome then s else ctxMap s c.id c.gen (fun c => { c with slots := c.slots ++ [t] })
        if poison ≠ 0 ∧ (slotFind c ch).isSome then slotPoisoned s0 d c t (poison == 2)
        else if t.pricked.contains (hRANK h) then ackUp (bump s0 d nCOLLDUP) d h
        else
          let bs := ((payload e.pkt).take (cGrains c)).map (·.toNat)
          let full := List.replicate (cGrains c) 0
          let t1 := { t with pricked := sadd t.pricked (hRANK h), prick := maxList (if t.prick.isEmpty then full else t.prick) bs }
          let s1 := ackUp s0 d h
          if t1.pricked.length < cNC c then slotPut s1 c t1
          else
            let s2 := slotPut s1 c { t1 with fixed := true }
            let s3 := downPost s2 d c kWINDOW ch true 0 0 (t1.prick.map (BitVec.ofNat 8 ·))
            if cLocal c then localWindow s3 c ch else s3

/-- R194: PRICK. -/
def execPrick (d poison : Nat) (s : State) : Host.Outcome State Fault Refusal :=
  .next (onKind kPRICK d s (fun s e => ctxPump (prickStep s d e poison)))

/-! Results at the home (R206 to R210) -/

/-- R208: the raw word of an element. -/
def rawWord (w : Word64) (spec : Nat) : Nat :=
  match spec with
  | 0 => w.toNat
  | 1 => 2 ^ 63 - 1
  | 2 => 2 ^ 63 + 1
  | _ => 2 ^ 63

/-- R207, R208, R214: a full chunk's result stream and the conditions of its conversion. -/
def convertChunk (c : Ctx) (t : Slot) : List Byte × Word32 :=
  let ch := t.chunk
  if cTopk c then ((t.recs.map (fun r => toLe 4 r.1 ++ toLe 4 r.2.2)).flatten, cIf t.nan cNAN)
  else
    let f := rFmt c
    let pad := cE c - cNel c ch
    let els := (slotWords c t).zip (slotSpec c t)
    let wins := slotWins c t
    if f == .filet then
      (((els.map (fun (w, p) => toLe 8 (rawWord w p))).flatten ++ List.replicate (8 * pad) 0)
        ++ (wins.map (fun w => toLe 2 (w % 2 ^ 16).toNat)).flatten, 0)
    else if cOp c = 3 ∨ cOp c = 4 then (packCodes f (els.map (fun e => e.1.toNat) ++ List.replicate pad 0), 0)
    else
      let vs := els.zipIdx.map (fun ((w, p), i) =>
        if cSum c then filetVal w.toInt p (nth wins (i / 256) 0)
        else if p ≠ 0 then .nan else keyVal (cFmt c) w.toInt)
      let o := encodeVector f (rScaled c) (cROut c) (bit c.blk 28) (bit c.blk 29)
        (fun i => if cROut c = 1 then srGen (cSeed c) ((ch * cE c + i) % 2 ^ 32) (2 ^ 32 - 1) else 0)
        (vs ++ List.replicate pad (Val.fin false 0 1))
      (o.bytes ++ o.scales, o.conds &&& 0x1F)

/-- Buffers of a reduction pipeline for packets of the lengths given; none where one is missing. -/
def pipeBufs (d : Nat) : List Nat → State → Option (List Nat × State)
  | [], s => some ([], s)
  | n :: l, s =>
    match pipeBuf s d n with
    | none => none
    | some (b, s1) => (pipeBufs d l s1).map (fun p => (b :: p.1, p.2))

/-- R206: the first full slot of die d, with its context. -/
def readySlot (s : State) (d : Nat) : Option (Ctx × Slot) :=
  s.ctxs.findSome? (fun c =>
    if !c.opened then none
    else (c.slots.find? (fun t => t.die == d && t.arrived.length == cNC c)).map (fun t => (c, t)))

/-- R206 to R210: the chunk of the first full slot of die d is converted, and its result goes to the box once every piece has a buffer: the slot
becomes free and the chunk's bit in the done map is set. poison is what the codec finds as it reads the slot (R199). -/
def chunkConvert (d poison : Nat) (s : State) : State :=
  let x := getDie s d
  if s.phase != .up || !dieLives s d || (x.engFenced.contains 2 && x.engFenced.contains 3) || (chipOfDie s d).isNone || x.holdoff || stopped s then s
  else
    match readySlot s d with
    | none => s
    | some (c, t) =>
      if poison ≠ 0 then slotPoisoned s d c t (poison == 2)
      else
        let (bs, k) := convertChunk c t
        let ps := if bs.isEmpty then [(0, [])] else pieces 4096 bs
        match pipeBufs d (ps.map (fun p => p.2.length)) s with
        | none => s
        | some (bufs, s1) =>
          let s2 := ctxMap (orStatus s1 c.id c.gen k) c.id c.gen (fun c => { c with
            slots := c.slots.filter (fun u => u.chunk != t.chunk), emitted := sadd c.emitted t.chunk })
          let s3 := unstage s2 d t.staged
          let stw := match findCtx s3 c.id c.gen with | some c => c.status | none => 0
          let cchk := (k ||| (stw &&& 0x1E0)).toNat
          (ps.zip bufs).zipIdx.foldl (fun s ((p, b), i) =>
            match findCtx s c.id c.gen with
            | none => decBuf s d b 13
            | some c =>
              let q := downPacket s d c kRESULT t.chunk i (i + 1 == ps.length) 0 cchk p.2
              decBuf (gotResult (downSend s d c q b) d c q.hdr p.2 b) d b 13) s3

/-- R207: CHUNK_RESULT_CONVERT. -/
def execChunkResultConvert (d poison : Nat) (s : State) : Host.Outcome State Fault Refusal :=
  .next (ctxPump (chunkConvert d poison s))

/-! Completion (R216 to R219) -/

/-- R216, R218: a context ends at this package: what it holds is discarded, and its record is written. -/
def ctxEnd (s : State) (c : Ctx) (st : Status) : State :=
  let pos := ctxPos s c
  let s1 := c.slots.foldl (fun s t => unstage s t.die t.staged) s
  let s2 := dropItems { s1 with ctxs := s1.ctxs.filter (fun k => !(k.id == c.id && k.gen == c.gen)) } (fun _ i =>
    match i.owner with | .deliver key _ _ => key == ctxKey c | _ => false)
  let s3 := if st = .ok then putLog s2 2 0xFF 0 c.id c.tag c.digest else s2
  postRec s3
    { op := none, cq := c.cq, tag := c.tag, status := st, sq := c.sq, source := 1, idx := c.idx, pos := pos, d0 := c.status, d1 := 0, d2 := 0,
      noint := c.noint, told := false, total := if c.opened then some (cChunks c) else none }

/-- R216, R408: a context all of whose chunks are done commits, once its record has room; one whose local contribution was refused ends with BAD_ADDR
(log entry 81). -/
def contextCommit (s : State) : State :=
  if s.phase != .up then s else
  match s.ctxs.find? (fun c => c.opened && (c.refused || (upto (cChunks c)).all (chunkDone s c)) && ringReady s c.cq) with
  | some c => ctxEnd s c (if c.refused then .badAddr else if c.gaveUp then .noAck else .ok)
  | none => s

/-- R216: CONTEXT_COMMIT. -/
def execContextCommit (s : State) : Host.Outcome State Fault Refusal := .next (contextCommit s)

/-- R219: whether LIMIT_MS have passed since a context's acceptance; 0 sets no limit. -/
def limitOver (s : State) (c : Ctx) : Bool := ctxF c 511 480 != 0 && decide (c.at0 + 1000000 * ctxF c 511 480 ≤ s.now)

/-- R219: the context of an identifier and generation is still open LIMIT_MS after its acceptance. -/
def limitExpiry (id gen : Nat) (s : State) : State :=
  match s.ctxs.find? (fun c => c.opened && c.id == id && c.gen == gen && limitOver s c) with
  | some c => ctxEnd s c .timeout
  | none => s

/-- R219: CONTEXT_LIMIT_EXPIRY. -/
def execContextLimitExpiry (id gen : Nat) (s : State) : Host.Outcome State Fault Refusal := .next (limitExpiry id gen s)

/-- R218, R219: a context ends at this package with a status other than its own completion; the open of one that is still queued completes with that
status too (DESIGN CHOICE). -/
def ctxStop (s : State) (c : Ctx) (st : Status) : State :=
  ctxEnd (match c.op with
    | some q => completeId s q st 0
    | none => s) c st

/-- R219: a home die is fenced, in selvage mode, or has no reduction pipeline left: its contexts, open and queued, end with HOME_LOST. -/
def homeLost (s : State) (d : Nat) : State :=
  (s.ctxs.filter (fun c => c.dies.contains d)).foldl (fun s c => ctxStop s c .homeLost) s

/-- R218: a close of a context. -/
def closeContext (s : State) (o : Op) (id gen : Nat) : State :=
  match s.ctxs.find? (fun c => c.id == id && c.gen == gen) with
  | none => complete s o .alreadyComplete 0
  | some c => complete (ctxStop s c .aborted) o .ok 0

/-! Admission (R203, R204) -/

/-- R204: CONTEXT_ADMISSION_TRY. A head whose home-die list holds a lost die ends instead (R219). -/
def admissionTry (s : State) : State :=
  match queueHead s with
  | some c => if c.dies.all (homeOk s) then (admitCtx s c).getD s else ctxStop s c .homeLost
  | none => s

def execContextAdmissionTry (s : State) : Host.Outcome State Fault Refusal := .next (admissionTry s)

/-- R204: whether ADM_MS have passed since a context's acceptance. -/
def admOver (s : State) (c : Ctx) : Bool :=
  decide (c.at0 + 1000000 * (if ctxF c 183 176 = 0 then 10 else ctxF c 183 176) ≤ s.now)

/-- R204: the context of an identifier, still queued ADM_MS after its acceptance, leaves the queue with NO_ROOM. -/
def admissionTimeout (id : Nat) (s : State) : State :=
  match s.ctxs.find? (fun c => !c.opened && c.id == id && admOver s c) with
  | none => s
  | some c =>
    let s1 := { s with ctxs := s.ctxs.filter (fun k => !(k.id == c.id && k.gen == c.gen)) }
    admissionTry (match c.op with
      | some o => completeId s1 o .noRoom 0
      | none => s1)

/-- R204: ADMISSION_TIMEOUT. -/
def execAdmissionTimeout (id : Nat) (s : State) : Host.Outcome State Fault Refusal := .next (admissionTimeout id s)

/-- R180 to R187, R204, R220: an open with its block and member table joins the queue; the head is tried. The checks run BAD_FORMAT, BAD_GROUP,
CTX_BUSY (DESIGN CHOICE). -/
def openContext (s : State) (o : Op) (id : Nat) (blk : BitVec 1024) (tbl : List Byte) : State :=
  if blockBad blk then complete s o .badFormat 0
  else
    match memberTable tbl (fld blk 335 320) with
    | none => complete s o .badFormat 0
    | some ms =>
      let dies := homeDies s (fld blk 167 160)
      let c : Ctx :=
        { id := id, gen := fld blk 191 184, blk := blk, op := some o.id, sq := o.sq, idx := o.idx, cq := o.cq, tag := o.tag, noint := o.noint,
          opened := false, at0 := s.now, status := 0, dies := dies.getD [], members := ms, slots := [], spill := [], mapSpill := [], emitted := [],
          pieces := [], got := [], dlv := [], gaveUp := false, ltaken := false, lpricked := [], lwin := [], lsent := [], lnext := 0, digest := 0 }
      if dies.isNone || groupBad s c then complete s o .badGroup 0
      else if s.ctxs.any (fun k => k.id == id) then complete s o .ctxBusy 0
      else if 2048 ≤ (s.ctxs.filter (fun k => !k.opened)).length then complete s o .ctxBusy 0
      else admissionTry { s with ctxs := s.ctxs ++ [c] }

end Sys2Proof.Machine
end

