-- ==== Sys2Proof/Machine/Transport.lean ====
section
/-! DEFINITION. File 08: what the kinds of packets do at the die that consumes them (R233, R234, R254 to R258, R517, R518), acknowledgement,
re-sends and giving up (R244 to R249). -/

namespace Sys2Proof.Machine

/-! Messages (R254 to R258) -/

/-- R257, R258: a message is lost or malformed: its entry is freed, and the loss is counted and reported. -/
def finLost (s : State) (d key : Nat) : State :=
  reportFault (bump (updDie s d (fun x => { x with fin := tdel x.fin key })) d nMSGERR) 1 12 0 d 0x13 2

/-- R255, R256, R258, R517: an accepted packet adds its LEN to its message; a message that is complete signals its knot under NTF. -/
def finCount (s : State) (d : Nat) (e : Held) : State :=
  let h := e.pkt.hdr
  if noFinish e then s
  else
    let key := finKey (hSRC h) (hTAG h)
    let f := tget (getDie s d).fin key finEmpty
    let n := f.count + hLEN h
    let g : FinEnt := if hFIN h then { f with count := n, total := some (hTOTAL h), ntf := hNTF h, nknot := hNKNOT h } else { f with count := n }
    if (hFIN h && f.total.isSome) || (match g.total with | some t => decide (t < n) | none => false) then finLost s d key
    else if g.total = some n then
      let s1 := updDie s d (fun x => { x with fin := tdel x.fin key })
      if g.ntf then signalFrom s1 d g.nknot 1 else s1
    else updDie s d (fun x => { x with fin := tset x.fin key g })

/-- R257: a parked message of source chip src is still incomplete FIN_WAIT_US after its finish or the last request. -/
def finWait (d src tag : Nat) (s : State) : State :=
  let key := finKey src tag
  match tfind (getDie s d).fin key with
  | none => s
  | some f =>
    if f.total.isNone || s.phase != .up || !dieLives s d then s
    else
      let asks := if f.asks = 0 ∨ f.mark ≠ f.count then 0 else f.asks
      if 8 ≤ asks then finLost s d key
      else sendResend (updDie s d (fun x => { x with fin := tset x.fin key { f with asks := asks + 1, mark := f.count } })) d src 0 tag 0

/-- R257: FIN_WAIT_EXPIRY. -/
def execFinWaitExpiry (d src tag : Nat) (s : State) : Host.Outcome State Fault Refusal := .next (finWait d src tag s)

/-! Accesses that packets make (R138, R149, R236, R408) -/

/-- The place of die d that a packet's ADDR names, with what refuses an access of n bytes there. -/
def packetPlace (s : State) (d a n : Nat) : Except Status Place :=
  match (if 2 ^ 63 ≤ a then regionPlace s.variant (a % 2 ^ 48) else if a < 0x10000000000 then regionPlace s.variant a else none) with
  | some p =>
    if placeDie p ≠ some d then .error .badAddr
    else match placeErr s d none p n with
      | some e => .error e
      | none => .ok p
  | none => .error .badAddr

/-- R255: WRITE: its bytes land at ADDR, or in the companion's memory behind a window. -/
def writeStep (s : State) (d : Nat) (e : Held) : State :=
  let h := e.pkt.hdr
  let s1 := if isVoid h then s
    else if e.brd then emit s (.store (hADDR h) (payload e.pkt))
    else match packetPlace s d (hADDR h) (hLEN h) with
      | .ok p => placePut s p (payload e.pkt)
      | .error _ => s
  finCount s1 d e

/-- R255: WRITE. -/
def execWrite (d : Nat) (s : State) : Host.Outcome State Fault Refusal := .next (onKind kWRITE d s (fun s e => writeStep s d e))

/-- R517, R234: a REQ at die d: a void is answered with its status, a payload that breaks its row with BAD_REQ; f serves the others. -/
def reqStep (s : State) (d : Nat) (e : Held) (bad : Bool) (f : State → State) : State :=
  let h := e.pkt.hdr
  let k := replyKind (hKIND h)
  let s1 := finCount s d e
  if isVoid h then
    match voidReplyTo e with
    | some a => respond s1 d k (hSRC h) (hTAG h) (hAUX h) a []
    | none => s1
  else if bad then
    let b := payload e.pkt
    let off := if hKIND h = kREAD then 0 else if hKIND h = kATOMIC then 8 else 64
    let a := if off + 8 ≤ b.length then bytesNat b off 8 else 0
    if a ≠ 0 then respond s1 d k (hSRC h) (hTAG h) (replyCode .badReq) a [] else bump s1 d nKIND
  else f s1

/-- R234: READ: the bytes at ADDR, or the status that refuses them. -/
def readStep (s : State) (d : Nat) (e : Held) : State :=
  let h := e.pkt.hdr
  let b := payload e.pkt
  let n := bytesNat b 8 2
  reqStep s d e (decide (b.length < 16) || n == 0 || decide (4096 < n) || bytesNat b 10 6 != 0) (fun s =>
    let ans (s : State) (st : Nat) (bs : List Byte) := respond s d kREAD_DATA (hSRC h) (hTAG h) st (bytesNat b 0 8) bs
    if e.brd then
      let (k, s1) := draw s
      ans s1 0 ((upto n).map (fun i => Config.outsideByte k (hADDR h + i)))
    else
      match packetPlace s d (hADDR h) n with
      | .error st => ans s (replyCode st) []
      | .ok p =>
        match placeRead s d none p n with
        | .error st => ans (if st = .memUe then placeSeen s d none p n else s) (replyCode st) []
        | .ok (bs, s1) => ans s1 0 bs)

/-- R234: READ. -/
def execRead (d : Nat) (s : State) : Host.Outcome State Fault Refusal := .next (onKind kREAD d s (fun s e => readStep s d e))

/-- R145, R149, R234, R237: ATOMIC: the old value, where an answer is due. One behind a window of the companion's leaves for the companion's memory,
which answers what it will (a free value). -/
def atomicStep (s : State) (d : Nat) (e : Held) : State :=
  let h := e.pkt.hdr
  let b := payload e.pkt
  let aop := bytesNat b 0 1
  let need := match atomicSize aop with | some n => 16 + n | none => 0
  reqStep s d e (decide (b.length < 16) || bytesNat b 1 7 != 0 || (atomicSize aop).isNone || decide (b.length < need)) (fun s =>
    let n := (atomicSize aop).getD 8
    let a := bytesNat b 8 8
    let ans (s : State) (st : Nat) (v : Nat) := if a = 0 ∨ aop = 8 then s else respond s d kATOMIC_DATA (hSRC h) (hTAG h) st a (toLe 8 v)
    if e.brd then
      let (k, s1) := draw (emit s (.atomic (hADDR h) aop ((b.drop 16).take n)))
      ans s1 0 (leNat ((upto n).map (fun i => Config.outsideByte k (hADDR h + i))))
    else
      match packetPlace s d (hADDR h) n with
      | .error st => ans s (replyCode st) 0
      | .ok p =>
        match placeAtomic s d p aop (bytesNat b 16 n) with
        | .error st => ans (if st = .memUe then atomicSeen s d p aop else s) (replyCode st) 0
        | .ok (old, s1) => ans s1 0 old)

/-- R145: ATOMIC. -/
def execAtomic (d : Nat) (s : State) : Host.Outcome State Fault Refusal := .next (onKind kATOMIC d s (fun s e => atomicStep s d e))

/-- R152: ENGINE: the request record is submitted at the die that executes it; it waits while that has no room. -/
def engineStep (d : Nat) (s : State) : State :=
  match takeKind s d kENGINE with
  | none => s
  | some (e, s1) =>
    let h := e.pkt.hdr
    let b := payload e.pkt
    if isVoid h || decide (b.length < 72) then drainTick (dropHeld (reqStep s1 d e (decide (b.length < 72)) (fun s => s)) d e)
    else
      let q : EngReq :=
        { id := 0, req := BitVec.ofNat 512 (leNat (b.take 64)), src := .packet (hSRC h) (bytesNat b 64 8) (hTAG h) (portOfChip s (hSRC h)),
          unit := 0, done := none, digest := none, writes := 0, wstatus := .ok, got := [], reads := [], replayed := false, aborted := false }
      match submit (finCount s1 d e) d q false with
      | some s2 => drainTick (dropHeld s2 d e)
      | none => s

/-- R152: ENGINE. -/
def execEngine (d : Nat) (s : State) : Host.Outcome State Fault Refusal := .next (engineStep d s)

/-! Responses to the device's own requests (R518) -/

/-- The space that a request reserved for what answers it is free again (R250, R284). -/
def freeReq (s : State) (d : Nat) (r : ReqOut) : State := r.outs.foldl (fun s b => decBuf s d b 13) (decOpt s d r.buf 13)

/-- The replay record of a request is over once its response is here (R246). -/
def requestAcked (s : State) (d chip tag : Nat) : State :=
  let x := getDie s d
  match tfind x.tr.txs chip with
  | none => s
  | some sp =>
    let mine (r : Replay) : Bool := match r.owner with | .request t => t == tag | _ => false
    let s1 := setDie s d { x with tr := { x.tr with txs := tset x.tr.txs chip { sp with fresh := false, recs := sp.recs.filter (fun r => !mine r) } } }
    (sp.recs.filter mine).foldl (fun s r => decOpt s d r.buf 13) s1

/-- The request that a response answers, taken from those outstanding; its response space is free again. -/
def takeReq' (s : State) (d chip tag : Nat) (kinds : List Nat) : Option (ReqOut × State) :=
  match (getDie s d).reqs.find? (fun r => r.chip == chip && r.tag == tag && kinds.contains r.kind) with
  | none => none
  | some r =>
    let s1 := updDie s d (fun x => { x with reqs := x.reqs.erase r })
    some (r, requestAcked (freeReq s1 d r) d chip tag)

/-- R176: a DMA unit's read has brought its bytes, or failed. -/
def dmaArrived (s : State) (d id off len : Nat) (st : Status) (bs : List Byte) : State :=
  let u := off / 4096 * 4096
  let s1 := updDma s d id (fun q => { q with busy := tset q.busy u (tget q.busy u 0 - 1) })
  match getDma s1 d id with
  | none => s1
  | some q =>
    let s2 := if st = .ok then
        (segsCut q.dst off (off + len)).foldl (fun s g => dmaPut s d q u g.place ((bs.drop (g.off - off)).take g.len)) s1
      else updDma s1 d id (fun q => { dmaFail q st with lost := sadd q.lost u })
    dmaAdvance d id [] (dmaFuel q) (dmaSettle s2 d id u)

/-- A companion access that left the package is answered; a failed read brings no bytes. -/
def companionAnswer (s : State) (st : Status) (bs : List Byte) (n : Nat) : State :=
  emit s (.data (if st = .ok then bs.take n else []))

/-- What a request was for gets its response. -/
def answered (s : State) (d : Nat) (r : ReqOut) (st : Status) (bs : List Byte) : State :=
  match r.what with
  | .dma id off len => dmaArrived s d id off len st bs
  | .engine id a len =>
    let s1 := updReq s d id (fun q => { q with reads := sdel q.reads r.tag })
    if st = .ok then
      updReq s1 d id (fun q => { q with got := ((upto (min len bs.length)).zip bs).foldl (fun m p => memSet m (a + p.1) p.2) (q.got) })
    else updReq s1 d id (fun q => if q.done.isNone then { q with done := some (doneWith st) } else q)
  | .companion len => companionAnswer s st bs len
  | .posted (.op id) =>
    let w := leNat (bs.take 8)
    match findOp s id with
    | none => s
    | some o =>
      if st = .ok then
        completeWith s o (.raw (w % 2 ^ 16)) (w / 2 ^ 32) (BitVec.ofNat 32 w) (BitVec.ofNat 32 (w >>> 32)) 0
      else complete s o st 0
  | .posted _ => s

/-- R518: a matching response is written at its ADDR, unchecked: at the reply address that its request carried by the operation that asked, elsewhere
where the ADDR says. -/
def strayReply (s : State) (h : Hdr) (r : ReqOut) (bs : List Byte) : State :=
  if hADDR h % 2 ^ 48 = r.reply then s
  else match addrPlace s (hADDR h) .wr with
    | .ok p => placePut s p bs
    | .error _ => s

/-- The bytes that a response brings to its operation: a DMA's are in memory already where they were written elsewhere than at its destination. -/
def landed (h : Hdr) (r : ReqOut) (bs : List Byte) : List Byte :=
  match r.what with
  | .dma _ _ _ => if hADDR h % 2 ^ 48 = r.reply then bs else []
  | _ => bs

/-- R517, R518: a response at die d; a void applies nothing. -/
def responseStep (s : State) (d : Nat) (e : Held) (kinds : List Nat) : State :=
  let h := e.pkt.hdr
  let s1 := finCount s d e
  if heldVoid e then s1 else
  match takeReq' s1 d (hSRC h) (hTAG h) kinds with
  | none => bump s1 d nBADADDR
  | some (r, s2) =>
    pump (answered (strayReply s2 h r (payload e.pkt)) d r (replyStatus (hAUX h)) (landed h r (payload e.pkt)))

/-- R518: READ_DATA. -/
def execReadData (d : Nat) (s : State) : Host.Outcome State Fault Refusal :=
  .next (onKind kREAD_DATA d s (fun s e => responseStep s d e [kREAD]))

/-- R518: ATOMIC_DATA. -/
def execAtomicData (d : Nat) (s : State) : Host.Outcome State Fault Refusal :=
  .next (onKind kATOMIC_DATA d s (fun s e => responseStep s d e [kATOMIC]))

/-- R518: ENG_DONE. -/
def execEngDone (d : Nat) (s : State) : Host.Outcome State Fault Refusal :=
  .next (onKind kENG_DONE d s (fun s e => responseStep s d e [kENGINE]))

/-- R517, R518: REPLY_WRITE: engine output of a request that is outstanding lands where it says; a void applies nothing. -/
def replyWriteStep (s : State) (d : Nat) (e : Held) : State :=
  let h := e.pkt.hdr
  let s1 := finCount s d e
  if heldVoid e then s1 else
  if (getDie s d).reqs.any (fun r => r.chip == hSRC h && r.tag == hTAG h && r.kind == kENGINE) then
    if e.brd then emit s1 (.store (hADDR h) (payload e.pkt))
    else match addrPlace s1 (hADDR h) .wr with
      | .ok (.board a) => emit s1 (.store a (payload e.pkt))
      | .ok p => placePut s1 p (payload e.pkt)
      | .error _ => s1
  else bump s1 d nBADADDR

/-- R518: REPLY_WRITE. -/
def execReplyWrite (d : Nat) (s : State) : Host.Outcome State Fault Refusal :=
  .next (onKind kREPLY_WRITE d s (fun s e => replyWriteStep s d e))

/-- R233, R403: MGMT_MSG: a message to the steward; a digest record of the lock-step partner is compared. -/
def mgmtStep (s : State) (d : Nat) (e : Held) : State :=
  let h := e.pkt.hdr
  let s1 := finCount s d e
  let ls := regWord (getDie s 0) rTIME_LSTEP
  let b := payload e.pkt
  if !isVoid h && bit ls 15 && fld ls 14 0 == hSRC h && b.length == 32 then
    let r : LsRec := { source := bytesNat b 0 1, tag := bytesNat b 8 8, digest := bytesNat b 16 16, at0 := s.now }
    lsCompare { s1 with time := { s1.time with peer := s1.time.peer ++ [r] } }
  else s1

/-- R233: MGMT_MSG. -/
def execMgmtMsg (d : Nat) (s : State) : Host.Outcome State Fault Refusal := .next (onKind kMGMT_MSG d s (fun s e => mgmtStep s d e))

/-! Acknowledgements (R245, R246, R250) -/

/-- R250: a packet of a descriptor operation outside the package is acknowledged (st OK) or given up; with the last of them the operation completes
where its work is done. -/
def opSettled (s : State) (id : Nat) (st : Status) : State :=
  let s1 := updOp s id (fun o => { o with writes := o.writes - 1, wstatus := if st = .ok ∨ o.wstatus ≠ .ok then o.wstatus else st })
  match findOp s1 id with
  | some o =>
    (match o.fin with
      | some (st, n) => if o.writes = 0 then (if o.wstatus = .ok then complete s1 o st n else complete s1 o o.wstatus 0) else s1
      | none => s1)
  | none => s1

/-- What an emitted packet did for its source is settled: acknowledged (st OK) or given up. -/
def ownerDone (s : State) (d : Nat) (r : Replay) (st : Status) : State :=
  match r.owner with
  | .none => s
  | .dma id off =>
    let s1 := updDma s d id (fun q => { (if st = .ok then q else { dmaFail q st with lost := sadd q.lost off }) with busy := tset q.busy off (tget q.busy off 0 - 1) })
    dmaAdvance d id [] (match getDma s1 d id with | some q => dmaFuel q | none => 0) (dmaSettle s1 d id off)
  | .eng id => updReq s d id (fun q => { q with writes := q.writes - 1, wstatus := if st = .ok ∨ q.wstatus ≠ .ok then q.wstatus else st })
  | .deliver key ch _ => deliverSettled s key ch (st == .ok)
  | .op id => opSettled s id st
  | .request tag =>
    if st = .ok then s
    else
      match (getDie s d).reqs.find? (fun q => q.chip == r.dst && q.tag == tag) with
      | none => s
      | some q => answered (freeReq (updDie s d (fun x => { x with reqs := x.reqs.erase q })) d q) d q st []

/-- R245: ACK at die d. -/
def ackStep (s : State) (d : Nat) (h : Hdr) : State :=
  let x := getDie s d
  let (t, gone) := ackedAt x.tr (hSRC h) (hSEQ h) (hADDR h)
  pump (gone.foldl (fun s r => ownerDone (decOpt s d r.buf 13) d r .ok) (setDie s d { x with tr := t }))

/-- R245: ACK. -/
def execAck (d : Nat) (s : State) : Host.Outcome State Fault Refusal := .next (onKind kACK d s (fun s e => ackStep s d e.pkt.hdr))

/-- R245: the ACK owed by an end of the transport (a port below 96, else the die) to a chip: the numbers it covers, those left. -/
def ackOwed (s : State) (d agent chip : Nat) : State :=
  let x := getDie s d
  let t := xport x agent
  let me : Option Nat := if agent < 96 then (let g := portGrant s (96 * d + agent); if bit g 15 then some (fld g 14 0) else none) else chipOfDie s d
  match tget t.ackDue chip [], me with
  | [], _ => s
  | l, some me =>
    let a := ackStart l
    let rest := l.filter (fun q => !decide (seqSub q a < 64))
    let s1 := updDie s d (fun x => setXport x agent
      { t with ackDue := if rest.isEmpty then tdel t.ackDue chip else tset t.ackDue chip rest })
    match chipRoute s1 chip with
    | none => bump s1 d nBADADDR
    | some (bits, own) =>
      let p := mkPacket 5 kACK me (a <<< 104) (memForm 0 chip 0 (ackMap a l)) []
      match inject s1 d { p with hdr := fillRoute (getDie s1 d) p.hdr bits } 11 1 with
      | none => s
      | some (e, s2) => decideWith consumeAt s2 d e own none
  | _, none => s

/-- R245: ACK_DELAY_EXPIRY. -/
def execAckDelayExpiry (d agent chip : Nat) (s : State) : Host.Outcome State Fault Refusal :=
  .next (if dieRuns s d then ackOwed s d agent chip else s)

/-! Re-sends (R243, R246, R247, R249) -/

/-- R247: RESEND. -/
def execResend (d : Nat) (s : State) : Host.Outcome State Fault Refusal := .next (onKind kRESEND d s (fun s e => resendStep s d 96 e.pkt.hdr))

def retryLimit (s : State) (d : Nat) : Nat := regFld (getDie s d) rFAB_TIMERS 11 8

/-- R246, R16: the status of an operation whose packet is given up. -/
def giveUpStatus (s : State) (d chip : Nat) : Status :=
  match (dieOfChip s chip).orElse (fun _ => (portOfChip s chip).map (· / 96)) with
  | some t => if reaches s d t then .noAck else .dieUnreachable
  | none => .noAck

/-- R246: the interval of a record has passed with no acknowledgement: it is sent again, or after RETRY re-sends given up. One that cannot be
addressed any more is given up with BAD_ADDR (R239). -/
def rtoRecord (s : State) (d agent chip seq : Nat) : State :=
  match (spaceOf (xport (getDie s d) agent) chip).recs.find? (fun r => r.seq == seq) with
  | none => s
  | some r =>
    if retryLimit s d ≤ r.tries ∨ (chipRoute s chip).isNone then
      let st := if (chipRoute s chip).isNone then .badAddr else giveUpStatus s d chip
      let s1 := decOpt (updRecs s d agent chip (fun l => l.filter (fun q => q.seq != seq))) d r.buf 13
      pump (ownerDone (reportFault s1 1 12 (statusCode st) d 0x12 2) d r st)
    else resend (updRecs s d agent chip (fun l => l.map (fun q => if q.seq == seq then { q with tries := q.tries + 1 } else q))) d
      (spaceOf (xport (getDie s d) agent) chip).fresh r

/-- R249, R520: a collective record goes again to each that has not acknowledged it: to a package as a unicast, to an endpoint by its port. -/
def collResend (s : State) (d : Nat) (r : CollRec) : State :=
  let p := reseal { r.pkt with hdr := setH r.pkt.hdr 85 85 1 }
  match r.buf with
  | none => s
  | some b =>
    r.wait.foldl (fun s w =>
      let e := freshHeld s d p
      if 65536 ≤ w then copies s d e b [(w - 65536, memberRoute s p.hdr (w - 65536))]
      else
        let s1 := updDie s d (fun x => addRefs x b 1)
        decideWith consumeAt s1 d { e with pkt := { p with hdr := fillRoute (getDie s1 d) p.hdr (w + 0x3FF <<< 15) }, buf := some b } (w == ownPkg s) none) s

/-- R246, R249: a collective record has waited its interval. -/
def rtoColl (s : State) (d id : Nat) : State :=
  match (getDie s d).coll.find? (fun r => r.id == id && r.sent) with
  | none => s
  | some r =>
    if retryLimit s d ≤ r.tries then
      let s1 := decOpt (updDie s d (fun x => { x with coll := x.coll.filter (fun q => q.id != id) })) d r.buf 13
      let s2 := reportFault s1 1 12 (statusCode .noAck) d 0x12 2
      let up := hKIND r.pkt.hdr == kDATA || hKIND r.pkt.hdr == kPRICK
      match (if up then findCtx s2 r.ctx r.gen else none) with
      | some c => ctxEnd s2 c .noAck
      | none => s2
    else
      collResend (updDie s d (fun x => { x with coll := x.coll.map (fun q => if q.id == id then { q with tries := q.tries + 1 } else q) })) d r

/-- A TFP 1 frame with RESENT set and its check made anew (Table 8-14). -/
def t1Again (bs : List Byte) : List Byte :=
  let b := setNth bs 4 ((nth bs 4 0) ||| 2)
  let n := b.length - 4
  b.take n ++ toLe 4 (crc32c (b.take n))

/-- R246, R259: a part sent to the TFP 1 endpoint of port l has waited its interval. A packet of which a part is given up is never acknowledged. -/
def rtoPart (s : State) (d l seq : Nat) : State :=
  let p := getPort s d l
  match p.t1.parts.find? (fun q => q.seq1 == seq) with
  | none => s
  | some q =>
    if retryLimit s d ≤ q.left then
      reportFault (setPort s d l { p with t1 := { p.t1 with
        parts := p.t1.parts.filter (fun r => !(r.src == q.src && r.seq == q.seq))
        asked := p.t1.asked.filter (fun r => !(r.chip == q.src && r.seq == q.seq))
        lost := sadd p.t1.lost (q.src * 2 ^ 24 + q.seq) } }) 1 12 (statusCode .noAck) d 0x12 2
    else
      frameTx (setPort s d l { p with t1 := { p.t1 with parts := p.t1.parts.map (fun r => if r.seq1 == seq then { r with left := r.left + 1 } else r) } })
        d l (t1Again q.bytes)

/-- R246: the interval of a replay record of die d has passed: agent 96 is the die (toward chip, number seq), below 96 a TFP 1 port; 97 a
collective record (by its identifier, in seq), 128 + l a part sent to the endpoint of TFP 1 port l. -/
def rtoExpiry (d agent chip seq : Nat) (s : State) : State :=
  if !dieRuns s d || stopped s then s
  else if (agent = 96 ∨ agent = 97) ∧ (chipOfDie s d).isNone then s
  else if agent = 97 then rtoColl s d seq
  else if 128 ≤ agent then rtoPart s d (agent - 128) seq
  else rtoRecord s d agent chip seq

/-- R246: RTO_EXPIRY. -/
def execRtoExpiry (d agent chip seq : Nat) (s : State) : Host.Outcome State Fault Refusal := .next (rtoExpiry d agent chip seq s)

/-- R239: a packet that waits at die d and cannot be addressed any more is not sent: its operation has BAD_ADDR; what answers a peer is dropped and
counted. -/
def unsent (s : State) (d : Nat) (i : TxItem) : State :=
  let s1 := decOpt (updDie s d (fun x => { x with txq := x.txq.erase i })) d i.buf 13
  match i.owner with
  | .none => bump s1 d nBADADDR
  | o => ownerDone s1 d { seq := 0, pkt := i.pkt, dst := i.dst, tries := 0, owner := o, buf := i.buf } .badAddr

def dropUnsent (s : State) (d : Nat) : State :=
  if (chipOfDie s d).isNone then s else ((getDie s d).txq.filter (fun i => (itemRoute s i).isNone)).foldl (fun s i => unsent s d i) s

/-- Everything of the package that waits to be emitted tries again. -/
def pumpAll (s : State) : State := ctxPump (pump (foldUpto (ndies s.variant) s dropUnsent))

/-- R244: SEQUENCE_HOLDOFF_EXPIRY: 3 ms after the release of reset the dies may send sequenced packets. -/
def execSequenceHoldoffExpiry (s : State) : Host.Outcome State Fault Refusal :=
  .next (if s.phase == .off || s.phase == .held then s
    else pumpAll (foldUpto (ndies s.variant) s (fun s d => updDie s d (fun x => { x with holdoff := false }))))

/-! Registers that lock (R3) -/

/-- The address of a register word in the register windows (Table 12-1). -/
def regAddr (d off : Nat) : Nat := 0x9000000000 + d * 0x10000000 + off

/-- R3: writes an RWL register word: while software is locked out it keeps its value and REG_LOCK is posted. -/
def writeLocked (s : State) (d off : Nat) (v : Word32) : State :=
  if s.locked then postEvent s 0x01 d (regAddr d off % 2 ^ 32) (regAddr d off / 2 ^ 32) 0 0
  else updDie s d (fun x => { x with regs := tset x.regs off v })

/-- R262, R516: a write of FAB_SELF of die d: with VALID set, work that waits to send packets goes on. -/
def fabSelfWrite (d : Nat) (v : Word32) (s : State) : State :=
  if !regsUp s || !linkReaches s d then s else pumpAll (writeLocked s d rFAB_SELF (v &&& 0xFFFF))

/-- R516: FAB_SELF_WRITE. -/
def execFabSelfWrite (d : Nat) (v : Word32) (s : State) : Host.Outcome State Fault Refusal := .next (fabSelfWrite d v s)

end Sys2Proof.Machine
end

