-- ==== Sys2Proof/Machine/Ports.lean ====
section
/-! DEFINITION. File 11: lanes, bring-up, port states, removal, test modes, cages and modules. -/

namespace Sys2Proof.Machine

/-! Numbers -/

/-- R326: a port's number. -/
def portNum (d l : Nat) : Nat := 96 * d + l

/-- R326: the lanes of the port at l. -/
def portLanes (x : Die) (l : Nat) : List Nat :=
  match portWidth x l with
  | some w => (upto (2 ^ w)).map (fun i => l + i)
  | none => []

/-- R326: the ports of octet o. -/
def octetPorts (x : Die) (o : Nat) : List Nat := (modePorts (fld (portCfg x (8 * o)) 2 0)).map (fun p => 8 * o + p.1)

def laneOf (x : Die) (i : Nat) : Lane := tget x.lanes i laneReset
def getLane (s : State) (d i : Nat) : Lane := laneOf (getDie s d) i
def updLane (s : State) (d i : Nat) (f : Lane → Lane) : State :=
  updDie s d (fun x => { x with lanes := tset x.lanes i (f (laneOf x i)) })

def cageOf (x : Die) (o : Nat) : Cage := tget x.cages o cageReset
def updCage (s : State) (d o : Nat) (f : Cage → Cage) : State :=
  updDie s d (fun x => { x with cages := tset x.cages o (f (cageOf x o)) })

/-- Table 11-21: a lane's TEST. -/
def laneTest (x : Die) (i : Nat) : Nat := regFld x (rLANE_CTL i) 2 0

/-! Register views -/

/-- Table 11-18: PORT_STATE. -/
def portStateWord (p : Port) : Nat :=
  p.st + p.width <<< 4 + p.major <<< 8 + p.minor <<< 12 + p.txuse <<< 16 + p.faruse <<< 24

/-- Table 11-22: LANE_STAT. -/
def laneStatWord (n : Lane) : Nat :=
  b2n n.sig + b2n n.lock <<< 1 + b2n n.trained <<< 2 + b2n n.pol <<< 3 + n.rxmap <<< 4 + b2n n.rxuse <<< 7 + b2n n.txuse <<< 8
    + b2n n.preRx <<< 9 + b2n n.prbsLock <<< 10 + n.preset <<< 11

/-- Table 11-14: the LED's row code. -/
def ledCode (x : Die) (o : Nat) : Nat :=
  let c := cageOf x o
  let sts := (octetPorts x o).map (fun l => (portOf x l).st)
  if !c.faults.isEmpty || sts.contains 12 then 1
  else if sts.contains 7 || sts.contains 8 then 2
  else if bit (regWord x (rCAGE_CFG o)) 1 then 3
  else if sts.contains 9 then 4
  else if !sts.isEmpty && sts.all (· == 10) then 5
  else if sts.any (fun t => t == 2 || t == 3 || t == 4 || t == 5 || t == 11) then 6
  else 0

/-- Table 11-25: CAGE_STAT. -/
def cageStatWord (x : Die) (o : Nat) : Nat :=
  let c := cageOf x o
  b2n c.prs + b2n c.btn <<< 1 + ledCode x o <<< 2 + (c.faults.map (fun f => 2 ^ f)).foldl (· + ·) 0 + b2n c.early <<< 18
    + c.modst <<< 19

/-- Table 12-14: CAGE. -/
def cageEvent (s : State) (d o : Nat) : State := postEvent s 0x06 d (16 * d + o) (cageStatWord (getDie s d) o) 0 0

/-- Table 12-14: PORT. -/
def portStEvent (s : State) (d l : Nat) : State := postEvent s 0x04 d (portNum d l) (portStateWord (getPort s d l)) 0 0

/-- R344: sets fault bits of a cage; an event is posted when a bit changes to 1. -/
def setCageFaults (s : State) (d o : Nat) (fs : NSet) : State :=
  let new := fs.any (fun f => !(cageOf (getDie s d) o).faults.contains f)
  let s1 := updCage s d o (fun c => { c with faults := fs })
  if new then cageEvent s1 d o else s1

def addCageFault (s : State) (d o f : Nat) : State := setCageFaults s d o (sadd (cageOf (getDie s d) o).faults f)

/-! States of a port -/

/-- R339: a port moves to a state and reports it in STATE words (kind 4), with DRAINED. -/
def setPortSt (s : State) (d l st : Nat) : State :=
  let s1 := updPort s d l (fun p => { p with st := st })
  if s.phase == .up then emit s1 (.control d l 4 [stateOf st (outOf (getDie s1 d) l).q.isEmpty]) else s1

/-- R275: group g restarts as warming; the histories of its ports ps restart too. -/
def warmRestart (s : State) (g : Nat) (ps : List Nat) : State :=
  ps.foldl (fun s p => updPort s (p / 96) (p % 96) (fun q => { q with hist := 0 })) { s with warm := tset s.warm g warmReset }

/-- R275: a group that lost its last port in service restarts as warming. -/
def warmLost (s : State) (d l : Nat) : State :=
  match dirOfPort s (portNum d l) with
  | none => s
  | some g =>
    let ps := trunkPorts s g
    if ps.any (fun p => p != portNum d l && portActive s p) then s else warmRestart s g ps

/-- A packet that was arriving at a port is discarded. -/
def dropArriving (s : State) (d l : Nat) : State :=
  match tfind (getDie s d).rxPend l with
  | none => s
  | some (_, b, _) => decOpt (updDie s d (fun x => { x with rxPend := tdel x.rxPend l })) d b (groupOf l)

/-- R278: the packets queued for a port are discarded. -/
def dropQueued (s : State) (d l : Nat) : State :=
  let u := outOf (getDie s d) l
  u.q.foldl (fun s e => discard s d e nDOWN) (updDie s d (fun x => { x with outs := tset x.outs l { u with q := [] } }))

/-- R278: a port leaves service; its queued packets are discarded. Its state is not yet changed. -/
def portLeave (s : State) (d l : Nat) : State :=
  let s1 := dropQueued (dropArriving s d l) d l
  if (getPort s d l).st = 6 then warmLost s1 d l else s1

/-- A port stops signalling: no lane of it is in use. -/
def stopLanes (s : State) (d l : Nat) : State :=
  (portLanes (getDie s d) l).foldl (fun s i => updLane s d i (fun n =>
    { n with lock := false, trained := false, rxuse := false, txuse := false, done := false, hellos := 0, mark := none })) s

/-- R425: a port enters FAULT: a C2 fault; a port has no spare. -/
def portFault (s : State) (d l : Nat) : State :=
  let s1 := setPortSt (updPort (stopLanes s d l) d l (fun p => { p with was := none, reserved := false, fails := 0, width := 0, major := 0, minor := 0, txuse := 0, faruse := 0 })) d l 12
  reportFault s1 2 5 (portNum d l) d 0x26 4

/-- R328, R338: a lane's starting coefficients: the trained preset of the keep, else P2; the number that LANE_STAT.PRESET shows. -/
def startCoeffs (s : State) (d i : Nat) : (Nat × Nat × Nat) × Nat :=
  match tfind s.keep.presets (96 * d + i) with
  | some c => (c, 0)
  | none => ((4, 52, 8), 2)

/-- R441, R442: whether the keep's record fences lane i of a die: UNIT is the port's number, SITE the lane within it. -/
def laneFenced (s : State) (d i : Nat) : Bool := s.keep.record.any (fun e => e.kind == 16 && e.die == d && e.unit % 96 + e.site == i)

/-- R336, R515: the credit of the packets that a port still holds from before is not returned. -/
def dropCredit (s : State) (d l : Nat) : State :=
  updDie s d (fun x => { x with bufs := x.bufs.map (fun (h, e) => (h, if e.credit.map (·.1) = some l then { e with credit := none } else e)) })

/-- Table 11-5: the CRC-8 (polynomial 0x07, initial value 0) of bits 55 to 0, bit 55 first. -/
def crc8 (v : Nat) : Nat :=
  (upto 56).foldl (fun c i =>
    let b := ((c >>> 7) ^^^ (v >>> (55 - i))) % 2
    ((c <<< 1) % 256) ^^^ (if b = 1 then 0x07 else 0)) 0

/-- Table 11-5: the control field that a lane sends; req holds its requests and PRESET (bits 9 to 0). -/
def controlOf (n : Lane) (req : Nat) (ready pre : Bool) (count : Nat) : Nat :=
  let v := req % 1024 + n.sts <<< 10 + b2n ready <<< 16 + count <<< 17 + b2n pre <<< 21
  v + crc8 v <<< 56

/-- R329: a training frame as lane i of the port at l sends it (control kind 8): its levels. -/
def trainFrame (s : State) (d l i req : Nat) (ready : Bool) (count : Nat) : Out :=
  let x := getDie s d
  .control d i 8 (trainLevels (controlOf (laneOf x i) req ready (bit (portCfg x l) 5) count) (i - l))

/-- R328, R336, R515: a port starts training: its lanes from their starting coefficients (from the current ones in a recalibration, R341),
its credit from 0. Each lane sends training frames from now on: the first is emitted. -/
def startTrain (s : State) (d l : Nat) (current : Bool) : State :=
  let s1 := (portLanes (getDie s d) l).foldl (fun s i =>
    let (c, pr) := startCoeffs s d i
    updLane s d i (fun n =>
      { laneReset with
        sig := n.sig, fecc := n.fecc, fecu := n.fecu, prbse := n.prbse, failed := laneFenced s d i,
        preset := if current then n.preset else pr,
        cm1 := if current then n.cm1 else c.1, c0 := if current then n.c0 else c.2.1, cp1 := if current then n.cp1 else c.2.2 })) s
  let s2 := updPort (dropCredit s1 d l) d l (fun p =>
    { p with
      width := 0, major := 0, minor := 0, txuse := 0, faruse := 0, farSt := 0, farDrained := false, txA := [], txS := [], txR := [], txC := [],
      rxRet := [], held := 0, adv := false, fos := false, owed := [], words := [], part := none, mis := 0 })
  let s3 := setPortSt s2 d l 3
  emits s3 (((portLanes (getDie s3 d) l).filter (fun i => !(laneOf (getDie s3 d) i).failed)).map (fun i => trainFrame s3 d l i 0 false 15))

/-- R339: a bring-up failed: another, or FAULT after 3 in a row. -/
def bringUpFailed (s : State) (d l : Nat) : State :=
  let p := getPort s d l
  if 3 ≤ p.fails + 1 then portFault s d l
  else startTrain (updPort s d l (fun p => { p with fails := p.fails + 1 })) d l false

/-- R340: a port goes down and starts a new bring-up, or enters FAULT after FLAP_LIMIT downs in 1 s. fos: no attempt is made while fault
ordered sets continue (R436). -/
def portDown (s : State) (d l : Nat) (current fos : Bool) : State :=
  let p := getPort s d l
  let s1 := portLeave s d l
  if p.st = 9 then portStEvent s1 d l
  else
    let downs := p.downs.filter (fun t => decide (s.now < t + 1000000000)) ++ [s.now]
    let was := if p.st = 6 then p.far.map (fun h => (h.uid, h.port)) else p.was
    let s2 := updPort s1 d l (fun q => { q with downs := downs, was := was })
    let s3 :=
      if regFld (getDie s d) rPORT_TIMERS 19 16 ≤ downs.length then portFault s2 d l
      else startTrain s2 d l current
    portStEvent (updPort s3 d l (fun q => { q with fos := fos && q.st == 3 })) d l

/-! Credit words (R279, R325, R336, R515) -/

/-- R279: what a receiver advertises in full, by buffer. -/
def fullAdverts (x : Die) (l : Nat) : List (Nat × Nat) :=
  let esc := regFld x rFAB_VCRES 7 0
  if isTrunk x l then
    ((upto 11).map (fun vc => if vcAdaptive vc then [(2 * vc, regFld x rFAB_VCRES 15 8)] else [(2 * vc, esc), (2 * vc + 1, esc)])).flatten
      ++ [(31, regFld x rFAB_VCRES 27 16)]
  else (upto 7).map (fun b => (b, esc))

/-- R287, R336: ADVERT words (kind 3) for every buffer: in full once admitted, zero before. An endpoint port withholds them while a drain has
stopped admission. -/
def sendAdverts (s : State) (d l : Nat) : State :=
  let x := getDie s d
  if stopped s && !isTrunk x l && (portOf x l).adv then s
  else emits s ((fullAdverts x l).map (fun (b, u) => .control d l 3 [advertOf b (if (portOf x l).adv then u else 0)]))

/-- R336, R337: a port comes into service. -/
def activate (s : State) (d l : Nat) : State :=
  let s1 := match dirOfPort s (portNum d l) with
    | some g =>
      if isTrunk (getDie s d) l && !(trunkPorts s g).any (portActive s) then { s with warm := tset s.warm g { warmOf s g with since := some s.now } }
      else s
    | none => s
  let s2 := updPort s1 d l (fun p => { p with adv := true, reserved := true, was := none })
  pumpAll (retryAll (sendAdverts (setPortSt s2 d l 6) d l))

/-! Cabling (R335) -/

/-- The shape in force as Table 11-7 sends it. -/
def shapeCode (h : Shape) : Nat := h.lx + h.ly <<< 8 + h.lz <<< 16 + h.wrap <<< 24

/-- The coordinates one step from this package in a direction. -/
def stepIn (h : Shape) (dir : Nat) : Option (Nat × Nat × Nat) :=
  let go (v m : Nat) (w : Bool) : Option Nat :=
    if dir % 2 = 0 then (if v < m then some (v + 1) else if w then some 0 else none)
    else (if 0 < v then some (v - 1) else if w then some m else none)
  match dir / 2 with
  | 0 => (go h.x h.lx (h.wrap.testBit 0)).map (fun v => (v, h.y, h.z))
  | 1 => (go h.y h.ly (h.wrap.testBit 1)).map (fun v => (h.x, v, h.z))
  | _ => (go h.z h.lz (h.wrap.testBit 2)).map (fun v => (h.x, h.y, v))

/-- Table 11-8, the shape and neighbour tests: the first that fails (3, 4), or 0. -/
def tableTests (s : State) (d l : Nat) (f : Hello) : Nat :=
  match s.tabs.shape with
  | none => 0
  | some h =>
    if !isTrunk (getDie s d) l || !f.cvalid then 0
    else if f.shape ≠ shapeCode h then 3
    else
      match dirOfPort s (portNum d l) with
      | none => 0
      | some g => if stepIn h g = some (f.x, f.y, f.z) ∧ f.dir = (if g % 2 = 0 then g + 1 else g - 1) then 0 else 4

/-- Table 11-8: the first test that fails, or 0. -/
def cabling (s : State) (d l : Nat) (f : Hello) : Nat :=
  if f.role ≠ (if isTrunk (getDie s d) l then 2 else 0) then 1
  else if f.uid = s.boot.uid then 2
  else tableTests s d l f

/-- R336: a port reaches LINK_UP. It returns to ACTIVE where it was ACTIVE with the same far end (R340). -/
def linkUp (s : State) (d l : Nat) : State :=
  let p := getPort s d l
  let same := p.was.isSome && p.was == p.far.map (fun h => (h.uid, h.port))
  let s1 := updPort s d l (fun p => { p with fails := 0, adv := false, reserved := same, rxRet := [], mis := 0 })
  let s2 := sendAdverts (setPortSt s1 d l 5) d l
  portStEvent (if same then activate s2 d l else updPort s2 d l (fun p => { p with was := none })) d l

/-! Hello frames (R332 to R335) -/

/-- The own transmitter lanes that completed training, by index in the port. -/
def lanesOk (x : Die) (l : Nat) : Nat :=
  ((portLanes x l).map (fun i => if (laneOf x i).done && !(laneOf x i).failed then 2 ^ (i - l) else 0)).foldl (· + ·) 0

/-- The far transmitter lanes received in codeword lock. -/
def rxOk (x : Die) (l : Nat) : Nat :=
  (portLanes x l).foldl (fun m i =>
    let n := laneOf x i
    if n.done && !n.failed && n.lock && decide (0 < n.hellos) then m ||| 2 ^ n.rxmap else m) 0

/-- Table 11-7: the 64 bytes of the hello that a lane sends. -/
def helloBytes (s : State) (d l i : Nat) : List Byte :=
  let x := getDie s d
  let p := portOf x l
  let h := ownShape s
  let flags := b2n s.tabs.shape.isSome + 2 * b2n (p.st == 7) + 4 * b2n (p.st == 9)
  let b := toLe 1 1 ++ toLe 1 (1 + b2n (isTrunk x l)) ++ toLe 1 ((i - l) + 8 * (portWidth x l).getD 0) ++ toLe 1 (lanesOk x l)
    ++ toLe 1 (rxOk x l) ++ toLe 1 0x20 ++ toLe 1 0x10 ++ toLe 1 flags ++ toLe 2 (portNum d l)
    ++ toLe 1 ((dirOfPort s (portNum d l)).getD 7) ++ toLe 1 h.x ++ toLe 1 h.y ++ toLe 1 h.z ++ toLe 4 (shapeCode h)
    ++ toLe 8 s.boot.uid ++ List.replicate 34 0
  b ++ toLe 4 (crc32c b)

/-- R332: an end sends its hello on every lane that completed training. -/
def sendHellos (s : State) (d l : Nat) : State :=
  let x := getDie s d
  emits s (((portLanes x l).filter (fun i => (laneOf x i).done && !(laneOf x i).failed)).map (fun i => .frame d i (helloBytes s d l i)))

/-- R335: a port is held in MISCABLED, which its hellos say; test is the test of its own that failed, 0 where only the far end reports one. -/
def holdMiscabled (s : State) (d l test : Nat) : State :=
  let s1 := sendHellos (setPortSt (updPort s d l (fun p => { p with was := none, reserved := false, adv := false, mis := test })) d l 7) d l
  if test = 0 then s1 else postEvent s1 0x05 d (portNum d l) test 0 0

/-- A hello's fields; none where its CHK or HVER is wrong. -/
def readHello (bs : List Byte) : Option Hello :=
  let v (o n : Nat) := leNat ((bs.drop o).take n)
  if bs.length ≠ 64 ∨ v 60 4 ≠ crc32c (bs.take 60) ∨ v 0 1 ≠ 1 then none
  else
    some { role := v 1 1, lane := nbits (v 2 1) 2 0, width := nbits (v 2 1) 5 3, lanesOk := v 3 1, rxOk := v 4 1, hi := v 5 1, lo := v 6 1,
           cvalid := (v 7 1).testBit 0, miscabled := (v 7 1).testBit 1, removing := (v 7 1).testBit 2, port := nbits (v 8 2) 9 0,
           dir := v 10 1, x := nbits (v 11 1) 4 0, y := nbits (v 12 1) 4 0, z := nbits (v 13 1) 4 0, shape := v 14 4, uid := v 18 8 }

/-- R327: the lowest-numbered group of 2^w lanes, aligned, whose lanes all work. -/
def laneGroup (ok w : Nat) : Option Nat :=
  (upto (8 / 2 ^ w)).findSome? (fun g =>
    let m := (2 ^ 2 ^ w - 1) <<< (g * 2 ^ w)
    if ok &&& m = m then some m else none)

/-- R327: the width (log2) and the lanes in use in each direction. -/
def portGroups (tx rx : Nat) : Nat → Option (Nat × Nat × Nat)
  | 0 =>
    match laneGroup tx 0, laneGroup rx 0 with
    | some a, some b => some (0, a, b)
    | _, _ => none
  | w + 1 =>
    match laneGroup tx (w + 1), laneGroup rx (w + 1) with
    | some a, some b => some (w + 1, a, b)
    | _, _ => portGroups tx rx w

/-- R332 to R335: the exchange is complete: width, version and cabling are settled. -/
def settleHello (s : State) (d l : Nat) (f : Hello) : State :=
  let x := getDie s d
  let w0 := (portWidth x l).getD 0
  match portGroups (lanesOk x l &&& f.rxOk) (f.lanesOk &&& rxOk x l) (min w0 (min 3 f.width)) with
  | none => bringUpFailed s d l
  | some (w, tu, fu) =>
    let v := min 0x20 f.hi
    let ok := decide (0x10 ≤ v) && decide (f.lo ≤ v) && (!isTrunk x l || v / 16 == 2)
    let s1 := updPort s d l (fun p => { p with width := w, txuse := tu, faruse := fu, major := v / 16, minor := v % 16 })
    let s2 := (portLanes x l).foldl (fun s i => updLane s d i (fun n =>
      { n with txuse := tu.testBit (i - l), rxuse := n.done && !n.failed && n.lock && fu.testBit n.rxmap })) s1
    if !ok then setPortSt (updPort s2 d l (fun p => { p with was := none, reserved := false })) d l 8
    else
      let t := cabling s2 d l f
      if t ≠ 0 then holdMiscabled s2 d l t
      else if f.miscabled || (getPort s2 d l).farSt == 7 then holdMiscabled s2 d l 0
      else linkUp s2 d l

/-- R332: whether every lane that completed training has received 8 hellos in a row, and the far end reports HELLO or later. -/
def helloReady (x : Die) (l : Nat) : Bool :=
  let ls := (portLanes x l).filter (fun i => (laneOf x i).done && !(laneOf x i).failed)
  !ls.isEmpty && ls.all (fun i => decide (8 ≤ (laneOf x i).hellos)) && decide (4 ≤ (portOf x l).farSt)

/-! Removal (R346) -/

/-- R346: a port settles in SAFE. -/
def portSafe (s : State) (d l : Nat) : State :=
  setPortSt (updPort (stopLanes (portLeave s d l) d l) d l (fun p =>
    { p with was := none, reserved := false, adv := false, width := 0, major := 0, minor := 0, txuse := 0, faruse := 0 })) d l 10

/-- R346: a removal request at a port. -/
def removePort (s : State) (d l : Nat) : State :=
  let st := (getPort s d l).st
  if st = 0 ∨ st = 1 ∨ st = 9 ∨ st = 10 then s
  else if st = 6 then
    sendHellos (setPortSt (updPort (warmLost s d l) d l (fun p => { p with remAt := s.now, farDrained := false })) d l 9) d l
  else portSafe s d l

/-- R346: whether a port has been in REMOVING for RESIDE_US. -/
def removalOver (s : State) (d l : Nat) : Bool :=
  decide ((getPort s d l).remAt + 1000 * regFld (getDie s d) rFAB_TIMERS 29 24 ≤ s.now)

/-- R346: REMOVAL_COMPLETE: both ends report DRAINED, or (late) RESIDE_US has passed. -/
def removalComplete (d l : Nat) (late : Bool) (s : State) : State :=
  let p := getPort s d l
  if dieRuns s d && p.st == 9 && ((late && removalOver s d l) || (p.farDrained && (outOf (getDie s d) l).q.isEmpty)) then portSafe s d l else s

def execRemovalComplete (d l : Nat) (late : Bool) (s : State) : Host.Outcome State Fault Refusal := .next (removalComplete d l late s)

/-! The line: control words, signal -/

/-- R322: the buffers that a port's control words may name. -/
def ctlBuf (x : Die) (l b : Nat) : Bool := if isTrunk x l then decide (b < 22) || b == 31 else decide (b < 7)

/-- R322: a port that receives control words: one in codewords after its hello. -/
def ctlPort (s : State) (d l : Nat) : Bool :=
  let st := (getPort s d l).st
  dieRuns s d && (portWidth (getDie s d) l).isSome && decide (5 ≤ st) && decide (st ≤ 9)

/-- R325, R515: a CREDIT word: the units returned since the last count add to R. -/
def creditWord (d l b cnt : Nat) (s : State) : State :=
  if !ctlPort s d l || !ctlBuf (getDie s d) l b then s
  else
    retryAll (updPort s d l (fun p =>
      let k := (cnt % 4096 + 4096 - tget p.txC b 0) % 4096
      { p with txR := tset p.txR b (tget p.txR b 0 + k), txC := tset p.txC b (cnt % 4096) }))

def execCredit (d l b cnt : Nat) (s : State) : Host.Outcome State Fault Refusal := .next (creditWord d l b cnt s)

/-- R515: an ADVERT word replaces A. -/
def advertWord (d l b units : Nat) (s : State) : State :=
  if !ctlPort s d l || !ctlBuf (getDie s d) l b then s
  else retryAll (updPort s d l (fun p => { p with txA := tset p.txA b (units % 4096) }))

def execAdvert (d l b units : Nat) (s : State) : Host.Outcome State Fault Refusal := .next (advertWord d l b units s)

/-- R322, R335, R346: a STATE word: the far port's state and DRAINED; REMOVING and MISCABLED are followed, and so is the far end's return. -/
def stateWord (d l st : Nat) (drained : Bool) (s : State) : State :=
  let p := getPort s d l
  if !dieRuns s d || (portWidth (getDie s d) l).isNone || p.st < 4 || 9 < p.st then s
  else
    let s1 := updPort s d l (fun p => { p with farSt := st, farDrained := drained })
    if p.st = 4 ∧ st = 9 then removePort s1 d l
    else if p.st = 4 then
      match p.far with
      | some f => if helloReady (getDie s1 d) l then settleHello s1 d l f else s1
      | none => s1
    else if st = 9 ∧ p.st ≠ 9 then updPort (removePort s1 d l) d l (fun p => { p with farDrained := drained })
    else if st = 7 ∧ (p.st = 5 ∨ p.st = 6) then holdMiscabled (portLeave s1 d l) d l 0
    else if p.st = 7 ∧ (st = 5 ∨ st = 6) then
      match p.far with
      | some f => if cabling s1 d l f = 0 then linkUp s1 d l else s1
      | none => s1
    else s1

def execState (d l st : Nat) (drained : Bool) (s : State) : Host.Outcome State Fault Refusal := .next (stateWord d l st drained s)

/-- R325: CREDIT_REPEAT: each buffer's current count again. -/
def creditRepeat (d l : Nat) (s : State) : State :=
  if !ctlPort s d l then s
  else
    let x := getDie s d
    emits s ((fullAdverts x l).map (fun (b, _) => .control d l 2 [creditOf b (tget (portOf x l).rxRet b 0)]))

def execCreditRepeat (d l : Nat) (s : State) : Host.Outcome State Fault Refusal := .next (creditRepeat d l s)

/-- R336: ADVERT_REPEAT. -/
def advertRepeat (d l : Nat) (s : State) : State := if ctlPort s d l then sendAdverts s d l else s

def execAdvertRepeat (d l : Nat) (s : State) : Host.Outcome State Fault Refusal := .next (advertRepeat d l s)

/-- R328, R344: a lane detects a signal; long says that it has for 100 ms while PRS_N read absent. -/
def signalDetect (d i : Nat) (long : Bool) (s : State) : State :=
  let x := getDie s d
  match laneWidthPort x i with
  | none => s
  | some l =>
    if !dieRuns s d then s
    else
      let s1 := updLane s d i (fun n => { n with sig := true })
      let p := portOf x l
      let c := cageOf x (l / 8)
      let s2 := if long && !c.prs then addCageFault s1 d (l / 8) 5 else s1
      if (p.st = 1 ∧ c.prs = false) ∨ (p.st = 3 ∧ p.fos = true) then startTrain s2 d l false else s2

/-- R328: LANE_SIGNAL_DETECT. -/
def execLaneSignalDetect (d i : Nat) (long : Bool) (s : State) : Host.Outcome State Fault Refusal := .next (signalDetect d i long s)

/-- R340: LOSS_OF_SIGNAL: a lane has had no signal for 100 ns. -/
def signalLost (d i : Nat) (s : State) : State :=
  let x := getDie s d
  match laneWidthPort x i with
  | none => s
  | some l =>
    if !dieRuns s d then s
    else
      let s1 := updLane s d i (fun n => { n with sig := false, lock := false })
      let p := portOf x l
      if (laneOf x i).rxuse && decide (5 ≤ p.st) && decide (p.st ≤ 9) then portDown s1 d l false false else s1

def execLossOfSignal (d i : Nat) (s : State) : Host.Outcome State Fault Refusal := .next (signalLost d i s)

/-- R436: FAULT_ORDERED_SET: two in a row on lane i. -/
def faultSet (d i : Nat) (s : State) : State :=
  let x := getDie s d
  match laneWidthPort x i with
  | none => s
  | some l =>
    let p := portOf x l
    if dieRuns s d && (laneOf x i).rxuse && decide (5 ≤ p.st) && decide (p.st ≤ 9) then portDown s d l false true else s

def execFaultOrderedSet (d i : Nat) (s : State) : Host.Outcome State Fault Refusal := .next (faultSet d i s)

/-! Training (R329 to R331) -/

/-- R330: one coefficient step: the new coefficient and its status. The coefficients −c(−1) and −c(+1) are held as their magnitudes. -/
def coeffStep (n : Lane) (which req : Nat) : Lane × Nat :=
  let ok (a b c : Nat) : Bool := decide (a ≤ 16) && decide (c ≤ 24) && decide (24 ≤ b) && decide (a + b + c ≤ 64)
  let try' (a b c : Nat) : Lane × Nat := if ok a b c then ({ n with cm1 := a, c0 := b, cp1 := c }, 1) else (n, 2)
  match which, req with
  | 0, 1 => if n.cm1 = 0 then (n, 2) else try' (n.cm1 - 1) n.c0 n.cp1
  | 0, 2 => try' (n.cm1 + 1) n.c0 n.cp1
  | 1, 1 => try' n.cm1 (n.c0 + 1) n.cp1
  | 1, 2 => if n.c0 = 0 then (n, 2) else try' n.cm1 (n.c0 - 1) n.cp1
  | 2, 1 => if n.cp1 = 0 then (n, 2) else try' n.cm1 n.c0 (n.cp1 - 1)
  | 2, 2 => try' n.cm1 n.c0 (n.cp1 + 1)
  | _, _ => (n, 0)

/-- Table 11-6. -/
def presetCoeffs (k : Nat) : Nat × Nat × Nat :=
  match k with
  | 1 => (0, 64, 0)
  | 2 => (4, 52, 8)
  | 3 => (6, 46, 12)
  | _ => (0, 54, 10)

/-- Table 11-5: the requests of a received control field are applied to the lane's own transmitter. -/
def applyControl (n : Lane) (c : Nat) : Lane :=
  let n1 := { n with preTx := c.testBit 21, readyGot := if c.testBit 16 then n.readyGot + 1 else n.readyGot }
  let k := nbits c 9 6
  if 1 ≤ k ∧ k ≤ 4 then
    let (a, b, p) := presetCoeffs k
    { n1 with cm1 := a, c0 := b, cp1 := p, sts := 0x15 }
  else
    let (n2, s0) := coeffStep n1 0 (nbits c 1 0)
    let (n3, s1) := coeffStep n2 1 (nbits c 3 2)
    let (n4, s2) := coeffStep n3 2 (nbits c 5 4)
    { n4 with sts := s0 + 4 * s1 + 16 * s2 }

/-- The lanes of a recalibrating port that ended training or failed (R341). -/
def recalPos (x : Die) (l : Nat) : Nat := ((portLanes x l).filter (fun i => (laneOf x i).done || (laneOf x i).failed)).length

def recalProgress (s : State) (d l : Nat) : State :=
  match (getPort s d l).recal with
  | some id => setPos s id (recalPos (getDie s d) l)
  | none => s

/-- R331, R332: training is over at a port: it goes on to HELLO with the lanes that succeeded. -/
def trainOver (s : State) (d l : Nat) : State :=
  if lanesOk (getDie s d) l = 0 then bringUpFailed s d l else sendHellos (setPortSt s d l 4) d l

/-- R331: a lane has counted down: it starts codewords, its receiver adapted (R338, log entry 62); with the last lane the port's training is over. -/
def laneTrained (s : State) (d l i : Nat) : State :=
  let (k, s0) := draw s
  let s1 := recalProgress (updLane s0 d i (fun n =>
    { n with trained := true, done := true, preRx := bit (portCfg (getDie s d) l) 5, adapt := Config.rxAdapt k })) d l
  if (portLanes (getDie s1 d) l).all (fun j => (laneOf (getDie s1 d) j).done || (laneOf (getDie s1 d) j).failed) then trainOver s1 d l else s1

/-- R329 to R331: lane i receives a training frame with control field c, its marker inverted or not; ready says that the lane's receiver is
adapted, req what it asks of the far transmitter (Table 11-5, bits 9 to 0). The lane sends a frame of its own in answer. -/
def trainingFrame (d i : Nat) (c : BitVec 64) (inv ready : Bool) (req : Nat) (s : State) : State :=
  let x := getDie s d
  match laneWidthPort x i with
  | none => s
  | some l =>
    let n := laneOf x i
    if !dieRuns s d || (portOf x l).st != 3 || n.done || n.failed then s
    else
      let s0 := if (portOf x l).fos then startTrain s d l false else s
      let n0 := laneOf (getDie s0 d) i
      let good := fld c 63 56 == crc8 (c.toNat % 2 ^ 56)
      let n1 := { n0 with sig := true, pol := inv, readySent := if ready then n0.readySent + 1 else n0.readySent }
      let n2 := if good then applyControl n1 c.toNat else n1
      let s1 := updLane s0 d i (fun _ => n2)
      let s2 := emit s1 (trainFrame s1 d l i req ready 15)
      if 16 ≤ n2.readySent ∧ 16 ≤ n2.readyGot then
        laneTrained (emits s2 ((upto 15).map (fun k => trainFrame s1 d l i req ready (14 - k)))) d l i
      else s2

def execTrainingFrame (d i : Nat) (c : BitVec 64) (inv : Bool) (ask : Nat) (s : State) : Host.Outcome State Fault Refusal :=
  .next (trainingFrame d i c inv (ask.testBit 16) (ask % 2 ^ 10) s)

/-- R331: TRAIN_MS_EXPIRY: lanes that have not started codewords have failed for this bring-up. -/
def trainExpiry (d l : Nat) (s : State) : State :=
  let x := getDie s d
  if !dieRuns s d || (portOf x l).st != 3 || (portOf x l).fos || (portWidth x l).isNone then s
  else
    trainOver (recalProgress ((portLanes x l).foldl (fun s i => updLane s d i (fun n => if n.done then n else { n with failed := true })) s) d l) d l

def execTrainMsExpiry (d l : Nat) (s : State) : Host.Outcome State Fault Refusal := .next (trainExpiry d l s)

/-- R332, R333, R346: lane i receives a hello frame. In HELLO the end sends its own again, with what it receives by now. -/
def helloFrame (d i : Nat) (bs : List Byte) (s : State) : State :=
  let x := getDie s d
  match laneWidthPort x i with
  | none => s
  | some l =>
    let p := portOf x l
    let n := laneOf x i
    if !dieRuns s d || !n.done || n.failed || p.st < 4 || 9 < p.st then s
    else
      match readHello bs with
      | none => updLane s d i (fun n => { n with hellos := 0 })
      | some f =>
        if p.st ≠ 4 then
          let s1 := updPort s d l (fun p => { p with far := some f })
          if f.removing then removePort s1 d l
          else if f.miscabled ∧ (p.st = 5 ∨ p.st = 6) then holdMiscabled (portLeave s1 d l) d l 0
          else s1
        else if f.removing then removePort (updPort s d l (fun p => { p with far := some f })) d l
        else
          let twice := (portLanes x l).any (fun j => j != i && (laneOf x j).done && !(laneOf x j).failed && decide (0 < (laneOf x j).hellos) && (laneOf x j).rxmap == f.lane)
          if twice || decide (2 ^ (portWidth x l).getD 0 ≤ f.lane) then updLane s d i (fun n => { n with failed := true })
          else
            let s0 := updPort (updLane s d i (fun n => { n with hellos := n.hellos + 1, rxmap := f.lane, lock := true })) d l (fun p => { p with far := some f })
            let s1 := emit s0 (.frame d i (helloBytes s0 d l i))
            if helloReady (getDie s1 d) l then settleHello s1 d l f else s1

def execHelloFrame (d i : Nat) (bs : List Byte) (s : State) : Host.Outcome State Fault Refusal := .next (helloFrame d i bs s)

/-- R332: HELLO_TIMEOUT. -/
def helloTimeout (d l : Nat) (s : State) : State :=
  if dieRuns s d && (getPort s d l).st == 4 then bringUpFailed s d l else s

def execHelloTimeout (d l : Nat) (s : State) : Host.Outcome State Fault Refusal := .next (helloTimeout d l s)

/-! Codewords (R321 to R324) -/

/-- R323: whether two codeword counts lie more than 4 apart. -/
def markApart (a b : Nat) : Bool := decide (4 < (a + 2 ^ 17 - b) % 2 ^ 17) && decide (4 < (b + 2 ^ 17 - a) % 2 ^ 17)

/-- R323: the lanes of the port whose codeword counts lie more than 4 from those of most of the other lanes (log entry 63). -/
def skewed (x : Die) (l : Nat) : List Nat :=
  let ms := (portLanes x l).filterMap (fun j => match (laneOf x j).mark with
    | some m => if (laneOf x j).done && !(laneOf x j).failed then some (j, m) else none
    | none => none)
  (ms.filter (fun e => decide (ms.length ≤ 2 * (ms.filter (fun f => f.1 != e.1 && markApart e.2 f.2)).length) && decide (2 ≤ ms.length))).map (·.1)

/-- R323: the bytes of a frame: byte j is byte floor(j / w) of the lane at j mod w of the list. -/
def interleave : Nat → List (List Byte) → List Byte
  | 0, _ => []
  | n + 1, ls => ls.filterMap List.head? ++ interleave n (ls.map List.tail)

/-- R230, R293, R323: bytes of the stream that arrives at a port, after the bytes cur of a packet. A packet's header and its end are the events of
R293 and R230; a header of VER 0 is idle, which lasts to the end of the frame (log entry 64). -/
def takeBytes : Nat → State → Nat → Nat → List Byte → List Byte → State
  | 0, s, _, _, _, _ => s
  | f + 1, s, d, l, cur, bs =>
    let keep (s : State) (c : Option (List Byte)) : State := updPort s d l (fun p => { p with part := c })
    let t1 := (getPort s d l).major == 1
    let hn := if t1 then 24 else 32
    let hdr (c : List Byte) : BitVec 256 := BitVec.ofNat 256 (leNat (c.take hn))
    let len (h : BitVec 256) : Nat := if t1 then t1Len h else hLEN h
    match bs with
    | [] => keep s (if cur.isEmpty then none else some cur)
    | _ =>
      if cur.length < hn then
        let c := cur ++ bs.take (hn - cur.length)
        if c.length < hn then keep s (some c)
        else if (if t1 then fld (hdr c) 3 0 else hVER (hdr c)) = 0 then keep s none
        else if 4096 < len (hdr c) then keep (headerArrival d l (hdr c) s) none
        else takeBytes f (headerArrival d l (hdr c) s) d l c (bs.drop (hn - cur.length))
      else
        let need := hn + bodyLen (len (hdr cur)) + 4 - cur.length
        if bs.length < need then keep s (some (cur ++ bs))
        else takeBytes f (packetReceived d l ((cur ++ bs.take need).drop hn) true s) d l [] (bs.drop need)

/-- R230, R293, R324: the packet whose bytes were arriving in frames at a port is discarded and counted, whether its header was whole or not. -/
def dropPart (s : State) (d l : Nat) : State :=
  let s1 := updPort s d l (fun p => { p with part := none })
  if (tfind (getDie s d).rxPend l).isSome then lostArriving s1 d l
  else if (getPort s d l).part.isSome then bump s1 d nCRC
  else s1

/-- R323, R324: the words of one frame at a port, by logical lane. A packet with a byte in a codeword that could not be corrected is discarded as its
frame is taken; after it, and after idle, packets go on at FIRST. A frame in which no packet runs or starts may carry hellos. -/
def takeFrame (s : State) (d l : Nat) (ws : List RxWord) : State :=
  if ws.any (fun e => e.body.isNone) then dropPart s d l
  else
    let parts := ws.filterMap (·.body)
    let bs := interleave 625 (parts.map (·.1))
    match (getPort s d l).part, (parts.head?.bind (·.2)) with
    | some _, some 0 => takeBytes bs.length (dropPart s d l) d l [] bs
    | some cur, _ => takeBytes (bs.length + 1) s d l cur bs
    | none, some f => takeBytes (bs.length + 1) s d l [] (bs.drop f)
    | none, none => ws.foldl (fun s e => match e.body with
      | some (b, _) => if (readHello (b.take 64)).isSome then helloFrame d e.lane (b.take 64) s else s
      | none => s) s

/-- R323: a data field joins those of its count; the last of a frame completes it. -/
def joinFrame (s : State) (d l : Nat) (e : RxWord) : State :=
  let p := getPort s d l
  let w := 2 ^ p.width
  let ws := p.words.filter (fun v => !markApart v.count e.count) ++ [e]
  let same := ws.filter (fun v => v.count == e.count)
  let lane (k : Nat) : Option RxWord := same.find? (fun v => (laneOf (getDie s d) v.lane).rxmap % w == k)
  let fr := (upto w).filterMap lane
  if fr.length = w then takeFrame (updPort s d l (fun p => { p with words := ws.filter (fun v => v.count != e.count) })) d l fr
  else updPort s d l (fun p => { p with words := ws })

/-- R322: a control word other than MARK and FIRST. -/
def controlWord (d l w : Nat) (s : State) : State :=
  match cwType w with
  | 2 => creditWord d l (nbits w 7 3) (nbits w 19 8) s
  | 3 => advertWord d l (nbits w 7 3) (nbits w 19 8) s
  | 4 => stateWord d l (nbits w 6 3) (w.testBit 7) s
  | _ => s

/-- R321 to R323, R436: a lane of the port at l decodes a codeword, of which fixed symbols were corrected. -/
def codewordGood (d i l : Nat) (c : Codeword) (fixed : Nat) (s : State) : State :=
  let p := getPort s d l
  let s1 := updLane s d i (fun n =>
    { n with
      lock := true, sig := true, uncRow := 0, fosRow := if cwFault c then n.fosRow + 1 else 0, fecc := satAdd (2 ^ 32 - 1) n.fecc fixed,
      mark := match cwMark c with
        | some m => some m
        | none => n.mark.map (fun m => (m + 1) % 2 ^ 17) })
  let s2 := if fixed = 0 then s1 else portEvent (countC0 s1 d fixed) d l 0x07 fixed none
  let bad := skewed (getDie s2 d) l
  let s3 := bad.foldl (fun s j => updLane s d j (fun n => { n with failed := true })) s2
  if bad.any (fun j => (laneOf (getDie s2 d) j).rxuse || (laneOf (getDie s2 d) j).txuse) && decide (5 ≤ p.st) && decide (p.st ≤ 9) then
    portDown s3 d l false false
  else if bad.contains i then s3
  else if 2 ≤ (laneOf (getDie s3 d) i).fosRow ∧ (laneOf (getDie s3 d) i).rxuse ∧ 5 ≤ p.st ∧ p.st ≤ 9 then portDown s3 d l false true
  else
    let s4 := c.ctl.foldl (fun s w => controlWord d l w s) s3
    let n := laneOf (getDie s4 d) i
    let st := (getPort s4 d l).st
    if st = 4 ∨ st = 7 ∨ st = 8 then helloFrame d i (c.bytes.take 64) s4
    else if n.rxuse && (st == 5 || st == 6 || st == 9) then
      match n.mark with
      | some m => joinFrame s4 d l { count := m, lane := i, body := some (c.bytes, cwFirst c) }
      | none => s4
    else s4

/-- R230, R324, R332, R340: a lane of the port at l cannot correct a codeword: a packet with a byte in it is discarded with its frame, which a lane that
is not in use cannot bring about; the hellos that follow count anew. -/
def codewordBad (d i l : Nat) (s : State) : State :=
  let x := getDie s d
  let n := laneOf x i
  let p := portOf x l
  let uncs := n.uncs.filter (fun t => decide (s.now < t + 1000000)) ++ [s.now]
  let m := n.mark.map (fun m => (m + 1) % 2 ^ 17)
  let s1 := updLane s d i (fun n => { n with fecu := satInc (2 ^ 32 - 1) n.fecu, uncRow := n.uncRow + 1, uncs := uncs, mark := m, fosRow := 0, hellos := if p.st = 4 then 0 else n.hellos })
  let s2 := portEvent (reportFault s1 1 5 (portNum d l) d 0x11 1) d l 0x08 1 none
  if !n.rxuse || decide (p.st < 5) || decide (9 < p.st) then s2
  else
    match m with
    | some m =>
      let s3 := joinFrame s2 d l { count := m, lane := i, body := none }
      if 4 ≤ n.uncRow + 1 ∨ regFld x rPORT_TIMERS 15 8 < uncs.length then portDown s3 d l false false else s3
    | none =>
      let s3 := lostArriving s2 d l
      if 4 ≤ n.uncRow + 1 ∨ regFld x rPORT_TIMERS 15 8 < uncs.length then portDown s3 d l false false else s3

/-- R321 to R324, R340: lane i receives the 5,440 bits of a codeword, bit 0 the first sent. -/
def codeword (d i : Nat) (cw : BitVec 5440) (s : State) : State :=
  let x := getDie s d
  match laneWidthPort x i with
  | none => s
  | some l =>
    let n := laneOf x i
    if !dieRuns s d || !n.done || n.failed || laneTest x i != 0 || (portOf x l).st == 10 then s
    else
      match rsDecode (cwSymbols cw) with
      | some (c, fixed) => codewordGood d i l (cwParts c) fixed s
      | none => codewordBad d i l s

/-- R321: CODEWORD_RECEIVED. -/
def execCodewordReceived (d i : Nat) (ctl : BitVec 140) (data : BitVec 5000) (par : BitVec 300) (s : State) : Host.Outcome State Fault Refusal :=
  .next (codeword d i (par ++ (data ++ ctl)) s)

/-! Admission (R337) and recalibration (R341) -/

/-- R337: an admission of port number p: its status. -/
def admitPort (s : State) (p : Nat) : Status × State :=
  let d := p / 96
  let l := p % 96
  let st := (getPort s d l).st
  if !linkReaches s d then (.notReady, s)
  else if st = 6 then (.ok, s)
  else if st ≠ 5 then (.notReady, s)
  else
    let x := getDie s d
    if (upto 3).all (fun k => decide (poolReserve s.variant d x k (some l) ≤ poolFree x k)) then (.ok, activate s d l)
    else (.noBuf, bump s d nNOADM)

/-- R337: a withdrawal of port number p. The spec names no status for a port that is not ACTIVE (log entry 16). -/
def withdrawPort (s : State) (p : Nat) : Status × State :=
  let d := p / 96
  let l := p % 96
  if (getPort s d l).st = 6 ∧ d < ndies s.variant then
    (.ok, sendAdverts (setPortSt (updPort (portLeave s d l) d l (fun p => { p with adv := false, reserved := false })) d l 5) d l)
  else (.raw (Config.openStatus 0x0A (getPort s d l).st), s)

/-- R341: a recalibration begins: the port goes down and its lanes retrain from their current coefficients. False where it cannot. -/
def recalStart (s : State) (p id : Nat) : Bool × State :=
  let d := p / 96
  let l := p % 96
  let st := (getPort s d l).st
  if st = 9 ∨ st = 10 then (false, s)
  else if st = 0 then (true, s)
  else
    let was := if st = 6 then (getPort s d l).far.map (fun h => (h.uid, h.port)) else (getPort s d l).was
    let s1 := updPort (portLeave s d l) d l (fun q => { q with recal := some id, was := was })
    (true, portStEvent (startTrain s1 d l true) d l)

/-- R341: whether a recalibration's bring-up is over. -/
def recalOver (s : State) (p : Nat) : Bool := let st := (getPort s (p / 96) (p % 96)).st; st != 3 && st != 4

/-! Cages and modules (R344 to R348) -/

/-- R344: a fault of SCL or SDA isolates the cage's branch of the module bus. -/
def isolated (c : Cage) : Bool := c.faults.contains 7 || c.faults.contains 8

/-- The ports of a cage that wait for their module start training. -/
def moduleReady (s : State) (d o : Nat) : State :=
  let s1 := updCage s d o (fun c => { c with ready := true })
  (octetPorts (getDie s d) o).foldl (fun s l => if (getPort s d l).st = 2 then startTrain s d l false else s) s1

/-- R339: PRESENCE_DEBOUNCED: PRS_N has been present for 10 ms. -/
def presence (d o : Nat) (s : State) : State :=
  let x := getDie s d
  if !dieRuns s d || (octetPorts x o).isEmpty then s
  else
    (octetPorts x o).foldl (fun s l => if (getPort s d l).st = 1 then setPortSt s d l 2 else s)
      (updCage s d o (fun c => { c with prs := true, ready := c.prs && c.ready, app := c.prs && c.app }))

def execPresenceDebounced (d o : Nat) (s : State) : Host.Outcome State Fault Refusal := .next (presence d o s)

/-- Table 11-10: a port of an emptied cage is EMPTY. -/
def portEmpty (s : State) (d l : Nat) : State :=
  setPortSt (updPort (stopLanes (portLeave s d l) d l) d l (fun p =>
    { p with was := none, reserved := false, adv := false, fails := 0, width := 0, major := 0, minor := 0, txuse := 0, faruse := 0 })) d l 1

/-- R339, R346: UNPLUG; a cable pulled in REMOVING sets EARLY. -/
def unplug (d o : Nat) (s : State) : State :=
  let x := getDie s d
  if !dieRuns s d || (octetPorts x o).isEmpty then s
  else
    let early := (octetPorts x o).any (fun l => (portOf x l).st == 9)
    let s1 := (octetPorts x o).foldl (fun s l => if (getPort s d l).st = 0 then s else portEmpty s d l) s
    let s2 := updCage s1 d o (fun c => { c with prs := false, ready := false, flat := false, app := false, modst := 0, early := c.early || early })
    if early then cageEvent s2 d o else s2

def execUnplug (d o : Nat) (s : State) : Host.Outcome State Fault Refusal := .next (unplug d o s)

/-- R348: the lanes of the cage that its ports use, as a mask. -/
def cageLanes (x : Die) (o : Nat) : Nat :=
  ((octetPorts x o).map (fun l => ((portLanes x l).map (fun i => 2 ^ (i % 8))).foldl (· + ·) 0)).foldl (· + ·) 0

/-- R348: the steward takes a managed module out of low power, selects application app for the lanes in use, and has the data paths initialised. The
places are those of CMIS, which the spec does not print: PRESUMED (log entry 65). -/
def selectApp (s : State) (d o app : Nat) : State :=
  let m := cageLanes (getDie s d) o
  let lane (k : Nat) : Byte := if m.testBit k then BitVec.ofNat 8 (app % 16 * 16) else 0
  emits (updCage s d o (fun c => { c with app := true }))
    [.cmis d o 0 0x00 26 true [0], .cmis d o 0 0x10 145 true ((upto 8).map lane), .cmis d o 0 0x10 143 true [BitVec.ofNat 8 m],
     .cmis d o 0 0x10 128 true [BitVec.ofNat 8 (255 - m)]]

/-- R348: an event for each alarm of the flag bytes. -/
def alarmEvents (s : State) (d o alarms : Nat) : State :=
  foldUpto 32 s (fun s k => if alarms.testBit k then postEvent s 0x08 d (16 * d + o) (alarms % 2 ^ 32) 0 0 else s)

/-- R344, R348: CMIS_POLL: whether the module acknowledged, the application that it advertises at 200 Gbit/s a lane (none where its memory is flat),
whether its data paths are activated, its CMIS state, its flag bytes. Nothing comes from an isolated branch. -/
def cmisPoll (d o : Nat) (ack : Bool) (app : Option Nat) (ready : Bool) (modst alarms : Nat) (s : State) : State :=
  let flat := app.isNone
  let x := getDie s d
  let c := cageOf x o
  if !dieRuns s d || (octetPorts x o).isEmpty || !c.prs then s
  else if !ack || isolated c then moduleReady (addCageFault s d o 6) d o
  else
    let s1 := updCage s d o (fun c =>
      { c with flat := flat, modst := if flat then 0 else if modst < 6 then modst else c.modst, faults := sdel c.faults 6 })
    let s2 := if flat || c.app then s1 else selectApp s1 d o (app.getD 0)
    alarmEvents (if flat || ready then moduleReady s2 d o else s2) d o alarms

def execCmisPoll (d o : Nat) (ack : Bool) (app : Option Nat) (ready : Bool) (modst alarms : Nat) (s : State) : Host.Outcome State Fault Refusal :=
  .next (cmisPoll d o ack app ready modst alarms s)

/-- R348: MODULE_READY_TIMEOUT. -/
def readyTimeout (d o : Nat) (s : State) : State :=
  let x := getDie s d
  if !dieRuns s d || (octetPorts x o).isEmpty || !(cageOf x o).prs || (cageOf x o).ready then s
  else postEvent (moduleReady s d o) 0x08 d (16 * d + o) 0 0 0

def execModuleReadyTimeout (d o : Nat) (s : State) : Host.Outcome State Fault Refusal := .next (readyTimeout d o s)

/-- A cage's LOCATE is cleared. -/
def clearLocate (s : State) (d o : Nat) : State :=
  updDie s d (fun x => { x with regs := tset x.regs (rCAGE_CFG o) (regWord x (rCAGE_CFG o) &&& ~~~2#32) })

/-- R345, R351: BUTTON_RELEASE after ms milliseconds low. BTN says that the button is held, which it no longer is (log entry 66). -/
def buttonRelease (d o ms : Nat) (s : State) : State :=
  let x := getDie s d
  let c := cageOf x o
  if !dieRuns s d || (octetPorts x o).isEmpty then s
  else
    let s := updCage s d o (fun c => { c with btn := false })
    if c.faults.contains 15 || c.faults.contains 16 || c.faults.contains 17 then s
    else if ms < 50 then s
    else if ms < 2000 then
      if bit (regWord x (rCAGE_CFG o)) 1 then clearLocate s d o else postEvent s 0x07 d (16 * d + o) 0 0 0
    else if ms ≤ 10000 then
      (octetPorts x o).foldl (fun s l =>
        if (getPort s d l).st = 10 then (if c.prs then startTrain (updPort s d l (fun p => { p with fails := 0 })) d l false else s)
        else removePort s d l) (clearLocate s d o)
    else s

def execButtonRelease (d o ms : Nat) (s : State) : Host.Outcome State Fault Refusal := .next (buttonRelease d o ms s)

/-- R344: BUTTON_STUCK: BTN_N has been low for more than 10 s. -/
def buttonStuck (d o : Nat) (s : State) : State :=
  if dieRuns s d && !(octetPorts (getDie s d) o).isEmpty then addCageFault (updCage s d o (fun c => { c with btn := true })) d o 17 else s

def execButtonStuck (d o : Nat) (s : State) : Host.Outcome State Fault Refusal := .next (buttonStuck d o s)

/-- R344: BUTTON_STUCK_CLEAR: the line has been high for 1 s. -/
def buttonClear (d o : Nat) (s : State) : State :=
  updCage s d o (fun c => { c with btn := false, faults := sdel c.faults 17 })

def execButtonStuckClear (d o : Nat) (s : State) : Host.Outcome State Fault Refusal := .next (buttonClear d o s)

/-- R344: SIDEBAND_TEST: the faults (CAGE_STAT bits 5 to 16) that the tests of Table 11-13 find. BTN_STUCK has commands of its own. -/
def sideband (d o : Nat) (found : NSet) (s : State) : State :=
  if dieRuns s d && !(octetPorts (getDie s d) o).isEmpty then
    let fs := (upto 12).foldl (fun t i => if found.contains (5 + i) then sadd t (5 + i) else t) []
    setCageFaults s d o (if (cageOf (getDie s d) o).faults.contains 17 then sadd fs 17 else fs)
  else s

def execSidebandTest (d o : Nat) (found : NSet) (s : State) : Host.Outcome State Fault Refusal := .next (sideband d o found s)

/-! Register writes (R342, R349) -/

/-- R349: PORT_CFG: every port of the octet goes down, and the ports of the new MODE start from EMPTY. -/
def portCfgWrite (d o : Nat) (v : Word32) (s : State) : State :=
  if o ≥ 12 ∨ regsUp s = false ∨ linkReaches s d = false then s
  else if s.locked then writeLocked s d (rPORT_CFG o) v
  else
    let x := getDie s d
    let w := regWord x (rPORT_CFG o)
    let mode := if fld v 2 0 = 7 then fld w 2 0 else fld v 2 0
    let role := if 2 ≤ fld v 4 3 then fld w 4 3 else fld v 4 3
    let s1 := (octetPorts x o).foldl (fun s l =>
      let s1 := stopLanes (portLeave s d l) d l
      updPort s1 d l (fun p =>
        { portReset with
          pmc := p.pmc, t1 := p.t1, pdrop := p.pdrop, gate := p.gate, staged := p.staged, shTok := p.shTok, polTok := p.polTok })) s
    let s2 := updDie s1 d (fun x => { x with regs := tset x.regs (rPORT_CFG o) (BitVec.ofNat 32 (mode + 8 * role + 32 * fld v 5 5)) })
    (octetPorts (getDie s2 d) o).foldl (fun s l => setPortSt s d l 1) s2

def execPortCfgWrite (d o : Nat) (v : Word32) (s : State) : Host.Outcome State Fault Refusal := .next (portCfgWrite d o v s)

/-- R342, R343: LANE_CTL. Another test, sequence or precoding starts the generator and checker again (log entry 61). -/
def laneCtlWrite (d i : Nat) (v : Word32) (s : State) : State :=
  if i ≥ 96 ∨ regsUp s = false ∨ linkReaches s d = false then s
  else
    let x := getDie s d
    let w := regWord x (rLANE_CTL i)
    let st := match laneWidthPort x i with
      | some l => (portOf x l).st
      | none => 0
    let t := fld v 2 0
    let refused := decide (t ≠ 0) && (st == 6 || st == 9)
    let test := if 5 ≤ t ∨ refused then fld w 2 0 else t
    let prbs := if fld v 4 3 = 3 then fld w 4 3 else fld v 4 3
    let s1 := updDie s d (fun x => { x with regs := tset x.regs (rLANE_CTL i) (BitVec.ofNat 32 (test + 8 * prbs + 32 * fld v 5 5)) })
    let same := test == fld w 2 0 && prbs == fld w 4 3 && fld v 5 5 == fld w 5 5
    let s2 := updLane s1 d i (fun n =>
      { n with prbse := 0, prbsLock := n.prbsLock && same, prbs := if same then n.prbs else {} })
    let s3 := if refused then postEvent s2 0x0E d i 0 0 0 else s2
    match laneWidthPort x i with
    | none => s3
    | some l =>
      if test ≠ 0 ∧ st ≠ 11 ∧ st ≠ 10 ∧ st ≠ 0 ∧ st ≠ 6 ∧ st ≠ 9 then
        setPortSt (updPort (stopLanes (portLeave s3 d l) d l) d l (fun p =>
          { p with was := none, reserved := false, width := 0, major := 0, minor := 0, txuse := 0, faruse := 0 })) d l 11
      else if st = 11 ∧ (portLanes x l).all (fun j => laneTest (getDie s3 d) j == 0) then startTrain s3 d l false
      else s3

def execLaneCtlWrite (d i : Nat) (v : Word32) (s : State) : Host.Outcome State Fault Refusal := .next (laneCtlWrite d i v s)

/-- R342, R343: a lane in a test mode for as many symbols as levels are given: the levels that come from the line, the lane's inversion not yet taken
out. Its generator runs; its checker takes its own levels in a near-end loopback (TEST 1, 2) and the line's in TEST 3 and 4; it transmits its own, in
TEST 3 the line's (control kind 10). In SAFE no lane transmits (R346). -/
def prbsRun (d i : Nat) (rx : List Nat) (s : State) : State :=
  let x := getDie s d
  if !dieRuns s d || 96 ≤ i || laneTest x i = 0 then s
  else
    let code := regFld x (rLANE_CTL i) 4 3
    let pre := regFld x (rLANE_CTL i) 5 5 == 1
    let t := laneTest x i
    let pol := (laneOf x i).pol
    let (n, out) := rx.foldl (fun (a : Lane × List Nat) v =>
      let line := if pol then 3 - v % 4 else v % 4
      let (g, q) := prbsLevel code pre a.1.prbs
      (prbsTake code pre { a.1 with prbs := q } (if t ≤ 2 then g else line), a.2 ++ [if t = 3 then line else g])) (laneOf x i, [])
    let s1 := updLane s d i (fun _ => n)
    let safe := match laneWidthPort x i with
      | some l => (portOf x l).st == 10
      | none => false
    if safe then s1 else emit s1 (.control d i 10 out)

/-- R343: PRBS_CHECKER_LOCK. -/
def execPrbsCheckerLock (d i n rx : Nat) (s : State) : Host.Outcome State Fault Refusal :=
  .next (prbsRun d i ((upto n).map (fun k => nbits rx (2 * k + 1) (2 * k))) s)

/-- R338: KEEP_PRESET_WRITE: after LINK_UP, the coefficients and adaptation of a port's lanes that differ from the keep's, each lane at most once an
hour. -/
def keepPreset (d l : Nat) (s : State) : State :=
  let x := getDie s d
  let st := (portOf x l).st
  if !dieRuns s d || !(st == 5 || st == 6) then s
  else
    (portLanes x l).foldl (fun s i =>
      let n := laneOf x i
      let k := 96 * d + i
      let c := (n.cm1, n.c0, n.cp1)
      let soon := match tfind s.keep.presetAt k with
        | some t => decide (s.now < t + 3600000000000)
        | none => false
      if !n.trained || (tfind s.keep.presets k == some c && tfind s.keep.adapts k == some n.adapt) || soon then s
      else
        { s with keep := { s.keep with
            presets := tset s.keep.presets k c, adapts := tset s.keep.adapts k n.adapt, presetAt := tset s.keep.presetAt k s.now } }) s

def execKeepPresetWrite (d l : Nat) (s : State) : Host.Outcome State Fault Refusal := .next (keepPreset d l s)

end Sys2Proof.Machine
end

