-- ==== Sys2Proof/Machine/DieFault.lean ====
section
/-! DEFINITION. File 15: faults of a die (C3) and of the package (C4); files 01 and 12: the lead role and the Itgil links. -/

namespace Sys2Proof.Machine

/-! The repair record (R441) -/

/-- R441, Table 15-7: a change made in service, which the lead steward is to enter in the record. spare is 0xFFFF_FFFF where none is used. -/
def recAdd (s : State) (kind die unit site spare : Nat) : State :=
  { s with recPending := s.recPending ++
      [{ kind := kind, die := die, unit := unit, site := site, spare := spare, time := timeNs s s.lead / 1000000000 % 2 ^ 32 }] }

def noSpare : Nat := 0xFFFFFFFF

/-- R441: KEEP_REPAIR_RECORD_WRITE: the oldest change not yet entered. With the 4,096th entry the record is full and FAULT 0x0F is posted; later
changes are not recorded. -/
def keepRecord (s : State) : State :=
  match s.recPending with
  | [] => s
  | e :: rest =>
    let s1 := { s with recPending := rest }
    if s.phase != .up && s.phase != .standby then s
    else if 4096 ≤ s.keep.record.length then s1
    else
      let s2 := { s1 with keep := { s1.keep with record := s1.keep.record ++ [e] } }
      if s2.keep.record.length = 4096 then reportFault s2 0 0 0 s.lead 0x0F 0 else s2

def execKeepRepairRecordWrite (s : State) : Host.Outcome State Fault Refusal := .next (keepRecord s)

/-! The safe state (R435, R438) -/

/-- The ports of every die, as (die, local index), by the lanes they use. -/
def allLanes (s : State) : List (Nat × Nat) := ((upto (ndies s.variant)).map (fun d => (upto 96).map (fun i => (d, i)))).flatten

/-- A die's slice forwards nothing more: the packets it holds are gone. -/
def clearPackets (x : Die) : Die :=
  { x with inbox := [], held := [], adapt := [], outs := [], rxPend := [], txq := [] }

/-- R436: a fault ordered set after its MARK, whose count is the lane's (R322): STATE 12 with DRAINED = 0 in slots 1 to 6, and the data field. -/
def fosBody : List Nat := List.replicate 6 (stateOf 12 false) ++ List.replicate 625 0xFF

/-- R437, R505: the level that ALIVE shows: a 1 kHz square wave while it toggles, else the level it holds; high through its pull-up where nothing
drives it. -/
def alivePin (s : State) : Bool :=
  let p := s.power
  !p.drive || (if p.alive then (s.now - p.aliveAt) / 500000 % 2 == 0 else p.aliveHi)

/-- R435: the safe state: transmitters send fault ordered sets (control kind 9) and no data, the slices discard their packets, ALIVE holds its last
level, the stacks enter self-refresh, the code is written to the keep's fault log. -/
def packageFault (s : State) (code : Nat) : State :=
  if s.phase == .safe || s.phase == .off || code < 0x40 || 0x46 < code then s
  else
    let s1 := emits s ((allLanes s).map (fun (d, i) => .control d i 9 fosBody))
    let s2 := foldUpto (ndies s.variant) s1 (fun s d => updDie s d (fun x => { clearPackets x with stk := { x.stk with selfRef := true } }))
    { s2 with
      phase := .safe
      power := { s2.power with alive := false, aliveHi := alivePin s }
      keep := { s2.keep with faultLog := if s2.keep.faultLog.length < 4096 then s2.keep.faultLog ++ [code] else s2.keep.faultLog } }

/-- R435: PACKAGE_FAULT_C4. -/
def execPackageFaultC4 (code : Nat) (s : State) : Host.Outcome State Fault Refusal := .next (packageFault s code)

/-! Itgil links (R355, R433) -/

/-- R355: whether the device can fail over to the other link. -/
def itgCan (s : State) : Bool :=
  s.variant == .tx8 && s.itgUp.contains (1 - s.itgActive) && (getDie s (itgDie (1 - s.itgActive))).flt == 0

/-- R355: the move to the other link: the doorbells rehomed, the event posted over it, and the stores that were in progress on the old link written
again: those that waited for a link, and those of the last 20 µs (log entry 68). -/
def failOver (s : State) : State :=
  let again := s.itgWait.filter (fun e => s.itgLost || decide (s.now < e.1 + 20000))
  let s1 := { s with itgActive := 1 - s.itgActive, itgFail := satInc 0xFF s.itgFail, itgLost := false, itgWait := [] }
  emits (postEvent s1 0x0C 0xFF (itgDie s1.itgActive) 0 0 0) (again.map (·.2))

/-- R355, R433: the active link cannot be used: the device fails over where AUTO asks for it; with no link to move to, a C4 fault. -/
def loseLink (s : State) : State :=
  if !itgCan s then packageFault s 0x45 else if s.itgAuto then failOver s else { s with itgLost := true }

/-- R355: a write of ITG_CTL: SWITCH moves to the other link if it is up; AUTO is an RWL field. -/
def itgSwitch (v : Word32) (s : State) : State :=
  if s.phase != .up && s.phase != .standby then s
  else
    let s1 := if !s.locked then { s with itgAuto := bit v 1 }
      else postEvent s 0x01 0xFF 0x00001004 0x9E 0 0
    if bit v 0 && itgCan s1 then failOver s1 else s1

def execItgSwitch (v : Word32) (s : State) : Host.Outcome State Fault Refusal := .next (itgSwitch v s)

/-- R355, R433: ITG_LINK_DOWN: the active link has been down 20 µs. -/
def itgDown (s : State) : State :=
  if s.phase != .up && s.phase != .standby then s
  else
    loseLink { s with itgUp := sdel s.itgUp s.itgActive, itgWidth := tset s.itgWidth s.itgActive 0 }

def execItgLinkDown (s : State) : Host.Outcome State Fault Refusal := .next (itgDown s)

/-! The lead role (R20) -/

/-- R20: the die whose steward leads once the lead's die is fenced: the lowest-numbered working die whose steward holds the identity, else the
lowest-numbered working die. -/
def nextLead (s : State) : Option Nat :=
  let ok := (upto (ndies s.variant)).filter (fun d => decide ((getDie s d).flt < 2))
  (ok.find? (fun d => s.boot.ids.contains d)).orElse (fun _ => ok.head?)

/-- R20, R433: the lead role passes on where its die is fenced. -/
def passLead (s : State) : State :=
  if (getDie s s.lead).flt < 2 then s
  else
    match nextLead s with
    | some d => postEvent { s with lead := d } 0x02 0xFF d 0 0 0
    | none => packageFault s 0x46

/-! Faults of a die (R430 to R434) -/

/-- Table 15-1: whether a C3 detector's outcome is selvage mode. -/
def selvage (code : Nat) : Bool := code == 0x30 || code == 0x31 || code == 0x35

/-- R432: the jobs of a die's cores end with CORE_GONE; their unaccepted posts are discarded, and a core that waits at a knot leaves it. -/
def loseCores (s : State) (d : Nat) : State :=
  ((getDie s d).cores.map (·.1)).foldl (fun s c =>
    let s1 := leaveKnot s d c
    let s2 := { s1 with engWait := s1.engWait.filter (fun q => q.src != .core d c) }
    let k := getCore s2 d c
    let s3 := setCore s2 d c { k with run := none, jobs := [], aq := [], accq := [], vq := [] }
    let s4 := match k.run with
      | some r => jobRecord (wasteCycles s3 d c r.instr) r.job .coreGone (jobPos r) r.status r.vstatus
      | none => s3
    k.jobs.foldl (fun s j => dropJob s d c j .coreGone) s4) s

/-- R432: the engine requests of a die, its open top-k sets among them, end with ENGINE_GONE, and so do the descriptors' DMA requests there. -/
def loseEngines (s : State) (d : Nat) : State :=
  let x := getDie s d
  let s1 := x.engs.foldl (fun s q => commitReq s d q (doneWith .engineGone)) s
  let s2 := x.topk.foldl (fun s (key, t) =>
    let q : EngReq :=
      { id := 0, req := t.req, src := t.src, unit := 1, done := none, digest := none, writes := 0, wstatus := .ok, got := [], reads := [],
        replayed := false, aborted := false, room := t.room }
    fireActions (updDie (freeRoom s q) d (fun x => { x with topk := tdel x.topk key })) d q (doneWith .engineGone)) s1
  x.dmas.foldl (fun s q =>
    let s1 := updDie s d (fun x => { x with dmas := x.dmas.filter (fun p => p.id != q.id) })
    match q.owner with
    | .op id => completeId s1 id .engineGone q.units
    | .core _ _ => s1) s2

/-- R18: the packets on or queued for the bridges toward a fenced die are discarded. -/
def dropToward (s : State) (d : Nat) : State :=
  foldUpto (ndies s.variant) s (fun s t =>
    foldUpto 4 s (fun s b =>
      if bridgeTo s.variant t b = some d ∧ t ≠ d then
        let u := outOf (getDie s t) (96 + b)
        u.q.foldl (fun s e => loseHeld s t e) (updDie s t (fun x => { x with outs := tset x.outs (96 + b) { u with q := [] } }))
      else s))

/-- R18: the requests of other dies whose packets are on a fenced die are sent again. -/
def resendFrom (s : State) (d : Nat) : State := (((getDie s d).outs.map (fun o => o.2.q)).flatten).foldl resendReq s

/-- Whether the packet of request id for die t is in a queue of the package. -/
def underWay (s : State) (t id : Nat) : Bool :=
  (upto (ndies s.variant)).any (fun d => (getDie s d).outs.any (fun o => o.2.q.any (fun e =>
    e.od == t && (match e.eng with | some (_, i, _) => i == id | none => false))))

/-- R18: the requests that fenced die d had not sent are lost with it; a descriptor's is sent by the die of the Itgil link (log entry 70). -/
def loseSource (s : State) (d : Nat) : State :=
  foldUpto (ndies s.variant) s (fun s t =>
    ((getDie s t).engs.filter (fun q => q.way == some d && !underWay s t q.id)).foldl (fun s q =>
      match q.src with
      | .op _ =>
        let n := linkDie s
        if n = t then updReq s t q.id (fun q => { q with way := none, room := none })
        else updDie (updReq s t q.id (fun q => { q with way := some n, room := none })) n
          (fun x => { x with txq := x.txq ++ [reqItem 12 (reqPacket q) t q.id] })
      | _ => updDie s t (fun x => { x with engs := x.engs.filter (fun p => p.id != q.id) })) s)

/-- R275, R430: the ports of a fenced die are out of service, and the groups that have none left restart; its transmitters send fault ordered
sets. -/
def losePorts (s : State) (d : Nat) : State :=
  let ls := (getDie s d).ports.map (·.1)
  let s1 := ls.foldl (fun s l => if (getPort s d l).st = 0 then s else updPort s d l (fun p => { p with st := 12, reserved := false, was := none })) s
  let s2 := (ls.filter (fun l => (getPort s d l).st == 6)).foldl (fun s l => warmLost s d l) s1
  emits s2 ((upto 96).map (fun i => .control d i 9 fosBody))

/-- Descriptor operations whose hoop activity acts on a die that is gone: the spec names no status (log entry 16). -/
def loseHoops (s : State) (d : Nat) : State :=
  let mine (h : HoopReq) : Bool := h.dies == [d] && !holdOver s h
  let ids := (s.hoopHold ++ s.hoopQ).filterMap (fun h => if mine h then h.op else none)
  ids.foldl (fun s id => completeId s id (.raw (Config.openStatus 7 d)) 0)
    { s with hoopHold := s.hoopHold.filter (fun h => !mine h), hoopQ := s.hoopQ.filter (fun h => !mine h) }

/-- R286, R370: the device asks for a drain; arg names the die that changed the paths. -/
def askDrain (s : State) (die : Nat) : State :=
  { s with hoopQ := s.hoopQ ++ [{ act := 1, dies := upto (ndies s.variant), op := none, die := die, unit := 0, arg := 0 }] }

/-- R433: the C4 fault that a C3 fault of die d with outcome lvl becomes: no steward is left to lead, or no link to fail over to. -/
def lastFault (s : State) (d lvl : Nat) : Option Nat :=
  if lvl = 2 ∧ s.lead = d ∧ (upto (ndies s.variant)).all (fun e => e == d || decide (2 ≤ (getDie s e).flt)) then some 0x46
  else if regsUp s && itgDie s.itgActive == d && !itgCan s then some 0x45
  else none

/-- R430, R433: the Itgil link of a die that is fenced or in selvage mode carries nothing more. -/
def dropLink (s : State) (d : Nat) : State :=
  foldUpto 2 s (fun s k => if itgDie k = d then { s with itgUp := sdel s.itgUp k, itgWidth := tset s.itgWidth k 0 } else s)

/-- R422, R430 to R434: a C3 fault of die d. A die never returns from a worse outcome to a better one. -/
def dieFault (s : State) (d code : Nat) : State :=
  let x := getDie s d
  let lvl := if selvage code then 1 else 2
  if s.phase == .safe || s.phase == .off || s.phase == .held || ndies s.variant ≤ d || lvl ≤ x.flt then s
  else
    match lastFault s d lvl with
    | some c4 => packageFault s c4
    | none =>
    let s1 := loseEngines (loseCores s d) d
    let s2 := updDie s1 d (fun x =>
      { x with
        flt := lvl
        stk := { x.stk with selfRef := x.stk.selfRef || lvl == 1 }
        engFenced := upto 5, pipeFenced := upto 2, moverFenced := upto 4 })
    let s3 := homeLost (loseHoops s2 d) d
    let s4 := if lvl = 2 then updDie (losePorts (resendFrom (dropToward s3 d) d) d) d clearPackets else s3
    let s5 := if lvl = 2 then passLead s4 else s4
    let s6 := dropLink (if regsUp s5 && itgDie s5.itgActive == d then loseLink s5 else s5) d
    let by' := if lvl = 2 then s6.lead else d
    let s7 := updDie (if lvl = 2 then loseSource s6 d else s6) by' (fun x => { x with faults := { x.faults with c3 := satInc 0xFF x.faults.c3 } })
    let s8 := faultEvent s7 3 11 d d code (4 + lvl)
    retryAll (if lvl = 2 ∧ s8.variant = .tx8 ∧ regsUp s8 then askDrain s8 d else s8)

/-- R422, Table 15-1: DIE_FAULT_C3: a detector of class C3 whose finding no other command makes. -/
def execDieFaultC3 (d code : Nat) (s : State) : Host.Outcome State Fault Refusal :=
  .next (if 0x30 ≤ code ∧ code ≤ 0x36 then dieFault s d code else s)

/-- R422: STEWARD_HEARTBEAT_LOST: missing for 10 ms. -/
def execStewardHeartbeatLost (d : Nat) (s : State) : Host.Outcome State Fault Refusal := .next (dieFault s d 0x33)

end Sys2Proof.Machine
end

