-- ==== Sys2Proof/Machine/Repair.lean ====
section
/-! DEFINITION. File 15: unit faults (C2) and spares; files 06 and 14: scrub, repair and retirement of ground memory and stacks; file 01:
cores and bridges. -/

namespace Sys2Proof.Machine

/-! Cores (R9 to R11, R428, R440, R443, R444) -/

/-- Table 12-12: CORE_AVAIL of a die: its working logical cores. -/
def coreAvail (x : Die) : Nat :=
  if x.flt ≠ 0 ∨ x.compFenced then 0 else 150 - (x.cores.filter (fun k => k.2.retired && decide (k.1 < 150))).length

/-- R11, R427: the jobs that wait for a retired core complete with CORE_GONE. -/
def dropJobs (s : State) (d c : Nat) : State :=
  let k := getCore s d c
  k.jobs.foldl (fun s j => dropJob s d c j .coreGone) (setCore s d c { k with jobs := [] })

/-- R444: a die whose CORE_AVAIL falls below 120 has its compute fenced. -/
def fenceCompute (s : State) (d : Nat) : State :=
  let x := getDie s d
  if x.flt = 0 ∧ coreAvail x < 120 ∧ !x.compFenced then
    let s1 := updDie s d (fun x => { x with compFenced := true })
    (x.cores.map (·.1)).foldl (fun s c => dropJobs s d c) s1
  else s

/-- The next spare core of a die: the lowest-numbered free one (DESIGN CHOICE, log entry 47). -/
def nextSpare (x : Die) : Option Nat := ((upto 10).map (150 + ·)).find? (fun p => !x.physUsed.contains p && !x.physBad.contains p)

/-- R9 to R11, R428, R489: a spare stands in for logical core c, or the core is retired. False where none remained. The counters and the
status words of the last committed job go across (R91, R129); the spare's memories hold nothing of the core's. The core stays as its activity holds
it until that commits (R427, R448). -/
def substitute (s : State) (d c : Nat) : Bool × State :=
  let x := getDie s d
  let k := getCore s d c
  match nextSpare x with
  | some p =>
    let s1 := updDie s d (fun x => { x with physUsed := sadd x.physUsed p, physBad := sadd x.physBad k.phys })
    (true, recAdd (setCore s1 d c { coreReset c with phys := p, jobs := k.jobs, pmc := k.pmc, asleep := k.asleep, testing := k.testing, fenced := k.fenced, accStatus := k.accStatus, vecStatus := k.vecStatus }) 1 d c 0 p)
  | none =>
    let s1 := updDie s d (fun x => { x with physBad := sadd x.physBad k.phys })
    (false, fenceCompute (recAdd (setCore s1 d c { k with retired := true }) 2 d c 0 noSpare) d)

/-- R69, R73, R428: a failed physical column f of array a of core c. -/
def failColumn (s : State) (d c a f : Nat) : Bool × State :=
  let k := getCore s d c
  let r := if a = 0 then k.rep0 else k.rep1
  let put (k : Core) (r : ArrRepair) : Core := if a = 0 then { k with rep0 := r } else { k with rep1 := r }
  if r.used then
    substitute (setCore s d c (put k { r with exhausted := true })) d c
  else
    let r1 := { r with failed := f, used := true }
    (true, recAdd (setCore s d c (put k r1)) 3 d c (32 * f + a) 32)

/-- Table 15-6: a failed row r of bank b of a core's memories: one of two spares, or the core is retired. SITE holds bank × 65,536 + row (log
entry 47). -/
def failMemRow (s : State) (d c b r : Nat) : Bool × State :=
  let key := 4096 * (getCore s d c).phys + b
  let n := tget (getDie s d).memRows key 0
  if n < 2 then (true, recAdd (updDie s d (fun x => { x with memRows := tset x.memRows key (n + 1) })) 4 d c (65536 * b + r % 65536) n)
  else substitute s d c

/-- Whether a core has had 3 C2 faults in 24 h. -/
def thriceStruck (s : State) (k : Core) : Bool := decide (3 ≤ (k.c2.filter (fun t => decide (s.now < t + 86400000000000))).length)

/-! Die spares -/

/-- R144: the next n donors: the banks in increasing order that are neither retired nor donors already. -/
def gndDonors (g : Ground) (n : Nat) : List Nat :=
  ((upto 256).filter (fun b => !g.retired.contains b && !g.donors.any (fun e => e.2.contains b))).take n

/-- R144: a bank is retired: each segment that its level-15 segment served has a further donor, and its own 15 have theirs. -/
def retireBank (g : Ground) (b : Nat) : Ground :=
  let g1 := { g with retired := g.retired ++ [b] }
  let g2 := { g1 with donors := g1.donors.map (fun (e : Nat × List Nat) => (e.1, e.2.map (fun x => if x = b then ((gndDonors g1 1).head?).getD b else x))) }
  { g2 with donors := tset g2.donors b (gndDonors g2 15) }

/-- R144: marks the words of a bank that could not be read; what its level-15 segment held for another bank counts as that bank's. -/
def poisonBank (g : Ground) (b : Nat) (ws : List Nat) : Ground :=
  let mine (w : Nat) : Bool := decide (w < (if g.retired.isEmpty then 0x8000000 else 0x7800000) / 8) && (gndSite g (8 * w)).1 == b
  { g with pois := (ws.filter mine).foldl sadd g.pois, bad := g.bad.filter (fun w => !(ws.filter mine).contains w) }

/-- R143, R144, R440: row r of ground bank b is lost: a spare row, or the bank is retired; ws are the words of the bank that cannot be read. The
17th retirement is a C3 fault. -/
def failGndRow (s : State) (d b r : Nat) (ws : List Nat) : State :=
  let g := (getDie s d).gnd
  let n := tget g.rows b 0
  if g.retired.contains b then s
  else if n < 8 then
    recAdd (updDie s d (fun x => { x with gnd := poisonBank { x.gnd with rows := tset x.gnd.rows b (n + 1), weak := tdel x.gnd.weak (1024 * b + r) } b ws })) 5 d b r n
  else if 16 ≤ g.retired.length then dieFault s d 0x30
  else
    let s1 := updDie s d (fun x => { x with gnd := retireBank (poisonBank x.gnd b ws) b })
    let s2 := reportFault (recAdd s1 6 d b 0 noSpare) 2 7 b d 0x28 4
    if g.retired.isEmpty then postEvent s2 0x09 d 0x7800000 b 0 0 else s2

/-- R407, R419, R420: marks the words of logical channel c that could not be read. -/
def poisonChannel (k : Stack) (c : Nat) (ws : List Nat) : Stack :=
  let mine (w : Nat) : Bool := decide (w < stkCap k / 8) && (stkSite k (8 * w)).1 == c
  { k with pois := (ws.filter mine).foldl sadd k.pois, bad := k.bad.filter (fun w => !(ws.filter mine).contains w) }

/-- R419, R420, R443: logical channel c of a stack fails: the spare channel stands in and its copy begins, or the channel is retired (the words
ws of it that cannot be read poisoned), or the die enters selvage mode. -/
def failChannel (s : State) (d c : Nat) (ws : List Nat) : State :=
  let k := (getDie s d).stk
  if k.retired = some c ∨ k.copying = some c then s
  else if k.spareCh.isNone ∧ k.copying.isNone then
    reportFault (updDie s d (fun x => { x with stk := { x.stk with copying := some c } })) 2 8 c d 0x29 3
  else if k.retired.isNone then
    postEvent (recAdd (reportFault (updDie s d (fun x => { x with stk := { poisonChannel x.stk c ws with retired := some c } })) 2 8 c d 0x29 4) 14 d c 0 noSpare)
      0x09 d 0xF80000000 c 0 0
  else dieFault s d 0x31

/-- Table 14-3: a failing part of a stack: 0 row (unit channel × 32 + bank, site row), 1 column group (unit channel, site column), 2 channel; ws are
the words that cannot be read, which a spare row or column group takes over poisoned (R419). -/
def failStackPart (s : State) (d kind unit site : Nat) (ws : List Nat) : State :=
  let k := (getDie s d).stk
  match kind with
  | 0 =>
    let n := tget k.rows unit 0
    if n < 16 then
      recAdd (updDie s d (fun x => { x with stk := { poisonChannel x.stk (unit / 32) ws with
        rows := tset x.stk.rows unit (n + 1), weak := tdel x.stk.weak (32768 * unit + site) } })) 11 d unit site n
    else failChannel s d (unit / 32) ws
  | 1 =>
    let n := tget k.cols unit 0
    if n < 4 then recAdd (updDie s d (fun x => { x with stk := { poisonChannel x.stk unit ws with cols := tset x.stk.cols unit (n + 1) } })) 12 d unit site n
    else failChannel s d unit ws
  | _ => failChannel s d unit ws

/-- Table 15-6, R443: row r of packet-buffer bank b fails: one of 4 spares, or the buffers that the row holds are withdrawn. -/
def failBufRow (s : State) (d b r : Nat) : State :=
  let hs := Config.rowBuffers d b r
  let x := getDie s d
  let n := tget x.pbRows b 0
  if n < 4 then recAdd (updDie s d (fun x => { x with pbRows := tset x.pbRows b (n + 1) })) 7 d b r n
  else
    let cut (l : List Nat) : List Nat := l.filter (fun h => !hs.contains h)
    let s1 := updDie s d (fun x =>
      { x with
        pbLost := satInc 0xFF x.pbLost
        pbOut := hs.foldl sadd x.pbOut
        pools := x.pools.map (fun (p, r) => (p, { r with back := cut r.back }))
        caches := x.caches.map (fun (k, l) => (k, cut l)) })
    reportFault (recAdd s1 8 d b r noSpare) 2 9 b d 0x2A 4

/-! Bridges (R19, R429) -/

/-- R19: a bridge has failed: the higher-numbered of its dies is fenced; the first of a TX2's leaves its traffic on the other, through a drain
(at boot, from the start, log entry 58). -/
def bridgeFailed (s : State) (d b : Nat) : State :=
  match bridgeTo s.variant d b with
  | none => s
  | some t =>
    let s1 := updBridge (updBridge s d b (fun r => { r with failed := true })) t b (fun r => { r with failed := true })
    if s.variant = .tx2 then
      if (bridgeOf (getDie s d) (3 - b)).failed then dieFault s1 1 0x32
      else
        let s2 := reportFault { s1 with stagedTabs := { s1.stagedTabs with avoid := sadd s1.stagedTabs.avoid (100 + b) } } 2 6 b d 0x2B 4
        if s.phase == .booting then s2 else askDrain s2 d
    else dieFault s1 (max d t) 0x32

/-- R429: wire group g of a bridge is dropped; below four groups the bridge has failed. -/
def dropGroup (s : State) (d b g : Nat) : State :=
  let n := (bridgeOf (getDie s d) b).groups - 1
  let s1 := updBridge s d b (fun r => { r with groups := n, spares := tset r.spares g 2 })
  let s2 := reportFault (recAdd s1 10 d b g noSpare) 2 6 b d 0x27 4
  if n < 4 then bridgeFailed s2 d b else s2

/-- R429: wire w of group g is given up: the group's spare replaces it, or the group is dropped. SITE holds group × 64 + wire (log entry 47). -/
def wireFailed (s : State) (d b g w : Nat) : State :=
  match tget (bridgeOf (getDie s d) b).spares g 0 with
  | 0 => recAdd (updBridge s d b (fun r => { r with spares := tset r.spares g 1, corr := tdel r.corr (65 * g + w) })) 9 d b (64 * g + w) 0
  | 1 => dropGroup s d b g
  | _ => s

/-- R422, R429: a transfer over wire w of a bridge was corrected: a C0 fault; the wire that has had 16 corrections within 1 s is given up. -/
def wireCorrected (s : State) (d b g w : Nat) : State :=
  let ts := (tget (bridgeOf (getDie s d) b).corr (65 * g + w) []).filter (fun t => decide (s.now < t + 1000000000)) ++ [s.now]
  let s1 := countC0 (updBridge s d b (fun r => { r with corr := tset r.corr (65 * g + w) ts })) d 1
  if 16 ≤ ts.length then wireFailed s1 d b g w else s1

/-- R422, R429: BRIDGE_TRANSFER_FAILURE: what becomes of a transfer from die d over its bridge port b, which wire w (64 the spare) of group g spoils:
how 0: corrected; how 1 to 4: stored after as many repeats, each a C0 fault; above: failed a fifth time. The spare carries nothing until it stands in. -/
def bridgeFailure (d b g w how : Nat) (s : State) : State :=
  let r := bridgeOf (getDie s d) b
  if !dieRuns s d || 16 ≤ g || 65 ≤ w || r.failed || (bridgeTo s.variant d b).isNone || 2 ≤ tget r.spares g 0 || (w = 64 ∧ tget r.spares g 0 = 0) then s
  else if how = 0 then wireCorrected s d b g w
  else if how < 5 then countC0 s d how
  else wireFailed (countC0 s d 4) d b g w

def execBridgeTransferFailure (d b g w how : Nat) (s : State) : Host.Outcome State Fault Refusal := .next (bridgeFailure d b g w how s)

/-! Unit faults (R425, Table 15-4) -/

/-- R153, Table 15-4: what becomes of a request that engine u of die d holds when a C2 fault strikes it; head is the one that it serves, other the
die's other working unit of the kind. One begun, or done and not committed, is replayed once, on the other unit or on this one after its
reset; struck again it ends with FAULTED; one not begun moves, or waits. What its acceptance or an abort has ended stands, and so does the
end of a top-k set, whose records are written. -/
def strikeReq (s : State) (d u : Nat) (head : Option Nat) (other : Option Nat) (q : EngReq) : EngReq :=
  let v := other.getD u
  if q.unit != u then q
  else
    match q.done with
    | some w =>
      if w.status = .aborted ∨ w.status = .engineGone ∨ w.status = .dieUnreachable ∨ w.status = .faulted ∨ (reqErr s d q).isSome ∨ u = 1 then q
      else if q.replayed then { q with done := some (doneWith .faulted), digest := none }
      else { q with unit := v, replayed := true, got := [], done := none, digest := none }
    | none =>
      if head ≠ some q.id then { q with unit := v }
      else if q.replayed then { q with done := some (doneWith .faulted) }
      else { q with unit := v, replayed := true, got := [] }

/-- R153, R425: a C2 fault of an engine: it is fenced, and its requests are struck. -/
def engineStruck (s : State) (d u : Nat) : State :=
  let x := getDie s d
  if 5 ≤ u then s
  else
    let s1 := reportFault s 2 2 u d 0x23 4
    let s2 := if x.engFenced.contains u then s1 else recAdd s1 15 d (2 * 256 + u) 0 noSpare
    let head := (x.engs.find? (fun q => q.unit == u && q.done.isNone && q.way.isNone)).map (·.id)
    let other := (engUnits (unitEng u)).find? (fun v => v != u && !x.engFenced.contains v)
    updDie s2 d (fun x => { x with
      engFenced := sadd x.engFenced u, engAwake := sdel x.engAwake u, engs := x.engs.map (strikeReq s2 d u head other) })

/-- R222, R219: a fenced reduction pipeline; a die with neither counts as fenced for contexts. -/
def pipeStruck (s : State) (d p : Nat) : State :=
  let x := getDie s d
  if 2 ≤ p ∨ x.pipeFenced.contains p then s
  else
    let s1 := updDie (recAdd (reportFault s 2 3 p d 0x24 4) 15 d (3 * 256 + p) 0 noSpare) d (fun x => { x with pipeFenced := sadd x.pipeFenced p })
    if 2 ≤ (getDie s1 d).pipeFenced.length then homeLost s1 d else s1

/-- A request that no mover serves any further: its units in flight are lost. -/
def dmaDead (q : DmaReq) : DmaReq := { q with busy := [], next := q.len, lost := q.busy.foldl (fun t e => sadd t e.1) q.lost }

/-- Table 15-4: a fenced mover: the request that it served (id) is replayed once, whole, on another mover; FAULTED the second time; ENGINE_GONE
where no mover is left. One that an abort has stopped only completes what it had begun. -/
def moverStruck (s : State) (d m id : Nat) : State :=
  let x := getDie s d
  if 4 ≤ m ∨ x.moverFenced.contains m then s
  else
    let s1 := recAdd (reportFault s 2 4 m d 0x25 4) 15 d (4 * 256 + m) 0 noSpare
    let s2 := updDie s1 d (fun x => { x with moverFenced := sadd x.moverFenced m })
    let none' := decide (4 ≤ (getDie s2 d).moverFenced.length)
    if none' then
      updDie s2 d (fun x => { x with dmas := x.dmas.map (fun q => dmaDead (dmaFail q .engineGone)) })
    else
      match getDma s2 d id with
      | none => s2
      | some q =>
        if q.aborted then s2
        else if q.replayed then updDma s2 d id (fun q => dmaDead (dmaFail q .faulted))
        else
          let (k, s3) := takeId s2 d
          let s4 := updDma s3 d id (fun q => { q with id := k, next := 0, units := 0, busy := [], status := .ok, replayed := true, lost := [] })
          if dmaOutside q then dmaAdvance d k [] (dmaFuel q) s4 else s4

/-- R425: UNIT_FAULT_C2: detector code at die d; idx is the unit, arg what the detector names with it: the array of a residue mismatch, which counts
it (R72), the request that a mover served, a packet-buffer row. The C0 codes 0x02 (a correction in a core's memory or the packet buffer, R424)
and 0x03 (a stack transfer repeated arg times, R412) are counted (R422; log entry 31). -/
def unitFault (d code idx arg : Nat) (s : State) : State :=
  if s.phase != .up || !dieLives s d || (getDie s d).flt != 0 then s
  else
    match code with
    | 0x02 => countC0 s d 1
    | 0x03 => countC0 s d (min arg 4)
    | 0x20 | 0x21 | 0x22 =>
      let k := getCore s d idx
      if idx < 150 ∧ !k.retired ∧ !k.fenced then
        coreStruck (if code = 0x20 ∧ arg < 2 then setCore s d idx (bumpCheck k (128 * arg)) else s) d idx code
      else s
    | 0x23 => engineStruck s d idx
    | 0x24 => pipeStruck s d idx
    | 0x25 => moverStruck s d idx arg
    | 0x26 => if (portWidth (getDie s d) idx).isSome ∧ (getPort s d idx).st ≠ 12 then portFault (portLeave s d idx) d idx else s
    | 0x2A => failBufRow s d idx arg
    | _ => s

def execUnitFaultC2 (d code idx arg : Nat) (s : State) : Host.Outcome State Fault Refusal := .next (unitFault d code idx arg s)

/-! Scrubs (R143, R414, R412) -/

/-- A set's members that a scrub pass finds again count one pass more; the others start over. -/
def weakPass (w : Tbl Nat) (rows : List Nat) : Tbl Nat := rows.foldl (fun t r => tset t r (tget w r 0 + 1)) []

/-- R142, R413: the words below n whose bits turn after a pass: turned lists word × 2, plus 1 where two bits or more turn; a poisoned word is no good
one that could go bad. -/
def turnedWords (turned : List Nat) (n : Nat) (pois : NSet) (two : Bool) : NSet :=
  (turned.filter (fun t => (t % 2 == 1) == two && decide (t / 2 < n) && !pois.contains (t / 2))).foldl (fun s t => sadd s (t / 2)) []

/-- R142, R143: GROUND_SCRUB: a pass corrects the words with a correctable error; ces more were found and corrected, ues are words found
uncorrectable, rows (bank × 1024 + row) showed correctable errors; turned are the words whose bits turn once the pass is over. A row found three
passes in a row has the GND activity asked for. -/
def groundScrub (d ces : Nat) (ues rows turned : List Nat) (s : State) : State :=
  let x := getDie s d
  if s.phase == .safe || s.phase == .off || s.phase == .held || ndies s.variant ≤ d || x.flt ≠ 0 then s
  else
    let g := x.gnd
    let cap := gndCap x / 8
    let n := g.latent.length + ces
    let us := (ues.filter (fun w => decide (w < cap))).foldl (fun t w => if g.pois.contains w then t else sadd t w) g.bad
    let pois := us.foldl sadd g.pois
    let weak := weakPass g.weak rows
    let s1 := setDie s d { x with gnd := { g with
      latent := turnedWords turned cap pois false, bad := turnedWords turned cap pois true
      ce := satAdd 0xFFFF g.ce n, ue := satAdd 0xFF g.ue us.length, pois := pois, weak := weak } }
    let s2 := countC0 s1 d n
    (rows.filter (fun r => tget weak r 0 == 3)).foldl (fun s r => askHoop s 5 d (r / 1024) (r % 1024 + 1)) s2

def execGroundScrub (d ces : Nat) (ues rows turned : List Nat) (s : State) : Host.Outcome State Fault Refusal := .next (groundScrub d ces ues rows turned s)

/-- R412: the words of the 64-byte lines of a stack whose transfer failed a fifth time (log entry 31). -/
def lineWords (lines : List Nat) : List Nat := (lines.map (fun l => (upto 8).map (fun i => 8 * l + i))).flatten

/-- R412: the times of the last second at which a transfer of each channel failed a fifth time, after those of some lines. -/
def linkFailed (s : State) (k : Stack) (lines : List Nat) : Tbl (List Nat) :=
  (lines.map (fun l => (stkSite k (64 * l)).1)).foldl (fun t c => tset t c ((tget t c []).filter (fun u => decide (s.now < u + 1000000000)) ++ [s.now])) k.linkFails

/-- R412 to R414, R419: STACK_PATROL_SCRUB: as a ground scrub; rows are those with correctable errors and tested those that fail the steward's test
after an uncorrectable error, as (channel × 32 + bank) × 32,768 + row; cols are channels with correctable errors at one column address in 4 or more
rows of a bank; chans are channels whose link failed training; lines the 64-byte lines whose transfer failed a fifth time, which count as
uncorrectable errors of their words; turned as for a ground scrub. -/
def stackPatrol (d ces : Nat) (ues rows tested cols chans lines turned : List Nat) (s : State) : State :=
  let x := getDie s d
  if s.phase != .up || ndies s.variant ≤ d || x.flt ≠ 0 || !x.stk.ready || x.stk.selfRef then s
  else
    let k := x.stk
    let cap := stkCap k / 8
    let n := k.latent.length + ces
    let us := ((ues ++ lineWords lines).filter (fun w => decide (w < cap))).foldl (fun t w => if k.pois.contains w then t else sadd t w) k.bad
    let pois := us.foldl sadd k.pois
    let weak := weakPass k.weak rows
    let fails := linkFailed s k lines
    let s1 := setDie s d { x with stk := { k with
      latent := turnedWords turned cap pois false, bad := turnedWords turned cap pois true
      ce := satAdd 0xFFFF k.ce n, ue := satAdd 0xFF k.ue us.length, pois := pois, weak := weak, linkFails := fails } }
    let s2 := countC0 s1 d n
    let s3 := (rows.filter (fun r => tget weak r 0 == 3) ++ tested).foldl (fun s r => askHoop s 3 d 2 (r * 4)) s2
    let s4 := cols.foldl (fun s c => askHoop s 3 d 2 (c * 4 + 1)) s3
    (chans ++ (upto 32).filter (fun c => decide (3 ≤ (tget fails c []).length))).foldl (fun s c => askHoop s 3 d 2 (c * 4 + 2)) s4

def execStackPatrolScrub (d ces : Nat) (ues rows tested cols chans lines turned : List Nat) (s : State) : Host.Outcome State Fault Refusal :=
  .next (stackPatrol d ces ues rows tested cols chans lines turned s)

/-- R415: STACK_REFRESH: a row is refreshed; only timing and the retention of its bits depend on it. -/
def stackRefresh (d : Nat) (s : State) : State :=
  if s.phase == .safe || s.phase == .off || ndies s.variant ≤ d then s
  else updDie s d (fun x => { x with stk := { x.stk with refreshed := (x.stk.refreshed + 1) % 2 ^ 32 } })

def execStackRefresh (d : Nat) (s : State) : Host.Outcome State Fault Refusal := .next (stackRefresh d s)

/-- R415, R416: STACK_TEMPERATURE: the hottest layer is at t °C. -/
def stackTemp (d t : Nat) (s : State) : State :=
  if s.phase == .off || s.phase == .safe || ndies s.variant ≤ d then s
  else updDie s d (fun x => { x with stk := { x.stk with
    temp := min t 0xFF, hotref := decide (85 < t), throttle := if 95 < t then true else if t < 92 then false else x.stk.throttle } })

def execStackTemperature (d t : Nat) (s : State) : Host.Outcome State Fault Refusal := .next (stackTemp d t s)

end Sys2Proof.Machine
end

