-- ==== Sys2Proof/Machine/Drain.lean ====
section
/-! DEFINITION. File 12, R371: table updates; file 09, R286 to R291: the table drain. -/

namespace Sys2Proof.Machine

/-! Bytes that a descriptor names by address -/

/-- The bytes of a range that a descriptor names. ext gives the bytes that lie outside the package; what it does not give is free (log
entry 13). -/
def devRead (s : State) (d a n : Nat) (ext : List Host.Cell) : Except Status (List Byte × State) :=
  match segs s .rd a n with
  | .error e => .error e
  | .ok l =>
    match segsErr s d none l with
    | some e => .error e
    | none =>
      if l.any (fun g => placePoisoned s g.place g.len) then .error .memUe
      else
        let (k, s1) := draw s
        let bs := (l.map (fun g =>
          match g.place with
          | .remote _ _ => cellsRead ext (Config.outsideByte k) (a + g.off) g.len
          | .board ba => cellsRead ext (Config.outsideByte k) ba g.len
          | p => placeBytes s p g.len)).flatten
        .ok (bs, l.foldl (fun s g => match g.place with | .remote _ _ | .board _ => s | p => placeTouch s p g.len) s1)

/-- What a descriptor's read that was refused with status e leaves: where it met poison, the read itself (R142, R413). -/
def devSeen (s : State) (a n : Nat) (e : Status) : State :=
  match segs s .rd a n with
  | .ok l => if e = .memUe then l.foldl (fun s g => placeTouch s g.place g.len) s else s
  | .error _ => s

/-- R250: writes the bytes of a range that the descriptor of operation id names; those that lie in other packages leave as WRITE packets of requester
req, and the operation waits for their acknowledgement. -/
def devWrite (s : State) (d req id a : Nat) (bs : List Byte) : Except Status State :=
  match segs s .wr a bs.length with
  | .error e => .error e
  | .ok l =>
    match segsErr s d none l with
    | some e => .error e
    | none =>
      .ok (l.foldl (fun s g =>
        let b := (bs.drop g.off).take g.len
        match g.place with
        | .remote chip ra =>
          issueWrites (updOp s id (fun o => { o with writes := o.writes + writeCount b })) d req chip ra b kWRITE none (.op id)
        | .board ba => emit s (.store ba b)
        | p => placePut s p b) s)

/-- R250: operation o is done but for its writes outside the package: it completes once they are acknowledged. -/
def finishWrites (s : State) (o : Op) (st : Status) (pos : Nat) : State :=
  match findOp s o.id with
  | some p =>
    if p.writes = 0 then (if p.wstatus = .ok then complete s o st pos else complete s o p.wstatus 0)
    else updOp s o.id (fun p => { p with fin := some (st, pos) })
  | none => s

/-! Table entries (R263, R264, Tables 8-8 to 8-10, 9-1, 9-2) -/

/-- Table 12-7: entry sizes and counts by TABLE code. -/
def tabEntry (v : Variant) (t : Nat) : Option (Nat × Nat) :=
  match t with
  | 0 => some (8, 1)
  | 1 => some (36, 6)
  | 2 => some (4, 32768)
  | 3 => some (32, 1024)
  | 4 => some (8, 96 * ndies v)
  | _ => none

/-- R263: a shape entry; none where it breaks Table 9-1. -/
def shapeEntry (bs : List Byte) : Option Shape :=
  let b (i : Nat) : Nat := (nth bs i 0).toNat
  if (upto 6).any (fun i => decide (32 ≤ b i)) || decide (8 ≤ b 6) || b 7 != 0 || decide (b 3 < b 0) || decide (b 4 < b 1) || decide (b 5 < b 2) then none
  else some { x := b 0, y := b 1, z := b 2, lx := b 3, ly := b 4, lz := b 5, wrap := b 6 }

/-- R264: a trunk direction entry; none where it breaks Table 9-2. -/
def trunkDir (bs : List Byte) : Option (List Nat) :=
  let n := bytesNat bs 0 1
  let p (i : Nat) : Nat := bytesNat bs (4 + 2 * i) 2
  if 16 < n ∨ bytesNat bs 1 3 ≠ 0 ∨ (upto 16).any (fun i => decide (1024 ≤ p i) || (decide (n ≤ i) && p i != 0)) then none
  else some ((upto n).map p)

/-- Table 12-7: entry i of a table, in the staged copy; none where its layout refuses it. -/
def putEntry (t : Tables) (tab i : Nat) (bs : List Byte) : Option Tables :=
  match tab with
  | 0 => (shapeEntry bs).map (fun h => { t with shape := some h })
  | 1 => (trunkDir bs).map (fun l => { t with trunk := tset t.trunk i l })
  | 2 => some { t with chips := tset t.chips i (BitVec.ofNat 32 (leNat bs)) }
  | 3 =>
    let w : Window :=
      { base := bytesNat bs 0 8, size := bytesNat bs 8 8, lbase := bytesNat bs 16 8, target := bytesNat bs 24 2, flags := bytesNat bs 26 1 }
    some { t with wins := tset t.wins i w }
  | _ => some { t with grants := tset t.grants i (BitVec.ofNat 64 (leNat bs)) }

/-- R264: whether a direction has a neighbour. -/
def dirHas (t : Tables) (g : Nat) : Bool :=
  match t.shape with
  | none => false
  | some h => (axisOf h (g / 2)).2 != 0 && (stepIn h g).isSome

/-- R264: the trunk entries of a set of tables. -/
def trunksOk (t : Tables) : Bool :=
  let ps := (t.trunk.map (·.2)).flatten
  t.trunk.all (fun e => e.2.isEmpty || dirHas t e.1) && decide ps.Nodup

/-- R371: the staged copy with COUNT entries of a table written from INDEX; none where it breaks R263 or R264. -/
def stageEntries (t : Tables) (tab idx size n : Nat) (bs : List Byte) : Option Tables :=
  let r := (upto n).foldl (fun (a : Option Tables) i => a.bind (fun t => putEntry t tab (idx + i) ((bs.drop (size * i)).take size))) (some t)
  r.bind (fun t => if trunksOk t then some t else none)

/-- R371: whether an update waits: a drain is between stage 1 and its commit, its record's. -/
def updateWaits (s : State) : Bool := s.drain.stage != 0 || s.hoopHold.any (fun h => h.act == 1)

/-- Table 12-7: the staged copy that an update leaves, or its status. -/
def tableStage (s : State) (desc : Word512) (ext : List Host.Cell) : Except Status State :=
  let f (off n : Nat) : Nat := nbits desc.toNat (8 * (off + n) - 1) (8 * off)
  if f 18 2 ≠ 0 ∨ f 28 4 ≠ 0 ∨ f 40 24 ≠ 0 ∨ 2 ≤ f 17 1 ∨ 32768 < f 24 4 then .error .badFormat
  else
    match tabEntry s.variant (f 16 1) with
    | none => .error .badFormat
    | some (size, lim) =>
      if lim < f 20 4 + f 24 4 then .error .badFormat
      else
        match devRead s (linkDie s) (f 32 8) (size * f 24 4) ext with
        | .error e => .error e
        | .ok (bs, s1) =>
          match stageEntries s.stagedTabs (f 16 1) (f 20 4) size (f 24 4) bs with
          | none => .error .badFormat
          | some t => .ok { s1 with stagedTabs := t }

/-! The drain (R286 to R291) -/

/-- R286, R287: a drain starts: admission stops. The device's own stages the paths of R16 around the fenced dies, and posts DRAIN. -/
def drainStart (s : State) (op : Option Nat) (die : Nat) : State :=
  let fenced := (upto (ndies s.variant)).filter (fun d => decide ((getDie s d).flt = 2))
  let s1 := { s with
    drain := { s.drain with stage := 1, n0 := 0, op := op },
    stagedTabs := { s.stagedTabs with avoid := fenced ++ s.stagedTabs.avoid.filter (fun a => decide (100 ≤ a)) } }
  if op.isNone then postEvent s1 0x0B 0xFF die 0 0 0 else s1

/-- R269, R286: a packet that a drain held goes on: from a trunk port to its decision, from an endpoint port to its entry. -/
def releaseOne (s : State) (d : Nat) (e : Held) : State :=
  let h := e.pkt.hdr
  let k := hKIND h
  let x := getDie s d
  let trunk := decide (e.inp < 96) && isTrunk x e.inp
  let dn := k == kRESULT || k == kWINDOW || k == kRECONTRIB
  if trunk && dn && (!hRESENT h || (s.tabs.shape.isSome && atDest s h)) then
    if s.tabs.shape.isNone then discard s d e nNOROUTE else if x.flt = 0 then consumeAt s d e else dropHeld s d e
  else if trunk then decide' s d e false (cameFrom s d e)
  else if e.sub = 1 then t1Entry s d e.inp h e.pkt.body { e with sub := 0 }
  else endpointEntry s d e.inp e

/-- A hoop holder is done: it gives its hoops back. -/
def giveHoops (s : State) (p : HoopReq → Bool) : State := { s with hoopHold := s.hoopHold.filter (fun h => !p h) }

/-- R287: the credit that an endpoint port withheld goes back. -/
def payCredit (s : State) (d l : Nat) : State :=
  (getPort s d l).owed.foldl (fun s e => sendCredit s d l e.1 e.2) (updPort s d l (fun p => { p with owed := [] }))

/-- R287: the endpoint ports reopen: each returns the credit that it withheld, and its next ADVERT repeat gives what it did not advertise (R336). -/
def openPorts (s : State) : State :=
  foldUpto (ndies s.variant) s (fun s d => ((getDie s d).ports.map (·.1)).foldl (fun s l => payCredit s d l) s)

/-- R286, R287, R290: admission reopens and the packets held are routed under the tables in force; the drain stands at a stage after 3 until it
commits. -/
def releaseHeld (s : State) (stage : Nat) : State :=
  let s1 := openPorts { s with drain := { s.drain with stage := stage } }
  pumpAll (foldUpto (ndies s.variant) s1 (fun s d =>
    let l := (getDie s d).held
    l.foldl (fun s e => releaseOne s d e) (updDie s d (fun x => { x with held := [] }))))

/-- R289, R290: a drain's end: the record of the descriptor that started it is written or waits, and the hoops go back with that record; the
device's own gives them back at once. -/
def drainEnd (s : State) (st : Status) (pos : Nat) : State :=
  match s.drain.op.bind (findOp s) with
  | some o => complete s o st pos
  | none => { giveHoops s (fun h => h.act == 1) with drain := { s.drain with stage := 0, op := none } }

/-- R286: DRAIN_STOP_COMPLETE: every entry point has stopped. -/
def drainStop (s : State) : State :=
  if s.phase != .up || s.drain.stage != 1 then s
  else drainProgress { s with drain := { s.drain with stage := 2, n0 := inflight s } }

def execDrainStopComplete (s : State) : Host.Outcome State Fault Refusal := .next (drainStop s)

/-- R335: the shape and neighbour tests again, at the swap. A port that only its far end's report holds in MISCABLED waits for that report to
change (log entry 67). -/
def retest (s : State) (d l : Nat) : State :=
  let p := getPort s d l
  match p.far with
  | none => s
  | some f =>
    if !isTrunk (getDie s d) l then s
    else
      let t := tableTests s d l f
      if (p.st = 5 ∨ p.st = 6) ∧ t ≠ 0 then holdMiscabled (portLeave s d l) d l t
      else if p.st = 7 ∧ p.mis ≠ 0 ∧ cabling s d l f = 0 then linkUp s d l
      else s

/-- R291: the packets queued for the ports that leave their trunk entries are discarded. -/
def dropRemoved (s : State) (old : Tables) : State :=
  let now := (s.tabs.trunk.map (·.2)).flatten
  ((old.trunk.map (·.2)).flatten.filter (fun p => !now.contains p)).foldl (fun s p =>
    let u := outOf (getDie s (p / 96)) (p % 96)
    u.q.foldl (fun s e => dropHeld s (p / 96) e) (updDie s (p / 96) (fun x => { x with outs := tset x.outs (p % 96) { u with q := [] } }))) s

/-- R275: the groups whose last port in service the new tables remove restart as warming. -/
def warmSwap (s : State) (old : Tables) : State :=
  foldUpto 6 s (fun s g =>
    let was := tget old.trunk g []
    if was.any (portActive s) && !(trunkPorts s g).any (portActive s) then warmRestart s g was else s)

/-- R286, R288, R291: DRAIN_WAIT_COMPLETE: nothing is in flight; every die activates the staged tables. -/
def drainSwap (s : State) : State :=
  if s.phase != .up || s.drain.stage != 2 || inflight s != 0 then s
  else
    let s1 := { s with tabs := s.stagedTabs, drain := { s.drain with stage := 3 } }
    let s2 := warmSwap (dropRemoved s1 s.tabs) s.tabs
    let s3 := foldUpto (ndies s.variant) s2 (fun s d => ((getDie s d).ports.map (·.1)).foldl (fun s l => retest s d l) s)
    drainProgress s3

def execDrainWaitComplete (s : State) : Host.Outcome State Fault Refusal := .next (drainSwap s)

/-- R286, R289, R290: DRAIN_COMMIT: stage 4: the held packets are routed, admission reopens, EPOCH rises; the drain commits with its record. -/
def drainCommit (s : State) : State :=
  if s.phase != .up || s.drain.stage != 3 then s
  else drainEnd (releaseHeld { s with drain := { s.drain with epoch := (s.drain.epoch + 1) % 2 ^ 16 } } 4) .ok 1024

def execDrainCommit (s : State) : Host.Outcome State Fault Refusal := .next (drainCommit s)

/-- R290: an abort in stage 1 or 2: the packets held are released under the unchanged tables; the drain ends with ABORTED. -/
def drainAbort (s : State) : State :=
  let s1 := drainEnd (releaseHeld s 0) .aborted (drainPos s)
  { s1 with drain := { s1.drain with op := none } }

end Sys2Proof.Machine
end

