-- ==== Sys2Proof/Machine/Hoop.lean ====
section
/-! DEFINITION. The hoop (files 12 and 15): requests, the queue, what each activity does at its grant and at its commit. -/

namespace Sys2Proof.Machine

/-- Table 15-9: whether two activities conflict on a die. -/
def hoopConflict (a b : Nat) : Bool :=
  a == b || a == 6 || b == 6
    || (match min a b, max a b with
        | 1, 2 => true
        | 1, 5 => true
        | 4, 5 => true
        | _, _ => false)

/-- R370, R446: what a request conflicts with: the lowest-numbered die that has one, the other request, and whether that one is queued. -/
def hoopBlock (s : State) (act : Nat) (dies : NSet) (queue : Bool) : Option (Nat × HoopReq × Bool) :=
  dies.findSome? (fun d =>
    match s.hoopHold.find? (fun h => h.dies.contains d && hoopConflict act h.act) with
    | some h => some (d, h, false)
    | none =>
      if queue then (s.hoopQ.find? (fun h => h.dies.contains d && hoopConflict act h.act)).map (fun h => (d, h, true)) else none)

/-- Table 12-10: the holder word. -/
def holderWord (s : State) (d : Nat) (h : HoopReq) : Nat :=
  h.act + d <<< 8 + (match h.op.bind (findOp s) with
    | some o => o.sq <<< 12
    | none => 1 <<< 11)

/-- The position and total of a holder. -/
def holderPos (s : State) (h : HoopReq) : Nat × Nat :=
  if h.act = 1 then (drainPos s, 1024)
  else
    match h.op.bind (findOp s) with
    | some o => (o.pos, o.total)
    | none => (h.pos, 0)

/-- R370: HOOP_BUSY with its detail words. -/
def hoopBusy (s : State) (o : Op) (d : Nat) (h : HoopReq) (queued : Bool) : State :=
  let (p, t) := if queued then (0, 0) else holderPos s h
  completeWith s o .hoopBusy 0 (BitVec.ofNat 32 (holderWord s d h)) (BitVec.ofNat 32 p) (BitVec.ofNat 32 (if t = 0 then 0 else min 999 (1000 * p / t)))

/-! What a grant begins -/

/-- R370: an activity's holder is done: its descriptor's record is written or waits, and its hoops go back with that record; the device's own
gives them back at once. -/
def hoopEnd (s : State) (h : HoopReq) (st : Status) (pos : Nat) : State :=
  match h.op.bind (findOp s) with
  | some o => complete s o st pos
  | none => giveHoops s (fun g => g == h)

/-- Marks the holder of an activity that is not over. -/
def updHold (s : State) (act die : Nat) (f : HoopReq → HoopReq) : State :=
  { s with hoopHold := s.hoopHold.map (fun h => if h.act == act && h.dies.contains die && !holdOver s h then f h else h) }

/-- The keep's slot. -/
def keepSlot (s : State) (b : Nat) : FwSlot := if b = 0 then s.keep.a else s.keep.b
def setSlot (s : State) (b : Nat) (f : FwSlot) : State :=
  { s with keep := if b = 0 then { s.keep with a := f } else { s.keep with b := f } }

/-- R446: a request is granted: it holds its hoops, and its activity begins. unit and arg are those of Table 15-10; for FWSTAGE unit is the OP and
arg the SLOT. -/
def hoopStart (s : State) (h : HoopReq) : State :=
  let s1 := { s with hoopHold := s.hoopHold ++ [h] }
  let s2 := match h.op with
    | some id => updOp s1 id (fun o => { o with begun := true, hoopWait := false })
    | none => s1
  match h.act with
  | 1 => drainStart s2 h.op h.die
  | 2 =>
    let (ok, s3) := recalStart s2 (96 * h.die + h.unit % 96) (h.op.getD 0)
    if ok then s3
    else
      hoopEnd s3 h .notReady 0
  | 4 => updCore s2 h.die h.unit (fun k => { k with testing := true })
  | 6 => if h.unit / 65536 = 0 then updCore s2 h.die (h.unit % 65536) (fun k => { k with testing := true }) else s2
  | 7 => if h.unit = 0 then setSlot s2 h.arg { keepSlot s2 h.arg with valid := false, svn := 0 } else s2
  | _ => s2

/-- R370, R446: a request at acceptance: granted, refused with HOOP_BUSY, or queued. -/
def hoopAsk (s : State) (o : Op) (wait : Bool) (h : HoopReq) : State :=
  match hoopBlock s h.act h.dies true with
  | none => hoopStart s h
  | some (d, b, queued) =>
    if wait then { updOp s o.id (fun o => { o with hoopWait := true }) with hoopQ := s.hoopQ ++ [h] }
    else hoopBusy s o d b queued

/-- R370: HOOP_GRANT: the head of the queue is tried. -/
def hoopGrant (s : State) : State :=
  if s.phase != .up then s
  else
    match s.hoopQ with
    | [] => s
    | h :: rest => if (hoopBlock s h.act h.dies false).isNone then hoopStart { s with hoopQ := rest } h else s

def execHoopGrant (s : State) : Host.Outcome State Fault Refusal := .next (hoopGrant s)

/-! Core tests (R428, R448) -/

/-- R427, R428: the status that a CORE activity has earned, at its holder. -/
def coreOutcome (s : State) (d : Nat) (ok : Bool) : State :=
  updHold s 4 d (fun h => { h with pos := 1, st := some (if ok then .ok else .coreGone) })

/-- R448: whether an abort is to end a holder's activity at the end of its test. -/
def holdStop (s : State) (h : HoopReq) : Bool := match h.op.bind (findOp s) with | some o => o.stop | none => false

/-- R428, R447, Table 15-5: CORE_TEST_COMPLETE for the core that die d's CORE activity holds: find 0 no failure, 1 a failed physical column col
of array arr, 2 a failed row of memory bank col, 3 any other failure (a core that fails where no spare is left is retired). An activity that asks for a substitution makes no test. -/
def coreTest (d find arr col row : Nat) (s : State) : State :=
  match s.hoopHold.find? (fun h => h.act == 4 && h.die == d && h.st.isNone && !holdOver s h) with
  | none => s
  | some h =>
    let c := h.unit
    let k := getCore s d c
    if s.phase != .up || (getDie s d).flt != 0 || k.run.isSome then s
    else
      let (ok, s1) :=
        if holdStop s h then (true, s)
        else if h.arg % 2 = 1 then substitute s d c
        else
          match find with
          | 0 => if thriceStruck s k then substitute s d c else (true, s)
          | 1 => if arr < 2 ∧ col ≤ 32 then failColumn s d c arr col else (true, s)
          | 2 => failMemRow s d c (col % 4096) row
          | _ => substitute s d c
      coreOutcome s1 d ok

def execCoreTestComplete (d find arr col row : Nat) (s : State) : Host.Outcome State Fault Refusal := .next (coreTest d find arr col row s)

/-! Self-tests (R447) -/

/-- Table 15-10: whether a self-test's unit is in range. -/
def selfUnitOk (s : State) (d kind idx : Nat) : Bool :=
  match kind with
  | 0 => decide (idx < 150)
  | 1 => decide (idx < 5)
  | 2 => decide (idx < 2)
  | 3 => decide (idx < 4)
  | 4 => decide (idx < 96) && (portWidth (getDie s d) idx).isSome
  | 5 => decide (idx < 4) && (bridgeTo s.variant d idx).isSome
  | 6 => decide (idx < 256)
  | _ => false

/-- Table 15-10: whether a self-test's unit is fenced already. -/
def selfFenced (s : State) (d kind idx : Nat) : Bool :=
  let x := getDie s d
  match kind with
  | 0 => (coreOf x idx).fenced || (coreOf x idx).retired
  | 1 => x.engFenced.contains idx
  | 2 => x.pipeFenced.contains idx
  | 3 => x.moverFenced.contains idx
  | 4 => (portOf x idx).st == 12
  | 5 => (bridgeOf x idx).failed
  | _ => x.gnd.retired.contains idx || x.gnd.fenced.contains idx

/-- R425: a ground bank that fails is fenced, and the GND activity on it asked for. -/
def bankStruck (s : State) (d b : Nat) : State :=
  askHoop (updDie (reportFault s 2 7 b d 0x28 3) d (fun x => { x with gnd := { x.gnd with fenced := sadd x.gnd.fenced b } })) 5 d b 0

/-- R441, R442: the failing lanes of port l of a die, by their number within it, are fenced: recorded, for every later bring-up. -/
def fenceLanes (s : State) (d l : Nat) (lanes : List Nat) : State :=
  (lanes.filter (fun i => decide (i < 2 ^ (portWidth (getDie s d) l).getD 0))).foldl (fun s i => recAdd s 16 d l i noSpare) s

/-- Table 15-10: a unit that failed its self-test is handled as a C2 fault; found lists what the test found: of a mover the request that it served,
of a port its failing lanes, of a bridge port its failing wire groups. -/
def selfFail (s : State) (d kind idx : Nat) (found : List Nat) : State :=
  match kind with
  | 0 => coreStruck s d idx 0x22
  | 1 => engineStruck s d idx
  | 2 => pipeStruck s d idx
  | 3 => moverStruck s d idx (found.headD 0)
  | 4 => portFault (portLeave (fenceLanes s d idx found) d idx) d idx
  | 5 => found.foldl (fun s g => if (bridgeOf (getDie s d) idx).failed ∨ 2 ≤ tget (bridgeOf (getDie s d) idx).spares (g % 16) 0 then s else dropGroup s d idx (g % 16)) s
  | _ => bankStruck s d idx

/-! Commit (R370, R427, R447) -/

/-- R427: the activity on a core is over: it serves again, or the jobs that wait for a retired one complete with CORE_GONE. -/
def coreServes (s : State) (d c : Nat) : State :=
  let s1 := updCore s d c (fun k => { k with testing := false, fenced := false })
  if (getCore s d c).retired then dropJobs s1 d c else s1

/-- The position that an activity's record reports at its commit. -/
def holdTotal (s : State) (h : HoopReq) : Nat := match h.op.bind (findOp s) with | some o => o.total | none => 0

/-- Table 14-3, R414: what a STACK activity finds and repairs: a scrub reads the words of its range; parts lists the failing parts, as
(unit × 2^32 + site) × 4 + kind, and the words that cannot be read, as word × 4 + 3. A device's own activity repairs the part it was asked
for. The words of a scrub's range that cannot be read are poisoned and counted (R413). -/
def stackActs (s : State) (h : HoopReq) (parts : List Nat) : State :=
  let d := h.die
  let ws := (parts.filter (fun p => p % 4 == 3)).map (· / 4)
  if h.op.isNone then
    let p := h.arg / 4
    failStackPart s d (h.arg % 4) (if h.arg % 4 = 0 then p / 32768 else p) (if h.arg % 4 = 0 then p % 32768 else 0) ws
  else
    let lo := h.arg % 2 ^ 32 * 131072
    let hi := lo + h.arg / 2 ^ 32 * 131072
    let mine (k : Stack) : List Nat := ws.filter (fun w => decide (lo ≤ w) && decide (w < hi) && !k.pois.contains w)
    let s1 := if h.unit = 0 then updDie s d (fun x => dieStkTouch { x with stk := { x.stk with bad := (mine x.stk).foldl sadd x.stk.bad } } (8 * lo) (8 * (hi - lo))) else s
    (parts.filter (fun p => p % 4 != 3)).foldl (fun s p => failStackPart s d (p % 4) (p / 4 / 2 ^ 32) (p / 4 % 2 ^ 32) ws) s1

/-- R143, R144: what a GND activity on a bank repairs: found lists its failing rows, below 1,024, and the words that cannot be read, as 1,024 plus
the word; the device's own has the row that it was asked for, or that it finds in a fenced bank, which serves again (R425). -/
def gndActs (s : State) (h : HoopReq) (found : List Nat) : State :=
  let ws := (found.filter (fun r => decide (1024 ≤ r))).map (· - 1024)
  let rows := if h.op.isNone && h.arg != 0 then [h.arg - 1] else found.filter (fun r => decide (r < 1024))
  let s1 := rows.foldl (fun s r => failGndRow s h.die h.unit r ws) s
  updDie s1 h.die (fun x => { x with gnd := { x.gnd with fenced := sdel x.gnd.fenced h.unit } })

/-- R419: a STACK activity's work: where it has the spare channel copied, it holds the hoop until the copy is complete. -/
def stackWork (s : State) (h : HoopReq) (found : List Nat) : State :=
  let s1 := stackActs s h found
  if (getDie s1 h.die).stk.copying.isSome then updHold s1 3 h.die (fun h => { h with st := some .ok }) else hoopEnd s1 h .ok (holdTotal s h)

/-- R370, R341, R427, R447: an activity other than DRAIN or FWSTAGE of die d commits; found lists what its work found. -/
def activityCommit (act d : Nat) (found : List Nat) (s : State) : State :=
  match s.hoopHold.find? (fun h => h.act == act && h.die == d && !holdOver s h) with
  | none => s
  | some h =>
    if s.phase != .up || !dieLives s d then s
    else
      match act with
      | 2 =>
        if recalOver s (96 * d + h.unit % 96) then
          hoopEnd (updPort s d (h.unit % 96) (fun p => { p with recal := none })) h .ok (holdTotal s h) else s
      | 3 => if h.st.isSome then s else stackWork s h found
      | 4 =>
        match h.st with
        | none => s
        | some st => if holdStop s h then hoopEnd (coreServes s d h.unit) h .aborted 0 else hoopEnd (coreServes s d h.unit) h st 1
      | 5 => hoopEnd (gndActs s h found) h .ok (holdTotal s h)
      | 6 =>
        let kind := h.unit / 65536
        let idx := h.unit % 65536
        if kind = 0 ∧ (getCore s d idx).run.isSome then s
        else
          let s1 := if kind = 0 then updCore s d idx (fun k => { k with testing := false }) else s
          let pass := found.isEmpty
          if holdStop s h then hoopEnd s1 h .aborted 0
          else
            let s2 := hoopEnd s1 h (if pass then .ok else .faulted) 1
            if pass then s2 else selfFail s2 d kind idx found
      | _ => s

/-- R419: the spare channel of a die's stack stands in alone; the words in bad, unreadable in the failing channel, are poisoned, and the activity that
asked for it commits. -/
def copyComplete (d : Nat) (bad : List Nat) (s : State) : State :=
  match (getDie s d).stk.copying with
  | none => s
  | some c =>
    if s.phase == .safe || s.phase == .off then s
    else
      let s1 := recAdd (updDie s d (fun x => { x with stk := { poisonChannel x.stk c bad with copying := none, spareCh := some c } })) 13 d c 0 32
      match s1.hoopHold.find? (fun h => h.act == 3 && h.die == d && h.st.isSome && !holdOver s1 h) with
      | some h => hoopEnd s1 h .ok (holdTotal s1 h)
      | none => s1

/-- R419: STACK_CHANNEL_COPY_COMPLETE. -/
def execStackChannelCopyComplete (d : Nat) (bad : List Nat) (s : State) : Host.Outcome State Fault Refusal := .next (copyComplete d bad s)

/-! Maintenance descriptors (R371, R447) -/

/-- Table 15-10: whether UNIT and ARG are in range. -/
def maintOk (s : State) (act d unit arg : Nat) : Bool :=
  decide (d < ndies s.variant) &&
  (match act with
   | 2 => decide (96 * d ≤ unit) && decide (unit < 96 * d + 96) && arg == 0
   | 3 =>
     let cap := stkCap (getDie s d).stk
     if unit = 0 then decide ((arg % 2 ^ 32 + arg / 2 ^ 32) * 2 ^ 20 ≤ cap) else unit == 1 && decide (arg < cap)
   | 4 => decide (unit < 150) && decide (arg < 2)
   | 5 => decide (unit < 256) && arg == 0
   | _ => selfUnitOk s d (unit / 65536) (unit % 65536) && arg == 0)

/-- Table 15-10: progress totals. -/
def maintTotal (s : State) (act d unit arg : Nat) : Nat :=
  match act with
  | 2 => (portLanes (getDie s d) (unit % 96)).length
  | 3 => if unit = 0 then arg / 2 ^ 32 else 1
  | 5 => 16
  | _ => 1

/-- R371, R446, R447: a maintenance descriptor that has been accepted as operation o. -/
def maintain (s : State) (o : Op) (wait : Bool) (act d unit arg : Nat) : State :=
  if !maintOk s act d unit arg then complete s o .badFormat 0
  else if !linkReaches s d then complete s o .dieUnreachable 0
  else
    let s1 := updOp s o.id (fun o => { o with total := maintTotal s act d unit arg })
    let o1 := { o with total := maintTotal s act d unit arg }
    let kind := unit / 65536
    let idx := unit % 65536
    if act = 6 ∧ kind = 4 ∧ ((getPort s d idx).st = 6 ∨ (getPort s d idx).st = 9) then complete s1 o1 .notReady 0
    else if act = 6 ∧ selfFenced s d kind idx then complete s1 o1 .engineGone 0
    else
      hoopAsk s1 o1 wait
        { act := act, dies := [d], op := some o.id, die := d, unit := if act = 2 then unit % 96 else unit, arg := arg }

/-- R371, R370: a table update that has been accepted as operation o. -/
def tableUpdate (s : State) (o : Op) (wait act : Bool) (ext : List Host.Cell) : State :=
  match tableStage s o.desc ext with
  | .error e =>
    let size := match tabEntry s.variant (fld o.desc 135 128) with | some p => p.1 | none => 0
    complete (devSeen s (fld o.desc 319 256) (size * fld o.desc 223 192) e) o e 0
  | .ok s1 =>
    let n := fld o.desc 223 192
    if !act then
      let o1 := { o with total := n }
      complete (updOp s1 o.id (fun o => { o with total := n })) o1 .ok n
    else
      let o1 := { o with total := 1024 }
      let req : HoopReq := { act := 1, dies := upto (ndies s.variant), op := some o.id, die := 0, unit := 0, arg := 0 }
      let up (s : State) : State := updOp s o.id (fun o => { o with total := 1024 })
      match hoopBlock s 1 req.dies true with
      | some (d, b, queued) => if wait then hoopAsk (up s1) o1 true req else hoopBusy (up s) o1 d b queued
      | none => hoopStart (up s1) req

end Sys2Proof.Machine
end

