-- ==== Sys2Proof/Machine/Gates.lean ====
section
/-! DEFINITION. File 10, R307, R309 to R312, R314: gate lists, policer rates, the histogram area. -/

namespace Sys2Proof.Machine

/-! The gate-list descriptor (R309, R310) -/

/-- Field of a descriptor: n bytes at an offset. -/
def dsc (desc : Word512) (off n : Nat) : Nat := nbits desc.toNat (8 * (off + n) - 1) (8 * off)

/-- Table 10-7: the entries that a list's bytes spell, each with whether it breaks the table. -/
def gateEntries (bs : List Byte) (n : Nat) : List (Nat × Nat) × Bool :=
  let es := (upto n).map (fun i => (bytesNat bs (8 * i) 4, bytesNat bs (8 * i + 4) 2, bytesNat bs (8 * i + 6) 2))
  (es.map (fun e => (e.1, e.2.1)), es.any (fun e => decide (e.1 < 64) || decide (100000000 < e.1) || e.2.2 != 0))

/-- The queues that SW_QMAP of a port names. -/
def mappedQueues (x : Die) (l : Nat) : List Nat := (upto 5).map (fun i => regFld x (rSW_PORT l 0) (4 * i + 3) (4 * i))

/-- Table 10-8: whether entries are refused: the cycle is too long, or a mapped queue is never open for 200 ns. -/
def gateBad (x : Die) (l : Nat) (ents : List (Nat × Nat)) : Bool :=
  decide (1000000000 < (ents.map (·.1)).foldl (· + ·) 0)
    || (!ents.isEmpty && (mappedQueues x l).any (fun q => !ents.any (fun e => decide (200 ≤ e.1) && e.2.testBit q)))

/-- R309, R310: a gate-list descriptor that has been accepted as operation o: refused as Table 10-8 states, or staged. ext gives the list's bytes
where it lies outside the package. -/
def gateList (s : State) (o : Op) (ext : List Host.Cell) : State :=
  let f := dsc o.desc
  let p := f 16 2
  let d := p / 96
  let l := p % 96
  let n := f 18 2
  if 1024 ≤ p ∨ f 20 4 ≠ 0 ∨ f 40 24 ≠ 0 ∨ 256 < n ∨ f 24 8 % 8 ≠ 0 then complete s o .badFormat 0
  else if !timeValid s then complete s o .notTimed 0
  else if f 32 8 < timeNs s (min d (ndies s.variant - 1)) + 10000 then complete s o .badTime 0
  else if ndies s.variant ≤ d then complete s o .badGate 0
  else
    let x := getDie s d
    if !isTrunk x l || (portWidth x l).isNone then complete s o .badGate 0
    else if !linkReaches s d then complete s o .dieUnreachable 0
    else
      match (if n = 0 then .ok ([], s) else devRead s (linkDie s) (f 24 8) (8 * n) ext) with
      | .error e => complete (devSeen s (f 24 8) (8 * n) e) o e 0
      | .ok (bs, s1) =>
        let (ents, bad) := gateEntries bs n
        if bad || gateBad x l ents then complete s1 o .badGate 0
        else if (portOf x l).staged.isSome then complete s1 o .gateBusy 0
        else updPort (updOp s1 o.id (fun o => { o with begun := true })) d l
          (fun p => { p with staged := some { ents := ents, start := f 32 8, op := o.id, cur := 0 } })

/-- R311: the staged list of a port takes over once the counter is at or beyond START; the descriptor commits. On a fenced die it cannot. -/
def gateTakeover (d l : Nat) (s : State) : State :=
  match (getPort s d l).staged with
  | none => s
  | some g =>
    if s.phase != .up || ndies s.variant ≤ d then s
    else if !dieLives s d then completeId (updPort s d l (fun p => { p with staged := none })) g.op .dieUnreachable 0
    else
      let s1 := reachTime s d g.start
      let s2 := updPort s1 d l (fun p => { p with gate := some { g with cur := (gateAt g (timeNs s1 d)).1 }, staged := none })
      completeId s2 g.op .ok 0

/-- R311: GATE_TAKEOVER. -/
def execGateTakeover (d l : Nat) (s : State) : Host.Outcome State Fault Refusal := .next (gateTakeover d l s)

/-- R311, R312: the entry in force of a port's list changes: the next one where the counter has not moved past the current one by itself. -/
def gateChange (d l : Nat) (s : State) : State :=
  match (getPort s d l).gate with
  | none => s
  | some g =>
    if !dieRuns s d || g.ents.isEmpty then s
    else
      let t := timeNs s d
      let at0 := gateAt g t
      let s1 := if at0.1 = g.cur then reachTime s d (t + at0.2.2) else s
      updPort s1 d l (fun p => { p with gate := some { g with cur := (gateAt g (timeNs s1 d)).1 } })

/-- R311: GATE_ENTRY_CHANGE. -/
def execGateEntryChange (d l : Nat) (s : State) : Host.Outcome State Fault Refusal := .next (gateChange d l s)

/-- R311, R369: an abort before the takeover: the staged list is discarded and the descriptor ends ABORTED. -/
def gateAbort (s : State) (id : Nat) : State :=
  let s1 := { s with dies := s.dies.map (fun (d, x) => (d, { x with
    ports := x.ports.map (fun (l, p) => (l, match p.staged with
      | some g => if g.op = id then { p with staged := none } else p
      | none => p)) })) }
  completeId s1 id .aborted 0

/-! Policer rates (R307, Table 10-17) -/

/-- Table 10-17: what a write of SW_POLRATEc or SW_SHRATEq leaves: RATE outside 1 to 16,000 keeps its value, and EN stays 0 while RATE is 0. -/
def rateValue (old v : Word32) : Nat :=
  let r := if 1 ≤ fld v 15 0 ∧ fld v 15 0 ≤ 16000 then fld v 15 0 else fld old 15 0
  r + (if r = 0 then 0 else 65536 * fld v 16 16)

/-- R307: a write of SW_POLRATEc of port l of die d: a write that sets EN to 1 fills the bucket. -/
def polRateWrite (d l c : Nat) (v : Word32) (s : State) : State :=
  if !regsUp s || !linkReaches s d || 96 ≤ l || 7 ≤ c then s
  else
    let off := rSW_PORT l (0x90 + 8 * c)
    let x := getDie s d
    let n := rateValue (regWord x off) v
    if s.locked then writeLocked s d off v
    else
      let s1 := writeLocked s d off (BitVec.ofNat 32 n)
      if 65536 ≤ n then updPort s1 d l (fun p => { p with polTok := tset p.polTok c (4 * 64 * regFld x (rSW_PORT l (0x94 + 8 * c)) 15 0) })
      else s1

/-- R307: SW_POLRATE_WRITE. -/
def execSwPolrateWrite (d l c : Nat) (v : Word32) (s : State) : Host.Outcome State Fault Refusal := .next (polRateWrite d l c v s)

/-! The histogram area (R314) -/

/-- R314: whether the histogram area of an OFF lies wholly in the die's user area. -/
def histFits (x : Die) (off : Nat) : Bool := inUser x off 196608

/-- R314: a write of SW_HIST_BASE of die d: an area that does not fit leaves HIST_EN at 0 and posts HIST_OFF. -/
def histBaseWrite (d : Nat) (v : Word32) (s : State) : State :=
  if !regsUp s || !linkReaches s d then s
  else if s.locked then writeLocked s d rSW_HIST_BASE v
  else
    let off := fld v 26 6 * 64
    let s1 := writeLocked s d rSW_HIST_BASE (BitVec.ofNat 32 off)
    if histFits (getDie s d) off then s1
    else
      postEvent (updDie s1 d (fun x => { x with regs := tset x.regs rSW_SAMPLE (regWord x rSW_SAMPLE &&& 0xFF) })) 0x0F d off 0 0 0

/-- R314: SW_HIST_BASE_WRITE. -/
def execSwHistBaseWrite (d : Nat) (v : Word32) (s : State) : Host.Outcome State Fault Refusal := .next (histBaseWrite d v s)

end Sys2Proof.Machine
end

