-- ==== Sys2Proof/Machine/PmcRegs.lean ====
section
/-! DEFINITION. File 18: counters read and written through registers (R486, R487), bandwidth windows (R495). -/

namespace Sys2Proof.Machine

/-- Tables 18-3 and 18-4: the unit and register that an offset in the PMC_ block names: a core or a port's local index, and the offset there. -/
inductive PmcPlace where
  | core (c off : Nat)
  | port (l off : Nat)
  | none
  deriving DecidableEq, Repr

def pmcPlace (off : Nat) : PmcPlace :=
  if off < 0x9600 then .core (off / 0x100) (off % 0x100)
  else if 0xA000 ≤ off ∧ off < 0xD000 then .port ((off - 0xA000) / 0x80) ((off - 0xA000) % 0x80)
  else .none

/-- A core's counter at the offset of its low word (Table 18-3): the cycle counter, counter n, slot counter k. -/
def corePmcAt (x : Die) (c off : Nat) : Option Nat :=
  let p := (coreOf x c).pmc
  if off = 0 then some (x.cycles / 16 % 2 ^ 64)
  else if 0x40 ≤ off ∧ off < 0x80 ∧ off % 8 = 0 then some (tget p.cnt ((off - 0x40) / 8) 0)
  else if 0x80 ≤ off ∧ off < 0xA0 ∧ off % 8 = 0 then some (tget p.slot ((off - 0x80) / 8) 0)
  else none

/-- A port's counter at the offset of its low word (Table 18-4). -/
def portPmcAt (x : Die) (l off : Nat) : Option Nat :=
  let p := (portOf x l).pmc
  if off = 0 then some p.fix
  else if 0x20 ≤ off ∧ off < 0x40 ∧ off % 8 = 0 then some (tget p.cnt ((off - 0x20) / 8) 0)
  else if off = 0x48 then some (p.tx % 2 ^ 40)
  else if off = 0x50 then some (p.rx % 2 ^ 40)
  else if off = 0x58 then some (p.peak % 2 ^ 40)
  else none

/-- R486, Table 18-4: whether a port's counter has 48 or 64 bits, so that its high word is latched: TX, RX and PEAK have 40. -/
def portLatches (off : Nat) : Bool := decide (off < 0x40)

/-- R486: a low word is read: its value, and the high word latched for the next read of it. -/
def pmcLow (d off : Nat) (s : State) : Option (Nat × State) :=
  match pmcPlace off with
  | .core c o =>
    (corePmcAt (getDie s d) c o).map (fun v =>
      (v % 2 ^ 32, updCore s d c (fun k => { k with pmc := { k.pmc with latch := tset k.pmc.latch o (v >>> 32) } })))
  | .port l o =>
    (portPmcAt (getDie s d) l o).map (fun v =>
      (v % 2 ^ 32, if portLatches o then updPort s d l (fun p => { p with pmc := { p.pmc with latch := tset p.pmc.latch o (v >>> 32) } }) else s))
  | .none => none

/-- R486: a high word is read: the one latched, once, or the counter's. -/
def pmcHigh (d off : Nat) (s : State) : Option (Nat × State) :=
  if off % 8 ≠ 4 then none
  else
    match pmcPlace (off - 4) with
    | .core c o =>
      (corePmcAt (getDie s d) c o).map (fun v =>
        (tget (getCore s d c).pmc.latch o (v >>> 32), updCore s d c (fun k => { k with pmc := { k.pmc with latch := tdel k.pmc.latch o } })))
    | .port l o =>
      (portPmcAt (getDie s d) l o).map (fun v =>
        (tget (getPort s d l).pmc.latch o (v >>> 32), updPort s d l (fun p => { p with pmc := { p.pmc with latch := tdel p.pmc.latch o } })))
    | .none => none

/-- R486: PMC_LOW_WORD_READ: the companion reads the low word at an offset of die d's PMC_ block: zero before BOOTED (R466). -/
def pmcLowRead (d off : Nat) (s : State) : State :=
  if s.phase == .booting then emit s (.data (toLe 4 0))
  else if !regsUp s || !linkReaches s d then s
  else
    match pmcLow d off s with
    | some (v, s1) => emit s1 (.data (toLe 4 v))
    | none => s

def execPmcLowWordRead (d off : Nat) (s : State) : Host.Outcome State Fault Refusal := .next (pmcLowRead d off s)

/-- R486: a 48-bit counter with its low or its high word written. -/
def halfWrite (old : Nat) (high : Bool) (v : Word32) : Nat :=
  if high then old % 2 ^ 32 + v.toNat % 2 ^ 16 * 2 ^ 32 else old / 2 ^ 32 * 2 ^ 32 + v.toNat

/-- R486, R487: a write of a programmable counter's word at an offset of die d's PMC_ block. -/
def pmcCounterWrite (d off : Nat) (v : Word32) (s : State) : State :=
  let high := off % 8 == 4
  if !regsUp s || !linkReaches s d || off % 4 != 0 then s
  else
    match pmcPlace off with
    | .core c o =>
      if 0x40 ≤ o ∧ o < 0x80 then
        updCore s d c (fun k => { k with pmc := { k.pmc with
          cnt := tset k.pmc.cnt ((o - 0x40) / 8) (halfWrite (tget k.pmc.cnt ((o - 0x40) / 8) 0) high v) } })
      else s
    | .port l o =>
      if 0x20 ≤ o ∧ o < 0x40 then
        updPort s d l (fun p => { p with pmc := { p.pmc with
          cnt := tset p.pmc.cnt ((o - 0x20) / 8) (halfWrite (tget p.pmc.cnt ((o - 0x20) / 8) 0) high v) } })
      else s
    | .none => s

/-- R487: PMC_COUNTER_WRITE. -/
def execPmcCounterWrite (d off : Nat) (v : Word32) (s : State) : Host.Outcome State Fault Refusal := .next (pmcCounterWrite d off v s)

/-- R495, Table 18-4: a write of PMC_PWIN of port l: WIN_US outside 1 to 1,000,000 keeps the field; TX, RX and PEAK are cleared. -/
def pwinWrite (d l : Nat) (v : Word32) (s : State) : State :=
  if !regsUp s || !linkReaches s d || decide (96 ≤ l) then s
  else
    let w := fld v 19 0
    let s1 := if 1 ≤ w ∧ w ≤ 1000000 then updDie s d (fun x => { x with regs := tset x.regs (rPMC_PWIN l) (BitVec.ofNat 32 w) }) else s
    updPort s1 d l (fun p => { p with pmc := { p.pmc with tx := 0, rx := 0, peak := 0 } })

/-- R495: PMC_PWIN_WRITE. -/
def execPmcPwinWrite (d l : Nat) (v : Word32) (s : State) : Host.Outcome State Fault Refusal := .next (pwinWrite d l v s)

/-- R495: the time counter passes the multiple of WIN_US × 1,000 ns at which port l's window ends, and every port's that ends there (log entry 20). -/
def windowEnd (d l : Nat) (s : State) : State :=
  let w := windowNs (getDie s d) l
  if !dieRuns s d || decide (96 ≤ l) || w == 0 then s else reachTime s d ((timeNs s d / w + 1) * w)

/-- R495: BANDWIDTH_WINDOW_END. -/
def execBandwidthWindowEnd (d l : Nat) (s : State) : Host.Outcome State Fault Refusal := .next (windowEnd d l s)

/-- R495: a step of the time counter ends every window in progress, and none is latched. -/
def dropWindows (s : State) : State :=
  { s with dies := s.dies.map (fun (d, x) => (d, { x with ports := x.ports.map (fun (l, p) => (l, { p with pmc := { p.pmc with win := [] } })) })) }

end Sys2Proof.Machine
end

