-- ==== Sys2Proof/Machine/Time.lean ====
section
/-! DEFINITION. File 13, R377 to R387, R402, R405: the time state, measurements, link delays, PTP, the time registers' writes. -/

namespace Sys2Proof.Machine

/-! The root and the parent (R379, R383) -/

def timeSrc (s : State) : Nat := regFld (getDie s 0) rTIME_CFG 1 0

def rootCoord (s : State) (a : Nat) : Nat := regFld (getDie s 0) rTIME_ROOT (5 * a + 4) (5 * a)

/-- Whether TIME_ROOT names this package's coordinates. -/
def rootIsHere (s : State) : Bool := [0, 1, 2].all (fun a => (axisOf (ownShape s) a).1 == rootCoord s a)

/-- R379: whether SRC agrees with TIME_ROOT. -/
def srcAgrees (s : State) : Bool := (timeSrc s == 1 && rootIsHere s) || (timeSrc s == 2 && !rootIsHere s)

/-- R379: this package is the root. -/
def isRoot (s : State) : Bool := timeSrc s == 1 && rootIsHere s

/-- R383: the parent port. -/
def parentPort (s : State) : Option Nat :=
  let h := ownShape s
  match [2, 1, 0].find? (fun a => (axisOf h a).1 != rootCoord s a) with
  | none => none
  | some a =>
    match axisDirs h a (rootCoord s a) with
    | g :: _ => ((trunkPorts s g).filter (portActive s)).foldl (fun (m : Option Nat) p => some (match m with | some q => min p q | none => p)) none
    | [] => none

/-- R405: HOPS: 0 at the root, what the last sync flit counted said, or 0x3F. -/
def timeHops (s : State) : Nat := if isRoot s then 0 else s.time.hops

/-- R405: ROOT_VALID. -/
def timeRootValid (s : State) : Bool := if isRoot s then timeValid s else s.time.rootValid

/-! The time state (R380, R381) -/

/-- R395: where TIME_VALID has fallen to 0, every armed release is made at once, untimed. -/
def afterValid (was : Bool) (s : State) : State := if was && !timeValid s then disarmAll s else s

/-- R381, R404: every die's counter is stepped by an amount in 1/16 ns; windows end (R495). -/
def stepClocks (s : State) (k : Int) : State :=
  let old := timeNs s s.lead
  let s1 := foldUpto (ndies s.variant) s (fun s d => updDie s d (fun x => { x with clock := (((x.clock : Int) + k * 2 ^ 28) % 2 ^ 96).toNat }))
  let diff := (((timeNs s1 s1.lead : Int) - (old : Int)) % 2 ^ 64).toNat
  timeEvent (dropWindows s1) 0xFF 4 (diff % 2 ^ 32) (diff / 2 ^ 32)

/-- Table 13-1: ACQUIRE is entered for a cause of Table 13-7. -/
def enterAcquire (s : State) (cause : Nat) : State :=
  afterValid (timeValid s) (timeEvent { s with time := { s.time with st := 1, good := 0, stepped := false } } 0xFF 3 cause 0)

/-- R377, R381: FADJ after a measurement: the servo's choice (log entry 24) within ±500 ppm of 20 ns. -/
def steer (s : State) (off : Int) : State :=
  let (k, s1) := draw s
  { s1 with time := { s1.time with fadj := max (-42949672) (min 42949672 (Config.servo k off)) } }

/-- R380, R381: one measurement of an offset in 1/16 ns. -/
def measure (s : State) (off : Int) : State :=
  let w := regWord (getDie s 0) rTIME_CFG
  let near := decide (off.natAbs ≤ 16 * fld w 19 10)
  let far := decide (16000 * fld w 27 20 < off.natAbs)
  let s0 := { s with time := { s.time with offset := off } }
  let good := if near then s.time.good + 1 else 0
  match s.time.st with
  | 1 =>
    let s1 := if !s.time.stepped || far then stepClocks { s0 with time := { s0.time with stepped := true } } (-off) else steer s0 off
    if 16 ≤ good ∧ srcAgrees s then timeEvent { s1 with time := { s1.time with st := 2, good := 0 } } 0xFF 1 (timeHops s1) 0
    else { s1 with time := { s1.time with good := good } }
  | 2 => if far then enterAcquire s0 2 else steer s0 off
  | 3 =>
    if far then enterAcquire s0 2
    else if 4 ≤ good then timeEvent { s0 with time := { s0.time with st := 2, good := 0 } } 0xFF 1 (timeHops s0) 0
    else { s0 with time := { s0.time with good := good } }
  | _ => s0

/-! Link-local packets (R384 to R386) -/

/-- R300, R385, R386, R516: a link-local packet for trunk port l of die d; it waits for a chip number and a buffer. -/
def linkSend (s : State) (d l kind rest : Nat) : State :=
  send s d { pkt := mkPacket 5 kind 0 0 rest [], dst := 0, req := 11, owner := .none, sequenced := false, bits := some 0, via := some l }

/-- The ACTIVE trunk ports of the package. -/
def activeTrunks (s : State) : List (Nat × Nat) :=
  ((upto (ndies s.variant)).map (fun d =>
    ((upto 96).filter (fun l => dieLives s d && isTrunk (getDie s d) l && (getPort s d l).st == 6)).map (fun l => (d, l)))).flatten

/-- R385: SYNC_TIME on every ACTIVE trunk port; T_TX is stamped as the flit leaves. -/
def syncSend (s : State) : State :=
  if s.phase != .up || !(timeValid s || isRoot s) then s
  else (activeTrunks s).foldl (fun s (d, l) => linkSend s d l kSYNC_TIME (min 0x3F (timeHops s + 1) <<< 64 + b2n (timeRootValid s) <<< 72)) s

/-- R385: SYNC_TIME_SEND. -/
def execSyncTimeSend (s : State) : Host.Outcome State Fault Refusal := .next (syncSend s)

/-- R384: a DELAY_REQ on every ACTIVE trunk port; T1 is stamped as it leaves. -/
def delaySend (s : State) : State :=
  if s.phase != .up then s else (activeTrunks s).foldl (fun s (d, l) => linkSend s d l kDELAY_REQ 0) s

/-- R384: DELAY_REQ_SEND. -/
def execDelayReqSend (s : State) : Host.Outcome State Fault Refusal := .next (delaySend s)

/-- R384: DELAY_REQ: the port that received it answers; the answer's TURN, from the request's arrival, is completed as it leaves. -/
def delayReqStep (s : State) (d : Nat) (e : Held) : State :=
  if e.inp < 96 ∧ isTrunk (getDie s d) e.inp then
    linkSend s d e.inp kDELAY_RSP (fld e.pkt.hdr 191 128 + (e.stamp % 2 ^ 32) <<< 64)
  else s

def execDelayReq (d : Nat) (s : State) : Host.Outcome State Fault Refusal := .next (onKind kDELAY_REQ d s (fun s e => delayReqStep s d e))

/-- R384: DELAY_RSP: (T4 − T1) − TURN joins the port's last 64. -/
def delayRspStep (s : State) (d : Nat) (e : Held) : State :=
  if e.inp < 96 then
    let v := signed 64 ((e.stamp + 2 ^ 64 * 2 - fld e.pkt.hdr 191 128 - fld e.pkt.hdr 223 192) % 2 ^ 64)
    updPort s d e.inp (fun p => { p with delays := (v :: p.delays).take 64 })
  else s

def execDelayRsp (d : Nat) (s : State) : Host.Outcome State Fault Refusal := .next (onKind kDELAY_RSP d s (fun s e => delayRspStep s d e))

/-- R384: a port's link delay in 1/16 ns: the mean of half of its exchanges; its rounding, and its value before the first, are free (log entries
25, 12). -/
def linkDelay (s : State) (d l : Nat) : Int × State :=
  let v := (getPort s d l).delays
  let (k, s1) := draw s
  if v.isEmpty then ((Config.firstDelay (96 * d + l) : Int), s1)
  else
    let sum : Int := v.foldl (· + ·) 0
    let n : Int := 2 * (v.length : Int)
    (sum / n + (if sum % n = 0 then 0 else (Config.meanUp k % 2 : Nat)), s1)

/-- R383, R385: SYNC_TIME: counted on the parent port only. -/
def syncStep (s : State) (d : Nat) (e : Held) : State :=
  if timeSrc s ≠ 2 ∨ 96 ≤ e.inp ∨ parentPort s ≠ some (96 * d + e.inp) then s
  else
    let h := e.pkt.hdr
    let (dl, s1) := linkDelay s d e.inp
    let off := signed 64 ((((e.stamp : Int) - fld h 191 128 - dl) % 2 ^ 64).toNat)
    let s2 := { s1 with time := { s1.time with hops := min 0x3F (fld h 199 192), rootValid := bit h 200 } }
    measure (afterValid (timeValid s) s2) off

def execSyncTime (d : Nat) (s : State) : Host.Outcome State Fault Refusal := .next (onKind kSYNC_TIME d s (fun s e => syncStep s d e))

/-! Timeouts (R380) -/

/-- R380: MEASUREMENT_TIMEOUT: LOCKED becomes HOLDOVER. -/
def measureTimeout (s : State) : State :=
  if !regsUp s || s.time.st != 2 then s
  else afterValid (timeValid s) (timeEvent { s with time := { s.time with st := 3, good := 0 } } 0xFF 2 0 0)

def execMeasurementTimeout (s : State) : Host.Outcome State Fault Refusal := .next (measureTimeout s)

/-- R380: HOLD_S_EXPIRY: HOLDOVER becomes ACQUIRE. -/
def holdExpiry (s : State) : State := if !regsUp s || s.time.st != 3 then s else enterAcquire s 1

def execHoldSExpiry (s : State) : Host.Outcome State Fault Refusal := .next (holdExpiry s)

/-! Register writes and reads (R379, R402, R405) -/

/-- A field that keeps its value where 0 is written. -/
def keepZero (old v : Word32) (hi lo : Nat) : Nat := (if fld v hi lo = 0 then fld old hi lo else fld v hi lo) <<< lo

/-- Table 13-8: what a write of TIME_CFG leaves. -/
def timeCfgValue (old v : Word32) : Nat :=
  (if fld v 1 0 = 3 then fld old 1 0 else fld v 1 0) + keepZero old v 9 2 + keepZero old v 19 10 + keepZero old v 27 20

/-- R379, R380: the source changes: FREE, or ACQUIRE. -/
def sourceChanged (s : State) : State :=
  let t := { s.time with hops := 0x3F, rootValid := false, good := 0, stepped := false }
  if timeSrc s = 0 then { s with time := { t with st := 0, fadj := 0 } }
  else if s.time.st = 1 then { s with time := t }
  else timeEvent { s with time := { t with st := 1 } } 0xFF 3 3 0

/-- R379: a write of TIME_CFG. -/
def timeCfgWrite (v : Word32) (s : State) : State :=
  if !regsUp s || !linkReaches s 0 then s
  else if s.locked then writeLocked s 0 rTIME_CFG v
  else
    let s1 := writeLocked s 0 rTIME_CFG (BitVec.ofNat 32 (timeCfgValue (regWord (getDie s 0) rTIME_CFG) v))
    if timeSrc s1 = timeSrc s then s1 else afterValid (timeValid s) (sourceChanged s1)

/-- R379: TIME_CFG_SRC_WRITE. -/
def execTimeCfgSrcWrite (v : Word32) (s : State) : Host.Outcome State Fault Refusal := .next (timeCfgWrite v s)

/-- R405: the low word of a die's counter is read: the high word is latched for the next read of it. -/
def nowLow (d : Nat) (s : State) : Nat × State :=
  let t := timeNs s d
  (t % 2 ^ 32, updDie s d (fun x => { x with lat := tset x.lat 0 (t >>> 32 % 2 ^ 32) }))

/-- R405: the high word: the one latched, once, or the counter's. -/
def nowHigh (d : Nat) (s : State) : Nat × State :=
  (tget (getDie s d).lat 0 (timeNs s d >>> 32 % 2 ^ 32), updDie s d (fun x => { x with lat := tdel x.lat 0 }))

/-- R405: TIME_NOW_READ: the companion reads TIME_NOWLO of die d: zero before BOOTED (R466). -/
def timeNowRead (d : Nat) (s : State) : State :=
  if s.phase == .booting then emit s (.data (toLe 4 0))
  else if !regsUp s || !linkReaches s d then s
  else
    let (v, s1) := nowLow d s
    emit s1 (.data (toLe 4 v))

def execTimeNowRead (d : Nat) (s : State) : Host.Outcome State Fault Refusal := .next (timeNowRead d s)

/-- R402, Table 13-8: a write of TIME_DLOG: a log outside die 0's user area leaves EN at 0 and posts event 8. -/
def dlogWrite (v : Word32) (s : State) : State :=
  if !regsUp s || !linkReaches s 0 then s
  else if s.locked then writeLocked s 0 rTIME_DLOG v
  else
    let x := getDie s 0
    let lg := if 6 ≤ fld v 5 1 ∧ fld v 5 1 ≤ 20 then fld v 5 1 else fld (regWord x rTIME_DLOG) 5 1
    let w := 2 * lg + fld v 26 6 * 64
    if logFits x (BitVec.ofNat 32 w) then writeLocked s 0 rTIME_DLOG (BitVec.ofNat 32 (w + fld v 0 0))
    else timeEvent (writeLocked s 0 rTIME_DLOG (BitVec.ofNat 32 w)) 0xFF 8 (fld v 26 6 * 64) 0

/-- R402: TIME_DLOG_WRITE. -/
def execTimeDlogWrite (v : Word32) (s : State) : Host.Outcome State Fault Refusal := .next (dlogWrite v s)

end Sys2Proof.Machine
end

