-- ==== Sys2Proof/Machine/Power.lean ====
section
/-! DEFINITION. File 16: rails, resets, the package states, idle units, duties and caps. -/

namespace Sys2Proof.Machine

/-! Rails and the reference (R422, R452, R453) -/

/-- R452: whether 10 ms have passed since the enables rose. -/
def railsSettled (s : State) : Bool := match s.power.enAt with | some t => decide (t + 10000000 ≤ s.now) | none => true

/-- R452: whether a rail is monitored: 0 VDD_AON, 1 VDD_IO, 2 VPP_STK, 3 VDD_STK, 4 VDD_SRAM, 5 + d VDD_CORE_d, 13 VDD_LANE, 14 VDDH_LANE. -/
def railWatched (s : State) (rail : Nat) : Bool :=
  if rail < 5 then true
  else if rail < 13 then decide (rail - 5 < ndies s.variant) && s.power.coreEn && railsSettled s
  else decide (rail < 15) && s.power.laneEn && railsSettled s

/-- R452: RAIL_OUT_OF_RANGE: a monitored rail has been outside its thresholds for 1 µs. -/
def railOut (rail : Nat) (s : State) : State :=
  if s.power.porst || !railWatched s rail then s else packageFault s 0x40

def execRailOutOfRange (rail : Nat) (s : State) : Host.Outcome State Fault Refusal := .next (railOut rail s)

/-- R422: REF25_ABSENT. -/
def execRef25Absent (s : State) : Host.Outcome State Fault Refusal := .next (packageFault s 0x41)

/-- R453: a die's core rail moves one step of 5 mV, at most once in 100 µs; up is the direction that its process and temperature ask for, ack says that
the regulator's acknowledgement of the step before has come. -/
def avsStep (d : Nat) (rise ack : Bool) (s : State) : State :=
  let x := getDie s d
  if s.phase != .up || !dieLives s d then s
  else if !(ack || x.vAck) || decide (s.now < x.vAt) then setDie s d { x with vAck := ack || x.vAck }
  else setDie s d { x with vset := if rise then min 30 (x.vset + 1) else x.vset - 1, vAt := s.now + 100000, vAck := false }

/-- R453: AVS_SETPOINT_STEP. -/
def execAvsSetpointStep (d : Nat) (rise ack : Bool) (s : State) : Host.Outcome State Fault Refusal := .next (avsStep d rise ack s)

/-! The compute duty (R461 to R464) -/

/-- R462: 100 µs have passed; watts is the 1 ms average. -/
def capStep (watts : Nat) (s : State) : State :=
  let cap := fld (pwrCap s) 10 0
  let p := s.power
  if !regsUp s || !bit (pwrCap s) 11 then s
  else
    let hi := decide (cap < watts)
    let lo := decide (100 * watts < 97 * cap)
    let duty := if hi then max 2 (p.capDuty - 1) else if lo then min 16 (p.capDuty + 1) else p.capDuty
    let at2 := if duty = 2 then some (p.capAt.getD s.now) else none
    let lim := if lo then false else p.capLim || (hi && p.capDuty == 2 && (match p.capAt with | some t => decide (t + 1000000 ≤ s.now) | none => false))
    { s with power := { p with watts := min watts 0x7FF, capDuty := duty, capAt := at2, capLim := lim } }

/-- R462: POWER_CAP_STEP. -/
def execPowerCapStep (watts : Nat) (s : State) : Host.Outcome State Fault Refusal := .next (capStep watts s)

/-- R463, Table 16-4: a die samples its junction temperature, in °C. From 110 °C on, the row of 105 °C acts until the trip. -/
def tjSample (d tj : Nat) (s : State) : State :=
  let x := getDie s d
  if s.phase == .off || s.phase == .safe || s.phase == .held || ndies s.variant ≤ d then s
  else
    let may := decide (x.tdAt ≤ s.now)
    let move (n : Nat) : Nat := if may then n else x.tduty
    let duty := if 105 ≤ tj then 2 else if 100 ≤ tj then move (max 2 (x.tduty - 1)) else if 97 ≤ tj then x.tduty else move (min 16 (x.tduty + 1))
    let hot := if 110 ≤ tj then some (x.hotAt.getD s.now) else none
    let s1 := setDie s d { x with
      tj := min tj 0xFF, tjMax := max (min tj 0xFF) x.tjMax, tduty := duty, hotAt := hot
      tdAt := if duty = x.tduty then x.tdAt else s.now + 100000 }
    match x.hotAt with
    | some t => if 110 ≤ tj ∧ t + 10000 ≤ s.now then packageFault s1 0x42 else s1
    | none => s1

/-- R463: JUNCTION_TEMPERATURE_SAMPLE. -/
def execJunctionTemperatureSample (d tj : Nat) (s : State) : Host.Outcome State Fault Refusal := .next (tjSample d tj s)

/-- R464: THROT_N changes; its level counts when the package next runs. -/
def execThrotNChange (low : Bool) (s : State) : Host.Outcome State Fault Refusal :=
  .next { s with power := { s.power with throt := low } }

/-! Idle units (R457) -/

/-- R457: an awake core with no job goes to sleep; it keeps every memory and register. -/
def coreSleep (d c : Nat) (s : State) : State :=
  let k := getCore s d c
  if s.phase != .up || ndies s.variant ≤ d || decide (150 ≤ c) || k.run.isSome || !k.jobs.isEmpty then s
  else setCore s d c { k with asleep := true }

/-- R457: CORE_IDLE_SLEEP. -/
def execCoreIdleSleep (d c : Nat) (s : State) : Host.Outcome State Fault Refusal := .next (coreSleep d c s)

/-- R457: an awake engine with no request goes to sleep. -/
def engineSleep (d u : Nat) (s : State) : State :=
  let x := getDie s d
  if s.phase != .up || ndies s.variant ≤ d || x.engs.any (fun q => q.unit == u) then s
  else setDie s d { x with engAwake := sdel x.engAwake u }

/-- R457: ENGINE_IDLE_SLEEP. -/
def execEngineIdleSleep (d u : Nat) (s : State) : Host.Outcome State Fault Refusal := .next (engineSleep d u s)

/-! Package states (R458 to R460) -/

/-- Table 16-6: a write of PWR_CTL keeps its WAKE_EN while software is locked out. -/
def wakeEnWrite (s : State) (wake : Bool) : State :=
  if s.locked then postEvent s 0x01 0 (regAddr 0 rPWR_CTL % 2 ^ 32) (regAddr 0 rPWR_CTL / 2 ^ 32) 0 0
  else updDie s 0 (fun x => { x with regs := tset x.regs rPWR_CTL (BitVec.ofNat 32 (regFld x rPWR_CTL 1 0 + 4 * b2n wake)) })

def setTarget (s : State) (t : Nat) : State :=
  updDie s 0 (fun x => { x with regs := tset x.regs rPWR_CTL (BitVec.ofNat 32 (t + 4 * regFld x rPWR_CTL 2 2)) })

/-- R459: whether a Standby request is accepted. -/
def mayStandby (s : State) : Bool :=
  (upto 256).all (fun q => (getSq s q).state == 0) && (upto (ndies s.variant)).all (fun d => (getDie s d).ports.all (fun p => p.2.st != 6))

/-- R459: a write of 1 to PWR_CTL.TARGET, with WAKE_EN. In Standby nothing is left to do, unless a wake has begun (R460). -/
def ctlStandby (woken : Bool) (s : State) : State :=
  if !regsUp s || !linkReaches s 0 then s
  else
    let s1 := wakeEnWrite s woken
    if mayStandby s1 then { setTarget s1 1 with power := { s1.power with entering := s1.power.coreEn } }
    else { s1 with power := { s1.power with refused := true } }

/-- R459: PWR_CTL_STANDBY. -/
def execPwrCtlStandby (woken : Bool) (s : State) : Host.Outcome State Fault Refusal := .next (ctlStandby woken s)

/-- R349, R460: the ports of an octet start from EMPTY. -/
def octetEmpty (s : State) (d o : Nat) : State :=
  (octetPorts (getDie s d) o).foldl (fun s l =>
    let s1 := stopLanes (portLeave s d l) d l
    setPortSt (updPort s1 d l (fun p =>
      { portReset with
        pmc := p.pmc, t1 := p.t1, pdrop := p.pdrop, gate := p.gate, staged := p.staged, shTok := p.shTok, polTok := p.polTok })) d l 1) s

def octetsEmpty (s : State) : State :=
  foldUpto (ndies s.variant) s (fun s d => if dieLives s d then foldUpto 12 s (fun s o => octetEmpty s d o) else s)

/-- R459, R460: a core whose rail is off holds nothing; its counters are kept. -/
def corePowerLost (c : Nat) (k : Core) : Core :=
  { coreReset c with
    phys := k.phys, retired := k.retired, c2 := k.c2, fenced := k.fenced, testing := k.testing, jobs := k.jobs, rep0 := k.rep0, rep1 := k.rep1,
    accStatus := k.accStatus, vecStatus := k.vecStatus, pmc := k.pmc }

/-- R459: an accepted Standby request completes: transmitters, fast clocks, self-refresh, enables; one that met a wake ends it. -/
def standbyDone (s : State) : State :=
  if !regsUp s || !s.power.entering then s
  else if s.phase == .standby then { s with power := { s.power with entering := false, coreEn := false, laneEn := false, enAt := none } }
  else
    let s1 := octetsEmpty { s with phase := .standby }
    let s2 := foldUpto (ndies s.variant) s1 (fun s d => updDie s d (fun x => { x with
      stk := { x.stk with selfRef := true }, engAwake := [], cores := x.cores.map (fun (c, k) => (c, corePowerLost c k)) }))
    { s2 with power := { s2.power with entering := false, coreEn := false, laneEn := false, enAt := none } }

/-- R459: STANDBY_ENTRY_COMPLETE. -/
def execStandbyEntryComplete (s : State) : Host.Outcome State Fault Refusal := .next (standbyDone s)

/-- R460: the package leaves Standby, or cancels its entry. -/
def leaveStandby (s : State) : State :=
  if s.phase == .up then { s with power := { s.power with entering := false } }
  else { s with power := { s.power with entering := false, coreEn := true, laneEn := true, enAt := if s.power.coreEn then s.power.enAt else some s.now } }

/-- R460: a write of 2 to PWR_CTL.TARGET, with WAKE_EN. -/
def ctlReady (woken : Bool) (s : State) : State :=
  if !regsUp s || !linkReaches s 0 then s else leaveStandby (setTarget (wakeEnWrite s woken) 2)

/-- R460: PWR_CTL_READY. -/
def execPwrCtlReady (woken : Bool) (s : State) : Host.Outcome State Fault Refusal := .next (ctlReady woken s)

/-- R460: WAKE_N has been low for 1 µs. -/
def wakeN (s : State) : State :=
  if regsUp s && (s.phase == .standby || s.power.entering) && bit (regWord (getDie s 0) rPWR_CTL) 2 then leaveStandby s else s

/-- R460: WAKE_N_ASSERT. -/
def execWakeNAssert (s : State) : Host.Outcome State Fault Refusal := .next (wakeN s)

/-- R460: the re-enabled rails have reached range: the package is in Ready, and every port starts from EMPTY. -/
def railsIn (s : State) : State :=
  if s.phase != .standby || !s.power.coreEn then s
  else
    octetsEmpty (foldUpto (ndies s.variant) { s with phase := .up } (fun s d =>
      updDie s d (fun x => { x with stk := { x.stk with selfRef := decide (x.flt ≠ 0) } })))

/-- R460: CORE_RAILS_IN_RANGE. -/
def execCoreRailsInRange (s : State) : Host.Outcome State Fault Refusal := .next (railsIn s)

/-! Resets and power (R438, R454, R455, R505) -/

/-- R418, R455: a die as a package reset leaves it: only the stack's contents remain, unless VDD_STK was off. -/
def dieAfterReset (s : State) (d : Nat) (x : Die) : Die :=
  let r := dieReset s.variant d
  if s.power.stkOff then r else { r with stk := { r.stk with cells := x.stk.cells, pois := x.stk.pois, latent := x.stk.latent, bad := x.stk.bad } }

/-- R455, R507: a package reset. -/
def packageReset (s : State) : State :=
  { State.reset with
    variant := s.variant, phase := .booting, pending := s.pending, out := s.out, fresh := s.fresh, now := s.now, keep := s.keep
    test := { s.test with ir := 0x01 }
    dies := s.dies.map (fun (d, x) => (d, dieAfterReset s d x))
    power := { powerReset with throt := s.power.throt, stkOff := s.power.stkOff, enAt := s.power.enAt } }

/-- R454: a reset input that has been low for 10 µs is released, low saying that the other one is low: the reset takes effect at the release of the
later one. -/
def resetRelease (s : State) (low : Bool) (wait : Power → Power) : State :=
  if s.phase == .off || s.phase == .safe then s
  else if low then { s with power := wait s.power } else packageReset s

/-- R454: PORST_N_RELEASE; low: SYSRST_N is low. -/
def porstRelease (low : Bool) (s : State) : State := resetRelease s low (fun p => { p with porst := false, sysrst := true })

def execPorstNRelease (low : Bool) (s : State) : Host.Outcome State Fault Refusal := .next (porstRelease low s)

/-- R454: SYSRST_N_RELEASE; low: PORST_N is low. -/
def sysrstRelease (low : Bool) (s : State) : State := resetRelease s low (fun p => { p with porst := true, sysrst := false })

def execSysrstNRelease (low : Bool) (s : State) : Host.Outcome State Fault Refusal := .next (sysrstRelease low s)

/-- R438, R451: the package is Off: nothing runs, its outputs are high-impedance (R505), and its stacks lose their contents; the keep remains. PORST_N
is low (R451), and THROT_N what the board makes it. -/
def powerOff (s : State) : State :=
  { State.reset with
    variant := s.variant, phase := .off, pending := s.pending, out := s.out, fresh := s.fresh, now := s.now, keep := s.keep
    power := { powerReset with coreEn := false, laneEn := false, porst := true, stkOff := true, drive := false, throt := s.power.throt } }

/-- R438: POWER_OFF. -/
def execPowerOff (s : State) : Host.Outcome State Fault Refusal := .next (powerOff s)

/-- R505: power returns: the outputs leave high impedance, CORE_EN and LANE_EN go high, PORST_N still low. -/
def powerUp (s : State) : State :=
  if s.phase != .off then s
  else { s with phase := .held, power := { s.power with coreEn := true, laneEn := true, drive := true, enAt := some s.now } }

/-- R505: POWER_UP. -/
def execPowerUp (s : State) : Host.Outcome State Fault Refusal := .next (powerUp s)

end Sys2Proof.Machine
end

