-- ==== Sys2Proof/Machine/TestAccess.lean ====
section
/-! DEFINITION. File 19, R507 to R509: the test access port. -/

namespace Sys2Proof.Machine

/-- R508. -/
def idcode (v : Variant) : Nat := match v with | .tx8 => 0x178085CB | .tx4 => 0x178045CB | .tx2 => 0x178025CB

/-! The boundary register (R508): cell 0 is nearest TDI. -/

/-- R508: whether a die has an Itgil link, and whether it has the management lane. -/
def itgCells (v : Variant) (d : Nat) : Nat := if d = 0 ∨ (v = .tx8 ∧ d = 7) then 64 else 0
def mgmtCells (d : Nat) : Nat := if d = 0 then 4 else 0

/-- R508: the cells of a die's segment: 96 lanes, 72 cage wires, its Itgil and management lanes. -/
def segLen (v : Variant) (d : Nat) : Nat := 96 * 4 + 72 * 2 + itgCells v d + mgmtCells d

/-- R508: where a die's segment begins: after the 12 package cells and the segments of the dies before it. -/
def segAt (v : Variant) (d : Nat) : Nat := foldUpto d 12 (fun n e => n + segLen v e)

/-- R508: cells of the boundary register. -/
def boundaryLen (v : Variant) : Nat := segAt v (ndies v)

/-- R508: cell k of lane i of a die: 0 transmit data, 1 transmit enable, 2 received P, 3 received N. -/
def laneCell (v : Variant) (d i k : Nat) : Nat := segAt v d + 4 * i + k

/-- R508: cell k of cage wire i of a die: 0 data, 1 enable. -/
def cageCell (v : Variant) (d i k : Nat) : Nat := segAt v d + 96 * 4 + 2 * i + k

/-- R508: cell k of Itgil lane i of a die (lane 16: the management lane), as for a lane. -/
def itgCell (v : Variant) (d i k : Nat) : Nat := segAt v d + 96 * 4 + 72 * 2 + (if i < 16 then 4 * i else itgCells v d) + k

/-- R508, R509: the transmit outputs that the boundary register drives in EXTEST and CLAMP: of each enabled lane (die × 96 + lane) its data. -/
def drivenLanes (s : State) : List (Nat × Bool) :=
  ((upto (96 * ndies s.variant)).filter (fun i => s.test.cells.testBit (laneCell s.variant (i / 96) (i % 96) 1))).map
    (fun i => (i, s.test.cells.testBit (laneCell s.variant (i / 96) (i % 96) 0)))

/-! Instructions (R507, R509) -/

/-- R509: whether a reset input is held low. -/
def resetHeld (s : State) : Bool := s.phase == .held || s.power.porst || s.power.sysrst

/-- R454, R509: the reset inputs as the fixture finds them: bit 0 of low says that PORST_N is low, bit 1 that SYSRST_N is. -/
def inputsLow (s : State) (low : Nat) : State :=
  { s with power := { s.power with porst := s.power.porst || low.testBit 0, sysrst := s.power.sysrst || low.testBit 1 } }

/-- Table 19-7: the instruction that an 8-bit code selects. -/
def irOf (code : Nat) : Nat := if 1 ≤ code ∧ code ≤ 7 then code else 0xFF

/-- R507, R509: an instruction is loaded: the port is dead without power; in the safe state every other than IDCODE acts as BYPASS. -/
def loadIr (s : State) (ir : Nat) : State :=
  if s.phase == .off then s else { s with test := { s.test with ir := if s.phase == .safe && ir != 0x01 then 0xFF else ir } }

/-- The boundary register is scanned: what it captured leaves, v enters; bit j of either is cell j's. -/
def scanCells (s : State) (pins v : Nat) : State :=
  let n := 2 ^ boundaryLen s.variant
  emit { s with test := { s.test with cells := v % n } } (.test (pins % n))

/-- R507: TEST_LOGIC_RESET. -/
def execTestLogicReset (s : State) : Host.Outcome State Fault Refusal := .next (loadIr s 0x01)

/-- R507, R508: IDCODE: the code is read. -/
def execIdcode (s : State) : Host.Outcome State Fault Refusal :=
  .next (if s.phase == .off then s else emit (loadIr s 0x01) (.test (idcode s.variant)))

/-- R507: SAMPLE/PRELOAD: the pins are sampled and read, and the register preloaded with v. -/
def execSamplePreload (pins v : Nat) (s : State) : Host.Outcome State Fault Refusal :=
  .next (if s.phase == .off || s.phase == .safe then loadIr s 0x02 else scanCells (loadIr s 0x02) pins v)

/-- R509: a boundary instruction is loaded: effective while a reset is held, else as BYPASS. -/
def loadHeld (s : State) (ir : Nat) : State := loadIr s (if resetHeld s then ir else 0xFF)

/-- R509: a boundary test. -/
def boundaryTest (ir pins v low : Nat) (s0 : State) : State :=
  let s := inputsLow s0 low
  if s.phase != .off && s.phase != .safe && resetHeld s then scanCells (loadHeld s ir) pins v else loadHeld s ir

/-- R509: EXTEST. -/
def execExtest (pins v low : Nat) (s : State) : Host.Outcome State Fault Refusal := .next (boundaryTest 0x03 pins v low s)

/-- R509: EXTEST_PULSE. -/
def execExtestPulse (pins v low : Nat) (s : State) : Host.Outcome State Fault Refusal := .next (boundaryTest 0x04 pins v low s)

/-- R509: EXTEST_TRAIN. -/
def execExtestTrain (pins v low : Nat) (s : State) : Host.Outcome State Fault Refusal := .next (boundaryTest 0x05 pins v low s)

/-- R509: HIGHZ: the outputs are high-impedance while a reset is held. -/
def execHighz (low : Nat) (s : State) : Host.Outcome State Fault Refusal := .next (loadHeld (inputsLow s low) 0x06)

/-- R509: CLAMP: the outputs keep what the register's cells give them while a reset is held. -/
def execClamp (low : Nat) (s : State) : Host.Outcome State Fault Refusal := .next (loadHeld (inputsLow s low) 0x07)

/-- R507: BYPASS: by 0xFF and every code that names no other instruction. -/
def execBypass (code : Nat) (s : State) : Host.Outcome State Fault Refusal := .next (if irOf (code % 256) = 0xFF then loadIr s 0xFF else s)

end Sys2Proof.Machine
end

