-- ==== Sys2Proof/Machine/Boot.lean ====
section
/-! DEFINITION. Files 16 and 17: start-up: firmware verification, the repair record, boot checks, the end of the boot (R441, R466, R467,
R472 to R476, R484). -/

namespace Sys2Proof.Machine

/-! The repair record at boot (R441, Table 15-7) -/

/-- R9, R441: a physical core stands in for logical core c, or c is retired. -/
def recordCore (x : Die) (e : RepEntry) : Die :=
  let x1 := { x with physBad := sadd x.physBad (coreOf x e.unit).phys }
  if e.kind = 1 then
    { x1 with physUsed := sadd x1.physUsed e.spare, cores := tset x1.cores e.unit { coreOf x1 e.unit with phys := e.spare, rep0 := repReset, rep1 := repReset } }
  else { x1 with cores := tset x1.cores e.unit { coreOf x1 e.unit with retired := true } }

/-- R69: a remapped column. -/
def recordColumn (k : Core) (site : Nat) : Core :=
  let put (r : ArrRepair) : ArrRepair := { r with failed := site / 32, used := true }
  if site % 32 = 0 then { k with rep0 := put k.rep0 } else { k with rep1 := put k.rep1 }

/-- R19: a wire or group of a bridge, in the record. -/
def recordBridge (r : Bridge) (e : RepEntry) : Bridge :=
  if e.kind = 9 then { r with spares := tset r.spares (e.site / 64) 1 } else { r with groups := r.groups - 1, spares := tset r.spares e.site 2 }

/-- R441: one entry applied to its die. Entries of kind 16 act where a port trains (R442). -/
def recordDie (x : Die) (e : RepEntry) : Die :=
  let up (t : Tbl Nat) (k : Nat) : Tbl Nat := tset t k (tget t k 0 + 1)
  match e.kind with
  | 1 | 2 => recordCore x e
  | 3 => { x with cores := tset x.cores e.unit (recordColumn (coreOf x e.unit) e.site) }
  | 4 => { x with memRows := up x.memRows (4096 * (coreOf x e.unit).phys + e.site / 65536) }
  | 5 => { x with gnd := { x.gnd with rows := up x.gnd.rows e.unit } }
  | 6 => { x with gnd := retireBank x.gnd e.unit }
  | 7 => { x with pbRows := up x.pbRows e.unit }
  | 8 => { x with pbOut := (Config.rowBuffers e.die e.unit e.site).foldl sadd x.pbOut, pbLost := satInc 0xFF x.pbLost }
  | 9 | 10 => { x with brs := tset x.brs e.unit (recordBridge (bridgeOf x e.unit) e) }
  | 11 => { x with stk := { x.stk with rows := up x.stk.rows e.unit } }
  | 12 => { x with stk := { x.stk with cols := up x.stk.cols e.unit } }
  | 13 => { x with stk := { x.stk with spareCh := some e.unit } }
  | 14 => { x with stk := { x.stk with retired := some e.unit } }
  | 15 =>
    match e.unit / 256 with
    | 2 => { x with engFenced := sadd x.engFenced (e.unit % 256) }
    | 3 => { x with pipeFenced := sadd x.pipeFenced (e.unit % 256) }
    | _ => { x with moverFenced := sadd x.moverFenced (e.unit % 256) }
  | _ => x

/-- R19, R444: what the applied entries of a die amount to: a failed bridge, fenced compute. -/
def recordAfter (s : State) (d : Nat) : State :=
  let s1 := fenceCompute s d
  foldUpto 4 s1 (fun s b =>
    let r := bridgeOf (getDie s d) b
    if r.groups < 4 && !r.failed then bridgeFailed s d b else s)

/-- R441: the whole record, applied. -/
def applyRecord (s : State) : State :=
  let s1 := s.keep.record.foldl (fun s e => if e.die < ndies s.variant then updDie s e.die (fun x => recordDie x e) else s) s
  foldUpto (ndies s.variant) s1 recordAfter

/-! Firmware verification (R472 to R476) -/

/-! Images (R471, R472) -/

/-- Table 17-2: whether an image's fields keep step 1 of R472; len is the LEN of its descriptor. -/
def imageFields (bs : List Byte) (len : Nat) : Bool :=
  let f (o n : Nat) : Nat := leNat ((bs.drop o).take n)
  let code := f 8 4
  f 0 2 == 1 && f 2 2 == 0 && f 5 3 == 0 && f 12 4 == 0 && f 64 192 == 0 && f 688 16 == 0 && f 17312 96 == 0
    && decide (1 ≤ code) && decide (code ≤ 8371200) && len == 17408 + code

/-- R472, Table 17-6: why steps 1 to 5 refuse an image. -/
def imageFault (bs : List Byte) (len : Nat) : Option Nat :=
  if !imageFields bs len then some 0x43
  else if !imageSigned bs then some 0x40
  else if sha384 ((bs.drop 17408).take (leNat ((bs.drop 8).take 4))) != (bs.drop 16).take 48 then some 0x41
  else none

/-- R472: the slot that holds an accepted image; its flag is set at the commit (R481). -/
def imageSlot (bs : List Byte) : FwSlot := { valid := false, svn := leNat ((bs.drop 4).take 1), meas := sha384 (bs.take 256), image := bs }

/-- R480: the tags of the first n cells of the anti-rollback counter: over a cell's index, as one byte (log entry 26). -/
def arbTags (seed n : Nat) : List (List Byte) :=
  let key := hmac384 (toLe 48 seed) (ascii "ARB")
  (upto n).map (fun i => hmac384 key (toLe 1 i))

/-- R472, R480: whether the counter's record authenticates under a seed. -/
def arbHolds (k : Keep) (seed : Nat) : Bool := k.tags == arbTags seed k.arb

/-- R472: why a slot fails, or none. st is what steps 1 to 5 find (0, or their status of Table 17-6) of an image that the factory wrote, whose bytes
the model does not hold (log entry 7); of a staged one they follow from its bytes. arbOk: whether the counter's record authenticates. A slot whose
valid flag is clear is not tried: the spec gives it no status (log entry 16). -/
def slotFails (s : State) (b st : Nat) (arbOk : Bool) : Option Nat :=
  let f := if b = 0 then s.keep.a else s.keep.b
  let why := if f.image.isEmpty then (if st = 0 then none else some st) else imageFault f.image f.image.length
  if !f.valid then some (Config.openStatus 9 b % 2 ^ 16)
  else if why.isSome then why
  else if f.svn < s.keep.arb ∨ !arbOk then some 0x42
  else none

/-- R473: the booted slot, whether it is the fallback, and the preferred slot's failing status. -/
def pickSlot (s : State) (stA stB : Nat) (arbOk : Bool) : Option (Nat × Bool × Nat) :=
  let p := if s.keep.pref = 0 then 0 else 1
  let st (b : Nat) : Nat := if b = 0 then stA else stB
  match slotFails s p (st p) arbOk with
  | none => some (p, false, 0)
  | some why => if (slotFails s (1 - p) (st (1 - p)) arbOk).isNone then some (1 - p, true, why) else none

/-- R473 to R476, R466: the boot ROMs verify their firmware. ids are the dies whose stewards rebuild the identity, of which the lowest that is
not fenced leads (R20); bad those whose stewards cannot
verify the booted slot; stA and stB what steps 1 to 5 of R472 find of each slot on the lead steward. -/
def firmwareVerify (ids bad : List Nat) (stA stB : Nat) (s : State) : State :=
  let seed := Config.seedOf s.keep.ident
  let all := upto (ndies s.variant)
  let have' := all.filter (fun d => ids.contains d && decide ((getDie s d).flt < 2))
  if s.phase != .booting || s.boot.verified then s
  else
    match have', pickSlot s stA stB (arbHolds s.keep seed && !have'.isEmpty) with
    | lead :: _, some (b, fb, why) =>
      let f := if b = 0 then s.keep.a else s.keep.b
      let lost := all.filter (fun d => bad.contains d && d != lead)
      let s1 := { s with
        lead := lead
        boot := { s.boot with
          verified := true, slot := b, fallback := fb, failing := why, ids := have'
          noIds := all.filter (fun d => !have'.contains d && !lost.contains d)
          fenced := lost, uid := uidOf seed, seed := some seed, svn := f.svn, meas := f.meas }
        power := { s.power with alive := true, aliveAt := s.now } }
      applyRecord (lost.foldl (fun s d => dieFault s d 0x33) s1)
    | _, _ => packageFault s 0x43

/-- R473: FIRMWARE_VERIFY. -/
def execFirmwareVerify (ids bad : List Nat) (stA stB : Nat) (s : State) : Host.Outcome State Fault Refusal :=
  .next (firmwareVerify ids bad stA stB s)

/-- R474, R475, R484: the FIRMWARE events of the boot, posted once the event ring is enabled. -/
def bootEvents (s : State) : State :=
  let b := s.boot
  if b.told || !b.booted then s
  else
    let s1 := { s with boot := { b with told := true } }
    let s2 := if b.fallback then postEvent s1 0x12 0xFF 1 b.slot b.failing 0 else s1
    let s3 := b.fenced.foldl (fun s d => postEvent s 0x12 d 2 d 0 0) s2
    b.noIds.foldl (fun s d => postEvent s 0x12 d 4 d 0 0) s3

/-! Boot checks, stacks, the end of start-up (R418, R466, R467) -/

/-- R467: one failure that the checks found: repaired with a spare and recorded, or the unit fenced. -/
def bootFinding (d : Nat) (s : State) (f : BootFind) : State :=
  match f with
  | .gndRow b r => failGndRow s d (b % 256) (r % 1024) []
  | .bufRow b r => failBufRow s d b r
  | .coreRow c b r => if c < 150 then (failMemRow s d c (b % 4096) r).2 else s
  | .column c a f => if c < 150 ∧ a < 2 ∧ f ≤ 32 then (failColumn s d c a f).2 else s
  | .core c => if c < 150 then (substitute s d c).2 else s
  | .engine u => engineStruck s d u
  | .pipe u => pipeStruck s d u
  | .mover u => moverStruck s d u 0
  | .slice => dieFault s d 0x34

/-- R467: a die's checks are complete: every memory it tested is zero. -/
def checksComplete (d : Nat) (found : List BootFind) (s : State) : State :=
  if s.phase != .booting || !s.boot.verified || ndies s.variant ≤ d || s.boot.checked.contains d || (getDie s d).flt = 2 then s
  else
    let s1 := found.foldl (bootFinding d) { s with boot := { s.boot with checked := sadd s.boot.checked d } }
    updDie s1 d (fun x => { x with
      gnd := { x.gnd with cells := [], pois := [], latent := [], bad := [] }
      cores := x.cores.map (fun (c, k) => (c, { k with image := none, scratch := [], acc := [] })) })

/-- R467: BOOT_CHECKS_COMPLETE. -/
def execBootChecksComplete (d : Nat) (found : List BootFind) (s : State) : Host.Outcome State Fault Refusal := .next (checksComplete d found s)

/-- Whether a die takes part in the rest of the boot. -/
def bootDie (s : State) (d : Nat) : Bool := decide (d < ndies s.variant) && decide ((getDie s d).flt < 2)

/-- R418: a stack that lost its rails is zero and serves. -/
def zeroFilled (d : Nat) (s : State) : State :=
  if s.phase != .booting || !s.power.stkOff || !bootDie s d || (getDie s d).stk.ready then s
  else updDie s d (fun x => { x with stk := { x.stk with cells := [], pois := [], latent := [], bad := [], ready := true } })

/-- R418: STACK_ZERO_FILL_COMPLETE. -/
def execStackZeroFillComplete (d : Nat) (s : State) : Host.Outcome State Fault Refusal := .next (zeroFilled d s)

/-- R466: whether steps 1 to 5 are done on every die that is not fenced. -/
def bootReady (s : State) : Bool :=
  s.boot.verified && (upto (ndies s.variant)).all (fun d =>
    !bootDie s d || (s.boot.checked.contains d && (!s.power.stkOff || (getDie s d).stk.ready)))

/-- Table 16-5, R328: every lane shows its starting coefficients. -/
def lanesStart (s : State) (d : Nat) : State :=
  updDie s d (fun x => { x with lanes := (upto 96).map (fun i =>
    let (c, pr) := startCoeffs s d i
    (i, { laneOf x i with preset := pr, cm1 := c.1, c0 := c.2.1, cp1 := c.2.2 })) })

/-- R466, R468: the end of start-up. width0 and width1 are the lanes in use of the Itgil links, 0 where a link did not train. The paths avoid the dies
fenced at boot (R16) and a TX2's bridge that failed (R19). -/
def bootComplete (width0 width1 : Nat) (s : State) : State :=
  let w1 := if s.variant == .tx8 then width1 else 0
  let up0 := decide (0 < width0) && decide (width0 ≤ 16) && (getDie s 0).flt == 0
  let up1 := decide (0 < w1) && decide (w1 ≤ 16) && (getDie s 7).flt == 0
  if s.phase != .booting || !bootReady s then s
  else if !up0 && !up1 then packageFault s 0x45
  else
    let fenced := (upto (ndies s.variant)).filter (fun d => (getDie s d).flt == 2)
    let s1 := foldUpto (ndies s.variant) s (fun s d => lanesStart (updDie s d (fun x => { x with stk := { x.stk with ready := true } })) d)
    { s1 with
      phase := .up
      boot := { s.boot with booted := true }
      itgActive := if up0 then 0 else 1
      itgUp := (if up0 then [0] else []) ++ (if up1 then [1] else [])
      itgLost := false
      itgWait := []
      itgWidth := [(0, if up0 then width0 else 0), (1, if up1 then w1 else 0)]
      tabs := { s.tabs with avoid := fenced ++ s.stagedTabs.avoid.filter (fun a => decide (100 ≤ a)) }
      stagedTabs := { s.stagedTabs with avoid := fenced ++ s.stagedTabs.avoid.filter (fun a => decide (100 ≤ a)) }
      power := { s.power with stkOff := false } }

/-- R466: BOOT_COMPLETE. -/
def execBootComplete (width0 width1 : Nat) (s : State) : Host.Outcome State Fault Refusal := .next (bootComplete width0 width1 s)

end Sys2Proof.Machine
end

