-- ==== Sys2Proof/Machine/Views.lean ====
section
/-! DEFINITION. What each register of a die's window reads (Table 12-1 and the register tables of the chapters). -/

namespace Sys2Proof.Machine

/-- A sum of a table's values. -/
def tsum (t : Tbl Nat) : Nat := (t.map (·.2)).foldl (· + ·) 0

/-- Tables 6-14 to 6-17. -/
def viewGnd (x : Die) (o : Nat) : Nat :=
  let g := x.gnd
  if o = 0 then (256 - g.retired.length) + (gndCap x / 0x100000) <<< 9
  else if o = 8 then g.ce % 0x10000 + (g.ue % 0x100) <<< 16
  else if o = 4 ∨ (0x40 ≤ o ∧ o < 0x80) then (regWord x (oGND + o)).toNat
  else 0

/-- Tables 6-18, 6-19: the engines in service by kind. -/
def viewEng (x : Die) (o : Nat) : Nat :=
  let n (us : List Nat) : Nat := (us.filter (fun u => !x.engFenced.contains u)).length
  if o = 0 then
    n [0] + n [1] <<< 4 + n [2, 3] <<< 8 + n [4] <<< 12 + (4 - x.moverFenced.length) <<< 16 + 8 <<< 20
  else if o = 8 ∨ o = 0xC then (regWord x (oENG + o)).toNat
  else 0

/-- Tables 7-10 to 7-14. -/
def viewColl (s : State) (d : Nat) (x : Die) (o : Nat) : Nat :=
  match o with
  | 0x00 => 0x800 + 0x100 <<< 12 + 0x10 <<< 21
  | 0x04 => ctxEntries s d % 2 ^ 12 + (cdiv (collUsed s d) 1024 % 2 ^ 17) <<< 12
  | 0x08 => (s.ctxs.filter (fun c => !c.opened)).length % 2 ^ 12
  | 0x0C => dieCnt x nNOT_OPEN + dieCnt x nNOSLOT <<< 8 + dieCnt x nEARLY <<< 16 + dieCnt x nCHUNK_CRC <<< 24
  | 0x10 => dieCnt x nCOLLDUP
  | _ => 0

/-- Table 9-11: a shape's lengths and WRAP. -/
def shapeWord (h : Shape) : Nat := h.lx + h.ly <<< 5 + h.lz <<< 10 + h.wrap <<< 15

/-- Tables 8-16 to 8-21, 9-10 to 9-16. -/
def viewFab (s : State) (x : Die) (o : Nat) : Nat :=
  match o with
  | 0x00 | 0x04 | 0x20 | 0x24 => (regWord x (oFAB + o)).toNat
  | 0x08 => dieCnt x nCRC + dieCnt x nLIFE <<< 8 + dieCnt x nSPOOF <<< 16 + dieCnt x nWINDOW <<< 24
  | 0x0C => dieCnt x nBADADDR + dieCnt x nNOFIN <<< 8 + dieCnt x nMSGERR <<< 16 + dieCnt x nKIND <<< 24
  | 0x10 => dieCnt x nDUP
  | 0x14 => 0x120
  | 0x18 => match s.tabs.shape with | some h => h.x + h.y <<< 5 + h.z <<< 10 + 1 <<< 15 | none => 0
  | 0x1C => match s.tabs.shape with | some h => shapeWord h | none => 0
  | 0x28 => ((upto 6).map (fun g => if (warmOf s g).warming then 2 ^ g else 0)).foldl (· + ·) 0
  | 0x2C => s.drain.stage + (s.drain.epoch % 2 ^ 16) <<< 16
  | 0x30 => inflight s % 2 ^ 24
  | 0x34 => dieCnt x nDOWN + dieCnt x nNOROUTE <<< 16
  | _ => 0

/-- Table 10-18: SW_GATE. -/
def gateWord (x : Die) (p : Port) : Nat :=
  (match p.gate with | some g => (gateAt g (x.clock >>> 32)).1 + 1 <<< 9 | none => 0) + (if p.staged.isSome then 1 <<< 10 else 0)

/-- Tables 10-10 to 10-18: a port's registers lie at 0x1000 + 0x100 × its index. -/
def viewSw (x : Die) (o : Nat) : Nat :=
  if o = 0 then 0x60 + 0x10 <<< 8 + 0x100 <<< 13
  else if o = 4 ∨ o = 8 then (regWord x (oSW + o)).toNat
  else if o < 0x1000 ∨ 0x7000 ≤ o then 0
  else
    let l := (o - 0x1000) / 0x100
    let p := o % 0x100
    if p = 0xC8 then (portOf x l).pdrop
    else if p = 0xCC then gateWord x (portOf x l)
    else if p < 0x14 ∨ (0x20 ≤ p ∧ p < 0xC8) then (regWord x (oSW + o)).toNat
    else 0

/-- Tables 10-19 to 10-21: withdrawn buffers are in no pool (R442). -/
def viewBpm (x : Die) (o : Nat) : Nat :=
  if o < 0xC then poolSize (o / 4) - (x.pbOut.filter (fun h => h % 4 == o / 4)).length
  else if o < 0x18 then poolFree x ((o - 0xC) / 4)
  else if 0x40 ≤ o ∧ o < 0x78 then (regWord x (oBPM + o)).toNat
  else if o = 0x80 then dieCnt x nDFREE
  else if o = 0x84 then dieCnt x nNOADM
  else 0

/-- Table 11-19: PORT_NBR. -/
def nbrWord (h : Hello) : Nat :=
  h.port + h.dir <<< 10 + (h.role % 4) <<< 13 + b2n h.cvalid <<< 15 + h.x <<< 16 + h.y <<< 21 + h.z <<< 26

/-- Tables 11-16 to 11-20: an index that starts no port reads zero. The tables give PORT_STATE64 to 95 and PORT_NBR0 to 31 the same offsets (0x200 to
0x27C): PORT_STATE is read there (DESIGN CHOICE, log entry 48). -/
def viewPort (x : Die) (o : Nat) : Nat :=
  let at' (l : Nat) (f : Port → Nat) : Nat := if (portWidth x l).isSome then f (portOf x l) else 0
  let far (p : Port) (f : Hello → Nat) : Nat := match p.far with | some h => f h | none => 0
  if o = 0 ∨ (0x40 ≤ o ∧ o < 0x70) then (regWord x (oPORT + o)).toNat
  else if 0x100 ≤ o ∧ o < 0x280 then at' ((o - 0x100) / 4) portStateWord
  else if 0x280 ≤ o ∧ o < 0x380 then at' ((o - 0x200) / 4) (fun p => far p nbrWord)
  else if 0x400 ≤ o ∧ o < 0x700 then
    at' ((o - 0x400) / 8) (fun p => far p (fun h => if o % 8 = 0 then h.uid % 2 ^ 32 else h.uid / 2 ^ 32 % 2 ^ 32))
  else 0

/-- Tables 11-21 to 11-23. -/
def viewLane (x : Die) (o : Nat) : Nat :=
  let i := o / 0x20
  let n := laneOf x i
  if 96 ≤ i then 0
  else
    match o % 0x20 with
    | 0x00 => (regWord x (oLANE + o)).toNat
    | 0x04 => laneStatWord n
    | 0x08 => n.fecc
    | 0x0C => n.fecu
    | 0x10 => n.prbse
    | 0x14 => n.cm1 + n.c0 <<< 5 + n.cp1 <<< 12
    | _ => 0

/-- Tables 11-24, 11-25. -/
def viewCage (x : Die) (o : Nat) : Nat :=
  if 12 ≤ o / 0x10 then 0
  else
    match o % 0x10 with
    | 0 => (regWord x (oCAGE + o)).toNat
    | 4 => cageStatWord x (o / 0x10)
    | _ => 0

/-- Table 13-8: TIME_STAT. -/
def timeStatWord (s : State) : Nat :=
  s.time.st + b2n (timeValid s) <<< 2 + b2n (timeRootValid s) <<< 3 + (min 0x3F (timeHops s)) <<< 4 + b2n (isRoot s) <<< 10

/-- A signed number as a saturated 32-bit word. -/
def sat32 (k : Int) : Nat := ((max (-(2 ^ 31)) (min (2 ^ 31 - 1) k)) % 2 ^ 32).toNat

/-- Table 13-8, R405: all but TIME_STAT and the counter are on die 0 only. -/
def viewTime (s : State) (d : Nat) (o : Nat) : Nat :=
  let t := s.time
  if o = 4 then timeStatWord s
  else if d ≠ 0 then 0
  else
    match o with
    | 0x00 | 0x14 | 0x18 | 0x20 | 0x28 => (regWord (getDie s 0) (oTIME + o)).toNat
    | 0x10 => sat32 t.offset
    | 0x1C => t.ptpDrop
    | 0x24 => t.logIdx % 2 ^ 32
    | 0x2C => t.lsMatch + t.lsMis <<< 16 + t.lsOrph <<< 24
    | _ => 0

/-- Table 13-9: KNOT_STATE: of a barrier the arrivals counted into its current generation. -/
def knotStateWord (n : Knot) : Nat := if fld n.cfg 1 0 = 2 then n.count else n.gen + min n.arrivals (fld n.cfg 14 2) <<< 16

/-- Table 13-9, R406: knots from 256 upward read the same on every die. -/
def viewKnot (s : State) (d : Nat) (x : Die) (o : Nat) : Nat :=
  if o = 0x2000 then dieCnt x nKBAD + dieCnt x nKLATE <<< 8 + dieCnt x nKSAT <<< 16 + dieCnt x nKUNTIMED <<< 24
  else if 352 * 16 ≤ o then 0
  else
    let n := getKnot s d (o / 16)
    match o % 16 with
    | 0 => n.cfg.toNat
    | 4 => n.time.toNat
    | 8 => if o / 16 < 320 then 0 else n.fab.toNat
    | _ => knotStateWord n

/-- Tables 14-4 to 14-8. -/
def viewStk (x : Die) (o : Nat) : Nat :=
  let k := x.stk
  match o with
  | 0x00 => if k.retired.isSome then 0x3E + 0x1F <<< 7 else 0x40 + 0x20 <<< 7
  | 0x04 => (regWord x (oSTK + 4)).toNat
  | 0x08 => k.ce + k.ue <<< 16
  | 0x0C => min 0xFF (tsum k.rows) + min 0xFF (tsum k.cols) <<< 8
      + (match k.retired with | some c => c <<< 16 + 1 <<< 21 | none => 0) + (if k.spareCh.isSome then 1 <<< 22 else 0)
  | 0x10 => k.temp + b2n k.hotref <<< 8 + b2n k.throttle <<< 9
  | _ => 0

/-- Table 15-12: FLT_DIES. -/
def fltDies (s : State) : Nat :=
  ((upto 8).map (fun d => (if d < ndies s.variant then (getDie s d).flt else 3) <<< (2 * d))).foldl (· + ·) 0

/-- Table 15-12. -/
def viewFlt (s : State) (x : Die) (o : Nat) : Nat :=
  match o with
  | 0x0 => fltDies s
  | 0x4 => x.faults.c0
  | 0x8 => x.faults.c1 + x.faults.c2 <<< 16 + x.faults.c3 <<< 24
  | 0xC => match s.keep.faultLog.getLast? with | some c => c % 256 + 256 | none => 0
  | _ => 0

/-- Table 15-13. -/
def viewRep (s : State) (d : Nat) (x : Die) (o : Nat) : Nat :=
  match o with
  | 0x0 =>
    ((upto 10).filter (fun i => !x.physUsed.contains (150 + i) && !x.physBad.contains (150 + i))).length + min 0xFF x.physBad.length <<< 8
      + (x.cores.filter (fun k => k.2.retired && decide (k.1 < 150))).length <<< 16 + b2n x.compFenced <<< 24
  | 0x4 =>
    ((upto 4).map (fun b =>
      let r := bridgeOf x b
      (if (bridgeTo s.variant d b).isNone || r.failed then 0 else r.groups) <<< (5 * b))).foldl (· + ·) 0
  | 0x8 => min 0xFFF (tsum x.gnd.rows) + min 0xFFF (tsum x.pbRows) <<< 12 + x.pbLost <<< 24
  | 0xC => min 4096 s.keep.record.length + b2n (decide (4096 ≤ s.keep.record.length)) <<< 13
  | _ => 0

/-- Whether a core or engine of the package is awake (Table 16-3). -/
def anyAwake (s : State) : Bool :=
  s.dies.any (fun x => !x.2.engAwake.isEmpty || x.2.cores.any (fun k => !k.2.asleep && decide (k.1 < 150)))

/-- Table 16-6: PWR_STAT. -/
def pwrStatWord (s : State) : Nat :=
  let ds := upto (ndies s.variant)
  let st := match s.phase with
    | .standby => 1
    | .up => if anyAwake s then 3 else 2
    | _ => 0
  st + b2n s.boot.booted <<< 2 + b2n s.power.refused <<< 3
    + b2n (bit (pwrCap s) 11 && (decide (s.power.capDuty < 16) || s.power.capLim)) <<< 4
    + b2n (ds.any (fun d => decide ((getDie s d).tduty < 16))) <<< 5 + b2n s.power.throt <<< 6
    + (ds.foldl (fun m d => min m (dieDuty s d)) 16) <<< 7

/-- Table 16-6, R469. -/
def viewPwr (s : State) (d : Nat) (x : Die) (o : Nat) : Nat :=
  match o with
  | 0x14 => x.tj + x.tjMax <<< 8 + x.tduty <<< 16
  | 0x18 => x.vset
  | _ =>
    if d ≠ 0 then 0
    else
      match o with
      | 0x00 | 0x0C => (regWord x (oPWR + o)).toNat
      | 0x04 => pwrStatWord s
      | 0x08 => (pwrCap s).toNat
      | 0x10 => s.power.watts
      | _ => 0

/-- Table 17-8. -/
def viewSec (s : State) (o : Nat) : Nat :=
  let k := s.keep
  let b := s.boot
  let svn (f : FwSlot) : Nat := if f.valid then f.svn else 0
  if o = 0 then
    b.slot + b2n b.fallback <<< 1 + (min 1 k.pref) <<< 2 + b2n k.a.valid <<< 3 + b2n k.b.valid <<< 4 + b2n (b.ids.contains s.lead) <<< 5
  else if o = 4 then b.svn + k.arb <<< 8 + svn k.a <<< 16 + svn k.b <<< 24
  else if o = 8 then b.uid % 2 ^ 32
  else if o = 0xC then b.uid / 2 ^ 32 % 2 ^ 32
  else if 0x40 ≤ o ∧ o < 0x70 then leNat ((b.meas.drop (o - 0x40)).take 4)
  else 0

/-- Tables 18-3, 18-4: the words that are no counters. -/
def viewPmc (x : Die) (o : Nat) : Nat :=
  match pmcPlace o with
  | .core c p =>
    if 150 ≤ c then 0
    else if p = 8 then (regWord x (oPMC + o)).toNat
    else if 0x10 ≤ p ∧ p < 0x30 then (pmcSel (coreOf x c).pmc ((p - 0x10) / 4)).toNat
    else 0
  | .port l p =>
    if p = 0x40 then (regWord x (oPMC + o)).toNat
    else if 8 ≤ p ∧ p < 0x18 then (ppmcSel (portOf x l).pmc ((p - 8) / 4)).toNat
    else 0
  | .none => 0

/-- Tables 3-12, 3-13: ARR_REPAIR. -/
def repairWord (r : ArrRepair) : Nat := r.failed + b2n r.used <<< 6 + b2n r.exhausted <<< 7 + r.chk <<< 8

/-- Tables 3-12, 3-13, 4-10, 4-11, 5-14, 5-17: a logical core's window. -/
def viewCore (x : Die) (o : Nat) : Nat :=
  let k := coreOf x (o / 0x4000)
  if 150 ≤ o / 0x4000 then 0
  else
    match o % 0x4000 with
    | 0x0000 => 0xD804010
    | 0x1000 => 0xFE1820
    | 0x1004 => repairWord k.rep0
    | 0x1008 => repairWord k.rep1
    | 0x2000 => 0x4B1900
    | 0x2004 => k.accStatus.toNat
    | 0x3000 => k.vecStatus.toNat
    | _ => 0

/-- R6, R357: what a register of die d reads, counters of file 18 and the time counter apart. off is a multiple of 4. -/
def dieView (s : State) (d off : Nat) : Nat :=
  let x := getDie s d
  if oCORE ≤ off then viewCore x (off - oCORE)
  else if off < 0x1000 then viewGnd x off
  else if off < 0x2000 then viewEng x (off - oENG)
  else if off < 0x3000 then viewColl s d x (off - oCOLL)
  else if off < 0x4000 then viewFab s x (off - oFAB)
  else
    match off / 0x10000 with
    | 0x1 => viewSw x (off - oSW)
    | 0x2 => viewBpm x (off - oBPM)
    | 0x3 => viewPort x (off - oPORT)
    | 0x4 => viewLane x (off - oLANE)
    | 0x5 => viewCage x (off - oCAGE)
    | 0x6 => viewTime s d (off - oTIME)
    | 0x7 => viewKnot s d x (off - oKNOT)
    | 0x8 => viewStk x (off - oSTK)
    | 0x9 => viewFlt s x (off - oFLT)
    | 0xA => viewRep s d x (off - oREP)
    | 0xB => viewPwr s d x (off - oPWR)
    | 0xC => viewSec s (off - oSEC)
    | 0xD => viewPmc x (off - oPMC)
    | _ => 0

/-- R405, R486: a companion's read of a register of die d: a low word of a counter latches its high word. -/
def dieRegRead (d off : Nat) (s : State) : Nat × State :=
  if !linkReaches s d then (0, s)
  else if off = oTIME + 8 then nowLow d s
  else if off = oTIME + 0xC then nowHigh d s
  else if off / 0x10000 = 0xD then
    match pmcLow d (off - oPMC) s with
    | some r => r
    | none =>
      match pmcHigh d (off - oPMC) s with
      | some r => r
      | none => (dieView s d off, s)
  else (dieView s d off, s)

end Sys2Proof.Machine
end

