-- ==== Sys2Proof/Machine/Firmware.lean ====
section
/-! DEFINITION. File 17: firmware descriptors, attestation reports (R471, R472, R478 to R483). -/

namespace Sys2Proof.Machine

/-- R472, Table 17-6: why an image is refused; auth says that the anti-rollback counter's record authenticates. -/
def imageRefused (bs : List Byte) (len arb : Nat) (auth : Bool) : Option Nat :=
  (imageFault bs len).orElse (fun _ => if leNat ((bs.drop 4).take 1) < arb ∨ !auth then some 0x42 else none)

/-- R480: whether the counter's record authenticates under the seed that the stewards hold. -/
def arbNow (s : State) : Bool := match s.boot.seed with | some x => arbHolds s.keep x | none => false

/-! The operations that take FWSTAGE (Table 17-5) -/

/-- Progress total of a STAGE. -/
def stageTotal (len : Nat) : Nat := cdiv len 65536 + 1

/-- R481: the 64 KiB units of an image that can be read, from the first on, up to one that cannot. -/
def unitsRead (s : State) (a len : Nat) (ext : List Host.Cell) : Nat → Nat → List Byte
  | 0, _ => []
  | f + 1, i =>
    match devRead s (linkDie s) (a + 65536 * i) (min 65536 (len - 65536 * i)) ext with
    | .ok (bs, _) => bs ++ unitsRead s a len ext f (i + 1)
    | .error _ => []

/-- Table 17-5: STAGE: its image is written to the slot, unit by unit, and checked: the status, the position and the state. -/
def stageEnd (s : State) (o : Op) (slot : Nat) (ext : List Host.Cell) : Status × Nat × State :=
  let len := dsc o.desc 20 4
  let a := dsc o.desc 24 8
  if 8 * 1024 * 1024 < len then (.fw 3, o.total, s)
  else
    match devRead s (linkDie s) a len ext with
    | .error e =>
      let bs := unitsRead s a len ext (cdiv len 65536) 0
      (e, bs.length / 65536, devSeen (setSlot s slot { keepSlot s slot with image := bs }) a len e)
    | .ok (bs, s1) =>
      match imageRefused bs len s.keep.arb (arbNow s) with
      | some c => (.fw (c - 0x40), o.total, setSlot s1 slot { keepSlot s1 slot with image := bs })
      | none => (.ok, o.total, setSlot s1 slot (imageSlot bs))

/-- Table 17-5: SELECT at its commit. -/
def selectEnd (s : State) (slot : Nat) : Status × State :=
  if (keepSlot s slot).valid then (.ok, { s with keep := { s.keep with pref := slot } }) else (.fw 5, s)

/-- Table 17-5, R480: COMMIT_SVN at its commit. -/
def commitSvn (s : State) : Status × State :=
  let n := max s.keep.arb s.boot.svn
  if 255 < n then (.fw 7, s)
  else
    let clear (f : FwSlot) : FwSlot := if f.svn < n then { f with valid := false } else f
    let s1 := { s with keep := { s.keep with arb := n, tags := arbTags (s.boot.seed.getD 0) n, a := clear s.keep.a, b := clear s.keep.b } }
    (.ok, if s.keep.arb < n then postEvent s1 0x12 0xFF 3 n 0 0 else s1)

/-- R481, R483: the FWSTAGE activity commits; failed says that a write of the keep failed its read-back. -/
def fwCommit (ext : List Host.Cell) (failed : Bool) (s : State) : State :=
  match s.hoopHold.find? (fun h => h.act == 7 && !holdOver s h) with
  | none => s
  | some h =>
    match h.op.bind (findOp s) with
    | none => s
    | some o =>
      if s.phase != .up then s
      else
        let (st, p, s1) :=
          if failed then (Status.fw 6, o.total, s)
          else if h.unit = 0 then stageEnd s o h.arg ext
          else if h.unit = 1 then ((selectEnd s h.arg).1, o.total, (selectEnd s h.arg).2)
          else ((commitSvn s).1, o.total, (commitSvn s).2)
        hoopEnd s1 h st p

/-- R370: HOOP_ACTIVITY_COMMIT of an activity (its code) of die d. found lists what its work found (FWSTAGE: not empty where a write of the keep
failed); ext gives an image's bytes outside the package. -/
def execHoopActivityCommit (act d : Nat) (found : List Nat) (ext : List Host.Cell) (s : State) : Host.Outcome State Fault Refusal :=
  .next (if act = 7 then fwCommit ext (!found.isEmpty) s else activityCommit act d found s)

/-! Attestation (R478, R479) -/

/-- R479: the offsets of a die's registers that hold an RWL field, in the order of Table 12-1. -/
def rwlOffsets (d : Nat) : List Nat :=
  let words (base n : Nat) : List Nat := (upto n).map (fun i => base + 4 * i)
  [rGND_LAYOUT] ++ words (oGND + 0x40) 16 ++ [rENG_SEED_LO, rENG_SEED_HI] ++ [rFAB_SELF, rFAB_TIMERS, rFAB_ROUTE, rFAB_VCRES]
    ++ [rSW_SAMPLE, rSW_HIST_BASE]
    ++ ((upto 96).map (fun l => words (rSW_PORT l 0) 5 ++ words (rSW_PORT l 0x20) 28 ++ words (rSW_PORT l 0x90) 14)).flatten
    ++ words (oBPM + 0x40) 14 ++ [rPORT_TIMERS] ++ words (oPORT + 0x40) 12 ++ (upto 12).map rCAGE_CFG
    ++ (if d = 0 then [rTIME_CFG, rTIME_ROOT, rTIME_PTP, rTIME_DLOG, rTIME_LSTEP] else []) ++ [rSTK_LAYOUT]
    ++ (if d = 0 then [rPWR_CTL, rPWR_IDLE] else []) ++ (upto 150).map rPMC_CCTL

/-- R371, Tables 8-8 to 8-10, 9-1, 9-2: the entries of the tables in force, as their bytes. -/
def tableBytes (v : Variant) (t : Tables) : List Byte :=
  let h := t.shape.getD { x := 0, y := 0, z := 0, lx := 0, ly := 0, lz := 0, wrap := 0 }
  let shape := [h.x, h.y, h.z, h.lx, h.ly, h.lz, h.wrap, 0].map (BitVec.ofNat 8)
  let dir (g : Nat) : List Byte :=
    let l := tget t.trunk g []
    toLe 4 l.length ++ ((upto 16).map (fun i => toLe 2 (nth l i 0))).flatten
  let win (i : Nat) : List Byte :=
    match tfind t.wins i with
    | some w => toLe 8 w.base ++ toLe 8 w.size ++ toLe 8 w.lbase ++ toLe 2 w.target ++ toLe 1 w.flags ++ toLe 5 0
    | none => List.replicate 32 0
  shape ++ ((upto 6).map dir).flatten ++ ((upto 32768).map (fun i => toLe 4 (tget t.chips i 0).toNat)).flatten
    ++ ((upto 1024).map win).flatten ++ ((upto (96 * ndies v)).map (fun i => toLe 8 (tget t.grants i 0).toNat)).flatten

/-- Table 12-16: ITG_CTL. -/
def itgCtlWord (s : State) : Nat := b2n s.itgAuto <<< 1

/-- R479: CFG_MEAS. ITG_CTL, which is no die's, follows the dies (DEDUCED). -/
def cfgMeas (s : State) : List Byte :=
  let dies := (upto (ndies s.variant)).filter (dieLives s)
  sha384 ((dies.map (fun d => ((rwlOffsets d).map (fun o => toLe 4 (dieView s d o))).flatten)).flatten ++ toLe 4 (itgCtlWord s)
    ++ tableBytes s.variant s.tabs)

/-- Table 15-7: an entry's 16 bytes. -/
def entryBytes (e : RepEntry) : List Byte :=
  toLe 1 e.kind ++ toLe 1 e.die ++ toLe 2 e.unit ++ toLe 4 e.site ++ toLe 4 e.spare ++ toLe 4 e.time

/-- R478: REP_MEAS. -/
def repMeas (s : State) : List Byte := sha384 (s.keep.record.map entryBytes).flatten

/-- Table 17-3: bytes 0 to 255 of a report. -/
def reportHead (s : State) (nonce : Nat) : List Byte :=
  let full := decide (4096 ≤ s.keep.record.length)
  let flags := b2n s.locked + b2n (timeValid s) <<< 1 + s.boot.slot <<< 2 + b2n s.boot.fallback <<< 3 + b2n full <<< 4
  toLe 2 1 ++ toLe 1 (ndies s.variant) ++ toLe 1 0xB0 ++ toLe 4 flags ++ toLe 8 s.boot.uid ++ toLe 1 s.boot.svn ++ toLe 1 s.keep.arb
    ++ toLe 6 0 ++ toLe 8 (timeNs s s.lead) ++ toLe 32 nonce ++ s.boot.meas ++ repMeas s ++ cfgMeas s ++ toLe 48 0

/-- Table 17-5, R478: ATTEST. The salt and the randomizer of the signatures are free (log entry 26). -/
def attest (s : State) (o : Op) : State :=
  if !s.boot.ids.contains s.lead then complete s o (.fw 8) 0
  else
    let (k, s1) := draw s
    let head := reportHead s (dsc o.desc 32 32)
    let sig := reportSigs (s.boot.seed.getD 0) head ((upto 48).map (Config.signRandom k)) ((upto 24).map (fun i => Config.signRandom k (48 + i)))
    match devWrite s1 (linkDie s1) 12 o.id (dsc o.desc 24 8) (head ++ sig) with
    | .error e => complete s1 o e 0
    | .ok s2 => finishWrites s2 o .ok 1

/-- Table 17-5: READ_CERT. -/
def readCert (s : State) (o : Op) : State :=
  let cert := nth s.keep.certs (dsc o.desc 17 1) []
  if dsc o.desc 20 4 < cert.length then complete s o (.fw 9) 0
  else
    match devWrite s (linkDie s) 12 o.id (dsc o.desc 24 8) cert with
    | .error e => complete s o e 0
    | .ok s1 => finishWrites s1 o .ok 1

/-! The descriptor (R481) -/

/-- Table 17-4: whether a firmware descriptor's fields are in range. -/
def fwFields (desc : Word512) : Bool :=
  let f := dsc desc
  let op := f 16 1
  let slot := f 17 1
  decide (op < 5) && f 18 2 == 0
    && (if op = 0 ∨ op = 1 ∨ op = 4 then decide (slot < 2) else slot == 0)
    && (op == 0 || op == 4 || f 20 4 == 0)
    && (if op = 3 ∨ op = 4 then f 24 8 % 64 == 0 else op == 0 || f 24 8 == 0)
    && (op == 3 || f 32 32 == 0)

/-- R481, R370: a firmware descriptor that has been accepted as operation o. -/
def firmware (s : State) (o : Op) (wait : Bool) : State :=
  let f := dsc o.desc
  let op := f 16 1
  if !fwFields o.desc then complete s o .badFormat 0
  else
    let n := if op = 0 then stageTotal (f 20 4) else 1
    let o1 := { o with total := n }
    let s1 := updOp s o.id (fun o => { o with total := n })
    if op = 3 then attest s1 o1
    else if op = 4 then readCert s1 o1
    else if op = 0 ∧ f 17 1 = s.boot.slot then complete s1 o1 (.fw 4) 0
    else hoopAsk s1 o1 wait { act := 7, dies := upto (ndies s.variant), op := some o.id, die := 0, unit := op, arg := f 17 1 }

end Sys2Proof.Machine
end

