-- ==== Sys2Proof/Machine/Rings.lean ====
section
/-! DEFINITION. File 12: the registers of the RING_ and ITG_ blocks, doorbells, completion records, interrupts, progress entries (R354 to R367,
R376). -/

namespace Sys2Proof.Machine

/-! Ring configuration (R360, R376) -/

/-- Tables 12-15, 12-16: a field LOG2SIZE that keeps its value outside 6 to 16. -/
def log2Value (old v : Nat) : Nat := if 6 ≤ v ∧ v ≤ 16 then v else old

/-- R360, R376: a write of RING_SQCFG: a DISABLED ring takes the fields, and starts where EN is 1. A DRAINING ring whose EN is written 1 again starts
once no accepted operation names it; a ring whose EN is 1 already goes on (log entry 75). -/
def sqCfgWrite (s0 : State) (q : Nat) (v : Word32) : State :=
  let s := settleRings s0
  let r := getSq s q
  let en := bit v 31
  if r.state = 0 then
    let r1 := { r with log2 := log2Value r.log2 (fld v 4 0), rver := fld v 15 8, dver := fld v 23 16, en := en }
    if !en then setSq s q r1
    else setSq s q (startSq { r1 with head := 0, tail := 0, aborts := [], quiet := [], waitPosted := false })
  else if en then
    setSq s q (if r.en then r else { r with en := true, head := 0, tail := 0, aborts := [], quiet := [], waitPosted := false })
  else settleRings (setSq s q { r with en := false, state := 2 })

/-- R376: a write of RING_CQCFG. -/
def cqCfgWrite (s0 : State) (q : Nat) (v : Word32) : State :=
  let s := settleRings s0
  let r := getCq s q
  let en := bit v 31
  if r.state = 0 then
    let r1 := { r with
      log2 := log2Value r.log2 (fld v 4 0), ien := bit v 5, vector := fld v 15 8
      coalN := if fld v 23 16 = 0 then r.coalN else fld v 23 16, en := en }
    setCq s q (if en then { r1 with state := 1, err := 0, head := 0, tail := 0, count := 0, armed := true } else r1)
  else if en then setCq s q (if r.en then r else { r with en := true, err := 0, head := 0, tail := 0, count := 0, armed := true })
  else settleRings (setCq s q { r with en := false, state := 2 })

/-- R376: a write of RING_EVCFG: the fields keep their values while EN is 1. Once enabled, the ring takes the events of the boot (R474). -/
def evCfgWrite (s : State) (v : Word32) : State :=
  let r := s.ev
  let en := bit v 31
  if r.en then { s with ev := { r with en := en } }
  else
    let r1 := { r with
      log2 := log2Value r.log2 (fld v 4 0), ien := bit v 5, vector := fld v 15 8
      coalN := if fld v 23 16 = 0 then r.coalN else fld v 23 16, en := en }
    if en then bootEvents { s with ev := { r1 with state := 0, head := 0, tail := 0, count := 0, armed := true } } else { s with ev := r1 }

/-- A write of the configuration word of a ring: kind 0 a submission ring, 1 a completion ring, 2 the event ring. -/
def ringCfgWrite (kind ring : Nat) (v : Word32) (s : State) : State :=
  if !regsUp s || decide (256 ≤ ring) then s
  else
    match kind with
    | 0 => sqCfgWrite s ring v
    | 1 => cqCfgWrite s ring v
    | 2 => evCfgWrite s v
    | _ => s

/-- R360, R376: RING_ENABLE: a write of a ring's configuration word with EN = 1. -/
def execRingEnable (kind ring : Nat) (v : Word32) (s : State) : Host.Outcome State Fault Refusal :=
  .next (if bit v 31 then ringCfgWrite kind ring v s else s)

/-- R376: RING_DISABLE: a write of a ring's configuration word with EN = 0. -/
def execRingDisable (kind ring : Nat) (v : Word32) (s : State) : Host.Outcome State Fault Refusal :=
  .next (if bit v 31 then s else ringCfgWrite kind ring v s)

/-! The setup lock (R358) -/

def setupLock (v : Word32) (s : State) : State := if regsUp s && bit v 0 then { s with locked := true } else s

/-- R358: RING_SETUP_LOCK: a write of RING_SETUP. -/
def execRingSetupLock (v : Word32) (s : State) : Host.Outcome State Fault Refusal := .next (setupLock v s)

/-! Doorbells (R356, R361, R366) -/

/-- R361: a write of SQ_TAIL. A ring that does not run takes no doorbell. -/
def sqTail (q : Nat) (v : Word32) (s : State) : State :=
  let r := getSq s q
  let t := v.toNat
  if !regsUp s || decide (256 ≤ q) || r.state != 1 || t == r.tail then s
  else if (t + 2 ^ 32 - r.tail) % 2 ^ 32 ≤ 2 ^ r.log2 - (r.tail + 2 ^ 32 - r.head) % 2 ^ 32 then setSq s q { r with tail := t }
  else ringError (setSq s q { r with state := 3, err := 3 }) false q 3

/-- R361: SQ_TAIL_WRITE. -/
def execSqTailWrite (q : Nat) (v : Word32) (s : State) : Host.Outcome State Fault Refusal := .next (sqTail q v s)

/-- R366: whether a head written is backwards or past the tail. -/
def headBad (r : ComRing) (h : Nat) : Bool := decide ((r.tail + 2 ^ 32 - r.head) % 2 ^ 32 < (h + 2 ^ 32 - r.head) % 2 ^ 32)

/-- R366: whether a head written leaves records after an interrupt, which is then raised again. -/
def headAgain (r : ComRing) (h : Nat) : Bool := r.ien && !r.armed && h != r.tail

/-- R365, R366: the ring of records with its head moved to h, or stopped by a bad one. -/
def moveHead (r : ComRing) (h : Nat) : ComRing :=
  if headBad r h then { r with state := 3, err := 3 }
  else { r with head := h, armed := !headAgain r h, count := if headAgain r h then 0 else r.count }

/-- R366: what a head written to a ring of records makes the device report: RING_ERROR, or an interrupt. -/
def headTells (s : State) (r : ComRing) (ring h : Nat) : State :=
  if headBad r h then ringError s true ring 3 else if headAgain r h then linkIrq s r.vector else s

/-- R366: a write of CQ_HEAD of a completion ring, or of the event ring (ring 256). -/
def cqHead (ring : Nat) (v : Word32) (s : State) : State :=
  let h := v.toNat
  if !regsUp s then s
  else if ring = 256 then
    if !s.ev.en || s.ev.state == 3 || h == s.ev.head then s else headTells { s with ev := moveHead s.ev h } s.ev 0xFF h
  else if 256 < ring then s
  else
    let r := getCq s ring
    if !(r.state == 1 || r.state == 2) || h == r.head then s else headTells (setCq s ring (moveHead r h)) r ring h

/-- R366: CQ_HEAD_WRITE. -/
def execCqHeadWrite (ring : Nat) (v : Word32) (s : State) : Host.Outcome State Fault Refusal := .next (cqHead ring v s)

/-! Records, interrupts, progress (R365 to R367) -/

/-- R365: the oldest record that waits for a completion ring with room is written. -/
def recordWrite (cq : Nat) (s : State) : State :=
  if !regsUp s || !cqTakes s cq then s
  else
    match s.recs.zipIdx.find? (fun p => p.1.cq == cq && recReady s p.1) with
    | some (r, i) => writeRec { s with recs := s.recs.eraseIdx i } r
    | none => s

/-- R365: COMPLETION_RECORD_WRITE. -/
def execCompletionRecordWrite (cq : Nat) (s : State) : Host.Outcome State Fault Refusal := .next (recordWrite cq s)

/-- R366: the oldest record not signalled of a ring (256: the event ring, whose COAL_T is 0) has waited COAL_T. -/
def coalesce (ring : Nat) (s : State) : State :=
  let r := getCq s ring
  if !regsUp s || decide (256 ≤ ring) || !(r.state == 1 || r.state == 2) || !r.ien || !r.armed || r.coalT == 0 || r.count == 0 then s
  else linkIrq (setCq s ring { r with count := 0, armed := false }) r.vector

/-- R366: INTERRUPT_COALESCE_TIMEOUT. -/
def execInterruptCoalesceTimeout (ring : Nat) (s : State) : Host.Outcome State Fault Refusal := .next (coalesce ring s)

/-- R217, R367: the entry of the operation, or context, that descriptor idx of ring q started is written again. pos is the position of a maintenance activity or a
firmware operation that has begun, which no other command reports; it never moves back, nor past TOTAL. -/
def progressWrite (q idx pos : Nat) (s : State) : State :=
  match s.ops.find? (fun o => o.sq == q && o.idx == idx) with
  | none =>
    match s.ctxs.find? (fun c => c.opened && c.sq == q && c.idx == idx) with
    | some c => if regsUp s then ctxMap (progressEntry s q idx (ctxPos s c) (cChunks c) false) c.id c.gen (fun k => { k with cpos := ctxPos s c }) else s
    | none => s
  | some o =>
    if !regsUp s then s
    else
      let p := if s.drain.op = some o.id ∧ !atCommit s o.id then drainPos s
        else if o.begun ∧ (o.type = 7 ∨ o.type = 9) ∧ !atCommit s o.id ∧ o.pos ≤ pos ∧ pos ≤ o.total then pos else o.pos
      putProgress (updOp s o.id (fun o => { o with pos := p, wpos := p })) { o with pos := p } false

/-- R367: PROGRESS_ENTRY_WRITE. -/
def execProgressEntryWrite (q idx pos : Nat) (s : State) : Host.Outcome State Fault Refusal := .next (progressWrite q idx pos s)

/-! What the package's registers read (Tables 12-12, 12-15, 12-16) -/

/-- Table 12-12: RING_CAP0. -/
def ringCap0 (v : Variant) : Nat := match v with | .tx8 => 0x001B0FF8 | .tx4 => 0x000B00F4 | .tx2 => 0x000B0032

/-- Table 12-12: CORE_AVAIL of four dies from d on. -/
def availWord (s : State) (d : Nat) : Nat :=
  ((upto 4).map (fun k => if d + k < ndies s.variant then coreAvail (getDie s (d + k)) <<< (8 * k) else 0)).foldl (· + ·) 0

/-- Table 12-15. -/
def viewSq (r : SubRing) (o : Nat) : Nat :=
  match o with
  | 0x00 => r.base % 2 ^ 32
  | 0x04 => r.base / 2 ^ 32
  | 0x08 => r.pbase % 2 ^ 32 + b2n r.pen
  | 0x0C => r.pbase / 2 ^ 32
  | 0x10 => r.log2 + r.rver <<< 8 + r.dver <<< 16 + b2n r.en <<< 31
  | 0x14 => r.state + r.err <<< 8
  | _ => 0

/-- Table 12-16. -/
def viewCq (r : ComRing) (o : Nat) : Nat :=
  match o with
  | 0x00 => r.base % 2 ^ 32
  | 0x04 => r.base / 2 ^ 32
  | 0x08 => r.log2 + b2n r.ien <<< 5 + r.vector <<< 8 + r.coalN <<< 16 + b2n r.en <<< 31
  | 0x0C => r.coalT
  | 0x10 => r.state + r.err <<< 8
  | _ => 0

/-- Table 12-16: ITG_STAT. -/
def itgStatWord (s : State) : Nat :=
  let two := s.variant == .tx8
  b2n (s.itgUp.contains 0) + tget s.itgWidth 0 0 <<< 1
    + (if two then b2n (s.itgUp.contains 1) <<< 6 + tget s.itgWidth 1 0 <<< 7 + s.itgFail <<< 13 else 0) + s.itgActive <<< 12

/-- R357, R376: what an offset from 0x9E_0000_0000 reads. -/
def ringView (s0 : State) (o : Nat) : Nat :=
  let s := settleRings s0
  if o < 0x1000 then
    match o with
    | 0x00 => ringCap0 s.variant
    | 0x04 => 0x10101010
    | 0x08 => 0x10FF1020
    | 0x0C => availWord s 0
    | 0x10 => availWord s 4
    | 0x20 => b2n s.locked <<< 1
    | _ => 0
  else if o = 0x1000 then itgStatWord s
  else if o = 0x1004 then itgCtlWord s
  else if 0x10000 ≤ o ∧ o < 0x12000 then viewSq (getSq s ((o - 0x10000) / 0x20)) (o % 0x20)
  else if 0x20000 ≤ o ∧ o < 0x22000 then viewCq (getCq s ((o - 0x20000) / 0x20)) (o % 0x20)
  else if o = 0x3000C then s.evLost
  else if 0x30000 ≤ o ∧ o < 0x3000C then viewCq s.ev (o - 0x30000)
  else 0

/-- Table 12-6: what an offset from 0x9F_0000_0000 reads. -/
def doorbellView (s : State) (o : Nat) : Nat :=
  let n := o / 0x1000
  if n = 256 then (match o % 0x1000 with | 0x8 => s.ev.head | 0xC => s.ev.tail | _ => 0)
  else if 256 < n then 0
  else
    match o % 0x1000 with
    | 0x0 => (getSq s n).tail
    | 0x4 => (getSq s n).head
    | 0x8 => (getCq s n).head
    | 0xC => (getCq s n).tail
    | _ => 0

/-! Writes (R376) -/

/-- A base address with its low word (bits 31 to 12) or its high word (51 to 32) written. -/
def baseWrite (old : Nat) (high : Bool) (v : Word32) : Nat :=
  if high then old % 2 ^ 32 + fld v 19 0 <<< 32 else old / 2 ^ 32 * 2 ^ 32 + fld v 31 12 <<< 12

/-- A write of a register of submission ring q: a ring that is not DISABLED keeps it. -/
def sqRegWrite (s0 : State) (q o : Nat) (v : Word32) : State :=
  let s := settleRings s0
  let r := getSq s q
  if o = 0x10 then sqCfgWrite s q v
  else if r.state ≠ 0 then s
  else
    match o with
    | 0x00 => setSq s q { r with base := baseWrite r.base false v }
    | 0x04 => setSq s q { r with base := baseWrite r.base true v }
    | 0x08 => setSq s q { r with pbase := baseWrite r.pbase false v, pen := bit v 0 }
    | 0x0C => setSq s q { r with pbase := baseWrite r.pbase true v }
    | _ => s

/-- A write of a register of completion ring q. -/
def cqRegWrite (s0 : State) (q o : Nat) (v : Word32) : State :=
  let s := settleRings s0
  let r := getCq s q
  if o = 0x08 then cqCfgWrite s q v
  else if r.state ≠ 0 then s
  else
    match o with
    | 0x00 => setCq s q { r with base := baseWrite r.base false v }
    | 0x04 => setCq s q { r with base := baseWrite r.base true v }
    | 0x0C => setCq s q { r with coalT := fld v 15 0 }
    | _ => s

/-- A write of a register of the event ring. -/
def evRegWrite (s : State) (o : Nat) (v : Word32) : State :=
  let r := s.ev
  match o with
  | 0x00 => if r.en then s else { s with ev := { r with base := baseWrite r.base false v } }
  | 0x04 => if r.en then s else { s with ev := { r with base := baseWrite r.base true v } }
  | 0x08 => evCfgWrite s v
  | _ => s

/-- R357, R376: a write at an offset from 0x9E_0000_0000. -/
def ringRegWrite (o : Nat) (v : Word32) (s : State) : State :=
  if o = 0x20 then setupLock v s
  else if o = 0x1004 then itgSwitch v s
  else if 0x10000 ≤ o ∧ o < 0x12000 then sqRegWrite s ((o - 0x10000) / 0x20) (o % 0x20) v
  else if 0x20000 ≤ o ∧ o < 0x22000 then cqRegWrite s ((o - 0x20000) / 0x20) (o % 0x20) v
  else if 0x30000 ≤ o ∧ o < 0x3000C then evRegWrite s (o - 0x30000) v
  else s

/-- Table 12-6: a write at an offset from 0x9F_0000_0000. -/
def doorbellWrite (o : Nat) (v : Word32) (s : State) : State :=
  let n := o / 0x1000
  match o % 0x1000 with
  | 0x0 => if n < 256 then sqTail n v s else s
  | 0x8 => cqHead n v s
  | _ => s

end Sys2Proof.Machine
end

