-- ==== Sys2Proof/Machine/RegFile.lean ====
section
/-! DEFINITION. Register writes of a die's window (R3, R6, R357), and the companion's accesses (R23, R353, R514). -/

namespace Sys2Proof.Machine

/-! Plain RWL registers -/

/-- A field of a written word that keeps its old value unless ok, in place. -/
def fieldOr (old v : Word32) (hi lo : Nat) (ok : Nat → Bool) : Nat := (if ok (fld v hi lo) then fld v hi lo else fld old hi lo) <<< lo

def within (lo hi : Nat) (n : Nat) : Bool := decide (lo ≤ n) && decide (n ≤ hi)

/-- Tables 10-13 to 10-17: what a write of a port's SW_ register leaves, by port offset. -/
def swPortValue (old v : Word32) (p : Nat) : Option Nat :=
  let queue (i : Nat) : Nat := fieldOr old v (4 * i + 3) (4 * i) (within 2 15)
  let weight (i : Nat) : Nat := fieldOr old v (8 * i + 7) (8 * i) (within 1 255)
  if p = 0 then some (queue 0 + queue 1 + queue 2 + queue 3 + queue 4)
  else if p = 4 then some (fld v 7 0)
  else if p = 8 ∨ p = 0xC ∨ p = 0x10 then some (weight 0 + weight 1 + weight 2 + weight 3)
  else if 0x20 ≤ p ∧ p < 0x90 ∧ p % 8 = 0 then some (rateValue old v)
  else if 0x20 ≤ p ∧ p < 0xC8 ∧ p % 8 = 4 then some (fieldOr old v 15 0 (within 65 65535))
  else none

/-- What a write of a register with only RWL fields and no behaviour of its own leaves; none for every other offset. A value outside a field's
range keeps the field. -/
def plainValue (s : State) (d off : Nat) (v : Word32) : Option Nat :=
  let x := getDie s d
  let old := regWord x off
  let f := fieldOr old v
  if off = rGND_LAYOUT then some (f 6 0 (within 0 96))
  else if oGND + 0x40 ≤ off ∧ off < oGND + 0x80 then some (fld v 14 0)
  else if off = rENG_SEED_LO ∨ off = rENG_SEED_HI then some v.toNat
  else if off = rFAB_TIMERS then
    some (f 7 0 (within 1 255) + f 11 8 (within 1 15) + f 19 12 (within 1 255) + f 23 20 (within 1 15) + f 29 24 (within 1 40))
  else if off = rFAB_ROUTE then some (fld v 0 0 + f 8 1 (within 1 255))
  else if off = rFAB_VCRES then some (f 7 0 (within 0x44 255) + f 15 8 (within 0x44 255) + fld v 27 16 <<< 16)
  else if oSW + 0x1000 ≤ off ∧ off < oSW + 0x7000 then swPortValue old v (off % 0x100)
  else if oBPM + 0x40 ≤ off ∧ off < oBPM + 0x78 then some (fld v 19 0)
  else if off = rPORT_TIMERS then some (f 7 0 (within 1 255) + f 15 8 (within 1 255) + f 19 16 (within 1 15))
  else if off = rSTK_LAYOUT then some (f 4 0 (fun n => decide (n ≤ 16) && ovfUsed s d == 0))
  else if d = 0 ∧ off = rTIME_ROOT then some (fld v 14 0)
  else if d = 0 ∧ off = rTIME_PTP then some (fld v 7 0 + f 9 8 (within 0 2) + fld v 10 10 <<< 10)
  else if d = 0 ∧ off = rTIME_LSTEP then some (fld v 15 0 + f 23 16 (within 1 255))
  else if d = 0 ∧ off = rPWR_IDLE then some (f 7 0 (within 1 255) + f 15 8 (within 1 255))
  else
    match pmcPlace (off - oPMC) with
    | .core _ 8 => if oPMC ≤ off ∧ off < oPMC + 0x10000 then some (fld v 0 0) else none
    | _ => none

/-! Registers with a behaviour of their own -/

/-- R314, Table 10-11: a write of SW_SAMPLE: HIST_EN stays 0 where the area does not fit. -/
def sampleWrite (d : Nat) (v : Word32) (s : State) : State :=
  let x := getDie s d
  let off := regFld x rSW_HIST_BASE 26 6 * 64
  let base := fieldOr (regWord x rSW_SAMPLE) v 7 0 (within 1 255)
  if s.locked then writeLocked s d rSW_SAMPLE v
  else if bit v 8 && !histFits x off then postEvent (writeLocked s d rSW_SAMPLE (BitVec.ofNat 32 base)) 0x0F d off 0 0 0
  else writeLocked s d rSW_SAMPLE (BitVec.ofNat 32 (base + 256 * fld v 8 8))

/-- Table 11-24: a write of CAGE_CFG: FAST is RWL, LOCATE is not. -/
def cageCfgWrite (d o : Nat) (v : Word32) (s : State) : State :=
  let off := rCAGE_CFG o
  let old := regWord (getDie s d) off
  let fast := if s.locked then fld old 0 0 else fld v 0 0
  let s1 := if s.locked then writeLocked s d off v else s
  updDie s1 d (fun x => { x with regs := tset x.regs off (BitVec.ofNat 32 (fast + 2 * fld v 1 1)) })

/-- Table 16-6: PWR_CTL. -/
def pwrCtlWrite (v : Word32) (s : State) : State :=
  match fld v 1 0 with
  | 1 => ctlStandby (bit v 2) s
  | 2 => ctlReady (bit v 2) s
  | _ => wakeEnWrite s (bit v 2)

/-- Table 16-6: the thermal design power of a variant, the reset value of CAP_W. -/
def tdp (v : Variant) : Nat := rPWR_CAP_default v % 2048

/-- R462, Table 16-6: PWR_CAP. -/
def pwrCapWrite (v : Word32) (s : State) : State :=
  let w := fieldOr (pwrCap s) v 10 0 (fun n => decide (tdp s.variant ≤ 2 * n) && decide (n ≤ tdp s.variant))
  let s1 := updDie s 0 (fun x => { x with regs := tset x.regs rPWR_CAP (BitVec.ofNat 32 (w + 2048 * fld v 11 11)) })
  if bit v 11 then s1 else { s1 with power := { s1.power with capDuty := 16, capAt := none, capLim := false } }

/-- Table 18-3: PMC_CSELn of core c: OVF clears where 1 is written. -/
def cselWrite (d c n : Nat) (v : Word32) (s : State) : State :=
  updCore s d c (fun k =>
    let old := pmcSel k.pmc n
    let w := fieldOr old v 7 0 (within 0 0x10) + fld v 9 8 <<< 8 + (if bit v 10 then 0 else fld old 10 10 <<< 10)
    { k with pmc := { k.pmc with sel := tset k.pmc.sel n (BitVec.ofNat 32 w) } })

/-- Table 18-4: PMC_PSELn of port l. -/
def pselWrite (d l n : Nat) (v : Word32) (s : State) : State :=
  updPort s d l (fun p =>
    let old := ppmcSel p.pmc n
    let w := fieldOr old v 7 0 (within 0 9) + fld v 15 8 <<< 8 + (if bit v 16 then 0 else fld old 16 16 <<< 16)
    { p with pmc := { p.pmc with sel := tset p.pmc.sel n (BitVec.ofNat 32 w) } })

/-- Tables 18-3, 18-4: a write at an offset of the PMC_ block. -/
def pmcWrite (d o : Nat) (v : Word32) (s : State) : State :=
  match pmcPlace o with
  | .core c p =>
    if 0x10 ≤ p ∧ p < 0x30 then cselWrite d c ((p - 0x10) / 4) v s else pmcCounterWrite d o v s
  | .port l p =>
    if 8 ≤ p ∧ p < 0x18 then pselWrite d l ((p - 8) / 4) v s else if p = 0x40 then pwinWrite d l v s else pmcCounterWrite d o v s
  | .none => s

/-- Table 13-9: a write at an offset of the KNOT_ block. LEAD_US 0 keeps the field. -/
def knotWrite (d o : Nat) (v : Word32) (s : State) : State :=
  let k := o / 16
  let n := getKnot s d k
  if 352 ≤ k ∨ (256 ≤ k ∧ d ≠ 0) then s
  else
    match o % 16 with
    | 0 => knotCfgWrite d k v s
    | 4 => setKnot s d k { n with time := BitVec.ofNat 32 (fieldOr n.time v 9 0 (within 1 1023) + fld v 14 10 <<< 10) }
    | 8 => if k < 320 then s else setKnot s d k { n with fab := v &&& 0x3FFFFFFF }
    | _ => s

/-- R3, R6, R357: a companion's write of a register of die d. -/
def dieRegWrite (d off : Nat) (v : Word32) (s : State) : State :=
  let o := off % 0x10000
  if !regsUp s || !linkReaches s d then s
  else
    match plainValue s d off v with
    | some n =>
      let s1 := writeLocked s d off (BitVec.ofNat 32 n)
      if oBPM ≤ off ∧ off < oBPM + 0x10000 then pumpAll s1 else s1
    | none =>
      if off = rFAB_SELF then fabSelfWrite d v s
      else if off = rSW_SAMPLE then sampleWrite d v s
      else if off = rSW_HIST_BASE then histBaseWrite d v s
      else if oCORE ≤ off then s
      else
        match off / 0x10000 with
        | 0x1 =>
          let p := o % 0x100
          if 0x1000 ≤ o ∧ o < 0x7000 ∧ 0x90 ≤ p ∧ p < 0xC8 ∧ p % 8 = 0 then polRateWrite d ((o - 0x1000) / 0x100) ((p - 0x90) / 8) v s else s
        | 0x3 => if 0x40 ≤ o ∧ o < 0x70 then portCfgWrite d ((o - 0x40) / 4) v s else s
        | 0x4 => if o % 0x20 = 0 ∧ o < 0x20 * 96 then laneCtlWrite d (o / 0x20) v s else s
        | 0x5 =>
          if 0xC0 ≤ o then s
          else if o % 0x10 = 0 then cageCfgWrite d (o / 0x10) v s
          else if o % 0x10 = 4 ∧ bit v 18 then updCage s d (o / 0x10) (fun c => { c with early := false })
          else s
        | 0x6 => if d ≠ 0 then s else if o = 0 then timeCfgWrite v s else if o = 0x20 then dlogWrite v s else s
        | 0x7 => knotWrite d o v s
        | 0xB =>
          if d ≠ 0 then s
          else
            match o with
            | 0x0 => pwrCtlWrite v s
            | 0x4 => if bit v 3 then { s with power := { s.power with refused := false } } else s
            | 0x8 => pwrCapWrite v s
            | _ => s
        | 0xD => pmcWrite d o v s
        | _ => s

/-! The companion's accesses (R23, R353, R357) -/

/-- R357: a write of a word in the register and doorbell windows. -/
def winWrite (a : Nat) (v : Word32) (s : State) : State :=
  if a < 0x9000000000 ∨ 0xA000000000 ≤ a ∨ a % 4 ≠ 0 then s
  else if 0x9F00000000 ≤ a then doorbellWrite (a - 0x9F00000000) v s
  else if 0x9E00000000 ≤ a then ringRegWrite (a - 0x9E00000000) v s
  else
    let d := (a - 0x9000000000) / 0x10000000
    if linkReaches s d then dieRegWrite d (a % 0x10000000) v s else s

/-- R3, R466: REGISTER_WRITE: a companion's 4-byte write in the register and doorbell windows; ignored until BOOTED. -/
def execRegisterWrite (addr : Nat) (v : Word32) (s : State) : Host.Outcome State Fault Refusal :=
  .next (if regsUp s then winWrite addr v s else s)

/-- R357, R405, R486: a read of a word in the windows. -/
def winRead (a : Nat) (s : State) : Nat × State :=
  if 0x9F00000000 ≤ a then (doorbellView s (a - 0x9F00000000), s)
  else if 0x9E00000000 ≤ a then (ringView s (a - 0x9E00000000), s)
  else
    let d := (a - 0x9000000000) / 0x10000000
    if linkReaches s d then dieRegRead d (a % 0x10000000) s else (0, s)

/-- R466: what a register reads before BOOTED: RING_CAP0 and PWR_STAT read true. -/
def bootRead (s : State) (a : Nat) : Nat :=
  if a = 0x9E00000000 then ringCap0 s.variant else if a = 0x9000000000 + oPWR + 4 then pwrStatWord s else 0

/-- R353: a companion's access in the windows: only 4-byte accesses at multiples of 4 act. -/
def winAccess (write : Bool) (a n : Nat) (data : List Byte) (s : State) : State :=
  if n ≠ 4 ∨ a % 4 ≠ 0 then (if write then s else emit s (.data (List.replicate n 0)))
  else if !regsUp s then (if write then s else emit s (.data (toLe 4 (bootRead s a))))
  else if write then winWrite a (BitVec.ofNat 32 (leNat (data.take 4))) s
  else
    let (v, s1) := winRead a s
    emit s1 (.data (toLe 4 v))

/-- R353, R413, R514: a companion's access to memory. A read that is refused brings no bytes; one of another package leaves as a READ packet, once it
finds a buffer. -/
def memAccess (write : Bool) (a n : Nat) (data : List Byte) (s : State) : State :=
  let d := linkDie s
  match addrPlace s a (if write then .wr else .rd) with
  | .error _ => if write then s else emit s (.data [])
  | .ok (.board _) => if write then s else emit s (.data [])
  | .ok (.remote chip ra) =>
    if write then issueWrites s d 12 chip ra (data.take n) kWRITE none .none
    else match issueRead s d 12 chip ra n (.companion n) with
      | some (_, s1) => s1
      | none => s
  | .ok p =>
    if write then (if (placeErr s d none p n).isNone then placePut s p (data.take n) else s)
    else match placeRead s d none p n with
      | .ok (bs, s1) => emit s1 (.data bs)
      | .error e => companionAnswer (if e = .memUe then placeSeen s d none p n else s) e [] n

/-- Table 8-7: whether an address lies in the register and doorbell windows. -/
def inWindows (a : Nat) : Bool := decide (0x9000000000 ≤ a) && decide (a < 0xA000000000)

/-- R353, R459: COMPANION_MEMORY_ACCESS: a read (write false) or a write of n bytes. Accesses to memory are 1 to 64 bytes, naturally aligned; any
other has no effect. -/
def companionAccess (write : Bool) (a n : Nat) (data : List Byte) (s : State) : State :=
  if s.phase == .safe || s.phase == .off || s.phase == .held then s
  else if inWindows a then winAccess write a n data s
  else if !([1, 2, 4, 8, 16, 32, 64].contains n) || a % n ≠ 0 || (write && data.length != n) then s
  else if s.phase != .up then (if write then s else emit s (.data (List.replicate n 0)))
  else memAccess write a n data s

def execCompanionMemoryAccess (write : Bool) (addr n : Nat) (data : List Byte) (s : State) : Host.Outcome State Fault Refusal :=
  .next (companionAccess write addr n data s)

/-- R145 to R147, R149, R353: COMPANION_ATOMIC: AOP 0 to 7 with operand y on ground memory or a stack; the old value is the answer. -/
def companionAtomic (a aop y : Nat) (s : State) : State :=
  let d := linkDie s
  if s.phase != .up || decide (8 ≤ aop) then s
  else
    match addrPlace s a .atom with
    | .ok p =>
      if (placeDie p).isNone then s
      else
        match placeAtomic s d p aop y with
        | .ok (old, s1) => emit s1 (.data (toLe ((atomicSize aop).getD 8) old))
        | .error e => companionAnswer (if e = .memUe then atomicSeen s d p aop else s) e [] 8
    | .error _ => s

def execCompanionAtomic (addr aop y : Nat) (s : State) : Host.Outcome State Fault Refusal := .next (companionAtomic addr aop y s)

end Sys2Proof.Machine
end

