-- ==== Sys2Proof/Machine/Descriptors.lean ====
section
/-! DEFINITION. File 12: descriptors: acceptance (R361 to R364), one command for each operation of Table 12-3, aborts (R369), waits (R363), module
accesses (R372, R373). Each command gives the ring, the 64 bytes that the device reads at the ring's head (byte 0 least significant), and in
ext the bytes that they name outside the package. -/

namespace Sys2Proof.Machine

/-! Acceptance -/

/-- Table 12-3: a descriptor's TYPE. -/
def dType (desc : Word512) : Nat := dsc desc 0 1

/-- Table 12-2: FLAGS. -/
def dFence (desc : Word512) : Bool := bit desc 8
def dWaitHoop (desc : Word512) : Bool := bit desc 9

/-- R364: whether the header of a descriptor is refused. -/
def headerBad (desc : Word512) : Bool := decide (0x0D ≤ dType desc) || decide (8 ≤ dsc desc 1 1) || dsc desc 3 5 != 0

/-- R367: the total that an operation's chapter gives it, 0 where it has none. ext gives what lies outside the package. -/
def descTotal (s : State) (desc : Word512) (ext : List Host.Cell) : Nat :=
  match dType desc with
  | 1 => dsc desc 52 4
  | 2 => match devRead s (linkDie s) (dsc desc 16 8) 64 ext with
    | .ok (bs, _) => reqTotal (BitVec.ofNat 512 (leNat bs))
    | .error _ => 0
  | 3 => cdiv (dsc desc 32 4) 4096
  | 4 => match devRead s (linkDie s) (dsc desc 24 8) 128 ext with
    | .ok (bs, _) => blockTotal (BitVec.ofNat 1024 (leNat bs))
    | .error _ => 0
  | 6 => if bit desc 136 then 1024 else dsc desc 24 4
  | 7 => maintTotal s (dsc desc 16 1) (dsc desc 17 1) (dsc desc 20 4) (dsc desc 24 8)
  | 9 => if dsc desc 16 1 = 0 then stageTotal (dsc desc 20 4) else 1
  | _ => 0

/-- R152, R177, R363: whether the engine that an engine-operation descriptor names has no room. -/
def engineFull (s : State) (desc : Word512) (ext : List Host.Cell) : Bool :=
  match devRead s (linkDie s) (dsc desc 16 8) 64 ext with
  | .error _ => false
  | .ok (bs, _) =>
    match engDest s bs with
    | .die t => crosses s (linkDie s) t && (getDie s t).flt == 0 && !mayAccept s t (BitVec.ofNat 512 (leNat bs))
    | _ => false

/-- R287: whether an engine operation or a DMA of the companion's sends packets to other packages; none of its parts that is refused does. -/
def emitsOut (s : State) (desc : Word512) (ext : List Host.Cell) : Bool :=
  let far (l : Except Status (List Seg)) : Bool := match l with
    | .ok l => l.any (fun g => match g.place with | .remote _ _ => true | _ => false)
    | .error _ => false
  match dType desc with
  | 2 =>
    far (segs s .rd (dsc desc 16 8) 64) ||
    (match devRead s (linkDie s) (dsc desc 16 8) 64 ext with
      | .ok (bs, _) => (match engDest s bs with | .chip _ => true | _ => false)
      | .error _ => false)
  | 3 => far (segs s .rd (dsc desc 16 8) (dsc desc 32 4)) || far (segs s .wr (dsc desc 24 8) (dsc desc 32 4))
  | _ => false

/-- R363, R371: why the descriptor at the head of ring q waits: ERR 4 where its completion ring is not enabled, 0 for the other reasons. -/
def waits (s : State) (q : Nat) (desc : Word512) (ext : List Host.Cell) : Option Nat :=
  if (getCq s (dsc desc 2 1)).state ≠ 1 then some 4
  else if dFence desc && s.ops.any (fun o => o.sq == q) then some 0
  else if headerBad desc then none
  else if dType desc = 2 && engineFull s desc ext then some 0
  else if stopped s && emitsOut s desc ext then some 0
  else if dType desc = 6 && updateWaits s then some 0
  else none

/-- The operation that the descriptor at the head of ring q starts. -/
def newOp (s : State) (q : Nat) (desc : Word512) (ext : List Host.Cell) : Op :=
  { id := s.fresh, sq := q, idx := (getSq s q).head, cq := dsc desc 2 1, tag := dsc desc 8 8, noint := bit desc 10, hoopWait := false
    type := dType desc, desc := desc, pos := 0, total := descTotal s desc ext, begun := false, stop := false }

/-- R361, R363, R367: the descriptor at the head of ring q is accepted: the head moves on, the operation is listed, and its first progress entry is
written. -/
def accepted (s : State) (q : Nat) (desc : Word512) (ext : List Host.Cell) : State :=
  let r := getSq s q
  let o := newOp s q desc ext
  let s1 := setSq { s with fresh := s.fresh + 1, sqTurn := (q + 1) % 256 } q { r with
    head := (r.head + 1) % 2 ^ 32, err := if r.err = 4 then 0 else r.err, waitPosted := false, aborts := sdel r.aborts r.head
    quiet := if dType desc = 0 ∨ dType desc = 0x0C then sadd r.quiet r.head else r.quiet }
  putProgress { s1 with ops := s1.ops ++ [o] } o false

/-- R361: whether the device turns to submission ring q: it runs with work pending, and no other such ring comes before it in the round robin
(log entry 49). -/
def sqServes (s : State) (q : Nat) : Bool :=
  let r := getSq s q
  s.phase == .up && r.state == 1 && r.head != r.tail
    && !s.sqs.any (fun e => e.2.state == 1 && e.2.head != e.2.tail
      && decide ((e.1 + 256 - s.sqTurn) % 256 < (q + 256 - s.sqTurn) % 256))

/-- R361, R363: the device turns to ring q, whose descriptor waits at its head: the next ring's turn comes. -/
def sqPass (s : State) (q : Nat) : State := if sqServes s q then { s with sqTurn := (q + 1) % 256 } else s

/-- Whether the device takes the descriptor at the head of ring q now (R361, R363). -/
def takesNow (s : State) (q : Nat) (desc : Word512) (ext : List Host.Cell) : Bool := sqServes s q && (waits s q desc ext).isNone

/-- R361 to R364, R367, R369: the device takes the descriptor at the head of ring q, where it is one that row selects. One that an abort reached
before completes with ABORTED; one with a bad header with BAD_DESC; body does the rest. -/
def takeDesc (q : Nat) (desc : Word512) (ext : List Host.Cell) (row : Bool) (body : State → Op → State) (s : State) : State :=
  if !(row || decide (0x0D ≤ dType desc)) then s
  else if !takesNow s q desc ext then sqPass s q
  else if (getSq s q).aborts.contains (getSq s q).head then complete (accepted s q desc ext) (newOp s q desc ext) .aborted 0
  else if headerBad desc then complete (accepted s q desc ext) (newOp s q desc ext) .badDesc 0
  else body (accepted s q desc ext) (newOp s q desc ext)

/-! Core jobs, engines, DMA (R102, R175, R177) -/

/-- R364: a NOP. -/
def nopBody (s : State) (o : Op) : State := complete s o (if dsc o.desc 16 48 = 0 then .ok else .badDesc) 0

def execNopDescriptor (q : Nat) (desc : Word512) (ext : List Host.Cell) (s : State) : Host.Outcome State Fault Refusal :=
  .next (takeDesc q desc ext (dType desc == 0) nopBody s)

/-- R102, R104: a core job. -/
def jobBody (s : State) (o : Op) : State :=
  match jobErr s o.desc with
  | some e => complete s o e 0
  | none => queueJob s { op := some o.id, cq := o.cq, tag := o.tag, desc := o.desc, replay := false, told := false }

def execCoreJob (q : Nat) (desc : Word512) (ext : List Host.Cell) (s : State) : Host.Outcome State Fault Refusal :=
  .next (takeDesc q desc ext (dType desc == 1) jobBody s)

/-- R177: an engine operation: its record is copied. -/
def engineBody (ext : List Host.Cell) (s : State) (o : Op) : State :=
  let f := dsc o.desc
  if f 24 40 ≠ 0 then complete s o .badFormat 0
  else if f 16 8 % 64 ≠ 0 then complete s o .badAddr 0
  else
    match devRead s (linkDie s) (f 16 8) 64 ext with
    | .error e => complete (devSeen s (f 16 8) 64 e) o e 0
    | .ok (bs, s1) =>
      let q : EngReq :=
        { id := 0, req := BitVec.ofNat 512 (leNat bs), src := .op o.id, unit := 0, done := none, digest := none, writes := 0, wstatus := .ok
          got := [], reads := [], replayed := false, aborted := false }
      (submit s1 (linkDie s1) q true).getD s1

def execEngineOperation (q : Nat) (desc : Word512) (ext : List Host.Cell) (s : State) : Host.Outcome State Fault Refusal :=
  .next (takeDesc q desc ext (dType desc == 2) (engineBody ext) s)

/-- R175: the die whose movers run a DMA. -/
def dmaDie (src dst : List Seg) : Nat :=
  let own (l : List Seg) : Option Nat := l.head?.bind (fun g => placeDie g.place)
  ((own src).orElse (fun _ => own dst)).getD 0

/-- R175: a DMA. -/
def dmaBody (s : State) (o : Op) : State :=
  let f := dsc o.desc
  let n := f 32 4
  if f 36 28 ≠ 0 then complete s o .badFormat 0
  else if n = 0 then complete s o .ok 0
  else
    match segs s .rd (f 16 8) n, segs s .wr (f 24 8) n with
    | .error e, _ => complete s o e 0
    | _, .error e => complete s o e 0
    | .ok src, .ok dst =>
      let d := dmaDie src dst
      let x := getDie s d
      if !linkReaches s d then complete s o .dieUnreachable 0
      else if x.flt ≠ 0 ∨ 4 ≤ x.moverFenced.length then complete s o .engineGone 0
      else
        match (segsErr s d none src).orElse (fun _ => segsErr s d none dst) with
        | some e => complete s o e 0
        | none => dmaStart s d (.op o.id) src dst n

def execDmaDescriptor (q : Nat) (desc : Word512) (ext : List Host.Cell) (s : State) : Host.Outcome State Fault Refusal :=
  .next (takeDesc q desc ext (dType desc == 3) dmaBody s)

/-! Contexts (R180, R218) -/

/-- R180: a context open: its block and member table are copied. -/
def openBody (ext : List Host.Cell) (s : State) (o : Op) : State :=
  let f := dsc o.desc
  if f 20 4 ≠ 0 ∨ f 24 8 % 64 ≠ 0 ∨ f 32 32 ≠ 0 then complete s o .badFormat 0
  else
    match devRead s (linkDie s) (f 24 8) 128 ext with
    | .error e => complete (devSeen s (f 24 8) 128 e) o e 0
    | .ok (bs, s1) =>
      let blk : BitVec 1024 := BitVec.ofNat 1024 (leNat bs)
      let memb := fld blk 319 256
      let n := fld blk 335 320
      if blockBad blk then complete s1 o .badFormat 0
      else if n = 0 then openContext s1 o (f 16 4) blk []
      else
        match devRead s1 (linkDie s1) memb (16 * n) ext with
        | .error e => complete (devSeen s1 memb (16 * n) e) o e 0
        | .ok (tbl, s2) => openContext s2 o (f 16 4) blk tbl

def execContextOpen (q : Nat) (desc : Word512) (ext : List Host.Cell) (s : State) : Host.Outcome State Fault Refusal :=
  .next (takeDesc q desc ext (dType desc == 4) (openBody ext) s)

/-- R218: a context close. -/
def closeBody (s : State) (o : Op) : State :=
  if dsc o.desc 21 43 ≠ 0 then complete s o .badFormat 0 else closeContext s o (dsc o.desc 16 4) (dsc o.desc 20 1)

def execContextClose (q : Nat) (desc : Word512) (ext : List Host.Cell) (s : State) : Host.Outcome State Fault Refusal :=
  .next (takeDesc q desc ext (dType desc == 5) closeBody s)

/-! Table updates and maintenance (R371, R447) -/

/-- Table 12-7: ACTIVATE. -/
def dActivate (desc : Word512) : Bool := bit desc 136

def updateBody (ext : List Host.Cell) (s : State) (o : Op) : State := tableUpdate s o (dWaitHoop o.desc) (dActivate o.desc) ext

/-- R371: TABLE_UPDATE. -/
def execTableUpdate (q : Nat) (desc : Word512) (ext : List Host.Cell) (s : State) : Host.Outcome State Fault Refusal :=
  .next (takeDesc q desc ext (dType desc == 6 && !dActivate desc) (updateBody ext) s)

/-- R371, R286: TABLE_UPDATE_ACTIVATE. -/
def execTableUpdateActivate (q : Nat) (desc : Word512) (ext : List Host.Cell) (s : State) : Host.Outcome State Fault Refusal :=
  .next (takeDesc q desc ext (dType desc == 6 && dActivate desc) (updateBody ext) s)

/-- Table 12-8: a maintenance descriptor: an ACTIVITY outside 2 to 6 is a BAD_DESC. -/
def maintBody (s : State) (o : Op) : State :=
  let f := dsc o.desc
  let act := f 16 1
  if act < 2 ∨ 6 < act then complete s o .badDesc 0
  else if f 18 2 ≠ 0 ∨ f 32 32 ≠ 0 then complete s o .badFormat 0
  else maintain s o (dWaitHoop o.desc) act (f 17 1) (f 20 4) (f 24 8)

/-- Whether a maintenance descriptor is one of a row's: the ACTIVITY, or one that none of the rows has; ok selects by UNIT. -/
def maintRow (desc : Word512) (act : Nat) (ok : Nat → Bool) : Bool :=
  let a := dsc desc 16 1
  dType desc == 7 && ((a == act && ok (dsc desc 20 4)) || decide (a < 2) || decide (6 < a))

/-- R341: MAINT_RECAL. -/
def execMaintRecal (q : Nat) (desc : Word512) (ext : List Host.Cell) (s : State) : Host.Outcome State Fault Refusal :=
  .next (takeDesc q desc ext (maintRow desc 2 (fun _ => true)) maintBody s)

/-- R414: MAINT_STACK_SCRUB. -/
def execMaintStackScrub (q : Nat) (desc : Word512) (ext : List Host.Cell) (s : State) : Host.Outcome State Fault Refusal :=
  .next (takeDesc q desc ext (maintRow desc 3 (fun u => u != 1)) maintBody s)

/-- R447: MAINT_STACK_REPAIR. -/
def execMaintStackRepair (q : Nat) (desc : Word512) (ext : List Host.Cell) (s : State) : Host.Outcome State Fault Refusal :=
  .next (takeDesc q desc ext (maintRow desc 3 (fun u => u != 0)) maintBody s)

/-- R428: MAINT_CORE. -/
def execMaintCore (q : Nat) (desc : Word512) (ext : List Host.Cell) (s : State) : Host.Outcome State Fault Refusal :=
  .next (takeDesc q desc ext (maintRow desc 4 (fun _ => true)) maintBody s)

/-- R143, R144: MAINT_GND. -/
def execMaintGnd (q : Nat) (desc : Word512) (ext : List Host.Cell) (s : State) : Host.Outcome State Fault Refusal :=
  .next (takeDesc q desc ext (maintRow desc 5 (fun _ => true)) maintBody s)

/-- R447: MAINT_SELFTEST. -/
def execMaintSelftest (q : Nat) (desc : Word512) (ext : List Host.Cell) (s : State) : Host.Outcome State Fault Refusal :=
  .next (takeDesc q desc ext (maintRow desc 6 (fun _ => true)) maintBody s)

/-! Gate lists, firmware (R309, R481) -/

def execGateListDescriptor (q : Nat) (desc : Word512) (ext : List Host.Cell) (s : State) : Host.Outcome State Fault Refusal :=
  .next (takeDesc q desc ext (dType desc == 8) (fun s o => gateList s o ext) s)

def fwBody (s : State) (o : Op) : State := firmware s o (dWaitHoop o.desc)

/-- Whether a firmware descriptor is one of an OP's row; a reserved OP is every row's. -/
def fwRow (desc : Word512) (op : Nat) : Bool := dType desc == 9 && (dsc desc 16 1 == op || decide (5 ≤ dsc desc 16 1))

/-- R481: FW_STAGE. -/
def execFwStage (q : Nat) (desc : Word512) (ext : List Host.Cell) (s : State) : Host.Outcome State Fault Refusal :=
  .next (takeDesc q desc ext (fwRow desc 0) fwBody s)

/-- R481: FW_SELECT. -/
def execFwSelect (q : Nat) (desc : Word512) (ext : List Host.Cell) (s : State) : Host.Outcome State Fault Refusal :=
  .next (takeDesc q desc ext (fwRow desc 1) fwBody s)

/-- R480: FW_COMMIT_SVN. -/
def execFwCommitSvn (q : Nat) (desc : Word512) (ext : List Host.Cell) (s : State) : Host.Outcome State Fault Refusal :=
  .next (takeDesc q desc ext (fwRow desc 2) fwBody s)

/-- R478: FW_ATTEST. -/
def execFwAttest (q : Nat) (desc : Word512) (ext : List Host.Cell) (s : State) : Host.Outcome State Fault Refusal :=
  .next (takeDesc q desc ext (fwRow desc 3) fwBody s)

/-- R481: FW_READ_CERT. -/
def execFwReadCert (q : Nat) (desc : Word512) (ext : List Host.Cell) (s : State) : Host.Outcome State Fault Refusal :=
  .next (takeDesc q desc ext (fwRow desc 4) fwBody s)

/-! Ports and modules (R337, R372, R373) -/

/-- Table 12-9: a port-control descriptor. -/
def portBody (s : State) (o : Op) : State :=
  let f := dsc o.desc
  if 2 ≤ f 16 1 ∨ f 17 1 ≠ 0 ∨ 1024 ≤ f 18 2 ∨ f 20 44 ≠ 0 then complete s o .badFormat 0
  else
    let s0 := updOp s o.id (fun o => { o with begun := true })
    let (st, s1) := if f 16 1 = 0 then admitPort s0 (f 18 2) else withdrawPort s0 (f 18 2)
    complete s1 o st 0

/-- Whether a descriptor of a type is one of an OP's row; a reserved OP is every row's. -/
def opRow (desc : Word512) (type op : Nat) : Bool := dType desc == type && (dsc desc 16 1 == op || decide (2 ≤ dsc desc 16 1))

/-- R337: PORT_ADMIT. -/
def execPortAdmit (q : Nat) (desc : Word512) (ext : List Host.Cell) (s : State) : Host.Outcome State Fault Refusal :=
  .next (takeDesc q desc ext (opRow desc 0x0A 0) portBody s)

/-- R337: PORT_WITHDRAW. -/
def execPortWithdraw (q : Nat) (desc : Word512) (ext : List Host.Cell) (s : State) : Host.Outcome State Fault Refusal :=
  .next (takeDesc q desc ext (opRow desc 0x0A 1) portBody s)

/-- R372: a module-access descriptor: refused, or waiting for the steward. -/
def moduleBody (s : State) (o : Op) : State :=
  let f := dsc o.desc
  let lo := f 21 1
  let n := f 22 1
  if 2 ≤ f 16 1 ∨ f 23 1 ≠ 0 ∨ f 32 32 ≠ 0 ∨ ndies s.variant ≤ f 17 1 ∨ 12 ≤ f 18 1 ∨ n = 0 ∨ 128 < n ∨ 256 < lo + n
      ∨ (f 16 1 = 1 ∧ lo ≤ 127 ∧ 126 < lo + n) then complete s o .badFormat 0
  else if !linkReaches s (f 17 1) then complete s o .dieUnreachable 0
  else s

/-- R372: MODULE_READ. -/
def execModuleRead (q : Nat) (desc : Word512) (ext : List Host.Cell) (s : State) : Host.Outcome State Fault Refusal :=
  .next (takeDesc q desc ext (opRow desc 0x0B 0) moduleBody s)

/-- R372: MODULE_WRITE. -/
def execModuleWrite (q : Nat) (desc : Word512) (ext : List Host.Cell) (s : State) : Host.Outcome State Fault Refusal :=
  .next (takeDesc q desc ext (opRow desc 0x0B 1) moduleBody s)

/-- R372, R373: the steward begins the oldest module access that waits for the cage (d, octet), and completes it; ack says whether the module
acknowledges, bytes what it answers to a read (a byte that it does not give is free). -/
def moduleStart (d octet : Nat) (ack : Bool) (bytes : List Byte) (ext : List Host.Cell) (s0 : State) : State :=
  match s0.ops.find? (fun o => o.type == 0x0B && dsc o.desc 17 1 == d && dsc o.desc 18 1 == octet && !atCommit s0 o.id && o.fin.isNone) with
  | none => s0
  | some o =>
    let s := if s0.phase == .up then updOp s0 o.id (fun o => { o with begun := true }) else s0
    let f := dsc o.desc
    let n := f 22 1
    let ack := ack && !isolated (cageOf (getDie s d) octet)
    let out (s : State) (write : Bool) (bs : List Byte) : State := emit s (.cmis d octet (f 19 1) (f 20 1) (f 21 1) write bs)
    if s.phase != .up then s
    else if !linkReaches s d then complete s o .dieUnreachable 0
    else if !(cageOf (getDie s d) octet).prs then complete s o .noModule 0
    else if f 16 1 = 0 then
      if !ack then complete s o .modNoack 0
      else
        let (k, s1) := draw s
        let bs := (upto n).map (fun i => nth bytes i (Config.outsideByte k i))
        match devWrite (out s1 false []) (linkDie s1) 12 o.id (f 24 8) bs with
        | .error e => complete s1 o e 0
        | .ok s2 => finishWrites s2 o .ok 0
    else
      match devRead s (linkDie s) (f 24 8) n ext with
      | .error e => complete (devSeen s (f 24 8) n e) o e 0
      | .ok (bs, s1) => if ack then complete (out s1 true bs) o .ok 0 else complete s1 o .modNoack 0

/-- R373: MODULE_ACCESS_START. -/
def execModuleAccessStart (d octet : Nat) (ack : Bool) (bytes : List Byte) (ext : List Host.Cell) (s : State) :
    Host.Outcome State Fault Refusal := .next (moduleStart d octet ack bytes ext s)

/-! Aborts (R369) -/

/-- R108, R369: the job of an operation: not yet started, or waiting for its replay, it leaves its core's queue with ABORTED and the position that
it reached; running, it ends at the next boundary. -/
def abortJob (s : State) (o : Op) : State :=
  let d := jobDie o.desc
  let c := jobCore o.desc
  let k := getCore s d c
  let mine (j : Job) : Bool := j.op == some o.id
  let s1 := setCore s d c { k with jobs := k.jobs.filter (fun j => !mine j) }
  let leave := match k.jobs.find? mine with
    | some j => dropJob s1 d c j .aborted
    | none => complete s1 o .aborted 0
  match k.run with
  | some r =>
    if mine r.job then
      updCore (stopJob s d c .aborted) d c (fun k => match k.run with | some r => { k with run := some { r with ended := some .aborted } } | none => k)
    else leave
  | none => leave

/-- R369, R516: the engine request of an operation that waits to leave for another package does not leave, and is asked of it no longer. -/
def recallPosted (s : State) (src : EngSrc) : State :=
  let mine (d : Nat) (i : TxItem) : Option ReqOut := match i.owner with
    | .request tag => (getDie s d).reqs.find? (fun r => r.chip == i.dst && r.tag == tag && r.what == .posted src)
    | _ => none
  let unsent : List (Nat × ReqOut) :=
    ((upto (ndies s.variant)).map (fun d => (getDie s d).txq.filterMap (fun i => (mine d i).map (fun r => (d, r))))).flatten
  unsent.foldl (fun s p => freeReq (updDie s p.1 (fun x => { x with reqs := x.reqs.erase p.2 })) p.1 p.2)
    (dropItems s (fun d i => (mine d i).isSome))

/-- R155, R369: the engine request of an operation ends with ABORTED: one whose work is not done at its boundary, before its commit; one that is
done at its commit point; an open top-k set is given up, after the records that it has merged; one sent to another package is waited for no longer. -/
def abortEngine (s : State) (o : Op) : State :=
  let src : EngSrc := .op o.id
  let stopped (q : EngReq) : EngReq :=
    match q.done with
    | some w => { q with done := some { w with status := .aborted } }
    | none => { q with done := some (doneWith .aborted), reads := [] }
  match s.dies.findSome? (fun e => (e.2.engs.find? (fun q => q.src == src)).map (fun q => (e.1, q))) with
  | some (d, q) =>
    let s1 := updReq s d q.id stopped
    if q.writes = 0 then commitReq s1 d (stopped q) ((stopped q).done.getD (doneWith .aborted)) else s1
  | none =>
    match s.dies.findSome? (fun e => (e.2.topk.find? (fun t => t.2.src == src)).map (fun t => (e.1, t.1, t.2))) with
    | some (d, key, t) =>
      let q : EngReq :=
        { id := 0, req := t.req, src := src, unit := 1, done := none, digest := none, writes := 0, wstatus := .ok, got := [], reads := []
          replayed := false, aborted := true, room := t.room }
      fireActions (updDie (freeRoom s q) d (fun x => { x with topk := tdel x.topk key })) d q { status := .aborted, conds := 0, count := t.merged }
    | none => complete (recallPosted s src) o .aborted 0

/-- R176: the DMA of an operation begins no further unit. How many units of one within the package, or from the companion, have begun is open
(log entry 52). ext gives the companion's bytes. -/
def abortDma (ext : List Host.Cell) (s : State) (o : Op) : State :=
  match s.dies.findSome? (fun e => (e.2.dmas.find? (fun q => q.owner == .op o.id)).map (fun q => (e.1, q))) with
  | some (d, q) =>
    let (k, s1) := draw s
    let s2 := if dmaOutside q then s1 else dmaAdvance d q.id ext (Config.unitsBegun k % dmaFuel q) s1
    dmaComplete d q.id ext (updDma s2 d q.id (fun q => { q with aborted := true }))
  | none => complete s o .aborted 0

/-- R369: a request queued for a hoop leaves the queue with position 0. -/
def abortQueued (s : State) (o : Op) : State :=
  complete { s with hoopQ := s.hoopQ.filter (fun h => h.op != some o.id) } o .aborted 0

/-- R448: an abort of a CORE or SELFTEST activity on core c of die d, granted: at once where the core's job still runs, else at the end of the
test. -/
def abortTest (s : State) (o : Op) (h : HoopReq) (c : Option Nat) : State :=
  let waiting := match c with | some c => (getCore s h.die c).run.isSome | none => false
  if waiting || h.st.isSome then
    let s1 := match c with | some c => coreServes s h.die c | none => s
    hoopEnd s1 h .aborted 0
  else updOp s o.id (fun o => { o with stop := true })

/-- R482: an abort of a STAGE: its slot stays invalid. -/
def abortStage (s : State) (o : Op) (h : HoopReq) : State := hoopEnd s h .aborted o.pos

/-- R369: an accepted operation that has not committed is stopped at its next safe boundary; none where that is its commit (R290, R373, R482, and
the activities whose chapters name no other). -/
def stopOp (ext : List Host.Cell) (s : State) (o : Op) : Option State :=
  if o.hoopWait then some (abortQueued s o)
  else
    let held := s.hoopHold.find? (fun h => h.op == some o.id)
    match o.type with
    | 1 => some (abortJob s o)
    | 2 => some (abortEngine s o)
    | 3 => some (abortDma ext s o)
    | 6 => if s.drain.op = some o.id ∧ (s.drain.stage = 1 ∨ s.drain.stage = 2) then some (drainAbort s) else none
    | 7 =>
      match held with
      | some h =>
        if h.act = 4 then some (abortTest s o h (some h.unit))
        else if h.act = 6 then some (abortTest s o h (if h.unit / 65536 = 0 then some (h.unit % 65536) else none))
        else none
      | none => none
    | 8 => some (gateAbort s o.id)
    | 9 =>
      match held with
      | some h => if h.unit = 0 ∧ o.pos + 1 < o.total then some (abortStage s o h) else none
      | none => none
    | 0x0B => if o.fin.isSome then none else some (complete s o .aborted 0)
    | _ => none

/-- R218: a context that an abort of its open acts on, as a close does; the open of one still queued completes with ABORTED too. -/
def abortContext (s : State) (c : Ctx) : State :=
  ctxEnd (match c.op with | some q => completeId s q .aborted 0 | none => s) c .aborted

/-- R290, R310, R373, R482: whether an operation whose record waits keeps its own status: a drain past stage 2, port control or a module access
begun, a gate list that has taken over, a firmware operation other than STAGE that has had its effect. -/
def keepsStatus (s : State) (o : Op) : Bool :=
  let fine := s.recs.any (fun r => r.op == some o.id && r.status == .ok)
  (s.drain.op == some o.id && decide (3 ≤ s.drain.stage)) || ((o.type == 0x0A || o.type == 0x0B) && o.begun)
    || (o.type == 8 && fine) || (o.type == 9 && dsc o.desc 16 1 != 0 && o.begun)

/-- R369: the records of descriptor ti of ring tq that wait become ABORTED; the detail words that only HOOP_BUSY has go (Table 12-5). -/
def abortRecs (s : State) (tq ti : Nat) : State :=
  { s with recs := s.recs.map (fun x =>
      if x.sq == tq && x.idx == ti && decide (x.source ≤ 1) then
        (if x.status = .hoopBusy then { x with status := .aborted, d0 := 0, d1 := 0, d2 := 0 } else { x with status := .aborted })
      else x) }

/-- R369: an abort accepted as operation o, of descriptor ti of ring tq. type is the TYPE of a target not yet accepted. -/
def abortTarget (ext : List Host.Cell) (s : State) (o : Op) (tq ti type : Nat) : State :=
  let r := getSq s tq
  let after (s : State) : State := postRec s { opRec o .ok 0 0 0 0 with after := some (tq, ti) }
  if (ti + 2 ^ 32 - r.head) % 2 ^ 32 < (r.tail + 2 ^ 32 - r.head) % 2 ^ 32 then
    if type = 0 ∨ type = 0x0C then complete s o .badDesc 0
    else complete (setSq s tq { r with aborts := sadd r.aborts ti }) o .ok 0
  else if 2 ^ 31 ≤ (r.head + 2 ^ 32 - 1 - ti) % 2 ^ 32 ∨ r.quiet.contains ti then complete s o .badDesc 0
  else
    match s.ctxs.find? (fun c => c.sq == tq && c.idx == ti), s.ops.find? (fun t => t.sq == tq && t.idx == ti) with
    | some c, _ => after (abortContext s c)
    | none, some t =>
      if atCommit s t.id then
        if keepsStatus s t then complete s o .alreadyComplete 0
        else after (abortRecs s tq ti)
      else
        match stopOp ext s t with
        | some s1 => after s1
        | none => complete s o .alreadyComplete 0
    | none, none =>
      if s.recs.any (fun x => x.sq == tq && x.idx == ti && x.source == 1) then after (abortRecs s tq ti) else complete s o .alreadyComplete 0

/-- Table 12-6: an abort descriptor. ext gives the byte of TYPE of a target not yet accepted, at its slot's companion address (free where it does
not). -/
def abortBody (ext : List Host.Cell) (s : State) (o : Op) : State :=
  let f := dsc o.desc
  if f 17 3 ≠ 0 ∨ f 24 40 ≠ 0 then complete s o .badFormat 0
  else
    let tq := f 16 1
    let ti := f 20 4
    let r := getSq s tq
    let (k, s1) := draw s
    let slot := r.base + 64 * (ti % 2 ^ r.log2)
    abortTarget ext s1 o tq ti (leNat (cellsRead ext (Config.outsideByte k) slot 1))

/-- R369: ABORT. -/
def execAbort (q : Nat) (desc : Word512) (ext : List Host.Cell) (s : State) : Host.Outcome State Fault Refusal :=
  .next (takeDesc q desc ext (dType desc == 0x0C) (abortBody ext) s)

/-! Waits (R363) -/

/-- R363: the descriptor at the head of ring q has waited 1 ms: RING_ERROR, once. -/
def descWait (q : Nat) (desc : Word512) (ext : List Host.Cell) (s : State) : State :=
  let r := getSq s q
  if s.phase != .up || r.state != 1 || r.head == r.tail || r.waitPosted then s
  else
    match waits s q desc ext with
    | none => s
    | some e => ringError (setSq s q { r with waitPosted := true, err := if e = 4 then 4 else r.err }) false q e

/-- R363: DESCRIPTOR_WAIT_TIMEOUT. -/
def execDescriptorWaitTimeout (q : Nat) (desc : Word512) (ext : List Host.Cell) (s : State) : Host.Outcome State Fault Refusal :=
  .next (descWait q desc ext s)

end Sys2Proof.Machine
end

