-- ==== Sys2Proof/Machine/Ptp.lean ====
section
/-! DEFINITION. File 13, R382: the management port's PTP clock: an IEEE 1588-2019 ordinary clock, slave only. The layout of the messages, the
comparison of masters and the constants of the default profile are IEEE 1588-2019's, which the spec names (PRESUMED, log entry 37). -/

namespace Sys2Proof.Machine

/-! Messages -/

/-- n bytes of a message from an offset, most significant first. -/
def ptpAt (m : List Byte) (off n : Nat) : Nat := ((m.drop off).take n).foldl (fun a b => 256 * a + b.toNat) 0

def ptpType (m : List Byte) : Nat := ptpAt m 0 1 % 16
def ptpSeq (m : List Byte) : Nat := ptpAt m 30 2
def ptpPort (m : List Byte) : Nat := ptpAt m 20 10
/-- correctionField, in 2^-16 ns, as the timestamps are. -/
def ptpCorr (m : List Byte) : Int := signed 64 (ptpAt m 8 8)
/-- The timestamp that follows the header: 48 bits of seconds, 32 of nanoseconds. -/
def ptpStamp (m : List Byte) : Int := ((1000000000 * ptpAt m 34 6 + ptpAt m 40 4) * 65536 : Nat)

/-- The shortest message of each type; 0 for a type that PTP does not have. -/
def ptpLen (t : Nat) : Nat :=
  match t with
  | 0x0 | 0x1 | 0x8 => 44
  | 0x2 | 0x3 | 0x9 | 0xA => 54
  | 0xB => 64
  | 0xC => 44
  | 0xD => 48
  | _ => 0

/-- Whether bytes are a PTP message of version 2. -/
def ptpWell (m : List Byte) : Bool :=
  let n := ptpLen (ptpType m)
  n != 0 && decide (n ≤ ptpAt m 2 2) && decide (ptpAt m 2 2 ≤ m.length) && ptpAt m 1 1 % 16 == 2

/-- The counter of die 0 at the reference plane, to 1/16 ns, in 2^-16 ns. -/
def ptpNow (s : State) : Int := (time16 s 0 * 4096 : Nat)

/-- A message that the clock sends: its type, total length, correction, SEQ and body. -/
def ptpSend (s : State) (type len corr seq : Nat) (body : List Byte) : State :=
  let dom := regFld (getDie s 0) rTIME_PTP 7 0
  emit s (.ptp (toBe 1 type ++ toBe 1 0x12 ++ toBe 2 len ++ toBe 1 dom ++ toBe 3 0 ++ toBe 8 corr ++ toBe 4 0
    ++ toBe 10 (Config.ptpIdentity % 2 ^ 80) ++ toBe 2 seq ++ toBe 2 0x007F ++ body))

def setPtp (s : State) (p : Ptp) : State := { s with time := { s.time with ptp := p } }

/-! The best master -/

/-- Whether master a is better than b: by quality, grandmaster, steps removed, then port identity. -/
def ptpBetter (a b : PtpMaster) : Bool :=
  if a.gm = b.gm then decide (a.steps < b.steps) || (a.steps == b.steps && decide (a.port < b.port))
  else decide (a.quality < b.quality) || (a.quality == b.quality && decide (a.gm < b.gm))

/-- The masters whose Announces still count: the last 8 s (four intervals of 2 s), the last one at most 6 s old. -/
def ptpLive (now : Nat) (l : List PtpMaster) : List PtpMaster :=
  (l.map (fun m => { m with heard := m.heard.filter (fun t => decide (now < t + 8000000000)) })).filter
    (fun m => match m.heard with | t :: _ => decide (now < t + 6000000000) | [] => false)

/-- The clock's choice among its masters: the best of those heard twice. -/
def ptpChoose (p : Ptp) (now : Nat) : Ptp :=
  let l := ptpLive now p.masters
  let best : Option PtpMaster := (l.filter (fun m => decide (2 ≤ m.heard.length))).foldl (fun (b : Option PtpMaster) m => match b with
    | some q => some (if ptpBetter m q then m else q)
    | none => some m) none
  let q : Ptp := { p with masters := l, parent := best.map (·.port) }
  if q.parent == p.parent then q else { q with sync := none, diff := none, req := none, delay := none }

/-- An Announce. -/
def ptpAnnounce (s : State) (m : List Byte) : State :=
  let p := s.time.ptp
  let id := ptpPort m
  let old := match p.masters.find? (fun q => q.port == id) with | some q => q.heard | none => []
  if 255 ≤ ptpAt m 61 2 then s
  else
    let e : PtpMaster := { port := id, quality := ptpAt m 47 6, gm := ptpAt m 53 8, steps := ptpAt m 61 2, heard := s.now :: old }
    setPtp s (ptpChoose { p with masters := e :: p.masters.filter (fun q => q.port != id) } s.now)

/-! Offsets and delays -/

/-- The delay in force: the peer delay, or the mean path delay. -/
def ptpDelay (s : State) : Option Int := if regFld (getDie s 0) rTIME_PTP 10 10 = 1 then s.time.ptp.peer else s.time.ptp.delay

/-- The delay request that follows a Sync: Pdelay_Req or Delay_Req as TIME_PTP.P2P selects. -/
def ptpAsk (s : State) : State :=
  let p := s.time.ptp
  let n := p.seq
  if regFld (getDie s 0) rTIME_PTP 10 10 = 1 then
    ptpSend (setPtp s { p with seq := (n + 1) % 65536, peerReq := some (n, ptpNow s), peerRsp := none }) 2 54 0 n (List.replicate 20 0)
  else ptpSend (setPtp s { p with seq := (n + 1) % 65536, req := some (n, ptpNow s) }) 1 44 0 n (List.replicate 10 0)

/-- A Sync is complete: sent at t1, corrected, received at t2. It is a measurement once the delay is known. The difference kept for the delay
follows a step of the counter that the measurement makes. -/
def ptpSynced (s : State) (t1 t2 corr : Int) : State :=
  let diff := t2 - t1 - corr
  let s1 := match ptpDelay s with
    | some dl => if timeSrc s = 1 then measure s ((diff - dl) / 4096) else s
    | none => s
  ptpAsk (setPtp s1 { s1.time.ptp with sync := none, diff := some (diff + (ptpNow s1 - ptpNow s)) })

/-- A Sync from the master followed: one-step, or two-step, which its Follow_Up completes. -/
def ptpSync (s : State) (m : List Byte) : State :=
  if (ptpAt m 6 1).testBit 1 then setPtp s { s.time.ptp with sync := some (ptpSeq m, ptpNow s, ptpCorr m) }
  else ptpSynced s (ptpStamp m) (ptpNow s) (ptpCorr m)

def ptpFollow (s : State) (m : List Byte) : State :=
  match s.time.ptp.sync with
  | some (n, t2, c) => if n = ptpSeq m then ptpSynced s (ptpStamp m) t2 (c + ptpCorr m) else s
  | none => s

/-- Whether an answer is to the clock's own request. -/
def ptpMine (m : List Byte) : Bool := ptpAt m 44 10 == Config.ptpIdentity % 2 ^ 80

/-- A Delay_Resp: the mean path delay is half of the two differences. -/
def ptpDelayRsp (s : State) (m : List Byte) : State :=
  let p := s.time.ptp
  match p.req, p.diff with
  | some (n, t3), some d =>
    if n = ptpSeq m ∧ ptpMine m then setPtp s { p with req := none, delay := some ((d + (ptpStamp m - t3 - ptpCorr m)) / 2) } else s
  | _, _ => s

/-- A peer's Pdelay_Req is answered at once, in one step: it leaves as it came. -/
def ptpPeerReq (s : State) (m : List Byte) : State :=
  ptpSend s 3 54 (ptpAt m 8 8) (ptpSeq m) (toBe 10 0 ++ toBe 10 (ptpPort m))

/-- A Pdelay_Resp, and its follow-up where it is two-step: the peer delay is half of the round trip less the peer's time. -/
def ptpPeerRsp (s : State) (m : List Byte) : State :=
  let p := s.time.ptp
  match p.peerReq with
  | some (n, t1) =>
    if n = ptpSeq m ∧ ptpMine m then
      if (ptpAt m 6 1).testBit 1 then
        setPtp s { p with peerReq := none, peerRsp := some (n, ptpNow s - t1, ptpStamp m, ptpCorr m) }
      else setPtp s { p with peerReq := none, peer := some ((ptpNow s - t1 - ptpCorr m) / 2) }
    else s
  | none => s

def ptpPeerFollow (s : State) (m : List Byte) : State :=
  let p := s.time.ptp
  match p.peerRsp with
  | some (n, trip, t2, c) =>
    if n = ptpSeq m ∧ ptpMine m then
      setPtp s { p with peerRsp := none, peer := some ((trip - (ptpStamp m - t2) - c - ptpCorr m) / 2) }
    else s
  | none => s

/-- A PTP message of the clock's domain, by type. Messages of a master come from the one followed. -/
def ptpStep (s : State) (m : List Byte) : State :=
  let p2p := regFld (getDie s 0) rTIME_PTP 10 10 == 1
  let mine := s.time.ptp.parent == some (ptpPort m) && !(ptpAt m 6 1).testBit 0
  match ptpType m with
  | 0x0 => if mine then ptpSync s m else s
  | 0x2 => if p2p then ptpPeerReq s m else s
  | 0x3 => if p2p then ptpPeerRsp s m else s
  | 0x8 => if mine then ptpFollow s m else s
  | 0x9 => if mine && !p2p then ptpDelayRsp s m else s
  | 0xA => if p2p then ptpPeerFollow s m else s
  | 0xB => if (ptpAt m 6 1).testBit 0 then s else ptpAnnounce s m
  | _ => s

/-- R382: PTP_MESSAGE: a frame at the management port of die 0: its transport (0 to 2 as TIME_PTP.TRANSPORT numbers them, 3 none of these) and what it
carries. A frame that is no PTP message of the selected transport is discarded and counted; one of another domain is not the clock's. -/
def ptpMessage (transport : Nat) (msg : List Byte) (s : State) : State :=
  let w := regWord (getDie s 0) rTIME_PTP
  if s.phase != .up || !dieLives s 0 then s
  else if fld w 9 8 ≠ transport ∨ !ptpWell msg then { s with time := { s.time with ptpDrop := satInc (2 ^ 32 - 1) s.time.ptpDrop } }
  else if ptpAt msg 4 1 ≠ fld w 7 0 ∨ ptpAt msg 0 1 / 16 ≠ 0 then s
  else ptpStep (setPtp s (ptpChoose s.time.ptp s.now)) msg

def execPtpMessage (transport : Nat) (msg : List Byte) (s : State) : Host.Outcome State Fault Refusal := .next (ptpMessage transport msg s)

end Sys2Proof.Machine
end

