-- ==== Sys2Proof/Machine/VectorUnit.lean ====
section
/-! DEFINITION. File 05, R122 to R129: the vector engine. -/

namespace Sys2Proof.Machine

/-! Fields (Table 5-12) -/

def vAsrc (w : Word64) : Bool :=
  match opOf w with
  | 0x28 => bit w 36
  | 0x29 => bit w 27
  | 0x2A => bit w 43
  | _ => bit w 40

def vGrow (w : Word64) : Nat :=
  match opOf w with
  | 0x28 => fld w 29 25
  | 0x29 => fld w 26 22
  | 0x2A => fld w 42 38
  | _ => fld w 39 35

def vGn (w : Word64) : Nat :=
  match opOf w with
  | 0x28 => fld w 34 30
  | 0x29 => fld w 35 31
  | 0x2A => fld w 37 33
  | _ => fld w 34 30

def vRmode (w : Word64) : Nat :=
  match opOf w with
  | 0x28 => fld w 24 23
  | 0x29 => fld w 30 29
  | 0x2A => fld w 32 31
  | _ => fld w 19 18

def vOvfm (w : Word64) : Bool :=
  match opOf w with
  | 0x28 => bit w 22
  | 0x29 => bit w 28
  | 0x2A => bit w 30
  | _ => bit w 17

def vAslot (w : Word64) : Nat :=
  match opOf w with
  | 0x28 => fld w 46 42
  | 0x29 => fld w 52 48
  | 0x2A => fld w 48 44
  | _ => fld w 45 41

/-- Whether VOP's function has a second operand (Table 5-13). -/
def vTwo (fn : Nat) : Bool := decide (1 ≤ fn) && decide (fn ≤ 5)

/-! Checks -/

/-- Element e of a stream, as vector and index (R122). -/
def vPos (s : Stream) (e : Nat) : Nat × Nat := (e / s.len, e % s.len)

/-- The ranges that elements 0 to n − 1 of a stream touch. -/
def vTouch (s : Stream) (n : Nat) : List (Nat × Nat) :=
  ((upto n).map (fun e => elemTouch s (vPos s e).1 (vPos s e).2)).flatten

/-- What is wrong with a source stream. -/
def vSrcErr (x : Die) (gpart : Nat) (s : Stream) (n : Nat) : Option Status :=
  match streamErr s with
  | some e => some e
  | none => touchErr x gpart false (vTouch s n)

/-- What is wrong with a destination stream: a blocked output runs along its elements (R116). -/
def vDstErr (x : Die) (gpart : Nat) (s : Stream) (n : Nat) : Option Status :=
  match streamErr s with
  | some e => some e
  | none => if streamBlocked s && s.blkdim then some .badFormat else writeErr x gpart (vTouch s n)

/-! Issue (R97, R98, R122) -/

/-- What an instruction of the vector engine is made of: what it captures beside operand A, the further element streams it reads, the one it
writes, further errors, the register it writes. -/
structure VecForm where
  capt : Core → Word64 → VecOp → VecOp
  srcs : VecOp → List Stream
  dst : VecOp → Option Stream
  extra : VecOp → Option Status
  reg : Word64 → Option Nat

/-- R98, R122: what a vector instruction reads in the cycle it issues. -/
def vecOp (f : VecForm) (k : Core) (r : Run) (w : Word64) : VecOp :=
  f.capt k w
    { word := w, nv := r.nv, wr := r.wr, n := gnat k (vGn w) % 2 ^ 32, row := gnat k (vGrow w), a := slotStream k (vAslot w), b := noStream,
      c := noStream, d := noStream, bval := 0, cval := 0, thr := 0, idx := 0, need := r.arrIss }

/-- The element streams that a vector instruction reads. -/
def vecSrcs (f : VecForm) (o : VecOp) : List Stream := (if vAsrc o.word then [] else [o.a]) ++ f.srcs o

/-- R51, R116, R122: what ends the job at a vector instruction; the order of its checks is the model's (log entry 41). -/
def vecErr (f : VecForm) (x : Die) (k : Core) (r : Run) (w : Word64) : Option Status :=
  let o := vecOp f k r w
  let n := gnat k (vGn w) % 2 ^ 32
  firstErr ([if 2 ^ 24 < n then some .badSlot else none,
    if vRmode w = 3 then some .badFormat else none, f.extra o,
    if vAsrc w && decide (n ≠ 0) && decide (256 ≤ o.row + (n - 1) / 32) then some .badAddr else none]
    ++ (vecSrcs f o).map (fun t => vSrcErr x (dGpart r.job) t n)
    ++ [match f.dst o with | none => none | some t => vDstErr x (dGpart r.job) t n])

/-- R97, R98, R122, R127: queues a vector instruction that the engine accepts, with what it reads in the cycle it issues; its
destination register, where it has one, is pending until it completes. -/
def vecIssue (op : Nat) (d c : Nat) (s : State) (f : VecForm) : State :=
  issue op d c s (fun k r w =>
    if 2 ≤ k.vq.length then s else
    let x := getDie s d
    let o := vecOp f k r w
    let rs := ((vecSrcs f o).map (fun t => vTouch t o.n)).flatten
    match vecErr f x k r w with
    | some st => endBy (if st = .memUe then readRanges s d (dGpart r.job) rs else s) d c (issued k (endRun r st)) st
    | none =>
      let pend := match f.reg w with
        | some g => if g = 0 then r.pend else sadd r.pend g
        | none => r.pend
      let r' := runNext { r with nv := r.nv + 1, wr := r.wr + 1, vecIss := r.vecIss + 1, pend := pend }
      let k1 := issued k r'
      setCore (setDie s d (readTouch x rs)) d c { k1 with vq := k1.vq ++ [o] })

def vopForm : VecForm :=
  { capt := fun k w o => { o with b := slotStream k (fld w 41 37), d := slotStream k (fld w 51 47), bval := greg k (fld w 41 37) }
    srcs := fun o => if vTwo (fld o.word 57 52) && !bit o.word 35 then [o.b] else []
    dst := fun o => some o.d
    extra := fun _ => none
    reg := fun _ => none }

def vfmaForm : VecForm :=
  { capt := fun k w o => { o with
      b := slotStream k (fld w 47 43), c := slotStream k (fld w 42 38), d := slotStream k (fld w 57 53)
      bval := greg k (fld w 47 43), cval := greg k (fld w 42 38) }
    srcs := fun o => (if bit o.word 37 then [] else [o.b]) ++ (if bit o.word 36 then [] else [o.c])
    dst := fun o => some o.d
    extra := fun _ => none
    reg := fun _ => none }

def vredForm : VecForm :=
  { capt := fun _ _ o => o, srcs := fun _ => [], dst := fun _ => none, extra := fun _ => none, reg := fun w => some (fld w 53 49) }

/-- Of VKEEP's record stream only BASE and COUNT count. -/
def vkeepForm : VecForm :=
  { capt := fun k w o => { o with d := slotStream k (fld w 50 46), thr := greg k (fld w 29 25), idx := greg k (fld w 24 20) }
    srcs := fun _ => []
    dst := fun _ => none
    extra := fun o => if o.d.count = 0 then some .badSlot else none
    reg := fun w => some (fld w 55 51) }

/-- R123: VOP. -/
def execVop (d c : Nat) (s : State) : Host.Outcome State Fault Refusal := .next (vecIssue 0x28 d c s vopForm)

/-- R124: VFMA. -/
def execVfma (d c : Nat) (s : State) : Host.Outcome State Fault Refusal := .next (vecIssue 0x29 d c s vfmaForm)

/-- R125: VRED. -/
def execVred (d c : Nat) (s : State) : Host.Outcome State Fault Refusal := .next (vecIssue 0x2A d c s vredForm)

/-- R126: VKEEP. -/
def execVkeep (d c : Nat) (s : State) : Host.Outcome State Fault Refusal := .next (vecIssue 0x2B d c s vkeepForm)

/-! Elements (R122, R127) -/

/-- R127: 24 random bits for element e under a USE. -/
def vecRnd (r : Run) (o : VecOp) (use e : Nat) : Nat :=
  srGen (dSeed r.job) (dSrTag r.job * 2 ^ 16 + use * 2 ^ 13 + e % 2 ^ 13) ((dStep r.job + o.nv + (e >>> 13) <<< 20) % 2 ^ 32) % 2 ^ 24

def vNanInf (c : F32) : Word32 := cIf (f32IsNan c) cNAN ||| cIf (vIsInf (f32Val c)) cINF

/-- Element e of a stream in binary32: decoded exactly; beyond the range of binary32 it is ±Inf with OVF and INF. -/
def vecElem (rd : Nat → Byte) (s : Stream) (e : Nat) : F32 × Word32 :=
  let v := elemVal rd s (vPos s e).1 (vPos s e).2
  let (x, k) := f32Round v
  (x, if bit k 2 then cOVF ||| cINF else cIf (vIsNan v) cNAN)

/-- Element e of operand A. -/
def vecA (rd : Nat → Byte) (k : Core) (r : Run) (o : VecOp) (e : Nat) : F32 × Word32 :=
  if vAsrc o.word then
    let v := accValue (tget k.acc (32 * (o.row + e / 32) + e % 32) accEmpty)
    convertVal .binary32 (vRmode o.word) (vOvfm o.word) (vecRnd r o 2 e) v
  else vecElem rd o.a e

/-- Table 5-13: a function's result and the conditions INX, OVF, DIVZ and INV that it raises itself. -/
def vecFn (fn : Nat) (a b : F32) : F32 × Word32 :=
  match fn with
  | 0x00 => (if f32IsNan a then f32Nan else a, 0)
  | 0x01 => f32Add a b
  | 0x02 => f32Sub a b
  | 0x03 => f32Mul a b
  | 0x04 => (f32Max a b, 0)
  | 0x05 => (f32Min a b, 0)
  | 0x06 => (f32Negate a, 0)
  | 0x07 => (if f32IsNan a then f32Nan else a % 2 ^ 31, 0)
  | 0x08 => (if f32IsNan a then f32Nan else if vLt (.fin false 0 1) (f32Val a) then a else 0, 0)
  | 0x09 => f32Recip a
  | 0x0A => f32Sqrt a
  | 0x0B => f32Rsqrt a
  | 0x0C => f32Exp a
  | 0x0D => f32Log a
  | 0x0E => f32Tanh a
  | _ => f32Sigmoid a

/-- The conditions that arithmetic raises itself: INX, OVF, DIVZ, INV; NAN and INF follow the operands and the result. -/
def vOwn (k : Word32) : Word32 := k &&& 0x65

/-- The binary32 result of element e of VOP or VFMA, with conditions (R123, R124). -/
def vecResult (rd : Nat → Byte) (k : Core) (r : Run) (o : VecOp) (e : Nat) : F32 × Word32 :=
  let w := o.word
  let (a, ka) := vecA rd k r o e
  if opOf w = 0x28 then
    let fn := fld w 57 52
    if vTwo fn then
      let (b, kb) := if bit w 35 then (o.bval.toNat % 2 ^ 32, cIf (f32IsNan (o.bval.toNat % 2 ^ 32)) cNAN) else vecElem rd o.b e
      let (y, ky) := vecFn fn a b
      (y, ka ||| kb ||| vOwn ky ||| vNanInf y)
    else
      let (y, ky) := vecFn fn a 0
      (y, ka ||| vOwn ky ||| vNanInf y)
  else
    let bc (scl : Bool) (v : Word64) (s : Stream) : F32 × Word32 :=
      if scl then (v.toNat % 2 ^ 32, cIf (f32IsNan (v.toNat % 2 ^ 32)) cNAN) else vecElem rd s e
    let (b, kb) := bc (bit w 37) o.bval o.b
    let (z, kz) := bc (bit w 36) o.cval o.c
    let (y, ky) := f32Fma a b z
    (y, ka ||| kb ||| kz ||| vOwn ky ||| vNanInf y)

/-! Results into the destination stream (R124, R400) -/

/-- Writes the results of one block of a blocked destination: elements (v, i0) on, the first of them element e0 of the instruction. A block
that the instruction writes in part is the model's choice (log entry 40). -/
def vecPutBlock (x : Die) (k : Core) (r : Run) (o : VecOp) (v i0 e0 : Nat) (ys : List F32) : Die × Core × Run :=
  let w := o.word
  let f := streamFmt o.d
  let p0 := i0 % 32
  if f == .couched then
    let vals := (upto 32).map (fun p => if p < p0 then Val.fin false 0 1 else f32Val (nth ys (p - p0) 0))
    let (bs, kc) := encodeCouched (vRmode w) (vOvfm w) (fun p => vecRnd r o 3 (e0 + p - p0)) vals
    let r1 := { r with vstatus := r.vstatus ||| kc }
    if o.d.count ≤ v then (x, k, r1) else
    let (x1, k1) := coreStore x k (elemAddr o.d v i0) bs
    let us := (upto 6).map (fun i => (e0 + i, leNat ((bs.drop (4 * i)).take 4)))
    (x1, k1, { r1 with digest := digUnits r1.digest (dSrTag r.job) (digBase o.wr) us })
  else
    let (sc, cs, kc) := encodeBlock f (vRmode w) (vOvfm w) false (fun j => vecRnd r o 3 (e0 + j)) (ys.map f32Val)
    let r1 := { r with vstatus := r.vstatus ||| kc }
    if o.d.count ≤ v then (x, k, r1) else
    let (x1, k1) := cs.zipIdx.foldl (fun (a : Die × Core) (p : Nat × Nat) => putElem a.1 a.2 o.d v (i0 + p.2) p.1) (x, k)
    let (x2, k2) := coreStore x1 k1 (scaleAddr o.d v i0) [sc]
    (x2, k2, { r1 with digest := digUnits r1.digest (dSrTag r.job) (digBase o.wr) (cs.zipIdx.map (fun p => (e0 + p.2, p.1))) })

/-- Writes results from element e on; fuel bounds the blocks. -/
def vecPut (x : Die) (k : Core) (r : Run) (o : VecOp) : Nat → Nat → List F32 → Die × Core × Run
  | 0, _, _ => (x, k, r)
  | _, _, [] => (x, k, r)
  | fuel + 1, e, y :: ys =>
    let (v, i) := vPos o.d e
    if streamBlocked o.d then
      let n := min (32 - i % 32) (o.d.len - i)
      let (x1, k1, r1) := vecPutBlock x k r o v i e ((y :: ys).take n)
      vecPut x1 k1 r1 o fuel (e + n) ((y :: ys).drop n)
    else
      let w := o.word
      let (cd, kc) := convertVal (streamFmt o.d) (vRmode w) (vOvfm w) (vecRnd r o 3 e) (f32Val y)
      let r1 := { r with vstatus := r.vstatus ||| kc }
      if o.d.count ≤ v then vecPut x k r1 o fuel (e + 1) ys
      else
        let (x1, k1) := putElem x k o.d v i cd
        vecPut x1 k1 { r1 with digest := digUnits r1.digest (dSrTag r.job) (digBase o.wr) [(e, cd)] } o fuel (e + 1) ys

/-- The elements of operand A with their conditions. -/
def vecAs (rd : Nat → Byte) (k : Core) (r : Run) (o : VecOp) : List F32 × Word32 :=
  let l := (upto o.n).map (vecA rd k r o)
  (l.map (·.1), l.foldl (fun a p => a ||| p.2) 0)

/-! The reduction order (R125) -/

/-- The step that VRED's FN puts in place of +. -/
def redStep (fn : Nat) (a b : F32) : F32 × Word32 :=
  match fn with
  | 1 => (f32Max a b, 0)
  | 2 => (f32Min a b, 0)
  | _ => f32Add a b

/-- R125: the lanes, each element folded into its lane. -/
def redLanes (fn : Nat) (xs : List F32) : List F32 × Word32 :=
  xs.zipIdx.foldl (fun (a : List F32 × Word32) (p : F32 × Nat) =>
    if p.2 < 64 then (setNth a.1 p.2 p.1, a.2)
    else
      let (t, k) := redStep fn (nth a.1 (p.2 % 64) 0) p.1
      (setNth a.1 (p.2 % 64) t, a.2 ||| vOwn k)) (List.replicate 64 0, 0)

/-- R125: the six tree levels. -/
def redTree (fn : Nat) (t : List F32) : List F32 × Word32 :=
  [32, 16, 8, 4, 2, 1].foldl (fun (a : List F32 × Word32) w =>
    let ps := (a.1.take w).zipWith (redStep fn) (a.1.drop w)
    (ps.map (·.1), ps.foldl (fun k p => k ||| vOwn p.2) a.2)) (t, 0)

/-- R125: VRED's result and the conditions. -/
def vecReduce (fn : Nat) (xs : List F32) : F32 × Word32 :=
  let sq := xs.map (fun x => if fn = 3 then f32Mul x x else (x, 0))
  let (t, k1) := redLanes fn (sq.map (·.1))
  let (u, k2) := redTree fn t
  let y := nth u 0 0
  (y, sq.foldl (fun k p => k ||| vOwn p.2) (k1 ||| k2) ||| vNanInf y)

/-- R126: VKEEP's comparison. -/
def keepPass (cmp : Nat) (a t : F32) : Bool :=
  let x := f32Val a
  let y := f32Val t
  match cmp with
  | 0 => vLt y x
  | 1 => vLt y x || vEq x y
  | 2 => vLt x y
  | _ => vLt x y || vEq x y

/-! Completion (R128) -/

/-- The instruction leaves the engine; its register, where it has one, has its value. -/
def vecRetire (s : State) (d c : Nat) (x : Die) (k : Core) (r : Run) (o : VecOp) (rest : List VecOp) (reg : Option (Nat × Word64)) : State :=
  let r1 := { r with
    vecDone := r.vecDone + 1
    pend := match reg with | some (g, _) => sdel r.pend g | none => r.pend }
  let k1 := corePmcEvent (setRun { k with vq := rest } r1) 0x08 o.n
  tellPos (setCore (setDie s d x) d c (match reg with | some (g, v) => setReg k1 g v | none => k1)) d c

/-- R126: the records that VKEEP writes, their number beyond COUNT dropped; a record outside the core's map ends the job. -/
def vecKeep (s : State) (d c : Nat) (x : Die) (k : Core) (r : Run) (o : VecOp) (rest : List VecOp) : State :=
  let (as', ka) := vecAs (coreByte x k) k r o
  let t := o.thr.toNat % 2 ^ 32
  let hits := (as'.zipIdx.filter (fun p => keepPass (fld o.word 57 56) p.1 t))
  let recs := (hits.take o.d.count).zipIdx.map (fun (p, j) => (j, p.1, (o.idx.toNat + p.2) % 2 ^ 32))
  let r1 := { r with vstatus := r.vstatus ||| ka ||| cIf (f32IsNan t && decide (o.n ≠ 0)) cNAN
                       ||| cIf (recs.any (fun p => vIsInf (f32Val p.2.1))) cINF }
  match writeErr x (dGpart r.job) (recs.map (fun p => (o.d.base + 8 * p.1, 8))) with
  | some st => vecRetire s d c x k (endRun r1 st) o rest none
  | none =>
    let (x1, k1) := recs.foldl (fun (a : Die × Core) p =>
      coreStore a.1 a.2 (o.d.base + 8 * p.1) (toLe 4 p.2.1 ++ toLe 4 p.2.2)) (x, k)
    let us := (recs.map (fun p => [(2 * p.1, p.2.1), (2 * p.1 + 1, p.2.2)])).flatten
    vecRetire s d c x1 k1 { r1 with digest := digUnits r1.digest (dSrTag r.job) (digBase o.wr) us } o rest
      (some (fld o.word 55 51, BitVec.ofNat 64 hits.length))

/-- R60: whether a vector instruction whose operand A is accumulator rows waits for an update to one of them of an array instruction issued
before it. -/
def vecWaits (k : Core) (o : VecOp) : Bool :=
  vAsrc o.word && (upto (cdiv o.n 32)).any (fun i => rowPending k o.need (o.row + i))

/-- R122 to R129: the oldest vector instruction completes: its elements are read, its results written, its conditions raised. -/
def vectorDone (d c : Nat) (s : State) : State :=
  let x := getDie s d
  let k := coreOf x c
  if !dieUp s d then s else
  match k.run, k.vq with
  | some r, o :: rest =>
    if vecWaits k o then s else
    let w := o.word
    let rd := coreByte x k
    match opOf w with
    | 0x2B => vecKeep s d c x k r o rest
    | 0x2A =>
      let (xs, ka) := vecAs rd k r o
      let (y, ky) := vecReduce (fld w 57 54) xs
      let dg := digUnits r.digest (dSrTag r.job) (digBase o.wr) [(0, y)]
      vecRetire s d c x k { r with vstatus := r.vstatus ||| ka ||| ky, digest := dg } o rest (some (fld w 53 49, BitVec.ofNat 64 y))
    | _ =>
      let l := (upto o.n).map (vecResult rd k r o)
      let r1 := { r with vstatus := l.foldl (fun a p => a ||| p.2) r.vstatus }
      let (x1, k1, r2) := vecPut x k r1 o (o.n + 1) 0 (l.map (·.1))
      vecRetire s d c x1 k1 r2 o rest none
  | _, _ => s

/-- R128: VECTOR_INSTRUCTION_DONE. -/
def execVectorInstructionDone (d c : Nat) (s : State) : Host.Outcome State Fault Refusal := .next (vectorDone d c s)

end Sys2Proof.Machine
end

