-- ==== Sys2Proof/Machine/Dispatch.lean ====
section
/-! DEFINITION. Which meaning each command has: one arm per constructor. -/

namespace Sys2Proof.Machine

/-- The effect of one command on everything but the queue of waiting commands. -/
def exec (i : Instr) (s : State) : Host.Outcome State Fault Refusal :=
  match i with
  | .nop d c => Sys2Proof.Machine.execNop d c s
  | .add d c => Sys2Proof.Machine.execAdd d c s
  | .sub d c => Sys2Proof.Machine.execSub d c s
  | .mul d c => Sys2Proof.Machine.execMul d c s
  | .and d c => Sys2Proof.Machine.execAnd d c s
  | .or d c => Sys2Proof.Machine.execOr d c s
  | .xor d c => Sys2Proof.Machine.execXor d c s
  | .shl d c => Sys2Proof.Machine.execShl d c s
  | .shr d c => Sys2Proof.Machine.execShr d c s
  | .sra d c => Sys2Proof.Machine.execSra d c s
  | .slt d c => Sys2Proof.Machine.execSlt d c s
  | .addi d c => Sys2Proof.Machine.execAddi d c s
  | .li d c => Sys2Proof.Machine.execLi d c s
  | .lih d c => Sys2Proof.Machine.execLih d c s
  | .ld d c => Sys2Proof.Machine.execLd d c s
  | .st d c => Sys2Proof.Machine.execSt d c s
  | .gat d c => Sys2Proof.Machine.execGat d c s
  | .sld d c => Sys2Proof.Machine.execSld d c s
  | .sbase d c => Sys2Proof.Machine.execSbase d c s
  | .cvld d c => Sys2Proof.Machine.execCvld d c s
  | .fence d c => Sys2Proof.Machine.execFence d c s
  | .prog d c => Sys2Proof.Machine.execProg d c s
  | .beq d c => Sys2Proof.Machine.execBeq d c s
  | .bne d c => Sys2Proof.Machine.execBne d c s
  | .blt d c => Sys2Proof.Machine.execBlt d c s
  | .bge d c => Sys2Proof.Machine.execBge d c s
  | .bltu d c => Sys2Proof.Machine.execBltu d c s
  | .jal d c => Sys2Proof.Machine.execJal d c s
  | .jr d c => Sys2Proof.Machine.execJr d c s
  | .halt d c => Sys2Proof.Machine.execHalt d c s
  | .wld d c => Sys2Proof.Machine.execWld d c s
  | .pass d c => Sys2Proof.Machine.execPass d c s
  | .cvt d c => Sys2Proof.Machine.execCvt d c s
  | .acsv d c => Sys2Proof.Machine.execAcsv d c s
  | .acrs d c => Sys2Proof.Machine.execAcrs d c s
  | .vop d c => Sys2Proof.Machine.execVop d c s
  | .vfma d c => Sys2Proof.Machine.execVfma d c s
  | .vred d c => Sys2Proof.Machine.execVred d c s
  | .vkeep d c => Sys2Proof.Machine.execVkeep d c s
  | .karv d c => Sys2Proof.Machine.execKarv d c s
  | .kwait d c => Sys2Proof.Machine.execKwait d c s
  | .ksig d c => Sys2Proof.Machine.execKsig d c s
  | .ktake d c => Sys2Proof.Machine.execKtake d c s
  | .dma d c => Sys2Proof.Machine.execDma d c s
  | .dmaw d c => Sys2Proof.Machine.execDmaw d c s
  | .eng d c => Sys2Proof.Machine.execEng d c s
  | .ctrd d c => Sys2Proof.Machine.execCtrd d c s
  | .arrivalTakesEffect d c => Sys2Proof.Machine.execArrivalTakesEffect d c s
  | .knotWaitTimeout d c => Sys2Proof.Machine.execKnotWaitTimeout d c s
  | .arrayPortCycle d c => Sys2Proof.Machine.execArrayPortCycle d c s
  | .accUpdate d c mismatch => Sys2Proof.Machine.execAccUpdate d c mismatch s
  | .vectorInstructionDone d c => Sys2Proof.Machine.execVectorInstructionDone d c s
  | .jobStart d c => Sys2Proof.Machine.execJobStart d c s
  | .jobCommit d c => Sys2Proof.Machine.execJobCommit d c s
  | .jobTimeout d c => Sys2Proof.Machine.execJobTimeout d c s
  | .nopDescriptor q desc ext => Sys2Proof.Machine.execNopDescriptor q desc ext s
  | .coreJob q desc ext => Sys2Proof.Machine.execCoreJob q desc ext s
  | .engineOperation q desc ext => Sys2Proof.Machine.execEngineOperation q desc ext s
  | .dmaDescriptor q desc ext => Sys2Proof.Machine.execDmaDescriptor q desc ext s
  | .contextOpen q desc ext => Sys2Proof.Machine.execContextOpen q desc ext s
  | .contextClose q desc ext => Sys2Proof.Machine.execContextClose q desc ext s
  | .tableUpdate q desc ext => Sys2Proof.Machine.execTableUpdate q desc ext s
  | .tableUpdateActivate q desc ext => Sys2Proof.Machine.execTableUpdateActivate q desc ext s
  | .maintRecal q desc ext => Sys2Proof.Machine.execMaintRecal q desc ext s
  | .maintStackScrub q desc ext => Sys2Proof.Machine.execMaintStackScrub q desc ext s
  | .maintStackRepair q desc ext => Sys2Proof.Machine.execMaintStackRepair q desc ext s
  | .maintCore q desc ext => Sys2Proof.Machine.execMaintCore q desc ext s
  | .maintGnd q desc ext => Sys2Proof.Machine.execMaintGnd q desc ext s
  | .maintSelftest q desc ext => Sys2Proof.Machine.execMaintSelftest q desc ext s
  | .gateList q desc ext => Sys2Proof.Machine.execGateListDescriptor q desc ext s
  | .fwStage q desc ext => Sys2Proof.Machine.execFwStage q desc ext s
  | .fwSelect q desc ext => Sys2Proof.Machine.execFwSelect q desc ext s
  | .fwCommitSvn q desc ext => Sys2Proof.Machine.execFwCommitSvn q desc ext s
  | .fwAttest q desc ext => Sys2Proof.Machine.execFwAttest q desc ext s
  | .fwReadCert q desc ext => Sys2Proof.Machine.execFwReadCert q desc ext s
  | .portAdmit q desc ext => Sys2Proof.Machine.execPortAdmit q desc ext s
  | .portWithdraw q desc ext => Sys2Proof.Machine.execPortWithdraw q desc ext s
  | .moduleRead q desc ext => Sys2Proof.Machine.execModuleRead q desc ext s
  | .moduleWrite q desc ext => Sys2Proof.Machine.execModuleWrite q desc ext s
  | .abort q desc ext => Sys2Proof.Machine.execAbort q desc ext s
  | .sqTailWrite q v => Sys2Proof.Machine.execSqTailWrite q v s
  | .cqHeadWrite ring v => Sys2Proof.Machine.execCqHeadWrite ring v s
  | .descriptorWaitTimeout q desc ext => Sys2Proof.Machine.execDescriptorWaitTimeout q desc ext s
  | .completionRecordWrite cq => Sys2Proof.Machine.execCompletionRecordWrite cq s
  | .interruptCoalesceTimeout ring => Sys2Proof.Machine.execInterruptCoalesceTimeout ring s
  | .progressEntryWrite q idx pos => Sys2Proof.Machine.execProgressEntryWrite q idx pos s
  | .ringEnable kind ring v => Sys2Proof.Machine.execRingEnable kind ring v s
  | .ringDisable kind ring v => Sys2Proof.Machine.execRingDisable kind ring v s
  | .ringSetupLock v => Sys2Proof.Machine.execRingSetupLock v s
  | .registerWrite addr v => Sys2Proof.Machine.execRegisterWrite addr v s
  | .companionMemoryAccess write addr n data => Sys2Proof.Machine.execCompanionMemoryAccess write addr n data s
  | .companionAtomic addr aop y => Sys2Proof.Machine.execCompanionAtomic addr aop y s
  | .itgSwitch v => Sys2Proof.Machine.execItgSwitch v s
  | .itgLinkDown => Sys2Proof.Machine.execItgLinkDown s
  | .engineRequestAccept d e => Sys2Proof.Machine.execEngineRequestAccept d e s
  | .pool d ext => Sys2Proof.Machine.execPool d ext s
  | .topkOpen d => Sys2Proof.Machine.execTopkOpen d s
  | .topkAdd d ext => Sys2Proof.Machine.execTopkAdd d ext s
  | .topkClose d => Sys2Proof.Machine.execTopkClose d s
  | .convert d u ext => Sys2Proof.Machine.execConvert d u ext s
  | .hash d ext => Sys2Proof.Machine.execHash d ext s
  | .sum d ext => Sys2Proof.Machine.execSum d ext s
  | .engineRequestCommit d u => Sys2Proof.Machine.execEngineRequestCommit d u s
  | .chainedJobWaitTimeout d => Sys2Proof.Machine.execChainedJobWaitTimeout d s
  | .dmaRequestComplete d id ext => Sys2Proof.Machine.execDmaRequestComplete d id ext s
  | .handleCacheFetch d p g => Sys2Proof.Machine.execHandleCacheFetch d p g s
  | .packetHeaderArrival d l hdr => Sys2Proof.Machine.execPacketHeaderArrival d l hdr s
  | .packetReceived d l rest fecOk => Sys2Proof.Machine.execPacketReceived d l rest fecOk s
  | .bridgeHop d b => Sys2Proof.Machine.execBridgeHop d b s
  | .packetTransmit d l => Sys2Proof.Machine.execPacketTransmit d l s
  | .residenceExpiry d o j => Sys2Proof.Machine.execResidenceExpiry d o j s
  | .escWaitExpiry d j => Sys2Proof.Machine.execEscWaitExpiry d j s
  | .warmGroupEnd g => Sys2Proof.Machine.execWarmGroupEnd g s
  | .depthSample d => Sys2Proof.Machine.execDepthSample d s
  | .write d => Sys2Proof.Machine.execWrite d s
  | .read d => Sys2Proof.Machine.execRead d s
  | .atomic d => Sys2Proof.Machine.execAtomic d s
  | .engine d => Sys2Proof.Machine.execEngine d s
  | .readData d => Sys2Proof.Machine.execReadData d s
  | .atomicData d => Sys2Proof.Machine.execAtomicData d s
  | .engDone d => Sys2Proof.Machine.execEngDone d s
  | .replyWrite d => Sys2Proof.Machine.execReplyWrite d s
  | .ack d => Sys2Proof.Machine.execAck d s
  | .resend d => Sys2Proof.Machine.execResend d s
  | .mgmtMsg d => Sys2Proof.Machine.execMgmtMsg d s
  | .ackDelayExpiry d agent chip => Sys2Proof.Machine.execAckDelayExpiry d agent chip s
  | .rtoExpiry d agent chip seq => Sys2Proof.Machine.execRtoExpiry d agent chip seq s
  | .finWaitExpiry d src tag => Sys2Proof.Machine.execFinWaitExpiry d src tag s
  | .sequenceHoldoffExpiry => Sys2Proof.Machine.execSequenceHoldoffExpiry s
  | .fabSelfWrite d v => Sys2Proof.Machine.execFabSelfWrite d v s
  | .data d poison => Sys2Proof.Machine.execData d poison s
  | .prick d poison => Sys2Proof.Machine.execPrick d poison s
  | .result d => Sys2Proof.Machine.execResult d s
  | .window d => Sys2Proof.Machine.execWindow d s
  | .recontrib d => Sys2Proof.Machine.execRecontrib d s
  | .deliver d => Sys2Proof.Machine.execDeliver d s
  | .collAck d => Sys2Proof.Machine.execCollAck d s
  | .chunkResultConvert d poison => Sys2Proof.Machine.execChunkResultConvert d poison s
  | .contextAdmissionTry => Sys2Proof.Machine.execContextAdmissionTry s
  | .admissionTimeout id => Sys2Proof.Machine.execAdmissionTimeout id s
  | .localContributionStart d => Sys2Proof.Machine.execLocalContributionStart d s
  | .contextCommit => Sys2Proof.Machine.execContextCommit s
  | .contextLimitExpiry id gen => Sys2Proof.Machine.execContextLimitExpiry id gen s
  | .arrive d => Sys2Proof.Machine.execArrive d s
  | .release d => Sys2Proof.Machine.execRelease d s
  | .arriveRepeat k => Sys2Proof.Machine.execArriveRepeat k s
  | .timedRelease d k => Sys2Proof.Machine.execTimedRelease d k s
  | .knotCfgWrite d k v => Sys2Proof.Machine.execKnotCfgWrite d k v s
  | .syncTime d => Sys2Proof.Machine.execSyncTime d s
  | .syncTimeSend => Sys2Proof.Machine.execSyncTimeSend s
  | .delayReq d => Sys2Proof.Machine.execDelayReq d s
  | .delayReqSend => Sys2Proof.Machine.execDelayReqSend s
  | .delayRsp d => Sys2Proof.Machine.execDelayRsp d s
  | .ptpMessage t msg => Sys2Proof.Machine.execPtpMessage t msg s
  | .measurementTimeout => Sys2Proof.Machine.execMeasurementTimeout s
  | .holdSExpiry => Sys2Proof.Machine.execHoldSExpiry s
  | .timeCfgSrcWrite v => Sys2Proof.Machine.execTimeCfgSrcWrite v s
  | .timeNowRead d => Sys2Proof.Machine.execTimeNowRead d s
  | .lockstepOrphanTimeout => Sys2Proof.Machine.execLockstepOrphanTimeout s
  | .gateTakeover d l => Sys2Proof.Machine.execGateTakeover d l s
  | .gateEntryChange d l => Sys2Proof.Machine.execGateEntryChange d l s
  | .hoopGrant => Sys2Proof.Machine.execHoopGrant s
  | .hoopActivityCommit act d found ext => Sys2Proof.Machine.execHoopActivityCommit act d found ext s
  | .coreTestComplete d find arr col row => Sys2Proof.Machine.execCoreTestComplete d find arr col row s
  | .drainStopComplete => Sys2Proof.Machine.execDrainStopComplete s
  | .drainWaitComplete => Sys2Proof.Machine.execDrainWaitComplete s
  | .drainCommit => Sys2Proof.Machine.execDrainCommit s
  | .codewordReceived d j ctl data par => Sys2Proof.Machine.execCodewordReceived d j ctl data par s
  | .credit d l b cnt => Sys2Proof.Machine.execCredit d l b cnt s
  | .advert d l b units => Sys2Proof.Machine.execAdvert d l b units s
  | .state d l st drained => Sys2Proof.Machine.execState d l st drained s
  | .creditRepeat d l => Sys2Proof.Machine.execCreditRepeat d l s
  | .advertRepeat d l => Sys2Proof.Machine.execAdvertRepeat d l s
  | .laneSignalDetect d j long => Sys2Proof.Machine.execLaneSignalDetect d j long s
  | .trainingFrame d j c inv ask => Sys2Proof.Machine.execTrainingFrame d j c inv ask s
  | .trainMsExpiry d l => Sys2Proof.Machine.execTrainMsExpiry d l s
  | .helloFrame d j bs => Sys2Proof.Machine.execHelloFrame d j bs s
  | .helloTimeout d l => Sys2Proof.Machine.execHelloTimeout d l s
  | .lossOfSignal d j => Sys2Proof.Machine.execLossOfSignal d j s
  | .faultOrderedSet d j => Sys2Proof.Machine.execFaultOrderedSet d j s
  | .presenceDebounced d o => Sys2Proof.Machine.execPresenceDebounced d o s
  | .unplug d o => Sys2Proof.Machine.execUnplug d o s
  | .cmisPoll d o ack app ready modst alarms => Sys2Proof.Machine.execCmisPoll d o ack app ready modst alarms s
  | .moduleReadyTimeout d o => Sys2Proof.Machine.execModuleReadyTimeout d o s
  | .buttonRelease d o ms => Sys2Proof.Machine.execButtonRelease d o ms s
  | .buttonStuck d o => Sys2Proof.Machine.execButtonStuck d o s
  | .sidebandTest d o found => Sys2Proof.Machine.execSidebandTest d o found s
  | .removalComplete d l late => Sys2Proof.Machine.execRemovalComplete d l late s
  | .portCfgWrite d o v => Sys2Proof.Machine.execPortCfgWrite d o v s
  | .laneCtlWrite d j v => Sys2Proof.Machine.execLaneCtlWrite d j v s
  | .swPolrateWrite d l c v => Sys2Proof.Machine.execSwPolrateWrite d l c v s
  | .swHistBaseWrite d v => Sys2Proof.Machine.execSwHistBaseWrite d v s
  | .timeDlogWrite v => Sys2Proof.Machine.execTimeDlogWrite v s
  | .pmcLowWordRead d off => Sys2Proof.Machine.execPmcLowWordRead d off s
  | .pmcCounterWrite d off v => Sys2Proof.Machine.execPmcCounterWrite d off v s
  | .pmcPwinWrite d l v => Sys2Proof.Machine.execPmcPwinWrite d l v s
  | .bandwidthWindowEnd d l => Sys2Proof.Machine.execBandwidthWindowEnd d l s
  | .groundScrub d ces ues rows turned => Sys2Proof.Machine.execGroundScrub d ces ues rows turned s
  | .stackPatrolScrub d ces ues rows tested cols chans lines turned => Sys2Proof.Machine.execStackPatrolScrub d ces ues rows tested cols chans lines turned s
  | .stackRefresh d => Sys2Proof.Machine.execStackRefresh d s
  | .stackTemperature d t => Sys2Proof.Machine.execStackTemperature d t s
  | .stackChannelCopyComplete d bad => Sys2Proof.Machine.execStackChannelCopyComplete d bad s
  | .stackZeroFillComplete d => Sys2Proof.Machine.execStackZeroFillComplete d s
  | .keepRepairRecordWrite => Sys2Proof.Machine.execKeepRepairRecordWrite s
  | .keepPresetWrite d l => Sys2Proof.Machine.execKeepPresetWrite d l s
  | .unitFaultC2 d code idx arg => Sys2Proof.Machine.execUnitFaultC2 d code idx arg s
  | .bridgeTransferFailure d b g w how => Sys2Proof.Machine.execBridgeTransferFailure d b g w how s
  | .dieFaultC3 d code => Sys2Proof.Machine.execDieFaultC3 d code s
  | .stewardHeartbeatLost d => Sys2Proof.Machine.execStewardHeartbeatLost d s
  | .packageFaultC4 code => Sys2Proof.Machine.execPackageFaultC4 code s
  | .railOutOfRange rail => Sys2Proof.Machine.execRailOutOfRange rail s
  | .ref25Absent => Sys2Proof.Machine.execRef25Absent s
  | .junctionTemperatureSample d tj => Sys2Proof.Machine.execJunctionTemperatureSample d tj s
  | .powerCapStep watts => Sys2Proof.Machine.execPowerCapStep watts s
  | .throtNChange low => Sys2Proof.Machine.execThrotNChange low s
  | .avsSetpointStep d rise ack => Sys2Proof.Machine.execAvsSetpointStep d rise ack s
  | .coreIdleSleep d c => Sys2Proof.Machine.execCoreIdleSleep d c s
  | .engineIdleSleep d u => Sys2Proof.Machine.execEngineIdleSleep d u s
  | .pwrCtlStandby woken => Sys2Proof.Machine.execPwrCtlStandby woken s
  | .pwrCtlReady woken => Sys2Proof.Machine.execPwrCtlReady woken s
  | .wakeNAssert => Sys2Proof.Machine.execWakeNAssert s
  | .coreRailsInRange => Sys2Proof.Machine.execCoreRailsInRange s
  | .porstNRelease low => Sys2Proof.Machine.execPorstNRelease low s
  | .sysrstNRelease low => Sys2Proof.Machine.execSysrstNRelease low s
  | .powerOff => Sys2Proof.Machine.execPowerOff s
  | .firmwareVerify ids bad stA stB => Sys2Proof.Machine.execFirmwareVerify ids bad stA stB s
  | .bootChecksComplete d found => Sys2Proof.Machine.execBootChecksComplete d found s
  | .bootComplete width0 width1 => Sys2Proof.Machine.execBootComplete width0 width1 s
  | .testLogicReset => Sys2Proof.Machine.execTestLogicReset s
  | .idcode => Sys2Proof.Machine.execIdcode s
  | .samplePreload pins v => Sys2Proof.Machine.execSamplePreload pins v s
  | .extest pins v low => Sys2Proof.Machine.execExtest pins v low s
  | .extestPulse pins v low => Sys2Proof.Machine.execExtestPulse pins v low s
  | .extestTrain pins v low => Sys2Proof.Machine.execExtestTrain pins v low s
  | .highz low => Sys2Proof.Machine.execHighz low s
  | .clamp low => Sys2Proof.Machine.execClamp low s
  | .bypass code => Sys2Proof.Machine.execBypass code s
  | .powerUp => Sys2Proof.Machine.execPowerUp s
  | .prbsCheckerLock d j n rx => Sys2Proof.Machine.execPrbsCheckerLock d j n rx s
  | .buttonStuckClear d o => Sys2Proof.Machine.execButtonStuckClear d o s
  | .standbyEntryComplete => Sys2Proof.Machine.execStandbyEntryComplete s
  | .moduleAccessStart d octet ack bytes ext => Sys2Proof.Machine.execModuleAccessStart d octet ack bytes ext s

end Sys2Proof.Machine
end

