-- ==== Sys2Proof/Machine/Tick.lean ====
section
/-! DEFINITION. What the clocks do while no command waits: one cycle of the 50 MHz always-on clock (R377). Log entry 3. -/

namespace Sys2Proof.Machine

/-- R377: a time counter (2^-32 ns) after one cycle of the always-on clock. -/
def clockTick (clock : Nat) (fadj : Int) : Nat := (((clock : Int) + 20 * 2 ^ 32 + fadj) % 2 ^ 96).toNat

/-- 20 ns of a die. -/
def tickDie (s : State) (d : Nat) (x : Die) : Die := passDie s d 1 (clockTick x.clock s.time.fadj) x

/-- R377: one cycle of the always-on clock. Nothing counts while the package is off or held in reset. -/
def tick (s : State) : State :=
  if s.phase == .off || s.phase == .held then { s with now := s.now + 20 }
  else { foldUpto (ndies s.variant) s (fun t d => setDie t d (tickDie s d (getDie s d))) with now := s.now + 20 }

end Sys2Proof.Machine
end

