-- ==== Sys2Proof/WellFormed.lean ====
section
/-! DEFINITION. Which commands are well formed: every operand in the range that the spec gives it. A command that is not has no
effect where the range is one of the block's own (log entry 2). -/

namespace Sys2Proof

/-- A die position (Table 0-1: up to eight dies). -/
def okDie (d : Nat) : Bool := decide (d < 8)
/-- A logical core of a die (R9). -/
def okCore (c : Nat) : Bool := decide (c < 150)
/-- A lane of a die, or a port by its lowest lane (file 11: 96 lanes). -/
def okLane (l : Nat) : Bool := decide (l < 96)
/-- An octet of lanes with its cage (file 11: twelve). -/
def okOctet (o : Nat) : Bool := decide (o < 12)
/-- A submission or completion ring (file 12: n runs from 0 to 255). -/
def okRing (q : Nat) : Bool := decide (q < 256)
/-- A completion ring, or the event ring as number 256. -/
def okRecRing (q : Nat) : Bool := decide (q < 257)
/-- A bridge port of a die (Table 1-2). -/
def okBridge (b : Nat) : Bool := decide (b < 4)
/-- An engine of a die: 0 pooling, 1 top-k, 2 and 3 codec, 4 digest. -/
def okUnit (u : Nat) : Bool := decide (u < 5)
/-- A chip number (file 08: 0 to 32,767). -/
def okChip (c : Nat) : Bool := decide (c < 32768)
/-- Where a packet waits at a die: an output's queue, 100 the packets without a candidate, 101 those that a drain holds. -/
def okOut (o : Nat) : Bool := decide (o < 102)
/-- A descriptor index or a position: 32 bits (Table 12-4). -/
def okIdx (i : Nat) : Bool := decide (i < 2 ^ 32)
/-- A byte address of the companion link. -/
def okAddr (a : Nat) : Bool := decide (a < 2 ^ 64)
/-- A knot: 256 of a die, then the package's (R388). -/
def okKnot (k : Nat) : Bool := decide (k < 352)
/-- A collective context's CTX_ID (file 07: four bytes). -/
def okCtx (id : Nat) : Bool := decide (id < 2 ^ 32)
/-- A buffer of a port's credit loop (R515). -/
def okBuf (b : Nat) : Bool := decide (b < 32)
/-- A hoop activity of Table 12-10 that commits through the hoop: the drain has commands of its own. -/
def okAct (a : Nat) : Bool := decide (2 ≤ a) && decide (a ≤ 7)

/-- Addresses strictly rising from an address on. -/
def cellsFrom : Nat → List Host.Cell → Bool
  | _, [] => true
  | lo, (a, _) :: m => decide (lo ≤ a) && cellsFrom (a + 1) m

/-- What lies outside the package: each address once. -/
def okExt (m : List Host.Cell) : Bool := cellsFrom 0 m

/-- Whether a command is well formed. -/
def wellFormed (i : Instr) : Bool :=
  match i with
  | .nop d c => okDie d && okCore c
  | .add d c => okDie d && okCore c
  | .sub d c => okDie d && okCore c
  | .mul d c => okDie d && okCore c
  | .and d c => okDie d && okCore c
  | .or d c => okDie d && okCore c
  | .xor d c => okDie d && okCore c
  | .shl d c => okDie d && okCore c
  | .shr d c => okDie d && okCore c
  | .sra d c => okDie d && okCore c
  | .slt d c => okDie d && okCore c
  | .addi d c => okDie d && okCore c
  | .li d c => okDie d && okCore c
  | .lih d c => okDie d && okCore c
  | .ld d c => okDie d && okCore c
  | .st d c => okDie d && okCore c
  | .gat d c => okDie d && okCore c
  | .sld d c => okDie d && okCore c
  | .sbase d c => okDie d && okCore c
  | .cvld d c => okDie d && okCore c
  | .fence d c => okDie d && okCore c
  | .prog d c => okDie d && okCore c
  | .beq d c => okDie d && okCore c
  | .bne d c => okDie d && okCore c
  | .blt d c => okDie d && okCore c
  | .bge d c => okDie d && okCore c
  | .bltu d c => okDie d && okCore c
  | .jal d c => okDie d && okCore c
  | .jr d c => okDie d && okCore c
  | .halt d c => okDie d && okCore c
  | .wld d c => okDie d && okCore c
  | .pass d c => okDie d && okCore c
  | .cvt d c => okDie d && okCore c
  | .acsv d c => okDie d && okCore c
  | .acrs d c => okDie d && okCore c
  | .vop d c => okDie d && okCore c
  | .vfma d c => okDie d && okCore c
  | .vred d c => okDie d && okCore c
  | .vkeep d c => okDie d && okCore c
  | .karv d c => okDie d && okCore c
  | .kwait d c => okDie d && okCore c
  | .ksig d c => okDie d && okCore c
  | .ktake d c => okDie d && okCore c
  | .dma d c => okDie d && okCore c
  | .dmaw d c => okDie d && okCore c
  | .eng d c => okDie d && okCore c
  | .ctrd d c => okDie d && okCore c
  | .arrivalTakesEffect d c => okDie d && okCore c
  | .knotWaitTimeout d c => okDie d && okCore c
  | .arrayPortCycle d c => okDie d && okCore c
  | .accUpdate d c _ => okDie d && okCore c
  | .vectorInstructionDone d c => okDie d && okCore c
  | .jobStart d c => okDie d && okCore c
  | .jobCommit d c => okDie d && okCore c
  | .jobTimeout d c => okDie d && okCore c
  | .nopDescriptor q _ ext => okRing q && okExt ext
  | .coreJob q _ ext => okRing q && okExt ext
  | .engineOperation q _ ext => okRing q && okExt ext
  | .dmaDescriptor q _ ext => okRing q && okExt ext
  | .contextOpen q _ ext => okRing q && okExt ext
  | .contextClose q _ ext => okRing q && okExt ext
  | .tableUpdate q _ ext => okRing q && okExt ext
  | .tableUpdateActivate q _ ext => okRing q && okExt ext
  | .maintRecal q _ ext => okRing q && okExt ext
  | .maintStackScrub q _ ext => okRing q && okExt ext
  | .maintStackRepair q _ ext => okRing q && okExt ext
  | .maintCore q _ ext => okRing q && okExt ext
  | .maintGnd q _ ext => okRing q && okExt ext
  | .maintSelftest q _ ext => okRing q && okExt ext
  | .gateList q _ ext => okRing q && okExt ext
  | .fwStage q _ ext => okRing q && okExt ext
  | .fwSelect q _ ext => okRing q && okExt ext
  | .fwCommitSvn q _ ext => okRing q && okExt ext
  | .fwAttest q _ ext => okRing q && okExt ext
  | .fwReadCert q _ ext => okRing q && okExt ext
  | .portAdmit q _ ext => okRing q && okExt ext
  | .portWithdraw q _ ext => okRing q && okExt ext
  | .moduleRead q _ ext => okRing q && okExt ext
  | .moduleWrite q _ ext => okRing q && okExt ext
  | .abort q _ ext => okRing q && okExt ext
  | .sqTailWrite q _ => okRing q
  | .cqHeadWrite ring _ => okRecRing ring
  | .descriptorWaitTimeout q _ ext => okRing q && okExt ext
  | .completionRecordWrite cq => okRing cq
  | .interruptCoalesceTimeout ring => okRecRing ring
  | .progressEntryWrite q idx pos => okRing q && okIdx idx && okIdx pos
  | .ringEnable kind ring v => decide (kind < 3) && okRing ring && v.getLsbD 31
  | .ringDisable kind ring v => decide (kind < 3) && okRing ring && !v.getLsbD 31
  | .ringSetupLock _ => true
  | .registerWrite addr _ => (okAddr addr && addr % 4 == 0)
  | .companionMemoryAccess write addr n data => okAddr addr && (if write then n == data.length else data.isEmpty)
  | .companionAtomic addr aop y => okAddr addr && decide (aop < 8) && decide (y < 2 ^ 64)
  | .itgSwitch _ => true
  | .itgLinkDown => true
  | .engineRequestAccept d e => okDie d && okUnit e
  | .pool d ext => okDie d && okExt ext
  | .topkOpen d => okDie d
  | .topkAdd d ext => okDie d && okExt ext
  | .topkClose d => okDie d
  | .convert d u ext => okDie d && (u == 2 || u == 3) && okExt ext
  | .hash d ext => okDie d && okExt ext
  | .sum d ext => okDie d && okExt ext
  | .engineRequestCommit d u => okDie d && okUnit u
  | .chainedJobWaitTimeout d => okDie d
  | .dmaRequestComplete d _ ext => okDie d && okExt ext
  | .handleCacheFetch d p g => okDie d && decide (p < 3) && decide (g < 14)
  | .packetHeaderArrival d l _ => okDie d && okLane l
  | .packetReceived d l rest _ => okDie d && okLane l && decide (rest.length ≤ 4132)
  | .bridgeHop d b => okDie d && okBridge b
  | .packetTransmit d l => okDie d && okLane l
  | .residenceExpiry d o _ => okDie d && okOut o
  | .escWaitExpiry d _ => okDie d
  | .warmGroupEnd _ => true
  | .depthSample d => okDie d
  | .write d => okDie d
  | .read d => okDie d
  | .atomic d => okDie d
  | .engine d => okDie d
  | .readData d => okDie d
  | .atomicData d => okDie d
  | .engDone d => okDie d
  | .replyWrite d => okDie d
  | .ack d => okDie d
  | .resend d => okDie d
  | .mgmtMsg d => okDie d
  | .ackDelayExpiry d _ chip => okDie d && okChip chip
  | .rtoExpiry d _ chip _ => okDie d && okChip chip
  | .finWaitExpiry d src tag => okDie d && okChip src && decide (tag < 65536)
  | .sequenceHoldoffExpiry => true
  | .fabSelfWrite d _ => okDie d
  | .data d poison => okDie d && decide (poison < 3)
  | .prick d poison => okDie d && decide (poison < 3)
  | .result d => okDie d
  | .window d => okDie d
  | .recontrib d => okDie d
  | .deliver d => okDie d
  | .collAck d => okDie d
  | .chunkResultConvert d poison => okDie d && decide (poison < 3)
  | .contextAdmissionTry => true
  | .admissionTimeout id => okCtx id
  | .localContributionStart d => okDie d
  | .contextCommit => true
  | .contextLimitExpiry id gen => okCtx id && decide (gen < 256)
  | .arrive d => okDie d
  | .release d => okDie d
  | .arriveRepeat k => okKnot k
  | .timedRelease d k => okDie d && okKnot k
  | .knotCfgWrite d k _ => okDie d && okKnot k
  | .syncTime d => okDie d
  | .syncTimeSend => true
  | .delayReq d => okDie d
  | .delayReqSend => true
  | .delayRsp d => okDie d
  | .ptpMessage t msg => decide (t < 4) && decide (msg.length < 2048)
  | .measurementTimeout => true
  | .holdSExpiry => true
  | .timeCfgSrcWrite _ => true
  | .timeNowRead d => okDie d
  | .lockstepOrphanTimeout => true
  | .gateTakeover d l => okDie d && okLane l
  | .gateEntryChange d l => okDie d && okLane l
  | .hoopGrant => true
  | .hoopActivityCommit act d _ ext => okAct act && okDie d && okExt ext
  | .coreTestComplete d find arr col _ => okDie d && decide (find ≠ 1 ∨ (arr < 2 ∧ col ≤ 32))
  | .drainStopComplete => true
  | .drainWaitComplete => true
  | .drainCommit => true
  | .codewordReceived d i _ _ _ => okDie d && okLane i
  | .credit d l b cnt => okDie d && okLane l && okBuf b && decide (cnt < 4096)
  | .advert d l b units => okDie d && okLane l && okBuf b && decide (units < 4096)
  | .state d l st _ => okDie d && okLane l && decide (st < 16)
  | .creditRepeat d l => okDie d && okLane l
  | .advertRepeat d l => okDie d && okLane l
  | .laneSignalDetect d i _ => okDie d && okLane i
  | .trainingFrame d i _ _ ask => okDie d && okLane i && decide (ask < 2 ^ 17) && decide (ask % 2 ^ 16 < 2 ^ 10)
  | .trainMsExpiry d l => okDie d && okLane l
  | .helloFrame d i _ => okDie d && okLane i
  | .helloTimeout d l => okDie d && okLane l
  | .lossOfSignal d i => okDie d && okLane i
  | .faultOrderedSet d i => okDie d && okLane i
  | .presenceDebounced d o => okDie d && okOctet o
  | .unplug d o => okDie d && okOctet o
  | .cmisPoll d o _ app _ modst _ => okDie d && okOctet o && decide (app.getD 0 < 16) && decide (modst < 8)
  | .moduleReadyTimeout d o => okDie d && okOctet o
  | .buttonRelease d o _ => okDie d && okOctet o
  | .buttonStuck d o => okDie d && okOctet o
  | .sidebandTest d o _ => okDie d && okOctet o
  | .removalComplete d l _ => okDie d && okLane l
  | .portCfgWrite d o _ => okDie d && okOctet o
  | .laneCtlWrite d i _ => okDie d && okLane i
  | .swPolrateWrite d l c _ => okDie d && okLane l && decide (c < 7)
  | .swHistBaseWrite d _ => okDie d
  | .timeDlogWrite _ => true
  | .pmcLowWordRead d _ => okDie d
  | .pmcCounterWrite d _ _ => okDie d
  | .pmcPwinWrite d l _ => okDie d && okLane l
  | .bandwidthWindowEnd d l => okDie d && okLane l
  | .groundScrub d _ _ _ _ => okDie d
  | .stackPatrolScrub d _ _ _ _ _ _ _ _ => okDie d
  | .stackRefresh d => okDie d
  | .stackTemperature d _ => okDie d
  | .stackChannelCopyComplete d _ => okDie d
  | .stackZeroFillComplete d => okDie d
  | .keepRepairRecordWrite => true
  | .keepPresetWrite d l => okDie d && okLane l
  | .unitFaultC2 d code _ _ => okDie d && decide (code = 0x02 ∨ code = 0x03 ∨ 0x20 ≤ code) && decide (code ≤ 0x2A)
  | .bridgeTransferFailure d b g w _ => okDie d && okBridge b && decide (g < 16) && decide (w < 65)
  | .dieFaultC3 d code => okDie d && decide (0x30 ≤ code) && decide (code ≤ 0x36)
  | .stewardHeartbeatLost d => okDie d
  | .packageFaultC4 code => decide (0x40 ≤ code) && decide (code ≤ 0x46)
  | .railOutOfRange rail => decide (rail < 15)
  | .ref25Absent => true
  | .junctionTemperatureSample d _ => okDie d
  | .powerCapStep _ => true
  | .throtNChange _ => true
  | .avsSetpointStep d _ _ => okDie d
  | .coreIdleSleep d c => okDie d && okCore c
  | .engineIdleSleep d u => okDie d && okUnit u
  | .pwrCtlStandby _ => true
  | .pwrCtlReady _ => true
  | .wakeNAssert => true
  | .coreRailsInRange => true
  | .porstNRelease _ => true
  | .sysrstNRelease _ => true
  | .powerOff => true
  | .firmwareVerify _ _ _ _ => true
  | .bootChecksComplete d _ => okDie d
  | .bootComplete width0 width1 => decide (width0 ≤ 16) && decide (width1 ≤ 16)
  | .testLogicReset => true
  | .idcode => true
  | .samplePreload _ _ => true
  | .extest _ _ _ => true
  | .extestPulse _ _ _ => true
  | .extestTrain _ _ _ => true
  | .highz _ => true
  | .clamp _ => true
  | .bypass _ => true
  | .powerUp => true
  | .prbsCheckerLock d i n rx => okDie d && okLane i && decide (rx < 4 ^ n)
  | .buttonStuckClear d o => okDie d && okOctet o
  | .standbyEntryComplete => true
  | .moduleAccessStart d octet _ _ ext => okDie d && okOctet octet && okExt ext

end Sys2Proof
end

