-- ==== Sys2Proof/Safety.lean ====
section
/-! DEFINITION. The words that statements about the block are made of: when a core issues an instruction, what an outcome leaves
unchanged, what every step keeps. -/

namespace Sys2Proof.Machine

/-! Cores -/

/-- The word that the sequencer of a core issues next, or a word that is no instruction where no job runs (R97, R113). -/
def nextWord (s : State) (d c : Nat) : Word64 :=
  match (getCore s d c).run, (getCore s d c).image with
  | some r, some im => nth im r.pc noWord
  | _, _ => noWord

/-- Core c of die d, k, issues the instruction w of opcode op of its job r now (R97, R110 to R112): the package is up, the die in service,
the job runs, w stands at its PC and is well formed, and no register that w names is pending. -/
structure Issues (s : State) (d c op : Nat) (k : Core) (r : Run) (w : Word64) : Prop where
  up : s.phase = .up
  die : d < ndies s.variant
  works : (getDie s d).flt = 0
  core : c < 150
  core_eq : getCore s d c = k
  run : k.run = some r
  image : k.image.isSome = true
  word : nextWord s d c = w
  going : r.ended = none ∧ r.halted = false ∧ r.wait = none
  op_eq : opOf w = op
  well : wellWord w = true
  ready : ∀ g ∈ regsOf w, g ∉ r.pend

/-- R113, R491: the job on a core after an instruction that goes on to the next one. -/
def goneOn (r : Run) : Run := { runNext r with instr := (runNext r).instr + 1 }

/-- Two states whose dies hold the same memory bytes: scratchpads, ground memory, stacks. -/
def SameMemory (s t : State) : Prop :=
  ∀ d, (∀ c a, memGet (getCore t d c).scratch a = memGet (getCore s d c).scratch a) ∧
    (∀ a, memGet (getDie t d).gnd.cells a = memGet (getDie s d).gnd.cells a) ∧
    (∀ a, memGet (getDie t d).stk.cells a = memGet (getDie s d).stk.cells a)

/-- t is s, or s with one core replaced: every other core, every other part of the die, every other die and the rest of the package are as in s. -/
def OnlyCore (s t : State) (d c : Nat) : Prop := t = s ∨ ∃ k, t = setCore s d c k

/-- A core's parts that the sequencer's own instructions leave as they are: all but the registers, the job and the counters. -/
def SameUnits (k l : Core) : Prop := ∃ g run pmc, l = { k with g := g, run := run, pmc := pmc }

/-! The companion link -/

/-- R354, R355: a store or an interrupt that the device has made: it has left, or waits where no link is up. -/
def Sent (t : State) (o : Out) : Prop := if t.itgLost then ∃ n, (n, o) ∈ t.itgWait else o ∈ t.out

/-! Descriptors -/

/-- The device takes the descriptor at the head of ring q now, no abort has reached it, and its header is good (R361 to R364, R369). -/
structure Accepts (s : State) (q : Nat) (desc : Word512) (ext : List Host.Cell) : Prop where
  takes : takesNow s q desc ext = true
  untouched : (getSq s q).head ∉ (getSq s q).aborts
  header : headerBad desc = false

/-! Every step -/

/-- What the package never loses while it runs (R470, R480): its variant and identity seed are v and i, and at least k cells of the anti-rollback counter are
written. -/
structure KeepHolds (v : Variant) (i k : Nat) (s : State) : Prop where
  variant : s.variant = v
  ident : s.keep.ident = i
  counter : k ≤ s.keep.arb

end Sys2Proof.Machine
end

