-- ==== Sys2Proof/Certificates/Slice0/Obligations.lean ====
section
/-! DEFINITION. The statements about the block, each from the rules that its docstring names. -/

open Sys2Proof Sys2Proof.Machine

/-! Core programs -/

/-- R96: g0 reads zero and writes to it are ignored; a write of another register is what that register then reads, and no other register
changes. The sum, difference, product and left shift that a scalar instruction writes are those of the integers modulo 2^64. -/
def Obligations.RegisterZeroReadsZeroAndIgnoresWrites : Prop :=
  (∀ (k : Core) (i j : Nat) (v : Word64),
    greg k 0 = 0 ∧ setReg k 0 v = k ∧ greg (setReg k i v) j = if i ≠ 0 ∧ j = i then v else greg k j) ∧
  ∀ (s : State) (d c : Nat) (k : Core) (r : Run) (w : Word64), fD w ≠ 0 →
    let a : Int := (greg k (fA w)).toNat
    let b : Int := (greg k (fB w)).toNat
    let writes (i : Instr) (v : Int) : Prop := ∃ t, exec i s = .next t ∧ ((greg (getCore t d c) (fD w)).toNat : Int) = v % 2 ^ 64
    (Issues s d c 0x01 k r w → writes (.add d c) (a + b)) ∧
    (Issues s d c 0x02 k r w → writes (.sub d c) (a - b)) ∧
    (Issues s d c 0x03 k r w → writes (.mul d c) (a * b)) ∧
    (Issues s d c 0x07 k r w → writes (.shl d c) (a * 2 ^ ((greg k (fB w)).toNat % 64))) ∧
    (Issues s d c 0x0B k r w → writes (.addi d c) (a + signed 32 (nbits w.toNat 31 0)))

/-- R112, Table 5-6: what each scalar arithmetic instruction writes to g[D], everything modulo 2^64; the job goes on, and nothing but the
core's registers, program counter and counters changes. -/
def Obligations.ScalarArithmeticWritesItsResult : Prop :=
  ∀ (s : State) (d c : Nat) (k : Core) (r : Run) (w : Word64),
    let a := greg k (fA w)
    let b := greg k (fB w)
    let writes (v : Word64) : Host.Outcome State Fault Refusal := .next (setCore s d c (setReg (issued k (runNext r)) (fD w) v))
    (Issues s d c 0x00 k r w → exec (.nop d c) s = .next (setCore s d c (issued k (runNext r)))) ∧
    (Issues s d c 0x01 k r w → exec (.add d c) s = writes (BitVec.ofNat 64 (a.toNat + b.toNat))) ∧
    (Issues s d c 0x02 k r w → exec (.sub d c) s = writes (BitVec.ofInt 64 ((a.toNat : Int) - b.toNat))) ∧
    (Issues s d c 0x03 k r w → exec (.mul d c) s = writes (BitVec.ofNat 64 (a.toNat * b.toNat))) ∧
    (Issues s d c 0x04 k r w → exec (.and d c) s = writes (a &&& b)) ∧
    (Issues s d c 0x05 k r w → exec (.or d c) s = writes (a ||| b)) ∧
    (Issues s d c 0x06 k r w → exec (.xor d c) s = writes (a ^^^ b)) ∧
    (Issues s d c 0x0B k r w → exec (.addi d c) s = writes (BitVec.ofInt 64 (a.toNat + signed 32 (nbits w.toNat 31 0)))) ∧
    (Issues s d c 0x0C k r w → exec (.li d c) s = writes (BitVec.ofInt 64 (signed 32 (nbits w.toNat 31 0)))) ∧
    (Issues s d c 0x0D k r w → exec (.lih d c) s = writes (BitVec.ofNat 64 (2 ^ 32 * nbits w.toNat 31 0 + a.toNat % 2 ^ 32)))

/-- R112, Table 5-6: shifts by g[B] & 63, right shifts logical or arithmetic; SLT compares as signed numbers. -/
def Obligations.ShiftsAndCompareWriteTheirResult : Prop :=
  ∀ (s : State) (d c : Nat) (k : Core) (r : Run) (w : Word64),
    let a := greg k (fA w)
    let b := greg k (fB w)
    let writes (v : Word64) : Host.Outcome State Fault Refusal := .next (setCore s d c (setReg (issued k (runNext r)) (fD w) v))
    (Issues s d c 0x07 k r w → exec (.shl d c) s = writes (BitVec.ofNat 64 (a.toNat * 2 ^ (b.toNat % 64)))) ∧
    (Issues s d c 0x08 k r w → exec (.shr d c) s = writes (BitVec.ofNat 64 (a.toNat / 2 ^ (b.toNat % 64)))) ∧
    (Issues s d c 0x09 k r w → exec (.sra d c) s = writes (BitVec.ofInt 64 (a.toInt / 2 ^ (b.toNat % 64)))) ∧
    (Issues s d c 0x0A k r w → exec (.slt d c) s = writes (if a.toInt < b.toInt then 1 else 0))

/-- R113: PC counts instructions: a branch is taken to PC + IMM where its condition holds, else the next instruction follows; JAL writes PC + 1
to g[D] and jumps to PC + IMM; JR jumps to g[A] + IMM; a target outside the image, or running past its end, ends the job with BAD_INSN. -/
def Obligations.BranchesMoveThePc : Prop :=
  ∀ (s : State) (d c : Nat) (k : Core) (r : Run) (w : Word64),
    let a := greg k (fA w)
    let b := greg k (fB w)
    let off : Int := signed 32 (nbits w.toNat 31 0)
    let lands (target : Int) (r' : Run) : Prop :=
      if 0 ≤ target ∧ target < dProgLen r.job then r' = { r with pc := target.toNat } else r'.ended = some .badInsn ∧ r'.posts = []
    let goes (o : Host.Outcome State Fault Refusal) (target : Int) : Prop :=
      ∃ r', lands target r' ∧ o = .next (setCore s d c (issued k r'))
    (Issues s d c 0x18 k r w → goes (exec (.beq d c) s) (if a = b then r.pc + off else r.pc + 1)) ∧
    (Issues s d c 0x19 k r w → goes (exec (.bne d c) s) (if a = b then r.pc + 1 else r.pc + off)) ∧
    (Issues s d c 0x1A k r w → goes (exec (.blt d c) s) (if a.toInt < b.toInt then r.pc + off else r.pc + 1)) ∧
    (Issues s d c 0x1B k r w → goes (exec (.bge d c) s) (if a.toInt < b.toInt then r.pc + 1 else r.pc + off)) ∧
    (Issues s d c 0x1C k r w → goes (exec (.bltu d c) s) (if a.toNat < b.toNat then r.pc + off else r.pc + 1)) ∧
    (Issues s d c 0x1E k r w → goes (exec (.jr d c) s) (a + BitVec.ofInt 64 off).toInt) ∧
    (Issues s d c 0x1D k r w → ∃ r', lands (r.pc + off) r' ∧
      exec (.jal d c) s = .next (setCore s d c (setReg (issued k r') (fD w) (BitVec.ofNat 64 (r.pc + 1)))))

/-- R96, R97, R109, R113: the frame of the instructions of the sequencer that touch no memory: whatever they answer, they change one core only, of
that core only the registers, the job and its counters; of the registers only g[D] (none for a branch, JR, NOP, FENCE and PROG); and no byte of
memory. PROG may beside move its operation's position, and write the progress entry. -/
def Obligations.ScalarInstructionsChangeOnlyTheirRegister : Prop :=
  ∀ (s t : State) (d c : Nat),
    let kept (dst : Option Nat) : Prop := SameUnits (getCore s d c) (getCore t d c) ∧
      (∀ q, dst ≠ some q → greg (getCore t d c) q = greg (getCore s d c) q) ∧ SameMemory s t
    let frame (i : Instr) (dst : Option Nat) : Prop := exec i s = .next t → OnlyCore s t d c ∧ kept dst
    (∀ i ∈ [Instr.add d c, .sub d c, .mul d c, .and d c, .or d c, .xor d c, .shl d c, .shr d c, .sra d c, .slt d c, .addi d c, .li d c,
      .lih d c, .jal d c, .ctrd d c], frame i (some (fD (nextWord s d c)))) ∧
    (∀ i ∈ [Instr.nop d c, .beq d c, .bne d c, .blt d c, .bge d c, .bltu d c, .jr d c, .fence d c], frame i none) ∧
    (exec (.prog d c) s = .next t → kept none ∧
      ∃ u ops out wait, OnlyCore s u d c ∧ t = { u with ops := ops, out := out, itgWait := wait } ∧ ops.map (·.id) = s.ops.map (·.id))

/-- R110, R111: a reserved opcode at the PC ends the job with BAD_INSN, whatever core instruction the command names; so does a word of the named
opcode with a reserved function, or with a field that the instruction does not use and that is not zero. Which fields another field of the
word leaves unused (wellWord) is the model's reading of R111 (log entry 45). -/
def Obligations.BadInstructionWordsEndTheJob : Prop :=
  ∀ (s : State) (d c : Nat) (k : Core) (r : Run) (w : Word64), issueWord s d c = some (k, r, w) →
    ∀ p ∈ [(Instr.nop d c, 0x00), (.add d c, 0x01), (.sub d c, 0x02), (.mul d c, 0x03), (.and d c, 0x04), (.or d c, 0x05), (.xor d c, 0x06),
      (.shl d c, 0x07), (.shr d c, 0x08), (.sra d c, 0x09), (.slt d c, 0x0A), (.addi d c, 0x0B), (.li d c, 0x0C), (.lih d c, 0x0D), (.ld
      d c, 0x10), (.st d c, 0x11), (.gat d c, 0x12), (.sld d c, 0x13), (.sbase d c, 0x14), (.cvld d c, 0x15), (.fence d c, 0x16), (.prog
      d c, 0x17), (.beq d c, 0x18), (.bne d c, 0x19), (.blt d c, 0x1A), (.bge d c, 0x1B), (.bltu d c, 0x1C), (.jal d c, 0x1D), (.jr d c,
      0x1E), (.halt d c, 0x1F), (.wld d c, 0x20), (.pass d c, 0x21), (.cvt d c, 0x22), (.acsv d c, 0x23), (.acrs d c, 0x24), (.vop d c,
      0x28), (.vfma d c, 0x29), (.vred d c, 0x2A), (.vkeep d c, 0x2B), (.karv d c, 0x30), (.kwait d c, 0x31), (.ksig d c, 0x32), (.ktake
      d c, 0x33), (.dma d c, 0x38), (.dmaw d c, 0x39), (.eng d c, 0x3A), (.ctrd d c, 0x3B)],
    usedBits (opOf w) = none ∨ (opOf w = p.2 ∧ wellWord w = false) →
    ∃ r', exec p.1 s = .next (setCore s d c { k with run := some r' }) ∧ r'.ended = some .badInsn ∧ r'.posts = []

/-- R112, R113, R114, R117: LD reads 2^FN bytes at g[A] + IMM, little-endian, and writes them to g[D] zero-extended, or sign-extended under FN[2];
SLD and CVLD read 32 bytes there into the slot that FN names. For an address that is a multiple of the size, mapped, in the partition and
not poisoned; no byte of memory changes. -/
def Obligations.LoadsReadTheAddressedBytes : Prop :=
  ∀ (s : State) (d c : Nat) (k : Core) (r : Run) (w : Word64) (op n : Nat),
    Issues s d c op k r w →
    let a := (greg k (fA w) + BitVec.ofInt 64 (signed 32 (nbits w.toNat 31 0))).toNat
    a % n = 0 → 0 < n → coreCheck (getDie s d) (dGpart r.job) a n = none →
    let v := leNat ((List.range n).map (fun j => coreByte (getDie s d) k (a + j)))
    let done (t : State) : Prop := (getCore t d c).run = some (goneOn r) ∧ SameMemory s t
    (op = 0x10 → n = 2 ^ fld w 33 32 →
      ∃ t, exec (.ld d c) s = .next t ∧ done t ∧
        ∀ q, greg (getCore t d c) q =
          if q = fD w ∧ q ≠ 0 then (if bit w 34 then BitVec.ofInt 64 (signed (8 * n) v) else BitVec.ofNat 64 v) else greg k q) ∧
    (op = 0x13 → n = 32 →
      ∃ t, exec (.sld d c) s = .next t ∧ done t ∧
        ∀ i, tget (getCore t d c).slots i 0 = if i = fld w 36 32 then BitVec.ofNat 256 v else tget k.slots i 0) ∧
    (op = 0x15 → n = 32 →
      ∃ t, exec (.cvld d c) s = .next t ∧ done t ∧
        ∀ i, tget (getCore t d c).convs i 0 = if i = fld w 34 32 then BitVec.ofNat 256 v else tget k.convs i 0)

/-- R112, R113: ST writes the low 2^FN bytes of g[B] at g[A] + IMM, little-endian; every other mapped byte of the core's map keeps its value, and
so does every register; the core's units, every other core, the stack, every other die and the rest of the package are as before. For an
address that is a multiple of the size, mapped and in the partition. -/
def Obligations.StoreWritesTheLowBytesOfItsRegister : Prop :=
  ∀ (s : State) (d c : Nat) (k : Core) (r : Run) (w : Word64),
    Issues s d c 0x11 k r w →
    let n := 2 ^ fld w 33 32
    let a := (greg k (fA w) + BitVec.ofInt 64 (signed 32 (nbits w.toNat 31 0))).toNat
    a % n = 0 → (coreLoc (getDie s d) (dGpart r.job) a n).isSome = true →
    ∃ t, exec (.st d c) s = .next t ∧ (getCore t d c).run = some (goneOn r) ∧
      (∀ e, e < 0x60000 ∨ 0x80000000 ≤ e → coreByte (getDie t d) (getCore t d c) e =
        if a ≤ e ∧ e < a + n then BitVec.ofNat 8 ((greg k (fB w)).toNat / 256 ^ (e - a)) else coreByte (getDie s d) k e) ∧
      (∀ q, greg (getCore t d c) q = greg k q) ∧ SameUnits { k with scratch := (getCore t d c).scratch } (getCore t d c) ∧
      (∀ e, e ≠ c → getCore t d e = getCore s d e) ∧ (∀ e, e ≠ d → getDie t e = getDie s e) ∧ { t with dies := s.dies } = s ∧
      ∃ cs g n, getDie t d = { getDie s d with cores := cs, gnd := g, faults := n }

/-- R112, R145, Table 6-3: GAT (ADD64, SWAP64 or SMAX64) on an 8-byte word of ground memory writes the old value to g[D] and the operation's new value in its
place, every other byte of ground memory keeps its value, and the job is no longer replayed (R106). -/
def Obligations.GroundAtomicReturnsTheOldValue : Prop :=
  ∀ (s : State) (d c : Nat) (k : Core) (r : Run) (w : Word64) (o : Nat),
    Issues s d c 0x12 k r w →
    let aop := fld w 33 32
    let a := (greg k (fA w) + BitVec.ofInt 64 (signed 32 (nbits w.toNat 31 0))).toNat
    let g := (getDie s d).gnd
    let x := memNat g.cells o 8
    let y := (greg k (fB w)).toNat
    coreLoc (getDie s d) (dGpart r.job) a 8 = some (false, o) → o % 8 = 0 → gndPoisoned g o 8 = false →
    let new := match aop with
      | 0 => (x + y) % 2 ^ 64
      | 1 => y
      | _ => if signed 64 x < signed 64 y then y else x
    ∃ t, exec (.gat d c) s = .next t ∧
      (getCore t d c).run = some (goneOn { r with shared := true }) ∧
      (∀ q, greg (getCore t d c) q = if q = fD w ∧ q ≠ 0 then BitVec.ofNat 64 x else greg k q) ∧
      (∀ e, memGet (getDie t d).gnd.cells e = if o ≤ e ∧ e < o + 8 then BitVec.ofNat 8 (new / 256 ^ (e - o)) else memGet g.cells e) ∧
      (∀ e, memGet (getCore t d c).scratch e = memGet k.scratch e)

/-- R99, R105, R109, R114, R134: SBASE replaces BASE of a stream slot; FENCE goes on once the units that FN names are idle; PROG sets the
progress position; CTRD writes a counter that the job may read; HALT, once every unit is idle, releases the job's posts in issue order. -/
def Obligations.SetupAndControlInstructionsComplete : Prop :=
  ∀ (s : State) (d c : Nat) (k : Core) (r : Run) (w : Word64),
    let a := (greg k (fA w) + BitVec.ofInt 64 (signed 32 (nbits w.toNat 31 0))).toNat
    let x := getDie s d
    let goes (t : State) : Prop := (getCore t d c).run = some (goneOn r)
    (Issues s d c 0x14 k r w → ∃ t, exec (.sbase d c) s = .next t ∧ goes t ∧
      ∀ i, let old := (tget k.slots i 0).toNat
        (tget (getCore t d c).slots i 0).toNat = if i = fld w 36 32 then old / 2 ^ 32 * 2 ^ 32 + a % 2 ^ 32 else old) ∧
    (Issues s d c 0x16 k r w →
      (bit w 32 = true → k.aq = [] ∧ k.accq = []) → (bit w 33 = true → k.vq = []) → (bit w 34 = true → coreDmas x c = []) →
      ∃ t, exec (.fence d c) s = .next t ∧ goes t) ∧
    (Issues s d c 0x17 k r w →
      ∃ t r', exec (.prog d c) s = .next t ∧ (getCore t d c).run = some r' ∧ r'.prog = (greg k (fA w)).toNat % 2 ^ 32 ∧
        (r.pc + 1 < dProgLen r.job → r'.pc = r.pc + 1 ∧ r'.ended = none) ∧
        (∀ id o, r.job.op = some id → findOp s id = some o → ∃ o', findOp t id = some o' ∧ o'.pos = jobPos r')) ∧
    (Issues s d c 0x3B k r w → (fld w 52 49 = 0 ∨ fld w 52 49 = 9 ∨ bit (regWord x (rPMC_CCTL c)) 0 = true) →
      ∃ t, exec (.ctrd d c) s = .next t ∧ goes t ∧ ∀ q, greg (getCore t d c) q =
        if q = fD w ∧ q ≠ 0 then BitVec.ofNat 64 (if fld w 52 49 = 0 then x.cycles / 16 else if fld w 52 49 = 9 then x.cycles / 16 - r.startCyc
          else pmcCnt k.pmc (fld w 52 49 - 1)) else greg k q) ∧
    (Issues s d c 0x1F k r w → k.aq = [] → k.accq = [] → k.vq = [] → coreDmas x c = [] → r.defer = [] →
      ∃ t, exec (.halt d c) s = .next t ∧ (getCore t d c).run = some { r with halted := true, posts := [], instr := r.instr + 1 } ∧
        (t.engWait.map (fun q => (q.unit, q.req, q.src))) =
          s.engWait.map (fun q => (q.unit, q.req, q.src)) ++ r.posts.map (fun p => (p.1, p.2, EngSrc.core d c)))

/-- R95 with Table 5-1, R110 with Table 5-4, R113, R426: an access of LD, ST, SLD, CVLD or GAT that is not a multiple of its size, or is unmapped or
outside the partition (of GAT also one of the scratchpad), ends the job with BAD_ADDR; a poisoned word of ground memory that LD, SLD, CVLD, GAT or
the stream of a vector instruction (VRED's operand A) reads ends it with MEM_UE. No byte of memory and no register changes. -/
def Obligations.BadAddressEndsTheJobWithoutEffect : Prop :=
  ∀ (s : State) (d c : Nat) (k : Core) (r : Run) (w : Word64),
    let x := getDie s d
    let n := 2 ^ fld w 33 32
    let a := (greg k (fA w) + BitVec.ofInt 64 (signed 32 (nbits w.toNat 31 0))).toNat
    let ends (i : Instr) (st : Status) : Prop := ∃ t r', exec i s = .next t ∧ (getCore t d c).run = some r' ∧ r'.ended = some st ∧ r'.posts = [] ∧
      SameMemory s t ∧ ∀ q, greg (getCore t d c) q = greg k q
    let refused (n : Nat) : Prop := a % n ≠ 0 ∨ coreLoc x (dGpart r.job) a n = none
    let poisoned (a n : Nat) : Prop := ∃ o, coreLoc x (dGpart r.job) a n = some (false, o) ∧ gndPoisoned x.gnd o n = true
    (Issues s d c 0x10 k r w → (refused n → ends (.ld d c) .badAddr) ∧ (a % n = 0 → poisoned a n → ends (.ld d c) .memUe)) ∧
    (Issues s d c 0x11 k r w → refused n → ends (.st d c) .badAddr) ∧
    (Issues s d c 0x13 k r w → (refused 32 → ends (.sld d c) .badAddr) ∧ (a % 32 = 0 → poisoned a 32 → ends (.sld d c) .memUe)) ∧
    (Issues s d c 0x15 k r w → (refused 32 → ends (.cvld d c) .badAddr) ∧ (a % 32 = 0 → poisoned a 32 → ends (.cvld d c) .memUe)) ∧
    (Issues s d c 0x12 k r w → (refused 8 ∨ a < 0x80000000 → ends (.gat d c) .badAddr) ∧ (a % 8 = 0 → poisoned a 8 → ends (.gat d c) .memUe)) ∧
    (Issues s d c 0x2A k r w → k.vq.length < 2 → bit w 43 = false → streamErr (slotStream k (fld w 48 44)) = none →
      let e := (greg k (fld w 37 33)).toNat % 2 ^ 32
      e ≤ 2 ^ 24 → ∀ l p m, vTouch (slotStream k (fld w 48 44)) e = l ++ p :: m → (∀ u ∈ l, coreCheck x (dGpart r.job) u.1 u.2 = none) →
        poisoned p.1 p.2 → ends (.vred d c) .memUe)

/-! Array unit and vector engine -/

/-- R98, R116, R119 to R121, Table 5-2: an array instruction that the unit accepts and whose operands are right is queued with what it read in the
cycle it issued, numbered by the job's counts, and the job goes on; one whose operands are wrong ends the job with the status of what is
wrong; one that the unit does not accept leaves the core stalled as it was. -/
def Obligations.ArrayInstructionsQueueOrEndTheJob : Prop :=
  ∀ (s : State) (d c : Nat) (k : Core) (r : Run) (w : Word64),
    let x := getDie s d
    let does (op : Nat) (i : Instr) (e : Option Status) (o : ArrOp) : Prop :=
      Issues s d c op k r w →
      (2 ≤ k.aq.length → exec i s = .next s) ∧
      (k.aq.length < 2 → ∀ st, e = some st → ∃ t r', exec i s = .next t ∧ (getCore t d c).run = some r' ∧ r'.ended = some st ∧ r'.posts = [] ∧
        (getCore t d c).aq = k.aq) ∧
      (k.aq.length < 2 → e = none → ∃ t r', exec i s = .next t ∧
        (getCore t d c).aq = k.aq ++ [{ o with ord := r.ord, wr := r.wr, seq := r.arrIss }] ∧ (getCore t d c).run = some r' ∧
        r'.arrIss = r.arrIss + 1 ∧ r'.arrDone = r.arrDone ∧ (r.pc + 1 < dProgLen r.job → r'.pc = r.pc + 1 ∧ r'.ended = none) ∧ SameMemory s t)
    does 0x20 (.wld d c) (wldErr x k r w) (wldOp k w) ∧
    does 0x21 (.pass d c) (passErr x k r w) (passOp k w) ∧
    does 0x22 (.cvt d c) (cvtErr x k r w) (cvtOp k w) ∧
    does 0x23 (.acsv d c) (saveErr .acsv x k r w) (saveOp .acsv k w) ∧
    does 0x24 (.acrs d c) (saveErr .acrs x k r w) (saveOp .acrs k w)

/-- R57, R58, R60, R121: one cycle of the array operand port moves the oldest array instruction on by one position; its last cycle takes it from
the queue, and but for a pass (which the accumulator finishes) counts it as done. A pass puts one row of column sums of each array on
its way to the accumulator; nothing else does. A conversion, save or restore moves its two rows once every earlier update to them is written. -/
def Obligations.ArrayPortCycleMovesTheOldestInstruction : Prop :=
  ∀ (s : State) (d c : Nat) (r : Run) (o : ArrOp) (rest : List ArrOp),
    let k := getCore s d c
    dieUp s d = true → k.run = some r → k.aq = o :: rest →
    (o.kind = .pass → k.weights.isSome = true) → (o.kind = .cvt → o.conv.isSome = true) →
    (o.kind ≠ .wld → o.kind ≠ .pass → ∀ u ∈ k.accq, u.row ∉ cycleRows o) →
    ∃ t r', exec (.arrayPortCycle d c) s = .next t ∧
      (getCore t d c).aq = (if portCycles o ≤ o.pos + 1 then rest else { o with pos := o.pos + 1 } :: rest) ∧
      (getCore t d c).run = some r' ∧
      r'.arrDone = (if portCycles o ≤ o.pos + 1 ∧ o.kind ≠ .pass then r.arrDone + 1 else r.arrDone) ∧
      (getCore t d c).accq.length = k.accq.length + (if o.kind = .pass then 2 else 0)

/-- R72, R77, R79, R106, R425: an accumulator update takes the oldest row of column sums and folds each column's sum into its word of the row, empty
first where the pass replaces; the words of the other columns and rows keep their values. The conditions join the status word; in a STREAM pass
the row is then converted into its stream; the instruction's last row counts it as done. A residue mismatch counts in CHECK_ERR, fences the core
and asks for the CORE activity; the job does not commit. -/
def Obligations.AccumulatorUpdateFoldsOneRow : Prop :=
  ∀ (s : State) (d c : Nat) (r : Run) (u : RowUpd) (rest : List RowUpd),
    let k := getCore s d c
    let old (j : Nat) : AccWord := if u.replace then accEmpty else tget k.acc (32 * u.row + j) accEmpty
    let folded (p : Nat × ColSum) : AccWord × Word32 :=
      accUpdate (old p.1) p.2 (srGen (dSeed r.job) (accCoord (dSrTag r.job) 0 u.row p.1) u.step)
    dieUp s d = true → k.run = some r → k.accq = u :: rest → (∀ p ∈ u.cols, p.1 < 32) → (u.cols.map (·.1)).Nodup →
    (∃ t r', exec (.accUpdate d c false) s = .next t ∧ (getCore t d c).accq = rest ∧ (getCore t d c).run = some r' ∧
      r'.arrDone = (if u.last then r.arrDone + 1 else r.arrDone) ∧
      (∀ p ∈ u.cols, tget (getCore t d c).acc (32 * u.row + p.1) accEmpty = (folded p).1) ∧
      (∀ j, j < 32 → j ∉ u.cols.map (·.1) → tget (getCore t d c).acc (32 * u.row + j) accEmpty = old j) ∧
      (∀ i, i < 32 * u.row ∨ 32 * u.row + 32 ≤ i → tget (getCore t d c).acc i accEmpty = tget k.acc i accEmpty) ∧
      (u.conv = none → SameMemory s t ∧ r'.status = u.cols.foldl (fun a p => a ||| (folded p).2) r.status) ∧
      (∀ p, u.conv = some p →
        let row := updateRow { k with accq := rest } r u
        let z := convertAccRow (getDie s d) row.1 row.2 p u.row u.o u.n0 u.step u.ordinal u.wr
        (getCore t d c).scratch = z.2.1.scratch ∧ (getDie t d).gnd.cells = z.1.gnd.cells ∧ r'.status = z.2.2.status ∧ r'.digest = z.2.2.digest)) ∧
    (∃ t, exec (.accUpdate d c true) s = .next t ∧ (getCore t d c).fenced = true ∧ (getCore t d c).aq = [] ∧ (getCore t d c).accq = [] ∧
      (∃ q, t.hoopQ = s.hoopQ ++ [q] ∧ q.act = 4 ∧ q.die = d ∧ q.unit = c) ∧
      (if u.row < 128 then (getCore t d c).rep0.chk = satInc 0xFF k.rep0.chk else (getCore t d c).rep1.chk = satInc 0xFF k.rep1.chk))

/-- R97, R98, R116, R122: a vector instruction that the engine accepts and whose operands are right is queued with what it read in the cycle it
issued; the register that VRED and VKEEP write is pending; wrong operands end the job; a full engine leaves the core stalled. -/
def Obligations.VectorInstructionsQueueOrEndTheJob : Prop :=
  ∀ (s : State) (d c : Nat) (k : Core) (r : Run) (w : Word64),
    let x := getDie s d
    let does (op : Nat) (i : Instr) (f : VecForm) : Prop :=
      Issues s d c op k r w →
      (2 ≤ k.vq.length → exec i s = .next s) ∧
      (k.vq.length < 2 → ∀ st, vecErr f x k r w = some st → ∃ t r', exec i s = .next t ∧ (getCore t d c).run = some r' ∧ r'.ended = some st ∧
        (getCore t d c).vq = k.vq) ∧
      (k.vq.length < 2 → vecErr f x k r w = none → ∃ t r', exec i s = .next t ∧ (getCore t d c).vq = k.vq ++ [vecOp f k r w] ∧
        (getCore t d c).run = some r' ∧ r'.vecIss = r.vecIss + 1 ∧
        (r.pc + 1 < dProgLen r.job → r'.pc = r.pc + 1 ∧ r'.ended = none) ∧
        (∀ g, g ∈ r'.pend ↔ g ∈ r.pend ∨ (f.reg w = some g ∧ g ≠ 0)) ∧ SameMemory s t)
    does 0x28 (.vop d c) vopForm ∧ does 0x29 (.vfma d c) vfmaForm ∧ does 0x2A (.vred d c) vredForm ∧ does 0x2B (.vkeep d c) vkeepForm

/-- R60, R123 to R128: the oldest vector instruction completes once the array instructions whose accumulator rows it reads are done: it leaves the
engine and counts as done. VOP and VFMA write the results of their elements into the destination stream, with their conditions; VRED's register
holds its result, and VKEEP's the number of records that pass, the first COUNT of which it writes as value and index; neither register is
pending any longer. -/
def Obligations.VectorInstructionDoneRetiresTheOldest : Prop :=
  ∀ (s : State) (d c : Nat) (r : Run) (o : VecOp) (rest : List VecOp),
    let x := getDie s d
    let k := getCore s d c
    let rd := coreByte x k
    let as' := vecAs rd k r o
    let holds (t : State) (m : Die × Core) : Prop := (getCore t d c).scratch = m.2.scratch ∧ (getDie t d).gnd.cells = m.1.gnd.cells
    let reg (t : State) (r' : Run) (g v : Nat) : Prop := (∀ q, greg (getCore t d c) q = if q = g ∧ q ≠ 0 then BitVec.ofNat 64 v else greg k q) ∧
      ∀ q, q ∈ r'.pend ↔ q ∈ r.pend ∧ q ≠ g
    dieUp s d = true → k.run = some r → k.vq = o :: rest → vecWaits k o = false →
    ∃ t r', exec (.vectorInstructionDone d c) s = .next t ∧ (getCore t d c).vq = rest ∧ (getCore t d c).run = some r' ∧
      r'.vecDone = r.vecDone + 1 ∧
      (opOf o.word ≠ 0x2A → opOf o.word ≠ 0x2B →
        let l := (upto o.n).map (vecResult rd k r o)
        let z := vecPut x k { r with vstatus := l.foldl (fun a p => a ||| p.2) r.vstatus } o (o.n + 1) 0 (l.map (·.1))
        holds t (z.1, z.2.1) ∧ r'.vstatus = z.2.2.vstatus ∧ r'.digest = z.2.2.digest ∧ ∀ q, greg (getCore t d c) q = greg k q) ∧
      (opOf o.word = 0x2A →
        let y := vecReduce (fld o.word 57 54) as'.1
        SameMemory s t ∧ r'.vstatus = r.vstatus ||| as'.2 ||| y.2 ∧ reg t r' (fld o.word 53 49) y.1) ∧
      (opOf o.word = 0x2B →
        let hits := as'.1.zipIdx.filter (fun p => keepPass (fld o.word 57 56) p.1 (o.thr.toNat % 2 ^ 32))
        let recs := (hits.take o.d.count).zipIdx.map
          (fun p => (o.d.base + 8 * p.2, toLe 4 p.1.1 ++ toLe 4 ((o.idx.toNat + p.1.2) % 2 ^ 32)))
        writeErr x (dGpart r.job) (recs.map (fun q => (q.1, 8))) = none →
          holds t (recs.foldl (fun a q => coreStore a.1 a.2 q.1 q.2) (x, k)) ∧ reg t r' (fld o.word 55 51) hits.length)

/-! Knots -/

/-- R130, R131, R388 to R391: a knot instruction that names a knot outside the job's range, of another kind, or (KSIG, KTAKE) with an amount of 0 or
above 65,535 ends the job with BAD_KNOT; else KARV and KSIG go on and their effect waits behind the job's earlier ones, KARV's register
pending until then. -/
def Obligations.KnotArrivalsAreDeferredOrEndTheJob : Prop :=
  ∀ (s : State) (d c : Nat) (k : Core) (r : Run) (w : Word64),
    let n := fld w 57 49
    let g := fld w 48 44
    let v := (greg k g).toNat
    let bad (i : Instr) : Prop := ∃ t r', exec i s = .next t ∧ (getCore t d c).run = some r' ∧ r'.ended = some .badKnot
    let waits (i : Instr) (q : Deferred) : Prop := ∃ t r', exec i s = .next t ∧ (getCore t d c).run = some r' ∧ r'.defer = r.defer ++ [q] ∧
      r'.shared = true ∧ (r.pc + 1 < dProgLen r.job → r'.pc = r.pc + 1 ∧ r'.ended = none) ∧
      (∀ e, e ∈ r'.pend ↔ e ∈ r.pend ∨ (q.sig = false ∧ e = g ∧ g ≠ 0)) ∧ getKnot t d n = getKnot s d n ∧ SameMemory s t
    (Issues s d c 0x30 k r w → knotOk s d r n [1, 3] = false → bad (.karv d c)) ∧
    (Issues s d c 0x30 k r w → knotOk s d r n [1, 3] = true → waits (.karv d c) (deferOf s d c r false n g 0)) ∧
    (Issues s d c 0x32 k r w → (knotOk s d r n [2] = false ∨ v = 0 ∨ 65535 < v) → bad (.ksig d c)) ∧
    (Issues s d c 0x32 k r w → knotOk s d r n [2] = true → 1 ≤ v → v ≤ 65535 → waits (.ksig d c) (deferOf s d c r true n 0 v)) ∧
    (Issues s d c 0x31 k r w → knotOk s d r n [1, 3] = false → bad (.kwait d c)) ∧
    (Issues s d c 0x33 k r w → (knotOk s d r n [2] = false ∨ v = 0 ∨ 65535 < v) → bad (.ktake d c))

/-- R130, R390, R391: KWAIT on a released generation writes its result to g[D] and goes on, else the core waits at the knot; KTAKE at a semaphore
that nobody queues at takes its amount and writes 0 where the count reaches it, else it queues and the core waits. -/
def Obligations.KnotWaitsGoOnOrStall : Prop :=
  ∀ (s : State) (d c : Nat) (k : Core) (r : Run) (w : Word64),
    let n := fld w 57 49
    let v := (greg k (fld w 48 44)).toNat
    let rd := fld w 38 34
    let kn := getKnot s d n
    let reg (t : State) (x : Nat) : Prop := ∀ q, greg (getCore t d c) q = if q = rd ∧ rd ≠ 0 then BitVec.ofNat 64 x else greg k q
    (Issues s d c 0x31 k r w → knotOk s d r n [1, 3] = true →
      if knotReleased kn (v % 2 ^ 16) then
        ∃ t, exec (.kwait d c) s = .next t ∧ (getCore t d c).run = some (goneOn r) ∧ reg t (knotResult kn (v % 2 ^ 16)) ∧ SameMemory s t
      else ∃ t r' q, exec (.kwait d c) s = .next t ∧ (getCore t d c).run = some r' ∧ r'.wait = some q ∧ r'.pc = r.pc ∧ q.knot = n ∧
        q.gen = v % 2 ^ 16 ∧ q.take = false ∧ q.reg = rd) ∧
    (Issues s d c 0x33 k r w → knotOk s d r n [2] = true → 1 ≤ v → v ≤ 65535 → kn.takes = [] →
      if v ≤ kn.count then
        ∃ t r', exec (.ktake d c) s = .next t ∧ (getCore t d c).run = some r' ∧ r'.wait = none ∧ (r.pc + 1 < dProgLen r.job → r'.pc = r.pc + 1) ∧
          reg t 0 ∧ getKnot t d n = { kn with count := kn.count - v }
      else ∃ t r' q, exec (.ktake d c) s = .next t ∧ (getCore t d c).run = some r' ∧ r'.wait = some q ∧ r'.pc = r.pc ∧ q.take = true ∧
        getKnot t d n = { kn with takes := [(d, c, v)] })

/-- R131, R389, R391: a KARV or KSIG takes effect once the writes issued before it are complete: an arrival at a counted barrier of the package
counts and its register holds the generation it arrives in; the arrival that completes COUNT releases the generation; a signal adds to a
semaphore that nobody queues at, up to 2^32 - 1. -/
def Obligations.ArrivalsTakeEffectInOrder : Prop :=
  ∀ (s : State) (d c : Nat) (r : Run) (q : Deferred) (rest : List Deferred),
    let n := getKnot s d q.knot
    dieUp s d = true → (getCore s d c).run = some r → r.wait = none → r.defer = q :: rest → deferReady s d c r q = true →
    (q.sig = true → knotKind n = 2 → n.takes = [] →
      ∃ t, exec (.arrivalTakesEffect d c) s = .next t ∧ getKnot t d q.knot = { n with count := min (2 ^ 32 - 1) (n.count + q.amount) } ∧
        ∃ r', (getCore t d c).run = some r' ∧ r'.defer = rest ∧ ∀ g, g ∈ r'.pend ↔ g ∈ r.pend ∧ g ≠ q.reg) ∧
    (q.sig = false → knotKind n = 1 → q.knot < 320 → n.arrivals < knotCount n → n.armed = [] → n.sentArrive = false →
      ∃ t, exec (.arrivalTakesEffect d c) s = .next t ∧
        (getKnot t d q.knot).gen = (if n.arrivals + 1 = knotCount n then (n.gen + 1) % 2 ^ 16 else n.gen) ∧
        (getKnot t d q.knot).arrivals = (if n.arrivals + 1 = knotCount n then 0 else n.arrivals + 1) ∧
        greg (getCore t d c) q.reg = (if q.reg = 0 then 0 else BitVec.ofNat 64 (n.gen % 2 ^ 16)) ∧
        ∃ r', (getCore t d c).run = some r' ∧ r'.defer = rest ∧ ∀ g, g ∈ r'.pend ↔ g ∈ r.pend ∧ g ≠ q.reg)

/-- R130, R391, R395, R397: a limited KWAIT or KTAKE gives up with 1, and a KTAKE leaves the semaphore's queue; a taken KNOT_CFG write resets the
knot, whatever it held, and every KWAIT or KTAKE waiting on it returns 1; TIMED_RELEASE releases the generation whose time was armed first. That
the command brings the die's counter to at least that time is the model's choice (log entry 20), that a generation decided later stays armed
behind it the model's reading (log entry 76). -/
def Obligations.KnotTimeoutsConfigurationAndTimedRelease : Prop :=
  (∀ (s : State) (d c : Nat) (r : Run) (w : KnotWait), dieUp s d = true → (getCore s d c).run = some r → r.wait = some w → w.limited = true →
    ∃ t r', exec (.knotWaitTimeout d c) s = .next t ∧ (getCore t d c).run = some r' ∧ r'.wait = none ∧ (r.pc + 1 < dProgLen r.job → r'.pc = r.pc + 1) ∧
      (w.take = true → ∀ q ∈ (getKnot t d w.knot).takes, q.1 ≠ d ∨ q.2.1 ≠ c) ∧
      ∀ q, greg (getCore t d c) q = if q = w.reg ∧ w.reg ≠ 0 then 1 else greg (getCore s d c) q) ∧
  (∀ (s : State) (d k : Nat) (v : Word32), regsUp s = true → linkReaches s d = true → (k < 256 ∨ (k < 352 ∧ d = 0)) →
    (fld v 14 2 ≠ 0 ∨ fld v 1 0 = 0) → (k < 320 ∨ fld v 1 0 ≠ 2) →
    ∃ t, exec (.knotCfgWrite d k v) s = .next t ∧
      getKnot t d k = { knotReset with cfg := v &&& 0x7FFF, time := (getKnot s d k).time, fab := (getKnot s d k).fab } ∧
      (getKnot t d k).gen = 0 ∧ (getKnot t d k).arrivals = 0 ∧ (getKnot t d k).count = 0 ∧
      ∀ e c r w, (getCore s e c).run = some r → r.wait = some w → w.knot = k → (if k < 256 then e = d else e < ndies s.variant) →
        ∃ r', (getCore t e c).run = some r' ∧ r'.wait = none ∧
          ∀ q, greg (getCore t e c) q = if q = w.reg ∧ w.reg ≠ 0 then 1 else greg (getCore s e c) q) ∧
  (∀ (s : State) (d k g t0 : Nat) (l : List (Nat × Nat)), let n := getKnot s d k
    s.phase = .up → d < ndies s.variant → n.armed = (g, t0) :: l → (∀ p ∈ l, p.2 ≠ 0) → n.arrivals < (l.length + 2) * knotCount n →
    ∃ t, exec (.timedRelease d k) s = .next t ∧ (getKnot t d k).gen = (n.gen + 1) % 2 ^ 16 ∧ (getKnot t d k).armed = l ∧
      (getKnot t d k).arrivals = n.arrivals - knotCount n ∧
      (t0 < 2 ^ 64 → (getDie s (knotDie d k)).clock < 2 ^ 96 → t0 * 2 ^ 32 ≤ (getDie t (knotDie d k)).clock))

/-! DMA, engine posts and jobs -/

/-- R132, R174, R97 with Table 5-2: DMA stalls while 64 requests of the core are outstanding; else DMA of no bytes goes on; of more than
2^24 bytes it ends the job with BAD_SLOT; where its source or else its destination is refused it ends the job with what refuses it; else the
job goes on and a request of the core and its TAG starts. DMAW goes on once no request of its TAG is outstanding, and stalls till then. That a
request's bytes inside the package move at its completion and not before is the model's choice (log entry 34). -/
def Obligations.DmaInstructionsStartAndAwaitRequests : Prop :=
  ∀ (s : State) (d c : Nat) (k : Core) (r : Run) (w : Word64),
    let n := (greg k (fld w 47 43)).toNat
    let src := coreDmaSegs s d c r (bit w 38) .rd (greg k (fld w 57 53)).toNat n
    let dst := coreDmaSegs s d c r (bit w 37) .wr (greg k (fld w 52 48)).toNat n
    let goes : State := setCore s d c (issued k (runNext r))
    let ends (st : Status) : Prop := ∃ t r', exec (.dma d c) s = .next t ∧ (getCore t d c).run = some r' ∧ r'.ended = some st ∧
      (getDie t d).dmas = (getDie s d).dmas
    (Issues s d c 0x38 k r w → 64 ≤ (coreDmas (getDie s d) c).length → exec (.dma d c) s = .next s) ∧
    (Issues s d c 0x38 k r w → (coreDmas (getDie s d) c).length < 64 →
      (n = 0 → exec (.dma d c) s = .next goes) ∧ (2 ^ 24 < n → ends .badSlot) ∧
      (0 < n → n ≤ 2 ^ 24 →
        (∀ e, src = .error e → ends e) ∧ (∀ a e, src = .ok a → dst = .error e → ends e) ∧
        (∀ a b, src = .ok a → dst = .ok b → exec (.dma d c) s = .next (dmaStart (setCore s d c (corePmcEvent (issued k (runNext r)) 0x0B n)) d (.core c (fld w 42 39)) a b n) ∧
          ((∀ g ∈ a ++ b, (placeDie g.place).isSome = true) →
            ∃ t, exec (.dma d c) s = .next t ∧ (getCore t d c).run = some (goneOn r) ∧ SameMemory s t ∧
              ∃ q, (getDie t d).dmas = (getDie s d).dmas ++ [q] ∧ q.owner = .core c (fld w 42 39) ∧ q.src = a ∧ q.dst = b ∧ q.len = n ∧
                q.next = 0 ∧ q.busy = [] ∧ q.status = .ok)))) ∧
    (Issues s d c 0x39 k r w → exec (.dmaw d c) s =
      .next (if ∃ q ∈ (getDie s d).dmas, q.owner = .core c (fld w 57 54) then s else goes))

/-- R133, R157: ENG reads the 64 bytes at g[GA] and holds them as a post of the job, with the ENGINE field, the job's GPART and g[GP] in place of
bytes 0, 2 and 56 to 63; a seventeenth post ends the job with BAD_INSN. -/
def Obligations.EngHoldsARequestAsAPost : Prop :=
  ∀ (s : State) (d c : Nat) (k : Core) (r : Run) (w : Word64),
    Issues s d c 0x3A k r w →
    let a := (greg k (fld w 54 50)).toNat
    (r.posts.length = 16 → ∃ t r', exec (.eng d c) s = .next t ∧ (getCore t d c).run = some r' ∧ r'.ended = some .badInsn ∧ r'.posts = []) ∧
    (r.posts.length < 16 → a % 64 = 0 → coreCheck (getDie s d) (dGpart r.job) a 64 = none → r.pc + 1 < dProgLen r.job →
      ∃ t r' q, exec (.eng d c) s = .next t ∧ (getCore t d c).run = some r' ∧ r'.pc = r.pc + 1 ∧ r'.ended = none ∧
        r'.posts = r.posts ++ [(fld w 57 55, q)] ∧ SameMemory s t ∧
        ∀ j, j < 64 → fld q (8 * j + 7) (8 * j) =
          if j = 0 then fld w 57 55 else if j = 2 then dGpart r.job % 256 else if 56 ≤ j then (greg k (fld w 49 45)).toNat / 256 ^ (j - 56) % 256
          else (coreByte (getDie s d) k (a + j)).toNat)

/-- R102, R103, Table 5-3: the oldest job of an idle core starts: the core holds the image (loaded from PROG_ADDR where FLAGS.LOAD asks for it or the
core holds none), g1 to g8 hold the argument block, every other register, the scratchpad, the stream slots and the conversion slots are zero, every
accumulator word is empty, its units are idle, it holds no post, no arrival waits, and no DMA starts; PC is ENTRY. -/
def Obligations.JobStartsWithItsArgumentsOnAClearedCore : Prop :=
  ∀ (s : State) (d c : Nat) (j : Job) (rest : List Job) (po ao : Nat),
    let x := getDie s d
    let k := getCore s d c
    dieUp s d = true → c < 150 → k.run = none → k.fenced = false → k.testing = false → k.retired = false → x.compFenced = false →
    k.jobs = j :: rest →
    jobGround x j (dProgAddr j) (8 * dProgLen j) = some po → jobGround x j (dArgAddr j) 64 = some ao → gndPoisoned x.gnd ao 64 = false →
    let need := dLoad j = true ∨ k.image = none
    (need → gndPoisoned x.gnd po (8 * dProgLen j) = false) →
    ∃ t r im, exec (.jobStart d c) s = .next t ∧ (getCore t d c).run = some r ∧ r.job = j ∧ r.pc = dEntry j ∧ r.ended = none ∧
      r.halted = false ∧ r.posts = [] ∧ (getCore t d c).jobs = rest ∧ (getCore t d c).image = some im ∧
      (need → im.length = dProgLen j ∧ ∀ i, i < dProgLen j → nth im i 0 = BitVec.ofNat 64 (memNat x.gnd.cells (po + 8 * i) 8)) ∧
      (¬need → k.image = some im) ∧
      (∀ q, greg (getCore t d c) q = if 1 ≤ q ∧ q ≤ 8 then BitVec.ofNat 64 (memNat x.gnd.cells (ao + 8 * (q - 1)) 8) else 0) ∧
      (∀ a, memGet (getCore t d c).scratch a = 0) ∧ (∀ a, tget (getCore t d c).acc a accEmpty = accEmpty) ∧
      (∀ i, tget (getCore t d c).slots i 0 = 0 ∧ tget (getCore t d c).convs i 0 = 0) ∧ (getCore t d c).weights = none ∧
      (getCore t d c).aq = [] ∧ (getCore t d c).accq = [] ∧ (getCore t d c).vq = [] ∧ r.defer = [] ∧ r.pend = [] ∧ r.wait = none ∧
      (getDie t d).dmas = x.dmas ∧
      (∀ a, memGet (getDie t d).gnd.cells a = memGet x.gnd.cells a)

/-- R105, R110, R365, Table 12-4: a job that has ended, its units idle and its record having room, leaves the core; its record goes to the tail of its
completion ring with its status (OK where it halted), its position and its two status words; a job that halted leaves its status words in
ACC_STATUS and VEC_STATUS. For a digest log that is off (R402). -/
def Obligations.JobEndsWithItsRecord : Prop :=
  ∀ (s : State) (d c : Nat) (r : Run) (o : Op),
    let k := getCore s d c
    let q := getCq s o.cq
    let st := r.ended.getD .ok
    dieUp s d = true → k.run = some r → r.halted = true ∨ r.ended.isSome = true → unitsIdle s d c k r = true →
    r.job.op = some o.id → findOp s o.id = some o → r.job.cq = o.cq → jobRoom s r.job = true →
    (∀ e ∈ s.engWait, e.src ≠ .core d c) → bit (regWord (getDie s 0) rTIME_DLOG) 0 = false →
    ∃ t, exec (.jobCommit d c) s = .next t ∧ (getCore t d c).run = none ∧ findOp t o.id = none ∧
      Sent t (.store (q.base + 32 * (q.tail % 2 ^ q.log2)) (recBytes (opRec o st (jobPos r) r.status r.vstatus 0) q.log2 q.tail)) ∧
      (getCq t o.cq).tail = (q.tail + 1) % 2 ^ 32 ∧
      (getCore t d c).accStatus = (if r.ended = none then r.status else k.accStatus) ∧
      (getCore t d c).vecStatus = (if r.ended = none then r.vstatus else k.vecStatus)

/-- R108, R403: a running job that passes its TIME_LIMIT ends with TIMEOUT, its KWAIT or KTAKE in progress ends, and its posts are dropped; an own
record of the digest log that has had no partner for WAIT_MS counts as an orphan, and a TIME event of subcode 7 names its tag. JOB_TIMEOUT is
the report that the limit has passed (log entries 3 and 20), and a partner's record as old is forgotten (log entry 35): the model's choices. -/
def Obligations.JobTimeLimitAndLockstepOrphan : Prop :=
  (∀ (s : State) (d c : Nat) (r : Run), dieUp s d = true → (getCore s d c).run = some r → r.ended = none → dTimeLimit r.job ≠ 0 →
    ∃ t r', exec (.jobTimeout d c) s = .next t ∧ (getCore t d c).run = some r' ∧ r'.ended = some .timeout ∧ r'.posts = [] ∧ r'.wait = none ∧
      (∀ w, r.wait = some w → w.take = true → ∀ q ∈ (getKnot t d w.knot).takes, q.1 ≠ d ∨ q.2.1 ≠ c) ∧
      (∀ e ∈ t.engWait, e.src ≠ .core d c) ∧ SameMemory s t) ∧
  (∀ (s : State) (o : LsRec) (rest : List LsRec), s.phase = .up → s.time.own = o :: rest → lsOver s o = true →
    exec .lockstepOrphanTimeout s = .next (postEvent { s with time := { s.time with own := rest, peer := s.time.peer.filter (fun r => !lsOver s r), lsOrph := satInc 0xFF s.time.lsOrph } }
      0x11 0xFF 7 (o.tag % 2 ^ 32) (o.tag / 2 ^ 32) 0))

/-! Rings, records and events -/

/-- R374, R366: an event goes to the tail of the event ring as a 32-byte record (code, die, PHASE and the mark of dropped events, time, four words) where
the ring is enabled, not in error and has room; otherwise it is dropped and counted, and the next one carries the mark. An event of
a die carries that die's counter in ns, one of the package the lead die's (R378). -/
def Obligations.EventsAreRecordedOrCounted : Prop :=
  ∀ (s : State) (code die d0 d1 d2 d3 : Nat),
    let r := s.ev
    let t := postEvent s code die d0 d1 d2 d3
    t.dies = s.dies ∧
    (r.en = true → r.state ≠ 3 → ringRoom r = true →
      t.ev.tail = (r.tail + 1) % 2 ^ 32 ∧ t.evFlag = false ∧ t.evLost = s.evLost ∧
      ∃ bs, bs.length = 32 ∧ Sent t (.store (r.base + 32 * (r.tail % 2 ^ r.log2)) bs) ∧
        bytesNat bs 0 2 = code % 2 ^ 16 ∧ bytesNat bs 2 1 = die % 2 ^ 8 ∧
        bytesNat bs 3 1 = (if r.tail / 2 ^ r.log2 % 2 = 0 then 1 else 0) + (if s.evFlag = true then 2 else 0) ∧ bytesNat bs 4 4 = 0 ∧
        bytesNat bs 8 8 = (getDie s (if die < ndies s.variant then die else s.lead)).clock / 2 ^ 32 % 2 ^ 64 ∧
        bytesNat bs 16 4 = d0 % 2 ^ 32 ∧ bytesNat bs 20 4 = d1 % 2 ^ 32 ∧ bytesNat bs 24 4 = d2 % 2 ^ 32 ∧ bytesNat bs 28 4 = d3 % 2 ^ 32) ∧
    (¬(r.en = true ∧ r.state ≠ 3 ∧ ringRoom r = true) →
      t.ev = r ∧ t.out = s.out ∧ t.evFlag = true ∧ t.evLost = satInc (2 ^ 32 - 1) s.evLost)

/-- R361, R365, R366: SQ_TAIL advances a running ring's tail by at most its free places, else the ring stops with ERR 3 and RING_ERROR is posted;
CQ_HEAD frees the records up to it, and a new interrupt is raised where records are left after one; a head that passes the tail
stops the ring. -/
def Obligations.DoorbellsMoveRingsWithinTheirRoom : Prop :=
  ∀ (s : State) (q : Nat) (v : Word32), regsUp s = true → q < 256 →
    (let r := getSq s q
      let free := 2 ^ r.log2 - (r.tail + 2 ^ 32 - r.head) % 2 ^ 32
      r.state = 1 → v.toNat ≠ r.tail →
        exec (.sqTailWrite q v) s = .next (if (v.toNat + 2 ^ 32 - r.tail) % 2 ^ 32 ≤ free then setSq s q { r with tail := v.toNat }
          else postEvent (setSq s q { r with state := 3, err := 3 }) 0x0D 0xFF q 3 0 0)) ∧
    (let r := getCq s q
      let used := (r.tail + 2 ^ 32 - r.head) % 2 ^ 32
      r.state = 1 ∨ r.state = 2 → v.toNat ≠ r.head →
        (used < (v.toNat + 2 ^ 32 - r.head) % 2 ^ 32 →
          exec (.cqHeadWrite q v) s = .next (postEvent (setCq s q { r with state := 3, err := 3 }) 0x0D 0xFF (q + 256) 3 0 0)) ∧
        ((v.toNat + 2 ^ 32 - r.head) % 2 ^ 32 ≤ used →
          ∃ t, exec (.cqHeadWrite q v) s = .next t ∧ (getCq t q).head = v.toNat ∧ (getCq t q).tail = r.tail ∧ (getCq t q).state = r.state ∧
            let irq := if r.ien = true ∧ r.armed = false ∧ v.toNat ≠ r.tail then [Out.interrupt r.vector] else []
            if s.itgLost then t.out = s.out ∧ t.itgWait = s.itgWait ++ irq.map (fun o => (s.now, o)) else t.out = s.out ++ irq))

/-- R358, R360, R376: EN = 1 written to a DISABLED ring starts it empty, a submission ring of another version in ERROR with ERR 1; EN = 0 written
to a RUNNING ring drains it while something accepted names it, and disables it, its indices kept, where nothing does; the event ring takes EN at
once; RING_SETUP's lock is set. What EN = 1 does at a DRAINING ring is the model's choice (log entry 75). -/
def Obligations.RingsStartDrainAndLock : Prop :=
  ∀ (s : State) (q : Nat) (v : Word32), regsUp s = true → q < 256 →
    (bit v 31 = true → (getSq (settleRings s) q).state = 0 →
      ∃ t, exec (.ringEnable 0 q v) s = .next t ∧ (getSq t q).head = 0 ∧ (getSq t q).tail = 0 ∧ (getSq t q).en = true ∧
        (if fld v 15 8 = 0x10 ∧ fld v 23 16 = 0x10 then (getSq t q).state = 1 ∧ (getSq t q).err = 0
          else (getSq t q).state = 3 ∧ (getSq t q).err = 1)) ∧
    (bit v 31 = true → (getCq (settleRings s) q).state = 0 →
      ∃ t, exec (.ringEnable 1 q v) s = .next t ∧ (getCq t q).head = 0 ∧ (getCq t q).tail = 0 ∧ (getCq t q).en = true ∧ (getCq t q).state = 1 ∧
        (getCq t q).err = 0) ∧
    (bit v 31 = false → (getSq s q).state = 1 → (∃ o ∈ s.ops, o.sq = q) →
      ∃ t, exec (.ringDisable 0 q v) s = .next t ∧ (getSq t q).state = 2 ∧ (getSq t q).en = false) ∧
    (bit v 31 = false → (getSq s q).state = 1 → (∀ o ∈ s.ops, o.sq ≠ q) → (∀ x ∈ s.ctxs, x.sq ≠ q) → (∀ x ∈ s.recs, x.sq ≠ q ∨ 1 < x.source) →
      ∃ t, exec (.ringDisable 0 q v) s = .next t ∧ (getSq t q).state = 0 ∧ (getSq t q).en = false) ∧
    (bit v 31 = false → (getCq s q).state = 1 → (∃ o ∈ s.ops, o.cq = q) ∨ (∃ x ∈ s.recs, x.cq = q) ∨ (∃ x ∈ s.ctxs, x.cq = q) →
      ∃ t, exec (.ringDisable 1 q v) s = .next t ∧ getCq t q = { getCq s q with state := 2, en := false }) ∧
    (bit v 31 = false → (getCq s q).state = 1 → (∀ o ∈ s.ops, o.cq ≠ q) → (∀ x ∈ s.recs, x.cq ≠ q) → (∀ x ∈ s.ctxs, x.cq ≠ q) →
      (∀ e ∈ s.engWait, ringReq e.req q = false) →
      (∀ x ∈ s.dies, (∀ e ∈ x.2.engs, ringReq e.req q = false) ∧ (∀ e ∈ x.2.topk, ringReq e.2.req q = false) ∧
        ∀ k ∈ x.2.cores, (∀ j ∈ k.2.jobs, j.op.isSome = true ∨ j.cq ≠ q) ∧ ∀ r, k.2.run = some r → r.job.op.isSome = true ∨ r.job.cq ≠ q) →
      ∃ t, exec (.ringDisable 1 q v) s = .next t ∧ getCq t q = { getCq s q with state := 0, en := false }) ∧
    (bit v 31 = true → s.ev.en = false → ∃ e, exec (.ringEnable 2 q v) s = .next (bootEvents { s with ev := e }) ∧ e.en = true ∧ e.state = 0 ∧
      e.head = 0 ∧ e.tail = 0 ∧ e.base = s.ev.base ∧ e.ien = bit v 5 ∧ e.vector = fld v 15 8) ∧
    (bit v 31 = false → s.ev.en = true → exec (.ringDisable 2 q v) s = .next { s with ev := { s.ev with en := false } }) ∧
    (bit v 31 = true → (getSq (settleRings s) q).state = 2 → (getSq (settleRings s) q).en = false →
      ∃ t, exec (.ringEnable 0 q v) s = .next t ∧ (getSq t q).state = 2 ∧ (getSq t q).en = true ∧ (getSq t q).head = 0 ∧ (getSq t q).tail = 0) ∧
    (bit v 0 = true → exec (.ringSetupLock v) s = .next { s with locked := true })

/-- R217, R286, R365 to R367: the oldest record that waits for a ring with room is written at its tail; a ring that coalesces interrupts once COAL_T has
passed; the progress entry of an operation (of the one that drains, the drain's position) or of an open context is written at its place in the
progress area. -/
def Obligations.WaitingRecordsInterruptsAndProgressAreWritten : Prop :=
  (∀ (s : State) (r : Rec) (l m : List Rec), let q := getCq s r.cq
    regsUp s = true → s.recs = l ++ r :: m → cqTakes s r.cq = true → recReady s r = true → (∀ e ∈ l, e.cq ≠ r.cq ∨ recReady s e = false) →
    ∃ t, exec (.completionRecordWrite r.cq) s = .next t ∧ t.recs = l ++ m ∧ (getCq t r.cq).tail = (q.tail + 1) % 2 ^ 32 ∧
      Sent t (.store (q.base + 32 * (q.tail % 2 ^ q.log2)) (recBytes r q.log2 q.tail))) ∧
  (∀ (s : State) (q : Nat), let r := getCq s q
    regsUp s = true → q < 256 → r.state = 1 ∨ r.state = 2 → r.ien = true → r.armed = true → r.coalT ≠ 0 → r.count ≠ 0 →
    ∃ t, exec (.interruptCoalesceTimeout q) s = .next t ∧ Sent t (.interrupt r.vector) ∧ (s.itgLost = false → t.out = s.out ++ [.interrupt r.vector]) ∧
      (getCq t q).count = 0 ∧ (getCq t q).armed = false) ∧
  (∀ (s : State) (o : Op) (pos : Nat), let q := getSq s o.sq
    regsUp s = true → s.ops.find? (fun e => e.sq == o.sq && e.idx == o.idx) = some o → (∀ e ∈ s.recs, e.op ≠ some o.id) → q.pen = true →
    ∃ t bs, exec (.progressEntryWrite o.sq o.idx pos) s = .next t ∧ bs.length = 16 ∧
      Sent t (.store (q.pbase + 16 * (o.idx % 2 ^ q.log2)) bs) ∧ bytesNat bs 4 4 = o.total % 2 ^ 32 ∧ bytesNat bs 12 4 = o.idx % 2 ^ 32 ∧
      bytesNat bs 0 4 = (if s.drain.op = some o.id then drainPos s
        else if o.begun = true ∧ (o.type = 7 ∨ o.type = 9) ∧ o.pos ≤ pos ∧ pos ≤ o.total then pos else o.pos) % 2 ^ 32) ∧
  (∀ (s : State) (c : Ctx) (pos : Nat), let q := getSq s c.sq
    regsUp s = true → (∀ o ∈ s.ops, o.sq ≠ c.sq ∨ o.idx ≠ c.idx) →
    s.ctxs.find? (fun e => e.opened && e.sq == c.sq && e.idx == c.idx) = some c → q.pen = true →
    ∃ t bs, exec (.progressEntryWrite c.sq c.idx pos) s = .next t ∧ bs.length = 16 ∧
      Sent t (.store (q.pbase + 16 * (c.idx % 2 ^ q.log2)) bs) ∧ bytesNat bs 0 4 = ctxPos s c % 2 ^ 32 ∧ bytesNat bs 4 4 = cChunks c % 2 ^ 32 ∧
      bytesNat bs 12 4 = c.idx % 2 ^ 32)

/-! Descriptors -/

/-- R361, R364, R368, R369: acceptance moves the head of the ring on and lists an operation with the descriptor's ring, index, completion ring and TAG;
every descriptor command completes a descriptor of a reserved TYPE with BAD_DESC, or with ABORTED where an abort reached it. The rings are served
in turn: one before which another running ring with work stands in the round robin is not served, and one that is served, its descriptor accepted
or waiting, passes the turn on; while a descriptor is not accepted nothing else changes. Where the turn stands at first, and that a ring whose
descriptor waits passes it, are the model's choice (log entry 49). -/
def Obligations.AcceptanceTakesTheDescriptorAtTheHead : Prop :=
  ∀ (s : State) (q : Nat) (desc : Word512) (ext : List Host.Cell),
    let r := getSq s q
    let a := accepted s q desc ext
    let o := newOp s q desc ext
    ((getSq a q).head = (r.head + 1) % 2 ^ 32 ∧ (getSq a q).tail = r.tail ∧ (∀ p, p ≠ q → getSq a p = getSq s p) ∧
      a.ops = s.ops ++ [o] ∧ o.sq = q ∧ o.idx = r.head ∧ o.cq = fld desc 23 16 ∧ o.tag = fld desc 127 64 ∧ o.type = fld desc 7 0 ∧
      o.noint = bit desc 10 ∧ a.dies = s.dies ∧ a.recs = s.recs ∧ a.sqTurn = (q + 1) % 256) ∧
    (∀ e ∈ s.sqs, e.2.state = 1 → e.2.head ≠ e.2.tail → (e.1 + 256 - s.sqTurn) % 256 < (q + 256 - s.sqTurn) % 256 →
      sqServes s q = false ∧ takesNow s q desc ext = false) ∧
    (sqServes s q = true → s.phase = .up ∧ r.state = 1 ∧ r.head ≠ r.tail ∧ sqPass s q = { s with sqTurn := (q + 1) % 256 }) ∧
    (sqServes s q = false → sqPass s q = s) ∧
    (∀ p ∈ [(Instr.nopDescriptor q desc ext, 0), (.coreJob q desc ext, 1), (.engineOperation q desc ext, 2), (.dmaDescriptor q desc ext, 3),
      (.contextOpen q desc ext, 4), (.contextClose q desc ext, 5), (.gateList q desc ext, 8), (.abort q desc ext, 0x0C)],
      fld desc 7 0 = p.2 → takesNow s q desc ext = false → exec p.1 s = .next (sqPass s q)) ∧
    ∀ i ∈ [Instr.nopDescriptor q desc ext, .coreJob q desc ext, .engineOperation q desc ext, .dmaDescriptor q desc ext, .contextOpen q desc ext,
      .contextClose q desc ext, .tableUpdate q desc ext, .tableUpdateActivate q desc ext, .maintRecal q desc ext, .maintStackScrub q desc ext,
      .maintStackRepair q desc ext, .maintCore q desc ext, .maintGnd q desc ext, .maintSelftest q desc ext, .gateList q desc ext,
      .fwStage q desc ext, .fwSelect q desc ext, .fwCommitSvn q desc ext, .fwAttest q desc ext, .fwReadCert q desc ext, .portAdmit q desc ext,
      .portWithdraw q desc ext, .moduleRead q desc ext, .moduleWrite q desc ext, .abort q desc ext],
      (takesNow s q desc ext = false → exec i s = .next s ∨ exec i s = .next (sqPass s q)) ∧
      (takesNow s q desc ext = false → 0x0D ≤ fld desc 7 0 → exec i s = .next (sqPass s q)) ∧
      (takesNow s q desc ext = true → 0x0D ≤ fld desc 7 0 →
        exec i s = .next (complete a o (if r.head ∈ r.aborts then .aborted else .badDesc) 0))

/-- R102, R104, R175, R177, R364: a NOP completes with OK; a core job joins its core's jobs, or completes with what refuses it; an engine operation's
64-byte record goes to the engine that it names, where it is listed; a DMA of no bytes completes with OK, a good one starts on the movers of the die
of its source, or else of its destination. The order in which a job's errors are found (jobErr) is log entry 41's choice, and that a request for another die
is listed there from its acceptance and on its way until its packet arrives is log entry 70's. -/
def Obligations.NopJobEngineAndDmaDescriptorsTakeEffect : Prop :=
  ∀ (s : State) (q : Nat) (desc : Word512) (ext : List Host.Cell), Accepts s q desc ext →
    let a := accepted s q desc ext
    let o := newOp s q desc ext
    (fld desc 7 0 = 0 → exec (.nopDescriptor q desc ext) s = .next (complete a o (if fld desc 511 128 = 0 then .ok else .badDesc) 0)) ∧
    (fld desc 7 0 = 1 → ∀ e, jobErr a desc = some e → exec (.coreJob q desc ext) s = .next (complete a o e 0)) ∧
    (fld desc 7 0 = 1 → jobErr a desc = none → ∃ t j, exec (.coreJob q desc ext) s = .next t ∧
      (getCore t (fld desc 143 136) (fld desc 135 128)).jobs = (getCore s (fld desc 143 136) (fld desc 135 128)).jobs ++ [j] ∧
      j.op = some o.id ∧ j.desc = desc ∧ j.replay = false ∧ t.ops = a.ops) ∧
    (fld desc 7 0 = 2 → fld desc 511 192 = 0 → fld desc 191 128 % 64 = 0 →
      ∀ bs s1, devRead a (linkDie a) (fld desc 191 128) 64 ext = .ok (bs, s1) → ∃ g : EngReq, g.req = BitVec.ofNat 512 (leNat bs) ∧ g.src = .op o.id ∧
        g.done = none ∧ exec (.engineOperation q desc ext) s = .next ((submit s1 (linkDie s1) g true).getD s1) ∧
        ∀ t, engDest s1 (toLe 64 g.req.toNat) = .die t → crosses s1 (linkDie s1) t = true → (getDie s1 t).flt = 0 →
          ∃ u g', exec (.engineOperation q desc ext) s = .next u ∧ (getDie u t).engs = (getDie s1 t).engs ++ [g'] ∧ g'.req = g.req ∧
            g'.src = .op o.id ∧ g'.way = (if t = linkDie s1 then none else some (linkDie s1)) ∧ (rq g.req 0 1 < 4 → ∀ n, pickUnit (getDie s1 t) (rq g.req 0 1) = some n →
              g'.unit = n ∧ g'.done = (reqErr s1 t g).map doneWith)) ∧
    (fld desc 7 0 = 3 → fld desc 511 288 = 0 → fld desc 287 256 = 0 → exec (.dmaDescriptor q desc ext) s = .next (complete a o .ok 0)) ∧
    (fld desc 7 0 = 3 → fld desc 511 288 = 0 → fld desc 287 256 ≠ 0 → ∀ src dst,
      segs a .rd (fld desc 191 128) (fld desc 287 256) = .ok src → segs a .wr (fld desc 255 192) (fld desc 287 256) = .ok dst →
      let d := dmaDie src dst
      linkReaches a d = true → (getDie a d).flt = 0 → (getDie a d).moverFenced.length < 4 →
      segsErr a d none src = none → segsErr a d none dst = none →
      exec (.dmaDescriptor q desc ext) s = .next (dmaStart a d (.op o.id) src dst (fld desc 287 256)))

/-- R180, R204, R218, R263, R371: a good context open joins the queue of contexts, whose head is tried; a close takes the context away
(ALREADY_COMPLETE where there is none); a table update changes the staged tables and not those in force, or completes with what refuses it, and
with ACTIVATE it begins the drain while the hoops are free. -/
def Obligations.ContextAndTableDescriptorsTakeEffect : Prop :=
  ∀ (s : State) (q : Nat) (desc : Word512) (ext : List Host.Cell), Accepts s q desc ext →
    let a := accepted s q desc ext
    let o := newOp s q desc ext
    let id := fld desc 159 128
    (fld desc 7 0 = 4 → fld desc 191 160 = 0 → fld desc 255 192 % 64 = 0 → fld desc 511 256 = 0 →
      ∀ bs s1 tbl s2, devRead a (linkDie a) (fld desc 255 192) 128 ext = .ok (bs, s1) →
      let blk : BitVec 1024 := BitVec.ofNat 1024 (leNat bs)
      let n := fld blk 335 320
      (blockBad blk = true → exec (.contextOpen q desc ext) s = .next (complete s1 o .badFormat 0)) ∧
      (blockBad blk = false → 0 < n → devRead s1 (linkDie s1) (fld blk 319 256) (16 * n) ext = .ok (tbl, s2) →
        ∀ ms ds, memberTable tbl n = some ms → homeDies s2 (fld blk 167 160) = some ds →
        (∀ k ∈ s2.ctxs, k.id ≠ id) → (s2.ctxs.filter (fun k => !k.opened)).length < 2048 →
        ∃ c : Ctx, c.id = id ∧ c.gen = fld blk 191 184 ∧ c.blk = blk ∧ c.op = some o.id ∧ c.opened = false ∧ c.dies = ds ∧ c.members = ms ∧
          (groupBad s2 c = false → exec (.contextOpen q desc ext) s = .next (admissionTry { s2 with ctxs := s2.ctxs ++ [c] })))) ∧
    (fld desc 7 0 = 5 → fld desc 511 168 = 0 →
      ((∀ c ∈ s.ctxs, c.id ≠ id ∨ c.gen ≠ fld desc 167 160) → exec (.contextClose q desc ext) s = .next (complete a o .alreadyComplete 0)) ∧
      ((∃ c ∈ s.ctxs, c.id = id ∧ c.gen = fld desc 167 160) → ∃ t, exec (.contextClose q desc ext) s = .next t ∧
        t.ctxs = s.ctxs.filter (fun c => !(c.id == id && c.gen == fld desc 167 160)))) ∧
    (fld desc 7 0 = 6 → bit desc 136 = false →
      (∀ e size lim, tabEntry s.variant (fld desc 135 128) = some (size, lim) → tableStage a desc ext = .error e →
        exec (.tableUpdate q desc ext) s = .next (complete (devSeen a (fld desc 319 256) (size * fld desc 223 192) e) o e 0)) ∧
      (∀ s1, tableStage a desc ext = .ok s1 → ∃ t, exec (.tableUpdate q desc ext) s = .next t ∧ t.stagedTabs = s1.stagedTabs ∧ t.tabs = s.tabs ∧
        t.drain.stage = s.drain.stage ∧ t.drain.epoch = s.drain.epoch)) ∧
    (fld desc 7 0 = 6 → bit desc 136 = true → ∀ s1, tableStage a desc ext = .ok s1 → s.hoopHold = [] → s.hoopQ = [] →
      ∃ t h, exec (.tableUpdateActivate q desc ext) s = .next t ∧ t.drain.stage = 1 ∧ t.drain.op = some o.id ∧ t.tabs = s.tabs ∧
        t.hoopHold = [h] ∧ h.act = 1 ∧ h.op = some o.id)

/-- R370, R371, R446, R447, Table 15-10: a maintenance descriptor whose fields are in range, on a living die, is granted its die's hoop where nothing
there conflicts, and its activity begins; where something conflicts it completes with HOOP_BUSY, or with WAIT_HOOP joins the queue; a
good gate list is staged at its port. -/
def Obligations.MaintenanceAndGateListDescriptorsTakeEffect : Prop :=
  ∀ (s : State) (q : Nat) (desc : Word512) (ext : List Host.Cell), Accepts s q desc ext →
    let a := accepted s q desc ext
    let o := newOp s q desc ext
    let act := fld desc 135 128
    let d := fld desc 143 136
    let unit := fld desc 191 160
    let arg := fld desc 255 192
    let h : HoopReq := { act := act, dies := [d], op := some o.id, die := d, unit := if act = 2 then unit % 96 else unit, arg := arg }
    let maint (i : Instr) (n : Nat) : Prop := fld desc 7 0 = 7 → act = n → fld desc 159 144 = 0 → fld desc 511 256 = 0 →
      (maintOk a act d unit arg = false → exec i s = .next (complete a o .badFormat 0)) ∧
      (maintOk a act d unit arg = true → linkReaches a d = false → exec i s = .next (complete a o .dieUnreachable 0)) ∧
      (maintOk a act d unit arg = true → linkReaches a d = true → (act = 6 → unit / 65536 ≠ 4 ∧ selfFenced a d (unit / 65536) (unit % 65536) = false) →
        ∃ b o', b.dies = a.dies ∧ b.hoopHold = s.hoopHold ∧ b.hoopQ = s.hoopQ ∧ o'.id = o.id ∧
          (hoopBlock s act [d] true = none → exec i s = .next (hoopStart b h)) ∧
          (∀ e g queued, hoopBlock s act [d] true = some (e, g, queued) → exec i s = .next
            (if bit desc 9 = true then { updOp b o.id (fun o => { o with hoopWait := true }) with hoopQ := s.hoopQ ++ [h] }
             else hoopBusy b o' e g queued)))
    maint (.maintRecal q desc ext) 2 ∧ maint (.maintCore q desc ext) 4 ∧ maint (.maintGnd q desc ext) 5 ∧ maint (.maintSelftest q desc ext) 6 ∧
    (unit = 0 → maint (.maintStackScrub q desc ext) 3) ∧ (unit ≠ 0 → maint (.maintStackRepair q desc ext) 3) ∧
    (fld desc 7 0 = 8 → ∀ p n bs s1 ents, p = fld desc 143 128 → n = fld desc 159 144 → p < 96 * ndies s.variant → 1 ≤ n → n ≤ 256 →
      fld desc 191 160 = 0 → fld desc 511 320 = 0 → fld desc 255 192 % 8 = 0 →
      timeValid a = true → timeNs a (p / 96) + 10000 ≤ fld desc 319 256 →
      isTrunk (getDie a (p / 96)) (p % 96) = true → (portWidth (getDie a (p / 96)) (p % 96)).isSome = true → linkReaches a (p / 96) = true →
      devRead a (linkDie a) (fld desc 255 192) (8 * n) ext = .ok (bs, s1) → gateEntries bs n = (ents, false) →
      gateBad (getDie a (p / 96)) (p % 96) ents = false → (portOf (getDie a (p / 96)) (p % 96)).staged = none →
      ∃ t g, exec (.gateList q desc ext) s = .next t ∧ (getPort t (p / 96) (p % 96)).staged = some g ∧ g.ents = ents ∧
        g.start = fld desc 319 256 ∧ g.op = o.id)

/-- R250, R471, R472, R478 to R481, Tables 17-4 and 17-5: a firmware descriptor with a wrong field completes with BAD_FORMAT; a STAGE of a slot that does not run, a
SELECT or a COMMIT_SVN takes FWSTAGE over all dies while nothing conflicts, a STAGE invalidating its slot; at the activity's commit STAGE fills its
slot with the image that it reads, whose valid flag its record's writing sets (a refused one stays invalid), SELECT makes its slot the preferred one and
COMMIT_SVN writes the cells of the anti-rollback counter with their tags, with OK. ATTEST writes the report and its two signatures at RESULT and READ_CERT
the certificate where it fits, both with OK once what they write outside the package is acknowledged. The root hashes, the salts and the byte under a
cell's tag are log entry 26's, the signature schemes' constants log entry 69's. -/
def Obligations.FirmwareDescriptorsTakeEffect : Prop :=
  ∀ (s : State) (q : Nat) (desc : Word512) (ext ext2 : List Host.Cell), Accepts s q desc ext → fld desc 7 0 = 9 →
    let a := accepted s q desc ext
    let o := newOp s q desc ext
    let op := fld desc 135 128
    let slot := fld desc 143 136
    let row (i : Instr) (n : Nat) : Prop := op = n → fwFields desc = false → exec i s = .next (complete a o .badFormat 0)
    let goes (i : Instr) (n : Nat) (t : State) : Prop := op = n ∧ fwFields desc = true ∧ (n = 0 → slot ≠ s.boot.slot) ∧
      hoopBlock s 7 (upto (ndies s.variant)) true = none ∧ (∀ h ∈ s.hoopHold, h.act ≠ 7) ∧ (∀ x ∈ s.ops, x.id ≠ o.id) ∧
      (∀ x ∈ s.recs, x.op ≠ some o.id) ∧ exec i s = .next t
    let takes (i : Instr) (n : Nat) : Prop := op = n → fwFields desc = true → (n = 0 → slot ≠ s.boot.slot) →
      hoopBlock s 7 (upto (ndies s.variant)) true = none →
      ∃ t h, exec i s = .next t ∧ t.hoopHold = s.hoopHold ++ [h] ∧ h.act = 7 ∧ h.dies = upto (ndies s.variant) ∧ h.op = some o.id ∧
        h.unit = n ∧ h.arg = slot ∧ (n = 0 → (keepSlot t slot).valid = false) ∧ (n ≠ 0 → t.keep = s.keep)
    let commits (t : State) (d : Nat) (st : Status) (k : Keep) : Prop := ∃ c o', c.keep = k ∧ o'.id = o.id ∧
      exec (.hoopActivityCommit 7 d [] ext2) t = .next (complete c o' st o'.total)
    row (.fwStage q desc ext) 0 ∧ row (.fwSelect q desc ext) 1 ∧ row (.fwCommitSvn q desc ext) 2 ∧ row (.fwAttest q desc ext) 3 ∧
    row (.fwReadCert q desc ext) 4 ∧
    takes (.fwStage q desc ext) 0 ∧ takes (.fwSelect q desc ext) 1 ∧ takes (.fwCommitSvn q desc ext) 2 ∧
    (∀ t d bs u, goes (.fwStage q desc ext) 0 t → fld desc 191 160 ≤ 8 * 1024 * 1024 →
      devRead t (linkDie t) (fld desc 255 192) (fld desc 191 160) ext2 = .ok (bs, u) →
      match imageRefused bs (fld desc 191 160) t.keep.arb (arbNow t) with
      | none => commits t d .ok (if slot = 0 then { s.keep with a := imageSlot bs } else { s.keep with b := imageSlot bs })
      | some c => commits t d (.fw (c - 0x40)) (if slot = 0 then { t.keep with a := { t.keep.a with image := bs } }
          else { t.keep with b := { t.keep.b with image := bs } })) ∧
    (∀ c r p, r.op.bind (findOp c) = some p → p.type = 9 → r.status = .ok → fld p.desc 135 128 = 0 →
      (keepSlot (writeRec c r) (fld p.desc 143 136)).valid = true) ∧
    (∀ t d, goes (.fwSelect q desc ext) 1 t → (keepSlot s slot).valid = true → commits t d .ok { s.keep with pref := slot }) ∧
    (∀ t d, let n := max s.keep.arb s.boot.svn
      let clear (f : FwSlot) : FwSlot := if f.svn < n then { f with valid := false } else f
      goes (.fwCommitSvn q desc ext) 2 t → n ≤ 255 →
      commits t d .ok { s.keep with arb := n, tags := arbTags (s.boot.seed.getD 0) n, a := clear s.keep.a, b := clear s.keep.b }) ∧
    (op = 3 → fwFields desc = true → s.lead ∈ s.boot.ids → s.boot.meas.length = 48 →
      ∀ l, segs a .wr (fld desc 255 192) 16864 = .ok l → segsErr a (linkDie a) none l = none →
        ∃ b c salt rnd t o', b.dies = a.dies ∧ c.dies = a.dies ∧ c.keep = s.keep ∧ c.boot = s.boot ∧ salt.length = 48 ∧ rnd.length = 24 ∧ o'.id = o.id ∧
          let head := reportHead c (fld desc 511 256)
          devWrite b (linkDie b) 12 o.id (fld desc 255 192) (head ++ reportSigs (s.boot.seed.getD 0) head salt rnd) = .ok t ∧
          exec (.fwAttest q desc ext) s = .next (finishWrites t o' .ok 1)) ∧
    (∀ t p o' st pos, findOp t o'.id = some p →
      (p.writes = 0 → p.wstatus = .ok → finishWrites t o' st pos = complete t o' st pos) ∧
      (p.writes ≠ 0 → finishWrites t o' st pos = updOp t o'.id (fun p => { p with fin := some (st, pos) }))) ∧
    (op = 4 → fwFields desc = true →
      let cert := nth s.keep.certs slot []
      (fld desc 191 160 < cert.length → ∃ b o', b.dies = a.dies ∧ o'.id = o.id ∧
        exec (.fwReadCert q desc ext) s = .next (complete b o' (.fw 9) 0)) ∧
      (cert.length ≤ fld desc 191 160 → ∀ l, segs a .wr (fld desc 255 192) cert.length = .ok l → segsErr a (linkDie a) none l = none →
        ∃ b t o', b.dies = a.dies ∧ o'.id = o.id ∧ devWrite b (linkDie b) 12 o.id (fld desc 255 192) cert = .ok t ∧
          exec (.fwReadCert q desc ext) s = .next (finishWrites t o' .ok 1)))

/-- R299, R337, R363, R372, R373: PORT_ADMIT of a port in LINK_UP activates it with OK where its reserves can be held and else completes with NO_BUF,
counted; of an ACTIVE port it is OK and has no effect; in any other state, and of a port whose die the link cannot reach (log entry 16), it completes
with NOT_READY. PORT_WITHDRAW returns an ACTIVE port to LINK_UP with OK, and of another port completes with a status that the spec leaves open (log
entry 16). A module access whose fields are in range is accepted and waits for its cage; a descriptor that has waited 1 ms is reported once. -/
def Obligations.PortModuleAndWaitDescriptorsTakeEffect : Prop :=
  ∀ (s : State) (q : Nat) (desc : Word512) (ext : List Host.Cell),
    let a := accepted s q desc ext
    let o := newOp s q desc ext
    let b := updOp a o.id (fun o => { o with begun := true })
    (Accepts s q desc ext → fld desc 7 0 = 0x0A → fld desc 143 136 = 0 → fld desc 159 144 < 1024 → fld desc 511 160 = 0 →
      let d := fld desc 159 144 / 96
      let l := fld desc 159 144 % 96
      let x := getDie s d
      let st := (getPort s d l).st
      let room : Bool := (upto 3).all (fun k => decide (poolReserve s.variant d x k (some l) ≤ poolFree x k))
      (fld desc 135 128 = 0 →
        (linkReaches a d = true → st = 6 → exec (.portAdmit q desc ext) s = .next (complete b o .ok 0)) ∧
        (linkReaches a d = false ∨ (st ≠ 5 ∧ st ≠ 6) → exec (.portAdmit q desc ext) s = .next (complete b o .notReady 0)) ∧
        (linkReaches a d = true → st = 5 → room = false → exec (.portAdmit q desc ext) s = .next (complete (bump b d nNOADM) o .noBuf 0)) ∧
        (linkReaches a d = true → st = 5 → room = true → ∃ u, exec (.portAdmit q desc ext) s = .next (complete (pumpAll (retryAll u)) o .ok 0) ∧
          (getPort u d l).st = 6 ∧ (getPort u d l).adv = true ∧ (getPort u d l).reserved = true)) ∧
      (fld desc 135 128 = 1 →
        (st = 6 → d < ndies s.variant → ∃ u, exec (.portWithdraw q desc ext) s = .next (complete u o .ok 0) ∧ (getPort u d l).st = 5 ∧
          (getPort u d l).adv = false ∧ (getPort u d l).reserved = false) ∧
        (st ≠ 6 → exec (.portWithdraw q desc ext) s = .next (complete b o (.raw (Config.openStatus 0x0A st)) 0)))) ∧
    (Accepts s q desc ext → fld desc 7 0 = 0x0B → fld desc 191 184 = 0 → fld desc 511 256 = 0 → fld desc 143 136 < ndies s.variant →
      fld desc 151 144 < 12 → 1 ≤ fld desc 183 176 → fld desc 183 176 ≤ 128 → fld desc 175 168 + fld desc 183 176 ≤ 256 →
      linkReaches a (fld desc 143 136) = true →
      (fld desc 135 128 = 0 → exec (.moduleRead q desc ext) s = .next a) ∧
      (fld desc 135 128 = 1 → (127 < fld desc 175 168 ∨ fld desc 175 168 + fld desc 183 176 ≤ 126) → exec (.moduleWrite q desc ext) s = .next a)) ∧
    (s.phase = .up → (getSq s q).state = 1 → (getSq s q).head ≠ (getSq s q).tail → (getSq s q).waitPosted = false →
      ∀ e, waits s q desc ext = some e → exec (.descriptorWaitTimeout q desc ext) s =
        .next (postEvent (setSq s q { getSq s q with waitPosted := true, err := if e = 4 then 4 else (getSq s q).err }) 0x0D 0xFF q e 0 0))

/-- R250, R344, R369, R372, R373: the oldest access to a cage that has its module: a read that the module acknowledges leaves a CMIS access, writes the module's
bytes at the descriptor's address and completes with OK once those outside the package are acknowledged; a write carries the bytes read there; no module completes with NO_MODULE, no
acknowledgement, or a branch that is isolated, with MOD_NOACK. The access has then begun. -/
def Obligations.ModuleAccessesReachTheModule : Prop :=
  ∀ (s : State) (d octet : Nat) (o : Op) (ack : Bool) (bytes : List Byte) (ext : List Host.Cell),
    let f := dsc o.desc
    let k := cageOf (getDie s d) octet
    let b := updOp s o.id (fun o => { o with begun := true })
    let i : Instr := .moduleAccessStart d octet ack bytes ext
    s.phase = .up → linkReaches s d = true →
    s.ops.find? (fun o => o.type == 0x0B && dsc o.desc 17 1 == d && dsc o.desc 18 1 == octet && !s.recs.any (fun r => r.op == some o.id) &&
      o.fin.isNone) = some o →
    (k.prs = false → exec i s = .next (complete b o .noModule 0)) ∧
    (k.prs = true → f 16 1 = 0 → ack = false ∨ isolated k = true → exec i s = .next (complete b o .modNoack 0)) ∧
    (k.prs = true → f 16 1 = 0 → ack = true → isolated k = false → f 22 1 ≤ bytes.length →
      ∀ l, segs s .wr (f 24 8) (f 22 1) = .ok l → segsErr s (linkDie s) none l = none →
        ∃ c t, c.dies = s.dies ∧ c.out = s.out ++ [.cmis d octet (f 19 1) (f 20 1) (f 21 1) false []] ∧
          devWrite c (linkDie c) 12 o.id (f 24 8) (bytes.take (f 22 1)) = .ok t ∧ exec i s = .next (finishWrites t o .ok 0)) ∧
    (k.prs = true → f 16 1 ≠ 0 → ∀ bs t, devRead b (linkDie b) (f 24 8) (f 22 1) ext = .ok (bs, t) →
      exec i s = .next (if ack = true ∧ isolated k = false then complete (emit t (.cmis d octet (f 19 1) (f 20 1) (f 21 1) true bs)) o .ok 0
        else complete t o .modNoack 0))

/-- R108, R369: an abort with a field that must be zero and is not completes with BAD_FORMAT; one of a descriptor not yet accepted, whose TYPE ext tells
(log entries 4 and 13), marks it; one of a descriptor that has nothing left to stop completes with ALREADY_COMPLETE; the record of a context that
waits for its ring becomes ABORTED, and the abort completes with OK after it; an accepted job leaves the jobs of a core that runs none. -/
def Obligations.AbortsStopWhatHasNotCommitted : Prop :=
  ∀ (s : State) (q : Nat) (desc : Word512) (ext : List Host.Cell), Accepts s q desc ext → fld desc 7 0 = 0x0C →
    let a := accepted s q desc ext
    let o := newOp s q desc ext
    let tq := fld desc 135 128
    let ti := fld desc 191 160
    let r := getSq a tq
    let ahead := (ti + 2 ^ 32 - r.head) % 2 ^ 32 < (r.tail + 2 ^ 32 - r.head) % 2 ^ 32
    let past := ¬ahead ∧ (r.head + 2 ^ 32 - 1 - ti) % 2 ^ 32 < 2 ^ 31 ∧ ti ∉ r.quiet
    (fld desc 159 136 ≠ 0 ∨ fld desc 511 192 ≠ 0 → exec (.abort q desc ext) s = .next (complete a o .badFormat 0)) ∧
    (fld desc 159 136 = 0 → fld desc 511 192 = 0 →
      (ahead → ∀ b, (r.base + 64 * (ti % 2 ^ r.log2), b) ∈ ext → (∀ c ∈ ext, c.1 = r.base + 64 * (ti % 2 ^ r.log2) → c.2 = b) →
        b ≠ 0 → b ≠ 0x0C →
        ∃ t, exec (.abort q desc ext) s = .next t ∧ (getSq t tq).aborts = sadd r.aborts ti) ∧
      (past → (∀ c ∈ a.ctxs, c.sq ≠ tq ∨ c.idx ≠ ti) → (∀ e ∈ a.ops, e.sq ≠ tq ∨ e.idx ≠ ti) →
        ((∀ x ∈ s.recs, x.sq ≠ tq ∨ x.idx ≠ ti ∨ x.source ≠ 1) →
          ∃ b, b.dies = a.dies ∧ b.ops = a.ops ∧ exec (.abort q desc ext) s = .next (complete b o .alreadyComplete 0)) ∧
        ((∃ x ∈ s.recs, x.sq = tq ∧ x.idx = ti ∧ x.source = 1) →
          ∃ b, b.dies = a.dies ∧ b.ops = a.ops ∧ b.recs = s.recs ∧ (∀ x ∈ (abortRecs b tq ti).recs, x.sq = tq → x.idx = ti → x.source = 1 → x.status = .aborted) ∧
            exec (.abort q desc ext) s = .next (postRec (abortRecs b tq ti) { opRec o .ok 0 0 0 0 with after := some (tq, ti) }))) ∧
      (past → (∀ c ∈ a.ctxs, c.sq ≠ tq ∨ c.idx ≠ ti) →
        ∀ e, a.ops.find? (fun t => t.sq == tq && t.idx == ti) = some e → (∀ x ∈ s.recs, x.op ≠ some e.id) → e.hoopWait = false → e.type = 1 →
        (getCore s (jobDie e.desc) (jobCore e.desc)).run = none →
        ∃ t, exec (.abort q desc ext) s = .next t ∧ (getCore t (jobDie e.desc) (jobCore e.desc)).jobs =
          (getCore s (jobDie e.desc) (jobCore e.desc)).jobs.filter (fun j => j.op ≠ some e.id)))

/-! Engines and DMA -/

/-- R8, R140, R152, R164 to R168, R284: the oldest posted request of an engine is accepted where its executing die has room and waits where it has
none; for another die it is on the way, as a packet queued for a bridge with space kept for its response where buffers can be had; an open
makes an empty set, an add merges a new rank once, a close writes what there is with INCOMPLETE; an add or a close ends with what refuses the set
area that it names. That the area is checked before the set is looked for is log entry 51's choice, how a request crosses the bridges log entry 70's,
and that an operand is read and an output written by the engine's command log entry 34's. -/
def Obligations.EngineRequestsWaitForRoomAndSetsMergeRanks : Prop :=
  (∀ (s : State) (d e c t : Nat) (q : EngReq) (l m : List EngReq),
    dieUp s d = true → s.engWait = l ++ q :: m → q.unit = e → q.src = .core d c → (∀ p ∈ l, p.unit = e → ∀ b, p.src ≠ .core d b) →
    engDest s (toLe 64 q.req.toNat) = .die t → crosses s d t = true → (getDie s t).flt = 0 →
    (mayAccept s t q.req = false → exec (.engineRequestAccept d e) s = .next s) ∧
    (mayAccept s t q.req = true → ∃ u q', exec (.engineRequestAccept d e) s = .next u ∧ u.engWait = l ++ m ∧
      (getDie u t).engs = (getDie s t).engs ++ [q'] ∧ q'.req = q.req ∧ q'.src = q.src ∧ (t ≠ d → q'.way = some d) ∧ (t = d → q'.way = q.way) ∧
      (rq q.req 0 1 < 4 → ∀ n, pickUnit (getDie s t) (rq q.req 0 1) = some n → q'.unit = n ∧ q'.done = (reqErr s t q).map doneWith) ∧
      (t ≠ d → stopped s = false → ∀ b s2, respRoom s d (reqUser s t q) = some (b, s2) → (inject s2 d (reqPacket q) (reqUser s t q) 1).isSome = true →
        q'.room = some (d, b) ∧ ∃ o n f, 96 ≤ o ∧ f ∈ (outOf (getDie u d) o).q ∧ f.pkt = reqPacket q ∧ f.od = t ∧ f.op = 100 ∧ f.eng = some (d, q'.id, n)))) ∧
  (∀ (s : State) (d : Nat) (ext : List Host.Cell) (q : EngReq), engHead s d 1 = some q →
    let r := q.req
    let ends (i : Instr) (st : Status) : Prop := ∃ t q', exec i s = .next t ∧ getReq t d q.id = some q' ∧ q'.done = some (doneWith st)
    let set := (setKey s (rq r 16 8)).bind (fun k => (tfind (getDie s d).topk k).map (fun t => (k, t)))
    let area := reqSegs s d q true (rq r 16 8) (576 + 16 * (match set with | some (_, x) => x.k | none => 0))
    (rq r 1 1 = 0 → ∀ key l1 l2, setKey s (rq r 16 8) = some key → reqSegs s d q true (rq r 16 8) (576 + 16 * rq r 32 2) = .ok l1 →
      reqSegs s d q true (rq r 24 8) (8 * rq r 32 2) = .ok l2 →
      ((tfind (getDie s d).topk key).isSome = true → ends (.topkOpen d) .setBusy) ∧
      (tfind (getDie s d).topk key = none → ∃ t, exec (.topkOpen d) s = .next t ∧ getReq t d q.id = none ∧
        tfind (getDie t d).topk key = some { req := r, k := rq r 32 2, l := rq r 34 2, smallest := rq r 36 1 == 1, dst := rq r 24 8, ranks := [], recs := [], nan := false, src := q.src, room := q.room })) ∧
    (∀ e, area = .error e → (rq r 1 1 = 1 → ends (.topkAdd d ext) e) ∧ (rq r 1 1 = 2 → ends (.topkClose d) e)) ∧
    (rq r 1 1 = 1 → ∀ sl, area = .ok sl → (set = none → ends (.topkAdd d ext) .noSet) ∧
      ∀ key x, set = some (key, x) →
        (rq r 32 2 ∈ x.ranks → ends (.topkAdd d ext) .duplicate) ∧
        (rq r 32 2 ∉ x.ranks → ∀ bs, engGet s d q ext (rq r 24 8) (8 * rq r 56 4) = .ok bs →
          let new := (upto (rq r 56 4)).map (fun i => (bytesNat bs (8 * i) 4, rq r 32 2, bytesNat bs (8 * i + 4) 4))
          let y := topkMerge x.smallest x.k x.recs new
          let z : TopkSet := { x with recs := y.1, nan := x.nan || y.2, ranks := sadd x.ranks (rq r 32 2), merged := x.merged + rq r 56 4 }
          let s1 := touchAll s (engPlaces s [(rq r 24 8, 8 * rq r 56 4)])
          (commitRoom s q = false → exec (.topkAdd d ext) s = .next s) ∧
          (commitRoom s q = true → exec (.topkAdd d ext) s = .next (commitReq
            (if x.l ≤ z.ranks.length then topkFinish s1 d key z .ok else updDie s1 d (fun v => { v with topk := tset v.topk key z })) d q
            { status := .ok, conds := 0, count := rq r 56 4 })))) ∧
    (rq r 1 1 = 2 → ∀ sl, area = .ok sl → (set = none → ends (.topkClose d) .noSet) ∧
      ∀ key x, set = some (key, x) → commitRoom s q = true →
        exec (.topkClose d) s = .next (commitReq (topkFinish s d key x .incomplete) d q { status := .ok, conds := 0, count := 0 })))

/-- R151, R159 to R163, R169 to R173: a pooling request whose offsets fall is BAD_REQ, a good one writes its bags; a codec writes the converted
elements, the digest engine the digest or the sum of 128-bit words; a request that is done and has room leaves its unit with its actions. That a
request does its work at one command is log entry 34's choice, the rounding of a pooling's grid log entry 74's, and the free bytes of an output over
an input log entry 15's. -/
def Obligations.EnginesWriteTheirOutputsAndCommit : Prop :=
  ∀ (s : State) (d : Nat) (ext : List Host.Cell) (q : EngReq),
    let r := q.req
    (engHead s d 0 = some q → ∀ bs,
      engGet s d q ext ((rq r 24 8 : Int) + signed 32 (rq r 40 4)).toNat (4 * (rq r 56 4 + 1)) = .ok bs →
      let offs := (upto (rq r 56 4 + 1)).map (fun i => bytesNat bs (4 * i) 4)
      let s0 := touchAll s (engPlaces s [(((rq r 24 8 : Int) + signed 32 (rq r 40 4)).toNat, 4 * (rq r 56 4 + 1))])
      (rising offs = false → exec (.pool d ext) s = .next (setDone s d q.id (doneWith .badReq))) ∧
      (rising offs = true → exec (.pool d ext) s = .next (match poolBags s d q ext (engPlaces s (poolReads s d q ext)) offs (rq r 56 4) 0 s0 0 with
        | .ok (s1, w) => setDone s1 d q.id w
        | .error l => engFetch s d q l)) ∧
      (rising offs = true → (∀ b, b < rq r 56 4 → ∃ outs kb ins, poolBag s d q ext offs b = .ok (outs, kb, ins) ∧
          ∀ o ∈ outs, ∃ l, reqSegs s d q true o.1 o.2.length = .ok l ∧ segsHere l = true) →
        ∃ s1 k, exec (.pool d ext) s = .next (setDone s1 d q.id { status := .ok, conds := k, count := rq r 56 4 })) ∧
      (rq r 56 4 = 0 → exec (.pool d ext) s = .next (setDone s0 d q.id (doneWith .ok)))) ∧
    (∀ u, engHead s d u = some q → rq r 0 1 = 2 → ∀ sf df bs sc, vecFmt (fld r 324 320) (bit r 325) = some sf → vecFmt (fld r 332 328) (bit r 333) = some df →
      let n := rq r 56 4
      let sca := ((rq r 16 8 : Int) + signed 32 (rq r 32 4)).toNat
      engGet s d q ext (rq r 16 8) (packBytes sf n) = .ok bs → engGet s d q ext sca (scaleBytes (bit r 325) n) = .ok sc →
      let o := encodeVector df (bit r 333) (fld r 337 336) (bit r 338) (bit r 339) (fun e => srGen (engSeed (getDie s d)) (e % 2 ^ 32) (rq r 44 4))
        (decodeVector sf (bit r 325) bs sc n)
      let ps := engPlaces s [(rq r 16 8, packBytes sf n), (sca, scaleBytes (bit r 325) n)]
      let outs := (rq r 24 8, o.bytes) :: (if bit r 333 then [(((rq r 24 8 : Int) + signed 32 (rq r 36 4)).toNat, o.scales)] else [])
      (∀ s1, engPuts (touchAll s ps) d q ps outs = .ok s1 →
        exec (.convert d u ext) s = .next (updReq s1 d q.id (fun p => { p with
          done := some { status := .ok, conds := o.conds, count := n }
          digest := if bit r 340 then some (digestOf (rq r 43 1) (rq r 52 4) (digestUnits df o.bytes n)) else none }))) ∧
      ((∀ b ∈ outs, ∃ l, reqSegs s d q true b.1 b.2.length = .ok l ∧ segsHere l = true) → ∃ s1, engPuts (touchAll s ps) d q ps outs = .ok s1)) ∧
    (engHead s d 4 = some q →
      (rq r 1 1 = 0 → ∀ bs, engGet s d q ext (rq r 16 8) (packBytes (hashFmt r) (rq r 56 4)) = .ok bs →
        let ps := engPlaces s [(rq r 16 8, packBytes (hashFmt r) (rq r 56 4))]
        let us := digestUnits (hashFmt r) bs (rq r 56 4)
        ∀ l, reqSegs s d q true (rq r 24 8) 16 = .ok l →
          ∃ s1, engPut (touchAll s ps) d q ps (rq r 24 8) (toLe 16 (digestOf (rq r 36 4) (rq r 40 4) us).toNat) = .ok s1 ∧
          exec (.hash d ext) s = .next (setDone s1 d q.id { status := .ok, conds := 0, count := us.length % 2 ^ 32 })) ∧
      (rq r 1 1 = 1 → ∀ bs, engGet s d q ext (rq r 16 8) (16 * rq r 56 4) = .ok bs →
        let ps := engPlaces s [(rq r 16 8, 16 * rq r 56 4)]
        let sum := (upto (rq r 56 4)).foldl (fun (a : Word128) i => a + BitVec.ofNat 128 (bytesNat bs (16 * i) 16)) 0
        ∀ l, reqSegs s d q true (rq r 24 8) 16 = .ok l →
          ∃ s1, engPut (touchAll s ps) d q ps (rq r 24 8) (toLe 16 sum.toNat) = .ok s1 ∧
          exec (.sum d ext) s = .next (setDone s1 d q.id { status := .ok, conds := 0, count := rq r 56 4 % 2 ^ 32 }))) ∧
    (∀ u w l m, dieUp s d = true → (getDie s d).engs = l ++ q :: m → q.unit = u → q.done = some w → q.writes = 0 → commitRoom s q = true →
      (∀ p ∈ l, p.unit ≠ u ∨ p.way ≠ none ∨ p.done = none ∨ p.writes ≠ 0 ∨ commitRoom s p = false) →
      q.way = none → exec (.engineRequestCommit d u) s = .next (commitReq s d q w) ∧
      ((∀ i, i < 5 → rqCmpl r i = false) → q.digest = none → (∃ a b, q.src = .core a b) → w.status ≠ .memUe → w.status = .ok → q.wstatus = .ok →
        commitReq s d q w = updDie (freeRoom s q) d (fun x => { x with engs := x.engs.filter (fun p => p.id != q.id) })))

/-- R16, R151, R174, R176, R298: a chained job's record that waits for a ring out of service is reported once; a handle cache below 64 handles fetches 128
from its pool's ring; a DMA inside ground memory between dies that its die reaches moves its bytes, and is over; one
whose source has become unreachable moves none and ends with DIE_UNREACHABLE. That it moves them at this command is log entry 34's choice. -/
def Obligations.ChainedWaitsCachesAndDmaProceed : Prop :=
  (∀ (s : State) (d : Nat) (r : Rec) (l m : List Rec), s.phase = .up → s.recs = l ++ r :: m → r.source = 3 → r.told = false →
    (getCq s r.cq).state = 0 ∨ (getCq s r.cq).state = 3 → (∀ x ∈ l, x.source ≠ 3) →
    exec (.chainedJobWaitTimeout d) s = .next (postEvent { s with recs := s.recs.map (fun x => if x == r then { x with told := true } else x) }
      0x0D 0xFF (r.cq + 256) 4 0 0)) ∧
  (∀ (s : State) (d p g : Nat), dieUp s d = true → p < 3 → g < 14 → (cacheOf (getDie s d) p g).length < 64 → (getDie s d).pbOut = [] →
    let r := poolOf (getDie s d) p
    r.fresh + 128 ≤ poolSize p →
    ∃ t, exec (.handleCacheFetch d p g) s = .next t ∧
      cacheOf (getDie t d) p g = cacheOf (getDie s d) p g ++ (List.range 128).map (fun i => handleOf p (r.fresh + i)) ∧
      poolOf (getDie t d) p = { r with fresh := r.fresh + 128 }) ∧
  (∀ (s : State) (d i : Nat) (ext : List Host.Cell) (q : DmaReq), dieUp s d = true → getDma s d i = some q →
    (getDie s d).moverFenced.length < 4 → q.aborted = false → q.busy = [] → q.status = .ok →
    (q.len ≤ q.next → exec (.dmaRequestComplete d i ext) s = .next (dmaDone s d q)) ∧
    (∀ d1 o1 d2 o2 n c tag, q.src = [{ off := 0, len := n, place := .ground d1 o1 }] → q.dst = [{ off := 0, len := n, place := .ground d2 o2 }] →
      q.len = n → q.next = 0 → 0 < n → n ≤ 4096 → q.owner = .core c tag → (∀ t ∈ (getDie s d).txq, t.owner = .none) →
      gndPoisoned (getDie s d1).gnd o1 n = false → d1 ≠ d2 ∨ o1 + n ≤ o2 ∨ o2 + n ≤ o1 →
      pathTo s d (.ground d1 o1) = true → pathTo s d (.ground d2 o2) = true →
      ∃ t, exec (.dmaRequestComplete d i ext) s = .next t ∧ getDma t d i = none ∧
        ∀ e a, memGet (getDie t e).gnd.cells a =
          if e = d2 ∧ o2 ≤ a ∧ a < o2 + n then memGet (getDie s d1).gnd.cells (o1 + (a - o2)) else memGet (getDie s e).gnd.cells a) ∧
    (∀ d1 o1 d2 o2 n c tag r, q.src = [{ off := 0, len := n, place := .ground d1 o1 }] → q.dst = [{ off := 0, len := n, place := .ground d2 o2 }] →
      q.len = n → q.next = 0 → 0 < n → n ≤ 4096 → q.owner = .core c tag → (∀ t ∈ (getDie s d).txq, t.owner = .none) →
      pathTo s d (.ground d1 o1) = false → (getCore s d c).run = some r → r.ended = none →
      ∃ t, exec (.dmaRequestComplete d i ext) s = .next t ∧ getDma t d i = none ∧ SameMemory s t ∧
        ∃ r', (getCore t d c).run = some r' ∧ r'.ended = some .dieUnreachable))

/-! The fabric's ports and bridges -/

/-- R238, R248, R267, R293, R294, R297: a header takes a buffer from the smallest pool that holds its packet, and the time and the counter of its
arrival are kept with it; a header that comes while a packet has no trailer loses that packet; a LEN above 4,096 takes no buffer; a packet whose
codewords or CRC fail is discarded with a link fault, a good one goes on as its port's role says; one that has made 63 hops ends its life at a trunk port. -/
def Obligations.PacketsArriveAtPorts : Prop :=
  ∀ (s : State) (d l : Nat), dieRuns s d = true →
    let x := getDie s d
    (∀ hdr, portSends (portOf x l) = true → (portOf x l).major ≠ 1 → tfind x.rxPend l = none → hLEN hdr ≤ 4096 →
      let n := 36 + bodyLen (hLEN hdr)
      let ent : BufEnt := { refs := 1, grp := groupOf l, units := poolUnits (poolFor n), credit := some (l, arrivalBuf x l hdr), req := none }
      ∀ h y, allocBuf x (poolFor n) (groupOf l) ent = some (h, y) →
        ∃ t, exec (.packetHeaderArrival d l hdr) s = .next t ∧ tfind (getDie t d).rxPend l = some (hdr, some h, s.now, time16 s d) ∧
          tfind (getDie t d).bufs h = some ent ∧ (getPort t d l).held = (portOf y l).held + poolUnits (poolFor n)) ∧
    (∀ hdr, portSends (portOf x l) = true → (portOf x l).major ≠ 1 → tfind x.rxPend l = none → 4096 < hLEN hdr →
      exec (.packetHeaderArrival d l hdr) s =
        .next (portEvent (bump (setDie s d { x with rxPend := tdel x.rxPend l }) d nKIND) d l 0x05 1 (some (hCLASS hdr)))) ∧
    (∀ hdr q, portSends (portOf x l) = true → tfind x.rxPend l = some q → dieRuns (lostArriving s d l) d = true →
      portSends (getPort (lostArriving s d l) d l) = true → (getPort (lostArriving s d l) d l).major = (portOf x l).major →
      tfind (getDie (lostArriving s d l) d).rxPend l = none → (lostArriving s d l).now = s.now → time16 (lostArriving s d l) d = time16 s d →
      exec (.packetHeaderArrival d l hdr) s = exec (.packetHeaderArrival d l hdr) (lostArriving s d l)) ∧
    (∀ hdr rest ok buf t, tfind x.rxPend l = some (hdr, buf, t) → (portOf x l).major ≠ 1 →
      let s0 := setDie s d { x with rxPend := tdel x.rxPend l }
      let p : Packet := { hdr := hdr, body := rest.take (rest.length - 4), trailer := BitVec.ofNat 32 (leNat (rest.drop (rest.length - 4))) }
      let e := arrivedHeld d l p buf t
      (ok = false ∨ rest.length < 4 ∨ buf = none ∨ checkOk p = false →
        exec (.packetReceived d l rest ok) s = .next (portDiscard (reportFault s0 1 12 0 d 0x10 1) d l e (some nCRC))) ∧
      (ok = true → 4 ≤ rest.length → buf.isSome = true → checkOk p = true → badKind hdr (isTrunk x l) = false →
        let s1 := portRx s0 d l (pktLen p) (hCLASS hdr)
        exec (.packetReceived d l rest ok) s = .next (if isTrunk x l = true then trunkEntry s1 d l e else endpointEntry s1 d l e))) ∧
    (∀ e : Held, hHOPS e.pkt.hdr = 63 → (∀ k ∈ [kSYNC_TIME, kDELAY_REQ, kDELAY_RSP], hKIND e.pkt.hdr ≠ k) → trunkEntry s d l e = discard s d e nLIFE)

/-- R8, R13, R15, R259, R273, R279, R280, R294, R302, R306, R431: the packet that an output's scheduler chooses leaves a trunk port with its hop counted and its
buffer said, and charges the credit it uses; at a TFP 1 port it goes to the port; over a bridge it takes a buffer of the far die, which consumes
it (an engine request has arrived), queues it or sends it on, or copies it to the outputs beyond, more than one of them only outside selvage mode,
where an adaptive packet is decided anew by dimension order. That equal joining times go by sub-list is log entry 59's choice, how a bridge is crossed
that of entry 57, and that a packet with no way left is lost that of entry 70. -/
def Obligations.ChosenPacketsLeaveOutputs : Prop :=
  ∀ (s : State) (d : Nat) (e : Held) (u : OutQ), dieRuns s d = true →
    let x := getDie s d
    let sent (l : Nat) (t : State) : Prop := exec (.packetTransmit d l) s = .next (drainTick (tellDrained s t d l))
    (∀ l b shr, l < 96 → portSends (portOf x l) = true →
      schedule (outOf x l) (eligible s d l) (swWeight x l) (regFld x (rSW_PORT l 4) 7 0) = some (e, u) → portCredit x l e = some (b, shr) →
      let h := setH (setH e.pkt.hdr 40 40 (b2n shr)) 39 34 (hHOPS e.pkt.hdr + 1)
      ∃ s1, outOf (getDie s1 d) l = { u with q := u.q.erase e } ∧ s1.out = s.out ∧
        tget (getPort s1 d l).txS b 0 = tget (portOf x l).txS b 0 + chargeOf (pktLen e.pkt) ∧
        (isTrunk x l = true → linkKind (hKIND e.pkt.hdr) = false →
          sent l (dropHeld (portTx (emit s1 (.packet d l { e.pkt with hdr := h })) d l (pktLen e.pkt) h) d e)) ∧
        (isTrunk x l = true → linkKind (hKIND e.pkt.hdr) = true →
          let p := stampLink e.pkt (time16 s d)
          sent l (dropHeld (portTx (emit s1 (.packet d l p)) d l (pktLen e.pkt) p.hdr) d e)) ∧
        (isTrunk x l = false → (portOf x l).major ≠ 1 →
          sent l (dropHeld (portTx (emit s1 (.packet d l { e.pkt with hdr := setRoute e.pkt.hdr 0 })) d l (pktLen e.pkt) (setRoute e.pkt.hdr 0)) d e)) ∧
        (isTrunk x l = false → (portOf x l).major = 1 → sent l (t1Send s1 d l e))) ∧
    (∀ b t, (bridgeOf x b).failed = false → bridgeTo s.variant d b = some t → dieLives s t = true →
      let y := getDie s t
      let cr (e : Held) : Option Nat :=
        bridgeCredit y b (min e.hop 1) (vcOf (hCLASS e.pkt.hdr) (hESC e.pkt.hdr)) (hDL e.pkt.hdr) (chargeOf (pktLen e.pkt))
      let n := poolUnits (poolFor (pktLen e.pkt))
      ∀ key h y1, schedule (outOf x (96 + b)) (fun e => (cr e).isSome) (fun _ => 17) 0 = some (e, u) → cr e = some key →
        allocBuf y (poolFor (pktLen e.pkt)) 12 { refs := 1, grp := 12, units := n, credit := some (96 + b, key), req := none } = some (h, y1) →
        let hops (t : State) : Prop := exec (.bridgeHop d b) s = .next (drainTick t)
        ∃ s1, let e1 : Held := { e with buf := some h, ein := s.now, inp := 96 + b, hop := e.hop + 1, fg := none }
          let s2 := dropHeld s1 d e
          outOf (getDie s1 d) (96 + b) = { u with q := u.q.erase e } ∧ tget (bridgeOf (getDie s1 t) b).use key 0 = tget (bridgeOf y1 b).use key 0 + n ∧
          (e.more ≠ [] → hops (dropHeld (if y.flt = 0 ∨ e.more.length < 2 then copies s2 t e1 h e.more else s2) t e1)) ∧
          (e.more = [] →
            (e.od = t → e.op = 100 → e.eng = none → hops (consumeAt s2 t e1)) ∧
            (e.od = t → e.op = 100 → ∀ src id n, e.eng = some (src, id, n) →
              hops (dropHeld (updReq s2 t id (fun q => { q with way := none })) t e1)) ∧
            (e.od = t → e.op ≠ 100 → hops (if portSends (getPort s2 t e.op) = true then joinQueue s2 t e.op e1 else discard s2 t e1 nDOWN)) ∧
            (e.od ≠ t → reaches s2 t e.od = false → hops (loseHeld s2 t e1)) ∧
            (e.od ≠ t → reaches s2 t e.od = true →
              (y.flt = 1 → hESC e.pkt.hdr = false → e.op < 96 → isTrunk (getDie s2 e.od) e.op = true →
                hops (decide' s2 t { e1 with pkt := { e.pkt with hdr := setH (setH e.pkt.hdr 28 28 1) 29 29 (b2n e.dl) } } false e.came)) ∧
              (y.flt ≠ 1 ∨ hESC e.pkt.hdr = true ∨ 96 ≤ e.op ∨ isTrunk (getDie s2 e.od) e.op = false →
                hops (toward s2 t { e1 with pkt := { e.pkt with hdr := selvageEsc y e.pkt.hdr } })))))

/-- R274, R275, R277, R296, R313: a packet that has reached its residence limit is discarded and counted, and none sooner; one without a candidate for
ESC_WAIT moves to the escape channel where that has credit; a warm group ends after 4,096 decisions and 100 µs; a sample updates each trunk port's history, which is 0 at
package reset. That ESC_WAIT has passed as ESC_WAIT_EXPIRY comes, and that a sample is taken as DEPTH_SAMPLE comes, are log entries 3 and 20 (the model's choice). -/
def Obligations.WaitingPacketsGroupsAndSamples : Prop :=
  (∀ (s : State) (d o i : Nat) (e : Held), dieRuns s d = true →
    let x := getDie s d
    let gone (o : Nat) (t : State) : Prop := exec (.residenceExpiry d o i) s = .next (drainTick (tellDrained s (discard t d e nLIFE) d o))
    (resideOver s d e = true →
      ((outOf x o).q[i]? = some e → o < 100 → gone o (setDie s d { x with outs := tset x.outs o { outOf x o with q := (outOf x o).q.eraseIdx i } })) ∧
      (x.adapt[i]? = some e → gone 100 (setDie s d { x with adapt := x.adapt.eraseIdx i })) ∧
      (x.held[i]? = some e → gone 101 (setDie s d { x with held := x.held.eraseIdx i }))) ∧
    (resideOver s d e = false → (outOf x o).q[i]? = some e → o < 100 → exec (.residenceExpiry d o i) s = .next (drainTick s)) ∧
    (x.adapt[i]? = some e → candidates s e.pkt.hdr (chargeOf (pktLen e.pkt)) = [] → ∀ p g v, routeEscape s e.pkt.hdr = .port p g →
      dirOfPort s p = some v →
      (trunkCredit (getPort s (p / 96) (p % 96)) (vcOf (hCLASS e.pkt.hdr) true) (nextDL s e.pkt.hdr (cameFrom s d e) v) (chargeOf (pktLen e.pkt))).isSome = true →
      exec (.escWaitExpiry d i) s = .next (decide' (setDie s d { x with adapt := x.adapt.eraseIdx i }) d
        { e with pkt := { e.pkt with hdr := setH e.pkt.hdr 28 28 1 } } false (cameFrom s d e)))) ∧
  (∀ (s : State) (g : Nat), (warmOf s g).warming = true → 4096 ≤ (warmOf s g).dec →
    (∃ t0, (warmOf s g).since = some t0 ∧ t0 + 100000 ≤ s.now) →
    ∃ t, exec (.warmGroupEnd g) s = .next t ∧ warmOf t g = { warmOf s g with warming := false } ∧ t.dies = s.dies) ∧
  (∀ (s : State) (d : Nat), dieRuns s d = true →
    ∃ t, exec (.depthSample d) s = .next t ∧ (bit (regWord (getDie s d) rSW_SAMPLE) 8 = false → (getDie t d).gnd = (getDie s d).gnd) ∧
      ∀ l, l < 96 → (portWidth (getDie s d) l).isSome = true → isTrunk (getDie s d) l = true →
        let es := (outOf (getDie s d) l).q.filter (fun e => vcAdaptive (vcOf (hCLASS e.pkt.hdr) (hESC e.pkt.hdr)))
        let h := (getPort s d l).hist
        (getPort t d l).hist = min 65535 (h - h / 8 + (es.map (fun e => pktLen e.pkt)).foldl (· + ·) 0 / 256 / 8)) ∧
  ∀ d l, (getPort State.reset d l).hist = 0

/-! The transport -/

/-- R234, R252, R255, R258, R517: a die serves its oldest waiting packet of a kind: a WRITE stores its bytes at ADDR, a READ is answered with the bytes it
names or the code of what refuses it, an ATOMIC with the old value (one for the companion's memory leaves for it), an ENGINE record is submitted, or
waits while its engine has no room; a void WRITE stores nothing. -/
def Obligations.RequestPacketsTakeEffectAtTheirDie : Prop :=
  (∀ (s : State) (d kind : Nat) (e : Held) (l m : List Held), dieRuns s d = true → (getDie s d).inbox = l ++ e :: m → hKIND e.pkt.hdr = kind →
    (∀ p ∈ l, hKIND p.pkt.hdr ≠ kind) →
    (hORD e.pkt.hdr = true → ∀ p ∈ l, hORD p.pkt.hdr = false ∨ hSRC p.pkt.hdr ≠ hSRC e.pkt.hdr ∨ hCHAN p.pkt.hdr ≠ hCHAN e.pkt.hdr) →
    takeKind s d kind = some (e, setDie s d { getDie s d with inbox := l ++ m })) ∧
  ∀ (s : State) (d kind : Nat) (e : Held) (s1 : State), takeKind s d kind = some (e, s1) →
    let h := e.pkt.hdr
    let b := payload e.pkt
    let s2 := finCount s1 d e
    let ends (t : State) : Host.Outcome State Fault Refusal := .next (drainTick (dropHeld t d e))
    let reply (t : State) (k st a : Nat) (bs : List Byte) : Host.Outcome State Fault Refusal := ends (respond t d k (hSRC h) (hTAG h) st a bs)
    (kind = kWRITE → isVoid h = true → exec (.write d) s = ends s2) ∧
    (kind = kWRITE → isVoid h = false → e.brd = false → ∀ p, packetPlace s1 d (hADDR h) (hLEN h) = .ok p →
      exec (.write d) s = ends (finCount (placePut s1 p b) d e)) ∧
    (kind = kWRITE → isVoid h = false → e.brd = true → exec (.write d) s = ends (finCount (emit s1 (.store (hADDR h) b)) d e)) ∧
    (kind = kREAD → hKIND h = kREAD → isVoid h = false → 16 ≤ b.length → bytesNat b 10 6 = 0 → ∀ n, n = bytesNat b 8 2 → 0 < n → n ≤ 4096 → e.brd = false →
      (∀ st, packetPlace s2 d (hADDR h) n = .error st → exec (.read d) s = reply s2 kREAD_DATA (replyCode st) (bytesNat b 0 8) []) ∧
      (∀ p st, packetPlace s2 d (hADDR h) n = .ok p → placeRead s2 d none p n = .error st →
        exec (.read d) s = reply (if st = .memUe then placeSeen s2 d none p n else s2) kREAD_DATA (replyCode st) (bytesNat b 0 8) []) ∧
      (∀ p bs s3, packetPlace s2 d (hADDR h) n = .ok p → placeRead s2 d none p n = .ok (bs, s3) →
        exec (.read d) s = reply s3 kREAD_DATA 0 (bytesNat b 0 8) bs)) ∧
    (kind = kATOMIC → isVoid h = false → bytesNat b 1 7 = 0 → ∀ n, atomicSize (bytesNat b 0 1) = some n → 16 + n ≤ b.length →
      (e.brd = false → ∀ p, packetPlace s2 d (hADDR h) n = .ok p → ∀ old s3, placeAtomic s2 d p (bytesNat b 0 1) (bytesNat b 16 n) = .ok (old, s3) →
        exec (.atomic d) s = if bytesNat b 8 8 = 0 ∨ bytesNat b 0 1 = 8 then ends s3
          else reply s3 kATOMIC_DATA 0 (bytesNat b 8 8) (toLe 8 old)) ∧
      (e.brd = true → ∃ v s3, s3.out = s2.out ++ [.atomic (hADDR h) (bytesNat b 0 1) ((b.drop 16).take n)] ∧ s3.dies = s2.dies ∧
        exec (.atomic d) s = if bytesNat b 8 8 = 0 ∨ bytesNat b 0 1 = 8 then ends s3
          else reply s3 kATOMIC_DATA 0 (bytesNat b 8 8) (toLe 8 v))) ∧
    (kind = kENGINE → isVoid h = false → 72 ≤ b.length → ∃ q : EngReq, q.req = BitVec.ofNat 512 (leNat (b.take 64)) ∧
      q.src = .packet (hSRC h) (bytesNat b 64 8) (hTAG h) (portOfChip s (hSRC h)) ∧ q.done = none ∧
      exec (.engine d) s = (match submit s2 d q false with
        | some t => ends t
        | none => .next s))

/-- R233, R245 to R247, R517, R518: a response goes to the request it answers and to no other, and a void one to none; its bytes are those of the operation
at the reply address, and are written at ADDR where that differs; ACK frees the records it covers; RESEND sends again what its
code names; the lock-step partner's digest records are compared. Which address a request carries is log entry 78's choice, and what a void response does that of entry 77. -/
def Obligations.AnswersAndAcknowledgementsTakeEffect : Prop :=
  ∀ (s : State) (d kind : Nat) (e : Held) (s1 : State), takeKind s d kind = some (e, s1) →
    let h := e.pkt.hdr
    let b := payload e.pkt
    let s2 := finCount s1 d e
    let ends (t : State) : Host.Outcome State Fault Refusal := .next (drainTick (dropHeld t d e))
    let answers (i : Instr) (k : Nat) (req : Nat) : Prop := kind = k →
      (heldVoid e = true → exec i s = ends s2) ∧
      (heldVoid e = false → takeReq' s2 d (hSRC h) (hTAG h) [req] = none → exec i s = ends (bump s2 d nBADADDR)) ∧
      (heldVoid e = false → ∀ r s3, takeReq' s2 d (hSRC h) (hTAG h) [req] = some (r, s3) →
        exec i s = ends (pump (answered (strayReply s3 h r b) d r (replyStatus (hAUX h)) (landed h r b))))
    answers (.readData d) kREAD_DATA kREAD ∧ answers (.atomicData d) kATOMIC_DATA kATOMIC ∧ answers (.engDone d) kENG_DONE kENGINE ∧
    (∀ t r, hADDR h % 2 ^ 48 = r.reply → strayReply t h r b = t ∧ landed h r b = b) ∧
    (∀ t r p, hADDR h % 2 ^ 48 ≠ r.reply → addrPlace t (hADDR h) .wr = .ok p → strayReply t h r b = placePut t p b) ∧
    (∀ t r n bs, r.what = .companion n → answered t d r .ok bs = emit t (.data (bs.take n))) ∧
    (∀ i k t r s3, takeReq' t d i k [kREAD] = some (r, s3) → r.chip = i ∧ r.tag = k ∧ r.kind = kREAD ∧ r ∈ (getDie t d).reqs) ∧
    (kind = kREPLY_WRITE → heldVoid e = false → (∀ r ∈ (getDie s1 d).reqs, r.chip ≠ hSRC h ∨ r.tag ≠ hTAG h ∨ r.kind ≠ kENGINE) →
      exec (.replyWrite d) s = ends (bump s2 d nBADADDR)) ∧
    (kind = kREPLY_WRITE → heldVoid e = false → e.brd = false → (∃ r ∈ (getDie s1 d).reqs, r.chip = hSRC h ∧ r.tag = hTAG h ∧ r.kind = kENGINE) →
      ∀ g o, addrPlace s2 (hADDR h) .wr = .ok (.ground g o) → exec (.replyWrite d) s = ends (placePut s2 (.ground g o) b)) ∧
    (kind = kACK → ∀ t gone, ackedAt (getDie s1 d).tr (hSRC h) (hSEQ h) (hADDR h) = (t, gone) →
      (∀ r ∈ gone, seqSub r.seq (hSEQ h) < 64 ∧ (hADDR h).testBit (seqSub r.seq (hSEQ h)) = true) ∧
      exec (.ack d) s = ends (pump (gone.foldl (fun s r => ownerDone (decOpt s d r.buf 13) d r .ok)
        (setDie s1 d { getDie s1 d with tr := t })))) ∧
    (kind = kRESEND → (spaceOf (getDie s1 d).tr (hSRC h)).recs ≠ [] → resendWaits s1 d 96 = false →
      (hAUX h = 0 → exec (.resend d) s = ends (resendAll s1 d 96 (hSRC h) (fun r => hTAG r.pkt.hdr == hTAG h))) ∧
      (hAUX h = 1 → exec (.resend d) s = ends (resendAll s1 d 96 (hSRC h) (fun r => decide (seqSub r.seq (hSEQ h) < 2 ^ 23)))) ∧
      (hAUX h = 2 → exec (.resend d) s = ends (restart s1 d 96 (hSRC h)))) ∧
    (kind = kMGMT_MSG → let ls := regWord (getDie s1 0) rTIME_LSTEP
      (bit ls 15 = false → exec (.mgmtMsg d) s = ends s2) ∧
      (bit ls 15 = true → isVoid h = false → fld ls 14 0 = hSRC h → b.length = 32 → ∃ r : LsRec, r.source = bytesNat b 0 1 ∧ r.tag = bytesNat b 8 8 ∧
        r.digest = bytesNat b 16 16 ∧ exec (.mgmtMsg d) s = ends (lsCompare { s2 with time := { s2.time with peer := s2.time.peer ++ [r] } })))

/-- R243 to R246, R256, R257, R262, R394, R395: owed numbers are acknowledged; a record past its interval is sent again until RETRY re-sends, then given up
with NO_ACK, or with BAD_ADDR where it cannot be addressed any more; a parked message is asked for eight times, then lost; fabric-wide arrivals and releases reach their barrier. That an
expiry command is its interval's end is log entry 20's choice. -/
def Obligations.TransportTimersAndFabricKnots : Prop :=
  (∀ (s : State) (d chip me : Nat) (bits : Nat) (own : Bool) (l : List Nat), dieRuns s d = true → tget (getDie s d).tr.ackDue chip [] = l → l ≠ [] →
    chipOfDie s d = some me → chipRoute s chip = some (bits, own) →
    ∃ s1 p, p = mkPacket 5 kACK me (ackStart l <<< 104) (memForm 0 chip 0 (ackMap (ackStart l) l)) [] ∧
      (l.filter (fun q => !decide (seqSub q (ackStart l) < 64)) ≠ [] →
        tget (getDie s1 d).tr.ackDue chip [] = l.filter (fun q => !decide (seqSub q (ackStart l) < 64))) ∧
      ((allocReq s.variant d (getDie s d) 11 (pktLen p) 1).isSome = true →
        ∃ e s2, inject s1 d { p with hdr := fillRoute (getDie s1 d) p.hdr bits } 11 1 = some (e, s2) ∧
          exec (.ackDelayExpiry d 96 chip) s = .next (decideWith consumeAt s2 d e own none))) ∧
  (∀ (s : State) (d chip : Nat) (r : Replay), dieRuns s d = true → s.drain.stage = 0 →
    (spaceOf (getDie s d).tr chip).recs.find? (fun q => q.seq == r.seq) = some r →
    (chipOfDie s d).isSome = true →
    let st := if (chipRoute s chip).isNone then .badAddr else giveUpStatus s d chip
    (r.tries < retryLimit s d → (chipRoute s chip).isSome = true → exec (.rtoExpiry d 96 chip r.seq) s = .next (resend (updRecs s d 96 chip (fun l =>
      l.map (fun q => if q.seq == r.seq then { q with tries := q.tries + 1 } else q))) d (spaceOf (getDie s d).tr chip).fresh r)) ∧
    (retryLimit s d ≤ r.tries ∨ (chipRoute s chip).isNone = true → exec (.rtoExpiry d 96 chip r.seq) s = .next (pump (ownerDone (reportFault
      (decOpt (updRecs s d 96 chip (fun l => l.filter (fun q => q.seq != r.seq))) d r.buf 13) 1 12 (statusCode st) d 0x12 2) d r st)))) ∧
  (∀ (s : State) (d src tag : Nat) (f : FinEnt), dieRuns s d = true → tfind (getDie s d).fin (finKey src tag) = some f → f.total.isSome = true →
    let asks := if f.asks = 0 ∨ f.mark ≠ f.count then 0 else f.asks
    (8 ≤ asks → exec (.finWaitExpiry d src tag) s = .next (finLost s d (finKey src tag))) ∧
    (asks < 8 → exec (.finWaitExpiry d src tag) s = .next (sendResend
      (updDie s d (fun x => { x with fin := tset x.fin (finKey src tag) { f with asks := asks + 1, mark := f.count } })) d src 0 tag 0))) ∧
  (∀ (s : State), s.phase ≠ .off → s.phase ≠ .held →
    exec .sequenceHoldoffExpiry s = .next (pumpAll (foldUpto (ndies s.variant) s (fun s d => updDie s d (fun x => { x with holdoff := false }))))) ∧
  (∀ (s : State) (d : Nat) (v : Word32), regsUp s = true → linkReaches s d = true →
    (s.locked = false → exec (.fabSelfWrite d v) s = .next (pumpAll (updDie s d (fun x => { x with regs := tset x.regs rFAB_SELF (v &&& 0xFFFF) })))) ∧
    (s.locked = true → let a := 0x9000000000 + d * 0x10000000 + rFAB_SELF
      exec (.fabSelfWrite d v) s = .next (pumpAll (postEvent s 0x01 d (a % 2 ^ 32) (a / 2 ^ 32) 0 0)))) ∧
  (∀ (s : State) (d : Nat) (e : Held) (s1 : State), let h := e.pkt.hdr
    let k := fld h 143 128
    320 ≤ k → k < 352 →
    (takeKind s d kARRIVE = some (e, s1) → knotKind (getKnot s1 0 k) = 1 ∨ knotKind (getKnot s1 0 k) = 3 → chipOfDie s1 d = some (knotHome (getKnot s1 0 k)) →
      (∀ s2, homeCount s1 d k (fld h 159 144) (hSRC h) = (none, s2) → exec (.arrive d) s = .next (drainTick (dropHeld s2 d e))) ∧
      (∀ g t timed s2, homeCount s1 d k (fld h 159 144) (hSRC h) = (some (g, t, timed), s2) →
        exec (.arrive d) s = .next (drainTick (dropHeld (settle (applyRelease s2 k g t timed false) 0 k) d e)))) ∧
    (takeKind s d kRELEASE = some (e, s1) →
      exec (.release d) s = .next (drainTick (dropHeld (settle (applyRelease s1 k (fld h 159 144) (hADDR h) (bit h 160) true) 0 k) d e))) ∧
    (s.phase = .up → (getKnot s 0 k).sentArrive = true → dieOfChip s (knotHome (getKnot s 0 k)) = none →
      exec (.arriveRepeat k) s = .next (sendArrive s k)))

/-! The collective engine -/

/-- R188, R194, R196 to R200, R206, R209, R249, R519: at the home a piece of an open context is counted once, staged until its contribution is whole and
refused by counter where the context, the windows or the slot are missing; a poisoned slot has every rank asked again; every package acknowledges what the
home sends, passes it on and acts on it. What the pipeline finds as it reads a slot is an operand (log entry 31), and COLL_ACK to and from endpoints is
entry 54's reading. -/
def Obligations.CollectivePacketsAreCountedOnce : Prop :=
  ∀ (s : State) (d kind poison : Nat) (e : Held) (s1 : State), takeKind s d kind = some (e, s1) →
    let h := e.pkt.hdr
    let ch := hCHUNK h
    let ends (t : State) : Host.Outcome State Fault Refusal := .next (drainTick (dropHeld (ctxPump t) d e))
    let grown (c : Ctx) (t : Slot) : State := if (slotFind c ch).isSome then s1 else ctxMap s1 c.id c.gen (fun c => { c with slots := c.slots ++ [t] })
    (kind = kDATA →
      (findCtx s1 (hCTX h) (hGEN h) = none → exec (.data d poison) s = ends (bump s1 d nNOT_OPEN)) ∧
      ∀ c, findCtx s1 (hCTX h) (hGEN h) = some c →
        (upValid s1 d c h = false → exec (.data d poison) s = ends (bump s1 d nNOT_OPEN)) ∧
        (upValid s1 d c h = true → ch ∈ c.emitted → exec (.data d poison) s = ends (ackUp (bump s1 d nCOLLDUP) d h)) ∧
        (upValid s1 d c h = true → ch ∉ c.emitted →
          (cWmode c = 1 → slotFixed c ch = false → exec (.data d poison) s = ends (bump s1 d nEARLY)) ∧
          (cWmode c ≠ 1 ∨ slotFixed c ch = true →
            (slotFor c d ch = none → exec (.data d poison) s = ends (bump s1 d nNOSLOT)) ∧
            ∀ t, slotFor c d ch = some t →
              ((hRANK h ∈ t.arrived ∨ ∃ p ∈ t.staged, p.rank = hRANK h ∧ p.piece = hPIECE h) →
                exec (.data d poison) s = ends (ackUp (bump s1 d nCOLLDUP) d h)) ∧
              (hRANK h ∉ t.arrived → (∀ p ∈ t.staged, p.rank = hRANK h → p.piece ≠ hPIECE h) → ∃ p : Piece, p.rank = hRANK h ∧ p.piece = hPIECE h ∧
                p.last = hLAST h ∧ p.cchk = hCCHK h ∧ p.bytes = payload e.pkt ∧
                let all := t.staged.filter (fun q => q.rank == hRANK h) ++ [p]
                let whole : Prop := ∃ q, all.find? (fun q => q.last) = some q ∧ ∀ i, i ≤ q.piece → ∃ r ∈ all, r.piece = i
                (whole → exec (.data d poison) s = ends (contribute (ackUp (grown c t) d h) d c t (hRANK h) all poison)) ∧
                (¬ whole → ∀ b, e.buf = some b → exec (.data d poison) s = ends (match stageBuf (grown c t) d b with
                  | some s2 => slotPut (ackUp s2 d h) c { t with staged := t.staged ++ [{ p with buf := some b }] }
                  | none => s1)))))) ∧
    (kind = kPRICK →
      (findCtx s1 (hCTX h) (hGEN h) = none → exec (.prick d poison) s = ends (bump s1 d nNOT_OPEN)) ∧
      ∀ c, findCtx s1 (hCTX h) (hGEN h) = some c →
        (upValid s1 d c h = false ∨ cWmode c ≠ 1 → exec (.prick d poison) s = ends (bump s1 d nNOT_OPEN)) ∧
        (upValid s1 d c h = true → cWmode c = 1 → ch ∈ c.emitted → exec (.prick d poison) s = ends (ackUp (bump s1 d nCOLLDUP) d h)) ∧
        (upValid s1 d c h = true → cWmode c = 1 → ch ∉ c.emitted →
          (slotFor c d ch = none → exec (.prick d poison) s = ends (bump s1 d nNOSLOT)) ∧
          ∀ t, slotFor c d ch = some t →
            (poison ≠ 0 → (slotFind c ch).isSome = true → exec (.prick d poison) s = ends (slotPoisoned s1 d c t (poison == 2))) ∧
            (poison = 0 ∨ slotFind c ch = none →
              (hRANK h ∈ t.pricked → exec (.prick d poison) s = ends (ackUp (bump (grown c t) d nCOLLDUP) d h)) ∧
              (hRANK h ∉ t.pricked → ∃ t1 : Slot, t1.pricked = sadd t.pricked (hRANK h) ∧ t1.chunk = t.chunk ∧ t1.arrived = t.arrived ∧
                t1.prick = maxList (if t.prick.isEmpty then List.replicate (cGrains c) 0 else t.prick) (((payload e.pkt).take (cGrains c)).map (·.toNat)) ∧
                (t1.pricked.length < cNC c → exec (.prick d poison) s = ends (slotPut (ackUp (grown c t) d h) c t1)) ∧
                (cNC c ≤ t1.pricked.length →
                  let s3 := downPost (slotPut (ackUp (grown c t) d h) c { t1 with fixed := true }) d c kWINDOW ch true 0 0 (t1.prick.map (BitVec.ofNat 8 ·))
                  exec (.prick d poison) s = ends (if cLocal c = true then localWindow s3 c ch else s3)))))) ∧
    (∀ i act, (kind = kRESULT ∧ i = Instr.result d ∧ act = fun s c (e : Held) b => gotResult s d c e.pkt.hdr (payload e.pkt) b) ∨
        (kind = kWINDOW ∧ i = Instr.window d ∧ act = fun s c (e : Held) b => localWindow (memberCopies s d c e b) c (hCHUNK e.pkt.hdr)) ∨
        (kind = kRECONTRIB ∧ i = Instr.recontrib d ∧
          act = fun s c (e : Held) b => localAgain (memberCopies s d c e b) c (hCHUNK e.pkt.hdr) (hRANK e.pkt.hdr) (hCCHK e.pkt.hdr % 2 == 1)) →
      let s0 := sendCollAck s1 d h
      let lost := Host.Outcome.next (drainTick (dropHeld (bump s0 d nNOT_OPEN) d e))
      (findCtx s1 (hCTX h) (hGEN h) = none → exec i s = lost) ∧
      ∀ c b, findCtx s1 (hCTX h) (hGEN h) = some c → e.buf = some b →
        (cChunks c ≤ ch → exec i s = lost) ∧
        (ch < cChunks c → hRESENT h = true → exec i s = ends (act s0 c e b)) ∧
        (ch < cChunks c → hRESENT h = false → exec i s = ends (act (treeCopies s0 d c e b (cameFrom s0 d e)) c e b))) ∧
    (kind = kCOLL_ACK →
      (ackFrom s1 (hSRC h) < 65536 → exec (.collAck d) s = ends (collAcked s1 d h (ackFrom s1 (hSRC h)))) ∧
      (65536 ≤ ackFrom s1 (hSRC h) →
        exec (.collAck d) s = ends (foldUpto (ndies s.variant) s1 (fun s t => collAcked s t h (ackFrom s1 (hSRC h))))))

/-- R189 to R192: what two contributions leave in a chunk's slot does not depend on the order in which they are added: the same 64-bit sums and the same
special codes, for a sum whose windows are in force. -/
def Obligations.SumsDoNotDependOnArrivalOrder : Prop :=
  ∀ (c : Ctx) (t : Slot) (r1 r2 : Nat) (b1 b2 : List Byte), cSum c = true → cTopk c = false →
    (slotWords c t).length = cNel c t.chunk → (slotSpec c t).length = cNel c t.chunk →
    (grainValues c b1 t.chunk).length = cNel c t.chunk → (grainValues c b2 t.chunk).length = cNel c t.chunk →
    let u := (combine c (combine c t r1 b1).1 r2 b2).1
    let v := (combine c (combine c t r2 b2).1 r1 b1).1
    u.words = v.words ∧ u.spec = v.spec ∧ u.words.length = cNel c t.chunk ∧ u.arrived = t.arrived ∧ u.prick = t.prick

/-- R197, R198, R204, R206 to R210, R215 to R219: a whole contribution that passes its check is added and its rank marked; CHUNK_RESULT_CONVERT: the first
full slot is converted and becomes free, its chunk's result goes to the box, and a poisoned slot has every rank asked again; the head of the admission queue is opened
where every home die has room; a context that waits too long, is done or outlives its limit ends with its record. One whose local contribution a stack's
areas refuse ends with BAD_ADDR (log entry 81's choice); which reduction pipeline serves is that of entry 55. -/
def Obligations.ContextsAreAdmittedAndEnd : Prop :=
  (∀ (s : State) (d : Nat) (c : Ctx) (t : Slot) (p : Piece), p.piece = 0 → p.last = true → (∀ q ∈ t.staged, q.rank ≠ p.rank) →
    crc32c p.bytes = p.cchk → (if cTopk c = true then p.bytes.length % 8 = 0 ∧ p.bytes.length ≤ 1024 * cKib c else p.bytes.length = cGrains c * cB256 c) →
    let k := combine c t p.rank p.bytes
    contribute s d c t p.rank [p] 0 = orStatus (slotPut (slotPut s c t) c { k.1 with arrived := sadd k.1.arrived p.rank }) c.id c.gen k.2) ∧
  (∀ (s : State) (d : Nat), s.phase = .up → dieLives s d = true → (2 ∉ (getDie s d).engFenced ∨ 3 ∉ (getDie s d).engFenced) → (chipOfDie s d).isSome = true →
        (getDie s d).holdoff = false → stopped s = false → ∀ poison,
      (readySlot s d = none → exec (.chunkResultConvert d poison) s = .next (ctxPump s)) ∧
      ∀ c t, readySlot s d = some (c, t) →
        (poison ≠ 0 → exec (.chunkResultConvert d poison) s = .next (ctxPump (slotPoisoned s d c t (poison == 2)))) ∧
        (poison = 0 →
          let bs := (convertChunk c t).1
          let ps := if bs = [] then [(0, [])] else pieces 4096 bs
          (pipeBufs d (ps.map (fun p => p.2.length)) s = none → exec (.chunkResultConvert d poison) s = .next (ctxPump s)) ∧
          ∀ bufs s1, pipeBufs d (ps.map (fun p => p.2.length)) s = some (bufs, s1) → ∃ (s3 : State) (w : Word32),
            s3 = unstage (ctxMap (orStatus s1 c.id c.gen (convertChunk c t).2) c.id c.gen
              (fun c => { c with slots := c.slots.filter (fun u => u.chunk != t.chunk), emitted := sadd c.emitted t.chunk })) d t.staged ∧
            exec (.chunkResultConvert d poison) s = .next (ctxPump ((ps.zip bufs).zipIdx.foldl (fun s ((p, b), i) =>
              match findCtx s c.id c.gen with
              | none => decBuf s d b 13
              | some c =>
                let q := downPacket s d c kRESULT t.chunk i (i + 1 == ps.length) 0 ((convertChunk c t).2 ||| w).toNat p.2
                decBuf (gotResult (downSend s d c q b) d c q.hdr p.2 b) d b 13) s3)))) ∧
  (∀ (s : State), (queueHead s = none → exec .contextAdmissionTry s = .next s) ∧
    ∀ c, queueHead s = some c → (c.dies.all (homeOk s) = false → exec .contextAdmissionTry s = .next (ctxStop s c .homeLost)) ∧
      (c.dies.all (homeOk s) = true → admitCtx s c = none → exec .contextAdmissionTry s = .next s) ∧
      (c.dies.all (homeOk s) = true → (∀ d ∈ c.dies, (fitOn s c d).isSome = true) → c ∈ s.ctxs → ∃ t k, exec .contextAdmissionTry s = .next t ∧ k ∈ t.ctxs ∧ k.id = c.id ∧ k.gen = c.gen ∧
        k.opened = true ∧ k.op = none ∧ t.ctxs.length = s.ctxs.length ∧ t.dies = s.dies)) ∧
  (∀ (s : State) (id : Nat) (c : Ctx) (o : Nat), s.ctxs.find? (fun c => !c.opened && c.id == id && admOver s c) = some c → c.op = some o →
    exec (.admissionTimeout id) s = .next (admissionTry (completeId { s with ctxs := s.ctxs.filter (fun k => !(k.id == c.id && k.gen == c.gen)) } o .noRoom 0))) ∧
  (∀ (s : State) (d : Nat) (c : Ctx) (l m : List Ctx), s.phase = .up → dieLives s d = true → s.ctxs = l ++ c :: m →
    (∀ x ∈ l, x.opened = false ∨ cLocal x = false ∨ x.ltaken = true ∨ addrDie s (cLocalAddr x) ≠ some d) →
    c.opened = true → cLocal c = true → c.ltaken = false → addrDie s (cLocalAddr c) = some d →
    let n := getKnot s d (ctxF c 455 448)
    knotKind n = 2 → 1 ≤ n.count → exec (.localContributionStart d) s = .next (ctxPump
      (ctxMap (setKnot s d (ctxF c 455 448) { n with count := n.count - 1 }) c.id c.gen (fun c => { c with ltaken := true })))) ∧
  (∀ (s : State) (c : Ctx), s.phase = .up →
    s.ctxs.find? (fun c => c.opened && (c.refused || (upto (cChunks c)).all (chunkDone s c)) && ringReady s c.cq) = some c →
    exec .contextCommit s = .next (ctxEnd s c (if c.refused then .badAddr else if c.gaveUp then .noAck else .ok))) ∧
  (∀ (s : State) (c : Ctx) (id gen : Nat), s.ctxs.find? (fun c => c.opened && c.id == id && c.gen == gen && limitOver s c) = some c →
    exec (.contextLimitExpiry id gen) s = .next (ctxEnd s c .timeout)) ∧
  (∀ (s : State) (c : Ctx) (st : Status), ∃ r : Rec, r.op = none ∧ r.cq = c.cq ∧ r.tag = c.tag ∧ r.status = st ∧ r.sq = c.sq ∧
    r.idx = c.idx ∧ r.source = 1 ∧ r.pos = ctxPos s c ∧ r.d0 = c.status ∧ r.total = (if c.opened then some (cChunks c) else none) ∧
    let s1 := c.slots.foldl (fun s t => unstage s t.die t.staged) s
    let s2 := dropItems { s1 with ctxs := s1.ctxs.filter (fun k => !(k.id == c.id && k.gen == c.gen)) } (fun _ i =>
      match i.owner with | .deliver key _ _ => key == ctxKey c | _ => false)
    ctxEnd s c st = postRec (if st = .ok then putLog s2 2 0xFF 0 c.id c.tag c.digest else s2) r) ∧
  (∀ (s : State) (d : Nat), s.phase = .up →
    (takeKind (pumpDie s d) d kDELIVER = none → exec (.deliver d) s = .next (pumpDie s d)) ∧
    ∀ e s1, takeKind (pumpDie s d) d kDELIVER = some (e, s1) → exec (.deliver d) s = .next (drainTick (dropHeld s1 d e)))

/-! Time -/

/-- R377, R379 to R386, R402, R405: a measurement steps every die's counter once after ACQUIRE is entered, steers within ±500 ppm while LOCKED and returns to
ACQUIRE where it is far off; sync flits count on the parent port only, at the counter value of their arrival; delays, PTP messages and timeouts take effect: a
frame that is no PTP message of the transport selected is counted, and a one-step Sync of the master followed is a measurement. The servo's correction is log
entry 24's free value, a mean delay's rounding that of entry 25, PTP's layouts are presumed (entry 37) and an expiry is its command's (entry 20). A write of TIME_CFG
keeps the fields that may not be written and starts ACQUIRE, or FREE, where the source changes; a digest log outside the user area of die 0 stays off and posts
event 8; a locked word keeps its value and posts REG_LOCK. -/
def Obligations.TimeIsMeasuredSteppedAndRead : Prop :=
  (∀ (s : State),
    let w := regWord (getDie s 0) rTIME_CFG
    let far (k : Int) : Bool := decide (16000 * fld w 27 20 < k.natAbs)
    let near (k : Int) : Bool := decide (k.natAbs ≤ 16 * fld w 19 10)
    (s.phase = .up → dieLives s 0 = true → ∀ tr m,
      let p := regWord (getDie s 0) rTIME_PTP
      let t := setPtp s (ptpChoose s.time.ptp s.now)
      (tr ≠ fld p 9 8 ∨ ptpWell m = false → exec (.ptpMessage tr m) s = .next { s with time := { s.time with ptpDrop := satInc (2 ^ 32 - 1) s.time.ptpDrop } }) ∧
      (tr = fld p 9 8 → ptpWell m = true → ptpAt m 4 1 ≠ fld p 7 0 ∨ ptpAt m 0 1 / 16 ≠ 0 → exec (.ptpMessage tr m) s = .next s) ∧
      (tr = fld p 9 8 → ptpWell m = true → ptpAt m 4 1 = fld p 7 0 → ptpAt m 0 1 / 16 = 0 →
        exec (.ptpMessage tr m) s = .next (ptpStep t m) ∧
        (ptpType m = 0 → t.time.ptp.parent = some (ptpPort m) → (ptpAt m 6 1).testBit 0 = false → (ptpAt m 6 1).testBit 1 = false →
          fld p 10 10 = 0 → timeSrc s = 1 → ∀ dl, t.time.ptp.delay = some dl →
          (ptpStep t m).time.offset = (ptpNow s - ptpStamp m - ptpCorr m - dl) / 4096))) ∧
    (∀ k, s.time.st = 1 → s.time.stepped = false → s.time.good < 15 →
      (measure s k).time.st = 1 ∧ (measure s k).time.offset = k ∧ (measure s k).time.stepped = true ∧
      (measure s k).time.good = (if near k = true then s.time.good + 1 else 0) ∧
      ∀ d, d < ndies s.variant → (getDie (measure s k) d).clock = ((((getDie s d).clock : Int) + -k * 2 ^ 28) % 2 ^ 96).toNat) ∧
    (∀ k, s.time.st = 2 → far k = false → ∃ n : Int, -42949672 ≤ n ∧ n ≤ 42949672 ∧
      measure s k = { s with time := { s.time with offset := k, fadj := n }, fresh := s.fresh + 1 }) ∧
    (∀ k, s.time.st = 2 ∨ s.time.st = 3 → far k = true → measure s k = enterAcquire { s with time := { s.time with offset := k } } 2) ∧
    (∀ k, s.time.st = 3 → far k = false → near k = true → s.time.good = 3 →
      let t := { s with time := { s.time with offset := k, st := 2, good := 0 } }
      measure s k = timeEvent t 0xFF 1 (timeHops s) 0) ∧
    (regsUp s = true → s.time.st = 2 → exec .measurementTimeout s =
      .next (afterValid (timeValid s) (timeEvent { s with time := { s.time with st := 3, good := 0 } } 0xFF 2 0 0))) ∧
    (regsUp s = true → s.time.st = 3 → exec .holdSExpiry s = .next (enterAcquire s 1)) ∧
    (s.phase = .up → timeValid s = true ∨ isRoot s = true → exec .syncTimeSend s = .next ((activeTrunks s).foldl
      (fun s (d, l) => linkSend s d l kSYNC_TIME (min 0x3F (timeHops s + 1) <<< 64 + b2n (timeRootValid s) <<< 72)) s)) ∧
    (s.phase = .up → exec .delayReqSend s = .next ((activeTrunks s).foldl (fun s (d, l) => linkSend s d l kDELAY_REQ 0) s)) ∧
    ∀ d, (∀ e s1, takeKind s d kDELAY_REQ = some (e, s1) → e.inp < 96 → isTrunk (getDie s1 d) e.inp = true → exec (.delayReq d) s =
        .next (drainTick (dropHeld (linkSend s1 d e.inp kDELAY_RSP (fld e.pkt.hdr 191 128 + (e.stamp % 2 ^ 32) <<< 64)) d e))) ∧
      (∀ e s1, takeKind s d kDELAY_RSP = some (e, s1) → e.inp < 96 → ∃ v s2, exec (.delayRsp d) s = .next (drainTick (dropHeld s2 d e)) ∧
        (getPort s2 d e.inp).delays = (v :: (getPort s1 d e.inp).delays).take 64 ∧
        v = signed 64 ((e.stamp + 2 ^ 64 * 2 - fld e.pkt.hdr 191 128 - fld e.pkt.hdr 223 192) % 2 ^ 64)) ∧
      (∀ e s1, takeKind s d kSYNC_TIME = some (e, s1) → timeSrc s1 ≠ 2 ∨ 96 ≤ e.inp ∨ parentPort s1 ≠ some (96 * d + e.inp) →
        exec (.syncTime d) s = .next (drainTick (dropHeld s1 d e))) ∧
      (∀ e s1 dl s2, takeKind s d kSYNC_TIME = some (e, s1) → timeSrc s1 = 2 → e.inp < 96 → parentPort s1 = some (96 * d + e.inp) →
        linkDelay s1 d e.inp = (dl, s2) → exec (.syncTime d) s = .next (drainTick (dropHeld (measure (afterValid (timeValid s1)
          { s2 with time := { s2.time with hops := min 0x3F (fld e.pkt.hdr 199 192), rootValid := bit e.pkt.hdr 200 } })
          (signed 64 ((((e.stamp : Int) - fld e.pkt.hdr 191 128 - dl) % 2 ^ 64).toNat))) d e))) ∧
      (s.phase = .booting → exec (.timeNowRead d) s = .next (emit s (.data (toLe 4 0)))) ∧
      (regsUp s = true → linkReaches s d = true → ∃ t, exec (.timeNowRead d) s = .next t ∧ t.out = s.out ++ [.data (toLe 4 (timeNs s d % 2 ^ 32))] ∧
        tget (getDie t d).lat 0 0 = timeNs s d >>> 32 % 2 ^ 32)) ∧
  ∀ (s : State) (v : Word32), regsUp s = true → linkReaches s 0 = true →
    let x := getDie s 0
    let put (off n : Nat) : State := updDie s 0 (fun x => { x with regs := tset x.regs off (BitVec.ofNat 32 n) })
    let cfg := put rTIME_CFG (timeCfgValue (regWord x rTIME_CFG) v)
    let lg := if 6 ≤ fld v 5 1 ∧ fld v 5 1 ≤ 20 then fld v 5 1 else fld (regWord x rTIME_DLOG) 5 1
    let n := 2 * lg + fld v 26 6 * 64
    let locked (off : Nat) : State := postEvent s 0x01 0 ((0x9000000000 + off) % 2 ^ 32) ((0x9000000000 + off) / 2 ^ 32) 0 0
    (s.locked = true → exec (.timeCfgSrcWrite v) s = .next (locked rTIME_CFG) ∧ exec (.timeDlogWrite v) s = .next (locked rTIME_DLOG)) ∧
    (s.locked = false → timeSrc cfg = timeSrc s → exec (.timeCfgSrcWrite v) s = .next cfg) ∧
    (s.locked = false → timeSrc cfg ≠ timeSrc s → exec (.timeCfgSrcWrite v) s = .next (afterValid (timeValid s) (sourceChanged cfg)) ∧
      (timeSrc cfg = 0 → (sourceChanged cfg).time.st = 0 ∧ (sourceChanged cfg).time.fadj = 0) ∧
      (timeSrc cfg ≠ 0 → (sourceChanged cfg).time.st = 1 ∧ (sourceChanged cfg).time.stepped = false)) ∧
    (s.locked = false → logFits x (BitVec.ofNat 32 n) = true → exec (.timeDlogWrite v) s = .next (put rTIME_DLOG (n + fld v 0 0))) ∧
    (s.locked = false → logFits x (BitVec.ofNat 32 n) = false →
      exec (.timeDlogWrite v) s = .next (timeEvent (put rTIME_DLOG n) 0xFF 8 (fld v 26 6 * 64) 0))

/-! Gates, hoops, the drain -/

/-- R286, R288, R289, R307, R311, R314, R370, R378, R427, R428, R446, R447, R480, R481: a staged list takes over and its entries change, with every die's
counter; the drain's stages follow one another; the head of the hoop queue is granted; a core test's find and an activity's commit have their effects, and
the hoops go back with the record. That a time-driven command brings the clocks to its time is log entry 20's choice, that a test's findings are operands that of
entry 31, and which spare stands in and how a repair's SITE is written that of entry 47; that a command takes no time is entry 3's. -/
def Obligations.GatesHoopsAndTheDrainProceed : Prop :=
  ∀ (s : State),
    (∀ d l g, (getPort s d l).staged = some g → s.phase = .up → dieLives s d = true → ∃ s2, exec (.gateTakeover d l) s = .next (completeId s2 g.op .ok 0) ∧
      s2.ops = s.ops ∧ (getPort s2 d l).staged = none ∧ (∃ c, (getPort s2 d l).gate = some { g with cur := c }) ∧
      (g.start < 2 ^ 64 → (getDie s d).clock < 2 ^ 96 → g.start ≤ timeNs s2 d) ∧
      ∀ e, e < ndies s.variant → ∃ k, (getDie s2 e).clock = ((getDie s e).clock + k) % 2 ^ 96 ∧ (getDie s2 d).clock = ((getDie s d).clock + k) % 2 ^ 96) ∧
    (∀ d l g n o k, (getPort s d l).gate = some g → dieRuns s d = true → g.ents ≠ [] → gateAt g (timeNs s d) = (n, o, k) →
      ∃ t, exec (.gateEntryChange d l) s = .next t ∧ (getPort t d l).gate = some { g with cur := (gateAt g (timeNs t d)).1 } ∧
        (g.cur = n → timeNs s d + k < 2 ^ 64 → (getDie s d).clock < 2 ^ 96 → timeNs s d + k ≤ timeNs t d) ∧ (g.cur ≠ n → timeNs t d = timeNs s d)) ∧
    (∀ d l c (v : Word32), regsUp s = true → linkReaches s d = true → l < 96 → c < 7 → s.locked = false →
      let off := rSW_PORT l (0x90 + 8 * c)
      let n := rateValue (regWord (getDie s d) off) v
      ∃ t, exec (.swPolrateWrite d l c v) s = .next t ∧ regWord (getDie t d) off = BitVec.ofNat 32 n ∧
        tget (getPort t d l).polTok c 0 = (if 65536 ≤ n then 256 * regFld (getDie s d) (rSW_PORT l (0x94 + 8 * c)) 15 0 else tget (getPort s d l).polTok c 0)) ∧
    (∀ d (v : Word32), regsUp s = true → linkReaches s d = true → s.locked = false →
      let off := fld v 26 6 * 64
      let s1 := updDie s d (fun x => { x with regs := tset x.regs rSW_HIST_BASE (BitVec.ofNat 32 off) })
      let s2 := updDie s1 d (fun x => { x with regs := tset x.regs rSW_SAMPLE (regWord x rSW_SAMPLE &&& 0xFF) })
      exec (.swHistBaseWrite d v) s = .next (if histFits (getDie s d) off = true then s1 else postEvent s2 0x0F d off 0 0 0)) ∧
    (∀ h rest, s.phase = .up → s.hoopQ = h :: rest →
      exec .hoopGrant s = .next (if hoopBlock s h.act h.dies false = none then hoopStart { s with hoopQ := rest } h else s)) ∧
    (∀ d h find arr col row, s.hoopHold.find? (fun h => h.act == 4 && h.die == d && h.st.isNone && !holdOver s h) = some h → s.phase = .up → (getDie s d).flt = 0 →
      (getCore s d h.unit).run = none →
      let done := fun (r : Bool × State) => Host.Outcome.next (coreOutcome r.2 d r.1)
      let test := exec (.coreTestComplete d find arr col row) s
      (holdStop s h = true → test = done (true, s)) ∧
      (holdStop s h = false → (h.arg % 2 = 1 → test = done (substitute s d h.unit)) ∧
        (h.arg % 2 = 0 →
          (find = 0 → test = done (if thriceStruck s (getCore s d h.unit) = true then substitute s d h.unit else (true, s))) ∧
          (find = 1 → arr < 2 → col ≤ 32 → test = done (failColumn s d h.unit arr col)) ∧
          (find = 2 → test = done (failMemRow s d h.unit (col % 4096) row)) ∧
          (3 ≤ find → test = done (substitute s d h.unit))))) ∧
    (∀ act d h found ext, s.hoopHold.find? (fun h => h.act == act && h.die == d && !holdOver s h) = some h → s.phase = .up → dieLives s d = true →
      let go := exec (.hoopActivityCommit act d found ext) s
      let l := h.unit % 96
      let recal := updPort s d l (fun p => { p with recal := none })
      (act = 2 → recalOver s (96 * d + l) = true → go = .next (hoopEnd recal h .ok (holdTotal s h))) ∧
      (act = 3 → h.st = none → let s1 := stackActs s h found
        go = .next (if (getDie s1 h.die).stk.copying.isSome = true then updHold s1 3 h.die (fun h => { h with st := some .ok }) else hoopEnd s1 h .ok (holdTotal s h))) ∧
      (act = 3 → h.st ≠ none → go = .next s) ∧
      (act = 5 → go = .next (hoopEnd (gndActs s h found) h .ok (holdTotal s h))) ∧
      (act = 4 → ∀ st, h.st = some st → go = .next (if holdStop s h = true then hoopEnd (coreServes s d h.unit) h .aborted 0
        else hoopEnd (coreServes s d h.unit) h st 1)) ∧
      (act = 6 → h.unit / 65536 ≠ 0 → holdStop s h = false → go = .next (if found = [] then hoopEnd s h .ok 1
        else selfFail (hoopEnd s h .faulted 1) d (h.unit / 65536) (h.unit % 65536) found)) ∧
      (act = 6 → h.unit / 65536 ≠ 0 → holdStop s h = true → go = .next (hoopEnd s h .aborted 0))) ∧
    (∀ d h o found ext, s.hoopHold.find? (fun h => h.act == 7 && !holdOver s h) = some h → h.op.bind (findOp s) = some o → s.phase = .up →
      let go := exec (.hoopActivityCommit 7 d found ext) s
      (found ≠ [] → go = .next (hoopEnd s h (.fw 6) o.total)) ∧
      (found = [] → h.unit = 0 → go = .next (hoopEnd (stageEnd s o h.arg ext).2.2 h (stageEnd s o h.arg ext).1 (stageEnd s o h.arg ext).2.1)) ∧
      (found = [] → h.unit = 1 → (keepSlot s h.arg).valid = true → go = .next (hoopEnd { s with keep := { s.keep with pref := h.arg } } h .ok o.total)) ∧
      (found = [] → h.unit = 2 → go = .next (hoopEnd (commitSvn s).2 h (commitSvn s).1 o.total) ∧
        (s.keep.arb ≤ 255 → s.boot.svn ≤ 255 → (commitSvn s).1 = .ok ∧ (commitSvn s).2.keep.arb = max s.keep.arb s.boot.svn ∧
          (commitSvn s).2.keep.tags = arbTags (s.boot.seed.getD 0) (max s.keep.arb s.boot.svn)))) ∧
    (∀ h st pos, (∀ o, h.op.bind (findOp s) = some o → hoopEnd s h st pos = complete s o st pos) ∧
      (h.op.bind (findOp s) = none → hoopEnd s h st pos = { s with hoopHold := s.hoopHold.filter (fun g => !(g == h)) })) ∧
    (∀ r id, r.op = some id → (∀ h, h ∈ (writeRec s r).hoopHold ↔ h ∈ s.hoopHold ∧ h.op ≠ some id) ∧
      (s.drain.op = some id → (writeRec s r).drain.stage = 0)) ∧
    (s.phase = .up →
      (s.drain.stage = 1 → exec .drainStopComplete s = .next (drainProgress { s with drain := { s.drain with stage := 2, n0 := inflight s } })) ∧
      (s.drain.stage = 2 → inflight s ≠ 0 → exec .drainWaitComplete s = .next s) ∧
      (s.drain.stage = 2 → inflight s = 0 → ∃ t, exec .drainWaitComplete s = .next (drainProgress t) ∧
        t = foldUpto (ndies s.variant) (warmSwap (dropRemoved { s with tabs := s.stagedTabs, drain := { s.drain with stage := 3 } } s.tabs) s.tabs)
          (fun s d => ((getDie s d).ports.map (·.1)).foldl (fun s l => retest s d l) s)) ∧
      (s.drain.stage = 3 → ∃ t, t = releaseHeld { s with drain := { s.drain with epoch := (s.drain.epoch + 1) % 2 ^ 16 } } 4 ∧
        (∀ o, t.drain.op.bind (findOp t) = some o → exec .drainCommit s = .next (complete t o .ok 1024)) ∧
        (t.drain.op = none → exec .drainCommit s = .next
          { t with hoopHold := t.hoopHold.filter (fun h => !(h.act == 1)), drain := { t.drain with stage := 0, op := none } })))

/-! Registers, the companion, counters -/

/-- R3, R23, R353, R355, R357, R466, R486, R487, R495: the companion's register writes and accesses act on the register, memory or counter that their address
names, and only once the package answers; the active Itgil link moves where it may; a counter's halves are read and written; windows end. What the
companion's reads bring that the package refuses, and what its memory answers, is log entry 4's; the stores that a failover makes again are those of entry 68, and that
a window's end brings the clocks there is entry 20's choice. -/
def Obligations.RegistersAndCompanionAccessesTakeEffect : Prop :=
  ∀ (s : State) (d : Nat),
    (∀ a (v : Word32), (regsUp s = false ∨ a < 0x9000000000 ∨ a % 4 ≠ 0 → exec (.registerWrite a v) s = .next s) ∧
      ∀ off, regsUp s = true → linkReaches s d = true → off < 0x10000000 → a = 0x9000000000 + d * 0x10000000 + off → off % 4 = 0 → d < 8 →
        exec (.registerWrite a v) s = .next (dieRegWrite d off v s)) ∧
    (∀ off (v : Word32) n, regsUp s = true → linkReaches s d = true → plainValue s d off v = some n → off < 0x20000 →
      (s.locked = false → dieRegWrite d off v s = updDie s d (fun x => { x with regs := tset x.regs off (BitVec.ofNat 32 n) })) ∧
      (s.locked = true → dieRegWrite d off v s = postEvent s 0x01 d (regAddr d off % 2 ^ 32) (regAddr d off / 2 ^ 32) 0 0)) ∧
    (∀ a n data, s.phase = .up → inWindows a = false → n ∈ [1, 2, 4, 8, 16, 32, 64] → a % n = 0 → ∀ p,
      (addrPlace s a .rd = .ok p → placeDie p ≠ none → ∀ bs t, placeRead s (linkDie s) none p n = .ok (bs, t) →
        exec (.companionMemoryAccess false a n data) s = .next (emit t (.data bs))) ∧
      (addrPlace s a .wr = .ok p → placeDie p ≠ none → data.length = n → placeErr s (linkDie s) none p n = none →
        exec (.companionMemoryAccess true a n data) s = .next (placePut s p data)) ∧
      (∀ e, addrPlace s a .rd = .error e → exec (.companionMemoryAccess false a n data) s = .next (emit s (.data []))) ∧
      (∀ e, addrPlace s a .wr = .error e → data.length = n → exec (.companionMemoryAccess true a n data) s = .next s)) ∧
    (∀ a data, s.phase = .up → inWindows a = true → a % 4 = 0 → exec (.companionMemoryAccess false a 4 data) s =
      .next (emit (winRead a s).2 (.data (toLe 4 (winRead a s).1)))) ∧
    (∀ a aop y p old t, s.phase = .up → aop < 8 → addrPlace s a .atom = .ok p → placeDie p ≠ none → placeAtomic s (linkDie s) p aop y = .ok (old, t) →
      exec (.companionAtomic a aop y) s = .next (emit t (.data (toLe ((atomicSize aop).getD 8) old)))) ∧
    (s.phase = .up →
      (∀ v : Word32, s.locked = false → itgCan s = true → ∃ t, exec (.itgSwitch v) s = .next t ∧ t.itgAuto = bit v 1 ∧
        t.itgActive = (if bit v 0 = true then 1 - s.itgActive else s.itgActive) ∧ t.itgFail = (if bit v 0 = true then satInc 0xFF s.itgFail else s.itgFail)) ∧
      (let u := { s with itgUp := sdel s.itgUp s.itgActive, itgWidth := tset s.itgWidth s.itgActive 0 }
       exec .itgLinkDown s = .next (if itgCan u = false then packageFault u 0x45 else if s.itgAuto = true then failOver u else { u with itgLost := true })) ∧
      ∃ t : State, t = { s with itgActive := 1 - s.itgActive, itgFail := satInc 0xFF s.itgFail, itgLost := false, itgWait := [] } ∧
        failOver s = emits (postEvent t 0x0C 0xFF (itgDie t.itgActive) 0 0 0)
          ((s.itgWait.filter (fun e => s.itgLost || decide (s.now < e.1 + 20000))).map (·.2))) ∧
    (regsUp s = true → linkReaches s d = true → ∀ c n, c < 150 → n < 8 →
      let off := 0x100 * c + 0x40 + 8 * n
      let v := tget (getCore s d c).pmc.cnt n 0
      (∃ t, exec (.pmcLowWordRead d off) s = .next t ∧ t.out = s.out ++ [.data (toLe 4 (v % 2 ^ 32))] ∧
        (∃ u, pmcHigh d (off + 4) t = some (v >>> 32, u))) ∧
      (∀ w : Word32, (∃ t, exec (.pmcCounterWrite d off w) s = .next t ∧ tget (getCore t d c).pmc.cnt n 0 = halfWrite v false w) ∧
        (∃ t, exec (.pmcCounterWrite d (off + 4) w) s = .next t ∧ tget (getCore t d c).pmc.cnt n 0 = halfWrite v true w))) ∧
    (∀ l (v : Word32), regsUp s = true → linkReaches s d = true → l < 96 → ∃ t, exec (.pmcPwinWrite d l v) s = .next t ∧
      (getPort t d l).pmc = { (getPort s d l).pmc with tx := 0, rx := 0, peak := 0 } ∧
      (1 ≤ fld v 19 0 → fld v 19 0 ≤ 1000000 → regWord (getDie t d) (rPMC_PWIN l) = BitVec.ofNat 32 (fld v 19 0)) ∧
      (1000000 < fld v 19 0 ∨ fld v 19 0 = 0 → regWord (getDie t d) (rPMC_PWIN l) = regWord (getDie s d) (rPMC_PWIN l))) ∧
    (s.phase = .booting → ∀ off, exec (.pmcLowWordRead d off) s = .next (emit s (.data (toLe 4 0)))) ∧
    (∀ l, dieRuns s d = true → l < 96 → let w := windowNs (getDie s d) l
      let t1 := (timeNs s d / w + 1) * w
      0 < w → t1 < 2 ^ 64 → (getDie s d).clock < 2 ^ 96 → ∃ t, exec (.bandwidthWindowEnd d l) s = .next t ∧ timeNs t d = t1 ∧
        let p := (getPort s d l).pmc
        let q := (getPort t d l).pmc
        q.tx = tget p.win 0 0 ∧ q.rx = tget p.win 1 0 ∧ q.peak = max (tget p.win 0 0) p.peak ∧ q.win = [])

/-! Ports and lanes -/

/-- R321 to R325, R328 to R336, R340, R346, R436, R515: a codeword with up to 15 wrong symbols is decoded and counted, locks its lane, and its control words
and data take effect; one that cannot be decoded discards the packets with a byte in it and breaks a run of hellos; lost codewords, signals and fault ordered sets,
alone or as codewords, take a port down; training frames move coefficients within R330's limits and bring lanes to HELLO; hellos settle a port, or have it leave service
where the far end leaves; control words move credit and follow the far end. The code's field and generator are presumed (log entry 60), which lanes a skew is
measured from is entry 63's choice, idle between packets entry 64's reading, what a receiver adapts to entry 62's free value, and the requests of a training frame
are operands (entry 31). -/
def Obligations.LanesTrainAndCarryControlWords : Prop :=
  (∀ c c' k, rsDecode c = some (c', k) → k ≤ 15 ∧ (rsSyndromes c').all (· == 0) = true ∧ c'.length = c.length ∧
    ((c'.zip c).filter (fun p => p.1 != p.2)).length = k) ∧
  (∀ (n : Lane) (c : Nat), let m := applyControl n c
    n.cm1 ≤ 16 ∧ n.cp1 ≤ 24 ∧ 24 ≤ n.c0 ∧ n.cm1 + n.c0 + n.cp1 ≤ 64 → m.cm1 ≤ 16 ∧ m.cp1 ≤ 24 ∧ 24 ≤ m.c0 ∧ m.cm1 + m.c0 + m.cp1 ≤ 64) ∧
  ∀ (s : State) (d i l : Nat), dieRuns s d = true →
    let x := getDie s d
    let n := laneOf x i
    let p := getPort s d l
    let serves := 5 ≤ p.st ∧ p.st ≤ 9
    (laneWidthPort x i = some l →
      (n.done = true → n.failed = false → laneTest x i = 0 → p.st ≠ 10 → ∀ (ctl : BitVec 140) (data : BitVec 5000) (par : BitVec 300),
        let go := exec (.codewordReceived d i ctl data par) s
        let dec := rsDecode (cwSymbols (par ++ (data ++ ctl)))
        (∀ c fixed, dec = some (c, fixed) →
          let w := cwParts c
          let s1 := updLane s d i (fun n => { n with
            lock := true, sig := true, uncRow := 0, fosRow := if cwFault w = true then n.fosRow + 1 else 0, fecc := satAdd (2 ^ 32 - 1) n.fecc fixed
            mark := (cwMark w).orElse (fun _ => n.mark.map (fun m => (m + 1) % 2 ^ 17)) })
          let s2 := if fixed = 0 then s1 else portEvent (countC0 s1 d fixed) d l 0x07 fixed none
          let bad := skewed (getDie s2 d) l
          let s3 := bad.foldl (fun s j => updLane s d j (fun n => { n with failed := true })) s2
          let uses := ∃ j ∈ bad, (laneOf (getDie s2 d) j).rxuse = true ∨ (laneOf (getDie s2 d) j).txuse = true
          (uses → serves → go = .next (portDown s3 d l false false)) ∧
          (¬(uses ∧ serves) → i ∈ bad → go = .next s3) ∧
          let fos := cwFault w = true ∧ 1 ≤ n.fosRow ∧ n.rxuse = true ∧ serves
          (¬(uses ∧ serves) → i ∉ bad → fos → go = .next (portDown s3 d l false true)) ∧
          (¬(uses ∧ serves) → i ∉ bad → ¬fos →
            let s4 := w.ctl.foldl (fun s v => controlWord d l v s) s3
            let st := (getPort s4 d l).st
            (st = 4 ∨ st = 7 ∨ st = 8 → go = exec (.helloFrame d i (w.bytes.take 64)) s4) ∧
            ((getLane s4 d i).rxuse = true → st = 5 ∨ st = 6 ∨ st = 9 → ∀ m, (getLane s4 d i).mark = some m →
              go = .next (joinFrame s4 d l { count := m, lane := i, body := some (w.bytes, cwFirst w) })) ∧
            ((getLane s4 d i).rxuse = false ∨ (getLane s4 d i).mark = none → st ≠ 4 → st ≠ 7 → st ≠ 8 → go = .next s4))) ∧
        (dec = none →
          let uncs := n.uncs.filter (fun t => decide (s.now < t + 1000000)) ++ [s.now]
          let mark := n.mark.map (fun m => (m + 1) % 2 ^ 17)
          let s1 := updLane s d i (fun n => { n with
            fecu := satInc (2 ^ 32 - 1) n.fecu, uncRow := n.uncRow + 1, uncs := uncs, mark := mark, fosRow := 0
            hellos := if p.st = 4 then 0 else n.hellos })
          let s2 := portEvent (reportFault s1 1 5 (portNum d l) d 0x11 1) d l 0x08 1 none
          let s3 := match mark with
            | some m => joinFrame s2 d l { count := m, lane := i, body := none }
            | none => lostArriving s2 d l
          let many := 4 ≤ n.uncRow + 1 ∨ regFld x rPORT_TIMERS 15 8 < uncs.length
          (¬(n.rxuse = true ∧ serves) → go = .next s2) ∧
          (n.rxuse = true → serves → many → go = .next (portDown s3 d l false false)) ∧
          (n.rxuse = true → serves → ¬many → go = .next s3))) ∧
      (let s1 := updLane s d i (fun n => { n with sig := true })
       (p.st ≠ 1 → p.st ≠ 3 → exec (.laneSignalDetect d i false) s = .next s1) ∧
       ((p.st = 1 ∧ (cageOf x (l / 8)).prs = false) ∨ (p.st = 3 ∧ p.fos = true) →
         exec (.laneSignalDetect d i false) s = .next (startTrain s1 d l false)) ∧
       (p.st = 3 → p.fos = false → exec (.laneSignalDetect d i false) s = .next s1) ∧
       (p.st ≠ 1 → p.st ≠ 3 → (cageOf x (l / 8)).prs = false → exec (.laneSignalDetect d i true) s = .next (addCageFault s1 d (l / 8) 5))) ∧
      (let s1 := updLane s d i (fun n => { n with sig := false, lock := false })
       (n.rxuse = true → serves → exec (.lossOfSignal d i) s = .next (portDown s1 d l false false)) ∧
       (n.rxuse = false → exec (.lossOfSignal d i) s = .next s1)) ∧
      (n.rxuse = true → serves → exec (.faultOrderedSet d i) s = .next (portDown s d l false true)) ∧
      (p.st = 3 → n.done = false → n.failed = false → p.fos = false → ∀ (c : BitVec 64) inv ask,
        let n1 := { n with sig := true, pol := inv, readySent := if ask.testBit 16 = true then n.readySent + 1 else n.readySent }
        let n2 := if fld c 63 56 = crc8 (c.toNat % 2 ^ 56) then applyControl n1 c.toNat else n1
        let s0 := updLane s d i (fun _ => n2)
        let frame (k : Nat) : Out := trainFrame s0 d l i (ask % 1024) (ask.testBit 16) k
        (¬(16 ≤ n2.readySent ∧ 16 ≤ n2.readyGot) → exec (.trainingFrame d i c inv ask) s = .next (emit s0 (frame 15))) ∧
        (16 ≤ n2.readySent → 16 ≤ n2.readyGot → exec (.trainingFrame d i c inv ask) s =
          .next (laneTrained (emits (emit s0 (frame 15)) ((upto 15).map (fun k => frame (14 - k)))) d l i))) ∧
      (n.done = true → n.failed = false → 4 ≤ p.st → p.st ≤ 9 → ∀ bs,
        (readHello bs = none → exec (.helloFrame d i bs) s = .next (updLane s d i (fun n => { n with hellos := 0 }))) ∧
        ∀ f, readHello bs = some f →
          (p.st ≠ 4 → f.removing = false → f.miscabled = false → exec (.helloFrame d i bs) s = .next (updPort s d l (fun p => { p with far := some f }))) ∧
          (p.st = 5 ∨ p.st = 6 → f.removing = false → f.miscabled = true → exec (.helloFrame d i bs) s =
            .next (holdMiscabled (portLeave (updPort s d l (fun p => { p with far := some f })) d l) d l 0)) ∧
          (p.st ≠ 4 → f.removing = true → exec (.helloFrame d i bs) s = .next (removePort (updPort s d l (fun p => { p with far := some f })) d l)) ∧
          (p.st = 4 → f.removing = true → exec (.helloFrame d i bs) s = .next (removePort (updPort s d l (fun p => { p with far := some f })) d l)) ∧
          (p.st = 4 → f.removing = false → portLanes x l = [i] → f.lane = 0 → portWidth x l = some 0 →
            let s0 := updPort (updLane s d i (fun n => { n with hellos := n.hellos + 1, rxmap := f.lane, lock := true })) d l (fun p => { p with far := some f })
            let s1 := emit s0 (.frame d i (helloBytes s0 d l i))
            exec (.helloFrame d i bs) s = .next (if helloReady (getDie s1 d) l = true then settleHello s1 d l f else s1)))) ∧
    (p.st = 3 → p.fos = false → (portWidth x l).isSome = true →
      let t := recalProgress ((portLanes x l).foldl (fun s i => updLane s d i (fun n => if n.done = true then n else { n with failed := true })) s) d l
      exec (.trainMsExpiry d l) s = .next (if lanesOk (getDie t d) l = 0 then bringUpFailed t d l else sendHellos (setPortSt t d l 4) d l)) ∧
    (p.st = 4 → exec (.helloTimeout d l) s = .next (bringUpFailed s d l)) ∧
    (p.st = 4 → (portWidth x l).isSome = true → ∀ drained,
      exec (.state d l 9 drained) s = .next (removePort (updPort s d l (fun p => { p with farSt := 9, farDrained := drained })) d l)) ∧
    (p.st = 9 → ∀ late, (late = true ∧ removalOver s d l = true) ∨ (p.farDrained = true ∧ (outOf x l).q = []) → ∃ t, exec (.removalComplete d l late) s = .next t ∧ (getPort t d l).st = 10) ∧
    (ctlPort s d l = true →
      (∀ b k, ctlBuf x l b = true →
        (let got := (k % 4096 + 4096 - tget p.txC b 0) % 4096
         exec (.credit d l b k) s = .next (retryAll (updPort s d l (fun p => { p with txR := tset p.txR b (tget p.txR b 0 + got), txC := tset p.txC b (k % 4096) })))) ∧
        exec (.advert d l b k) s = .next (retryAll (updPort s d l (fun p => { p with txA := tset p.txA b (k % 4096) })))) ∧
      (∀ b k, ctlBuf x l b = false → exec (.credit d l b k) s = .next s ∧ exec (.advert d l b k) s = .next s) ∧
      exec (.creditRepeat d l) s = .next (emits s ((fullAdverts x l).map (fun (b, _) => .control d l 2 [creditOf b (tget p.rxRet b 0)]))) ∧
      (stopped s = false ∨ isTrunk x l = true ∨ p.adv = false → exec (.advertRepeat d l) s =
        .next (emits s ((fullAdverts x l).map (fun (b, u) => .control d l 3 [advertOf b (if p.adv = true then u else 0)])))) ∧
      (stopped s = true → isTrunk x l = false → p.adv = true → exec (.advertRepeat d l) s = .next s) ∧
      (∀ w, (cwType w = 2 → exec (.credit d l (nbits w 7 3) (nbits w 19 8)) s = .next (controlWord d l w s)) ∧
        (cwType w = 3 → exec (.advert d l (nbits w 7 3) (nbits w 19 8)) s = .next (controlWord d l w s)) ∧
        (cwType w = 4 → exec (.state d l (nbits w 6 3) (w.testBit 7)) s = .next (controlWord d l w s)) ∧
        (cwType w ≠ 2 → cwType w ≠ 3 → cwType w ≠ 4 → controlWord d l w s = s)) ∧
      ∀ st drained, let s1 := updPort s d l (fun p => { p with farSt := st, farDrained := drained })
        (st = 9 → p.st ≠ 9 → exec (.state d l st drained) s = .next (updPort (removePort s1 d l) d l (fun p => { p with farDrained := drained }))) ∧
        (st = 7 → p.st = 5 ∨ p.st = 6 → exec (.state d l st drained) s = .next (holdMiscabled (portLeave s1 d l) d l 0)) ∧
        (st = 5 ∨ st = 6 → p.st = 7 → ∀ f, p.far = some f → exec (.state d l st drained) s = .next (if cabling s1 d l f = 0 then linkUp s1 d l else s1)) ∧
        (st ≠ 9 → st ≠ 7 → p.st ≠ 7 → exec (.state d l st drained) s = .next s1))

/-! Cages and modules -/

/-- R339, R342 to R346, R348, R349: presence, pulled cables, module polls, the button, sideband tests and the port, lane and checker controls have their
effects on a cage's ports and status; a refused TEST keeps its old value. How the checker starts and locks is log entry 61's choice, the module's register places
are presumed (entry 65), and which commands set BTN is entry 66's reading. -/
def Obligations.CagesModulesAndTestModesTakeEffect : Prop :=
  ∀ (s : State) (d o : Nat),
    let x := getDie s d
    let c := cageOf x o
    let stuck := 15 ∈ c.faults ∨ 16 ∈ c.faults ∨ 17 ∈ c.faults
    let restart (s : State) (l : Nat) : State := startTrain (updPort s d l (fun p => { p with fails := 0 })) d l false
    (dieRuns s d = true → octetPorts x o ≠ [] →
      exec (.presenceDebounced d o) s = .next ((octetPorts x o).foldl (fun s l => if (getPort s d l).st = 1 then setPortSt s d l 2 else s)
        (updCage s d o (fun c => { c with prs := true, ready := c.prs && c.ready, app := c.prs && c.app }))) ∧
      (let early := (octetPorts x o).any (fun l => (portOf x l).st == 9)
       let s1 := (octetPorts x o).foldl (fun s l => if (getPort s d l).st = 0 then s else portEmpty s d l) s
       let s2 := updCage s1 d o (fun c => { c with prs := false, ready := false, flat := false, app := false, modst := 0, early := c.early || early })
       exec (.unplug d o) s = .next (if early = true then cageEvent s2 d o else s2)) ∧
      (c.prs = true → ∀ app ready modst alarms,
        exec (.cmisPoll d o false app ready modst alarms) s = .next (moduleReady (addCageFault s d o 6) d o) ∧
        (isolated c = true → exec (.cmisPoll d o true app ready modst alarms) s = .next (moduleReady (addCageFault s d o 6) d o)) ∧
        (isolated c = false →
          let st := if app = none then 0 else if modst < 6 then modst else c.modst
          let s1 := updCage s d o (fun c => { c with flat := app.isNone, modst := st, faults := sdel c.faults 6 })
          let s2 := if app = none ∨ c.app = true then s1 else selectApp s1 d o (app.getD 0)
          let s3 := if app = none ∨ ready = true then moduleReady s2 d o else s2
          exec (.cmisPoll d o true app ready modst alarms) s = .next (foldUpto 32 s3 (fun s k =>
            if alarms.testBit k = true then postEvent s 0x08 d (16 * d + o) (alarms % 2 ^ 32) 0 0 else s)))) ∧
      (c.prs = true → c.ready = false → exec (.moduleReadyTimeout d o) s = .next (postEvent (moduleReady s d o) 0x08 d (16 * d + o) 0 0 0)) ∧
      (∀ ms, let s1 := updCage s d o (fun c => { c with btn := false })
        (stuck → exec (.buttonRelease d o ms) s = .next s1) ∧
        (¬stuck →
          (ms < 50 ∨ 10000 < ms → exec (.buttonRelease d o ms) s = .next s1) ∧
          (50 ≤ ms → ms < 2000 → exec (.buttonRelease d o ms) s =
            .next (if bit (regWord x (rCAGE_CFG o)) 1 = true then clearLocate s1 d o else postEvent s1 0x07 d (16 * d + o) 0 0 0)) ∧
          (2000 ≤ ms → ms ≤ 10000 → exec (.buttonRelease d o ms) s = .next ((octetPorts x o).foldl (fun s l =>
            if (getPort s d l).st = 10 then (if c.prs = true then restart s l else s) else removePort s d l) (clearLocate s1 d o))))) ∧
      (∃ t, exec (.buttonStuck d o) s = .next t ∧ (cageOf (getDie t d) o).btn = true ∧ ∀ f, f ∈ (cageOf (getDie t d) o).faults ↔ f = 17 ∨ f ∈ c.faults) ∧
      (∀ found, ∃ t, exec (.sidebandTest d o found) s = .next t ∧
        ∀ f, f ∈ (cageOf (getDie t d) o).faults ↔ (5 ≤ f ∧ f ≤ 16 ∧ f ∈ found) ∨ (f = 17 ∧ 17 ∈ c.faults))) ∧
    (∃ t, exec (.buttonStuckClear d o) s = .next t ∧ (cageOf (getDie t d) o).btn = false ∧ (cageOf (getDie t d) o).faults = sdel c.faults 17) ∧
    (regsUp s = true → linkReaches s d = true → o < 12 → s.locked = false → ∀ v : Word32,
      let w := regWord x (rPORT_CFG o)
      let mode := if fld v 2 0 = 7 then fld w 2 0 else fld v 2 0
      let role := if 2 ≤ fld v 4 3 then fld w 4 3 else fld v 4 3
      let keep (p : Port) : Port := { portReset with pmc := p.pmc, t1 := p.t1, pdrop := p.pdrop, gate := p.gate, staged := p.staged, shTok := p.shTok, polTok := p.polTok }
      let s1 := (octetPorts x o).foldl (fun s l => updPort (stopLanes (portLeave s d l) d l) d l keep) s
      let s2 := updDie s1 d (fun x => { x with regs := tset x.regs (rPORT_CFG o) (BitVec.ofNat 32 (mode + 8 * role + 32 * fld v 5 5)) })
      exec (.portCfgWrite d o v) s = .next ((octetPorts (getDie s2 d) o).foldl (fun s l => setPortSt s d l 1) s2)) ∧
    (regsUp s = true → linkReaches s d = true → ∀ (i l : Nat) (v : Word32), i < 96 → laneWidthPort x i = some l →
      let st := (portOf x l).st
      let w := regWord x (rLANE_CTL i)
      let t := fld v 2 0
      let prbs := if fld v 4 3 = 3 then fld w 4 3 else fld v 4 3
      let same (test : Nat) : Bool := test == fld w 2 0 && prbs == fld w 4 3 && fld v 5 5 == fld w 5 5
      let put (test : Nat) : State := updDie s d (fun x => { x with regs := tset x.regs (rLANE_CTL i) (BitVec.ofNat 32 (test + 8 * prbs + 32 * fld v 5 5)) })
      let clean (test : Nat) : State := updLane (put test) d i (fun n =>
        { n with prbse := 0, prbsLock := n.prbsLock && same test, prbs := if same test = true then n.prbs else {} })
      (t ≠ 0 → st = 6 ∨ st = 9 → exec (.laneCtlWrite d i v) s = .next (postEvent (clean (fld w 2 0)) 0x0E d i 0 0 0)) ∧
      (1 ≤ t → t ≤ 4 → st ≠ 0 → st ≠ 6 → st ≠ 9 → st ≠ 10 → st ≠ 11 → ∃ u, exec (.laneCtlWrite d i v) s = .next u ∧ (getPort u d l).st = 11 ∧
        u = setPortSt (updPort (stopLanes (portLeave (clean t) d l) d l) d l (fun p =>
          { p with was := none, reserved := false, width := 0, major := 0, minor := 0, txuse := 0, faruse := 0 })) d l 11) ∧
      (t = 0 → st ≠ 11 → exec (.laneCtlWrite d i v) s = .next (clean 0)) ∧
      (t = 0 → st = 11 → (portLanes x l).all (fun j => laneTest (getDie (clean 0) d) j == 0) = true →
        exec (.laneCtlWrite d i v) s = .next (startTrain (clean 0) d l false))) ∧
    (∀ (i m rx : Nat), dieRuns s d = true → i < 96 → laneTest x i ≠ 0 →
      let code := regFld x (rLANE_CTL i) 4 3
      let pre := regFld x (rLANE_CTL i) 5 5 == 1
      let line (v : Nat) : Nat := if (laneOf x i).pol = true then 3 - v % 4 else v % 4
      let r := ((upto m).map (fun k => nbits rx (2 * k + 1) (2 * k))).foldl (fun (a : Lane × List Nat) v =>
        let g := (prbsLevel code pre a.1.prbs).1
        (prbsTake code pre { a.1 with prbs := (prbsLevel code pre a.1.prbs).2 } (if laneTest x i ≤ 2 then g else line v),
          a.2 ++ [if laneTest x i = 3 then line v else g])) (laneOf x i, [])
      let s1 := updLane s d i (fun _ => r.1)
      (∀ l, laneWidthPort x i = some l → (portOf x l).st = 10 → exec (.prbsCheckerLock d i m rx) s = .next s1) ∧
      ((∀ l, laneWidthPort x i = some l → (portOf x l).st ≠ 10) → exec (.prbsCheckerLock d i m rx) s = .next (emit s1 (.control d i 10 r.2)))) ∧
    ∀ (code : Nat) (n : Lane) (b : Bool), prbsLen code ≤ n.prbs.seeded →
      let want := prbsBit code n.prbs.chk
      (n.prbsLock = true → (prbsCheck code n b).prbse = if b = want then n.prbse else satInc (2 ^ 32 - 1) n.prbse) ∧
      (n.prbsLock = false → (prbsCheck code n b).prbse = n.prbse ∧ ((prbsCheck code n b).prbsLock = true ↔ b = want ∧ 255 ≤ n.prbs.good))

/-! Faults and repairs -/

/-- R18 to R20, R106, R142, R143, R153, R219, R338, R355, R412 to R419, R422, R424, R425, R429 to R435, R441, R443, R452: scrubs correct, count and poison
words; what they find three times is repaired; the keep's writes enter its record and presets; faults of units, bridges, dies and the package have the
effects of their classes. What the operands name is log entries 31, 47 and 72's choice; that a code out of a command's range does nothing, entry 2's; an
activity of a lost die ends with entry 16's status. -/
def Obligations.FaultsScrubsAndRepairsTakeEffect : Prop :=
  ∀ (s : State) (d : Nat),
    let x := getDie s d
    let hoop (act unit arg : Nat) : HoopReq := { act := act, dies := [d], op := none, die := d, unit := unit, arg := arg }
    (s.phase ≠ .safe → s.phase ≠ .off → s.phase ≠ .held → d < ndies s.variant → x.flt = 0 → ∀ ces ues rows turned,
      let g := x.gnd
      let cap := gndCap x / 8
      let n := g.latent.length + ces
      let us := (ues.filter (fun w => decide (w < cap))).foldl (fun t w => if w ∈ g.pois then t else sadd t w) g.bad
      let weak := weakPass g.weak rows
      ∃ t, exec (.groundScrub d ces ues rows turned) s = .next t ∧
        (getDie t d).gnd = { g with
          latent := turnedWords turned cap (us.foldl sadd g.pois) false, bad := turnedWords turned cap (us.foldl sadd g.pois) true
          ce := satAdd 0xFFFF g.ce n, ue := satAdd 0xFF g.ue us.length, pois := us.foldl sadd g.pois, weak := weak } ∧
        (getDie t d).faults.c0 = satAdd (2 ^ 32 - 1) x.faults.c0 n ∧
        t.hoopQ = s.hoopQ ++ (rows.filter (fun r => tget weak r 0 == 3)).map (fun r => hoop 5 (r / 1024) (r % 1024 + 1))) ∧
    (s.phase = .up → d < ndies s.variant → x.flt = 0 → x.stk.ready = true → x.stk.selfRef = false → ∀ ces ues rows tested cols chans lines turned,
      let k := x.stk
      let cap := stkCap k / 8
      let n := k.latent.length + ces
      let us := ((ues ++ lineWords lines).filter (fun w => decide (w < cap))).foldl (fun t w => if w ∈ k.pois then t else sadd t w) k.bad
      let weak := weakPass k.weak rows
      let fails := linkFailed s k lines
      ∃ t, exec (.stackPatrolScrub d ces ues rows tested cols chans lines turned) s = .next t ∧
        (getDie t d).stk = { k with
          latent := turnedWords turned cap (us.foldl sadd k.pois) false, bad := turnedWords turned cap (us.foldl sadd k.pois) true
          ce := satAdd 0xFFFF k.ce n, ue := satAdd 0xFF k.ue us.length, pois := us.foldl sadd k.pois, weak := weak, linkFails := fails } ∧
        (getDie t d).faults.c0 = satAdd (2 ^ 32 - 1) x.faults.c0 n ∧
        t.hoopQ = s.hoopQ ++ ((rows.filter (fun r => tget weak r 0 == 3) ++ tested).map (fun r => r * 4) ++ cols.map (fun c => c * 4 + 1) ++
            (chans ++ (upto 32).filter (fun c => decide (3 ≤ (tget fails c []).length))).map (fun c => c * 4 + 2)).map (hoop 3 2)) ∧
    (∀ turned n pois w two, w ∈ turnedWords turned n pois two ↔ w < n ∧ w ∉ pois ∧ 2 * w + (if two = true then 1 else 0) ∈ turned) ∧
    (s.phase ≠ .safe → s.phase ≠ .off → d < ndies s.variant →
      exec (.stackRefresh d) s = .next (updDie s d (fun x => { x with stk := { x.stk with refreshed := (x.stk.refreshed + 1) % 2 ^ 32 } })) ∧
      (∀ deg, ∃ t, exec (.stackTemperature d deg) s = .next t ∧ (getDie t d).stk.temp = min deg 0xFF ∧ ((getDie t d).stk.hotref = true ↔ 85 < deg) ∧
        (95 < deg → (getDie t d).stk.throttle = true) ∧ (deg < 92 → (getDie t d).stk.throttle = false) ∧
        (92 ≤ deg → deg ≤ 95 → (getDie t d).stk.throttle = x.stk.throttle))) ∧
    (s.phase ≠ .safe → s.phase ≠ .off → ∀ c bad, x.stk.copying = some c →
      let s1 := recAdd (updDie s d (fun x => { x with stk := { poisonChannel x.stk c bad with copying := none, spareCh := some c } })) 13 d c 0 32
      let waits (h : HoopReq) : Bool := h.act == 3 && h.die == d && h.st.isSome && !holdOver s1 h
      (s.hoopHold.find? waits = none → exec (.stackChannelCopyComplete d bad) s = .next s1) ∧
      (∀ h, s.hoopHold.find? waits = some h → exec (.stackChannelCopyComplete d bad) s = .next (hoopEnd s1 h .ok (holdTotal s1 h)))) ∧
    (∀ c w, w ∈ (poisonChannel x.stk c [w]).pois ↔ w ∈ x.stk.pois ∨ (w < stkCap x.stk / 8 ∧ (stkSite x.stk (8 * w)).1 = c)) ∧
    (s.phase = .up ∨ s.phase = .standby → ∀ e rest, s.recPending = e :: rest → ∃ t, exec .keepRepairRecordWrite s = .next t ∧ t.recPending = rest ∧
      t.keep.record = (if s.keep.record.length < 4096 then s.keep.record ++ [e] else s.keep.record)) ∧
    (dieRuns s d = true → ∀ l i, portLanes x l = [i] → (portOf x l).st = 5 ∨ (portOf x l).st = 6 →
      let n := laneOf x i
      let k := 96 * d + i
      let keep := { s with keep := { s.keep with presets := tset s.keep.presets k (n.cm1, n.c0, n.cp1), adapts := tset s.keep.adapts k n.adapt, presetAt := tset s.keep.presetAt k s.now } }
      let known := tfind s.keep.presets k = some (n.cm1, n.c0, n.cp1) ∧ tfind s.keep.adapts k = some n.adapt
      (n.trained = true → ¬known → (∀ u, tfind s.keep.presetAt k = some u → u + 3600000000000 ≤ s.now) → exec (.keepPresetWrite d l) s = .next keep) ∧
      (n.trained = false ∨ known → exec (.keepPresetWrite d l) s = .next s) ∧
      (∀ u, tfind s.keep.presetAt k = some u → s.now < u + 3600000000000 → exec (.keepPresetWrite d l) s = .next s)) ∧
    (s.phase = .up → dieLives s d = true → x.flt = 0 → ∀ code u arg,
      let go := exec (.unitFaultC2 d code u arg) s
      let c0 (n : Nat) : State := updDie s d (fun x => { x with faults := { x.faults with c0 := satAdd (2 ^ 32 - 1) x.faults.c0 n } })
      let k := getCore s d u
      (code = 0x02 → go = .next (c0 1)) ∧ (code = 0x03 → go = .next (c0 (min arg 4))) ∧
      (0x20 ≤ code → code ≤ 0x22 → u < 150 → k.retired = false → k.fenced = false →
        let j := if code = 0x20 ∧ arg < 2 then bumpCheck k (128 * arg) else k
        ∃ t, go = .next t ∧
          getCore t d u = { replayJob j with fenced := true, c2 := k.c2 ++ [s.now], image := if code = 0x21 then none else k.image } ∧
          t.hoopQ = s.hoopQ ++ [hoop 4 u 0] ∧ (getDie t d).faults.c2 = satInc 0xFF x.faults.c2 ∧ t.out = (reportFault s 2 1 (256 * d + u) d code 3).out ∧
          (∀ q ∈ (getDie t d).dmas, ∀ w, q.owner ≠ .core u w) ∧ ∀ q ∈ t.engWait, q.src ≠ .core d u) ∧
      (k.run = none → (replayJob k).run = none ∧ (replayJob k).jobs = k.jobs) ∧
      (∀ r, k.run = some r → r.ended ≠ some .aborted → r.ended ≠ some .timeout →
        (r.shared = true → (replayJob k).run = some (strikeRun r .noReplay)) ∧
        (r.shared = false → r.job.replay = true → (replayJob k).run = some (strikeRun r .faulted)) ∧
        (r.shared = false → r.job.replay = false →
          (replayJob k).run = none ∧ (replayJob k).jobs = { r.job with replay := true, pos := jobPos r, instr := r.instr } :: k.jobs)) ∧
      (code = 0x23 → u < 5 → u ∉ x.engFenced →
        let s1 := recAdd (reportFault s 2 2 u d 0x23 4) 15 d (2 * 256 + u) 0 noSpare
        let head := (x.engs.find? (fun q => q.unit == u && q.done.isNone && q.way.isNone)).map (·.id)
        let other := (engUnits (unitEng u)).find? (fun v => v != u && !x.engFenced.contains v)
        go = .next (updDie s1 d (fun x => { x with engFenced := sadd x.engFenced u, engAwake := sdel x.engAwake u, engs := x.engs.map (strikeReq s1 d u head other) })) ∧
        ∀ q, q.unit = u → q.done = none →
          (head ≠ some q.id → strikeReq s1 d u head other q = { q with unit := other.getD u }) ∧
          (head = some q.id → q.replayed = false → strikeReq s1 d u head other q = { q with unit := other.getD u, replayed := true, got := [] }) ∧
          (head = some q.id → q.replayed = true → strikeReq s1 d u head other q = { q with done := some (doneWith .faulted) })) ∧
      (code = 0x24 → u < 2 → u ∉ x.pipeFenced →
        let s1 := updDie (recAdd (reportFault s 2 3 u d 0x24 4) 15 d (3 * 256 + u) 0 noSpare) d (fun x => { x with pipeFenced := sadd x.pipeFenced u })
        go = .next (if x.pipeFenced = [] then s1 else (s1.ctxs.filter (fun c => c.dies.contains d)).foldl (fun s c => ctxStop s c .homeLost) s1)) ∧
      (code = 0x25 → u < 4 → u ∉ x.moverFenced →
        let s1 := updDie (recAdd (reportFault s 2 4 u d 0x25 4) 15 d (4 * 256 + u) 0 noSpare) d (fun x => { x with moverFenced := sadd x.moverFenced u })
        (4 ≤ (sadd x.moverFenced u).length → go = .next (updDie s1 d (fun x => { x with dmas := x.dmas.map (fun q => dmaDead (dmaFail q .engineGone)) }))) ∧
        ((sadd x.moverFenced u).length < 4 → (getDma s d arg = none → go = .next s1) ∧
          ∀ q, getDma s d arg = some q → (q.aborted = true → go = .next s1) ∧
            (q.aborted = false → q.replayed = true → go = .next (updDma s1 d arg (fun q => dmaDead (dmaFail q .faulted)))) ∧
            (q.aborted = false → q.replayed = false →
              let s2 := updDma (setDie s1 d { getDie s1 d with nextId := x.nextId + 1 }) d arg
                (fun q => { q with id := x.nextId, next := 0, units := 0, busy := [], status := .ok, replayed := true, lost := [] })
              go = .next (if dmaOutside q = true then dmaAdvance d x.nextId [] (dmaFuel q) s2 else s2)))) ∧
      (code = 0x26 → (portWidth x u).isSome = true → (getPort s d u).st ≠ 12 → go = .next (portFault (portLeave s d u) d u) ∧
        (getPort (portFault (portLeave s d u) d u) d u).st = 12 ∧ (outOf (getDie (portLeave s d u) d) u).q = []) ∧
      (code = 0x2A →
        let n := tget x.pbRows u 0
        let hs := Config.rowBuffers d u arg
        (n < 4 → go = .next (recAdd (updDie s d (fun x => { x with pbRows := tset x.pbRows u (n + 1) })) 7 d u arg n)) ∧
        (4 ≤ n → go = .next (reportFault (recAdd (updDie s d (fun x => { x with
          pbLost := satInc 0xFF x.pbLost
          pbOut := hs.foldl sadd x.pbOut
          pools := x.pools.map (fun p => (p.1, { p.2 with back := p.2.back.filter (fun h => !hs.contains h) }))
          caches := x.caches.map (fun p => (p.1, p.2.filter (fun h => !hs.contains h))) })) 8 d u arg noSpare) 2 9 u d 0x2A 4))) ∧
      (code ∉ [0x02, 0x03, 0x20, 0x21, 0x22, 0x23, 0x24, 0x25, 0x26, 0x2A] → go = .next s)) ∧
    (dieRuns s d = true → ∀ b g w, g < 16 → w < 65 → (bridgeOf x b).failed = false → (bridgeTo s.variant d b).isSome = true →
      let r := bridgeOf x b
      let n := tget r.spares g 0
      let go (how : Nat) := exec (.bridgeTransferFailure d b g w how) s
      let c0 (s : State) (n : Nat) : State := updDie s d (fun x => { x with faults := { x.faults with c0 := satAdd (2 ^ 32 - 1) x.faults.c0 n } })
      let spare (s : State) : State := recAdd (updBridge s d b (fun r => { r with spares := tset r.spares g 1, corr := tdel r.corr (65 * g + w) })) 9 d b (64 * g + w) 0
      let group (s : State) : State :=
        let t := reportFault (recAdd (updBridge s d b (fun r => { r with groups := (bridgeOf (getDie s d) b).groups - 1, spares := tset r.spares g 2 })) 10 d b g noSpare) 2 6 b d 0x27 4
        if r.groups ≤ 4 then bridgeFailed t d b else t
      let ts := (tget r.corr (65 * g + w) []).filter (fun t => decide (s.now < t + 1000000000)) ++ [s.now]
      let seen := c0 (updBridge s d b (fun r => { r with corr := tset r.corr (65 * g + w) ts })) 1
      (2 ≤ n ∨ (w = 64 ∧ n = 0) → ∀ how, go how = .next s) ∧
      (n < 2 → w < 64 ∨ n = 1 → (∀ how, 1 ≤ how → how ≤ 4 → go how = .next (c0 s how)) ∧ (ts.length < 16 → go 0 = .next seen)) ∧
      (n = 0 → w < 64 → (16 ≤ ts.length → go 0 = .next (spare seen)) ∧ ∀ how, 5 ≤ how → go how = .next (spare (c0 s 4))) ∧
      (n = 1 → (16 ≤ ts.length → go 0 = .next (group seen)) ∧ ∀ how, 5 ≤ how → go how = .next (group (c0 s 4)))) ∧
    exec (.stewardHeartbeatLost d) s = exec (.dieFaultC3 d 0x33) s ∧
    (∀ code, code < 0x30 ∨ 0x36 < code → exec (.dieFaultC3 d code) s = .next s) ∧
    (∀ code, 0x30 ≤ code → code ≤ 0x36 →
      let lvl := if selvage code = true then 1 else 2
      let go := exec (.dieFaultC3 d code) s
      (lvl ≤ x.flt → go = .next s) ∧
      (s.phase ≠ .safe → s.phase ≠ .off → s.phase ≠ .held → d < ndies s.variant → x.flt < lvl →
        (∀ c4, lastFault s d lvl = some c4 → go = exec (.packageFaultC4 c4) s) ∧
        (lastFault s d lvl = none →
          let noCores := (x.cores.map (·.1)).foldl (fun s c =>
            let s1 := leaveKnot s d c
            let s2 := { s1 with engWait := s1.engWait.filter (fun q => q.src != .core d c) }
            let k := getCore s2 d c
            let s3 := setCore s2 d c { k with run := none, jobs := [], aq := [], accq := [], vq := [] }
            let s4 := match k.run with
              | some r => jobRecord (wasteCycles s3 d c r.instr) r.job .coreGone (jobPos r) r.status r.vstatus
              | none => s3
            k.jobs.foldl (fun s j => jobRecord (wasteCycles s d c j.instr) j .coreGone j.pos 0 0) s4) s
          let y := getDie noCores d
          let noEngs := y.engs.foldl (fun s q => commitReq s d q (doneWith .engineGone)) noCores
          let noSets := y.topk.foldl (fun s e =>
            let q : EngReq := { id := 0, req := e.2.req, src := e.2.src, unit := 1, done := none, digest := none, writes := 0, wstatus := .ok, got := [], reads := [],
                                replayed := false, aborted := false, room := e.2.room }
            fireActions (updDie (freeRoom s q) d (fun x => { x with topk := tdel x.topk e.1 })) d q (doneWith .engineGone)) noEngs
          let noDmas := y.dmas.foldl (fun s q =>
            let s1 := updDie s d (fun x => { x with dmas := x.dmas.filter (fun p => p.id != q.id) })
            match q.owner with
            | .op id => completeId s1 id .engineGone q.units
            | .core _ _ => s1) noSets
          let out := updDie noDmas d (fun x => { x with
            flt := lvl, stk := { x.stk with selfRef := x.stk.selfRef || lvl == 1 }, engFenced := upto 5, pipeFenced := upto 2, moverFenced := upto 4 })
          let homes := homeLost (loseHoops out d) d
          let ports := losePorts (resendFrom (dropToward homes d) d) d
          let slice := if lvl = 2 then passLead (updDie ports d (fun x => { x with inbox := [], held := [], adapt := [], outs := [], rxPend := [], txq := [] })) else homes
          let link := dropLink (if regsUp slice = true ∧ itgDie slice.itgActive = d then loseLink slice else slice) d
          let by' := if lvl = 2 then link.lead else d
          let counted := updDie (if lvl = 2 then loseSource link d else link) by' (fun x => { x with faults := { x.faults with c3 := satInc 0xFF x.faults.c3 } })
          let told := faultEvent counted 3 11 d d code (4 + lvl)
          go = .next (retryAll (if lvl = 2 ∧ told.variant = .tx8 ∧ regsUp told = true then
            { told with hoopQ := told.hoopQ ++ [{ hoop 1 0 0 with dies := upto (ndies told.variant) }] } else told)) ∧
          (∀ c, (getCore noCores d c).run = none ∧ (getCore noCores d c).jobs = []) ∧
          (∀ l, (tfind (getDie ports d).ports l).isSome = true → (getPort ports d l).st = 0 ∨ (getPort ports d l).st = 12) ∧
          ∃ os, ports.out = os ++ (upto 96).map (fun i => .control d i 9 fosBody)))) ∧
    (s.phase ≠ .safe → s.phase ≠ .off → (∀ code, 0x40 ≤ code → code ≤ 0x46 → ∃ t, exec (.packageFaultC4 code) s = .next t ∧ t.phase = .safe ∧
        t.out = s.out ++ (allLanes s).map (fun e => .control e.1 e.2 9 (List.replicate 6 (stateOf 12 false) ++ List.replicate 625 0xFF)) ∧
        t.power.alive = false ∧ t.power.aliveHi = alivePin s ∧
        t.keep.faultLog = (if s.keep.faultLog.length < 4096 then s.keep.faultLog ++ [code] else s.keep.faultLog) ∧ ∀ e, e < ndies s.variant →
          (getDie t e).stk.selfRef = true ∧ (getDie t e).inbox = [] ∧ (getDie t e).held = [] ∧ (getDie t e).adapt = [] ∧ (getDie t e).outs = [] ∧
          (getDie t e).rxPend = [] ∧ (getDie t e).txq = []) ∧
      (∀ rail, s.power.porst = false → railWatched s rail = true → exec (.railOutOfRange rail) s = exec (.packageFaultC4 0x40) s) ∧
      (∀ rail, s.power.porst = true ∨ railWatched s rail = false → exec (.railOutOfRange rail) s = .next s) ∧
      exec .ref25Absent s = exec (.packageFaultC4 0x41) s) ∧
    (∀ code, code < 0x40 ∨ 0x46 < code → exec (.packageFaultC4 code) s = .next s)

/-! Power, start-up, the test access port -/

/-- R418, R438, R452 to R464, R505: temperature, power and THROT_N set the duties; idle units sleep; the package enters and leaves Standby, and resets and
the loss of power leave what they are to leave: the keep, and the stacks' contents where their rails stayed. The acknowledgement and the other reset
input's level are operands by log entries 82 and 83; after a reset, what the spec states no value for is entry 1's. -/
def Obligations.PowerStatesDutiesAndResetsFollowTheirCauses : Prop :=
  ∀ (s : State) (d : Nat),
    let x := getDie s d
    let cap := fld (pwrCap s) 10 0
    (s.phase ≠ .off → s.phase ≠ .safe → s.phase ≠ .held → d < ndies s.variant → ∀ tj,
      (x.hotAt = none → ∃ t, exec (.junctionTemperatureSample d tj) s = .next t ∧ (getDie t d).tj = min tj 0xFF ∧
        (getDie t d).tjMax = max (min tj 0xFF) x.tjMax ∧ (105 ≤ tj → (getDie t d).tduty = 2) ∧ (97 ≤ tj → tj < 100 → (getDie t d).tduty = x.tduty) ∧
        (x.tdAt ≤ s.now → 100 ≤ tj → tj < 105 → (getDie t d).tduty = max 2 (x.tduty - 1)) ∧ (x.tdAt ≤ s.now → tj < 97 → (getDie t d).tduty = min 16 (x.tduty + 1)) ∧
        (s.now < x.tdAt → tj < 105 → (getDie t d).tduty = x.tduty) ∧ ((getDie t d).hotAt = if 110 ≤ tj then some s.now else none)) ∧
      (∀ u, x.hotAt = some u → u + 10000 ≤ s.now → 110 ≤ tj → ∃ t, exec (.junctionTemperatureSample d tj) s = .next t ∧ t.phase = .safe)) ∧
    (regsUp s = true → bit (pwrCap s) 11 = true → ∀ w, ∃ t, exec (.powerCapStep w) s = .next t ∧ t.power.watts = min w 0x7FF ∧
      (cap < w → t.power.capDuty = max 2 (s.power.capDuty - 1) ∧
        (∀ u, s.power.capDuty = 2 → s.power.capAt = some u → u + 1000000 ≤ s.now → t.power.capLim = true)) ∧
      (w ≤ cap → 100 * w < 97 * cap → t.power.capDuty = min 16 (s.power.capDuty + 1) ∧ t.power.capLim = false) ∧
      (w ≤ cap → 97 * cap ≤ 100 * w → t.power.capDuty = s.power.capDuty ∧ t.power.capLim = s.power.capLim)) ∧
    (∀ low, exec (.throtNChange low) s = .next { s with power := { s.power with throt := low } }) ∧
    dieDuty s d ≤ x.tduty ∧ (s.power.throt = true → dieDuty s d ≤ 4) ∧
    (s.phase = .up → dieLives s d = true → ∀ rise ack,
      let came := ack || x.vAck
      (came = true → x.vAt ≤ s.now → exec (.avsSetpointStep d rise ack) s = .next (setDie s d { x with
        vset := (if rise = true then min 30 (x.vset + 1) else x.vset - 1), vAt := s.now + 100000, vAck := false })) ∧
      (came = false ∨ s.now < x.vAt → exec (.avsSetpointStep d rise ack) s = .next (setDie s d { x with vAck := came }))) ∧
    (s.phase = .up → d < ndies s.variant →
      (∀ c, c < 150 → (getCore s d c).run = none → (getCore s d c).jobs = [] → exec (.coreIdleSleep d c) s = .next (setCore s d c { getCore s d c with asleep := true })) ∧
      (∀ u, (∀ q ∈ x.engs, q.unit ≠ u) → exec (.engineIdleSleep d u) s = .next (setDie s d { x with engAwake := sdel x.engAwake u }))) ∧
    (regsUp s = true →
      let left (s : State) : State :=
        if s.phase = .up then { s with power := { s.power with entering := false } }
        else { s with power := { s.power with entering := false, coreEn := true, laneEn := true, enAt := if s.power.coreEn = true then s.power.enAt else some s.now } }
      (linkReaches s 0 = true → ∀ wake,
        let s1 := wakeEnWrite s wake
        (mayStandby s1 = true → exec (.pwrCtlStandby wake) s = .next { setTarget s1 1 with power := { s1.power with entering := s1.power.coreEn } }) ∧
        (mayStandby s1 = false → exec (.pwrCtlStandby wake) s = .next { s1 with power := { s1.power with refused := true } }) ∧
        exec (.pwrCtlReady wake) s = .next (left (setTarget s1 2))) ∧
      (s.phase = .standby ∨ s.power.entering = true → bit (regWord (getDie s 0) rPWR_CTL) 2 = true → exec .wakeNAssert s = .next (left s))) ∧
    (s.phase = .up → s.power.entering = true → ∃ t, exec .standbyEntryComplete s = .next t ∧ t.phase = .standby ∧ t.power.entering = false ∧
      t.power.coreEn = false ∧ t.power.laneEn = false ∧ t.power.enAt = none ∧ ∀ e, e < ndies s.variant → (getDie t e).stk.selfRef = true ∧ (getDie t e).engAwake = []) ∧
    (s.phase = .standby → s.power.entering = true → exec .standbyEntryComplete s =
      .next { s with power := { s.power with entering := false, coreEn := false, laneEn := false, enAt := none } }) ∧
    (s.phase = .standby → s.power.coreEn = true → ∃ u, exec .coreRailsInRange s = .next (octetsEmpty u) ∧ u.phase = .up ∧
      ∀ e, e < ndies s.variant → (getDie u e).stk.selfRef = decide ((getDie s e).flt ≠ 0) ∧ (getDie u e).cores = (getDie s e).cores) ∧
    (s.phase ≠ .off → s.phase ≠ .safe →
      (∃ t, exec (.porstNRelease false) s = .next t ∧ exec (.sysrstNRelease false) s = .next t ∧
        t.phase = .booting ∧ t.keep = s.keep ∧ t.variant = s.variant ∧ t.sqs = [] ∧ t.cqs = [] ∧ t.ctxs = [] ∧ t.ops = [] ∧ t.boot = State.reset.boot ∧ t.test.ir = 0x01 ∧
        t.power.porst = false ∧ t.power.sysrst = false ∧
        ∀ e, (tfind s.dies e).isSome = true → ∃ k, getDie t e = { dieReset s.variant e with stk := k } ∧
          (s.power.stkOff = false → k = { (dieReset s.variant e).stk with
            cells := (getDie s e).stk.cells, pois := (getDie s e).stk.pois, latent := (getDie s e).stk.latent, bad := (getDie s e).stk.bad }) ∧
          (s.power.stkOff = true → k = (dieReset s.variant e).stk)) ∧
      exec (.porstNRelease true) s = .next { s with power := { s.power with porst := false, sysrst := true } } ∧
      exec (.sysrstNRelease true) s = .next { s with power := { s.power with porst := true, sysrst := false } }) ∧
    (∃ t, exec .powerOff s = .next t ∧ t.phase = .off ∧ t.keep = s.keep ∧ t.dies = State.reset.dies ∧ t.power.coreEn = false ∧ t.power.laneEn = false ∧
      t.power.drive = false ∧ alivePin t = true ∧ t.power.porst = true ∧ t.power.stkOff = true ∧ t.power.throt = s.power.throt) ∧
    (s.phase = .off → exec .powerUp s = .next { s with phase := .held, power := { s.power with coreEn := true, laneEn := true, drive := true, enAt := some s.now } })
/-- R20, R418, R441, R466 to R468, R472 to R477, R480, R507 to R509: the boot ROMs pick the slot to boot, or the package faults; a die's checks leave its
memories zero; the package is in service once every working die is done; test instructions load and scan, effective only while a reset is held. What the
ROMs find of a factory image is log entry 7's operand, the status of a slot whose valid flag is clear entry 16's, the reset inputs of a boundary
instruction entry 83's. -/
def Obligations.StartUpAndTestAccessTakeEffect : Prop :=
  ∀ (s : State),
    let slot (b : Nat) : FwSlot := if b = 0 then s.keep.a else s.keep.b
    let all := upto (ndies s.variant)
    (∀ stA stB auth,
      let why (b : Nat) : Option Nat := if (slot b).image = [] then (if (if b = 0 then stA else stB) = 0 then none else some (if b = 0 then stA else stB))
        else imageFault (slot b).image (slot b).image.length
      (auth = false → pickSlot s stA stB auth = none) ∧
      (∀ b, b < 2 → (b = 0 ↔ s.keep.pref = 0) → auth = true →
        let fails (b : Nat) : Option Nat := if (slot b).valid = false then some (Config.openStatus 9 b % 2 ^ 16)
          else if (why b).isSome = true then why b else if (slot b).svn < s.keep.arb then some 0x42 else none
        (fails b = none → pickSlot s stA stB auth = some (b, false, 0)) ∧
        (∀ st, fails b = some st → fails (1 - b) = none → pickSlot s stA stB auth = some (1 - b, true, st)) ∧
        (∀ st st', fails b = some st → fails (1 - b) = some st' → pickSlot s stA stB auth = none))) ∧
    (s.phase = .booting → s.boot.verified = false → ∀ ids bad stA stB,
      let seed := Config.seedOf s.keep.ident
      let have' := all.filter (fun d => ids.contains d && decide ((getDie s d).flt < 2))
      let pick := pickSlot s stA stB (s.keep.tags == arbTags seed s.keep.arb && !have'.isEmpty)
      let go := exec (.firmwareVerify ids bad stA stB) s
      (have' = [] ∨ pick = none → go = exec (.packageFaultC4 0x43) s) ∧
      (∀ lead rest b fb why, have' = lead :: rest → pick = some (b, fb, why) →
        let lost := all.filter (fun d => bad.contains d && d != lead)
        go = .next (applyRecord (lost.foldl (fun s d => dieFault s d 0x33) { s with
          lead := lead
          boot := { s.boot with
            verified := true, slot := b, fallback := fb, failing := why, ids := have', noIds := all.filter (fun d => !have'.contains d && !lost.contains d)
            fenced := lost, uid := uidOf seed, seed := some seed, svn := (slot b).svn, meas := (slot b).meas }
          power := { s.power with alive := true, aliveAt := s.now } })))) ∧
    (∀ d found, s.phase = .booting → s.boot.verified = true → d < ndies s.variant → d ∉ s.boot.checked → (getDie s d).flt ≠ 2 →
      ∃ t u, exec (.bootChecksComplete d found) s = .next t ∧ u = found.foldl (bootFinding d) { s with boot := { s.boot with checked := sadd s.boot.checked d } } ∧
        (getDie t d).gnd = { (getDie u d).gnd with cells := [], pois := [], latent := [], bad := [] } ∧ (∀ e, e ≠ d → getDie t e = getDie u e) ∧
        ∀ c, (tfind (getDie t d).cores c).isSome = true → (getCore t d c).scratch = [] ∧ (getCore t d c).acc = [] ∧ (getCore t d c).image = none) ∧
    (∀ d, s.phase = .booting → s.power.stkOff = true → bootDie s d = true → (getDie s d).stk.ready = false → exec (.stackZeroFillComplete d) s =
      .next (updDie s d (fun x => { x with stk := { x.stk with cells := [], pois := [], latent := [], bad := [], ready := true } }))) ∧
    (s.phase = .booting → (bootReady s = false → ∀ a b, exec (.bootComplete a b) s = .next s) ∧
      (bootReady s = true → ∀ a b, 0 < a → a ≤ 16 → (getDie s 0).flt = 0 → ∃ t, exec (.bootComplete a b) s = .next t ∧ t.phase = .up ∧ t.boot.booted = true ∧
        t.itgActive = 0 ∧ 0 ∈ t.itgUp ∧ t.power.stkOff = false ∧ t.keep = s.keep ∧ ∀ d, d < ndies s.variant → (getDie t d).stk.ready = true ∧
          ∀ i, i < 96 →
            let c := startCoeffs s d i
            let n := laneOf (getDie t d) i
            n.preset = c.2 ∧ n.cm1 = c.1.1 ∧ n.c0 = c.1.2.1 ∧ n.cp1 = c.1.2.2) ∧
      (bootReady s = true → ∀ b, s.variant ≠ .tx8 → exec (.bootComplete 0 b) s = exec (.packageFaultC4 0x45) s)) ∧
    (s.phase ≠ .off → ∀ pins v low code,
      let n := 2 ^ boundaryLen s.variant
      let s1 : State := { s with power := { s.power with porst := s.power.porst || low.testBit 0, sysrst := s.power.sysrst || low.testBit 1 } }
      let load (s : State) (ir : Nat) : State := { s with test := { s.test with ir := ir } }
      let scan (s : State) (ir : Nat) : State := { s with test := { s.test with ir := ir, cells := v % n }, out := s.out ++ [.test (pins % n)] }
      boundaryLen s.variant = 12 + 528 * ndies s.variant + 68 + (if s.variant = .tx8 then 64 else 0) ∧
      idcode s.variant = (match s.variant with | .tx8 => 0x178085CB | .tx4 => 0x178045CB | .tx2 => 0x178025CB) ∧
      exec .testLogicReset s = .next (load s 0x01) ∧
      exec .idcode s = .next { load s 0x01 with out := s.out ++ [.test (idcode s.variant)] } ∧
      (1 ≤ code % 256 → code % 256 ≤ 7 → exec (.bypass code) s = .next s) ∧
      (code % 256 = 0 ∨ 7 < code % 256 → exec (.bypass code) s = .next (load s 0xFF)) ∧
      (s.phase ≠ .safe → exec (.samplePreload pins v) s = .next (scan s 0x02) ∧
        (resetHeld s1 = true → exec (.extest pins v low) s = .next (scan s1 0x03) ∧ exec (.extestPulse pins v low) s = .next (scan s1 0x04) ∧
          exec (.extestTrain pins v low) s = .next (scan s1 0x05) ∧ exec (.highz low) s = .next (load s1 0x06) ∧ exec (.clamp low) s = .next (load s1 0x07))) ∧
      (s.phase = .safe → exec (.samplePreload pins v) s = .next (load s 0xFF)) ∧
      (s.phase = .safe ∨ resetHeld s1 = false → exec (.extest pins v low) s = .next (load s1 0xFF) ∧ exec (.extestPulse pins v low) s = .next (load s1 0xFF) ∧
        exec (.extestTrain pins v low) s = .next (load s1 0xFF) ∧ exec (.highz low) s = .next (load s1 0xFF) ∧ exec (.clamp low) s = .next (load s1 0xFF)) ∧
      (∀ e i, e < ndies s.variant → i < 96 →
        laneCell s.variant e i 0 = 12 + 528 * e + (if e = 0 then 0 else 68) + 4 * i ∧
        ∀ b, (96 * e + i, b) ∈ drivenLanes s ↔
          s.test.cells.testBit (laneCell s.variant e i 1) = true ∧ s.test.cells.testBit (laneCell s.variant e i 0) = b)) ∧
    (s.phase = .off → ∀ code, exec .idcode s = .next s ∧ exec (.bypass code) s = .next s ∧ exec .testLogicReset s = .next s)

/-! The block -/

/-- A step takes the command at the front of the queue and answers what it does with the rest of the queue; with no command waiting, the clocks advance by
20 ns of the always-on clock (R377; that this is what an empty queue does is log entry 3's choice). -/
def Obligations.AStepExecutesTheFirstWaitingCommand : Prop :=
  (∀ (s : State) (c : Instr) (rest : List Instr), step { s with pending := c :: rest } = exec c { s with pending := rest }) ∧
  (∀ s : State, s.pending = [] → step s = .next (tick s) ∧ (tick s).now = s.now + 20) ∧
  (∀ (s : State) (nbits w : Nat), s.withFetchWord nbits w = s)

/-- R158, R223, R262, R292, R308, R316, R376, R377, R406, R449, R466, R507 and the register tables: after reset nothing waits, runs or is held, rings are
disabled, tables empty, counters zero, and registers hold their tables' reset values; KeepHolds at reset is log entries 1 and 7's choice. -/
def Obligations.ResetLeavesItsValues : Prop :=
  let s := State.reset
  s.phase = .booting ∧ s.boot.booted = false ∧ s.pending = [] ∧ s.ops = [] ∧ s.recs = [] ∧ s.ctxs = [] ∧ s.hoopHold = [] ∧ s.drain.stage = 0 ∧ s.drain.epoch = 0 ∧
  s.tabs.shape = none ∧ s.tabs.trunk = [] ∧ s.tabs.grants = [] ∧ s.ev.en = false ∧ s.evLost = 0 ∧ s.time.st = 0 ∧ s.time.fadj = 0 ∧ timeValid s = false ∧ s.test.ir = 0x01 ∧
  (∀ q, (getSq s q).state = 0 ∧ (getSq s q).head = 0 ∧ (getSq s q).tail = 0 ∧ (getCq s q).state = 0 ∧ (getCq s q).tail = 0) ∧
  (∀ d k, (getKnot s d k).cfg = 0x4 ∧ (getKnot s d k).time = 0x2814 ∧ (getKnot s d k).gen = 0) ∧
  (∀ d, let x := getDie s d
    x.flt = 0 ∧ x.clock = 0 ∧ x.inbox = [] ∧ x.engs = [] ∧ x.dmas = [] ∧ x.holdoff = true ∧ x.tduty = 16 ∧ Memory.wf x.gnd.cells = true ∧ Memory.wf x.stk.cells = true ∧
    (∀ c, (getCore s d c).run = none ∧ (getCore s d c).jobs = [] ∧ (getCore s d c).asleep = true) ∧
    (∀ l, (outOf x l).q = [] ∧ (getPort s d l).gate = none) ∧
    (∀ n, dieCnt x n = 0) ∧
    regWord x rGND_LAYOUT = 0x20 ∧ regWord x rENG_SEED_LO = 0 ∧ regWord x rENG_SEED_HI = 0 ∧ regWord x rFAB_SELF = 0 ∧ regWord x rFAB_TIMERS = 0x28414F10 ∧
    regWord x rFAB_ROUTE = 0x65 ∧ regWord x rFAB_VCRES = 0x01004488 ∧ regWord x rSW_SAMPLE = 0x4 ∧ regWord x rTIME_CFG = 0x00119028 ∧ regWord x rPORT_TIMERS = 0x0008100A ∧
    (∀ l, l < 96 → regWord x (rSW_PORT l 0) = 0x26534)) ∧
  KeepHolds .tx8 1 0 s

/-- R470, R480: from every state, every step keeps the package's variant and identity seed, never lowers the anti-rollback counter, and takes exactly the first
command from the queue; the counter rises only by the commit of a firmware activity that is neither STAGE nor SELECT. -/
def Obligations.TheKeepOutlivesEveryStep : Prop :=
  (∀ (v : Variant) (i k : Nat) (s t : State), KeepHolds v i k s → step s = .next t → KeepHolds v i k t) ∧
  ∀ s t : State, step s = .next t → t.pending = s.pending.tail ∧
    (t.keep.arb ≠ s.keep.arb → ∃ d found ext rest h, s.pending = .hoopActivityCommit 7 d found ext :: rest ∧
      s.hoopHold.find? (fun h => h.act == 7 && !holdOver s h) = some h ∧ h.unit ≠ 0 ∧ h.unit ≠ 1)
end

