-- ==== Sys2Proof/Laws/Memory.lean ====
section
/-! SUPPORT. Byte memories: a read after a write, and that every memory operation keeps the canonical form. -/

namespace Sys2Proof.Laws

open Sys2Proof.Machine

/-! One byte -/

theorem memGet_filter (m : List Host.Cell) (a e : Nat) : memGet (m.filter (fun c => c.1 != a)) e = if e = a then 0 else memGet m e := by
  induction m with
  | nil => simp only [List.filter_nil, memGet, ite_self]
  | cons p m ih =>
    obtain ⟨k, c⟩ := p
    simp only [List.filter_cons, memGet]
    by_cases h : k = a
    · subst h; simp only [bne_self_eq_false, Bool.false_eq_true, if_false, ih]; grind
    · have hk : (k != a) = true := by simpa using h
      simp only [hk, if_true, memGet, ih]; grind

theorem memGet_memIns (m : List Host.Cell) (a e : Nat) (b : Byte) : memGet (memIns m a b) e = if e = a then b else memGet m e := by
  induction m with
  | nil => simp only [memIns, memGet, eq_comm]
  | cons p m ih =>
    obtain ⟨k, c⟩ := p
    simp only [memIns]
    split
    · simp only [memGet]; grind
    · split
      · simp only [memGet]; grind
      · simp only [memGet, ih]; grind

/-- A byte written is read back and no other byte changes. -/
theorem memGet_memSet (m : List Host.Cell) (a e : Nat) (b : Byte) : memGet (memSet m a b) e = if e = a then b else memGet m e := by
  unfold memSet
  split
  · next h => rw [memGet_filter, h]
  · exact memGet_memIns m a e b

theorem memWfFrom_mono {lo hi : Nat} {m : List Host.Cell} (h : memWfFrom hi m = true) (hl : lo ≤ hi) : memWfFrom lo m = true := by
  cases m with
  | nil => rfl
  | cons p m =>
    obtain ⟨k, c⟩ := p
    simp only [memWfFrom, Bool.and_eq_true, decide_eq_true_eq] at h ⊢
    exact ⟨⟨by omega, h.1.2⟩, h.2⟩

theorem memWfFrom_filter (m : List Host.Cell) (f : Host.Cell → Bool) (lo : Nat) (h : memWfFrom lo m = true) :
    memWfFrom lo (m.filter f) = true := by
  induction m generalizing lo with
  | nil => rfl
  | cons p m ih =>
    obtain ⟨k, c⟩ := p
    simp only [memWfFrom, Bool.and_eq_true, decide_eq_true_eq] at h
    simp only [List.filter_cons]
    split
    · simp only [memWfFrom, Bool.and_eq_true, decide_eq_true_eq]
      exact ⟨h.1, ih _ h.2⟩
    · exact memWfFrom_mono (ih _ h.2) (by omega)

theorem memWfFrom_memIns (m : List Host.Cell) (a : Nat) (b : Byte) (lo : Nat) (hb : b ≠ 0) (h : memWfFrom lo m = true) (ha : lo ≤ a) :
    memWfFrom lo (memIns m a b) = true := by
  have hb' : (b != 0) = true := by simpa using hb
  induction m generalizing lo with
  | nil => simp only [memIns, memWfFrom, hb', ha, decide_true, Bool.and_self]
  | cons p m ih =>
    obtain ⟨k, c⟩ := p
    simp only [memWfFrom, Bool.and_eq_true, decide_eq_true_eq] at h
    obtain ⟨⟨h1, h2⟩, h3⟩ := h
    simp only [memIns]
    split
    · simp only [memWfFrom, Bool.and_eq_true, decide_eq_true_eq]
      exact ⟨⟨ha, hb'⟩, ⟨⟨by omega, h2⟩, h3⟩⟩
    · split
      · simp only [memWfFrom, Bool.and_eq_true, decide_eq_true_eq]
        subst_vars
        exact ⟨⟨h1, hb'⟩, h3⟩
      · simp only [memWfFrom, Bool.and_eq_true, decide_eq_true_eq]
        exact ⟨⟨h1, h2⟩, ih (k + 1) h3 (by omega)⟩

/-- A write of one byte keeps the canonical form. -/
theorem memSet_wf (m : List Host.Cell) (a : Nat) (b : Byte) (h : Memory.wf m = true) : Memory.wf (memSet m a b) = true := by
  unfold memSet
  split
  · exact memWfFrom_filter m _ 0 h
  · exact memWfFrom_memIns m a b 0 (by assumption) h (Nat.zero_le a)

/-! A range of bytes -/

/-- A write of a range keeps the canonical form. -/
theorem memWrite_wf (m : List Host.Cell) (a : Nat) (bs : List Byte) (h : Memory.wf m = true) : Memory.wf (memWrite m a bs) = true := by
  induction bs generalizing m a with
  | nil => exact h
  | cons b bs ih => exact ih _ _ (memSet_wf m a b h)

/-- A range written reads back, and every byte outside it is unchanged. -/
theorem memGet_memWrite (m : List Host.Cell) (a e : Nat) (bs : List Byte) :
    memGet (memWrite m a bs) e = if a ≤ e ∧ e < a + bs.length then nth bs (e - a) 0 else memGet m e := by
  induction bs generalizing m a with
  | nil => rw [if_neg (by simp only [List.length_nil]; omega)]; rfl
  | cons b bs ih =>
    simp only [memWrite]
    rw [ih, memGet_memSet]
    simp only [List.length_cons]
    by_cases h1 : e = a
    · subst h1
      rw [if_neg (by omega), if_pos rfl, if_pos (by omega), Nat.sub_self]; rfl
    · by_cases h2 : a + 1 ≤ e ∧ e < a + 1 + bs.length
      · rw [if_pos h2, if_pos (by omega)]
        have : e - a = (e - (a + 1)) + 1 := by omega
        rw [this]; rfl
      · rw [if_neg h2, if_neg h1, if_neg (by omega)]

theorem memRead_eq_map (m : List Host.Cell) (a n : Nat) : memRead m a n = (List.range n).map (fun j => memGet m (a + j)) := by
  induction n generalizing a with
  | zero => rfl
  | succ n ih =>
    simp only [memRead, ih, List.range_succ_eq_map, List.map_cons, List.map_map, Nat.add_zero]
    congr 1
    apply List.map_congr_left
    intro j _
    simp only [Function.comp, Nat.succ_eq_add_one]
    congr 1; omega

theorem memRead_length (m : List Host.Cell) (a n : Nat) : (memRead m a n).length = n := by
  induction n generalizing a with
  | zero => rfl
  | succ n ih => simp only [memRead, List.length_cons, ih]

/-- A range written is what is read from it. -/
theorem memRead_memWrite (m : List Host.Cell) (a : Nat) (bs : List Byte) :
    memRead (memWrite m a bs) a bs.length = bs := by
  induction bs generalizing m a with
  | nil => rfl
  | cons b bs ih =>
    simp only [List.length_cons, memRead, memWrite]
    rw [ih, memGet_memWrite, if_neg (by omega), memGet_memSet, if_pos rfl]

theorem toLe_length (n v : Nat) : (toLe n v).length = n := by
  induction n generalizing v with
  | zero => rfl
  | succ n ih => simp only [toLe, List.length_cons, ih]

/-! The memories of a die -/

/-- A write to ground memory keeps the canonical form of its bytes. -/
theorem gndWrite_wf (g : Ground) (off : Nat) (bs : List Byte) (h : Memory.wf g.cells = true) : Memory.wf (gndWrite g off bs).cells = true :=
  memWrite_wf g.cells off bs h

/-- An empty memory has the canonical form. -/
theorem empty_wf : Memory.wf [] = true := rfl

end Sys2Proof.Laws
end

