-- ==== Sys2Proof/Laws/State.lean ====
section
/-! SUPPORT. Reading a state after an update: what each update of the state leaves in each field, each by rfl; reading a table, a die, a core or a
ring that has been written. -/

namespace Sys2Proof.Laws

open Sys2Proof.Machine

/-! Tables -/

theorem tfind_tset {α : Type} (t : Tbl α) (i j : Nat) (v : α) : tfind (tset t i v) j = if j = i then some v else tfind t j := by
  induction t with
  | nil => simp only [tset, tfind, eq_comm]
  | cons p t ih =>
    obtain ⟨k, w⟩ := p
    simp only [tset]
    split
    · simp only [tfind]; grind
    · split
      · simp only [tfind]; grind
      · simp only [tfind, ih]; grind

theorem tget_tset {α : Type} (t : Tbl α) (i j : Nat) (v d : α) : tget (tset t i v) j d = if j = i then v else tget t j d := by
  simp only [tget, tfind_tset]; split <;> rfl

@[simp] theorem tget_tset_same {α : Type} (t : Tbl α) (i : Nat) (v d : α) : tget (tset t i v) i d = v := by
  rw [tget_tset, if_pos rfl]

/-- An entry that is listed is an entry of the table. -/
theorem tfind_mem {α : Type} {t : Tbl α} {i : Nat} {v : α} (h : tfind t i = some v) : (i, v) ∈ t := by
  induction t with
  | nil => cases h
  | cons p t ih =>
    obtain ⟨k, w⟩ := p
    simp only [tfind] at h
    split at h
    · cases h; subst_vars; exact List.mem_cons_self
    · exact List.mem_cons_of_mem _ (ih h)

/-! Dies, cores, rings -/

theorem getDie_setDie (s : State) (d e : Nat) (x : Die) : getDie (setDie s d x) e = if e = d then x else getDie s e :=
  tget_tset s.dies d e x _

@[simp] theorem getDie_setDie_same (s : State) (d : Nat) (x : Die) : getDie (setDie s d x) d = x := by
  rw [getDie_setDie, if_pos rfl]

theorem getDie_updDie (s : State) (d e : Nat) (f : Die → Die) :
    getDie (updDie s d f) e = if e = d then f (getDie s d) else getDie s e := getDie_setDie s d e _

@[simp] theorem getDie_updDie_same (s : State) (d : Nat) (f : Die → Die) : getDie (updDie s d f) d = f (getDie s d) := by
  rw [getDie_updDie, if_pos rfl]

theorem getDie_setCore (s : State) (d c e : Nat) (k : Core) :
    getDie (setCore s d c k) e = if e = d then { getDie s d with cores := tset (getDie s d).cores c k } else getDie s e :=
  getDie_updDie s d e _

theorem getCore_setCore (s : State) (d c e b : Nat) (k : Core) :
    getCore (setCore s d c k) e b = if e = d ∧ b = c then k else getCore s e b := by
  simp only [getCore, coreOf, getDie_setCore]
  by_cases h : e = d
  · subst h; simp only [if_true, tget_tset, true_and]
  · simp only [h, if_false, false_and]

@[simp] theorem getCore_setCore_same (s : State) (d c : Nat) (k : Core) : getCore (setCore s d c k) d c = k := by
  rw [getCore_setCore, if_pos ⟨rfl, rfl⟩]

theorem getSq_setSq (s : State) (q p : Nat) (r : SubRing) : getSq (setSq s q r) p = if p = q then r else getSq s p :=
  tget_tset s.sqs q p r _

@[simp] theorem getSq_setSq_same (s : State) (q : Nat) (r : SubRing) : getSq (setSq s q r) q = r := by rw [getSq_setSq, if_pos rfl]

theorem getCq_setCq (s : State) (q p : Nat) (r : ComRing) : getCq (setCq s q r) p = if p = q then r else getCq s p :=
  tget_tset s.cqs q p r _

@[simp] theorem getCq_setCq_same (s : State) (q : Nat) (r : ComRing) : getCq (setCq s q r) q = r := by rw [getCq_setCq, if_pos rfl]

/-! Registers of a core (R96) -/

theorem greg_setReg (k : Core) (i j : Nat) (v : Word64) : greg (setReg k i v) j = if j = i ∧ i ≠ 0 then v else greg k j := by
  simp only [greg, setReg]
  by_cases hi : i = 0
  · simp only [hi, if_true, ne_eq, not_true_eq_false, and_false, if_false]
  · by_cases hj : j = 0
    · simp only [hj, if_true]; grind
    · simp only [hi, hj, if_false, tget_tset]; grind

@[simp] theorem greg_zero (k : Core) : greg k 0 = 0 := rfl

/-! Each field after each update -/

@[simp] theorem setDie_variant (s : State) (d : Nat) (x : Die) : (setDie s d x).variant = s.variant := rfl
@[simp] theorem setDie_phase (s : State) (d : Nat) (x : Die) : (setDie s d x).phase = s.phase := rfl
@[simp] theorem setDie_pending (s : State) (d : Nat) (x : Die) : (setDie s d x).pending = s.pending := rfl
@[simp] theorem setDie_out (s : State) (d : Nat) (x : Die) : (setDie s d x).out = s.out := rfl
@[simp] theorem setDie_fresh (s : State) (d : Nat) (x : Die) : (setDie s d x).fresh = s.fresh := rfl
@[simp] theorem setDie_now (s : State) (d : Nat) (x : Die) : (setDie s d x).now = s.now := rfl
@[simp] theorem setDie_ops (s : State) (d : Nat) (x : Die) : (setDie s d x).ops = s.ops := rfl
@[simp] theorem setDie_recs (s : State) (d : Nat) (x : Die) : (setDie s d x).recs = s.recs := rfl
@[simp] theorem setDie_sqs (s : State) (d : Nat) (x : Die) : (setDie s d x).sqs = s.sqs := rfl
@[simp] theorem setDie_cqs (s : State) (d : Nat) (x : Die) : (setDie s d x).cqs = s.cqs := rfl
@[simp] theorem setDie_ev (s : State) (d : Nat) (x : Die) : (setDie s d x).ev = s.ev := rfl
@[simp] theorem setDie_evLost (s : State) (d : Nat) (x : Die) : (setDie s d x).evLost = s.evLost := rfl
@[simp] theorem setDie_evFlag (s : State) (d : Nat) (x : Die) : (setDie s d x).evFlag = s.evFlag := rfl
@[simp] theorem setDie_engWait (s : State) (d : Nat) (x : Die) : (setDie s d x).engWait = s.engWait := rfl
@[simp] theorem setDie_hoopHold (s : State) (d : Nat) (x : Die) : (setDie s d x).hoopHold = s.hoopHold := rfl
@[simp] theorem setDie_hoopQ (s : State) (d : Nat) (x : Die) : (setDie s d x).hoopQ = s.hoopQ := rfl
@[simp] theorem setDie_pknots (s : State) (d : Nat) (x : Die) : (setDie s d x).pknots = s.pknots := rfl
@[simp] theorem setDie_tabs (s : State) (d : Nat) (x : Die) : (setDie s d x).tabs = s.tabs := rfl
@[simp] theorem setDie_stagedTabs (s : State) (d : Nat) (x : Die) : (setDie s d x).stagedTabs = s.stagedTabs := rfl
@[simp] theorem setDie_drain (s : State) (d : Nat) (x : Die) : (setDie s d x).drain = s.drain := rfl
@[simp] theorem setDie_warm (s : State) (d : Nat) (x : Die) : (setDie s d x).warm = s.warm := rfl
@[simp] theorem setDie_ctxs (s : State) (d : Nat) (x : Die) : (setDie s d x).ctxs = s.ctxs := rfl
@[simp] theorem setDie_itgActive (s : State) (d : Nat) (x : Die) : (setDie s d x).itgActive = s.itgActive := rfl
@[simp] theorem setDie_itgUp (s : State) (d : Nat) (x : Die) : (setDie s d x).itgUp = s.itgUp := rfl
@[simp] theorem setDie_itgWidth (s : State) (d : Nat) (x : Die) : (setDie s d x).itgWidth = s.itgWidth := rfl
@[simp] theorem setDie_itgAuto (s : State) (d : Nat) (x : Die) : (setDie s d x).itgAuto = s.itgAuto := rfl
@[simp] theorem setDie_itgFail (s : State) (d : Nat) (x : Die) : (setDie s d x).itgFail = s.itgFail := rfl
@[simp] theorem setDie_itgLost (s : State) (d : Nat) (x : Die) : (setDie s d x).itgLost = s.itgLost := rfl
@[simp] theorem setDie_itgWait (s : State) (d : Nat) (x : Die) : (setDie s d x).itgWait = s.itgWait := rfl
@[simp] theorem setDie_lead (s : State) (d : Nat) (x : Die) : (setDie s d x).lead = s.lead := rfl
@[simp] theorem setDie_locked (s : State) (d : Nat) (x : Die) : (setDie s d x).locked = s.locked := rfl
@[simp] theorem setDie_time (s : State) (d : Nat) (x : Die) : (setDie s d x).time = s.time := rfl
@[simp] theorem setDie_power (s : State) (d : Nat) (x : Die) : (setDie s d x).power = s.power := rfl
@[simp] theorem setDie_boot (s : State) (d : Nat) (x : Die) : (setDie s d x).boot = s.boot := rfl
@[simp] theorem setDie_keep (s : State) (d : Nat) (x : Die) : (setDie s d x).keep = s.keep := rfl
@[simp] theorem setDie_recPending (s : State) (d : Nat) (x : Die) : (setDie s d x).recPending = s.recPending := rfl
@[simp] theorem setDie_test (s : State) (d : Nat) (x : Die) : (setDie s d x).test = s.test := rfl
@[simp] theorem updDie_variant (s : State) (d : Nat) (f : Die → Die) : (updDie s d f).variant = s.variant := rfl
@[simp] theorem updDie_phase (s : State) (d : Nat) (f : Die → Die) : (updDie s d f).phase = s.phase := rfl
@[simp] theorem updDie_pending (s : State) (d : Nat) (f : Die → Die) : (updDie s d f).pending = s.pending := rfl
@[simp] theorem updDie_out (s : State) (d : Nat) (f : Die → Die) : (updDie s d f).out = s.out := rfl
@[simp] theorem updDie_fresh (s : State) (d : Nat) (f : Die → Die) : (updDie s d f).fresh = s.fresh := rfl
@[simp] theorem updDie_now (s : State) (d : Nat) (f : Die → Die) : (updDie s d f).now = s.now := rfl
@[simp] theorem updDie_ops (s : State) (d : Nat) (f : Die → Die) : (updDie s d f).ops = s.ops := rfl
@[simp] theorem updDie_recs (s : State) (d : Nat) (f : Die → Die) : (updDie s d f).recs = s.recs := rfl
@[simp] theorem updDie_sqs (s : State) (d : Nat) (f : Die → Die) : (updDie s d f).sqs = s.sqs := rfl
@[simp] theorem updDie_cqs (s : State) (d : Nat) (f : Die → Die) : (updDie s d f).cqs = s.cqs := rfl
@[simp] theorem updDie_ev (s : State) (d : Nat) (f : Die → Die) : (updDie s d f).ev = s.ev := rfl
@[simp] theorem updDie_evLost (s : State) (d : Nat) (f : Die → Die) : (updDie s d f).evLost = s.evLost := rfl
@[simp] theorem updDie_evFlag (s : State) (d : Nat) (f : Die → Die) : (updDie s d f).evFlag = s.evFlag := rfl
@[simp] theorem updDie_engWait (s : State) (d : Nat) (f : Die → Die) : (updDie s d f).engWait = s.engWait := rfl
@[simp] theorem updDie_hoopHold (s : State) (d : Nat) (f : Die → Die) : (updDie s d f).hoopHold = s.hoopHold := rfl
@[simp] theorem updDie_hoopQ (s : State) (d : Nat) (f : Die → Die) : (updDie s d f).hoopQ = s.hoopQ := rfl
@[simp] theorem updDie_pknots (s : State) (d : Nat) (f : Die → Die) : (updDie s d f).pknots = s.pknots := rfl
@[simp] theorem updDie_tabs (s : State) (d : Nat) (f : Die → Die) : (updDie s d f).tabs = s.tabs := rfl
@[simp] theorem updDie_stagedTabs (s : State) (d : Nat) (f : Die → Die) : (updDie s d f).stagedTabs = s.stagedTabs := rfl
@[simp] theorem updDie_drain (s : State) (d : Nat) (f : Die → Die) : (updDie s d f).drain = s.drain := rfl
@[simp] theorem updDie_warm (s : State) (d : Nat) (f : Die → Die) : (updDie s d f).warm = s.warm := rfl
@[simp] theorem updDie_ctxs (s : State) (d : Nat) (f : Die → Die) : (updDie s d f).ctxs = s.ctxs := rfl
@[simp] theorem updDie_itgActive (s : State) (d : Nat) (f : Die → Die) : (updDie s d f).itgActive = s.itgActive := rfl
@[simp] theorem updDie_itgUp (s : State) (d : Nat) (f : Die → Die) : (updDie s d f).itgUp = s.itgUp := rfl
@[simp] theorem updDie_itgWidth (s : State) (d : Nat) (f : Die → Die) : (updDie s d f).itgWidth = s.itgWidth := rfl
@[simp] theorem updDie_itgAuto (s : State) (d : Nat) (f : Die → Die) : (updDie s d f).itgAuto = s.itgAuto := rfl
@[simp] theorem updDie_itgFail (s : State) (d : Nat) (f : Die → Die) : (updDie s d f).itgFail = s.itgFail := rfl
@[simp] theorem updDie_itgLost (s : State) (d : Nat) (f : Die → Die) : (updDie s d f).itgLost = s.itgLost := rfl
@[simp] theorem updDie_itgWait (s : State) (d : Nat) (f : Die → Die) : (updDie s d f).itgWait = s.itgWait := rfl
@[simp] theorem updDie_lead (s : State) (d : Nat) (f : Die → Die) : (updDie s d f).lead = s.lead := rfl
@[simp] theorem updDie_locked (s : State) (d : Nat) (f : Die → Die) : (updDie s d f).locked = s.locked := rfl
@[simp] theorem updDie_time (s : State) (d : Nat) (f : Die → Die) : (updDie s d f).time = s.time := rfl
@[simp] theorem updDie_power (s : State) (d : Nat) (f : Die → Die) : (updDie s d f).power = s.power := rfl
@[simp] theorem updDie_boot (s : State) (d : Nat) (f : Die → Die) : (updDie s d f).boot = s.boot := rfl
@[simp] theorem updDie_keep (s : State) (d : Nat) (f : Die → Die) : (updDie s d f).keep = s.keep := rfl
@[simp] theorem updDie_recPending (s : State) (d : Nat) (f : Die → Die) : (updDie s d f).recPending = s.recPending := rfl
@[simp] theorem updDie_test (s : State) (d : Nat) (f : Die → Die) : (updDie s d f).test = s.test := rfl
@[simp] theorem setCore_variant (s : State) (d c : Nat) (k : Core) : (setCore s d c k).variant = s.variant := rfl
@[simp] theorem setCore_phase (s : State) (d c : Nat) (k : Core) : (setCore s d c k).phase = s.phase := rfl
@[simp] theorem setCore_pending (s : State) (d c : Nat) (k : Core) : (setCore s d c k).pending = s.pending := rfl
@[simp] theorem setCore_out (s : State) (d c : Nat) (k : Core) : (setCore s d c k).out = s.out := rfl
@[simp] theorem setCore_fresh (s : State) (d c : Nat) (k : Core) : (setCore s d c k).fresh = s.fresh := rfl
@[simp] theorem setCore_now (s : State) (d c : Nat) (k : Core) : (setCore s d c k).now = s.now := rfl
@[simp] theorem setCore_ops (s : State) (d c : Nat) (k : Core) : (setCore s d c k).ops = s.ops := rfl
@[simp] theorem setCore_recs (s : State) (d c : Nat) (k : Core) : (setCore s d c k).recs = s.recs := rfl
@[simp] theorem setCore_sqs (s : State) (d c : Nat) (k : Core) : (setCore s d c k).sqs = s.sqs := rfl
@[simp] theorem setCore_cqs (s : State) (d c : Nat) (k : Core) : (setCore s d c k).cqs = s.cqs := rfl
@[simp] theorem setCore_ev (s : State) (d c : Nat) (k : Core) : (setCore s d c k).ev = s.ev := rfl
@[simp] theorem setCore_evLost (s : State) (d c : Nat) (k : Core) : (setCore s d c k).evLost = s.evLost := rfl
@[simp] theorem setCore_evFlag (s : State) (d c : Nat) (k : Core) : (setCore s d c k).evFlag = s.evFlag := rfl
@[simp] theorem setCore_engWait (s : State) (d c : Nat) (k : Core) : (setCore s d c k).engWait = s.engWait := rfl
@[simp] theorem setCore_hoopHold (s : State) (d c : Nat) (k : Core) : (setCore s d c k).hoopHold = s.hoopHold := rfl
@[simp] theorem setCore_hoopQ (s : State) (d c : Nat) (k : Core) : (setCore s d c k).hoopQ = s.hoopQ := rfl
@[simp] theorem setCore_pknots (s : State) (d c : Nat) (k : Core) : (setCore s d c k).pknots = s.pknots := rfl
@[simp] theorem setCore_tabs (s : State) (d c : Nat) (k : Core) : (setCore s d c k).tabs = s.tabs := rfl
@[simp] theorem setCore_stagedTabs (s : State) (d c : Nat) (k : Core) : (setCore s d c k).stagedTabs = s.stagedTabs := rfl
@[simp] theorem setCore_drain (s : State) (d c : Nat) (k : Core) : (setCore s d c k).drain = s.drain := rfl
@[simp] theorem setCore_warm (s : State) (d c : Nat) (k : Core) : (setCore s d c k).warm = s.warm := rfl
@[simp] theorem setCore_ctxs (s : State) (d c : Nat) (k : Core) : (setCore s d c k).ctxs = s.ctxs := rfl
@[simp] theorem setCore_itgActive (s : State) (d c : Nat) (k : Core) : (setCore s d c k).itgActive = s.itgActive := rfl
@[simp] theorem setCore_itgUp (s : State) (d c : Nat) (k : Core) : (setCore s d c k).itgUp = s.itgUp := rfl
@[simp] theorem setCore_itgWidth (s : State) (d c : Nat) (k : Core) : (setCore s d c k).itgWidth = s.itgWidth := rfl
@[simp] theorem setCore_itgAuto (s : State) (d c : Nat) (k : Core) : (setCore s d c k).itgAuto = s.itgAuto := rfl
@[simp] theorem setCore_itgFail (s : State) (d c : Nat) (k : Core) : (setCore s d c k).itgFail = s.itgFail := rfl
@[simp] theorem setCore_itgLost (s : State) (d c : Nat) (k : Core) : (setCore s d c k).itgLost = s.itgLost := rfl
@[simp] theorem setCore_itgWait (s : State) (d c : Nat) (k : Core) : (setCore s d c k).itgWait = s.itgWait := rfl
@[simp] theorem setCore_lead (s : State) (d c : Nat) (k : Core) : (setCore s d c k).lead = s.lead := rfl
@[simp] theorem setCore_locked (s : State) (d c : Nat) (k : Core) : (setCore s d c k).locked = s.locked := rfl
@[simp] theorem setCore_time (s : State) (d c : Nat) (k : Core) : (setCore s d c k).time = s.time := rfl
@[simp] theorem setCore_power (s : State) (d c : Nat) (k : Core) : (setCore s d c k).power = s.power := rfl
@[simp] theorem setCore_boot (s : State) (d c : Nat) (k : Core) : (setCore s d c k).boot = s.boot := rfl
@[simp] theorem setCore_keep (s : State) (d c : Nat) (k : Core) : (setCore s d c k).keep = s.keep := rfl
@[simp] theorem setCore_recPending (s : State) (d c : Nat) (k : Core) : (setCore s d c k).recPending = s.recPending := rfl
@[simp] theorem setCore_test (s : State) (d c : Nat) (k : Core) : (setCore s d c k).test = s.test := rfl
@[simp] theorem updCore_variant (s : State) (d c : Nat) (f : Core → Core) : (updCore s d c f).variant = s.variant := rfl
@[simp] theorem updCore_phase (s : State) (d c : Nat) (f : Core → Core) : (updCore s d c f).phase = s.phase := rfl
@[simp] theorem updCore_pending (s : State) (d c : Nat) (f : Core → Core) : (updCore s d c f).pending = s.pending := rfl
@[simp] theorem updCore_out (s : State) (d c : Nat) (f : Core → Core) : (updCore s d c f).out = s.out := rfl
@[simp] theorem updCore_fresh (s : State) (d c : Nat) (f : Core → Core) : (updCore s d c f).fresh = s.fresh := rfl
@[simp] theorem updCore_now (s : State) (d c : Nat) (f : Core → Core) : (updCore s d c f).now = s.now := rfl
@[simp] theorem updCore_ops (s : State) (d c : Nat) (f : Core → Core) : (updCore s d c f).ops = s.ops := rfl
@[simp] theorem updCore_recs (s : State) (d c : Nat) (f : Core → Core) : (updCore s d c f).recs = s.recs := rfl
@[simp] theorem updCore_sqs (s : State) (d c : Nat) (f : Core → Core) : (updCore s d c f).sqs = s.sqs := rfl
@[simp] theorem updCore_cqs (s : State) (d c : Nat) (f : Core → Core) : (updCore s d c f).cqs = s.cqs := rfl
@[simp] theorem updCore_ev (s : State) (d c : Nat) (f : Core → Core) : (updCore s d c f).ev = s.ev := rfl
@[simp] theorem updCore_evLost (s : State) (d c : Nat) (f : Core → Core) : (updCore s d c f).evLost = s.evLost := rfl
@[simp] theorem updCore_evFlag (s : State) (d c : Nat) (f : Core → Core) : (updCore s d c f).evFlag = s.evFlag := rfl
@[simp] theorem updCore_engWait (s : State) (d c : Nat) (f : Core → Core) : (updCore s d c f).engWait = s.engWait := rfl
@[simp] theorem updCore_hoopHold (s : State) (d c : Nat) (f : Core → Core) : (updCore s d c f).hoopHold = s.hoopHold := rfl
@[simp] theorem updCore_hoopQ (s : State) (d c : Nat) (f : Core → Core) : (updCore s d c f).hoopQ = s.hoopQ := rfl
@[simp] theorem updCore_pknots (s : State) (d c : Nat) (f : Core → Core) : (updCore s d c f).pknots = s.pknots := rfl
@[simp] theorem updCore_tabs (s : State) (d c : Nat) (f : Core → Core) : (updCore s d c f).tabs = s.tabs := rfl
@[simp] theorem updCore_stagedTabs (s : State) (d c : Nat) (f : Core → Core) : (updCore s d c f).stagedTabs = s.stagedTabs := rfl
@[simp] theorem updCore_drain (s : State) (d c : Nat) (f : Core → Core) : (updCore s d c f).drain = s.drain := rfl
@[simp] theorem updCore_warm (s : State) (d c : Nat) (f : Core → Core) : (updCore s d c f).warm = s.warm := rfl
@[simp] theorem updCore_ctxs (s : State) (d c : Nat) (f : Core → Core) : (updCore s d c f).ctxs = s.ctxs := rfl
@[simp] theorem updCore_itgActive (s : State) (d c : Nat) (f : Core → Core) : (updCore s d c f).itgActive = s.itgActive := rfl
@[simp] theorem updCore_itgUp (s : State) (d c : Nat) (f : Core → Core) : (updCore s d c f).itgUp = s.itgUp := rfl
@[simp] theorem updCore_itgWidth (s : State) (d c : Nat) (f : Core → Core) : (updCore s d c f).itgWidth = s.itgWidth := rfl
@[simp] theorem updCore_itgAuto (s : State) (d c : Nat) (f : Core → Core) : (updCore s d c f).itgAuto = s.itgAuto := rfl
@[simp] theorem updCore_itgFail (s : State) (d c : Nat) (f : Core → Core) : (updCore s d c f).itgFail = s.itgFail := rfl
@[simp] theorem updCore_itgLost (s : State) (d c : Nat) (f : Core → Core) : (updCore s d c f).itgLost = s.itgLost := rfl
@[simp] theorem updCore_itgWait (s : State) (d c : Nat) (f : Core → Core) : (updCore s d c f).itgWait = s.itgWait := rfl
@[simp] theorem updCore_lead (s : State) (d c : Nat) (f : Core → Core) : (updCore s d c f).lead = s.lead := rfl
@[simp] theorem updCore_locked (s : State) (d c : Nat) (f : Core → Core) : (updCore s d c f).locked = s.locked := rfl
@[simp] theorem updCore_time (s : State) (d c : Nat) (f : Core → Core) : (updCore s d c f).time = s.time := rfl
@[simp] theorem updCore_power (s : State) (d c : Nat) (f : Core → Core) : (updCore s d c f).power = s.power := rfl
@[simp] theorem updCore_boot (s : State) (d c : Nat) (f : Core → Core) : (updCore s d c f).boot = s.boot := rfl
@[simp] theorem updCore_keep (s : State) (d c : Nat) (f : Core → Core) : (updCore s d c f).keep = s.keep := rfl
@[simp] theorem updCore_recPending (s : State) (d c : Nat) (f : Core → Core) : (updCore s d c f).recPending = s.recPending := rfl
@[simp] theorem updCore_test (s : State) (d c : Nat) (f : Core → Core) : (updCore s d c f).test = s.test := rfl
@[simp] theorem emit_variant (s : State) (o : Out) : (emit s o).variant = s.variant := rfl
@[simp] theorem emit_phase (s : State) (o : Out) : (emit s o).phase = s.phase := rfl
@[simp] theorem emit_pending (s : State) (o : Out) : (emit s o).pending = s.pending := rfl
@[simp] theorem emit_fresh (s : State) (o : Out) : (emit s o).fresh = s.fresh := rfl
@[simp] theorem emit_now (s : State) (o : Out) : (emit s o).now = s.now := rfl
@[simp] theorem emit_dies (s : State) (o : Out) : (emit s o).dies = s.dies := rfl
@[simp] theorem emit_ops (s : State) (o : Out) : (emit s o).ops = s.ops := rfl
@[simp] theorem emit_recs (s : State) (o : Out) : (emit s o).recs = s.recs := rfl
@[simp] theorem emit_sqs (s : State) (o : Out) : (emit s o).sqs = s.sqs := rfl
@[simp] theorem emit_cqs (s : State) (o : Out) : (emit s o).cqs = s.cqs := rfl
@[simp] theorem emit_ev (s : State) (o : Out) : (emit s o).ev = s.ev := rfl
@[simp] theorem emit_evLost (s : State) (o : Out) : (emit s o).evLost = s.evLost := rfl
@[simp] theorem emit_evFlag (s : State) (o : Out) : (emit s o).evFlag = s.evFlag := rfl
@[simp] theorem emit_engWait (s : State) (o : Out) : (emit s o).engWait = s.engWait := rfl
@[simp] theorem emit_hoopHold (s : State) (o : Out) : (emit s o).hoopHold = s.hoopHold := rfl
@[simp] theorem emit_hoopQ (s : State) (o : Out) : (emit s o).hoopQ = s.hoopQ := rfl
@[simp] theorem emit_pknots (s : State) (o : Out) : (emit s o).pknots = s.pknots := rfl
@[simp] theorem emit_tabs (s : State) (o : Out) : (emit s o).tabs = s.tabs := rfl
@[simp] theorem emit_stagedTabs (s : State) (o : Out) : (emit s o).stagedTabs = s.stagedTabs := rfl
@[simp] theorem emit_drain (s : State) (o : Out) : (emit s o).drain = s.drain := rfl
@[simp] theorem emit_warm (s : State) (o : Out) : (emit s o).warm = s.warm := rfl
@[simp] theorem emit_ctxs (s : State) (o : Out) : (emit s o).ctxs = s.ctxs := rfl
@[simp] theorem emit_itgActive (s : State) (o : Out) : (emit s o).itgActive = s.itgActive := rfl
@[simp] theorem emit_itgUp (s : State) (o : Out) : (emit s o).itgUp = s.itgUp := rfl
@[simp] theorem emit_itgWidth (s : State) (o : Out) : (emit s o).itgWidth = s.itgWidth := rfl
@[simp] theorem emit_itgAuto (s : State) (o : Out) : (emit s o).itgAuto = s.itgAuto := rfl
@[simp] theorem emit_itgFail (s : State) (o : Out) : (emit s o).itgFail = s.itgFail := rfl
@[simp] theorem emit_itgLost (s : State) (o : Out) : (emit s o).itgLost = s.itgLost := rfl
@[simp] theorem emit_itgWait (s : State) (o : Out) : (emit s o).itgWait = s.itgWait := rfl
@[simp] theorem emit_lead (s : State) (o : Out) : (emit s o).lead = s.lead := rfl
@[simp] theorem emit_locked (s : State) (o : Out) : (emit s o).locked = s.locked := rfl
@[simp] theorem emit_time (s : State) (o : Out) : (emit s o).time = s.time := rfl
@[simp] theorem emit_power (s : State) (o : Out) : (emit s o).power = s.power := rfl
@[simp] theorem emit_boot (s : State) (o : Out) : (emit s o).boot = s.boot := rfl
@[simp] theorem emit_keep (s : State) (o : Out) : (emit s o).keep = s.keep := rfl
@[simp] theorem emit_recPending (s : State) (o : Out) : (emit s o).recPending = s.recPending := rfl
@[simp] theorem emit_test (s : State) (o : Out) : (emit s o).test = s.test := rfl
@[simp] theorem emits_variant (s : State) (o : List Out) : (emits s o).variant = s.variant := rfl
@[simp] theorem emits_phase (s : State) (o : List Out) : (emits s o).phase = s.phase := rfl
@[simp] theorem emits_pending (s : State) (o : List Out) : (emits s o).pending = s.pending := rfl
@[simp] theorem emits_fresh (s : State) (o : List Out) : (emits s o).fresh = s.fresh := rfl
@[simp] theorem emits_now (s : State) (o : List Out) : (emits s o).now = s.now := rfl
@[simp] theorem emits_dies (s : State) (o : List Out) : (emits s o).dies = s.dies := rfl
@[simp] theorem emits_ops (s : State) (o : List Out) : (emits s o).ops = s.ops := rfl
@[simp] theorem emits_recs (s : State) (o : List Out) : (emits s o).recs = s.recs := rfl
@[simp] theorem emits_sqs (s : State) (o : List Out) : (emits s o).sqs = s.sqs := rfl
@[simp] theorem emits_cqs (s : State) (o : List Out) : (emits s o).cqs = s.cqs := rfl
@[simp] theorem emits_ev (s : State) (o : List Out) : (emits s o).ev = s.ev := rfl
@[simp] theorem emits_evLost (s : State) (o : List Out) : (emits s o).evLost = s.evLost := rfl
@[simp] theorem emits_evFlag (s : State) (o : List Out) : (emits s o).evFlag = s.evFlag := rfl
@[simp] theorem emits_engWait (s : State) (o : List Out) : (emits s o).engWait = s.engWait := rfl
@[simp] theorem emits_hoopHold (s : State) (o : List Out) : (emits s o).hoopHold = s.hoopHold := rfl
@[simp] theorem emits_hoopQ (s : State) (o : List Out) : (emits s o).hoopQ = s.hoopQ := rfl
@[simp] theorem emits_pknots (s : State) (o : List Out) : (emits s o).pknots = s.pknots := rfl
@[simp] theorem emits_tabs (s : State) (o : List Out) : (emits s o).tabs = s.tabs := rfl
@[simp] theorem emits_stagedTabs (s : State) (o : List Out) : (emits s o).stagedTabs = s.stagedTabs := rfl
@[simp] theorem emits_drain (s : State) (o : List Out) : (emits s o).drain = s.drain := rfl
@[simp] theorem emits_warm (s : State) (o : List Out) : (emits s o).warm = s.warm := rfl
@[simp] theorem emits_ctxs (s : State) (o : List Out) : (emits s o).ctxs = s.ctxs := rfl
@[simp] theorem emits_itgActive (s : State) (o : List Out) : (emits s o).itgActive = s.itgActive := rfl
@[simp] theorem emits_itgUp (s : State) (o : List Out) : (emits s o).itgUp = s.itgUp := rfl
@[simp] theorem emits_itgWidth (s : State) (o : List Out) : (emits s o).itgWidth = s.itgWidth := rfl
@[simp] theorem emits_itgAuto (s : State) (o : List Out) : (emits s o).itgAuto = s.itgAuto := rfl
@[simp] theorem emits_itgFail (s : State) (o : List Out) : (emits s o).itgFail = s.itgFail := rfl
@[simp] theorem emits_itgLost (s : State) (o : List Out) : (emits s o).itgLost = s.itgLost := rfl
@[simp] theorem emits_itgWait (s : State) (o : List Out) : (emits s o).itgWait = s.itgWait := rfl
@[simp] theorem emits_lead (s : State) (o : List Out) : (emits s o).lead = s.lead := rfl
@[simp] theorem emits_locked (s : State) (o : List Out) : (emits s o).locked = s.locked := rfl
@[simp] theorem emits_time (s : State) (o : List Out) : (emits s o).time = s.time := rfl
@[simp] theorem emits_power (s : State) (o : List Out) : (emits s o).power = s.power := rfl
@[simp] theorem emits_boot (s : State) (o : List Out) : (emits s o).boot = s.boot := rfl
@[simp] theorem emits_keep (s : State) (o : List Out) : (emits s o).keep = s.keep := rfl
@[simp] theorem emits_recPending (s : State) (o : List Out) : (emits s o).recPending = s.recPending := rfl
@[simp] theorem emits_test (s : State) (o : List Out) : (emits s o).test = s.test := rfl
@[simp] theorem setSq_variant (s : State) (q : Nat) (r : SubRing) : (setSq s q r).variant = s.variant := rfl
@[simp] theorem setSq_phase (s : State) (q : Nat) (r : SubRing) : (setSq s q r).phase = s.phase := rfl
@[simp] theorem setSq_pending (s : State) (q : Nat) (r : SubRing) : (setSq s q r).pending = s.pending := rfl
@[simp] theorem setSq_out (s : State) (q : Nat) (r : SubRing) : (setSq s q r).out = s.out := rfl
@[simp] theorem setSq_fresh (s : State) (q : Nat) (r : SubRing) : (setSq s q r).fresh = s.fresh := rfl
@[simp] theorem setSq_now (s : State) (q : Nat) (r : SubRing) : (setSq s q r).now = s.now := rfl
@[simp] theorem setSq_dies (s : State) (q : Nat) (r : SubRing) : (setSq s q r).dies = s.dies := rfl
@[simp] theorem setSq_ops (s : State) (q : Nat) (r : SubRing) : (setSq s q r).ops = s.ops := rfl
@[simp] theorem setSq_recs (s : State) (q : Nat) (r : SubRing) : (setSq s q r).recs = s.recs := rfl
@[simp] theorem setSq_cqs (s : State) (q : Nat) (r : SubRing) : (setSq s q r).cqs = s.cqs := rfl
@[simp] theorem setSq_ev (s : State) (q : Nat) (r : SubRing) : (setSq s q r).ev = s.ev := rfl
@[simp] theorem setSq_evLost (s : State) (q : Nat) (r : SubRing) : (setSq s q r).evLost = s.evLost := rfl
@[simp] theorem setSq_evFlag (s : State) (q : Nat) (r : SubRing) : (setSq s q r).evFlag = s.evFlag := rfl
@[simp] theorem setSq_engWait (s : State) (q : Nat) (r : SubRing) : (setSq s q r).engWait = s.engWait := rfl
@[simp] theorem setSq_hoopHold (s : State) (q : Nat) (r : SubRing) : (setSq s q r).hoopHold = s.hoopHold := rfl
@[simp] theorem setSq_hoopQ (s : State) (q : Nat) (r : SubRing) : (setSq s q r).hoopQ = s.hoopQ := rfl
@[simp] theorem setSq_pknots (s : State) (q : Nat) (r : SubRing) : (setSq s q r).pknots = s.pknots := rfl
@[simp] theorem setSq_tabs (s : State) (q : Nat) (r : SubRing) : (setSq s q r).tabs = s.tabs := rfl
@[simp] theorem setSq_stagedTabs (s : State) (q : Nat) (r : SubRing) : (setSq s q r).stagedTabs = s.stagedTabs := rfl
@[simp] theorem setSq_drain (s : State) (q : Nat) (r : SubRing) : (setSq s q r).drain = s.drain := rfl
@[simp] theorem setSq_warm (s : State) (q : Nat) (r : SubRing) : (setSq s q r).warm = s.warm := rfl
@[simp] theorem setSq_ctxs (s : State) (q : Nat) (r : SubRing) : (setSq s q r).ctxs = s.ctxs := rfl
@[simp] theorem setSq_itgActive (s : State) (q : Nat) (r : SubRing) : (setSq s q r).itgActive = s.itgActive := rfl
@[simp] theorem setSq_itgUp (s : State) (q : Nat) (r : SubRing) : (setSq s q r).itgUp = s.itgUp := rfl
@[simp] theorem setSq_itgWidth (s : State) (q : Nat) (r : SubRing) : (setSq s q r).itgWidth = s.itgWidth := rfl
@[simp] theorem setSq_itgAuto (s : State) (q : Nat) (r : SubRing) : (setSq s q r).itgAuto = s.itgAuto := rfl
@[simp] theorem setSq_itgFail (s : State) (q : Nat) (r : SubRing) : (setSq s q r).itgFail = s.itgFail := rfl
@[simp] theorem setSq_itgLost (s : State) (q : Nat) (r : SubRing) : (setSq s q r).itgLost = s.itgLost := rfl
@[simp] theorem setSq_itgWait (s : State) (q : Nat) (r : SubRing) : (setSq s q r).itgWait = s.itgWait := rfl
@[simp] theorem setSq_lead (s : State) (q : Nat) (r : SubRing) : (setSq s q r).lead = s.lead := rfl
@[simp] theorem setSq_locked (s : State) (q : Nat) (r : SubRing) : (setSq s q r).locked = s.locked := rfl
@[simp] theorem setSq_time (s : State) (q : Nat) (r : SubRing) : (setSq s q r).time = s.time := rfl
@[simp] theorem setSq_power (s : State) (q : Nat) (r : SubRing) : (setSq s q r).power = s.power := rfl
@[simp] theorem setSq_boot (s : State) (q : Nat) (r : SubRing) : (setSq s q r).boot = s.boot := rfl
@[simp] theorem setSq_keep (s : State) (q : Nat) (r : SubRing) : (setSq s q r).keep = s.keep := rfl
@[simp] theorem setSq_recPending (s : State) (q : Nat) (r : SubRing) : (setSq s q r).recPending = s.recPending := rfl
@[simp] theorem setSq_test (s : State) (q : Nat) (r : SubRing) : (setSq s q r).test = s.test := rfl
@[simp] theorem setCq_variant (s : State) (q : Nat) (r : ComRing) : (setCq s q r).variant = s.variant := rfl
@[simp] theorem setCq_phase (s : State) (q : Nat) (r : ComRing) : (setCq s q r).phase = s.phase := rfl
@[simp] theorem setCq_pending (s : State) (q : Nat) (r : ComRing) : (setCq s q r).pending = s.pending := rfl
@[simp] theorem setCq_out (s : State) (q : Nat) (r : ComRing) : (setCq s q r).out = s.out := rfl
@[simp] theorem setCq_fresh (s : State) (q : Nat) (r : ComRing) : (setCq s q r).fresh = s.fresh := rfl
@[simp] theorem setCq_now (s : State) (q : Nat) (r : ComRing) : (setCq s q r).now = s.now := rfl
@[simp] theorem setCq_dies (s : State) (q : Nat) (r : ComRing) : (setCq s q r).dies = s.dies := rfl
@[simp] theorem setCq_ops (s : State) (q : Nat) (r : ComRing) : (setCq s q r).ops = s.ops := rfl
@[simp] theorem setCq_recs (s : State) (q : Nat) (r : ComRing) : (setCq s q r).recs = s.recs := rfl
@[simp] theorem setCq_sqs (s : State) (q : Nat) (r : ComRing) : (setCq s q r).sqs = s.sqs := rfl
@[simp] theorem setCq_ev (s : State) (q : Nat) (r : ComRing) : (setCq s q r).ev = s.ev := rfl
@[simp] theorem setCq_evLost (s : State) (q : Nat) (r : ComRing) : (setCq s q r).evLost = s.evLost := rfl
@[simp] theorem setCq_evFlag (s : State) (q : Nat) (r : ComRing) : (setCq s q r).evFlag = s.evFlag := rfl
@[simp] theorem setCq_engWait (s : State) (q : Nat) (r : ComRing) : (setCq s q r).engWait = s.engWait := rfl
@[simp] theorem setCq_hoopHold (s : State) (q : Nat) (r : ComRing) : (setCq s q r).hoopHold = s.hoopHold := rfl
@[simp] theorem setCq_hoopQ (s : State) (q : Nat) (r : ComRing) : (setCq s q r).hoopQ = s.hoopQ := rfl
@[simp] theorem setCq_pknots (s : State) (q : Nat) (r : ComRing) : (setCq s q r).pknots = s.pknots := rfl
@[simp] theorem setCq_tabs (s : State) (q : Nat) (r : ComRing) : (setCq s q r).tabs = s.tabs := rfl
@[simp] theorem setCq_stagedTabs (s : State) (q : Nat) (r : ComRing) : (setCq s q r).stagedTabs = s.stagedTabs := rfl
@[simp] theorem setCq_drain (s : State) (q : Nat) (r : ComRing) : (setCq s q r).drain = s.drain := rfl
@[simp] theorem setCq_warm (s : State) (q : Nat) (r : ComRing) : (setCq s q r).warm = s.warm := rfl
@[simp] theorem setCq_ctxs (s : State) (q : Nat) (r : ComRing) : (setCq s q r).ctxs = s.ctxs := rfl
@[simp] theorem setCq_itgActive (s : State) (q : Nat) (r : ComRing) : (setCq s q r).itgActive = s.itgActive := rfl
@[simp] theorem setCq_itgUp (s : State) (q : Nat) (r : ComRing) : (setCq s q r).itgUp = s.itgUp := rfl
@[simp] theorem setCq_itgWidth (s : State) (q : Nat) (r : ComRing) : (setCq s q r).itgWidth = s.itgWidth := rfl
@[simp] theorem setCq_itgAuto (s : State) (q : Nat) (r : ComRing) : (setCq s q r).itgAuto = s.itgAuto := rfl
@[simp] theorem setCq_itgFail (s : State) (q : Nat) (r : ComRing) : (setCq s q r).itgFail = s.itgFail := rfl
@[simp] theorem setCq_itgLost (s : State) (q : Nat) (r : ComRing) : (setCq s q r).itgLost = s.itgLost := rfl
@[simp] theorem setCq_itgWait (s : State) (q : Nat) (r : ComRing) : (setCq s q r).itgWait = s.itgWait := rfl
@[simp] theorem setCq_lead (s : State) (q : Nat) (r : ComRing) : (setCq s q r).lead = s.lead := rfl
@[simp] theorem setCq_locked (s : State) (q : Nat) (r : ComRing) : (setCq s q r).locked = s.locked := rfl
@[simp] theorem setCq_time (s : State) (q : Nat) (r : ComRing) : (setCq s q r).time = s.time := rfl
@[simp] theorem setCq_power (s : State) (q : Nat) (r : ComRing) : (setCq s q r).power = s.power := rfl
@[simp] theorem setCq_boot (s : State) (q : Nat) (r : ComRing) : (setCq s q r).boot = s.boot := rfl
@[simp] theorem setCq_keep (s : State) (q : Nat) (r : ComRing) : (setCq s q r).keep = s.keep := rfl
@[simp] theorem setCq_recPending (s : State) (q : Nat) (r : ComRing) : (setCq s q r).recPending = s.recPending := rfl
@[simp] theorem setCq_test (s : State) (q : Nat) (r : ComRing) : (setCq s q r).test = s.test := rfl

@[simp] theorem emit_out (s : State) (o : Out) : (emit s o).out = s.out ++ [o] := rfl
@[simp] theorem emits_out (s : State) (o : List Out) : (emits s o).out = s.out ++ o := rfl
@[simp] theorem getDie_emit (s : State) (o : Out) (d : Nat) : getDie (emit s o) d = getDie s d := rfl
@[simp] theorem getDie_emits (s : State) (o : List Out) (d : Nat) : getDie (emits s o) d = getDie s d := rfl
@[simp] theorem getDie_setSq (s : State) (q : Nat) (r : SubRing) (d : Nat) : getDie (setSq s q r) d = getDie s d := rfl
@[simp] theorem getDie_setCq (s : State) (q : Nat) (r : ComRing) (d : Nat) : getDie (setCq s q r) d = getDie s d := rfl
@[simp] theorem getCore_emit (s : State) (o : Out) (d c : Nat) : getCore (emit s o) d c = getCore s d c := rfl

/-! Stores and interrupts on the link (R355), positions (R367), events: what they can change -/

/-- What a store to the companion or an interrupt can do: it leaves, or waits for the link. -/
def SentOnly (s t : State) : Prop := ∃ os wait, t = { s with out := s.out ++ os, itgWait := wait }

theorem sentOnly_refl (s : State) : SentOnly s s := ⟨[], s.itgWait, by rw [List.append_nil]⟩

theorem sentOnly_trans {s t u : State} (h1 : SentOnly s t) (h2 : SentOnly t u) : SentOnly s u := by
  obtain ⟨_, _, rfl⟩ := h1; obtain ⟨_, _, rfl⟩ := h2
  exact ⟨_, _, by rw [List.append_assoc]⟩

theorem linkStore_sent (s : State) (a : Nat) (bs : List Byte) : SentOnly s (linkStore s a bs) := by
  unfold linkStore; split
  · exact ⟨[], _, by rw [List.append_nil]⟩
  · exact ⟨_, _, rfl⟩

theorem linkIrq_sent (s : State) (v : Nat) : SentOnly s (linkIrq s v) := by
  unfold linkIrq; split
  · exact ⟨[], _, by rw [List.append_nil]⟩
  · exact ⟨_, s.itgWait, rfl⟩

theorem progressEntry_sent (s : State) (q idx pos total : Nat) (done : Bool) : SentOnly s (progressEntry s q idx pos total done) := by
  unfold progressEntry; dsimp only; split
  · exact linkStore_sent ..
  · exact sentOnly_refl s

theorem putProgress_sent (s : State) (o : Op) (done : Bool) : SentOnly s (putProgress s o done) := progressEntry_sent ..

/-- What a new position of an operation can do: its entry is sent. -/
theorem setPos_only (s : State) (id pos : Nat) : ∃ ops, SentOnly { s with ops := ops } (setPos s id pos) := by
  unfold setPos
  split
  · exact ⟨s.ops, sentOnly_refl s⟩
  · dsimp only
    split
    · exact ⟨_, putProgress_sent ..⟩
    · exact ⟨_, sentOnly_refl _⟩

theorem tellPos_only (s : State) (d c : Nat) : ∃ ops, SentOnly { s with ops := ops } (tellPos s d c) := by
  unfold tellPos
  split
  · split
    · exact setPos_only ..
    · exact ⟨s.ops, sentOnly_refl s⟩
  · exact ⟨s.ops, sentOnly_refl s⟩

@[simp] theorem getDie_tellPos (s : State) (d c e : Nat) : getDie (tellPos s d c) e = getDie s e := by
  obtain ⟨_, _, _, h⟩ := tellPos_only s d c
  rw [h]; rfl

@[simp] theorem getCore_tellPos (s : State) (d c e b : Nat) : getCore (tellPos s d c) e b = getCore s e b := by
  simp only [getCore, getDie_tellPos]

/-- What an event can do. -/
theorem postEvent_only (s : State) (code die d0 d1 d2 d3 : Nat) :
    ∃ ev lost flag, SentOnly { s with ev := ev, evLost := lost, evFlag := flag } (postEvent s code die d0 d1 d2 d3) := by
  unfold postEvent
  extract_lets r j t bytes
  split
  · exact ⟨_, _, _, sentOnly_refl _⟩
  · generalize countRecord _ = p
    obtain ⟨r', irq⟩ := p
    dsimp only
    split
    · exact ⟨_, _, _, sentOnly_trans (linkStore_sent ..) (linkIrq_sent ..)⟩
    · exact ⟨_, _, _, linkStore_sent ..⟩

@[simp] theorem setReg_phys (k : Core) (i : Nat) (v : Word64) : (setReg k i v).phys = k.phys := by simp only [setReg]; split <;> rfl
@[simp] theorem setReg_retired (k : Core) (i : Nat) (v : Word64) : (setReg k i v).retired = k.retired := by simp only [setReg]; split <;> rfl
@[simp] theorem setReg_asleep (k : Core) (i : Nat) (v : Word64) : (setReg k i v).asleep = k.asleep := by simp only [setReg]; split <;> rfl
@[simp] theorem setReg_testing (k : Core) (i : Nat) (v : Word64) : (setReg k i v).testing = k.testing := by simp only [setReg]; split <;> rfl
@[simp] theorem setReg_fenced (k : Core) (i : Nat) (v : Word64) : (setReg k i v).fenced = k.fenced := by simp only [setReg]; split <;> rfl
@[simp] theorem setReg_c2 (k : Core) (i : Nat) (v : Word64) : (setReg k i v).c2 = k.c2 := by simp only [setReg]; split <;> rfl
@[simp] theorem setReg_image (k : Core) (i : Nat) (v : Word64) : (setReg k i v).image = k.image := by simp only [setReg]; split <;> rfl
@[simp] theorem setReg_scratch (k : Core) (i : Nat) (v : Word64) : (setReg k i v).scratch = k.scratch := by simp only [setReg]; split <;> rfl
@[simp] theorem setReg_acc (k : Core) (i : Nat) (v : Word64) : (setReg k i v).acc = k.acc := by simp only [setReg]; split <;> rfl
@[simp] theorem setReg_slots (k : Core) (i : Nat) (v : Word64) : (setReg k i v).slots = k.slots := by simp only [setReg]; split <;> rfl
@[simp] theorem setReg_convs (k : Core) (i : Nat) (v : Word64) : (setReg k i v).convs = k.convs := by simp only [setReg]; split <;> rfl
@[simp] theorem setReg_jobs (k : Core) (i : Nat) (v : Word64) : (setReg k i v).jobs = k.jobs := by simp only [setReg]; split <;> rfl
@[simp] theorem setReg_run (k : Core) (i : Nat) (v : Word64) : (setReg k i v).run = k.run := by simp only [setReg]; split <;> rfl
@[simp] theorem setReg_weights (k : Core) (i : Nat) (v : Word64) : (setReg k i v).weights = k.weights := by simp only [setReg]; split <;> rfl
@[simp] theorem setReg_aq (k : Core) (i : Nat) (v : Word64) : (setReg k i v).aq = k.aq := by simp only [setReg]; split <;> rfl
@[simp] theorem setReg_accq (k : Core) (i : Nat) (v : Word64) : (setReg k i v).accq = k.accq := by simp only [setReg]; split <;> rfl
@[simp] theorem setReg_vq (k : Core) (i : Nat) (v : Word64) : (setReg k i v).vq = k.vq := by simp only [setReg]; split <;> rfl
@[simp] theorem setReg_rep0 (k : Core) (i : Nat) (v : Word64) : (setReg k i v).rep0 = k.rep0 := by simp only [setReg]; split <;> rfl
@[simp] theorem setReg_rep1 (k : Core) (i : Nat) (v : Word64) : (setReg k i v).rep1 = k.rep1 := by simp only [setReg]; split <;> rfl
@[simp] theorem setReg_accStatus (k : Core) (i : Nat) (v : Word64) : (setReg k i v).accStatus = k.accStatus := by simp only [setReg]; split <;> rfl
@[simp] theorem setReg_vecStatus (k : Core) (i : Nat) (v : Word64) : (setReg k i v).vecStatus = k.vecStatus := by simp only [setReg]; split <;> rfl
@[simp] theorem setReg_pmc (k : Core) (i : Nat) (v : Word64) : (setReg k i v).pmc = k.pmc := by simp only [setReg]; split <;> rfl
@[simp] theorem setRun_phys (k : Core) (r : Run) : (setRun k r).phys = k.phys := rfl
@[simp] theorem setRun_retired (k : Core) (r : Run) : (setRun k r).retired = k.retired := rfl
@[simp] theorem setRun_asleep (k : Core) (r : Run) : (setRun k r).asleep = k.asleep := rfl
@[simp] theorem setRun_testing (k : Core) (r : Run) : (setRun k r).testing = k.testing := rfl
@[simp] theorem setRun_fenced (k : Core) (r : Run) : (setRun k r).fenced = k.fenced := rfl
@[simp] theorem setRun_c2 (k : Core) (r : Run) : (setRun k r).c2 = k.c2 := rfl
@[simp] theorem setRun_image (k : Core) (r : Run) : (setRun k r).image = k.image := rfl
@[simp] theorem setRun_scratch (k : Core) (r : Run) : (setRun k r).scratch = k.scratch := rfl
@[simp] theorem setRun_acc (k : Core) (r : Run) : (setRun k r).acc = k.acc := rfl
@[simp] theorem setRun_g (k : Core) (r : Run) : (setRun k r).g = k.g := rfl
@[simp] theorem setRun_slots (k : Core) (r : Run) : (setRun k r).slots = k.slots := rfl
@[simp] theorem setRun_convs (k : Core) (r : Run) : (setRun k r).convs = k.convs := rfl
@[simp] theorem setRun_jobs (k : Core) (r : Run) : (setRun k r).jobs = k.jobs := rfl
@[simp] theorem setRun_weights (k : Core) (r : Run) : (setRun k r).weights = k.weights := rfl
@[simp] theorem setRun_aq (k : Core) (r : Run) : (setRun k r).aq = k.aq := rfl
@[simp] theorem setRun_accq (k : Core) (r : Run) : (setRun k r).accq = k.accq := rfl
@[simp] theorem setRun_vq (k : Core) (r : Run) : (setRun k r).vq = k.vq := rfl
@[simp] theorem setRun_rep0 (k : Core) (r : Run) : (setRun k r).rep0 = k.rep0 := rfl
@[simp] theorem setRun_rep1 (k : Core) (r : Run) : (setRun k r).rep1 = k.rep1 := rfl
@[simp] theorem setRun_accStatus (k : Core) (r : Run) : (setRun k r).accStatus = k.accStatus := rfl
@[simp] theorem setRun_vecStatus (k : Core) (r : Run) : (setRun k r).vecStatus = k.vecStatus := rfl
@[simp] theorem setRun_pmc (k : Core) (r : Run) : (setRun k r).pmc = k.pmc := rfl
@[simp] theorem corePmcEvent_phys (k : Core) (e n : Nat) : (corePmcEvent k e n).phys = k.phys := rfl
@[simp] theorem corePmcEvent_retired (k : Core) (e n : Nat) : (corePmcEvent k e n).retired = k.retired := rfl
@[simp] theorem corePmcEvent_asleep (k : Core) (e n : Nat) : (corePmcEvent k e n).asleep = k.asleep := rfl
@[simp] theorem corePmcEvent_testing (k : Core) (e n : Nat) : (corePmcEvent k e n).testing = k.testing := rfl
@[simp] theorem corePmcEvent_fenced (k : Core) (e n : Nat) : (corePmcEvent k e n).fenced = k.fenced := rfl
@[simp] theorem corePmcEvent_c2 (k : Core) (e n : Nat) : (corePmcEvent k e n).c2 = k.c2 := rfl
@[simp] theorem corePmcEvent_image (k : Core) (e n : Nat) : (corePmcEvent k e n).image = k.image := rfl
@[simp] theorem corePmcEvent_scratch (k : Core) (e n : Nat) : (corePmcEvent k e n).scratch = k.scratch := rfl
@[simp] theorem corePmcEvent_acc (k : Core) (e n : Nat) : (corePmcEvent k e n).acc = k.acc := rfl
@[simp] theorem corePmcEvent_g (k : Core) (e n : Nat) : (corePmcEvent k e n).g = k.g := rfl
@[simp] theorem corePmcEvent_slots (k : Core) (e n : Nat) : (corePmcEvent k e n).slots = k.slots := rfl
@[simp] theorem corePmcEvent_convs (k : Core) (e n : Nat) : (corePmcEvent k e n).convs = k.convs := rfl
@[simp] theorem corePmcEvent_jobs (k : Core) (e n : Nat) : (corePmcEvent k e n).jobs = k.jobs := rfl
@[simp] theorem corePmcEvent_run (k : Core) (e n : Nat) : (corePmcEvent k e n).run = k.run := rfl
@[simp] theorem corePmcEvent_weights (k : Core) (e n : Nat) : (corePmcEvent k e n).weights = k.weights := rfl
@[simp] theorem corePmcEvent_aq (k : Core) (e n : Nat) : (corePmcEvent k e n).aq = k.aq := rfl
@[simp] theorem corePmcEvent_accq (k : Core) (e n : Nat) : (corePmcEvent k e n).accq = k.accq := rfl
@[simp] theorem corePmcEvent_vq (k : Core) (e n : Nat) : (corePmcEvent k e n).vq = k.vq := rfl
@[simp] theorem corePmcEvent_rep0 (k : Core) (e n : Nat) : (corePmcEvent k e n).rep0 = k.rep0 := rfl
@[simp] theorem corePmcEvent_rep1 (k : Core) (e n : Nat) : (corePmcEvent k e n).rep1 = k.rep1 := rfl
@[simp] theorem corePmcEvent_accStatus (k : Core) (e n : Nat) : (corePmcEvent k e n).accStatus = k.accStatus := rfl
@[simp] theorem corePmcEvent_vecStatus (k : Core) (e n : Nat) : (corePmcEvent k e n).vecStatus = k.vecStatus := rfl
@[simp] theorem issued_phys (k : Core) (r : Run) : (issued k r).phys = k.phys := rfl
@[simp] theorem issued_retired (k : Core) (r : Run) : (issued k r).retired = k.retired := rfl
@[simp] theorem issued_asleep (k : Core) (r : Run) : (issued k r).asleep = k.asleep := rfl
@[simp] theorem issued_testing (k : Core) (r : Run) : (issued k r).testing = k.testing := rfl
@[simp] theorem issued_fenced (k : Core) (r : Run) : (issued k r).fenced = k.fenced := rfl
@[simp] theorem issued_c2 (k : Core) (r : Run) : (issued k r).c2 = k.c2 := rfl
@[simp] theorem issued_image (k : Core) (r : Run) : (issued k r).image = k.image := rfl
@[simp] theorem issued_scratch (k : Core) (r : Run) : (issued k r).scratch = k.scratch := rfl
@[simp] theorem issued_acc (k : Core) (r : Run) : (issued k r).acc = k.acc := rfl
@[simp] theorem issued_g (k : Core) (r : Run) : (issued k r).g = k.g := rfl
@[simp] theorem issued_slots (k : Core) (r : Run) : (issued k r).slots = k.slots := rfl
@[simp] theorem issued_convs (k : Core) (r : Run) : (issued k r).convs = k.convs := rfl
@[simp] theorem issued_jobs (k : Core) (r : Run) : (issued k r).jobs = k.jobs := rfl
@[simp] theorem issued_weights (k : Core) (r : Run) : (issued k r).weights = k.weights := rfl
@[simp] theorem issued_aq (k : Core) (r : Run) : (issued k r).aq = k.aq := rfl
@[simp] theorem issued_accq (k : Core) (r : Run) : (issued k r).accq = k.accq := rfl
@[simp] theorem issued_vq (k : Core) (r : Run) : (issued k r).vq = k.vq := rfl
@[simp] theorem issued_rep0 (k : Core) (r : Run) : (issued k r).rep0 = k.rep0 := rfl
@[simp] theorem issued_rep1 (k : Core) (r : Run) : (issued k r).rep1 = k.rep1 := rfl
@[simp] theorem issued_accStatus (k : Core) (r : Run) : (issued k r).accStatus = k.accStatus := rfl
@[simp] theorem issued_vecStatus (k : Core) (r : Run) : (issued k r).vecStatus = k.vecStatus := rfl
@[simp] theorem greg_issued (k : Core) (r : Run) (i : Nat) : greg (issued k r) i = greg k i := rfl
@[simp] theorem gnat_issued (k : Core) (r : Run) (i : Nat) : gnat (issued k r) i = gnat k i := rfl
@[simp] theorem issued_run (k : Core) (r : Run) : (issued k r).run = some { r with instr := r.instr + 1 } := rfl

end Sys2Proof.Laws
end

