-- ==== Sys2Proof/Laws/Issue.lean ====
section
/-! SUPPORT. The issue of a core instruction: everything it can answer, its effect where the instruction issues, and its frame. -/

namespace Sys2Proof.Laws

open Sys2Proof.Machine

/-- A well-formed word has a defined opcode. -/
theorem usedBits_of_well {w : Word64} (h : wellWord w = true) : (usedBits (opOf w)).isNone = false := by
  unfold wellWord at h; split at h <;> simp_all

/-- The word at the PC of a core that issues. -/
theorem issueWord_of {s d c op k r w} (h : Issues s d c op k r w) : issueWord s d c = some (k, r, w) := by
  obtain ⟨im, him⟩ := Option.isSome_iff_exists.mp h.image
  have hw := h.word
  simp only [nextWord, h.core_eq, h.run, him] at hw
  simp only [issueWord, dieUp, h.up, h.die, h.works, h.core_eq, h.run, him, h.going, hw]
  simp [h.core]

/-- An instruction that issues has its effect. -/
theorem issue_of {s d c op k r w} (h : Issues s d c op k r w) (f) : issue op d c s f = f k r w := by
  have hp : (regsOf w).any (fun g => r.pend.contains g) = false := by
    rw [List.any_eq_false]; intro g hg; simpa using h.ready g hg
  have hu := usedBits_of_well h.well
  simp only [issue, issueWord_of h, hu, h.well, hp]
  simp [h.op_eq]

/-- An ALU instruction that issues writes its result and goes on. -/
theorem alu_of {s d c op k r w} (h : Issues s d c op k r w) (f) :
    alu op d c s f = setCore s d c (setReg (issued k (runNext r)) (fD w) (f (issued k (runNext r)) w)) := by
  rw [alu, scalar, issue_of h]

/-- Where a jump leaves a job. -/
theorem lands_runJump (r : Run) (tgt : Int) :
    (if 0 ≤ tgt ∧ tgt < dProgLen r.job then runJump r tgt = { r with pc := tgt.toNat } else
      (r.ended = none → (runJump r tgt).ended = some .badInsn ∧ (runJump r tgt).posts = [])) := by
  simp only [runJump]
  split
  · rfl
  · intro he; simp [endRun, he]

/-- Where the next instruction leaves a job. -/
theorem lands_runNext (r : Run) :
    (if 0 ≤ (r.pc + 1 : Int) ∧ (r.pc + 1 : Int) < dProgLen r.job then runNext r = { r with pc := (r.pc + 1 : Int).toNat } else
      (r.ended = none → (runNext r).ended = some .badInsn ∧ (runNext r).posts = [])) := by
  simp only [runNext]
  split
  · rw [if_pos (by omega)]; congr 1
  · rw [if_neg (by omega)]; intro he; simp [endRun, he]

/-- What issueWord answers. -/
theorem issueWord_core {s d c k r w} (h : issueWord s d c = some (k, r, w)) :
    k = getCore s d c ∧ k.run = some r ∧ r.ended = none ∧ w = nextWord s d c := by
  simp only [issueWord] at h
  split at h
  · cases h
  · split at h
    · split at h
      · cases h
      · simp_all [nextWord]
        obtain ⟨rfl, rfl, rfl⟩ := h
        grind
    · cases h

/-- Everything that issue can answer. -/
theorem issue_cases (op d c s) (f : Core → Run → Word64 → State) :
    issue op d c s f = s ∨
    (∃ k r w, issueWord s d c = some (k, r, w) ∧ issue op d c s f = setCore s d c (setRun k (endRun r .badInsn))) ∨
    (∃ k r w, issueWord s d c = some (k, r, w) ∧ issue op d c s f = f k r w) := by
  unfold issue
  split
  · exact .inl rfl
  · next k r w h =>
    split
    · exact .inr (.inl ⟨k, r, w, h, rfl⟩)
    · split
      · exact .inl rfl
      · split
        · exact .inl rfl
        · exact .inr (.inr ⟨k, r, w, h, rfl⟩)

/-- A core whose scratchpad stays leaves every memory byte. -/
theorem same_setCore {s d c} {k : Core} (h : k.scratch = (getCore s d c).scratch) : SameMemory s (setCore s d c k) := by
  intro e
  refine ⟨fun b a => ?_, fun a => ?_, fun a => ?_⟩
  · rw [getCore_setCore]; split
    · next hh => obtain ⟨rfl, rfl⟩ := hh; rw [h]
    · rfl
  all_goals
    rw [getDie_setCore]; split
    · next hh => subst hh; rfl
    · rfl

theorem same_refl (s : State) : SameMemory s s := fun _ => ⟨fun _ _ => rfl, fun _ => rfl, fun _ => rfl⟩

theorem setCore_self_get (s d c) : getCore (setCore s d c (getCore s d c)) d c = getCore s d c := by simp

theorem sameUnits_refl (k : Core) : SameUnits k k := ⟨k.g, k.run, k.pmc, rfl⟩

/-- The frame of an instruction of the sequencer with destination register dst. -/
def FrameOf (s t : State) (d c : Nat) (dst : Option Nat) : Prop :=
  OnlyCore s t d c ∧ SameUnits (getCore s d c) (getCore t d c) ∧
      (∀ q, dst ≠ some q → greg (getCore t d c) q = greg (getCore s d c) q) ∧ SameMemory s t

theorem frame_self (s d c dst) : FrameOf s s d c dst := ⟨.inl rfl, sameUnits_refl _, fun _ _ => rfl, same_refl _⟩

theorem frame_set {s d c dst} {k : Core} (h : SameUnits (getCore s d c) k)
    (hg : ∀ q, dst ≠ some q → greg k q = greg (getCore s d c) q) : FrameOf s (setCore s d c k) d c dst := by
  refine ⟨.inr ⟨k, rfl⟩, by simpa using h, by simpa using hg, same_setCore ?_⟩
  obtain ⟨_, _, _, rfl⟩ := h; rfl

/-- The frame of an instruction, from the frame of its effect. -/
theorem frame_issue {op d c s dst} {f : Core → Run → Word64 → State}
    (h : ∀ k r w, issueWord s d c = some (k, r, w) → k = getCore s d c → w = nextWord s d c → FrameOf s (f k r w) d c dst) :
    FrameOf s (issue op d c s f) d c dst := by
  rcases issue_cases op d c s f with e | ⟨k, r, w, hi, e⟩ | ⟨k, r, w, hi, e⟩ <;> rw [e]
  · exact frame_self ..
  · obtain ⟨rfl, -⟩ := issueWord_core hi
    exact frame_set ⟨_, _, _, rfl⟩ (fun _ _ => rfl)
  · obtain ⟨h1, -, -, h2⟩ := issueWord_core hi
    exact h k r w hi h1 h2

theorem sameUnits_setReg {k l : Core} (i : Nat) (v : Word64) (h : SameUnits k l) : SameUnits k (setReg l i v) := by
  obtain ⟨g, run, pmc, rfl⟩ := h
  simp only [setReg]; split
  · exact ⟨_, _, _, rfl⟩
  · exact ⟨_, _, _, rfl⟩

theorem sameUnits_issued (k : Core) (r : Run) : SameUnits k (issued k r) := ⟨_, _, _, rfl⟩

theorem frame_reg {s d c dst} {r : Run} {v} (h : dst = fD (nextWord s d c)) :
    FrameOf s (setCore s d c (setReg (issued (getCore s d c) r) dst v)) d c (some (fD (nextWord s d c))) := by
  refine frame_set (sameUnits_setReg _ _ (sameUnits_issued _ _)) fun q hq => ?_
  rw [greg_setReg, if_neg]; · exact greg_issued _ _ _
  rintro ⟨rfl, -⟩; exact hq (by rw [h])

theorem frame_alu {op d c s} {f : Core → Word64 → Word64} : FrameOf s (alu op d c s f) d c (some (fD (nextWord s d c))) := by
  refine frame_issue fun k r w hi hk hw => ?_
  subst hk
  exact frame_reg (by rw [hw])

theorem frame_branch {op d c s cond} : FrameOf s (branch op d c s cond) d c none := by
  refine frame_issue fun k r w hi hk hw => ?_
  subst hk
  exact frame_set ⟨_, _, _, rfl⟩ fun q hq => greg_issued _ _ _

end Sys2Proof.Laws
end

