-- ==== Sys2Proof/Laws/Cores.lean ====
section
/-! SUPPORT. What a core program's accesses, units and faults leave alone, and what each does. -/

namespace Sys2Proof.Laws

open Sys2Proof.Machine

theorem coreCheck_none {x gp a n} (h : coreCheck x gp a n = none) :
    ∃ l, coreLoc x gp a n = some l ∧ (l.1 = false → gndPoisoned x.gnd l.2 n = false) := by
  simp only [coreCheck] at h
  split at h
  · cases h
  · exact ⟨_, by assumption, by simp⟩
  · next o ho => refine ⟨_, ho, fun _ => ?_⟩; simpa using h

theorem coreLoc_cases {x gp a n l} (h : coreLoc x gp a n = some l) :
    (l = (true, a) ∧ a + n ≤ 0x60000) ∨ (l = (false, a - gndBase) ∧ 0x80000000 ≤ a) := by
  simp only [coreLoc] at h
  split at h
  · cases h; exact .inl ⟨rfl, by assumption⟩
  · split at h
    · next h2 => cases h; exact .inr ⟨rfl, h2.1⟩
    · cases h

theorem coreRead_ok {x k gp a n} (hn : 0 < n) (h : coreCheck x gp a n = none) :
    coreRead x k gp a n = .ok ((List.range n).map (fun j => coreByte x k (a + j))) := by
  obtain ⟨l, hl, hp⟩ := coreCheck_none h
  rcases coreLoc_cases hl with ⟨rfl, hr⟩ | ⟨rfl, hr⟩
  · simp only [coreRead, hl, memRead_eq_map, Except.ok.injEq]
    apply List.map_congr_left; intro j hj
    rw [List.mem_range] at hj
    have hs : spadEnd = 0x60000 := rfl
    simp only [coreByte]; rw [if_pos (by omega)]
  · simp only [coreRead, hl, hp rfl, memRead_eq_map, Bool.false_eq_true, if_false, Except.ok.injEq]
    apply List.map_congr_left; intro j hj
    rw [List.mem_range] at hj
    have hs : spadEnd = 0x60000 := rfl
    have hg : gndBase = 0x80000000 := rfl
    simp only [coreByte]; rw [if_neg (by omega)]
    have e : a - gndBase + j = a + j - gndBase := by omega
    rw [e]

theorem seqRead_ok {s d k r a n} (ha : a % n = 0) (hn : 0 < n) (h : coreCheck (getDie s d) (dGpart r.job) a n = none) :
    seqRead s d k r a n = .ok ((List.range n).map (fun j => coreByte (getDie s d) k (a + j)),
      if a < spadEnd then s else setDie s d (dieGndTouch (getDie s d) (a - gndBase) n)) := by
  simp only [seqRead, aligned, ha, if_true, coreRead_ok hn h]
  split <;> rfl

theorem gndTouch_cells (g : Ground) (o n : Nat) : (gndTouch g o n).cells = g.cells := rfl

theorem same_touch (s : State) (d o n : Nat) : SameMemory s (setDie s d (dieGndTouch (getDie s d) o n)) := by
  intro e
  refine ⟨fun b a => ?_, fun a => ?_, fun a => ?_⟩
  · simp only [getCore, getDie_setDie]; split
    · subst_vars; rfl
    · rfl
  · rw [getDie_setDie]; split
    · subst_vars; simp only [dieGndTouch, gndTouch_cells]
    · rfl
  · rw [getDie_setDie]; split
    · subst_vars; rfl
    · rfl

theorem same_trans {s t u : State} (h1 : SameMemory s t) (h2 : SameMemory t u) : SameMemory s u := fun d =>
  ⟨fun c a => ((h2 d).1 c a).trans ((h1 d).1 c a), fun a => ((h2 d).2.1 a).trans ((h1 d).2.1 a),
    fun a => ((h2 d).2.2 a).trans ((h1 d).2.2 a)⟩

theorem same_seqRead (s : State) (d a n : Nat) :
    SameMemory s (if a < spadEnd then s else setDie s d (dieGndTouch (getDie s d) (a - gndBase) n)) := by
  split
  · exact same_refl s
  · exact same_touch s d _ n

theorem getCore_seqRead (s : State) (d a n b c : Nat) :
    (getCore (if a < spadEnd then s else setDie s d (dieGndTouch (getDie s d) (a - gndBase) n)) b c) = getCore s b c := by
  split
  · rfl
  · simp only [getCore, getDie_setDie]; split
    · subst_vars; rfl
    · rfl

theorem nth_toLe (n v i : Nat) (h : i < n) : nth (toLe n v) i 0 = BitVec.ofNat 8 (v / 256 ^ i) := by
  induction n generalizing v i with
  | zero => omega
  | succ n ih =>
    cases i with
    | zero => simp [nth, toLe]
    | succ i =>
      have := ih (v / 256) i (by omega)
      simp only [nth, toLe, List.getElem?_cons_succ] at this ⊢
      rw [this, Nat.div_div_eq_div_mul, pow_succ, Nat.mul_comm]

theorem fld_lt {n} (w : BitVec n) (hi lo : Nat) : fld w hi lo < 2 ^ (hi + 1 - lo) := Nat.mod_lt _ (by positivity)

theorem endBy_facts {s d c} {k : Core} {r : Run} {st} (h : k.scratch = (getCore s d c).scratch) (hs : st ≠ .memUe) (he : r.ended = none)
    (hg : ∀ q, greg k q = greg (getCore s d c) q) :
    ∃ r', (getCore (endBy s d c (issued k (endRun r st)) st) d c).run = some r' ∧ r'.ended = some st ∧ r'.posts = [] ∧
      SameMemory s (endBy s d c (issued k (endRun r st)) st) ∧
      ∀ q, greg (getCore (endBy s d c (issued k (endRun r st)) st) d c) q = greg (getCore s d c) q := by
  simp only [endBy, hs, if_false, getCore_setCore_same]
  refine ⟨_, issued_run .., ?_, ?_, same_setCore h, hg⟩
  all_goals simp only [endRun, he]

theorem seqRead_bad {s d k r a n} (h : a % n ≠ 0 ∨ coreLoc (getDie s d) (dGpart r.job) a n = none) :
    seqRead s d k r a n = .error .badAddr := by
  simp only [seqRead, aligned]
  by_cases h0 : a % n = 0
  · rw [if_pos h0]; simp only [coreRead, h.resolve_left (by simpa using h0)]
  · rw [if_neg h0]

/-- A core of which only the scratchpad may have changed. -/
def ScratchOnly (k l : Core) : Prop := ∃ m, l = { k with scratch := m }

/-- A job of which only the status words and the digest may have changed. -/
def StatusOnly (r q : Run) : Prop := ∃ a b g, q = { r with status := a, vstatus := b, digest := g }

theorem scratchOnly_refl (k : Core) : ScratchOnly k k := ⟨_, rfl⟩

theorem scratchOnly_trans {k l m : Core} (h1 : ScratchOnly k l) (h2 : ScratchOnly l m) : ScratchOnly k m := by
  obtain ⟨_, rfl⟩ := h1; obtain ⟨_, rfl⟩ := h2; exact ⟨_, rfl⟩

theorem statusOnly_refl (r : Run) : StatusOnly r r := ⟨_, _, _, rfl⟩

theorem statusOnly_trans {k l m : Run} (h1 : StatusOnly k l) (h2 : StatusOnly l m) : StatusOnly k m := by
  obtain ⟨_, _, _, rfl⟩ := h1; obtain ⟨_, _, _, rfl⟩ := h2; exact ⟨_, _, _, rfl⟩

theorem coreStore_scratch (x : Die) (k : Core) (a : Nat) (bs : List Byte) : ScratchOnly k (coreStore x k a bs).2 := by
  simp only [coreStore]; split <;> exact ⟨_, rfl⟩

theorem putElem_scratch (x : Die) (k : Core) (s : Stream) (v i c : Nat) : ScratchOnly k (putElem x k s v i c).2 :=
  coreStore_scratch ..

theorem foldl_scratch {α : Type} (f : Die × Core → α → Die × Core) (h : ∀ a i, ScratchOnly a.2 (f a i).2) (l : List α) (a : Die × Core) :
    ScratchOnly a.2 (l.foldl f a).2 := by
  induction l generalizing a with
  | nil => exact scratchOnly_refl _
  | cons i l ih => exact scratchOnly_trans (h a i) (ih _)

theorem convertAccRow_only (x : Die) (k : Core) (r : Run) (p : ConvParams) (row o n0 step ordinal wr : Nat) :
    ScratchOnly k (convertAccRow x k r p row o n0 step ordinal wr).2.1 ∧ StatusOnly r (convertAccRow x k r p row o n0 step ordinal wr).2.2 := by
  unfold convertAccRow
  extract_lets
  split
  · exact ⟨scratchOnly_refl _, _, _, _, rfl⟩
  · split
    · split
      · exact ⟨coreStore_scratch .., _, _, _, rfl⟩
      · exact ⟨scratchOnly_refl _, _, _, _, rfl⟩
    · split
      · exact ⟨scratchOnly_refl _, _, _, _, rfl⟩
      · refine ⟨?_, _, _, _, rfl⟩
        dsimp only
        split
        · exact scratchOnly_trans (foldl_scratch _ (fun _ _ => putElem_scratch ..) _ _) (coreStore_scratch ..)
        · exact foldl_scratch _ (fun _ _ => putElem_scratch ..) _ _

theorem issued_goes {k : Core} {r r1 : Run} (h : r.pc + 1 < dProgLen r.job) (hr : r.ended = none) :
    (issued k (runNext r)).run = some { r with pc := r.pc + 1, instr := r.instr + 1 } := by
  simp only [issued_run, runNext, h, if_true]

theorem postEvent_dies (s : State) (code die d0 d1 d2 d3 : Nat) : (postEvent s code die d0 d1 d2 d3).dies = s.dies := by
  obtain ⟨_, _, _, _, _, h⟩ := postEvent_only s code die d0 d1 d2 d3
  rw [h]

theorem postEvent_variant (s : State) (code die d0 d1 d2 d3 : Nat) : (postEvent s code die d0 d1 d2 d3).variant = s.variant := by
  obtain ⟨_, _, _, _, _, h⟩ := postEvent_only s code die d0 d1 d2 d3
  rw [h]

theorem getDie_postEvent (s : State) (code die d0 d1 d2 d3 e : Nat) : getDie (postEvent s code die d0 d1 d2 d3) e = getDie s e := by
  simp only [getDie, postEvent_dies, postEvent_variant]

theorem setDie_faults (s : State) (die e : Nat) (f : FaultLog) :
    ∃ g, getDie (setDie s die { getDie s die with faults := f }) e = { getDie s e with faults := g } := by
  rw [getDie_setDie]; split
  · subst_vars; exact ⟨_, rfl⟩
  · exact ⟨_, rfl⟩

theorem faultEvent_die (s : State) (cls kind idx die code react e : Nat) :
    ∃ f, getDie (faultEvent s cls kind idx die code react) e = { getDie s e with faults := f } := by
  unfold faultEvent
  dsimp only
  split
  · exact setDie_faults ..
  · rw [getDie_postEvent]; exact setDie_faults ..

/-- A die of which only the fault counts may have changed. -/
theorem reportFault_die (s : State) (cls kind idx die code react e : Nat) :
    ∃ f, getDie (reportFault s cls kind idx die code react) e = { getDie s e with faults := f } := by
  unfold reportFault
  extract_lets x f f' s1
  obtain ⟨g, hg⟩ := setDie_faults s die e f'
  split
  · exact ⟨g, hg⟩
  · obtain ⟨f2, h2⟩ := faultEvent_die s1 cls kind idx die code react e
    exact ⟨f2, by rw [h2, hg]⟩

theorem reportFault_core (s : State) (cls kind idx die code react e c : Nat) :
    getCore (reportFault s cls kind idx die code react) e c = getCore s e c := by
  obtain ⟨f, hf⟩ := reportFault_die s cls kind idx die code react e
  simp only [getCore, hf, coreOf]

theorem endBy_core (s d c) (k : Core) (st) : getCore (endBy s d c k st) d c = k := by
  simp only [endBy]; split
  · rw [reportPoison, reportFault_core, getCore_setCore_same]
  · rw [getCore_setCore_same]

theorem runNext_keep (r : Run) : (runNext r).arrIss = r.arrIss ∧ (runNext r).arrDone = r.arrDone ∧ (runNext r).vecIss = r.vecIss ∧
    (runNext r).vecDone = r.vecDone ∧ (runNext r).pend = r.pend := by
  simp only [runNext, endRun]; split
  · simp
  · split <;> simp

theorem runNext_go {r : Run} (h : r.pc + 1 < dProgLen r.job) : runNext r = { r with pc := r.pc + 1 } := by
  simp only [runNext, h, if_true]

theorem loadRow_keep (x : Die) (k : Core) (r : Run) (o : ArrOp) :
    (loadRow x k r o).1.accq = k.accq ∧ (loadRow x k r o).2.arrDone = r.arrDone := ⟨rfl, rfl⟩

theorem pair_foldl (p : Die × Core × Run) (f : Die × Core × Run → Nat → Die × Core × Run)
    (h : ∀ a i, ScratchOnly a.2.1 (f a i).2.1 ∧ StatusOnly a.2.2 (f a i).2.2) (l : List Nat) :
    ScratchOnly p.2.1 (l.foldl f p).2.1 ∧ StatusOnly p.2.2 (l.foldl f p).2.2 := by
  induction l generalizing p with
  | nil => exact ⟨scratchOnly_refl _, statusOnly_refl _⟩
  | cons i l ih =>
    obtain ⟨h1, h2⟩ := h p i
    obtain ⟨h3, h4⟩ := ih (f p i)
    exact ⟨scratchOnly_trans h1 h3, statusOnly_trans h2 h4⟩

theorem cvtCycle_only (x : Die) (k : Core) (r : Run) (o : ArrOp) (p : ConvParams) :
    ScratchOnly k (cvtCycle x k r o p).2.1 ∧ StatusOnly r (cvtCycle x k r o p).2.2 := by
  refine pair_foldl (x, k, r) _ (fun a i => ?_) [0, 1]
  dsimp only; split
  · exact ⟨scratchOnly_refl _, statusOnly_refl _⟩
  · exact convertAccRow_only ..

theorem acsvCycle_only (x : Die) (k : Core) (r : Run) (o : ArrOp) :
    ScratchOnly k (acsvCycle x k r o).2.1 ∧ StatusOnly r (acsvCycle x k r o).2.2 := by
  refine pair_foldl (x, k, r) _ (fun a i => ?_) [0, 1]
  dsimp only; split
  · exact ⟨scratchOnly_refl _, statusOnly_refl _⟩
  · exact ⟨coreStore_scratch .., _, _, _, rfl⟩

theorem acrsCycle_accq (x : Die) (k : Core) (o : ArrOp) : (acrsCycle x k o).accq = k.accq := by
  have hf : ∀ (n : Nat) (f : Core → Nat → Core) (h : ∀ a i, (f a i).accq = a.accq) (a : Core), (foldUpto n a f).accq = a.accq := by
    intro n f h a
    unfold foldUpto
    generalize upto n = l
    induction l generalizing a with
    | nil => rfl
    | cons i l ih => rw [List.foldl_cons, ih, h]
  have h1 : ∀ (l : List Nat) (f : Core → Nat → Core) (h : ∀ a i, (f a i).accq = a.accq) (a : Core), (l.foldl f a).accq = a.accq := by
    intro l f h a
    induction l generalizing a with
    | nil => rfl
    | cons i l ih => rw [List.foldl_cons, ih, h]
  refine h1 [0, 1] _ (fun a i => ?_) k
  dsimp only; split
  · rfl
  · refine hf 32 _ (fun _ _ => ?_) a
    rfl

theorem put_core (s : State) (d c : Nat) (x : Die) (k : Core) : getCore (setCore (setDie s d x) d c k) d c = k := getCore_setCore_same ..

theorem tget_foldUpto_acc (n row : Nat) (k : Core) (i : Nat) (hn : n ≤ 32) (hi : i < 32 * row ∨ 32 * row + 32 ≤ i) :
    tget (foldUpto n k (fun k c => { k with acc := tset k.acc (32 * row + c) accEmpty })).acc i accEmpty = tget k.acc i accEmpty ∧
    ∃ a, foldUpto n k (fun k c => { k with acc := tset k.acc (32 * row + c) accEmpty }) = { k with acc := a } := by
  unfold foldUpto upto
  induction n with
  | zero => exact ⟨rfl, _, rfl⟩
  | succ n ih =>
    obtain ⟨h1, a, h2⟩ := ih (by omega)
    rw [List.range_succ, List.foldl_append]
    refine ⟨?_, ?_⟩
    · simp only [List.foldl_cons, List.foldl_nil, tget_tset]
      rw [if_neg (by omega)]; exact h1
    · rw [h2]; exact ⟨_, rfl⟩

theorem updateRow_only (k : Core) (r : Run) (u : RowUpd) (h : ∀ p ∈ u.cols, p.1 < 32) :
    (∃ a p, (updateRow k r u).1 = { k with acc := a, pmc := p }) ∧ StatusOnly r (updateRow k r u).2 ∧
    ∀ i, i < 32 * u.row ∨ 32 * u.row + 32 ≤ i → tget (updateRow k r u).1.acc i accEmpty = tget k.acc i accEmpty := by
  unfold updateRow
  extract_lets j k0 res
  have hk0 : ∀ i, i < 32 * u.row ∨ 32 * u.row + 32 ≤ i → tget k0.acc i accEmpty = tget k.acc i accEmpty := by
    intro i hi; simp only [k0]; split
    · exact (tget_foldUpto_acc 32 u.row k i (le_refl _) hi).1
    · rfl
  have hk1 : ∃ a, k0 = { k with acc := a } := by
    simp only [k0]; split
    · exact (tget_foldUpto_acc 32 u.row k (32 * u.row + 32) (le_refl _) (.inr (le_refl _))).2
    · exact ⟨_, rfl⟩
  have hres : ∀ i, i < 32 * u.row ∨ 32 * u.row + 32 ≤ i → tget res.1 i accEmpty = tget k0.acc i accEmpty := by
    intro i hi
    simp only [res]
    have : ∀ (l : List (Nat × ColSum)) (hl : ∀ p ∈ l, p.1 < 32) (a : Tbl AccWord × Word32 × Nat),
        tget (l.foldl (fun (a : Tbl AccWord × Word32 × Nat) (p : Nat × ColSum) =>
          let w := tget a.1 (32 * u.row + p.1) accEmpty
          let rr := srGen (dSeed j) (accCoord (dSrTag j) 0 u.row p.1) u.step
          let (w', st) := accUpdate w p.2 rr
          (tset a.1 (32 * u.row + p.1) w', a.2.1 ||| st, a.2.2 + b2n (bit st 7))) a).1 i accEmpty = tget a.1 i accEmpty := by
      intro l hl
      induction l with
      | nil => intro a; rfl
      | cons p l ih =>
        intro a
        rw [List.foldl_cons, ih (fun q hq => hl q (List.mem_cons_of_mem _ hq))]
        dsimp only
        rw [tget_tset, if_neg]
        have := hl p List.mem_cons_self
        omega
    exact this u.cols h _
  obtain ⟨a, ha⟩ := hk1
  refine ⟨⟨res.1, _, by rw [ha]; rfl⟩, ⟨_, _, _, rfl⟩, fun i hi => ?_⟩
  show tget res.1 i accEmpty = _
  rw [hres i hi, hk0 i hi]

theorem same_setDie_self (s : State) (d : Nat) : SameMemory s (setDie s d (getDie s d)) := by
  intro e
  have : getDie (setDie s d (getDie s d)) e = getDie s e := by rw [getDie_setDie]; split <;> simp_all
  simp only [getCore, this, implies_true, and_self]

theorem getCore_setDie_self (s : State) (d e c : Nat) : getCore (setDie s d (getDie s d)) e c = getCore s e c := by
  have : getDie (setDie s d (getDie s d)) e = getDie s e := by rw [getDie_setDie]; split <;> simp_all
  simp only [getCore, this]

/-- A core of which only the job and the registers may have changed. -/
def Woken (k l : Core) : Prop := ∃ r g, l = { k with run := r, g := g }

theorem woken_refl (k : Core) : Woken k k := ⟨_, _, rfl⟩

theorem woken_trans {k l m : Core} (h1 : Woken k l) (h2 : Woken l m) : Woken k m := by
  obtain ⟨_, _, rfl⟩ := h1; obtain ⟨_, _, rfl⟩ := h2; exact ⟨_, _, rfl⟩

/-- What waking cores leaves as it is: of every core all but its job and registers; the hoop queue and the variant. -/
def WokenOnly (s t : State) : Prop := (∀ e b, Woken (getCore s e b) (getCore t e b)) ∧ t.hoopQ = s.hoopQ ∧ t.variant = s.variant

theorem wokenOnly_refl (s : State) : WokenOnly s s := ⟨fun _ _ => woken_refl _, rfl, rfl⟩

theorem wokenOnly_trans {s t u : State} (h1 : WokenOnly s t) (h2 : WokenOnly t u) : WokenOnly s u :=
  ⟨fun e b => woken_trans (h1.1 e b) (h2.1 e b), h2.2.1.trans h1.2.1, h2.2.2.trans h1.2.2⟩

theorem wake_woken (s : State) (d c v : Nat) : WokenOnly s (wake s d c v) := by
  refine ⟨fun e b => ?_, rfl, rfl⟩
  simp only [wake, updCore, getCore_setCore]
  split
  · next h =>
    obtain ⟨rfl, rfl⟩ := h
    split
    · split
      · simp only [setReg]; split
        · exact ⟨_, _, rfl⟩
        · exact ⟨_, _, rfl⟩
      · exact woken_refl _
    · exact woken_refl _
  · exact woken_refl _

theorem getCore_setKnot (s : State) (d k : Nat) (n : Knot) (e b : Nat) : getCore (setKnot s d k n) e b = getCore s e b := by
  simp only [setKnot]; split
  · simp only [getCore, getDie_updDie]; split
    · subst_vars; rfl
    · rfl
  · rfl

theorem setKnot_woken (s : State) (d k : Nat) (n : Knot) : WokenOnly s (setKnot s d k n) := by
  refine ⟨fun e b => by rw [getCore_setKnot]; exact woken_refl _, ?_, ?_⟩ <;> (simp only [setKnot]; split <;> rfl)

theorem serveTakes_woken (s : State) (d k n : Nat) : WokenOnly s (serveTakes s d k n) := by
  induction n generalizing s with
  | zero => exact wokenOnly_refl s
  | succ n ih =>
    simp only [serveTakes]
    split
    · split
      · exact wokenOnly_trans (setKnot_woken ..) (wokenOnly_trans (wake_woken ..) (ih _))
      · exact wokenOnly_refl s
    · exact wokenOnly_refl s

theorem leaveKnot_woken (s : State) (d c : Nat) : WokenOnly s (leaveKnot s d c) := by
  simp only [leaveKnot]
  split
  · split
    · split
      · exact wokenOnly_trans (setKnot_woken ..) (serveTakes_woken ..)
      · exact wokenOnly_refl s
    · exact wokenOnly_refl s
  · exact wokenOnly_refl s

theorem postEvent_hoopQ (s : State) (code die d0 d1 d2 d3 : Nat) : (postEvent s code die d0 d1 d2 d3).hoopQ = s.hoopQ := by
  obtain ⟨_, _, _, _, _, h⟩ := postEvent_only s code die d0 d1 d2 d3
  rw [h]

theorem faultEvent_hoopQ (s : State) (cls kind idx die code react : Nat) : (faultEvent s cls kind idx die code react).hoopQ = s.hoopQ := by
  unfold faultEvent; dsimp only; split
  · rfl
  · rw [postEvent_hoopQ]; rfl

theorem reportFault_hoopQ (s : State) (cls kind idx die code react : Nat) : (reportFault s cls kind idx die code react).hoopQ = s.hoopQ := by
  unfold reportFault; dsimp only; split
  · rfl
  · rw [faultEvent_hoopQ]; rfl

theorem getCore_updDie_of (s : State) (d : Nat) (f : Die → Die) (h : (f (getDie s d)).cores = (getDie s d).cores) (e b : Nat) :
    getCore (updDie s d f) e b = getCore s e b := by
  simp only [getCore, getDie_updDie, coreOf]; split
  · subst_vars; rw [h]
  · rfl

theorem replayJob_units (K : Core) : (replayJob K).rep0 = K.rep0 ∧ (replayJob K).rep1 = K.rep1 ∧ (replayJob K).aq = [] ∧
    (replayJob K).accq = [] ∧ (replayJob K).vq = [] := by
  simp only [replayJob]
  split
  · exact ⟨rfl, rfl, rfl, rfl, rfl⟩
  · split
    · exact ⟨rfl, rfl, rfl, rfl, rfl⟩
    · split
      · exact ⟨rfl, rfl, rfl, rfl, rfl⟩
      · split <;> exact ⟨rfl, rfl, rfl, rfl, rfl⟩

theorem getCore_askHoop (s : State) (a x u g e b : Nat) : getCore (askHoop s a x u g) e b = getCore s e b := rfl

theorem getCore_engWait (s : State) (l : List EngReq) (e b : Nat) : getCore { s with engWait := l } e b = getCore s e b := rfl

theorem hoopQ_engWait (s : State) (l : List EngReq) : { s with engWait := l }.hoopQ = s.hoopQ := rfl

theorem hoopQ_askHoop (s : State) (a x u g : Nat) :
    (askHoop s a x u g).hoopQ = s.hoopQ ++ [{ act := a, dies := [x], op := none, die := x, unit := u, arg := g }] := rfl

/-- What a C2 fault of a core leaves of it, and asks for. -/
theorem coreStruck_facts (s : State) (d c code : Nat) :
    (getCore (coreStruck s d c code) d c).fenced = true ∧ (getCore (coreStruck s d c code) d c).aq = [] ∧
    (getCore (coreStruck s d c code) d c).accq = [] ∧ (getCore (coreStruck s d c code) d c).vq = [] ∧
    (getCore (coreStruck s d c code) d c).rep0 = (getCore s d c).rep0 ∧ (getCore (coreStruck s d c code) d c).rep1 = (getCore s d c).rep1 ∧
    (coreStruck s d c code).hoopQ = s.hoopQ ++ [{ act := 4, dies := [d], op := none, die := d, unit := c, arg := 0 }] := by
  have h1 := leaveKnot_woken (reportFault s 2 1 (256 * d + c) d code 3) d c
  have hc := h1.1 d c
  rw [reportFault_core] at hc
  have hh := h1.2.1
  rw [reportFault_hoopQ] at hh
  obtain ⟨r', g', hk⟩ := hc
  unfold coreStruck
  extract_lets s1 s2 s3 s4
  have e3 : getCore s3 d c = getCore s1 d c := by
    simp only [s3]
    rw [getCore_updDie_of _ _ _ rfl]
    rfl
  have e4 : getCore s4 d c = { replayJob (getCore s1 d c) with
      fenced := true, c2 := (getCore s1 d c).c2 ++ [s.now], image := if code = 0x21 then none else (getCore s1 d c).image } := by
    simp only [s4, updCore, getCore_setCore_same, e3]
  have hq : s4.hoopQ = s1.hoopQ := rfl
  obtain ⟨a1, a2, a3, a4, a5⟩ := replayJob_units (getCore s1 d c)
  simp only [getCore_askHoop, e4, hoopQ_askHoop, a1, a2, a3, a4, a5, true_and, hq]
  clear e4 e3 hq
  exact ⟨by simp only [s1, hk], by simp only [s1, hk], by simp only [s1, hh]⟩

/-- A die of which only latent errors and counts may have changed by reads. -/
def TouchOnly (x y : Die) : Prop := ∃ g f, y = { x with gnd := g, faults := f } ∧ g.cells = x.gnd.cells

theorem touchOnly_refl (x : Die) : TouchOnly x x := ⟨_, _, rfl, rfl⟩

theorem touchOnly_trans {x y z : Die} (h1 : TouchOnly x y) (h2 : TouchOnly y z) : TouchOnly x z := by
  obtain ⟨_, _, rfl, h1⟩ := h1; obtain ⟨_, _, rfl, h2⟩ := h2; exact ⟨_, _, rfl, h2.trans h1⟩

theorem dieGndTouch_only (x : Die) (o n : Nat) : TouchOnly x (dieGndTouch x o n) := ⟨_, _, rfl, gndTouch_cells ..⟩

theorem readTouch_only (x : Die) (rs : List (Nat × Nat)) : TouchOnly x (readTouch x rs) := by
  unfold readTouch
  induction rs generalizing x with
  | nil => exact touchOnly_refl x
  | cons p rs ih =>
    rw [List.foldl_cons]
    refine touchOnly_trans ?_ (ih _)
    dsimp only; split
    · exact touchOnly_refl x
    · exact dieGndTouch_only ..

theorem same_setDie_touch {s : State} {d : Nat} {x : Die} (h : TouchOnly (getDie s d) x) : SameMemory s (setDie s d x) := by
  obtain ⟨g, f, rfl, h⟩ := h
  intro e
  refine ⟨fun b a => ?_, fun a => ?_, fun a => ?_⟩
  · simp only [getCore, getDie_setDie]; split
    · subst_vars; rfl
    · rfl
  · rw [getDie_setDie]; split
    · subst_vars; simp only [h]
    · rfl
  · rw [getDie_setDie]; split
    · subst_vars; rfl
    · rfl

theorem getCore_setDie_cores {s : State} {d : Nat} {x : Die} (h : x.cores = (getDie s d).cores) (e b : Nat) :
    getCore (setDie s d x) e b = getCore s e b := by
  simp only [getCore, getDie_setDie, coreOf]; split
  · subst_vars; rw [h]
  · rfl

theorem touchOnly_cores {x y : Die} (h : TouchOnly x y) : y.cores = x.cores := by obtain ⟨_, _, rfl, _⟩ := h; rfl

theorem readRanges_touch (s : State) (d gp : Nat) (rs : List (Nat × Nat)) : ∃ x, TouchOnly (getDie s d) x ∧ (readRanges s d gp rs = s ∨ readRanges s d gp rs = setDie s d x) := by
  unfold readRanges
  split
  · exact ⟨_, touchOnly_refl _, .inl rfl⟩
  · exact ⟨_, readTouch_only _ _, .inr rfl⟩

theorem same_readRanges (s : State) (d gp : Nat) (rs : List (Nat × Nat)) : SameMemory s (readRanges s d gp rs) := by
  obtain ⟨x, hx, h | h⟩ := readRanges_touch s d gp rs
  · rw [h]; exact same_refl s
  · rw [h]; exact same_setDie_touch hx

theorem getCore_readRanges (s : State) (d gp : Nat) (rs : List (Nat × Nat)) (e b : Nat) : getCore (readRanges s d gp rs) e b = getCore s e b := by
  obtain ⟨x, hx, h | h⟩ := readRanges_touch s d gp rs
  · rw [h]
  · rw [h]; exact getCore_setDie_cores (touchOnly_cores hx) e b

theorem arrOr_stall {s d c} {k : Core} {r e rs go} (h : 2 ≤ k.aq.length) : arrOr s d c k r e rs go = s := by
  have h2 : ¬k.aq.length < 2 := by omega
  simp only [arrOr, arrAccepts, h2, decide_false, Bool.not_false, if_true]

theorem arrOr_err {s d c} {k : Core} {r rs go st} (h : k.aq.length < 2) : arrOr s d c k r (some st) rs go =
    endBy (if st = .memUe then readRanges s d (dGpart r.job) rs else s) d c (issued k (endRun r st)) st := by
  simp only [arrOr, arrAccepts, h, decide_true, Bool.not_true, Bool.false_eq_true, if_false]

theorem arrOr_go {s d c} {k : Core} {r rs go} (h : k.aq.length < 2) : arrOr s d c k r none rs go = go (readRanges s d (dGpart r.job) rs) := by
  simp only [arrOr, arrAccepts, h, decide_true, Bool.not_true, Bool.false_eq_true, if_false]

theorem arr_does {s d c} {k : Core} {r : Run} {w op i e o} (f : State → State) (rs : List (Nat × Nat)) (go : State → State)
    (he : Issues s d c op k r w → exec i s = .next (arrOr s d c k r e rs go))
    (hgo : ∃ ld nb wrt, go = fun s => arrIssue s d c k { r with load := ld } o nb wrt) :
      Issues s d c op k r w →
      (2 ≤ k.aq.length → exec i s = .next s) ∧
      (k.aq.length < 2 → ∀ st, e = some st → ∃ t r', exec i s = .next t ∧ (getCore t d c).run = some r' ∧ r'.ended = some st ∧ r'.posts = [] ∧
        (getCore t d c).aq = k.aq) ∧
      (k.aq.length < 2 → e = none → ∃ t r', exec i s = .next t ∧
        (getCore t d c).aq = k.aq ++ [{ o with ord := r.ord, wr := r.wr, seq := r.arrIss }] ∧ (getCore t d c).run = some r' ∧
        r'.arrIss = r.arrIss + 1 ∧ r'.arrDone = r.arrDone ∧ (r.pc + 1 < dProgLen r.job → r'.pc = r.pc + 1 ∧ r'.ended = none) ∧ SameMemory s t) := by
  intro h
  have he := he h
  have hk := h.core_eq; have hg := h.going.1
  refine ⟨fun hl => by rw [he, arrOr_stall hl], fun hl st hst => ?_, fun hl hst => ?_⟩
  · subst hst
    rw [arrOr_err hl] at he
    refine ⟨_, _, he, by rw [endBy_core]; exact issued_run .., ?_, ?_, by rw [endBy_core]; rfl⟩
    all_goals simp only [endRun, hg]
  · subst hst
    rw [arrOr_go hl] at he
    obtain ⟨ld, nb, wrt, rfl⟩ := hgo
    refine ⟨_, _, he, by simp only [arrIssue, getCore_setCore_same, issued_aq], by simp only [arrIssue, getCore_setCore_same, issued_run]; rfl,
      by simp [runNext_keep], by simp [runNext_keep], fun hp => ?_, same_trans (same_readRanges _ _ _ _) (same_setCore (by rw [getCore_readRanges, hk]; rfl))⟩
    rw [runNext_go (by exact hp)]; exact ⟨rfl, hg⟩

theorem mem_sadd (s : NSet) (i j : Nat) : j ∈ sadd s i ↔ j ∈ s ∨ j = i := by
  induction s with
  | nil => simp [sadd]
  | cons k t ih =>
    simp only [sadd]; split
    · simp; tauto
    · split
      · subst_vars; simp; tauto
      · simp [ih]; tauto

theorem mem_sdel (s : NSet) (i j : Nat) : j ∈ sdel s i ↔ j ∈ s ∧ j ≠ i := by simp [sdel]

theorem vec_does {s d c op} {k : Core} {r : Run} {w i f} (hex : exec i s = .next (vecIssue op d c s f)) :
      Issues s d c op k r w →
      (2 ≤ k.vq.length → exec i s = .next s) ∧
      (k.vq.length < 2 → ∀ st, vecErr f (getDie s d) k r w = some st → ∃ t r', exec i s = .next t ∧ (getCore t d c).run = some r' ∧ r'.ended = some st ∧
        (getCore t d c).vq = k.vq) ∧
      (k.vq.length < 2 → vecErr f (getDie s d) k r w = none → ∃ t r', exec i s = .next t ∧ (getCore t d c).vq = k.vq ++ [vecOp f k r w] ∧
        (getCore t d c).run = some r' ∧ r'.vecIss = r.vecIss + 1 ∧
        (r.pc + 1 < dProgLen r.job → r'.pc = r.pc + 1 ∧ r'.ended = none) ∧
        (∀ g, g ∈ r'.pend ↔ g ∈ r.pend ∨ (f.reg w = some g ∧ g ≠ 0)) ∧ SameMemory s t) := by
  intro h
  have hk := h.core_eq; have hg := h.going.1
  simp only [hex, vecIssue, issue_of h]
  refine ⟨fun hl => by rw [if_pos hl], fun hl st hst => ?_, fun hl hst => ?_⟩
  · rw [if_neg (by omega)]
    simp only [hst]
    refine ⟨_, _, rfl, by rw [endBy_core]; exact issued_run .., ?_, by rw [endBy_core]; rfl⟩
    simp only [endRun, hg]
  · rw [if_neg (by omega)]
    simp only [hst]
    have ht := readTouch_only (getDie s d) ((vecSrcs f (vecOp f k r w)).map (fun t => vTouch t (vecOp f k r w).n)).flatten
    refine ⟨_, _, rfl, by rw [getCore_setCore_same]; simp only [issued_vq], by rw [getCore_setCore_same]; rfl, by simp [runNext_keep], fun hp => ?_, fun g => ?_, ?_⟩
    · rw [runNext_go (by exact hp)]; exact ⟨rfl, hg⟩
    · simp only [runNext_keep]
      cases hr : f.reg w with
      | none => simp
      | some q =>
        simp only [Option.some.injEq]
        split
        · subst_vars; constructor
          · exact fun h => .inl h
          · rintro (h | ⟨rfl, h⟩)
            · exact h
            · exact absurd rfl h
        · rw [mem_sadd]
          constructor
          · rintro (h | rfl)
            · exact .inl h
            · exact .inr ⟨rfl, by assumption⟩
          · rintro (h | ⟨rfl, h⟩)
            · exact .inl h
            · exact .inr rfl
    · refine same_trans (same_setDie_touch ht) (same_setCore ?_)
      rw [getCore_setDie_cores (touchOnly_cores ht), hk]; rfl

theorem vecPutBlock_only (x : Die) (k : Core) (r : Run) (o : VecOp) (v i0 e0 : Nat) (ys : List F32) :
    ScratchOnly k (vecPutBlock x k r o v i0 e0 ys).2.1 ∧ StatusOnly r (vecPutBlock x k r o v i0 e0 ys).2.2 := by
  unfold vecPutBlock
  extract_lets w f p0
  split
  · split
    extract_lets
    split
    · exact ⟨scratchOnly_refl _, _, _, _, rfl⟩
    · exact ⟨coreStore_scratch .., _, _, _, rfl⟩
  · split
    extract_lets
    split
    · exact ⟨scratchOnly_refl _, _, _, _, rfl⟩
    · dsimp only
      exact ⟨scratchOnly_trans (foldl_scratch _ (fun _ _ => putElem_scratch ..) _ _) (coreStore_scratch ..), _, _, _, rfl⟩

theorem vecPut_only (x : Die) (k : Core) (r : Run) (o : VecOp) (n e : Nat) (ys : List F32) :
    ScratchOnly k (vecPut x k r o n e ys).2.1 ∧ StatusOnly r (vecPut x k r o n e ys).2.2 := by
  induction n generalizing x k r e ys with
  | zero => exact ⟨scratchOnly_refl _, statusOnly_refl _⟩
  | succ n ih =>
    cases ys with
    | nil => exact ⟨scratchOnly_refl _, statusOnly_refl _⟩
    | cons y ys =>
      simp only [vecPut]
      split
      · obtain ⟨h1, h2⟩ := vecPutBlock_only x k r o (vPos o.d e).1 (vPos o.d e).2 e
          ((y :: ys).take (min (32 - (vPos o.d e).2 % 32) (o.d.len - (vPos o.d e).2)))
        obtain ⟨h3, h4⟩ := ih (vecPutBlock x k r o (vPos o.d e).1 (vPos o.d e).2 e
          ((y :: ys).take (min (32 - (vPos o.d e).2 % 32) (o.d.len - (vPos o.d e).2)))).1 _ _ _ _
        exact ⟨scratchOnly_trans h1 h3, statusOnly_trans h2 h4⟩
      · split
        · obtain ⟨h3, h4⟩ := ih x k { r with vstatus := r.vstatus ||| (convertVal (streamFmt o.d) (vRmode o.word) (vOvfm o.word) (vecRnd r o 3 e) (f32Val y)).2 } (e + 1) ys
          exact ⟨h3, statusOnly_trans ⟨_, _, _, rfl⟩ h4⟩
        · obtain ⟨h3, h4⟩ := ih (putElem x k o.d (vPos o.d e).1 (vPos o.d e).2 (convertVal (streamFmt o.d) (vRmode o.word) (vOvfm o.word) (vecRnd r o 3 e) (f32Val y)).1).1
            (putElem x k o.d (vPos o.d e).1 (vPos o.d e).2 (convertVal (streamFmt o.d) (vRmode o.word) (vOvfm o.word) (vecRnd r o 3 e) (f32Val y)).1).2 _ (e + 1) ys
          exact ⟨scratchOnly_trans (putElem_scratch ..) h3, statusOnly_trans ⟨_, _, _, rfl⟩ h4⟩

theorem vecRetire_core (s : State) (d c : Nat) (x : Die) (k : Core) (r : Run) (o : VecOp) (rest : List VecOp) (reg : Option (Nat × Word64)) :
    (getCore (vecRetire s d c x k r o rest reg) d c).vq = rest ∧
    (getCore (vecRetire s d c x k r o rest reg) d c).run = some { r with
      vecDone := r.vecDone + 1, pend := match reg with | some (g, _) => sdel r.pend g | none => r.pend } ∧
    (∀ q, greg (getCore (vecRetire s d c x k r o rest reg) d c) q = match reg with
      | some (g, v) => if q = g ∧ g ≠ 0 then v else greg k q
      | none => greg k q) := by
  simp only [vecRetire, getCore_tellPos, put_core]
  cases reg with
  | none => exact ⟨rfl, rfl, fun _ => rfl⟩
  | some p => exact ⟨by simp, by simp; rfl, fun q => by rw [greg_setReg]; rfl⟩

theorem foldl_scratch' {α : Type} (f : Die × Core → α → Die × Core) (h : ∀ a i, ScratchOnly a.2 (f a i).2) (l : List α) (x : Die) (k : Core) :
    ScratchOnly k (l.foldl f (x, k)).2 := foldl_scratch f h l (x, k)

theorem hits_length (xs : List F32) (f : F32 → Bool) :
    (xs.zipIdx.filter (fun p => f p.1)).length = (xs.filter f).length := by
  have : ∀ n, ((xs.zipIdx n).filter (fun p => f p.1)).length = (xs.filter f).length := by
    induction xs with
    | nil => intro n; rfl
    | cons a xs ih =>
      intro n
      simp only [List.zipIdx_cons, List.filter_cons]
      split <;> simp [ih]
  exact this 0

end Sys2Proof.Laws
end

