-- ==== Sys2Proof/Laws/Knots.lean ====
section
/-! SUPPORT. What arrivals, signals and releases do to knots, and what they leave alone. -/

namespace Sys2Proof.Laws

open Sys2Proof.Machine

theorem getKnot_setCore (s : State) (d c : Nat) (k : Core) (e j : Nat) : getKnot (setCore s d c k) e j = getKnot s e j := by
  simp only [getKnot, getDie_setCore]
  split
  · split
    · subst_vars; rfl
    · rfl
  · rfl

theorem getKnot_setKnot_same (s : State) (d k : Nat) (n : Knot) : getKnot (setKnot s d k n) d k = n := by
  simp only [getKnot, setKnot]
  split
  · next h => simp only [h, if_true, getDie_updDie_same, tget_tset_same]
  · next h => simp only [h, if_false, tget_tset_same]

theorem getKnot_wake (s : State) (d c v e j : Nat) : getKnot (wake s d c v) e j = getKnot s e j := getKnot_setCore ..

theorem badKnot_of {s d c} {k : Core} {r : Run} (hg : r.ended = none) :
    ∃ t r', (Host.Outcome.next (setCore s d c (setRun k (endRun r .badKnot))) : Host.Outcome State Fault Refusal) = .next t ∧
      (getCore t d c).run = some r' ∧ r'.ended = some .badKnot :=
  ⟨_, _, rfl, by rw [getCore_setCore_same]; rfl, by simp only [endRun, hg]⟩

theorem wake_core (s : State) (d c v : Nat) {r : Run} {w : KnotWait} (h : (getCore s d c).run = some r) (hw : r.wait = some w) :
    getCore (wake s d c v) d c = setReg (setRun (getCore s d c) (runNext { r with wait := none })) w.reg (BitVec.ofNat 64 v) := by
  simp only [wake, updCore, getCore_setCore_same, h, hw]

theorem getKnot_updDie_of (s : State) (d : Nat) (f : Die → Die) (h : (f (getDie s d)).knots = (getDie s d).knots) (e j : Nat) :
    getKnot (updDie s d f) e j = getKnot s e j := by
  simp only [getKnot, getDie_updDie]
  split
  · split
    · subst_vars; rw [h]
    · rfl
  · rfl

theorem getKnot_bump (s : State) (d n e j : Nat) : getKnot (bump s d n) e j = getKnot s e j := getKnot_updDie_of _ _ _ rfl ..

theorem getCore_bump (s : State) (d n e c : Nat) : getCore (bump s d n) e c = getCore s e c := getCore_updDie_of _ _ _ rfl ..

theorem serveTakes_none (s : State) (d k f : Nat) (h : (getKnot s d k).takes = []) : serveTakes s d k f = s := by
  cases f with
  | zero => rfl
  | succ f => simp only [serveTakes, h]

theorem knotSignal_idle (s : State) (d k a : Nat) (h : (getKnot s d k).takes = []) :
    getKnot (knotSignal s d k a) d k = { getKnot s d k with count := min (2 ^ 32 - 1) ((getKnot s d k).count + a) } ∧
    ∀ e c, getCore (knotSignal s d k a) e c = getCore s e c := by
  simp only [knotSignal]
  rw [serveTakes_none _ _ _ _ (by rw [getKnot_setKnot_same]; exact h)]
  refine ⟨getKnot_setKnot_same .., fun e c => ?_⟩
  rw [getCore_setKnot]; split
  · rw [getCore_bump]
  · rfl

/-- What the fold over waiting cores leaves alone: knots, and cores that do not wait. -/
theorem wakes_keep {α : Type} (f : State → α → State)
    (hf : ∀ s a, f s a = s ∨ ∃ d c v, f s a = wake s d c v) (l : List α) (s : State) :
    (∀ e j, getKnot (l.foldl f s) e j = getKnot s e j) ∧
    (∀ e c r, (getCore s e c).run = some r → r.wait = none → getCore (l.foldl f s) e c = getCore s e c) := by
  induction l generalizing s with
  | nil => exact ⟨fun _ _ => rfl, fun _ _ _ _ _ => rfl⟩
  | cons a l ih =>
    rw [List.foldl_cons]
    obtain ⟨h1, h2⟩ := ih (f s a)
    rcases hf s a with h | ⟨d, c, v, h⟩
    · rw [h] at h1 h2 ⊢; exact ⟨h1, h2⟩
    · have hk : ∀ e j, getKnot (f s a) e j = getKnot s e j := by intro e j; rw [h, getKnot_wake]
      have hc : ∀ e b r, (getCore s e b).run = some r → r.wait = none → getCore (f s a) e b = getCore s e b := by
        intro e b r hr hw
        rw [h]
        simp only [wake, updCore, getCore_setCore]
        split
        · next hh => obtain ⟨rfl, rfl⟩ := hh; rw [hr]; simp only [hw]
        · rfl
      refine ⟨fun e j => by rw [h1, hk], fun e b r hr hw => ?_⟩
      rw [h2 e b r (by rw [hc e b r hr hw]; exact hr) hw, hc e b r hr hw]

/-- Every core that waits, in a list of cores to wake, is woken with the value, once. -/
theorem wakes_reach (v : Nat) (l : List (Nat × Nat × KnotWait)) (s : State) {e c : Nat} {r : Run} {w : KnotWait}
    (hr : (getCore s e c).run = some r) (hw : r.wait = some w) (hm : (e, c, w) ∈ l) :
    getCore (l.foldl (fun s (d', c, _) => wake s d' c v) s) e c =
      setReg (setRun (getCore s e c) (runNext { r with wait := none })) w.reg (BitVec.ofNat 64 v) := by
  induction l generalizing s with
  | nil => cases hm
  | cons a l ih =>
    rw [List.foldl_cons]
    by_cases ha : a.1 = e ∧ a.2.1 = c
    · obtain ⟨rfl, rfl⟩ := ha
      have h1 := wake_core s a.1 a.2.1 v hr hw
      have h2 : (getCore (wake s a.1 a.2.1 v) a.1 a.2.1).run = some (runNext { r with wait := none }) := by
        rw [h1]; simp only [setReg]; split <;> rfl
      have h3 : (runNext { r with wait := none }).wait = none := by
        simp only [runNext, endRun]; split
        · rfl
        · split <;> rfl
      exact ((wakes_keep (fun s (q : Nat × Nat × KnotWait) => wake s q.1 q.2.1 v) (fun s a => .inr ⟨_, _, _, rfl⟩) l _).2 _ _ _ h2 h3).trans h1
    · have hc : getCore (wake s a.1 a.2.1 v) e c = getCore s e c := by
        simp only [wake, updCore, getCore_setCore]
        rw [if_neg (fun h => ha ⟨h.1.symm, h.2.symm⟩)]
      have hm' : (e, c, w) ∈ l := by
        rcases List.mem_cons.mp hm with h | h
        · exact absurd (by rw [← h]; exact ⟨rfl, rfl⟩) ha
        · exact h
      rw [ih _ (by rw [hc]; exact hr) hm', hc]

/-- A core of the knot's die, or for a knot of the package a core of any of its dies, that waits there is among its waiters. -/
theorem mem_knotWaiters (s : State) {d k e c : Nat} {r : Run} {w : KnotWait} (hr : (getCore s e c).run = some r) (hw : r.wait = some w)
    (hk : w.knot = k) (he : if k < 256 then e = d else e < ndies s.variant) : (e, c, w) ∈ knotWaiters s d k := by
  have hc : ∃ q, tfind (getDie s e).cores c = some q ∧ q.run = some r := by
    simp only [getCore, coreOf, tget] at hr
    cases h : tfind (getDie s e).cores c with
    | none => rw [h] at hr; cases hr
    | some q => rw [h] at hr; exact ⟨q, rfl, hr⟩
  obtain ⟨q, h1, h2⟩ := hc
  have hd : ∀ l : List (Nat × Core), (c, q) ∈ l → (e, c, w) ∈ l.filterMap (fun (c, q) =>
      match q.run with
      | some r => match r.wait with
        | some w => if w.knot = k then some (e, c, w) else none
        | none => none
      | none => none) := by
    intro l hl
    exact List.mem_filterMap.mpr ⟨(c, q), hl, by simp only [h2, hw, hk, if_true]⟩
  simp only [knotWaiters]
  split
  · next h => rw [if_pos h] at he; subst he; exact hd _ (tfind_mem h1)
  · next h =>
    rw [if_neg h] at he
    exact List.mem_flatten.mpr ⟨_, List.mem_map.mpr ⟨e, List.mem_range.mpr he, rfl⟩, hd _ (tfind_mem h1)⟩

theorem releaseGen_facts (s : State) (d k res : Nat) :
    getKnot (releaseGen s d k res) d k = { getKnot s d k with
      gen := ((getKnot s d k).gen + 1) % 2 ^ 16, arrivals := (getKnot s d k).arrivals - knotCount (getKnot s d k), armed := (getKnot s d k).armed.drop 1
      results := if res = 0 then tdel (getKnot s d k).results (getKnot s d k).gen else tset (getKnot s d k).results (getKnot s d k).gen res } ∧
    (∀ e c r, (getCore s e c).run = some r → r.wait = none → getCore (releaseGen s d k res) e c = getCore s e c) := by
  simp only [releaseGen, wakeReleased]
  obtain ⟨h1, h2⟩ := wakes_keep (fun s (q : Nat × Nat × KnotWait) =>
      let n := getKnot s d k
      if !q.2.2.take && knotReleased n q.2.2.gen then wake s q.1 q.2.1 (knotResult n q.2.2.gen) else s) (fun s a => by
        dsimp only; split
        · exact .inr ⟨_, _, _, rfl⟩
        · exact .inl rfl) (knotWaiters (setKnot s d k { getKnot s d k with
            gen := ((getKnot s d k).gen + 1) % 2 ^ 16, arrivals := (getKnot s d k).arrivals - knotCount (getKnot s d k), armed := (getKnot s d k).armed.drop 1
            results := if res = 0 then tdel (getKnot s d k).results (getKnot s d k).gen else tset (getKnot s d k).results (getKnot s d k).gen res }) d k)
        (setKnot s d k { getKnot s d k with
            gen := ((getKnot s d k).gen + 1) % 2 ^ 16, arrivals := (getKnot s d k).arrivals - knotCount (getKnot s d k), armed := (getKnot s d k).armed.drop 1
            results := if res = 0 then tdel (getKnot s d k).results (getKnot s d k).gen else tset (getKnot s d k).results (getKnot s d k).gen res })
  refine ⟨(h1 d k).trans (getKnot_setKnot_same ..), fun e c r hr hw => ?_⟩
  refine (h2 e c r ?_ hw).trans (getCore_setKnot ..)
  rw [getCore_setKnot]; exact hr

/-- A knot with too few arrivals for a generation beyond those armed is settled. -/
theorem settleKnot_few (s : State) (d k f : Nat) (h : (getKnot s d k).arrivals < ((getKnot s d k).armed.length + 1) * knotCount (getKnot s d k)) :
    settleKnot d k f s = s := by
  cases f with
  | zero => rfl
  | succ f => simp only [settleKnot]; rw [if_pos]; exact .inr (.inl h)

/-- One arrival at a counted barrier of the package. -/
theorem knotArrive_facts (s : State) (d k : Nat) (hk : knotKind (getKnot s d k) = 1) (h3 : k < 320)
    (ha : (getKnot s d k).arrivals < knotCount (getKnot s d k)) (h1 : (getKnot s d k).armed = []) (h2 : (getKnot s d k).sentArrive = false) :
    (knotArrive s d k).1 = (getKnot s d k).gen % 2 ^ 16 ∧
    (getKnot (knotArrive s d k).2 d k).gen = (if (getKnot s d k).arrivals + 1 = knotCount (getKnot s d k) then ((getKnot s d k).gen + 1) % 2 ^ 16 else (getKnot s d k).gen) ∧
    (getKnot (knotArrive s d k).2 d k).arrivals = (if (getKnot s d k).arrivals + 1 = knotCount (getKnot s d k) then 0 else (getKnot s d k).arrivals + 1) ∧
    (∀ e c r, (getCore s e c).run = some r → r.wait = none → getCore (knotArrive s d k).2 e c = getCore s e c) := by
  have hc : 0 < knotCount (getKnot s d k) := by simp only [knotCount]; omega
  generalize hn : getKnot s d k = n at *
  have hdiv : n.arrivals / knotCount n = 0 := Nat.div_eq_of_lt ha
  simp only [knotArrive, hn, hdiv, Nat.add_zero, true_and, settle]
  have hg : getKnot (setKnot s d k { n with arrivals := n.arrivals + 1 }) d k = { n with arrivals := n.arrivals + 1 } := getKnot_setKnot_same ..
  by_cases he : n.arrivals + 1 = knotCount n
  · have hcnt : knotCount { n with arrivals := n.arrivals + 1 } = knotCount n := rfl
    have e : settleKnot d k ((getKnot (setKnot s d k { n with arrivals := n.arrivals + 1 }) d k).arrivals + 2) (setKnot s d k { n with arrivals := n.arrivals + 1 })
        = releaseGen (setKnot s d k { n with arrivals := n.arrivals + 1 }) d k 0 := by
      rw [show (getKnot (setKnot s d k { n with arrivals := n.arrivals + 1 }) d k).arrivals + 2 =
        (getKnot (setKnot s d k { n with arrivals := n.arrivals + 1 }) d k).arrivals + 1 + 1 from rfl]
      unfold settleKnot
      dsimp only
      rw [hg, if_neg, if_neg (by omega), if_neg]
      · refine settleKnot_few _ _ _ _ ?_
        rw [(releaseGen_facts ..).1, hg]
        show n.arrivals + 1 - knotCount n < ((n.armed.drop 1).length + 1) * knotCount n
        rw [h1]; simp only [List.drop_nil, List.length_nil]; omega
      · show ¬knotKind n = 3; omega
      · rintro (h | h | h)
        · exact h.1 hk
        · have : n.arrivals + 1 < (n.armed.length + 1) * knotCount n := h
          rw [h1] at this; simp only [List.length_nil] at this; omega
        · rw [h2] at h; cases h
    rw [e]
    obtain ⟨r1, r2⟩ := releaseGen_facts (setKnot s d k { n with arrivals := n.arrivals + 1 }) d k 0
    rw [r1, hg, if_pos he, if_pos he]
    refine ⟨rfl, ?_, fun e c r hr hw => ?_⟩
    · show n.arrivals + 1 - knotCount n = 0; omega
    · rw [r2 e c r (by rw [getCore_setKnot]; exact hr) hw, getCore_setKnot]
  · rw [settleKnot_few _ _ _ _ (by
      rw [hg]; show n.arrivals + 1 < (n.armed.length + 1) * knotCount n
      rw [h1]; simp only [List.length_nil]; omega), hg, if_neg he, if_neg he]
    exact ⟨rfl, rfl, fun e c r hr hw => getCore_setKnot ..⟩

theorem clock_setCore (s : State) (d c : Nat) (k : Core) (e : Nat) : (getDie (setCore s d c k) e).clock = (getDie s e).clock := by
  rw [getDie_setCore]; split
  · next h => rw [h]
  · rfl

theorem clock_wake (s : State) (d c v e : Nat) : (getDie (wake s d c v) e).clock = (getDie s e).clock := clock_setCore ..

theorem clock_setKnot (s : State) (d k : Nat) (n : Knot) (e : Nat) : (getDie (setKnot s d k n) e).clock = (getDie s e).clock := by
  simp only [setKnot]; split
  · rw [getDie_updDie]; split
    · next h => rw [h]
    · rfl
  · rfl

theorem clock_releaseGen (s : State) (d k res e : Nat) : (getDie (releaseGen s d k res) e).clock = (getDie s e).clock := by
  simp only [releaseGen, wakeReleased]
  rw [← clock_setKnot s d k _ e]
  generalize setKnot s d k _ = t
  generalize knotWaiters t d k = l
  induction l generalizing t with
  | nil => rfl
  | cons a l ih =>
    rw [List.foldl_cons, ih]
    split
    · exact clock_wake ..
    · rfl

end Sys2Proof.Laws
end

