-- ==== Sys2Proof/Laws/Rings.lean ====
section
/-! SUPPORT. Rings, records and jobs: reading a record back, what writing a completion record leaves as it was, lists and little-endian bytes. -/

namespace Sys2Proof.Laws

open Sys2Proof.Machine

theorem tset_tset {α : Type} (t : Tbl α) (i : Nat) (v w : α) : tset (tset t i v) i w = tset t i w := by
  induction t with
  | nil => simp [tset]
  | cons p t ih =>
    obtain ⟨k, u⟩ := p
    simp only [tset]
    split
    · simp [tset]
    · split
      · simp [tset]
      · simp only [tset, *, if_false]

theorem leNat_byte (bs : List Byte) (j : Nat) : leNat bs / 256 ^ j % 256 = (nth bs j 0).toNat := by
  induction bs generalizing j with
  | nil => simp [leNat, nth]
  | cons b bs ih =>
    have hb := b.isLt
    cases j with
    | zero => simp only [leNat, nth, List.getElem?_cons_zero, Option.getD_some, pow_zero, Nat.div_one]; omega
    | succ j =>
      have := ih j
      simp only [nth, List.getElem?_cons_succ] at this ⊢
      rw [← this, pow_succ, Nat.mul_comm (256 ^ j), ← Nat.div_div_eq_div_mul]
      congr 2
      simp only [leNat]; omega

/-- Byte j of a record read from bytes. -/
theorem fld_record {n : Nat} (bs : List Byte) (j : Nat) (h : 8 * j + 8 ≤ n) :
    fld (BitVec.ofNat n (leNat bs)) (8 * j + 7) (8 * j) = (nth bs j 0).toNat := by
  rw [← leNat_byte]
  simp only [fld, nbits, BitVec.toNat_ofNat, Nat.shiftRight_eq_div_pow, show 8 * j + 7 + 1 - 8 * j = 8 by omega]
  obtain ⟨m, rfl⟩ : ∃ m, n = 8 * j + (8 + m) := ⟨n - 8 * j - 8, by omega⟩
  have h256 : 256 ^ j = 2 ^ (8 * j) := by rw [show (256 : Nat) = 2 ^ 8 from rfl, ← pow_mul]
  rw [h256, Nat.pow_add, Nat.mod_mul_right_div_self, Nat.mod_mod_of_dvd _ ⟨2 ^ m, Nat.pow_add ..⟩]

theorem nth_append {α : Type} (l m : List α) (j : Nat) (d : α) : nth (l ++ m) j d = if j < l.length then nth l j d else nth m (j - l.length) d := by
  simp only [nth, List.getElem?_append]; split <;> rfl

theorem nth_cons_succ {α : Type} (a : α) (l : List α) (j : Nat) (d : α) : nth (a :: l) (j + 1) d = nth l j d := rfl

theorem nth_take_drop {α : Type} (l : List α) (a b j : Nat) (d : α) (h : j < b) : nth ((l.drop a).take b) j d = nth l (a + j) d := by
  simp only [nth, List.getElem?_take, h, if_true, List.getElem?_drop]

theorem nth_map_range {α : Type} (f : Nat → α) (n j : Nat) (d : α) (h : j < n) : nth ((List.range n).map f) j d = f j := by
  simp [nth, h]

theorem dmaOutside_of {a b : List Seg} (h : ∀ g ∈ a ++ b, (placeDie g.place).isSome = true) (q : DmaReq) (ha : q.src = a) (hb : q.dst = b) :
    dmaOutside q = false := by
  simp only [dmaOutside, ha, hb]
  rw [Bool.and_eq_false_imp]
  intro hh
  exfalso
  rw [Bool.or_eq_true, List.any_eq_true, List.any_eq_true] at hh
  rcases hh with ⟨g, hg, e⟩ | ⟨g, hg, e⟩
  all_goals
    unfold segFar at e
    split at e
    · next ep =>
      first
        | have := h g (List.mem_append_left _ hg); rw [ep] at this; cases this
        | have := h g (List.mem_append_right _ hg); rw [ep] at this; cases this
    · cases e

theorem dmaStart_inside (s : State) (d : Nat) (o : DmaOwner) (a b : List Seg) (n : Nat) (h : ∀ g ∈ a ++ b, (placeDie g.place).isSome = true) :
    dmaStart s d o a b n = setDie s d { getDie s d with
      nextId := (getDie s d).nextId + 1
      dmas := (getDie s d).dmas ++ [{ id := (getDie s d).nextId, owner := o, src := a, dst := b, len := n, next := 0, units := 0, busy := [], status := .ok, aborted := false, replayed := false }] } := by
  have hd := dmaOutside_of (a := a) (b := b) h { id := (getDie s d).nextId, owner := o, src := a, dst := b, len := n, next := 0, units := 0, busy := [], status := .ok, aborted := false, replayed := false } rfl rfl
  simp only [dmaStart, takeId, hd, Bool.false_eq_true, if_false, updDie, getDie_setDie_same]
  simp only [setDie, tset_tset]

/-- A table whose entries are replaced, their keys kept. -/
theorem tfind_map {α : Type} (t : Tbl α) (g : Nat × α → Nat × α) (h : ∀ p, (g p).1 = p.1) (i : Nat) :
    tfind (t.map g) i = (tfind t i).map (fun v => (g (i, v)).2) := by
  induction t with
  | nil => rfl
  | cons p t ih =>
    obtain ⟨k, v⟩ := p
    have hk : g (k, v) = (k, (g (k, v)).2) := Prod.ext (h _) rfl
    rw [List.map_cons, hk]
    simp only [tfind]
    split
    · next e => subst e; rfl
    · exact ih

theorem getCq_settleRings (s : State) (q : Nat) : ∃ st, getCq (settleRings s) q = { getCq s q with state := st } := by
  simp only [getCq, settleRings, tget]
  rw [tfind_map]
  · cases tfind s.cqs q with
    | none => exact ⟨_, rfl⟩
    | some r =>
      simp only [Option.map_some, Option.getD_some]
      split
      · exact ⟨_, rfl⟩
      · exact ⟨_, rfl⟩
  · intro p; rfl

theorem settleRings_out (s : State) : (settleRings s).out = s.out := rfl

theorem settleRings_ops (s : State) : (settleRings s).ops = s.ops := rfl

theorem settleRings_dies (s : State) : (settleRings s).dies = s.dies := rfl

theorem settleRings_variant (s : State) : (settleRings s).variant = s.variant := rfl

theorem linkStore_sends (s : State) (a : Nat) (bs : List Byte) : Sent (linkStore s a bs) (.store a bs) := by
  unfold Sent linkStore
  split
  · rename_i h; simp [h]
  · rename_i h; simp [h]

theorem linkIrq_keeps {s : State} {o : Out} (v : Nat) (h : Sent s o) : Sent (linkIrq s v) o := by
  unfold Sent at *
  unfold linkIrq
  split
  · rename_i hl
    rw [if_pos hl] at h
    obtain ⟨n, hn⟩ := h
    simp only [hl, if_true]
    exact ⟨n, List.mem_append_left _ hn⟩
  · rename_i hl
    rw [if_neg hl] at h
    have he : ¬(emit s (.interrupt v)).itgLost = true := hl
    rw [if_neg he]
    exact List.mem_append_left _ h

theorem commitSlot_only (s : State) (r : Rec) : ∃ k, commitSlot s r = { s with keep := k } := by
  unfold commitSlot
  split
  · split
    · split <;> exact ⟨_, rfl⟩
    · exact ⟨_, rfl⟩
  · exact ⟨_, rfl⟩

theorem recProgress_sent (s : State) (r : Rec) (done : Bool) : SentOnly s (recProgress s r done) := by
  unfold recProgress
  split
  · exact progressEntry_sent ..
  · exact sentOnly_refl s

/-- What goes before a record: its last progress entry, and the valid flag that a STAGE sets. -/
theorem recFirst_only (s : State) (r : Rec) : ∃ k, SentOnly { s with keep := k } (match r.op.bind (findOp s) with
    | some o => putProgress (commitSlot s r) { o with pos := r.pos } (r.status == .ok && o.type != 4)
    | none => recProgress s r (r.status == .ok || r.status == .noAck)) := by
  obtain ⟨k, hk⟩ := commitSlot_only s r
  split
  · exact ⟨k, hk ▸ putProgress_sent ..⟩
  · exact ⟨s.keep, recProgress_sent ..⟩

/-- What a record written at the tail of its ring does. -/
theorem writeRec_facts (s : State) (r : Rec) :
    Sent (writeRec s r) (.store ((getCq s r.cq).base + 32 * ((getCq s r.cq).tail % 2 ^ (getCq s r.cq).log2)) (recBytes r (getCq s r.cq).log2 (getCq s r.cq).tail)) ∧
    (∀ o ∈ s.out, o ∈ (writeRec s r).out) ∧
    (getCq (writeRec s r) r.cq).tail = ((getCq s r.cq).tail + 1) % 2 ^ 32 ∧
    (writeRec s r).dies = s.dies ∧ (writeRec s r).variant = s.variant ∧ (writeRec s r).phase = s.phase ∧
    (∀ id, r.op = some id → findOp (writeRec s r) id = none) := by
  have hc : ∀ c : ComRing, (countRecord c).1.tail = c.tail := by
    intro c; simp only [countRecord]; repeat' split
    all_goals rfl
  unfold writeRec
  extract_lets s0 c j c1
  obtain ⟨kp, h0⟩ : ∃ kp, SentOnly { s with keep := kp } s0 := recFirst_only s r
  have hcq : c = getCq s r.cq := by obtain ⟨_, _, e⟩ := h0; simp only [c, e]; rfl
  generalize hp : (if r.noint then (c1, false) else countRecord c1) = p
  have ht : p.1.tail = (c.tail + 1) % 2 ^ 32 := by
    rw [← hp]; split
    · rfl
    · exact hc _
  clear hp
  obtain ⟨c2, irq⟩ := p
  dsimp only at ht ⊢
  have h2 : ∃ s2, s2 = (if irq = true then linkIrq (linkStore (setCq s0 r.cq c2) (c.base + 32 * (j % 2 ^ c.log2)) (recBytes r c.log2 j)) c.vector
        else linkStore (setCq s0 r.cq c2) (c.base + 32 * (j % 2 ^ c.log2)) (recBytes r c.log2 j)) ∧
      Sent s2 (.store (c.base + 32 * (j % 2 ^ c.log2)) (recBytes r c.log2 j)) ∧ SentOnly (setCq s0 r.cq c2) s2 := by
    refine ⟨_, rfl, ?_, ?_⟩
    · split
      · exact linkIrq_keeps _ (linkStore_sends ..)
      · exact linkStore_sends ..
    · split
      · exact sentOnly_trans (linkStore_sent ..) (linkIrq_sent ..)
      · exact linkStore_sent ..
  obtain ⟨s2, e2, hs, h2⟩ := h2
  rw [← e2]
  obtain ⟨o0, w0, e0⟩ := h0
  obtain ⟨o2, w2, e3⟩ := h2
  have hcq2 : getCq s2 r.cq = c2 := by rw [e3]; simp [getCq, setCq]
  rw [← hcq]
  clear_value s0 c c1
  refine ⟨?_, ?_, ?_, ?_, ?_, ?_, ?_⟩
  · cases r.op <;> exact hs
  · intro o ho
    have : o ∈ s2.out := by
      rw [e3, e0]; simp [setCq, ho]
    cases r.op <;> exact this
  · cases r.op with
    | none => obtain ⟨st, e⟩ := getCq_settleRings s2 r.cq; rw [e, hcq2]; exact ht
    | some id =>
      obtain ⟨st, e⟩ := getCq_settleRings (endOp s2 id) r.cq
      rw [e, show getCq (endOp s2 id) r.cq = c2 from hcq2]; exact ht
  · have : s2.dies = s.dies := by rw [e3, e0]; rfl
    cases r.op <;> exact this
  · have : s2.variant = s.variant := by rw [e3, e0]; rfl
    cases r.op <;> exact this
  · have : s2.phase = s.phase := by rw [e3, e0]; rfl
    cases r.op <;> exact this
  · intro id hid
    simp only [hid, findOp, settleRings_ops, endOp]
    rw [List.find?_eq_none]
    intro o ho
    have := (List.mem_filter.mp ho).2
    simpa using this

theorem getDie_of_dies {s t : State} (h : t.dies = s.dies) (hv : t.variant = s.variant) (d : Nat) : getDie t d = getDie s d := by
  simp only [getDie, h, hv]

theorem bytesNat_memRead (m : List Host.Cell) (a n o k : Nat) (h : o + k ≤ n) : bytesNat (memRead m a n) o k = memNat m (a + o) k := by
  simp only [bytesNat, memNat]
  congr 1
  rw [memRead_eq_map, memRead_eq_map]
  apply List.ext_getElem?
  intro i
  by_cases hi : i < k
  · simp [List.getElem?_take, hi, List.getElem?_drop, show o + i < n by omega, Nat.add_assoc]
  · simp [List.getElem?_take, hi]

theorem tfind_map_succ {α : Type} (l : List Nat) (i : Nat) (f : Nat → α) :
    tfind (l.map (fun j => (j + 1, f j))) i = if 1 ≤ i ∧ i - 1 ∈ l then some (f (i - 1)) else none := by
  induction l with
  | nil => simp [tfind]
  | cons j l ih =>
    simp only [List.map_cons, tfind, ih, List.mem_cons]
    by_cases h : j + 1 = i
    · subst h; simp
    · rw [if_neg h]
      have : ¬(1 ≤ i ∧ i - 1 = j) := by omega
      by_cases h2 : 1 ≤ i ∧ i - 1 ∈ l
      · rw [if_pos h2, if_pos ⟨h2.1, .inr h2.2⟩]
      · rw [if_neg h2, if_neg]; grind

theorem getDie_touch_cells (x : Die) (o n : Nat) : (dieGndTouch x o n).gnd.cells = x.gnd.cells := gndTouch_cells ..

theorem dropTake_skip (s : State) (d c : Nat) {r : Run} (h : (getCore s d c).run = some r) (hw : r.wait = none) : leaveKnot s d c = s := by
  simp only [leaveKnot, h, hw]

theorem countRecord_tail (c : ComRing) : (countRecord c).1.tail = c.tail ∧ (countRecord c).1.base = c.base ∧ (countRecord c).1.head = c.head ∧
    (countRecord c).1.state = c.state := by
  simp only [countRecord]; split <;> exact ⟨rfl, rfl, rfl, rfl⟩

theorem leNat_toLe (n v : Nat) : leNat (toLe n v) = v % 256 ^ n := by
  induction n generalizing v with
  | zero => simp [toLe, leNat, Nat.mod_one]
  | succ n ih =>
    simp only [toLe, leNat, ih, BitVec.toNat_ofNat]
    rw [show 256 ^ (n + 1) = 256 * 256 ^ n by ring, Nat.mod_mul]

theorem bytesNat_append (l m : List Byte) (o k : Nat) (h : o = l.length) : bytesNat (l ++ m) o k = leNat (m.take k) := by
  subst h; simp [bytesNat]

theorem bytesNat_mid (l m e : List Byte) (o k : Nat) (h : o = l.length) (hk : k = m.length) : bytesNat (l ++ (m ++ e)) o k = leNat m := by
  rw [bytesNat_append _ _ _ _ h, hk, List.take_left]

theorem startSq_only (r : SubRing) : ∃ st er, startSq r = { r with state := st, err := er } := by
  unfold startSq; split <;> exact ⟨_, _, rfl⟩

/-- Where rings settle, a submission ring's STATE may change, and its ERR with it. -/
theorem getSq_settleRings (s : State) (q : Nat) : ∃ st er, getSq (settleRings s) q = { getSq s q with state := st, err := er } := by
  simp only [getSq, settleRings, tget]
  rw [tfind_map]
  · cases tfind s.sqs q with
    | none => exact ⟨_, _, rfl⟩
    | some r =>
      simp only [Option.map_some, Option.getD_some]
      split
      · split
        · exact startSq_only r
        · exact ⟨_, _, rfl⟩
      · exact ⟨_, _, rfl⟩
  · intro p; rfl

theorem find_zipIdx {α : Type} (l m : List α) (r : α) (f : α → Bool) (n : Nat) (hr : f r = true) (hl : ∀ e ∈ l, f e = false) :
    ((l ++ r :: m).zipIdx n).find? (fun p => f p.1) = some (r, n + l.length) := by
  induction l generalizing n with
  | nil => simp [hr]
  | cons a l ih =>
    simp only [List.cons_append, List.zipIdx_cons, List.find?_cons]
    rw [hl a (by simp)]
    rw [ih (n + 1) (fun e he => hl e (by simp [he]))]
    simp only [List.length_cons]; congr 2; omega

end Sys2Proof.Laws
end

