-- ==== Sys2Proof/Laws/Descriptors.lean ====
section
/-! SUPPORT. Accepting descriptors: what acceptance, completion and aborts change and keep. -/

namespace Sys2Proof.Laws

open Sys2Proof.Machine

/-- A descriptor command whose row its descriptor is of, on a ring that takes it. -/
theorem takeDesc_of {s q desc ext row} {body : State → Op → State} (h : Accepts s q desc ext) (hr : row = true) :
    takeDesc q desc ext row body s = body (accepted s q desc ext) (newOp s q desc ext) := by
  have h2 : (getSq s q).aborts.contains (getSq s q).head = false := by
    rw [Bool.eq_false_iff]; simpa using h.untouched
  simp only [takeDesc, h.takes, hr, h2, h.header]
  simp

/-- A descriptor that the device does not take: at most the turn passes to the next ring. -/
theorem takeDesc_waits {s q desc ext row} {body : State → Op → State} (h : takesNow s q desc ext = false) (hr : row = false → 0x0D ≤ dType desc) :
    takeDesc q desc ext row body s = sqPass s q := by
  simp only [takeDesc, h]
  rw [if_neg]
  · simp
  · simpa using hr

theorem takeDesc_reserved {s q desc ext row} {body : State → Op → State} (h : takesNow s q desc ext = true) (h2 : 0x0D ≤ dType desc) :
    takeDesc q desc ext row body s = complete (accepted s q desc ext) (newOp s q desc ext) (if (getSq s q).head ∈ (getSq s q).aborts then .aborted else .badDesc) 0 := by
  have hb : headerBad desc = true := by simp [headerBad, h2]
  simp only [takeDesc, h, h2, hb]
  by_cases hm : (getSq s q).head ∈ (getSq s q).aborts
  · simp [hm]
  · simp [hm]

theorem dType_eq (desc : Word512) : dType desc = fld desc 7 0 := rfl

theorem accepted_sent (s : State) (q : Nat) (desc : Word512) (ext : List Host.Cell) :
    SentOnly { setSq { s with fresh := s.fresh + 1, sqTurn := (q + 1) % 256 } q { getSq s q with
      head := ((getSq s q).head + 1) % 2 ^ 32, err := if (getSq s q).err = 4 then 0 else (getSq s q).err, waitPosted := false
      aborts := sdel (getSq s q).aborts (getSq s q).head
      quiet := if dType desc = 0 ∨ dType desc = 0x0C then sadd (getSq s q).quiet (getSq s q).head else (getSq s q).quiet } with
        ops := s.ops ++ [newOp s q desc ext] } (accepted s q desc ext) := putProgress_sent ..

/-- A state of which only the package's clerical parts may have changed: records, rings, operations with the hoops and the drain that they hold, the keep (a slot's
valid flag), what left or waits to leave. -/
def PaperOnly (s t : State) : Prop := ∃ out wait ops recs sqs cqs hoopHold drain keep,
  t = { s with out := out, itgWait := wait, ops := ops, recs := recs, sqs := sqs, cqs := cqs, hoopHold := hoopHold, drain := drain, keep := keep }

theorem paper_refl (s : State) : PaperOnly s s := ⟨_, _, _, _, _, _, _, _, _, rfl⟩

theorem paper_trans {s t u : State} (h1 : PaperOnly s t) (h2 : PaperOnly t u) : PaperOnly s u := by
  obtain ⟨_, _, _, _, _, _, _, _, _, rfl⟩ := h1; obtain ⟨_, _, _, _, _, _, _, _, _, rfl⟩ := h2; exact ⟨_, _, _, _, _, _, _, _, _, rfl⟩

theorem paper_sent {s t : State} (h : SentOnly s t) : PaperOnly s t := by
  obtain ⟨_, _, rfl⟩ := h; exact ⟨_, _, _, _, _, _, _, _, _, rfl⟩

theorem paper_emits (s : State) (os : List Out) : PaperOnly s (emits s os) := ⟨_, _, _, _, _, _, _, _, _, rfl⟩

theorem paper_progress (s : State) (o : Op) (b : Bool) : PaperOnly s (putProgress s o b) := paper_sent (putProgress_sent ..)

theorem paper_updOp (s : State) (id : Nat) (f : Op → Op) : PaperOnly s (updOp s id f) := ⟨_, _, _, _, _, _, _, _, _, rfl⟩

theorem paper_setPos (s : State) (id pos : Nat) : PaperOnly s (setPos s id pos) := by
  obtain ⟨_, h⟩ := setPos_only s id pos
  exact paper_trans ⟨_, _, _, _, _, _, _, _, _, rfl⟩ (paper_sent h)

theorem paper_setCq (s : State) (q : Nat) (r : ComRing) : PaperOnly s (setCq s q r) := ⟨_, _, _, _, _, _, _, _, _, rfl⟩

theorem paper_endOp (s : State) (id : Nat) : PaperOnly s (endOp s id) := ⟨_, _, _, _, _, _, _, _, _, rfl⟩

theorem paper_settle (s : State) : PaperOnly s (settleRings s) := ⟨_, _, _, _, _, _, _, _, _, rfl⟩

theorem paper_writeRec (s : State) (r : Rec) : PaperOnly s (writeRec s r) := by
  unfold writeRec
  extract_lets s0 c j c1
  have h0 : PaperOnly s s0 := by
    obtain ⟨k, h⟩ : ∃ k, SentOnly { s with keep := k } s0 := recFirst_only s r
    exact paper_trans ⟨_, _, _, _, _, _, _, _, k, rfl⟩ (paper_sent h)
  clear_value s0 c c1
  generalize (if r.noint then (c1, false) else countRecord c1) = p
  obtain ⟨c2, irq⟩ := p
  dsimp only
  have h1 := paper_trans h0 (paper_trans (paper_setCq s0 r.cq c2) (paper_sent (linkStore_sent (setCq s0 r.cq c2) (c.base + 32 * (j % 2 ^ c.log2)) (recBytes r c.log2 j))))
  generalize linkStore (setCq s0 r.cq c2) (c.base + 32 * (j % 2 ^ c.log2)) (recBytes r c.log2 j) = s1 at *
  have h2 : PaperOnly s (if irq = true then linkIrq s1 c.vector else s1) := by
    split
    · exact paper_trans h1 (paper_sent (linkIrq_sent ..))
    · exact h1
  refine paper_trans (paper_trans h2 ?_) (paper_settle _)
  cases r.op with
  | none => exact paper_refl _
  | some id => exact paper_endOp ..

theorem paper_postRec (s : State) (r : Rec) : PaperOnly s (postRec s r) := by
  unfold postRec
  split
  · exact paper_writeRec s r
  · cases r.op with
    | none => exact paper_trans (paper_sent (recProgress_sent ..)) ⟨_, _, _, _, _, _, _, _, _, rfl⟩
    | some id => exact paper_trans (paper_setPos s id r.pos) ⟨_, _, _, _, _, _, _, _, _, rfl⟩

/-- A completion changes records, rings, operations and what left, nothing else. -/
theorem paper_complete (s : State) (o : Op) (st : Status) (pos : Nat) : PaperOnly s (complete s o st pos) := paper_postRec ..

theorem paper_completeId (s : State) (id : Nat) (st : Status) (pos : Nat) : PaperOnly s (completeId s id st pos) := by
  simp only [completeId]; split
  · exact paper_refl s
  · exact paper_complete ..

theorem accepted_ctxs (s : State) (q : Nat) (desc : Word512) (ext : List Host.Cell) : (accepted s q desc ext).ctxs = s.ctxs ∧ (accepted s q desc ext).hoopHold = s.hoopHold ∧
    (accepted s q desc ext).hoopQ = s.hoopQ ∧ (accepted s q desc ext).tabs = s.tabs ∧ (accepted s q desc ext).drain = s.drain := by
  obtain ⟨_, _, h⟩ := accepted_sent s q desc ext
  rw [h]; exact ⟨rfl, rfl, rfl, rfl, rfl⟩

/-- A state of which only dies, free-value draws and the clerical parts may have changed. -/
def DiesOnly (s t : State) : Prop :=
  ∃ dies fresh out wait ev evLost evFlag, t = { s with dies := dies, fresh := fresh, out := out, itgWait := wait, ev := ev, evLost := evLost, evFlag := evFlag }

theorem diesOnly_refl (s : State) : DiesOnly s s := ⟨_, _, _, _, _, _, _, rfl⟩

theorem diesOnly_trans {s t u : State} (h1 : DiesOnly s t) (h2 : DiesOnly t u) : DiesOnly s u := by
  obtain ⟨_, _, _, _, _, _, _, rfl⟩ := h1; obtain ⟨_, _, _, _, _, _, _, rfl⟩ := h2; exact ⟨_, _, _, _, _, _, _, rfl⟩

theorem diesOnly_upd (s : State) (d : Nat) (f : Die → Die) : DiesOnly s (updDie s d f) := ⟨_, _, _, _, _, _, _, rfl⟩

theorem diesOnly_set (s : State) (d : Nat) (x : Die) : DiesOnly s (setDie s d x) := ⟨_, _, _, _, _, _, _, rfl⟩

theorem diesOnly_emit (s : State) (o : Out) : DiesOnly s (emit s o) := ⟨_, _, _, _, _, _, _, rfl⟩

theorem diesOnly_event (s : State) (c d a b e f : Nat) : DiesOnly s (postEvent s c d a b e f) := by
  obtain ⟨_, _, _, _, _, h⟩ := postEvent_only s c d a b e f
  rw [h]; exact ⟨_, _, _, _, _, _, _, rfl⟩

theorem diesOnly_foldl {α : Type} (f : State → α → State) (h : ∀ s a, DiesOnly s (f s a)) (l : List α) (s : State) : DiesOnly s (l.foldl f s) := by
  induction l generalizing s with
  | nil => exact diesOnly_refl s
  | cons a l ih => exact diesOnly_trans (h s a) (ih _)

theorem placeTouch_dies (s : State) (p : Place) (n : Nat) : DiesOnly s (placeTouch s p n) := by
  simp only [placeTouch]; split
  · exact diesOnly_upd ..
  · exact diesOnly_upd ..
  · exact diesOnly_refl s

theorem devRead_dies {s : State} {d a n : Nat} {ext : List Host.Cell} {bs : List Byte} {t : State} (h : devRead s d a n ext = .ok (bs, t)) : DiesOnly s t := by
  simp only [devRead] at h
  split at h
  · cases h
  · split at h
    · cases h
    · split at h
      · cases h
      · simp only [draw] at h
        injection h with h
        have h2 := (Prod.mk.inj h).2
        rw [← h2]
        refine diesOnly_trans ⟨_, _, _, _, _, _, _, rfl⟩ (diesOnly_foldl _ (fun s g => ?_) _ _)
        split
        · exact diesOnly_refl s
        · exact diesOnly_refl s
        · exact placeTouch_dies ..

theorem tableStage_dies {s : State} {desc : Word512} {ext : List Host.Cell} {t : State} (h : tableStage s desc ext = .ok t) :
    ∃ u, DiesOnly s u ∧ t = { u with stagedTabs := t.stagedTabs } := by
  unfold tableStage at h
  extract_lets f at h
  split at h
  · cases h
  · split at h
    · cases h
    · split at h
      · cases h
      · split at h
        · cases h
        · next bs s1 hr =>
          split at h
          · cases h
          · injection h with h
            refine ⟨s1, devRead_dies hr, ?_⟩
            rw [← h]

theorem diesOnly_port (s : State) (d l : Nat) (f : Port → Port) : DiesOnly s (updPort s d l f) :=
  diesOnly_upd s d (fun x => { x with ports := tset x.ports l (f (getPort s d l)) })

theorem returnCredit_dies (s : State) (d inp b n : Nat) : DiesOnly s (returnCredit s d inp b n) := by
  unfold returnCredit
  split
  · extract_lets s1
    have h1 : DiesOnly s s1 := diesOnly_port ..
    split
    · exact diesOnly_trans h1 (diesOnly_port ..)
    · exact diesOnly_trans h1 (diesOnly_trans (diesOnly_upd s1 d _) (diesOnly_emit ..))
  · exact diesOnly_upd s d _

theorem decOpt_dies (s : State) (d : Nat) (b : Option Nat) (g : Nat) : DiesOnly s (decOpt s d b g) := by
  cases b with
  | none => exact diesOnly_refl s
  | some h =>
    show DiesOnly s (decBuf s d h g)
    unfold decBuf
    extract_lets x
    split
    · exact diesOnly_trans (diesOnly_upd s d _) (diesOnly_event ..)
    · split
      · exact diesOnly_trans (diesOnly_upd s d _) (diesOnly_event ..)
      · split
        · exact diesOnly_set ..
        · extract_lets x1 x2 s1
          split
          · exact diesOnly_trans (diesOnly_set s d _) (returnCredit_dies ..)
          · exact diesOnly_set s d _

theorem hoopBlock_congr {s t : State} (h1 : t.hoopHold = s.hoopHold) (h2 : t.hoopQ = s.hoopQ) (a : Nat) (l : NSet) (q : Bool) :
    hoopBlock t a l q = hoopBlock s a l q := by
  simp only [hoopBlock, h1, h2]

theorem hoopAsk_cases (s : State) (o : Op) (w : Bool) (h : HoopReq) :
    (hoopBlock s h.act h.dies true = none → hoopAsk s o w h = hoopStart s h) ∧
    (∀ e g qd, hoopBlock s h.act h.dies true = some (e, g, qd) → hoopAsk s o w h =
      if w = true then { updOp s o.id (fun o => { o with hoopWait := true }) with hoopQ := s.hoopQ ++ [h] } else hoopBusy s o e g qd) := by
  refine ⟨fun hb => ?_, fun e g qd hb => ?_⟩ <;> simp only [hoopAsk, hb]

theorem accepted_dies (s : State) (q : Nat) (desc : Word512) (ext : List Host.Cell) :
    (accepted s q desc ext).dies = s.dies ∧ (accepted s q desc ext).variant = s.variant ∧
    (accepted s q desc ext).lead = s.lead ∧ (accepted s q desc ext).boot = s.boot ∧ (accepted s q desc ext).keep = s.keep ∧ (accepted s q desc ext).recs = s.recs := by
  obtain ⟨_, _, h⟩ := accepted_sent s q desc ext
  rw [h]; exact ⟨rfl, rfl, rfl, rfl, rfl, rfl⟩

theorem getPort_updPort_same (s : State) (d l : Nat) (f : Port → Port) : getPort (updPort s d l f) d l = f (getPort s d l) := by
  simp only [updPort, setPort, getPort, portOf, getDie_updDie_same, tget_tset_same]

theorem getSq_sent {s t : State} (h : SentOnly s t) (q : Nat) : getSq t q = getSq s q := by
  obtain ⟨_, _, rfl⟩ := h; rfl

theorem aborts_writeRec (s : State) (r : Rec) (q : Nat) : (getSq (writeRec s r) q).aborts = (getSq s q).aborts := by
  unfold writeRec
  extract_lets s0 c j c1
  have h0 : getSq s0 q = getSq s q := by
    obtain ⟨k, h⟩ : ∃ k, SentOnly { s with keep := k } s0 := recFirst_only s r
    exact getSq_sent h q
  clear_value s0 c c1
  generalize (if r.noint then (c1, false) else countRecord c1) = p
  obtain ⟨c2, irq⟩ := p
  dsimp only
  have h1 := getSq_sent (linkStore_sent (setCq s0 r.cq c2) (c.base + 32 * (j % 2 ^ c.log2)) (recBytes r c.log2 j)) q
  generalize linkStore (setCq s0 r.cq c2) (c.base + 32 * (j % 2 ^ c.log2)) (recBytes r c.log2 j) = s1 at *
  have h2 : getSq (if irq = true then linkIrq s1 c.vector else s1) q = getSq s q := by
    split
    · rw [getSq_sent (linkIrq_sent ..), h1]; exact h0
    · rw [h1]; exact h0
  cases r.op with
  | none =>
    obtain ⟨_, _, e⟩ := getSq_settleRings (if irq = true then linkIrq s1 c.vector else s1) q
    rw [e, ← h2]
  | some id =>
    obtain ⟨_, _, e⟩ := getSq_settleRings (endOp (if irq = true then linkIrq s1 c.vector else s1) id) q
    rw [e, ← h2]; rfl

theorem aborts_complete (s : State) (o : Op) (st : Status) (pos : Nat) (q : Nat) : (getSq (complete s o st pos) q).aborts = (getSq s q).aborts := by
  unfold complete completeWith postRec
  split
  · exact aborts_writeRec ..
  · obtain ⟨_, h⟩ := setPos_only s o.id pos
    exact congrArg SubRing.aborts (getSq_sent h q)

theorem paper_core {s t : State} (h : PaperOnly s t) (d c : Nat) : getCore t d c = getCore s d c := by
  obtain ⟨_, _, _, _, _, _, _, _, _, rfl⟩ := h; rfl

theorem paper_jobRecord (s : State) (j : Job) (st : Status) (pos : Nat) (w v : Word32) : PaperOnly s (jobRecord s j st pos w v) := by
  unfold jobRecord
  split
  · split
    · exact paper_postRec ..
    · exact paper_refl s
  · exact paper_postRec ..

theorem wasteCycles_jobs (s : State) (d c n : Nat) : (getCore (wasteCycles s d c n) d c).jobs = (getCore s d c).jobs := by
  unfold wasteCycles
  split
  · rfl
  · simp only [updCore, getCore_setCore_same]

theorem dropJob_jobs (s : State) (d c : Nat) (j : Job) (st : Status) : (getCore (dropJob s d c j st) d c).jobs = (getCore s d c).jobs := by
  unfold dropJob
  rw [paper_core (paper_jobRecord ..), wasteCycles_jobs]

theorem abortJob_jobs (s : State) (e : Op) (h : (getCore s (jobDie e.desc) (jobCore e.desc)).run = none) :
    (getCore (abortJob s e) (jobDie e.desc) (jobCore e.desc)).jobs =
      (getCore s (jobDie e.desc) (jobCore e.desc)).jobs.filter (fun j => j.op ≠ some e.id) := by
  have hf : ∀ l : List Job, l.filter (fun j => !(j.op == some e.id)) = l.filter (fun j => decide (j.op ≠ some e.id)) := fun l => by
    congr 1; funext j; simp [beq_eq_decide]
  unfold abortJob
  extract_lets d c k mine s1 leave
  rw [show k.run = none from h]
  have h1 : (getCore s1 d c).jobs = k.jobs.filter (fun j => decide (j.op ≠ some e.id)) := by
    rw [← hf]; simp only [s1, getCore_setCore_same, mine]
  rw [← h1]
  show (getCore leave d c).jobs = _
  simp only [leave]
  split
  · exact dropJob_jobs ..
  · rw [paper_core (paper_complete ..)]

end Sys2Proof.Laws
end

