-- ==== Sys2Proof/Laws/Engines.lean ====
section
/-! SUPPORT. Engine requests, DMA, caches, buffers: what their operations find, change and keep. -/

namespace Sys2Proof.Laws

open Sys2Proof.Machine

theorem find_split {α : Type} (l m : List α) (q : α) (f : α → Bool) (hq : f q = true) (hl : ∀ p ∈ l, f p = false) : (l ++ q :: m).find? f = some q := by
  rw [List.find?_append]
  rw [List.find?_eq_none.mpr (fun p hp => by simp [hl p hp])]
  simp [hq]

theorem erase_split {α : Type} [DecidableEq α] (l m : List α) (q : α) (hl : q ∉ l) : (l ++ q :: m).erase q = l ++ m := by
  rw [List.erase_append_right _ hl]; simp

theorem getReq_setDone {s : State} {d : Nat} {q : EngReq} (h : q ∈ (getDie s d).engs) (w : DoneWord) :
    ∃ q', getReq (setDone s d q.id w) d q.id = some q' ∧ q'.done = some w := by
  simp only [getReq, setDone, updReq, getDie_updDie_same]
  rw [List.find?_map]
  have e : ((fun p : EngReq => p.id == q.id) ∘ fun p : EngReq => if (p.id == q.id) = true then { p with done := some w } else p) = fun p => p.id == q.id := by
    funext p
    simp only [Function.comp]
    split <;> rfl
  rw [e]
  cases hf : (getDie s d).engs.find? (fun p => p.id == q.id) with
  | none => rw [List.find?_eq_none] at hf; exact absurd (by simp) (hf q h)
  | some p =>
    have hp := List.find?_some hf
    exact ⟨_, rfl, by simp only [hp, if_true]⟩

theorem segsFrom_fresh (s : State) (n : Nat) (acc : Acc) (f a o k : Nat) : segsFrom { s with fresh := n } acc f a o k = segsFrom s acc f a o k := by
  induction f generalizing a o k with
  | zero => rfl
  | succ f ih =>
    have e1 : addrPlace { s with fresh := n } a acc = addrPlace s a acc := rfl
    have e2 : mapEnd { s with fresh := n } a = mapEnd s a := rfl
    simp only [segsFrom, ih, e1, e2]

theorem reqSegs_fresh (s : State) (n d : Nat) (q : EngReq) (wr : Bool) (a k : Nat) : reqSegs { s with fresh := n } d q wr a k = reqSegs s d q wr a k := by
  simp only [reqSegs, segs, segsFrom_fresh]
  rfl

theorem engHead_mem {s d u q} (h : engHead s d u = some q) : q ∈ (getDie s d).engs := by
  simp only [engHead] at h
  split at h
  · cases h
  · exact List.mem_of_find?_eq_some h

theorem acceptOn_adds (s : State) (t : Nat) (q : EngReq) : ∃ q', (acceptOn s t q none).engWait = s.engWait ∧
    (getDie (acceptOn s t q none) t).engs = (getDie s t).engs ++ [q'] ∧ q'.req = q.req ∧ q'.src = q.src ∧
    (rq q.req 0 1 < 4 → ∀ n, pickUnit (getDie s t) (rq q.req 0 1) = some n → q'.unit = n ∧ q'.done = (reqErr s t q).map doneWith) := by
  simp only [acceptOn, takeId, getDie_updDie_same, getDie_setDie_same]
  refine ⟨_, rfl, rfl, rfl, rfl, fun h n hn => ?_⟩
  have c : ¬(4 ≤ rq q.req 0 1) := by omega
  simp only [hn, c, if_false, Option.isNone_some, Bool.false_eq_true]
  exact ⟨rfl, rfl⟩

theorem poisonRuns_clean (s : State) (d o n : Nat) (h : gndPoisoned (getDie s d).gnd o n = false) : poisonRuns s (.ground d o) n = [(0, n, false)] := by
  have c : placePoisoned s (.ground d o) n = false := h
  simp only [poisonRuns, c, Bool.false_eq_true, if_false]

theorem blur_apart (k d1 o1 d2 o2 n : Nat) (bs : List Byte) (hl : bs.length = n) (hn : 0 < n) (h : d1 ≠ d2 ∨ o1 + n ≤ o2 ∨ o2 + n ≤ o1) :
    blur k (.ground d2 o2) bs [(.ground d1 o1, n)] = bs := by
  have c : ([(Place.ground d1 o1, n)].any fun q => placeOverlap (.ground d2 o2) bs.length q.1 q.2) = false := by
    simp only [List.any_cons, List.any_nil, Bool.or_false, placeOverlap, hl]
    rw [Bool.eq_false_iff]
    intro hh
    simp only [Bool.and_eq_true, beq_iff_eq, decide_eq_true_eq] at hh
    omega
  simp only [blur, c, Bool.false_eq_true, if_false]

theorem dmaMove_ground (s : State) (d : Nat) (q : DmaReq) (off d1 o1 d2 o2 n : Nat) (hs : q.src = [{ off := 0, len := n, place := .ground d1 o1 }])
    (hn : 0 < n) (hp : gndPoisoned (getDie s d1).gnd o1 n = false) (h : d1 ≠ d2 ∨ o1 + n ≤ o2 ∨ o2 + n ≤ o1)
    (h1 : pathTo s d (.ground d1 o1) = true) (h2 : pathTo (updDie s d1 (fun x => dieGndTouch x o1 n)) d (.ground d2 o2) = true) :
    dmaMove s d q off (.ground d1 o1) (.ground d2 o2) n =
      updDie { updDie s d1 (fun x => dieGndTouch x o1 n) with fresh := s.fresh + 1 } d2
        (fun x => dieGndWrite x o2 (memRead (getDie s d1).gnd.cells o1 n)) := by
  have hb : blur s.fresh (.ground d2 o2) (memRead (getDie s d1).gnd.cells o1 n) (dmaIns q) = memRead (getDie s d1).gnd.cells o1 n := by
    have : dmaIns q = [(.ground d1 o1, n)] := by simp only [dmaIns, hs]; rfl
    rw [this]
    exact blur_apart _ _ _ _ _ _ _ (memRead_length ..) hn h
  simp only [dmaMove, h1, h2, Bool.not_true, poisonRuns_clean s d1 o1 n hp, List.foldl_cons, List.foldl_nil, Bool.false_eq_true, if_false, placeAdd, Nat.add_zero, placeTouch, dmaPut, draw, placeBytes, placePut]
  have e : (updDie s d1 fun x => dieGndTouch x o1 n).fresh = s.fresh := rfl
  rw [e, hb]

theorem find_map_upd {α : Type} (l : List α) (p : α → Bool) (f : α → α) (q : α) (hf : ∀ x, p (f x) = p x) (h : l.find? p = some q) :
    (l.map f).find? p = some (f q) := by
  rw [List.find?_map, show p ∘ f = p from funext hf, h]; rfl

theorem getDma_updDma {s d i} {q : DmaReq} (f : DmaReq → DmaReq) (hf : ∀ x, (f x).id = x.id) (h : getDma s d i = some q) :
    getDma (updDma s d i f) d i = some (f q) := by
  simp only [getDma, updDma, getDie_updDie_same] at h ⊢
  have hq := List.find?_some h
  rw [find_map_upd _ _ _ q (fun x => by split <;> simp_all) h]
  simp [hq]

theorem getDma_other (s : State) (d e i : Nat) (f : Die → Die) (h : (f (getDie s e)).dmas = (getDie s e).dmas) : getDma (updDie s e f) d i = getDma s d i := by
  simp only [getDma, getDie_updDie]
  split
  · next hh => subst hh; rw [h]
  · rfl

theorem cells_other (s : State) (e d : Nat) (f : Die → Die) (h : (f (getDie s e)).gnd.cells = (getDie s e).gnd.cells) : (getDie (updDie s e f) d).gnd.cells = (getDie s d).gnd.cells := by
  simp only [getDie_updDie]
  split
  · next hh => subst hh; rw [h]
  · rfl

theorem bridgeTo_ne {v d b t} (h : bridgeTo v d b = some t) : t ≠ d := by
  have key : ∀ m, m ≠ 0 → d ^^^ m ≠ d := by
    intro m hm e
    have : d ^^^ (d ^^^ m) = d ^^^ d := by rw [e]
    rw [← Nat.xor_assoc, Nat.xor_self, Nat.zero_xor] at this
    exact hm this
  unfold bridgeTo at h
  split at h
  all_goals first
    | (injection h with h; rw [← h]; exact key _ (by omega))
    | cases h

theorem portOf_tset_same (x : Die) (l : Nat) (p : Port) : portOf { x with ports := tset x.ports l p } l = p := by
  simp only [portOf, tget, tfind_tset, if_true, Option.getD_some]

theorem cacheFetch_keep (x : Die) (p g : Nat) : (cacheFetch x p g).ports = x.ports ∧ (cacheFetch x p g).bufs = x.bufs ∧ (cacheFetch x p g).rxPend = x.rxPend := ⟨rfl, rfl, rfl⟩

theorem allocBuf_keep {x p g e h y} (hh : allocBuf x p g e = some (h, y)) : y.ports = x.ports ∧ y.bufs = tset x.bufs h e ∧ y.rxPend = x.rxPend := by
  simp only [allocBuf] at hh
  split at hh
  · cases hh
  · injection hh with hh
    injection hh with h1 h2
    subst h1
    rw [← h2]
    split <;> exact ⟨rfl, rfl, rfl⟩

theorem foldUpto_tset {α : Type} (n : Nat) (t : Tbl α) (dflt : α) (c : Nat → Bool) (g : Nat → α → α) (i : Nat) :
    tget (foldUpto n t (fun ps l => if c l = true then ps else tset ps l (g l (tget ps l dflt)))) i dflt =
      if i < n ∧ c i = false then g i (tget t i dflt) else tget t i dflt := by
  induction n with
  | zero => simp [foldUpto, upto]
  | succ n ih =>
    have e : ∀ f : Tbl α → Nat → Tbl α, foldUpto (n + 1) t f = f (foldUpto n t f) n := by
      intro f; simp only [foldUpto, upto, List.range_succ, List.foldl_append, List.foldl_cons, List.foldl_nil]
    rw [e]
    by_cases hc : c n = true
    · rw [if_pos hc, ih]
      by_cases hi : i < n
      · simp [hi, show i < n + 1 by omega]
      · by_cases h2 : i = n
        · subst h2; simp [hc]
        · simp [hi, show ¬i < n + 1 by omega]
    · rw [if_neg hc]
      have hc' : c n = false := by simpa using hc
      by_cases h2 : i = n
      · subst h2
        simp only [tget, tfind_tset, if_true, Option.getD_some]
        rw [if_pos ⟨by omega, hc'⟩]
        have := ih
        rw [if_neg (by omega)] at this
        simp only [tget] at this
        rw [this]
      · have : tget (tset (foldUpto n t (fun ps l => if c l = true then ps else tset ps l (g l (tget ps l dflt)))) n (g n (tget (foldUpto n t (fun ps l => if c l = true then ps else tset ps l (g l (tget ps l dflt)))) n dflt))) i dflt =
            tget (foldUpto n t (fun ps l => if c l = true then ps else tset ps l (g l (tget ps l dflt)))) i dflt := by
          simp only [tget, tfind_tset, if_neg h2]
        rw [this, ih]
        by_cases hi : i < n
        · simp [hi, show i < n + 1 by omega]
        · simp [hi, show ¬i < n + 1 by omega]

end Sys2Proof.Laws
end

