-- ==== Sys2Proof/Laws/Fabric.lean ====
section
/-! SUPPORT. Packets taken, routed and combined. -/

namespace Sys2Proof.Laws

open Sys2Proof.Machine

theorem onKind_of {s d kind e s1} (f : State → Held → State) (h : takeKind s d kind = some (e, s1)) : onKind kind d s f = drainTick (dropHeld (f s1 e) d e) := by
  simp only [onKind, h]

theorem takeKind_kind {s d kind e s1} (h : takeKind s d kind = some (e, s1)) : hKIND e.pkt.hdr = kind := by
  simp only [takeKind] at h
  split at h
  · cases h
  · split at h
    · cases h
    · next p i hf =>
      injection h with h
      injection h with h1 h2
      have := List.find?_some hf
      simp only [Bool.and_eq_true, beq_iff_eq] at this
      rw [← h1]; exact this.1

theorem find_zipIdx_split {α : Type} (l m : List α) (r : α) (f : α × Nat → Bool) (n : Nat) (hr : f (r, n + l.length) = true) (hl : ∀ e ∈ l, ∀ i, f (e, i) = false) :
    ((l ++ r :: m).zipIdx n).find? f = some (r, n + l.length) := by
  induction l generalizing n with
  | nil => simp only [List.nil_append, List.zipIdx_cons, List.find?_cons]; simp at hr; simp [hr]
  | cons a l ih =>
    simp only [List.cons_append, List.zipIdx_cons, List.find?_cons, hl a (by simp) n]
    have := ih (n + 1) (by rw [show n + 1 + l.length = n + (a :: l).length by simp only [List.length_cons]; omega]; exact hr) (fun e he i => hl e (by simp [he]) i)
    rw [this]
    simp only [List.length_cons]
    congr 2; omega

theorem eraseIdx_split {α : Type} (l m : List α) (r : α) : (l ++ r :: m).eraseIdx l.length = l ++ m := by
  induction l with
  | nil => rfl
  | cons a l ih => simp only [List.cons_append, List.length_cons, List.eraseIdx_cons_succ, ih]

theorem chipRoute_updDie (s : State) (d : Nat) (f : Die → Die) (h : (f (getDie s d)).regs = (getDie s d).regs) (chip : Nat) :
    chipRoute (updDie s d f) chip = chipRoute s chip := by
  have hw : ∀ e, regWord (getDie (updDie s d f) e) rFAB_SELF = regWord (getDie s e) rFAB_SELF := by
    intro e
    rw [getDie_updDie]
    split
    · next hh => subst hh; simp only [regWord, h]
    · rfl
  have h1 : dieOfChip (updDie s d f) chip = dieOfChip s chip := by
    simp only [dieOfChip, hw]; rfl
  simp only [chipRoute, h1]
  rfl

theorem contains_false {l : List Nat} {a : Nat} (h : a ∉ l) : l.contains a = false := by rw [Bool.eq_false_iff]; simpa using h

theorem contains_true {l : List Nat} {a : Nat} (h : a ∈ l) : l.contains a = true := List.contains_iff_mem.mpr h

theorem filter_none {α : Type} (l : List α) (p : α → Bool) (h : ∀ x ∈ l, p x = false) : l.filter p = [] := by
  rw [List.filter_eq_nil_iff]; intro x hx; rw [h x hx]; exact Bool.false_ne_true

theorem combine_sum (c : Ctx) (t : Slot) (r : Nat) (b : List Byte) (hs : cSum c = true) (hk : cTopk c = false) (n : Nat)
    (h1 : (slotWords c t).length = n) (h2 : (slotSpec c t).length = n) (h3 : (grainValues c b t.chunk).length = n) :
    ∃ (A : Nat → Word64) (B : Nat → Nat), (∀ i, A i = BitVec.ofInt 64 (toGrid (nth (grainValues c b t.chunk) i .nan) (nth (slotWins c t) (i / 256) 0) (cRIn c)
          (if cRIn c = 1 then srGen (cSeed c) ((t.chunk * cE c + i) % 2 ^ 32) r else 0)).1) ∧ (∀ i, B i = specCode (nth (grainValues c b t.chunk) i .nan)) ∧
      (combine c t r b).1 = { t with words := (List.range n).map (fun i => nth (slotWords c t) i 0 + A i), spec := (List.range n).map (fun i => nth (slotSpec c t) i 0 ||| B i) } := by
  refine ⟨_, _, fun _ => rfl, fun _ => rfl, ?_⟩
  simp only [combine, hk, Bool.false_eq_true, if_false, hs, if_true]
  congr 1
  · apply List.ext_getElem
    · simp [h1, h2, h3]
    · intro i hi1 hi2
      simp only [List.length_map, List.length_range] at hi2
      simp only [List.getElem_map, List.getElem_zipIdx, List.getElem_zip, List.getElem_range, Nat.zero_add, nth, List.getElem?_eq_getElem (show i < (slotWords c t).length by omega),
        List.getElem?_eq_getElem (show i < (grainValues c b t.chunk).length by omega)]
      rfl
  · apply List.ext_getElem
    · simp [h1, h2, h3]
    · intro i hi1 hi2
      simp only [List.length_map, List.length_range] at hi2
      simp only [List.getElem_map, List.getElem_zipIdx, List.getElem_zip, List.getElem_range, Nat.zero_add, nth, List.getElem?_eq_getElem (show i < (slotSpec c t).length by omega),
        List.getElem?_eq_getElem (show i < (grainValues c b t.chunk).length by omega)]
      rfl

theorem combine_twice (c : Ctx) (t : Slot) (r1 r2 : Nat) (b1 b2 : List Byte) (hs : cSum c = true) (hk : cTopk c = false)
    (h1 : (slotWords c t).length = cNel c t.chunk) (h2 : (slotSpec c t).length = cNel c t.chunk) (h3 : (grainValues c b1 t.chunk).length = cNel c t.chunk)
    (h4 : (grainValues c b2 t.chunk).length = cNel c t.chunk) :
    ∃ (A1 A2 : Nat → Word64) (B1 B2 : Nat → Nat),
      (∀ i, A1 i = BitVec.ofInt 64 (toGrid (nth (grainValues c b1 t.chunk) i .nan) (nth (slotWins c t) (i / 256) 0) (cRIn c)
          (if cRIn c = 1 then srGen (cSeed c) ((t.chunk * cE c + i) % 2 ^ 32) r1 else 0)).1) ∧ (∀ i, B1 i = specCode (nth (grainValues c b1 t.chunk) i .nan)) ∧
      (∀ i, A2 i = BitVec.ofInt 64 (toGrid (nth (grainValues c b2 t.chunk) i .nan) (nth (slotWins c t) (i / 256) 0) (cRIn c)
          (if cRIn c = 1 then srGen (cSeed c) ((t.chunk * cE c + i) % 2 ^ 32) r2 else 0)).1) ∧ (∀ i, B2 i = specCode (nth (grainValues c b2 t.chunk) i .nan)) ∧
      (combine c (combine c t r1 b1).1 r2 b2).1 = { t with
        words := (List.range (cNel c t.chunk)).map (fun i => nth (slotWords c t) i 0 + A1 i + A2 i)
        spec := (List.range (cNel c t.chunk)).map (fun i => nth (slotSpec c t) i 0 ||| B1 i ||| B2 i) } := by
  obtain ⟨A1, B1, ha1, hb1, e1⟩ := combine_sum c t r1 b1 hs hk _ h1 h2 h3
  rw [e1]
  generalize hN : cNel c t.chunk = n at *
  let u : Slot := { t with words := (List.range n).map (fun i => nth (slotWords c t) i 0 + A1 i), spec := (List.range n).map (fun i => nth (slotSpec c t) i 0 ||| B1 i) }
  have hw : slotWords c u = (List.range n).map (fun i => nth (slotWords c t) i 0 + A1 i) := by
    have e : ∀ l : List Word64, slotWords c { u with words := l } = if l.isEmpty = true then List.replicate (cNel c t.chunk) (startWord c) else l := fun _ => rfl
    refine (e ((List.range n).map (fun i => nth (slotWords c t) i 0 + A1 i))).trans ?_
    split
    · next hh =>
      have : n = 0 := by simpa using hh
      rw [hN, this]; rfl
    · rfl
  have hsp : slotSpec c u = (List.range n).map (fun i => nth (slotSpec c t) i 0 ||| B1 i) := by
    have e : ∀ l : List Nat, slotSpec c { u with spec := l } = if l.isEmpty = true then List.replicate (cNel c t.chunk) 0 else l := fun _ => rfl
    refine (e ((List.range n).map (fun i => nth (slotSpec c t) i 0 ||| B1 i))).trans ?_
    split
    · next hh =>
      have : n = 0 := by simpa using hh
      rw [hN, this]; rfl
    · rfl
  obtain ⟨A2, B2, ha2, hb2, e2⟩ := combine_sum c u r2 b2 hs hk n (by rw [hw]; simp) (by rw [hsp]; simp) h4
  refine ⟨A1, A2, B1, B2, ha1, hb1, ha2, hb2, ?_⟩
  show (combine c u r2 b2).1 = _
  rw [e2, hw, hsp]
  have m1 : ∀ {α : Type} (f : Nat → α) (d : α) (i : Nat), i ∈ List.range n → nth ((List.range n).map f) i d = f i := fun f d i hi => nth_map_range f n i d (List.mem_range.mp hi)
  congr 1
  · apply List.map_congr_left
    intro i hi
    rw [m1 _ _ _ hi]
  · apply List.map_congr_left
    intro i hi
    rw [m1 _ _ _ hi]

theorem paper_ctxs {s t : State} (h : PaperOnly s t) : t.ctxs = s.ctxs ∧ t.dies = s.dies := by
  obtain ⟨_, _, _, _, _, _, _, _, _, rfl⟩ := h; exact ⟨rfl, rfl⟩

end Sys2Proof.Laws
end

