-- ==== Sys2Proof/Laws/Kept.lean ====
section
/-! SUPPORT. What no operation but one changes: the variant, the queue of commands, the anti-rollback counter and the identity's helper data of the
keep. `kept` is their tuple; every state-returning operation has a lemma that it leaves `kept` as it was (files Kept1 and on). -/

namespace Sys2Proof.Laws

open Sys2Proof.Machine

/-- The parts of a state that operations keep (R470, R480). -/
def kept (s : State) : Variant × List Instr × Nat × Nat := (s.variant, s.pending, s.keep.arb, s.keep.ident)

@[simp] theorem kept_mk (variant phase pending out fresh now dies ops recs sqs sqTurn cqs ev evLost evFlag engWait hoopHold hoopQ pknots tabs stagedTabs drain warm ctxs itgActive itgUp itgWidth itgAuto itgFail lead locked time power boot keep recPending test) :
    kept ⟨variant, phase, pending, out, fresh, now, dies, ops, recs, sqs, sqTurn, cqs, ev, evLost, evFlag, engWait, hoopHold, hoopQ, pknots, tabs, stagedTabs, drain, warm, ctxs, itgActive, itgUp, itgWidth, itgAuto, itgFail, itgLost, itgWait, lead, locked, time, power, boot, keep, recPending, test⟩ = (variant, pending, keep.arb, keep.ident) := rfl

@[simp] theorem kept_eta (s : State) : (s.variant, s.pending, s.keep.arb, s.keep.ident) = kept s := rfl

theorem kept_now (s : State) (n : Nat) : kept { s with now := n } = kept s := rfl

@[simp] theorem kept_foldl {α : Type} (f : State → α → State) (h : ∀ s a, kept (f s a) = kept s) (l : List α) (s : State) :
    kept (l.foldl f s) = kept s := by
  induction l generalizing s with
  | nil => rfl
  | cons a l ih => rw [List.foldl_cons, ih, h]

@[simp] theorem kept_foldUpto (n : Nat) (f : State → Nat → State) (h : ∀ s a, kept (f s a) = kept s) (s : State) :
    kept (foldUpto n s f) = kept s := kept_foldl f h _ s

@[simp] theorem kept_ite (c : Prop) [Decidable c] (a b : State) : kept (if c then a else b) = if c then kept a else kept b :=
  apply_ite kept c a b

theorem kept_ite_of {c : Prop} [Decidable c] {a b s : State} (ha : kept a = kept s) (hb : kept b = kept s) :
    kept (if c then a else b) = kept s := by split <;> assumption

theorem kept_getD (o : Option State) (s : State) (h : ∀ t, o = some t → kept t = kept s) : kept (o.getD s) = kept s := by
  cases o with
  | none => rfl
  | some t => exact h t rfl

/-- A fold that may give up: where it answers, every part of it kept what it was given. -/
theorem kept_foldlOpt {α : Type} (f : Option State → α → Option State) (hn : ∀ a, f none a = none)
    (h : ∀ s a t, f (some s) a = some t → kept t = kept s) (l : List α) (s t : State) (ht : l.foldl f (some s) = some t) :
    kept t = kept s := by
  induction l generalizing s with
  | nil => cases ht; rfl
  | cons a l ih =>
    rw [List.foldl_cons] at ht
    cases hf : f (some s) a with
    | none =>
      have hnn : ∀ l : List α, l.foldl f none = none := by
        intro l
        induction l with
        | nil => rfl
        | cons b l ihl => rw [List.foldl_cons, hn, ihl]
      rw [hf, hnn] at ht
      cases ht
    | some s1 => rw [ih s1 (hf ▸ ht), h s a s1 hf]

end Sys2Proof.Laws
end

