-- ==== Sys2Proof/Laws/KeptCore.lean ====
section
/-! SUPPORT. `kept` and the shared operations, faults and the cores: each operation leaves the variant, the queue, the anti-rollback counter and the identity data alone. -/

namespace Sys2Proof.Laws

open Sys2Proof.Machine

set_option linter.unusedTactic false
set_option linter.unreachableTactic false
set_option linter.unnecessarySeqFocus false

/-! Machine/Ops -/

@[simp] theorem kept_setDie (s : State) (d : Nat) (x : Die) : kept (Sys2Proof.Machine.setDie s d x) = kept s := by
  first
  | rfl
  | (unfold Sys2Proof.Machine.setDie; first | (simp; done) | (repeat' split) <;> first | rfl | (simp_all; done) | grind)

@[simp] theorem kept_updDie (s : State) (d : Nat) (f : Die → Die) : kept (Sys2Proof.Machine.updDie s d f) = kept s := by
  first
  | rfl
  | (unfold Sys2Proof.Machine.updDie; first | (simp; done) | (repeat' split) <;> first | rfl | (simp_all; done) | grind [= kept_setDie])

@[simp] theorem kept_setCore (s : State) (d c : Nat) (x : Core) : kept (Sys2Proof.Machine.setCore s d c x) = kept s := by
  first
  | rfl
  | (unfold Sys2Proof.Machine.setCore; first | (simp; done) | (repeat' split) <;> first | rfl | (simp_all; done) | grind [= kept_updDie])

@[simp] theorem kept_updCore (s : State) (d c : Nat) (f : Core → Core) : kept (Sys2Proof.Machine.updCore s d c f) = kept s := by
  first
  | rfl
  | (unfold Sys2Proof.Machine.updCore; first | (simp; done) | (repeat' split) <;> first | rfl | (simp_all; done) | grind [= kept_setCore])

@[simp] theorem kept_emit (s : State) (o : Out) : kept (Sys2Proof.Machine.emit s o) = kept s := by
  first
  | rfl
  | (unfold Sys2Proof.Machine.emit; first | (simp; done) | (repeat' split) <;> first | rfl | (simp_all; done) | grind)

@[simp] theorem kept_emits (s : State) (os : List Out) : kept (Sys2Proof.Machine.emits s os) = kept s := by
  first
  | rfl
  | (unfold Sys2Proof.Machine.emits; first | (simp; done) | (repeat' split) <;> first | rfl | (simp_all; done) | grind)

@[simp] theorem kept_linkStore (s : State) (addr : Nat) (bs : List Byte) : kept (Sys2Proof.Machine.linkStore s addr bs) = kept s := by
  first
  | rfl
  | (unfold Sys2Proof.Machine.linkStore; first | (simp; done) | (repeat' split) <;> first | rfl | (simp_all; done) | grind)

@[simp] theorem kept_linkIrq (s : State) (v : Nat) : kept (Sys2Proof.Machine.linkIrq s v) = kept s := by
  first
  | rfl
  | (unfold Sys2Proof.Machine.linkIrq; first | (simp; done) | (repeat' split) <;> first | rfl | (simp_all; done) | grind [= kept_emit])

theorem kept_draw (s : State) {zz : Nat} {tt : State} (h : Sys2Proof.Machine.draw s = (zz, tt)) : kept tt = kept s := by
  unfold Sys2Proof.Machine.draw at h
  revert h
  (repeat' split) <;> intro h <;> first | (cases h; done) | (cases h; rfl) | (cases h; simp_all; done) | grind []
@[simp] theorem kept_draw_snd (s : State) : kept (Sys2Proof.Machine.draw s).2 = kept s := kept_draw s rfl

@[simp] theorem kept_postEvent (s : State) (code die d0 d1 d2 d3 : Nat) : kept (Sys2Proof.Machine.postEvent s code die d0 d1 d2 d3) = kept s := by
  first
  | rfl
  | (unfold Sys2Proof.Machine.postEvent; first | (simp; done) | (repeat' split) <;> first | rfl | (simp_all; done) | grind [= kept_linkStore, = kept_linkIrq])

@[simp] theorem kept_setSq (s : State) (q : Nat) (r : SubRing) : kept (Sys2Proof.Machine.setSq s q r) = kept s := by
  first
  | rfl
  | (unfold Sys2Proof.Machine.setSq; first | (simp; done) | (repeat' split) <;> first | rfl | (simp_all; done) | grind)

@[simp] theorem kept_setCq (s : State) (q : Nat) (r : ComRing) : kept (Sys2Proof.Machine.setCq s q r) = kept s := by
  first
  | rfl
  | (unfold Sys2Proof.Machine.setCq; first | (simp; done) | (repeat' split) <;> first | rfl | (simp_all; done) | grind)

@[simp] theorem kept_ringError (s : State) (cq : Bool) (q err : Nat) : kept (Sys2Proof.Machine.ringError s cq q err) = kept s := by
  first
  | rfl
  | (unfold Sys2Proof.Machine.ringError; first | (simp; done) | (repeat' split) <;> first | rfl | (simp_all; done) | grind [= kept_postEvent])

@[simp] theorem kept_settleRings (s : State) : kept (Sys2Proof.Machine.settleRings s) = kept s := by
  first
  | rfl
  | (unfold Sys2Proof.Machine.settleRings; first | (simp; done) | (repeat' split) <;> first | rfl | (simp_all; done) | grind)

@[simp] theorem kept_updOp (s : State) (id : Nat) (f : Op → Op) : kept (Sys2Proof.Machine.updOp s id f) = kept s := by
  first
  | rfl
  | (unfold Sys2Proof.Machine.updOp; first | (simp; done) | (repeat' split) <;> first | rfl | (simp_all; done) | grind)

@[simp] theorem kept_progressEntry (s : State) (q idx pos total : Nat) (done : Bool) : kept (Sys2Proof.Machine.progressEntry s q idx pos total done) = kept s := by
  first
  | rfl
  | (unfold Sys2Proof.Machine.progressEntry; first | (simp; done) | (repeat' split) <;> first | rfl | (simp_all; done) | grind [= kept_linkStore])

@[simp] theorem kept_putProgress (s : State) (o : Op) (done : Bool) : kept (Sys2Proof.Machine.putProgress s o done) = kept s := by
  first
  | rfl
  | (unfold Sys2Proof.Machine.putProgress; first | (simp; done) | (repeat' split) <;> first | rfl | (simp_all; done) | grind [= kept_progressEntry])

@[simp] theorem kept_setPos (s : State) (id pos : Nat) : kept (Sys2Proof.Machine.setPos s id pos) = kept s := by
  first
  | rfl
  | (unfold Sys2Proof.Machine.setPos; first | (simp; done) | (repeat' split) <;> first | rfl | (simp_all; done) | grind [= kept_updOp, = kept_putProgress])

@[simp] theorem kept_endOp (s : State) (id : Nat) : kept (Sys2Proof.Machine.endOp s id) = kept s := by
  first
  | rfl
  | (unfold Sys2Proof.Machine.endOp; first | (simp; done) | (repeat' split) <;> first | rfl | (simp_all; done) | grind)

@[simp] theorem kept_recProgress (s : State) (r : Rec) (done : Bool) : kept (Sys2Proof.Machine.recProgress s r done) = kept s := by
  first
  | rfl
  | (unfold Sys2Proof.Machine.recProgress; first | (simp; done) | (repeat' split) <;> first | rfl | (simp_all; done) | grind [= kept_progressEntry])

@[simp] theorem kept_commitSlot (s : State) (r : Rec) : kept (Sys2Proof.Machine.commitSlot s r) = kept s := by
  first
  | rfl
  | (unfold Sys2Proof.Machine.commitSlot; first | (simp; done) | (repeat' split) <;> first | rfl | (simp_all; done) | grind)

@[simp] theorem kept_writeRec (s : State) (r : Rec) : kept (Sys2Proof.Machine.writeRec s r) = kept s := by
  first
  | rfl
  | (unfold Sys2Proof.Machine.writeRec; first | (simp; done) | (repeat' split) <;> first | rfl | (simp_all; done) | grind [= kept_putProgress, = kept_commitSlot, = kept_recProgress, = kept_linkStore, = kept_setCq, = kept_linkIrq, = kept_settleRings, = kept_endOp])

@[simp] theorem kept_postRec (s : State) (r : Rec) : kept (Sys2Proof.Machine.postRec s r) = kept s := by
  first
  | rfl
  | (unfold Sys2Proof.Machine.postRec; first | (simp; done) | (repeat' split) <;> first | rfl | (simp_all; done) | grind [= kept_writeRec, = kept_setPos, = kept_recProgress])

@[simp] theorem kept_completeWith (s : State) (o : Op) (st : Status) (pos : Nat) (d0 d1 d2 : Word32) : kept (Sys2Proof.Machine.completeWith s o st pos d0 d1 d2) = kept s := by
  first
  | rfl
  | (unfold Sys2Proof.Machine.completeWith; first | (simp; done) | (repeat' split) <;> first | rfl | (simp_all; done) | grind [= kept_postRec])

@[simp] theorem kept_complete (s : State) (o : Op) (st : Status) (pos : Nat) : kept (Sys2Proof.Machine.complete s o st pos) = kept s := by
  first
  | rfl
  | (unfold Sys2Proof.Machine.complete; first | (simp; done) | (repeat' split) <;> first | rfl | (simp_all; done) | grind [= kept_completeWith])

@[simp] theorem kept_completeId (s : State) (id : Nat) (st : Status) (pos : Nat) : kept (Sys2Proof.Machine.completeId s id st pos) = kept s := by
  first
  | rfl
  | (unfold Sys2Proof.Machine.completeId; first | (simp; done) | (repeat' split) <;> first | rfl | (simp_all; done) | grind [= kept_complete])

@[simp] theorem kept_drainProgress (s : State) : kept (Sys2Proof.Machine.drainProgress s) = kept s := by
  first
  | rfl
  | (unfold Sys2Proof.Machine.drainProgress; first | (simp; done) | (repeat' split) <;> first | rfl | (simp_all; done) | grind [= kept_setPos])

@[simp] theorem kept_drainTick (s : State) : kept (Sys2Proof.Machine.drainTick s) = kept s := by
  first
  | rfl
  | (unfold Sys2Proof.Machine.drainTick; first | (simp; done) | (repeat' split) <;> first | rfl | (simp_all; done) | grind [= kept_drainProgress])

/-! Machine/CoreBase -/

@[simp] theorem kept_readRanges (s : State) (d gpart : Nat) (rs : List (Nat × Nat)) : kept (Sys2Proof.Machine.readRanges s d gpart rs) = kept s := by
  first
  | rfl
  | (unfold Sys2Proof.Machine.readRanges; first | (simp; done) | (repeat' split) <;> first | rfl | (simp_all; done) | grind [= kept_setDie])

@[simp] theorem kept_tellPos (s : State) (d c : Nat) : kept (Sys2Proof.Machine.tellPos s d c) = kept s := by
  first
  | rfl
  | (unfold Sys2Proof.Machine.tellPos; first | (simp; done) | (repeat' split) <;> first | rfl | (simp_all; done) | grind [= kept_setPos])

theorem kept_issue (op : Nat) (d c : Nat) (s : State) (f : Core → Run → Word64 → State) (hf : ∀ k r w, kept (f k r w) = kept s) :
    kept (issue op d c s f) = kept s := by
  unfold issue
  (repeat' split) <;> first | rfl | (simp_all; done)

@[simp] theorem kept_scalar (op : Nat) (d c : Nat) (s : State) (f : Core → Word64 → Core) : kept (Sys2Proof.Machine.scalar op d c s f) = kept s := by
  first
  | rfl
  | (unfold Sys2Proof.Machine.scalar; first | (simp; done) | (repeat' split) <;> first | rfl | (simp_all; done) | grind [= kept_issue, = kept_setCore])

@[simp] theorem kept_alu (op : Nat) (d c : Nat) (s : State) (f : Core → Word64 → Word64) : kept (Sys2Proof.Machine.alu op d c s f) = kept s := by
  first
  | rfl
  | (unfold Sys2Proof.Machine.alu; first | (simp; done) | (repeat' split) <;> first | rfl | (simp_all; done) | grind [= kept_scalar])

@[simp] theorem kept_branch (op : Nat) (d c : Nat) (s : State) (cond : Word64 → Word64 → Bool) : kept (Sys2Proof.Machine.branch op d c s cond) = kept s := by
  first
  | rfl
  | (unfold Sys2Proof.Machine.branch; first | (simp; done) | (repeat' split) <;> first | rfl | (simp_all; done) | grind [= kept_issue, = kept_setCore])

/-! Machine/Faults -/

@[simp] theorem kept_faultEvent (s : State) (cls kind idx die code react : Nat) : kept (Sys2Proof.Machine.faultEvent s cls kind idx die code react) = kept s := by
  first
  | rfl
  | (unfold Sys2Proof.Machine.faultEvent; first | (simp; done) | (repeat' split) <;> first | rfl | (simp_all; done) | grind [= kept_setDie, = kept_postEvent])

@[simp] theorem kept_reportFault (s : State) (cls kind idx die code react : Nat) : kept (Sys2Proof.Machine.reportFault s cls kind idx die code react) = kept s := by
  first
  | rfl
  | (unfold Sys2Proof.Machine.reportFault; first | (simp; done) | (repeat' split) <;> first | rfl | (simp_all; done) | grind [= kept_setDie, = kept_faultEvent])

@[simp] theorem kept_countC0 (s : State) (die n : Nat) : kept (Sys2Proof.Machine.countC0 s die n) = kept s := by
  first
  | rfl
  | (unfold Sys2Proof.Machine.countC0; first | (simp; done) | (repeat' split) <;> first | rfl | (simp_all; done) | grind [= kept_updDie])

@[simp] theorem kept_setKnot (s : State) (d k : Nat) (n : Knot) : kept (Sys2Proof.Machine.setKnot s d k n) = kept s := by
  first
  | rfl
  | (unfold Sys2Proof.Machine.setKnot; first | (simp; done) | (repeat' split) <;> first | rfl | (simp_all; done) | grind [= kept_updDie])

@[simp] theorem kept_wake (s : State) (d c v : Nat) : kept (Sys2Proof.Machine.wake s d c v) = kept s := by
  first
  | rfl
  | (unfold Sys2Proof.Machine.wake; first | (simp; done) | (repeat' split) <;> first | rfl | (simp_all; done) | grind [= kept_updCore])

@[simp] theorem kept_serveTakes (s : State) (d k n : Nat) : kept (serveTakes s d k n) = kept s := by
  induction n generalizing s with
  | zero => rfl
  | succ n ih =>
    simp only [serveTakes]
    split
    · split
      · rw [ih, kept_wake, kept_setKnot]
      · rfl
    · rfl

@[simp] theorem kept_dropTake (s : State) (d c k : Nat) : kept (Sys2Proof.Machine.dropTake s d c k) = kept s := by
  first
  | rfl
  | (unfold Sys2Proof.Machine.dropTake; first | (simp; done) | (repeat' split) <;> first | rfl | (simp_all; done) | grind [= kept_serveTakes, = kept_setKnot])

@[simp] theorem kept_leaveKnot (s : State) (d c : Nat) : kept (Sys2Proof.Machine.leaveKnot s d c) = kept s := by
  first
  | rfl
  | (unfold Sys2Proof.Machine.leaveKnot; first | (simp; done) | (repeat' split) <;> first | rfl | (simp_all; done) | grind [= kept_dropTake])

@[simp] theorem kept_stopJob (s : State) (d c : Nat) (st : Status) : kept (Sys2Proof.Machine.stopJob s d c st) = kept s := by
  first
  | rfl
  | (unfold Sys2Proof.Machine.stopJob; first | (simp; done) | (repeat' split) <;> first | rfl | (simp_all; done) | grind [= kept_leaveKnot, = kept_updCore])

@[simp] theorem kept_askHoop (s : State) (act die unit arg : Nat) : kept (Sys2Proof.Machine.askHoop s act die unit arg) = kept s := by
  first
  | rfl
  | (unfold Sys2Proof.Machine.askHoop; first | (simp; done) | (repeat' split) <;> first | rfl | (simp_all; done) | grind)

@[simp] theorem kept_coreStruck (s : State) (d c code : Nat) : kept (Sys2Proof.Machine.coreStruck s d c code) = kept s := by
  first
  | rfl
  | (unfold Sys2Proof.Machine.coreStruck; first | (simp; done) | (repeat' split) <;> first | rfl | (simp_all; done) | grind [= kept_leaveKnot, = kept_reportFault, = kept_updDie, = kept_updCore, = kept_askHoop])

@[simp] theorem kept_reportPoison (s : State) (d : Nat) : kept (Sys2Proof.Machine.reportPoison s d) = kept s := by
  first
  | rfl
  | (unfold Sys2Proof.Machine.reportPoison; first | (simp; done) | (repeat' split) <;> first | rfl | (simp_all; done) | grind [= kept_reportFault])

@[simp] theorem kept_endBy (s : State) (d c : Nat) (k : Core) (st : Status) : kept (Sys2Proof.Machine.endBy s d c k st) = kept s := by
  first
  | rfl
  | (unfold Sys2Proof.Machine.endBy; first | (simp; done) | (repeat' split) <;> first | rfl | (simp_all; done) | grind [= kept_setCore, = kept_reportPoison])

/-! Machine/CoreScalar -/

theorem kept_execNop (d c : Nat) (s : State) {tt : State} (h : Sys2Proof.Machine.execNop d c s = .next tt) : kept tt = kept s := by
  unfold Sys2Proof.Machine.execNop at h
  cases h
  first
  | rfl
  | (simp; done)
  | (repeat' split) <;> first | rfl | (simp_all; done) | grind [= kept_scalar]

theorem kept_execAdd (d c : Nat) (s : State) {tt : State} (h : Sys2Proof.Machine.execAdd d c s = .next tt) : kept tt = kept s := by
  unfold Sys2Proof.Machine.execAdd at h
  cases h
  first
  | rfl
  | (simp; done)
  | (repeat' split) <;> first | rfl | (simp_all; done) | grind [= kept_alu]

theorem kept_execSub (d c : Nat) (s : State) {tt : State} (h : Sys2Proof.Machine.execSub d c s = .next tt) : kept tt = kept s := by
  unfold Sys2Proof.Machine.execSub at h
  cases h
  first
  | rfl
  | (simp; done)
  | (repeat' split) <;> first | rfl | (simp_all; done) | grind [= kept_alu]

theorem kept_execMul (d c : Nat) (s : State) {tt : State} (h : Sys2Proof.Machine.execMul d c s = .next tt) : kept tt = kept s := by
  unfold Sys2Proof.Machine.execMul at h
  cases h
  first
  | rfl
  | (simp; done)
  | (repeat' split) <;> first | rfl | (simp_all; done) | grind [= kept_alu]

theorem kept_execAnd (d c : Nat) (s : State) {tt : State} (h : Sys2Proof.Machine.execAnd d c s = .next tt) : kept tt = kept s := by
  unfold Sys2Proof.Machine.execAnd at h
  cases h
  first
  | rfl
  | (simp; done)
  | (repeat' split) <;> first | rfl | (simp_all; done) | grind [= kept_alu]

theorem kept_execOr (d c : Nat) (s : State) {tt : State} (h : Sys2Proof.Machine.execOr d c s = .next tt) : kept tt = kept s := by
  unfold Sys2Proof.Machine.execOr at h
  cases h
  first
  | rfl
  | (simp; done)
  | (repeat' split) <;> first | rfl | (simp_all; done) | grind [= kept_alu]

theorem kept_execXor (d c : Nat) (s : State) {tt : State} (h : Sys2Proof.Machine.execXor d c s = .next tt) : kept tt = kept s := by
  unfold Sys2Proof.Machine.execXor at h
  cases h
  first
  | rfl
  | (simp; done)
  | (repeat' split) <;> first | rfl | (simp_all; done) | grind [= kept_alu]

theorem kept_execShl (d c : Nat) (s : State) {tt : State} (h : Sys2Proof.Machine.execShl d c s = .next tt) : kept tt = kept s := by
  unfold Sys2Proof.Machine.execShl at h
  cases h
  first
  | rfl
  | (simp; done)
  | (repeat' split) <;> first | rfl | (simp_all; done) | grind [= kept_alu]

theorem kept_execShr (d c : Nat) (s : State) {tt : State} (h : Sys2Proof.Machine.execShr d c s = .next tt) : kept tt = kept s := by
  unfold Sys2Proof.Machine.execShr at h
  cases h
  first
  | rfl
  | (simp; done)
  | (repeat' split) <;> first | rfl | (simp_all; done) | grind [= kept_alu]

theorem kept_execSra (d c : Nat) (s : State) {tt : State} (h : Sys2Proof.Machine.execSra d c s = .next tt) : kept tt = kept s := by
  unfold Sys2Proof.Machine.execSra at h
  cases h
  first
  | rfl
  | (simp; done)
  | (repeat' split) <;> first | rfl | (simp_all; done) | grind [= kept_alu]

theorem kept_execSlt (d c : Nat) (s : State) {tt : State} (h : Sys2Proof.Machine.execSlt d c s = .next tt) : kept tt = kept s := by
  unfold Sys2Proof.Machine.execSlt at h
  cases h
  first
  | rfl
  | (simp; done)
  | (repeat' split) <;> first | rfl | (simp_all; done) | grind [= kept_alu]

theorem kept_execAddi (d c : Nat) (s : State) {tt : State} (h : Sys2Proof.Machine.execAddi d c s = .next tt) : kept tt = kept s := by
  unfold Sys2Proof.Machine.execAddi at h
  cases h
  first
  | rfl
  | (simp; done)
  | (repeat' split) <;> first | rfl | (simp_all; done) | grind [= kept_alu]

theorem kept_execLi (d c : Nat) (s : State) {tt : State} (h : Sys2Proof.Machine.execLi d c s = .next tt) : kept tt = kept s := by
  unfold Sys2Proof.Machine.execLi at h
  cases h
  first
  | rfl
  | (simp; done)
  | (repeat' split) <;> first | rfl | (simp_all; done) | grind [= kept_alu]

theorem kept_execLih (d c : Nat) (s : State) {tt : State} (h : Sys2Proof.Machine.execLih d c s = .next tt) : kept tt = kept s := by
  unfold Sys2Proof.Machine.execLih at h
  cases h
  first
  | rfl
  | (simp; done)
  | (repeat' split) <;> first | rfl | (simp_all; done) | grind [= kept_alu]

theorem kept_orEnd {α : Type} (s : State) (d c : Nat) (k : Core) (r : Run) (e : Except Status α) (f : α → State)
    (hf : ∀ a, e = .ok a → kept (f a) = kept s) : kept (orEnd s d c k r e f) = kept s := by
  unfold orEnd
  (repeat' split) <;> first | rfl | (simp_all; done)

theorem kept_orEnd_of {α : Type} {s u : State} (d c : Nat) (k : Core) (r : Run) (e : Except Status α) (f : α → State) (hu : kept u = kept s)
    (hf : ∀ a, e = .ok a → kept (f a) = kept s) : kept (orEnd u d c k r e f) = kept s :=
  (kept_orEnd u d c k r e f (fun a ha => (hf a ha).trans hu.symm)).trans hu

theorem kept_seqRead (s : State) (d : Nat) (k : Core) (r : Run) (a n : Nat) {zz : List Byte} {tt : State} (h : Sys2Proof.Machine.seqRead s d k r a n = .ok (zz, tt)) : kept tt = kept s := by
  unfold Sys2Proof.Machine.seqRead at h
  revert h
  (repeat' split) <;> intro h <;> first | (cases h; done) | (cases h; rfl) | (cases h; simp_all; done) | grind [= kept_setDie]

@[simp] theorem kept_seqSeen (s : State) (d : Nat) (r : Run) (a n : Nat) : kept (Sys2Proof.Machine.seqSeen s d r a n) = kept s := by
  first
  | rfl
  | (unfold Sys2Proof.Machine.seqSeen; first | (simp; done) | (repeat' split) <;> first | rfl | (simp_all; done) | grind [= kept_readRanges])

theorem kept_execLd (d c : Nat) (s : State) {tt : State} (h : Sys2Proof.Machine.execLd d c s = .next tt) : kept tt = kept s := by
  unfold Sys2Proof.Machine.execLd at h
  cases h
  refine kept_issue _ _ _ _ _ (fun k r w => kept_orEnd_of _ _ _ _ _ _ (by simp) (fun a ha => ?_))
  simp [kept_seqRead _ _ _ _ _ _ ha]

theorem kept_execSt (d c : Nat) (s : State) {tt : State} (h : Sys2Proof.Machine.execSt d c s = .next tt) : kept tt = kept s := by
  unfold Sys2Proof.Machine.execSt at h
  cases h
  first
  | rfl
  | (simp; done)
  | first | ((first | refine kept_issue _ _ _ _ _ (fun k r w => ?_) | refine kept_orEnd _ _ _ _ _ _ _ (fun a ha => ?_)) <;> (repeat' split) <;> first | rfl | (simp_all; done) | ((first | refine kept_issue _ _ _ _ _ (fun k r w => ?_) | refine kept_orEnd _ _ _ _ _ _ _ (fun a ha => ?_)) <;> (repeat' split) <;> first | rfl | (simp_all; done) | grind [= kept_setDie, = kept_setCore]) | grind [= kept_setDie, = kept_setCore]) | ((repeat' split) <;> first | rfl | (simp_all; done) | ((first | refine kept_issue _ _ _ _ _ (fun k r w => ?_) | refine kept_orEnd _ _ _ _ _ _ _ (fun a ha => ?_)) <;> (repeat' split) <;> first | rfl | (simp_all; done) | grind [= kept_setDie, = kept_setCore]) | grind [= kept_setDie, = kept_setCore])

theorem kept_execGat (d c : Nat) (s : State) {tt : State} (h : Sys2Proof.Machine.execGat d c s = .next tt) : kept tt = kept s := by
  unfold Sys2Proof.Machine.execGat at h
  cases h
  refine kept_issue _ _ _ _ _ (fun k r w => kept_orEnd_of _ _ _ _ _ _ (by simp) (fun a ha => ?_))
  simp

theorem kept_execSld (d c : Nat) (s : State) {tt : State} (h : Sys2Proof.Machine.execSld d c s = .next tt) : kept tt = kept s := by
  unfold Sys2Proof.Machine.execSld at h
  cases h
  refine kept_issue _ _ _ _ _ (fun k r w => kept_orEnd_of _ _ _ _ _ _ (by simp) (fun a ha => ?_))
  simp [kept_seqRead _ _ _ _ _ _ ha]

theorem kept_execSbase (d c : Nat) (s : State) {tt : State} (h : Sys2Proof.Machine.execSbase d c s = .next tt) : kept tt = kept s := by
  unfold Sys2Proof.Machine.execSbase at h
  cases h
  first
  | rfl
  | (simp; done)
  | (repeat' split) <;> first | rfl | (simp_all; done) | grind [= kept_scalar]

theorem kept_execCvld (d c : Nat) (s : State) {tt : State} (h : Sys2Proof.Machine.execCvld d c s = .next tt) : kept tt = kept s := by
  unfold Sys2Proof.Machine.execCvld at h
  cases h
  refine kept_issue _ _ _ _ _ (fun k r w => kept_orEnd_of _ _ _ _ _ _ (by simp) (fun a ha => ?_))
  simp [kept_seqRead _ _ _ _ _ _ ha]

theorem kept_execFence (d c : Nat) (s : State) {tt : State} (h : Sys2Proof.Machine.execFence d c s = .next tt) : kept tt = kept s := by
  unfold Sys2Proof.Machine.execFence at h
  cases h
  first
  | rfl
  | (simp; done)
  | first | ((first | refine kept_issue _ _ _ _ _ (fun k r w => ?_)) <;> (repeat' split) <;> first | rfl | (simp_all; done) | ((first | refine kept_issue _ _ _ _ _ (fun k r w => ?_)) <;> (repeat' split) <;> first | rfl | (simp_all; done) | grind [= kept_setCore]) | grind [= kept_setCore]) | ((repeat' split) <;> first | rfl | (simp_all; done) | ((first | refine kept_issue _ _ _ _ _ (fun k r w => ?_)) <;> (repeat' split) <;> first | rfl | (simp_all; done) | grind [= kept_setCore]) | grind [= kept_setCore])

theorem kept_execProg (d c : Nat) (s : State) {tt : State} (h : Sys2Proof.Machine.execProg d c s = .next tt) : kept tt = kept s := by
  unfold Sys2Proof.Machine.execProg at h
  cases h
  first
  | rfl
  | (simp; done)
  | first | ((first | refine kept_issue _ _ _ _ _ (fun k r w => ?_)) <;> (repeat' split) <;> first | rfl | (simp_all; done) | ((first | refine kept_issue _ _ _ _ _ (fun k r w => ?_)) <;> (repeat' split) <;> first | rfl | (simp_all; done) | grind [= kept_setCore]) | grind [= kept_setCore]) | ((repeat' split) <;> first | rfl | (simp_all; done) | ((first | refine kept_issue _ _ _ _ _ (fun k r w => ?_)) <;> (repeat' split) <;> first | rfl | (simp_all; done) | grind [= kept_setCore]) | grind [= kept_setCore])

theorem kept_execBeq (d c : Nat) (s : State) {tt : State} (h : Sys2Proof.Machine.execBeq d c s = .next tt) : kept tt = kept s := by
  unfold Sys2Proof.Machine.execBeq at h
  cases h
  first
  | rfl
  | (simp; done)
  | (repeat' split) <;> first | rfl | (simp_all; done) | grind [= kept_branch]

theorem kept_execBne (d c : Nat) (s : State) {tt : State} (h : Sys2Proof.Machine.execBne d c s = .next tt) : kept tt = kept s := by
  unfold Sys2Proof.Machine.execBne at h
  cases h
  first
  | rfl
  | (simp; done)
  | (repeat' split) <;> first | rfl | (simp_all; done) | grind [= kept_branch]

theorem kept_execBlt (d c : Nat) (s : State) {tt : State} (h : Sys2Proof.Machine.execBlt d c s = .next tt) : kept tt = kept s := by
  unfold Sys2Proof.Machine.execBlt at h
  cases h
  first
  | rfl
  | (simp; done)
  | (repeat' split) <;> first | rfl | (simp_all; done) | grind [= kept_branch]

theorem kept_execBge (d c : Nat) (s : State) {tt : State} (h : Sys2Proof.Machine.execBge d c s = .next tt) : kept tt = kept s := by
  unfold Sys2Proof.Machine.execBge at h
  cases h
  first
  | rfl
  | (simp; done)
  | (repeat' split) <;> first | rfl | (simp_all; done) | grind [= kept_branch]

theorem kept_execBltu (d c : Nat) (s : State) {tt : State} (h : Sys2Proof.Machine.execBltu d c s = .next tt) : kept tt = kept s := by
  unfold Sys2Proof.Machine.execBltu at h
  cases h
  first
  | rfl
  | (simp; done)
  | (repeat' split) <;> first | rfl | (simp_all; done) | grind [= kept_branch]

theorem kept_execJal (d c : Nat) (s : State) {tt : State} (h : Sys2Proof.Machine.execJal d c s = .next tt) : kept tt = kept s := by
  unfold Sys2Proof.Machine.execJal at h
  cases h
  first
  | rfl
  | (simp; done)
  | first | ((first | refine kept_issue _ _ _ _ _ (fun k r w => ?_)) <;> (repeat' split) <;> first | rfl | (simp_all; done) | ((first | refine kept_issue _ _ _ _ _ (fun k r w => ?_)) <;> (repeat' split) <;> first | rfl | (simp_all; done) | grind [= kept_setCore]) | grind [= kept_setCore]) | ((repeat' split) <;> first | rfl | (simp_all; done) | ((first | refine kept_issue _ _ _ _ _ (fun k r w => ?_)) <;> (repeat' split) <;> first | rfl | (simp_all; done) | grind [= kept_setCore]) | grind [= kept_setCore])

theorem kept_execJr (d c : Nat) (s : State) {tt : State} (h : Sys2Proof.Machine.execJr d c s = .next tt) : kept tt = kept s := by
  unfold Sys2Proof.Machine.execJr at h
  cases h
  first
  | rfl
  | (simp; done)
  | first | ((first | refine kept_issue _ _ _ _ _ (fun k r w => ?_)) <;> (repeat' split) <;> first | rfl | (simp_all; done) | ((first | refine kept_issue _ _ _ _ _ (fun k r w => ?_)) <;> (repeat' split) <;> first | rfl | (simp_all; done) | grind [= kept_setCore]) | grind [= kept_setCore]) | ((repeat' split) <;> first | rfl | (simp_all; done) | ((first | refine kept_issue _ _ _ _ _ (fun k r w => ?_)) <;> (repeat' split) <;> first | rfl | (simp_all; done) | grind [= kept_setCore]) | grind [= kept_setCore])

theorem kept_execHalt (d c : Nat) (s : State) {tt : State} (h : Sys2Proof.Machine.execHalt d c s = .next tt) : kept tt = kept s := by
  unfold Sys2Proof.Machine.execHalt at h
  cases h
  first
  | rfl
  | (simp; done)
  | first | ((first | refine kept_issue _ _ _ _ _ (fun k r w => ?_)) <;> (repeat' split) <;> first | rfl | (simp_all; done) | ((first | refine kept_issue _ _ _ _ _ (fun k r w => ?_)) <;> (repeat' split) <;> first | rfl | (simp_all; done) | grind [= kept_setCore]) | grind [= kept_setCore]) | ((repeat' split) <;> first | rfl | (simp_all; done) | ((first | refine kept_issue _ _ _ _ _ (fun k r w => ?_)) <;> (repeat' split) <;> first | rfl | (simp_all; done) | grind [= kept_setCore]) | grind [= kept_setCore])

theorem kept_execCtrd (d c : Nat) (s : State) {tt : State} (h : Sys2Proof.Machine.execCtrd d c s = .next tt) : kept tt = kept s := by
  unfold Sys2Proof.Machine.execCtrd at h
  cases h
  first
  | rfl
  | (simp; done)
  | first | ((first | refine kept_issue _ _ _ _ _ (fun k r w => ?_)) <;> (repeat' split) <;> first | rfl | (simp_all; done) | ((first | refine kept_issue _ _ _ _ _ (fun k r w => ?_)) <;> (repeat' split) <;> first | rfl | (simp_all; done) | grind [= kept_setCore]) | grind [= kept_setCore]) | ((repeat' split) <;> first | rfl | (simp_all; done) | ((first | refine kept_issue _ _ _ _ _ (fun k r w => ?_)) <;> (repeat' split) <;> first | rfl | (simp_all; done) | grind [= kept_setCore]) | grind [= kept_setCore])

/-! Machine/ArrayUnit -/

@[simp] theorem kept_arrIssue (s : State) (d c : Nat) (k : Core) (r : Run) (o : ArrOp) (numbered writing : Bool) : kept (Sys2Proof.Machine.arrIssue s d c k r o numbered writing) = kept s := by
  first
  | rfl
  | (unfold Sys2Proof.Machine.arrIssue; first | (simp; done) | (repeat' split) <;> first | rfl | (simp_all; done) | grind [= kept_setCore])

theorem kept_arrOr (s : State) (d c : Nat) (k : Core) (r : Run) (e : Option Status) (rs : List (Nat × Nat)) (go : State → State)
    (h : ∀ u, kept (go u) = kept u) : kept (arrOr s d c k r e rs go) = kept s := by
  unfold arrOr
  (repeat' split) <;> first | rfl | (simp [h]; done) | (simp_all; done)

theorem kept_execWld (d c : Nat) (s : State) {tt : State} (h : Sys2Proof.Machine.execWld d c s = .next tt) : kept tt = kept s := by
  unfold Sys2Proof.Machine.execWld at h
  cases h
  exact kept_issue _ _ _ _ _ (fun k r w => kept_arrOr _ _ _ _ _ _ _ _ (fun u => by simp))

theorem kept_execPass (d c : Nat) (s : State) {tt : State} (h : Sys2Proof.Machine.execPass d c s = .next tt) : kept tt = kept s := by
  unfold Sys2Proof.Machine.execPass at h
  cases h
  exact kept_issue _ _ _ _ _ (fun k r w => kept_arrOr _ _ _ _ _ _ _ _ (fun u => by simp))

theorem kept_execCvt (d c : Nat) (s : State) {tt : State} (h : Sys2Proof.Machine.execCvt d c s = .next tt) : kept tt = kept s := by
  unfold Sys2Proof.Machine.execCvt at h
  cases h
  exact kept_issue _ _ _ _ _ (fun k r w => kept_arrOr _ _ _ _ _ _ _ _ (fun u => by simp))

@[simp] theorem kept_saveRestore (op : Nat) (kind : ArrKind) (d c : Nat) (s : State) : kept (Sys2Proof.Machine.saveRestore op kind d c s) = kept s :=
  kept_issue _ _ _ _ _ (fun k r w => kept_arrOr _ _ _ _ _ _ _ _ (fun u => by simp))

theorem kept_execAcsv (d c : Nat) (s : State) {tt : State} (h : Sys2Proof.Machine.execAcsv d c s = .next tt) : kept tt = kept s := by
  unfold Sys2Proof.Machine.execAcsv at h
  cases h
  first
  | rfl
  | (simp; done)
  | (repeat' split) <;> first | rfl | (simp_all; done) | grind [= kept_saveRestore]

theorem kept_execAcrs (d c : Nat) (s : State) {tt : State} (h : Sys2Proof.Machine.execAcrs d c s = .next tt) : kept tt = kept s := by
  unfold Sys2Proof.Machine.execAcrs at h
  cases h
  first
  | rfl
  | (simp; done)
  | (repeat' split) <;> first | rfl | (simp_all; done) | grind [= kept_saveRestore]

@[simp] theorem kept_arrayPortCycle (d c : Nat) (s : State) : kept (Sys2Proof.Machine.arrayPortCycle d c s) = kept s := by
  first
  | rfl
  | (unfold Sys2Proof.Machine.arrayPortCycle; first | (simp; done) | (repeat' split) <;> first | rfl | (simp_all; done) | grind [= kept_setCore, = kept_setDie, = kept_tellPos])

theorem kept_execArrayPortCycle (d c : Nat) (s : State) {tt : State} (h : Sys2Proof.Machine.execArrayPortCycle d c s = .next tt) : kept tt = kept s := by
  unfold Sys2Proof.Machine.execArrayPortCycle at h
  cases h
  first
  | rfl
  | (simp; done)
  | (repeat' split) <;> first | rfl | (simp_all; done) | grind [= kept_arrayPortCycle]

@[simp] theorem kept_accUpdateStep (d c : Nat) (mismatch : Bool) (s : State) : kept (Sys2Proof.Machine.accUpdateStep d c mismatch s) = kept s := by
  first
  | rfl
  | (unfold Sys2Proof.Machine.accUpdateStep; first | (simp; done) | (repeat' split) <;> first | rfl | (simp_all; done) | grind [= kept_coreStruck, = kept_setCore, = kept_setDie, = kept_tellPos])

theorem kept_execAccUpdate (d c : Nat) (mismatch : Bool) (s : State) {tt : State} (h : Sys2Proof.Machine.execAccUpdate d c mismatch s = .next tt) : kept tt = kept s := by
  unfold Sys2Proof.Machine.execAccUpdate at h
  cases h
  first
  | rfl
  | (simp; done)
  | (repeat' split) <;> first | rfl | (simp_all; done) | grind [= kept_accUpdateStep]

/-! Machine/VectorUnit -/

@[simp] theorem kept_vecIssue (op : Nat) (d c : Nat) (s : State) (f : VecForm) : kept (Sys2Proof.Machine.vecIssue op d c s f) = kept s := by
  first
  | rfl
  | (unfold Sys2Proof.Machine.vecIssue; first | (simp; done) | (repeat' split) <;> first | rfl | (simp_all; done) | grind [= kept_issue, = kept_endBy, = kept_readRanges, = kept_setCore, = kept_setDie])

theorem kept_execVop (d c : Nat) (s : State) {tt : State} (h : Sys2Proof.Machine.execVop d c s = .next tt) : kept tt = kept s := by
  unfold Sys2Proof.Machine.execVop at h
  cases h
  first
  | rfl
  | (simp; done)
  | (repeat' split) <;> first | rfl | (simp_all; done) | grind [= kept_vecIssue]

theorem kept_execVfma (d c : Nat) (s : State) {tt : State} (h : Sys2Proof.Machine.execVfma d c s = .next tt) : kept tt = kept s := by
  unfold Sys2Proof.Machine.execVfma at h
  cases h
  first
  | rfl
  | (simp; done)
  | (repeat' split) <;> first | rfl | (simp_all; done) | grind [= kept_vecIssue]

theorem kept_execVred (d c : Nat) (s : State) {tt : State} (h : Sys2Proof.Machine.execVred d c s = .next tt) : kept tt = kept s := by
  unfold Sys2Proof.Machine.execVred at h
  cases h
  first
  | rfl
  | (simp; done)
  | (repeat' split) <;> first | rfl | (simp_all; done) | grind [= kept_vecIssue]

theorem kept_execVkeep (d c : Nat) (s : State) {tt : State} (h : Sys2Proof.Machine.execVkeep d c s = .next tt) : kept tt = kept s := by
  unfold Sys2Proof.Machine.execVkeep at h
  cases h
  first
  | rfl
  | (simp; done)
  | (repeat' split) <;> first | rfl | (simp_all; done) | grind [= kept_vecIssue]

@[simp] theorem kept_vecRetire (s : State) (d c : Nat) (x : Die) (k : Core) (r : Run) (o : VecOp) (rest : List VecOp) (reg : Option (Nat × Word64)) : kept (Sys2Proof.Machine.vecRetire s d c x k r o rest reg) = kept s := by
  first
  | rfl
  | (unfold Sys2Proof.Machine.vecRetire; first | (simp; done) | (repeat' split) <;> first | rfl | (simp_all; done) | grind [= kept_tellPos, = kept_setCore, = kept_setDie])

@[simp] theorem kept_vecKeep (s : State) (d c : Nat) (x : Die) (k : Core) (r : Run) (o : VecOp) (rest : List VecOp) : kept (Sys2Proof.Machine.vecKeep s d c x k r o rest) = kept s := by
  first
  | rfl
  | (unfold Sys2Proof.Machine.vecKeep; first | (simp; done) | (repeat' split) <;> first | rfl | (simp_all; done) | grind [= kept_vecRetire])

@[simp] theorem kept_vectorDone (d c : Nat) (s : State) : kept (Sys2Proof.Machine.vectorDone d c s) = kept s := by
  first
  | rfl
  | (unfold Sys2Proof.Machine.vectorDone; first | (simp; done) | (repeat' split) <;> first | rfl | (simp_all; done) | grind [= kept_vecKeep, = kept_vecRetire])

theorem kept_execVectorInstructionDone (d c : Nat) (s : State) {tt : State} (h : Sys2Proof.Machine.execVectorInstructionDone d c s = .next tt) : kept tt = kept s := by
  unfold Sys2Proof.Machine.execVectorInstructionDone at h
  cases h
  first
  | rfl
  | (simp; done)
  | (repeat' split) <;> first | rfl | (simp_all; done) | grind [= kept_vectorDone]

end Sys2Proof.Laws
end

