-- ==== Sys2Proof/Laws/KeptFabric.lean ====
section
/-! SUPPORT. `kept` and places, packets, buffers, routes, ports' queues, bridges and knots: each operation leaves the variant, the queue, the anti-rollback counter and the identity data alone. -/

namespace Sys2Proof.Laws

open Sys2Proof.Machine

set_option linter.unusedTactic false
set_option linter.unreachableTactic false
set_option linter.unnecessarySeqFocus false

/-! Machine/Place -/

@[simp] theorem kept_placeTouch (s : State) (p : Place) (n : Nat) : kept (Sys2Proof.Machine.placeTouch s p n) = kept s := by
  first
  | rfl
  | (unfold Sys2Proof.Machine.placeTouch; first | (simp; done) | (repeat' split) <;> first | rfl | (simp_all; done) | grind [= kept_updDie])

@[simp] theorem kept_placePut (s : State) (p : Place) (bs : List Byte) : kept (Sys2Proof.Machine.placePut s p bs) = kept s := by
  first
  | rfl
  | (unfold Sys2Proof.Machine.placePut; first | (simp; done) | (repeat' split) <;> first | rfl | (simp_all; done) | grind [= kept_updDie, = kept_updCore])

theorem kept_placeRead (s : State) (frm : Nat) (part : Option Nat) (p : Place) (n : Nat) {zz : List Byte} {tt : State} (h : Sys2Proof.Machine.placeRead s frm part p n = .ok (zz, tt)) : kept tt = kept s := by
  unfold Sys2Proof.Machine.placeRead at h
  revert h
  (repeat' split) <;> intro h <;> first | (cases h; done) | (cases h; rfl) | (cases h; simp_all; done) | grind [= kept_placeTouch]

@[simp] theorem kept_placeSeen (s : State) (frm : Nat) (part : Option Nat) (p : Place) (n : Nat) : kept (Sys2Proof.Machine.placeSeen s frm part p n) = kept s := by
  first
  | rfl
  | (unfold Sys2Proof.Machine.placeSeen; first | (simp; done) | (repeat' split) <;> first | rfl | (simp_all; done) | grind [= kept_placeTouch])

@[simp] theorem kept_atomicSeen (s : State) (frm : Nat) (p : Place) (aop : Nat) : kept (Sys2Proof.Machine.atomicSeen s frm p aop) = kept s := by
  first
  | rfl
  | (unfold Sys2Proof.Machine.atomicSeen; first | (simp; done) | (repeat' split) <;> first | rfl | (simp_all; done) | grind [= kept_placeSeen])

theorem kept_placeAtomic (s : State) (frm : Nat) (p : Place) (aop y : Nat) {zz : Nat} {tt : State} (h : Sys2Proof.Machine.placeAtomic s frm p aop y = .ok (zz, tt)) : kept tt = kept s := by
  unfold Sys2Proof.Machine.placeAtomic at h
  revert h
  (repeat' split) <;> intro h <;> first | (cases h; done) | (cases h; rfl) | (cases h; simp_all; done) | grind [= kept_updDie]

/-! Machine/Packet -/

@[simp] theorem kept_bump (s : State) (d n : Nat) : kept (Sys2Proof.Machine.bump s d n) = kept s := by
  first
  | rfl
  | (unfold Sys2Proof.Machine.bump; first | (simp; done) | (repeat' split) <;> first | rfl | (simp_all; done) | grind [= kept_updDie])

/-! Machine/Pools -/

@[simp] theorem kept_setPort (s : State) (d l : Nat) (p : Port) : kept (Sys2Proof.Machine.setPort s d l p) = kept s := by
  first
  | rfl
  | (unfold Sys2Proof.Machine.setPort; first | (simp; done) | (repeat' split) <;> first | rfl | (simp_all; done) | grind [= kept_updDie])

@[simp] theorem kept_updPort (s : State) (d l : Nat) (f : Port → Port) : kept (Sys2Proof.Machine.updPort s d l f) = kept s := by
  first
  | rfl
  | (unfold Sys2Proof.Machine.updPort; first | (simp; done) | (repeat' split) <;> first | rfl | (simp_all; done) | grind [= kept_setPort])

@[simp] theorem kept_updBridge (s : State) (d b : Nat) (f : Bridge → Bridge) : kept (Sys2Proof.Machine.updBridge s d b f) = kept s := by
  first
  | rfl
  | (unfold Sys2Proof.Machine.updBridge; first | (simp; done) | (repeat' split) <;> first | rfl | (simp_all; done) | grind [= kept_updDie])

@[simp] theorem kept_sendCredit (s : State) (d l b units : Nat) : kept (Sys2Proof.Machine.sendCredit s d l b units) = kept s := by
  first
  | rfl
  | (unfold Sys2Proof.Machine.sendCredit; first | (simp; done) | (repeat' split) <;> first | rfl | (simp_all; done) | grind [= kept_emit, = kept_setPort])

@[simp] theorem kept_returnCredit (s : State) (d inp b units : Nat) : kept (Sys2Proof.Machine.returnCredit s d inp b units) = kept s := by
  first
  | rfl
  | (unfold Sys2Proof.Machine.returnCredit; first | (simp; done) | (repeat' split) <;> first | rfl | (simp_all; done) | grind [= kept_updPort, = kept_sendCredit, = kept_updBridge])

@[simp] theorem kept_decBuf (s : State) (d h g : Nat) : kept (Sys2Proof.Machine.decBuf s d h g) = kept s := by
  first
  | rfl
  | (unfold Sys2Proof.Machine.decBuf; first | (simp; done) | (repeat' split) <;> first | rfl | (simp_all; done) | grind [= kept_postEvent, = kept_bump, = kept_setDie, = kept_returnCredit])

@[simp] theorem kept_decOpt (s : State) (d : Nat) (h : Option Nat) (g : Nat) : kept (Sys2Proof.Machine.decOpt s d h g) = kept s := by
  first
  | rfl
  | (unfold Sys2Proof.Machine.decOpt; first | (simp; done) | (repeat' split) <;> first | rfl | (simp_all; done) | grind [= kept_decBuf])

/-! Machine/Route -/

@[simp] theorem kept_countDecision (s : State) (cs : List Nat) : kept (Sys2Proof.Machine.countDecision s cs) = kept s := by
  first
  | rfl
  | (unfold Sys2Proof.Machine.countDecision; first | (simp; done) | (repeat' split) <;> first | rfl | (simp_all; done) | grind)

/-! Machine/Fabric -/

@[simp] theorem kept_joinQueue (s : State) (d o : Nat) (e : Held) : kept (Sys2Proof.Machine.joinQueue s d o e) = kept s := by
  first
  | rfl
  | (unfold Sys2Proof.Machine.joinQueue; first | (simp; done) | (repeat' split) <;> first | rfl | (simp_all; done) | grind [= kept_updDie])

@[simp] theorem kept_dropHeld (s : State) (d : Nat) (e : Held) : kept (Sys2Proof.Machine.dropHeld s d e) = kept s := by
  first
  | rfl
  | (unfold Sys2Proof.Machine.dropHeld; first | (simp; done) | (repeat' split) <;> first | rfl | (simp_all; done) | grind [= kept_decOpt])

@[simp] theorem kept_resendReq (s : State) (e : Held) : kept (resendReq s e) = kept s := by
  unfold resendReq; split <;> simp

@[simp] theorem kept_loseHeld (s : State) (d : Nat) (e : Held) : kept (loseHeld s d e) = kept s := by simp [loseHeld]

@[simp] theorem kept_discard (s : State) (d : Nat) (e : Held) (n : Nat) : kept (Sys2Proof.Machine.discard s d e n) = kept s := by
  first
  | rfl
  | (unfold Sys2Proof.Machine.discard; first | (simp; done) | (repeat' split) <;> first | rfl | (simp_all; done) | grind [= kept_loseHeld, = kept_bump])

@[simp] theorem kept_toward (s : State) (d : Nat) (e : Held) : kept (Sys2Proof.Machine.toward s d e) = kept s := by
  first
  | rfl
  | (unfold Sys2Proof.Machine.toward; first | (simp; done) | (repeat' split) <;> first | rfl | (simp_all; done) | grind [= kept_joinQueue, = kept_updDie, = kept_loseHeld])

@[simp] theorem kept_copyHere (s : State) (d : Nat) (e : Held) (buf p : Nat) (h : Hdr) : kept (Sys2Proof.Machine.copyHere s d e buf p h) = kept s := by
  first
  | rfl
  | (unfold Sys2Proof.Machine.copyHere; first | (simp; done) | (repeat' split) <;> first | rfl | (simp_all; done) | grind [= kept_joinQueue, = kept_updDie])

@[simp] theorem kept_copyOver (s : State) (d : Nat) (e : Held) (buf b : Nat) (ts : List (Nat × Hdr)) : kept (Sys2Proof.Machine.copyOver s d e buf b ts) = kept s := by
  first
  | rfl
  | (unfold Sys2Proof.Machine.copyOver; first | (simp; done) | (repeat' split) <;> first | rfl | (simp_all; done) | grind [= kept_updDie, = kept_joinQueue])

@[simp] theorem kept_copies (s : State) (d : Nat) (e : Held) (buf : Nat) (ts : List (Nat × Hdr)) : kept (Sys2Proof.Machine.copies s d e buf ts) = kept s := by
  first
  | rfl
  | (unfold Sys2Proof.Machine.copies; first | (simp; done) | (repeat' split) <;> first | rfl | (simp_all; done) | grind [= kept_bump, = kept_copyHere, = kept_copyOver])

theorem kept_inject (s : State) (d : Nat) (p : Packet) (req refs : Nat) {zz : Held} {tt : State} (h : Sys2Proof.Machine.inject s d p req refs = some (zz, tt)) : kept tt = kept s := by
  unfold Sys2Proof.Machine.inject at h
  revert h
  (repeat' split) <;> intro h <;> first | (cases h; done) | (cases h; rfl) | (cases h; simp_all; done) | grind [= kept_setDie]

theorem kept_decideWith (consume : State → Nat → Held → State) (hc : ∀ s d e, kept (consume s d e) = kept s) (s : State) (d : Nat)
    (e : Held) (own : Bool) (frm : Option Nat) : kept (decideWith consume s d e own frm) = kept s := by
  unfold decideWith
  extract_lets up ctx h src e2 adaptive s0
  split
  · simp
  · have hs : kept s0 = kept s := by
      simp only [s0]
      split <;> simp
    split
    · simp
    · simp [hs]
    · (repeat' split) <;> simp [hs, hc]
    · extract_lets src e1 e3
      (repeat' split) <;> simp [hs]

@[simp] theorem kept_launch (s : State) (d : Nat) (e : Held) (own : Bool) : kept (Sys2Proof.Machine.launch s d e own) = kept s := by
  first
  | rfl
  | (unfold Sys2Proof.Machine.launch; first | (simp; done) | (repeat' split) <;> first | rfl | (simp_all; done) | grind [= kept_decideWith, = kept_dropHeld])

theorem kept_reserveAll (d req : Nat) (l : List Nat) (s : State) {bs : List Nat} {tt : State} (h : reserveAll d req l s = some (bs, tt)) :
    kept tt = kept s := by
  induction l generalizing s bs tt with
  | nil => cases h; rfl
  | cons n l ih =>
    unfold reserveAll at h
    split at h
    · cases h
    · rw [Option.map_eq_some_iff] at h
      obtain ⟨⟨b, u⟩, hu, he⟩ := h
      cases he
      exact (ih _ hu).trans (by simp)

theorem kept_reserveRoom (s : State) (d : Nat) (i : TxItem) {tt : State} (h : reserveRoom s d i = some tt) : kept tt = kept s := by
  unfold reserveRoom at h
  split at h
  · cases h; rfl
  · rw [Option.map_eq_some_iff] at h
    obtain ⟨⟨b, u⟩, hu, he⟩ := h
    rw [← he, kept_updDie]
    exact kept_reserveAll _ _ _ _ hu
  · cases h; rfl

@[simp] theorem kept_updReq (s : State) (d id : Nat) (f : EngReq → EngReq) : kept (Sys2Proof.Machine.updReq s d id f) = kept s := by
  first
  | rfl
  | (unfold Sys2Proof.Machine.updReq; first | (simp; done) | (repeat' split) <;> first | rfl | (simp_all; done) | grind [= kept_updDie])

theorem kept_respRoom (s : State) (d n : Nat) {b : Nat} {tt : State} (h : respRoom s d n = some (b, tt)) : kept tt = kept s := by
  unfold respRoom at h
  obtain ⟨_, _, he⟩ := Option.map_eq_some_iff.mp h
  cases he; simp

@[simp] theorem kept_freeRoom (s : State) (q : EngReq) : kept (freeRoom s q) = kept s := by
  unfold freeRoom; split <;> simp

theorem kept_launchReq (s : State) (d t id n : Nat) (p : Packet) {tt : State} (h : launchReq s d t id n p = some tt) : kept tt = kept s := by
  unfold launchReq at h
  obtain ⟨⟨_, _⟩, hi, he⟩ := Option.map_eq_some_iff.mp h
  cases he; simp [kept_inject _ _ _ _ _ hi]

theorem kept_emitReq (s : State) (d : Nat) (i : TxItem) (t id : Nat) {tt : State} (h : emitReq s d i t id = some tt) : kept tt = kept s := by
  unfold emitReq at h
  split at h
  · cases h; rfl
  · (repeat' split at h)
    · cases h; rfl
    · cases h; simp
    · cases h
    · exact kept_launchReq _ _ _ _ _ _ h
    · obtain ⟨⟨_, _⟩, hr, hl⟩ := Option.bind_eq_some_iff.mp h
      rw [kept_launchReq _ _ _ _ _ _ hl, kept_updReq, kept_respRoom _ _ _ hr]

theorem kept_emitPacket (s : State) (d : Nat) (i : TxItem) {tt : State} (h : emitPacket s d i = some tt) : kept tt = kept s := by
  unfold emitPacket at h
  dsimp only at h
  split at h
  · cases h
  · split at h
    · cases h
    · split at h
      · rename_i s0 _ h0
        have k0 := kept_reserveRoom _ _ _ h0
        split at h
        · cases h
        · rename_i e s1 hi
          have k1 : kept s1 = kept s := by
            split at hi
            · rw [← (Prod.mk.inj (Option.some.inj hi)).2]; exact k0
            · exact (kept_inject _ _ _ _ _ hi).trans k0
          split at h <;> (rw [← Option.some.inj h, kept_launch]; first | exact k1 | rw [kept_setDie, k1])
      · cases h

theorem kept_emitLink (s : State) (d l : Nat) (i : TxItem) {tt : State} (h : Sys2Proof.Machine.emitLink s d l i = some tt) : kept tt = kept s := by
  unfold Sys2Proof.Machine.emitLink at h
  split at h
  · cases h
  · split at h
    · rw [← Option.some.inj h]
    · obtain ⟨⟨e, s1⟩, hi, he⟩ := Option.map_eq_some_iff.mp h
      rw [← he, kept_joinQueue]
      exact kept_inject _ _ _ _ _ hi

theorem kept_emitPort (s : State) (d l : Nat) (i : TxItem) {tt : State} (h : Sys2Proof.Machine.emitPort s d l i = some tt) : kept tt = kept s := by
  unfold Sys2Proof.Machine.emitPort at h
  split at h
  · rw [← Option.some.inj h, kept_bump]
  · split at h
    · cases h
    · obtain ⟨⟨e, s1⟩, hi, he⟩ := Option.bind_eq_some_iff.mp h
      have h1 : kept s1 = kept s := kept_inject _ _ _ _ _ hi
      split at he
      · obtain ⟨q, _, hq⟩ := Option.map_eq_some_iff.mp he
        rw [← hq, kept_launch, kept_updPort, h1]
      · rw [← Option.some.inj he, kept_launch, h1]

theorem kept_emitVia (s : State) (d l : Nat) (i : TxItem) {tt : State} (h : Sys2Proof.Machine.emitVia s d l i = some tt) : kept tt = kept s := by
  unfold Sys2Proof.Machine.emitVia at h
  revert h
  (repeat' split) <;> intro h <;> first | (cases h; done) | (cases h; rfl) | (cases h; simp_all; done) | grind [→ kept_emitLink, → kept_emitPort]

theorem kept_emitItem (s : State) (d : Nat) (i : TxItem) {tt : State} (h : emitItem s d i = some tt) : kept tt = kept s := by
  unfold emitItem at h
  split at h
  · exact kept_emitVia _ _ _ _ h
  · exact kept_emitReq _ _ _ _ _ h
  · exact kept_emitPacket _ _ _ h

@[simp] theorem kept_pumpList (s : State) (d : Nat) (l : List TxItem) : kept (pumpList s d l).1 = kept s := by
  induction l generalizing s with
  | nil => rfl
  | cons i l ih =>
    unfold pumpList
    split
    · rename_i h; rw [ih, kept_emitItem _ _ _ h]
    · exact ih s

@[simp] theorem kept_pumpDie (s : State) (d : Nat) : kept (Sys2Proof.Machine.pumpDie s d) = kept s := by
  unfold Sys2Proof.Machine.pumpDie
  split
  · rfl
  · simp

@[simp] theorem kept_pump (s : State) : kept (Sys2Proof.Machine.pump s) = kept s := by
  first
  | rfl
  | (unfold Sys2Proof.Machine.pump; first | (simp; done) | (repeat' split) <;> first | rfl | (simp_all; done) | grind [= kept_pumpDie])

@[simp] theorem kept_send (s : State) (d : Nat) (i : TxItem) : kept (Sys2Proof.Machine.send s d i) = kept s := by
  first
  | rfl
  | (unfold Sys2Proof.Machine.send; first | (simp; done) | (repeat' split) <;> first | rfl | (simp_all; done) | grind [= kept_pumpDie, = kept_updDie])

@[simp] theorem kept_dropItems (s : State) (mine : Nat → TxItem → Bool) : kept (Sys2Proof.Machine.dropItems s mine) = kept s := by
  first
  | rfl
  | (unfold Sys2Proof.Machine.dropItems; first | (simp; done) | (repeat' split) <;> first | rfl | (simp_all; done) | grind [= kept_decOpt, = kept_updDie])

@[simp] theorem kept_sendSync (s : State) (d : Nat) (kind dst seq rest : Nat) : kept (Sys2Proof.Machine.sendSync s d kind dst seq rest) = kept s := by
  first
  | rfl
  | (unfold Sys2Proof.Machine.sendSync; first | (simp; done) | (repeat' split) <;> first | rfl | (simp_all; done) | grind [= kept_bump, = kept_send])

@[simp] theorem kept_sendResend (s : State) (d : Nat) (dst code tag seq : Nat) : kept (Sys2Proof.Machine.sendResend s d dst code tag seq) = kept s := by
  first
  | rfl
  | (unfold Sys2Proof.Machine.sendResend; first | (simp; done) | (repeat' split) <;> first | rfl | (simp_all; done) | grind [= kept_sendSync])

@[simp] theorem kept_consumeAt (s : State) (d : Nat) (e0 : Held) : kept (Sys2Proof.Machine.consumeAt s d e0) = kept s := by
  first
  | rfl
  | (unfold Sys2Proof.Machine.consumeAt; first | (simp; done) | (repeat' split) <;> first | rfl | (simp_all; done) | grind [= kept_dropHeld, = kept_setDie, = kept_discard, = kept_updDie, = kept_bump, = kept_sendResend])

@[simp] theorem kept_takeAt (s : State) (d : Nat) (e : Held) : kept (takeAt s d e) = kept s := by
  unfold takeAt; split <;> simp

theorem kept_takeTag (s : State) (d : Nat) {zz : Nat} {tt : State} (h : Sys2Proof.Machine.takeTag s d = (zz, tt)) : kept tt = kept s := by
  unfold Sys2Proof.Machine.takeTag at h
  revert h
  (repeat' split) <;> intro h <;> first | (cases h; done) | (cases h; rfl) | (cases h; simp_all; done) | grind [= kept_setDie]
@[simp] theorem kept_takeTag_snd (s : State) (d : Nat) : kept (Sys2Proof.Machine.takeTag s d).2 = kept s := kept_takeTag s d rfl

@[simp] theorem kept_respond (s : State) (d : Nat) (kind chip tag : Nat) (st : Nat) (addr : Nat) (bs : List Byte) : kept (Sys2Proof.Machine.respond s d kind chip tag st addr bs) = kept s := by
  first
  | rfl
  | (unfold Sys2Proof.Machine.respond; first | (simp; done) | (repeat' split) <;> first | rfl | (simp_all; done) | grind [= kept_bump, = kept_send])

@[simp] theorem kept_resend (s : State) (d : Nat) (neww : Bool) (r : Replay) : kept (Sys2Proof.Machine.resend s d neww r) = kept s := by
  first
  | rfl
  | (unfold Sys2Proof.Machine.resend; first | (simp; done) | (repeat' split) <;> first | rfl | (simp_all; done) | grind [= kept_updDie, = kept_decideWith, = kept_consumeAt])

@[simp] theorem kept_updRecs (s : State) (d agent chip : Nat) (f : List Replay → List Replay) : kept (Sys2Proof.Machine.updRecs s d agent chip f) = kept s := by
  first
  | rfl
  | (unfold Sys2Proof.Machine.updRecs; first | (simp; done) | (repeat' split) <;> first | rfl | (simp_all; done) | grind [= kept_updDie])

@[simp] theorem kept_resendAll (s : State) (d agent chip : Nat) (ok : Replay → Bool) : kept (Sys2Proof.Machine.resendAll s d agent chip ok) = kept s := by
  first
  | rfl
  | (unfold Sys2Proof.Machine.resendAll; first | (simp; done) | (repeat' split) <;> first | rfl | (simp_all; done) | grind [= kept_resend, = kept_updRecs])

@[simp] theorem kept_renumber (s : State) (d agent chip : Nat) : kept (Sys2Proof.Machine.renumber s d agent chip) = kept s := by
  first
  | rfl
  | (unfold Sys2Proof.Machine.renumber; first | (simp; done) | (repeat' split) <;> first | rfl | (simp_all; done) | grind [= kept_updDie])

@[simp] theorem kept_restart (s : State) (d agent chip : Nat) : kept (Sys2Proof.Machine.restart s d agent chip) = kept s := by
  first
  | rfl
  | (unfold Sys2Proof.Machine.restart; first | (simp; done) | (repeat' split) <;> first | rfl | (simp_all; done) | grind [= kept_resendAll, = kept_renumber])

@[simp] theorem kept_resendStep (s : State) (d agent : Nat) (h : Hdr) : kept (Sys2Proof.Machine.resendStep s d agent h) = kept s := by
  first
  | rfl
  | (unfold Sys2Proof.Machine.resendStep; first | (simp; done) | (repeat' split) <;> first | rfl | (simp_all; done) | grind [= kept_renumber, = kept_resendAll, = kept_restart])

@[simp] theorem kept_refuse (s : State) (d : Nat) (e : Held) : kept (Sys2Proof.Machine.refuse s d e) = kept s := by
  first
  | rfl
  | (unfold Sys2Proof.Machine.refuse; first | (simp; done) | (repeat' split) <;> first | rfl | (simp_all; done) | grind [= kept_respond, = kept_dropHeld])

@[simp] theorem kept_decide_p (s : State) (d : Nat) (e : Held) (own : Bool) (frm : Option Nat) : kept (Sys2Proof.Machine.decide' s d e own frm) = kept s := by
  first
  | rfl
  | (unfold Sys2Proof.Machine.decide'; first | (simp; done) | (repeat' split) <;> first | rfl | (simp_all; done) | grind [= kept_refuse, = kept_decideWith, = kept_consumeAt])

/-! Machine/PortPmc -/

@[simp] theorem kept_portEvent (s : State) (d l ev k : Nat) (cls : Option Nat) : kept (Sys2Proof.Machine.portEvent s d l ev k cls) = kept s := by
  first
  | rfl
  | (unfold Sys2Proof.Machine.portEvent; first | (simp; done) | (repeat' split) <;> first | rfl | (simp_all; done) | grind [= kept_updPort])

@[simp] theorem kept_portSent (s : State) (d l n cls : Nat) (resent : Bool) : kept (Sys2Proof.Machine.portSent s d l n cls resent) = kept s := by
  first
  | rfl
  | (unfold Sys2Proof.Machine.portSent; first | (simp; done) | (repeat' split) <;> first | rfl | (simp_all; done) | grind [= kept_updPort])

@[simp] theorem kept_portTx (s : State) (d l n : Nat) (h : Hdr) : kept (Sys2Proof.Machine.portTx s d l n h) = kept s := by
  first
  | rfl
  | (unfold Sys2Proof.Machine.portTx; first | (simp; done) | (repeat' split) <;> first | rfl | (simp_all; done) | grind [= kept_portSent])

@[simp] theorem kept_frameTx (s : State) (d l : Nat) (f : List Byte) : kept (Sys2Proof.Machine.frameTx s d l f) = kept s := by
  first
  | rfl
  | (unfold Sys2Proof.Machine.frameTx; first | (simp; done) | (repeat' split) <;> first | rfl | (simp_all; done) | grind [= kept_emit, = kept_portSent])

@[simp] theorem kept_portRx (s : State) (d l n cls : Nat) : kept (Sys2Proof.Machine.portRx s d l n cls) = kept s := by
  first
  | rfl
  | (unfold Sys2Proof.Machine.portRx; first | (simp; done) | (repeat' split) <;> first | rfl | (simp_all; done) | grind [= kept_updPort])

/-! Machine/Switch -/

@[simp] theorem kept_reportBarred (s : State) (d l : Nat) (h : Hdr) : kept (Sys2Proof.Machine.reportBarred s d l h) = kept s := by
  first
  | rfl
  | (unfold Sys2Proof.Machine.reportBarred; first | (simp; done) | (repeat' split) <;> first | rfl | (simp_all; done) | grind [= kept_bump, = kept_postEvent, = kept_updDie])

@[simp] theorem kept_sendUns (s : State) (d : Nat) (cls kind : Nat) (flags rest : Nat) (bs : List Byte) (bits req : Nat) : kept (Sys2Proof.Machine.sendUns s d cls kind flags rest bs bits req) = kept s := by
  first
  | rfl
  | (unfold Sys2Proof.Machine.sendUns; first | (simp; done) | (repeat' split) <;> first | rfl | (simp_all; done) | grind [= kept_send])

@[simp] theorem kept_sendCollAck (s : State) (d : Nat) (h : Hdr) : kept (Sys2Proof.Machine.sendCollAck s d h) = kept s := by
  first
  | rfl
  | (unfold Sys2Proof.Machine.sendCollAck; first | (simp; done) | (repeat' split) <;> first | rfl | (simp_all; done) | grind [= kept_bump, = kept_sendUns])

@[simp] theorem kept_portDiscard (s : State) (d l : Nat) (e : Held) (n : Option Nat) : kept (Sys2Proof.Machine.portDiscard s d l e n) = kept s := by
  first
  | rfl
  | (unfold Sys2Proof.Machine.portDiscard; first | (simp; done) | (repeat' split) <;> first | rfl | (simp_all; done) | grind [= kept_portEvent, = kept_discard, = kept_dropHeld])

@[simp] theorem kept_lostArriving (s : State) (d l : Nat) : kept (Sys2Proof.Machine.lostArriving s d l) = kept s := by
  first
  | rfl
  | (unfold Sys2Proof.Machine.lostArriving; first | (simp; done) | (repeat' split) <;> first | rfl | (simp_all; done) | grind [= kept_updDie, = kept_portDiscard, = kept_reportFault])

@[simp] theorem kept_headerArrival (d l : Nat) (hdr : BitVec 256) (s : State) : kept (Sys2Proof.Machine.headerArrival d l hdr s) = kept s := by
  first
  | rfl
  | (unfold Sys2Proof.Machine.headerArrival; first | (simp; done) | (repeat' split) <;> first | rfl | (simp_all; done) | grind [= kept_lostArriving, = kept_bump, = kept_setDie, = kept_portEvent])

theorem kept_execPacketHeaderArrival (d l : Nat) (hdr : BitVec 256) (s : State) {tt : State} (h : Sys2Proof.Machine.execPacketHeaderArrival d l hdr s = .next tt) : kept tt = kept s := by
  unfold Sys2Proof.Machine.execPacketHeaderArrival at h
  cases h
  first
  | rfl
  | (simp; done)
  | (repeat' split) <;> first | rfl | (simp_all; done) | grind [= kept_headerArrival]

@[simp] theorem kept_holdHeld (s : State) (d : Nat) (e : Held) : kept (Sys2Proof.Machine.holdHeld s d e) = kept s := by
  first
  | rfl
  | (unfold Sys2Proof.Machine.holdHeld; first | (simp; done) | (repeat' split) <;> first | rfl | (simp_all; done) | grind [= kept_updDie])

@[simp] theorem kept_arrived (s : State) (d : Nat) (e : Held) (own : Bool) (frm : Option Nat) : kept (Sys2Proof.Machine.arrived s d e own frm) = kept s := by
  first
  | rfl
  | (unfold Sys2Proof.Machine.arrived; first | (simp; done) | (repeat' split) <;> first | rfl | (simp_all; done) | grind [= kept_holdHeld, = kept_decide_p])

@[simp] theorem kept_endpointEntry (s : State) (d l : Nat) (e : Held) : kept (Sys2Proof.Machine.endpointEntry s d l e) = kept s := by
  first
  | rfl
  | (unfold Sys2Proof.Machine.endpointEntry; first | (simp; done) | (repeat' split) <;> first | rfl | (simp_all; done) | grind [= kept_holdHeld, = kept_portDiscard, = kept_portEvent, = kept_reportBarred, = kept_dropHeld, = kept_sendUns, = kept_decide_p, = kept_setPort, = kept_discard])

@[simp] theorem kept_trunkEntry (s : State) (d l : Nat) (e : Held) : kept (Sys2Proof.Machine.trunkEntry s d l e) = kept s := by
  first
  | rfl
  | (unfold Sys2Proof.Machine.trunkEntry; first | (simp; done) | (repeat' split) <;> first | rfl | (simp_all; done) | grind [= kept_consumeAt, = kept_discard, = kept_holdHeld, = kept_dropHeld, = kept_arrived])

@[simp] theorem kept_t1Forward (s : State) (d l : Nat) (h : BitVec 256) (e : Held) (w : RxWin) (q : Packet) (t : Entry) : kept (Sys2Proof.Machine.t1Forward s d l h e w q t) = kept s := by
  first
  | rfl
  | (unfold Sys2Proof.Machine.t1Forward; first | (simp; done) | (repeat' split) <;> first | rfl | (simp_all; done) | grind [= kept_portDiscard, = kept_dropHeld, = kept_setPort, = kept_updDie, = kept_decide_p, = kept_frameTx])

@[simp] theorem kept_t1Entry (s : State) (d l : Nat) (h : BitVec 256) (body : List Byte) (e : Held) : kept (t1Entry s d l h body e) = kept s := by
  unfold t1Entry
  extract_lets g t1 ack q t
  refine kept_ite_of (by simp) (kept_ite_of (by simp) (kept_ite_of (by simp) ?_))
  split
  rename_i ok pp _
  extract_lets s1
  have h1 : kept s1 = kept s := by simp [s1]
  clear_value s1
  refine kept_ite_of (by simp [h1]) (kept_ite_of (by simp [h1]) (kept_ite_of (by simp [h1]) (kept_ite_of (by simp [h1]) ?_)))
  split
  · simp [h1]
  · split <;> simp [h1]

@[simp] theorem kept_packetReceived (d l : Nat) (rest : List Byte) (fecOk : Bool) (s : State) : kept (Sys2Proof.Machine.packetReceived d l rest fecOk s) = kept s := by
  first
  | rfl
  | (unfold Sys2Proof.Machine.packetReceived; first | (simp; done) | (repeat' split) <;> first | rfl | (simp_all; done) | grind [= kept_setDie, = kept_portDiscard, = kept_reportFault, = kept_portRx, = kept_t1Entry, = kept_trunkEntry, = kept_endpointEntry])

theorem kept_execPacketReceived (d l : Nat) (rest : List Byte) (fecOk : Bool) (s : State) {tt : State} (h : Sys2Proof.Machine.execPacketReceived d l rest fecOk s = .next tt) : kept tt = kept s := by
  unfold Sys2Proof.Machine.execPacketReceived at h
  cases h
  first
  | rfl
  | (simp; done)
  | (repeat' split) <;> first | rfl | (simp_all; done) | grind [= kept_packetReceived]

@[simp] theorem kept_t1Resend (s : State) (d l dst code seq : Nat) : kept (t1Resend s d l dst code seq) = kept s := by
  unfold t1Resend
  exact kept_ite_of (kept_bump _ _ _) (kept_send _ _ _)

@[simp] theorem kept_t1Answer (s : State) (d l : Nat) (h : Hdr) (a : Nat) : kept (t1Answer s d l h a) = kept s := by
  unfold t1Answer
  exact kept_ite_of (kept_bump _ _ _) (kept_send _ _ _)

theorem kept_t1Asks (s : State) (d l src : Nat) {zz : Bool} {tt : State} (h : Sys2Proof.Machine.t1Asks s d l src = (zz, tt)) : kept tt = kept s := by
  unfold Sys2Proof.Machine.t1Asks at h
  revert h
  (repeat' split) <;> intro h <;> first | (cases h; done) | (cases h; rfl) | (cases h; simp_all; done) | grind [= kept_updDie]
@[simp] theorem kept_t1Asks_snd (s : State) (d l src : Nat) : kept (Sys2Proof.Machine.t1Asks s d l src).2 = kept s := kept_t1Asks s d l src rfl

@[simp] theorem kept_t1Accepted (s : State) (d l : Nat) (h : Hdr) (w : RxWin) : kept (Sys2Proof.Machine.t1Accepted s d l h w) = kept s := by
  first
  | rfl
  | (unfold Sys2Proof.Machine.t1Accepted; first | (simp; done) | (repeat' split) <;> first | rfl | (simp_all; done) | grind [= kept_decOpt, = kept_setPort])

@[simp] theorem kept_t1Take (s : State) (d l : Nat) (e : Held) (w : RxWin) : kept (t1Take s d l e w) = kept s := by
  unfold t1Take
  extract_lets h s1 s2 p
  have h1 : kept s1 = kept s := by simp [s1]
  have h2 : kept s2 = kept s := by simp [s2, h1]
  refine kept_ite_of ?_ ?_
  · split <;> simp [h2]
  · split
    simp [h1]

@[simp] theorem kept_t1Dup (s : State) (d l : Nat) (e : Held) : kept (Sys2Proof.Machine.t1Dup s d l e) = kept s := by
  first
  | rfl
  | (unfold Sys2Proof.Machine.t1Dup; first | (simp; done) | (repeat' split) <;> first | rfl | (simp_all; done) | grind [= kept_dropHeld, = kept_setPort, = kept_bump])

@[simp] theorem kept_t1Send (s : State) (d l : Nat) (e : Held) : kept (t1Send s d l e) = kept s := by
  unfold t1Send
  dsimp only
  refine kept_ite_of (by simp) (kept_ite_of (by simp) (kept_ite_of (by simp) ?_))
  split
  · simp
  · simp
  · simp
  · simp
  · rw [kept_ite]
    split <;> simp

@[simp] theorem kept_packetTransmit (d l : Nat) (s : State) : kept (Sys2Proof.Machine.packetTransmit d l s) = kept s := by
  first
  | rfl
  | (unfold Sys2Proof.Machine.packetTransmit; first | (simp; done) | (repeat' split) <;> first | rfl | (simp_all; done) | grind [= kept_setDie, = kept_dropHeld, = kept_portTx, = kept_emit, = kept_t1Send])

@[simp] theorem kept_tellDrained (s t : State) (d l : Nat) : kept (tellDrained s t d l) = kept t := by
  unfold tellDrained; split <;> simp

theorem kept_execPacketTransmit (d l : Nat) (s : State) {tt : State} (h : Sys2Proof.Machine.execPacketTransmit d l s = .next tt) : kept tt = kept s := by
  unfold Sys2Proof.Machine.execPacketTransmit at h
  cases h
  first
  | rfl
  | (simp; done)
  | (repeat' split) <;> first | rfl | (simp_all; done) | grind [= kept_packetTransmit]

@[simp] theorem kept_bridgeHop (d b : Nat) (s : State) : kept (bridgeHop d b s) = kept s := by
  unfold bridgeHop
  extract_lets x
  split
  · rfl
  · split
    · rfl
    · split
      · rfl
      · extract_lets y cr
        split
        · rfl
        · split
          · rfl
          · extract_lets pool ent
            split
            · rfl
            · extract_lets br y2 s1 e1
              have h1 : kept s1 = kept s := by simp [s1]
              (repeat' split) <;> simp [h1]

theorem kept_execBridgeHop (d b : Nat) (s : State) {tt : State} (h : Sys2Proof.Machine.execBridgeHop d b s = .next tt) : kept tt = kept s := by
  unfold Sys2Proof.Machine.execBridgeHop at h
  cases h
  first
  | rfl
  | (simp; done)
  | (repeat' split) <;> first | rfl | (simp_all; done) | grind [= kept_bridgeHop]

@[simp] theorem kept_residenceExpiry (d o i : Nat) (s : State) : kept (Sys2Proof.Machine.residenceExpiry d o i s) = kept s := by
  first
  | rfl
  | (unfold Sys2Proof.Machine.residenceExpiry; first | (simp; done) | (repeat' split) <;> first | rfl | (simp_all; done) | grind [= kept_discard, = kept_setDie])

theorem kept_execResidenceExpiry (d o i : Nat) (s : State) {tt : State} (h : Sys2Proof.Machine.execResidenceExpiry d o i s = .next tt) : kept tt = kept s := by
  unfold Sys2Proof.Machine.execResidenceExpiry at h
  cases h
  first
  | rfl
  | (simp; done)
  | (repeat' split) <;> first | rfl | (simp_all; done) | grind [= kept_residenceExpiry]

@[simp] theorem kept_retryAdapt (s : State) (d : Nat) : kept (Sys2Proof.Machine.retryAdapt s d) = kept s := by
  first
  | rfl
  | (unfold Sys2Proof.Machine.retryAdapt; first | (simp; done) | (repeat' split) <;> first | rfl | (simp_all; done) | grind [= kept_decide_p, = kept_updDie])

@[simp] theorem kept_retryAll (s : State) : kept (Sys2Proof.Machine.retryAll s) = kept s := by
  first
  | rfl
  | (unfold Sys2Proof.Machine.retryAll; first | (simp; done) | (repeat' split) <;> first | rfl | (simp_all; done) | grind [= kept_retryAdapt])

@[simp] theorem kept_escWaitExpiry (d i : Nat) (s : State) : kept (Sys2Proof.Machine.escWaitExpiry d i s) = kept s := by
  first
  | rfl
  | (unfold Sys2Proof.Machine.escWaitExpiry; first | (simp; done) | (repeat' split) <;> first | rfl | (simp_all; done) | grind [= kept_setDie, = kept_decide_p])

theorem kept_execEscWaitExpiry (d i : Nat) (s : State) {tt : State} (h : Sys2Proof.Machine.execEscWaitExpiry d i s = .next tt) : kept tt = kept s := by
  unfold Sys2Proof.Machine.execEscWaitExpiry at h
  cases h
  first
  | rfl
  | (simp; done)
  | (repeat' split) <;> first | rfl | (simp_all; done) | grind [= kept_escWaitExpiry]

@[simp] theorem kept_warmGroupEnd (g : Nat) (s : State) : kept (Sys2Proof.Machine.warmGroupEnd g s) = kept s := by
  first
  | rfl
  | (unfold Sys2Proof.Machine.warmGroupEnd; first | (simp; done) | (repeat' split) <;> first | rfl | (simp_all; done) | grind)

theorem kept_execWarmGroupEnd (g : Nat) (s : State) {tt : State} (h : Sys2Proof.Machine.execWarmGroupEnd g s = .next tt) : kept tt = kept s := by
  unfold Sys2Proof.Machine.execWarmGroupEnd at h
  cases h
  first
  | rfl
  | (simp; done)
  | (repeat' split) <;> first | rfl | (simp_all; done) | grind [= kept_warmGroupEnd]

@[simp] theorem kept_handleCacheFetch (d p g : Nat) (s : State) : kept (Sys2Proof.Machine.handleCacheFetch d p g s) = kept s := by
  first
  | rfl
  | (unfold Sys2Proof.Machine.handleCacheFetch; first | (simp; done) | (repeat' split) <;> first | rfl | (simp_all; done) | grind [= kept_setDie])

theorem kept_execHandleCacheFetch (d p g : Nat) (s : State) {tt : State} (h : Sys2Proof.Machine.execHandleCacheFetch d p g s = .next tt) : kept tt = kept s := by
  unfold Sys2Proof.Machine.execHandleCacheFetch at h
  cases h
  first
  | rfl
  | (simp; done)
  | (repeat' split) <;> first | rfl | (simp_all; done) | grind [= kept_handleCacheFetch]

@[simp] theorem kept_depthSample (d : Nat) (s : State) : kept (Sys2Proof.Machine.depthSample d s) = kept s := by
  first
  | rfl
  | (unfold Sys2Proof.Machine.depthSample; first | (simp; done) | (repeat' split) <;> first | rfl | (simp_all; done) | grind [= kept_setDie])

theorem kept_execDepthSample (d : Nat) (s : State) {tt : State} (h : Sys2Proof.Machine.execDepthSample d s = .next tt) : kept tt = kept s := by
  unfold Sys2Proof.Machine.execDepthSample at h
  cases h
  first
  | rfl
  | (simp; done)
  | (repeat' split) <;> first | rfl | (simp_all; done) | grind [= kept_depthSample]

/-! Machine/Clock -/

@[simp] theorem kept_reachTime (s : State) (d t : Nat) : kept (reachTime s d t) = kept s := by
  unfold reachTime
  exact (kept_now _ _).trans (kept_foldUpto _ _ (fun _ _ => kept_setDie _ _ _) _)

/-! Machine/Knots -/

@[simp] theorem kept_timeEvent (s : State) (die sub d1 d2 : Nat) : kept (Sys2Proof.Machine.timeEvent s die sub d1 d2) = kept s := by
  first
  | rfl
  | (unfold Sys2Proof.Machine.timeEvent; first | (simp; done) | (repeat' split) <;> first | rfl | (simp_all; done) | grind [= kept_postEvent])

@[simp] theorem kept_wakeReleased (s : State) (d k : Nat) : kept (Sys2Proof.Machine.wakeReleased s d k) = kept s := by
  first
  | rfl
  | (unfold Sys2Proof.Machine.wakeReleased; first | (simp; done) | (repeat' split) <;> first | rfl | (simp_all; done) | grind [= kept_wake])

@[simp] theorem kept_releaseGen (s : State) (d k res : Nat) : kept (Sys2Proof.Machine.releaseGen s d k res) = kept s := by
  first
  | rfl
  | (unfold Sys2Proof.Machine.releaseGen; first | (simp; done) | (repeat' split) <;> first | rfl | (simp_all; done) | grind [= kept_wakeReleased, = kept_setKnot])

@[simp] theorem kept_releaseUntimed (s : State) (d k : Nat) : kept (Sys2Proof.Machine.releaseUntimed s d k) = kept s := by
  first
  | rfl
  | (unfold Sys2Proof.Machine.releaseUntimed; first | (simp; done) | (repeat' split) <;> first | rfl | (simp_all; done) | grind [= kept_releaseGen, = kept_bump])

@[simp] theorem kept_armRelease (s : State) (d k t : Nat) (timed late : Bool) : kept (Sys2Proof.Machine.armRelease s d k t timed late) = kept s := by
  first
  | rfl
  | (unfold Sys2Proof.Machine.armRelease; first | (simp; done) | (repeat' split) <;> first | rfl | (simp_all; done) | grind [= kept_setKnot, = kept_releaseUntimed, = kept_timeEvent, = kept_bump, = kept_releaseGen])

@[simp] theorem kept_sendRelease (s : State) (d k g t : Nat) (timed : Bool) (chip : Nat) : kept (Sys2Proof.Machine.sendRelease s d k g t timed chip) = kept s := by
  first
  | rfl
  | (unfold Sys2Proof.Machine.sendRelease; first | (simp; done) | (repeat' split) <;> first | rfl | (simp_all; done) | grind [= kept_sendSync])

@[simp] theorem kept_sendArrive (s : State) (k : Nat) : kept (Sys2Proof.Machine.sendArrive s k) = kept s := by
  first
  | rfl
  | (unfold Sys2Proof.Machine.sendArrive; first | (simp; done) | (repeat' split) <;> first | rfl | (simp_all; done) | grind [= kept_sendSync])

theorem kept_homeCount_snd (s : State) (hd k g who : Nat) : kept (homeCount s hd k g who).2 = kept s := by
  unfold homeCount
  extract_lets n counted timed t s1
  (repeat' split) <;> simp [s1]

theorem kept_homeCount (s : State) (hd k g who : Nat) {a : Option (Nat × Nat × Bool)} {t : State} (h : homeCount s hd k g who = (a, t)) :
    kept t = kept s := by rw [← kept_homeCount_snd s hd k g who, h]

@[simp] theorem kept_applyRelease (s : State) (k g t : Nat) (timed late : Bool) : kept (Sys2Proof.Machine.applyRelease s k g t timed late) = kept s := by
  first
  | rfl
  | (unfold Sys2Proof.Machine.applyRelease; first | (simp; done) | (repeat' split) <;> first | rfl | (simp_all; done) | grind [= kept_setKnot, = kept_armRelease, = kept_releaseGen])

@[simp] theorem kept_settleKnot (d k n : Nat) (s : State) : kept (settleKnot d k n s) = kept s := by
  induction n generalizing s with
  | zero => rfl
  | succ n ih =>
    unfold settleKnot
    (repeat' split) <;> first | rfl | (simp_all; done) | grind [= kept_setKnot, → kept_homeCount, = kept_applyRelease, = kept_sendArrive,
      = kept_armRelease, = kept_releaseGen]

@[simp] theorem kept_settle (s : State) (d k : Nat) : kept (Sys2Proof.Machine.settle s d k) = kept s := by
  first
  | rfl
  | (unfold Sys2Proof.Machine.settle; first | (simp; done) | (repeat' split) <;> first | rfl | (simp_all; done) | grind [= kept_settleKnot])

theorem kept_knotArrive (s : State) (d k : Nat) {zz : Nat} {tt : State} (h : Sys2Proof.Machine.knotArrive s d k = (zz, tt)) : kept tt = kept s := by
  unfold Sys2Proof.Machine.knotArrive at h
  revert h
  (repeat' split) <;> intro h <;> first | (cases h; done) | (cases h; rfl) | (cases h; simp_all; done) | grind [= kept_setKnot, = kept_settle]
@[simp] theorem kept_knotArrive_snd (s : State) (d k : Nat) : kept (Sys2Proof.Machine.knotArrive s d k).2 = kept s := kept_knotArrive s d k rfl

@[simp] theorem kept_knotSignal (s : State) (d k amount : Nat) : kept (Sys2Proof.Machine.knotSignal s d k amount) = kept s := by
  first
  | rfl
  | (unfold Sys2Proof.Machine.knotSignal; first | (simp; done) | (repeat' split) <;> first | rfl | (simp_all; done) | grind [= kept_bump, = kept_serveTakes, = kept_setKnot])

@[simp] theorem kept_signalFrom (s : State) (d k amount : Nat) : kept (Sys2Proof.Machine.signalFrom s d k amount) = kept s := by
  first
  | rfl
  | (unfold Sys2Proof.Machine.signalFrom; first | (simp; done) | (repeat' split) <;> first | rfl | (simp_all; done) | grind [= kept_knotSignal, = kept_bump])

theorem kept_execKarv (d c : Nat) (s : State) {tt : State} (h : Sys2Proof.Machine.execKarv d c s = .next tt) : kept tt = kept s := by
  unfold Sys2Proof.Machine.execKarv at h
  cases h
  first
  | rfl
  | (simp; done)
  | first | ((first | refine kept_issue _ _ _ _ _ (fun k r w => ?_)) <;> (repeat' split) <;> first | rfl | (simp_all; done) | ((first | refine kept_issue _ _ _ _ _ (fun k r w => ?_)) <;> (repeat' split) <;> first | rfl | (simp_all; done) | grind [= kept_setCore]) | grind [= kept_setCore]) | ((repeat' split) <;> first | rfl | (simp_all; done) | ((first | refine kept_issue _ _ _ _ _ (fun k r w => ?_)) <;> (repeat' split) <;> first | rfl | (simp_all; done) | grind [= kept_setCore]) | grind [= kept_setCore])

theorem kept_execKsig (d c : Nat) (s : State) {tt : State} (h : Sys2Proof.Machine.execKsig d c s = .next tt) : kept tt = kept s := by
  unfold Sys2Proof.Machine.execKsig at h
  cases h
  first
  | rfl
  | (simp; done)
  | first | ((first | refine kept_issue _ _ _ _ _ (fun k r w => ?_)) <;> (repeat' split) <;> first | rfl | (simp_all; done) | ((first | refine kept_issue _ _ _ _ _ (fun k r w => ?_)) <;> (repeat' split) <;> first | rfl | (simp_all; done) | grind [= kept_setCore]) | grind [= kept_setCore]) | ((repeat' split) <;> first | rfl | (simp_all; done) | ((first | refine kept_issue _ _ _ _ _ (fun k r w => ?_)) <;> (repeat' split) <;> first | rfl | (simp_all; done) | grind [= kept_setCore]) | grind [= kept_setCore])

theorem kept_execKwait (d c : Nat) (s : State) {tt : State} (h : Sys2Proof.Machine.execKwait d c s = .next tt) : kept tt = kept s := by
  unfold Sys2Proof.Machine.execKwait at h
  cases h
  first
  | rfl
  | (simp; done)
  | first | ((first | refine kept_issue _ _ _ _ _ (fun k r w => ?_)) <;> (repeat' split) <;> first | rfl | (simp_all; done) | ((first | refine kept_issue _ _ _ _ _ (fun k r w => ?_)) <;> (repeat' split) <;> first | rfl | (simp_all; done) | grind [= kept_setCore]) | grind [= kept_setCore]) | ((repeat' split) <;> first | rfl | (simp_all; done) | ((first | refine kept_issue _ _ _ _ _ (fun k r w => ?_)) <;> (repeat' split) <;> first | rfl | (simp_all; done) | grind [= kept_setCore]) | grind [= kept_setCore])

theorem kept_execKtake (d c : Nat) (s : State) {tt : State} (h : Sys2Proof.Machine.execKtake d c s = .next tt) : kept tt = kept s := by
  unfold Sys2Proof.Machine.execKtake at h
  cases h
  first
  | rfl
  | (simp; done)
  | first | ((first | refine kept_issue _ _ _ _ _ (fun k r w => ?_)) <;> (repeat' split) <;> first | rfl | (simp_all; done) | ((first | refine kept_issue _ _ _ _ _ (fun k r w => ?_)) <;> (repeat' split) <;> first | rfl | (simp_all; done) | grind [= kept_setCore, = kept_setKnot, = kept_serveTakes]) | grind [= kept_setCore, = kept_setKnot, = kept_serveTakes]) | ((repeat' split) <;> first | rfl | (simp_all; done) | ((first | refine kept_issue _ _ _ _ _ (fun k r w => ?_)) <;> (repeat' split) <;> first | rfl | (simp_all; done) | grind [= kept_setCore, = kept_setKnot, = kept_serveTakes]) | grind [= kept_setCore, = kept_setKnot, = kept_serveTakes])

@[simp] theorem kept_arrivalTakesEffect (d c : Nat) (s : State) : kept (Sys2Proof.Machine.arrivalTakesEffect d c s) = kept s := by
  first
  | rfl
  | (unfold Sys2Proof.Machine.arrivalTakesEffect; first | (simp; done) | (repeat' split) <;> first | rfl | (simp_all; done) | grind [= kept_setCore, = kept_knotSignal, → kept_knotArrive, = kept_knotArrive_snd])

theorem kept_execArrivalTakesEffect (d c : Nat) (s : State) {tt : State} (h : Sys2Proof.Machine.execArrivalTakesEffect d c s = .next tt) : kept tt = kept s := by
  unfold Sys2Proof.Machine.execArrivalTakesEffect at h
  cases h
  first
  | rfl
  | (simp; done)
  | (repeat' split) <;> first | rfl | (simp_all; done) | grind [= kept_arrivalTakesEffect]

@[simp] theorem kept_knotWaitTimeout (d c : Nat) (s : State) : kept (Sys2Proof.Machine.knotWaitTimeout d c s) = kept s := by
  first
  | rfl
  | (unfold Sys2Proof.Machine.knotWaitTimeout; first | (simp; done) | (repeat' split) <;> first | rfl | (simp_all; done) | grind [= kept_wake, = kept_dropTake])

theorem kept_execKnotWaitTimeout (d c : Nat) (s : State) {tt : State} (h : Sys2Proof.Machine.execKnotWaitTimeout d c s = .next tt) : kept tt = kept s := by
  unfold Sys2Proof.Machine.execKnotWaitTimeout at h
  cases h
  first
  | rfl
  | (simp; done)
  | (repeat' split) <;> first | rfl | (simp_all; done) | grind [= kept_knotWaitTimeout]

@[simp] theorem kept_knotCfgWrite (d k : Nat) (v : Word32) (s : State) : kept (Sys2Proof.Machine.knotCfgWrite d k v s) = kept s := by
  first
  | rfl
  | (unfold Sys2Proof.Machine.knotCfgWrite; first | (simp; done) | (repeat' split) <;> first | rfl | (simp_all; done) | grind [= kept_setKnot, = kept_wake])

theorem kept_execKnotCfgWrite (d k : Nat) (v : Word32) (s : State) {tt : State} (h : Sys2Proof.Machine.execKnotCfgWrite d k v s = .next tt) : kept tt = kept s := by
  unfold Sys2Proof.Machine.execKnotCfgWrite at h
  cases h
  first
  | rfl
  | (simp; done)
  | (repeat' split) <;> first | rfl | (simp_all; done) | grind [= kept_knotCfgWrite]

@[simp] theorem kept_releaseBehind (d k n : Nat) (s : State) : kept (releaseBehind d k n s) = kept s := by
  induction n generalizing s with
  | zero => rfl
  | succ n ih =>
    unfold releaseBehind
    split
    · rw [ih, kept_releaseUntimed]
    · rfl

@[simp] theorem kept_timedRelease (d k : Nat) (s : State) : kept (Sys2Proof.Machine.timedRelease d k s) = kept s := by
  unfold Sys2Proof.Machine.timedRelease
  dsimp only
  split
  · rfl
  · split <;> simp

theorem kept_execTimedRelease (d k : Nat) (s : State) {tt : State} (h : Sys2Proof.Machine.execTimedRelease d k s = .next tt) : kept tt = kept s := by
  unfold Sys2Proof.Machine.execTimedRelease at h
  cases h
  first
  | rfl
  | (simp; done)
  | (repeat' split) <;> first | rfl | (simp_all; done) | grind [= kept_timedRelease]

@[simp] theorem kept_disarmAll (s : State) : kept (Sys2Proof.Machine.disarmAll s) = kept s := by
  have h1 (s : State) (d k : Nat) : kept (if (getKnot s d k).armed.isEmpty then s
      else settle (foldUpto (getKnot s d k).armed.length s (fun s _ => releaseUntimed s d k)) d k) = kept s := by
    split <;> simp
  unfold Sys2Proof.Machine.disarmAll
  extract_lets one s1
  have h2 : kept s1 = kept s := kept_foldl _ (fun s d => kept_foldl _ (fun s k => h1 s d k) _ s) _ s
  exact (kept_foldl _ (fun s k => h1 s 0 k) _ s1).trans h2

theorem kept_takeKind (s : State) (d kind : Nat) {zz : Held} {tt : State} (h : Sys2Proof.Machine.takeKind s d kind = some (zz, tt)) : kept tt = kept s := by
  unfold Sys2Proof.Machine.takeKind at h
  revert h
  (repeat' split) <;> intro h <;> first | (cases h; done) | (cases h; rfl) | (cases h; simp_all; done) | grind [= kept_setDie]

theorem kept_onKind (kind d : Nat) (s : State) (f : State → Held → State) (hf : ∀ s e, kept (f s e) = kept s) :
    kept (onKind kind d s f) = kept s := by
  unfold onKind
  split
  · rfl
  · rename_i h; rw [kept_drainTick, kept_dropHeld, hf, kept_takeKind _ _ _ h]

@[simp] theorem kept_arriveStep (s : State) (d : Nat) (h : Hdr) : kept (Sys2Proof.Machine.arriveStep s d h) = kept s := by
  first
  | rfl
  | (unfold Sys2Proof.Machine.arriveStep; first | (simp; done) | (repeat' split) <;> first | rfl | (simp_all; done) | grind [→ kept_homeCount, = kept_settle, = kept_applyRelease])

theorem kept_execArrive (d : Nat) (s : State) {tt : State} (h : Sys2Proof.Machine.execArrive d s = .next tt) : kept tt = kept s := by
  unfold Sys2Proof.Machine.execArrive at h
  cases h
  first
  | rfl
  | (simp; done)
  | first | ((first | refine kept_onKind _ _ _ _ (fun s e => ?_)) <;> (repeat' split) <;> first | rfl | (simp_all; done) | ((first | refine kept_onKind _ _ _ _ (fun s e => ?_)) <;> (repeat' split) <;> first | rfl | (simp_all; done) | grind [= kept_arriveStep]) | grind [= kept_arriveStep]) | ((repeat' split) <;> first | rfl | (simp_all; done) | ((first | refine kept_onKind _ _ _ _ (fun s e => ?_)) <;> (repeat' split) <;> first | rfl | (simp_all; done) | grind [= kept_arriveStep]) | grind [= kept_arriveStep])

@[simp] theorem kept_releaseStep (s : State) (h : Hdr) : kept (Sys2Proof.Machine.releaseStep s h) = kept s := by
  first
  | rfl
  | (unfold Sys2Proof.Machine.releaseStep; first | (simp; done) | (repeat' split) <;> first | rfl | (simp_all; done) | grind [= kept_settle, = kept_applyRelease])

theorem kept_execRelease (d : Nat) (s : State) {tt : State} (h : Sys2Proof.Machine.execRelease d s = .next tt) : kept tt = kept s := by
  unfold Sys2Proof.Machine.execRelease at h
  cases h
  first
  | rfl
  | (simp; done)
  | first | ((first | refine kept_onKind _ _ _ _ (fun s e => ?_)) <;> (repeat' split) <;> first | rfl | (simp_all; done) | ((first | refine kept_onKind _ _ _ _ (fun s e => ?_)) <;> (repeat' split) <;> first | rfl | (simp_all; done) | grind [= kept_releaseStep]) | grind [= kept_releaseStep]) | ((repeat' split) <;> first | rfl | (simp_all; done) | ((first | refine kept_onKind _ _ _ _ (fun s e => ?_)) <;> (repeat' split) <;> first | rfl | (simp_all; done) | grind [= kept_releaseStep]) | grind [= kept_releaseStep])

@[simp] theorem kept_arriveRepeat (k : Nat) (s : State) : kept (Sys2Proof.Machine.arriveRepeat k s) = kept s := by
  first
  | rfl
  | (unfold Sys2Proof.Machine.arriveRepeat; first | (simp; done) | (repeat' split) <;> first | rfl | (simp_all; done) | grind [= kept_sendArrive])

theorem kept_execArriveRepeat (k : Nat) (s : State) {tt : State} (h : Sys2Proof.Machine.execArriveRepeat k s = .next tt) : kept tt = kept s := by
  unfold Sys2Proof.Machine.execArriveRepeat at h
  cases h
  first
  | rfl
  | (simp; done)
  | (repeat' split) <;> first | rfl | (simp_all; done) | grind [= kept_arriveRepeat]

end Sys2Proof.Laws
end

