-- ==== Sys2Proof/Laws/KeptWork.lean ====
section
/-! SUPPORT. `kept` and accesses, jobs, engines, reduction contexts and transport: each operation leaves the variant, the queue, the anti-rollback counter and the identity data alone. -/

namespace Sys2Proof.Laws

open Sys2Proof.Machine

set_option linter.unusedTactic false
set_option linter.unreachableTactic false
set_option linter.unnecessarySeqFocus false

/-! Machine/Access -/

theorem kept_issueRead (s : State) (d req chip addr len : Nat) (what : ReqFor) {zz : Nat} {tt : State} (h : Sys2Proof.Machine.issueRead s d req chip addr len what = some (zz, tt)) : kept tt = kept s := by
  unfold Sys2Proof.Machine.issueRead at h
  revert h
  (repeat' split) <;> intro h <;> first | (cases h; done) | (cases h; rfl) | (cases h; simp_all; done) | grind [= kept_setDie, = kept_updDie, = kept_send, → kept_takeTag]

@[simp] theorem kept_issueWrites (s : State) (d req chip addr : Nat) (bs : List Byte) (kind : Nat) (tag : Option Nat) (owner : Owner) : kept (Sys2Proof.Machine.issueWrites s d req chip addr bs kind tag owner) = kept s := by
  first
  | rfl
  | (unfold Sys2Proof.Machine.issueWrites; first | (simp; done) | (repeat' split) <;> first | rfl | (simp_all; done) | grind [→ kept_takeTag, = kept_takeTag_snd, = kept_send])

@[simp] theorem kept_updDma (s : State) (d id : Nat) (f : DmaReq → DmaReq) : kept (Sys2Proof.Machine.updDma s d id f) = kept s := by
  first
  | rfl
  | (unfold Sys2Proof.Machine.updDma; first | (simp; done) | (repeat' split) <;> first | rfl | (simp_all; done) | grind [= kept_updDie])

theorem kept_takeId (s : State) (d : Nat) {zz : Nat} {tt : State} (h : Sys2Proof.Machine.takeId s d = (zz, tt)) : kept tt = kept s := by
  unfold Sys2Proof.Machine.takeId at h
  revert h
  (repeat' split) <;> intro h <;> first | (cases h; done) | (cases h; rfl) | (cases h; simp_all; done) | grind [= kept_setDie]
@[simp] theorem kept_takeId_snd (s : State) (d : Nat) : kept (Sys2Proof.Machine.takeId s d).2 = kept s := kept_takeId s d rfl

@[simp] theorem kept_poisonPut (s : State) (p : Place) (n : Nat) : kept (Sys2Proof.Machine.poisonPut s p n) = kept s := by
  first
  | rfl
  | (unfold Sys2Proof.Machine.poisonPut; first | (simp; done) | (repeat' split) <;> first | rfl | (simp_all; done) | grind [= kept_updDie])

@[simp] theorem kept_dmaLost (s : State) (d : Nat) (q : DmaReq) (off : Nat) : kept (Sys2Proof.Machine.dmaLost s d q off) = kept s := by
  first
  | rfl
  | (unfold Sys2Proof.Machine.dmaLost; first | (simp; done) | (repeat' split) <;> first | rfl | (simp_all; done) | grind [= kept_updDma])

@[simp] theorem kept_dmaPut (s : State) (d : Nat) (q : DmaReq) (off : Nat) (p : Place) (bs : List Byte) : kept (Sys2Proof.Machine.dmaPut s d q off p bs) = kept s := by
  first
  | rfl
  | (unfold Sys2Proof.Machine.dmaPut; first | (simp; done) | (repeat' split) <;> first | rfl | (simp_all; done) | grind [→ kept_draw, = kept_draw_snd, = kept_dmaLost, = kept_updDma, = kept_issueWrites, = kept_emit, = kept_placePut])

@[simp] theorem kept_dmaMove (s : State) (d : Nat) (q : DmaReq) (off : Nat) (src dst : Place) (n : Nat) : kept (dmaMove s d q off src dst n) = kept s := by
  unfold dmaMove
  refine kept_ite_of (kept_dmaLost _ _ _ _) (kept_foldl _ (fun s a => ?_) _ _)
  obtain ⟨a, m, bad⟩ := a
  dsimp only
  split
  · split <;> simp
  · simp

@[simp] theorem kept_dmaSettle (s : State) (d id off : Nat) : kept (Sys2Proof.Machine.dmaSettle s d id off) = kept s := by
  first
  | rfl
  | (unfold Sys2Proof.Machine.dmaSettle; first | (simp; done) | (repeat' split) <;> first | rfl | (simp_all; done) | grind [= kept_updDma, = kept_setPos])

theorem kept_dmaUnit (s : State) (d : Nat) (q : DmaReq) (ext : List Host.Cell) {t : State} (h : dmaUnit s d q ext = some t) : kept t = kept s := by
  unfold dmaUnit at h
  extract_lets off hi r at h
  obtain ⟨s1, h1, h2⟩ := Option.map_eq_some_iff.mp h
  rw [← h2, kept_dmaSettle]
  have := kept_foldlOpt _ (fun a => rfl) (fun s a t ht => ?_) _ _ _ h1
  · rw [this, kept_updDma]
  · obtain ⟨o, n, src, dst⟩ := a
    revert ht
    dsimp only
    split
    · split
      · intro h; cases h
      · rename_i h1; intro h; cases h; rw [kept_issueRead _ _ _ _ _ _ _ h1, kept_updDma]
    · split <;> (intro h; cases h; simp [draw])
    · intro h; cases h; simp

@[simp] theorem kept_dmaAdvance (d id : Nat) (ext : List Host.Cell) (n : Nat) (s : State) : kept (dmaAdvance d id ext n s) = kept s := by
  induction n generalizing s with
  | zero => rfl
  | succ n ih =>
    unfold dmaAdvance
    (repeat' split) <;> first | rfl | (simp_all; done) | grind [→ kept_dmaUnit]

@[simp] theorem kept_dmaStart (s : State) (d : Nat) (owner : DmaOwner) (src dst : List Seg) (len : Nat) : kept (Sys2Proof.Machine.dmaStart s d owner src dst len) = kept s := by
  first
  | rfl
  | (unfold Sys2Proof.Machine.dmaStart; first | (simp; done) | (repeat' split) <;> first | rfl | (simp_all; done) | grind [→ kept_takeId, = kept_takeId_snd, = kept_updDie, = kept_dmaAdvance])

@[simp] theorem kept_dmaDone (s : State) (d : Nat) (q : DmaReq) : kept (Sys2Proof.Machine.dmaDone s d q) = kept s := by
  first
  | rfl
  | (unfold Sys2Proof.Machine.dmaDone; first | (simp; done) | (repeat' split) <;> first | rfl | (simp_all; done) | grind [= kept_updDie, = kept_updCore, = kept_reportPoison, = kept_completeId])

@[simp] theorem kept_dmaComplete (d id : Nat) (ext : List Host.Cell) (s : State) : kept (Sys2Proof.Machine.dmaComplete d id ext s) = kept s := by
  first
  | rfl
  | (unfold Sys2Proof.Machine.dmaComplete; first | (simp; done) | (repeat' split) <;> first | rfl | (simp_all; done) | grind [= kept_dmaAdvance, = kept_dmaDone])

theorem kept_execDmaRequestComplete (d id : Nat) (ext : List Host.Cell) (s : State) {tt : State} (h : Sys2Proof.Machine.execDmaRequestComplete d id ext s = .next tt) : kept tt = kept s := by
  unfold Sys2Proof.Machine.execDmaRequestComplete at h
  cases h
  first
  | rfl
  | (simp; done)
  | (repeat' split) <;> first | rfl | (simp_all; done) | grind [= kept_dmaComplete]

theorem kept_execDma (d c : Nat) (s : State) {tt : State} (h : Sys2Proof.Machine.execDma d c s = .next tt) : kept tt = kept s := by
  unfold Sys2Proof.Machine.execDma at h
  cases h
  first
  | rfl
  | (simp; done)
  | first | ((first | refine kept_issue _ _ _ _ _ (fun k r w => ?_)) <;> (repeat' split) <;> first | rfl | (simp_all; done) | ((first | refine kept_issue _ _ _ _ _ (fun k r w => ?_)) <;> (repeat' split) <;> first | rfl | (simp_all; done) | grind [= kept_setCore, = kept_dmaStart]) | grind [= kept_setCore, = kept_dmaStart]) | ((repeat' split) <;> first | rfl | (simp_all; done) | ((first | refine kept_issue _ _ _ _ _ (fun k r w => ?_)) <;> (repeat' split) <;> first | rfl | (simp_all; done) | grind [= kept_setCore, = kept_dmaStart]) | grind [= kept_setCore, = kept_dmaStart])

theorem kept_execDmaw (d c : Nat) (s : State) {tt : State} (h : Sys2Proof.Machine.execDmaw d c s = .next tt) : kept tt = kept s := by
  unfold Sys2Proof.Machine.execDmaw at h
  cases h
  first
  | rfl
  | (simp; done)
  | first | ((first | refine kept_issue _ _ _ _ _ (fun k r w => ?_)) <;> (repeat' split) <;> first | rfl | (simp_all; done) | ((first | refine kept_issue _ _ _ _ _ (fun k r w => ?_)) <;> (repeat' split) <;> first | rfl | (simp_all; done) | grind [= kept_setCore]) | grind [= kept_setCore]) | ((repeat' split) <;> first | rfl | (simp_all; done) | ((first | refine kept_issue _ _ _ _ _ (fun k r w => ?_)) <;> (repeat' split) <;> first | rfl | (simp_all; done) | grind [= kept_setCore]) | grind [= kept_setCore])

theorem kept_execEng (d c : Nat) (s : State) {tt : State} (h : Sys2Proof.Machine.execEng d c s = .next tt) : kept tt = kept s := by
  unfold Sys2Proof.Machine.execEng at h
  cases h
  refine kept_issue _ _ _ _ _ (fun k r w => ?_)
  dsimp only
  split
  · simp
  · split
    · simp
    · split
      · simp
      · rename_i hr; simp [kept_seqRead _ _ _ _ _ _ hr]

/-! Machine/Jobs -/

@[simp] theorem kept_lsCompare (s : State) : kept (Sys2Proof.Machine.lsCompare s) = kept s := by
  first
  | rfl
  | (unfold Sys2Proof.Machine.lsCompare; first | (simp; done) | (repeat' split) <;> first | rfl | (simp_all; done) | grind [= kept_timeEvent])

@[simp] theorem kept_putLog (s : State) (source die core key tag : Nat) (digest : Word128) : kept (Sys2Proof.Machine.putLog s source die core key tag digest) = kept s := by
  first
  | rfl
  | (unfold Sys2Proof.Machine.putLog; first | (simp; done) | (repeat' split) <;> first | rfl | (simp_all; done) | grind [= kept_updDie, → kept_takeTag, = kept_takeTag_snd, = kept_send, = kept_lsCompare])

@[simp] theorem kept_orphan (s : State) : kept (Sys2Proof.Machine.orphan s) = kept s := by
  unfold Sys2Proof.Machine.orphan
  dsimp only
  split
  · split
    · rfl
    · rw [kept_timeEvent]; rfl
  · rfl

theorem kept_execLockstepOrphanTimeout (s : State) {tt : State} (h : Sys2Proof.Machine.execLockstepOrphanTimeout s = .next tt) : kept tt = kept s := by
  unfold Sys2Proof.Machine.execLockstepOrphanTimeout at h
  cases h
  first
  | rfl
  | (simp; done)
  | (repeat' split) <;> first | rfl | (simp_all; done) | grind [= kept_orphan]

@[simp] theorem kept_queueJob (s : State) (j : Job) : kept (Sys2Proof.Machine.queueJob s j) = kept s := by
  first
  | rfl
  | (unfold Sys2Proof.Machine.queueJob; first | (simp; done) | (repeat' split) <;> first | rfl | (simp_all; done) | grind [= kept_updCore])

@[simp] theorem kept_jobRecord (s : State) (j : Job) (st : Status) (pos : Nat) (w v : Word32) : kept (Sys2Proof.Machine.jobRecord s j st pos w v) = kept s := by
  first
  | rfl
  | (unfold Sys2Proof.Machine.jobRecord; first | (simp; done) | (repeat' split) <;> first | rfl | (simp_all; done) | grind [= kept_completeWith, = kept_postRec])

@[simp] theorem kept_wasteCycles (s : State) (d c n : Nat) : kept (Sys2Proof.Machine.wasteCycles s d c n) = kept s := by
  unfold Sys2Proof.Machine.wasteCycles
  split <;> simp

@[simp] theorem kept_dropJob (s : State) (d c : Nat) (j : Job) (st : Status) : kept (Sys2Proof.Machine.dropJob s d c j st) = kept s := by
  simp [Sys2Proof.Machine.dropJob]

@[simp] theorem kept_jobStart (d c : Nat) (s : State) : kept (Sys2Proof.Machine.jobStart d c s) = kept s := by
  first
  | rfl
  | (unfold Sys2Proof.Machine.jobStart; first | (simp; done) | (repeat' split) <;> first | rfl | (simp_all; done) | grind [= kept_setCore, = kept_dropJob, = kept_updDie, = kept_reportPoison])

theorem kept_execJobStart (d c : Nat) (s : State) {tt : State} (h : Sys2Proof.Machine.execJobStart d c s = .next tt) : kept tt = kept s := by
  unfold Sys2Proof.Machine.execJobStart at h
  cases h
  first
  | rfl
  | (simp; done)
  | (repeat' split) <;> first | rfl | (simp_all; done) | grind [= kept_jobStart]

@[simp] theorem kept_jobCommit (d c : Nat) (s : State) : kept (Sys2Proof.Machine.jobCommit d c s) = kept s := by
  first
  | rfl
  | (unfold Sys2Proof.Machine.jobCommit; first | (simp; done) | (repeat' split) <;> first | rfl | (simp_all; done) | grind [= kept_setCore, = kept_putLog, = kept_jobRecord])

theorem kept_execJobCommit (d c : Nat) (s : State) {tt : State} (h : Sys2Proof.Machine.execJobCommit d c s = .next tt) : kept tt = kept s := by
  unfold Sys2Proof.Machine.execJobCommit at h
  cases h
  first
  | rfl
  | (simp; done)
  | (repeat' split) <;> first | rfl | (simp_all; done) | grind [= kept_jobCommit]

@[simp] theorem kept_jobTimeout (d c : Nat) (s : State) : kept (Sys2Proof.Machine.jobTimeout d c s) = kept s := by
  first
  | rfl
  | (unfold Sys2Proof.Machine.jobTimeout; first | (simp; done) | (repeat' split) <;> first | rfl | (simp_all; done) | grind [= kept_stopJob])

theorem kept_execJobTimeout (d c : Nat) (s : State) {tt : State} (h : Sys2Proof.Machine.execJobTimeout d c s = .next tt) : kept tt = kept s := by
  unfold Sys2Proof.Machine.execJobTimeout at h
  cases h
  first
  | rfl
  | (simp; done)
  | (repeat' split) <;> first | rfl | (simp_all; done) | grind [= kept_jobTimeout]

/-! Machine/Engines -/

@[simp] theorem kept_acceptOn (s : State) (d : Nat) (q : EngReq) (fail : Option Status) : kept (Sys2Proof.Machine.acceptOn s d q fail) = kept s := by
  first
  | rfl
  | (unfold Sys2Proof.Machine.acceptOn; first | (simp; done) | (repeat' split) <;> first | rfl | (simp_all; done) | grind [→ kept_takeId, = kept_takeId_snd, = kept_updDie])

@[simp] theorem kept_forwardEng (s : State) (d chip : Nat) (q : EngReq) : kept (Sys2Proof.Machine.forwardEng s d chip q) = kept s := by
  first
  | rfl
  | (unfold Sys2Proof.Machine.forwardEng; first | (simp; done) | (repeat' split) <;> first | rfl | (simp_all; done) | grind [→ kept_takeTag, = kept_takeTag_snd, = kept_updDie, = kept_send])

@[simp] theorem kept_crossReq (s : State) (d t : Nat) (q : EngReq) : kept (crossReq s d t q) = kept s := by
  unfold crossReq
  extract_lets n id now
  cases h : now with
  | none => simp
  | some u =>
    simp only [now] at h
    split at h
    · cases h
    · obtain ⟨⟨_, _⟩, hr, hl⟩ := Option.bind_eq_some_iff.mp h
      rw [Option.getD_some, kept_launchReq _ _ _ _ _ _ hl, kept_acceptOn, kept_respRoom _ _ _ hr]

theorem kept_submit (s : State) (d : Nat) (q : EngReq) (free : Bool) {tt : State} (h : Sys2Proof.Machine.submit s d q free = some tt) : kept tt = kept s := by
  unfold Sys2Proof.Machine.submit at h
  revert h
  (repeat' split) <;> intro h <;> first | (cases h; done) | (cases h; rfl) | (cases h; simp_all; done) | grind [= kept_acceptOn, = kept_crossReq, = kept_forwardEng]

@[simp] theorem kept_engineAccept (d e : Nat) (s : State) : kept (engineAccept d e s) = kept s := by
  unfold engineAccept
  extract_lets mine
  split
  · rfl
  · split
    · rfl
    · split
      · rename_i h; rw [kept_submit _ _ _ _ h]; rfl
      · rfl

theorem kept_execEngineRequestAccept (d e : Nat) (s : State) {tt : State} (h : Sys2Proof.Machine.execEngineRequestAccept d e s = .next tt) : kept tt = kept s := by
  unfold Sys2Proof.Machine.execEngineRequestAccept at h
  cases h
  first
  | rfl
  | (simp; done)
  | (repeat' split) <;> first | rfl | (simp_all; done) | grind [= kept_engineAccept]

theorem kept_engPut (s : State) (d : Nat) (q : EngReq) (ins : List (Place × Nat)) (a : Nat) (bs : List Byte) {t : State}
    (h : engPut s d q ins a bs = .ok t) : kept t = kept s := by
  unfold engPut at h
  split at h
  · cases h
  · cases h
    refine kept_foldl _ (fun s g => ?_) _ _
    dsimp only [draw]
    split <;> simp

theorem kept_engPuts (s : State) (d : Nat) (q : EngReq) (ins : List (Place × Nat)) (l : List (Nat × List Byte)) :
    (∀ t, engPuts s d q ins l = .ok t → kept t = kept s) ∧ (∀ e t, engPuts s d q ins l = .error (e, t) → kept t = kept s) := by
  induction l generalizing s with
  | nil => constructor <;> intros <;> simp_all [engPuts]
  | cons p l ih =>
    obtain ⟨a, b⟩ := p
    unfold engPuts
    split
    · constructor <;> intros <;> simp_all
    · rename_i s1 h
      have h1 := kept_engPut _ _ _ _ _ _ h
      exact ⟨fun t ht => (ih s1).1 t ht |>.trans h1, fun e t ht => (ih s1).2 e t ht |>.trans h1⟩

theorem kept_engPuts_ok {s : State} {d : Nat} {q : EngReq} {ins : List (Place × Nat)} {l : List (Nat × List Byte)} {t : State}
    (h : engPuts s d q ins l = .ok t) : kept t = kept s := (kept_engPuts s d q ins l).1 t h

theorem kept_engPuts_error {s : State} {d : Nat} {q : EngReq} {ins : List (Place × Nat)} {l : List (Nat × List Byte)} {e : Status} {t : State}
    (h : engPuts s d q ins l = .error (e, t)) : kept t = kept s := (kept_engPuts s d q ins l).2 e t h

@[simp] theorem kept_touchAll (s : State) (ins : List (Place × Nat)) : kept (Sys2Proof.Machine.touchAll s ins) = kept s := by
  first
  | rfl
  | (unfold Sys2Proof.Machine.touchAll; first | (simp; done) | (repeat' split) <;> first | rfl | (simp_all; done) | grind [= kept_placeTouch])

@[simp] theorem kept_setDone (s : State) (d id : Nat) (w : DoneWord) : kept (Sys2Proof.Machine.setDone s d id w) = kept s := by
  first
  | rfl
  | (unfold Sys2Proof.Machine.setDone; first | (simp; done) | (repeat' split) <;> first | rfl | (simp_all; done) | grind [= kept_updReq])

@[simp] theorem kept_stopReq (s : State) (d id : Nat) (w : DoneWord) (at0 : Option (Nat × Nat)) : kept (Sys2Proof.Machine.stopReq s d id w at0) = kept s := by
  first
  | rfl
  | (unfold Sys2Proof.Machine.stopReq; first | (simp; done) | (repeat' split) <;> first | rfl | (simp_all; done) | grind [= kept_setDone, = kept_touchAll])

@[simp] theorem kept_engFetch (s : State) (d : Nat) (q : EngReq) (l : List (Nat × Nat × Nat × Nat)) : kept (engFetch s d q l) = kept s := by
  unfold engFetch
  split
  · rfl
  · refine kept_foldl _ (fun s a => kept_foldl _ (fun s i => ?_) _ _) _ _
    dsimp only
    split
    · rename_i h; rw [kept_updReq, kept_issueRead _ _ _ _ _ _ _ h]
    · rfl

theorem kept_engStep (d u : Nat) (s : State) (ok : Word512 → Bool) (f : EngReq → State) (hf : ∀ q, kept (f q) = kept s) :
    kept (engStep d u s ok f) = kept s := by
  unfold engStep
  (repeat' split) <;> first | rfl | exact hf _

theorem kept_poolBags (s0 : State) (d : Nat) (q : EngReq) (ext : List Host.Cell) (own : List (Place × Nat)) (offs : List Nat) (n b : Nat)
    (s : State) (k : Word32) {t : State} {w : DoneWord} (h : poolBags s0 d q ext own offs n b s k = .ok (t, w)) : kept t = kept s := by
  induction n generalizing b s k with
  | zero => simp only [poolBags, Except.ok.injEq, Prod.mk.injEq] at h; rw [h.1]
  | succ n ih =>
    simp only [poolBags] at h
    revert h
    (repeat' split) <;> intro h <;> first
      | (cases h; done)
      | (cases h; rfl)
      | (rename_i hp; cases h; rw [kept_engPuts_error hp, kept_touchAll])
      | (cases h; rw [kept_touchAll])
      | (rename_i hp; rw [ih _ _ _ h, kept_engPuts_ok hp, kept_touchAll])

@[simp] theorem kept_pool (d : Nat) (ext : List Host.Cell) (s : State) : kept (pool d ext s) = kept s := by
  unfold pool
  refine kept_engStep _ _ _ _ _ (fun q => ?_)
  dsimp only
  split
  · simp
  · simp
  · split
    · simp
    · split
      · simp
      · rename_i h; simp [kept_poolBags _ _ _ _ _ _ _ _ _ _ h]

theorem kept_execPool (d : Nat) (ext : List Host.Cell) (s : State) {tt : State} (h : Sys2Proof.Machine.execPool d ext s = .next tt) : kept tt = kept s := by
  unfold Sys2Proof.Machine.execPool at h
  cases h
  first
  | rfl
  | (simp; done)
  | (repeat' split) <;> first | rfl | (simp_all; done) | grind [= kept_pool]

@[simp] theorem kept_convert (d u : Nat) (ext : List Host.Cell) (s : State) : kept (convert d u ext s) = kept s := by
  unfold convert
  refine kept_engStep _ _ _ _ _ (fun q => ?_)
  dsimp only
  split
  · split <;> try simp
    split
    · rename_i h; simp [kept_engPuts_error h]
    · rename_i h; simp [kept_engPuts_ok h]
  · simp

theorem kept_execConvert (d u : Nat) (ext : List Host.Cell) (s : State) {tt : State} (h : Sys2Proof.Machine.execConvert d u ext s = .next tt) : kept tt = kept s := by
  unfold Sys2Proof.Machine.execConvert at h
  cases h
  first
  | rfl
  | (simp; done)
  | (repeat' split) <;> first | rfl | (simp_all; done) | grind [= kept_convert]

@[simp] theorem kept_digestStep (d : Nat) (ext : List Host.Cell) (s : State) (op : Nat) (n : Word512 → Nat) (f : Word512 → List Byte → Word128 × Nat) : kept (Sys2Proof.Machine.digestStep d ext s op n f) = kept s := by
  first
  | rfl
  | (unfold Sys2Proof.Machine.digestStep; first | (simp; done) | (repeat' split) <;> first | rfl | (simp_all; done) | grind [= kept_engStep, = kept_stopReq, = kept_engFetch, → kept_engPut, = kept_touchAll, = kept_setDone])

theorem kept_execHash (d : Nat) (ext : List Host.Cell) (s : State) {tt : State} (h : Sys2Proof.Machine.execHash d ext s = .next tt) : kept tt = kept s := by
  unfold Sys2Proof.Machine.execHash at h
  cases h
  first
  | rfl
  | (simp; done)
  | (repeat' split) <;> first | rfl | (simp_all; done) | grind [= kept_digestStep]

theorem kept_execSum (d : Nat) (ext : List Host.Cell) (s : State) {tt : State} (h : Sys2Proof.Machine.execSum d ext s = .next tt) : kept tt = kept s := by
  unfold Sys2Proof.Machine.execSum at h
  cases h
  first
  | rfl
  | (simp; done)
  | first | ((first | refine kept_foldl _ (fun s a => ?_) _ _) <;> (repeat' split) <;> first | rfl | (simp_all; done) | ((first | refine kept_foldl _ (fun s a => ?_) _ _) <;> (repeat' split) <;> first | rfl | (simp_all; done) | grind [= kept_digestStep]) | grind [= kept_digestStep]) | ((repeat' split) <;> first | rfl | (simp_all; done) | ((first | refine kept_foldl _ (fun s a => ?_) _ _) <;> (repeat' split) <;> first | rfl | (simp_all; done) | grind [= kept_digestStep]) | grind [= kept_digestStep])

@[simp] theorem kept_chainJob (s : State) (bs : List Byte) : kept (Sys2Proof.Machine.chainJob s bs) = kept s := by
  first
  | rfl
  | (unfold Sys2Proof.Machine.chainJob; first | (simp; done) | (repeat' split) <;> first | rfl | (simp_all; done) | grind [= kept_jobRecord, = kept_queueJob])

@[simp] theorem kept_chainEng (s : State) (d : Nat) (q : EngReq) (count : Nat) : kept (chainEng s d q count) = kept s :=
  kept_getD _ _ (fun _ h => kept_submit _ _ _ _ h)

@[simp] theorem kept_fireActions (s : State) (d : Nat) (q : EngReq) (w : DoneWord) : kept (fireActions s d q w) = kept s := by
  unfold fireActions
  extract_lets r own word s1 s2 s3 s4 s5
  have h1 : kept s1 = kept s := by simp only [s1]; split <;> simp
  have h2 : kept s2 = kept s := by simp only [s2]; split <;> simp [h1]
  have h3 : kept s3 = kept s := by simp only [s3]; split <;> simp [h2]
  have h4 : kept s4 = kept s := by simp only [s4]; split <;> simp [h3]
  have h5 : kept s5 = kept s := by simp only [s5]; (repeat' split) <;> simp [h4]
  (repeat' split) <;> simp [h5]

@[simp] theorem kept_commitReq (s : State) (d : Nat) (q : EngReq) (w : DoneWord) : kept (commitReq s d q w) = kept s := by
  unfold commitReq
  extract_lets w1 s1 s2
  have h2 : kept s2 = kept s := by simp only [s2, s1]; split <;> simp
  rw [kept_fireActions, h2]

@[simp] theorem kept_engineCommit (d u : Nat) (s : State) : kept (Sys2Proof.Machine.engineCommit d u s) = kept s := by
  first
  | rfl
  | (unfold Sys2Proof.Machine.engineCommit; first | (simp; done) | (repeat' split) <;> first | rfl | (simp_all; done) | grind [= kept_commitReq])

theorem kept_execEngineRequestCommit (d u : Nat) (s : State) {tt : State} (h : Sys2Proof.Machine.execEngineRequestCommit d u s = .next tt) : kept tt = kept s := by
  unfold Sys2Proof.Machine.execEngineRequestCommit at h
  cases h
  first
  | rfl
  | (simp; done)
  | (repeat' split) <;> first | rfl | (simp_all; done) | grind [= kept_engineCommit]

@[simp] theorem kept_topkOpen (d : Nat) (s : State) : kept (Sys2Proof.Machine.topkOpen d s) = kept s := by
  first
  | rfl
  | (unfold Sys2Proof.Machine.topkOpen; first | (simp; done) | (repeat' split) <;> first | rfl | (simp_all; done) | grind [= kept_engStep, = kept_setDone, → kept_draw, = kept_draw_snd, → kept_engPut, = kept_updDie])

theorem kept_execTopkOpen (d : Nat) (s : State) {tt : State} (h : Sys2Proof.Machine.execTopkOpen d s = .next tt) : kept tt = kept s := by
  unfold Sys2Proof.Machine.execTopkOpen at h
  cases h
  first
  | rfl
  | (simp; done)
  | (repeat' split) <;> first | rfl | (simp_all; done) | grind [= kept_topkOpen]

@[simp] theorem kept_topkFinish (s : State) (d key : Nat) (t : TopkSet) (st : Status) : kept (Sys2Proof.Machine.topkFinish s d key t st) = kept s := by
  first
  | rfl
  | (unfold Sys2Proof.Machine.topkFinish; first | (simp; done) | (repeat' split) <;> first | rfl | (simp_all; done) | grind [→ kept_takeId, = kept_takeId_snd, = kept_updDie, → kept_engPut, = kept_setDone])

@[simp] theorem kept_topkAdd (d : Nat) (ext : List Host.Cell) (s : State) : kept (Sys2Proof.Machine.topkAdd d ext s) = kept s := by
  first
  | rfl
  | (unfold Sys2Proof.Machine.topkAdd; first | (simp; done) | (repeat' split) <;> first | rfl | (simp_all; done) | grind [= kept_engStep, = kept_setDone, = kept_stopReq, = kept_engFetch, = kept_touchAll, = kept_topkFinish, = kept_updDie, = kept_commitReq])

theorem kept_execTopkAdd (d : Nat) (ext : List Host.Cell) (s : State) {tt : State} (h : Sys2Proof.Machine.execTopkAdd d ext s = .next tt) : kept tt = kept s := by
  unfold Sys2Proof.Machine.execTopkAdd at h
  cases h
  first
  | rfl
  | (simp; done)
  | (repeat' split) <;> first | rfl | (simp_all; done) | grind [= kept_topkAdd]

@[simp] theorem kept_topkClose (d : Nat) (s : State) : kept (Sys2Proof.Machine.topkClose d s) = kept s := by
  first
  | rfl
  | (unfold Sys2Proof.Machine.topkClose; first | (simp; done) | (repeat' split) <;> first | rfl | (simp_all; done) | grind [= kept_engStep, = kept_setDone, = kept_commitReq, = kept_topkFinish])

theorem kept_execTopkClose (d : Nat) (s : State) {tt : State} (h : Sys2Proof.Machine.execTopkClose d s = .next tt) : kept tt = kept s := by
  unfold Sys2Proof.Machine.execTopkClose at h
  cases h
  first
  | rfl
  | (simp; done)
  | (repeat' split) <;> first | rfl | (simp_all; done) | grind [= kept_topkClose]

@[simp] theorem kept_chainedJobWait (d : Nat) (s : State) : kept (chainedJobWait d s) = kept s := by
  unfold chainedJobWait
  extract_lets off
  split
  · rfl
  · split
    · simp
    · split
      · split <;> simp
      · rfl

theorem kept_execChainedJobWaitTimeout (d : Nat) (s : State) {tt : State} (h : Sys2Proof.Machine.execChainedJobWaitTimeout d s = .next tt) : kept tt = kept s := by
  unfold Sys2Proof.Machine.execChainedJobWaitTimeout at h
  cases h
  first
  | rfl
  | (simp; done)
  | (repeat' split) <;> first | rfl | (simp_all; done) | grind [= kept_chainedJobWait]

/-! Machine/Collect -/

@[simp] theorem kept_ctxMap (s : State) (id gen : Nat) (f : Ctx → Ctx) : kept (Sys2Proof.Machine.ctxMap s id gen f) = kept s := by
  first
  | rfl
  | (unfold Sys2Proof.Machine.ctxMap; first | (simp; done) | (repeat' split) <;> first | rfl | (simp_all; done) | grind)

@[simp] theorem kept_orStatus (s : State) (id gen : Nat) (w : Word32) : kept (Sys2Proof.Machine.orStatus s id gen w) = kept s := by
  first
  | rfl
  | (unfold Sys2Proof.Machine.orStatus; first | (simp; done) | (repeat' split) <;> first | rfl | (simp_all; done) | grind [= kept_ctxMap])

theorem kept_admitCtx (s : State) (c : Ctx) {tt : State} (h : Sys2Proof.Machine.admitCtx s c = some tt) : kept tt = kept s := by
  unfold Sys2Proof.Machine.admitCtx at h
  revert h
  (repeat' split) <;> intro h <;> first | (cases h; done) | (cases h; rfl) | (cases h; simp_all; done) | grind [= kept_completeId, = kept_ctxMap]

@[simp] theorem kept_treeCopies (s : State) (d : Nat) (c : Ctx) (e : Held) (buf : Nat) (frm : Option Nat) : kept (Sys2Proof.Machine.treeCopies s d c e buf frm) = kept s := by
  first
  | rfl
  | (unfold Sys2Proof.Machine.treeCopies; first | (simp; done) | (repeat' split) <;> first | rfl | (simp_all; done) | grind [= kept_copies, = kept_bump])

@[simp] theorem kept_memberCopies (s : State) (d : Nat) (c : Ctx) (e : Held) (buf : Nat) : kept (Sys2Proof.Machine.memberCopies s d c e buf) = kept s := by
  first
  | rfl
  | (unfold Sys2Proof.Machine.memberCopies; first | (simp; done) | (repeat' split) <;> first | rfl | (simp_all; done) | grind [= kept_copies, = kept_sendUns, → kept_takeId, = kept_takeId_snd, = kept_updDie])

@[simp] theorem kept_downSend (s : State) (d : Nat) (c : Ctx) (p : Packet) (buf : Nat) : kept (Sys2Proof.Machine.downSend s d c p buf) = kept s := by
  first
  | rfl
  | (unfold Sys2Proof.Machine.downSend; first | (simp; done) | (repeat' split) <;> first | rfl | (simp_all; done) | grind [= kept_treeCopies, → kept_takeId, = kept_takeId_snd, = kept_updDie])

theorem kept_pipeBuf (s : State) (d len : Nat) {zz : Nat} {tt : State} (h : Sys2Proof.Machine.pipeBuf s d len = some (zz, tt)) : kept tt = kept s := by
  unfold Sys2Proof.Machine.pipeBuf at h
  revert h
  (repeat' split) <;> intro h <;> first | (cases h; done) | (cases h; rfl) | (cases h; simp_all; done) | grind [= kept_setDie]

@[simp] theorem kept_downTry (s : State) (d : Nat) (r : CollRec) : kept (Sys2Proof.Machine.downTry s d r) = kept s := by
  first
  | rfl
  | (unfold Sys2Proof.Machine.downTry; first | (simp; done) | (repeat' split) <;> first | rfl | (simp_all; done) | grind [= kept_updDie, → kept_pipeBuf, = kept_memberCopies, = kept_downSend, = kept_decBuf])

@[simp] theorem kept_collPump (s : State) : kept (Sys2Proof.Machine.collPump s) = kept s := by
  first
  | rfl
  | (unfold Sys2Proof.Machine.collPump; first | (simp; done) | (repeat' split) <;> first | rfl | (simp_all; done) | grind [= kept_downTry])

@[simp] theorem kept_downPost (s : State) (d : Nat) (c : Ctx) (kind ch : Nat) (last : Bool) (rank cchk : Nat) (bs : List Byte) : kept (Sys2Proof.Machine.downPost s d c kind ch last rank cchk bs) = kept s := by
  first
  | rfl
  | (unfold Sys2Proof.Machine.downPost; first | (simp; done) | (repeat' split) <;> first | rfl | (simp_all; done) | grind [→ kept_takeId, = kept_takeId_snd, = kept_collPump, = kept_updDie])

@[simp] theorem kept_localTouch (s : State) (c : Ctx) (ch : Nat) : kept (Sys2Proof.Machine.localTouch s c ch) = kept s := by
  first
  | rfl
  | (unfold Sys2Proof.Machine.localTouch; first | (simp; done) | (repeat' split) <;> first | rfl | (simp_all; done) | grind [= kept_touchAll])

theorem kept_upSend (s : State) (d : Nat) (c : Ctx) (kind ch piece : Nat) (last : Bool) (cchk : Nat) (bs : List Byte) {tt : State}
    (h : upSend s d c kind ch piece last cchk bs = some tt) : kept tt = kept s := by
  unfold upSend at h
  split at h
  · cases h
  · split at h
    · dsimp only at h
      rw [← Option.some.inj h, kept_decideWith _ kept_consumeAt, kept_updDie, kept_takeId_snd, kept_setDie]
    · cases h

theorem kept_upData (s : State) (d : Nat) (c : Ctx) (ch : Nat) {t : State} (h : upData s d c ch = some t) : kept t = kept s := by
  unfold upData at h
  dsimp only at h
  (repeat' split at h) <;> first
    | (cases h; done)
    | (refine kept_foldlOpt _ (fun a => rfl) (fun s a t ht => ?_) _ _ _ h
       obtain ⟨p, i⟩ := a
       exact kept_upSend _ _ _ _ _ _ _ _ _ ht)

theorem kept_upPrick (s : State) (d : Nat) (c : Ctx) (ch : Nat) {t : State} (h : upPrick s d c ch = some t) : kept t = kept s := by
  unfold upPrick at h
  obtain ⟨bs, _, hs⟩ := Option.bind_eq_some_iff.mp h
  exact kept_upSend _ _ _ _ _ _ _ _ _ hs

@[simp] theorem kept_localGo (d id gen n : Nat) (s : State) : kept (localGo d id gen n s) = kept s := by
  induction n generalizing s with
  | zero => rfl
  | succ n ih =>
    unfold localGo
    dsimp only
    split
    · rfl
    · split
      · refine kept_ite_of (kept_ctxMap _ _ _ _) ?_
        split
        · rename_i hu; rw [ih, kept_upPrick _ _ _ _ hu, kept_ctxMap, kept_localTouch]
        · simp
      · split
        · rfl
        · refine kept_ite_of (kept_ctxMap _ _ _ _) ?_
          split
          · rename_i hu; rw [ih, kept_upData _ _ _ _ hu, kept_ctxMap, kept_localTouch]
          · simp

@[simp] theorem kept_localPump (s : State) (c : Ctx) : kept (Sys2Proof.Machine.localPump s c) = kept s := by
  first
  | rfl
  | (unfold Sys2Proof.Machine.localPump; first | (simp; done) | (repeat' split) <;> first | rfl | (simp_all; done) | grind [= kept_localGo])

@[simp] theorem kept_localPumpAll (s : State) : kept (Sys2Proof.Machine.localPumpAll s) = kept s := by
  first
  | rfl
  | (unfold Sys2Proof.Machine.localPumpAll; first | (simp; done) | (repeat' split) <;> first | rfl | (simp_all; done) | grind [= kept_localPump])

@[simp] theorem kept_ctxTell (s : State) (c : Ctx) : kept (Sys2Proof.Machine.ctxTell s c) = kept s := by
  first
  | rfl
  | (unfold Sys2Proof.Machine.ctxTell; first | (simp; done) | (repeat' split) <;> first | rfl | (simp_all; done) | grind [= kept_progressEntry, = kept_ctxMap])

@[simp] theorem kept_ctxPump (s : State) : kept (Sys2Proof.Machine.ctxPump s) = kept s := by
  first
  | rfl
  | (unfold Sys2Proof.Machine.ctxPump; first | (simp; done) | (repeat' split) <;> first | rfl | (simp_all; done) | grind [= kept_collPump, = kept_localPumpAll, = kept_ctxTell])

@[simp] theorem kept_localStart (d : Nat) (s : State) : kept (Sys2Proof.Machine.localStart d s) = kept s := by
  first
  | rfl
  | (unfold Sys2Proof.Machine.localStart; first | (simp; done) | (repeat' split) <;> first | rfl | (simp_all; done) | grind [= kept_ctxPump, = kept_ctxMap, = kept_setKnot])

theorem kept_execLocalContributionStart (d : Nat) (s : State) {tt : State} (h : Sys2Proof.Machine.execLocalContributionStart d s = .next tt) : kept tt = kept s := by
  unfold Sys2Proof.Machine.execLocalContributionStart at h
  cases h
  first
  | rfl
  | (simp; done)
  | (repeat' split) <;> first | rfl | (simp_all; done) | grind [= kept_localStart]

@[simp] theorem kept_deliverAll (s : State) (d : Nat) (c : Ctx) (ch : Nat) (ws : List (Bool × Nat × List Byte)) (buf : Nat) : kept (Sys2Proof.Machine.deliverAll s d c ch ws buf) = kept s := by
  first
  | rfl
  | (unfold Sys2Proof.Machine.deliverAll; first | (simp; done) | (repeat' split) <;> first | rfl | (simp_all; done) | grind [→ kept_takeTag, = kept_takeTag_snd, = kept_updDie, = kept_ctxMap])

@[simp] theorem kept_deliverLocal (s : State) (c : Ctx) (ws : List (Bool × Nat × List Byte)) : kept (deliverLocal s c ws) = kept s := by
  unfold deliverLocal
  refine kept_foldl _ (fun s a => ?_) _ _
  obtain ⟨f, a, bs⟩ := a
  dsimp only
  refine kept_ite_of (kept_ctxMap _ _ _ _) ?_
  split
  · exact kept_foldl _ (fun s g => kept_placePut _ _ _) _ _
  · rfl

@[simp] theorem kept_gotResult (s : State) (d : Nat) (c : Ctx) (h : Hdr) (bs : List Byte) (buf : Nat) : kept (Sys2Proof.Machine.gotResult s d c h bs buf) = kept s := by
  first
  | rfl
  | (unfold Sys2Proof.Machine.gotResult; first | (simp; done) | (repeat' split) <;> first | rfl | (simp_all; done) | grind [= kept_orStatus, = kept_deliverAll, = kept_ctxMap, = kept_deliverLocal])

@[simp] theorem kept_deliverSettled (s : State) (key ch : Nat) (ok : Bool) : kept (Sys2Proof.Machine.deliverSettled s key ch ok) = kept s := by
  first
  | rfl
  | (unfold Sys2Proof.Machine.deliverSettled; first | (simp; done) | (repeat' split) <;> first | rfl | (simp_all; done) | grind [= kept_ctxMap])

@[simp] theorem kept_localWindow (s : State) (c : Ctx) (ch : Nat) : kept (Sys2Proof.Machine.localWindow s c ch) = kept s := by
  first
  | rfl
  | (unfold Sys2Proof.Machine.localWindow; first | (simp; done) | (repeat' split) <;> first | rfl | (simp_all; done) | grind [= kept_ctxMap])

@[simp] theorem kept_localAgain (s : State) (c : Ctx) (ch rank : Nat) (reprick : Bool) : kept (Sys2Proof.Machine.localAgain s c ch rank reprick) = kept s := by
  first
  | rfl
  | (unfold Sys2Proof.Machine.localAgain; first | (simp; done) | (repeat' split) <;> first | rfl | (simp_all; done) | grind [= kept_ctxMap])

theorem kept_downStep (s : State) (d : Nat) (e : Held) (act : State → Ctx → Held → Nat → State)
    (ha : ∀ s c e b, kept (act s c e b) = kept s) : kept (downStep s d e act) = kept s := by
  unfold downStep
  extract_lets h s0
  split
  · split
    · simp [s0]
    · extract_lets s1
      have h1 : kept s1 = kept s := by simp only [s1]; split <;> simp [s0]
      simp [ha, h1]
  · simp [s0]

theorem kept_execResult (d : Nat) (s : State) {tt : State} (h : Sys2Proof.Machine.execResult d s = .next tt) : kept tt = kept s := by
  unfold Sys2Proof.Machine.execResult at h
  cases h
  first
  | rfl
  | (simp; done)
  | first | ((first | refine kept_onKind _ _ _ _ (fun s e => ?_) | refine kept_downStep _ _ _ _ (fun s c e b => ?_)) <;> (repeat' split) <;> first | rfl | (simp_all; done) | ((first | refine kept_onKind _ _ _ _ (fun s e => ?_) | refine kept_downStep _ _ _ _ (fun s c e b => ?_)) <;> (repeat' split) <;> first | rfl | (simp_all; done) | grind [= kept_gotResult]) | grind [= kept_gotResult]) | ((repeat' split) <;> first | rfl | (simp_all; done) | ((first | refine kept_onKind _ _ _ _ (fun s e => ?_) | refine kept_downStep _ _ _ _ (fun s c e b => ?_)) <;> (repeat' split) <;> first | rfl | (simp_all; done) | grind [= kept_gotResult]) | grind [= kept_gotResult])

theorem kept_execWindow (d : Nat) (s : State) {tt : State} (h : Sys2Proof.Machine.execWindow d s = .next tt) : kept tt = kept s := by
  unfold Sys2Proof.Machine.execWindow at h
  cases h
  first
  | rfl
  | (simp; done)
  | first | ((first | refine kept_onKind _ _ _ _ (fun s e => ?_) | refine kept_downStep _ _ _ _ (fun s c e b => ?_)) <;> (repeat' split) <;> first | rfl | (simp_all; done) | ((first | refine kept_onKind _ _ _ _ (fun s e => ?_) | refine kept_downStep _ _ _ _ (fun s c e b => ?_)) <;> (repeat' split) <;> first | rfl | (simp_all; done) | grind [= kept_memberCopies, = kept_localWindow]) | grind [= kept_memberCopies, = kept_localWindow]) | ((repeat' split) <;> first | rfl | (simp_all; done) | ((first | refine kept_onKind _ _ _ _ (fun s e => ?_) | refine kept_downStep _ _ _ _ (fun s c e b => ?_)) <;> (repeat' split) <;> first | rfl | (simp_all; done) | grind [= kept_memberCopies, = kept_localWindow]) | grind [= kept_memberCopies, = kept_localWindow])

theorem kept_execRecontrib (d : Nat) (s : State) {tt : State} (h : Sys2Proof.Machine.execRecontrib d s = .next tt) : kept tt = kept s := by
  unfold Sys2Proof.Machine.execRecontrib at h
  cases h
  first
  | rfl
  | (simp; done)
  | first | ((first | refine kept_onKind _ _ _ _ (fun s e => ?_) | refine kept_downStep _ _ _ _ (fun s c e b => ?_)) <;> (repeat' split) <;> first | rfl | (simp_all; done) | ((first | refine kept_onKind _ _ _ _ (fun s e => ?_) | refine kept_downStep _ _ _ _ (fun s c e b => ?_)) <;> (repeat' split) <;> first | rfl | (simp_all; done) | grind [= kept_memberCopies, = kept_localAgain]) | grind [= kept_memberCopies, = kept_localAgain]) | ((repeat' split) <;> first | rfl | (simp_all; done) | ((first | refine kept_onKind _ _ _ _ (fun s e => ?_) | refine kept_downStep _ _ _ _ (fun s c e b => ?_)) <;> (repeat' split) <;> first | rfl | (simp_all; done) | grind [= kept_memberCopies, = kept_localAgain]) | grind [= kept_memberCopies, = kept_localAgain])

theorem kept_execDeliver (d : Nat) (s : State) {tt : State} (h : Sys2Proof.Machine.execDeliver d s = .next tt) : kept tt = kept s := by
  unfold execDeliver at h
  cases h
  rw [kept_onKind _ _ _ _ (fun _ _ => rfl)]
  split <;> simp

@[simp] theorem kept_collAcked (s : State) (d : Nat) (h : Hdr) (who : Nat) : kept (Sys2Proof.Machine.collAcked s d h who) = kept s := by
  first
  | rfl
  | (unfold Sys2Proof.Machine.collAcked; first | (simp; done) | (repeat' split) <;> first | rfl | (simp_all; done) | grind [= kept_setDie, = kept_decOpt])

@[simp] theorem kept_collAckStep (s : State) (d : Nat) (h : Hdr) : kept (Sys2Proof.Machine.collAckStep s d h) = kept s := by
  first
  | rfl
  | (unfold Sys2Proof.Machine.collAckStep; first | (simp; done) | (repeat' split) <;> first | rfl | (simp_all; done) | grind [= kept_collAcked, = kept_ctxPump])

theorem kept_execCollAck (d : Nat) (s : State) {tt : State} (h : Sys2Proof.Machine.execCollAck d s = .next tt) : kept tt = kept s := by
  unfold Sys2Proof.Machine.execCollAck at h
  cases h
  first
  | rfl
  | (simp; done)
  | first | ((first | refine kept_onKind _ _ _ _ (fun s e => ?_)) <;> (repeat' split) <;> first | rfl | (simp_all; done) | ((first | refine kept_onKind _ _ _ _ (fun s e => ?_)) <;> (repeat' split) <;> first | rfl | (simp_all; done) | grind [= kept_collAckStep]) | grind [= kept_collAckStep]) | ((repeat' split) <;> first | rfl | (simp_all; done) | ((first | refine kept_onKind _ _ _ _ (fun s e => ?_)) <;> (repeat' split) <;> first | rfl | (simp_all; done) | grind [= kept_collAckStep]) | grind [= kept_collAckStep])

@[simp] theorem kept_ackUp (s : State) (d : Nat) (h : Hdr) : kept (Sys2Proof.Machine.ackUp s d h) = kept s := by
  first
  | rfl
  | (unfold Sys2Proof.Machine.ackUp; first | (simp; done) | (repeat' split) <;> first | rfl | (simp_all; done) | grind [= kept_collAcked, = kept_sendCollAck])

@[simp] theorem kept_slotPut (s : State) (c : Ctx) (t : Slot) : kept (Sys2Proof.Machine.slotPut s c t) = kept s := by
  first
  | rfl
  | (unfold Sys2Proof.Machine.slotPut; first | (simp; done) | (repeat' split) <;> first | rfl | (simp_all; done) | grind [= kept_ctxMap])

@[simp] theorem kept_slotUe (s : State) (d : Nat) (c : Ctx) (t : Slot) : kept (Sys2Proof.Machine.slotUe s d c t) = kept s := by
  first
  | rfl
  | (unfold Sys2Proof.Machine.slotUe; first | (simp; done) | (repeat' split) <;> first | rfl | (simp_all; done) | grind [= kept_updDie])

@[simp] theorem kept_slotPoisoned (s : State) (d : Nat) (c : Ctx) (t : Slot) (win : Bool) : kept (Sys2Proof.Machine.slotPoisoned s d c t win) = kept s := by
  first
  | rfl
  | (unfold Sys2Proof.Machine.slotPoisoned; first | (simp; done) | (repeat' split) <;> first | rfl | (simp_all; done) | grind [= kept_orStatus, = kept_slotPut, = kept_reportFault, = kept_slotUe, = kept_localAgain, = kept_downPost])

theorem kept_stageBuf (s : State) (d h : Nat) {tt : State} (h : Sys2Proof.Machine.stageBuf s d h = some tt) : kept tt = kept s := by
  unfold Sys2Proof.Machine.stageBuf at h
  revert h
  (repeat' split) <;> intro h <;> first | (cases h; done) | (cases h; rfl) | (cases h; simp_all; done) | grind [= kept_setDie, = kept_returnCredit]

@[simp] theorem kept_unstage (s : State) (d : Nat) (ps : List Piece) : kept (Sys2Proof.Machine.unstage s d ps) = kept s := by
  first
  | rfl
  | (unfold Sys2Proof.Machine.unstage; first | (simp; done) | (repeat' split) <;> first | rfl | (simp_all; done) | grind [= kept_decOpt])

@[simp] theorem kept_contribute (s : State) (d : Nat) (c : Ctx) (t : Slot) (rank : Nat) (ps : List Piece) (poison : Nat) : kept (Sys2Proof.Machine.contribute s d c t rank ps poison) = kept s := by
  first
  | rfl
  | (unfold Sys2Proof.Machine.contribute; first | (simp; done) | (repeat' split) <;> first | rfl | (simp_all; done) | grind [= kept_unstage, = kept_slotPut, = kept_reportFault, = kept_bump, = kept_localAgain, = kept_downPost, = kept_slotPoisoned, = kept_orStatus, = kept_arrived])

@[simp] theorem kept_dataStep (s : State) (d : Nat) (e : Held) (poison : Nat) : kept (dataStep s d e poison) = kept s := by
  unfold dataStep
  extract_lets h ch p
  split
  · simp
  · rename_i c _
    refine kept_ite_of (by simp) (kept_ite_of (by simp) (kept_ite_of (by simp) ?_))
    cases slotFor c d ch with
    | none => simp
    | some t =>
      refine kept_ite_of (by simp) ?_
      extract_lets mine all whole sl
      have hs : kept sl = kept s := by simp only [sl]; exact kept_ite_of rfl (by simp)
      refine kept_ite_of (by simp [hs]) ?_
      split
      · rfl
      · split
        · rfl
        · rename_i hb; simp [kept_stageBuf _ _ _ hb, hs]

theorem kept_execData (d poison : Nat) (s : State) {tt : State} (h : Sys2Proof.Machine.execData d poison s = .next tt) : kept tt = kept s := by
  unfold Sys2Proof.Machine.execData at h
  cases h
  first
  | rfl
  | (simp; done)
  | first | ((first | refine kept_onKind _ _ _ _ (fun s e => ?_)) <;> (repeat' split) <;> first | rfl | (simp_all; done) | ((first | refine kept_onKind _ _ _ _ (fun s e => ?_)) <;> (repeat' split) <;> first | rfl | (simp_all; done) | grind [= kept_collPump, = kept_localPumpAll, = kept_dataStep]) | grind [= kept_collPump, = kept_localPumpAll, = kept_dataStep]) | ((repeat' split) <;> first | rfl | (simp_all; done) | ((first | refine kept_onKind _ _ _ _ (fun s e => ?_)) <;> (repeat' split) <;> first | rfl | (simp_all; done) | grind [= kept_collPump, = kept_localPumpAll, = kept_dataStep]) | grind [= kept_collPump, = kept_localPumpAll, = kept_dataStep])

@[simp] theorem kept_prickStep (s : State) (d : Nat) (e : Held) (poison : Nat) : kept (prickStep s d e poison) = kept s := by
  unfold prickStep
  extract_lets h ch
  split
  · simp
  · rename_i c _
    refine kept_ite_of (by simp) (kept_ite_of (by simp) ?_)
    cases slotFor c d ch with
    | none => simp
    | some t =>
      dsimp only
      have h0 : kept (if (slotFind c ch).isSome = true then s else ctxMap s c.id c.gen fun c => { c with slots := c.slots ++ [t] }) = kept s :=
        kept_ite_of rfl (by simp)
      generalize (if (slotFind c ch).isSome = true then s else ctxMap s c.id c.gen fun c => { c with slots := c.slots ++ [t] }) = s0 at h0 ⊢
      (repeat' split) <;> simp [h0]

theorem kept_execPrick (d poison : Nat) (s : State) {tt : State} (h : Sys2Proof.Machine.execPrick d poison s = .next tt) : kept tt = kept s := by
  unfold Sys2Proof.Machine.execPrick at h
  cases h
  first
  | rfl
  | (simp; done)
  | first | ((first | refine kept_onKind _ _ _ _ (fun s e => ?_)) <;> (repeat' split) <;> first | rfl | (simp_all; done) | ((first | refine kept_onKind _ _ _ _ (fun s e => ?_)) <;> (repeat' split) <;> first | rfl | (simp_all; done) | grind [= kept_collPump, = kept_localPumpAll, = kept_prickStep]) | grind [= kept_collPump, = kept_localPumpAll, = kept_prickStep]) | ((repeat' split) <;> first | rfl | (simp_all; done) | ((first | refine kept_onKind _ _ _ _ (fun s e => ?_)) <;> (repeat' split) <;> first | rfl | (simp_all; done) | grind [= kept_collPump, = kept_localPumpAll, = kept_prickStep]) | grind [= kept_collPump, = kept_localPumpAll, = kept_prickStep])

theorem kept_pipeBufs (d : Nat) (l : List Nat) (s : State) {bs : List Nat} {t : State} (h : pipeBufs d l s = some (bs, t)) :
    kept t = kept s := by
  induction l generalizing s bs with
  | nil => simp only [pipeBufs, Option.some.injEq, Prod.mk.injEq] at h; rw [h.2]
  | cons n l ih =>
    unfold pipeBufs at h
    split at h
    · cases h
    · rename_i hb
      obtain ⟨p, hp, he⟩ := Option.map_eq_some_iff.mp h
      cases he
      rw [ih _ hp, kept_pipeBuf _ _ _ hb]

@[simp] theorem kept_chunkConvert (d poison : Nat) (s : State) : kept (chunkConvert d poison s) = kept s := by
  unfold chunkConvert
  extract_lets x
  refine kept_ite_of rfl ?_
  split
  · rfl
  · refine kept_ite_of (by simp) ?_
    dsimp only
    split
    · rfl
    · rename_i hb
      refine (kept_foldl _ (fun s a => ?_) _ _).trans ?_
      · obtain ⟨⟨p, b⟩, i⟩ := a
        dsimp only
        split <;> simp
      · simp [kept_pipeBufs _ _ _ hb]

theorem kept_execChunkResultConvert (d poison : Nat) (s : State) {tt : State} (h : Sys2Proof.Machine.execChunkResultConvert d poison s = .next tt) : kept tt = kept s := by
  unfold Sys2Proof.Machine.execChunkResultConvert at h
  cases h
  first
  | rfl
  | (simp; done)
  | (repeat' split) <;> first | rfl | (simp_all; done) | grind [= kept_collPump, = kept_localPumpAll, = kept_chunkConvert]

@[simp] theorem kept_ctxEnd (s : State) (c : Ctx) (st : Status) : kept (Sys2Proof.Machine.ctxEnd s c st) = kept s := by
  first
  | rfl
  | (unfold Sys2Proof.Machine.ctxEnd; first | (simp; done) | (repeat' split) <;> first | rfl | (simp_all; done) | grind [= kept_unstage, = kept_dropItems, = kept_putLog, = kept_postRec])

@[simp] theorem kept_contextCommit (s : State) : kept (Sys2Proof.Machine.contextCommit s) = kept s := by
  first
  | rfl
  | (unfold Sys2Proof.Machine.contextCommit; first | (simp; done) | (repeat' split) <;> first | rfl | (simp_all; done) | grind [= kept_ctxEnd])

theorem kept_execContextCommit (s : State) {tt : State} (h : Sys2Proof.Machine.execContextCommit s = .next tt) : kept tt = kept s := by
  unfold Sys2Proof.Machine.execContextCommit at h
  cases h
  first
  | rfl
  | (simp; done)
  | (repeat' split) <;> first | rfl | (simp_all; done) | grind [= kept_contextCommit]

@[simp] theorem kept_limitExpiry (id gen : Nat) (s : State) : kept (Sys2Proof.Machine.limitExpiry id gen s) = kept s := by
  first
  | rfl
  | (unfold Sys2Proof.Machine.limitExpiry; first | (simp; done) | (repeat' split) <;> first | rfl | (simp_all; done) | grind [= kept_ctxEnd])

theorem kept_execContextLimitExpiry (id gen : Nat) (s : State) {tt : State} (h : Sys2Proof.Machine.execContextLimitExpiry id gen s = .next tt) : kept tt = kept s := by
  unfold Sys2Proof.Machine.execContextLimitExpiry at h
  cases h
  first
  | rfl
  | (simp; done)
  | (repeat' split) <;> first | rfl | (simp_all; done) | grind [= kept_limitExpiry]

@[simp] theorem kept_ctxStop (s : State) (c : Ctx) (st : Status) : kept (Sys2Proof.Machine.ctxStop s c st) = kept s := by
  first
  | rfl
  | (unfold Sys2Proof.Machine.ctxStop; first | (simp; done) | (repeat' split) <;> first | rfl | (simp_all; done) | grind [= kept_ctxEnd, = kept_completeId])

@[simp] theorem kept_homeLost (s : State) (d : Nat) : kept (Sys2Proof.Machine.homeLost s d) = kept s := by
  first
  | rfl
  | (unfold Sys2Proof.Machine.homeLost; first | (simp; done) | (repeat' split) <;> first | rfl | (simp_all; done) | grind [= kept_ctxStop])

@[simp] theorem kept_closeContext (s : State) (o : Op) (id gen : Nat) : kept (Sys2Proof.Machine.closeContext s o id gen) = kept s := by
  first
  | rfl
  | (unfold Sys2Proof.Machine.closeContext; first | (simp; done) | (repeat' split) <;> first | rfl | (simp_all; done) | grind [= kept_complete, = kept_ctxStop])

@[simp] theorem kept_admissionTry (s : State) : kept (admissionTry s) = kept s := by
  unfold admissionTry
  split
  · exact kept_ite_of (kept_getD _ _ (fun _ h => kept_admitCtx _ _ h)) (by simp)
  · rfl

theorem kept_execContextAdmissionTry (s : State) {tt : State} (h : Sys2Proof.Machine.execContextAdmissionTry s = .next tt) : kept tt = kept s := by
  unfold Sys2Proof.Machine.execContextAdmissionTry at h
  cases h
  first
  | rfl
  | (simp; done)
  | (repeat' split) <;> first | rfl | (simp_all; done) | grind [= kept_admissionTry]

@[simp] theorem kept_admissionTimeout (id : Nat) (s : State) : kept (Sys2Proof.Machine.admissionTimeout id s) = kept s := by
  first
  | rfl
  | (unfold Sys2Proof.Machine.admissionTimeout; first | (simp; done) | (repeat' split) <;> first | rfl | (simp_all; done) | grind [= kept_admissionTry, = kept_completeId])

theorem kept_execAdmissionTimeout (id : Nat) (s : State) {tt : State} (h : Sys2Proof.Machine.execAdmissionTimeout id s = .next tt) : kept tt = kept s := by
  unfold Sys2Proof.Machine.execAdmissionTimeout at h
  cases h
  first
  | rfl
  | (simp; done)
  | (repeat' split) <;> first | rfl | (simp_all; done) | grind [= kept_admissionTimeout]

@[simp] theorem kept_openContext (s : State) (o : Op) (id : Nat) (blk : BitVec 1024) (tbl : List Byte) : kept (Sys2Proof.Machine.openContext s o id blk tbl) = kept s := by
  first
  | rfl
  | (unfold Sys2Proof.Machine.openContext; first | (simp; done) | (repeat' split) <;> first | rfl | (simp_all; done) | grind [= kept_complete, = kept_admissionTry])

/-! Machine/Transport -/

@[simp] theorem kept_finLost (s : State) (d key : Nat) : kept (Sys2Proof.Machine.finLost s d key) = kept s := by
  first
  | rfl
  | (unfold Sys2Proof.Machine.finLost; first | (simp; done) | (repeat' split) <;> first | rfl | (simp_all; done) | grind [= kept_reportFault, = kept_bump, = kept_updDie])

@[simp] theorem kept_finCount (s : State) (d : Nat) (e : Held) : kept (Sys2Proof.Machine.finCount s d e) = kept s := by
  first
  | rfl
  | (unfold Sys2Proof.Machine.finCount; first | (simp; done) | (repeat' split) <;> first | rfl | (simp_all; done) | grind [= kept_finLost, = kept_updDie, = kept_signalFrom])

@[simp] theorem kept_finWait (d src tag : Nat) (s : State) : kept (Sys2Proof.Machine.finWait d src tag s) = kept s := by
  first
  | rfl
  | (unfold Sys2Proof.Machine.finWait; first | (simp; done) | (repeat' split) <;> first | rfl | (simp_all; done) | grind [= kept_finLost, = kept_sendResend, = kept_updDie])

theorem kept_execFinWaitExpiry (d src tag : Nat) (s : State) {tt : State} (h : Sys2Proof.Machine.execFinWaitExpiry d src tag s = .next tt) : kept tt = kept s := by
  unfold Sys2Proof.Machine.execFinWaitExpiry at h
  cases h
  first
  | rfl
  | (simp; done)
  | (repeat' split) <;> first | rfl | (simp_all; done) | grind [= kept_finWait]

@[simp] theorem kept_writeStep (s : State) (d : Nat) (e : Held) : kept (Sys2Proof.Machine.writeStep s d e) = kept s := by
  first
  | rfl
  | (unfold Sys2Proof.Machine.writeStep; first | (simp; done) | (repeat' split) <;> first | rfl | (simp_all; done) | grind [= kept_emit, = kept_placePut, = kept_finCount])

theorem kept_execWrite (d : Nat) (s : State) {tt : State} (h : Sys2Proof.Machine.execWrite d s = .next tt) : kept tt = kept s := by
  unfold Sys2Proof.Machine.execWrite at h
  cases h
  first
  | rfl
  | (simp; done)
  | first | ((first | refine kept_onKind _ _ _ _ (fun s e => ?_)) <;> (repeat' split) <;> first | rfl | (simp_all; done) | ((first | refine kept_onKind _ _ _ _ (fun s e => ?_)) <;> (repeat' split) <;> first | rfl | (simp_all; done) | grind [= kept_writeStep]) | grind [= kept_writeStep]) | ((repeat' split) <;> first | rfl | (simp_all; done) | ((first | refine kept_onKind _ _ _ _ (fun s e => ?_)) <;> (repeat' split) <;> first | rfl | (simp_all; done) | grind [= kept_writeStep]) | grind [= kept_writeStep])

theorem kept_reqStep (s : State) (d : Nat) (e : Held) (bad : Bool) (f : State → State) (hf : ∀ s, kept (f s) = kept s) :
    kept (reqStep s d e bad f) = kept s := by
  unfold reqStep
  (repeat' split) <;> first | rfl | (simp_all; done) | grind [= kept_respond, = kept_finCount, = kept_bump]

@[simp] theorem kept_readStep (s : State) (d : Nat) (e : Held) : kept (Sys2Proof.Machine.readStep s d e) = kept s := by
  first
  | rfl
  | (unfold Sys2Proof.Machine.readStep; first | (simp; done) | (repeat' split) <;> first | rfl | (simp_all; done) | grind [= kept_reqStep, = kept_respond, → kept_draw, = kept_draw_snd, → kept_placeRead, = kept_placeSeen])

theorem kept_execRead (d : Nat) (s : State) {tt : State} (h : Sys2Proof.Machine.execRead d s = .next tt) : kept tt = kept s := by
  unfold Sys2Proof.Machine.execRead at h
  cases h
  first
  | rfl
  | (simp; done)
  | first | ((first | refine kept_onKind _ _ _ _ (fun s e => ?_)) <;> (repeat' split) <;> first | rfl | (simp_all; done) | ((first | refine kept_onKind _ _ _ _ (fun s e => ?_)) <;> (repeat' split) <;> first | rfl | (simp_all; done) | grind [= kept_readStep]) | grind [= kept_readStep]) | ((repeat' split) <;> first | rfl | (simp_all; done) | ((first | refine kept_onKind _ _ _ _ (fun s e => ?_)) <;> (repeat' split) <;> first | rfl | (simp_all; done) | grind [= kept_readStep]) | grind [= kept_readStep])

@[simp] theorem kept_atomicStep (s : State) (d : Nat) (e : Held) : kept (Sys2Proof.Machine.atomicStep s d e) = kept s := by
  first
  | rfl
  | (unfold Sys2Proof.Machine.atomicStep; first | (simp; done) | (repeat' split) <;> first | rfl | (simp_all; done) | grind [= kept_reqStep, = kept_respond, → kept_draw, = kept_draw_snd, = kept_emit, → kept_placeAtomic, = kept_atomicSeen])

theorem kept_execAtomic (d : Nat) (s : State) {tt : State} (h : Sys2Proof.Machine.execAtomic d s = .next tt) : kept tt = kept s := by
  unfold Sys2Proof.Machine.execAtomic at h
  cases h
  first
  | rfl
  | (simp; done)
  | first | ((first | refine kept_onKind _ _ _ _ (fun s e => ?_)) <;> (repeat' split) <;> first | rfl | (simp_all; done) | ((first | refine kept_onKind _ _ _ _ (fun s e => ?_)) <;> (repeat' split) <;> first | rfl | (simp_all; done) | grind [= kept_atomicStep]) | grind [= kept_atomicStep]) | ((repeat' split) <;> first | rfl | (simp_all; done) | ((first | refine kept_onKind _ _ _ _ (fun s e => ?_)) <;> (repeat' split) <;> first | rfl | (simp_all; done) | grind [= kept_atomicStep]) | grind [= kept_atomicStep])

@[simp] theorem kept_engineStep (d : Nat) (s : State) : kept (engineStep d s) = kept s := by
  unfold engineStep
  split
  · rfl
  · rename_i h
    have h1 := kept_takeKind _ _ _ h
    extract_lets hd b
    split
    · rw [kept_drainTick, kept_dropHeld, kept_reqStep _ _ _ _ _ (fun _ => rfl), h1]
    · split
      · rename_i h2; rw [kept_drainTick, kept_dropHeld, kept_submit _ _ _ _ h2, kept_finCount, h1]
      · rfl

theorem kept_execEngine (d : Nat) (s : State) {tt : State} (h : Sys2Proof.Machine.execEngine d s = .next tt) : kept tt = kept s := by
  unfold Sys2Proof.Machine.execEngine at h
  cases h
  first
  | rfl
  | (simp; done)
  | (repeat' split) <;> first | rfl | (simp_all; done) | grind [= kept_engineStep]

@[simp] theorem kept_freeReq (s : State) (d : Nat) (r : ReqOut) : kept (Sys2Proof.Machine.freeReq s d r) = kept s := by
  first
  | rfl
  | (unfold Sys2Proof.Machine.freeReq; first | (simp; done) | (repeat' split) <;> first | rfl | (simp_all; done) | grind [= kept_decBuf, = kept_decOpt])

@[simp] theorem kept_requestAcked (s : State) (d chip tag : Nat) : kept (requestAcked s d chip tag) = kept s := by
  unfold requestAcked
  extract_lets x
  split
  · rfl
  · simp

theorem kept_takeReq_p (s : State) (d chip tag : Nat) (kinds : List Nat) {zz : ReqOut} {tt : State} (h : Sys2Proof.Machine.takeReq' s d chip tag kinds = some (zz, tt)) : kept tt = kept s := by
  unfold Sys2Proof.Machine.takeReq' at h
  revert h
  (repeat' split) <;> intro h <;> first | (cases h; done) | (cases h; rfl) | (cases h; simp_all; done) | grind [= kept_updDie, = kept_decOpt, = kept_requestAcked]

@[simp] theorem kept_dmaArrived (s : State) (d id off len : Nat) (st : Status) (bs : List Byte) :
    kept (dmaArrived s d id off len st bs) = kept s := by
  unfold dmaArrived
  extract_lets u s1
  split
  · simp [s1]
  · extract_lets s2
    have h2 : kept s2 = kept s := by simp only [s2]; split <;> simp [s1]
    simp [h2]

@[simp] theorem kept_companionAnswer (s : State) (st : Status) (bs : List Byte) (n : Nat) : kept (Sys2Proof.Machine.companionAnswer s st bs n) = kept s := by
  first
  | rfl
  | (unfold Sys2Proof.Machine.companionAnswer; first | (simp; done) | (repeat' split) <;> first | rfl | (simp_all; done) | grind [= kept_emit])

@[simp] theorem kept_answered (s : State) (d : Nat) (r : ReqOut) (st : Status) (bs : List Byte) : kept (Sys2Proof.Machine.answered s d r st bs) = kept s := by
  first
  | rfl
  | (unfold Sys2Proof.Machine.answered; first | (simp; done) | (repeat' split) <;> first | rfl | (simp_all; done) | grind [= kept_dmaArrived, = kept_updReq, = kept_companionAnswer, = kept_completeWith, = kept_complete])

@[simp] theorem kept_strayReply (s : State) (h : Hdr) (r : ReqOut) (bs : List Byte) : kept (Sys2Proof.Machine.strayReply s h r bs) = kept s := by
  first
  | rfl
  | (unfold Sys2Proof.Machine.strayReply; first | (simp; done) | (repeat' split) <;> first | rfl | (simp_all; done) | grind [= kept_placePut])

@[simp] theorem kept_responseStep (s : State) (d : Nat) (e : Held) (kinds : List Nat) : kept (Sys2Proof.Machine.responseStep s d e kinds) = kept s := by
  first
  | rfl
  | (unfold Sys2Proof.Machine.responseStep; first | (simp; done) | (repeat' split) <;> first | rfl | (simp_all; done) | grind [= kept_finCount, → kept_takeReq_p, = kept_bump, = kept_pump, = kept_answered, = kept_strayReply])

theorem kept_execReadData (d : Nat) (s : State) {tt : State} (h : Sys2Proof.Machine.execReadData d s = .next tt) : kept tt = kept s := by
  unfold Sys2Proof.Machine.execReadData at h
  cases h
  first
  | rfl
  | (simp; done)
  | first | ((first | refine kept_onKind _ _ _ _ (fun s e => ?_)) <;> (repeat' split) <;> first | rfl | (simp_all; done) | ((first | refine kept_onKind _ _ _ _ (fun s e => ?_)) <;> (repeat' split) <;> first | rfl | (simp_all; done) | grind [= kept_responseStep]) | grind [= kept_responseStep]) | ((repeat' split) <;> first | rfl | (simp_all; done) | ((first | refine kept_onKind _ _ _ _ (fun s e => ?_)) <;> (repeat' split) <;> first | rfl | (simp_all; done) | grind [= kept_responseStep]) | grind [= kept_responseStep])

theorem kept_execAtomicData (d : Nat) (s : State) {tt : State} (h : Sys2Proof.Machine.execAtomicData d s = .next tt) : kept tt = kept s := by
  unfold Sys2Proof.Machine.execAtomicData at h
  cases h
  first
  | rfl
  | (simp; done)
  | first | ((first | refine kept_onKind _ _ _ _ (fun s e => ?_)) <;> (repeat' split) <;> first | rfl | (simp_all; done) | ((first | refine kept_onKind _ _ _ _ (fun s e => ?_)) <;> (repeat' split) <;> first | rfl | (simp_all; done) | grind [= kept_responseStep]) | grind [= kept_responseStep]) | ((repeat' split) <;> first | rfl | (simp_all; done) | ((first | refine kept_onKind _ _ _ _ (fun s e => ?_)) <;> (repeat' split) <;> first | rfl | (simp_all; done) | grind [= kept_responseStep]) | grind [= kept_responseStep])

theorem kept_execEngDone (d : Nat) (s : State) {tt : State} (h : Sys2Proof.Machine.execEngDone d s = .next tt) : kept tt = kept s := by
  unfold Sys2Proof.Machine.execEngDone at h
  cases h
  first
  | rfl
  | (simp; done)
  | first | ((first | refine kept_onKind _ _ _ _ (fun s e => ?_)) <;> (repeat' split) <;> first | rfl | (simp_all; done) | ((first | refine kept_onKind _ _ _ _ (fun s e => ?_)) <;> (repeat' split) <;> first | rfl | (simp_all; done) | grind [= kept_responseStep]) | grind [= kept_responseStep]) | ((repeat' split) <;> first | rfl | (simp_all; done) | ((first | refine kept_onKind _ _ _ _ (fun s e => ?_)) <;> (repeat' split) <;> first | rfl | (simp_all; done) | grind [= kept_responseStep]) | grind [= kept_responseStep])

@[simp] theorem kept_replyWriteStep (s : State) (d : Nat) (e : Held) : kept (Sys2Proof.Machine.replyWriteStep s d e) = kept s := by
  first
  | rfl
  | (unfold Sys2Proof.Machine.replyWriteStep; first | (simp; done) | (repeat' split) <;> first | rfl | (simp_all; done) | grind [= kept_finCount, = kept_emit, = kept_placePut, = kept_bump])

theorem kept_execReplyWrite (d : Nat) (s : State) {tt : State} (h : Sys2Proof.Machine.execReplyWrite d s = .next tt) : kept tt = kept s := by
  unfold Sys2Proof.Machine.execReplyWrite at h
  cases h
  first
  | rfl
  | (simp; done)
  | first | ((first | refine kept_onKind _ _ _ _ (fun s e => ?_)) <;> (repeat' split) <;> first | rfl | (simp_all; done) | ((first | refine kept_onKind _ _ _ _ (fun s e => ?_)) <;> (repeat' split) <;> first | rfl | (simp_all; done) | grind [= kept_replyWriteStep]) | grind [= kept_replyWriteStep]) | ((repeat' split) <;> first | rfl | (simp_all; done) | ((first | refine kept_onKind _ _ _ _ (fun s e => ?_)) <;> (repeat' split) <;> first | rfl | (simp_all; done) | grind [= kept_replyWriteStep]) | grind [= kept_replyWriteStep])

@[simp] theorem kept_mgmtStep (s : State) (d : Nat) (e : Held) : kept (Sys2Proof.Machine.mgmtStep s d e) = kept s := by
  first
  | rfl
  | (unfold Sys2Proof.Machine.mgmtStep; first | (simp; done) | (repeat' split) <;> first | rfl | (simp_all; done) | grind [= kept_finCount, = kept_lsCompare])

theorem kept_execMgmtMsg (d : Nat) (s : State) {tt : State} (h : Sys2Proof.Machine.execMgmtMsg d s = .next tt) : kept tt = kept s := by
  unfold Sys2Proof.Machine.execMgmtMsg at h
  cases h
  first
  | rfl
  | (simp; done)
  | first | ((first | refine kept_onKind _ _ _ _ (fun s e => ?_)) <;> (repeat' split) <;> first | rfl | (simp_all; done) | ((first | refine kept_onKind _ _ _ _ (fun s e => ?_)) <;> (repeat' split) <;> first | rfl | (simp_all; done) | grind [= kept_mgmtStep]) | grind [= kept_mgmtStep]) | ((repeat' split) <;> first | rfl | (simp_all; done) | ((first | refine kept_onKind _ _ _ _ (fun s e => ?_)) <;> (repeat' split) <;> first | rfl | (simp_all; done) | grind [= kept_mgmtStep]) | grind [= kept_mgmtStep])

@[simp] theorem kept_opSettled (s : State) (id : Nat) (st : Status) : kept (Sys2Proof.Machine.opSettled s id st) = kept s := by
  first
  | rfl
  | (unfold Sys2Proof.Machine.opSettled; first | (simp; done) | (repeat' split) <;> first | rfl | (simp_all; done) | grind [= kept_updOp, = kept_complete])

@[simp] theorem kept_ownerDone (s : State) (d : Nat) (r : Replay) (st : Status) : kept (Sys2Proof.Machine.ownerDone s d r st) = kept s := by
  first
  | rfl
  | (unfold Sys2Proof.Machine.ownerDone; first | (simp; done) | (repeat' split) <;> first | rfl | (simp_all; done) | grind [= kept_updDma, = kept_dmaAdvance, = kept_dmaSettle, = kept_updReq, = kept_deliverSettled, = kept_opSettled, = kept_answered, = kept_freeReq, = kept_updDie])

@[simp] theorem kept_ackStep (s : State) (d : Nat) (h : Hdr) : kept (Sys2Proof.Machine.ackStep s d h) = kept s := by
  first
  | rfl
  | (unfold Sys2Proof.Machine.ackStep; first | (simp; done) | (repeat' split) <;> first | rfl | (simp_all; done) | grind [= kept_pump, = kept_ownerDone, = kept_decOpt, = kept_setDie])

theorem kept_execAck (d : Nat) (s : State) {tt : State} (h : Sys2Proof.Machine.execAck d s = .next tt) : kept tt = kept s := by
  unfold Sys2Proof.Machine.execAck at h
  cases h
  first
  | rfl
  | (simp; done)
  | first | ((first | refine kept_onKind _ _ _ _ (fun s e => ?_)) <;> (repeat' split) <;> first | rfl | (simp_all; done) | ((first | refine kept_onKind _ _ _ _ (fun s e => ?_)) <;> (repeat' split) <;> first | rfl | (simp_all; done) | grind [= kept_ackStep]) | grind [= kept_ackStep]) | ((repeat' split) <;> first | rfl | (simp_all; done) | ((first | refine kept_onKind _ _ _ _ (fun s e => ?_)) <;> (repeat' split) <;> first | rfl | (simp_all; done) | grind [= kept_ackStep]) | grind [= kept_ackStep])

@[simp] theorem kept_ackOwed (s : State) (d agent chip : Nat) : kept (ackOwed s d agent chip) = kept s := by
  unfold ackOwed
  extract_lets x t me
  split
  · rfl
  · extract_lets a rest s1
    split
    · simp [s1]
    · split
      · simp [s1]
      · rename_i h
        rw [kept_decideWith _ kept_consumeAt, kept_inject _ _ _ _ _ h]
        simp [s1]
  · rfl

theorem kept_execAckDelayExpiry (d agent chip : Nat) (s : State) {tt : State} (h : Sys2Proof.Machine.execAckDelayExpiry d agent chip s = .next tt) : kept tt = kept s := by
  unfold Sys2Proof.Machine.execAckDelayExpiry at h
  cases h
  first
  | rfl
  | (simp; done)
  | (repeat' split) <;> first | rfl | (simp_all; done) | grind [= kept_ackOwed]

theorem kept_execResend (d : Nat) (s : State) {tt : State} (h : Sys2Proof.Machine.execResend d s = .next tt) : kept tt = kept s := by
  unfold Sys2Proof.Machine.execResend at h
  cases h
  first
  | rfl
  | (simp; done)
  | first | ((first | refine kept_onKind _ _ _ _ (fun s e => ?_)) <;> (repeat' split) <;> first | rfl | (simp_all; done) | ((first | refine kept_onKind _ _ _ _ (fun s e => ?_)) <;> (repeat' split) <;> first | rfl | (simp_all; done) | grind [= kept_resendStep]) | grind [= kept_resendStep]) | ((repeat' split) <;> first | rfl | (simp_all; done) | ((first | refine kept_onKind _ _ _ _ (fun s e => ?_)) <;> (repeat' split) <;> first | rfl | (simp_all; done) | grind [= kept_resendStep]) | grind [= kept_resendStep])

@[simp] theorem kept_rtoRecord (s : State) (d agent chip seq : Nat) : kept (Sys2Proof.Machine.rtoRecord s d agent chip seq) = kept s := by
  first
  | rfl
  | (unfold Sys2Proof.Machine.rtoRecord; first | (simp; done) | (repeat' split) <;> first | rfl | (simp_all; done) | grind [= kept_decOpt, = kept_updRecs, = kept_pump, = kept_ownerDone, = kept_reportFault, = kept_resend])

@[simp] theorem kept_collResend (s : State) (d : Nat) (r : CollRec) : kept (collResend s d r) = kept s := by
  unfold collResend
  extract_lets p
  split
  · rfl
  · refine kept_foldl _ (fun s w => ?_) _ _
    dsimp only
    split
    · simp
    · rw [kept_decideWith _ kept_consumeAt, kept_updDie]

@[simp] theorem kept_rtoColl (s : State) (d id : Nat) : kept (Sys2Proof.Machine.rtoColl s d id) = kept s := by
  first
  | rfl
  | (unfold Sys2Proof.Machine.rtoColl; first | (simp; done) | (repeat' split) <;> first | rfl | (simp_all; done) | grind [= kept_decOpt, = kept_updDie, = kept_reportFault, = kept_ctxEnd, = kept_collResend])

@[simp] theorem kept_rtoPart (s : State) (d l seq : Nat) : kept (Sys2Proof.Machine.rtoPart s d l seq) = kept s := by
  first
  | rfl
  | (unfold Sys2Proof.Machine.rtoPart; first | (simp; done) | (repeat' split) <;> first | rfl | (simp_all; done) | grind [= kept_reportFault, = kept_setPort, = kept_frameTx])

@[simp] theorem kept_rtoExpiry (d agent chip seq : Nat) (s : State) : kept (Sys2Proof.Machine.rtoExpiry d agent chip seq s) = kept s := by
  first
  | rfl
  | (unfold Sys2Proof.Machine.rtoExpiry; first | (simp; done) | (repeat' split) <;> first | rfl | (simp_all; done) | grind [= kept_rtoColl, = kept_rtoPart, = kept_rtoRecord])

theorem kept_execRtoExpiry (d agent chip seq : Nat) (s : State) {tt : State} (h : Sys2Proof.Machine.execRtoExpiry d agent chip seq s = .next tt) : kept tt = kept s := by
  unfold Sys2Proof.Machine.execRtoExpiry at h
  cases h
  first
  | rfl
  | (simp; done)
  | (repeat' split) <;> first | rfl | (simp_all; done) | grind [= kept_rtoExpiry]

@[simp] theorem kept_unsent (s : State) (d : Nat) (i : TxItem) : kept (Sys2Proof.Machine.unsent s d i) = kept s := by
  first
  | rfl
  | (unfold Sys2Proof.Machine.unsent; first | (simp; done) | (repeat' split) <;> first | rfl | (simp_all; done) | grind [= kept_decOpt, = kept_updDie, = kept_bump, = kept_ownerDone])

@[simp] theorem kept_dropUnsent (s : State) (d : Nat) : kept (Sys2Proof.Machine.dropUnsent s d) = kept s := by
  first
  | rfl
  | (unfold Sys2Proof.Machine.dropUnsent; first | (simp; done) | (repeat' split) <;> first | rfl | (simp_all; done) | grind [= kept_unsent])

@[simp] theorem kept_pumpAll (s : State) : kept (Sys2Proof.Machine.pumpAll s) = kept s := by
  first
  | rfl
  | (unfold Sys2Proof.Machine.pumpAll; first | (simp; done) | (repeat' split) <;> first | rfl | (simp_all; done) | grind [= kept_ctxPump, = kept_pump, = kept_dropUnsent])

theorem kept_execSequenceHoldoffExpiry (s : State) {tt : State} (h : Sys2Proof.Machine.execSequenceHoldoffExpiry s = .next tt) : kept tt = kept s := by
  unfold Sys2Proof.Machine.execSequenceHoldoffExpiry at h
  cases h
  first
  | rfl
  | (simp; done)
  | first | ((first | refine kept_foldUpto _ _ (fun s a => ?_) _) <;> (repeat' split) <;> first | rfl | (simp_all; done) | ((first | refine kept_foldUpto _ _ (fun s a => ?_) _) <;> (repeat' split) <;> first | rfl | (simp_all; done) | grind [= kept_updDie, = kept_pumpAll]) | grind [= kept_updDie, = kept_pumpAll]) | ((repeat' split) <;> first | rfl | (simp_all; done) | ((first | refine kept_foldUpto _ _ (fun s a => ?_) _) <;> (repeat' split) <;> first | rfl | (simp_all; done) | grind [= kept_updDie, = kept_pumpAll]) | grind [= kept_updDie, = kept_pumpAll])

@[simp] theorem kept_writeLocked (s : State) (d off : Nat) (v : Word32) : kept (Sys2Proof.Machine.writeLocked s d off v) = kept s := by
  first
  | rfl
  | (unfold Sys2Proof.Machine.writeLocked; first | (simp; done) | (repeat' split) <;> first | rfl | (simp_all; done) | grind [= kept_postEvent, = kept_updDie])

@[simp] theorem kept_fabSelfWrite (d : Nat) (v : Word32) (s : State) : kept (Sys2Proof.Machine.fabSelfWrite d v s) = kept s := by
  first
  | rfl
  | (unfold Sys2Proof.Machine.fabSelfWrite; first | (simp; done) | (repeat' split) <;> first | rfl | (simp_all; done) | grind [= kept_pumpAll, = kept_writeLocked])

theorem kept_execFabSelfWrite (d : Nat) (v : Word32) (s : State) {tt : State} (h : Sys2Proof.Machine.execFabSelfWrite d v s = .next tt) : kept tt = kept s := by
  unfold Sys2Proof.Machine.execFabSelfWrite at h
  cases h
  first
  | rfl
  | (simp; done)
  | (repeat' split) <;> first | rfl | (simp_all; done) | grind [= kept_fabSelfWrite]

end Sys2Proof.Laws
end

