-- ==== Sys2Proof/Laws/KeptUnits.lean ====
section
/-! SUPPORT. `kept` and ports and lanes, faults of dies, repair, the drain, the hoop, gates, counters and time: each operation leaves the variant, the queue, the anti-rollback counter and the identity data alone. -/

namespace Sys2Proof.Laws

open Sys2Proof.Machine

set_option linter.unusedTactic false
set_option linter.unreachableTactic false
set_option linter.unnecessarySeqFocus false

/-! Machine/Ports -/

@[simp] theorem kept_updLane (s : State) (d i : Nat) (f : Lane → Lane) : kept (Sys2Proof.Machine.updLane s d i f) = kept s := by
  first
  | rfl
  | (unfold Sys2Proof.Machine.updLane; first | (simp; done) | (repeat' split) <;> first | rfl | (simp_all; done) | grind [= kept_updDie])

@[simp] theorem kept_updCage (s : State) (d o : Nat) (f : Cage → Cage) : kept (Sys2Proof.Machine.updCage s d o f) = kept s := by
  first
  | rfl
  | (unfold Sys2Proof.Machine.updCage; first | (simp; done) | (repeat' split) <;> first | rfl | (simp_all; done) | grind [= kept_updDie])

@[simp] theorem kept_cageEvent (s : State) (d o : Nat) : kept (Sys2Proof.Machine.cageEvent s d o) = kept s := by
  first
  | rfl
  | (unfold Sys2Proof.Machine.cageEvent; first | (simp; done) | (repeat' split) <;> first | rfl | (simp_all; done) | grind [= kept_postEvent])

@[simp] theorem kept_portStEvent (s : State) (d l : Nat) : kept (Sys2Proof.Machine.portStEvent s d l) = kept s := by
  first
  | rfl
  | (unfold Sys2Proof.Machine.portStEvent; first | (simp; done) | (repeat' split) <;> first | rfl | (simp_all; done) | grind [= kept_postEvent])

@[simp] theorem kept_setCageFaults (s : State) (d o : Nat) (fs : NSet) : kept (Sys2Proof.Machine.setCageFaults s d o fs) = kept s := by
  first
  | rfl
  | (unfold Sys2Proof.Machine.setCageFaults; first | (simp; done) | (repeat' split) <;> first | rfl | (simp_all; done) | grind [= kept_updCage, = kept_cageEvent])

@[simp] theorem kept_addCageFault (s : State) (d o f : Nat) : kept (Sys2Proof.Machine.addCageFault s d o f) = kept s := by
  first
  | rfl
  | (unfold Sys2Proof.Machine.addCageFault; first | (simp; done) | (repeat' split) <;> first | rfl | (simp_all; done) | grind [= kept_setCageFaults])

@[simp] theorem kept_setPortSt (s : State) (d l st : Nat) : kept (Sys2Proof.Machine.setPortSt s d l st) = kept s := by
  first
  | rfl
  | (unfold Sys2Proof.Machine.setPortSt; first | (simp; done) | (repeat' split) <;> first | rfl | (simp_all; done) | grind [= kept_updPort, = kept_emit])

@[simp] theorem kept_warmRestart (s : State) (g : Nat) (ps : List Nat) : kept (Sys2Proof.Machine.warmRestart s g ps) = kept s := by
  first
  | rfl
  | (unfold Sys2Proof.Machine.warmRestart; first | (simp; done) | (repeat' split) <;> first | rfl | (simp_all; done) | grind [= kept_updPort])

@[simp] theorem kept_warmLost (s : State) (d l : Nat) : kept (Sys2Proof.Machine.warmLost s d l) = kept s := by
  first
  | rfl
  | (unfold Sys2Proof.Machine.warmLost; first | (simp; done) | (repeat' split) <;> first | rfl | (simp_all; done) | grind [= kept_warmRestart])

@[simp] theorem kept_dropArriving (s : State) (d l : Nat) : kept (Sys2Proof.Machine.dropArriving s d l) = kept s := by
  first
  | rfl
  | (unfold Sys2Proof.Machine.dropArriving; first | (simp; done) | (repeat' split) <;> first | rfl | (simp_all; done) | grind [= kept_decOpt, = kept_updDie])

@[simp] theorem kept_dropQueued (s : State) (d l : Nat) : kept (Sys2Proof.Machine.dropQueued s d l) = kept s := by
  first
  | rfl
  | (unfold Sys2Proof.Machine.dropQueued; first | (simp; done) | (repeat' split) <;> first | rfl | (simp_all; done) | grind [= kept_discard, = kept_updDie])

@[simp] theorem kept_portLeave (s : State) (d l : Nat) : kept (Sys2Proof.Machine.portLeave s d l) = kept s := by
  first
  | rfl
  | (unfold Sys2Proof.Machine.portLeave; first | (simp; done) | (repeat' split) <;> first | rfl | (simp_all; done) | grind [= kept_dropQueued, = kept_dropArriving, = kept_warmLost])

@[simp] theorem kept_stopLanes (s : State) (d l : Nat) : kept (Sys2Proof.Machine.stopLanes s d l) = kept s := by
  first
  | rfl
  | (unfold Sys2Proof.Machine.stopLanes; first | (simp; done) | (repeat' split) <;> first | rfl | (simp_all; done) | grind [= kept_updLane])

@[simp] theorem kept_portFault (s : State) (d l : Nat) : kept (Sys2Proof.Machine.portFault s d l) = kept s := by
  first
  | rfl
  | (unfold Sys2Proof.Machine.portFault; first | (simp; done) | (repeat' split) <;> first | rfl | (simp_all; done) | grind [= kept_setPortSt, = kept_updPort, = kept_stopLanes, = kept_reportFault])

@[simp] theorem kept_dropCredit (s : State) (d l : Nat) : kept (Sys2Proof.Machine.dropCredit s d l) = kept s := by
  first
  | rfl
  | (unfold Sys2Proof.Machine.dropCredit; first | (simp; done) | (repeat' split) <;> first | rfl | (simp_all; done) | grind [= kept_updDie])

@[simp] theorem kept_startTrain (s : State) (d l : Nat) (current : Bool) : kept (Sys2Proof.Machine.startTrain s d l current) = kept s := by
  first
  | rfl
  | (unfold Sys2Proof.Machine.startTrain; first | (simp; done) | (repeat' split) <;> first | rfl | (simp_all; done) | grind [= kept_updLane, = kept_updPort, = kept_dropCredit, = kept_setPortSt, = kept_emits])

@[simp] theorem kept_bringUpFailed (s : State) (d l : Nat) : kept (Sys2Proof.Machine.bringUpFailed s d l) = kept s := by
  first
  | rfl
  | (unfold Sys2Proof.Machine.bringUpFailed; first | (simp; done) | (repeat' split) <;> first | rfl | (simp_all; done) | grind [= kept_portFault, = kept_startTrain, = kept_updPort])

@[simp] theorem kept_portDown (s : State) (d l : Nat) (current fos : Bool) : kept (Sys2Proof.Machine.portDown s d l current fos) = kept s := by
  first
  | rfl
  | (unfold Sys2Proof.Machine.portDown; first | (simp; done) | (repeat' split) <;> first | rfl | (simp_all; done) | grind [= kept_portLeave, = kept_portStEvent, = kept_updPort, = kept_portFault, = kept_startTrain])

@[simp] theorem kept_sendAdverts (s : State) (d l : Nat) : kept (Sys2Proof.Machine.sendAdverts s d l) = kept s := by
  first
  | rfl
  | (unfold Sys2Proof.Machine.sendAdverts; first | (simp; done) | (repeat' split) <;> first | rfl | (simp_all; done) | grind [= kept_emits])

@[simp] theorem kept_activate (s : State) (d l : Nat) : kept (Sys2Proof.Machine.activate s d l) = kept s := by
  unfold activate
  extract_lets s1 s2
  have h1 : kept s1 = kept s := by
    simp only [s1]
    split
    · exact kept_ite_of rfl rfl
    · rfl
  have h2 : kept s2 = kept s := by rw [← h1]; exact kept_updPort _ _ _ _
  clear_value s2
  rw [kept_pumpAll, kept_retryAll, kept_sendAdverts, kept_setPortSt, h2]

@[simp] theorem kept_linkUp (s : State) (d l : Nat) : kept (Sys2Proof.Machine.linkUp s d l) = kept s := by
  unfold linkUp
  extract_lets p same s1 s2
  have h2 : kept s2 = kept s := by simp [s2, s1]
  clear_value s2 same
  rw [kept_portStEvent]
  split
  · rw [kept_activate, h2]
  · rw [kept_updPort, h2]

@[simp] theorem kept_sendHellos (s : State) (d l : Nat) : kept (Sys2Proof.Machine.sendHellos s d l) = kept s := by
  first
  | rfl
  | (unfold Sys2Proof.Machine.sendHellos; first | (simp; done) | (repeat' split) <;> first | rfl | (simp_all; done) | grind [= kept_emits])

@[simp] theorem kept_holdMiscabled (s : State) (d l test : Nat) : kept (Sys2Proof.Machine.holdMiscabled s d l test) = kept s := by
  first
  | rfl
  | (unfold Sys2Proof.Machine.holdMiscabled; first | (simp; done) | (repeat' split) <;> first | rfl | (simp_all; done) | grind [= kept_sendHellos, = kept_setPortSt, = kept_updPort, = kept_postEvent])

@[simp] theorem kept_settleHello (s : State) (d l : Nat) (f : Hello) : kept (settleHello s d l f) = kept s := by
  unfold settleHello
  extract_lets x w0 v ok
  split
  · exact kept_bringUpFailed s d l
  · extract_lets s1 s2 t
    have h2 : kept s2 = kept s := by simp [s2, s1]
    clear_value s2 ok t
    split
    · rw [kept_setPortSt, kept_updPort, h2]
    · split
      · rw [kept_holdMiscabled, h2]
      · split
        · rw [kept_holdMiscabled, h2]
        · rw [kept_linkUp, h2]

@[simp] theorem kept_portSafe (s : State) (d l : Nat) : kept (Sys2Proof.Machine.portSafe s d l) = kept s := by
  first
  | rfl
  | (unfold Sys2Proof.Machine.portSafe; first | (simp; done) | (repeat' split) <;> first | rfl | (simp_all; done) | grind [= kept_setPortSt, = kept_updPort, = kept_stopLanes, = kept_portLeave])

@[simp] theorem kept_removePort (s : State) (d l : Nat) : kept (Sys2Proof.Machine.removePort s d l) = kept s := by
  first
  | rfl
  | (unfold Sys2Proof.Machine.removePort; first | (simp; done) | (repeat' split) <;> first | rfl | (simp_all; done) | grind [= kept_sendHellos, = kept_setPortSt, = kept_updPort, = kept_warmLost, = kept_portSafe])

@[simp] theorem kept_removalComplete (d l : Nat) (late : Bool) (s : State) : kept (Sys2Proof.Machine.removalComplete d l late s) = kept s := by
  first
  | rfl
  | (unfold Sys2Proof.Machine.removalComplete; first | (simp; done) | (repeat' split) <;> first | rfl | (simp_all; done) | grind [= kept_portSafe])

theorem kept_execRemovalComplete (d l : Nat) (late : Bool) (s : State) {tt : State} (h : Sys2Proof.Machine.execRemovalComplete d l late s = .next tt) : kept tt = kept s := by
  unfold Sys2Proof.Machine.execRemovalComplete at h
  cases h
  first
  | rfl
  | (simp; done)
  | (repeat' split) <;> first | rfl | (simp_all; done) | grind [= kept_removalComplete]

@[simp] theorem kept_creditWord (d l b cnt : Nat) (s : State) : kept (Sys2Proof.Machine.creditWord d l b cnt s) = kept s := by
  first
  | rfl
  | (unfold Sys2Proof.Machine.creditWord; first | (simp; done) | (repeat' split) <;> first | rfl | (simp_all; done) | grind [= kept_retryAll, = kept_updPort])

theorem kept_execCredit (d l b cnt : Nat) (s : State) {tt : State} (h : Sys2Proof.Machine.execCredit d l b cnt s = .next tt) : kept tt = kept s := by
  unfold Sys2Proof.Machine.execCredit at h
  cases h
  first
  | rfl
  | (simp; done)
  | (repeat' split) <;> first | rfl | (simp_all; done) | grind [= kept_creditWord]

@[simp] theorem kept_advertWord (d l b units : Nat) (s : State) : kept (Sys2Proof.Machine.advertWord d l b units s) = kept s := by
  first
  | rfl
  | (unfold Sys2Proof.Machine.advertWord; first | (simp; done) | (repeat' split) <;> first | rfl | (simp_all; done) | grind [= kept_retryAll, = kept_updPort])

theorem kept_execAdvert (d l b units : Nat) (s : State) {tt : State} (h : Sys2Proof.Machine.execAdvert d l b units s = .next tt) : kept tt = kept s := by
  unfold Sys2Proof.Machine.execAdvert at h
  cases h
  first
  | rfl
  | (simp; done)
  | (repeat' split) <;> first | rfl | (simp_all; done) | grind [= kept_advertWord]

@[simp] theorem kept_stateWord (d l st : Nat) (drained : Bool) (s : State) : kept (Sys2Proof.Machine.stateWord d l st drained s) = kept s := by
  first
  | rfl
  | (unfold Sys2Proof.Machine.stateWord; first | (simp; done) | (repeat' split) <;> first | rfl | (simp_all; done) | grind [= kept_updPort, = kept_removePort, = kept_settleHello, = kept_holdMiscabled, = kept_portLeave, = kept_linkUp])

theorem kept_execState (d l st : Nat) (drained : Bool) (s : State) {tt : State} (h : Sys2Proof.Machine.execState d l st drained s = .next tt) : kept tt = kept s := by
  unfold Sys2Proof.Machine.execState at h
  cases h
  first
  | rfl
  | (simp; done)
  | (repeat' split) <;> first | rfl | (simp_all; done) | grind [= kept_stateWord]

@[simp] theorem kept_creditRepeat (d l : Nat) (s : State) : kept (Sys2Proof.Machine.creditRepeat d l s) = kept s := by
  first
  | rfl
  | (unfold Sys2Proof.Machine.creditRepeat; first | (simp; done) | (repeat' split) <;> first | rfl | (simp_all; done) | grind [= kept_emits])

theorem kept_execCreditRepeat (d l : Nat) (s : State) {tt : State} (h : Sys2Proof.Machine.execCreditRepeat d l s = .next tt) : kept tt = kept s := by
  unfold Sys2Proof.Machine.execCreditRepeat at h
  cases h
  first
  | rfl
  | (simp; done)
  | (repeat' split) <;> first | rfl | (simp_all; done) | grind [= kept_creditRepeat]

@[simp] theorem kept_advertRepeat (d l : Nat) (s : State) : kept (Sys2Proof.Machine.advertRepeat d l s) = kept s := by
  first
  | rfl
  | (unfold Sys2Proof.Machine.advertRepeat; first | (simp; done) | (repeat' split) <;> first | rfl | (simp_all; done) | grind [= kept_sendAdverts])

theorem kept_execAdvertRepeat (d l : Nat) (s : State) {tt : State} (h : Sys2Proof.Machine.execAdvertRepeat d l s = .next tt) : kept tt = kept s := by
  unfold Sys2Proof.Machine.execAdvertRepeat at h
  cases h
  first
  | rfl
  | (simp; done)
  | (repeat' split) <;> first | rfl | (simp_all; done) | grind [= kept_advertRepeat]

@[simp] theorem kept_signalDetect (d i : Nat) (long : Bool) (s : State) : kept (Sys2Proof.Machine.signalDetect d i long s) = kept s := by
  first
  | rfl
  | (unfold Sys2Proof.Machine.signalDetect; first | (simp; done) | (repeat' split) <;> first | rfl | (simp_all; done) | grind [= kept_updLane, = kept_addCageFault, = kept_startTrain])

theorem kept_execLaneSignalDetect (d i : Nat) (long : Bool) (s : State) {tt : State} (h : Sys2Proof.Machine.execLaneSignalDetect d i long s = .next tt) : kept tt = kept s := by
  unfold Sys2Proof.Machine.execLaneSignalDetect at h
  cases h
  first
  | rfl
  | (simp; done)
  | (repeat' split) <;> first | rfl | (simp_all; done) | grind [= kept_signalDetect]

@[simp] theorem kept_signalLost (d i : Nat) (s : State) : kept (Sys2Proof.Machine.signalLost d i s) = kept s := by
  first
  | rfl
  | (unfold Sys2Proof.Machine.signalLost; first | (simp; done) | (repeat' split) <;> first | rfl | (simp_all; done) | grind [= kept_updLane, = kept_portDown])

theorem kept_execLossOfSignal (d i : Nat) (s : State) {tt : State} (h : Sys2Proof.Machine.execLossOfSignal d i s = .next tt) : kept tt = kept s := by
  unfold Sys2Proof.Machine.execLossOfSignal at h
  cases h
  first
  | rfl
  | (simp; done)
  | (repeat' split) <;> first | rfl | (simp_all; done) | grind [= kept_signalLost]

@[simp] theorem kept_faultSet (d i : Nat) (s : State) : kept (Sys2Proof.Machine.faultSet d i s) = kept s := by
  first
  | rfl
  | (unfold Sys2Proof.Machine.faultSet; first | (simp; done) | (repeat' split) <;> first | rfl | (simp_all; done) | grind [= kept_portDown])

theorem kept_execFaultOrderedSet (d i : Nat) (s : State) {tt : State} (h : Sys2Proof.Machine.execFaultOrderedSet d i s = .next tt) : kept tt = kept s := by
  unfold Sys2Proof.Machine.execFaultOrderedSet at h
  cases h
  first
  | rfl
  | (simp; done)
  | (repeat' split) <;> first | rfl | (simp_all; done) | grind [= kept_faultSet]

@[simp] theorem kept_recalProgress (s : State) (d l : Nat) : kept (Sys2Proof.Machine.recalProgress s d l) = kept s := by
  first
  | rfl
  | (unfold Sys2Proof.Machine.recalProgress; first | (simp; done) | (repeat' split) <;> first | rfl | (simp_all; done) | grind [= kept_setPos])

@[simp] theorem kept_trainOver (s : State) (d l : Nat) : kept (Sys2Proof.Machine.trainOver s d l) = kept s := by
  first
  | rfl
  | (unfold Sys2Proof.Machine.trainOver; first | (simp; done) | (repeat' split) <;> first | rfl | (simp_all; done) | grind [= kept_bringUpFailed, = kept_sendHellos, = kept_setPortSt])

@[simp] theorem kept_laneTrained (s : State) (d l i : Nat) : kept (Sys2Proof.Machine.laneTrained s d l i) = kept s := by
  first
  | rfl
  | (unfold Sys2Proof.Machine.laneTrained; first | (simp; done) | (repeat' split) <;> first | rfl | (simp_all; done) | grind [→ kept_draw, = kept_draw_snd, = kept_recalProgress, = kept_updLane, = kept_trainOver])

@[simp] theorem kept_trainingFrame (d i : Nat) (c : BitVec 64) (inv ready : Bool) (req : Nat) (s : State) : kept (Sys2Proof.Machine.trainingFrame d i c inv ready req s) = kept s := by
  first
  | rfl
  | (unfold Sys2Proof.Machine.trainingFrame; first | (simp; done) | (repeat' split) <;> first | rfl | (simp_all; done) | grind [= kept_startTrain, = kept_updLane, = kept_emit, = kept_laneTrained, = kept_emits])

theorem kept_execTrainingFrame (d i : Nat) (c : BitVec 64) (inv : Bool) (ask : Nat) (s : State) {tt : State} (h : Sys2Proof.Machine.execTrainingFrame d i c inv ask s = .next tt) : kept tt = kept s := by
  cases h
  exact kept_trainingFrame d i c inv _ _ s

@[simp] theorem kept_trainExpiry (d l : Nat) (s : State) : kept (Sys2Proof.Machine.trainExpiry d l s) = kept s := by
  first
  | rfl
  | (unfold Sys2Proof.Machine.trainExpiry; first | (simp; done) | (repeat' split) <;> first | rfl | (simp_all; done) | grind [= kept_trainOver, = kept_recalProgress, = kept_updLane])

theorem kept_execTrainMsExpiry (d l : Nat) (s : State) {tt : State} (h : Sys2Proof.Machine.execTrainMsExpiry d l s = .next tt) : kept tt = kept s := by
  unfold Sys2Proof.Machine.execTrainMsExpiry at h
  cases h
  first
  | rfl
  | (simp; done)
  | (repeat' split) <;> first | rfl | (simp_all; done) | grind [= kept_trainExpiry]

@[simp] theorem kept_helloFrame (d i : Nat) (bs : List Byte) (s : State) : kept (Sys2Proof.Machine.helloFrame d i bs s) = kept s := by
  first
  | rfl
  | (unfold Sys2Proof.Machine.helloFrame; first | (simp; done) | (repeat' split) <;> first | rfl | (simp_all; done) | grind [= kept_updLane, = kept_updPort, = kept_removePort, = kept_holdMiscabled, = kept_portLeave, = kept_emit, = kept_settleHello])

theorem kept_execHelloFrame (d i : Nat) (bs : List Byte) (s : State) {tt : State} (h : Sys2Proof.Machine.execHelloFrame d i bs s = .next tt) : kept tt = kept s := by
  unfold Sys2Proof.Machine.execHelloFrame at h
  cases h
  first
  | rfl
  | (simp; done)
  | (repeat' split) <;> first | rfl | (simp_all; done) | grind [= kept_helloFrame]

@[simp] theorem kept_helloTimeout (d l : Nat) (s : State) : kept (Sys2Proof.Machine.helloTimeout d l s) = kept s := by
  first
  | rfl
  | (unfold Sys2Proof.Machine.helloTimeout; first | (simp; done) | (repeat' split) <;> first | rfl | (simp_all; done) | grind [= kept_bringUpFailed])

theorem kept_execHelloTimeout (d l : Nat) (s : State) {tt : State} (h : Sys2Proof.Machine.execHelloTimeout d l s = .next tt) : kept tt = kept s := by
  unfold Sys2Proof.Machine.execHelloTimeout at h
  cases h
  first
  | rfl
  | (simp; done)
  | (repeat' split) <;> first | rfl | (simp_all; done) | grind [= kept_helloTimeout]

@[simp] theorem kept_takeBytes (f : Nat) (s : State) (d l : Nat) (cur bs : List Byte) : kept (takeBytes f s d l cur bs) = kept s := by
  induction f generalizing s cur bs with
  | zero => rfl
  | succ f ih =>
    unfold takeBytes
    (repeat' split) <;> simp [ih]

@[simp] theorem kept_dropPart (s : State) (d l : Nat) : kept (Sys2Proof.Machine.dropPart s d l) = kept s := by
  first
  | rfl
  | (unfold Sys2Proof.Machine.dropPart; first | (simp; done) | (repeat' split) <;> first | rfl | (simp_all; done) | grind [= kept_updPort, = kept_lostArriving, = kept_bump])

@[simp] theorem kept_takeFrame (s : State) (d l : Nat) (ws : List RxWord) : kept (Sys2Proof.Machine.takeFrame s d l ws) = kept s := by
  unfold takeFrame
  extract_lets parts bs
  clear_value bs
  split
  · exact kept_dropPart _ _ _
  · split
    · rw [kept_takeBytes, kept_dropPart]
    · exact kept_takeBytes _ _ _ _ _ _
    · exact kept_takeBytes _ _ _ _ _ _
    · exact kept_foldl _ (fun s e => by (repeat' split) <;> simp) _ _

@[simp] theorem kept_joinFrame (s : State) (d l : Nat) (e : RxWord) : kept (Sys2Proof.Machine.joinFrame s d l e) = kept s := by
  first
  | rfl
  | (unfold Sys2Proof.Machine.joinFrame; first | (simp; done) | (repeat' split) <;> first | rfl | (simp_all; done) | grind [= kept_takeFrame, = kept_updPort])

@[simp] theorem kept_controlWord (d l w : Nat) (s : State) : kept (Sys2Proof.Machine.controlWord d l w s) = kept s := by
  first
  | rfl
  | (unfold Sys2Proof.Machine.controlWord; first | (simp; done) | (repeat' split) <;> first | rfl | (simp_all; done) | grind [= kept_creditWord, = kept_advertWord, = kept_stateWord])

@[simp] theorem kept_codewordGood (d i l : Nat) (c : Codeword) (fixed : Nat) (s : State) : kept (Sys2Proof.Machine.codewordGood d i l c fixed s) = kept s := by
  unfold codewordGood
  extract_lets p s1 s2 bad s3 s4 n st
  have h1 : kept s1 = kept s := kept_updLane _ _ _ _
  have h2 : kept s2 = kept s := by simp only [s2]; split <;> simp [h1]
  have h3 : kept s3 = kept s := by rw [← h2]; exact kept_foldl _ (fun s j => kept_updLane _ _ _ _) _ _
  have h4 : kept s4 = kept s := by rw [← h3]; exact kept_foldl _ (fun s w => kept_controlWord _ _ _ _) _ _
  clear_value s1 s2 s3 s4 bad
  (repeat' split) <;> simp [h3, h4]

@[simp] theorem kept_codewordBad (d i l : Nat) (s : State) : kept (Sys2Proof.Machine.codewordBad d i l s) = kept s := by
  unfold codewordBad
  extract_lets x n p uncs m s1 s2 s3
  have h1 : kept s1 = kept s := kept_updLane _ _ _ _
  have h2 : kept s2 = kept s := by simp [s2, h1]
  have h3 : kept s3 = kept s := by simp [s3, h2]
  clear_value s1 s2 s3 uncs m
  cases m <;> (dsimp only; (repeat' split) <;> first | exact h2 | exact h3 | simp [h2, h3])

@[simp] theorem kept_codeword (d i : Nat) (cw : BitVec 5440) (s : State) : kept (codeword d i cw s) = kept s := by
  unfold codeword
  extract_lets x
  cases laneWidthPort x i with
  | none => rfl
  | some l =>
    cases rsDecode (cwSymbols cw) with
    | none => exact kept_ite_of rfl (kept_codewordBad _ _ _ _)
    | some r => exact kept_ite_of rfl (kept_codewordGood _ _ _ _ _ _)

theorem kept_execCodewordReceived (d i : Nat) (ctl : BitVec 140) (data : BitVec 5000) (par : BitVec 300) (s : State) {tt : State}
    (h : Sys2Proof.Machine.execCodewordReceived d i ctl data par s = .next tt) : kept tt = kept s := by
  cases h
  exact kept_codeword d i _ s

theorem kept_admitPort (s : State) (p : Nat) {zz : Status} {tt : State} (h : Sys2Proof.Machine.admitPort s p = (zz, tt)) : kept tt = kept s := by
  unfold Sys2Proof.Machine.admitPort at h
  revert h
  (repeat' split) <;> intro h <;> first | (cases h; done) | (cases h; rfl) | (cases h; simp_all; done) | grind [= kept_bump, = kept_activate]
@[simp] theorem kept_admitPort_snd (s : State) (p : Nat) : kept (Sys2Proof.Machine.admitPort s p).2 = kept s := kept_admitPort s p rfl

theorem kept_withdrawPort (s : State) (p : Nat) {zz : Status} {tt : State} (h : Sys2Proof.Machine.withdrawPort s p = (zz, tt)) : kept tt = kept s := by
  unfold Sys2Proof.Machine.withdrawPort at h
  revert h
  (repeat' split) <;> intro h <;> first | (cases h; done) | (cases h; rfl) | (cases h; simp_all; done) | grind [= kept_updPort, = kept_setPortSt, = kept_portLeave, = kept_sendAdverts]
@[simp] theorem kept_withdrawPort_snd (s : State) (p : Nat) : kept (Sys2Proof.Machine.withdrawPort s p).2 = kept s := kept_withdrawPort s p rfl

theorem kept_recalStart (s : State) (p id : Nat) {zz : Bool} {tt : State} (h : Sys2Proof.Machine.recalStart s p id = (zz, tt)) : kept tt = kept s := by
  unfold Sys2Proof.Machine.recalStart at h
  revert h
  (repeat' split) <;> intro h <;> first | (cases h; done) | (cases h; rfl) | (cases h; simp_all; done) | grind [= kept_updPort, = kept_portStEvent, = kept_portLeave, = kept_startTrain]
@[simp] theorem kept_recalStart_snd (s : State) (p id : Nat) : kept (Sys2Proof.Machine.recalStart s p id).2 = kept s := kept_recalStart s p id rfl

@[simp] theorem kept_moduleReady (s : State) (d o : Nat) : kept (Sys2Proof.Machine.moduleReady s d o) = kept s := by
  first
  | rfl
  | (unfold Sys2Proof.Machine.moduleReady; first | (simp; done) | (repeat' split) <;> first | rfl | (simp_all; done) | grind [= kept_updCage, = kept_startTrain])

@[simp] theorem kept_presence (d o : Nat) (s : State) : kept (Sys2Proof.Machine.presence d o s) = kept s := by
  first
  | rfl
  | (unfold Sys2Proof.Machine.presence; first | (simp; done) | (repeat' split) <;> first | rfl | (simp_all; done) | grind [= kept_setPortSt, = kept_updCage])

theorem kept_execPresenceDebounced (d o : Nat) (s : State) {tt : State} (h : Sys2Proof.Machine.execPresenceDebounced d o s = .next tt) : kept tt = kept s := by
  unfold Sys2Proof.Machine.execPresenceDebounced at h
  cases h
  first
  | rfl
  | (simp; done)
  | (repeat' split) <;> first | rfl | (simp_all; done) | grind [= kept_presence]

@[simp] theorem kept_portEmpty (s : State) (d l : Nat) : kept (Sys2Proof.Machine.portEmpty s d l) = kept s := by
  first
  | rfl
  | (unfold Sys2Proof.Machine.portEmpty; first | (simp; done) | (repeat' split) <;> first | rfl | (simp_all; done) | grind [= kept_setPortSt, = kept_updPort, = kept_stopLanes, = kept_portLeave])

@[simp] theorem kept_unplug (d o : Nat) (s : State) : kept (Sys2Proof.Machine.unplug d o s) = kept s := by
  first
  | rfl
  | (unfold Sys2Proof.Machine.unplug; first | (simp; done) | (repeat' split) <;> first | rfl | (simp_all; done) | grind [= kept_portEmpty, = kept_updCage, = kept_cageEvent])

theorem kept_execUnplug (d o : Nat) (s : State) {tt : State} (h : Sys2Proof.Machine.execUnplug d o s = .next tt) : kept tt = kept s := by
  unfold Sys2Proof.Machine.execUnplug at h
  cases h
  first
  | rfl
  | (simp; done)
  | (repeat' split) <;> first | rfl | (simp_all; done) | grind [= kept_unplug]

@[simp] theorem kept_selectApp (s : State) (d o app : Nat) : kept (Sys2Proof.Machine.selectApp s d o app) = kept s := by
  first
  | rfl
  | (unfold Sys2Proof.Machine.selectApp; first | (simp; done) | (repeat' split) <;> first | rfl | (simp_all; done) | grind [= kept_emits, = kept_updCage])

@[simp] theorem kept_alarmEvents (s : State) (d o alarms : Nat) : kept (Sys2Proof.Machine.alarmEvents s d o alarms) = kept s := by
  first
  | rfl
  | (unfold Sys2Proof.Machine.alarmEvents; first | (simp; done) | (repeat' split) <;> first | rfl | (simp_all; done) | grind [= kept_postEvent])

@[simp] theorem kept_cmisPoll (d o : Nat) (ack : Bool) (app : Option Nat) (ready : Bool) (modst alarms : Nat) (s : State) : kept (Sys2Proof.Machine.cmisPoll d o ack app ready modst alarms s) = kept s := by
  first
  | rfl
  | (unfold Sys2Proof.Machine.cmisPoll; first | (simp; done) | (repeat' split) <;> first | rfl | (simp_all; done) | grind [= kept_moduleReady, = kept_addCageFault, = kept_updCage, = kept_selectApp, = kept_alarmEvents])

theorem kept_execCmisPoll (d o : Nat) (ack : Bool) (app : Option Nat) (ready : Bool) (modst alarms : Nat) (s : State) {tt : State} (h : Sys2Proof.Machine.execCmisPoll d o ack app ready modst alarms s = .next tt) : kept tt = kept s := by
  cases h
  exact kept_cmisPoll d o ack app ready modst alarms s

@[simp] theorem kept_readyTimeout (d o : Nat) (s : State) : kept (Sys2Proof.Machine.readyTimeout d o s) = kept s := by
  first
  | rfl
  | (unfold Sys2Proof.Machine.readyTimeout; first | (simp; done) | (repeat' split) <;> first | rfl | (simp_all; done) | grind [= kept_postEvent, = kept_moduleReady])

theorem kept_execModuleReadyTimeout (d o : Nat) (s : State) {tt : State} (h : Sys2Proof.Machine.execModuleReadyTimeout d o s = .next tt) : kept tt = kept s := by
  unfold Sys2Proof.Machine.execModuleReadyTimeout at h
  cases h
  first
  | rfl
  | (simp; done)
  | (repeat' split) <;> first | rfl | (simp_all; done) | grind [= kept_readyTimeout]

@[simp] theorem kept_clearLocate (s : State) (d o : Nat) : kept (Sys2Proof.Machine.clearLocate s d o) = kept s := by
  first
  | rfl
  | (unfold Sys2Proof.Machine.clearLocate; first | (simp; done) | (repeat' split) <;> first | rfl | (simp_all; done) | grind [= kept_updDie])

@[simp] theorem kept_buttonRelease (d o ms : Nat) (s : State) : kept (Sys2Proof.Machine.buttonRelease d o ms s) = kept s := by
  first
  | rfl
  | (unfold Sys2Proof.Machine.buttonRelease; first | (simp; done) | (repeat' split) <;> first | rfl | (simp_all; done) | grind [= kept_updCage, = kept_clearLocate, = kept_postEvent, = kept_startTrain, = kept_updPort, = kept_removePort])

theorem kept_execButtonRelease (d o ms : Nat) (s : State) {tt : State} (h : Sys2Proof.Machine.execButtonRelease d o ms s = .next tt) : kept tt = kept s := by
  unfold Sys2Proof.Machine.execButtonRelease at h
  cases h
  first
  | rfl
  | (simp; done)
  | (repeat' split) <;> first | rfl | (simp_all; done) | grind [= kept_buttonRelease]

@[simp] theorem kept_buttonStuck (d o : Nat) (s : State) : kept (Sys2Proof.Machine.buttonStuck d o s) = kept s := by
  first
  | rfl
  | (unfold Sys2Proof.Machine.buttonStuck; first | (simp; done) | (repeat' split) <;> first | rfl | (simp_all; done) | grind [= kept_addCageFault, = kept_updCage])

theorem kept_execButtonStuck (d o : Nat) (s : State) {tt : State} (h : Sys2Proof.Machine.execButtonStuck d o s = .next tt) : kept tt = kept s := by
  unfold Sys2Proof.Machine.execButtonStuck at h
  cases h
  first
  | rfl
  | (simp; done)
  | (repeat' split) <;> first | rfl | (simp_all; done) | grind [= kept_buttonStuck]

@[simp] theorem kept_buttonClear (d o : Nat) (s : State) : kept (Sys2Proof.Machine.buttonClear d o s) = kept s := by
  first
  | rfl
  | (unfold Sys2Proof.Machine.buttonClear; first | (simp; done) | (repeat' split) <;> first | rfl | (simp_all; done) | grind [= kept_updCage])

theorem kept_execButtonStuckClear (d o : Nat) (s : State) {tt : State} (h : Sys2Proof.Machine.execButtonStuckClear d o s = .next tt) : kept tt = kept s := by
  unfold Sys2Proof.Machine.execButtonStuckClear at h
  cases h
  first
  | rfl
  | (simp; done)
  | (repeat' split) <;> first | rfl | (simp_all; done) | grind [= kept_buttonClear]

@[simp] theorem kept_sideband (d o : Nat) (found : NSet) (s : State) : kept (Sys2Proof.Machine.sideband d o found s) = kept s := by
  first
  | rfl
  | (unfold Sys2Proof.Machine.sideband; first | (simp; done) | (repeat' split) <;> first | rfl | (simp_all; done) | grind [= kept_setCageFaults])

theorem kept_execSidebandTest (d o : Nat) (found : NSet) (s : State) {tt : State} (h : Sys2Proof.Machine.execSidebandTest d o found s = .next tt) : kept tt = kept s := by
  unfold Sys2Proof.Machine.execSidebandTest at h
  cases h
  first
  | rfl
  | (simp; done)
  | (repeat' split) <;> first | rfl | (simp_all; done) | grind [= kept_sideband]

@[simp] theorem kept_portCfgWrite (d o : Nat) (v : Word32) (s : State) : kept (Sys2Proof.Machine.portCfgWrite d o v s) = kept s := by
  first
  | rfl
  | (unfold Sys2Proof.Machine.portCfgWrite; first | (simp; done) | (repeat' split) <;> first | rfl | (simp_all; done) | grind [= kept_writeLocked, = kept_stopLanes, = kept_portLeave, = kept_updPort, = kept_updDie, = kept_setPortSt])

theorem kept_execPortCfgWrite (d o : Nat) (v : Word32) (s : State) {tt : State} (h : Sys2Proof.Machine.execPortCfgWrite d o v s = .next tt) : kept tt = kept s := by
  unfold Sys2Proof.Machine.execPortCfgWrite at h
  cases h
  first
  | rfl
  | (simp; done)
  | (repeat' split) <;> first | rfl | (simp_all; done) | grind [= kept_portCfgWrite]

@[simp] theorem kept_laneCtlWrite (d i : Nat) (v : Word32) (s : State) : kept (laneCtlWrite d i v s) = kept s := by
  unfold laneCtlWrite
  split
  · rfl
  · extract_lets x w st t refused test prbs s1 same s2 s3
    have h3 : kept s3 = kept s := by simp only [s3]; split <;> simp [s2, s1]
    clear_value s3
    (repeat' split) <;> simp [h3]

theorem kept_execLaneCtlWrite (d i : Nat) (v : Word32) (s : State) {tt : State} (h : Sys2Proof.Machine.execLaneCtlWrite d i v s = .next tt) : kept tt = kept s := by
  unfold Sys2Proof.Machine.execLaneCtlWrite at h
  cases h
  first
  | rfl
  | (simp; done)
  | (repeat' split) <;> first | rfl | (simp_all; done) | grind [= kept_laneCtlWrite]

@[simp] theorem kept_prbsRun (d i : Nat) (rx : List Nat) (s : State) : kept (Sys2Proof.Machine.prbsRun d i rx s) = kept s := by
  first
  | rfl
  | (unfold Sys2Proof.Machine.prbsRun; first | (simp; done) | (repeat' split) <;> first | rfl | (simp_all; done) | grind [= kept_updLane, = kept_emit])

theorem kept_execPrbsCheckerLock (d i n rx : Nat) (s : State) {tt : State} (h : Sys2Proof.Machine.execPrbsCheckerLock d i n rx s = .next tt) : kept tt = kept s := by
  cases h
  exact kept_prbsRun d i _ s

@[simp] theorem kept_keepPreset (d l : Nat) (s : State) : kept (Sys2Proof.Machine.keepPreset d l s) = kept s := by
  first
  | rfl
  | (unfold Sys2Proof.Machine.keepPreset; first | (simp; done) | (repeat' split) <;> first | rfl | (simp_all; done) | grind)

theorem kept_execKeepPresetWrite (d l : Nat) (s : State) {tt : State} (h : Sys2Proof.Machine.execKeepPresetWrite d l s = .next tt) : kept tt = kept s := by
  unfold Sys2Proof.Machine.execKeepPresetWrite at h
  cases h
  first
  | rfl
  | (simp; done)
  | (repeat' split) <;> first | rfl | (simp_all; done) | grind [= kept_keepPreset]

/-! Machine/DieFault -/

@[simp] theorem kept_recAdd (s : State) (kind die unit site spare : Nat) : kept (Sys2Proof.Machine.recAdd s kind die unit site spare) = kept s := by
  first
  | rfl
  | (unfold Sys2Proof.Machine.recAdd; first | (simp; done) | (repeat' split) <;> first | rfl | (simp_all; done) | grind)

@[simp] theorem kept_keepRecord (s : State) : kept (Sys2Proof.Machine.keepRecord s) = kept s := by
  first
  | rfl
  | (unfold Sys2Proof.Machine.keepRecord; first | (simp; done) | (repeat' split) <;> first | rfl | (simp_all; done) | grind [= kept_reportFault])

theorem kept_execKeepRepairRecordWrite (s : State) {tt : State} (h : Sys2Proof.Machine.execKeepRepairRecordWrite s = .next tt) : kept tt = kept s := by
  unfold Sys2Proof.Machine.execKeepRepairRecordWrite at h
  cases h
  first
  | rfl
  | (simp; done)
  | (repeat' split) <;> first | rfl | (simp_all; done) | grind [= kept_keepRecord]

@[simp] theorem kept_packageFault (s : State) (code : Nat) : kept (Sys2Proof.Machine.packageFault s code) = kept s := by
  first
  | rfl
  | (unfold Sys2Proof.Machine.packageFault; first | (simp; done) | (repeat' split) <;> first | rfl | (simp_all; done) | grind [= kept_emits, = kept_updDie])

theorem kept_execPackageFaultC4 (code : Nat) (s : State) {tt : State} (h : Sys2Proof.Machine.execPackageFaultC4 code s = .next tt) : kept tt = kept s := by
  unfold Sys2Proof.Machine.execPackageFaultC4 at h
  cases h
  first
  | rfl
  | (simp; done)
  | (repeat' split) <;> first | rfl | (simp_all; done) | grind [= kept_packageFault]

@[simp] theorem kept_failOver (s : State) : kept (Sys2Proof.Machine.failOver s) = kept s := by
  first
  | rfl
  | (unfold Sys2Proof.Machine.failOver; first | (simp; done) | (repeat' split) <;> first | rfl | (simp_all; done) | grind [= kept_emits, = kept_postEvent])

@[simp] theorem kept_loseLink (s : State) : kept (Sys2Proof.Machine.loseLink s) = kept s := by
  first
  | rfl
  | (unfold Sys2Proof.Machine.loseLink; first | (simp; done) | (repeat' split) <;> first | rfl | (simp_all; done) | grind [= kept_packageFault, = kept_failOver])

@[simp] theorem kept_itgSwitch (v : Word32) (s : State) : kept (Sys2Proof.Machine.itgSwitch v s) = kept s := by
  first
  | rfl
  | (unfold Sys2Proof.Machine.itgSwitch; first | (simp; done) | (repeat' split) <;> first | rfl | (simp_all; done) | grind [= kept_postEvent, = kept_failOver])

theorem kept_execItgSwitch (v : Word32) (s : State) {tt : State} (h : Sys2Proof.Machine.execItgSwitch v s = .next tt) : kept tt = kept s := by
  unfold Sys2Proof.Machine.execItgSwitch at h
  cases h
  first
  | rfl
  | (simp; done)
  | (repeat' split) <;> first | rfl | (simp_all; done) | grind [= kept_itgSwitch]

@[simp] theorem kept_itgDown (s : State) : kept (Sys2Proof.Machine.itgDown s) = kept s := by
  first
  | rfl
  | (unfold Sys2Proof.Machine.itgDown; first | (simp; done) | (repeat' split) <;> first | rfl | (simp_all; done) | grind [= kept_loseLink])

theorem kept_execItgLinkDown (s : State) {tt : State} (h : Sys2Proof.Machine.execItgLinkDown s = .next tt) : kept tt = kept s := by
  unfold Sys2Proof.Machine.execItgLinkDown at h
  cases h
  first
  | rfl
  | (simp; done)
  | (repeat' split) <;> first | rfl | (simp_all; done) | grind [= kept_itgDown]

@[simp] theorem kept_passLead (s : State) : kept (Sys2Proof.Machine.passLead s) = kept s := by
  first
  | rfl
  | (unfold Sys2Proof.Machine.passLead; first | (simp; done) | (repeat' split) <;> first | rfl | (simp_all; done) | grind [= kept_postEvent, = kept_packageFault])

@[simp] theorem kept_loseCores (s : State) (d : Nat) : kept (loseCores s d) = kept s := by
  unfold loseCores
  refine kept_foldl _ (fun s c => ?_) _ _
  dsimp only
  refine (kept_foldl _ (fun s j => by simp) _ _).trans ?_
  split <;> simp

@[simp] theorem kept_loseEngines (s : State) (d : Nat) : kept (loseEngines s d) = kept s := by
  unfold loseEngines
  extract_lets x s1 s2
  have h1 : kept s1 = kept s := by simp [s1]
  have h2 : kept s2 = kept s := by simp [s2, h1]
  refine (kept_foldl _ (fun s q => ?_) _ _).trans h2
  dsimp only
  split <;> simp

@[simp] theorem kept_dropToward (s : State) (d : Nat) : kept (dropToward s d) = kept s :=
  kept_foldUpto _ _ (fun s t => kept_foldUpto _ _ (fun s b => kept_ite_of (by
    rw [kept_foldl _ (fun s e => kept_loseHeld s t e), kept_updDie]) rfl) _) _

@[simp] theorem kept_resendFrom (s : State) (d : Nat) : kept (resendFrom s d) = kept s := kept_foldl _ (fun s e => kept_resendReq s e) _ _

@[simp] theorem kept_loseSource (s : State) (d : Nat) : kept (loseSource s d) = kept s :=
  kept_foldUpto _ _ (fun s t => kept_foldl _ (fun s q => by
    split
    · dsimp only; split <;> simp
    · simp) _ _) _

@[simp] theorem kept_losePorts (s : State) (d : Nat) : kept (Sys2Proof.Machine.losePorts s d) = kept s := by
  first
  | rfl
  | (unfold Sys2Proof.Machine.losePorts; first | (simp; done) | (repeat' split) <;> first | rfl | (simp_all; done) | grind [= kept_updPort, = kept_warmLost, = kept_emits])

@[simp] theorem kept_loseHoops (s : State) (d : Nat) : kept (Sys2Proof.Machine.loseHoops s d) = kept s := by
  first
  | rfl
  | (unfold Sys2Proof.Machine.loseHoops; first | (simp; done) | (repeat' split) <;> first | rfl | (simp_all; done) | grind [= kept_completeId])

@[simp] theorem kept_askDrain (s : State) (die : Nat) : kept (Sys2Proof.Machine.askDrain s die) = kept s := by
  first
  | rfl
  | (unfold Sys2Proof.Machine.askDrain; first | (simp; done) | (repeat' split) <;> first | rfl | (simp_all; done) | grind)

@[simp] theorem kept_dropLink (s : State) (d : Nat) : kept (Sys2Proof.Machine.dropLink s d) = kept s := by
  first
  | rfl
  | (unfold Sys2Proof.Machine.dropLink; first | (simp; done) | (repeat' split) <;> first | rfl | (simp_all; done) | grind)

@[simp] theorem kept_dieFault (s : State) (d code : Nat) : kept (Sys2Proof.Machine.dieFault s d code) = kept s := by
  unfold Sys2Proof.Machine.dieFault
  extract_lets x lvl s1 s2 s3 s4 s5 s6 by' s7 s8
  have h3 : kept s3 = kept s := by simp [s3, s2, s1]
  have h4 : kept s4 = kept s := kept_ite_of (by simp [h3]) h3
  have h5 : kept s5 = kept s := kept_ite_of (by simp [h4]) h4
  have h6 : kept s6 = kept s := (kept_dropLink _ _).trans (kept_ite_of (by simp [h5]) h5)
  have h7 : kept s7 = kept s := (kept_updDie _ _ _).trans (kept_ite_of (by simp [h6]) h6)
  have h8 : kept s8 = kept s := (kept_faultEvent _ _ _ _ _ _ _).trans h7
  refine kept_ite_of rfl ?_
  split
  · simp
  · exact (kept_retryAll _).trans (kept_ite_of (by simp [h8]) h8)

theorem kept_execDieFaultC3 (d code : Nat) (s : State) {tt : State} (h : Sys2Proof.Machine.execDieFaultC3 d code s = .next tt) : kept tt = kept s := by
  unfold Sys2Proof.Machine.execDieFaultC3 at h
  cases h
  first
  | rfl
  | (simp; done)
  | (repeat' split) <;> first | rfl | (simp_all; done) | grind [= kept_dieFault]

theorem kept_execStewardHeartbeatLost (d : Nat) (s : State) {tt : State} (h : Sys2Proof.Machine.execStewardHeartbeatLost d s = .next tt) : kept tt = kept s := by
  unfold Sys2Proof.Machine.execStewardHeartbeatLost at h
  cases h
  first
  | rfl
  | (simp; done)
  | (repeat' split) <;> first | rfl | (simp_all; done) | grind [= kept_dieFault]

/-! Machine/Repair -/

@[simp] theorem kept_dropJobs (s : State) (d c : Nat) : kept (Sys2Proof.Machine.dropJobs s d c) = kept s := by
  first
  | rfl
  | (unfold Sys2Proof.Machine.dropJobs; first | (simp; done) | (repeat' split) <;> first | rfl | (simp_all; done) | grind [= kept_dropJob, = kept_setCore])

@[simp] theorem kept_fenceCompute (s : State) (d : Nat) : kept (Sys2Proof.Machine.fenceCompute s d) = kept s := by
  first
  | rfl
  | (unfold Sys2Proof.Machine.fenceCompute; first | (simp; done) | (repeat' split) <;> first | rfl | (simp_all; done) | grind [= kept_updDie, = kept_dropJobs])

theorem kept_substitute_snd (s : State) (d c : Nat) : kept (substitute s d c).2 = kept s := by
  unfold substitute
  dsimp only
  split <;> simp

theorem kept_substitute (s : State) (d c : Nat) {a : Bool} {t : State} (h : substitute s d c = (a, t)) : kept t = kept s := by
  rw [← kept_substitute_snd s d c, h]

theorem kept_failColumn (s : State) (d c a f : Nat) {zz : Bool} {tt : State} (h : Sys2Proof.Machine.failColumn s d c a f = (zz, tt)) : kept tt = kept s := by
  unfold Sys2Proof.Machine.failColumn at h
  revert h
  (repeat' split) <;> intro h <;> first | (cases h; done) | (cases h; rfl) | (cases h; simp_all; done) | grind [= kept_setCore, = kept_recAdd, → kept_substitute]
@[simp] theorem kept_failColumn_snd (s : State) (d c a f : Nat) : kept (Sys2Proof.Machine.failColumn s d c a f).2 = kept s := kept_failColumn s d c a f rfl

theorem kept_failMemRow (s : State) (d c b r : Nat) {zz : Bool} {tt : State} (h : Sys2Proof.Machine.failMemRow s d c b r = (zz, tt)) : kept tt = kept s := by
  unfold Sys2Proof.Machine.failMemRow at h
  revert h
  (repeat' split) <;> intro h <;> first | (cases h; done) | (cases h; rfl) | (cases h; simp_all; done) | grind [= kept_updDie, = kept_recAdd, → kept_substitute]
@[simp] theorem kept_failMemRow_snd (s : State) (d c b r : Nat) : kept (Sys2Proof.Machine.failMemRow s d c b r).2 = kept s := kept_failMemRow s d c b r rfl

@[simp] theorem kept_failGndRow (s : State) (d b r : Nat) (ws : List Nat) : kept (Sys2Proof.Machine.failGndRow s d b r ws) = kept s := by
  first
  | rfl
  | (unfold Sys2Proof.Machine.failGndRow; first | (simp; done) | (repeat' split) <;> first | rfl | (simp_all; done) | grind [= kept_recAdd, = kept_updDie, = kept_dieFault, = kept_reportFault, = kept_postEvent])

@[simp] theorem kept_failChannel (s : State) (d c : Nat) (ws : List Nat) : kept (Sys2Proof.Machine.failChannel s d c ws) = kept s := by
  first
  | rfl
  | (unfold Sys2Proof.Machine.failChannel; first | (simp; done) | (repeat' split) <;> first | rfl | (simp_all; done) | grind [= kept_reportFault, = kept_updDie, = kept_postEvent, = kept_recAdd, = kept_dieFault])

@[simp] theorem kept_failStackPart (s : State) (d kind unit site : Nat) (ws : List Nat) : kept (Sys2Proof.Machine.failStackPart s d kind unit site ws) = kept s := by
  first
  | rfl
  | (unfold Sys2Proof.Machine.failStackPart; first | (simp; done) | (repeat' split) <;> first | rfl | (simp_all; done) | grind [= kept_recAdd, = kept_updDie, = kept_failChannel])

@[simp] theorem kept_failBufRow (s : State) (d b r : Nat) : kept (Sys2Proof.Machine.failBufRow s d b r) = kept s := by
  first
  | rfl
  | (unfold Sys2Proof.Machine.failBufRow; first | (simp; done) | (repeat' split) <;> first | rfl | (simp_all; done) | grind [= kept_recAdd, = kept_updDie, = kept_reportFault])

@[simp] theorem kept_bridgeFailed (s : State) (d b : Nat) : kept (Sys2Proof.Machine.bridgeFailed s d b) = kept s := by
  first
  | rfl
  | (unfold Sys2Proof.Machine.bridgeFailed; first | (simp; done) | (repeat' split) <;> first | rfl | (simp_all; done) | grind [= kept_updBridge, = kept_dieFault, = kept_reportFault, = kept_askDrain])

@[simp] theorem kept_dropGroup (s : State) (d b g : Nat) : kept (Sys2Proof.Machine.dropGroup s d b g) = kept s := by
  first
  | rfl
  | (unfold Sys2Proof.Machine.dropGroup; first | (simp; done) | (repeat' split) <;> first | rfl | (simp_all; done) | grind [= kept_updBridge, = kept_reportFault, = kept_recAdd, = kept_bridgeFailed])

@[simp] theorem kept_wireFailed (s : State) (d b g w : Nat) : kept (Sys2Proof.Machine.wireFailed s d b g w) = kept s := by
  first
  | rfl
  | (unfold Sys2Proof.Machine.wireFailed; first | (simp; done) | (repeat' split) <;> first | rfl | (simp_all; done) | grind [= kept_recAdd, = kept_updBridge, = kept_dropGroup])

@[simp] theorem kept_wireCorrected (s : State) (d b g w : Nat) : kept (Sys2Proof.Machine.wireCorrected s d b g w) = kept s := by
  first
  | rfl
  | (unfold Sys2Proof.Machine.wireCorrected; first | (simp; done) | (repeat' split) <;> first | rfl | (simp_all; done) | grind [= kept_countC0, = kept_updBridge, = kept_wireFailed])

@[simp] theorem kept_bridgeFailure (d b g w how : Nat) (s : State) : kept (Sys2Proof.Machine.bridgeFailure d b g w how s) = kept s := by
  first
  | rfl
  | (unfold Sys2Proof.Machine.bridgeFailure; first | (simp; done) | (repeat' split) <;> first | rfl | (simp_all; done) | grind [= kept_wireCorrected, = kept_countC0, = kept_wireFailed])

theorem kept_execBridgeTransferFailure (d b g w how : Nat) (s : State) {tt : State} (h : Sys2Proof.Machine.execBridgeTransferFailure d b g w how s = .next tt) : kept tt = kept s := by
  unfold Sys2Proof.Machine.execBridgeTransferFailure at h
  cases h
  first
  | rfl
  | (simp; done)
  | (repeat' split) <;> first | rfl | (simp_all; done) | grind [= kept_bridgeFailure]

@[simp] theorem kept_engineStruck (s : State) (d u : Nat) : kept (Sys2Proof.Machine.engineStruck s d u) = kept s := by
  first
  | rfl
  | (unfold Sys2Proof.Machine.engineStruck; first | (simp; done) | (repeat' split) <;> first | rfl | (simp_all; done) | grind [= kept_reportFault, = kept_recAdd, = kept_updDie])

@[simp] theorem kept_pipeStruck (s : State) (d p : Nat) : kept (Sys2Proof.Machine.pipeStruck s d p) = kept s := by
  first
  | rfl
  | (unfold Sys2Proof.Machine.pipeStruck; first | (simp; done) | (repeat' split) <;> first | rfl | (simp_all; done) | grind [= kept_updDie, = kept_recAdd, = kept_reportFault, = kept_homeLost])

@[simp] theorem kept_moverStruck (s : State) (d m id : Nat) : kept (Sys2Proof.Machine.moverStruck s d m id) = kept s := by
  first
  | rfl
  | (unfold Sys2Proof.Machine.moverStruck; first | (simp; done) | (repeat' split) <;> first | rfl | (simp_all; done) | grind [= kept_recAdd, = kept_reportFault, = kept_updDie, = kept_updDma, → kept_takeId, = kept_takeId_snd, = kept_dmaAdvance])

@[simp] theorem kept_unitFault (d code idx arg : Nat) (s : State) : kept (Sys2Proof.Machine.unitFault d code idx arg s) = kept s := by
  first
  | rfl
  | (unfold Sys2Proof.Machine.unitFault; first | (simp; done) | (repeat' split) <;> first | rfl | (simp_all; done) | grind [= kept_countC0, = kept_coreStruck, = kept_setCore, = kept_engineStruck, = kept_pipeStruck, = kept_moverStruck, = kept_portFault, = kept_portLeave, = kept_failBufRow])

theorem kept_execUnitFaultC2 (d code idx arg : Nat) (s : State) {tt : State} (h : Sys2Proof.Machine.execUnitFaultC2 d code idx arg s = .next tt) : kept tt = kept s := by
  unfold Sys2Proof.Machine.execUnitFaultC2 at h
  cases h
  first
  | rfl
  | (simp; done)
  | (repeat' split) <;> first | rfl | (simp_all; done) | grind [= kept_unitFault]

@[simp] theorem kept_groundScrub (d ces : Nat) (ues rows turned : List Nat) (s : State) : kept (Sys2Proof.Machine.groundScrub d ces ues rows turned s) = kept s := by
  first
  | rfl
  | (unfold Sys2Proof.Machine.groundScrub; first | (simp; done) | (repeat' split) <;> first | rfl | (simp_all; done) | grind [= kept_setDie, = kept_countC0, = kept_askHoop])

theorem kept_execGroundScrub (d ces : Nat) (ues rows turned : List Nat) (s : State) {tt : State} (h : Sys2Proof.Machine.execGroundScrub d ces ues rows turned s = .next tt) : kept tt = kept s := by
  unfold Sys2Proof.Machine.execGroundScrub at h
  cases h
  first
  | rfl
  | (simp; done)
  | (repeat' split) <;> first | rfl | (simp_all; done) | grind [= kept_groundScrub]

@[simp] theorem kept_stackPatrol (d ces : Nat) (ues rows tested cols chans lines turned : List Nat) (s : State) : kept (Sys2Proof.Machine.stackPatrol d ces ues rows tested cols chans lines turned s) = kept s := by
  first
  | rfl
  | (unfold Sys2Proof.Machine.stackPatrol; first | (simp; done) | (repeat' split) <;> first | rfl | (simp_all; done) | grind [= kept_setDie, = kept_countC0, = kept_askHoop])

theorem kept_execStackPatrolScrub (d ces : Nat) (ues rows tested cols chans lines turned : List Nat) (s : State) {tt : State} (h : Sys2Proof.Machine.execStackPatrolScrub d ces ues rows tested cols chans lines turned s = .next tt) : kept tt = kept s := by
  unfold Sys2Proof.Machine.execStackPatrolScrub at h
  cases h
  first
  | rfl
  | (simp; done)
  | (repeat' split) <;> first | rfl | (simp_all; done) | grind [= kept_stackPatrol]

@[simp] theorem kept_stackRefresh (d : Nat) (s : State) : kept (Sys2Proof.Machine.stackRefresh d s) = kept s := by
  first
  | rfl
  | (unfold Sys2Proof.Machine.stackRefresh; first | (simp; done) | (repeat' split) <;> first | rfl | (simp_all; done) | grind [= kept_updDie])

theorem kept_execStackRefresh (d : Nat) (s : State) {tt : State} (h : Sys2Proof.Machine.execStackRefresh d s = .next tt) : kept tt = kept s := by
  unfold Sys2Proof.Machine.execStackRefresh at h
  cases h
  first
  | rfl
  | (simp; done)
  | (repeat' split) <;> first | rfl | (simp_all; done) | grind [= kept_stackRefresh]

@[simp] theorem kept_stackTemp (d t : Nat) (s : State) : kept (Sys2Proof.Machine.stackTemp d t s) = kept s := by
  first
  | rfl
  | (unfold Sys2Proof.Machine.stackTemp; first | (simp; done) | (repeat' split) <;> first | rfl | (simp_all; done) | grind [= kept_updDie])

theorem kept_execStackTemperature (d t : Nat) (s : State) {tt : State} (h : Sys2Proof.Machine.execStackTemperature d t s = .next tt) : kept tt = kept s := by
  unfold Sys2Proof.Machine.execStackTemperature at h
  cases h
  first
  | rfl
  | (simp; done)
  | (repeat' split) <;> first | rfl | (simp_all; done) | grind [= kept_stackTemp]

/-! Machine/Drain -/

theorem kept_devRead (s : State) (d a n : Nat) (ext : List Host.Cell) {bs : List Byte} {t : State}
    (h : devRead s d a n ext = .ok (bs, t)) : kept t = kept s := by
  unfold devRead at h
  simp only [draw] at h
  revert h
  (repeat' split) <;> intro h <;> try (cases h; done)
  cases h
  refine (kept_foldl _ (fun s g => ?_) _ _).trans (by simp)
  split <;> simp

@[simp] theorem kept_devSeen (s : State) (a n : Nat) (e : Status) : kept (Sys2Proof.Machine.devSeen s a n e) = kept s := by
  first
  | rfl
  | (unfold Sys2Proof.Machine.devSeen; first | (simp; done) | (repeat' split) <;> first | rfl | (simp_all; done) | grind [= kept_placeTouch])

theorem kept_devWrite (s : State) (d req id a : Nat) (bs : List Byte) {t : State} (h : devWrite s d req id a bs = .ok t) : kept t = kept s := by
  unfold devWrite at h
  revert h
  (repeat' split) <;> intro h <;> try (cases h; done)
  cases h
  refine kept_foldl _ (fun s g => ?_) _ _
  dsimp only
  split <;> simp

@[simp] theorem kept_finishWrites (s : State) (o : Op) (st : Status) (pos : Nat) : kept (Sys2Proof.Machine.finishWrites s o st pos) = kept s := by
  first
  | rfl
  | (unfold Sys2Proof.Machine.finishWrites; first | (simp; done) | (repeat' split) <;> first | rfl | (simp_all; done) | grind [= kept_complete, = kept_updOp])

theorem kept_tableStage (s : State) (desc : Word512) (ext : List Host.Cell) {t : State} (h : tableStage s desc ext = .ok t) : kept t = kept s := by
  unfold tableStage at h
  revert h
  dsimp only
  (repeat' split) <;> intro h <;> try (cases h; done)
  cases h
  rename_i hd _ _ _
  simp [kept_devRead _ _ _ _ _ hd]

@[simp] theorem kept_drainStart (s : State) (op : Option Nat) (die : Nat) : kept (Sys2Proof.Machine.drainStart s op die) = kept s := by
  first
  | rfl
  | (unfold Sys2Proof.Machine.drainStart; first | (simp; done) | (repeat' split) <;> first | rfl | (simp_all; done) | grind [= kept_postEvent])

@[simp] theorem kept_releaseOne (s : State) (d : Nat) (e : Held) : kept (Sys2Proof.Machine.releaseOne s d e) = kept s := by
  first
  | rfl
  | (unfold Sys2Proof.Machine.releaseOne; first | (simp; done) | (repeat' split) <;> first | rfl | (simp_all; done) | grind [= kept_discard, = kept_consumeAt, = kept_dropHeld, = kept_decide_p, = kept_t1Entry, = kept_endpointEntry])

@[simp] theorem kept_giveHoops (s : State) (p : HoopReq → Bool) : kept (Sys2Proof.Machine.giveHoops s p) = kept s := by
  first
  | rfl
  | (unfold Sys2Proof.Machine.giveHoops; first | (simp; done) | (repeat' split) <;> first | rfl | (simp_all; done) | grind)

@[simp] theorem kept_payCredit (s : State) (d l : Nat) : kept (Sys2Proof.Machine.payCredit s d l) = kept s := by
  first
  | rfl
  | (unfold Sys2Proof.Machine.payCredit; first | (simp; done) | (repeat' split) <;> first | rfl | (simp_all; done) | grind [= kept_sendCredit, = kept_updPort])

@[simp] theorem kept_openPorts (s : State) : kept (Sys2Proof.Machine.openPorts s) = kept s := by
  first
  | rfl
  | (unfold Sys2Proof.Machine.openPorts; first | (simp; done) | (repeat' split) <;> first | rfl | (simp_all; done) | grind [= kept_payCredit])

@[simp] theorem kept_releaseHeld (s : State) (stage : Nat) : kept (Sys2Proof.Machine.releaseHeld s stage) = kept s := by
  first
  | rfl
  | (unfold Sys2Proof.Machine.releaseHeld; first | (simp; done) | (repeat' split) <;> first | rfl | (simp_all; done) | grind [= kept_openPorts, = kept_pumpAll, = kept_releaseOne, = kept_updDie])

@[simp] theorem kept_drainEnd (s : State) (st : Status) (pos : Nat) : kept (Sys2Proof.Machine.drainEnd s st pos) = kept s := by
  first
  | rfl
  | (unfold Sys2Proof.Machine.drainEnd; first | (simp; done) | (repeat' split) <;> first | rfl | (simp_all; done) | grind [= kept_complete, = kept_giveHoops])

@[simp] theorem kept_drainStop (s : State) : kept (Sys2Proof.Machine.drainStop s) = kept s := by
  first
  | rfl
  | (unfold Sys2Proof.Machine.drainStop; first | (simp; done) | (repeat' split) <;> first | rfl | (simp_all; done) | grind [= kept_drainProgress])

theorem kept_execDrainStopComplete (s : State) {tt : State} (h : Sys2Proof.Machine.execDrainStopComplete s = .next tt) : kept tt = kept s := by
  unfold Sys2Proof.Machine.execDrainStopComplete at h
  cases h
  first
  | rfl
  | (simp; done)
  | (repeat' split) <;> first | rfl | (simp_all; done) | grind [= kept_drainStop]

@[simp] theorem kept_retest (s : State) (d l : Nat) : kept (Sys2Proof.Machine.retest s d l) = kept s := by
  first
  | rfl
  | (unfold Sys2Proof.Machine.retest; first | (simp; done) | (repeat' split) <;> first | rfl | (simp_all; done) | grind [= kept_holdMiscabled, = kept_portLeave, = kept_linkUp])

@[simp] theorem kept_dropRemoved (s : State) (old : Tables) : kept (Sys2Proof.Machine.dropRemoved s old) = kept s := by
  first
  | rfl
  | (unfold Sys2Proof.Machine.dropRemoved; first | (simp; done) | (repeat' split) <;> first | rfl | (simp_all; done) | grind [= kept_dropHeld, = kept_updDie])

@[simp] theorem kept_warmSwap (s : State) (old : Tables) : kept (Sys2Proof.Machine.warmSwap s old) = kept s := by
  first
  | rfl
  | (unfold Sys2Proof.Machine.warmSwap; first | (simp; done) | (repeat' split) <;> first | rfl | (simp_all; done) | grind [= kept_warmRestart])

@[simp] theorem kept_drainSwap (s : State) : kept (Sys2Proof.Machine.drainSwap s) = kept s := by
  first
  | rfl
  | (unfold Sys2Proof.Machine.drainSwap; first | (simp; done) | (repeat' split) <;> first | rfl | (simp_all; done) | grind [= kept_warmSwap, = kept_dropRemoved, = kept_retest, = kept_drainProgress])

theorem kept_execDrainWaitComplete (s : State) {tt : State} (h : Sys2Proof.Machine.execDrainWaitComplete s = .next tt) : kept tt = kept s := by
  unfold Sys2Proof.Machine.execDrainWaitComplete at h
  cases h
  first
  | rfl
  | (simp; done)
  | (repeat' split) <;> first | rfl | (simp_all; done) | grind [= kept_drainSwap]

@[simp] theorem kept_drainCommit (s : State) : kept (drainCommit s) = kept s := by
  unfold drainCommit
  refine kept_ite_of rfl ?_
  dsimp only
  cases s.drain.op <;> simp

theorem kept_execDrainCommit (s : State) {tt : State} (h : Sys2Proof.Machine.execDrainCommit s = .next tt) : kept tt = kept s := by
  unfold Sys2Proof.Machine.execDrainCommit at h
  cases h
  first
  | rfl
  | (simp; done)
  | (repeat' split) <;> first | rfl | (simp_all; done) | grind [= kept_drainCommit]

@[simp] theorem kept_drainAbort (s : State) : kept (Sys2Proof.Machine.drainAbort s) = kept s := by
  first
  | rfl
  | (unfold Sys2Proof.Machine.drainAbort; first | (simp; done) | (repeat' split) <;> first | rfl | (simp_all; done) | grind [= kept_drainEnd, = kept_releaseHeld])

/-! Machine/Hoop -/

@[simp] theorem kept_hoopBusy (s : State) (o : Op) (d : Nat) (h : HoopReq) (queued : Bool) : kept (Sys2Proof.Machine.hoopBusy s o d h queued) = kept s := by
  first
  | rfl
  | (unfold Sys2Proof.Machine.hoopBusy; first | (simp; done) | (repeat' split) <;> first | rfl | (simp_all; done) | grind [= kept_completeWith])

@[simp] theorem kept_hoopEnd (s : State) (h : HoopReq) (st : Status) (pos : Nat) : kept (Sys2Proof.Machine.hoopEnd s h st pos) = kept s := by
  first
  | rfl
  | (unfold Sys2Proof.Machine.hoopEnd; first | (simp; done) | (repeat' split) <;> first | rfl | (simp_all; done) | grind [= kept_complete, = kept_giveHoops])

@[simp] theorem kept_updHold (s : State) (act die : Nat) (f : HoopReq → HoopReq) : kept (Sys2Proof.Machine.updHold s act die f) = kept s := by
  first
  | rfl
  | (unfold Sys2Proof.Machine.updHold; first | (simp; done) | (repeat' split) <;> first | rfl | (simp_all; done) | grind)

@[simp] theorem kept_setSlot (s : State) (b : Nat) (f : FwSlot) : kept (Sys2Proof.Machine.setSlot s b f) = kept s := by
  first
  | rfl
  | (unfold Sys2Proof.Machine.setSlot; first | (simp; done) | (repeat' split) <;> first | rfl | (simp_all; done) | grind)

@[simp] theorem kept_hoopStart (s : State) (h : HoopReq) : kept (Sys2Proof.Machine.hoopStart s h) = kept s := by
  first
  | rfl
  | (unfold Sys2Proof.Machine.hoopStart; first | (simp; done) | (repeat' split) <;> first | rfl | (simp_all; done) | grind [= kept_updOp, = kept_drainStart, → kept_recalStart, = kept_recalStart_snd, = kept_hoopEnd, = kept_updCore, = kept_setSlot])

@[simp] theorem kept_hoopAsk (s : State) (o : Op) (wait : Bool) (h : HoopReq) : kept (Sys2Proof.Machine.hoopAsk s o wait h) = kept s := by
  first
  | rfl
  | (unfold Sys2Proof.Machine.hoopAsk; first | (simp; done) | (repeat' split) <;> first | rfl | (simp_all; done) | grind [= kept_hoopStart, = kept_updOp, = kept_hoopBusy])

@[simp] theorem kept_hoopGrant (s : State) : kept (Sys2Proof.Machine.hoopGrant s) = kept s := by
  first
  | rfl
  | (unfold Sys2Proof.Machine.hoopGrant; first | (simp; done) | (repeat' split) <;> first | rfl | (simp_all; done) | grind [= kept_hoopStart])

theorem kept_execHoopGrant (s : State) {tt : State} (h : Sys2Proof.Machine.execHoopGrant s = .next tt) : kept tt = kept s := by
  unfold Sys2Proof.Machine.execHoopGrant at h
  cases h
  first
  | rfl
  | (simp; done)
  | (repeat' split) <;> first | rfl | (simp_all; done) | grind [= kept_hoopGrant]

@[simp] theorem kept_coreOutcome (s : State) (d : Nat) (ok : Bool) : kept (Sys2Proof.Machine.coreOutcome s d ok) = kept s := by
  first
  | rfl
  | (unfold Sys2Proof.Machine.coreOutcome; first | (simp; done) | (repeat' split) <;> first | rfl | (simp_all; done) | grind [= kept_updHold])

@[simp] theorem kept_coreTest (d find arr col row : Nat) (s : State) : kept (Sys2Proof.Machine.coreTest d find arr col row s) = kept s := by
  first
  | rfl
  | (unfold Sys2Proof.Machine.coreTest; first | (simp; done) | (repeat' split) <;> first | rfl | (simp_all; done) | grind [→ kept_substitute, = kept_substitute_snd, → kept_failColumn, = kept_failColumn_snd, → kept_failMemRow, = kept_failMemRow_snd, = kept_coreOutcome])

theorem kept_execCoreTestComplete (d find arr col row : Nat) (s : State) {tt : State} (h : Sys2Proof.Machine.execCoreTestComplete d find arr col row s = .next tt) : kept tt = kept s := by
  unfold Sys2Proof.Machine.execCoreTestComplete at h
  cases h
  first
  | rfl
  | (simp; done)
  | (repeat' split) <;> first | rfl | (simp_all; done) | grind [= kept_coreTest]

@[simp] theorem kept_bankStruck (s : State) (d b : Nat) : kept (Sys2Proof.Machine.bankStruck s d b) = kept s := by
  first
  | rfl
  | (unfold Sys2Proof.Machine.bankStruck; first | (simp; done) | (repeat' split) <;> first | rfl | (simp_all; done) | grind [= kept_askHoop, = kept_updDie, = kept_reportFault])

@[simp] theorem kept_fenceLanes (s : State) (d l : Nat) (lanes : List Nat) : kept (Sys2Proof.Machine.fenceLanes s d l lanes) = kept s := by
  first
  | rfl
  | (unfold Sys2Proof.Machine.fenceLanes; first | (simp; done) | (repeat' split) <;> first | rfl | (simp_all; done) | grind [= kept_recAdd])

@[simp] theorem kept_selfFail (s : State) (d kind idx : Nat) (found : List Nat) : kept (Sys2Proof.Machine.selfFail s d kind idx found) = kept s := by
  first
  | rfl
  | (unfold Sys2Proof.Machine.selfFail; first | (simp; done) | (repeat' split) <;> first | rfl | (simp_all; done) | grind [= kept_coreStruck, = kept_engineStruck, = kept_pipeStruck, = kept_moverStruck, = kept_portFault, = kept_portLeave, = kept_fenceLanes, = kept_dropGroup, = kept_bankStruck])

@[simp] theorem kept_coreServes (s : State) (d c : Nat) : kept (Sys2Proof.Machine.coreServes s d c) = kept s := by
  first
  | rfl
  | (unfold Sys2Proof.Machine.coreServes; first | (simp; done) | (repeat' split) <;> first | rfl | (simp_all; done) | grind [= kept_updCore, = kept_dropJobs])

@[simp] theorem kept_stackActs (s : State) (h : HoopReq) (parts : List Nat) : kept (Sys2Proof.Machine.stackActs s h parts) = kept s := by
  first
  | rfl
  | (unfold Sys2Proof.Machine.stackActs; first | (simp; done) | (repeat' split) <;> first | rfl | (simp_all; done) | grind [= kept_failStackPart, = kept_updDie])

@[simp] theorem kept_gndActs (s : State) (h : HoopReq) (found : List Nat) : kept (Sys2Proof.Machine.gndActs s h found) = kept s := by
  first
  | rfl
  | (unfold Sys2Proof.Machine.gndActs; first | (simp; done) | (repeat' split) <;> first | rfl | (simp_all; done) | grind [= kept_failGndRow, = kept_updDie])

@[simp] theorem kept_stackWork (s : State) (h : HoopReq) (found : List Nat) : kept (Sys2Proof.Machine.stackWork s h found) = kept s := by
  first
  | rfl
  | (unfold Sys2Proof.Machine.stackWork; first | (simp; done) | (repeat' split) <;> first | rfl | (simp_all; done) | grind [= kept_stackActs, = kept_updHold, = kept_hoopEnd])

@[simp] theorem kept_activityCommit (act d : Nat) (found : List Nat) (s : State) : kept (Sys2Proof.Machine.activityCommit act d found s) = kept s := by
  first
  | rfl
  | (unfold Sys2Proof.Machine.activityCommit; first | (simp; done) | (repeat' split) <;> first | rfl | (simp_all; done) | grind [= kept_hoopEnd, = kept_updPort, = kept_stackWork, = kept_coreServes, = kept_gndActs, = kept_updCore, = kept_selfFail])

@[simp] theorem kept_copyComplete (d : Nat) (bad : List Nat) (s : State) : kept (Sys2Proof.Machine.copyComplete d bad s) = kept s := by
  first
  | rfl
  | (unfold Sys2Proof.Machine.copyComplete; first | (simp; done) | (repeat' split) <;> first | rfl | (simp_all; done) | grind [= kept_recAdd, = kept_updDie, = kept_hoopEnd])

theorem kept_execStackChannelCopyComplete (d : Nat) (bad : List Nat) (s : State) {tt : State} (h : Sys2Proof.Machine.execStackChannelCopyComplete d bad s = .next tt) : kept tt = kept s := by
  unfold Sys2Proof.Machine.execStackChannelCopyComplete at h
  cases h
  first
  | rfl
  | (simp; done)
  | (repeat' split) <;> first | rfl | (simp_all; done) | grind [= kept_copyComplete]

@[simp] theorem kept_maintain (s : State) (o : Op) (wait : Bool) (act d unit arg : Nat) : kept (Sys2Proof.Machine.maintain s o wait act d unit arg) = kept s := by
  first
  | rfl
  | (unfold Sys2Proof.Machine.maintain; first | (simp; done) | (repeat' split) <;> first | rfl | (simp_all; done) | grind [= kept_complete, = kept_updOp, = kept_hoopAsk])

@[simp] theorem kept_tableUpdate (s : State) (o : Op) (wait act : Bool) (ext : List Host.Cell) : kept (Sys2Proof.Machine.tableUpdate s o wait act ext) = kept s := by
  first
  | rfl
  | (unfold Sys2Proof.Machine.tableUpdate; first | (simp; done) | (repeat' split) <;> first | rfl | (simp_all; done) | grind [→ kept_tableStage, = kept_complete, = kept_devSeen, = kept_updOp, = kept_hoopAsk, = kept_hoopBusy, = kept_hoopStart])

/-! Machine/Gates -/

@[simp] theorem kept_gateList (s : State) (o : Op) (ext : List Host.Cell) : kept (Sys2Proof.Machine.gateList s o ext) = kept s := by
  first
  | rfl
  | (unfold Sys2Proof.Machine.gateList; first | (simp; done) | (repeat' split) <;> first | rfl | (simp_all; done) | grind [= kept_complete, → kept_devRead, = kept_devSeen, = kept_updPort, = kept_updOp])

@[simp] theorem kept_gateTakeover (d l : Nat) (s : State) : kept (Sys2Proof.Machine.gateTakeover d l s) = kept s := by
  first
  | rfl
  | (unfold Sys2Proof.Machine.gateTakeover; first | (simp; done) | (repeat' split) <;> first | rfl | (simp_all; done) | grind [= kept_completeId, = kept_updPort, = kept_reachTime])

theorem kept_execGateTakeover (d l : Nat) (s : State) {tt : State} (h : Sys2Proof.Machine.execGateTakeover d l s = .next tt) : kept tt = kept s := by
  unfold Sys2Proof.Machine.execGateTakeover at h
  cases h
  first
  | rfl
  | (simp; done)
  | (repeat' split) <;> first | rfl | (simp_all; done) | grind [= kept_gateTakeover]

@[simp] theorem kept_gateChange (d l : Nat) (s : State) : kept (Sys2Proof.Machine.gateChange d l s) = kept s := by
  first
  | rfl
  | (unfold Sys2Proof.Machine.gateChange; first | (simp; done) | (repeat' split) <;> first | rfl | (simp_all; done) | grind [= kept_reachTime, = kept_updPort])

theorem kept_execGateEntryChange (d l : Nat) (s : State) {tt : State} (h : Sys2Proof.Machine.execGateEntryChange d l s = .next tt) : kept tt = kept s := by
  unfold Sys2Proof.Machine.execGateEntryChange at h
  cases h
  first
  | rfl
  | (simp; done)
  | (repeat' split) <;> first | rfl | (simp_all; done) | grind [= kept_gateChange]

@[simp] theorem kept_gateAbort (s : State) (id : Nat) : kept (Sys2Proof.Machine.gateAbort s id) = kept s := by
  first
  | rfl
  | (unfold Sys2Proof.Machine.gateAbort; first | (simp; done) | (repeat' split) <;> first | rfl | (simp_all; done) | grind [= kept_completeId])

@[simp] theorem kept_polRateWrite (d l c : Nat) (v : Word32) (s : State) : kept (Sys2Proof.Machine.polRateWrite d l c v s) = kept s := by
  first
  | rfl
  | (unfold Sys2Proof.Machine.polRateWrite; first | (simp; done) | (repeat' split) <;> first | rfl | (simp_all; done) | grind [= kept_writeLocked, = kept_updPort])

theorem kept_execSwPolrateWrite (d l c : Nat) (v : Word32) (s : State) {tt : State} (h : Sys2Proof.Machine.execSwPolrateWrite d l c v s = .next tt) : kept tt = kept s := by
  unfold Sys2Proof.Machine.execSwPolrateWrite at h
  cases h
  first
  | rfl
  | (simp; done)
  | (repeat' split) <;> first | rfl | (simp_all; done) | grind [= kept_polRateWrite]

@[simp] theorem kept_histBaseWrite (d : Nat) (v : Word32) (s : State) : kept (Sys2Proof.Machine.histBaseWrite d v s) = kept s := by
  first
  | rfl
  | (unfold Sys2Proof.Machine.histBaseWrite; first | (simp; done) | (repeat' split) <;> first | rfl | (simp_all; done) | grind [= kept_writeLocked, = kept_postEvent, = kept_updDie])

theorem kept_execSwHistBaseWrite (d : Nat) (v : Word32) (s : State) {tt : State} (h : Sys2Proof.Machine.execSwHistBaseWrite d v s = .next tt) : kept tt = kept s := by
  unfold Sys2Proof.Machine.execSwHistBaseWrite at h
  cases h
  first
  | rfl
  | (simp; done)
  | (repeat' split) <;> first | rfl | (simp_all; done) | grind [= kept_histBaseWrite]

/-! Machine/PmcRegs -/

theorem kept_pmcLow (d off : Nat) (s : State) {a : Nat} {t : State} (h : pmcLow d off s = some (a, t)) : kept t = kept s := by
  unfold pmcLow at h
  revert h
  (repeat' split) <;> intro h <;> first
    | (cases h; done)
    | (obtain ⟨v, _, hv⟩ := Option.map_eq_some_iff.mp h; cases hv; simp)

theorem kept_pmcHigh (d off : Nat) (s : State) {a : Nat} {t : State} (h : pmcHigh d off s = some (a, t)) : kept t = kept s := by
  unfold pmcHigh at h
  revert h
  (repeat' split) <;> intro h <;> first
    | (cases h; done)
    | (obtain ⟨v, _, hv⟩ := Option.map_eq_some_iff.mp h; cases hv; simp)

@[simp] theorem kept_pmcLowRead (d off : Nat) (s : State) : kept (Sys2Proof.Machine.pmcLowRead d off s) = kept s := by
  first
  | rfl
  | (unfold Sys2Proof.Machine.pmcLowRead; first | (simp; done) | (repeat' split) <;> first | rfl | (simp_all; done) | grind [= kept_emit, → kept_pmcLow])

theorem kept_execPmcLowWordRead (d off : Nat) (s : State) {tt : State} (h : Sys2Proof.Machine.execPmcLowWordRead d off s = .next tt) : kept tt = kept s := by
  unfold Sys2Proof.Machine.execPmcLowWordRead at h
  cases h
  first
  | rfl
  | (simp; done)
  | (repeat' split) <;> first | rfl | (simp_all; done) | grind [= kept_pmcLowRead]

@[simp] theorem kept_pmcCounterWrite (d off : Nat) (v : Word32) (s : State) : kept (Sys2Proof.Machine.pmcCounterWrite d off v s) = kept s := by
  first
  | rfl
  | (unfold Sys2Proof.Machine.pmcCounterWrite; first | (simp; done) | (repeat' split) <;> first | rfl | (simp_all; done) | grind [= kept_updCore, = kept_updPort])

theorem kept_execPmcCounterWrite (d off : Nat) (v : Word32) (s : State) {tt : State} (h : Sys2Proof.Machine.execPmcCounterWrite d off v s = .next tt) : kept tt = kept s := by
  unfold Sys2Proof.Machine.execPmcCounterWrite at h
  cases h
  first
  | rfl
  | (simp; done)
  | (repeat' split) <;> first | rfl | (simp_all; done) | grind [= kept_pmcCounterWrite]

@[simp] theorem kept_pwinWrite (d l : Nat) (v : Word32) (s : State) : kept (Sys2Proof.Machine.pwinWrite d l v s) = kept s := by
  first
  | rfl
  | (unfold Sys2Proof.Machine.pwinWrite; first | (simp; done) | (repeat' split) <;> first | rfl | (simp_all; done) | grind [= kept_updDie, = kept_updPort])

theorem kept_execPmcPwinWrite (d l : Nat) (v : Word32) (s : State) {tt : State} (h : Sys2Proof.Machine.execPmcPwinWrite d l v s = .next tt) : kept tt = kept s := by
  unfold Sys2Proof.Machine.execPmcPwinWrite at h
  cases h
  first
  | rfl
  | (simp; done)
  | (repeat' split) <;> first | rfl | (simp_all; done) | grind [= kept_pwinWrite]

@[simp] theorem kept_windowEnd (d l : Nat) (s : State) : kept (Sys2Proof.Machine.windowEnd d l s) = kept s := by
  first
  | rfl
  | (unfold Sys2Proof.Machine.windowEnd; first | (simp; done) | (repeat' split) <;> first | rfl | (simp_all; done) | grind [= kept_reachTime])

theorem kept_execBandwidthWindowEnd (d l : Nat) (s : State) {tt : State} (h : Sys2Proof.Machine.execBandwidthWindowEnd d l s = .next tt) : kept tt = kept s := by
  unfold Sys2Proof.Machine.execBandwidthWindowEnd at h
  cases h
  first
  | rfl
  | (simp; done)
  | (repeat' split) <;> first | rfl | (simp_all; done) | grind [= kept_windowEnd]

@[simp] theorem kept_dropWindows (s : State) : kept (Sys2Proof.Machine.dropWindows s) = kept s := by
  first
  | rfl
  | (unfold Sys2Proof.Machine.dropWindows; first | (simp; done) | (repeat' split) <;> first | rfl | (simp_all; done) | grind)

/-! Machine/Time -/

@[simp] theorem kept_afterValid (was : Bool) (s : State) : kept (Sys2Proof.Machine.afterValid was s) = kept s := by
  first
  | rfl
  | (unfold Sys2Proof.Machine.afterValid; first | (simp; done) | (repeat' split) <;> first | rfl | (simp_all; done) | grind [= kept_disarmAll])

@[simp] theorem kept_stepClocks (s : State) (k : Int) : kept (Sys2Proof.Machine.stepClocks s k) = kept s := by
  first
  | rfl
  | (unfold Sys2Proof.Machine.stepClocks; first | (simp; done) | (repeat' split) <;> first | rfl | (simp_all; done) | grind [= kept_updDie, = kept_timeEvent, = kept_dropWindows])

@[simp] theorem kept_enterAcquire (s : State) (cause : Nat) : kept (Sys2Proof.Machine.enterAcquire s cause) = kept s := by
  first
  | rfl
  | (unfold Sys2Proof.Machine.enterAcquire; first | (simp; done) | (repeat' split) <;> first | rfl | (simp_all; done) | grind [= kept_afterValid, = kept_timeEvent])

@[simp] theorem kept_steer (s : State) (off : Int) : kept (Sys2Proof.Machine.steer s off) = kept s := by
  first
  | rfl
  | (unfold Sys2Proof.Machine.steer; first | (simp; done) | (repeat' split) <;> first | rfl | (simp_all; done) | grind [→ kept_draw, = kept_draw_snd])

@[simp] theorem kept_measure (s : State) (off : Int) : kept (Sys2Proof.Machine.measure s off) = kept s := by
  first
  | rfl
  | (unfold Sys2Proof.Machine.measure; first | (simp; done) | (repeat' split) <;> first | rfl | (simp_all; done) | grind [= kept_stepClocks, = kept_steer, = kept_timeEvent, = kept_enterAcquire])

@[simp] theorem kept_linkSend (s : State) (d l kind rest : Nat) : kept (Sys2Proof.Machine.linkSend s d l kind rest) = kept s := by
  first
  | rfl
  | (unfold Sys2Proof.Machine.linkSend; first | (simp; done) | (repeat' split) <;> first | rfl | (simp_all; done) | grind [= kept_send])

@[simp] theorem kept_syncSend (s : State) : kept (Sys2Proof.Machine.syncSend s) = kept s := by
  first
  | rfl
  | (unfold Sys2Proof.Machine.syncSend; first | (simp; done) | (repeat' split) <;> first | rfl | (simp_all; done) | grind [= kept_linkSend])

theorem kept_execSyncTimeSend (s : State) {tt : State} (h : Sys2Proof.Machine.execSyncTimeSend s = .next tt) : kept tt = kept s := by
  unfold Sys2Proof.Machine.execSyncTimeSend at h
  cases h
  first
  | rfl
  | (simp; done)
  | (repeat' split) <;> first | rfl | (simp_all; done) | grind [= kept_syncSend]

@[simp] theorem kept_delaySend (s : State) : kept (Sys2Proof.Machine.delaySend s) = kept s := by
  first
  | rfl
  | (unfold Sys2Proof.Machine.delaySend; first | (simp; done) | (repeat' split) <;> first | rfl | (simp_all; done) | grind [= kept_linkSend])

theorem kept_execDelayReqSend (s : State) {tt : State} (h : Sys2Proof.Machine.execDelayReqSend s = .next tt) : kept tt = kept s := by
  unfold Sys2Proof.Machine.execDelayReqSend at h
  cases h
  first
  | rfl
  | (simp; done)
  | (repeat' split) <;> first | rfl | (simp_all; done) | grind [= kept_delaySend]

@[simp] theorem kept_delayReqStep (s : State) (d : Nat) (e : Held) : kept (Sys2Proof.Machine.delayReqStep s d e) = kept s := by
  first
  | rfl
  | (unfold Sys2Proof.Machine.delayReqStep; first | (simp; done) | (repeat' split) <;> first | rfl | (simp_all; done) | grind [= kept_linkSend])

theorem kept_execDelayReq (d : Nat) (s : State) {tt : State} (h : Sys2Proof.Machine.execDelayReq d s = .next tt) : kept tt = kept s := by
  unfold Sys2Proof.Machine.execDelayReq at h
  cases h
  first
  | rfl
  | (simp; done)
  | first | ((first | refine kept_onKind _ _ _ _ (fun s e => ?_)) <;> (repeat' split) <;> first | rfl | (simp_all; done) | ((first | refine kept_onKind _ _ _ _ (fun s e => ?_)) <;> (repeat' split) <;> first | rfl | (simp_all; done) | grind [= kept_delayReqStep]) | grind [= kept_delayReqStep]) | ((repeat' split) <;> first | rfl | (simp_all; done) | ((first | refine kept_onKind _ _ _ _ (fun s e => ?_)) <;> (repeat' split) <;> first | rfl | (simp_all; done) | grind [= kept_delayReqStep]) | grind [= kept_delayReqStep])

@[simp] theorem kept_delayRspStep (s : State) (d : Nat) (e : Held) : kept (Sys2Proof.Machine.delayRspStep s d e) = kept s := by
  first
  | rfl
  | (unfold Sys2Proof.Machine.delayRspStep; first | (simp; done) | (repeat' split) <;> first | rfl | (simp_all; done) | grind [= kept_updPort])

theorem kept_execDelayRsp (d : Nat) (s : State) {tt : State} (h : Sys2Proof.Machine.execDelayRsp d s = .next tt) : kept tt = kept s := by
  unfold Sys2Proof.Machine.execDelayRsp at h
  cases h
  first
  | rfl
  | (simp; done)
  | first | ((first | refine kept_onKind _ _ _ _ (fun s e => ?_)) <;> (repeat' split) <;> first | rfl | (simp_all; done) | ((first | refine kept_onKind _ _ _ _ (fun s e => ?_)) <;> (repeat' split) <;> first | rfl | (simp_all; done) | grind [= kept_delayRspStep]) | grind [= kept_delayRspStep]) | ((repeat' split) <;> first | rfl | (simp_all; done) | ((first | refine kept_onKind _ _ _ _ (fun s e => ?_)) <;> (repeat' split) <;> first | rfl | (simp_all; done) | grind [= kept_delayRspStep]) | grind [= kept_delayRspStep])

theorem kept_linkDelay (s : State) (d l : Nat) {zz : Int} {tt : State} (h : Sys2Proof.Machine.linkDelay s d l = (zz, tt)) : kept tt = kept s := by
  unfold Sys2Proof.Machine.linkDelay at h
  revert h
  (repeat' split) <;> intro h <;> first | (cases h; done) | (cases h; rfl) | (cases h; simp_all; done) | grind [→ kept_draw]
@[simp] theorem kept_linkDelay_snd (s : State) (d l : Nat) : kept (Sys2Proof.Machine.linkDelay s d l).2 = kept s := kept_linkDelay s d l rfl

@[simp] theorem kept_syncStep (s : State) (d : Nat) (e : Held) : kept (Sys2Proof.Machine.syncStep s d e) = kept s := by
  first
  | rfl
  | (unfold Sys2Proof.Machine.syncStep; first | (simp; done) | (repeat' split) <;> first | rfl | (simp_all; done) | grind [→ kept_linkDelay, = kept_linkDelay_snd, = kept_measure, = kept_afterValid])

theorem kept_execSyncTime (d : Nat) (s : State) {tt : State} (h : Sys2Proof.Machine.execSyncTime d s = .next tt) : kept tt = kept s := by
  unfold Sys2Proof.Machine.execSyncTime at h
  cases h
  first
  | rfl
  | (simp; done)
  | first | ((first | refine kept_onKind _ _ _ _ (fun s e => ?_)) <;> (repeat' split) <;> first | rfl | (simp_all; done) | ((first | refine kept_onKind _ _ _ _ (fun s e => ?_)) <;> (repeat' split) <;> first | rfl | (simp_all; done) | grind [= kept_syncStep]) | grind [= kept_syncStep]) | ((repeat' split) <;> first | rfl | (simp_all; done) | ((first | refine kept_onKind _ _ _ _ (fun s e => ?_)) <;> (repeat' split) <;> first | rfl | (simp_all; done) | grind [= kept_syncStep]) | grind [= kept_syncStep])

@[simp] theorem kept_measureTimeout (s : State) : kept (Sys2Proof.Machine.measureTimeout s) = kept s := by
  first
  | rfl
  | (unfold Sys2Proof.Machine.measureTimeout; first | (simp; done) | (repeat' split) <;> first | rfl | (simp_all; done) | grind [= kept_afterValid, = kept_timeEvent])

theorem kept_execMeasurementTimeout (s : State) {tt : State} (h : Sys2Proof.Machine.execMeasurementTimeout s = .next tt) : kept tt = kept s := by
  unfold Sys2Proof.Machine.execMeasurementTimeout at h
  cases h
  first
  | rfl
  | (simp; done)
  | (repeat' split) <;> first | rfl | (simp_all; done) | grind [= kept_measureTimeout]

@[simp] theorem kept_holdExpiry (s : State) : kept (Sys2Proof.Machine.holdExpiry s) = kept s := by
  first
  | rfl
  | (unfold Sys2Proof.Machine.holdExpiry; first | (simp; done) | (repeat' split) <;> first | rfl | (simp_all; done) | grind [= kept_enterAcquire])

theorem kept_execHoldSExpiry (s : State) {tt : State} (h : Sys2Proof.Machine.execHoldSExpiry s = .next tt) : kept tt = kept s := by
  unfold Sys2Proof.Machine.execHoldSExpiry at h
  cases h
  first
  | rfl
  | (simp; done)
  | (repeat' split) <;> first | rfl | (simp_all; done) | grind [= kept_holdExpiry]

@[simp] theorem kept_sourceChanged (s : State) : kept (Sys2Proof.Machine.sourceChanged s) = kept s := by
  first
  | rfl
  | (unfold Sys2Proof.Machine.sourceChanged; first | (simp; done) | (repeat' split) <;> first | rfl | (simp_all; done) | grind [= kept_timeEvent])

@[simp] theorem kept_timeCfgWrite (v : Word32) (s : State) : kept (Sys2Proof.Machine.timeCfgWrite v s) = kept s := by
  first
  | rfl
  | (unfold Sys2Proof.Machine.timeCfgWrite; first | (simp; done) | (repeat' split) <;> first | rfl | (simp_all; done) | grind [= kept_writeLocked, = kept_afterValid, = kept_sourceChanged])

theorem kept_execTimeCfgSrcWrite (v : Word32) (s : State) {tt : State} (h : Sys2Proof.Machine.execTimeCfgSrcWrite v s = .next tt) : kept tt = kept s := by
  unfold Sys2Proof.Machine.execTimeCfgSrcWrite at h
  cases h
  first
  | rfl
  | (simp; done)
  | (repeat' split) <;> first | rfl | (simp_all; done) | grind [= kept_timeCfgWrite]

theorem kept_nowLow (d : Nat) (s : State) {zz : Nat} {tt : State} (h : Sys2Proof.Machine.nowLow d s = (zz, tt)) : kept tt = kept s := by
  unfold Sys2Proof.Machine.nowLow at h
  revert h
  (repeat' split) <;> intro h <;> first | (cases h; done) | (cases h; rfl) | (cases h; simp_all; done) | grind [= kept_updDie]
@[simp] theorem kept_nowLow_snd (d : Nat) (s : State) : kept (Sys2Proof.Machine.nowLow d s).2 = kept s := kept_nowLow d s rfl

theorem kept_nowHigh (d : Nat) (s : State) {zz : Nat} {tt : State} (h : Sys2Proof.Machine.nowHigh d s = (zz, tt)) : kept tt = kept s := by
  unfold Sys2Proof.Machine.nowHigh at h
  revert h
  (repeat' split) <;> intro h <;> first | (cases h; done) | (cases h; rfl) | (cases h; simp_all; done) | grind [= kept_updDie]
@[simp] theorem kept_nowHigh_snd (d : Nat) (s : State) : kept (Sys2Proof.Machine.nowHigh d s).2 = kept s := kept_nowHigh d s rfl

@[simp] theorem kept_timeNowRead (d : Nat) (s : State) : kept (Sys2Proof.Machine.timeNowRead d s) = kept s := by
  first
  | rfl
  | (unfold Sys2Proof.Machine.timeNowRead; first | (simp; done) | (repeat' split) <;> first | rfl | (simp_all; done) | grind [= kept_emit, → kept_nowLow, = kept_nowLow_snd])

theorem kept_execTimeNowRead (d : Nat) (s : State) {tt : State} (h : Sys2Proof.Machine.execTimeNowRead d s = .next tt) : kept tt = kept s := by
  unfold Sys2Proof.Machine.execTimeNowRead at h
  cases h
  first
  | rfl
  | (simp; done)
  | (repeat' split) <;> first | rfl | (simp_all; done) | grind [= kept_timeNowRead]

@[simp] theorem kept_dlogWrite (v : Word32) (s : State) : kept (Sys2Proof.Machine.dlogWrite v s) = kept s := by
  first
  | rfl
  | (unfold Sys2Proof.Machine.dlogWrite; first | (simp; done) | (repeat' split) <;> first | rfl | (simp_all; done) | grind [= kept_writeLocked, = kept_timeEvent])

theorem kept_execTimeDlogWrite (v : Word32) (s : State) {tt : State} (h : Sys2Proof.Machine.execTimeDlogWrite v s = .next tt) : kept tt = kept s := by
  unfold Sys2Proof.Machine.execTimeDlogWrite at h
  cases h
  first
  | rfl
  | (simp; done)
  | (repeat' split) <;> first | rfl | (simp_all; done) | grind [= kept_dlogWrite]

/-! Machine/Ptp -/

@[simp] theorem kept_ptpSend (s : State) (type len corr seq : Nat) (body : List Byte) : kept (Sys2Proof.Machine.ptpSend s type len corr seq body) = kept s := by
  first
  | rfl
  | (unfold Sys2Proof.Machine.ptpSend; first | (simp; done) | (repeat' split) <;> first | rfl | (simp_all; done) | grind [= kept_emit])

@[simp] theorem kept_setPtp (s : State) (p : Ptp) : kept (Sys2Proof.Machine.setPtp s p) = kept s := by
  first
  | rfl
  | (unfold Sys2Proof.Machine.setPtp; first | (simp; done) | (repeat' split) <;> first | rfl | (simp_all; done) | grind)

@[simp] theorem kept_ptpAnnounce (s : State) (m : List Byte) : kept (Sys2Proof.Machine.ptpAnnounce s m) = kept s := by
  first
  | rfl
  | (unfold Sys2Proof.Machine.ptpAnnounce; first | (simp; done) | (repeat' split) <;> first | rfl | (simp_all; done) | grind [= kept_setPtp])

@[simp] theorem kept_ptpAsk (s : State) : kept (Sys2Proof.Machine.ptpAsk s) = kept s := by
  first
  | rfl
  | (unfold Sys2Proof.Machine.ptpAsk; first | (simp; done) | (repeat' split) <;> first | rfl | (simp_all; done) | grind [= kept_ptpSend, = kept_setPtp])

@[simp] theorem kept_ptpSynced (s : State) (t1 t2 corr : Int) : kept (Sys2Proof.Machine.ptpSynced s t1 t2 corr) = kept s := by
  first
  | rfl
  | (unfold Sys2Proof.Machine.ptpSynced; first | (simp; done) | (repeat' split) <;> first | rfl | (simp_all; done) | grind [= kept_measure, = kept_ptpAsk, = kept_setPtp])

@[simp] theorem kept_ptpSync (s : State) (m : List Byte) : kept (Sys2Proof.Machine.ptpSync s m) = kept s := by
  first
  | rfl
  | (unfold Sys2Proof.Machine.ptpSync; first | (simp; done) | (repeat' split) <;> first | rfl | (simp_all; done) | grind [= kept_setPtp, = kept_ptpSynced])

@[simp] theorem kept_ptpFollow (s : State) (m : List Byte) : kept (Sys2Proof.Machine.ptpFollow s m) = kept s := by
  first
  | rfl
  | (unfold Sys2Proof.Machine.ptpFollow; first | (simp; done) | (repeat' split) <;> first | rfl | (simp_all; done) | grind [= kept_ptpSynced])

@[simp] theorem kept_ptpDelayRsp (s : State) (m : List Byte) : kept (Sys2Proof.Machine.ptpDelayRsp s m) = kept s := by
  first
  | rfl
  | (unfold Sys2Proof.Machine.ptpDelayRsp; first | (simp; done) | (repeat' split) <;> first | rfl | (simp_all; done) | grind [= kept_setPtp])

@[simp] theorem kept_ptpPeerReq (s : State) (m : List Byte) : kept (Sys2Proof.Machine.ptpPeerReq s m) = kept s := by
  first
  | rfl
  | (unfold Sys2Proof.Machine.ptpPeerReq; first | (simp; done) | (repeat' split) <;> first | rfl | (simp_all; done) | grind [= kept_ptpSend])

@[simp] theorem kept_ptpPeerRsp (s : State) (m : List Byte) : kept (Sys2Proof.Machine.ptpPeerRsp s m) = kept s := by
  first
  | rfl
  | (unfold Sys2Proof.Machine.ptpPeerRsp; first | (simp; done) | (repeat' split) <;> first | rfl | (simp_all; done) | grind [= kept_setPtp])

@[simp] theorem kept_ptpPeerFollow (s : State) (m : List Byte) : kept (Sys2Proof.Machine.ptpPeerFollow s m) = kept s := by
  first
  | rfl
  | (unfold Sys2Proof.Machine.ptpPeerFollow; first | (simp; done) | (repeat' split) <;> first | rfl | (simp_all; done) | grind [= kept_setPtp])

@[simp] theorem kept_ptpStep (s : State) (m : List Byte) : kept (Sys2Proof.Machine.ptpStep s m) = kept s := by
  first
  | rfl
  | (unfold Sys2Proof.Machine.ptpStep; first | (simp; done) | (repeat' split) <;> first | rfl | (simp_all; done) | grind [= kept_ptpSync, = kept_ptpPeerReq, = kept_ptpPeerRsp, = kept_ptpFollow, = kept_ptpDelayRsp, = kept_ptpPeerFollow, = kept_ptpAnnounce])

@[simp] theorem kept_ptpMessage (transport : Nat) (msg : List Byte) (s : State) : kept (Sys2Proof.Machine.ptpMessage transport msg s) = kept s := by
  first
  | rfl
  | (unfold Sys2Proof.Machine.ptpMessage; first | (simp; done) | (repeat' split) <;> first | rfl | (simp_all; done) | grind [= kept_ptpStep, = kept_setPtp])

theorem kept_execPtpMessage (transport : Nat) (msg : List Byte) (s : State) {tt : State} (h : Sys2Proof.Machine.execPtpMessage transport msg s = .next tt) : kept tt = kept s := by
  unfold Sys2Proof.Machine.execPtpMessage at h
  cases h
  first
  | rfl
  | (simp; done)
  | (repeat' split) <;> first | rfl | (simp_all; done) | grind [= kept_ptpMessage]

end Sys2Proof.Laws
end

