-- ==== Sys2Proof/Laws/KeptHost.lean ====
section
/-! SUPPORT. `kept` and power, test access, start-up, firmware, rings, registers, descriptors and the clock tick: each operation leaves the variant, the queue, the anti-rollback counter and the identity data alone. -/

namespace Sys2Proof.Laws

open Sys2Proof.Machine

set_option linter.unusedTactic false
set_option linter.unreachableTactic false
set_option linter.unnecessarySeqFocus false

/-! Machine/Power -/

@[simp] theorem kept_railOut (rail : Nat) (s : State) : kept (Sys2Proof.Machine.railOut rail s) = kept s := by
  first
  | rfl
  | (unfold Sys2Proof.Machine.railOut; first | (simp; done) | (repeat' split) <;> first | rfl | (simp_all; done) | grind [= kept_packageFault])

theorem kept_execRailOutOfRange (rail : Nat) (s : State) {tt : State} (h : Sys2Proof.Machine.execRailOutOfRange rail s = .next tt) : kept tt = kept s := by
  unfold Sys2Proof.Machine.execRailOutOfRange at h
  cases h
  first
  | rfl
  | (simp; done)
  | (repeat' split) <;> first | rfl | (simp_all; done) | grind [= kept_railOut]

theorem kept_execRef25Absent (s : State) {tt : State} (h : Sys2Proof.Machine.execRef25Absent s = .next tt) : kept tt = kept s := by
  unfold Sys2Proof.Machine.execRef25Absent at h
  cases h
  first
  | rfl
  | (simp; done)
  | (repeat' split) <;> first | rfl | (simp_all; done) | grind [= kept_packageFault]

@[simp] theorem kept_avsStep (d : Nat) (rise ack : Bool) (s : State) : kept (Sys2Proof.Machine.avsStep d rise ack s) = kept s := by
  first
  | rfl
  | (unfold Sys2Proof.Machine.avsStep; first | (simp; done) | (repeat' split) <;> first | rfl | (simp_all; done) | grind [= kept_setDie])

theorem kept_execAvsSetpointStep (d : Nat) (rise ack : Bool) (s : State) {tt : State} (h : Sys2Proof.Machine.execAvsSetpointStep d rise ack s = .next tt) : kept tt = kept s := by
  unfold Sys2Proof.Machine.execAvsSetpointStep at h
  cases h
  first
  | rfl
  | (simp; done)
  | (repeat' split) <;> first | rfl | (simp_all; done) | grind [= kept_avsStep]

@[simp] theorem kept_capStep (watts : Nat) (s : State) : kept (Sys2Proof.Machine.capStep watts s) = kept s := by
  first
  | rfl
  | (unfold Sys2Proof.Machine.capStep; first | (simp; done) | (repeat' split) <;> first | rfl | (simp_all; done) | grind)

theorem kept_execPowerCapStep (watts : Nat) (s : State) {tt : State} (h : Sys2Proof.Machine.execPowerCapStep watts s = .next tt) : kept tt = kept s := by
  unfold Sys2Proof.Machine.execPowerCapStep at h
  cases h
  first
  | rfl
  | (simp; done)
  | (repeat' split) <;> first | rfl | (simp_all; done) | grind [= kept_capStep]

@[simp] theorem kept_tjSample (d tj : Nat) (s : State) : kept (tjSample d tj s) = kept s := by
  unfold tjSample
  extract_lets x may move duty hot s1
  have h1 : kept s1 = kept s := by simp [s1]
  (repeat' split) <;> simp [h1]

theorem kept_execJunctionTemperatureSample (d tj : Nat) (s : State) {tt : State} (h : Sys2Proof.Machine.execJunctionTemperatureSample d tj s = .next tt) : kept tt = kept s := by
  unfold Sys2Proof.Machine.execJunctionTemperatureSample at h
  cases h
  first
  | rfl
  | (simp; done)
  | (repeat' split) <;> first | rfl | (simp_all; done) | grind [= kept_tjSample]

theorem kept_execThrotNChange (low : Bool) (s : State) {tt : State} (h : Sys2Proof.Machine.execThrotNChange low s = .next tt) : kept tt = kept s := by
  unfold Sys2Proof.Machine.execThrotNChange at h
  cases h
  first
  | rfl
  | (simp; done)
  | (repeat' split) <;> first | rfl | (simp_all; done) | grind

@[simp] theorem kept_coreSleep (d c : Nat) (s : State) : kept (Sys2Proof.Machine.coreSleep d c s) = kept s := by
  first
  | rfl
  | (unfold Sys2Proof.Machine.coreSleep; first | (simp; done) | (repeat' split) <;> first | rfl | (simp_all; done) | grind [= kept_setCore])

theorem kept_execCoreIdleSleep (d c : Nat) (s : State) {tt : State} (h : Sys2Proof.Machine.execCoreIdleSleep d c s = .next tt) : kept tt = kept s := by
  unfold Sys2Proof.Machine.execCoreIdleSleep at h
  cases h
  first
  | rfl
  | (simp; done)
  | (repeat' split) <;> first | rfl | (simp_all; done) | grind [= kept_coreSleep]

@[simp] theorem kept_engineSleep (d u : Nat) (s : State) : kept (Sys2Proof.Machine.engineSleep d u s) = kept s := by
  first
  | rfl
  | (unfold Sys2Proof.Machine.engineSleep; first | (simp; done) | (repeat' split) <;> first | rfl | (simp_all; done) | grind [= kept_setDie])

theorem kept_execEngineIdleSleep (d u : Nat) (s : State) {tt : State} (h : Sys2Proof.Machine.execEngineIdleSleep d u s = .next tt) : kept tt = kept s := by
  unfold Sys2Proof.Machine.execEngineIdleSleep at h
  cases h
  first
  | rfl
  | (simp; done)
  | (repeat' split) <;> first | rfl | (simp_all; done) | grind [= kept_engineSleep]

@[simp] theorem kept_wakeEnWrite (s : State) (wake : Bool) : kept (Sys2Proof.Machine.wakeEnWrite s wake) = kept s := by
  first
  | rfl
  | (unfold Sys2Proof.Machine.wakeEnWrite; first | (simp; done) | (repeat' split) <;> first | rfl | (simp_all; done) | grind [= kept_postEvent, = kept_updDie, = kept_wake])

@[simp] theorem kept_setTarget (s : State) (t : Nat) : kept (Sys2Proof.Machine.setTarget s t) = kept s := by
  first
  | rfl
  | (unfold Sys2Proof.Machine.setTarget; first | (simp; done) | (repeat' split) <;> first | rfl | (simp_all; done) | grind [= kept_updDie])

@[simp] theorem kept_ctlStandby (woken : Bool) (s : State) : kept (Sys2Proof.Machine.ctlStandby woken s) = kept s := by
  first
  | rfl
  | (unfold Sys2Proof.Machine.ctlStandby; first | (simp; done) | (repeat' split) <;> first | rfl | (simp_all; done) | grind [= kept_wakeEnWrite, = kept_setTarget])

theorem kept_execPwrCtlStandby (woken : Bool) (s : State) {tt : State} (h : Sys2Proof.Machine.execPwrCtlStandby woken s = .next tt) : kept tt = kept s := by
  unfold Sys2Proof.Machine.execPwrCtlStandby at h
  cases h
  first
  | rfl
  | (simp; done)
  | (repeat' split) <;> first | rfl | (simp_all; done) | grind [= kept_ctlStandby]

@[simp] theorem kept_octetEmpty (s : State) (d o : Nat) : kept (Sys2Proof.Machine.octetEmpty s d o) = kept s := by
  first
  | rfl
  | (unfold Sys2Proof.Machine.octetEmpty; first | (simp; done) | (repeat' split) <;> first | rfl | (simp_all; done) | grind [= kept_stopLanes, = kept_portLeave, = kept_setPortSt, = kept_updPort])

@[simp] theorem kept_octetsEmpty (s : State) : kept (Sys2Proof.Machine.octetsEmpty s) = kept s := by
  first
  | rfl
  | (unfold Sys2Proof.Machine.octetsEmpty; first | (simp; done) | (repeat' split) <;> first | rfl | (simp_all; done) | grind [= kept_octetEmpty])

@[simp] theorem kept_standbyDone (s : State) : kept (Sys2Proof.Machine.standbyDone s) = kept s := by
  first
  | rfl
  | (unfold Sys2Proof.Machine.standbyDone; first | (simp; done) | (repeat' split) <;> first | rfl | (simp_all; done) | grind [= kept_octetsEmpty, = kept_updDie])

theorem kept_execStandbyEntryComplete (s : State) {tt : State} (h : Sys2Proof.Machine.execStandbyEntryComplete s = .next tt) : kept tt = kept s := by
  unfold Sys2Proof.Machine.execStandbyEntryComplete at h
  cases h
  first
  | rfl
  | (simp; done)
  | (repeat' split) <;> first | rfl | (simp_all; done) | grind [= kept_standbyDone]

@[simp] theorem kept_leaveStandby (s : State) : kept (Sys2Proof.Machine.leaveStandby s) = kept s := by
  first
  | rfl
  | (unfold Sys2Proof.Machine.leaveStandby; first | (simp; done) | (repeat' split) <;> first | rfl | (simp_all; done) | grind)

@[simp] theorem kept_ctlReady (woken : Bool) (s : State) : kept (Sys2Proof.Machine.ctlReady woken s) = kept s := by
  first
  | rfl
  | (unfold Sys2Proof.Machine.ctlReady; first | (simp; done) | (repeat' split) <;> first | rfl | (simp_all; done) | grind [= kept_leaveStandby, = kept_setTarget, = kept_wakeEnWrite])

theorem kept_execPwrCtlReady (woken : Bool) (s : State) {tt : State} (h : Sys2Proof.Machine.execPwrCtlReady woken s = .next tt) : kept tt = kept s := by
  unfold Sys2Proof.Machine.execPwrCtlReady at h
  cases h
  first
  | rfl
  | (simp; done)
  | (repeat' split) <;> first | rfl | (simp_all; done) | grind [= kept_ctlReady]

@[simp] theorem kept_wakeN (s : State) : kept (Sys2Proof.Machine.wakeN s) = kept s := by
  first
  | rfl
  | (unfold Sys2Proof.Machine.wakeN; first | (simp; done) | (repeat' split) <;> first | rfl | (simp_all; done) | grind [= kept_leaveStandby])

theorem kept_execWakeNAssert (s : State) {tt : State} (h : Sys2Proof.Machine.execWakeNAssert s = .next tt) : kept tt = kept s := by
  unfold Sys2Proof.Machine.execWakeNAssert at h
  cases h
  first
  | rfl
  | (simp; done)
  | (repeat' split) <;> first | rfl | (simp_all; done) | grind [= kept_wakeN]

@[simp] theorem kept_railsIn (s : State) : kept (Sys2Proof.Machine.railsIn s) = kept s := by
  first
  | rfl
  | (unfold Sys2Proof.Machine.railsIn; first | (simp; done) | (repeat' split) <;> first | rfl | (simp_all; done) | grind [= kept_octetsEmpty, = kept_updDie])

theorem kept_execCoreRailsInRange (s : State) {tt : State} (h : Sys2Proof.Machine.execCoreRailsInRange s = .next tt) : kept tt = kept s := by
  unfold Sys2Proof.Machine.execCoreRailsInRange at h
  cases h
  first
  | rfl
  | (simp; done)
  | (repeat' split) <;> first | rfl | (simp_all; done) | grind [= kept_railsIn]

@[simp] theorem kept_packageReset (s : State) : kept (Sys2Proof.Machine.packageReset s) = kept s := by
  first
  | rfl
  | (unfold Sys2Proof.Machine.packageReset; first | (simp; done) | (repeat' split) <;> first | rfl | (simp_all; done) | grind)

@[simp] theorem kept_resetRelease (s : State) (low : Bool) (wait : Power → Power) : kept (Sys2Proof.Machine.resetRelease s low wait) = kept s := by
  first
  | rfl
  | (unfold Sys2Proof.Machine.resetRelease; first | (simp; done) | (repeat' split) <;> first | rfl | (simp_all; done) | grind [= kept_packageReset])

@[simp] theorem kept_porstRelease (low : Bool) (s : State) : kept (Sys2Proof.Machine.porstRelease low s) = kept s := by
  first
  | rfl
  | (unfold Sys2Proof.Machine.porstRelease; first | (simp; done) | (repeat' split) <;> first | rfl | (simp_all; done) | grind [= kept_resetRelease])

theorem kept_execPorstNRelease (low : Bool) (s : State) {tt : State} (h : Sys2Proof.Machine.execPorstNRelease low s = .next tt) : kept tt = kept s := by
  unfold Sys2Proof.Machine.execPorstNRelease at h
  cases h
  first
  | rfl
  | (simp; done)
  | (repeat' split) <;> first | rfl | (simp_all; done) | grind [= kept_porstRelease]

@[simp] theorem kept_sysrstRelease (low : Bool) (s : State) : kept (Sys2Proof.Machine.sysrstRelease low s) = kept s := by
  first
  | rfl
  | (unfold Sys2Proof.Machine.sysrstRelease; first | (simp; done) | (repeat' split) <;> first | rfl | (simp_all; done) | grind [= kept_resetRelease])

theorem kept_execSysrstNRelease (low : Bool) (s : State) {tt : State} (h : Sys2Proof.Machine.execSysrstNRelease low s = .next tt) : kept tt = kept s := by
  unfold Sys2Proof.Machine.execSysrstNRelease at h
  cases h
  first
  | rfl
  | (simp; done)
  | (repeat' split) <;> first | rfl | (simp_all; done) | grind [= kept_sysrstRelease]

@[simp] theorem kept_powerOff (s : State) : kept (Sys2Proof.Machine.powerOff s) = kept s := by
  first
  | rfl
  | (unfold Sys2Proof.Machine.powerOff; first | (simp; done) | (repeat' split) <;> first | rfl | (simp_all; done) | grind)

theorem kept_execPowerOff (s : State) {tt : State} (h : Sys2Proof.Machine.execPowerOff s = .next tt) : kept tt = kept s := by
  unfold Sys2Proof.Machine.execPowerOff at h
  cases h
  first
  | rfl
  | (simp; done)
  | (repeat' split) <;> first | rfl | (simp_all; done) | grind [= kept_powerOff]

@[simp] theorem kept_powerUp (s : State) : kept (Sys2Proof.Machine.powerUp s) = kept s := by
  first
  | rfl
  | (unfold Sys2Proof.Machine.powerUp; first | (simp; done) | (repeat' split) <;> first | rfl | (simp_all; done) | grind)

theorem kept_execPowerUp (s : State) {tt : State} (h : Sys2Proof.Machine.execPowerUp s = .next tt) : kept tt = kept s := by
  unfold Sys2Proof.Machine.execPowerUp at h
  cases h
  first
  | rfl
  | (simp; done)
  | (repeat' split) <;> first | rfl | (simp_all; done) | grind [= kept_powerUp]

/-! Machine/TestAccess -/

@[simp] theorem kept_inputsLow (s : State) (low : Nat) : kept (Sys2Proof.Machine.inputsLow s low) = kept s := by
  first
  | rfl
  | (unfold Sys2Proof.Machine.inputsLow; first | (simp; done) | (repeat' split) <;> first | rfl | (simp_all; done) | grind)

@[simp] theorem kept_loadIr (s : State) (ir : Nat) : kept (Sys2Proof.Machine.loadIr s ir) = kept s := by
  first
  | rfl
  | (unfold Sys2Proof.Machine.loadIr; first | (simp; done) | (repeat' split) <;> first | rfl | (simp_all; done) | grind)

@[simp] theorem kept_scanCells (s : State) (pins v : Nat) : kept (Sys2Proof.Machine.scanCells s pins v) = kept s := by
  first
  | rfl
  | (unfold Sys2Proof.Machine.scanCells; first | (simp; done) | (repeat' split) <;> first | rfl | (simp_all; done) | grind [= kept_emit])

theorem kept_execTestLogicReset (s : State) {tt : State} (h : Sys2Proof.Machine.execTestLogicReset s = .next tt) : kept tt = kept s := by
  unfold Sys2Proof.Machine.execTestLogicReset at h
  cases h
  first
  | rfl
  | (simp; done)
  | (repeat' split) <;> first | rfl | (simp_all; done) | grind [= kept_loadIr]

theorem kept_execIdcode (s : State) {tt : State} (h : Sys2Proof.Machine.execIdcode s = .next tt) : kept tt = kept s := by
  unfold Sys2Proof.Machine.execIdcode at h
  cases h
  first
  | rfl
  | (simp; done)
  | (repeat' split) <;> first | rfl | (simp_all; done) | grind [= kept_emit, = kept_loadIr]

theorem kept_execSamplePreload (pins v : Nat) (s : State) {tt : State} (h : Sys2Proof.Machine.execSamplePreload pins v s = .next tt) : kept tt = kept s := by
  unfold Sys2Proof.Machine.execSamplePreload at h
  cases h
  first
  | rfl
  | (simp; done)
  | (repeat' split) <;> first | rfl | (simp_all; done) | grind [= kept_loadIr, = kept_scanCells]

@[simp] theorem kept_loadHeld (s : State) (ir : Nat) : kept (Sys2Proof.Machine.loadHeld s ir) = kept s := by
  first
  | rfl
  | (unfold Sys2Proof.Machine.loadHeld; first | (simp; done) | (repeat' split) <;> first | rfl | (simp_all; done) | grind [= kept_loadIr])

@[simp] theorem kept_boundaryTest (ir pins v low : Nat) (s0 : State) : kept (Sys2Proof.Machine.boundaryTest ir pins v low s0) = kept s0 := by
  first
  | rfl
  | (unfold Sys2Proof.Machine.boundaryTest; first | (simp; done) | (repeat' split) <;> first | rfl | (simp_all; done) | grind [= kept_inputsLow, = kept_scanCells, = kept_loadHeld])

theorem kept_execExtest (pins v low : Nat) (s : State) {tt : State} (h : Sys2Proof.Machine.execExtest pins v low s = .next tt) : kept tt = kept s := by
  unfold Sys2Proof.Machine.execExtest at h
  cases h
  first
  | rfl
  | (simp; done)
  | (repeat' split) <;> first | rfl | (simp_all; done) | grind [= kept_boundaryTest]

theorem kept_execExtestPulse (pins v low : Nat) (s : State) {tt : State} (h : Sys2Proof.Machine.execExtestPulse pins v low s = .next tt) : kept tt = kept s := by
  unfold Sys2Proof.Machine.execExtestPulse at h
  cases h
  first
  | rfl
  | (simp; done)
  | (repeat' split) <;> first | rfl | (simp_all; done) | grind [= kept_boundaryTest]

theorem kept_execExtestTrain (pins v low : Nat) (s : State) {tt : State} (h : Sys2Proof.Machine.execExtestTrain pins v low s = .next tt) : kept tt = kept s := by
  unfold Sys2Proof.Machine.execExtestTrain at h
  cases h
  first
  | rfl
  | (simp; done)
  | (repeat' split) <;> first | rfl | (simp_all; done) | grind [= kept_boundaryTest]

theorem kept_execHighz (low : Nat) (s : State) {tt : State} (h : Sys2Proof.Machine.execHighz low s = .next tt) : kept tt = kept s := by
  unfold Sys2Proof.Machine.execHighz at h
  cases h
  first
  | rfl
  | (simp; done)
  | (repeat' split) <;> first | rfl | (simp_all; done) | grind [= kept_loadIr]

theorem kept_execClamp (low : Nat) (s : State) {tt : State} (h : Sys2Proof.Machine.execClamp low s = .next tt) : kept tt = kept s := by
  unfold Sys2Proof.Machine.execClamp at h
  cases h
  first
  | rfl
  | (simp; done)
  | (repeat' split) <;> first | rfl | (simp_all; done) | grind [= kept_loadIr]

theorem kept_execBypass (code : Nat) (s : State) {tt : State} (h : Sys2Proof.Machine.execBypass code s = .next tt) : kept tt = kept s := by
  unfold Sys2Proof.Machine.execBypass at h
  cases h
  first
  | rfl
  | (simp; done)
  | (repeat' split) <;> first | rfl | (simp_all; done) | grind [= kept_loadIr]

/-! Machine/Boot -/

@[simp] theorem kept_recordAfter (s : State) (d : Nat) : kept (recordAfter s d) = kept s := by
  unfold recordAfter
  refine (kept_foldUpto _ _ (fun s b => ?_) _).trans (by simp)
  dsimp only
  split <;> simp

@[simp] theorem kept_applyRecord (s : State) : kept (Sys2Proof.Machine.applyRecord s) = kept s := by
  first
  | rfl
  | (unfold Sys2Proof.Machine.applyRecord; first | (simp; done) | (repeat' split) <;> first | rfl | (simp_all; done) | grind [= kept_updDie, = kept_recordAfter])

@[simp] theorem kept_firmwareVerify (ids bad : List Nat) (stA stB : Nat) (s : State) :
    kept (firmwareVerify ids bad stA stB s) = kept s := by
  unfold firmwareVerify
  extract_lets seed all have'
  split
  · rfl
  · split
    · simp
    · simp

theorem kept_execFirmwareVerify (ids bad : List Nat) (stA stB : Nat) (s : State) {tt : State} (h : Sys2Proof.Machine.execFirmwareVerify ids bad stA stB s = .next tt) : kept tt = kept s := by
  unfold Sys2Proof.Machine.execFirmwareVerify at h
  cases h
  first
  | rfl
  | (simp; done)
  | (repeat' split) <;> first | rfl | (simp_all; done) | grind [= kept_firmwareVerify]

@[simp] theorem kept_bootEvents (s : State) : kept (Sys2Proof.Machine.bootEvents s) = kept s := by
  first
  | rfl
  | (unfold Sys2Proof.Machine.bootEvents; first | (simp; done) | (repeat' split) <;> first | rfl | (simp_all; done) | grind [= kept_postEvent])

@[simp] theorem kept_bootFinding (d : Nat) (s : State) (f : BootFind) : kept (Sys2Proof.Machine.bootFinding d s f) = kept s := by
  first
  | rfl
  | (unfold Sys2Proof.Machine.bootFinding; first | (simp; done) | (repeat' split) <;> first | rfl | (simp_all; done) | grind [= kept_failGndRow, = kept_failBufRow, → kept_failMemRow, = kept_failMemRow_snd, → kept_failColumn, = kept_failColumn_snd, → kept_substitute, = kept_substitute_snd, = kept_engineStruck, = kept_pipeStruck, = kept_moverStruck, = kept_dieFault])

@[simp] theorem kept_checksComplete (d : Nat) (found : List BootFind) (s : State) : kept (Sys2Proof.Machine.checksComplete d found s) = kept s := by
  first
  | rfl
  | (unfold Sys2Proof.Machine.checksComplete; first | (simp; done) | (repeat' split) <;> first | rfl | (simp_all; done) | grind [= kept_bootFinding, = kept_updDie])

theorem kept_execBootChecksComplete (d : Nat) (found : List BootFind) (s : State) {tt : State} (h : Sys2Proof.Machine.execBootChecksComplete d found s = .next tt) : kept tt = kept s := by
  unfold Sys2Proof.Machine.execBootChecksComplete at h
  cases h
  first
  | rfl
  | (simp; done)
  | (repeat' split) <;> first | rfl | (simp_all; done) | grind [= kept_checksComplete]

@[simp] theorem kept_zeroFilled (d : Nat) (s : State) : kept (Sys2Proof.Machine.zeroFilled d s) = kept s := by
  first
  | rfl
  | (unfold Sys2Proof.Machine.zeroFilled; first | (simp; done) | (repeat' split) <;> first | rfl | (simp_all; done) | grind [= kept_updDie])

theorem kept_execStackZeroFillComplete (d : Nat) (s : State) {tt : State} (h : Sys2Proof.Machine.execStackZeroFillComplete d s = .next tt) : kept tt = kept s := by
  unfold Sys2Proof.Machine.execStackZeroFillComplete at h
  cases h
  first
  | rfl
  | (simp; done)
  | (repeat' split) <;> first | rfl | (simp_all; done) | grind [= kept_zeroFilled]

@[simp] theorem kept_lanesStart (s : State) (d : Nat) : kept (Sys2Proof.Machine.lanesStart s d) = kept s := by
  first
  | rfl
  | (unfold Sys2Proof.Machine.lanesStart; first | (simp; done) | (repeat' split) <;> first | rfl | (simp_all; done) | grind [= kept_updDie])

@[simp] theorem kept_bootComplete (width0 width1 : Nat) (s : State) : kept (Sys2Proof.Machine.bootComplete width0 width1 s) = kept s := by
  first
  | rfl
  | (unfold Sys2Proof.Machine.bootComplete; first | (simp; done) | (repeat' split) <;> first | rfl | (simp_all; done) | grind [= kept_packageFault, = kept_lanesStart, = kept_updDie])

theorem kept_execBootComplete (width0 width1 : Nat) (s : State) {tt : State} (h : Sys2Proof.Machine.execBootComplete width0 width1 s = .next tt) : kept tt = kept s := by
  unfold Sys2Proof.Machine.execBootComplete at h
  cases h
  first
  | rfl
  | (simp; done)
  | (repeat' split) <;> first | rfl | (simp_all; done) | grind [= kept_bootComplete]

/-! Machine/Views -/

theorem kept_dieRegRead_snd (d off : Nat) (s : State) : kept (dieRegRead d off s).2 = kept s := by
  unfold dieRegRead
  by_cases h1 : (!linkReaches s d) = true
  · rw [if_pos h1]
  · rw [if_neg h1]
    by_cases h2 : off = oTIME + 8
    · rw [if_pos h2, kept_nowLow_snd]
    · rw [if_neg h2]
      by_cases h3 : off = oTIME + 0xC
      · rw [if_pos h3, kept_nowHigh_snd]
      · rw [if_neg h3]
        by_cases h4 : off / 0x10000 = 0xD
        · rw [if_pos h4]
          cases h5 : pmcLow d (off - oPMC) s with
          | some r => exact kept_pmcLow _ _ _ h5
          | none =>
            cases h6 : pmcHigh d (off - oPMC) s with
            | some r => exact kept_pmcHigh _ _ _ h6
            | none => rfl
        · rw [if_neg h4]

theorem kept_dieRegRead (d off : Nat) (s : State) {a : Nat} {t : State} (h : dieRegRead d off s = (a, t)) : kept t = kept s := by
  rw [← kept_dieRegRead_snd d off s, h]

/-! Machine/Firmware -/

@[simp] theorem kept_stageEnd (s : State) (o : Op) (slot : Nat) (ext : List Host.Cell) : kept (stageEnd s o slot ext).2.2 = kept s := by
  unfold stageEnd
  extract_lets len a
  split
  · rfl
  · cases hd : devRead s (linkDie s) a len ext with
    | error e => exact (kept_devSeen _ _ _ _).trans (kept_setSlot _ _ _)
    | ok p =>
      have h1 : kept p.2 = kept s := kept_devRead _ _ _ _ _ hd
      dsimp only
      split <;> exact (kept_setSlot _ _ _).trans h1

theorem kept_selectEnd (s : State) (slot : Nat) {zz : Status} {tt : State} (h : Sys2Proof.Machine.selectEnd s slot = (zz, tt)) : kept tt = kept s := by
  unfold Sys2Proof.Machine.selectEnd at h
  revert h
  (repeat' split) <;> intro h <;> first | (cases h; done) | (cases h; rfl) | (cases h; simp_all; done) | grind []
@[simp] theorem kept_selectEnd_snd (s : State) (slot : Nat) : kept (Sys2Proof.Machine.selectEnd s slot).2 = kept s := kept_selectEnd s slot rfl

/-- R480: COMMIT_SVN raises the anti-rollback counter or leaves it, and changes nothing else of `kept`. -/
theorem kept_commitSvn (s : State) : ∃ n, s.keep.arb ≤ n ∧ kept (commitSvn s).2 = (s.variant, s.pending, n, s.keep.ident) := by
  unfold commitSvn
  by_cases h : 255 < max s.keep.arb s.boot.svn
  · exact ⟨s.keep.arb, Nat.le_refl _, by rw [if_pos h]; rfl⟩
  · refine ⟨max s.keep.arb s.boot.svn, Nat.le_max_left _ _, ?_⟩
    rw [if_neg h]
    split <;> simp

/-- R480, R481: the commit of a firmware operation raises the anti-rollback counter or leaves it. -/
theorem kept_fwCommit (ext : List Host.Cell) (failed : Bool) (s : State) :
    ∃ n, s.keep.arb ≤ n ∧ kept (fwCommit ext failed s) = (s.variant, s.pending, n, s.keep.ident) := by
  unfold fwCommit
  have triv : ∃ n, s.keep.arb ≤ n ∧ kept s = (s.variant, s.pending, n, s.keep.ident) := ⟨_, Nat.le_refl _, rfl⟩
  split
  · exact triv
  · split
    · exact triv
    · split
      · exact triv
      · rename_i h _ _ o _ _
        have key : ∃ n, s.keep.arb ≤ n ∧ kept (if failed = true then (Status.fw 6, o.total, s) else if h.unit = 0 then stageEnd s o h.arg ext
            else if h.unit = 1 then ((selectEnd s h.arg).1, o.total, (selectEnd s h.arg).2)
            else ((commitSvn s).1, o.total, (commitSvn s).2)).2.2 = (s.variant, s.pending, n, s.keep.ident) := by
          split
          · exact triv
          · split
            · exact ⟨_, Nat.le_refl _, kept_stageEnd _ _ _ _⟩
            · split
              · exact ⟨_, Nat.le_refl _, kept_selectEnd_snd _ _⟩
              · exact kept_commitSvn s
        simpa using key

/-- R480: the commit of an activity of the hoop raises the anti-rollback counter or leaves it. -/
theorem kept_execHoopActivityCommit (act d : Nat) (found : List Nat) (ext : List Host.Cell) (s : State) {t : State}
    (h : execHoopActivityCommit act d found ext s = .next t) :
    ∃ n, s.keep.arb ≤ n ∧ kept t = (s.variant, s.pending, n, s.keep.ident) := by
  unfold execHoopActivityCommit at h
  cases h
  split
  · exact kept_fwCommit _ _ _
  · exact ⟨_, Nat.le_refl _, kept_activityCommit _ _ _ _⟩

@[simp] theorem kept_attest (s : State) (o : Op) : kept (attest s o) = kept s := by
  unfold attest
  simp only [draw]
  split
  · simp
  · split
    · simp
    · rename_i h; simp [kept_devWrite _ _ _ _ _ _ h]

@[simp] theorem kept_readCert (s : State) (o : Op) : kept (Sys2Proof.Machine.readCert s o) = kept s := by
  first
  | rfl
  | (unfold Sys2Proof.Machine.readCert; first | (simp; done) | (repeat' split) <;> first | rfl | (simp_all; done) | grind [= kept_complete, → kept_devWrite, = kept_finishWrites])

@[simp] theorem kept_firmware (s : State) (o : Op) (wait : Bool) : kept (firmware s o wait) = kept s := by
  unfold firmware
  dsimp only
  (repeat' split) <;> simp

/-! Machine/Rings -/

@[simp] theorem kept_sqCfgWrite (s0 : State) (q : Nat) (v : Word32) : kept (Sys2Proof.Machine.sqCfgWrite s0 q v) = kept s0 := by
  first
  | rfl
  | (unfold Sys2Proof.Machine.sqCfgWrite; first | (simp; done) | (repeat' split) <;> first | rfl | (simp_all; done) | grind [= kept_settleRings, = kept_setSq])

@[simp] theorem kept_cqCfgWrite (s0 : State) (q : Nat) (v : Word32) : kept (Sys2Proof.Machine.cqCfgWrite s0 q v) = kept s0 := by
  first
  | rfl
  | (unfold Sys2Proof.Machine.cqCfgWrite; first | (simp; done) | (repeat' split) <;> first | rfl | (simp_all; done) | grind [= kept_settleRings, = kept_setCq])

@[simp] theorem kept_evCfgWrite (s : State) (v : Word32) : kept (Sys2Proof.Machine.evCfgWrite s v) = kept s := by
  first
  | rfl
  | (unfold Sys2Proof.Machine.evCfgWrite; first | (simp; done) | (repeat' split) <;> first | rfl | (simp_all; done) | grind [= kept_bootEvents])

@[simp] theorem kept_ringCfgWrite (kind ring : Nat) (v : Word32) (s : State) : kept (Sys2Proof.Machine.ringCfgWrite kind ring v s) = kept s := by
  first
  | rfl
  | (unfold Sys2Proof.Machine.ringCfgWrite; first | (simp; done) | (repeat' split) <;> first | rfl | (simp_all; done) | grind [= kept_sqCfgWrite, = kept_cqCfgWrite, = kept_evCfgWrite])

theorem kept_execRingEnable (kind ring : Nat) (v : Word32) (s : State) {tt : State} (h : Sys2Proof.Machine.execRingEnable kind ring v s = .next tt) : kept tt = kept s := by
  unfold Sys2Proof.Machine.execRingEnable at h
  cases h
  first
  | rfl
  | (simp; done)
  | (repeat' split) <;> first | rfl | (simp_all; done) | grind [= kept_ringCfgWrite]

theorem kept_execRingDisable (kind ring : Nat) (v : Word32) (s : State) {tt : State} (h : Sys2Proof.Machine.execRingDisable kind ring v s = .next tt) : kept tt = kept s := by
  unfold Sys2Proof.Machine.execRingDisable at h
  cases h
  first
  | rfl
  | (simp; done)
  | (repeat' split) <;> first | rfl | (simp_all; done) | grind [= kept_ringCfgWrite]

@[simp] theorem kept_setupLock (v : Word32) (s : State) : kept (Sys2Proof.Machine.setupLock v s) = kept s := by
  first
  | rfl
  | (unfold Sys2Proof.Machine.setupLock; first | (simp; done) | (repeat' split) <;> first | rfl | (simp_all; done) | grind)

theorem kept_execRingSetupLock (v : Word32) (s : State) {tt : State} (h : Sys2Proof.Machine.execRingSetupLock v s = .next tt) : kept tt = kept s := by
  unfold Sys2Proof.Machine.execRingSetupLock at h
  cases h
  first
  | rfl
  | (simp; done)
  | (repeat' split) <;> first | rfl | (simp_all; done) | grind [= kept_setupLock]

@[simp] theorem kept_sqTail (q : Nat) (v : Word32) (s : State) : kept (Sys2Proof.Machine.sqTail q v s) = kept s := by
  first
  | rfl
  | (unfold Sys2Proof.Machine.sqTail; first | (simp; done) | (repeat' split) <;> first | rfl | (simp_all; done) | grind [= kept_setSq, = kept_ringError])

theorem kept_execSqTailWrite (q : Nat) (v : Word32) (s : State) {tt : State} (h : Sys2Proof.Machine.execSqTailWrite q v s = .next tt) : kept tt = kept s := by
  unfold Sys2Proof.Machine.execSqTailWrite at h
  cases h
  first
  | rfl
  | (simp; done)
  | (repeat' split) <;> first | rfl | (simp_all; done) | grind [= kept_sqTail]

@[simp] theorem kept_headTells (s : State) (r : ComRing) (ring h : Nat) : kept (headTells s r ring h) = kept s := by
  unfold headTells
  exact kept_ite_of (kept_ringError ..) (kept_ite_of (kept_linkIrq ..) rfl)

theorem kept_ev (s : State) (r : ComRing) : kept { s with ev := r } = kept s := rfl

@[simp] theorem kept_cqHead (ring : Nat) (v : Word32) (s : State) : kept (cqHead ring v s) = kept s := by
  unfold cqHead
  extract_lets h r
  refine kept_ite_of rfl ?_
  split
  · exact kept_ite_of rfl ((kept_headTells _ _ _ _).trans (kept_ev _ _))
  · refine kept_ite_of rfl (kept_ite_of rfl ((kept_headTells _ _ _ _).trans (kept_setCq _ _ _)))

theorem kept_execCqHeadWrite (ring : Nat) (v : Word32) (s : State) {tt : State} (h : Sys2Proof.Machine.execCqHeadWrite ring v s = .next tt) : kept tt = kept s := by
  unfold Sys2Proof.Machine.execCqHeadWrite at h
  cases h
  first
  | rfl
  | (simp; done)
  | (repeat' split) <;> first | rfl | (simp_all; done) | grind [= kept_cqHead]

@[simp] theorem kept_recordWrite (cq : Nat) (s : State) : kept (Sys2Proof.Machine.recordWrite cq s) = kept s := by
  first
  | rfl
  | (unfold Sys2Proof.Machine.recordWrite; first | (simp; done) | (repeat' split) <;> first | rfl | (simp_all; done) | grind [= kept_writeRec])

theorem kept_execCompletionRecordWrite (cq : Nat) (s : State) {tt : State} (h : Sys2Proof.Machine.execCompletionRecordWrite cq s = .next tt) : kept tt = kept s := by
  unfold Sys2Proof.Machine.execCompletionRecordWrite at h
  cases h
  first
  | rfl
  | (simp; done)
  | (repeat' split) <;> first | rfl | (simp_all; done) | grind [= kept_recordWrite]

@[simp] theorem kept_coalesce (ring : Nat) (s : State) : kept (Sys2Proof.Machine.coalesce ring s) = kept s := by
  first
  | rfl
  | (unfold Sys2Proof.Machine.coalesce; first | (simp; done) | (repeat' split) <;> first | rfl | (simp_all; done) | grind [= kept_linkIrq, = kept_setCq])

theorem kept_execInterruptCoalesceTimeout (ring : Nat) (s : State) {tt : State} (h : Sys2Proof.Machine.execInterruptCoalesceTimeout ring s = .next tt) : kept tt = kept s := by
  unfold Sys2Proof.Machine.execInterruptCoalesceTimeout at h
  cases h
  first
  | rfl
  | (simp; done)
  | (repeat' split) <;> first | rfl | (simp_all; done) | grind [= kept_coalesce]

@[simp] theorem kept_progressWrite (q idx pos : Nat) (s : State) : kept (Sys2Proof.Machine.progressWrite q idx pos s) = kept s := by
  first
  | rfl
  | (unfold Sys2Proof.Machine.progressWrite; first | (simp; done) | (repeat' split) <;> first | rfl | (simp_all; done) | grind [= kept_ctxMap, = kept_progressEntry, = kept_putProgress, = kept_updOp])

theorem kept_execProgressEntryWrite (q idx pos : Nat) (s : State) {tt : State} (h : Sys2Proof.Machine.execProgressEntryWrite q idx pos s = .next tt) : kept tt = kept s := by
  unfold Sys2Proof.Machine.execProgressEntryWrite at h
  cases h
  first
  | rfl
  | (simp; done)
  | (repeat' split) <;> first | rfl | (simp_all; done) | grind [= kept_progressWrite]

@[simp] theorem kept_sqRegWrite (s0 : State) (q o : Nat) (v : Word32) : kept (Sys2Proof.Machine.sqRegWrite s0 q o v) = kept s0 := by
  first
  | rfl
  | (unfold Sys2Proof.Machine.sqRegWrite; first | (simp; done) | (repeat' split) <;> first | rfl | (simp_all; done) | grind [= kept_settleRings, = kept_sqCfgWrite, = kept_setSq])

@[simp] theorem kept_cqRegWrite (s0 : State) (q o : Nat) (v : Word32) : kept (Sys2Proof.Machine.cqRegWrite s0 q o v) = kept s0 := by
  first
  | rfl
  | (unfold Sys2Proof.Machine.cqRegWrite; first | (simp; done) | (repeat' split) <;> first | rfl | (simp_all; done) | grind [= kept_settleRings, = kept_cqCfgWrite, = kept_setCq])

@[simp] theorem kept_evRegWrite (s : State) (o : Nat) (v : Word32) : kept (Sys2Proof.Machine.evRegWrite s o v) = kept s := by
  first
  | rfl
  | (unfold Sys2Proof.Machine.evRegWrite; first | (simp; done) | (repeat' split) <;> first | rfl | (simp_all; done) | grind [= kept_evCfgWrite])

@[simp] theorem kept_ringRegWrite (o : Nat) (v : Word32) (s : State) : kept (Sys2Proof.Machine.ringRegWrite o v s) = kept s := by
  first
  | rfl
  | (unfold Sys2Proof.Machine.ringRegWrite; first | (simp; done) | (repeat' split) <;> first | rfl | (simp_all; done) | grind [= kept_setupLock, = kept_itgSwitch, = kept_sqRegWrite, = kept_cqRegWrite, = kept_evRegWrite])

@[simp] theorem kept_doorbellWrite (o : Nat) (v : Word32) (s : State) : kept (Sys2Proof.Machine.doorbellWrite o v s) = kept s := by
  first
  | rfl
  | (unfold Sys2Proof.Machine.doorbellWrite; first | (simp; done) | (repeat' split) <;> first | rfl | (simp_all; done) | grind [= kept_sqTail, = kept_cqHead])

/-! Machine/RegFile -/

@[simp] theorem kept_sampleWrite (d : Nat) (v : Word32) (s : State) : kept (Sys2Proof.Machine.sampleWrite d v s) = kept s := by
  first
  | rfl
  | (unfold Sys2Proof.Machine.sampleWrite; first | (simp; done) | (repeat' split) <;> first | rfl | (simp_all; done) | grind [= kept_writeLocked, = kept_postEvent])

@[simp] theorem kept_cageCfgWrite (d o : Nat) (v : Word32) (s : State) : kept (Sys2Proof.Machine.cageCfgWrite d o v s) = kept s := by
  first
  | rfl
  | (unfold Sys2Proof.Machine.cageCfgWrite; first | (simp; done) | (repeat' split) <;> first | rfl | (simp_all; done) | grind [= kept_writeLocked, = kept_updDie])

@[simp] theorem kept_pwrCtlWrite (v : Word32) (s : State) : kept (Sys2Proof.Machine.pwrCtlWrite v s) = kept s := by
  first
  | rfl
  | (unfold Sys2Proof.Machine.pwrCtlWrite; first | (simp; done) | (repeat' split) <;> first | rfl | (simp_all; done) | grind [= kept_ctlStandby, = kept_ctlReady, = kept_wakeEnWrite])

@[simp] theorem kept_pwrCapWrite (v : Word32) (s : State) : kept (Sys2Proof.Machine.pwrCapWrite v s) = kept s := by
  first
  | rfl
  | (unfold Sys2Proof.Machine.pwrCapWrite; first | (simp; done) | (repeat' split) <;> first | rfl | (simp_all; done) | grind [= kept_updDie])

@[simp] theorem kept_cselWrite (d c n : Nat) (v : Word32) (s : State) : kept (Sys2Proof.Machine.cselWrite d c n v s) = kept s := by
  first
  | rfl
  | (unfold Sys2Proof.Machine.cselWrite; first | (simp; done) | (repeat' split) <;> first | rfl | (simp_all; done) | grind [= kept_updCore])

@[simp] theorem kept_pselWrite (d l n : Nat) (v : Word32) (s : State) : kept (Sys2Proof.Machine.pselWrite d l n v s) = kept s := by
  first
  | rfl
  | (unfold Sys2Proof.Machine.pselWrite; first | (simp; done) | (repeat' split) <;> first | rfl | (simp_all; done) | grind [= kept_updPort])

@[simp] theorem kept_pmcWrite (d o : Nat) (v : Word32) (s : State) : kept (Sys2Proof.Machine.pmcWrite d o v s) = kept s := by
  first
  | rfl
  | (unfold Sys2Proof.Machine.pmcWrite; first | (simp; done) | (repeat' split) <;> first | rfl | (simp_all; done) | grind [= kept_cselWrite, = kept_pmcCounterWrite, = kept_pselWrite, = kept_pwinWrite])

@[simp] theorem kept_knotWrite (d o : Nat) (v : Word32) (s : State) : kept (Sys2Proof.Machine.knotWrite d o v s) = kept s := by
  first
  | rfl
  | (unfold Sys2Proof.Machine.knotWrite; first | (simp; done) | (repeat' split) <;> first | rfl | (simp_all; done) | grind [= kept_knotCfgWrite, = kept_setKnot])

@[simp] theorem kept_dieRegWrite (d off : Nat) (v : Word32) (s : State) : kept (dieRegWrite d off v s) = kept s := by
  unfold dieRegWrite
  extract_lets o
  split
  · rfl
  · split
    · dsimp only
      split <;> simp
    · by_cases c1 : off = rFAB_SELF
      · rw [if_pos c1, kept_fabSelfWrite]
      · rw [if_neg c1]
        by_cases c2 : off = rSW_SAMPLE
        · rw [if_pos c2, kept_sampleWrite]
        · rw [if_neg c2]
          by_cases c3 : off = rSW_HIST_BASE
          · rw [if_pos c3, kept_histBaseWrite]
          · rw [if_neg c3]
            by_cases c4 : oCORE ≤ off
            · rw [if_pos c4]
            · rw [if_neg c4]
              clear_value o
              (repeat' split) <;> first | rfl | simp

@[simp] theorem kept_winWrite (a : Nat) (v : Word32) (s : State) : kept (Sys2Proof.Machine.winWrite a v s) = kept s := by
  first
  | rfl
  | (unfold Sys2Proof.Machine.winWrite; first | (simp; done) | (repeat' split) <;> first | rfl | (simp_all; done) | grind [= kept_doorbellWrite, = kept_ringRegWrite, = kept_dieRegWrite])

theorem kept_execRegisterWrite (addr : Nat) (v : Word32) (s : State) {tt : State} (h : Sys2Proof.Machine.execRegisterWrite addr v s = .next tt) : kept tt = kept s := by
  unfold Sys2Proof.Machine.execRegisterWrite at h
  cases h
  first
  | rfl
  | (simp; done)
  | (repeat' split) <;> first | rfl | (simp_all; done) | grind [= kept_winWrite]

theorem kept_winRead_snd (a : Nat) (s : State) : kept (winRead a s).2 = kept s := by
  unfold winRead
  dsimp only
  (repeat' split) <;> first | rfl | exact kept_dieRegRead_snd _ _ _

theorem kept_winRead (a : Nat) (s : State) {v : Nat} {t : State} (h : winRead a s = (v, t)) : kept t = kept s := by
  rw [← kept_winRead_snd a s, h]

@[simp] theorem kept_winAccess (write : Bool) (a n : Nat) (data : List Byte) (s : State) : kept (Sys2Proof.Machine.winAccess write a n data s) = kept s := by
  first
  | rfl
  | (unfold Sys2Proof.Machine.winAccess; first | (simp; done) | (repeat' split) <;> first | rfl | (simp_all; done) | grind [= kept_emit, = kept_winWrite, → kept_winRead, = kept_winRead_snd])

@[simp] theorem kept_memAccess (write : Bool) (a n : Nat) (data : List Byte) (s : State) : kept (Sys2Proof.Machine.memAccess write a n data s) = kept s := by
  first
  | rfl
  | (unfold Sys2Proof.Machine.memAccess; first | (simp; done) | (repeat' split) <;> first | rfl | (simp_all; done) | grind [= kept_emit, = kept_issueWrites, → kept_issueRead, = kept_placePut, → kept_placeRead, = kept_companionAnswer, = kept_placeSeen])

@[simp] theorem kept_companionAccess (write : Bool) (a n : Nat) (data : List Byte) (s : State) : kept (Sys2Proof.Machine.companionAccess write a n data s) = kept s := by
  first
  | rfl
  | (unfold Sys2Proof.Machine.companionAccess; first | (simp; done) | (repeat' split) <;> first | rfl | (simp_all; done) | grind [= kept_winAccess, = kept_emit, = kept_memAccess])

theorem kept_execCompanionMemoryAccess (write : Bool) (addr n : Nat) (data : List Byte) (s : State) {tt : State} (h : Sys2Proof.Machine.execCompanionMemoryAccess write addr n data s = .next tt) : kept tt = kept s := by
  unfold Sys2Proof.Machine.execCompanionMemoryAccess at h
  cases h
  first
  | rfl
  | (simp; done)
  | (repeat' split) <;> first | rfl | (simp_all; done) | grind [= kept_companionAccess]

@[simp] theorem kept_companionAtomic (a aop y : Nat) (s : State) : kept (Sys2Proof.Machine.companionAtomic a aop y s) = kept s := by
  first
  | rfl
  | (unfold Sys2Proof.Machine.companionAtomic; first | (simp; done) | (repeat' split) <;> first | rfl | (simp_all; done) | grind [→ kept_placeAtomic, = kept_emit, = kept_companionAnswer, = kept_atomicSeen])

theorem kept_execCompanionAtomic (addr aop y : Nat) (s : State) {tt : State} (h : Sys2Proof.Machine.execCompanionAtomic addr aop y s = .next tt) : kept tt = kept s := by
  unfold Sys2Proof.Machine.execCompanionAtomic at h
  cases h
  first
  | rfl
  | (simp; done)
  | (repeat' split) <;> first | rfl | (simp_all; done) | grind [= kept_companionAtomic]

/-! Machine/Descriptors -/

@[simp] theorem kept_accepted (s : State) (q : Nat) (desc : Word512) (ext : List Host.Cell) : kept (accepted s q desc ext) = kept s := by
  unfold accepted
  extract_lets r o s1
  rw [kept_putProgress]
  rfl

@[simp] theorem kept_sqPass (s : State) (q : Nat) : kept (Sys2Proof.Machine.sqPass s q) = kept s := by
  first
  | rfl
  | (unfold Sys2Proof.Machine.sqPass; first | (simp; done) | (repeat' split) <;> first | rfl | (simp_all; done) | grind)

theorem kept_takeDesc (q : Nat) (desc : Word512) (ext : List Host.Cell) (row : Bool) (body : State → Op → State) (s : State)
    (hb : ∀ s o, kept (body s o) = kept s) : kept (takeDesc q desc ext row body s) = kept s := by
  unfold takeDesc
  (repeat' split) <;> simp [hb]

@[simp] theorem kept_nopBody (s : State) (o : Op) : kept (Sys2Proof.Machine.nopBody s o) = kept s := by
  first
  | rfl
  | (unfold Sys2Proof.Machine.nopBody; first | (simp; done) | (repeat' split) <;> first | rfl | (simp_all; done) | grind [= kept_complete])

theorem kept_execNopDescriptor (q : Nat) (desc : Word512) (ext : List Host.Cell) (s : State) {tt : State} (h : Sys2Proof.Machine.execNopDescriptor q desc ext s = .next tt) : kept tt = kept s := by
  unfold Sys2Proof.Machine.execNopDescriptor at h
  cases h
  first
  | rfl
  | (simp; done)
  | first | ((first | refine kept_takeDesc _ _ _ _ _ _ (fun s o => ?_)) <;> (repeat' split) <;> first | rfl | (simp_all; done) | ((first | refine kept_takeDesc _ _ _ _ _ _ (fun s o => ?_)) <;> (repeat' split) <;> first | rfl | (simp_all; done) | grind [= kept_nopBody]) | grind [= kept_nopBody]) | ((repeat' split) <;> first | rfl | (simp_all; done) | ((first | refine kept_takeDesc _ _ _ _ _ _ (fun s o => ?_)) <;> (repeat' split) <;> first | rfl | (simp_all; done) | grind [= kept_nopBody]) | grind [= kept_nopBody])

@[simp] theorem kept_jobBody (s : State) (o : Op) : kept (Sys2Proof.Machine.jobBody s o) = kept s := by
  first
  | rfl
  | (unfold Sys2Proof.Machine.jobBody; first | (simp; done) | (repeat' split) <;> first | rfl | (simp_all; done) | grind [= kept_complete, = kept_queueJob])

theorem kept_execCoreJob (q : Nat) (desc : Word512) (ext : List Host.Cell) (s : State) {tt : State} (h : Sys2Proof.Machine.execCoreJob q desc ext s = .next tt) : kept tt = kept s := by
  unfold Sys2Proof.Machine.execCoreJob at h
  cases h
  first
  | rfl
  | (simp; done)
  | first | ((first | refine kept_takeDesc _ _ _ _ _ _ (fun s o => ?_)) <;> (repeat' split) <;> first | rfl | (simp_all; done) | ((first | refine kept_takeDesc _ _ _ _ _ _ (fun s o => ?_)) <;> (repeat' split) <;> first | rfl | (simp_all; done) | grind [= kept_jobBody]) | grind [= kept_jobBody]) | ((repeat' split) <;> first | rfl | (simp_all; done) | ((first | refine kept_takeDesc _ _ _ _ _ _ (fun s o => ?_)) <;> (repeat' split) <;> first | rfl | (simp_all; done) | grind [= kept_jobBody]) | grind [= kept_jobBody])

@[simp] theorem kept_engineBody (ext : List Host.Cell) (s : State) (o : Op) : kept (engineBody ext s o) = kept s := by
  unfold engineBody
  extract_lets f
  split
  · simp
  · split
    · simp
    · split
      · simp
      · rename_i h
        exact (kept_getD _ _ (fun _ ht => kept_submit _ _ _ _ ht)).trans (kept_devRead _ _ _ _ _ h)

theorem kept_execEngineOperation (q : Nat) (desc : Word512) (ext : List Host.Cell) (s : State) {tt : State} (h : Sys2Proof.Machine.execEngineOperation q desc ext s = .next tt) : kept tt = kept s := by
  unfold Sys2Proof.Machine.execEngineOperation at h
  cases h
  first
  | rfl
  | (simp; done)
  | first | ((first | refine kept_takeDesc _ _ _ _ _ _ (fun s o => ?_)) <;> (repeat' split) <;> first | rfl | (simp_all; done) | ((first | refine kept_takeDesc _ _ _ _ _ _ (fun s o => ?_)) <;> (repeat' split) <;> first | rfl | (simp_all; done) | grind [= kept_engineBody]) | grind [= kept_engineBody]) | ((repeat' split) <;> first | rfl | (simp_all; done) | ((first | refine kept_takeDesc _ _ _ _ _ _ (fun s o => ?_)) <;> (repeat' split) <;> first | rfl | (simp_all; done) | grind [= kept_engineBody]) | grind [= kept_engineBody])

@[simp] theorem kept_dmaBody (s : State) (o : Op) : kept (Sys2Proof.Machine.dmaBody s o) = kept s := by
  first
  | rfl
  | (unfold Sys2Proof.Machine.dmaBody; first | (simp; done) | (repeat' split) <;> first | rfl | (simp_all; done) | grind [= kept_complete, = kept_dmaStart])

theorem kept_execDmaDescriptor (q : Nat) (desc : Word512) (ext : List Host.Cell) (s : State) {tt : State} (h : Sys2Proof.Machine.execDmaDescriptor q desc ext s = .next tt) : kept tt = kept s := by
  unfold Sys2Proof.Machine.execDmaDescriptor at h
  cases h
  first
  | rfl
  | (simp; done)
  | first | ((first | refine kept_takeDesc _ _ _ _ _ _ (fun s o => ?_)) <;> (repeat' split) <;> first | rfl | (simp_all; done) | ((first | refine kept_takeDesc _ _ _ _ _ _ (fun s o => ?_)) <;> (repeat' split) <;> first | rfl | (simp_all; done) | grind [= kept_dmaBody]) | grind [= kept_dmaBody]) | ((repeat' split) <;> first | rfl | (simp_all; done) | ((first | refine kept_takeDesc _ _ _ _ _ _ (fun s o => ?_)) <;> (repeat' split) <;> first | rfl | (simp_all; done) | grind [= kept_dmaBody]) | grind [= kept_dmaBody])

@[simp] theorem kept_openBody (ext : List Host.Cell) (s : State) (o : Op) : kept (Sys2Proof.Machine.openBody ext s o) = kept s := by
  first
  | rfl
  | (unfold Sys2Proof.Machine.openBody; first | (simp; done) | (repeat' split) <;> first | rfl | (simp_all; done) | grind [= kept_complete, → kept_devRead, = kept_devSeen, = kept_openContext])

theorem kept_execContextOpen (q : Nat) (desc : Word512) (ext : List Host.Cell) (s : State) {tt : State} (h : Sys2Proof.Machine.execContextOpen q desc ext s = .next tt) : kept tt = kept s := by
  unfold Sys2Proof.Machine.execContextOpen at h
  cases h
  first
  | rfl
  | (simp; done)
  | first | ((first | refine kept_takeDesc _ _ _ _ _ _ (fun s o => ?_)) <;> (repeat' split) <;> first | rfl | (simp_all; done) | ((first | refine kept_takeDesc _ _ _ _ _ _ (fun s o => ?_)) <;> (repeat' split) <;> first | rfl | (simp_all; done) | grind [= kept_openBody]) | grind [= kept_openBody]) | ((repeat' split) <;> first | rfl | (simp_all; done) | ((first | refine kept_takeDesc _ _ _ _ _ _ (fun s o => ?_)) <;> (repeat' split) <;> first | rfl | (simp_all; done) | grind [= kept_openBody]) | grind [= kept_openBody])

@[simp] theorem kept_closeBody (s : State) (o : Op) : kept (Sys2Proof.Machine.closeBody s o) = kept s := by
  first
  | rfl
  | (unfold Sys2Proof.Machine.closeBody; first | (simp; done) | (repeat' split) <;> first | rfl | (simp_all; done) | grind [= kept_complete, = kept_closeContext])

theorem kept_execContextClose (q : Nat) (desc : Word512) (ext : List Host.Cell) (s : State) {tt : State} (h : Sys2Proof.Machine.execContextClose q desc ext s = .next tt) : kept tt = kept s := by
  unfold Sys2Proof.Machine.execContextClose at h
  cases h
  first
  | rfl
  | (simp; done)
  | first | ((first | refine kept_takeDesc _ _ _ _ _ _ (fun s o => ?_)) <;> (repeat' split) <;> first | rfl | (simp_all; done) | ((first | refine kept_takeDesc _ _ _ _ _ _ (fun s o => ?_)) <;> (repeat' split) <;> first | rfl | (simp_all; done) | grind [= kept_closeBody]) | grind [= kept_closeBody]) | ((repeat' split) <;> first | rfl | (simp_all; done) | ((first | refine kept_takeDesc _ _ _ _ _ _ (fun s o => ?_)) <;> (repeat' split) <;> first | rfl | (simp_all; done) | grind [= kept_closeBody]) | grind [= kept_closeBody])

@[simp] theorem kept_updateBody (ext : List Host.Cell) (s : State) (o : Op) : kept (Sys2Proof.Machine.updateBody ext s o) = kept s := by
  first
  | rfl
  | (unfold Sys2Proof.Machine.updateBody; first | (simp; done) | (repeat' split) <;> first | rfl | (simp_all; done) | grind [= kept_tableUpdate])

theorem kept_execTableUpdate (q : Nat) (desc : Word512) (ext : List Host.Cell) (s : State) {tt : State} (h : Sys2Proof.Machine.execTableUpdate q desc ext s = .next tt) : kept tt = kept s := by
  unfold Sys2Proof.Machine.execTableUpdate at h
  cases h
  first
  | rfl
  | (simp; done)
  | first | ((first | refine kept_takeDesc _ _ _ _ _ _ (fun s o => ?_)) <;> (repeat' split) <;> first | rfl | (simp_all; done) | ((first | refine kept_takeDesc _ _ _ _ _ _ (fun s o => ?_)) <;> (repeat' split) <;> first | rfl | (simp_all; done) | grind [= kept_updateBody]) | grind [= kept_updateBody]) | ((repeat' split) <;> first | rfl | (simp_all; done) | ((first | refine kept_takeDesc _ _ _ _ _ _ (fun s o => ?_)) <;> (repeat' split) <;> first | rfl | (simp_all; done) | grind [= kept_updateBody]) | grind [= kept_updateBody])

theorem kept_execTableUpdateActivate (q : Nat) (desc : Word512) (ext : List Host.Cell) (s : State) {tt : State} (h : Sys2Proof.Machine.execTableUpdateActivate q desc ext s = .next tt) : kept tt = kept s := by
  unfold Sys2Proof.Machine.execTableUpdateActivate at h
  cases h
  first
  | rfl
  | (simp; done)
  | first | ((first | refine kept_takeDesc _ _ _ _ _ _ (fun s o => ?_)) <;> (repeat' split) <;> first | rfl | (simp_all; done) | ((first | refine kept_takeDesc _ _ _ _ _ _ (fun s o => ?_)) <;> (repeat' split) <;> first | rfl | (simp_all; done) | grind [= kept_updateBody]) | grind [= kept_updateBody]) | ((repeat' split) <;> first | rfl | (simp_all; done) | ((first | refine kept_takeDesc _ _ _ _ _ _ (fun s o => ?_)) <;> (repeat' split) <;> first | rfl | (simp_all; done) | grind [= kept_updateBody]) | grind [= kept_updateBody])

@[simp] theorem kept_maintBody (s : State) (o : Op) : kept (Sys2Proof.Machine.maintBody s o) = kept s := by
  first
  | rfl
  | (unfold Sys2Proof.Machine.maintBody; first | (simp; done) | (repeat' split) <;> first | rfl | (simp_all; done) | grind [= kept_complete, = kept_maintain])

theorem kept_execMaintRecal (q : Nat) (desc : Word512) (ext : List Host.Cell) (s : State) {tt : State} (h : Sys2Proof.Machine.execMaintRecal q desc ext s = .next tt) : kept tt = kept s := by
  unfold Sys2Proof.Machine.execMaintRecal at h
  cases h
  first
  | rfl
  | (simp; done)
  | first | ((first | refine kept_takeDesc _ _ _ _ _ _ (fun s o => ?_)) <;> (repeat' split) <;> first | rfl | (simp_all; done) | ((first | refine kept_takeDesc _ _ _ _ _ _ (fun s o => ?_)) <;> (repeat' split) <;> first | rfl | (simp_all; done) | grind [= kept_maintBody]) | grind [= kept_maintBody]) | ((repeat' split) <;> first | rfl | (simp_all; done) | ((first | refine kept_takeDesc _ _ _ _ _ _ (fun s o => ?_)) <;> (repeat' split) <;> first | rfl | (simp_all; done) | grind [= kept_maintBody]) | grind [= kept_maintBody])

theorem kept_execMaintStackScrub (q : Nat) (desc : Word512) (ext : List Host.Cell) (s : State) {tt : State} (h : Sys2Proof.Machine.execMaintStackScrub q desc ext s = .next tt) : kept tt = kept s := by
  unfold Sys2Proof.Machine.execMaintStackScrub at h
  cases h
  first
  | rfl
  | (simp; done)
  | first | ((first | refine kept_takeDesc _ _ _ _ _ _ (fun s o => ?_)) <;> (repeat' split) <;> first | rfl | (simp_all; done) | ((first | refine kept_takeDesc _ _ _ _ _ _ (fun s o => ?_)) <;> (repeat' split) <;> first | rfl | (simp_all; done) | grind [= kept_maintBody]) | grind [= kept_maintBody]) | ((repeat' split) <;> first | rfl | (simp_all; done) | ((first | refine kept_takeDesc _ _ _ _ _ _ (fun s o => ?_)) <;> (repeat' split) <;> first | rfl | (simp_all; done) | grind [= kept_maintBody]) | grind [= kept_maintBody])

theorem kept_execMaintStackRepair (q : Nat) (desc : Word512) (ext : List Host.Cell) (s : State) {tt : State} (h : Sys2Proof.Machine.execMaintStackRepair q desc ext s = .next tt) : kept tt = kept s := by
  unfold Sys2Proof.Machine.execMaintStackRepair at h
  cases h
  first
  | rfl
  | (simp; done)
  | first | ((first | refine kept_takeDesc _ _ _ _ _ _ (fun s o => ?_)) <;> (repeat' split) <;> first | rfl | (simp_all; done) | ((first | refine kept_takeDesc _ _ _ _ _ _ (fun s o => ?_)) <;> (repeat' split) <;> first | rfl | (simp_all; done) | grind [= kept_maintBody]) | grind [= kept_maintBody]) | ((repeat' split) <;> first | rfl | (simp_all; done) | ((first | refine kept_takeDesc _ _ _ _ _ _ (fun s o => ?_)) <;> (repeat' split) <;> first | rfl | (simp_all; done) | grind [= kept_maintBody]) | grind [= kept_maintBody])

theorem kept_execMaintCore (q : Nat) (desc : Word512) (ext : List Host.Cell) (s : State) {tt : State} (h : Sys2Proof.Machine.execMaintCore q desc ext s = .next tt) : kept tt = kept s := by
  unfold Sys2Proof.Machine.execMaintCore at h
  cases h
  first
  | rfl
  | (simp; done)
  | first | ((first | refine kept_takeDesc _ _ _ _ _ _ (fun s o => ?_)) <;> (repeat' split) <;> first | rfl | (simp_all; done) | ((first | refine kept_takeDesc _ _ _ _ _ _ (fun s o => ?_)) <;> (repeat' split) <;> first | rfl | (simp_all; done) | grind [= kept_maintBody]) | grind [= kept_maintBody]) | ((repeat' split) <;> first | rfl | (simp_all; done) | ((first | refine kept_takeDesc _ _ _ _ _ _ (fun s o => ?_)) <;> (repeat' split) <;> first | rfl | (simp_all; done) | grind [= kept_maintBody]) | grind [= kept_maintBody])

theorem kept_execMaintGnd (q : Nat) (desc : Word512) (ext : List Host.Cell) (s : State) {tt : State} (h : Sys2Proof.Machine.execMaintGnd q desc ext s = .next tt) : kept tt = kept s := by
  unfold Sys2Proof.Machine.execMaintGnd at h
  cases h
  first
  | rfl
  | (simp; done)
  | first | ((first | refine kept_takeDesc _ _ _ _ _ _ (fun s o => ?_)) <;> (repeat' split) <;> first | rfl | (simp_all; done) | ((first | refine kept_takeDesc _ _ _ _ _ _ (fun s o => ?_)) <;> (repeat' split) <;> first | rfl | (simp_all; done) | grind [= kept_maintBody]) | grind [= kept_maintBody]) | ((repeat' split) <;> first | rfl | (simp_all; done) | ((first | refine kept_takeDesc _ _ _ _ _ _ (fun s o => ?_)) <;> (repeat' split) <;> first | rfl | (simp_all; done) | grind [= kept_maintBody]) | grind [= kept_maintBody])

theorem kept_execMaintSelftest (q : Nat) (desc : Word512) (ext : List Host.Cell) (s : State) {tt : State} (h : Sys2Proof.Machine.execMaintSelftest q desc ext s = .next tt) : kept tt = kept s := by
  unfold Sys2Proof.Machine.execMaintSelftest at h
  cases h
  first
  | rfl
  | (simp; done)
  | first | ((first | refine kept_takeDesc _ _ _ _ _ _ (fun s o => ?_)) <;> (repeat' split) <;> first | rfl | (simp_all; done) | ((first | refine kept_takeDesc _ _ _ _ _ _ (fun s o => ?_)) <;> (repeat' split) <;> first | rfl | (simp_all; done) | grind [= kept_maintBody]) | grind [= kept_maintBody]) | ((repeat' split) <;> first | rfl | (simp_all; done) | ((first | refine kept_takeDesc _ _ _ _ _ _ (fun s o => ?_)) <;> (repeat' split) <;> first | rfl | (simp_all; done) | grind [= kept_maintBody]) | grind [= kept_maintBody])

theorem kept_execGateListDescriptor (q : Nat) (desc : Word512) (ext : List Host.Cell) (s : State) {tt : State} (h : Sys2Proof.Machine.execGateListDescriptor q desc ext s = .next tt) : kept tt = kept s := by
  unfold Sys2Proof.Machine.execGateListDescriptor at h
  cases h
  first
  | rfl
  | (simp; done)
  | first | ((first | refine kept_takeDesc _ _ _ _ _ _ (fun s o => ?_)) <;> (repeat' split) <;> first | rfl | (simp_all; done) | ((first | refine kept_takeDesc _ _ _ _ _ _ (fun s o => ?_)) <;> (repeat' split) <;> first | rfl | (simp_all; done) | grind [= kept_gateList]) | grind [= kept_gateList]) | ((repeat' split) <;> first | rfl | (simp_all; done) | ((first | refine kept_takeDesc _ _ _ _ _ _ (fun s o => ?_)) <;> (repeat' split) <;> first | rfl | (simp_all; done) | grind [= kept_gateList]) | grind [= kept_gateList])

@[simp] theorem kept_fwBody (s : State) (o : Op) : kept (Sys2Proof.Machine.fwBody s o) = kept s := by
  first
  | rfl
  | (unfold Sys2Proof.Machine.fwBody; first | (simp; done) | (repeat' split) <;> first | rfl | (simp_all; done) | grind [= kept_firmware])

theorem kept_execFwStage (q : Nat) (desc : Word512) (ext : List Host.Cell) (s : State) {tt : State} (h : Sys2Proof.Machine.execFwStage q desc ext s = .next tt) : kept tt = kept s := by
  unfold Sys2Proof.Machine.execFwStage at h
  cases h
  first
  | rfl
  | (simp; done)
  | first | ((first | refine kept_takeDesc _ _ _ _ _ _ (fun s o => ?_)) <;> (repeat' split) <;> first | rfl | (simp_all; done) | ((first | refine kept_takeDesc _ _ _ _ _ _ (fun s o => ?_)) <;> (repeat' split) <;> first | rfl | (simp_all; done) | grind [= kept_fwBody]) | grind [= kept_fwBody]) | ((repeat' split) <;> first | rfl | (simp_all; done) | ((first | refine kept_takeDesc _ _ _ _ _ _ (fun s o => ?_)) <;> (repeat' split) <;> first | rfl | (simp_all; done) | grind [= kept_fwBody]) | grind [= kept_fwBody])

theorem kept_execFwSelect (q : Nat) (desc : Word512) (ext : List Host.Cell) (s : State) {tt : State} (h : Sys2Proof.Machine.execFwSelect q desc ext s = .next tt) : kept tt = kept s := by
  unfold Sys2Proof.Machine.execFwSelect at h
  cases h
  first
  | rfl
  | (simp; done)
  | first | ((first | refine kept_takeDesc _ _ _ _ _ _ (fun s o => ?_)) <;> (repeat' split) <;> first | rfl | (simp_all; done) | ((first | refine kept_takeDesc _ _ _ _ _ _ (fun s o => ?_)) <;> (repeat' split) <;> first | rfl | (simp_all; done) | grind [= kept_fwBody]) | grind [= kept_fwBody]) | ((repeat' split) <;> first | rfl | (simp_all; done) | ((first | refine kept_takeDesc _ _ _ _ _ _ (fun s o => ?_)) <;> (repeat' split) <;> first | rfl | (simp_all; done) | grind [= kept_fwBody]) | grind [= kept_fwBody])

theorem kept_execFwCommitSvn (q : Nat) (desc : Word512) (ext : List Host.Cell) (s : State) {tt : State} (h : Sys2Proof.Machine.execFwCommitSvn q desc ext s = .next tt) : kept tt = kept s := by
  unfold Sys2Proof.Machine.execFwCommitSvn at h
  cases h
  first
  | rfl
  | (simp; done)
  | first | ((first | refine kept_takeDesc _ _ _ _ _ _ (fun s o => ?_)) <;> (repeat' split) <;> first | rfl | (simp_all; done) | ((first | refine kept_takeDesc _ _ _ _ _ _ (fun s o => ?_)) <;> (repeat' split) <;> first | rfl | (simp_all; done) | grind [= kept_fwBody]) | grind [= kept_fwBody]) | ((repeat' split) <;> first | rfl | (simp_all; done) | ((first | refine kept_takeDesc _ _ _ _ _ _ (fun s o => ?_)) <;> (repeat' split) <;> first | rfl | (simp_all; done) | grind [= kept_fwBody]) | grind [= kept_fwBody])

theorem kept_execFwAttest (q : Nat) (desc : Word512) (ext : List Host.Cell) (s : State) {tt : State} (h : Sys2Proof.Machine.execFwAttest q desc ext s = .next tt) : kept tt = kept s := by
  unfold Sys2Proof.Machine.execFwAttest at h
  cases h
  first
  | rfl
  | (simp; done)
  | first | ((first | refine kept_takeDesc _ _ _ _ _ _ (fun s o => ?_)) <;> (repeat' split) <;> first | rfl | (simp_all; done) | ((first | refine kept_takeDesc _ _ _ _ _ _ (fun s o => ?_)) <;> (repeat' split) <;> first | rfl | (simp_all; done) | grind [= kept_fwBody]) | grind [= kept_fwBody]) | ((repeat' split) <;> first | rfl | (simp_all; done) | ((first | refine kept_takeDesc _ _ _ _ _ _ (fun s o => ?_)) <;> (repeat' split) <;> first | rfl | (simp_all; done) | grind [= kept_fwBody]) | grind [= kept_fwBody])

theorem kept_execFwReadCert (q : Nat) (desc : Word512) (ext : List Host.Cell) (s : State) {tt : State} (h : Sys2Proof.Machine.execFwReadCert q desc ext s = .next tt) : kept tt = kept s := by
  unfold Sys2Proof.Machine.execFwReadCert at h
  cases h
  first
  | rfl
  | (simp; done)
  | first | ((first | refine kept_takeDesc _ _ _ _ _ _ (fun s o => ?_)) <;> (repeat' split) <;> first | rfl | (simp_all; done) | ((first | refine kept_takeDesc _ _ _ _ _ _ (fun s o => ?_)) <;> (repeat' split) <;> first | rfl | (simp_all; done) | grind [= kept_fwBody]) | grind [= kept_fwBody]) | ((repeat' split) <;> first | rfl | (simp_all; done) | ((first | refine kept_takeDesc _ _ _ _ _ _ (fun s o => ?_)) <;> (repeat' split) <;> first | rfl | (simp_all; done) | grind [= kept_fwBody]) | grind [= kept_fwBody])

@[simp] theorem kept_portBody (s : State) (o : Op) : kept (Sys2Proof.Machine.portBody s o) = kept s := by
  first
  | rfl
  | (unfold Sys2Proof.Machine.portBody; first | (simp; done) | (repeat' split) <;> first | rfl | (simp_all; done) | grind [= kept_complete, = kept_updOp, → kept_admitPort, = kept_admitPort_snd, → kept_withdrawPort, = kept_withdrawPort_snd])

theorem kept_execPortAdmit (q : Nat) (desc : Word512) (ext : List Host.Cell) (s : State) {tt : State} (h : Sys2Proof.Machine.execPortAdmit q desc ext s = .next tt) : kept tt = kept s := by
  unfold Sys2Proof.Machine.execPortAdmit at h
  cases h
  first
  | rfl
  | (simp; done)
  | first | ((first | refine kept_takeDesc _ _ _ _ _ _ (fun s o => ?_)) <;> (repeat' split) <;> first | rfl | (simp_all; done) | ((first | refine kept_takeDesc _ _ _ _ _ _ (fun s o => ?_)) <;> (repeat' split) <;> first | rfl | (simp_all; done) | grind [= kept_portBody]) | grind [= kept_portBody]) | ((repeat' split) <;> first | rfl | (simp_all; done) | ((first | refine kept_takeDesc _ _ _ _ _ _ (fun s o => ?_)) <;> (repeat' split) <;> first | rfl | (simp_all; done) | grind [= kept_portBody]) | grind [= kept_portBody])

theorem kept_execPortWithdraw (q : Nat) (desc : Word512) (ext : List Host.Cell) (s : State) {tt : State} (h : Sys2Proof.Machine.execPortWithdraw q desc ext s = .next tt) : kept tt = kept s := by
  unfold Sys2Proof.Machine.execPortWithdraw at h
  cases h
  first
  | rfl
  | (simp; done)
  | first | ((first | refine kept_takeDesc _ _ _ _ _ _ (fun s o => ?_)) <;> (repeat' split) <;> first | rfl | (simp_all; done) | ((first | refine kept_takeDesc _ _ _ _ _ _ (fun s o => ?_)) <;> (repeat' split) <;> first | rfl | (simp_all; done) | grind [= kept_portBody]) | grind [= kept_portBody]) | ((repeat' split) <;> first | rfl | (simp_all; done) | ((first | refine kept_takeDesc _ _ _ _ _ _ (fun s o => ?_)) <;> (repeat' split) <;> first | rfl | (simp_all; done) | grind [= kept_portBody]) | grind [= kept_portBody])

@[simp] theorem kept_moduleBody (s : State) (o : Op) : kept (Sys2Proof.Machine.moduleBody s o) = kept s := by
  first
  | rfl
  | (unfold Sys2Proof.Machine.moduleBody; first | (simp; done) | (repeat' split) <;> first | rfl | (simp_all; done) | grind [= kept_complete])

theorem kept_execModuleRead (q : Nat) (desc : Word512) (ext : List Host.Cell) (s : State) {tt : State} (h : Sys2Proof.Machine.execModuleRead q desc ext s = .next tt) : kept tt = kept s := by
  unfold Sys2Proof.Machine.execModuleRead at h
  cases h
  first
  | rfl
  | (simp; done)
  | first | ((first | refine kept_takeDesc _ _ _ _ _ _ (fun s o => ?_)) <;> (repeat' split) <;> first | rfl | (simp_all; done) | ((first | refine kept_takeDesc _ _ _ _ _ _ (fun s o => ?_)) <;> (repeat' split) <;> first | rfl | (simp_all; done) | grind [= kept_moduleBody]) | grind [= kept_moduleBody]) | ((repeat' split) <;> first | rfl | (simp_all; done) | ((first | refine kept_takeDesc _ _ _ _ _ _ (fun s o => ?_)) <;> (repeat' split) <;> first | rfl | (simp_all; done) | grind [= kept_moduleBody]) | grind [= kept_moduleBody])

theorem kept_execModuleWrite (q : Nat) (desc : Word512) (ext : List Host.Cell) (s : State) {tt : State} (h : Sys2Proof.Machine.execModuleWrite q desc ext s = .next tt) : kept tt = kept s := by
  unfold Sys2Proof.Machine.execModuleWrite at h
  cases h
  first
  | rfl
  | (simp; done)
  | first | ((first | refine kept_takeDesc _ _ _ _ _ _ (fun s o => ?_)) <;> (repeat' split) <;> first | rfl | (simp_all; done) | ((first | refine kept_takeDesc _ _ _ _ _ _ (fun s o => ?_)) <;> (repeat' split) <;> first | rfl | (simp_all; done) | grind [= kept_moduleBody]) | grind [= kept_moduleBody]) | ((repeat' split) <;> first | rfl | (simp_all; done) | ((first | refine kept_takeDesc _ _ _ _ _ _ (fun s o => ?_)) <;> (repeat' split) <;> first | rfl | (simp_all; done) | grind [= kept_moduleBody]) | grind [= kept_moduleBody])

@[simp] theorem kept_moduleStart (d octet : Nat) (ack : Bool) (bytes : List Byte) (ext : List Host.Cell) (s0 : State) : kept (Sys2Proof.Machine.moduleStart d octet ack bytes ext s0) = kept s0 := by
  first
  | rfl
  | (unfold Sys2Proof.Machine.moduleStart; first | (simp; done) | (repeat' split) <;> first | rfl | (simp_all; done) | grind [= kept_updOp, = kept_emit, = kept_complete, → kept_draw, = kept_draw_snd, → kept_devWrite, = kept_finishWrites, → kept_devRead, = kept_devSeen])

theorem kept_execModuleAccessStart (d octet : Nat) (ack : Bool) (bytes : List Byte) (ext : List Host.Cell) (s : State) {tt : State} (h : Sys2Proof.Machine.execModuleAccessStart d octet ack bytes ext s = .next tt) : kept tt = kept s := by
  unfold Sys2Proof.Machine.execModuleAccessStart at h
  cases h
  first
  | rfl
  | (simp; done)
  | (repeat' split) <;> first | rfl | (simp_all; done) | grind [= kept_moduleStart]

@[simp] theorem kept_abortJob (s : State) (o : Op) : kept (Sys2Proof.Machine.abortJob s o) = kept s := by
  first
  | rfl
  | (unfold Sys2Proof.Machine.abortJob; first | (simp; done) | (repeat' split) <;> first | rfl | (simp_all; done) | grind [= kept_setCore, = kept_dropJob, = kept_complete, = kept_updCore, = kept_stopJob])

@[simp] theorem kept_recallPosted (s : State) (src : EngSrc) : kept (Sys2Proof.Machine.recallPosted s src) = kept s := by
  first
  | rfl
  | (unfold Sys2Proof.Machine.recallPosted; first | (simp; done) | (repeat' split) <;> first | rfl | (simp_all; done) | grind [= kept_unsent, = kept_freeReq, = kept_updDie, = kept_dropItems])

@[simp] theorem kept_abortEngine (s : State) (o : Op) : kept (Sys2Proof.Machine.abortEngine s o) = kept s := by
  first
  | rfl
  | (unfold Sys2Proof.Machine.abortEngine; first | (simp; done) | (repeat' split) <;> first | rfl | (simp_all; done) | grind [= kept_updReq, = kept_commitReq, = kept_fireActions, = kept_updDie, = kept_freeRoom, = kept_complete, = kept_recallPosted])

@[simp] theorem kept_abortDma (ext : List Host.Cell) (s : State) (o : Op) : kept (Sys2Proof.Machine.abortDma ext s o) = kept s := by
  first
  | rfl
  | (unfold Sys2Proof.Machine.abortDma; first | (simp; done) | (repeat' split) <;> first | rfl | (simp_all; done) | grind [→ kept_draw, = kept_draw_snd, = kept_dmaAdvance, = kept_dmaComplete, = kept_updDma, = kept_complete])

@[simp] theorem kept_abortQueued (s : State) (o : Op) : kept (Sys2Proof.Machine.abortQueued s o) = kept s := by
  first
  | rfl
  | (unfold Sys2Proof.Machine.abortQueued; first | (simp; done) | (repeat' split) <;> first | rfl | (simp_all; done) | grind [= kept_complete])

@[simp] theorem kept_abortTest (s : State) (o : Op) (h : HoopReq) (c : Option Nat) : kept (Sys2Proof.Machine.abortTest s o h c) = kept s := by
  first
  | rfl
  | (unfold Sys2Proof.Machine.abortTest; first | (simp; done) | (repeat' split) <;> first | rfl | (simp_all; done) | grind [= kept_coreServes, = kept_hoopEnd, = kept_updOp])

@[simp] theorem kept_abortStage (s : State) (o : Op) (h : HoopReq) : kept (Sys2Proof.Machine.abortStage s o h) = kept s := by
  first
  | rfl
  | (unfold Sys2Proof.Machine.abortStage; first | (simp; done) | (repeat' split) <;> first | rfl | (simp_all; done) | grind [= kept_hoopEnd])

theorem kept_stopOp (ext : List Host.Cell) (s : State) (o : Op) {tt : State} (h : Sys2Proof.Machine.stopOp ext s o = some tt) : kept tt = kept s := by
  unfold Sys2Proof.Machine.stopOp at h
  revert h
  (repeat' split) <;> intro h <;> first | (cases h; done) | (cases h; rfl) | (cases h; simp_all; done) | grind [= kept_complete, = kept_drainAbort, = kept_gateAbort, = kept_abortJob, = kept_abortEngine, = kept_abortDma, = kept_abortQueued, = kept_abortTest, = kept_abortStage]

@[simp] theorem kept_abortContext (s : State) (c : Ctx) : kept (Sys2Proof.Machine.abortContext s c) = kept s := by
  first
  | rfl
  | (unfold Sys2Proof.Machine.abortContext; first | (simp; done) | (repeat' split) <;> first | rfl | (simp_all; done) | grind [= kept_ctxEnd, = kept_completeId])

@[simp] theorem kept_abortRecs (s : State) (tq ti : Nat) : kept (Sys2Proof.Machine.abortRecs s tq ti) = kept s := by
  first
  | rfl
  | (unfold Sys2Proof.Machine.abortRecs; first | (simp; done) | (repeat' split) <;> first | rfl | (simp_all; done) | grind [= kept_hoopBusy])

@[simp] theorem kept_abortTarget (ext : List Host.Cell) (s : State) (o : Op) (tq ti type : Nat) : kept (abortTarget ext s o tq ti type) = kept s := by
  unfold abortTarget
  extract_lets r src after
  have ha : ∀ s, kept (after s) = kept s := fun s => by simp [after]
  clear_value src
  clear_value after
  split
  · split <;> simp
  · split
    · simp
    · split
      · simp [ha]
      · split
        · split
          · simp
          · rw [ha]; rfl
        · split
          · rename_i h; rw [ha, kept_stopOp _ _ _ h]
          · simp
      · exact kept_ite_of ((ha _).trans (kept_abortRecs _ _ _)) (kept_complete _ _ _ _)

@[simp] theorem kept_abortBody (ext : List Host.Cell) (s : State) (o : Op) : kept (Sys2Proof.Machine.abortBody ext s o) = kept s := by
  first
  | rfl
  | (unfold Sys2Proof.Machine.abortBody; first | (simp; done) | (repeat' split) <;> first | rfl | (simp_all; done) | grind [= kept_complete, → kept_draw, = kept_draw_snd, = kept_abortTarget])

theorem kept_execAbort (q : Nat) (desc : Word512) (ext : List Host.Cell) (s : State) {tt : State} (h : Sys2Proof.Machine.execAbort q desc ext s = .next tt) : kept tt = kept s := by
  unfold Sys2Proof.Machine.execAbort at h
  cases h
  first
  | rfl
  | (simp; done)
  | first | ((first | refine kept_takeDesc _ _ _ _ _ _ (fun s o => ?_)) <;> (repeat' split) <;> first | rfl | (simp_all; done) | ((first | refine kept_takeDesc _ _ _ _ _ _ (fun s o => ?_)) <;> (repeat' split) <;> first | rfl | (simp_all; done) | grind [= kept_abortBody]) | grind [= kept_abortBody]) | ((repeat' split) <;> first | rfl | (simp_all; done) | ((first | refine kept_takeDesc _ _ _ _ _ _ (fun s o => ?_)) <;> (repeat' split) <;> first | rfl | (simp_all; done) | grind [= kept_abortBody]) | grind [= kept_abortBody])

@[simp] theorem kept_descWait (q : Nat) (desc : Word512) (ext : List Host.Cell) (s : State) : kept (Sys2Proof.Machine.descWait q desc ext s) = kept s := by
  first
  | rfl
  | (unfold Sys2Proof.Machine.descWait; first | (simp; done) | (repeat' split) <;> first | rfl | (simp_all; done) | grind [= kept_ringError, = kept_setSq])

theorem kept_execDescriptorWaitTimeout (q : Nat) (desc : Word512) (ext : List Host.Cell) (s : State) {tt : State} (h : Sys2Proof.Machine.execDescriptorWaitTimeout q desc ext s = .next tt) : kept tt = kept s := by
  unfold Sys2Proof.Machine.execDescriptorWaitTimeout at h
  cases h
  first
  | rfl
  | (simp; done)
  | (repeat' split) <;> first | rfl | (simp_all; done) | grind [= kept_descWait]

/-! Machine/Tick -/

@[simp] theorem kept_tick (s : State) : kept (Sys2Proof.Machine.tick s) = kept s := by
  first
  | rfl
  | (unfold Sys2Proof.Machine.tick; first | (simp; done) | (repeat' split) <;> first | rfl | (simp_all; done) | grind [= kept_setDie])

end Sys2Proof.Laws
end

