-- ==== Sys2Proof/Laws/PerInstr.lean ====
section
/-! SUPPORT. What holds of every command as it is written, one lemma for each command: a well-formed command names a die of the package's eight
positions (Table 0-1). -/

namespace Sys2Proof.Laws.Shape

/-- The die position that a command names, where it names one. -/
def dieOf (i : Instr) : Option Nat :=
  match i with
  | .nop d _ => some d
  | .add d _ => some d
  | .sub d _ => some d
  | .mul d _ => some d
  | .and d _ => some d
  | .or d _ => some d
  | .xor d _ => some d
  | .shl d _ => some d
  | .shr d _ => some d
  | .sra d _ => some d
  | .slt d _ => some d
  | .addi d _ => some d
  | .li d _ => some d
  | .lih d _ => some d
  | .ld d _ => some d
  | .st d _ => some d
  | .gat d _ => some d
  | .sld d _ => some d
  | .sbase d _ => some d
  | .cvld d _ => some d
  | .fence d _ => some d
  | .prog d _ => some d
  | .beq d _ => some d
  | .bne d _ => some d
  | .blt d _ => some d
  | .bge d _ => some d
  | .bltu d _ => some d
  | .jal d _ => some d
  | .jr d _ => some d
  | .halt d _ => some d
  | .wld d _ => some d
  | .pass d _ => some d
  | .cvt d _ => some d
  | .acsv d _ => some d
  | .acrs d _ => some d
  | .vop d _ => some d
  | .vfma d _ => some d
  | .vred d _ => some d
  | .vkeep d _ => some d
  | .karv d _ => some d
  | .kwait d _ => some d
  | .ksig d _ => some d
  | .ktake d _ => some d
  | .dma d _ => some d
  | .dmaw d _ => some d
  | .eng d _ => some d
  | .ctrd d _ => some d
  | .arrivalTakesEffect d _ => some d
  | .knotWaitTimeout d _ => some d
  | .arrayPortCycle d _ => some d
  | .accUpdate d _ _ => some d
  | .vectorInstructionDone d _ => some d
  | .jobStart d _ => some d
  | .jobCommit d _ => some d
  | .jobTimeout d _ => some d
  | .nopDescriptor _ _ _ => none
  | .coreJob _ _ _ => none
  | .engineOperation _ _ _ => none
  | .dmaDescriptor _ _ _ => none
  | .contextOpen _ _ _ => none
  | .contextClose _ _ _ => none
  | .tableUpdate _ _ _ => none
  | .tableUpdateActivate _ _ _ => none
  | .maintRecal _ _ _ => none
  | .maintStackScrub _ _ _ => none
  | .maintStackRepair _ _ _ => none
  | .maintCore _ _ _ => none
  | .maintGnd _ _ _ => none
  | .maintSelftest _ _ _ => none
  | .gateList _ _ _ => none
  | .fwStage _ _ _ => none
  | .fwSelect _ _ _ => none
  | .fwCommitSvn _ _ _ => none
  | .fwAttest _ _ _ => none
  | .fwReadCert _ _ _ => none
  | .portAdmit _ _ _ => none
  | .portWithdraw _ _ _ => none
  | .moduleRead _ _ _ => none
  | .moduleWrite _ _ _ => none
  | .abort _ _ _ => none
  | .sqTailWrite _ _ => none
  | .cqHeadWrite _ _ => none
  | .descriptorWaitTimeout _ _ _ => none
  | .completionRecordWrite _ => none
  | .interruptCoalesceTimeout _ => none
  | .progressEntryWrite _ _ _ => none
  | .ringEnable _ _ _ => none
  | .ringDisable _ _ _ => none
  | .ringSetupLock _ => none
  | .registerWrite _ _ => none
  | .companionMemoryAccess _ _ _ _ => none
  | .companionAtomic _ _ _ => none
  | .itgSwitch _ => none
  | .itgLinkDown => none
  | .engineRequestAccept d _ => some d
  | .pool d _ => some d
  | .topkOpen d => some d
  | .topkAdd d _ => some d
  | .topkClose d => some d
  | .convert d _ _ => some d
  | .hash d _ => some d
  | .sum d _ => some d
  | .engineRequestCommit d _ => some d
  | .chainedJobWaitTimeout d => some d
  | .dmaRequestComplete d _ _ => some d
  | .handleCacheFetch d _ _ => some d
  | .packetHeaderArrival d _ _ => some d
  | .packetReceived d _ _ _ => some d
  | .bridgeHop d _ => some d
  | .packetTransmit d _ => some d
  | .residenceExpiry d _ _ => some d
  | .escWaitExpiry d _ => some d
  | .warmGroupEnd _ => none
  | .depthSample d => some d
  | .write d => some d
  | .read d => some d
  | .atomic d => some d
  | .engine d => some d
  | .readData d => some d
  | .atomicData d => some d
  | .engDone d => some d
  | .replyWrite d => some d
  | .ack d => some d
  | .resend d => some d
  | .mgmtMsg d => some d
  | .ackDelayExpiry d _ _ => some d
  | .rtoExpiry d _ _ _ => some d
  | .finWaitExpiry d _ _ => some d
  | .sequenceHoldoffExpiry => none
  | .fabSelfWrite d _ => some d
  | .data d _ => some d
  | .prick d _ => some d
  | .result d => some d
  | .window d => some d
  | .recontrib d => some d
  | .deliver d => some d
  | .collAck d => some d
  | .chunkResultConvert d _ => some d
  | .contextAdmissionTry => none
  | .admissionTimeout _ => none
  | .localContributionStart d => some d
  | .contextCommit => none
  | .contextLimitExpiry _ _ => none
  | .arrive d => some d
  | .release d => some d
  | .arriveRepeat _ => none
  | .timedRelease d _ => some d
  | .knotCfgWrite d _ _ => some d
  | .syncTime d => some d
  | .syncTimeSend => none
  | .delayReq d => some d
  | .delayReqSend => none
  | .delayRsp d => some d
  | .ptpMessage _ _ => none
  | .measurementTimeout => none
  | .holdSExpiry => none
  | .timeCfgSrcWrite _ => none
  | .timeNowRead d => some d
  | .lockstepOrphanTimeout => none
  | .gateTakeover d _ => some d
  | .gateEntryChange d _ => some d
  | .hoopGrant => none
  | .hoopActivityCommit _ d _ _ => some d
  | .coreTestComplete d _ _ _ _ => some d
  | .drainStopComplete => none
  | .drainWaitComplete => none
  | .drainCommit => none
  | .codewordReceived d _ _ _ _ => some d
  | .credit d _ _ _ => some d
  | .advert d _ _ _ => some d
  | .state d _ _ _ => some d
  | .creditRepeat d _ => some d
  | .advertRepeat d _ => some d
  | .laneSignalDetect d _ _ => some d
  | .trainingFrame d _ _ _ _ => some d
  | .trainMsExpiry d _ => some d
  | .helloFrame d _ _ => some d
  | .helloTimeout d _ => some d
  | .lossOfSignal d _ => some d
  | .faultOrderedSet d _ => some d
  | .presenceDebounced d _ => some d
  | .unplug d _ => some d
  | .cmisPoll d _ _ _ _ _ _ => some d
  | .moduleReadyTimeout d _ => some d
  | .buttonRelease d _ _ => some d
  | .buttonStuck d _ => some d
  | .sidebandTest d _ _ => some d
  | .removalComplete d _ _ => some d
  | .portCfgWrite d _ _ => some d
  | .laneCtlWrite d _ _ => some d
  | .swPolrateWrite d _ _ _ => some d
  | .swHistBaseWrite d _ => some d
  | .timeDlogWrite _ => none
  | .pmcLowWordRead d _ => some d
  | .pmcCounterWrite d _ _ => some d
  | .pmcPwinWrite d _ _ => some d
  | .bandwidthWindowEnd d _ => some d
  | .groundScrub d _ _ _ _ => some d
  | .stackPatrolScrub d _ _ _ _ _ _ _ _ => some d
  | .stackRefresh d => some d
  | .stackTemperature d _ => some d
  | .stackChannelCopyComplete d _ => some d
  | .stackZeroFillComplete d => some d
  | .keepRepairRecordWrite => none
  | .keepPresetWrite d _ => some d
  | .unitFaultC2 d _ _ _ => some d
  | .bridgeTransferFailure d _ _ _ _ => some d
  | .dieFaultC3 d _ => some d
  | .stewardHeartbeatLost d => some d
  | .packageFaultC4 _ => none
  | .railOutOfRange _ => none
  | .ref25Absent => none
  | .junctionTemperatureSample d _ => some d
  | .powerCapStep _ => none
  | .throtNChange _ => none
  | .avsSetpointStep d _ _ => some d
  | .coreIdleSleep d _ => some d
  | .engineIdleSleep d _ => some d
  | .pwrCtlStandby _ => none
  | .pwrCtlReady _ => none
  | .wakeNAssert => none
  | .coreRailsInRange => none
  | .porstNRelease _ => none
  | .sysrstNRelease _ => none
  | .powerOff => none
  | .firmwareVerify _ _ _ _ => none
  | .bootChecksComplete d _ => some d
  | .bootComplete _ _ => none
  | .testLogicReset => none
  | .idcode => none
  | .samplePreload _ _ => none
  | .extest _ _ _ => none
  | .extestPulse _ _ _ => none
  | .extestTrain _ _ _ => none
  | .highz _ => none
  | .clamp _ => none
  | .bypass _ => none
  | .powerUp => none
  | .prbsCheckerLock d _ _ _ => some d
  | .buttonStuckClear d _ => some d
  | .standbyEntryComplete => none
  | .moduleAccessStart d _ _ _ _ => some d

/-- A well-formed command names a die below 8, if it names any. -/
def Statement (i : Instr) : Prop := wellFormed i = true → ∀ d, dieOf i = some d → d < 8

/-- The first check of a well-formed command. -/
theorem fst {a b : Bool} (h : (a && b) = true) : a = true := by cases a <;> simp_all

/-- A die position that passes its check. -/
theorem below {d : Nat} (h : okDie d = true) : ∀ e, some d = some e → e < 8 := by
  intro e he
  cases he
  exact of_decide_eq_true h

/-- A command that names no die. -/
theorem noDie {p : Prop} : p → ∀ e : Nat, none = some e → e < 8 := by
  intro _ e he
  cases he

theorem nop : ∀ d c, Statement (.nop d c) := fun _ _ h => below (fst h)
theorem add : ∀ d c, Statement (.add d c) := fun _ _ h => below (fst h)
theorem sub : ∀ d c, Statement (.sub d c) := fun _ _ h => below (fst h)
theorem mul : ∀ d c, Statement (.mul d c) := fun _ _ h => below (fst h)
theorem and : ∀ d c, Statement (.and d c) := fun _ _ h => below (fst h)
theorem or : ∀ d c, Statement (.or d c) := fun _ _ h => below (fst h)
theorem xor : ∀ d c, Statement (.xor d c) := fun _ _ h => below (fst h)
theorem shl : ∀ d c, Statement (.shl d c) := fun _ _ h => below (fst h)
theorem shr : ∀ d c, Statement (.shr d c) := fun _ _ h => below (fst h)
theorem sra : ∀ d c, Statement (.sra d c) := fun _ _ h => below (fst h)
theorem slt : ∀ d c, Statement (.slt d c) := fun _ _ h => below (fst h)
theorem addi : ∀ d c, Statement (.addi d c) := fun _ _ h => below (fst h)
theorem li : ∀ d c, Statement (.li d c) := fun _ _ h => below (fst h)
theorem lih : ∀ d c, Statement (.lih d c) := fun _ _ h => below (fst h)
theorem ld : ∀ d c, Statement (.ld d c) := fun _ _ h => below (fst h)
theorem st : ∀ d c, Statement (.st d c) := fun _ _ h => below (fst h)
theorem gat : ∀ d c, Statement (.gat d c) := fun _ _ h => below (fst h)
theorem sld : ∀ d c, Statement (.sld d c) := fun _ _ h => below (fst h)
theorem sbase : ∀ d c, Statement (.sbase d c) := fun _ _ h => below (fst h)
theorem cvld : ∀ d c, Statement (.cvld d c) := fun _ _ h => below (fst h)
theorem fence : ∀ d c, Statement (.fence d c) := fun _ _ h => below (fst h)
theorem prog : ∀ d c, Statement (.prog d c) := fun _ _ h => below (fst h)
theorem beq : ∀ d c, Statement (.beq d c) := fun _ _ h => below (fst h)
theorem bne : ∀ d c, Statement (.bne d c) := fun _ _ h => below (fst h)
theorem blt : ∀ d c, Statement (.blt d c) := fun _ _ h => below (fst h)
theorem bge : ∀ d c, Statement (.bge d c) := fun _ _ h => below (fst h)
theorem bltu : ∀ d c, Statement (.bltu d c) := fun _ _ h => below (fst h)
theorem jal : ∀ d c, Statement (.jal d c) := fun _ _ h => below (fst h)
theorem jr : ∀ d c, Statement (.jr d c) := fun _ _ h => below (fst h)
theorem halt : ∀ d c, Statement (.halt d c) := fun _ _ h => below (fst h)
theorem wld : ∀ d c, Statement (.wld d c) := fun _ _ h => below (fst h)
theorem pass : ∀ d c, Statement (.pass d c) := fun _ _ h => below (fst h)
theorem cvt : ∀ d c, Statement (.cvt d c) := fun _ _ h => below (fst h)
theorem acsv : ∀ d c, Statement (.acsv d c) := fun _ _ h => below (fst h)
theorem acrs : ∀ d c, Statement (.acrs d c) := fun _ _ h => below (fst h)
theorem vop : ∀ d c, Statement (.vop d c) := fun _ _ h => below (fst h)
theorem vfma : ∀ d c, Statement (.vfma d c) := fun _ _ h => below (fst h)
theorem vred : ∀ d c, Statement (.vred d c) := fun _ _ h => below (fst h)
theorem vkeep : ∀ d c, Statement (.vkeep d c) := fun _ _ h => below (fst h)
theorem karv : ∀ d c, Statement (.karv d c) := fun _ _ h => below (fst h)
theorem kwait : ∀ d c, Statement (.kwait d c) := fun _ _ h => below (fst h)
theorem ksig : ∀ d c, Statement (.ksig d c) := fun _ _ h => below (fst h)
theorem ktake : ∀ d c, Statement (.ktake d c) := fun _ _ h => below (fst h)
theorem dma : ∀ d c, Statement (.dma d c) := fun _ _ h => below (fst h)
theorem dmaw : ∀ d c, Statement (.dmaw d c) := fun _ _ h => below (fst h)
theorem eng : ∀ d c, Statement (.eng d c) := fun _ _ h => below (fst h)
theorem ctrd : ∀ d c, Statement (.ctrd d c) := fun _ _ h => below (fst h)
theorem arrivalTakesEffect : ∀ d c, Statement (.arrivalTakesEffect d c) := fun _ _ h => below (fst h)
theorem knotWaitTimeout : ∀ d c, Statement (.knotWaitTimeout d c) := fun _ _ h => below (fst h)
theorem arrayPortCycle : ∀ d c, Statement (.arrayPortCycle d c) := fun _ _ h => below (fst h)
theorem accUpdate : ∀ d c mismatch, Statement (.accUpdate d c mismatch) := fun _ _ _ h => below (fst h)
theorem vectorInstructionDone : ∀ d c, Statement (.vectorInstructionDone d c) := fun _ _ h => below (fst h)
theorem jobStart : ∀ d c, Statement (.jobStart d c) := fun _ _ h => below (fst h)
theorem jobCommit : ∀ d c, Statement (.jobCommit d c) := fun _ _ h => below (fst h)
theorem jobTimeout : ∀ d c, Statement (.jobTimeout d c) := fun _ _ h => below (fst h)
theorem nopDescriptor : ∀ q desc ext, Statement (.nopDescriptor q desc ext) := fun _ _ _ => noDie
theorem coreJob : ∀ q desc ext, Statement (.coreJob q desc ext) := fun _ _ _ => noDie
theorem engineOperation : ∀ q desc ext, Statement (.engineOperation q desc ext) := fun _ _ _ => noDie
theorem dmaDescriptor : ∀ q desc ext, Statement (.dmaDescriptor q desc ext) := fun _ _ _ => noDie
theorem contextOpen : ∀ q desc ext, Statement (.contextOpen q desc ext) := fun _ _ _ => noDie
theorem contextClose : ∀ q desc ext, Statement (.contextClose q desc ext) := fun _ _ _ => noDie
theorem tableUpdate : ∀ q desc ext, Statement (.tableUpdate q desc ext) := fun _ _ _ => noDie
theorem tableUpdateActivate : ∀ q desc ext, Statement (.tableUpdateActivate q desc ext) := fun _ _ _ => noDie
theorem maintRecal : ∀ q desc ext, Statement (.maintRecal q desc ext) := fun _ _ _ => noDie
theorem maintStackScrub : ∀ q desc ext, Statement (.maintStackScrub q desc ext) := fun _ _ _ => noDie
theorem maintStackRepair : ∀ q desc ext, Statement (.maintStackRepair q desc ext) := fun _ _ _ => noDie
theorem maintCore : ∀ q desc ext, Statement (.maintCore q desc ext) := fun _ _ _ => noDie
theorem maintGnd : ∀ q desc ext, Statement (.maintGnd q desc ext) := fun _ _ _ => noDie
theorem maintSelftest : ∀ q desc ext, Statement (.maintSelftest q desc ext) := fun _ _ _ => noDie
theorem gateList : ∀ q desc ext, Statement (.gateList q desc ext) := fun _ _ _ => noDie
theorem fwStage : ∀ q desc ext, Statement (.fwStage q desc ext) := fun _ _ _ => noDie
theorem fwSelect : ∀ q desc ext, Statement (.fwSelect q desc ext) := fun _ _ _ => noDie
theorem fwCommitSvn : ∀ q desc ext, Statement (.fwCommitSvn q desc ext) := fun _ _ _ => noDie
theorem fwAttest : ∀ q desc ext, Statement (.fwAttest q desc ext) := fun _ _ _ => noDie
theorem fwReadCert : ∀ q desc ext, Statement (.fwReadCert q desc ext) := fun _ _ _ => noDie
theorem portAdmit : ∀ q desc ext, Statement (.portAdmit q desc ext) := fun _ _ _ => noDie
theorem portWithdraw : ∀ q desc ext, Statement (.portWithdraw q desc ext) := fun _ _ _ => noDie
theorem moduleRead : ∀ q desc ext, Statement (.moduleRead q desc ext) := fun _ _ _ => noDie
theorem moduleWrite : ∀ q desc ext, Statement (.moduleWrite q desc ext) := fun _ _ _ => noDie
theorem abort : ∀ q desc ext, Statement (.abort q desc ext) := fun _ _ _ => noDie
theorem sqTailWrite : ∀ q v, Statement (.sqTailWrite q v) := fun _ _ => noDie
theorem cqHeadWrite : ∀ ring v, Statement (.cqHeadWrite ring v) := fun _ _ => noDie
theorem descriptorWaitTimeout : ∀ q desc ext, Statement (.descriptorWaitTimeout q desc ext) := fun _ _ _ => noDie
theorem completionRecordWrite : ∀ cq, Statement (.completionRecordWrite cq) := fun _ => noDie
theorem interruptCoalesceTimeout : ∀ ring, Statement (.interruptCoalesceTimeout ring) := fun _ => noDie
theorem progressEntryWrite : ∀ q idx pos, Statement (.progressEntryWrite q idx pos) := fun _ _ _ => noDie
theorem ringEnable : ∀ kind ring v, Statement (.ringEnable kind ring v) := fun _ _ _ => noDie
theorem ringDisable : ∀ kind ring v, Statement (.ringDisable kind ring v) := fun _ _ _ => noDie
theorem ringSetupLock : ∀ v, Statement (.ringSetupLock v) := fun _ => noDie
theorem registerWrite : ∀ addr v, Statement (.registerWrite addr v) := fun _ _ => noDie
theorem companionMemoryAccess : ∀ write addr n data, Statement (.companionMemoryAccess write addr n data) := fun _ _ _ _ => noDie
theorem companionAtomic : ∀ addr aop y, Statement (.companionAtomic addr aop y) := fun _ _ _ => noDie
theorem itgSwitch : ∀ v, Statement (.itgSwitch v) := fun _ => noDie
theorem itgLinkDown : Statement .itgLinkDown := noDie
theorem engineRequestAccept : ∀ d e, Statement (.engineRequestAccept d e) := fun _ _ h => below (fst h)
theorem pool : ∀ d ext, Statement (.pool d ext) := fun _ _ h => below (fst h)
theorem topkOpen : ∀ d, Statement (.topkOpen d) := fun _ h => below h
theorem topkAdd : ∀ d ext, Statement (.topkAdd d ext) := fun _ _ h => below (fst h)
theorem topkClose : ∀ d, Statement (.topkClose d) := fun _ h => below h
theorem convert : ∀ d u ext, Statement (.convert d u ext) := fun _ _ _ h => below (fst (fst h))
theorem hash : ∀ d ext, Statement (.hash d ext) := fun _ _ h => below (fst h)
theorem sum : ∀ d ext, Statement (.sum d ext) := fun _ _ h => below (fst h)
theorem engineRequestCommit : ∀ d u, Statement (.engineRequestCommit d u) := fun _ _ h => below (fst h)
theorem chainedJobWaitTimeout : ∀ d, Statement (.chainedJobWaitTimeout d) := fun _ h => below h
theorem dmaRequestComplete : ∀ d id ext, Statement (.dmaRequestComplete d id ext) := fun _ _ _ h => below (fst h)
theorem handleCacheFetch : ∀ d p g, Statement (.handleCacheFetch d p g) := fun _ _ _ h => below (fst (fst h))
theorem packetHeaderArrival : ∀ d l hdr, Statement (.packetHeaderArrival d l hdr) := fun _ _ _ h => below (fst h)
theorem packetReceived : ∀ d l rest fecOk, Statement (.packetReceived d l rest fecOk) := fun _ _ _ _ h => below (fst (fst h))
theorem bridgeHop : ∀ d b, Statement (.bridgeHop d b) := fun _ _ h => below (fst h)
theorem packetTransmit : ∀ d l, Statement (.packetTransmit d l) := fun _ _ h => below (fst h)
theorem residenceExpiry : ∀ d o i, Statement (.residenceExpiry d o i) := fun _ _ _ h => below (fst h)
theorem escWaitExpiry : ∀ d i, Statement (.escWaitExpiry d i) := fun _ _ h => below h
theorem warmGroupEnd : ∀ g, Statement (.warmGroupEnd g) := fun _ => noDie
theorem depthSample : ∀ d, Statement (.depthSample d) := fun _ h => below h
theorem write : ∀ d, Statement (.write d) := fun _ h => below h
theorem read : ∀ d, Statement (.read d) := fun _ h => below h
theorem atomic : ∀ d, Statement (.atomic d) := fun _ h => below h
theorem engine : ∀ d, Statement (.engine d) := fun _ h => below h
theorem readData : ∀ d, Statement (.readData d) := fun _ h => below h
theorem atomicData : ∀ d, Statement (.atomicData d) := fun _ h => below h
theorem engDone : ∀ d, Statement (.engDone d) := fun _ h => below h
theorem replyWrite : ∀ d, Statement (.replyWrite d) := fun _ h => below h
theorem ack : ∀ d, Statement (.ack d) := fun _ h => below h
theorem resend : ∀ d, Statement (.resend d) := fun _ h => below h
theorem mgmtMsg : ∀ d, Statement (.mgmtMsg d) := fun _ h => below h
theorem ackDelayExpiry : ∀ d agent chip, Statement (.ackDelayExpiry d agent chip) := fun _ _ _ h => below (fst h)
theorem rtoExpiry : ∀ d agent chip seq, Statement (.rtoExpiry d agent chip seq) := fun _ _ _ _ h => below (fst h)
theorem finWaitExpiry : ∀ d src tag, Statement (.finWaitExpiry d src tag) := fun _ _ _ h => below (fst (fst h))
theorem sequenceHoldoffExpiry : Statement .sequenceHoldoffExpiry := noDie
theorem fabSelfWrite : ∀ d v, Statement (.fabSelfWrite d v) := fun _ _ h => below h
theorem data : ∀ d poison, Statement (.data d poison) := fun _ _ h => below (fst h)
theorem prick : ∀ d poison, Statement (.prick d poison) := fun _ _ h => below (fst h)
theorem result : ∀ d, Statement (.result d) := fun _ h => below h
theorem window : ∀ d, Statement (.window d) := fun _ h => below h
theorem recontrib : ∀ d, Statement (.recontrib d) := fun _ h => below h
theorem deliver : ∀ d, Statement (.deliver d) := fun _ h => below h
theorem collAck : ∀ d, Statement (.collAck d) := fun _ h => below h
theorem chunkResultConvert : ∀ d poison, Statement (.chunkResultConvert d poison) := fun _ _ h => below (fst h)
theorem contextAdmissionTry : Statement .contextAdmissionTry := noDie
theorem admissionTimeout : ∀ id, Statement (.admissionTimeout id) := fun _ => noDie
theorem localContributionStart : ∀ d, Statement (.localContributionStart d) := fun _ h => below h
theorem contextCommit : Statement .contextCommit := noDie
theorem contextLimitExpiry : ∀ id gen, Statement (.contextLimitExpiry id gen) := fun _ _ => noDie
theorem arrive : ∀ d, Statement (.arrive d) := fun _ h => below h
theorem release : ∀ d, Statement (.release d) := fun _ h => below h
theorem arriveRepeat : ∀ k, Statement (.arriveRepeat k) := fun _ => noDie
theorem timedRelease : ∀ d k, Statement (.timedRelease d k) := fun _ _ h => below (fst h)
theorem knotCfgWrite : ∀ d k v, Statement (.knotCfgWrite d k v) := fun _ _ _ h => below (fst h)
theorem syncTime : ∀ d, Statement (.syncTime d) := fun _ h => below h
theorem syncTimeSend : Statement .syncTimeSend := noDie
theorem delayReq : ∀ d, Statement (.delayReq d) := fun _ h => below h
theorem delayReqSend : Statement .delayReqSend := noDie
theorem delayRsp : ∀ d, Statement (.delayRsp d) := fun _ h => below h
theorem ptpMessage : ∀ transport msg, Statement (.ptpMessage transport msg) := fun _ _ => noDie
theorem measurementTimeout : Statement .measurementTimeout := noDie
theorem holdSExpiry : Statement .holdSExpiry := noDie
theorem timeCfgSrcWrite : ∀ v, Statement (.timeCfgSrcWrite v) := fun _ => noDie
theorem timeNowRead : ∀ d, Statement (.timeNowRead d) := fun _ h => below h
theorem lockstepOrphanTimeout : Statement .lockstepOrphanTimeout := noDie
theorem gateTakeover : ∀ d l, Statement (.gateTakeover d l) := fun _ _ h => below (fst h)
theorem gateEntryChange : ∀ d l, Statement (.gateEntryChange d l) := fun _ _ h => below (fst h)
theorem hoopGrant : Statement .hoopGrant := noDie
theorem hoopActivityCommit : ∀ act d found ext, Statement (.hoopActivityCommit act d found ext) := fun _ _ _ _ h => below (by simp only [wellFormed, Bool.and_eq_true] at h; exact h.1.2)
theorem coreTestComplete : ∀ d find arr col row, Statement (.coreTestComplete d find arr col row) := fun _ _ _ _ _ h => below (fst h)
theorem drainStopComplete : Statement .drainStopComplete := noDie
theorem drainWaitComplete : Statement .drainWaitComplete := noDie
theorem drainCommit : Statement .drainCommit := noDie
theorem codewordReceived : ∀ d i ctl data par, Statement (.codewordReceived d i ctl data par) := fun _ _ _ _ _ h => below (fst h)
theorem credit : ∀ d l b cnt, Statement (.credit d l b cnt) := fun _ _ _ _ h => below (fst (fst (fst h)))
theorem advert : ∀ d l b units, Statement (.advert d l b units) := fun _ _ _ _ h => below (fst (fst (fst h)))
theorem state : ∀ d l st drained, Statement (.state d l st drained) := fun _ _ _ _ h => below (fst (fst h))
theorem creditRepeat : ∀ d l, Statement (.creditRepeat d l) := fun _ _ h => below (fst h)
theorem advertRepeat : ∀ d l, Statement (.advertRepeat d l) := fun _ _ h => below (fst h)
theorem laneSignalDetect : ∀ d i long, Statement (.laneSignalDetect d i long) := fun _ _ _ h => below (fst h)
theorem trainingFrame : ∀ d i c inv ask, Statement (.trainingFrame d i c inv ask) := fun _ _ _ _ _ h => below (fst (fst (fst h)))
theorem trainMsExpiry : ∀ d l, Statement (.trainMsExpiry d l) := fun _ _ h => below (fst h)
theorem helloFrame : ∀ d i bs, Statement (.helloFrame d i bs) := fun _ _ _ h => below (fst h)
theorem helloTimeout : ∀ d l, Statement (.helloTimeout d l) := fun _ _ h => below (fst h)
theorem lossOfSignal : ∀ d i, Statement (.lossOfSignal d i) := fun _ _ h => below (fst h)
theorem faultOrderedSet : ∀ d i, Statement (.faultOrderedSet d i) := fun _ _ h => below (fst h)
theorem presenceDebounced : ∀ d o, Statement (.presenceDebounced d o) := fun _ _ h => below (fst h)
theorem unplug : ∀ d o, Statement (.unplug d o) := fun _ _ h => below (fst h)
theorem cmisPoll : ∀ d o ack app ready modst alarms, Statement (.cmisPoll d o ack app ready modst alarms) := fun _ _ _ _ _ _ _ h => below (fst (fst (fst h)))
theorem moduleReadyTimeout : ∀ d o, Statement (.moduleReadyTimeout d o) := fun _ _ h => below (fst h)
theorem buttonRelease : ∀ d o ms, Statement (.buttonRelease d o ms) := fun _ _ _ h => below (fst h)
theorem buttonStuck : ∀ d o, Statement (.buttonStuck d o) := fun _ _ h => below (fst h)
theorem sidebandTest : ∀ d o found, Statement (.sidebandTest d o found) := fun _ _ _ h => below (fst h)
theorem removalComplete : ∀ d l late, Statement (.removalComplete d l late) := fun _ _ _ h => below (fst h)
theorem portCfgWrite : ∀ d o v, Statement (.portCfgWrite d o v) := fun _ _ _ h => below (fst h)
theorem laneCtlWrite : ∀ d i v, Statement (.laneCtlWrite d i v) := fun _ _ _ h => below (fst h)
theorem swPolrateWrite : ∀ d l c v, Statement (.swPolrateWrite d l c v) := fun _ _ _ _ h => below (fst (fst h))
theorem swHistBaseWrite : ∀ d v, Statement (.swHistBaseWrite d v) := fun _ _ h => below h
theorem timeDlogWrite : ∀ v, Statement (.timeDlogWrite v) := fun _ => noDie
theorem pmcLowWordRead : ∀ d off, Statement (.pmcLowWordRead d off) := fun _ _ h => below h
theorem pmcCounterWrite : ∀ d off v, Statement (.pmcCounterWrite d off v) := fun _ _ _ h => below h
theorem pmcPwinWrite : ∀ d l v, Statement (.pmcPwinWrite d l v) := fun _ _ _ h => below (fst h)
theorem bandwidthWindowEnd : ∀ d l, Statement (.bandwidthWindowEnd d l) := fun _ _ h => below (fst h)
theorem groundScrub : ∀ d ces ues rows turned, Statement (.groundScrub d ces ues rows turned) := fun _ _ _ _ _ h => below h
theorem stackPatrolScrub : ∀ d ces ues rows tested cols chans lines turned, Statement (.stackPatrolScrub d ces ues rows tested cols chans lines turned) := fun _ _ _ _ _ _ _ _ _ h => below h
theorem stackRefresh : ∀ d, Statement (.stackRefresh d) := fun _ h => below h
theorem stackTemperature : ∀ d t, Statement (.stackTemperature d t) := fun _ _ h => below h
theorem stackChannelCopyComplete : ∀ d bad, Statement (.stackChannelCopyComplete d bad) := fun _ _ h => below h
theorem stackZeroFillComplete : ∀ d, Statement (.stackZeroFillComplete d) := fun _ h => below h
theorem keepRepairRecordWrite : Statement .keepRepairRecordWrite := noDie
theorem keepPresetWrite : ∀ d l, Statement (.keepPresetWrite d l) := fun _ _ h => below (fst h)
theorem unitFaultC2 : ∀ d code idx arg, Statement (.unitFaultC2 d code idx arg) := fun _ _ _ _ h => below (fst (fst h))
theorem bridgeTransferFailure : ∀ d b g w how, Statement (.bridgeTransferFailure d b g w how) := fun _ _ _ _ _ h => below (fst (fst (fst h)))
theorem dieFaultC3 : ∀ d code, Statement (.dieFaultC3 d code) := fun _ _ h => below (fst (fst h))
theorem stewardHeartbeatLost : ∀ d, Statement (.stewardHeartbeatLost d) := fun _ h => below h
theorem packageFaultC4 : ∀ code, Statement (.packageFaultC4 code) := fun _ => noDie
theorem railOutOfRange : ∀ rail, Statement (.railOutOfRange rail) := fun _ => noDie
theorem ref25Absent : Statement .ref25Absent := noDie
theorem junctionTemperatureSample : ∀ d tj, Statement (.junctionTemperatureSample d tj) := fun _ _ h => below h
theorem powerCapStep : ∀ watts, Statement (.powerCapStep watts) := fun _ => noDie
theorem throtNChange : ∀ low, Statement (.throtNChange low) := fun _ => noDie
theorem avsSetpointStep : ∀ d rise ack, Statement (.avsSetpointStep d rise ack) := fun _ _ _ h => below h
theorem coreIdleSleep : ∀ d c, Statement (.coreIdleSleep d c) := fun _ _ h => below (fst h)
theorem engineIdleSleep : ∀ d u, Statement (.engineIdleSleep d u) := fun _ _ h => below (fst h)
theorem pwrCtlStandby : ∀ woken, Statement (.pwrCtlStandby woken) := fun _ => noDie
theorem pwrCtlReady : ∀ woken, Statement (.pwrCtlReady woken) := fun _ => noDie
theorem wakeNAssert : Statement .wakeNAssert := noDie
theorem coreRailsInRange : Statement .coreRailsInRange := noDie
theorem porstNRelease : ∀ low, Statement (.porstNRelease low) := fun _ => noDie
theorem sysrstNRelease : ∀ low, Statement (.sysrstNRelease low) := fun _ => noDie
theorem powerOff : Statement .powerOff := noDie
theorem firmwareVerify : ∀ ids bad stA stB, Statement (.firmwareVerify ids bad stA stB) := fun _ _ _ _ => noDie
theorem bootChecksComplete : ∀ d found, Statement (.bootChecksComplete d found) := fun _ _ h => below h
theorem bootComplete : ∀ width0 width1, Statement (.bootComplete width0 width1) := fun _ _ => noDie
theorem testLogicReset : Statement .testLogicReset := noDie
theorem idcode : Statement .idcode := noDie
theorem samplePreload : ∀ pins v, Statement (.samplePreload pins v) := fun _ _ => noDie
theorem extest : ∀ pins v low, Statement (.extest pins v low) := fun _ _ _ => noDie
theorem extestPulse : ∀ pins v low, Statement (.extestPulse pins v low) := fun _ _ _ => noDie
theorem extestTrain : ∀ pins v low, Statement (.extestTrain pins v low) := fun _ _ _ => noDie
theorem highz : ∀ low, Statement (.highz low) := fun _ => noDie
theorem clamp : ∀ low, Statement (.clamp low) := fun _ => noDie
theorem bypass : ∀ code, Statement (.bypass code) := fun _ => noDie
theorem powerUp : Statement .powerUp := noDie
theorem prbsCheckerLock : ∀ d i n rx, Statement (.prbsCheckerLock d i n rx) := fun _ _ _ _ h => below (fst (fst h))
theorem buttonStuckClear : ∀ d o, Statement (.buttonStuckClear d o) := fun _ _ h => below (fst h)
theorem standbyEntryComplete : Statement .standbyEntryComplete := noDie
theorem moduleAccessStart : ∀ d octet ack bytes ext, Statement (.moduleAccessStart d octet ack bytes ext) := fun _ _ _ _ _ h => below (fst (fst h))

end Sys2Proof.Laws.Shape
end

