-- ==== Sys2Proof/Laws/Step.lean ====
section
/-! SUPPORT. What every command keeps (R470, R480): the variant, the queue, the identity seed; only the commit of an activity may raise the counter. -/

namespace Sys2Proof.Laws

open Sys2Proof.Machine

/-- R480: a command keeps the variant, the queue and the identity seed, and never lowers the anti-rollback counter. -/
theorem exec_kept (c : Instr) (s t : State) (h : exec c s = .next t) :
    ∃ n, s.keep.arb ≤ n ∧ kept t = (s.variant, s.pending, n, s.keep.ident) := by
  have e : ∀ {u : State}, kept u = kept s → ∃ n, s.keep.arb ≤ n ∧ kept u = (s.variant, s.pending, n, s.keep.ident) :=
    fun h => ⟨_, Nat.le_refl _, h⟩
  cases c
  case nop => exact e (kept_execNop _ _ _ h)
  case add => exact e (kept_execAdd _ _ _ h)
  case sub => exact e (kept_execSub _ _ _ h)
  case mul => exact e (kept_execMul _ _ _ h)
  case and => exact e (kept_execAnd _ _ _ h)
  case or => exact e (kept_execOr _ _ _ h)
  case xor => exact e (kept_execXor _ _ _ h)
  case shl => exact e (kept_execShl _ _ _ h)
  case shr => exact e (kept_execShr _ _ _ h)
  case sra => exact e (kept_execSra _ _ _ h)
  case slt => exact e (kept_execSlt _ _ _ h)
  case addi => exact e (kept_execAddi _ _ _ h)
  case li => exact e (kept_execLi _ _ _ h)
  case lih => exact e (kept_execLih _ _ _ h)
  case ld => exact e (kept_execLd _ _ _ h)
  case st => exact e (kept_execSt _ _ _ h)
  case gat => exact e (kept_execGat _ _ _ h)
  case sld => exact e (kept_execSld _ _ _ h)
  case sbase => exact e (kept_execSbase _ _ _ h)
  case cvld => exact e (kept_execCvld _ _ _ h)
  case fence => exact e (kept_execFence _ _ _ h)
  case prog => exact e (kept_execProg _ _ _ h)
  case beq => exact e (kept_execBeq _ _ _ h)
  case bne => exact e (kept_execBne _ _ _ h)
  case blt => exact e (kept_execBlt _ _ _ h)
  case bge => exact e (kept_execBge _ _ _ h)
  case bltu => exact e (kept_execBltu _ _ _ h)
  case jal => exact e (kept_execJal _ _ _ h)
  case jr => exact e (kept_execJr _ _ _ h)
  case halt => exact e (kept_execHalt _ _ _ h)
  case wld => exact e (kept_execWld _ _ _ h)
  case pass => exact e (kept_execPass _ _ _ h)
  case cvt => exact e (kept_execCvt _ _ _ h)
  case acsv => exact e (kept_execAcsv _ _ _ h)
  case acrs => exact e (kept_execAcrs _ _ _ h)
  case vop => exact e (kept_execVop _ _ _ h)
  case vfma => exact e (kept_execVfma _ _ _ h)
  case vred => exact e (kept_execVred _ _ _ h)
  case vkeep => exact e (kept_execVkeep _ _ _ h)
  case karv => exact e (kept_execKarv _ _ _ h)
  case kwait => exact e (kept_execKwait _ _ _ h)
  case ksig => exact e (kept_execKsig _ _ _ h)
  case ktake => exact e (kept_execKtake _ _ _ h)
  case dma => exact e (kept_execDma _ _ _ h)
  case dmaw => exact e (kept_execDmaw _ _ _ h)
  case eng => exact e (kept_execEng _ _ _ h)
  case ctrd => exact e (kept_execCtrd _ _ _ h)
  case arrivalTakesEffect => exact e (kept_execArrivalTakesEffect _ _ _ h)
  case knotWaitTimeout => exact e (kept_execKnotWaitTimeout _ _ _ h)
  case arrayPortCycle => exact e (kept_execArrayPortCycle _ _ _ h)
  case accUpdate => exact e (kept_execAccUpdate _ _ _ _ h)
  case vectorInstructionDone => exact e (kept_execVectorInstructionDone _ _ _ h)
  case jobStart => exact e (kept_execJobStart _ _ _ h)
  case jobCommit => exact e (kept_execJobCommit _ _ _ h)
  case jobTimeout => exact e (kept_execJobTimeout _ _ _ h)
  case nopDescriptor => exact e (kept_execNopDescriptor _ _ _ _ h)
  case coreJob => exact e (kept_execCoreJob _ _ _ _ h)
  case engineOperation => exact e (kept_execEngineOperation _ _ _ _ h)
  case dmaDescriptor => exact e (kept_execDmaDescriptor _ _ _ _ h)
  case contextOpen => exact e (kept_execContextOpen _ _ _ _ h)
  case contextClose => exact e (kept_execContextClose _ _ _ _ h)
  case tableUpdate => exact e (kept_execTableUpdate _ _ _ _ h)
  case tableUpdateActivate => exact e (kept_execTableUpdateActivate _ _ _ _ h)
  case maintRecal => exact e (kept_execMaintRecal _ _ _ _ h)
  case maintStackScrub => exact e (kept_execMaintStackScrub _ _ _ _ h)
  case maintStackRepair => exact e (kept_execMaintStackRepair _ _ _ _ h)
  case maintCore => exact e (kept_execMaintCore _ _ _ _ h)
  case maintGnd => exact e (kept_execMaintGnd _ _ _ _ h)
  case maintSelftest => exact e (kept_execMaintSelftest _ _ _ _ h)
  case gateList => exact e (kept_execGateListDescriptor _ _ _ _ h)
  case fwStage => exact e (kept_execFwStage _ _ _ _ h)
  case fwSelect => exact e (kept_execFwSelect _ _ _ _ h)
  case fwCommitSvn => exact e (kept_execFwCommitSvn _ _ _ _ h)
  case fwAttest => exact e (kept_execFwAttest _ _ _ _ h)
  case fwReadCert => exact e (kept_execFwReadCert _ _ _ _ h)
  case portAdmit => exact e (kept_execPortAdmit _ _ _ _ h)
  case portWithdraw => exact e (kept_execPortWithdraw _ _ _ _ h)
  case moduleRead => exact e (kept_execModuleRead _ _ _ _ h)
  case moduleWrite => exact e (kept_execModuleWrite _ _ _ _ h)
  case abort => exact e (kept_execAbort _ _ _ _ h)
  case sqTailWrite => exact e (kept_execSqTailWrite _ _ _ h)
  case cqHeadWrite => exact e (kept_execCqHeadWrite _ _ _ h)
  case descriptorWaitTimeout => exact e (kept_execDescriptorWaitTimeout _ _ _ _ h)
  case completionRecordWrite => exact e (kept_execCompletionRecordWrite _ _ h)
  case interruptCoalesceTimeout => exact e (kept_execInterruptCoalesceTimeout _ _ h)
  case progressEntryWrite => exact e (kept_execProgressEntryWrite _ _ _ _ h)
  case ringEnable => exact e (kept_execRingEnable _ _ _ _ h)
  case ringDisable => exact e (kept_execRingDisable _ _ _ _ h)
  case ringSetupLock => exact e (kept_execRingSetupLock _ _ h)
  case registerWrite => exact e (kept_execRegisterWrite _ _ _ h)
  case companionMemoryAccess => exact e (kept_execCompanionMemoryAccess _ _ _ _ _ h)
  case companionAtomic => exact e (kept_execCompanionAtomic _ _ _ _ h)
  case itgSwitch => exact e (kept_execItgSwitch _ _ h)
  case itgLinkDown => exact e (kept_execItgLinkDown _ h)
  case engineRequestAccept => exact e (kept_execEngineRequestAccept _ _ _ h)
  case pool => exact e (kept_execPool _ _ _ h)
  case topkOpen => exact e (kept_execTopkOpen _ _ h)
  case topkAdd => exact e (kept_execTopkAdd _ _ _ h)
  case topkClose => exact e (kept_execTopkClose _ _ h)
  case convert => exact e (kept_execConvert _ _ _ _ h)
  case hash => exact e (kept_execHash _ _ _ h)
  case sum => exact e (kept_execSum _ _ _ h)
  case engineRequestCommit => exact e (kept_execEngineRequestCommit _ _ _ h)
  case chainedJobWaitTimeout => exact e (kept_execChainedJobWaitTimeout _ _ h)
  case dmaRequestComplete => exact e (kept_execDmaRequestComplete _ _ _ _ h)
  case handleCacheFetch => exact e (kept_execHandleCacheFetch _ _ _ _ h)
  case packetHeaderArrival => exact e (kept_execPacketHeaderArrival _ _ _ _ h)
  case packetReceived => exact e (kept_execPacketReceived _ _ _ _ _ h)
  case bridgeHop => exact e (kept_execBridgeHop _ _ _ h)
  case packetTransmit => exact e (kept_execPacketTransmit _ _ _ h)
  case residenceExpiry => exact e (kept_execResidenceExpiry _ _ _ _ h)
  case escWaitExpiry => exact e (kept_execEscWaitExpiry _ _ _ h)
  case warmGroupEnd => exact e (kept_execWarmGroupEnd _ _ h)
  case depthSample => exact e (kept_execDepthSample _ _ h)
  case write => exact e (kept_execWrite _ _ h)
  case read => exact e (kept_execRead _ _ h)
  case atomic => exact e (kept_execAtomic _ _ h)
  case engine => exact e (kept_execEngine _ _ h)
  case readData => exact e (kept_execReadData _ _ h)
  case atomicData => exact e (kept_execAtomicData _ _ h)
  case engDone => exact e (kept_execEngDone _ _ h)
  case replyWrite => exact e (kept_execReplyWrite _ _ h)
  case ack => exact e (kept_execAck _ _ h)
  case resend => exact e (kept_execResend _ _ h)
  case mgmtMsg => exact e (kept_execMgmtMsg _ _ h)
  case ackDelayExpiry => exact e (kept_execAckDelayExpiry _ _ _ _ h)
  case rtoExpiry => exact e (kept_execRtoExpiry _ _ _ _ _ h)
  case finWaitExpiry => exact e (kept_execFinWaitExpiry _ _ _ _ h)
  case sequenceHoldoffExpiry => exact e (kept_execSequenceHoldoffExpiry _ h)
  case fabSelfWrite => exact e (kept_execFabSelfWrite _ _ _ h)
  case data => exact e (kept_execData _ _ _ h)
  case prick => exact e (kept_execPrick _ _ _ h)
  case result => exact e (kept_execResult _ _ h)
  case window => exact e (kept_execWindow _ _ h)
  case recontrib => exact e (kept_execRecontrib _ _ h)
  case deliver => exact e (kept_execDeliver _ _ h)
  case collAck => exact e (kept_execCollAck _ _ h)
  case chunkResultConvert => exact e (kept_execChunkResultConvert _ _ _ h)
  case contextAdmissionTry => exact e (kept_execContextAdmissionTry _ h)
  case admissionTimeout => exact e (kept_execAdmissionTimeout _ _ h)
  case localContributionStart => exact e (kept_execLocalContributionStart _ _ h)
  case contextCommit => exact e (kept_execContextCommit _ h)
  case contextLimitExpiry => exact e (kept_execContextLimitExpiry _ _ _ h)
  case arrive => exact e (kept_execArrive _ _ h)
  case release => exact e (kept_execRelease _ _ h)
  case arriveRepeat => exact e (kept_execArriveRepeat _ _ h)
  case timedRelease => exact e (kept_execTimedRelease _ _ _ h)
  case knotCfgWrite => exact e (kept_execKnotCfgWrite _ _ _ _ h)
  case syncTime => exact e (kept_execSyncTime _ _ h)
  case syncTimeSend => exact e (kept_execSyncTimeSend _ h)
  case delayReq => exact e (kept_execDelayReq _ _ h)
  case delayReqSend => exact e (kept_execDelayReqSend _ h)
  case delayRsp => exact e (kept_execDelayRsp _ _ h)
  case ptpMessage => exact e (kept_execPtpMessage _ _ _ h)
  case measurementTimeout => exact e (kept_execMeasurementTimeout _ h)
  case holdSExpiry => exact e (kept_execHoldSExpiry _ h)
  case timeCfgSrcWrite => exact e (kept_execTimeCfgSrcWrite _ _ h)
  case timeNowRead => exact e (kept_execTimeNowRead _ _ h)
  case lockstepOrphanTimeout => exact e (kept_execLockstepOrphanTimeout _ h)
  case gateTakeover => exact e (kept_execGateTakeover _ _ _ h)
  case gateEntryChange => exact e (kept_execGateEntryChange _ _ _ h)
  case hoopGrant => exact e (kept_execHoopGrant _ h)
  case hoopActivityCommit => exact kept_execHoopActivityCommit _ _ _ _ _ h
  case coreTestComplete => exact e (kept_execCoreTestComplete _ _ _ _ _ _ h)
  case drainStopComplete => exact e (kept_execDrainStopComplete _ h)
  case drainWaitComplete => exact e (kept_execDrainWaitComplete _ h)
  case drainCommit => exact e (kept_execDrainCommit _ h)
  case codewordReceived => exact e (kept_execCodewordReceived _ _ _ _ _ _ h)
  case credit => exact e (kept_execCredit _ _ _ _ _ h)
  case advert => exact e (kept_execAdvert _ _ _ _ _ h)
  case state => exact e (kept_execState _ _ _ _ _ h)
  case creditRepeat => exact e (kept_execCreditRepeat _ _ _ h)
  case advertRepeat => exact e (kept_execAdvertRepeat _ _ _ h)
  case laneSignalDetect => exact e (kept_execLaneSignalDetect _ _ _ _ h)
  case trainingFrame => exact e (kept_execTrainingFrame _ _ _ _ _ _ h)
  case trainMsExpiry => exact e (kept_execTrainMsExpiry _ _ _ h)
  case helloFrame => exact e (kept_execHelloFrame _ _ _ _ h)
  case helloTimeout => exact e (kept_execHelloTimeout _ _ _ h)
  case lossOfSignal => exact e (kept_execLossOfSignal _ _ _ h)
  case faultOrderedSet => exact e (kept_execFaultOrderedSet _ _ _ h)
  case presenceDebounced => exact e (kept_execPresenceDebounced _ _ _ h)
  case unplug => exact e (kept_execUnplug _ _ _ h)
  case cmisPoll => exact e (kept_execCmisPoll _ _ _ _ _ _ _ _ h)
  case moduleReadyTimeout => exact e (kept_execModuleReadyTimeout _ _ _ h)
  case buttonRelease => exact e (kept_execButtonRelease _ _ _ _ h)
  case buttonStuck => exact e (kept_execButtonStuck _ _ _ h)
  case sidebandTest => exact e (kept_execSidebandTest _ _ _ _ h)
  case removalComplete => exact e (kept_execRemovalComplete _ _ _ _ h)
  case portCfgWrite => exact e (kept_execPortCfgWrite _ _ _ _ h)
  case laneCtlWrite => exact e (kept_execLaneCtlWrite _ _ _ _ h)
  case swPolrateWrite => exact e (kept_execSwPolrateWrite _ _ _ _ _ h)
  case swHistBaseWrite => exact e (kept_execSwHistBaseWrite _ _ _ h)
  case timeDlogWrite => exact e (kept_execTimeDlogWrite _ _ h)
  case pmcLowWordRead => exact e (kept_execPmcLowWordRead _ _ _ h)
  case pmcCounterWrite => exact e (kept_execPmcCounterWrite _ _ _ _ h)
  case pmcPwinWrite => exact e (kept_execPmcPwinWrite _ _ _ _ h)
  case bandwidthWindowEnd => exact e (kept_execBandwidthWindowEnd _ _ _ h)
  case groundScrub => exact e (kept_execGroundScrub _ _ _ _ _ _ h)
  case stackPatrolScrub => exact e (kept_execStackPatrolScrub _ _ _ _ _ _ _ _ _ _ h)
  case stackRefresh => exact e (kept_execStackRefresh _ _ h)
  case stackTemperature => exact e (kept_execStackTemperature _ _ _ h)
  case stackChannelCopyComplete => exact e (kept_execStackChannelCopyComplete _ _ _ h)
  case stackZeroFillComplete => exact e (kept_execStackZeroFillComplete _ _ h)
  case keepRepairRecordWrite => exact e (kept_execKeepRepairRecordWrite _ h)
  case keepPresetWrite => exact e (kept_execKeepPresetWrite _ _ _ h)
  case unitFaultC2 => exact e (kept_execUnitFaultC2 _ _ _ _ _ h)
  case bridgeTransferFailure => exact e (kept_execBridgeTransferFailure _ _ _ _ _ _ h)
  case dieFaultC3 => exact e (kept_execDieFaultC3 _ _ _ h)
  case stewardHeartbeatLost => exact e (kept_execStewardHeartbeatLost _ _ h)
  case packageFaultC4 => exact e (kept_execPackageFaultC4 _ _ h)
  case railOutOfRange => exact e (kept_execRailOutOfRange _ _ h)
  case ref25Absent => exact e (kept_execRef25Absent _ h)
  case junctionTemperatureSample => exact e (kept_execJunctionTemperatureSample _ _ _ h)
  case powerCapStep => exact e (kept_execPowerCapStep _ _ h)
  case throtNChange => exact e (kept_execThrotNChange _ _ h)
  case avsSetpointStep => exact e (kept_execAvsSetpointStep _ _ _ _ h)
  case coreIdleSleep => exact e (kept_execCoreIdleSleep _ _ _ h)
  case engineIdleSleep => exact e (kept_execEngineIdleSleep _ _ _ h)
  case pwrCtlStandby => exact e (kept_execPwrCtlStandby _ _ h)
  case pwrCtlReady => exact e (kept_execPwrCtlReady _ _ h)
  case wakeNAssert => exact e (kept_execWakeNAssert _ h)
  case coreRailsInRange => exact e (kept_execCoreRailsInRange _ h)
  case porstNRelease => exact e (kept_execPorstNRelease _ _ h)
  case sysrstNRelease => exact e (kept_execSysrstNRelease _ _ h)
  case powerOff => exact e (kept_execPowerOff _ h)
  case firmwareVerify => exact e (kept_execFirmwareVerify _ _ _ _ _ h)
  case bootChecksComplete => exact e (kept_execBootChecksComplete _ _ _ h)
  case bootComplete => exact e (kept_execBootComplete _ _ _ h)
  case testLogicReset => exact e (kept_execTestLogicReset _ h)
  case idcode => exact e (kept_execIdcode _ h)
  case samplePreload => exact e (kept_execSamplePreload _ _ _ h)
  case extest => exact e (kept_execExtest _ _ _ _ h)
  case extestPulse => exact e (kept_execExtestPulse _ _ _ _ h)
  case extestTrain => exact e (kept_execExtestTrain _ _ _ _ h)
  case highz => exact e (kept_execHighz _ _ h)
  case clamp => exact e (kept_execClamp _ _ h)
  case bypass => exact e (kept_execBypass _ _ h)
  case powerUp => exact e (kept_execPowerUp _ h)
  case prbsCheckerLock => exact e (kept_execPrbsCheckerLock _ _ _ _ _ h)
  case buttonStuckClear => exact e (kept_execButtonStuckClear _ _ _ h)
  case standbyEntryComplete => exact e (kept_execStandbyEntryComplete _ h)
  case moduleAccessStart => exact e (kept_execModuleAccessStart _ _ _ _ _ _ h)

/-- R480: every command but the commit of an activity keeps all of it. -/
theorem exec_kept_or (c : Instr) (s t : State) (h : exec c s = .next t) :
    kept t = kept s ∨ ∃ act d found ext, c = .hoopActivityCommit act d found ext := by
  have e : ∀ {u : State}, kept u = kept s → kept u = kept s ∨ ∃ act d found ext, c = .hoopActivityCommit act d found ext := fun h => .inl h
  cases c
  case nop => exact e (kept_execNop _ _ _ h)
  case add => exact e (kept_execAdd _ _ _ h)
  case sub => exact e (kept_execSub _ _ _ h)
  case mul => exact e (kept_execMul _ _ _ h)
  case and => exact e (kept_execAnd _ _ _ h)
  case or => exact e (kept_execOr _ _ _ h)
  case xor => exact e (kept_execXor _ _ _ h)
  case shl => exact e (kept_execShl _ _ _ h)
  case shr => exact e (kept_execShr _ _ _ h)
  case sra => exact e (kept_execSra _ _ _ h)
  case slt => exact e (kept_execSlt _ _ _ h)
  case addi => exact e (kept_execAddi _ _ _ h)
  case li => exact e (kept_execLi _ _ _ h)
  case lih => exact e (kept_execLih _ _ _ h)
  case ld => exact e (kept_execLd _ _ _ h)
  case st => exact e (kept_execSt _ _ _ h)
  case gat => exact e (kept_execGat _ _ _ h)
  case sld => exact e (kept_execSld _ _ _ h)
  case sbase => exact e (kept_execSbase _ _ _ h)
  case cvld => exact e (kept_execCvld _ _ _ h)
  case fence => exact e (kept_execFence _ _ _ h)
  case prog => exact e (kept_execProg _ _ _ h)
  case beq => exact e (kept_execBeq _ _ _ h)
  case bne => exact e (kept_execBne _ _ _ h)
  case blt => exact e (kept_execBlt _ _ _ h)
  case bge => exact e (kept_execBge _ _ _ h)
  case bltu => exact e (kept_execBltu _ _ _ h)
  case jal => exact e (kept_execJal _ _ _ h)
  case jr => exact e (kept_execJr _ _ _ h)
  case halt => exact e (kept_execHalt _ _ _ h)
  case wld => exact e (kept_execWld _ _ _ h)
  case pass => exact e (kept_execPass _ _ _ h)
  case cvt => exact e (kept_execCvt _ _ _ h)
  case acsv => exact e (kept_execAcsv _ _ _ h)
  case acrs => exact e (kept_execAcrs _ _ _ h)
  case vop => exact e (kept_execVop _ _ _ h)
  case vfma => exact e (kept_execVfma _ _ _ h)
  case vred => exact e (kept_execVred _ _ _ h)
  case vkeep => exact e (kept_execVkeep _ _ _ h)
  case karv => exact e (kept_execKarv _ _ _ h)
  case kwait => exact e (kept_execKwait _ _ _ h)
  case ksig => exact e (kept_execKsig _ _ _ h)
  case ktake => exact e (kept_execKtake _ _ _ h)
  case dma => exact e (kept_execDma _ _ _ h)
  case dmaw => exact e (kept_execDmaw _ _ _ h)
  case eng => exact e (kept_execEng _ _ _ h)
  case ctrd => exact e (kept_execCtrd _ _ _ h)
  case arrivalTakesEffect => exact e (kept_execArrivalTakesEffect _ _ _ h)
  case knotWaitTimeout => exact e (kept_execKnotWaitTimeout _ _ _ h)
  case arrayPortCycle => exact e (kept_execArrayPortCycle _ _ _ h)
  case accUpdate => exact e (kept_execAccUpdate _ _ _ _ h)
  case vectorInstructionDone => exact e (kept_execVectorInstructionDone _ _ _ h)
  case jobStart => exact e (kept_execJobStart _ _ _ h)
  case jobCommit => exact e (kept_execJobCommit _ _ _ h)
  case jobTimeout => exact e (kept_execJobTimeout _ _ _ h)
  case nopDescriptor => exact e (kept_execNopDescriptor _ _ _ _ h)
  case coreJob => exact e (kept_execCoreJob _ _ _ _ h)
  case engineOperation => exact e (kept_execEngineOperation _ _ _ _ h)
  case dmaDescriptor => exact e (kept_execDmaDescriptor _ _ _ _ h)
  case contextOpen => exact e (kept_execContextOpen _ _ _ _ h)
  case contextClose => exact e (kept_execContextClose _ _ _ _ h)
  case tableUpdate => exact e (kept_execTableUpdate _ _ _ _ h)
  case tableUpdateActivate => exact e (kept_execTableUpdateActivate _ _ _ _ h)
  case maintRecal => exact e (kept_execMaintRecal _ _ _ _ h)
  case maintStackScrub => exact e (kept_execMaintStackScrub _ _ _ _ h)
  case maintStackRepair => exact e (kept_execMaintStackRepair _ _ _ _ h)
  case maintCore => exact e (kept_execMaintCore _ _ _ _ h)
  case maintGnd => exact e (kept_execMaintGnd _ _ _ _ h)
  case maintSelftest => exact e (kept_execMaintSelftest _ _ _ _ h)
  case gateList => exact e (kept_execGateListDescriptor _ _ _ _ h)
  case fwStage => exact e (kept_execFwStage _ _ _ _ h)
  case fwSelect => exact e (kept_execFwSelect _ _ _ _ h)
  case fwCommitSvn => exact e (kept_execFwCommitSvn _ _ _ _ h)
  case fwAttest => exact e (kept_execFwAttest _ _ _ _ h)
  case fwReadCert => exact e (kept_execFwReadCert _ _ _ _ h)
  case portAdmit => exact e (kept_execPortAdmit _ _ _ _ h)
  case portWithdraw => exact e (kept_execPortWithdraw _ _ _ _ h)
  case moduleRead => exact e (kept_execModuleRead _ _ _ _ h)
  case moduleWrite => exact e (kept_execModuleWrite _ _ _ _ h)
  case abort => exact e (kept_execAbort _ _ _ _ h)
  case sqTailWrite => exact e (kept_execSqTailWrite _ _ _ h)
  case cqHeadWrite => exact e (kept_execCqHeadWrite _ _ _ h)
  case descriptorWaitTimeout => exact e (kept_execDescriptorWaitTimeout _ _ _ _ h)
  case completionRecordWrite => exact e (kept_execCompletionRecordWrite _ _ h)
  case interruptCoalesceTimeout => exact e (kept_execInterruptCoalesceTimeout _ _ h)
  case progressEntryWrite => exact e (kept_execProgressEntryWrite _ _ _ _ h)
  case ringEnable => exact e (kept_execRingEnable _ _ _ _ h)
  case ringDisable => exact e (kept_execRingDisable _ _ _ _ h)
  case ringSetupLock => exact e (kept_execRingSetupLock _ _ h)
  case registerWrite => exact e (kept_execRegisterWrite _ _ _ h)
  case companionMemoryAccess => exact e (kept_execCompanionMemoryAccess _ _ _ _ _ h)
  case companionAtomic => exact e (kept_execCompanionAtomic _ _ _ _ h)
  case itgSwitch => exact e (kept_execItgSwitch _ _ h)
  case itgLinkDown => exact e (kept_execItgLinkDown _ h)
  case engineRequestAccept => exact e (kept_execEngineRequestAccept _ _ _ h)
  case pool => exact e (kept_execPool _ _ _ h)
  case topkOpen => exact e (kept_execTopkOpen _ _ h)
  case topkAdd => exact e (kept_execTopkAdd _ _ _ h)
  case topkClose => exact e (kept_execTopkClose _ _ h)
  case convert => exact e (kept_execConvert _ _ _ _ h)
  case hash => exact e (kept_execHash _ _ _ h)
  case sum => exact e (kept_execSum _ _ _ h)
  case engineRequestCommit => exact e (kept_execEngineRequestCommit _ _ _ h)
  case chainedJobWaitTimeout => exact e (kept_execChainedJobWaitTimeout _ _ h)
  case dmaRequestComplete => exact e (kept_execDmaRequestComplete _ _ _ _ h)
  case handleCacheFetch => exact e (kept_execHandleCacheFetch _ _ _ _ h)
  case packetHeaderArrival => exact e (kept_execPacketHeaderArrival _ _ _ _ h)
  case packetReceived => exact e (kept_execPacketReceived _ _ _ _ _ h)
  case bridgeHop => exact e (kept_execBridgeHop _ _ _ h)
  case packetTransmit => exact e (kept_execPacketTransmit _ _ _ h)
  case residenceExpiry => exact e (kept_execResidenceExpiry _ _ _ _ h)
  case escWaitExpiry => exact e (kept_execEscWaitExpiry _ _ _ h)
  case warmGroupEnd => exact e (kept_execWarmGroupEnd _ _ h)
  case depthSample => exact e (kept_execDepthSample _ _ h)
  case write => exact e (kept_execWrite _ _ h)
  case read => exact e (kept_execRead _ _ h)
  case atomic => exact e (kept_execAtomic _ _ h)
  case engine => exact e (kept_execEngine _ _ h)
  case readData => exact e (kept_execReadData _ _ h)
  case atomicData => exact e (kept_execAtomicData _ _ h)
  case engDone => exact e (kept_execEngDone _ _ h)
  case replyWrite => exact e (kept_execReplyWrite _ _ h)
  case ack => exact e (kept_execAck _ _ h)
  case resend => exact e (kept_execResend _ _ h)
  case mgmtMsg => exact e (kept_execMgmtMsg _ _ h)
  case ackDelayExpiry => exact e (kept_execAckDelayExpiry _ _ _ _ h)
  case rtoExpiry => exact e (kept_execRtoExpiry _ _ _ _ _ h)
  case finWaitExpiry => exact e (kept_execFinWaitExpiry _ _ _ _ h)
  case sequenceHoldoffExpiry => exact e (kept_execSequenceHoldoffExpiry _ h)
  case fabSelfWrite => exact e (kept_execFabSelfWrite _ _ _ h)
  case data => exact e (kept_execData _ _ _ h)
  case prick => exact e (kept_execPrick _ _ _ h)
  case result => exact e (kept_execResult _ _ h)
  case window => exact e (kept_execWindow _ _ h)
  case recontrib => exact e (kept_execRecontrib _ _ h)
  case deliver => exact e (kept_execDeliver _ _ h)
  case collAck => exact e (kept_execCollAck _ _ h)
  case chunkResultConvert => exact e (kept_execChunkResultConvert _ _ _ h)
  case contextAdmissionTry => exact e (kept_execContextAdmissionTry _ h)
  case admissionTimeout => exact e (kept_execAdmissionTimeout _ _ h)
  case localContributionStart => exact e (kept_execLocalContributionStart _ _ h)
  case contextCommit => exact e (kept_execContextCommit _ h)
  case contextLimitExpiry => exact e (kept_execContextLimitExpiry _ _ _ h)
  case arrive => exact e (kept_execArrive _ _ h)
  case release => exact e (kept_execRelease _ _ h)
  case arriveRepeat => exact e (kept_execArriveRepeat _ _ h)
  case timedRelease => exact e (kept_execTimedRelease _ _ _ h)
  case knotCfgWrite => exact e (kept_execKnotCfgWrite _ _ _ _ h)
  case syncTime => exact e (kept_execSyncTime _ _ h)
  case syncTimeSend => exact e (kept_execSyncTimeSend _ h)
  case delayReq => exact e (kept_execDelayReq _ _ h)
  case delayReqSend => exact e (kept_execDelayReqSend _ h)
  case delayRsp => exact e (kept_execDelayRsp _ _ h)
  case ptpMessage => exact e (kept_execPtpMessage _ _ _ h)
  case measurementTimeout => exact e (kept_execMeasurementTimeout _ h)
  case holdSExpiry => exact e (kept_execHoldSExpiry _ h)
  case timeCfgSrcWrite => exact e (kept_execTimeCfgSrcWrite _ _ h)
  case timeNowRead => exact e (kept_execTimeNowRead _ _ h)
  case lockstepOrphanTimeout => exact e (kept_execLockstepOrphanTimeout _ h)
  case gateTakeover => exact e (kept_execGateTakeover _ _ _ h)
  case gateEntryChange => exact e (kept_execGateEntryChange _ _ _ h)
  case hoopGrant => exact e (kept_execHoopGrant _ h)
  case hoopActivityCommit => exact .inr ⟨_, _, _, _, rfl⟩
  case coreTestComplete => exact e (kept_execCoreTestComplete _ _ _ _ _ _ h)
  case drainStopComplete => exact e (kept_execDrainStopComplete _ h)
  case drainWaitComplete => exact e (kept_execDrainWaitComplete _ h)
  case drainCommit => exact e (kept_execDrainCommit _ h)
  case codewordReceived => exact e (kept_execCodewordReceived _ _ _ _ _ _ h)
  case credit => exact e (kept_execCredit _ _ _ _ _ h)
  case advert => exact e (kept_execAdvert _ _ _ _ _ h)
  case state => exact e (kept_execState _ _ _ _ _ h)
  case creditRepeat => exact e (kept_execCreditRepeat _ _ _ h)
  case advertRepeat => exact e (kept_execAdvertRepeat _ _ _ h)
  case laneSignalDetect => exact e (kept_execLaneSignalDetect _ _ _ _ h)
  case trainingFrame => exact e (kept_execTrainingFrame _ _ _ _ _ _ h)
  case trainMsExpiry => exact e (kept_execTrainMsExpiry _ _ _ h)
  case helloFrame => exact e (kept_execHelloFrame _ _ _ _ h)
  case helloTimeout => exact e (kept_execHelloTimeout _ _ _ h)
  case lossOfSignal => exact e (kept_execLossOfSignal _ _ _ h)
  case faultOrderedSet => exact e (kept_execFaultOrderedSet _ _ _ h)
  case presenceDebounced => exact e (kept_execPresenceDebounced _ _ _ h)
  case unplug => exact e (kept_execUnplug _ _ _ h)
  case cmisPoll => exact e (kept_execCmisPoll _ _ _ _ _ _ _ _ h)
  case moduleReadyTimeout => exact e (kept_execModuleReadyTimeout _ _ _ h)
  case buttonRelease => exact e (kept_execButtonRelease _ _ _ _ h)
  case buttonStuck => exact e (kept_execButtonStuck _ _ _ h)
  case sidebandTest => exact e (kept_execSidebandTest _ _ _ _ h)
  case removalComplete => exact e (kept_execRemovalComplete _ _ _ _ h)
  case portCfgWrite => exact e (kept_execPortCfgWrite _ _ _ _ h)
  case laneCtlWrite => exact e (kept_execLaneCtlWrite _ _ _ _ h)
  case swPolrateWrite => exact e (kept_execSwPolrateWrite _ _ _ _ _ h)
  case swHistBaseWrite => exact e (kept_execSwHistBaseWrite _ _ _ h)
  case timeDlogWrite => exact e (kept_execTimeDlogWrite _ _ h)
  case pmcLowWordRead => exact e (kept_execPmcLowWordRead _ _ _ h)
  case pmcCounterWrite => exact e (kept_execPmcCounterWrite _ _ _ _ h)
  case pmcPwinWrite => exact e (kept_execPmcPwinWrite _ _ _ _ h)
  case bandwidthWindowEnd => exact e (kept_execBandwidthWindowEnd _ _ _ h)
  case groundScrub => exact e (kept_execGroundScrub _ _ _ _ _ _ h)
  case stackPatrolScrub => exact e (kept_execStackPatrolScrub _ _ _ _ _ _ _ _ _ _ h)
  case stackRefresh => exact e (kept_execStackRefresh _ _ h)
  case stackTemperature => exact e (kept_execStackTemperature _ _ _ h)
  case stackChannelCopyComplete => exact e (kept_execStackChannelCopyComplete _ _ _ h)
  case stackZeroFillComplete => exact e (kept_execStackZeroFillComplete _ _ h)
  case keepRepairRecordWrite => exact e (kept_execKeepRepairRecordWrite _ h)
  case keepPresetWrite => exact e (kept_execKeepPresetWrite _ _ _ h)
  case unitFaultC2 => exact e (kept_execUnitFaultC2 _ _ _ _ _ h)
  case bridgeTransferFailure => exact e (kept_execBridgeTransferFailure _ _ _ _ _ _ h)
  case dieFaultC3 => exact e (kept_execDieFaultC3 _ _ _ h)
  case stewardHeartbeatLost => exact e (kept_execStewardHeartbeatLost _ _ h)
  case packageFaultC4 => exact e (kept_execPackageFaultC4 _ _ h)
  case railOutOfRange => exact e (kept_execRailOutOfRange _ _ h)
  case ref25Absent => exact e (kept_execRef25Absent _ h)
  case junctionTemperatureSample => exact e (kept_execJunctionTemperatureSample _ _ _ h)
  case powerCapStep => exact e (kept_execPowerCapStep _ _ h)
  case throtNChange => exact e (kept_execThrotNChange _ _ h)
  case avsSetpointStep => exact e (kept_execAvsSetpointStep _ _ _ _ h)
  case coreIdleSleep => exact e (kept_execCoreIdleSleep _ _ _ h)
  case engineIdleSleep => exact e (kept_execEngineIdleSleep _ _ _ h)
  case pwrCtlStandby => exact e (kept_execPwrCtlStandby _ _ h)
  case pwrCtlReady => exact e (kept_execPwrCtlReady _ _ h)
  case wakeNAssert => exact e (kept_execWakeNAssert _ h)
  case coreRailsInRange => exact e (kept_execCoreRailsInRange _ h)
  case porstNRelease => exact e (kept_execPorstNRelease _ _ h)
  case sysrstNRelease => exact e (kept_execSysrstNRelease _ _ h)
  case powerOff => exact e (kept_execPowerOff _ h)
  case firmwareVerify => exact e (kept_execFirmwareVerify _ _ _ _ _ h)
  case bootChecksComplete => exact e (kept_execBootChecksComplete _ _ _ h)
  case bootComplete => exact e (kept_execBootComplete _ _ _ h)
  case testLogicReset => exact e (kept_execTestLogicReset _ h)
  case idcode => exact e (kept_execIdcode _ h)
  case samplePreload => exact e (kept_execSamplePreload _ _ _ h)
  case extest => exact e (kept_execExtest _ _ _ _ h)
  case extestPulse => exact e (kept_execExtestPulse _ _ _ _ h)
  case extestTrain => exact e (kept_execExtestTrain _ _ _ _ h)
  case highz => exact e (kept_execHighz _ _ h)
  case clamp => exact e (kept_execClamp _ _ h)
  case bypass => exact e (kept_execBypass _ _ h)
  case powerUp => exact e (kept_execPowerUp _ h)
  case prbsCheckerLock => exact e (kept_execPrbsCheckerLock _ _ _ _ _ h)
  case buttonStuckClear => exact e (kept_execButtonStuckClear _ _ _ h)
  case standbyEntryComplete => exact e (kept_execStandbyEntryComplete _ h)
  case moduleAccessStart => exact e (kept_execModuleAccessStart _ _ _ _ _ _ h)

end Sys2Proof.Laws
end

