-- ==== Sys2Proof/Laws/Units.lean ====
section
/-! SUPPORT. Time, the hoop, counters, ports, cages, faults, power and start-up: what their operations change and keep. -/

namespace Sys2Proof.Laws

open Sys2Proof.Machine

theorem foldUpto_succ {α : Type} (n : Nat) (a : α) (f : α → Nat → α) : foldUpto (n + 1) a f = f (foldUpto n a f) n := by
  simp only [foldUpto, upto, List.range_succ, List.foldl_append, List.foldl_cons, List.foldl_nil]

theorem getDie_foldUpto_updDie (n : Nat) (s : State) (f : Die → Die) (e : Nat) :
    getDie (foldUpto n s (fun s d => updDie s d f)) e = if e < n then f (getDie s e) else getDie s e := by
  induction n with
  | zero => simp [foldUpto, upto]
  | succ n ih =>
    rw [foldUpto_succ, getDie_updDie]
    by_cases h : e = n
    · subst h; rw [if_pos rfl, ih, if_neg (by omega), if_pos (by omega)]
    · rw [if_neg h, ih]
      by_cases h2 : e < n
      · rw [if_pos h2, if_pos (by omega)]
      · rw [if_neg h2, if_neg (by omega)]

theorem getDie_dropWindows_clock (s : State) (d : Nat) : (getDie (dropWindows s) d).clock = (getDie s d).clock := by
  have : tfind (dropWindows s).dies d = (tfind s.dies d).map (fun x => { x with ports := x.ports.map (fun (l, p) => (l, { p with pmc := { p.pmc with win := [] } })) }) :=
    tfind_map s.dies (fun (d, x) => (d, { x with ports := x.ports.map (fun (l, p) => (l, { p with pmc := { p.pmc with win := [] } })) })) (fun p => rfl) d
  simp only [getDie, tget, this]
  cases tfind s.dies d <;> rfl

theorem timeEvent_time (s : State) (die sub a b : Nat) : (timeEvent s die sub a b).time = s.time := by
  obtain ⟨_, _, _, _, _, h⟩ := postEvent_only s 0x11 die sub a b 0
  unfold timeEvent
  rw [h]

theorem foldUpto_time (n : Nat) (s : State) (f : Die → Die) : (foldUpto n s (fun s d => updDie s d f)).time = s.time ∧
    (foldUpto n s (fun s d => updDie s d f)).variant = s.variant := by
  induction n with
  | zero => simp [foldUpto, upto]
  | succ n ih => rw [foldUpto_succ]; exact ih

theorem stepClocks_time (s : State) (k : Int) : (stepClocks s k).time = s.time := by
  simp only [stepClocks, timeEvent_time]
  exact (foldUpto_time ..).1

theorem stepClocks_clock (s : State) (k : Int) (d : Nat) (hd : d < ndies s.variant) :
    (getDie (stepClocks s k) d).clock = ((((getDie s d).clock : Int) + k * 2 ^ 28) % 2 ^ 96).toNat := by
  simp only [stepClocks, timeEvent, getDie_postEvent, getDie_dropWindows_clock, getDie_foldUpto_updDie, if_pos hd]

theorem beq_none {α : Type} (o : Option α) (h : o ≠ none) : o.isNone = false := by cases o; exact absurd rfl h; rfl

theorem le_shift (a b : Nat) : b ≤ max a (b * 2 ^ 32) >>> 32 := by
  have h : b * 2 ^ 32 ≤ max a (b * 2 ^ 32) := Nat.le_max_right ..
  have := Nat.div_le_div_right (c := 2 ^ 32) h
  rw [Nat.mul_div_cancel _ (Nat.pos_of_neZero _)] at this
  rw [Nat.shiftRight_eq_div_pow]; exact this

theorem failOver_itg (s : State) : (failOver s).itgActive = 1 - s.itgActive ∧ (failOver s).itgFail = satInc 0xFF s.itgFail ∧ (failOver s).itgAuto = s.itgAuto := by
  unfold failOver
  extract_lets again s1
  obtain ⟨_, _, _, _, _, h⟩ := postEvent_only s1 0x0C 0xFF (itgDie s1.itgActive) 0 0 0
  rw [h]; exact ⟨rfl, rfl, rfl⟩

theorem pmcPlace_core (c n k : Nat) (hc : c < 150) (hn : n < 8) (hk : k < 8) : pmcPlace (0x100 * c + 0x40 + 8 * n + k) = .core c (0x40 + 8 * n + k) := by
  simp only [pmcPlace]; rw [if_pos (by omega)]
  congr 1 <;> omega

theorem corePmcAt_cnt (x : Die) (c n : Nat) (hn : n < 8) : corePmcAt x c (0x40 + 8 * n) = some (tget (coreOf x c).pmc.cnt n 0) := by
  simp only [corePmcAt]
  rw [if_neg (by omega), if_pos (by omega), show (0x40 + 8 * n - 0x40) / 8 = n by omega]

theorem pmcHigh_core (t : State) (d c n v : Nat) (hc : c < 150) (hn : n < 8) (hl : tget (getCore t d c).pmc.latch (0x40 + 8 * n) (v >>> 32) = v >>> 32)
    (hv : tget (coreOf (getDie t d) c).pmc.cnt n 0 = v) : ∃ u, pmcHigh d (0x100 * c + 0x40 + 8 * n + 4) t = some (v >>> 32, u) := by
  have h4 : ¬ ((0x100 * c + 0x40 + 8 * n + 4) % 8 ≠ 4) := by omega
  have e : pmcPlace (0x100 * c + 0x40 + 8 * n + 4 - 4) = .core c (0x40 + 8 * n) := pmcPlace_core c n 0 hc hn (by omega)
  have e2 := corePmcAt_cnt (getDie t d) c n hn
  rw [hv] at e2
  simp only [pmcHigh, if_neg h4, e, e2, Option.map_some, hl]
  exact ⟨_, rfl⟩

theorem pmcWrite_core (s : State) (d c n : Nat) (w : Word32) (k : Nat) (hu : regsUp s = true) (hl : linkReaches s d = true) (hc : c < 150) (hn : n < 8) (hk : k = 0 ∨ k = 4) :
    tget (getCore (pmcCounterWrite d (0x100 * c + 0x40 + 8 * n + k) w s) d c).pmc.cnt n 0 = halfWrite (tget (getCore s d c).pmc.cnt n 0) (k == 4) w := by
  have h4 : (!regsUp s || !linkReaches s d || (0x100 * c + 0x40 + 8 * n + k) % 4 != 0) = false := by
    rw [hu, hl, show (0x100 * c + 0x40 + 8 * n + k) % 4 = 0 from by omega]; rfl
  have h8 : ((0x100 * c + 0x40 + 8 * n + k) % 8 == 4) = (k == 4) := by rw [show (0x100 * c + 0x40 + 8 * n + k) % 8 = k by omega]
  have e : pmcCounterWrite d (0x100 * c + 0x40 + 8 * n + k) w s = updCore s d c (fun q => { q with pmc := { q.pmc with cnt := tset q.pmc.cnt n (halfWrite (tget q.pmc.cnt n 0) (k == 4) w) } }) := by
    simp only [pmcCounterWrite, h4, h8, Bool.false_eq_true, if_false, pmcPlace_core c n k hc hn (by omega)]
    rw [if_pos (by omega), show (0x40 + 8 * n + k - 0x40) / 8 = n by omega]
  rw [e]; simp only [updCore, getCore_setCore_same, tget_tset_same]

theorem notBooting {s : State} (h : regsUp s = true) : (s.phase == .booting) = false := by
  simp only [regsUp] at h
  cases hp : s.phase <;> rw [hp] at h <;> first | rfl | exact absurd h (by decide)

theorem pmc_core (s : State) (d c n : Nat) (hu : regsUp s = true) (hl : linkReaches s d = true) (hc : c < 150) (hn : n < 8) :
      let off := 0x100 * c + 0x40 + 8 * n
      let v := tget (getCore s d c).pmc.cnt n 0
      (∃ t, exec (.pmcLowWordRead d off) s = .next t ∧ t.out = s.out ++ [.data (toLe 4 (v % 2 ^ 32))] ∧
        (∃ u, pmcHigh d (off + 4) t = some (v >>> 32, u))) ∧
      (∀ w : Word32, (∃ t, exec (.pmcCounterWrite d off w) s = .next t ∧ tget (getCore t d c).pmc.cnt n 0 = halfWrite v false w) ∧
        (∃ t, exec (.pmcCounterWrite d (off + 4) w) s = .next t ∧ tget (getCore t d c).pmc.cnt n 0 = halfWrite v true w)) := by
  intro off v
  have hg : (!regsUp s || !linkReaches s d) = false := by rw [hu, hl]; rfl
  have hb : (s.phase == .booting) = false := notBooting hu
  have pl0 : pmcPlace off = .core c (0x40 + 8 * n) := pmcPlace_core c n 0 hc hn (by omega)
  have at0 : corePmcAt (getDie s d) c (0x40 + 8 * n) = some v := corePmcAt_cnt (getDie s d) c n hn
  have low : pmcLow d off s = some (v % 2 ^ 32, updCore s d c (fun k => { k with pmc := { k.pmc with latch := tset k.pmc.latch (0x40 + 8 * n) (v >>> 32) } })) := by
    simp only [pmcLow, pl0, at0, Option.map_some]
  refine ⟨⟨emit (updCore s d c (fun k => { k with pmc := { k.pmc with latch := tset k.pmc.latch (0x40 + 8 * n) (v >>> 32) } })) (.data (toLe 4 (v % 2 ^ 32))), ?_, rfl, ?_⟩, fun w => ⟨⟨pmcCounterWrite d off w s, rfl, ?_⟩, ⟨pmcCounterWrite d (off + 4) w s, rfl, ?_⟩⟩⟩
  · show Host.Outcome.next (pmcLowRead d off s) = _
    simp only [pmcLowRead, hb, hg, Bool.false_eq_true, if_false, low]
  · refine pmcHigh_core _ d c n v hc hn ?_ ?_
    · show tget (getCore (setCore s d c { getCore s d c with pmc := { (getCore s d c).pmc with latch := tset (getCore s d c).pmc.latch (0x40 + 8 * n) (v >>> 32) } }) d c).pmc.latch _ _ = _
      rw [getCore_setCore_same]; simp only [tget_tset_same]
    · show tget (getCore (setCore s d c { getCore s d c with pmc := { (getCore s d c).pmc with latch := tset (getCore s d c).pmc.latch (0x40 + 8 * n) (v >>> 32) } }) d c).pmc.cnt n 0 = _
      rw [getCore_setCore_same]
  · exact pmcWrite_core s d c n w 0 hu hl hc hn (.inl rfl)
  · exact pmcWrite_core s d c n w 4 hu hl hc hn (.inr rfl)

def coeffsOk (m : Lane) : Prop := m.cm1 ≤ 16 ∧ m.cp1 ≤ 24 ∧ 24 ≤ m.c0 ∧ m.cm1 + m.c0 + m.cp1 ≤ 64

theorem coeffStep_ok (n : Lane) (w r : Nat) (h : coeffsOk n) : coeffsOk (coeffStep n w r).1 := by
  have key : ∀ a b c : Nat, coeffsOk (if (decide (a ≤ 16) && decide (c ≤ 24) && decide (24 ≤ b) && decide (a + b + c ≤ 64)) = true then ({ n with cm1 := a, c0 := b, cp1 := c }, 1) else (n, 2) : Lane × Nat).1 := by
    intro a b c
    split
    · next h2 =>
      simp only [Bool.and_eq_true, decide_eq_true_eq] at h2
      exact ⟨h2.1.1.1, h2.1.1.2, h2.1.2, h2.2⟩
    · exact h
  simp only [coeffStep]
  split <;> first | exact h | exact key _ _ _ | (split <;> first | exact h | exact key _ _ _)

theorem presetCoeffs_ok (k : Nat) : (presetCoeffs k).1 ≤ 16 ∧ (presetCoeffs k).2.2 ≤ 24 ∧ 24 ≤ (presetCoeffs k).2.1 ∧ (presetCoeffs k).1 + (presetCoeffs k).2.1 + (presetCoeffs k).2.2 ≤ 64 := by
  simp only [presetCoeffs]; split <;> decide

theorem applyControl_ok (n : Lane) (c : Nat) (h : coeffsOk n) : coeffsOk (applyControl n c) := by
  simp only [applyControl]
  split
  · exact presetCoeffs_ok _
  · exact coeffStep_ok _ _ _ (coeffStep_ok _ _ _ (coeffStep_ok _ _ _ h))

theorem setPortSt_st (s : State) (d l st : Nat) : (getPort (setPortSt s d l st) d l).st = st := by
  simp only [setPortSt]
  split
  · rw [show ∀ (t : State) (o : Out), getPort (emit t o) d l = getPort t d l from fun _ _ => rfl, getPort_updPort_same]
  · rw [getPort_updPort_same]

theorem lost_cond {r : Bool} {st : Nat} (hx : r = true) (hs : 5 ≤ st ∧ st ≤ 9) : (r && decide (5 ≤ st) && decide (st ≤ 9)) = true := by
  rw [hx, decide_eq_true hs.1, decide_eq_true hs.2]; rfl

/-- R332, R333: a hello of the far lane f.lane counts on lane i, and the end answers with its own. -/
def helloHeard (s : State) (d l i : Nat) (f : Hello) : State :=
  let s0 := updPort (updLane s d i (fun n => { n with hellos := n.hellos + 1, rxmap := f.lane, lock := true })) d l (fun p => { p with far := some f })
  emit s0 (.frame d i (helloBytes s0 d l i))

theorem hello_eq {s : State} {d i l : Nat} {bs : List Byte} (hl : laneWidthPort (getDie s d) i = some l) (hr : dieRuns s d = true) (hd : (laneOf (getDie s d) i).done = true)
    (hf : (laneOf (getDie s d) i).failed = false) (h4 : 4 ≤ (portOf (getDie s d) l).st) (h9 : (portOf (getDie s d) l).st ≤ 9) :
    helloFrame d i bs s = (match readHello bs with
      | none => updLane s d i (fun n => { n with hellos := 0 })
      | some f =>
        if (portOf (getDie s d) l).st ≠ 4 then
          if f.removing then removePort (updPort s d l (fun p => { p with far := some f })) d l
          else if f.miscabled ∧ ((portOf (getDie s d) l).st = 5 ∨ (portOf (getDie s d) l).st = 6) then holdMiscabled (portLeave (updPort s d l (fun p => { p with far := some f })) d l) d l 0
          else updPort s d l (fun p => { p with far := some f })
        else if f.removing then removePort (updPort s d l (fun p => { p with far := some f })) d l
        else
          if ((portLanes (getDie s d) l).any (fun j => j != i && (laneOf (getDie s d) j).done && !(laneOf (getDie s d) j).failed && decide (0 < (laneOf (getDie s d) j).hellos) && (laneOf (getDie s d) j).rxmap == f.lane)
            || decide (2 ^ (portWidth (getDie s d) l).getD 0 ≤ f.lane)) = true then updLane s d i (fun n => { n with failed := true })
          else
            if helloReady (getDie (helloHeard s d l i f) d) l then settleHello (helloHeard s d l i f) d l f else helloHeard s d l i f) := by
  have hg : (!dieRuns s d || !(laneOf (getDie s d) i).done || (laneOf (getDie s d) i).failed || decide ((portOf (getDie s d) l).st < 4) || decide (9 < (portOf (getDie s d) l).st)) = false := by
    rw [hr, hd, hf, decide_eq_false (by omega), decide_eq_false (by omega)]; rfl
  simp only [helloFrame, hl]
  rw [if_neg (by simpa using hg)]
  all_goals (cases readHello bs <;> rfl)

theorem stateWord_eq {s : State} {d l st : Nat} {dr : Bool} (hc : ctlPort s d l = true) : stateWord d l st dr s =
    (if st = 9 ∧ (getPort s d l).st ≠ 9 then
      updPort (removePort (updPort s d l (fun p => { p with farSt := st, farDrained := dr })) d l) d l (fun p => { p with farDrained := dr })
    else if st = 7 ∧ ((getPort s d l).st = 5 ∨ (getPort s d l).st = 6) then holdMiscabled (portLeave (updPort s d l (fun p => { p with farSt := st, farDrained := dr })) d l) d l 0
    else if (getPort s d l).st = 7 ∧ (st = 5 ∨ st = 6) then
      match (getPort s d l).far with
      | some f => if cabling (updPort s d l (fun p => { p with farSt := st, farDrained := dr })) d l f = 0 then linkUp (updPort s d l (fun p => { p with farSt := st, farDrained := dr })) d l else updPort s d l (fun p => { p with farSt := st, farDrained := dr })
      | none => updPort s d l (fun p => { p with farSt := st, farDrained := dr })
    else updPort s d l (fun p => { p with farSt := st, farDrained := dr })) := by
  simp only [ctlPort, Bool.and_eq_true, decide_eq_true_eq] at hc
  obtain ⟨⟨⟨h1, h2⟩, h5⟩, h9⟩ := hc
  have h2' : (portWidth (getDie s d) l).isNone = false := by
    cases h : portWidth (getDie s d) l with
    | none => rw [h] at h2; cases h2
    | some => rfl
  have hg : (!dieRuns s d || (portWidth (getDie s d) l).isNone || decide ((getPort s d l).st < 4) || decide (9 < (getPort s d l).st)) = false := by
    rw [h1, h2', decide_eq_false (by omega), decide_eq_false (by omega)]; rfl
  simp only [stateWord, hg, Bool.false_eq_true, if_false]
  rw [if_neg (by omega), if_neg (by omega)]
  all_goals (cases (getPort s d l).far <;> rfl)

theorem cageOf_updCage (s : State) (d o : Nat) (f : Cage → Cage) : cageOf (getDie (updCage s d o f) d) o = f (cageOf (getDie s d) o) := by
  simp only [updCage, cageOf, getDie_updDie_same, tget_tset_same]

theorem setCageFaults_cage (s : State) (d o : Nat) (fs : NSet) :
    cageOf (getDie (setCageFaults s d o fs) d) o = { cageOf (getDie s d) o with faults := fs } := by
  simp only [setCageFaults, cageEvent]
  split
  · rw [getDie_postEvent, cageOf_updCage]
  · rw [cageOf_updCage]

theorem mem_found (found : NSet) (n f : Nat) : f ∈ (upto n).foldl (fun t i => if found.contains (5 + i) = true then sadd t (5 + i) else t) ([] : NSet) ↔ 5 ≤ f ∧ f < 5 + n ∧ f ∈ found := by
  induction n with
  | zero => simp only [upto, List.range_zero, List.foldl_nil, List.not_mem_nil, false_iff]; omega
  | succ n ih =>
    simp only [upto, List.range_succ, List.foldl_append, List.foldl_cons, List.foldl_nil] at ih ⊢
    by_cases h : 5 + n ∈ found
    · rw [if_pos (contains_true h), mem_sadd, ih, or_comm]
      constructor
      · rintro (rfl | ⟨a, b, c⟩)
        · exact ⟨by omega, by omega, h⟩
        · exact ⟨a, by omega, c⟩
      · rintro ⟨a, b, c⟩
        by_cases e : f = 5 + n
        · exact .inl e
        · exact .inr ⟨a, by omega, c⟩
    · rw [if_neg (by rw [contains_false h]; decide), ih]
      constructor
      · rintro ⟨a, b, c⟩; exact ⟨a, by omega, c⟩
      · rintro ⟨a, b, c⟩
        refine ⟨a, ?_, c⟩
        have : f ≠ 5 + n := fun e => h (e ▸ c)
        omega

theorem button_eq {s : State} {d o : Nat} (hr : dieRuns s d = true) (ho' : (octetPorts (getDie s d) o).isEmpty = false)
    (hs : ¬(15 ∈ (cageOf (getDie s d) o).faults ∨ 16 ∈ (cageOf (getDie s d) o).faults ∨ 17 ∈ (cageOf (getDie s d) o).faults)) (ms : Nat) :
    buttonRelease d o ms s = (let t := updCage s d o (fun c => { c with btn := false })
      if ms < 50 then t
      else if ms < 2000 then
        if bit (regWord (getDie s d) (rCAGE_CFG o)) 1 then clearLocate t d o else postEvent t 0x07 d (16 * d + o) 0 0 0
      else if ms ≤ 10000 then
        (octetPorts (getDie s d) o).foldl (fun s1 l =>
          if (getPort s1 d l).st = 10 then (if (cageOf (getDie s d) o).prs then startTrain (updPort s1 d l (fun p => { p with fails := 0 })) d l false else s1)
          else removePort s1 d l) (clearLocate t d o)
      else t) := by
  have h15 : (cageOf (getDie s d) o).faults.contains 15 = false := contains_false (fun h => hs (.inl h))
  have h16 : (cageOf (getDie s d) o).faults.contains 16 = false := contains_false (fun h => hs (.inr (.inl h)))
  have h17 : (cageOf (getDie s d) o).faults.contains 17 = false := contains_false (fun h => hs (.inr (.inr h)))
  simp only [buttonRelease, hr, ho', h15, h16, h17, Bool.not_true, Bool.or_self, Bool.false_eq_true, if_false]

theorem laneCtl_eq {s : State} {d i l : Nat} {v : Word32} {r same : Bool} {tst prbs : Nat} {s2 s3 : State} (hn : ¬ (i ≥ 96 ∨ regsUp s = false ∨ linkReaches s d = false)) (hw : laneWidthPort (getDie s d) i = some l)
    (hr : (decide (fld v 2 0 ≠ 0) && ((portOf (getDie s d) l).st == 6 || (portOf (getDie s d) l).st == 9)) = r)
    (ht : (if 5 ≤ fld v 2 0 ∨ r = true then fld (regWord (getDie s d) (rLANE_CTL i)) 2 0 else fld v 2 0) = tst)
    (hp : (if fld v 4 3 = 3 then fld (regWord (getDie s d) (rLANE_CTL i)) 4 3 else fld v 4 3) = prbs)
    (hq : (tst == fld (regWord (getDie s d) (rLANE_CTL i)) 2 0 && prbs == fld (regWord (getDie s d) (rLANE_CTL i)) 4 3 && fld v 5 5 == fld (regWord (getDie s d) (rLANE_CTL i)) 5 5) = same)
    (h2 : updLane (updDie s d (fun x => { x with regs := tset x.regs (rLANE_CTL i) (BitVec.ofNat 32 (tst + 8 * prbs + 32 * fld v 5 5)) })) d i
      (fun n => { n with prbse := 0, prbsLock := n.prbsLock && same, prbs := if same then n.prbs else {} }) = s2)
    (h3 : (if r = true then postEvent s2 0x0E d i 0 0 0 else s2) = s3) :
    laneCtlWrite d i v s =
      if tst ≠ 0 ∧ (portOf (getDie s d) l).st ≠ 11 ∧ (portOf (getDie s d) l).st ≠ 10 ∧ (portOf (getDie s d) l).st ≠ 0 ∧ (portOf (getDie s d) l).st ≠ 6 ∧ (portOf (getDie s d) l).st ≠ 9 then
        setPortSt (updPort (stopLanes (portLeave s3 d l) d l) d l (fun p =>
          { p with was := none, reserved := false, width := 0, major := 0, minor := 0, txuse := 0, faruse := 0 })) d l 11
      else if (portOf (getDie s d) l).st = 11 ∧ (portLanes (getDie s d) l).all (fun j => laneTest (getDie s3 d) j == 0) then startTrain s3 d l false
      else s3 := by
  subst h3 h2 hq hp ht
  simp only [laneCtlWrite, hw, hr]
  rw [if_neg hn]

theorem askHoops (d a u : Nat) (f : Nat → Nat × Nat) (l : List Nat) (s : State) :
    l.foldl (fun s r => askHoop s a d (f r).1 (f r).2) s = { s with hoopQ := s.hoopQ ++ l.map (fun r => { act := a, dies := [d], op := none, die := d, unit := (f r).1, arg := (f r).2 }) } := by
  induction l generalizing s with
  | nil => simp
  | cons x l ih => rw [List.foldl_cons, ih]; simp only [askHoop, List.map_cons, List.append_assoc, List.singleton_append]

theorem reportFault_rec (s : State) (cls kind idx die code react : Nat) : (reportFault s cls kind idx die code react).recPending = s.recPending ∧
    (reportFault s cls kind idx die code react).keep = s.keep := by
  have pe : ∀ (s : State) (a b c d e f : Nat), (postEvent s a b c d e f).recPending = s.recPending ∧ (postEvent s a b c d e f).keep = s.keep := by
    intro s a b c d e f
    obtain ⟨_, _, _, _, _, h⟩ := postEvent_only s a b c d e f
    rw [h]; exact ⟨rfl, rfl⟩
  have fe : ∀ (s : State) (a b c d e f : Nat), (faultEvent s a b c d e f).recPending = s.recPending ∧ (faultEvent s a b c d e f).keep = s.keep := by
    intro s a b c d e f; simp only [faultEvent]
    generalize tget (getDie s d).faults.last e (0, 0) = q
    split
    · exact ⟨rfl, rfl⟩
    · exact pe _ _ _ _ _ _ _
  have key : ∀ (f : FaultLog), (if cls = 0 ∧ code ≠ 0x0F then setDie s die { getDie s die with faults := f } else faultEvent (setDie s die { getDie s die with faults := f }) cls kind idx die code react).recPending = s.recPending ∧
      (if cls = 0 ∧ code ≠ 0x0F then setDie s die { getDie s die with faults := f } else faultEvent (setDie s die { getDie s die with faults := f }) cls kind idx die code react).keep = s.keep := by
    intro f; split
    · exact ⟨rfl, rfl⟩
    · exact fe _ _ _ _ _ _ _
  exact key _

theorem foldUpto_keep (n : Nat) (s : State) (f : Die → Die) : (foldUpto n s (fun s d => updDie s d f)).keep = s.keep := by
  induction n with
  | zero => simp [foldUpto, upto]
  | succ n ih => rw [foldUpto_succ]; exact ih

theorem bridge_cond {s : State} {d b g : Nat} (hr : dieRuns s d = true) (hg : g < 16) (hf : (bridgeOf (getDie s d) b).failed = false) (hb : (bridgeTo s.variant d b).isSome = true) :
    (!dieRuns s d || decide (16 ≤ g) || (bridgeOf (getDie s d) b).failed || (bridgeTo s.variant d b).isNone) = false := by
  rw [hr, decide_eq_false (by omega), hf]
  cases h : bridgeTo s.variant d b with
  | none => rw [h] at hb; cases hb
  | some => rfl

theorem map_die {s : State} {f : Nat → Die → Die} {t : State} (h : t.dies = s.dies.map (fun (d, x) => (d, f d x))) (e : Nat) (he : (tfind s.dies e).isSome = true) :
    getDie t e = f e (getDie s e) := by
  have : tfind t.dies e = (tfind s.dies e).map (fun x => f e x) := by
    rw [h]; exact tfind_map s.dies (fun (d, x) => (d, f d x)) (fun p => rfl) e
  simp only [getDie, tget, this]
  cases hq : tfind s.dies e with
  | none => rw [hq] at he; cases he
  | some y => rfl

theorem foldUpto_phase (n : Nat) (s : State) (f : Die → Die) : (foldUpto n s (fun s d => updDie s d f)).phase = s.phase := by
  induction n with
  | zero => simp [foldUpto, upto]
  | succ n ih => rw [foldUpto_succ]; exact ih

theorem map_die' {t : State} {l : Tbl Die} {f : Nat → Die → Die} (h : t.dies = l.map (fun (d, x) => (d, f d x))) (e : Nat) (he : (tfind t.dies e).isSome = true) :
    ∃ x, getDie t e = f e x := by
  have : tfind t.dies e = (tfind l e).map (fun x => f e x) := by
    rw [h]; exact tfind_map l (fun (d, x) => (d, f d x)) (fun p => rfl) e
  simp only [getDie, tget, this] at he ⊢
  cases hq : tfind l e with
  | none => rw [hq] at he; cases he
  | some y => exact ⟨y, rfl⟩

theorem packageReset_facts (s : State) : (packageReset s).phase = .booting ∧ (packageReset s).keep = s.keep ∧ (packageReset s).variant = s.variant ∧ (packageReset s).sqs = [] ∧
    (packageReset s).cqs = [] ∧ (packageReset s).ctxs = [] ∧ (packageReset s).ops = [] ∧ (packageReset s).boot = State.reset.boot ∧ (packageReset s).test.ir = 0x01 ∧
      ∀ e, (tfind s.dies e).isSome = true → ∃ k, getDie (packageReset s) e = { dieReset s.variant e with stk := k } ∧ (s.power.stkOff = false → k.cells = (getDie s e).stk.cells) ∧
        (s.power.stkOff = true → k = (dieReset s.variant e).stk) := by
  refine ⟨rfl, rfl, rfl, rfl, rfl, rfl, rfl, rfl, rfl, fun e he => ?_⟩
  rw [map_die (s := s) (f := dieAfterReset s) rfl e he]
  simp only [dieAfterReset]
  cases h : s.power.stkOff
  · exact ⟨_, rfl, fun _ => rfl, fun h => absurd h (by decide)⟩
  · exact ⟨(dieReset s.variant e).stk, rfl, fun h => absurd h (by decide), fun _ => rfl⟩

/-- What steps 1 to 5 of R472 find of a slot. -/
def slotWhy (f : FwSlot) (st : Nat) : Option Nat :=
  if f.image.isEmpty then (if st = 0 then none else some st) else imageFault f.image f.image.length

theorem slotFails_none {s : State} {b st : Nat} {ok : Bool} (hv : (if b = 0 then s.keep.a else s.keep.b).valid = true)
    (hs : slotWhy (if b = 0 then s.keep.a else s.keep.b) st = none)
    (ha : s.keep.arb ≤ (if b = 0 then s.keep.a else s.keep.b).svn) (ho : ok = true) : slotFails s b st ok = none := by
  unfold slotFails
  extract_lets f why
  rw [show why = none from hs, if_neg (by rw [show f.valid = true from hv]; decide), if_neg (by decide), if_neg]
  rintro (h | h)
  · have : s.keep.arb ≤ f.svn := ha
    omega
  · rw [ho] at h; cases h

theorem slotFails_some (s : State) (b st : Nat) : (slotFails s b st false).isSome = true := by
  unfold slotFails
  extract_lets f why
  split
  · rfl
  · split
    · assumption
    · rw [if_pos (.inr rfl)]; rfl

theorem fwCommit_arb (ext : List Host.Cell) (failed : Bool) (s : State) (h : (fwCommit ext failed s).keep.arb ≠ s.keep.arb) :
    ∃ g, s.hoopHold.find? (fun h => h.act == 7 && !holdOver s h) = some g ∧ g.unit ≠ 0 ∧ g.unit ≠ 1 := by
  have arb : ∀ {u : State}, kept u = kept s → u.keep.arb = s.keep.arb := by
    intro u hu; simp only [kept, Prod.mk.injEq] at hu; exact hu.2.2.1
  unfold fwCommit at h
  split at h
  · exact absurd rfl h
  · next g hg =>
    refine ⟨g, hg, fun h0 => ?_, fun h1 => ?_⟩
    · apply h; clear h
      split
      · rfl
      · split
        · rfl
        · apply arb
          simp only [h0, if_true]
          cases failed
          · simpa using kept_stageEnd s _ _ _
          · simp
    · apply h; clear h
      split
      · rfl
      · split
        · rfl
        · apply arb
          simp only [h1, if_true, show ¬ ((1 : Nat) = 0) by decide, if_false]
          cases failed
          · simpa using kept_selectEnd_snd s _
          · simp

end Sys2Proof.Laws
end

