-- ==== Sys2Proof/Tests/Slice0.lean ====
section
/-! SUPPORT. Small tests of the model, each on one step from a small state, and for each statement with hypotheses a state and operands that
meet them. Words and expected values are written out from the tables of the spec that the tests name. -/

open Sys2Proof Sys2Proof.Machine

namespace Sys2Proof.Tests

-- One check at a time: each takes a thread with a large stack.
set_option Elab.async false

/-! Small states -/

/-- The package in service. -/
def ready : State := { State.reset with phase := .up, boot := { State.reset.boot with booted := true }, itgUp := [0] }

/-- A core-job descriptor with a program of 8 words, partition 0, knots 0 to 351 and 16 units of work (Table 5-3). -/
def jobDesc : Word512 := BitVec.ofNat 512 0x100000015F000000000000000000000000000000000000000000000008000000000000000000000000000000000000000000000001

def job : Job := { op := none, cq := 0, tag := 7, desc := jobDesc, replay := false, told := false }

/-- A job at its first instruction. -/
def run : Run :=
  { job := job, pc := 0, prog := 0, status := 0, vstatus := 0, ord := 0, nv := 0, wr := 0, arrIss := 0, arrDone := 0, vecIss := 0,
    vecDone := 0, digest := 0, posts := [], shared := false, halted := false, ended := none, wait := none, pend := [], defer := [],
    load := none, startCyc := 0, instr := 0 }

/-- A core with registers g1 = a and g2 = b and one word of its program. -/
def core (w : Word64) (a b : Word64) : Core :=
  { coreReset 0 with asleep := false, image := some [w], run := some run, g := [(1, a), (2, b)] }

/-- Core 0 of die 0 is k. -/
def at0 (k : Core) : State := setCore ready 0 0 k

/-- An instruction word of Table 5-5: opcode, D = g3, A = g1, B = g2, FN, IMM. -/
def word (op fn imm : Nat) : Word64 := BitVec.ofNat 64 (op * 2 ^ 58 + 3 * 2 ^ 53 + 1 * 2 ^ 48 + 2 * 2 ^ 43 + fn * 2 ^ 32 + imm)

/-- An instruction word with the fields of an opcode's own layout below the opcode. -/
def own (op fields : Nat) : Word64 := BitVec.ofNat 64 (op * 2 ^ 58 + fields)

/-- Core 0 of die 0 issues a well-formed word that stands at its PC where no register is pending. -/
theorem issues_in {s : State} {k : Core} {r : Run} {w : Word64} {op : Nat} (hu : s.phase = .up) (hv : s.variant = .tx8) (hf : (getDie s 0).flt = 0)
    (hk : getCore s 0 0 = k) (hr : k.run = some r) (hi : k.image = some [w]) (h0 : r.pc = 0)
    (hg : r.ended = none ∧ r.halted = false ∧ r.wait = none) (hp : r.pend = []) (ho : opOf w = op) (hw : wellWord w = true) :
    Issues s 0 0 op k r w where
  up := hu
  die := by rw [hv]; decide
  works := hf
  core := by decide
  core_eq := hk
  run := hr
  image := by rw [hi]; rfl
  word := by
    simp only [nextWord, hk, hr, hi, h0]
    rfl
  going := hg
  op_eq := ho
  well := hw
  ready := by intro g _; rw [hp]; exact List.not_mem_nil

/-- The core of `core` issues its word. -/
theorem issues_core {w a b : Word64} {op : Nat} (ho : opOf w = op) (hw : wellWord w = true) :
    Issues (at0 (core w a b)) 0 0 op (core w a b) run w :=
  issues_in rfl rfl rfl rfl rfl rfl rfl ⟨rfl, rfl, rfl⟩ rfl ho hw

/-! Core programs: witnesses -/

/-- Every opcode of Table 5-6 has a word that a core issues: the hypotheses of the statements about single instructions. -/
theorem witness_issues : ∀ p ∈ [(0x00, own 0x00 0), (0x01, word 0x01 0 0), (0x02, word 0x02 0 0), (0x03, word 0x03 0 0), (0x04, word 0x04 0 0),
    (0x05, word 0x05 0 0), (0x06, word 0x06 0 0), (0x07, word 0x07 0 0), (0x08, word 0x08 0 0), (0x09, word 0x09 0 0), (0x0A, word 0x0A 0 0),
    (0x18, own 0x18 (2 ^ 48 + 5)), (0x19, own 0x19 (2 ^ 48 + 5)), (0x1A, own 0x1A (2 ^ 48 + 5)), (0x1B, own 0x1B (2 ^ 48 + 5)), (0x1C, own 0x1C (2 ^ 48 + 5)),
    (0x1D, own 0x1D (3 * 2 ^ 53 + 1)), (0x1E, own 0x1E (2 ^ 48 + 1)), (0x0B, own 0x0B (3 * 2 ^ 53 + 2 ^ 48 + 0xFFFFFFFF)), (0x0C, own 0x0C (3 * 2 ^ 53 + 0x80000000)),
    (0x0D, own 0x0D (3 * 2 ^ 53 + 2 ^ 48 + 0x80000000))],
    Issues (at0 (core p.2 1 2)) 0 0 p.1 (core p.2 1 2) run p.2 := by
  have h : ∀ p ∈ [(0x00, own 0x00 0), (0x01, word 0x01 0 0), (0x02, word 0x02 0 0), (0x03, word 0x03 0 0), (0x04, word 0x04 0 0),
    (0x05, word 0x05 0 0), (0x06, word 0x06 0 0), (0x07, word 0x07 0 0), (0x08, word 0x08 0 0), (0x09, word 0x09 0 0), (0x0A, word 0x0A 0 0),
    (0x18, own 0x18 (2 ^ 48 + 5)), (0x19, own 0x19 (2 ^ 48 + 5)), (0x1A, own 0x1A (2 ^ 48 + 5)), (0x1B, own 0x1B (2 ^ 48 + 5)), (0x1C, own 0x1C (2 ^ 48 + 5)),
    (0x1D, own 0x1D (3 * 2 ^ 53 + 1)), (0x1E, own 0x1E (2 ^ 48 + 1)), (0x0B, own 0x0B (3 * 2 ^ 53 + 2 ^ 48 + 0xFFFFFFFF)), (0x0C, own 0x0C (3 * 2 ^ 53 + 0x80000000)),
    (0x0D, own 0x0D (3 * 2 ^ 53 + 2 ^ 48 + 0x80000000))], opOf p.2 = p.1 ∧ wellWord p.2 = true := by decide +kernel
  intro p hp
  exact issues_core (h p hp).1 (h p hp).2

/-- BadInstructionWordsEndTheJob: a reserved opcode; ADD with a field that must be zero; GAT's reserved function. -/
theorem witness_bad_words : [own 0x3F 0, word 0x01 1 0, own 0x12 (3 * 2 ^ 32)].all (fun w =>
    (issueWord (at0 (core w 0 0)) 0 0).isSome && ((usedBits (opOf w)).isNone || ((opOf w == 0x01 || opOf w == 0x12) && !wellWord w))) = true := by
  decide +kernel

/-- LoadsReadTheAddressedBytes: the scratchpad's last bytes, and the first byte of partition 0's user area. -/
theorem witness_loads :
    let k := core (own 0x10 (3 * 2 ^ 53 + 2 ^ 48 + 7 * 2 ^ 32)) 0x5FFF8 0
    (Issues (at0 k) 0 0 0x10 k run (own 0x10 (3 * 2 ^ 53 + 2 ^ 48 + 7 * 2 ^ 32)) ∧ 0x5FFF8 % 8 = 0 ∧ coreCheck (getDie (at0 k) 0) 0 0x5FFF8 8 = none) ∧
    (let w := own 0x13 (2 ^ 48 + 31 * 2 ^ 32)
     let k := core w 0x5FFE0 0
     Issues (at0 k) 0 0 0x13 k run w ∧ 0x5FFE0 % 32 = 0 ∧ coreCheck (getDie (at0 k) 0) 0 0x5FFE0 32 = none) ∧
    (let w := own 0x15 (2 ^ 48 + 7 * 2 ^ 32)
     let k := core w 0 0
     Issues (at0 k) 0 0 0x15 k run w ∧ coreCheck (getDie (at0 k) 0) 0 0 32 = none) := by
  refine ⟨⟨issues_core (by decide +kernel) (by decide +kernel), by decide, by decide +kernel⟩, ⟨issues_core (by decide +kernel) (by decide +kernel), by decide, by decide +kernel⟩,
    issues_core (by decide +kernel) (by decide +kernel), by decide +kernel⟩

/-- StoreWritesTheLowBytesOfItsRegister and BadAddressEndsTheJobWithoutEffect: the last mapped word of the scratchpad; one past it; a misaligned one. -/
theorem witness_stores :
    (let w := own 0x11 (2 ^ 48 + 2 * 2 ^ 43 + 3 * 2 ^ 32)
     let k := core w 0x5FFF8 5
     Issues (at0 k) 0 0 0x11 k run w ∧ (coreLoc (getDie (at0 k) 0) 0 0x5FFF8 8).isSome = true) ∧
    (let w := own 0x11 (2 ^ 48 + 2 * 2 ^ 43 + 3 * 2 ^ 32)
     let k := core w 0x60000 5
     Issues (at0 k) 0 0 0x11 k run w ∧ coreLoc (getDie (at0 k) 0) 0 0x60000 8 = none) ∧
    (let w := own 0x10 (3 * 2 ^ 53 + 2 ^ 48 + 3 * 2 ^ 32)
     let k := core w 4 0
     Issues (at0 k) 0 0 0x10 k run w ∧ 4 % 8 ≠ 0) ∧
    (let w := own 0x12 (3 * 2 ^ 53 + 2 ^ 48 + 2 * 2 ^ 43)
     let k := core w 0 5
     Issues (at0 k) 0 0 0x12 k run w ∧ 0 < 0x80000000) := by
  refine ⟨⟨issues_core ?_ ?_, ?_⟩, ⟨issues_core ?_ ?_, ?_⟩, ⟨issues_core ?_ ?_, ?_⟩, issues_core ?_ ?_, ?_⟩ <;> decide +kernel

/-- Die 0 with partition 0 over 16 MiB from 64 MiB (R139). -/
def parted (s : State) : State := updDie s 0 (fun x => { x with regs := tset x.regs (rGND_PART 0) (BitVec.ofNat 32 (64 + 16 * 2 ^ 7)) })

/-- GroundAtomicReturnsTheOldValue: SMAX64 on the first word of the partition. -/
theorem witness_atomic :
    let w := own 0x12 (3 * 2 ^ 53 + 2 ^ 48 + 2 * 2 ^ 43 + 2 * 2 ^ 32)
    let k := core w 0x84000000 5
    let s := parted (at0 k)
    Issues s 0 0 0x12 k run w ∧ coreLoc (getDie s 0) 0 0x84000000 8 = some (false, 0x4000000) ∧ gndPoisoned (getDie s 0).gnd 0x4000000 8 = false := by
  exact ⟨issues_in rfl rfl rfl rfl rfl rfl rfl ⟨rfl, rfl, rfl⟩ rfl (by decide +kernel) (by decide +kernel), by decide +kernel, by decide +kernel⟩

/-- SetupAndControlInstructionsComplete: each instruction on a core whose units are idle; CTRD's counters 0 and 9, and a programmable one with PERM. -/
theorem witness_setup : ∀ p ∈ [(0x14, own 0x14 (2 ^ 48 + 31 * 2 ^ 32)), (0x16, own 0x16 (7 * 2 ^ 32)), (0x17, own 0x17 (2 ^ 48)), (0x3B, own 0x3B (3 * 2 ^ 53)),
    (0x3B, own 0x3B (3 * 2 ^ 53 + 9 * 2 ^ 49)), (0x1F, own 0x1F 0)],
    Issues (at0 (core p.2 1 2)) 0 0 p.1 (core p.2 1 2) run p.2 ∧ coreDmas (getDie (at0 (core p.2 1 2)) 0) 0 = [] := by
  have h : ∀ p ∈ [(0x14, own 0x14 (2 ^ 48 + 31 * 2 ^ 32)), (0x16, own 0x16 (7 * 2 ^ 32)), (0x17, own 0x17 (2 ^ 48)), (0x3B, own 0x3B (3 * 2 ^ 53)),
    (0x3B, own 0x3B (3 * 2 ^ 53 + 9 * 2 ^ 49)), (0x1F, own 0x1F 0)], opOf p.2 = p.1 ∧ wellWord p.2 = true := by decide +kernel
  intro p hp
  exact ⟨issues_core (h p hp).1 (h p hp).2, rfl⟩

/-- A stream descriptor (Table 5-7) of 32 vectors of 32 elements of a format, in the scratchpad from base. -/
def stream (base fmt : Nat) : BitVec 256 := BitVec.ofNat 256 (base + 32 * 2 ^ 32 + 32 * 2 ^ 48 + 128 * 2 ^ 64 + fmt * 2 ^ 160)

/-- A core whose slot 0 streams E4M3 elements and slot 1 binary32 elements, conversion slot 0 writing through slot 1, weights loaded by job. -/
def fed (w : Word64) (g1 : Word64) : Core :=
  { core w g1 2 with
    slots := [(0, stream 0 3), (1, stream 0x2000 0)], convs := [(0, 1 * 2 ^ 8)], run := some { run with load := some (0, 0, .e4m3, false) } }

/-- ArrayInstructionsQueueOrEndTheJob: the five instructions accepted, refused (an empty slot, an unloaded array, a misaligned address), and stalled. -/
theorem witness_array :
    (Issues (at0 (fed (own 0x20 0) 0)) 0 0 0x20 (fed (own 0x20 0) 0) { run with load := some (0, 0, .e4m3, false) } (own 0x20 0) ∧
      wldErr (getDie ready 0) (fed (own 0x20 0) 0) run (own 0x20 0) = none ∧ wldErr (getDie ready 0) (core (own 0x20 0) 0 0) run (own 0x20 0) = some .badSlot) ∧
    (Issues (at0 (fed (own 0x21 0) 0)) 0 0 0x21 (fed (own 0x21 0) 0) { run with load := some (0, 0, .e4m3, false) } (own 0x21 0) ∧
      passErr (getDie ready 0) (fed (own 0x21 0) 0) { run with load := some (0, 0, .e4m3, false) } (own 0x21 0) = none ∧
      passErr (getDie ready 0) (fed (own 0x21 0) 0) run (own 0x21 0) = some .badShape) ∧
    (Issues (at0 (fed (own 0x22 0) 0)) 0 0 0x22 (fed (own 0x22 0) 0) { run with load := some (0, 0, .e4m3, false) } (own 0x22 0) ∧
      cvtErr (getDie ready 0) (fed (own 0x22 0) 0) run (own 0x22 0) = none ∧ cvtErr (getDie ready 0) (fed (own 0x22 (255 * 2 ^ 50 + 2 ^ 42)) 0) run (own 0x22 (255 * 2 ^ 50 + 2 ^ 42)) = some .badAddr) ∧
    (let w := own 0x23 (2 ^ 37)
     Issues (at0 (core w 4 0)) 0 0 0x23 (core w 4 0) run w ∧ saveErr .acsv (getDie ready 0) (core w 4 0) run w = none ∧ saveErr .acsv (getDie ready 0) (core w 2 0) run w = some .badAddr) ∧
    (let w := own 0x24 (2 ^ 37)
     Issues (at0 (core w 0x5FE80 0)) 0 0 0x24 (core w 0x5FE80 0) run w ∧ saveErr .acrs (getDie ready 0) (core w 0x5FE80 0) run w = none ∧
       saveErr .acrs (getDie ready 0) (core w 0x5FE84 0) run w = some .badAddr) := by
  refine ⟨⟨issues_in rfl rfl rfl rfl rfl rfl rfl ⟨rfl, rfl, rfl⟩ rfl ?_ ?_, ?_, ?_⟩, ⟨issues_in rfl rfl rfl rfl rfl rfl rfl ⟨rfl, rfl, rfl⟩ rfl ?_ ?_, ?_, ?_⟩,
    ⟨issues_in rfl rfl rfl rfl rfl rfl rfl ⟨rfl, rfl, rfl⟩ rfl ?_ ?_, ?_, ?_⟩, ⟨issues_core ?_ ?_, ?_, ?_⟩, issues_core ?_ ?_, ?_, ?_⟩ <;> decide +kernel

/-- An array instruction that runs, at a port cycle. -/
def arr (kind : ArrKind) (w : Word64) (pos : Nat) : ArrOp :=
  { kind := kind, word := w, ord := 0, wr := 0, seq := 0, k := 0, n := 0, v := 0, src := streamOf (stream 0 3), conv := none, pos := pos }

/-- ArrayPortCycleMovesTheOldestInstruction: the last cycle of a weight load and of a save. AccumulatorUpdateFoldsOneRow: the last row of a pass. -/
theorem witness_port :
    (let k := { core 0 0 0 with aq := [arr .wld 0 31] }
     dieUp (at0 k) 0 = true ∧ k.run = some run ∧ portCycles (arr .wld 0 31) = 32) ∧
    (let k := { core 0 0 0 with aq := [arr .acsv (own 0x23 (2 ^ 42)) 0] }
     dieUp (at0 k) 0 = true ∧ k.accq = [] ∧ portCycles (arr .acsv (own 0x23 (2 ^ 42)) 0) = 1) ∧
    (let u : RowUpd := { row := 255, replace := true, cols := [(31, { sums := [(1, 0)], nan := false, pinf := false, ninf := false, trunc := false })], step := 0, conv := none, o := 0, n0 := 0, ordinal := 0, wr := 0, seq := 0, last := true }
     let k := { core 0 0 0 with accq := [u] }
     dieUp (at0 k) 0 = true ∧ (getCore (at0 k) 0 0).accq = [u] ∧ u.cols.all (fun p => decide (p.1 < 32)) = true) := by
  refine ⟨⟨?_, rfl, ?_⟩, ⟨?_, rfl, ?_⟩, ?_, rfl, ?_⟩ <;> decide +kernel

/-- VectorInstructionsQueueOrEndTheJob: VOP, VFMA, VRED and VKEEP on slots 1, accepted and (2^24 + 1 elements) refused. -/
theorem witness_vector :
    [(vopForm, own 0x28 (2 ^ 52 + 2 ^ 47 + 2 ^ 42 + 2 ^ 37 + 2 ^ 30)), (vfmaForm, own 0x29 (2 ^ 53 + 2 ^ 48 + 2 ^ 43 + 2 ^ 38 + 2 ^ 31)), (vredForm, own 0x2A (3 * 2 ^ 49 + 2 ^ 44 + 2 ^ 33)),
      (vkeepForm, own 0x2B (3 * 2 ^ 51 + 2 ^ 46 + 2 ^ 41 + 2 ^ 30))].all (fun p => wellWord p.2 && (issueWord (at0 (fed p.2 40)) 0 0).isSome &&
        vecErr p.1 (getDie ready 0) (fed p.2 40) run p.2 == none && vecErr p.1 (getDie ready 0) (fed p.2 0x1000001) run p.2 == some .badSlot) = true := by
  decide +kernel

/-- VectorInstructionDoneRetiresTheOldest: a VRED into g3 over accumulator rows whose array instructions are done. -/
theorem witness_vector_done :
    let o : VecOp := { word := own 0x2A (3 * 2 ^ 49 + 2 ^ 43 + 2 ^ 33), nv := 0, wr := 0, n := 40, row := 0, a := noStream, b := noStream, c := noStream, d := noStream, bval := 0, cval := 0, thr := 0, idx := 0, need := 2 }
    let r := { run with arrDone := 2, vecIss := 1, pend := [3] }
    let k := { core 0 0 0 with vq := [o], run := some r }
    let o1 := { o with word := own 0x2B (3 * 2 ^ 51 + 2 ^ 46 + 2 ^ 41 + 2 ^ 30), d := streamOf (stream 0x84000000 0) }
    dieUp (at0 k) 0 = true ∧ (getCore (at0 k) 0 0).vq = [o] ∧ vAsrc o.word = true ∧ vecWaits k o = false ∧ opOf o.word = 0x2A ∧ fld o.word 53 49 = 3 ∧
      opOf o1.word = 0x2B ∧ vecWaits k o1 = false ∧
      (let x := getDie (parted (at0 k)) 0
       let hits := (vecAs (coreByte x k) k r o1).1.zipIdx.filter (fun p => keepPass (fld o1.word 57 56) p.1 (o1.thr.toNat % 2 ^ 32))
       writeErr x (dGpart r.job) ((hits.take o1.d.count).zipIdx.map (fun p => (o1.d.base + 8 * p.2, 8))) = none) := by
  decide +kernel

/-- Knot k of die 0 (or of the package) of a kind with COUNT 1, as n gives the rest. -/
def knotted (s : State) (k kind : Nat) (n : Knot) : State := setKnot s 0 k { n with cfg := BitVec.ofNat 32 (kind + 4) }

/-- KnotArrivalsAreDeferredOrEndTheJob and KnotWaitsGoOnOrStall: each knot instruction at a knot of its kind and at one of another; KSIG's amounts 1 and
65,535 and one above; a generation released and one not; a semaphore with and without the amount. -/
theorem witness_knots :
    (let w := own 0x30 (351 * 2 ^ 49 + 3 * 2 ^ 44)
     let k := core w 0 0
     Issues (knotted (at0 k) 351 1 knotReset) 0 0 0x30 k run w ∧ knotOk (knotted (at0 k) 351 1 knotReset) 0 run 351 [1, 3] = true ∧ knotOk (knotted (at0 k) 351 0 knotReset) 0 run 351 [1, 3] = false) ∧
    (let w := own 0x32 (5 * 2 ^ 49 + 2 ^ 44)
     let k := core w 65535 0
     Issues (knotted (at0 k) 5 2 knotReset) 0 0 0x32 k run w ∧ knotOk (knotted (at0 k) 5 2 knotReset) 0 run 5 [2] = true ∧ (greg k 1).toNat = 65535 ∧ (greg (core w 65536 0) 1).toNat = 65536) ∧
    (let w := own 0x31 (5 * 2 ^ 49 + 2 ^ 44 + 3 * 2 ^ 34)
     let k := core w 0 0
     let s := knotted (at0 k) 5 1 { knotReset with gen := 1 }
     Issues s 0 0 0x31 k run w ∧ knotOk s 0 run 5 [1, 3] = true ∧ knotReleased (getKnot s 0 5) 0 = true ∧ knotReleased (getKnot s 0 5) 1 = false) ∧
    (let w := own 0x33 (5 * 2 ^ 49 + 2 ^ 44 + 3 * 2 ^ 34)
     let k := core w 1 0
     let s := knotted (at0 k) 5 2 { knotReset with count := 1 }
     Issues s 0 0 0x33 k run w ∧ knotOk s 0 run 5 [2] = true ∧ (getKnot s 0 5).takes = [] ∧ (greg k 1).toNat ≤ (getKnot s 0 5).count ∧ ¬(greg (core w 2 0) 1).toNat ≤ (getKnot s 0 5).count) := by
  refine ⟨⟨issues_in rfl rfl rfl rfl rfl rfl rfl ⟨rfl, rfl, rfl⟩ rfl ?_ ?_, ?_, ?_⟩, ⟨issues_in rfl rfl rfl rfl rfl rfl rfl ⟨rfl, rfl, rfl⟩ rfl ?_ ?_, ?_, ?_, ?_⟩,
    ⟨issues_in rfl rfl rfl rfl rfl rfl rfl ⟨rfl, rfl, rfl⟩ rfl ?_ ?_, ?_, ?_, ?_⟩, issues_in rfl rfl rfl rfl rfl rfl rfl ⟨rfl, rfl, rfl⟩ rfl ?_ ?_, ?_, ?_, ?_, ?_⟩ <;> decide +kernel

/-- ArrivalsTakeEffectInOrder: a signal and an arrival that nothing holds back; the arrival that completes COUNT and one that does not. -/
theorem witness_arrivals :
    (let q : Deferred := { sig := true, knot := 5, reg := 0, amount := 7, needArr := 0, needVec := 0, needDma := [] }
     let r := { run with defer := [q] }
     let s := knotted (at0 { core 0 0 0 with run := some r }) 5 2 knotReset
     dieUp s 0 = true ∧ (getCore s 0 0).run = some r ∧ deferReady s 0 0 r q = true ∧ knotKind (getKnot s 0 5) = 2 ∧ (getKnot s 0 5).takes = []) ∧
    (let q : Deferred := { sig := false, knot := 319, reg := 3, amount := 0, needArr := 0, needVec := 0, needDma := [] }
     let r := { run with defer := [q], pend := [3] }
     let s := knotted (at0 { core 0 0 0 with run := some r }) 319 1 knotReset
     dieUp s 0 = true ∧ (getCore s 0 0).run = some r ∧ deferReady s 0 0 r q = true ∧ knotKind (getKnot s 0 319) = 1 ∧ (getKnot s 0 319).arrivals + 1 = knotCount (getKnot s 0 319)) := by
  decide +kernel

/-- KnotTimeoutsConfigurationAndTimedRelease: a limited KWAIT at knot 5; writes of the last counted knot and of the last knot, with a core waiting; an armed barrier. -/
theorem witness_knot_events :
    let w : KnotWait := { take := false, knot := 5, gen := 0, limited := true, reg := 3 }
    let s := at0 { core 0 0 0 with run := some { run with wait := some w } }
    dieUp s 0 = true ∧ (getCore s 0 0).run = some { run with wait := some w } ∧ regsUp s = true ∧ dieLives s 0 = true ∧
      fld (6 : Word32) 14 2 ≠ 0 ∧ fld (6 : Word32) 1 0 = 2 ∧ fld (5 : Word32) 1 0 ≠ 2 ∧
      (getKnot (knotted s 5 3 { knotReset with armed := [(0, 100)], arrivals := 1 }) 0 5).armed = [(0, 100)] ∧
      1 < 2 * knotCount (getKnot (knotted s 5 3 { knotReset with armed := [(0, 100)], arrivals := 1 }) 0 5) := by
  decide +kernel

/-! Jobs, rings and descriptors: witnesses -/

/-- Core 0 of die 0 has n requests of TAG 1 outstanding. -/
def withDmas (s : State) (n : Nat) : State :=
  updDie s 0 (fun x => { x with
    dmas := List.replicate n
      { id := 0, owner := .core 0 1, src := [], dst := [], len := 1, next := 0, units := 0, busy := [], status := .ok, aborted := false, replayed := false } })

/-- DmaInstructionsStartAndAwaitRequests: DMA inside the scratchpad of 32 bytes; a source and a destination past its end; lengths 0, 2^24 and one above;
63 and 64 requests outstanding. -/
theorem witness_dma :
    let w := own 0x38 (2 ^ 53 + 3 * 2 ^ 43 + 2 ^ 38 + 2 ^ 37)
    let k := { core w 0 0 with g := [(1, 0x100), (3, 32)] }
    Issues (at0 k) 0 0 0x38 k run w ∧
    coreDmaSegs (at0 k) 0 0 run true .rd 0x100 32 = .ok [{ off := 0, len := 32, place := .scratch 0 0 0x100 }] ∧
    coreDmaSegs (at0 k) 0 0 run true .wr 0 32 = .ok [{ off := 0, len := 32, place := .scratch 0 0 0 }] ∧
    coreDmaSegs (at0 k) 0 0 run true .rd 0x5FFE1 32 = .error .badAddr ∧
    (∀ n ∈ [63, 64], Issues (withDmas (at0 k) n) 0 0 0x38 k run w ∧ (coreDmas (getDie (withDmas (at0 k) n) 0) 0).length = n) ∧
    (greg { k with g := [(3, 0x1000000)] } 3).toNat = 2 ^ 24 ∧ (greg { k with g := [(3, 0x1000001)] } 3).toNat = 2 ^ 24 + 1 ∧
    Issues (at0 (core (own 0x39 (15 * 2 ^ 54)) 0 0)) 0 0 0x39 (core (own 0x39 (15 * 2 ^ 54)) 0 0) run (own 0x39 (15 * 2 ^ 54)) := by
  refine ⟨issues_in rfl rfl rfl rfl rfl rfl rfl ⟨rfl, rfl, rfl⟩ rfl ?_ ?_, ?_, ?_, ?_, ?_, ?_, ?_, issues_core ?_ ?_⟩ <;> first | decide +kernel | skip
  intro n hn
  refine ⟨issues_in rfl rfl rfl rfl rfl rfl rfl ⟨rfl, rfl, rfl⟩ rfl (by decide +kernel) (by decide +kernel), ?_⟩
  revert n
  decide +kernel

/-- EngHoldsARequestAsAPost: the scratchpad's last 64 bytes, with no post and with sixteen. -/
theorem witness_eng :
    let w := own 0x3A (3 * 2 ^ 55 + 2 ^ 50 + 2 * 2 ^ 45)
    let k := core w 0x5FFC0 9
    Issues (at0 k) 0 0 0x3A k run w ∧ coreCheck (getDie (at0 k) 0) (dGpart run.job) 0x5FFC0 64 = none ∧ run.pc + 1 < dProgLen run.job ∧
      (Issues (at0 { k with run := some { run with posts := List.replicate 16 (0, 0) } }) 0 0 0x3A { k with run := some { run with posts := List.replicate 16 (0, 0) } }
        { run with posts := List.replicate 16 (0, 0) } w) := by
  refine ⟨issues_core ?_ ?_, ?_, ?_, issues_in rfl rfl rfl rfl rfl rfl rfl ⟨rfl, rfl, rfl⟩ rfl ?_ ?_⟩ <;> decide +kernel

/-- A job whose program and arguments lie in partition 0: PROG_ADDR 0x84000000, ARG_ADDR 0x84FFFFC0, 8 words. -/
def placed : Job := { job with desc := jobDesc + BitVec.ofNat 512 (0x84000000 * 2 ^ 160 + 0x84FFFFC0 * 2 ^ 224) }

/-- JobStartsWithItsArgumentsOnAClearedCore: an idle core with that job, without an image and with one. JobEndsWithItsRecord and
JobTimeLimitAndLockstepOrphan: a halted job with its operation and a running ring; a job with a limit; an own log record. -/
theorem witness_jobs :
    (let s := parted (at0 { coreReset 0 with jobs := [placed] })
     dieUp s 0 = true ∧ (getCore s 0 0).jobs = [placed] ∧ (getCore s 0 0).run = none ∧ jobGround (getDie s 0) placed (dProgAddr placed) (8 * dProgLen placed) = some 0x4000000 ∧
       jobGround (getDie s 0) placed (dArgAddr placed) 64 = some 0x4FFFFC0 ∧ (getCore s 0 0).image = none ∧ gndPoisoned (getDie s 0).gnd 0x4000000 64 = false) ∧
    (let o : Op := { id := 4, sq := 0, idx := 0, cq := 0, tag := 7, noint := false, hoopWait := false, type := 1, desc := jobDesc, pos := 0, total := 16, begun := false, stop := false }
     let r := { run with halted := true, job := { job with op := some 4 } }
     let s := { at0 { core 0 0 0 with run := some r } with ops := [o], cqs := [(0, { cqReset with en := true, state := 1 })] }
     dieUp s 0 = true ∧ unitsIdle s 0 0 (getCore s 0 0) r = true ∧ findOp s 4 = some o ∧ jobRoom s r.job = true ∧ bit (regWord (getDie s 0) rTIME_DLOG) 0 = false) ∧
    dTimeLimit { job with desc := jobDesc + BitVec.ofNat 512 (2 ^ 400) } = 1 ∧
    (let s : State := { ready with now := 10000003, time := { ready.time with own := [{ source := 0, tag := 1, digest := 2, at0 := 3 }] } }
     s.phase = .up ∧ s.time.own.all (lsOver s) = true ∧ lsOver { s with now := 10000002 } { source := 0, tag := 1, digest := 2, at0 := 3 } = false) := by
  decide +kernel

/-- EventsAreRecordedOrCounted: a running event ring with its last free place, and one that is full. -/
theorem witness_events :
    ringRoom { evReset with en := true, state := 1, tail := 63 } = true ∧ ringRoom { evReset with en := true, state := 1, tail := 64 } = false ∧ evReset.en = false := by
  decide +kernel

/-- Ring 0 of each kind runs, the submission ring with one descriptor at its head. -/
def ringed (s : State) : State :=
  { s with sqs := [(0, { sqReset with en := true, state := 1, tail := 1 })], cqs := [(0, { cqReset with en := true, state := 1 })] }

/-- DoorbellsMoveRingsWithinTheirRoom: a tail of the last free place and one past it; a head at the tail and one past it. RingsStartDrainAndLock:
disabled rings, a running one without and with an operation. -/
theorem witness_rings :
    let s := ringed ready
    let o : Op := { id := 4, sq := 0, idx := 0, cq := 0, tag := 7, noint := false, hoopWait := false, type := 1, desc := 0, pos := 0, total := 16, begun := false, stop := false }
    regsUp s = true ∧ (getSq s 0).state = 1 ∧ (64 + 2 ^ 32 - 1) % 2 ^ 32 ≤ 2 ^ 6 - 1 ∧ ¬(65 + 2 ^ 32 - 1) % 2 ^ 32 ≤ 2 ^ 6 - 1 ∧
      (getCq { s with cqs := [(0, { cqReset with en := true, state := 1, tail := 3 })] } 0).state = 1 ∧
      (getSq (settleRings ready) 255).state = 0 ∧ (getCq (settleRings ready) 255).state = 0 ∧ bit (0x80101000 : Word32) 31 = true ∧
      fld (0x80101000 : Word32) 15 8 = 0x10 ∧ fld (0x80101000 : Word32) 23 16 = 0x10 ∧ bit (0 : Word32) 31 = false ∧ s.ops = [] ∧
      ({ s with ops := [o] } : State).ops.any (fun o => o.sq == 0) = true ∧ bit (1 : Word32) 0 = true := by
  decide +kernel

/-- WaitingRecordsInterruptsAndProgressAreWritten: a record that waits, a ring that coalesces, an operation with a progress area. -/
theorem witness_waiting :
    let o : Op := { id := 4, sq := 0, idx := 0, cq := 0, tag := 7, noint := false, hoopWait := false, type := 7, desc := 0, pos := 1, total := 16, begun := true, stop := false }
    let r : Rec := { op := none, cq := 0, tag := 7, status := .ok, sq := 0, source := 0, idx := 0, pos := 0, d0 := 0, d1 := 0, d2 := 0, noint := false, told := false }
    let s := { ringed ready with recs := [r], ops := [o], sqs := [(0, { sqReset with en := true, state := 1, pen := true })] }
    regsUp s = true ∧ cqTakes s 0 = true ∧ recReady s r = true ∧
      (getCq { s with cqs := [(0, { cqReset with en := true, state := 1, ien := true, coalT := 1, count := 1 })] } 0).armed = true ∧
      s.ops.find? (fun e => e.sq == o.sq && e.idx == o.idx) = some o ∧ (getSq s 0).pen = true := by
  decide +kernel

/-- The ring takes a descriptor: what Accepts asks for. -/
def takes (s : State) (desc : Word512) (ext : List Host.Cell) : Bool :=
  takesNow s 0 desc ext && !(getSq s 0).aborts.contains (getSq s 0).head && !headerBad desc

theorem accepts_of {s : State} {desc : Word512} {ext : List Host.Cell} (h : takes s desc ext = true) : Accepts s 0 desc ext := by
  simp only [takes, Bool.and_eq_true, Bool.not_eq_true'] at h
  refine ⟨h.1.1, fun hm => ?_, h.2⟩
  have h2 := h.1.2
  rw [List.contains_iff_mem.mpr hm] at h2
  cases h2

/-- A descriptor of a TYPE with fields above its header. -/
def dword (type fields : Nat) : Word512 := BitVec.ofNat 512 (type + fields * 2 ^ 128)


/-- Bytes in the ground memory of die 0. -/
def stored (s : State) (off : Nat) (bs : List Byte) : State :=
  updDie s 0 (fun x => { x with gnd := { x.gnd with cells := memWrite x.gnd.cells off bs } })

/-- The board address of byte 64 MiB of die 0's ground memory (Table 8-7). -/
def A : Nat := 0x8004000000

def isOk {α : Type} (e : Except Status α) : Bool := match e with | .ok _ => true | .error _ => false

/-- The ring's package, with partition 0 (R139) and a ring of each kind. -/
def base : State := ringed (parted ready)

/-- An engine request: its record's fields by byte (Table 6-4), its unit. -/
def ereq (unit : Nat) (rec : Nat) : EngReq :=
  { id := 3, req := BitVec.ofNat 512 rec, src := .core 0 0, unit := unit, done := none, digest := none, writes := 0, wstatus := .ok, got := [], reads := [],
    replayed := false, aborted := false }

/-- A pooling request of one bag with its offsets at A, a conversion of two E4M3 elements to binary32, a HASH and a SUM of two units. -/
def pool : EngReq := ereq 0 (0 + A * 2 ^ 128 + (A + 0x1000) * 2 ^ 192)
def conv : EngReq := ereq 2 (2 + A * 2 ^ 128 + (A + 0x1000) * 2 ^ 192 + 3 * 2 ^ 320 + 0 * 2 ^ 328 + 2 * 2 ^ 448)
/-- A pooling request of one bag of rows of 32 binary32 elements. -/
def pool1 : EngReq := ereq 0 (0 + A * 2 ^ 128 + (A + 0x1000) * 2 ^ 192 + (A + 0x2000) * 2 ^ 256 + 32 * 2 ^ 400 + 2 ^ 448)

def dig (op : Nat) : EngReq := ereq 4 (3 + op * 2 ^ 8 + A * 2 ^ 128 + (A + 0x1000) * 2 ^ 192 + 2 * 2 ^ 448)

/-- AcceptanceTakesTheDescriptorAtTheHead and NopJobEngineAndDmaDescriptorsTakeEffect: each kind accepted, with good and with refused fields. -/
theorem witness_descriptors :
    takes base (dword 0 0) [] = true ∧ takesNow base 0 (dword 0x0D 0) [] = true ∧ takes ready (dword 0 0) [] = false ∧ dsc (dword 0 1) 16 48 ≠ 0 ∧
    (takes base placed.desc [] = true ∧ jobErr (accepted base 0 placed.desc []) placed.desc = none ∧ jobErr (accepted base 0 (dword 1 0) []) (dword 1 0) = some .badFormat) ∧
    (takes base (dword 2 A) [] = true ∧ isOk (devRead (accepted base 0 (dword 2 A) []) 0 A 64 []) = true ∧ engDest base (toLe 64 (dig 1).req.toNat) = .die 0 ∧
      crosses base (linkDie base) 0 = true ∧ pickUnit (getDie base 0) 3 = some 4) ∧
    (takes base (dword 3 (A + A * 2 ^ 64)) [] = true ∧ fld (dword 3 (A + A * 2 ^ 64)) 287 256 = 0) ∧
    (let w := dword 3 (A + (A + 64) * 2 ^ 64 + 64 * 2 ^ 128)
     let a := accepted base 0 w []
     takes base w [] = true ∧ segs a .rd A 64 = .ok [{ off := 0, len := 64, place := .ground 0 0x4000000 }] ∧ segs a .wr (A + 64) 64 = .ok [{ off := 0, len := 64, place := .ground 0 0x4000040 }] ∧
       dmaDie [{ off := 0, len := 64, place := .ground 0 0x4000000 }] [{ off := 0, len := 64, place := .ground 0 0x4000040 }] = 0 ∧ linkReaches a 0 = true ∧
       (getDie a 0).moverFenced.length < 4 ∧ segsErr a 0 none [{ off := 0, len := 64, place := .ground 0 0x4000000 }] = none ∧
       segsErr a 0 none [{ off := 0, len := 64, place := .ground 0 0x4000040 }] = none) := by
  decide +kernel

/-- A SUM of binary32 elements of two contributors, one slot, 256 elements, one member entry (Table 7-2). -/
def block : BitVec 1024 := BitVec.ofNat 1024 (2 * 2 ^ 48 + 2 ^ 80 + 256 * 2 ^ 96 + (A + 256) * 2 ^ 256 + 2 ^ 320)

/-- A context of that block with identifier 5 and generation 0, open on die 0. -/
def ctx : Ctx :=
  { id := 5, gen := 0, blk := block, op := none, sq := 0, idx := 0, cq := 0, tag := 0, noint := false, opened := true, at0 := 0, status := 0,
    dies := [0], members := [], slots := [], spill := [], mapSpill := [], emitted := [], pieces := [], got := [], dlv := [], gaveUp := false,
    ltaken := false, lpricked := [], lwin := [], lsent := [], lnext := 0, digest := 0 }

/-- ContextAndTableDescriptorsTakeEffect: an open of that block; a close of a context that is there and of one that is not; a table update of one entry,
one of a table that there is not, and one with ACTIVATE. -/
theorem witness_context_and_tables :
    (let w := dword 4 (5 + A * 2 ^ 64)
     let s := stored base 0x4000000 (toLe 128 block.toNat)
     takes s w [] = true ∧ isOk (devRead (accepted s 0 w []) 0 A 128 []) = true ∧ blockBad block = false ∧ fld block 335 320 = 1 ∧ fld block 319 256 % 16 = 0 ∧
       isOk (devRead (accepted s 0 w []) 0 (A + 256) 16 []) = true ∧ (memberTable (List.replicate 16 0) 1).isSome = true ∧ homeDies s (fld block 167 160) = some [0, 1, 2, 3, 4, 5, 6, 7] ∧ groupBad s ctx = false) ∧
    (takes base (dword 5 5) [] = true ∧ takes { base with ctxs := [ctx] } (dword 5 5) [] = true ∧ base.ctxs = []) ∧
    (let w := dword 6 (1 + 2 ^ 64 + A * 2 ^ 128)
     takes base w [] = true ∧ bit w 136 = false ∧ isOk (tableStage (accepted base 0 w []) w []) = true ∧ tabEntry base.variant 1 = some (36, 6) ∧
       tableStage (accepted base 0 (dword 6 (1 + 2 ^ 64 + 2 ^ 9)) []) (dword 6 (1 + 2 ^ 64 + 2 ^ 9)) [] = .error .badFormat) ∧
    (let w := dword 6 (1 + 2 ^ 8 + 2 ^ 64 + A * 2 ^ 128)
     takes base w [] = true ∧ bit w 136 = true ∧ isOk (tableStage (accepted base 0 w []) w []) = true ∧ base.hoopHold = [] ∧ base.hoopQ = []) := by
  decide +kernel

/-- A maintenance descriptor: OP, die, UNIT, ARG (Table 15-10). -/
def maintDesc (act d unit arg : Nat) : Word512 := dword 7 (act + d * 2 ^ 8 + unit * 2 ^ 32 + arg * 2 ^ 64)

/-- MaintenanceAndGateListDescriptorsTakeEffect: each activity at the ends of its ranges, out of range, on a die that is not there, and with its hoop held. -/
theorem witness_maintenance :
    [maintDesc 2 0 0 0, maintDesc 2 7 767 0, maintDesc 3 0 0 (0x10000 * 2 ^ 32), maintDesc 3 0 1 0xFFFFFFFFF, maintDesc 4 7 149 1, maintDesc 5 0 255 0, maintDesc 6 0 0 0].all (fun w =>
      takes base w [] && maintOk (accepted base 0 w []) (dsc w 16 1) (dsc w 17 1) (dsc w 20 4) (dsc w 24 8)) = true ∧
    [maintDesc 2 0 96 0, maintDesc 3 0 2 0, maintDesc 4 0 150 0, maintDesc 5 0 256 0, maintDesc 6 0 0x90000 0].all (fun w =>
      takes base w [] && !maintOk (accepted base 0 w []) (dsc w 16 1) (dsc w 17 1) (dsc w 20 4) (dsc w 24 8)) = true ∧
    (hoopBlock base 4 [0] true).isNone = true ∧
    (hoopBlock { base with hoopHold := [{ act := 4, dies := [0], op := none, die := 0, unit := 0, arg := 0 }] } 4 [0] true).isSome = true ∧
    selfFenced base 0 0 0 = false ∧ linkReaches base 7 = true ∧ linkReaches (updDie base 1 (fun x => { x with flt := 2 })) 1 = false := by
  decide +kernel

/-- FirmwareDescriptorsTakeEffect: the five operations with right and with wrong fields; no hoop held; an activity that runs; the lead's steward holds the identity;
room for a report and for a certificate. -/
theorem witness_firmware :
    [dword 9 (0 + 2 ^ 8 + A * 2 ^ 64), dword 9 (1 + 2 ^ 8), dword 9 2, dword 9 (3 + A * 2 ^ 64), dword 9 (4 + 2 ^ 8 + A * 2 ^ 64)].all (fun w => takes base w [] && fwFields w) = true ∧
    [dword 9 (2 ^ 9), dword 9 (1 + 2 ^ 32), dword 9 (2 + 2 ^ 8), dword 9 (3 + 2 ^ 64), dword 9 (4 + 2 ^ 64)].all (fun w => takes base w [] && !fwFields w) = true ∧
    hoopBlock base 7 (upto (ndies base.variant)) true = none ∧ base.boot.slot = 0 ∧ base.hoopHold = [] ∧ base.ops = [] ∧ base.recs = [] ∧
    (match exec (.fwStage 0 (dword 9 (2 ^ 8 + 64 * 2 ^ 32 + A * 2 ^ 64)) []) base with
      | .next t => isOk (devRead t (linkDie t) A 64 []) && t.hoopHold.any (fun h => h.act == 7)
      | _ => false) = true ∧
    (keepSlot base 0).valid = true ∧ max base.keep.arb base.boot.svn ≤ 255 ∧
    (let s : State := { base with boot := { base.boot with ids := [0], meas := List.replicate 48 0 } }
     let a := accepted s 0 (dword 9 (3 + A * 2 ^ 64)) []
     s.lead ∈ s.boot.ids ∧ s.boot.meas.length = 48 ∧ (match segs a .wr A 16864 with | .ok l => segsErr a (linkDie a) none l == none | .error _ => false) = true) ∧
    (let s : State := { base with keep := { base.keep with certs := [[1, 2], []] } }
     let a := accepted s 0 (dword 9 (4 + 2 * 2 ^ 32 + A * 2 ^ 64)) []
     fld (dword 9 (4 + 2 ^ 32 + A * 2 ^ 64)) 191 160 < (nth s.keep.certs 0 []).length ∧ (nth s.keep.certs 0 []).length ≤ fld (dword 9 (4 + 2 * 2 ^ 32 + A * 2 ^ 64)) 191 160 ∧
       (match segs a .wr A 2 with | .ok l => segsErr a (linkDie a) none l == none | .error _ => false) = true) := by
  decide +kernel

/-- PortModuleAndWaitDescriptorsTakeEffect and ModuleAccessesReachTheModule: ports, module accesses at the ends of the module's memory, a descriptor that waits;
an access to an empty cage and to one with its module. -/
theorem witness_ports_and_modules :
    [dword 0x0A 0, dword 0x0A (1 + 767 * 2 ^ 16), dword 0x0B (127 * 2 ^ 40 + 2 ^ 48 + A * 2 ^ 64), dword 0x0B (1 + 7 * 2 ^ 8 + 11 * 2 ^ 16 + 128 * 2 ^ 40 + 128 * 2 ^ 48 + A * 2 ^ 64),
      dword 0x0B (1 + 126 * 2 ^ 48 + A * 2 ^ 64)].all (fun w => takes base w [] && linkReaches (accepted base 0 w []) (dsc w 17 1)) = true ∧
    waits { base with cqs := [] } 0 (dword 0 0) [] = some 4 ∧ (getSq { base with cqs := [] } 0).waitPosted = false ∧
    (let o : Op := { id := 4, sq := 0, idx := 0, cq := 0, tag := 7, noint := false, hoopWait := false, type := 0x0B, desc := dword 0x0B (11 * 2 ^ 16 + 4 * 2 ^ 48 + A * 2 ^ 64), pos := 0, total := 0, begun := false, stop := false }
     let s := { base with ops := [o] }
     s.ops.find? (fun o => o.type == 0x0B && dsc o.desc 17 1 == 0 && dsc o.desc 18 1 == 11 && !s.recs.any (fun r => r.op == some o.id)) = some o ∧
       (cageOf (getDie s 0) 11).prs = false ∧ (cageOf (getDie (updDie s 0 (fun x => { x with cages := [(11, { cageReset with prs := true })] })) 0) 11).prs = true ∧
       linkReaches s 0 = true ∧ isolated (cageOf (getDie s 0) 11) = false ∧ isolated { cageReset with faults := [7] } = true ∧
       (match segs s .wr A 4 with | .ok l => segsErr s (linkDie s) none l == none | .error _ => false) = true ∧ isOk (devRead s (linkDie s) A 4 []) = true) := by
  decide +kernel

/-- AbortsStopWhatHasNotCommitted: the ring's head is the abort of the descriptor after it, of one long past, of a queued job; a wrong field. -/
theorem witness_aborts :
    (let s := { base with sqs := [(0, { sqReset with en := true, state := 1, tail := 2 })] }
     let a := accepted s 0 (dword 0x0C (2 ^ 32)) []
     takes s (dword 0x0C (2 ^ 32)) [(64, 1)] = true ∧ (1 + 2 ^ 32 - (getSq a 0).head) % 2 ^ 32 < ((getSq a 0).tail + 2 ^ 32 - (getSq a 0).head) % 2 ^ 32) ∧
    (let s := { base with sqs := [(0, { sqReset with en := true, state := 1, head := 3, tail := 4 })] }
     let a := accepted s 0 (dword 0x0C (2 ^ 32)) []
     takes s (dword 0x0C (2 ^ 32)) [] = true ∧ ¬(1 + 2 ^ 32 - (getSq a 0).head) % 2 ^ 32 < ((getSq a 0).tail + 2 ^ 32 - (getSq a 0).head) % 2 ^ 32 ∧
       ((getSq a 0).head + 2 ^ 32 - 1 - 1) % 2 ^ 32 < 2 ^ 31 ∧ (getSq a 0).quiet.contains 1 = false ∧ s.ops = [] ∧ a.ctxs = []) ∧
    (let o : Op := { id := 4, sq := 0, idx := 1, cq := 0, tag := 7, noint := false, hoopWait := false, type := 1, desc := placed.desc, pos := 0, total := 16, begun := false, stop := false }
     let s := { base with sqs := [(0, { sqReset with en := true, state := 1, head := 3, tail := 4 })], ops := [o], fresh := 9 }
     (accepted s 0 (dword 0x0C (2 ^ 32)) []).ops.find? (fun t => t.sq == 0 && t.idx == 1) = some o ∧ (getCore s (jobDie o.desc) (jobCore o.desc)).run = none) ∧
    fld (dword 0x0C (2 ^ 8)) 159 136 ≠ 0 := by
  decide +kernel

/-! Engines, DMA and the fabric: witnesses -/

/-- Die 0 holds an engine request. -/
def engined (q : EngReq) : State := updDie base 0 (fun x => { x with engs := [q] })

/-- A top-k request: OP, SET, the address at byte 24, K or RANK, L (Table 6-9). -/
def topk (op k l n : Nat) : EngReq := ereq 1 (1 + op * 2 ^ 8 + A * 2 ^ 128 + (A + 0x10000) * 2 ^ 192 + k * 2 ^ 256 + l * 2 ^ 272 + n * 2 ^ 448)

/-- An open set in that area of die 0 that has merged rank 0. -/
def open1 (s : State) : State :=
  updDie s 0 (fun x => { x with topk := [(0x4000000, { req := 0, k := 4, l := 2, smallest := false, dst := A + 0x10000, ranks := [0], recs := [(0x3F800000, 0, 5)], nan := false, src := .core 0 0 })] })

/-- A top-k OPEN of a core of die 0 whose set area lies on die 1, posted. -/
def crossing : EngReq := ereq 1 (1 + (A + 0x8000000) * 2 ^ 128 + (A + 0x8010000) * 2 ^ 192 + 4 * 2 ^ 256 + 2 * 2 ^ 272)
def posted : State := { base with engWait := [crossing] }

def engWay (o : Host.Outcome State Fault Refusal) (d : Nat) : List (Option Nat × Nat) :=
  match o with | .next s => (getDie s d).engs.map (fun q => (q.way, (outOf (getDie s 0) 96).q.length)) | _ => []

/-- R8: the request is on the way over bridge 0 of die 0 till BRIDGE_HOP brings it to die 1. -/
theorem test_request_on_the_way : engWay (exec (.engineRequestAccept 0 1) posted) 1 = [(some 0, 1)] := by decide +kernel
theorem test_request_arrives :
    (match exec (.engineRequestAccept 0 1) posted with | .next s => engWay (exec (.bridgeHop 0 0) s) 1 | _ => []) = [(none, 0)] := by decide +kernel

/-- EngineRequestsWaitForRoomAndSetsMergeRanks: a posted request for a die with room, for one without, and for another die; OPEN, ADD and CLOSE with and without the set; a new rank and one
merged already. -/
theorem witness_engines :
    (let q := topk 0 4 2 0
     let s := { base with engWait := [q] }
     dieUp s 0 = true ∧ q.unit = 1 ∧ engDest s (toLe 64 q.req.toNat) = .die 0 ∧ crosses s 0 0 = true ∧ mayAccept s 0 q.req = true ∧
       mayAccept (updDie s 0 (fun x => { x with engs := List.replicate 256 q })) 0 q.req = false) ∧
    (dieUp posted 0 = true ∧ engDest posted (toLe 64 crossing.req.toNat) = .die 1 ∧ crosses posted 0 1 = true ∧ mayAccept posted 1 crossing.req = true ∧
       stopped posted = false ∧ (match respRoom posted 0 (reqUser posted 1 crossing) with | some (_, s2) => (inject s2 0 (reqPacket crossing) 1 1).isSome | none => false) = true ∧
       reqUser posted 1 crossing = 1) ∧
    (let s := engined (topk 0 4 2 0)
     (engHead s 0 1).isSome = true ∧ setKey s A = some 0x4000000 ∧ isOk (reqSegs s 0 (topk 0 4 2 0) true A (576 + 16 * 4)) = true ∧
       isOk (reqSegs s 0 (topk 0 4 2 0) true (A + 0x10000) 32) = true ∧ (tfind (getDie s 0).topk 0x4000000).isSome = false ∧ (tfind (getDie (open1 s) 0).topk 0x4000000).isSome = true) ∧
    (let q := topk 1 1 0 2
     let s := open1 (engined q)
     (engHead s 0 1).isSome = true ∧ rq q.req 1 1 = 1 ∧ rq q.req 32 2 = 1 ∧ (match engGet s 0 q [] (rq q.req 24 8) 16 with | .ok _ => true | .error _ => false) = true ∧ commitRoom s q = true ∧
       isOk (reqSegs s 0 q true A (576 + 16 * 4)) = true ∧ (setKey s A).bind (tfind (getDie s 0).topk) ≠ none ∧
       isOk (reqSegs s 0 { q with req := BitVec.ofNat 512 1 } true 0 576) = false) ∧
    (let q := topk 2 0 0 0
     (engHead (open1 (engined q)) 0 1).isSome = true ∧ rq q.req 1 1 = 2 ∧ commitRoom (open1 (engined q)) q = true ∧ (setKey (engined q) A).bind (tfind (getDie (engined q) 0).topk) = none) := by
  decide +kernel

/-- EnginesWriteTheirOutputsAndCommit: each engine's request at the head of its unit with operands and outputs it may access; one that is done. -/
theorem witness_outputs :
    ((engHead (engined pool) 0 0).isSome = true ∧ (match engGet (engined pool) 0 pool [] A 4 with | .ok _ => true | .error _ => false) = true ∧ rising [0] = true ∧ rising [1, 0] = false ∧ rq pool.req 56 4 = 0 ∧
      (engHead (engined pool1) 0 0).isSome = true ∧ (match engGet (engined pool1) 0 pool1 [] A 8 with | .ok _ => true | .error _ => false) = true ∧ rq pool1.req 56 4 = 1 ∧
      (match poolBag (engined pool1) 0 pool1 [] [0, 0] 0 with
        | .ok (outs, _, _) => outs.all (fun (o : Nat × List Byte) => match reqSegs (engined pool1) 0 pool1 true o.1 o.2.length with | .ok l => segsHere l | .error _ => false)
        | .error _ => false) = true) ∧
    ((engHead (engined conv) 0 2).isSome = true ∧ vecFmt (fld conv.req 324 320) (bit conv.req 325) = some .e4m3 ∧ vecFmt (fld conv.req 332 328) (bit conv.req 333) = some .binary32 ∧
      (match engGet (engined conv) 0 conv [] A (packBytes .e4m3 2) with | .ok _ => true | .error _ => false) = true ∧
      (match reqSegs (engined conv) 0 conv true (A + 0x1000) 8 with | .ok l => segsHere l | .error _ => false) = true) ∧
    ((engHead (engined (dig 0)) 0 4).isSome = true ∧ isOk (reqSegs (engined (dig 0)) 0 (dig 0) true (A + 0x1000) 16) = true ∧ isOk (reqSegs (engined (dig 1)) 0 (dig 1) true (A + 0x1000) 16) = true ∧
      (match engGet (engined (dig 1)) 0 (dig 1) [] A 32 with | .ok _ => true | .error _ => false) = true ∧ rq (dig 1).req 1 1 = 1) ∧
    (let q := { conv with done := some { status := .ok, conds := 0, count := 2 } }
     dieUp (engined q) 0 = true ∧ commitRoom (engined q) q = true ∧ (upto 5).all (fun i => !rqCmpl q.req i) = true) := by
  decide +kernel

/-- ChainedWaitsCachesAndDmaProceed: a chained job's record whose ring is off; an empty cache; a DMA of 4 KiB from ground memory to the next 4 KiB, and one whose bytes are all begun. -/
theorem witness_chained :
    (let r : Rec := { op := none, cq := 1, tag := 7, status := .ok, sq := 0, source := 3, idx := 0, pos := 0, d0 := 0, d1 := 0, d2 := 0, noint := false, told := false }
     ({ base with recs := [r] } : State).recs = [] ++ r :: [] ∧ (getCq base 1).state = 0) ∧
    ((cacheOf (getDie base 0) 2 13).length < 64 ∧ (getDie base 0).pbOut = [] ∧ (poolOf (getDie base 0) 2).fresh + 128 ≤ poolSize 2) ∧
    (let q : DmaReq := { id := 2, owner := .core 0 1, src := [{ off := 0, len := 4096, place := .ground 0 0x4000000 }], dst := [{ off := 0, len := 4096, place := .ground 0 0x4001000 }], len := 4096, next := 0, units := 0, busy := [], status := .ok, aborted := false, replayed := false }
     let s := updDie base 0 (fun x => { x with dmas := [q] })
     dieUp s 0 = true ∧ getDma s 0 2 = some q ∧ (getDie s 0).moverFenced.length < 4 ∧ (getDie s 0).txq = [] ∧ gndPoisoned (getDie s 0).gnd 0x4000000 4096 = false ∧
       getDma (updDie base 0 (fun x => { x with dmas := [{ q with next := 4096 }] })) 0 2 = some { q with next := 4096 }) := by
  decide +kernel

/-! Ports, the transport and the collective engine: witnesses -/

/-- Port 0 of die 0 in service with credit in every buffer: a trunk port toward +X in a line of four packages (cfg 9), or an endpoint port (1); die 0 has
chip number 1, and the package 2 along +X holds chip 9. -/
def linked (cfg : Nat) : State :=
  let s := updDie base 0 (fun x => { x with
    regs := tset (tset x.regs (rPORT_CFG 0) (BitVec.ofNat 32 cfg)) rFAB_SELF 0x8001
    ports := [(0, { portReset with st := 6, width := 3, txA := (upto 32).map (fun b => (b, 1000)) })] })
  { s with tabs := { s.tabs with shape := some { x := 0, y := 0, z := 0, lx := 3, ly := 0, lz := 0, wrap := 0 }, trunk := [(0, [0])], chips := [(9, BitVec.ofNat 32 (2 + 2 ^ 31))] } }

/-- A packet of a kind from chip 9, with its flags, its bytes 16 to 31 and its payload; one held in buffer 5. -/
def pkt (kind flags rest : Nat) (bs : List Byte) : Packet := mkPacket ((kindClass kind).getD 0) kind 9 flags rest bs

def held (p : Packet) : Held :=
  { pkt := p, buf := some 5, arr := 0, ein := 0, inp := 100, od := 0, op := 100, q := 8, sub := 0, hop := 0, vr := none, brd := false }

/-- Die 0 with packets to serve. -/
def inbox (l : List Held) : State := updDie (linked 9) 0 (fun x => { x with inbox := l })

/-- A WRITE of four bytes at A, a READ of eight from there, an ADD64 there, an engine record, and voids of the first two (R517). -/
def wr : Packet := pkt kWRITE 0 (memForm 3 1 0 A) [1, 2, 3, 4]
def rd : Packet := pkt kREAD 0 (memForm 3 1 0 A) (toLe 8 0x77 ++ toLe 8 8)
def at1 : Packet := pkt kATOMIC 0 (memForm 3 1 0 A) (toLe 8 0 ++ toLe 8 0x77 ++ toLe 8 5)
def en : Packet := pkt kENGINE 0 (memForm 3 1 0 0) (toLe 64 (dig 1).req.toNat ++ toLe 8 0x77)

/-- Bytes as a port receives them after the header: the body and the four bytes of the trailer. -/
def wire (p : Packet) : List Byte := p.body ++ toLe 4 p.trailer.toNat

/-- PacketsArriveAtPorts: a port with room, a header before its packet, a good and a bad trailer, a packet after 63 hops. -/
theorem witness_packet_arrivals :
    let x := getDie (linked 9) 0
    dieRuns (linked 9) 0 = true ∧ portSends (portOf x 0) = true ∧ (portOf x 0).major ≠ 1 ∧ tfind x.rxPend 0 = none ∧ hLEN wr.hdr ≤ 4096 ∧
    (allocBuf x (poolFor 76) (groupOf 0) { refs := 1, grp := groupOf 0, units := poolUnits (poolFor 76), credit := some (0, arrivalBuf x 0 wr.hdr), req := none }).isSome = true ∧
    checkOk { hdr := wr.hdr, body := (wire wr).take ((wire wr).length - 4), trailer := BitVec.ofNat 32 (leNat ((wire wr).drop ((wire wr).length - 4))) } = true ∧
    checkOk { wr with trailer := wr.trailer + 1 } = false ∧ badKind wr.hdr (isTrunk x 0) = false ∧ isTrunk (getDie (linked 1) 0) 0 = false ∧
    hHOPS (held { wr with hdr := setH wr.hdr 39 34 63 }).pkt.hdr = 63 := by
  decide +kernel

/-- Die 0 with one packet queued at an output. -/
def queued (cfg o : Nat) (e : Held) : State := updDie (linked cfg) 0 (fun x => { x with outs := [(o, { outReset with q := [e] })] })

/-- ChosenPacketsLeaveOutputs: the packet that a trunk port and an endpoint port chooses; the one that bridge 0 chooses, for die 1 itself, an engine request too, for a port of die 1 in service and for die 3. -/
theorem witness_departures :
    [9, 1].all (fun cfg =>
      let s := queued cfg 0 (held wr)
      let x := getDie s 0
      portSends (portOf x 0) && (schedule (outOf x 0) (eligible s 0 0) (swWeight x 0) (regFld x (rSW_PORT 0 4) 7 0)).isSome && (portCredit x 0 (held wr)).isSome) = true ∧
    [none, some (0, 3, 1)].all (fun g =>
     let s := queued 9 96 { held wr with od := 1, op := 100, eng := g }
     let y := getDie s 1
     (schedule (outOf (getDie s 0) 96) (fun e => (bridgeCredit y 0 (min e.hop 1) (vcOf (hCLASS e.pkt.hdr) (hESC e.pkt.hdr)) (hDL e.pkt.hdr) (chargeOf (pktLen e.pkt))).isSome) (fun _ => 17) 0).isSome) = true ∧
    (let s := queued 9 96 { held wr with od := 1 }
     let y := getDie s 1
     dieRuns s 0 = true ∧ (bridgeOf (getDie s 0) 0).failed = false ∧ bridgeTo s.variant 0 0 = some 1 ∧ dieLives s 1 = true ∧
     (schedule (outOf (getDie s 0) 96) (fun e => (bridgeCredit y 0 (min e.hop 1) (vcOf (hCLASS e.pkt.hdr) (hESC e.pkt.hdr)) (hDL e.pkt.hdr) (chargeOf (pktLen e.pkt))).isSome) (fun _ => 17) 0).isSome = true ∧
     (allocBuf y (poolFor (pktLen wr)) 12 { refs := 1, grp := 12, units := 4, credit := some (96, 8), req := none }).isSome = true ∧
     dieLives s 3 = true ∧ (diePath s 1 3).isSome = true ∧
     portSends (getPort (updDie s 1 (fun x => { x with ports := [(0, { portReset with st := 6 })] })) 1 0) = true) := by
  decide +kernel

/-- WaitingPacketsGroupsAndSamples: a packet that waits at an output, for a candidate and in the drain, before and after its limit; no candidate, with credit on the escape channel; a warm group; a trunk port. -/
theorem witness_waiting_packets :
    (let e := held { wr with hdr := setH wr.hdr 4 0 2 }
     let s0 := updDie (linked 9) 0 (fun x => { x with adapt := [e], held := [e], ports := [(0, { portReset with st := 6, width := 3, txA := [(10, 1000)] })] })
     resideOver s0 0 e = false ∧ resideOver { s0 with now := 40000 } 0 e = true ∧ (outOf (getDie (queued 9 0 e) 0) 0).q[0]? = some e ∧ (getDie s0 0).adapt[0]? = some e ∧ (getDie s0 0).held[0]? = some e ∧
     candidates s0 e.pkt.hdr (chargeOf (pktLen e.pkt)) = [] ∧ routeEscape s0 e.pkt.hdr = .port 0 true ∧ dirOfPort s0 0 = some 0 ∧
     (trunkCredit (getPort s0 0 0) (vcOf (hCLASS e.pkt.hdr) true) (nextDL s0 e.pkt.hdr (cameFrom s0 0 e) 0) (chargeOf (pktLen e.pkt))).isSome = true) ∧
    (let s : State := { base with warm := [(0, { dec := 4096, since := some 0, warming := true })] }
     (warmOf s 0).warming = true ∧ 4096 ≤ (warmOf s 0).dec ∧ (warmOf s 0).since = some 0 ∧ 0 + 100000 ≤ ({ s with now := 100000 } : State).now) ∧
    (portWidth (getDie (linked 9) 0) 0).isSome = true ∧ bit (regWord (getDie (linked 9) 0) rSW_SAMPLE) 8 = false := by
  decide +kernel

/-- RequestPacketsTakeEffectAtTheirDie: each kind of request packet waits at die 0, good, of a place it may access, and void. -/
theorem witness_requests :
    [(kWRITE, wr), (kREAD, rd), (kATOMIC, at1), (kENGINE, en)].all (fun p => (takeKind (inbox [held p.2]) 0 p.1).isSome && !isVoid p.2.hdr) = true ∧
    isVoid (pkt kWRITE 0 (memForm 3 1 5 A) []).hdr = true ∧ isOk (packetPlace (inbox []) 0 (hADDR wr.hdr) (hLEN wr.hdr)) = true ∧
    (16 ≤ (payload rd).length ∧ bytesNat (payload rd) 10 6 = 0 ∧ bytesNat (payload rd) 8 2 = 8 ∧
      (match packetPlace (inbox []) 0 A 8 with | .ok p => isOk (placeRead (inbox []) 0 none p 8) | .error _ => false) = true ∧
      isOk (packetPlace (inbox []) 0 0x8010000000 8) = false ∧
      (match packetPlace (inbox []) 0 A 8 with | .ok p => isOk (placeRead (updDie (inbox []) 0 (fun x => { x with gnd := { x.gnd with pois := [0x800000] } })) 0 none p 8) | .error _ => true) = false) ∧
    (bytesNat (payload at1) 1 7 = 0 ∧ atomicSize (bytesNat (payload at1) 0 1) = some 8 ∧ 24 ≤ (payload at1).length ∧
      (match packetPlace (inbox []) 0 A 8 with | .ok p => isOk (placeAtomic (inbox []) 0 p 0 5) | .error _ => false) = true ∧
      (takeKind (inbox [{ held at1 with brd := true }]) 0 kATOMIC).isSome = true ∧ 16 + 8 ≤ (payload at1).length) ∧
    72 ≤ (payload en).length ∧
    (match takeKind (inbox [held en]) 0 kENGINE with | some (e, s1) => (submit (finCount s1 0 e) 0 { dig 1 with src := .packet 9 0x77 3 none } false).isSome | none => false) = true := by
  decide +kernel

/-- A request outstanding at die 0 and a record not acknowledged toward chip 9. -/
def asked (kind : Nat) : ReqOut := { chip := 9, tag := 3, kind := kind, addr := A, what := .companion 8, buf := none }
def unacked : Replay := { seq := 7, pkt := wr, dst := 9, tries := 0, owner := .none, buf := none }
def replaying (s : State) : State := updDie s 0 (fun x => { x with tr := { x.tr with txs := [(9, { next := 8, fresh := false, recs := [unacked] })], ackDue := [(9, [4, 80])] } })

/-- AnswersAndAcknowledgementsTakeEffect: answers with and without their request; an ACK of a record; RESEND with records; the lock-step partner's record and any other message. -/
theorem witness_answers :
    [(kREAD_DATA, kREAD), (kATOMIC_DATA, kATOMIC), (kENG_DONE, kENGINE)].all (fun p =>
      let e := held (pkt p.1 0 (memForm 3 1 0 0) (toLe 8 1))
      (takeKind (inbox [e]) 0 p.1).isSome && (takeReq' (inbox [e]) 0 9 3 [p.2]).isNone &&
        (takeReq' (updDie (inbox [e]) 0 (fun x => { x with reqs := [asked p.2] })) 0 9 3 [p.2]).isSome && !heldVoid e && heldVoid { e with vr := some (some 0) }) = true ∧
    (let e := held (pkt kREPLY_WRITE 0 (memForm 3 1 0 A) (toLe 8 1))
     (takeKind (inbox [e]) 0 kREPLY_WRITE).isSome = true ∧ hSRC e.pkt.hdr = 9 ∧ hTAG e.pkt.hdr = 3 ∧
     (addrPlace (inbox [e]) A .wr) = .ok (.ground 0 0x4000000)) ∧
    (let e := held (pkt kACK (7 <<< 104) (memForm 0 1 0 1) [])
     (takeKind (inbox [e]) 0 kACK).isSome = true ∧ (ackedAt (getDie (replaying base) 0).tr 9 (hSEQ e.pkt.hdr) (hADDR e.pkt.hdr)).2 = [unacked]) ∧
    (let e := held (pkt kRESEND 0 (memForm 3 1 2 0) [])
     (takeKind (replaying (inbox [e])) 0 kRESEND).isSome = true ∧ hAUX e.pkt.hdr = 2 ∧ resendWaits (replaying (inbox [e])) 0 96 = false ∧ (spaceOf (getDie (replaying base) 0).tr 9).recs ≠ []) ∧
    (let e := held (pkt kMGMT_MSG 0 (memForm 3 1 0 A) (List.replicate 32 1))
     let s := updDie (inbox [e]) 0 (fun x => { x with regs := tset x.regs rTIME_LSTEP 0x8009 })
     (takeKind s 0 kMGMT_MSG).isSome = true ∧ bit (regWord (getDie s 0) rTIME_LSTEP) 15 = true ∧ bit (regWord (getDie (inbox [e]) 0) rTIME_LSTEP) 15 = false ∧
     fld (regWord (getDie s 0) rTIME_LSTEP) 14 0 = hSRC e.pkt.hdr ∧ (payload e.pkt).length = 32 ∧ isVoid e.pkt.hdr = false) := by
  decide +kernel

/-- TransportTimersAndFabricKnots: numbers owed to chip 9, some past the map's 64; a record below its re-sends and at its limit; a message asked for eight times; a fabric-wide
barrier whose home is die 0's chip and one whose home is chip 9. -/
theorem witness_timers :
    (let s := replaying (linked 9)
     let l := tget (getDie s 0).tr.ackDue 9 []
     let p := mkPacket 5 kACK 1 (ackStart l <<< 104) (memForm 0 9 0 (ackMap (ackStart l) l)) []
     dieRuns s 0 = true ∧ l ≠ [] ∧ chipOfDie s 0 = some 1 ∧ chipRoute s 9 = some (2, false) ∧ l.filter (fun q => !decide (seqSub q (ackStart l) < 64)) = [80] ∧
     (allocReq s.variant 0 (getDie s 0) 11 (pktLen p) 1).isSome = true ∧
     s.drain.stage = 0 ∧ (spaceOf (getDie s 0).tr 9).recs.find? (fun q => q.seq == 7) = some unacked ∧ unacked.tries < retryLimit s 0 ∧ retryLimit s 0 ≤ 15 ∧
     chipRoute { s with tabs := { s.tabs with chips := [] } } 9 = none) ∧
    (let f : FinEnt := { finEmpty with total := some 8, asks := 8 }
     tfind (getDie (updDie base 0 (fun x => { x with fin := [(finKey 9 3, f)] })) 0).fin (finKey 9 3) = some f ∧ f.mark = f.count) ∧
    regsUp base = true ∧ linkReaches base 0 = true ∧ base.locked = false ∧
    (let e := held (pkt kARRIVE 0 0x140 [])
     let kn : Knot := { knotReset with cfg := 5, fab := 1 }
     let s := setKnot (inbox [e]) 0 320 kn
     (takeKind s 0 kARRIVE).isSome = true ∧ fld e.pkt.hdr 143 128 = 320 ∧ knotKind (getKnot s 0 320) = 1 ∧ chipOfDie s 0 = some (knotHome (getKnot s 0 320)) ∧
     (homeCount s 0 320 0 9).1.isSome = true ∧ (homeCount (setKnot s 0 320 { kn with fab := 1 + 2 ^ 15 }) 0 320 0 9).1.isSome = false ∧
     (takeKind (inbox [held (pkt kRELEASE 0 0x140 [])]) 0 kRELEASE).isSome = true ∧
     dieOfChip (linked 9) 9 = none ∧ (getKnot (setKnot (linked 9) 0 320 { kn with fab := 9, sentArrive := true }) 0 320).sentArrive = true) := by
  decide +kernel

/-- A packet of the context: chunk 0, rank 0, piece 0, with LAST. -/
def cpkt (kind rank : Nat) (flags : Nat) (last : Bool) : Packet := pkt kind flags (collForm 5 0 0 last rank 0 0) (List.replicate 16 1)

/-- A slot of chunk 0. -/
def slot0 : Slot :=
  { die := 0, chunk := 0, idx := 0, words := [], spec := [], prick := [], pricked := [], fixed := false, arrived := [], staged := [], recs := [], nan := false }

/-- CollectivePacketsAreCountedOnce: at the home of chunk 0, with the context open and not; a piece whose rank is new, counted, and of a chunk that is over; no free slot;
windows not fixed; a pricking packet, of a chunk that is over too; a packet that the home sends, first sent and sent again, of a chunk there is not; an acknowledgement of a
package and of an endpoint. -/
theorem witness_collective :
    (let e := held (cpkt kDATA 1 0 true)
     let s := inbox [e]
     let s1 : State := { s with ctxs := [ctx] }
     (takeKind s 0 kDATA).isSome = true ∧ findCtx s 5 0 = none ∧ findCtx s1 5 0 = some ctx ∧ upValid s1 0 ctx e.pkt.hdr = true ∧
       upValid s1 0 ctx (held (cpkt kDATA 2 0 true)).pkt.hdr = false ∧ ctx.emitted = [] ∧ cWmode ctx ≠ 1 ∧ (slotFor ctx 0 0).isSome = true ∧
       hLAST e.pkt.hdr = true ∧ hPIECE e.pkt.hdr = 0 ∧ hLAST (cpkt kDATA 1 0 false).hdr = false) ∧
    (let c := { ctx with slots := [{ slot0 with arrived := [1], chunk := 7 }] }
     slotFor c 0 0 = none ∧ slotFor c 0 7 = some { slot0 with arrived := [1], chunk := 7 }) ∧
    (let c := { ctx with blk := block + BitVec.ofNat 1024 (2 ^ 30) }
     cWmode c = 1 ∧ slotFixed c 0 = false ∧ cLocal c = false ∧ cNC c = 2 ∧ upValid { inbox [] with ctxs := [c] } 0 c (cpkt kPRICK 1 0 false).hdr = true ∧
       (takeKind (inbox [held (cpkt kPRICK 1 0 false)]) 0 kPRICK).isSome = true ∧ findCtx { inbox [] with ctxs := [c] } 5 0 = some c ∧ (slotFor c 0 0).isSome = true ∧
       (slotFind c 0).isSome = false ∧ (slotFind { c with slots := [slot0] } 0).isSome = true ∧ ({ c with emitted := [0] } : Ctx).emitted = [0]) ∧
    (held wr).buf = some 5 ∧
    [kRESULT, kWINDOW, kRECONTRIB].all (fun k => (takeKind (inbox [held (cpkt k 0 0 true)]) 0 k).isSome) = true ∧
    hRESENT (cpkt kRESULT 0 0 true).hdr = false ∧ hRESENT (cpkt kRESULT 0 (2 ^ 85) true).hdr = true ∧ cChunks ctx = 1 ∧
    (takeKind (inbox [held (cpkt kCOLL_ACK 0 0 true)]) 0 kCOLL_ACK).isSome = true ∧ ackFrom (linked 9) 9 < 65536 ∧
    ackFrom { linked 1 with tabs := { (linked 1).tabs with grants := [(0, BitVec.ofNat 64 (9 + 2 ^ 15))] } } 9 = 65536 := by
  decide +kernel

/-- SumsDoNotDependOnArrivalOrder: the sum of `ctx`, its slot empty, two contributions of 256 elements. -/
theorem witness_sums :
    cSum ctx = true ∧ cTopk ctx = false ∧ cNel ctx 0 = 256 ∧ (slotWords ctx slot0).length = 256 ∧ (slotSpec ctx slot0).length = 256 ∧
      (grainValues ctx (List.replicate 1024 1) 0).length = 256 := by
  decide +kernel

/-- `ctx` waiting for admission, its open the operation 4. -/
def waiting : Ctx := { ctx with opened := false, op := some 4 }

/-- A contribution of 4,096 bytes with its check to the slot of chunk 0. -/
theorem contribution_of (bs : List Byte) (h : bs.length = 4096) :
    ∃ p : Piece, p.bytes = bs ∧ p.piece = 0 ∧ p.last = true ∧ (∀ q ∈ slot0.staged, q.rank ≠ p.rank) ∧ crc32c p.bytes = p.cchk ∧ cTopk ctx = false ∧
      p.bytes.length = cGrains ctx * cB256 ctx :=
  ⟨{ rank := 1, piece := 0, last := true, cchk := crc32c bs, bytes := bs, buf := none }, rfl, rfl, rfl, fun _ hq => absurd hq List.not_mem_nil, rfl, by decide +kernel,
    h.trans (by decide +kernel)⟩

/-- ContextsAreAdmittedAndEnd: a whole contribution with its check. -/
theorem witness_contribution : ∃ p : Piece, p.bytes = List.replicate 4096 1 ∧ p.piece = 0 ∧ p.last = true ∧ (∀ q ∈ slot0.staged, q.rank ≠ p.rank) ∧
    crc32c p.bytes = p.cchk ∧ cTopk ctx = false ∧ p.bytes.length = cGrains ctx * cB256 ctx :=
  contribution_of _ List.length_replicate

/-- ContextsAreAdmittedAndEnd: a context at the head of the queue with room at its home die; a context without anything left; a limit;
a local contribution whose knot has its signal; no DELIVER waiting. -/
theorem witness_contexts :
    (let s : State := { base with ctxs := [waiting] }
     queueHead base = none ∧ queueHead s = some waiting ∧ waiting.dies.all (homeOk s) = true ∧ waiting.dies.all (homeOk (updDie s 0 (fun x => { x with flt := 1 }))) = false ∧
       (fitOn s waiting 0).isSome = true ∧ waiting.dies = [0] ∧ admitCtx s { waiting with blk := block + BitVec.ofNat 1024 (0xFFFE * 2 ^ 80) } = none ∧
       s.ctxs.find? (fun c => !c.opened && c.id == 5 && admOver { s with now := 10000000 } c) = some waiting ∧ admOver { s with now := 9999999 } waiting = false) ∧
    (let c := { ctx with emitted := [0], got := [0] }
     let s : State := { base with ctxs := [c] }
     (upto (cChunks c)).all (chunkDone s c) = true ∧ ringReady s c.cq = true ∧ c.slots = []) ∧
    (let c := { ctx with blk := block + BitVec.ofNat 1024 (2 ^ 480) }
     limitOver { base with now := 1000000 } c = true ∧ limitOver { base with now := 999999 } c = false ∧ c.opened = true) ∧
    (let c := { ctx with blk := block + BitVec.ofNat 1024 (2 ^ 73 + A * 2 ^ 384 + 3 * 2 ^ 448) }
     let s : State := setKnot { base with ctxs := [c] } 0 3 { knotReset with cfg := 6, count := 1 }
     cLocal c = true ∧ addrDie s (cLocalAddr c) = some 0 ∧ ctxF c 455 448 = 3 ∧ knotKind (getKnot s 0 3) = 2 ∧ 1 ≤ (getKnot s 0 3).count) ∧
    takeKind (pumpDie base 0) 0 kDELIVER = none := by
  decide +kernel

/-- The package with its time state: 0 FREE, 1 ACQUIRE, 2 LOCKED, 3 HOLDOVER; TIME_CFG as at reset with a source. -/
def timed (st src : Nat) : State :=
  let s := updDie (linked 9) 0 (fun x => { x with regs := tset (tset x.regs rTIME_CFG (BitVec.ofNat 32 (0x00119028 + src))) rTIME_ROOT 1 })
  { s with time := { s.time with st := st } }

/-- TimeIsMeasuredSteppedAndRead: each state with offsets on both sides of its bounds; a PTP source and a fabric source with a parent port; the three link messages; a log that fits
the user area and one that does not. -/
theorem witness_time :
    (timeSrc (timed 2 1) = 1 ∧ timeSrc (timed 2 2) = 2 ∧ timeSrc (timed 2 0) = 0 ∧ fld (regWord (getDie (timed 2 1) 0) rTIME_CFG) 19 10 = 100 ∧
      fld (regWord (getDie (timed 2 1) 0) rTIME_CFG) 27 20 = 1 ∧ (1600 : Int).natAbs ≤ 16 * 100 ∧ 16000 * 1 < (-16001 : Int).natAbs ∧ (timed 1 1).time.stepped = false) ∧
    ({ timed 3 1 with time := { (timed 3 1).time with good := 3 } } : State).time.good = 3 ∧ timeValid (timed 2 1) = true ∧ regsUp (timed 3 1) = true ∧ linkReaches (timed 3 1) 0 = true ∧
    (let e := { held (pkt kSYNC_TIME 0 0x100 []) with inp := 0 }
     let s := updDie (timed 2 2) 0 (fun x => { x with inbox := [e] })
     (takeKind s 0 kSYNC_TIME).isSome = true ∧ parentPort s = some 0 ∧ parentPort (timed 2 1) = some 0) ∧
    [kDELAY_REQ, kDELAY_RSP].all (fun k =>
      let e := { held (pkt k 0 0x100 []) with inp := 0 }
      (takeKind (inbox [e]) 0 k).isSome && isTrunk (getDie (inbox [e]) 0) 0) = true ∧
    logFits (getDie base 0) (BitVec.ofNat 32 (0x4000000 + 12)) = true ∧ logFits (getDie base 0) (BitVec.ofNat 32 0x1C) = false := by
  decide +kernel

/-! Gates, hoops, registers, ports, faults and power: witnesses -/

/-- A gate list of two entries from 20 µs on. -/
def gates : GateList := { ents := [(1000, 0xFFFF), (2000, 0xF0)], start := 20000, op := 4, cur := 0 }

/-- An activity holds its hoop, for operation 4. -/
def holding (act unit arg : Nat) : State :=
  { base with
    ops := [{ id := 4, sq := 0, idx := 0, cq := 0, tag := 7, noint := false, hoopWait := false, type := 7, desc := 0, pos := 0, total := 1, begun := true, stop := false }]
    hoopHold := [{ act := act, dies := [0], op := some 4, die := 0, unit := unit, arg := arg }] }

/-- GatesHoopsAndTheDrainProceed: a staged list, a list in force at each of its entries, policers off and on, a history area that fits and one that does not, the hoop queue with a
free and a held hoop, each activity held, each stage of the drain. -/
theorem witness_gates_and_hoops :
    ((getPort (updPort (linked 9) 0 0 (fun p => { p with staged := some gates, gate := some gates })) 0 0).staged = some gates ∧
      gateAt gates 20000 = (0, 0xFFFF, 1000) ∧ gateAt gates 21000 = (1, 0xF0, 2000) ∧ dieRuns (linked 9) 0 = true ∧
      gates.start < 2 ^ 64 ∧ (getDie (linked 9) 0).clock < 2 ^ 96 ∧ linkReaches (linked 9) 0 = true) ∧
    (65536 ≤ rateValue 0 0x10001 ∧ rateValue 0 0 < 65536 ∧ histFits (getDie base 0) 0x4000000 = true ∧ histFits (getDie base 0) 0 = false) ∧
    (let h : HoopReq := { act := 4, dies := [0], op := none, die := 0, unit := 1, arg := 0 }
     hoopBlock { base with hoopQ := [] } h.act h.dies false = none ∧ (hoopBlock (holding 4 0 0) h.act h.dies false).isSome = true) ∧
    [2, 3, 4, 5, 6, 7].all (fun a => (holding a 0 0).hoopHold.any (fun h => h.act == a && h.die == 0 && h.st.isNone && !holdOver (holding a 0 0) h && !holdStop (holding a 0 0) h)) = true ∧
    (getCore (holding 4 0 0) 0 0).run = none ∧ thriceStruck (holding 4 0 0) (getCore (holding 4 0 0) 0 0) = false ∧ recalOver (holding 2 0 0) 0 = true ∧
    inflight { base with drain := { base.drain with stage := 2 } } = 0 ∧ inflight (queued 9 0 (held wr)) ≠ 0 ∧
    (keepSlot base 0).valid = true ∧ base.keep.arb ≤ 255 ∧ base.boot.svn ≤ 255 := by
  decide +kernel

/-- RegistersAndCompanionAccessesTakeEffect: register and memory addresses, atomics, windows; the second Itgil link up; a slot that is full and one that is not. -/
theorem witness_registers :
    (regsUp base = true ∧ linkReaches base 0 = true ∧ dieLives base 0 = true ∧ (plainValue base 0 rENG_SEED_LO 5).isSome = true ∧ base.locked = false ∧
      regsUp State.reset = false) ∧
    (inWindows A = false ∧ (match addrPlace base A .rd with | .ok p => (placeDie p).isSome && isOk (placeRead base (linkDie base) none p 8) | .error _ => false) = true ∧
      (match addrPlace base A .wr with | .ok p => (placeDie p).isSome && (placeErr base (linkDie base) none p 8).isNone | .error _ => false) = true ∧
      (match addrPlace base A .atom with | .ok p => (placeDie p).isSome && isOk (placeAtomic base (linkDie base) p 0 5) | .error _ => false) = true ∧
      isOk (addrPlace base 0x8600000000 .rd) = false ∧ isOk (addrPlace base 0x8600000000 .wr) = false ∧ inWindows 0x9000000000 = true) ∧
    (itgCan { base with itgUp := [0, 1] } = true ∧ itgCan base = false ∧ base.itgActive = 0) ∧
    (let c := { ctx with slots := [{ slot0 with arrived := [0, 1] }] }
     let s : State := { linked 9 with ctxs := [c] }
     readySlot (linked 9) 0 = none ∧ (readySlot s 0).isSome = true ∧ (chipOfDie s 0).isSome = true ∧ stopped s = false ∧ (pipeBufs 0 [4096] s).isSome = true ∧ 2 ∉ (getDie s 0).engFenced) := by
  decide +kernel

/-- The same port with lane 0 in a state of TRAIN, HELLO and so on, its octet divided into ports of one lane (mode 4). -/
def laned (st : Nat) (n : Lane) : State :=
  updDie (updPort (linked 12) 0 0 (fun p => { p with st := st, width := 0 })) 0 (fun x => { x with lanes := [(0, n)] })

/-- The 64 bytes of a hello of lane 0 with flags (Table 11-7). -/
def hello (flags : Nat) : List Byte :=
  let b := toLe 60 (1 + 1 * 2 ^ 24 + flags * 2 ^ 56)
  b ++ toLe 4 (crc32c b)

/-- A codeword's symbols may begin with zeros: they add nothing to its syndromes. -/
theorem rsSyndromes_zeros (n : Nat) (c : List Nat) : rsSyndromes (List.replicate n 0 ++ c) = rsSyndromes c := by
  have h0 (p : Nat) : gfMul 0 p = 0 := by
    unfold gfMul foldUpto
    induction upto 10 with
    | nil => rfl
    | cons x l ih =>
      have e : (let r2 := if 512 ≤ 0 then (2 * 0) ^^^ 0x409 else 2 * 0; if p.testBit (9 - x) then r2 ^^^ 0 else r2) = 0 := by simp
      rw [List.foldl_cons, e, ih]
  have h (p : Nat) : (List.replicate n 0 ++ c).foldl (fun r v => gfMul r p ^^^ v) 0 = c.foldl (fun r v => gfMul r p ^^^ v) 0 := by
    induction n with
    | zero => rfl
    | succ n ih => rw [List.replicate_succ, List.cons_append, List.foldl_cons, h0, Nat.zero_xor, ih]
  unfold rsSyndromes
  simp only [h]

/-- The product of x − α^i for i below 16, highest power first: its first 16 syndromes are 0 and the next is not. -/
def farWord : List Nat := [1, 568, 550, 748, 724, 650, 1005, 744, 27, 204, 617, 218, 595, 461, 746, 960, 888]

/-- LanesTrainAndCarryControlWords: a codeword of zeros, one with the last symbol wrong, and one that cannot be corrected (R321). -/
theorem witness_codewords :
    rsDecode (cwSymbols ((0 : BitVec 300) ++ ((0 : BitVec 5000) ++ (0 : BitVec 140)))) = some (List.replicate 544 0, 0) ∧
    rsDecode (cwSymbols (((5 : BitVec 300) <<< 290) ++ ((0 : BitVec 5000) ++ (0 : BitVec 140)))) = some (List.replicate 544 0, 1) ∧
    rsDecode (cwSymbols ((BitVec.ofNat 300 (farWord.foldr (fun v r => r <<< 10 + v) 0) <<< 130) ++ ((0 : BitVec 5000) ++ (0 : BitVec 140)))) = none := by
  have e (n m : Nat) (h : n + m = 544) : List.replicate n 0 ++ List.replicate m 0 = List.replicate 544 0 := by rw [List.replicate_append_replicate, h]
  have z : rsSyndromes (List.replicate 544 0) = List.replicate 30 0 := by
    rw [← e 543 1 rfl, rsSyndromes_zeros]
    decide +kernel
  refine ⟨?_, ?_, ?_⟩
  · have h : cwSymbols ((0 : BitVec 300) ++ ((0 : BitVec 5000) ++ (0 : BitVec 140))) = List.replicate 544 0 := by decide +kernel
    have hz : (rsSyndromes (List.replicate 544 0)).all (· == 0) = true := by rw [z]; decide +kernel
    rw [h]
    unfold rsDecode
    exact if_pos hz
  · have h : cwSymbols (((5 : BitVec 300) <<< 290) ++ ((0 : BitVec 5000) ++ (0 : BitVec 140))) = List.replicate 543 0 ++ [5] := by decide +kernel
    have hs : rsSyndromes [5] = List.replicate 30 5 := by decide +kernel
    have hl : rsLocator (List.replicate 30 5) = { c := [1, 1], b := [1], len := 1, m := 30, last := 5 } := by decide +kernel
    have hf : rsFix [1, 1] (List.replicate 30 5) (List.replicate 543 0 ++ [5]) (gfPow 2 480) = List.replicate 544 0 := by decide +kernel
    have hn : (((List.replicate 544 0).zip (List.replicate 543 0 ++ [5])).filter (fun p : Nat × Nat => p.1 != p.2)).length = 1 := by decide +kernel
    rw [h, rsDecode, rsSyndromes_zeros, hs, hl]
    simp only [hf, hn, z]
    decide +kernel
  · have h : cwSymbols ((BitVec.ofNat 300 (farWord.foldr (fun v r => r <<< 10 + v) 0) <<< 130) ++ ((0 : BitVec 5000) ++ (0 : BitVec 140))) =
        List.replicate 527 0 ++ farWord := by decide +kernel
    have hs : (rsSyndromes farWord).all (· == 0) = false := by decide +kernel
    have hl : 15 < (rsLocator (rsSyndromes farWord)).len := by decide +kernel
    rw [h]
    unfold rsDecode
    rw [rsSyndromes_zeros]
    exact (if_neg (by rw [hs]; decide)).trans (if_neg (fun p => absurd p.1 (Nat.not_le.mpr hl)))

/-- LanesTrainAndCarryControlWords: a lane at work, apart from its neighbour, in training, at the hello; good and bad hellos; control words for buffers there are and are not. -/
theorem witness_lanes :
    (let n := { laneReset with done := true, rxuse := true, lock := true }
     let s := laned 6 n
     dieRuns s 0 = true ∧ laneWidthPort (getDie s 0) 0 = some 0 ∧ laneTest (getDie s 0) 0 = 0 ∧ (getPort s 0 0).st = 6 ∧ skewed (getDie s 0) 0 = [] ∧ n.done = true ∧ n.failed = false ∧
      (laneOf (getDie (laned 6 { n with mark := some 7 }) 0) 0).mark = some 7 ∧
      skewed (getDie (updDie (linked 9) 0 (fun x => { x with lanes := [(0, { n with mark := some 0 }), (1, { n with mark := some 9 })] })) 0) 0 = [0, 1] ∧
      ctlPort s 0 0 = true ∧ ctlBuf (getDie s 0) 0 31 = true ∧ ctlBuf (getDie s 0) 0 22 = false ∧ ctlBuf (getDie s 0) 0 21 = true) ∧
    ((getPort (laned 3 laneReset) 0 0).st = 3 ∧ (getPort (laned 3 laneReset) 0 0).fos = false ∧ (getPort (updPort (laned 3 laneReset) 0 0 (fun p => { p with fos := true })) 0 0).fos = true ∧
      laneReset.done = false ∧ laneReset.failed = false ∧
      (16 : Nat) ≤ ({ laneReset with readySent := 16, readyGot := 16 } : Lane).readySent) ∧
    ((laneReset.cm1 ≤ 16 ∧ laneReset.cp1 ≤ 24) ∧ (24 : Nat) ≤ ({ laneReset with c0 := 24 } : Lane).c0) ∧
    ((readHello (hello 0)).isSome = true ∧ (readHello (hello 4)).map (·.removing) = some true ∧ readHello [] = none ∧ (readHello (hello 0)).map (fun f => (f.lane, f.removing, f.miscabled)) = some (0, false, false) ∧
      portLanes (getDie (laned 4 laneReset) 0) 0 = [0] ∧ portWidth (getDie (laned 4 laneReset) 0) 0 = some 0) ∧
    (let s := updPort (laned 9 laneReset) 0 0 (fun p => { p with farDrained := true })
     removalOver s 0 0 = false ∧ removalOver { s with now := 63000 } 0 0 = true ∧ (getPort s 0 0).farDrained = true ∧ (outOf (getDie s 0) 0).q = [] ∧ stopped s = false ∧ stopped { s with drain := { s.drain with stage := 1 } } = true) ∧
    (cwType 2 = 2 ∧ (getPort (updPort (laned 7 laneReset) 0 0 (fun p => { p with far := readHello (hello 0) })) 0 0).far ≠ none) ∧
    (let s := updPort (laned 1 laneReset) 0 0 id
     (getPort s 0 0).st = 1 ∧ (cageOf (getDie s 0) 0).prs = false) := by
  decide +kernel

/-- CagesModulesAndTestModesTakeEffect: an octet with ports, its cage with and without a module, a stuck button and an isolated branch; each kind of port state for LANE_CTL; a lane
under test, whose checker is seeded, locked and not. -/
theorem witness_cages :
    let s := laned 6 laneReset
    dieRuns s 0 = true ∧ octetPorts (getDie s 0) 0 = [0, 1, 2, 3, 4, 5, 6, 7] ∧ (cageOf (getDie (updCage s 0 0 (fun c => { c with prs := true, faults := [17] })) 0) 0).prs = true ∧
      (cageOf (getDie s 0) 0).faults = [] ∧ (portOf (getDie s 0) 0).st = 6 ∧ (portOf (getDie (laned 1 laneReset) 0) 0).st = 1 ∧
      laneTest (getDie (updDie s 0 (fun x => { x with regs := tset x.regs (rLANE_CTL 0) 4 })) 0) 0 = 4 ∧
      isolated (cageOf (getDie s 0) 0) = false ∧ isolated { cageReset with faults := [8] } = true ∧ (getPort s 0 0).st ≠ 10 ∧ (getPort (laned 10 laneReset) 0 0).st = 10 ∧
      linkReaches s 0 = true ∧ s.locked = false ∧ laneWidthPort (getDie s 0) 0 = some 0 ∧ (portOf (getDie (laned 11 laneReset) 0) 0).st = 11 ∧
      (portLanes (getDie s 0) 0).all (fun j => laneTest (getDie s 0) j == 0) = true ∧
      prbsLen 0 ≤ ({ seeded := 13 } : Prbs).seeded ∧ 255 ≤ ({ good := 255 } : Prbs).good := by
  decide +kernel

/-- FaultsScrubsAndRepairsTakeEffect: a stack in service, a copy under way with and without an activity that waits for it, a record waiting, a trained lane whose
preset and adaptation are new and not; the turned words of a scrub; a core that runs a job, with work shared, replayed and not; an engine that serves a request;
a mover and its request, the last mover; a port in service; a bank whose spare rows are used up. -/
theorem witness_faults :
    (let s := updDie base 0 (fun x => { x with stk := { x.stk with ready := true, selfRef := false, copying := some 3 } })
     s.phase = .up ∧ (getDie s 0).flt = 0 ∧ (getDie s 0).stk.ready = true ∧ (getDie s 0).stk.selfRef = false ∧ (getDie s 0).stk.copying = some 3 ∧
     s.hoopHold.find? (fun h => h.act == 3 && h.die == 0 && h.st.isSome && !holdOver s h) = none ∧
     (let h : HoopReq := { act := 3, dies := [0], op := none, die := 0, unit := 2, arg := 12, st := some .ok }
      ([h].find? (fun h => h.act == 3 && h.die == 0 && h.st.isSome && !holdOver s h)).isSome = true)) ∧
    (turnedWords [14, 17, 400] 100 [7] false = ([] : List Nat) ∧ turnedWords [14, 17] 100 [] false = [7] ∧ turnedWords [14, 17] 100 [] true = [8]) ∧
    (let n := { laneReset with done := true, trained := true, c0 := 40 }
     let s := laned 6 n
     portLanes (getDie s 0) 0 = [0] ∧ (portOf (getDie s 0) 0).st = 6 ∧ (laneOf (getDie s 0) 0).trained = true ∧ tfind s.keep.presets 0 = none ∧ tfind s.keep.presetAt 0 = none ∧ (laneOf (getDie (laned 6 laneReset) 0) 0).trained = false ∧
     tfind ({ s.keep with presets := [(0, (n.cm1, n.c0, n.cp1))], adapts := [(0, n.adapt)] } : Keep).presets 0 = some (n.cm1, n.c0, n.cp1)) ∧
    (let s := at0 (core 0 0 0)
     s.phase = .up ∧ dieLives s 0 = true ∧ (getDie s 0).flt = 0 ∧ (getCore s 0 0).retired = false ∧ (getCore s 0 0).fenced = false ∧
     ((getCore s 0 0).run.any (fun r => r.ended == none && !r.shared && !r.job.replay)) = true ∧ (getCore s 0 149).run = none) ∧
    ((getDie base 0).engFenced = [] ∧ (getDie base 0).pipeFenced = [] ∧ (getDie base 0).moverFenced = [] ∧ (sadd [] 3).length < 4 ∧ 4 ≤ (sadd [0, 1, 2] 3).length ∧
      getDma base 0 7 = none ∧ (portWidth (getDie (linked 9) 0) 0).isSome = true ∧ (getPort (linked 9) 0 0).st ≠ 12 ∧
      tget (getDie base 0).pbRows 5 0 = 0 ∧ 4 ≤ tget [(5, 4)] 5 0) := by
  decide +kernel

/-- FaultsScrubsAndRepairsTakeEffect: every kind of group of a bridge, a wire's 16th correction; rails; each outcome of a C3 fault, with a die that may lead, and the last one. -/
theorem witness_bridges_and_dies :
    (dieRuns base 0 = true ∧ bridgeTo base.variant 0 3 = some 7 ∧ (bridgeOf (getDie base 0) 3).failed = false ∧ tget (bridgeOf (getDie base 0) 3).spares 15 0 = 0 ∧
      tget (bridgeOf (getDie (updBridge base 0 3 (fun r => { r with spares := [(15, 1)], groups := 4 })) 0) 3).spares 15 0 = 1 ∧
      tget (bridgeOf (getDie (updBridge base 0 3 (fun r => { r with spares := [(15, 2)] })) 0) 3).spares 15 0 = 2 ∧
      16 ≤ ((List.replicate 15 0).filter (fun t => decide (base.now < t + 1000000000)) ++ [base.now]).length) ∧
    (railWatched base 4 = true ∧ railWatched base 15 = false ∧ base.power.porst = false ∧ selvage 0x30 = true ∧ selvage 0x36 = false ∧ (getDie base 0).flt < 1) ∧
    lastFault { base with lead := 1, itgUp := [0, 1] } 1 2 = none ∧ lastFault { base with itgUp := [0] } 0 2 = some 0x45 ∧ lastFault base 3 1 = none := by
  decide +kernel

/-- PowerStatesDutiesAndResetsFollowTheirCauses: a cap in force, a duty of 2 for 1 ms, a die too hot; a regulator that has acknowledged and one that has not; Standby asked for with
and without a ring that works, entered, and left; resets from service and from power-up. -/
theorem witness_power :
    (bit (pwrCap { base with cqs := [], dies := (updDie base 0 (fun x => { x with regs := tset x.regs rPWR_CAP 0xA00 })).dies }) 11 = true ∧ (getDie base 0).hotAt = none ∧ (getDie base 0).tdAt ≤ base.now ∧
      (let s := updDie { base with now := 10000 } 0 (fun x => { x with hotAt := some 0 })
       (getDie s 0).hotAt = some 0 ∧ 0 + 10000 ≤ s.now) ∧
      (let s : State := { base with now := 1000000, power := { base.power with capDuty := 2, capAt := some 0 } }
       s.power.capAt = some 0 ∧ 0 + 1000000 ≤ s.now ∧ regsUp s = true) ∧
      (getDie base 0).vAt ≤ base.now ∧ dieLives base 0 = true ∧ (getCore base 0 0).run = none ∧ (getCore base 0 0).jobs = [] ∧ (getDie base 0).engs = []) ∧
    (false || (getDie base 0).vAck) = (getDie base 0).vAck ∧ (true || (getDie base 0).vAck) = true ∧
    linkReaches base 0 = true ∧ mayStandby (wakeEnWrite ready true) = true ∧ mayStandby (wakeEnWrite base true) = false ∧
    (let s : State := { ready with phase := .standby, power := { ready.power with coreEn := true } }
     s.phase = .standby ∧ regsUp s = true ∧ s.power.coreEn = true ∧ bit (regWord (getDie (wakeEnWrite ready true) 0) rPWR_CTL) 2 = true) ∧
    ({ ready with power := { ready.power with entering := true } } : State).power.entering = true ∧
    ready.phase ≠ .off ∧ ready.phase ≠ .safe ∧ ({ ready with phase := .off } : State).phase = .off ∧ (tfind base.dies 0).isSome = true := by
  decide +kernel

/-- StartUpAndTestAccessTakeEffect: the keep with its preferred slot good, with only the other good, with none; stewards that hold the identity and none; the dies checked; the test
port in reset, in service, in the safe state and without power. -/
theorem witness_start_up :
    (pickSlot State.reset 0 0 true = some (0, false, 0) ∧ pickSlot State.reset 1 1 true = none ∧
      pickSlot { State.reset with keep := { State.reset.keep with b := { State.reset.keep.a with svn := 1 } } } 0x43 0 true = some (1, true, 0x43)) ∧
    (State.reset.phase = .booting ∧ State.reset.boot.verified = false ∧ (upto (ndies State.reset.variant)).filter (fun d => [0, 3].contains d && decide ((getDie State.reset d).flt < 2)) = [0, 3] ∧
      (upto (ndies State.reset.variant)).filter (fun d => ([] : List Nat).contains d && decide ((getDie State.reset d).flt < 2)) = []) ∧
    State.reset.keep.tags = arbTags 0 State.reset.keep.arb ∧
    (let s : State := { State.reset with boot := { State.reset.boot with verified := true, checked := upto 8 }, power := { State.reset.power with stkOff := false } }
     bootReady s = true ∧ bootReady State.reset = false ∧ (getDie s 0).flt = 0 ∧ bootDie State.reset 7 = true ∧ (getDie State.reset 7).stk.ready = false ∧ State.reset.power.stkOff = true ∧
      bootReady { s with variant := .tx2 } = true) ∧
    (resetHeld State.reset = false ∧ resetHeld { State.reset with phase := .held } = true ∧ resetHeld (inputsLow ready 1) = true ∧ resetHeld (inputsLow ready 2) = true) ∧
    ({ ready with phase := .safe } : State).phase = .safe := by
  decide +kernel

/-- BadAddressEndsTheJobWithoutEffect: a poisoned word of ground memory that each instruction names; a stream whose first element it is. -/
theorem witness_poison :
    let s := updDie (parted ready) 0 (fun x => { x with gnd := { x.gnd with pois := [0x800000] } })
    [8, 32].all (fun n => coreLoc (getDie s 0) 0 0x84000000 n == some (false, 0x4000000) && gndPoisoned (getDie s 0).gnd 0x4000000 n) = true ∧
      vTouch (streamOf (stream 0x84000000 3)) 1 = [] ++ (0x84000000, 1) :: [] ∧ coreLoc (getDie s 0) 0 0x84000000 1 = some (false, 0x4000000) ∧
      gndPoisoned (getDie s 0).gnd 0x4000000 1 = true ∧ streamErr (streamOf (stream 0x84000000 3)) = none ∧ bit (own 0x2A 0) 43 = false := by
  decide +kernel

/-- KnotTimeoutsConfigurationAndTimedRelease and JobTimeLimitAndLockstepOrphan: a core that waits with KTAKE at a semaphore, in its queue. AcceptanceTakesTheDescriptorAtTheHead:
two rings with work, of which the turn names the second. RingsStartDrainAndLock: a ring that drains. -/
theorem witness_waits_and_turns :
    (let w : KnotWait := { take := true, knot := 5, gen := 0, limited := true, reg := 3 }
     let s := knotted (at0 { core 0 0 0 with run := some { run with wait := some w } }) 5 2 { knotReset with takes := [(0, 0, 4)] }
     dieUp s 0 = true ∧ (getCore s 0 0).run = some { run with wait := some w } ∧ (getKnot s 0 5).takes = [(0, 0, 4)] ∧
       dTimeLimit { job with desc := jobDesc + BitVec.ofNat 512 (2 ^ 400) } ≠ 0) ∧
    (let r : SubRing := { sqReset with en := true, state := 1, tail := 1 }
     let s : State := { base with sqs := [(0, r), (3, r)], sqTurn := 1 }
     sqServes s 0 = false ∧ sqServes s 3 = true ∧ (3 + 256 - s.sqTurn) % 256 < (0 + 256 - s.sqTurn) % 256 ∧ takesNow { s with cqs := [] } 3 (dword 0 0) [] = false) ∧
    (let o : Op := { id := 4, sq := 0, idx := 0, cq := 0, tag := 7, noint := false, hoopWait := false, type := 1, desc := 0, pos := 0, total := 16, begun := false, stop := false }
     let s : State := { base with ops := [o], sqs := [(0, { sqReset with state := 2 })] }
     (getSq (settleRings s) 0).state = 2 ∧ (getSq (settleRings s) 0).en = false ∧ s.ops.any (fun o => o.cq == 0) = true ∧ evReset.en = false) := by
  decide +kernel

/-- PortModuleAndWaitDescriptorsTakeEffect: a port in LINK_UP with room and without, an ACTIVE one, one in neither state. AbortsStopWhatHasNotCommitted: the record of a context that
waits for its ring. -/
theorem witness_ports_to_admit :
    ((getPort (updPort (linked 9) 0 0 (fun p => { p with st := 5 })) 0 0).st = 5 ∧ (getPort (linked 9) 0 0).st = 6 ∧ (getPort base 0 0).st = 0 ∧ linkReaches (linked 9) 0 = true ∧
      (upto 3).all (fun k => decide (poolReserve .tx8 0 (getDie (linked 9) 0) k (some 0) ≤ poolFree (getDie (linked 9) 0) k)) = true ∧
      (let y := updDie (linked 9) 0 (fun x => { x with pools := [(0, { poolOf x 0 with fresh := poolSize 0, back := [] })] })
       (upto 3).all (fun k => decide (poolReserve .tx8 0 (getDie y 0) k (some 0) ≤ poolFree (getDie y 0) k)) = false)) ∧
    (let r : Rec := { op := none, cq := 0, tag := 7, status := .ok, sq := 0, source := 1, idx := 1, pos := 0, d0 := 0, d1 := 0, d2 := 0, noint := false, told := false }
     ({ base with recs := [r] } : State).recs.any (fun x => x.sq == 0 && x.idx == 1 && x.source == 1) = true) := by
  decide +kernel

/-- A PTP Sync of 44 bytes of version 2 and domain 0, one-step, from port identity 1. -/
def sync : List Byte := [0x00, 0x12, 0, 44] ++ List.replicate 25 0 ++ [1] ++ List.replicate 14 0

/-- TimeIsMeasuredSteppedAndRead: a message of the transport and domain selected, of another transport, of another domain, and one too short; the master that it comes from
followed, with its mean delay known. RegistersAndCompanionAccessesTakeEffect: a window of 1 µs. AnswersAndAcknowledgementsTakeEffect: an answer at the operation's address and at another. -/
theorem witness_ptp_and_windows :
    (let s := timed 2 1
     let p := regWord (getDie s 0) rTIME_PTP
     s.phase = .up ∧ dieLives s 0 = true ∧ ptpWell sync = true ∧ ptpWell (sync.take 43) = false ∧ ptpAt sync 4 1 = fld p 7 0 ∧ ptpAt sync 0 1 / 16 = 0 ∧ fld p 9 8 ≠ fld p 9 8 + 1 ∧
       ptpAt (0 :: sync) 4 1 ≠ fld p 7 0 ∧ ptpType sync = 0 ∧ (ptpAt sync 6 1).testBit 0 = false ∧ (ptpAt sync 6 1).testBit 1 = false ∧ timeSrc s = 1 ∧
       (let m : PtpMaster := { port := ptpPort sync, quality := 1, gm := 1, steps := 0, heard := [0, 0] }
        let q : Ptp := { masters := [m], parent := some (ptpPort sync), delay := some 5 }
        (ptpChoose q s.now).parent = some (ptpPort sync) ∧ (ptpChoose q s.now).delay = some 5)) ∧
    (let x := { dieReset .tx8 0 with regs := tset (dieReset .tx8 0).regs (rPMC_PWIN 3) 1 }
     windowNs x 3 = 1000 ∧ (0 / 1000 + 1) * 1000 < 2 ^ 64 ∧ x.clock < 2 ^ 96) ∧
    (let h := (pkt kREAD_DATA 0 (memForm 3 1 0 A) [1]).hdr
     hADDR h % 2 ^ 48 = { asked kREAD with reply := A }.reply ∧ hADDR h % 2 ^ 48 ≠ { asked kREAD with reply := A + 8 }.reply ∧ isOk (addrPlace (inbox []) (hADDR h) .wr) = true) := by
  decide +kernel

/-- TheKeepOutlivesEveryStep: reset holds its keep. -/
theorem witness_keep : KeepHolds State.reset.variant State.reset.keep.ident 0 State.reset :=
  ⟨rfl, rfl, Nat.zero_le _⟩

/-! Commands that are not well formed: for each check of each command one that it refuses, and one that it takes -/

/-- Two bytes for one address outside the package. -/
def twice : List Host.Cell := [(0, 1), (0, 2)]

/-- Refused: a die from 8 on. -/
theorem ill_formed_die_1 :
    ([.nop 8 0, .add 8 0, .sub 8 0, .mul 8 0, .and 8 0, .or 8 0, .xor 8 0, .shl 8 0, .shr 8 0, .sra 8 0, .slt 8 0, .addi 8 0, .li 8 0, .lih 8 0,
    .ld 8 0, .st 8 0, .gat 8 0, .sld 8 0, .sbase 8 0, .cvld 8 0, .fence 8 0, .prog 8 0, .beq 8 0, .bne 8 0, .blt 8 0, .bge 8 0, .bltu 8 0, .jal 8 0,
    .jr 8 0, .halt 8 0, .wld 8 0, .pass 8 0, .cvt 8 0, .acsv 8 0, .acrs 8 0, .vop 8 0, .vfma 8 0, .vred 8 0, .vkeep 8 0, .karv 8 0] : List Instr).all (fun i => !wellFormed i) = true := by
  decide +kernel

/-- Refused: a die from 8 on. -/
theorem ill_formed_die_2 :
    ([.kwait 8 0, .ksig 8 0, .ktake 8 0, .dma 8 0, .dmaw 8 0, .eng 8 0, .ctrd 8 0, .arrivalTakesEffect 8 0, .knotWaitTimeout 8 0, .arrayPortCycle 8 0,
    .accUpdate 8 0 false, .vectorInstructionDone 8 0, .jobStart 8 0, .jobCommit 8 0, .jobTimeout 8 0, .engineRequestAccept 8 0, .pool 8 [],
    .topkOpen 8, .topkAdd 8 [], .topkClose 8, .convert 8 2 [], .hash 8 [], .sum 8 [], .engineRequestCommit 8 0, .chainedJobWaitTimeout 8,
    .dmaRequestComplete 8 0 [], .handleCacheFetch 8 0 0, .packetHeaderArrival 8 0 0, .packetReceived 8 0 [] false, .bridgeHop 8 0,
    .packetTransmit 8 0, .residenceExpiry 8 0 0, .escWaitExpiry 8 0, .depthSample 8, .write 8, .read 8, .atomic 8, .engine 8, .readData 8,
    .atomicData 8] : List Instr).all (fun i => !wellFormed i) = true := by
  decide +kernel

/-- Refused: a die from 8 on. -/
theorem ill_formed_die_3 :
    ([.engDone 8, .replyWrite 8, .ack 8, .resend 8, .mgmtMsg 8, .ackDelayExpiry 8 0 0, .rtoExpiry 8 0 0 0, .finWaitExpiry 8 0 0, .fabSelfWrite 8 0,
    .data 8 0, .prick 8 0, .result 8, .window 8, .recontrib 8, .deliver 8, .collAck 8, .chunkResultConvert 8 0, .localContributionStart 8, .arrive 8,
    .release 8, .timedRelease 8 0, .knotCfgWrite 8 0 0, .syncTime 8, .delayReq 8, .delayRsp 8, .timeNowRead 8, .gateTakeover 8 0,
    .gateEntryChange 8 0, .hoopActivityCommit 2 8 [] [], .coreTestComplete 8 0 0 0 0, .codewordReceived 8 0 0 0 0, .credit 8 0 0 0, .advert 8 0 0 0,
    .state 8 0 0 false, .creditRepeat 8 0, .advertRepeat 8 0, .laneSignalDetect 8 0 false, .trainingFrame 8 0 0 false 0, .trainMsExpiry 8 0,
    .helloFrame 8 0 []] : List Instr).all (fun i => !wellFormed i) = true := by
  decide +kernel

/-- Refused: a die from 8 on. -/
theorem ill_formed_die_4 :
    ([.helloTimeout 8 0, .lossOfSignal 8 0, .faultOrderedSet 8 0, .presenceDebounced 8 0, .unplug 8 0, .cmisPoll 8 0 false none false 0 0,
    .moduleReadyTimeout 8 0, .buttonRelease 8 0 0, .buttonStuck 8 0, .sidebandTest 8 0 [], .removalComplete 8 0 false, .portCfgWrite 8 0 0,
    .laneCtlWrite 8 0 0, .swPolrateWrite 8 0 0 0, .swHistBaseWrite 8 0, .pmcLowWordRead 8 0, .pmcCounterWrite 8 0 0, .pmcPwinWrite 8 0 0,
    .bandwidthWindowEnd 8 0, .groundScrub 8 0 [] [] [], .stackPatrolScrub 8 0 [] [] [] [] [] [] [], .stackRefresh 8, .stackTemperature 8 0,
    .stackChannelCopyComplete 8 [], .stackZeroFillComplete 8, .keepPresetWrite 8 0, .unitFaultC2 8 0x20 0 0, .bridgeTransferFailure 8 0 0 0 0,
    .dieFaultC3 8 0x30, .stewardHeartbeatLost 8, .junctionTemperatureSample 8 0, .avsSetpointStep 8 false false, .coreIdleSleep 8 0, .engineIdleSleep 8 0,
    .bootChecksComplete 8 [], .prbsCheckerLock 8 0 0 0, .buttonStuckClear 8 0, .moduleAccessStart 8 0 false [] []] : List Instr).all (fun i => !wellFormed i) = true := by
  decide +kernel

/-- Refused: a core from 150 on. -/
theorem ill_formed_core_1 :
    ([.nop 0 150, .add 0 150, .sub 0 150, .mul 0 150, .and 0 150, .or 0 150, .xor 0 150, .shl 0 150, .shr 0 150, .sra 0 150, .slt 0 150, .addi 0 150,
    .li 0 150, .lih 0 150, .ld 0 150, .st 0 150, .gat 0 150, .sld 0 150, .sbase 0 150, .cvld 0 150, .fence 0 150, .prog 0 150, .beq 0 150, .bne 0 150,
    .blt 0 150, .bge 0 150, .bltu 0 150, .jal 0 150, .jr 0 150, .halt 0 150, .wld 0 150, .pass 0 150, .cvt 0 150, .acsv 0 150, .acrs 0 150,
    .vop 0 150, .vfma 0 150, .vred 0 150, .vkeep 0 150, .karv 0 150] : List Instr).all (fun i => !wellFormed i) = true := by
  decide +kernel

/-- Refused: a core from 150 on. -/
theorem ill_formed_core_2 :
    ([.kwait 0 150, .ksig 0 150, .ktake 0 150, .dma 0 150, .dmaw 0 150, .eng 0 150, .ctrd 0 150, .arrivalTakesEffect 0 150, .knotWaitTimeout 0 150,
    .arrayPortCycle 0 150, .accUpdate 0 150 false, .vectorInstructionDone 0 150, .jobStart 0 150, .jobCommit 0 150, .jobTimeout 0 150,
    .coreIdleSleep 0 150] : List Instr).all (fun i => !wellFormed i) = true := by
  decide +kernel

/-- Refused: a lane from 96 on. -/
theorem ill_formed_lane :
    ([.packetHeaderArrival 0 96 0, .packetReceived 0 96 [] false, .packetTransmit 0 96, .gateTakeover 0 96, .gateEntryChange 0 96,
    .codewordReceived 0 96 0 0 0, .credit 0 96 0 0, .advert 0 96 0 0, .state 0 96 0 false, .creditRepeat 0 96, .advertRepeat 0 96,
    .laneSignalDetect 0 96 false, .trainingFrame 0 96 0 false 0, .trainMsExpiry 0 96, .helloFrame 0 96 [], .helloTimeout 0 96, .lossOfSignal 0 96,
    .faultOrderedSet 0 96, .removalComplete 0 96 false, .laneCtlWrite 0 96 0, .swPolrateWrite 0 96 0 0, .pmcPwinWrite 0 96 0,
    .bandwidthWindowEnd 0 96, .keepPresetWrite 0 96, .prbsCheckerLock 0 96 0 0] : List Instr).all (fun i => !wellFormed i) = true := by
  decide +kernel

/-- Refused: an octet from 12 on. -/
theorem ill_formed_octet :
    ([.presenceDebounced 0 12, .unplug 0 12, .cmisPoll 0 12 false none false 0 0, .moduleReadyTimeout 0 12, .buttonRelease 0 12 0, .buttonStuck 0 12,
    .sidebandTest 0 12 [], .portCfgWrite 0 12 0, .buttonStuckClear 0 12, .moduleAccessStart 0 12 false [] []] : List Instr).all (fun i => !wellFormed i) = true := by
  decide +kernel

/-- Refused: a ring from 256 on. -/
theorem ill_formed_ring :
    ([.nopDescriptor 256 0 [], .coreJob 256 0 [], .engineOperation 256 0 [], .dmaDescriptor 256 0 [], .contextOpen 256 0 [], .contextClose 256 0 [],
    .tableUpdate 256 0 [], .tableUpdateActivate 256 0 [], .maintRecal 256 0 [], .maintStackScrub 256 0 [], .maintStackRepair 256 0 [],
    .maintCore 256 0 [], .maintGnd 256 0 [], .maintSelftest 256 0 [], .gateList 256 0 [], .fwStage 256 0 [], .fwSelect 256 0 [],
    .fwCommitSvn 256 0 [], .fwAttest 256 0 [], .fwReadCert 256 0 [], .portAdmit 256 0 [], .portWithdraw 256 0 [], .moduleRead 256 0 [],
    .moduleWrite 256 0 [], .abort 256 0 [], .sqTailWrite 256 0, .descriptorWaitTimeout 256 0 [], .completionRecordWrite 256,
    .progressEntryWrite 256 0 0, .ringEnable 0 256 0x80000000, .ringDisable 0 256 0] : List Instr).all (fun i => !wellFormed i) = true := by
  decide +kernel

/-- Refused: an address twice. -/
theorem ill_formed_ext :
    ([.nopDescriptor 0 0 twice, .coreJob 0 0 twice, .engineOperation 0 0 twice, .dmaDescriptor 0 0 twice, .contextOpen 0 0 twice,
    .contextClose 0 0 twice, .tableUpdate 0 0 twice, .tableUpdateActivate 0 0 twice, .maintRecal 0 0 twice, .maintStackScrub 0 0 twice,
    .maintStackRepair 0 0 twice, .maintCore 0 0 twice, .maintGnd 0 0 twice, .maintSelftest 0 0 twice, .gateList 0 0 twice, .fwStage 0 0 twice,
    .fwSelect 0 0 twice, .fwCommitSvn 0 0 twice, .fwAttest 0 0 twice, .fwReadCert 0 0 twice, .portAdmit 0 0 twice, .portWithdraw 0 0 twice,
    .moduleRead 0 0 twice, .moduleWrite 0 0 twice, .abort 0 0 twice, .descriptorWaitTimeout 0 0 twice, .pool 0 twice, .topkAdd 0 twice,
    .convert 0 2 twice, .hash 0 twice, .sum 0 twice, .dmaRequestComplete 0 0 twice, .hoopActivityCommit 2 0 [] twice,
    .moduleAccessStart 0 0 false [] twice] : List Instr).all (fun i => !wellFormed i) = true := by
  decide +kernel

/-- Refused: every other operand past its range. -/
theorem ill_formed_other_1 :
    ([.cqHeadWrite 257 0, .interruptCoalesceTimeout 257, .progressEntryWrite 0 0x100000000 0, .progressEntryWrite 0 0 0x100000000,
    .ringEnable 3 0 0x80000000, .ringEnable 0 0 0, .ringDisable 3 0 0, .ringDisable 0 0 0x80000000, .registerWrite 2 0,
    .companionMemoryAccess true 0 1 [], .companionMemoryAccess false 0 0 [0], .companionAtomic 0 8 0, .companionAtomic 0 0 0x10000000000000000,
    .convert 0 1 [], .handleCacheFetch 0 3 0, .handleCacheFetch 0 0 14, .packetReceived 0 0 (List.replicate 4133 0) false, .finWaitExpiry 0 0 65536,
    .data 0 3, .prick 0 3, .chunkResultConvert 0 3, .contextLimitExpiry 0 256, .coreTestComplete 0 1 2 0 0, .coreTestComplete 0 1 0 33 0,
    .credit 0 0 0 4096, .advert 0 0 0 4096, .state 0 0 16 false, .cmisPoll 0 0 false none false 8 0, .cmisPoll 0 0 false (some 16) false 0 0,
    .trainingFrame 0 0 0 false 0x20000, .trainingFrame 0 0 0 false 0x400, .prbsCheckerLock 0 0 2 16, .swPolrateWrite 0 0 7 0,
    .unitFaultC2 0 0x1f 0 0, .unitFaultC2 0 0x2b 0 0, .bridgeTransferFailure 0 0 16 0 0, .dieFaultC3 0 0x2f, .dieFaultC3 0 0x37,
    .packageFaultC4 0x3f, .packageFaultC4 0x47, .railOutOfRange 15, .bridgeTransferFailure 0 0 0 65 0, .ptpMessage 4 [], .bootComplete 17 0, .bootComplete 0 17, .registerWrite 0x10000000000000000 0] : List Instr).all (fun i => !wellFormed i) = true := by
  decide +kernel

/-- Refused: every other operand past its range. -/
theorem ill_formed_other_2 :
    ([.companionMemoryAccess false 0x10000000000000000 0 [], .companionAtomic 0x10000000000000000 0 0, .engineRequestAccept 0 5,
    .engineRequestCommit 0 5, .engineIdleSleep 0 5, .bridgeHop 0 4, .bridgeTransferFailure 0 4 0 0 0, .residenceExpiry 0 102 0, .ackDelayExpiry 0 0 32768,
    .rtoExpiry 0 0 32768 0, .finWaitExpiry 0 32768 0, .admissionTimeout 0x100000000, .contextLimitExpiry 0x100000000 0, .arriveRepeat 352,
    .timedRelease 0 352, .knotCfgWrite 0 352 0, .hoopActivityCommit 1 0 [] [], .credit 0 0 32 0, .advert 0 0 32 0] : List Instr).all (fun i => !wellFormed i) = true := by
  decide +kernel

/-- The same commands with their operands in range are taken. -/
theorem well_formed_1 :
    ([.nop 0 0, .add 0 0, .sub 0 0, .mul 0 0, .and 0 0, .or 0 0, .xor 0 0, .shl 0 0, .shr 0 0, .sra 0 0, .slt 0 0, .addi 0 0, .li 0 0, .lih 0 0,
    .ld 0 0, .st 0 0, .gat 0 0, .sld 0 0, .sbase 0 0, .cvld 0 0, .fence 0 0, .prog 0 0, .beq 0 0, .bne 0 0, .blt 0 0, .bge 0 0, .bltu 0 0, .jal 0 0,
    .jr 0 0, .halt 0 0, .wld 0 0, .pass 0 0, .cvt 0 0, .acsv 0 0, .acrs 0 0, .vop 0 0, .vfma 0 0, .vred 0 0, .vkeep 0 0, .karv 0 0] : List Instr).all wellFormed = true := by
  decide +kernel

/-- The same commands with their operands in range are taken. -/
theorem well_formed_2 :
    ([.kwait 0 0, .ksig 0 0, .ktake 0 0, .dma 0 0, .dmaw 0 0, .eng 0 0, .ctrd 0 0, .arrivalTakesEffect 0 0, .knotWaitTimeout 0 0, .arrayPortCycle 0 0,
    .accUpdate 0 0 false, .vectorInstructionDone 0 0, .jobStart 0 0, .jobCommit 0 0, .jobTimeout 0 0, .nopDescriptor 0 0 [], .coreJob 0 0 [],
    .engineOperation 0 0 [], .dmaDescriptor 0 0 [], .contextOpen 0 0 [], .contextClose 0 0 [], .tableUpdate 0 0 [], .tableUpdateActivate 0 0 [],
    .maintRecal 0 0 [], .maintStackScrub 0 0 [], .maintStackRepair 0 0 [], .maintCore 0 0 [], .maintGnd 0 0 [], .maintSelftest 0 0 [],
    .gateList 0 0 [], .fwStage 0 0 [], .fwSelect 0 0 [], .fwCommitSvn 0 0 [], .fwAttest 0 0 [], .fwReadCert 0 0 [], .portAdmit 0 0 [],
    .portWithdraw 0 0 [], .moduleRead 0 0 [], .moduleWrite 0 0 [], .abort 0 0 []] : List Instr).all wellFormed = true := by
  decide +kernel

/-- The same commands with their operands in range are taken. -/
theorem well_formed_3 :
    ([.sqTailWrite 0 0, .cqHeadWrite 0 0, .descriptorWaitTimeout 0 0 [], .completionRecordWrite 0, .interruptCoalesceTimeout 0,
    .progressEntryWrite 0 0 0, .ringEnable 0 0 0x80000000, .ringDisable 0 0 0, .registerWrite 0 0, .companionMemoryAccess false 0 0 [],
    .companionAtomic 0 0 0, .engineRequestAccept 0 0, .pool 0 [], .topkOpen 0, .topkAdd 0 [], .topkClose 0, .convert 0 2 [], .hash 0 [], .sum 0 [],
    .engineRequestCommit 0 0, .chainedJobWaitTimeout 0, .dmaRequestComplete 0 0 [], .handleCacheFetch 0 0 0, .packetHeaderArrival 0 0 0,
    .packetReceived 0 0 [] false, .bridgeHop 0 0, .packetTransmit 0 0, .residenceExpiry 0 0 0, .escWaitExpiry 0 0, .depthSample 0, .write 0, .read 0,
    .atomic 0, .engine 0, .readData 0, .atomicData 0, .engDone 0, .replyWrite 0, .ack 0, .resend 0] : List Instr).all wellFormed = true := by
  decide +kernel

/-- The same commands with their operands in range are taken. -/
theorem well_formed_4 :
    ([.mgmtMsg 0, .ackDelayExpiry 0 0 0, .rtoExpiry 0 0 0 0, .finWaitExpiry 0 0 0, .fabSelfWrite 0 0, .data 0 0, .prick 0 0, .result 0, .window 0,
    .recontrib 0, .deliver 0, .collAck 0, .chunkResultConvert 0 0, .admissionTimeout 0, .localContributionStart 0, .contextLimitExpiry 0 0, .arrive 0,
    .release 0, .arriveRepeat 0, .timedRelease 0 0, .knotCfgWrite 0 0 0, .syncTime 0, .delayReq 0, .delayRsp 0, .timeNowRead 0, .gateTakeover 0 0,
    .gateEntryChange 0 0, .hoopActivityCommit 2 0 [] [], .coreTestComplete 0 0 0 0 0, .codewordReceived 0 0 0 0 0, .credit 0 0 0 0, .advert 0 0 0 0,
    .state 0 0 0 false, .creditRepeat 0 0, .advertRepeat 0 0, .laneSignalDetect 0 0 false, .trainingFrame 0 0 0 false 0, .trainMsExpiry 0 0,
    .helloFrame 0 0 [], .helloTimeout 0 0] : List Instr).all wellFormed = true := by
  decide +kernel

/-- The same commands with their operands in range are taken. -/
theorem well_formed_5 :
    ([.ptpMessage 3 [], .lossOfSignal 0 0, .faultOrderedSet 0 0, .presenceDebounced 0 0, .unplug 0 0, .cmisPoll 0 0 false none false 0 0, .moduleReadyTimeout 0 0,
    .buttonRelease 0 0 0, .buttonStuck 0 0, .sidebandTest 0 0 [], .removalComplete 0 0 false, .portCfgWrite 0 0 0, .laneCtlWrite 0 0 0,
    .swPolrateWrite 0 0 0 0, .swHistBaseWrite 0 0, .pmcLowWordRead 0 0, .pmcCounterWrite 0 0 0, .pmcPwinWrite 0 0 0, .bandwidthWindowEnd 0 0,
    .groundScrub 0 0 [] [] [], .stackPatrolScrub 0 0 [] [] [] [] [] [] [], .stackRefresh 0, .stackTemperature 0 0, .stackChannelCopyComplete 0 [],
    .stackZeroFillComplete 0, .keepPresetWrite 0 0, .unitFaultC2 0 0x20 0 0, .bridgeTransferFailure 0 0 0 0 0, .dieFaultC3 0 0x30,
    .stewardHeartbeatLost 0, .packageFaultC4 0x40, .railOutOfRange 0, .junctionTemperatureSample 0 0, .avsSetpointStep 0 false false, .coreIdleSleep 0 0,
    .engineIdleSleep 0 0, .bootChecksComplete 0 [], .bootComplete 0 0, .prbsCheckerLock 0 0 0 0, .buttonStuckClear 0 0,
    .moduleAccessStart 0 0 false [] []] : List Instr).all wellFormed = true := by
  decide +kernel

/-! Values from the worked examples of the spec -/

/-- Table 4-5: the first and the third trace. The second table column departs from R82's own listing in its last round (log entry 30). -/
theorem test_generator_values : srGen 0 0 0 = 0xC7D76795 ∧ srGen 0x0000000200000001 5 1 = 0x1154AEB7 := by
  decide +kernel

/-- File 02, binary32 to E4M3 near the top: 300.0, 460.0, 464.0 and −Inf under OVFM 0, 464.0 and −Inf under OVFM 1. -/
theorem test_binary32_to_e4m3 :
    [0x43960000, 0x43E60000, 0x43E80000, 0xFF800000].map (fun c => convertVal .e4m3 0 false 0 (decodeCode .binary32 c)) =
      [(0x79, cINX), (0x7E, cINX), (0x7E, cSAT ||| cINX), (0xFE, cSAT)] ∧
    [0x43E80000, 0xFF800000].map (fun c => convertVal .e4m3 0 true 0 (decodeCode .binary32 c)) = [(0x7F, cNAN), (0x7F, cNAN)] := by
  decide +kernel

/-- File 02, one half-way value: bfloat16 0x3F90 to E5M2 under RNE, SR with two draws, and RZ. -/
theorem test_half_way_in_three_modes :
    (let v := decodeCode .bfloat16 0x3F90
     [convertVal .e5m2 0 false 0 v, convertVal .e5m2 1 false 0x9A3C11 v, convertVal .e5m2 1 false 0x4107E2 v, convertVal .e5m2 2 false 0 v]) =
      [(0x3C, cINX), (0x3D, cINX), (0x3C, cINX), (0x3C, cINX)] := by
  decide +kernel

/-- File 02, the bottom of FP4 and INT4. -/
theorem test_fp4_and_int4 :
    [Val.fin false 1 4, .fin true 26 100, .fin true 2 10, .fin false 5 2, .fin false 5 1].map (convertVal .fp4 0 false 0) =
      [(0x0, cINX), (0x9, cINX), (0x8, cINX), (0x4, cINX), (0x6, cINX)] ∧
    [Val.fin true 15 2, .fin true 17 2, .fin false 74 10].map (convertVal .int4 0 false 0) = [(0x8, cINX), (0x8, cSAT ||| cINX), (0x7, cINX)] := by
  decide +kernel

/-- File 02, digits of an E4M3, an INT8 and a bfloat16 element. -/
theorem test_digits :
    digitsOf .e4m3 0 false 0x79 = ([⟨false, 71, 9⟩], false) ∧ digitsOf .int8 0 false 0x9C = ([⟨true, 70, 7⟩, ⟨false, 66, 12⟩], false) ∧
      digitsOf .bfloat16 130 false 0x3F90 = ([⟨false, 123, 9⟩, ⟨false, 119, 0⟩], false) := by
  decide +kernel

/-- File 04, a dot product with an infinite and a NaN product: the word's 12 bytes. -/
theorem test_column_with_nan :
    (let w := columnSum [([(⟨false, 127, 8⟩, ⟨false, 63, 8⟩), (⟨false, 127, 12⟩, ⟨false, 64, 8⟩), (⟨false, 63, 8⟩, ⟨false, 64, 12⟩), (⟨true, 64, 8⟩, ⟨false, 63, 8⟩)], 0)]
     accSave (accUpdate accEmpty w 0).1) = [0, 0, 0, 0, 0, 0x80, 0, 0, 0x29, 0x0E, 0, 0] := by
  decide +kernel

/-- File 07, the home of one chunk: box order 6; die 4 of eight. -/
theorem test_home_of_chunk :
    (let c := { ctx with id := 0, blk := BitVec.ofNat 1024 (0x02108000 * 2 ^ 128), dies := upto 8 }
     boxNP c = 8 ∧ homePkg c 0 = 6 ∧ homeDie c 0 = 4) := by
  decide +kernel

/-- File 07, choosing a window: the pricking bytes of 3.0 and 12.0, of −2.5 and of 2^−50. -/
theorem test_pricking_bytes :
    prickByte [decodeCode .bfloat16 0x4040, decodeCode .bfloat16 0x4140] = 0x82 ∧ prickByte [decodeCode .bfloat16 0xC020] = 0x80 ∧
      prickByte [decodeCode .bfloat16 0x2680] = 0x4D := by
  decide +kernel

/-- Table 8-12: the fields of packet 102's header. -/
theorem test_packet_header :
    (let h : Hdr := BitVec.ofNat 256 (bytesNat [0x22, 0x80, 0xFF, 0x07, 0, 0, 0x22, 0x01, 0x10, 0x07, 0x50, 0x23, 0x01, 0x66, 0, 0, 0, 0x42, 0, 0x10, 0x27, 0, 0x05, 0,
       0, 0x20, 0x10, 0x18, 0x80, 0, 0x03, 0x82] 0 32)
     hDX h = 2 ∧ hDY h = 1 ∧ hDZ h = 0 ∧ hDPORT h = 0x3FF ∧ hDDIE h = 3 ∧ hVER h = 2 ∧ hCLASS h = 2 ∧ hKIND h = kWRITE ∧ hLEN h = 0x710 ∧ hFIN h = true ∧ hNTF h = true ∧
       hSRC h = 0x123 ∧ hSEQ h = 102 ∧ hTAG h = 0x42 ∧ hTOTAL h = 10000 ∧ hNKNOT h = 5 ∧ hADDR h = 0x8203008018102000) := by
  decide +kernel

/-- File 08, Table 8-13: the ACK that covers 100 and 102. -/
theorem test_ack_map : ackStart [100, 102] = 100 ∧ ackMap 100 [100, 102] = 5 := by
  decide +kernel

/-- File 09, a dimension-order route on a 4 × 4 × 4 torus: the first direction is X+, the minimal directions are X+, Y+, Y−, Z+ and Z−, and the first hop crosses the dateline. -/
theorem test_dimension_order :
    (let s := { ready with tabs := { ready.tabs with shape := some { x := 3, y := 1, z := 0, lx := 3, ly := 3, lz := 3, wrap := 7 } } }
     let h : Hdr := BitVec.ofNat 256 (0 + 3 * 2 ^ 5 + 2 * 2 ^ 10)
     dorDir s h = some 0 ∧ minDirs s h = [0, 2, 3, 4, 5] ∧ nextDL s h none 0 = true ∧ nextDL s h none 2 = false) := by
  decide +kernel

/-- File 14: one stack address before and after channel 20 is retired, and the capacity that is left. -/
theorem test_stack_channel :
    (let k := (dieReset .tx8 3).stk
     stkSite k 0x12345678 = (20, 0x91A278) ∧ stkSite { k with retired := some 20 } 0x12345678 = (0, 0x7C91A278) ∧ stkCap { k with retired := some 20 } = 0xF80000000) := by
  decide +kernel

/-- Table 11-2: the bits 00 11 10 01 precoded, and decoded. -/
theorem test_precoding :
    [grayOf false false, grayOf true true, grayOf true false, grayOf false true] = [0, 2, 3, 1] ∧
      [levelOf true 0 0, levelOf true 0 2, levelOf true 2 3, levelOf true 1 1] = [0, 2, 1, 0] ∧
      [levelGray true 0 0, levelGray true 0 2, levelGray true 2 1, levelGray true 1 0] = [0, 2, 3, 1] := by
  decide +kernel

/-- File 06: the first and third words of the digest of one unit of zero; in the others the example and the listing of R82 differ (log entry 30). -/
theorem test_digest :
    (let bs := toLe 16 (digestOf 0 0 [0]).toNat
     bs.take 4 = [0x95, 0x67, 0xD7, 0xC7] ∧ (bs.drop 8).take 4 = [0x5C, 0x5E, 0xF8, 0xC9]) := by
  decide +kernel

/-! Single steps -/

/-- What g3 of core 0 holds after a command. -/
def g3 (o : Host.Outcome State Fault Refusal) : Word64 := match o with | .next t => greg (getCore t 0 0) 3 | _ => 0

/-- R96: ADD wraps. Table 5-6: SLT and SRA take signed numbers; SHL uses six bits of g[B]. -/
theorem test_scalar :
    g3 (exec (.add 0 0) (at0 (core (word 0x01 0 0) (-1) 2))) = 1 ∧ g3 (exec (.slt 0 0) (at0 (core (word 0x0A 0 0) (-1) 0))) = 1 ∧
      g3 (exec (.sra 0 0) (at0 (core (word 0x09 0 0) (-8) 1))) = -4 ∧ g3 (exec (.shl 0 0) (at0 (core (word 0x07 0 0) 1 65))) = 2 := by
  decide +kernel

/-- R113: LD of one byte sign-extends under FN[2], and of 8 bytes reads them little-endian. -/
theorem test_load :
    (let mem (k : Core) : Core := { k with scratch := memWrite [] 0x100 [0x80, 1, 2, 3, 4, 5, 6, 7] }
     g3 (exec (.ld 0 0) (at0 (mem (core (own 0x10 (3 * 2 ^ 53 + 2 ^ 48 + 4 * 2 ^ 32)) 0x100 0)))) = -128 ∧ g3 (exec (.ld 0 0) (at0 (mem (core (own 0x10 (3 * 2 ^ 53 + 2 ^ 48 + 3 * 2 ^ 32)) 0x100 0)))) = 0x0706050403020180) := by
  decide +kernel

/-- R391: KSIG adds to a semaphore; R389: the arrival that completes a barrier's COUNT of 1 releases its generation. -/
theorem test_knots :
    (let s := setKnot (at0 { core 0 0 0 with run := some { run with defer := [{ knot := 7, sig := true, reg := 0, amount := 3, needArr := 0, needVec := 0, needDma := [] }] } }) 0 7 { knotReset with cfg := 6, count := 4 }
     (match exec (.arrivalTakesEffect 0 0) s with | .next t => (getKnot t 0 7).count | _ => 0) = 7) := by
  decide +kernel

/-- A step on an empty queue is 20 ns of the always-on clock; a command in front is executed and leaves the queue. -/
theorem test_step :
    (match step ready with | .next t => t.now | _ => 0) = 20 ∧
    (match step { ready with pending := [.throtNChange true, .powerOff] } with | .next t => (t.power.throt, t.pending) | _ => (false, [])) = (true, [.powerOff]) := by
  decide +kernel

/-- R468, R472, R466: from reset the boot ROMs' finding, each die's checks and zero fills, and the end of start-up put the package in service. -/
theorem test_start_up :
    (match exec (.bootComplete 16 16) { State.reset with boot := { State.reset.boot with verified := true, checked := upto 8 }, power := { State.reset.power with stkOff := false } } with
     | .next t => (t.phase, t.itgUp) | _ => (.off, [])) = (.up, [0, 1]) := by
  decide +kernel

end Sys2Proof.Tests
end

section
/-! PROOFS. The companion's register writes and accesses, the Itgil links, the counters and the bandwidth windows. -/

namespace Sys2Proof.Proofs

open Sys2Proof.Machine Sys2Proof.Laws

/-! Register writes (R3, R357, R466) -/

/-- R357: a word outside the register and doorbell windows, or one that is not aligned, is not written. -/
theorem winWrite_outside {a : Nat} (h : a < 0x9000000000 ∨ a % 4 ≠ 0) (v : Word32) (s : State) : winWrite a v s = s := by
  unfold winWrite
  rw [if_pos (by omega)]

/-- Table 12-1: the window of die d, of which off is an offset. -/
theorem winWrite_die {s : State} {d off : Nat} (hd : d < 8) (ho : off < 0x10000000) (ha : off % 4 = 0) (hl : linkReaches s d = true) (v : Word32) :
    winWrite (0x9000000000 + d * 0x10000000 + off) v s = dieRegWrite d off v s := by
  have die : (0x9000000000 + d * 0x10000000 + off - 0x9000000000) / 0x10000000 = d := by omega
  have offset : (0x9000000000 + d * 0x10000000 + off) % 0x10000000 = off := by omega
  unfold winWrite
  rw [if_neg (by omega), if_neg (by omega), if_neg (by omega)]
  simp only [die, offset, hl, if_true]

theorem exec_registerWrite (a : Nat) (v : Word32) (s : State) : exec (.registerWrite a v) s = .next (if regsUp s then winWrite a v s else s) := rfl

theorem exec_registerWrite_ignored {s : State} {a : Nat} (h : regsUp s = false ∨ a < 0x9000000000 ∨ a % 4 ≠ 0) (v : Word32) :
    exec (.registerWrite a v) s = .next s := by
  rw [exec_registerWrite]
  rcases h with h | h
  · rw [h, if_neg Bool.false_ne_true]
  · rw [winWrite_outside h, ite_self]

theorem exec_registerWrite_die {s : State} {d off : Nat} (hu : regsUp s = true) (hl : linkReaches s d = true) (ho : off < 0x10000000) (ha : off % 4 = 0) (hd : d < 8)
    (v : Word32) : exec (.registerWrite (0x9000000000 + d * 0x10000000 + off) v) s = .next (dieRegWrite d off v s) := by
  rw [exec_registerWrite, if_pos hu, winWrite_die hd ho ha hl]

/-- R3: below the BPM_ block a register with only RWL fields takes the value as any word that locks does. -/
theorem dieRegWrite_plain {s : State} {d off n : Nat} {v : Word32} (hu : regsUp s = true) (hl : linkReaches s d = true) (hv : plainValue s d off v = some n)
    (ho : off < oBPM) : dieRegWrite d off v s = writeLocked s d off (BitVec.ofNat 32 n) := by
  unfold dieRegWrite
  simp only [hu, hl, hv, Bool.not_true, Bool.or_self, Bool.false_eq_true, if_false]
  rw [if_neg (by omega)]

theorem writeLocked_open {s : State} (h : s.locked = false) (d off : Nat) (v : Word32) :
    writeLocked s d off v = updDie s d (fun x => { x with regs := tset x.regs off v }) := by
  unfold writeLocked; rw [h, if_neg Bool.false_ne_true]

theorem writeLocked_shut {s : State} (h : s.locked = true) (d off : Nat) (v : Word32) :
    writeLocked s d off v = postEvent s 0x01 d (regAddr d off % 2 ^ 32) (regAddr d off / 2 ^ 32) 0 0 := if_pos h

/-! The companion's accesses (R23, R353, R357) -/

theorem regsUp_of_up {s : State} (h : s.phase = .up) : regsUp s = true := by unfold regsUp; rw [h]; rfl

/-- R353: an aligned access of a size that there is, outside the windows, is an access to memory. -/
theorem companionAccess_memory {s : State} {a n : Nat} {write : Bool} {data : List Byte} (hs : s.phase = .up) (hw : inWindows a = false)
    (hn : n ∈ [1, 2, 4, 8, 16, 32, 64]) (ha : a % n = 0) (hd : write = true → data.length = n) :
    companionAccess write a n data s = memAccess write a n data s := by
  have whole : (write && data.length != n) = false := by
    cases write with
    | false => rfl
    | true => rw [hd rfl, bne_self_eq_false, Bool.and_false]
  have size : [1, 2, 4, 8, 16, 32, 64].contains n = true := contains_true hn
  unfold companionAccess
  rw [hs, hw, size, whole, if_neg (by decide), if_neg (by decide), if_neg (by simp [ha]), if_neg (by decide)]

/-- R357: in the windows the words at multiples of 4 are read. -/
theorem companionAccess_windows {s : State} {a : Nat} (hs : s.phase = .up) (hw : inWindows a = true) (ha : a % 4 = 0) (data : List Byte) :
    companionAccess false a 4 data s = emit (winRead a s).2 (.data (toLe 4 (winRead a s).1)) := by
  unfold companionAccess winAccess
  rw [hs, hw, regsUp_of_up hs, if_neg (by decide), if_pos rfl, if_neg (by omega)]
  rfl

section
variable {s : State} {a n : Nat} {p : Place}

theorem memAccess_read (hp : addrPlace s a .rd = .ok p) (hd : placeDie p ≠ none) {bs : List Byte} {t : State}
    (hr : placeRead s (linkDie s) none p n = .ok (bs, t)) (data : List Byte) : memAccess false a n data s = emit t (.data bs) := by
  cases p with
  | remote => exact absurd rfl hd
  | board => exact absurd rfl hd
  | _ => simp only [memAccess, Bool.false_eq_true, if_false, hp, hr]

theorem memAccess_write (hp : addrPlace s a .wr = .ok p) (hd : placeDie p ≠ none) {data : List Byte} (hn : data.length = n)
    (he : placeErr s (linkDie s) none p n = none) : memAccess true a n data s = placePut s p data := by
  cases p with
  | remote => exact absurd rfl hd
  | board => exact absurd rfl hd
  | _ => simp only [memAccess, if_true, hp, he, Option.isNone_none, List.take_of_length_le (Nat.le_of_eq hn)]

theorem memAccess_read_refused {e : Status} (hp : addrPlace s a .rd = .error e) (data : List Byte) : memAccess false a n data s = emit s (.data []) := by
  simp only [memAccess, Bool.false_eq_true, if_false, hp]

theorem memAccess_write_refused {e : Status} (hp : addrPlace s a .wr = .error e) (data : List Byte) : memAccess true a n data s = s := by
  simp only [memAccess, if_true, hp]

theorem exec_companionMemoryAccess (write : Bool) (data : List Byte) :
    exec (.companionMemoryAccess write a n data) s = .next (companionAccess write a n data s) := rfl

/-- R353: what a companion's read or write of n bytes of memory does where the package answers. -/
theorem exec_companionMemoryAccess_memory {write : Bool} {data : List Byte} (hs : s.phase = .up) (hw : inWindows a = false)
    (hn : n ∈ [1, 2, 4, 8, 16, 32, 64]) (ha : a % n = 0) (hd : write = true → data.length = n) :
    exec (.companionMemoryAccess write a n data) s = .next (memAccess write a n data s) := by
  rw [exec_companionMemoryAccess, companionAccess_memory hs hw hn ha hd]

/-- R145, R353: an atomic that the place takes answers with the old value. -/
theorem exec_companionAtomic_taken {aop y old : Nat} {t : State} (hs : s.phase = .up) (ho : aop < 8) (hp : addrPlace s a .atom = .ok p) (hd : placeDie p ≠ none)
    (ht : placeAtomic s (linkDie s) p aop y = .ok (old, t)) :
    exec (.companionAtomic a aop y) s = .next (emit t (.data (toLe ((atomicSize aop).getD 8) old))) := by
  have owned : (placeDie p).isNone = false := beq_none _ hd
  have serves : (s.phase != .up || decide (8 ≤ aop)) = false := by rw [hs, decide_eq_false (by omega)]; rfl
  show Host.Outcome.next (companionAtomic a aop y s) = _
  simp only [companionAtomic, serves, hp, owned, ht, Bool.false_eq_true, if_false]

end

/-! The Itgil links (R355) -/

theorem itg_answers {s : State} (hs : s.phase = .up) : (s.phase != .up && s.phase != .standby) = false := by rw [hs]; rfl

theorem exec_itgSwitch_unlocked {s : State} (hs : s.phase = .up) (hl : s.locked = false) (hc : itgCan s = true) (v : Word32) :
    exec (.itgSwitch v) s = .next (if bit v 0 then failOver { s with itgAuto := bit v 1 } else { s with itgAuto := bit v 1 }) := by
  have can : itgCan { s with itgAuto := bit v 1 } = true := hc
  have opened : (!s.locked) = true := by rw [hl]; rfl
  show Host.Outcome.next (itgSwitch v s) = _
  simp only [itgSwitch, itg_answers hs, opened, can, Bool.and_true, Bool.false_eq_true, if_false, if_true]

/-- R355: SWITCH moves to the other link, which counts as a failover; AUTO is written whether it moves or not. -/
theorem itgSwitch_moves {s : State} (hs : s.phase = .up) (hl : s.locked = false) (hc : itgCan s = true) (v : Word32) :
    ∃ t, exec (.itgSwitch v) s = .next t ∧ t.itgAuto = bit v 1 ∧
      t.itgActive = (if bit v 0 = true then 1 - s.itgActive else s.itgActive) ∧
      t.itgFail = (if bit v 0 = true then satInc 0xFF s.itgFail else s.itgFail) := by
  refine ⟨_, exec_itgSwitch_unlocked hs hl hc v, ?_⟩
  obtain ⟨active, fail, auto⟩ := failOver_itg { s with itgAuto := bit v 1 }
  cases bit v 0 with
  | false => exact ⟨rfl, rfl, rfl⟩
  | true => exact ⟨auto, active, fail⟩

theorem exec_itgLinkDown_up {s : State} (hs : s.phase = .up) :
    exec .itgLinkDown s = .next (loseLink { s with itgUp := sdel s.itgUp s.itgActive, itgWidth := tset s.itgWidth s.itgActive 0 }) := by
  show Host.Outcome.next (itgDown s) = _
  simp only [itgDown, itg_answers hs, Bool.false_eq_true, if_false]

theorem loseLink_eq (u : State) :
    loseLink u = if itgCan u = false then packageFault u 0x45 else if u.itgAuto = true then failOver u else { u with itgLost := true } := by
  simp only [loseLink, Bool.not_eq_true']

/-! Counters of ports (R486, R495) -/

theorem exec_pmcLowWordRead_booting {s : State} (h : s.phase = .booting) (d off : Nat) :
    exec (.pmcLowWordRead d off) s = .next (emit s (.data (toLe 4 0))) := by
  show Host.Outcome.next (pmcLowRead d off s) = _
  rw [pmcLowRead, h, if_pos (beq_self_eq_true _)]

theorem regWord_tset_same (x : Die) (off : Nat) (v : Word32) : regWord { x with regs := tset x.regs off v } off = v := tget_tset_same ..

theorem regWord_updPort (s : State) (d l off : Nat) (f : Port → Port) : regWord (getDie (updPort s d l f) d) off = regWord (getDie s d) off := by
  simp only [updPort, setPort, getDie_updDie_same, regWord]

/-- The state with a write of PMC_PWIN's field kept where the value is one of R495's. -/
def pwinField (s : State) (d l w : Nat) : State :=
  if 1 ≤ w ∧ w ≤ 1000000 then updDie s d (fun x => { x with regs := tset x.regs (rPMC_PWIN l) (BitVec.ofNat 32 w) }) else s

theorem getPort_pwinField (s : State) (d l w : Nat) : getPort (pwinField s d l w) d l = getPort s d l := by
  unfold pwinField
  split
  · simp only [getPort, portOf, getDie_updDie_same]
  · rfl

theorem regWord_pwinField (s : State) (d l w : Nat) : regWord (getDie (pwinField s d l w) d) (rPMC_PWIN l) =
    if 1 ≤ w ∧ w ≤ 1000000 then BitVec.ofNat 32 w else regWord (getDie s d) (rPMC_PWIN l) := by
  unfold pwinField
  split
  · rw [getDie_updDie_same, regWord_tset_same]
  · rfl

theorem exec_pmcPwinWrite_eq {s : State} {d l : Nat} (hu : regsUp s = true) (hl : linkReaches s d = true) (h : l < 96) (v : Word32) :
    exec (.pmcPwinWrite d l v) s =
      .next (updPort (pwinField s d l (fld v 19 0)) d l (fun p => { p with pmc := { p.pmc with tx := 0, rx := 0, peak := 0 } })) := by
  have taken : (!regsUp s || !linkReaches s d || decide (96 ≤ l)) = false := by rw [hu, hl, decide_eq_false (by omega)]; rfl
  show Host.Outcome.next (pwinWrite d l v s) = _
  simp only [pwinWrite, taken, Bool.false_eq_true, if_false, pwinField]

/-- R495, Table 18-4: PMC_PWIN clears TX, RX and PEAK, and keeps its field outside 1 to 1,000,000. -/
theorem pwinWrite_clears {s : State} {d l : Nat} (hu : regsUp s = true) (hl : linkReaches s d = true) (h : l < 96) (v : Word32) :
    ∃ t, exec (.pmcPwinWrite d l v) s = .next t ∧
      (getPort t d l).pmc = { (getPort s d l).pmc with tx := 0, rx := 0, peak := 0 } ∧
      (1 ≤ fld v 19 0 → fld v 19 0 ≤ 1000000 → regWord (getDie t d) (rPMC_PWIN l) = BitVec.ofNat 32 (fld v 19 0)) ∧
      (1000000 < fld v 19 0 ∨ fld v 19 0 = 0 → regWord (getDie t d) (rPMC_PWIN l) = regWord (getDie s d) (rPMC_PWIN l)) := by
  refine ⟨_, exec_pmcPwinWrite_eq hu hl h v, ?_, fun low high => ?_, fun out => ?_⟩
  · rw [getPort_updPort_same, getPort_pwinField]
  · rw [regWord_updPort, regWord_pwinField, if_pos ⟨low, high⟩]
  · rw [regWord_updPort, regWord_pwinField, if_neg (by omega)]

/-! Bandwidth windows end (R495) -/

/-- The part of a port's counters that a bandwidth window is about and no event changes. -/
def SameWindow (p q : PortPmc) : Prop := q.win = p.win ∧ q.peak = p.peak

theorem ppmcBump_window (p : PortPmc) (n k : Nat) : SameWindow p (ppmcBump p n k).1 := by
  unfold ppmcBump
  dsimp only
  split <;> exact ⟨rfl, rfl⟩

theorem ppmcEvent_window (p : PortPmc) (ev k : Nat) (cls : Option Nat) : SameWindow p (ppmcEvent p ev k cls) := by
  have bump {q : PortPmc} (h : SameWindow p q) (b : Bool) (n k : Nat) : SameWindow p (if b then ppmcBump q n k else (q, false)).1 := by
    obtain ⟨win, peak⟩ := h
    obtain ⟨bumpWin, bumpPeak⟩ := ppmcBump_window q n k
    cases b with
    | false => exact ⟨win, peak⟩
    | true => exact ⟨bumpWin.trans win, bumpPeak.trans peak⟩
  unfold ppmcEvent foldUpto
  refine List.foldlRecOn (motive := fun a : PortPmc × Bool => SameWindow p a.1) _ _ ⟨rfl, rfl⟩ (fun a counted n _ => ?_)
  dsimp only
  by_cases chained : (n != 0 && bit (ppmcSel a.1 n) 15) = true
  · rw [if_pos chained]; exact bump counted ..
  · rw [if_neg chained]; exact bump counted ..

/-- What the end of one window leaves in the counters q of a port that had p. -/
def WindowEnded (p q : PortPmc) : Prop := q.tx = tget p.win 0 0 ∧ q.rx = tget p.win 1 0 ∧ q.peak = max (tget p.win 0 0) p.peak ∧ q.win = []

theorem endWindows_one {p q : PortPmc} (h : SameWindow p q) : WindowEnded p (endWindows 1 q) := by
  obtain ⟨win, peak⟩ := h
  rw [WindowEnded, ← win, ← peak]
  exact ⟨rfl, rfl, rfl, rfl⟩

theorem passPort_window {s : State} {d t0 t1 l : Nat} (h : t1 / windowNs (getDie s d) l - t0 / windowNs (getDie s d) l = 1) (n : Nat) (p : Port) :
    WindowEnded p.pmc (passPort s d n t0 t1 l p).pmc := by
  simp only [passPort, h]
  split
  · exact endWindows_one (ppmcEvent_window ..)
  · exact endWindows_one ⟨rfl, rfl⟩

/-- A port that nothing has written yet has no window to latch. -/
theorem passDie_window {s : State} {d clk l : Nat} {x : Die} (h : (clk >>> 32) / windowNs (getDie s d) l - (x.clock >>> 32) / windowNs (getDie s d) l = 1) (n : Nat) :
    WindowEnded (portOf x l).pmc (portOf (passDie s d n clk x) l).pmc := by
  have ports : tfind (passDie s d n clk x).ports l = (tfind x.ports l).map (passPort s d n (x.clock >>> 32) (clk >>> 32) l) :=
    tfind_map x.ports (fun (i, p) => (i, passPort s d n (x.clock >>> 32) (clk >>> 32) i p)) (fun _ => rfl) l
  simp only [portOf, tget, ports]
  cases tfind x.ports l with
  | none => exact ⟨rfl, rfl, rfl, rfl⟩
  | some p => exact passPort_window h n p

theorem getDie_foldUpto_setDie (n : Nat) (s : State) (g : Nat → Die) (d : Nat) :
    getDie (foldUpto n s (fun t e => setDie t e (g e))) d = if d < n then g d else getDie s d := by
  induction n with
  | zero => simp [foldUpto, upto]
  | succ n ih =>
    rw [foldUpto_succ, getDie_setDie]
    by_cases h : d = n
    · rw [if_pos h, if_pos (by omega), h]
    · rw [if_neg h, ih]
      congr 1
      exact propext ⟨fun _ => by omega, fun _ => by omega⟩

/-- The time counter of a die after the 2^-32 ns that are left until it reads t ns. -/
theorem clock_reaches {c t : Nat} (h : c >>> 32 < t) (ht : t < 2 ^ 64) : (c + (t * 2 ^ 32 - c)) % 2 ^ 96 = t * 2 ^ 32 := by
  rw [Nat.shiftRight_eq_div_pow] at h
  omega

theorem mul_pow_shiftRight (t : Nat) : (t * 2 ^ 32) >>> 32 = t := by
  rw [Nat.shiftRight_eq_div_pow, Nat.mul_div_cancel _ (Nat.two_pow_pos 32)]

theorem getDie_now (s : State) (n d : Nat) : getDie { s with now := n } d = getDie s d := rfl

/-- Log entry 20: the die whose counter a command reports to have reached t ns has it there. -/
theorem getDie_reachTime {s : State} {d t : Nat} (hd : d < ndies s.variant) (h : timeNs s d < t) (ht : t < 2 ^ 64) :
    ∃ n, getDie (reachTime s d t) d = passDie s d n (t * 2 ^ 32) (getDie s d) := by
  rw [timeNs] at h
  unfold reachTime
  extract_lets k pass
  rw [getDie_now, getDie_foldUpto_setDie, if_pos hd, ← clock_reaches h ht]
  exact ⟨k / (20 * 2 ^ 32), rfl⟩

theorem timeNs_reachTime {s : State} {d t : Nat} (hd : d < ndies s.variant) (h : timeNs s d < t) (ht : t < 2 ^ 64) : timeNs (reachTime s d t) d = t := by
  obtain ⟨n, hn⟩ := getDie_reachTime hd h ht
  rw [timeNs, hn]
  exact mul_pow_shiftRight t

theorem getPort_reachTime_window {s : State} {d t l : Nat} (hd : d < ndies s.variant) (h : timeNs s d < t) (ht : t < 2 ^ 64)
    (hw : t / windowNs (getDie s d) l - timeNs s d / windowNs (getDie s d) l = 1) :
    WindowEnded (getPort s d l).pmc (getPort (reachTime s d t) d l).pmc := by
  obtain ⟨n, hn⟩ := getDie_reachTime hd h ht
  rw [getPort, getPort, hn]
  exact passDie_window (by rwa [mul_pow_shiftRight]) n

theorem dieRuns_lt {s : State} {d : Nat} (h : dieRuns s d = true) : d < ndies s.variant := by
  simp only [dieRuns, dieLives, Bool.and_eq_true, decide_eq_true_eq] at h
  obtain ⟨_, there, _⟩ := h
  exact there

theorem exec_bandwidthWindowEnd_eq {s : State} {d l : Nat} (hr : dieRuns s d = true) (hl : l < 96) (hw : 0 < windowNs (getDie s d) l) :
    exec (.bandwidthWindowEnd d l) s = .next (reachTime s d ((timeNs s d / windowNs (getDie s d) l + 1) * windowNs (getDie s d) l)) := by
  have ends : (!dieRuns s d || decide (96 ≤ l) || windowNs (getDie s d) l == 0) = false := by
    rw [hr, decide_eq_false (by omega), beq_false_of_ne (by omega)]; rfl
  show Host.Outcome.next (windowEnd d l s) = _
  simp only [windowEnd, ends, Bool.false_eq_true, if_false]

/-- R495: the time counter comes to the next multiple of the window, where exactly one window ends. -/
theorem bandwidthWindowEnd_latches {s : State} {d l w : Nat} (hr : dieRuns s d = true) (hl : l < 96) (hw : windowNs (getDie s d) l = w) (h0 : 0 < w)
    (ht : (timeNs s d / w + 1) * w < 2 ^ 64) :
    ∃ t, exec (.bandwidthWindowEnd d l) s = .next t ∧ timeNs t d = (timeNs s d / w + 1) * w ∧ WindowEnded (getPort s d l).pmc (getPort t d l).pmc := by
  subst hw
  have later := Nat.lt_mul_of_div_lt (Nat.lt_succ_self (timeNs s d / windowNs (getDie s d) l)) h0
  have hd := dieRuns_lt hr
  refine ⟨_, exec_bandwidthWindowEnd_eq hr hl h0, timeNs_reachTime hd later ht, getPort_reachTime_window hd later ht ?_⟩
  rw [Nat.mul_div_cancel _ h0, Nat.add_sub_cancel_left]

/-! The obligation -/

/-- Settles O52: each clause is the lemma above about its command. -/
theorem registersAndCompanionAccessesTakeEffect : Obligations.RegistersAndCompanionAccessesTakeEffect := by
  intro s d
  refine ⟨fun a v => ⟨fun h => exec_registerWrite_ignored h v, ?_⟩, ?_, ?_, ?_, ?_, fun hs => ⟨?_, ?_, ?_⟩, ?_, ?_, ?_, ?_⟩
  · rintro off hu hl ho rfl ha hd
    exact exec_registerWrite_die hu hl ho ha hd v
  · intro off v n hu hl hv ho
    rw [dieRegWrite_plain hu hl hv ho]
    exact ⟨fun h => writeLocked_open h .., fun h => writeLocked_shut h ..⟩
  · intro a n data hs hw hn ha p
    have read := exec_companionMemoryAccess_memory (s := s) (write := false) (data := data) hs hw hn ha (fun h => absurd h Bool.false_ne_true)
    have write (hd : data.length = n) := exec_companionMemoryAccess_memory (s := s) (write := true) hs hw hn ha (fun _ => hd)
    refine ⟨fun hp hd bs t hr => ?_, fun hp hd hl he => ?_, fun e hp => ?_, fun e hp hl => ?_⟩
    · rw [read, memAccess_read hp hd hr]
    · rw [write hl, memAccess_write hp hd hl he]
    · rw [read, memAccess_read_refused hp]
    · rw [write hl, memAccess_write_refused hp]
  · intro a data hs hw ha
    rw [exec_companionMemoryAccess, companionAccess_windows hs hw ha]
  · exact fun a aop y p old t hs ho hp hd ht => exec_companionAtomic_taken hs ho hp hd ht
  · exact fun v hl hc => itgSwitch_moves hs hl hc v
  · exact (exec_itgLinkDown_up hs).trans (congrArg _ (loseLink_eq _))
  · exact ⟨_, rfl, rfl⟩
  · exact fun hu hl c n hc hn => pmc_core s d c n hu hl hc hn
  · exact fun l v hu hl h => pwinWrite_clears hu hl h v
  · exact fun h off => exec_pmcLowWordRead_booting h d off
  · intro l hr hl w t1 h0 ht _
    exact bandwidthWindowEnd_latches hr hl rfl h0 ht

end Sys2Proof.Proofs
end

section
/-! PROOFS. Engine requests: acceptance by the executing die, the way over a bridge, top-k sets. -/

namespace Sys2Proof.Proofs

open Sys2Proof.Machine Sys2Proof.Laws

/-! What a request that takes a buffer and a bridge leaves alone -/

/-- The states that differ in die d alone. -/
def OnlyDie (s t : State) (d : Nat) : Prop := ∃ x, t = setDie s d x

theorem setDie_setDie (s : State) (d : Nat) (x y : Die) : setDie (setDie s d x) d y = setDie s d y := by
  simp only [setDie, tset_tset]

theorem onlyDie_trans {s t u : State} {d : Nat} (h1 : OnlyDie s t d) (h2 : OnlyDie t u d) : OnlyDie s u d := by
  obtain ⟨x, rfl⟩ := h1; obtain ⟨y, rfl⟩ := h2
  exact ⟨y, setDie_setDie ..⟩

theorem OnlyDie.engWait_eq {s t : State} {d : Nat} (h : OnlyDie s t d) : t.engWait = s.engWait := by obtain ⟨x, rfl⟩ := h; rfl

theorem OnlyDie.variant_eq {s t : State} {d : Nat} (h : OnlyDie s t d) : t.variant = s.variant := by obtain ⟨x, rfl⟩ := h; rfl

theorem OnlyDie.diePath_eq {s t : State} {d : Nat} (h : OnlyDie s t d) (a b : Nat) : diePath t a b = diePath s a b := by obtain ⟨x, rfl⟩ := h; rfl

theorem OnlyDie.getDie_ne {s t : State} {d e : Nat} (h : OnlyDie s t d) (he : e ≠ d) : getDie t e = getDie s e := by
  obtain ⟨x, rfl⟩ := h; rw [getDie_setDie, if_neg he]

theorem allocBuf_regs {x y : Die} {p g h : Nat} {e : BufEnt} (ha : allocBuf x p g e = some (h, y)) : y.regs = x.regs := by
  simp only [allocBuf] at ha
  split at ha
  · cases ha
  · simp only [Option.some.injEq, Prod.mk.injEq] at ha
    obtain ⟨rfl, rfl⟩ := ha
    split <;> rfl

theorem allocReq_regs {v : Variant} {d n len refs h : Nat} {x y : Die} (ha : allocReq v d x n len refs = some (h, y)) : y.regs = x.regs := by
  simp only [allocReq] at ha
  split at ha
  · cases ha
  · split at ha
    · cases ha
    · next hb =>
      simp only [Option.some.injEq, Prod.mk.injEq] at ha
      obtain ⟨rfl, rfl⟩ := ha
      exact (allocBuf_regs hb :)

/-- R284: the space kept for a response changes buffers and counts of the die that keeps it, but no register. -/
theorem respRoom_some {s s2 : State} {d n b : Nat} (h : respRoom s d n = some (b, s2)) :
    ∃ x, allocReq s.variant d (getDie s d) n (36 + bodyLen 8) 1 = some (b, x) ∧ s2 = setDie s d x ∧ x.regs = (getDie s d).regs := by
  simp only [respRoom, Option.map_eq_some_iff, Prod.mk.injEq] at h
  obtain ⟨⟨b', x⟩, ha, rfl, rfl⟩ := h
  exact ⟨x, ha, rfl, allocReq_regs ha⟩

theorem respRoom_of_allocReq {s : State} {d n b : Nat} {x : Die} (h : allocReq s.variant d (getDie s d) n (36 + bodyLen 8) 1 = some (b, x)) :
    respRoom s d n = some (b, setDie s d x) := by
  rw [respRoom, h]; rfl

theorem inject_some {s s1 : State} {d n refs : Nat} {p : Packet} {e : Held} (h : inject s d p n refs = some (e, s1)) :
    e.pkt = p ∧ OnlyDie s s1 d := by
  simp only [inject] at h
  split at h
  · cases h
  · simp only [Option.some.injEq, Prod.mk.injEq] at h
    obtain ⟨rfl, rfl⟩ := h
    exact ⟨rfl, _, rfl⟩

theorem inject_isSome (s : State) (d : Nat) (p : Packet) (n refs : Nat) :
    (inject s d p n refs).isSome = (allocReq s.variant d (getDie s d) n (pktLen p) refs).isSome := by
  unfold inject
  split
  · next h => rw [h]; rfl
  · next h => rw [h]; rfl

theorem inject_isSome_congr {s t : State} {d : Nat} (hv : t.variant = s.variant) (hd : getDie t d = getDie s d) (p : Packet) (n refs : Nat) :
    (inject t d p n refs).isSome = (inject s d p n refs).isSome := by
  rw [inject_isSome, inject_isSome, hv, hd]

/-! The first bridge (R12 to R14) -/

theorem diePaths_ne_nil {v : Variant} {a b : Nat} (h : a ≠ b) : [] ∉ diePaths v a b := by
  have apart : a ^^^ b ≠ 0 := fun e => h (Nat.xor_eq_zero_iff.mp e)
  unfold diePaths
  split
  · next e => exact absurd e apart
  all_goals simp

theorem diePath_first {s : State} {a b : Nat} (h : a ≠ b) (hp : (diePath s a b).isSome = true) : ∃ i l, diePath s a b = some (i :: l) := by
  obtain ⟨path, hp⟩ := Option.isSome_iff_exists.mp hp
  cases path with
  | nil => exact absurd (List.mem_of_find?_eq_some hp) (diePaths_ne_nil h)
  | cons i l => exact ⟨i, l, hp⟩

theorem diePath_of_crosses {s : State} {a b : Nat} (h : a ≠ b) (hc : crosses s a b = true) : (diePath s a b).isSome = true := by
  simp only [crosses, reaches, beq_false_of_ne h, Bool.false_or, Bool.and_eq_true] at hc
  obtain ⟨⟨_, there⟩, _⟩ := hc
  exact there

/-- Die d has queued packet e for a bridge. -/
def QueuedOver (t : State) (d : Nat) (e : Held) : Prop :=
  ∃ o f, 96 ≤ o ∧ f ∈ (outOf (getDie t d) o).q ∧ f.pkt = e.pkt ∧ f.od = e.od ∧ f.op = e.op ∧ f.eng = e.eng

/-- Packet e as it waits at output o of die d. -/
def joinedHeld (s : State) (d o : Nat) (e : Held) : Held :=
  { e with q := (queueAt (getDie s d) o e.pkt.hdr).1, sub := (queueAt (getDie s d) o e.pkt.hdr).2, joined := s.now, fg := some (groupOf o) }

theorem joinQueue_queue (s : State) (d o : Nat) (e : Held) :
    (outOf (getDie (joinQueue s d o e) d) o).q = (outOf (getDie s d) o).q ++ [joinedHeld s d o e] := by
  rw [joinQueue, getDie_updDie_same]
  simp only [outOf, tget_tset_same, joinedHeld]

theorem joinQueue_queued (s : State) (d b : Nat) (e : Held) : QueuedOver (joinQueue s d (96 + b) e) d e := by
  refine ⟨96 + b, joinedHeld s d (96 + b) e, Nat.le_add_right .., ?_, rfl, rfl, rfl, rfl⟩
  rw [joinQueue_queue]
  exact List.mem_append_right _ List.mem_cons_self

/-- R13, R14: a packet for another die that a path leads to is queued for a bridge, and no other die changes. -/
theorem toward_queues {s : State} {d : Nat} {e : Held} (h : d ≠ e.od) (hp : (diePath s d e.od).isSome = true) :
    OnlyDie s (toward s d e) d ∧ QueuedOver (toward s d e) d e := by
  obtain ⟨i, l, path⟩ := diePath_first h hp
  unfold toward
  split
  · exact ⟨onlyDie_trans ⟨_, rfl⟩ ⟨_, rfl⟩, joinQueue_queued ..⟩
  · rw [path]; exact ⟨⟨_, rfl⟩, joinQueue_queued ..⟩

theorem launchReq_some {s u : State} {d t id n : Nat} {p : Packet} (h : d ≠ t) (hp : (diePath s d t).isSome = true)
    (hu : launchReq s d t id n p = some u) :
    OnlyDie s u d ∧ ∃ o f, 96 ≤ o ∧ f ∈ (outOf (getDie u d) o).q ∧ f.pkt = p ∧ f.od = t ∧ f.op = 100 ∧ f.eng = some (d, id, n) := by
  simp only [launchReq, Option.map_eq_some_iff] at hu
  obtain ⟨⟨e, s1⟩, taken, rfl⟩ := hu
  obtain ⟨rfl, x, rfl⟩ := inject_some taken
  obtain ⟨only, o, f, bridge, queued, pkt, od, op, eng⟩ :=
    toward_queues (s := setDie s d x) (e := { e with od := t, op := 100, eng := some (d, id, n) }) h hp
  exact ⟨onlyDie_trans ⟨x, rfl⟩ only, o, f, bridge, queued, pkt, od, op, eng⟩

/-! Acceptance by the executing die (R140, R152) -/

/-- Request q as die t accepts it. -/
def acceptedReq (s : State) (t : Nat) (q : EngReq) : EngReq :=
  let e := rq q.req 0 1
  { q with
    id := (takeId s t).1
    unit := ((pickUnit (getDie s t) e).orElse (fun _ => (engUnits e).head?)).getD 0
    done := (if 4 ≤ e then some .badReq else if (pickUnit (getDie s t) e).isNone then some .engineGone else reqErr s t q).map doneWith }

theorem engs_acceptOn (s : State) (t : Nat) (q : EngReq) :
    (getDie (acceptOn s t q none) t).engs = (getDie s t).engs ++ [acceptedReq s t q] := by
  simp only [acceptOn, takeId, getDie_updDie_same, getDie_setDie_same, acceptedReq, Option.orElse_none]

theorem onlyDie_acceptOn (s : State) (t : Nat) (q : EngReq) (fail : Option Status) : OnlyDie s (acceptOn s t q fail) t :=
  onlyDie_trans ⟨_, rfl⟩ ⟨_, rfl⟩

theorem acceptedReq_unit {s : State} {t n : Nat} {q : EngReq} (h : rq q.req 0 1 < 4) (hn : pickUnit (getDie s t) (rq q.req 0 1) = some n) :
    (acceptedReq s t q).unit = n ∧ (acceptedReq s t q).done = (reqErr s t q).map doneWith := by
  have known : ¬4 ≤ rq q.req 0 1 := by omega
  simp only [acceptedReq, hn, known, if_false, Option.isNone_some, Bool.false_eq_true, Option.orElse_some, Option.getD_some, and_self]

theorem reqErr_setDie {s : State} {d t : Nat} {x : Die} (h : t ≠ d) (hx : x.regs = (getDie s d).regs) (q : EngReq) :
    reqErr (setDie s d x) t q = reqErr s t q := by
  have word (e : Nat) : regWord (getDie (setDie s d x) e) rFAB_SELF = regWord (getDie s e) rFAB_SELF := by
    rw [getDie_setDie]; split
    · next he => rw [he]; simp only [regWord, hx]
    · rfl
  have chip (c : Nat) : dieOfChip (setDie s d x) c = dieOfChip s c := by simp only [dieOfChip, word, setDie_variant]
  have entry (c : Nat) : chipEntry (setDie s d x) c = chipEntry s c := rfl
  have part : reqPart (setDie s d x) q = reqPart s q := by
    simp only [reqPart, dieChip, chip, entry]
    rfl
  simp only [reqErr, part, getDie_setDie, if_neg h]

theorem acceptedReq_setDie {s : State} {d t : Nat} {x : Die} (h : t ≠ d) (hx : x.regs = (getDie s d).regs) (q : EngReq) :
    acceptedReq (setDie s d x) t q = acceptedReq s t q := by
  simp only [acceptedReq, takeId, reqErr_setDie h hx, getDie_setDie, if_neg h]

/-- How a request of die d goes on: what it has of its way there and of the space kept for its response. -/
def wayTo (d : Nat) (room : Option (Nat × Nat)) (q : EngReq) : EngReq := { q with way := some d, room := room }

/-- The request leaves at once (R284, R287): it has space for its response, and its packet a buffer. -/
def crossNow (s : State) (d t : Nat) (q : EngReq) : Option State :=
  if stopped s then none else (respRoom s d (reqUser s t q)).bind (fun r =>
    launchReq (acceptOn r.2 t (wayTo d (some (d, r.1)) q) none) d t (takeId s t).1 (reqUser s t q) (reqPacket q))

theorem crossReq_eq (s : State) (d t : Nat) (q : EngReq) : crossReq s d t q = (crossNow s d t q).getD
    (updDie (acceptOn s t (wayTo d q.room q) none) d (fun x => { x with txq := x.txq ++ [reqItem (reqUser s t q) (reqPacket q) t (takeId s t).1] })) := rfl

section
variable {s : State} {d t : Nat} {q : EngReq}

theorem crossNow_some {u : State} (h : crossNow s d t q = some u) :
    ∃ b x, respRoom s d (reqUser s t q) = some (b, setDie s d x) ∧ x.regs = (getDie s d).regs ∧
      launchReq (acceptOn (setDie s d x) t (wayTo d (some (d, b)) q) none) d t (takeId s t).1 (reqUser s t q) (reqPacket q) = some u := by
  unfold crossNow at h
  split at h
  · cases h
  · obtain ⟨⟨b, s2⟩, room, leaves⟩ := Option.bind_eq_some_iff.mp h
    obtain ⟨x, -, rfl, regs⟩ := respRoom_some room
    exact ⟨b, x, room, regs, leaves⟩

theorem crossNow_isSome (h : t ≠ d) (hs : stopped s = false) {b : Nat} {s2 : State} (hr : respRoom s d (reqUser s t q) = some (b, s2))
    (hi : (inject s2 d (reqPacket q) (reqUser s t q) 1).isSome = true) : (crossNow s d t q).isSome = true := by
  have accepts := onlyDie_acceptOn s2 t (wayTo d (some (d, b)) q) none
  rw [crossNow, hs, if_neg Bool.false_ne_true, hr, Option.bind_some, launchReq, Option.isSome_map, inject_isSome_congr accepts.variant_eq (accepts.getDie_ne h.symm)]
  exact hi

/-- R8, R152, R284: the executing die has the request, which is on its way: at once, its packet queued for a bridge, where it has room; else when it can. -/
theorem crossReq_accepts (h : t ≠ d) (hp : (diePath s d t).isSome = true) :
    ∃ room, (crossReq s d t q).engWait = s.engWait ∧
      (getDie (crossReq s d t q) t).engs = (getDie s t).engs ++ [acceptedReq s t (wayTo d room q)] ∧
      (stopped s = false → ∀ b s2, respRoom s d (reqUser s t q) = some (b, s2) → (inject s2 d (reqPacket q) (reqUser s t q) 1).isSome = true →
        room = some (d, b) ∧ ∃ o f, 96 ≤ o ∧ f ∈ (outOf (getDie (crossReq s d t q) d) o).q ∧ f.pkt = reqPacket q ∧ f.od = t ∧ f.op = 100 ∧
          f.eng = some (d, (takeId s t).1, reqUser s t q)) := by
  cases now : crossNow s d t q with
  | none =>
    have waits := crossReq_eq s d t q
    rw [now, Option.getD_none] at waits
    rw [waits]
    refine ⟨q.room, rfl, ?_, fun hs b s2 hr hi => ?_⟩
    · rw [getDie_updDie, if_neg h, engs_acceptOn]
    · have leaves := crossNow_isSome h hs hr hi
      rw [now] at leaves
      exact absurd leaves Bool.false_ne_true
  | some u =>
    have leaves := crossReq_eq s d t q
    rw [now, Option.getD_some] at leaves
    rw [leaves]
    obtain ⟨b, x, room, regs, launched⟩ := crossNow_some now
    have accepts := onlyDie_acceptOn (setDie s d x) t (wayTo d (some (d, b)) q) none
    obtain ⟨only, queued⟩ := launchReq_some h.symm ((accepts.diePath_eq d t).symm ▸ hp) launched
    refine ⟨some (d, b), only.engWait_eq.trans accepts.engWait_eq, ?_, fun _ b' s2 hr _ => ?_⟩
    · rw [only.getDie_ne h, engs_acceptOn, getDie_setDie, if_neg h, acceptedReq_setDie h regs]
    · rw [room, Option.some.injEq, Prod.mk.injEq] at hr
      rw [hr.1]
      exact ⟨rfl, queued⟩

/-- Whether a post is one for engine e that a core of die d released. -/
def postOf (d e : Nat) (q : EngReq) : Bool := q.unit == e && (match q.src with | .core t _ => t == d | _ => false)

theorem postOf_core {e c : Nat} (he : q.unit = e) (hq : q.src = .core d c) : postOf d e q = true := by
  simp only [postOf, he, hq, beq_self_eq_true, Bool.and_self]

theorem postOf_other {e : Nat} (h : q.unit = e → ∀ c, q.src ≠ .core d c) : postOf d e q = false := by
  rw [Bool.eq_false_iff]
  intro mine
  simp only [postOf, Bool.and_eq_true, beq_iff_eq] at mine
  obtain ⟨unit, src⟩ := mine
  cases hs : q.src with
  | core t c => rw [hs] at src; exact h unit c (by rw [hs, beq_iff_eq.mp src])
  | _ => rw [hs] at src; exact Bool.noConfusion src

theorem submit_die (hd : engDest s (toLe 64 q.req.toNat) = .die t) (hc : crosses s d t = true) (hf : (getDie s t).flt = 0) :
    submit s d q false = if mayAccept s t q.req = true then some (if t = d then acceptOn s t q none else crossReq s d t q) else none := by
  simp only [submit, hd, hc, hf, Bool.not_true, Bool.false_eq_true, if_false, Bool.false_or, ne_eq, not_true_eq_false]

theorem engineAccept_eq (d e : Nat) (s : State) : engineAccept d e s =
    if !dieUp s d then s
    else match s.engWait.find? (postOf d e) with
      | none => s
      | some q => match submit { s with engWait := s.engWait.erase q } d q false with
        | some s1 => s1
        | none => s := rfl

/-- R152: ENGINE_REQUEST_ACCEPT submits the oldest post of engine e that a core of die d released. -/
theorem exec_engineRequestAccept_oldest {e c : Nat} {l m : List EngReq} (hu : dieUp s d = true) (hw : s.engWait = l ++ q :: m) (he : q.unit = e)
    (hq : q.src = .core d c) (hl : ∀ p ∈ l, p.unit = e → ∀ b, p.src ≠ .core d b) :
    exec (.engineRequestAccept d e) s = .next ((submit { s with engWait := l ++ m } d q false).getD s) := by
  have first : s.engWait.find? (postOf d e) = some q := by
    rw [hw]
    exact find_split l m q _ (postOf_core he hq) (fun p hp => postOf_other (hl p hp))
  have rest : s.engWait.erase q = l ++ m := by
    rw [hw]
    exact erase_split l m q (fun mem => hl q mem he c hq)
  show Host.Outcome.next (engineAccept d e s) = _
  simp only [engineAccept_eq, hu, first, rest, Bool.not_true, Bool.false_eq_true, if_false]
  cases submit { s with engWait := l ++ m } d q false <;> rfl

end

/-! Top-k sets (R164 to R168) -/

theorem engStep_of {s : State} {d u op : Nat} {q : EngReq} (h : engHead s d u = some q) (hop : rq q.req 1 1 = op) (f : EngReq → State) :
    engStep d u s (fun r => rq r 1 1 == op) f = f q := by
  simp only [engStep, h, hop, beq_self_eq_true, if_true]

theorem getReq_left {s : State} {d id : Nat} (f : Die → Tbl TopkSet) :
    getReq (updDie s d (fun x => { x with topk := f x, engs := x.engs.filter (fun p => p.id != id) })) d id = none := by
  simp only [getReq, getDie_updDie_same, List.find?_eq_none, List.mem_filter]
  rintro p ⟨-, other⟩
  simpa using other

/-- The set that an OPEN makes (R165). -/
def openedSet (q : EngReq) : TopkSet :=
  { req := q.req, k := rq q.req 32 2, l := rq q.req 34 2, smallest := rq q.req 36 1 == 1, dst := rq q.req 24 8, ranks := [], recs := [], nan := false,
    src := q.src, room := q.room }

/-- Set x once a request with record r has merged the records bs of a new rank (R166, R167). -/
def mergedSet (x : TopkSet) (r : Word512) (bs : List Byte) : TopkSet :=
  let y := topkMerge x.smallest x.k x.recs ((upto (rq r 56 4)).map (fun i => (bytesNat bs (8 * i) 4, rq r 32 2, bytesNat bs (8 * i + 4) 4)))
  { x with recs := y.1, nan := x.nan || y.2, ranks := sadd x.ranks (rq r 32 2), merged := x.merged + rq r 56 4 }

/-- The open set that a request's SET names, with its key. -/
def namedSet (s : State) (d : Nat) (q : EngReq) : Option (Nat × TopkSet) :=
  (setKey s (rq q.req 16 8)).bind (fun k => (tfind (getDie s d).topk k).map (fun t => (k, t)))

/-- The area of the set that an ADD or CLOSE names, or what refuses it. -/
def namedArea (s : State) (d : Nat) (q : EngReq) : Except Status (List Seg) :=
  reqSegs s d q true (rq q.req 16 8) (576 + 16 * (match namedSet s d q with | some (_, x) => x.k | none => 0))

section
variable {s : State} {d : Nat} {q : EngReq} {ext : List Host.Cell}

theorem openSet_eq : openSet s d q = match namedArea s d q with
    | .error e => .error e
    | .ok _ => match namedSet s d q with
      | some p => .ok p
      | none => .error .noSet := rfl

theorem openSet_refused {e : Status} (h : namedArea s d q = .error e) : openSet s d q = .error e := by rw [openSet_eq, h]

theorem openSet_none {l : List Seg} (h : namedArea s d q = .ok l) (hn : namedSet s d q = none) : openSet s d q = .error .noSet := by
  rw [openSet_eq, h, hn]

theorem openSet_some {l : List Seg} {p : Nat × TopkSet} (h : namedArea s d q = .ok l) (hp : namedSet s d q = some p) : openSet s d q = .ok p := by
  rw [openSet_eq, h, hp]

/-- What a command does that ends request q with a status. -/
def EndsWith (i : Instr) (s : State) (d : Nat) (q : EngReq) (st : Status) : Prop :=
  ∃ t q', exec i s = .next t ∧ getReq t d q.id = some q' ∧ q'.done = some (doneWith st)

theorem endsWith_setDone {i : Instr} {st : Status} {u : Nat} (h : engHead s d u = some q) (hi : exec i s = .next (setDone s d q.id (doneWith st))) :
    EndsWith i s d q st := by
  obtain ⟨q', found, done⟩ := getReq_setDone (engHead_mem h) (doneWith st)
  exact ⟨_, q', hi, found, done⟩

section
variable (hq : engHead s d 1 = some q)
include hq

section
variable (hop : rq q.req 1 1 = 0) {key : Nat} {l1 l2 : List Seg} (hk : setKey s (rq q.req 16 8) = some key)
  (h1 : reqSegs s d q true (rq q.req 16 8) (576 + 16 * rq q.req 32 2) = .ok l1) (h2 : reqSegs s d q true (rq q.req 24 8) (8 * rq q.req 32 2) = .ok l2)
include hop hk h1 h2

theorem topkOpen_busy (hb : (tfind (getDie s d).topk key).isSome = true) : EndsWith (.topkOpen d) s d q .setBusy := by
  refine endsWith_setDone hq ?_
  show Host.Outcome.next (topkOpen d s) = _
  rw [topkOpen, engStep_of hq hop]
  simp only [hk, h1, h2, hb, if_true]

/-- R165: the set area is written, the set is open and empty, and the request has left. -/
theorem topkOpen_opens (hn : tfind (getDie s d).topk key = none) : ∃ t, exec (.topkOpen d) s = .next t ∧ getReq t d q.id = none ∧
    tfind (getDie t d).topk key = some (openedSet q) := by
  have area : reqSegs { s with fresh := s.fresh + 1 } d q true (rq q.req 16 8)
      ((upto (576 + 16 * rq q.req 32 2)).map (fun i => Config.setArea s.fresh i)).length = .ok l1 := by
    rw [reqSegs_fresh, List.length_map, upto, List.length_range, h1]
  have written : ∃ s2, engPut { s with fresh := s.fresh + 1 } d q [] (rq q.req 16 8)
      ((upto (576 + 16 * rq q.req 32 2)).map (fun i => Config.setArea s.fresh i)) = .ok s2 := by
    simp only [engPut, area]
    exact ⟨_, rfl⟩
  obtain ⟨s2, put⟩ := written
  have opens : exec (.topkOpen d) s = .next (updDie s2 d (fun x => { x with
      topk := tset x.topk key (openedSet q)
      engs := x.engs.filter (fun p => p.id != q.id) })) := by
    show Host.Outcome.next (topkOpen d s) = _
    rw [topkOpen, engStep_of hq hop]
    simp only [hk, h1, h2, hn, draw, put, openedSet, Option.isSome_none, Bool.false_eq_true, if_false]
  refine ⟨_, opens, getReq_left _, ?_⟩
  rw [getDie_updDie_same, tfind_tset, if_pos rfl]

end

section
variable (hop : rq q.req 1 1 = 1)
include hop

theorem topkAdd_refused {e : Status} (h : openSet s d q = .error e) : EndsWith (.topkAdd d ext) s d q e := by
  refine endsWith_setDone hq ?_
  show Host.Outcome.next (topkAdd d ext s) = _
  rw [topkAdd, engStep_of hq hop]
  simp only [h]

theorem topkAdd_duplicate {key : Nat} {x : TopkSet} (h : openSet s d q = .ok (key, x)) (hr : rq q.req 32 2 ∈ x.ranks) :
    EndsWith (.topkAdd d ext) s d q .duplicate := by
  refine endsWith_setDone hq ?_
  show Host.Outcome.next (topkAdd d ext s) = _
  rw [topkAdd, engStep_of hq hop]
  simp only [h, contains_true hr, if_true]

theorem topkAdd_new {key : Nat} {x : TopkSet} {bs : List Byte} (h : openSet s d q = .ok (key, x)) (hr : rq q.req 32 2 ∉ x.ranks)
    (hb : engGet s d q ext (rq q.req 24 8) (8 * rq q.req 56 4) = .ok bs) :
    exec (.topkAdd d ext) s = .next (if commitRoom s q = true then
      (let z := mergedSet x q.req bs
       let s1 := touchAll s (engPlaces s [(rq q.req 24 8, 8 * rq q.req 56 4)])
       commitReq (if x.l ≤ z.ranks.length then topkFinish s1 d key z .ok else updDie s1 d (fun v => { v with topk := tset v.topk key z })) d q
         { status := .ok, conds := 0, count := rq q.req 56 4 }) else s) := by
  show Host.Outcome.next (topkAdd d ext s) = _
  rw [topkAdd, engStep_of hq hop]
  simp only [h, contains_false hr, hb, Bool.false_eq_true, if_false]
  cases commitRoom s q <;> rfl

end

section
variable (hop : rq q.req 1 1 = 2)
include hop

theorem topkClose_refused {e : Status} (h : openSet s d q = .error e) : EndsWith (.topkClose d) s d q e := by
  refine endsWith_setDone hq ?_
  show Host.Outcome.next (topkClose d s) = _
  rw [topkClose, engStep_of hq hop]
  simp only [h]

theorem topkClose_open {key : Nat} {x : TopkSet} (h : openSet s d q = .ok (key, x)) (hc : commitRoom s q = true) :
    exec (.topkClose d) s = .next (commitReq (topkFinish s d key x .incomplete) d q { status := .ok, conds := 0, count := 0 }) := by
  show Host.Outcome.next (topkClose d s) = _
  rw [topkClose, engStep_of hq hop]
  simp only [h, hc, Bool.not_true, Bool.false_eq_true, if_false]

end
end
end

/-! The obligation -/

/-- The clause of O38 about a die that has room (R8, R140, R152, R284), s being the state without the post. -/
theorem submitted_accepted {s : State} {d t : Nat} {q : EngReq} (hc : crosses s d t = true) :
    ∃ q', (if t = d then acceptOn s t q none else crossReq s d t q).engWait = s.engWait ∧
      (getDie (if t = d then acceptOn s t q none else crossReq s d t q) t).engs = (getDie s t).engs ++ [q'] ∧
      q'.req = q.req ∧ q'.src = q.src ∧ (t ≠ d → q'.way = some d) ∧ (t = d → q'.way = q.way) ∧
      (rq q.req 0 1 < 4 → ∀ n, pickUnit (getDie s t) (rq q.req 0 1) = some n → q'.unit = n ∧ q'.done = (reqErr s t q).map doneWith) ∧
      (t ≠ d → stopped s = false → ∀ b s2, respRoom s d (reqUser s t q) = some (b, s2) → (inject s2 d (reqPacket q) (reqUser s t q) 1).isSome = true →
        q'.room = some (d, b) ∧ ∃ o n f, 96 ≤ o ∧ f ∈ (outOf (getDie (if t = d then acceptOn s t q none else crossReq s d t q) d) o).q ∧ f.pkt = reqPacket q ∧
          f.od = t ∧ f.op = 100 ∧ f.eng = some (d, q'.id, n)) := by
  by_cases here : t = d
  · rw [if_pos here]
    exact ⟨acceptedReq s t q, (onlyDie_acceptOn ..).engWait_eq, engs_acceptOn .., rfl, rfl, fun h => absurd here h, fun _ => rfl,
      fun he n hn => acceptedReq_unit he hn, fun h => absurd here h⟩
  · rw [if_neg here]
    obtain ⟨room, wait, engs, leaves⟩ := crossReq_accepts (q := q) here (diePath_of_crosses (Ne.symm here) hc)
    refine ⟨acceptedReq s t (wayTo d room q), wait, engs, rfl, rfl, fun _ => rfl, fun h => absurd h here, fun he n hn => acceptedReq_unit he hn, ?_⟩
    intro _ hs b s2 hr hi
    obtain ⟨kept, o, f, bridge, queued, pkt, od, op, eng⟩ := leaves hs b s2 hr hi
    exact ⟨kept, o, _, f, bridge, queued, pkt, od, op, eng⟩

/-- Settles O38: a post is submitted by its core's die, and the top-k commands act on the set that openSet finds. -/
theorem engineRequestsWaitForRoomAndSetsMergeRanks : Obligations.EngineRequestsWaitForRoomAndSetsMergeRanks := by
  refine ⟨fun s d e c t q l m hu hw he hq hl hd hc hf => ?_, fun s d ext q hq => ?_⟩
  · have accept := exec_engineRequestAccept_oldest hu hw he hq hl
    have submitted : submit { s with engWait := l ++ m } d q false = if mayAccept s t q.req = true then
        some (if t = d then acceptOn { s with engWait := l ++ m } t q none else crossReq { s with engWait := l ++ m } d t q) else none := submit_die hd hc hf
    rw [submitted] at accept
    refine ⟨fun full => ?_, fun room => ?_⟩
    · rw [accept, full, if_neg Bool.false_ne_true, Option.getD_none]
    · rw [room, if_pos rfl, Option.getD_some] at accept
      obtain ⟨q', wait, engs, req, src, away, here, unit, leaves⟩ := submitted_accepted (s := { s with engWait := l ++ m }) (q := q) hc
      refine ⟨_, q', accept, wait, engs, req, src, away, here, unit, fun ht hs b s2 hr hi => ?_⟩
      obtain ⟨x, space, rfl, -⟩ := respRoom_some hr
      have buffer := inject_isSome_congr (s := setDie s d x) (t := setDie { s with engWait := l ++ m } d x) (d := d) rfl rfl (reqPacket q) (reqUser s t q) 1
      exact leaves ht hs b _ (respRoom_of_allocReq space) (buffer.trans hi)
  · intro r ends set area
    refine ⟨fun hop key l1 l2 hk h1 h2 => ⟨topkOpen_busy hq hop hk h1 h2, topkOpen_opens hq hop hk h1 h2⟩, fun e refused => ⟨fun hop => ?_, fun hop => ?_⟩,
      fun hop sl fits => ⟨fun absent => ?_, fun key x named => ?_⟩, fun hop sl fits => ⟨fun absent => ?_, fun key x named room => ?_⟩⟩
    · exact topkAdd_refused hq hop (openSet_refused refused)
    · exact topkClose_refused hq hop (openSet_refused refused)
    · exact topkAdd_refused hq hop (openSet_none fits absent)
    · have found : openSet s d q = .ok (key, x) := openSet_some fits named
      refine ⟨fun old => topkAdd_duplicate hq hop found old, fun new bs hb => ?_⟩
      have adds := topkAdd_new hq hop found new hb
      refine ⟨fun full => ?_, fun room => ?_⟩
      · rw [adds, full, if_neg Bool.false_ne_true]
      · rw [adds, room, if_pos rfl]; rfl
    · exact topkClose_refused hq hop (openSet_none fits absent)
    · exact topkClose_open hq hop (openSet_some fits named) room

end Sys2Proof.Proofs
end

section
/-! PROOFS. Chained jobs' records that wait, handle caches, DMA requests. -/

namespace Sys2Proof.Proofs

open Sys2Proof.Machine Sys2Proof.Laws

/-! A chained job's record waits for its ring (R151) -/

theorem exec_chainedJobWaitTimeout_record {s : State} {r : Rec} {l m : List Rec} (d : Nat) (hp : s.phase = .up) (hs : s.recs = l ++ r :: m)
    (h3 : r.source = 3) (ht : r.told = false) (hq : (getCq s r.cq).state = 0 ∨ (getCq s r.cq).state = 3) (hl : ∀ x ∈ l, x.source ≠ 3) :
    exec (.chainedJobWaitTimeout d) s =
      .next (postEvent { s with recs := s.recs.map (fun x => if x == r then { x with told := true } else x) } 0x0D 0xFF (r.cq + 256) 4 0 0) := by
  have first : s.recs.find? (fun x => x.source == 3 && !x.told && ((getCq s x.cq).state == 0 || (getCq s x.cq).state == 3)) = some r := by
    rw [hs]
    refine find_split l m r _ ?_ (fun x hx => ?_)
    · simp only [h3, ht, Bool.and_eq_true, Bool.or_eq_true, beq_iff_eq, hq]; decide
    · rw [beq_false_of_ne (hl x hx)]; rfl
  have up : (s.phase != .up) = false := by rw [hp]; rfl
  show Host.Outcome.next (chainedJobWait d s) = _
  simp only [chainedJobWait, up, first, Bool.false_eq_true, if_false]
  rfl

/-! Handle caches (R298) -/

theorem dieRuns_of_dieUp {s : State} {d : Nat} (h : dieUp s d = true) : dieRuns s d = true ∧ (getDie s d).flt = 0 := by
  simp only [dieUp, Bool.and_eq_true, decide_eq_true_eq, beq_iff_eq] at h
  obtain ⟨⟨up, there⟩, serves⟩ := h
  simp only [dieRuns, dieLives, up, there, serves]
  decide

/-- Where no handle is withdrawn and n have never left their ring, those go first, in order. -/
theorem ringTake_fresh {p n : Nat} {r : Pool} (h : r.fresh + n ≤ poolSize p) :
    ringTake p r n [] = ((List.range n).map (fun i => handleOf p (r.fresh + i)), { r with fresh := r.fresh + n }) := by
  have all : min n (poolSize p - r.fresh) = n := by omega
  have kept (hs : List Nat) : hs.filter (fun h => !([] : NSet).contains h) = hs := List.filter_eq_self.mpr (fun _ _ => rfl)
  simp only [ringTake, all, Nat.sub_self, List.take_zero, List.drop_zero, List.append_nil, upto, kept]

theorem exec_handleCacheFetch_low {s : State} {d p g : Nat} (hd : dieUp s d = true) (hp : p < 3) (hg : g < 14)
    (hc : (cacheOf (getDie s d) p g).length < 64) : exec (.handleCacheFetch d p g) s = .next (setDie s d (cacheFetch (getDie s d) p g)) := by
  obtain ⟨runs, serves⟩ := dieRuns_of_dieUp hd
  show Host.Outcome.next (handleCacheFetch d p g s) = _
  simp only [handleCacheFetch, runs, serves, hp, hg, hc, decide_true, beq_self_eq_true, Bool.and_self, if_true]

theorem cacheFetch_fresh {x : Die} {p : Nat} (g : Nat) (ho : x.pbOut = []) (hr : (poolOf x p).fresh + 128 ≤ poolSize p) :
    cacheOf (cacheFetch x p g) p g = cacheOf x p g ++ (List.range 128).map (fun i => handleOf p ((poolOf x p).fresh + i)) ∧
      poolOf (cacheFetch x p g) p = { poolOf x p with fresh := (poolOf x p).fresh + 128 } := by
  simp only [cacheFetch, ho, ringTake_fresh hr]
  exact ⟨tget_tset_same .., tget_tset_same ..⟩

/-! A DMA request of one unit between two places of ground memory (R174, R176) -/

theorem pathTo_updDie {s : State} {e : Nat} {f : Die → Die} (hf : (f (getDie s e)).flt = (getDie s e).flt) (d : Nat) (p : Place) :
    pathTo (updDie s e f) d p = pathTo s d p := by
  have flt (t : Nat) : (getDie (updDie s e f) t).flt = (getDie s t).flt := by
    rw [getDie_updDie]; split
    · next h => rw [h, hf]
    · rfl
  have lives (t : Nat) : dieLives (updDie s e f) t = dieLives s t := by rw [dieLives, dieLives, flt, updDie_variant]
  have path (a b : Nat) : diePath (updDie s e f) a b = diePath s a b := rfl
  have link : linkDie (updDie s e f) = linkDie s := rfl
  have cross (a b : Nat) : crosses (updDie s e f) a b = crosses s a b := by simp only [crosses, reaches, lives, path, updDie_variant]
  cases p <;> simp only [pathTo, cross, link, placeDie, dieServes, flt]

/-! What a change of a die's DMA requests leaves alone -/

section
variable (s : State) (d : Nat) (g : Die → List DmaReq)

theorem pathTo_updDmas (e : Nat) (p : Place) : pathTo (updDie s d (fun x => { x with dmas := g x })) e p = pathTo s e p :=
  pathTo_updDie (f := fun x => { x with dmas := g x }) rfl e p

theorem gnd_updDmas (e : Nat) : (getDie (updDie s d (fun x => { x with dmas := g x })) e).gnd = (getDie s e).gnd := by
  rw [getDie_updDie]; split
  · next h => rw [h]
  · rfl

theorem getCore_updDmas (e c : Nat) : getCore (updDie s d (fun x => { x with dmas := g x })) e c = getCore s e c := by
  refine getCore_setDie_cores ?_ e c
  rfl

theorem same_updDmas : SameMemory s (updDie s d (fun x => { x with dmas := g x })) := by
  intro e
  rw [gnd_updDmas]
  refine ⟨fun c a => by rw [getCore_updDmas], fun a => rfl, fun a => ?_⟩
  rw [getDie_updDie]; split
  · next h => rw [h]
  · rfl

end

theorem same_updDma (s : State) (d i : Nat) (f : DmaReq → DmaReq) : SameMemory s (updDma s d i f) := same_updDmas s d _

theorem getCore_updDma (s : State) (d i : Nat) (f : DmaReq → DmaReq) (e c : Nat) : getCore (updDma s d i f) e c = getCore s e c := by
  rw [updDma, getCore_updDmas]

theorem pathTo_updDma (s : State) (d i : Nat) (f : DmaReq → DmaReq) (e : Nat) (p : Place) : pathTo (updDma s d i f) e p = pathTo s e p := by
  rw [updDma, pathTo_updDmas]

theorem gnd_updDma (s : State) (d i : Nat) (f : DmaReq → DmaReq) (e : Nat) : (getDie (updDma s d i f) e).gnd = (getDie s e).gnd := by
  rw [updDma, gnd_updDmas]

/-! A touch and a write of ground memory -/

theorem dieGndWrite_cells (x : Die) (o : Nat) (bs : List Byte) : (dieGndWrite x o bs).gnd.cells = memWrite x.gnd.cells o bs := by
  have reads (ws : List Nat) (y : Die) : (ws.foldl (fun x w => dieGndTouch x (8 * w) 8) y).gnd.cells = y.gnd.cells := by
    induction ws generalizing y with
    | nil => rfl
    | cons w ws ih => rw [List.foldl_cons, ih, getDie_touch_cells]
  simp only [dieGndWrite, gndWrite, reads]

theorem dieGndWrite_dmas (x : Die) (o : Nat) (bs : List Byte) : (dieGndWrite x o bs).dmas = x.dmas := by
  have reads (ws : List Nat) (y : Die) : (ws.foldl (fun x w => dieGndTouch x (8 * w) 8) y).dmas = y.dmas := by
    induction ws generalizing y with
    | nil => rfl
    | cons w ws ih => rw [List.foldl_cons, ih]; rfl
  exact reads ..

theorem getDma_done {s : State} {d i : Nat} : getDma (updDie s d (fun x => { x with dmas := x.dmas.filter (fun p => p.id != i) })) d i = none := by
  simp only [getDma, getDie_updDie_same, List.find?_eq_none, List.mem_filter]
  rintro p ⟨-, other⟩
  simpa using other

theorem getDma_updCore (s : State) (d c i : Nat) (f : Core → Core) : getDma (updCore s d c f) d i = getDma s d i := by
  refine getDma_other s d d i _ ?_
  rfl

theorem segsCut_whole {n : Nat} (h : 0 < n) (p : Place) :
    segsCut [{ off := 0, len := n, place := p }] 0 n = [{ off := 0, len := n, place := placeAdd p 0 }] := by
  simp only [segsCut, List.filterMap_cons, List.filterMap_nil, Nat.max_self, Nat.zero_add, Nat.min_self, h, if_true, Nat.sub_zero]

section
variable {s : State} {d i d1 o1 d2 o2 n c tag : Nat} {ext : List Host.Cell} {q q1 : DmaReq}

theorem dmaPairs_whole (hs : q.src = [{ off := 0, len := n, place := .ground d1 o1 }]) (ht : q.dst = [{ off := 0, len := n, place := .ground d2 o2 }])
    (h : 0 < n) : dmaPairs q 0 n = [(0, n, .ground d1 o1, .ground d2 o2)] := by
  rw [dmaPairs, hs, ht, segsCut_whole h]
  simp only [List.map_cons, List.map_nil, Nat.zero_add, segsCut_whole h, List.flatten_cons, List.flatten_nil, List.append_nil, Nat.sub_zero]
  rfl

theorem dmaPiece_ground (hs : q.src = [{ off := 0, len := n, place := .ground d1 o1 }]) (ht : q.dst = [{ off := 0, len := n, place := .ground d2 o2 }]) :
    dmaPiece q = 4096 := by
  rw [dmaPiece, hs, ht]; rfl

/-- The one unit of such a request is moved at once, and settled. -/
theorem dmaUnit_ground (hs : q.src = [{ off := 0, len := n, place := .ground d1 o1 }]) (ht : q.dst = [{ off := 0, len := n, place := .ground d2 o2 }])
    (hl : q.len = n) (h0 : q.next = 0) (h : 0 < n) (hn : n ≤ 4096) :
    dmaUnit s d q ext = some (dmaSettle (dmaMove (updDma s d q.id (fun q => { q with next := n })) d q 0 (.ground d1 o1) (.ground d2 o2) n) d q.id 0) := by
  have hi : min q.len (q.next + dmaPiece q) = n := by rw [dmaPiece_ground hs ht, hl, h0]; omega
  simp only [dmaUnit, hi]
  rw [h0, dmaPairs_whole hs ht h]
  rfl

theorem dmaSettle_core (h : getDma s d i = some q) (ho : q.owner = .core c tag) (hb : q.busy = []) (hn : min q.len 4096 ≤ q.next) :
    ∃ units, dmaSettle s d i 0 = updDma s d i (fun q => { q with busy := tdel q.busy 0, units := units }) := by
  have settled : tget q.busy 0 0 = 0 ∧ min q.len (0 + 4096) ≤ q.next := ⟨by rw [hb]; rfl, by rwa [Nat.zero_add]⟩
  simp only [dmaSettle, h, ho]
  rw [if_pos settled]
  exact ⟨_, rfl⟩

theorem dmaAdvance_ended (h : getDma s d i = some q) (he : dmaEnd q ≤ q.next) (f : Nat) : dmaAdvance d i ext f s = s := by
  cases f with
  | zero => rfl
  | succ f => simp only [dmaAdvance, h]; rw [if_pos (.inl he)]

theorem dmaAdvance_unit {s1 : State} (h : getDma s d i = some q) (hn : q.next < dmaEnd q) (hw : dmaHeldUp s d i = false) (hu : dmaUnit s d q ext = some s1)
    (f : Nat) : dmaAdvance d i ext (f + 1) s = dmaAdvance d i ext f s1 := by
  have more : ¬(dmaEnd q ≤ q.next ∨ dmaHeldUp s d i = true) := by rw [hw]; rintro (h | h) <;> [omega; cases h]
  simp only [dmaAdvance, h, hu]
  rw [if_neg more]

theorem dmaEnd_whole (ha : q.aborted = false) : dmaEnd q = q.len := by rw [dmaEnd, ha]; rfl

theorem dmaHeldUp_idle (h : ∀ t ∈ (getDie s d).txq, t.owner = .none) : dmaHeldUp s d i = false := by
  rw [dmaHeldUp, List.any_eq_false]
  intro t ht
  rw [h t ht]; exact Bool.false_ne_true

theorem exec_dmaRequestComplete (d i : Nat) (ext : List Host.Cell) (s : State) : exec (.dmaRequestComplete d i ext) s = .next (dmaComplete d i ext s) := rfl

theorem dmaComplete_advanced {s1 : State} (hd : dieUp s d = true) (hq : getDma s d i = some q) (hm : (getDie s d).moverFenced.length < 4)
    (ha : dmaAdvance d i ext (dmaFuel q) s = s1) (h1 : getDma s1 d i = some q1) (he : dmaEnd q1 ≤ q1.next) (hb : q1.busy = []) :
    dmaComplete d i ext s = dmaDone s1 d q1 := by
  have works : ¬((getDie s d).moverFenced.length = 4 ∧ q.status = .ok) := by omega
  have ended : dmaEnd q1 ≤ q1.next ∧ dmaIdle q1 = true := ⟨he, by rw [dmaIdle, hb]; rfl⟩
  simp only [dmaComplete, hd, hq, Bool.not_true, Bool.false_eq_true, if_false]
  rw [if_neg works, ha, h1]
  simp only [ended, if_true, and_self]

/-- R174: a request whose bytes are all begun and settled is over. -/
theorem exec_dmaRequestComplete_begun (hd : dieUp s d = true) (hq : getDma s d i = some q) (hm : (getDie s d).moverFenced.length < 4)
    (ha : q.aborted = false) (hb : q.busy = []) (hn : q.len ≤ q.next) : exec (.dmaRequestComplete d i ext) s = .next (dmaDone s d q) := by
  have ended : dmaEnd q ≤ q.next := by rwa [dmaEnd_whole ha]
  rw [exec_dmaRequestComplete, dmaComplete_advanced hd hq hm (dmaAdvance_ended hq ended _) hq ended hb]

/-- A request of a core for n bytes from one place of ground memory to another, none of which is begun and whose way out is free. -/
structure GroundDma (s : State) (d i : Nat) (q : DmaReq) (d1 o1 d2 o2 n c tag : Nat) : Prop where
  up : dieUp s d = true
  found : getDma s d i = some q
  movers : (getDie s d).moverFenced.length < 4
  goes : q.aborted = false
  idle : q.busy = []
  source : q.src = [{ off := 0, len := n, place := .ground d1 o1 }]
  target : q.dst = [{ off := 0, len := n, place := .ground d2 o2 }]
  whole : q.len = n
  untouched : q.next = 0
  bytes : 0 < n
  fits : n ≤ 4096
  core : q.owner = .core c tag
  free : ∀ t ∈ (getDie s d).txq, t.owner = .none

theorem GroundDma.id_eq (h : GroundDma s d i q d1 o1 d2 o2 n c tag) : q.id = i := by
  have := List.find?_some h.found
  simpa using this

theorem GroundDma.getDma_begun (h : GroundDma s d i q d1 o1 d2 o2 n c tag) :
    getDma (updDma s d i (fun q => { q with next := n })) d i = some { q with next := n } :=
  getDma_updDma (fun q => { q with next := n }) (fun _ => rfl) h.found

/-- The request is done with what its one unit leaves of it and of the state. -/
theorem GroundDma.complete (h : GroundDma s d i q d1 o1 d2 o2 n c tag) {s1 : State}
    (hm : dmaMove (updDma s d i (fun q => { q with next := n })) d q 0 (.ground d1 o1) (.ground d2 o2) n = s1) {status : Status} {lost : NSet}
    (h1 : getDma s1 d i = some { q with next := n, status := status, lost := lost }) :
    ∃ units q2, dmaComplete d i ext s = dmaDone (updDma s1 d i (fun q => { q with busy := tdel q.busy 0, units := units })) d q2 ∧
      q2.id = i ∧ q2.owner = .core c tag ∧ q2.status = status := by
  obtain ⟨units, settled⟩ := dmaSettle_core h1 h.core h.idle (by show min q.len 4096 ≤ n; rw [h.whole]; omega)
  have unit := dmaUnit_ground (s := s) (d := d) (ext := ext) h.source h.target h.whole h.untouched h.bytes h.fits
  rw [h.id_eq, hm, settled] at unit
  have done := getDma_updDma (fun q => { q with busy := tdel q.busy 0, units := units }) (fun _ => rfl) h1
  rw [h.idle] at done
  have ended : dmaEnd { q with next := n, status := status, lost := lost, busy := [], units := units } ≤ n := by
    rw [dmaEnd_whole (by exact h.goes)]; exact h.whole.le
  have fuel : dmaFuel q = 1 + 1 := by
    rw [dmaFuel, dmaPiece_ground h.source h.target, h.whole, cdiv]
    have bytes := h.bytes; have fits := h.fits
    omega
  have more : q.next < dmaEnd q := by rw [dmaEnd_whole h.goes, h.whole, h.untouched]; exact h.bytes
  refine ⟨units, _, dmaComplete_advanced h.up h.found h.movers ?_ done ended rfl, h.id_eq, h.core, rfl⟩
  rw [fuel, dmaAdvance_unit h.found more (dmaHeldUp_idle h.free) unit, dmaAdvance_ended done ended]

theorem dmaDone_ok (ho : q.owner = .core c tag) (hs : q.status = .ok) :
    dmaDone s d q = updDie s d (fun x => { x with dmas := x.dmas.filter (fun p => p.id != q.id) }) := by
  simp only [dmaDone, ho, hs, if_true]

theorem dmaDone_failed (ho : q.owner = .core c tag) (hs : q.status ≠ .ok) (hm : q.status ≠ .memUe) :
    dmaDone s d q = updCore (updDie s d (fun x => { x with dmas := x.dmas.filter (fun p => p.id != q.id) })) d c (fun k => endJob k q.status) := by
  simp only [dmaDone, ho]
  rw [if_neg hs, if_neg hm]

/-- The state once the bytes of such a request have moved. -/
def movedState (s : State) (d i d1 o1 d2 o2 n : Nat) : State :=
  updDie { updDie (updDma s d i (fun q => { q with next := n })) d1 (fun x => dieGndTouch x o1 n) with fresh := s.fresh + 1 } d2
    (fun x => dieGndWrite x o2 (memRead (getDie s d1).gnd.cells o1 n))

theorem GroundDma.dmaMove_eq (h : GroundDma s d i q d1 o1 d2 o2 n c tag) (hp : gndPoisoned (getDie s d1).gnd o1 n = false)
    (apart : d1 ≠ d2 ∨ o1 + n ≤ o2 ∨ o2 + n ≤ o1) (h1 : pathTo s d (.ground d1 o1) = true) (h2 : pathTo s d (.ground d2 o2) = true) :
    dmaMove (updDma s d i (fun q => { q with next := n })) d q 0 (.ground d1 o1) (.ground d2 o2) n = movedState s d i d1 o1 d2 o2 n := by
  have touched (u : State) (p : Place) : pathTo (updDie u d1 (fun x => dieGndTouch x o1 n)) d p = pathTo u d p :=
    pathTo_updDie (f := fun x => dieGndTouch x o1 n) rfl d p
  have move := dmaMove_ground (updDma s d i (fun q => { q with next := n })) d q 0 d1 o1 d2 o2 n h.source h.bytes
    (by rw [gnd_updDma]; exact hp) apart (by rw [pathTo_updDma]; exact h1) (by rw [touched, pathTo_updDma]; exact h2)
  rw [gnd_updDma] at move
  exact move

theorem GroundDma.getDma_movedState (h : GroundDma s d i q d1 o1 d2 o2 n c tag) :
    getDma (movedState s d i d1 o1 d2 o2 n) d i = some { q with next := n } := by
  have touched := getDma_other (updDma s d i (fun q => { q with next := n })) d d1 i (fun x => dieGndTouch x o1 n) rfl
  rw [movedState, getDma_other _ _ _ _ _ (dieGndWrite_dmas ..)]
  exact touched.trans h.getDma_begun

theorem cells_movedState (s : State) (d i d1 o1 d2 o2 n e a : Nat) : memGet (getDie (movedState s d i d1 o1 d2 o2 n) e).gnd.cells a =
    if e = d2 ∧ o2 ≤ a ∧ a < o2 + n then memGet (getDie s d1).gnd.cells (o1 + (a - o2)) else memGet (getDie s e).gnd.cells a := by
  have before (e : Nat) : (getDie (updDie (updDma s d i (fun q => { q with next := n })) d1 (fun x => dieGndTouch x o1 n)) e).gnd.cells =
      (getDie s e).gnd.cells := by
    rw [cells_other _ _ _ _ (getDie_touch_cells ..), gnd_updDma]
  have drawn (u : State) (k e : Nat) : getDie { u with fresh := k } e = getDie u e := rfl
  rw [movedState, getDie_updDie]
  simp only [drawn]
  by_cases here : e = d2
  · subst here
    rw [if_pos rfl, dieGndWrite_cells, memGet_memWrite, memRead_length, before]
    simp only [true_and]
    split
    · rw [memRead_eq_map, nth_map_range _ _ _ _ (by omega)]
    · rfl
  · rw [if_neg here, if_neg (fun both => here both.1), before]

/-- R174: the bytes of one unit between places that its die reaches, which share none. -/
theorem GroundDma.moves (h : GroundDma s d i q d1 o1 d2 o2 n c tag) (hs : q.status = .ok) (hp : gndPoisoned (getDie s d1).gnd o1 n = false)
    (apart : d1 ≠ d2 ∨ o1 + n ≤ o2 ∨ o2 + n ≤ o1) (h1 : pathTo s d (.ground d1 o1) = true) (h2 : pathTo s d (.ground d2 o2) = true) :
    ∃ t, exec (.dmaRequestComplete d i ext) s = .next t ∧ getDma t d i = none ∧
      ∀ e a, memGet (getDie t e).gnd.cells a =
        if e = d2 ∧ o2 ≤ a ∧ a < o2 + n then memGet (getDie s d1).gnd.cells (o1 + (a - o2)) else memGet (getDie s e).gnd.cells a := by
  obtain ⟨units, q2, complete, id, core, status⟩ := h.complete (ext := ext) (h.dmaMove_eq hp apart h1 h2) h.getDma_movedState
  rw [dmaDone_ok core (status.trans hs), id] at complete
  refine ⟨_, by rw [exec_dmaRequestComplete, complete], ?_, fun e a => ?_⟩
  · exact getDma_done
  · rw [gnd_updDmas, gnd_updDma, cells_movedState]

theorem endJob_scratch (k : Core) (st : Status) : (endJob k st).scratch = k.scratch := by
  unfold endJob; split <;> rfl

theorem endJob_running {k : Core} {r : Run} (hr : k.run = some r) (he : r.ended = none) (st : Status) :
    ∃ r', (endJob k st).run = some r' ∧ r'.ended = some st := by
  simp only [endJob, hr, endRun, he]
  exact ⟨_, rfl, rfl⟩

/-- R16: a source that the die cannot reach any more. -/
theorem GroundDma.loses (h : GroundDma s d i q d1 o1 d2 o2 n c tag) (hs : q.status = .ok) (h1 : pathTo s d (.ground d1 o1) = false) {r : Run}
    (hr : (getCore s d c).run = some r) (he : r.ended = none) :
    ∃ t, exec (.dmaRequestComplete d i ext) s = .next t ∧ getDma t d i = none ∧ SameMemory s t ∧
      ∃ r', (getCore t d c).run = some r' ∧ r'.ended = some .dieUnreachable := by
  have move : dmaMove (updDma s d i (fun q => { q with next := n })) d q 0 (.ground d1 o1) (.ground d2 o2) n =
      dmaLost (updDma s d i (fun q => { q with next := n })) d q 0 := by
    simp only [dmaMove, pathTo_updDma, h1, Bool.not_false, if_true]
  have lost : getDma (dmaLost (updDma s d i (fun q => { q with next := n })) d q 0) d i =
      some { q with next := n, status := .dieUnreachable, lost := sadd q.lost 0 } := by
    have id := h.id_eq
    subst id
    rw [dmaLost, getDma_updDma _ (fun q => by simp only [dmaFail]; split <;> rfl) h.getDma_begun]
    simp only [dmaFail, hs, if_true]
  obtain ⟨units, q2, complete, id, core, status⟩ := h.complete (ext := ext) move lost
  rw [dmaDone_failed core (status ▸ Status.noConfusion) (status ▸ Status.noConfusion), id, status] at complete
  refine ⟨_, by rw [exec_dmaRequestComplete, complete], ?_, ?_, ?_⟩
  · rw [getDma_updCore]; exact getDma_done
  · exact same_trans (same_trans (same_trans (same_trans (same_updDma s d i _) (same_updDma _ d q.id _)) (same_updDma _ d i _)) (same_updDmas _ d _))
      (same_setCore (endJob_scratch _ _))
  · rw [updCore, getCore_setCore_same]
    refine endJob_running (r := r) ?_ he _
    rw [getCore_updDmas, getCore_updDma, dmaLost, getCore_updDma, getCore_updDma, hr]

end

/-! The obligation -/

/-- Settles O40: a waiting record is the first that is found; a cache fetches from handles that never left their ring; a DMA of one unit ends by
GroundDma.moves or GroundDma.loses. -/
theorem chainedWaitsCachesAndDmaProceed : Obligations.ChainedWaitsCachesAndDmaProceed := by
  refine ⟨fun s d r l m hp hs h3 ht hq hl => exec_chainedJobWaitTimeout_record d hp hs h3 ht hq hl, fun s d p g hd hp hg hc ho hr => ?_,
    fun s d i ext q hd hq hm ha hb hs => ⟨fun hn => exec_dmaRequestComplete_begun hd hq hm ha hb hn, ?_, ?_⟩⟩
  · obtain ⟨cache, pool⟩ := cacheFetch_fresh g ho hr
    refine ⟨_, exec_handleCacheFetch_low hd hp hg hc, ?_, ?_⟩ <;> rw [getDie_setDie_same]
    · exact cache
    · exact pool
  · intro d1 o1 d2 o2 n c tag src dst len next h0 hn owner free
    exact GroundDma.moves ⟨hd, hq, hm, ha, hb, src, dst, len, next, h0, hn, owner, free⟩ hs
  · intro d1 o1 d2 o2 n c tag r src dst len next h0 hn owner free path hr he
    exact GroundDma.loses ⟨hd, hq, hm, ha, hb, src, dst, len, next, h0, hn, owner, free⟩ hs path hr he

end Sys2Proof.Proofs
end

section
/-! PROOFS. The packet that an output's scheduler chooses leaves a port, or crosses a bridge. -/

namespace Sys2Proof.Proofs

open Sys2Proof.Machine Sys2Proof.Laws

/-! A port starts a packet (R272, R273, R279, R306) -/

theorem outOf_tset_same (x : Die) (o : Nat) (u : OutQ) : outOf { x with outs := tset x.outs o u } o = u := tget_tset_same ..

theorem shaperTake_outs (x : Die) (l q n : Nat) : (shaperTake x l q n).outs = x.outs := by
  unfold shaperTake; split <;> rfl

theorem shaperTake_txS (x : Die) (l q n : Nat) : (portOf (shaperTake x l q n) l).txS = (portOf x l).txS := by
  unfold shaperTake
  split
  · rfl
  · rw [portOf_tset_same]

/-- Die x once its port l has started packet e, which uses buffer b of its far end and leaves queues u. -/
def startedDie (x : Die) (l : Nat) (e : Held) (u : OutQ) (b : Nat) : Die :=
  let x1 := shaperTake { x with outs := tset x.outs l { u with q := takeOut u.q e } } l e.q (pktLen e.pkt)
  { x1 with ports := tset x1.ports l { portOf x1 l with txS := tset (portOf x1 l).txS b (tget (portOf x1 l).txS b 0 + chargeOf (pktLen e.pkt)) } }

theorem outOf_startedDie (x : Die) (l : Nat) (e : Held) (u : OutQ) (b : Nat) :
    outOf (startedDie x l e u b) l = { u with q := u.q.erase e } := by
  show tget (shaperTake _ _ _ _).outs l outReset = _
  rw [shaperTake_outs, tget_tset_same, takeOut]

theorem txS_startedDie (x : Die) (l : Nat) (e : Held) (u : OutQ) (b : Nat) :
    tget (portOf (startedDie x l e u b) l).txS b 0 = tget (portOf x l).txS b 0 + chargeOf (pktLen e.pkt) := by
  unfold startedDie
  extract_lets x1
  have kept : (portOf x1 l).txS = (portOf x l).txS := shaperTake_txS ..
  rw [portOf_tset_same, tget_tset_same, kept]

/-- The state once port l has sent packet e, which uses buffer b of its far end (the shared one where shr holds): by the port's role and version and
the packet's kind. -/
def departed (s : State) (d l : Nat) (e : Held) (u : OutQ) (b : Nat) (shr : Bool) : State :=
  let s1 := setDie s d (startedDie (getDie s d) l e u b)
  let leaves (p : Packet) : State := dropHeld (portTx (emit s1 (.packet d l p)) d l (pktLen e.pkt) p.hdr) d e
  if isTrunk (getDie s d) l && linkKind (hKIND e.pkt.hdr) then leaves (stampLink e.pkt (time16 s d))
  else if isTrunk (getDie s d) l then leaves { e.pkt with hdr := setH (setH e.pkt.hdr 40 40 (b2n shr)) 39 34 (hHOPS e.pkt.hdr + 1) }
  else if (portOf (getDie s d) l).major = 1 then t1Send s1 d l e
  else leaves { e.pkt with hdr := setRoute e.pkt.hdr 0 }

theorem packetTransmit_eq (d l : Nat) (s : State) : packetTransmit d l s =
    if !dieRuns s d || !portSends (portOf (getDie s d) l) || decide (96 ≤ l) then s
    else match schedule (outOf (getDie s d) l) (eligible s d l) (swWeight (getDie s d) l) (regFld (getDie s d) (rSW_PORT l 4) 7 0) with
      | none => s
      | some (e, u) => match portCredit (getDie s d) l e with
        | none => s
        | some (b, shr) => departed s d l e u b shr := rfl

theorem exec_packetTransmit_chosen {s : State} {d l b : Nat} {shr : Bool} {e : Held} {u : OutQ} (hr : dieRuns s d = true) (hl : l < 96)
    (hp : portSends (portOf (getDie s d) l) = true)
    (hs : schedule (outOf (getDie s d) l) (eligible s d l) (swWeight (getDie s d) l) (regFld (getDie s d) (rSW_PORT l 4) 7 0) = some (e, u))
    (hc : portCredit (getDie s d) l e = some (b, shr)) :
    exec (.packetTransmit d l) s = .next (drainTick (tellDrained s (departed s d l e u b shr) d l)) := by
  have sends : (!dieRuns s d || !portSends (portOf (getDie s d) l) || decide (96 ≤ l)) = false := by
    rw [hr, hp, decide_eq_false (by omega)]; rfl
  show Host.Outcome.next (drainTick (tellDrained s (packetTransmit d l s) d l)) = _
  simp only [packetTransmit_eq, sends, hs, hc, Bool.false_eq_true, if_false]

/-! A packet crosses a bridge (R13, R15, R294) -/

/-- The state once bridge b of die d has moved its packet, which leaves queues u, into a buffer of n credit units under key at die t, then y. -/
def bridged (s : State) (d b t key n : Nat) (e : Held) (u : OutQ) (y : Die) : State :=
  setDie (setDie s d { getDie s d with outs := tset (getDie s d).outs (96 + b) { u with q := takeOut u.q e } }) t
    { y with brs := tset y.brs b { bridgeOf y b with use := tset (bridgeOf y b).use key (tget (bridgeOf y b).use key 0 + n) } }

theorem outOf_bridged {d t : Nat} (h : t ≠ d) (s : State) (b key n : Nat) (e : Held) (u : OutQ) (y : Die) :
    outOf (getDie (bridged s d b t key n e u y) d) (96 + b) = { u with q := u.q.erase e } := by
  rw [bridged, getDie_setDie, if_neg h.symm, getDie_setDie_same, outOf_tset_same, takeOut]

theorem use_bridged (s : State) (d b t key n : Nat) (e : Held) (u : OutQ) (y : Die) :
    tget (bridgeOf (getDie (bridged s d b t key n e u y) t) b).use key 0 = tget (bridgeOf y b).use key 0 + n := by
  rw [bridged, getDie_setDie_same]
  simp only [bridgeOf, tget_tset_same]

/-- R15, R294, R302, R431: what die t, which was y, makes of packet e1 in its buffer h, which a bridge has brought there as e. -/
def bridgeEnd (y : Die) (s : State) (t : Nat) (e e1 : Held) (h : Nat) : State :=
  if !e.more.isEmpty then dropHeld (if y.flt = 0 || e.more.length < 2 then copies s t e1 h e.more else s) t e1
  else if e.od = t then
    (if e.op = 100 then takeAt s t e1
     else if portSends (getPort s t e.op) then joinQueue s t e.op e1 else discard s t e1 nDOWN)
  else if !reaches s t e.od then loseHeld s t e1
  else if y.flt = 1 ∧ !hESC e.pkt.hdr ∧ e.op < 96 ∧ isTrunk (getDie s e.od) e.op then
    decide' s t { e1 with pkt := { e.pkt with hdr := setH (setH e.pkt.hdr 28 28 1) 29 29 (b2n e.dl) } } false e.came
  else toward s t { e1 with pkt := { e.pkt with hdr := selvageEsc y e.pkt.hdr } }

section
variable {s : State} {y : Die} {t h : Nat} {e e1 : Held}

theorem bridgeEnd_copies (hm : e.more ≠ []) :
    bridgeEnd y s t e e1 h = dropHeld (if y.flt = 0 ∨ e.more.length < 2 then copies s t e1 h e.more else s) t e1 := by
  simp only [bridgeEnd, List.isEmpty_eq_false_iff.mpr hm, Bool.not_false, if_true, Bool.or_eq_true, decide_eq_true_eq]

section
variable (hm : e.more = [])
include hm

theorem bridgeEnd_here (ht : e.od = t) (hp : e.op = 100) : bridgeEnd y s t e e1 h = takeAt s t e1 := by
  simp only [bridgeEnd, hm, ht, hp, List.isEmpty_nil, Bool.not_true, Bool.false_eq_true, if_false, if_true]

theorem bridgeEnd_output (ht : e.od = t) (hp : e.op ≠ 100) :
    bridgeEnd y s t e e1 h = if portSends (getPort s t e.op) = true then joinQueue s t e.op e1 else discard s t e1 nDOWN := by
  simp only [bridgeEnd, hm, ht, hp, List.isEmpty_nil, Bool.not_true, Bool.false_eq_true, if_false, if_true]

theorem bridgeEnd_lost (ht : e.od ≠ t) (hr : reaches s t e.od = false) : bridgeEnd y s t e e1 h = loseHeld s t e1 := by
  simp only [bridgeEnd, hm, ht, hr, List.isEmpty_nil, Bool.not_true, Bool.not_false, Bool.false_eq_true, if_false, if_true]

section
variable (ht : e.od ≠ t) (hr : reaches s t e.od = true)
include ht hr

theorem bridgeEnd_decides (hf : y.flt = 1) (he : hESC e.pkt.hdr = false) (ho : e.op < 96) (hk : isTrunk (getDie s e.od) e.op = true) :
    bridgeEnd y s t e e1 h = decide' s t { e1 with pkt := { e.pkt with hdr := setH (setH e.pkt.hdr 28 28 1) 29 29 (b2n e.dl) } } false e.came := by
  simp only [bridgeEnd, hm, ht, hr, hf, he, ho, hk, List.isEmpty_nil, Bool.not_true, Bool.not_false, Bool.false_eq_true, if_false, if_true, and_self]

theorem bridgeEnd_onward (ha : y.flt ≠ 1 ∨ hESC e.pkt.hdr = true ∨ 96 ≤ e.op ∨ isTrunk (getDie s e.od) e.op = false) :
    bridgeEnd y s t e e1 h = toward s t { e1 with pkt := { e.pkt with hdr := selvageEsc y e.pkt.hdr } } := by
  have plain : ¬(y.flt = 1 ∧ (!hESC e.pkt.hdr) = true ∧ e.op < 96 ∧ isTrunk (getDie s e.od) e.op = true) := by
    rintro ⟨flt, esc, out, trunk⟩
    rw [Bool.not_eq_true'] at esc
    rcases ha with h | h | h | h
    · exact h flt
    · exact absurd (h.symm.trans esc) Bool.noConfusion
    · omega
    · exact absurd (h.symm.trans trunk) Bool.noConfusion
  simp only [bridgeEnd, hm, ht, hr, plain, List.isEmpty_nil, Bool.not_true, Bool.false_eq_true, if_false]

end
end

theorem takeAt_request {src id n : Nat} (h : e1.eng = some (src, id, n)) :
    takeAt s t e1 = dropHeld (updReq s t id (fun q => { q with way := none })) t e1 := by
  simp only [takeAt, h]

theorem takeAt_other (h : e1.eng = none) : takeAt s t e1 = consumeAt s t e1 := by
  simp only [takeAt, h]

end

/-- The credit that a packet finds over bridge b at the die y beyond it (R279). -/
def farCredit (y : Die) (b : Nat) (e : Held) : Option Nat :=
  bridgeCredit y b (min e.hop 1) (vcOf (hCLASS e.pkt.hdr) (hESC e.pkt.hdr)) (hDL e.pkt.hdr) (chargeOf (pktLen e.pkt))

theorem bridgeHop_eq (d b : Nat) (s : State) : bridgeHop d b s =
    if !dieRuns s d || (bridgeOf (getDie s d) b).failed then s
    else match bridgeTo s.variant d b with
      | none => s
      | some t =>
        if !dieLives s t then s
        else match schedule (outOf (getDie s d) (96 + b)) (fun e => (farCredit (getDie s t) b e).isSome) (fun _ => 17) 0 with
          | none => s
          | some (e, u) => match farCredit (getDie s t) b e with
            | none => s
            | some key => match allocBuf (getDie s t) (poolFor (pktLen e.pkt)) 12
                { refs := 1, grp := 12, units := poolUnits (poolFor (pktLen e.pkt)), credit := some (96 + b, key), req := none } with
              | none => s
              | some (h, y1) => bridgeEnd (getDie s t) (dropHeld (bridged s d b t key (poolUnits (poolFor (pktLen e.pkt))) e u y1) d e) t e
                  { e with buf := some h, ein := s.now, inp := 96 + b, hop := e.hop + 1, fg := none } h := rfl

theorem exec_bridgeHop_chosen {s : State} {d b t key h : Nat} {e : Held} {u : OutQ} {y1 : Die} (hr : dieRuns s d = true)
    (hf : (bridgeOf (getDie s d) b).failed = false) (ht : bridgeTo s.variant d b = some t) (hl : dieLives s t = true)
    (hs : schedule (outOf (getDie s d) (96 + b)) (fun e => (farCredit (getDie s t) b e).isSome) (fun _ => 17) 0 = some (e, u))
    (hc : farCredit (getDie s t) b e = some key)
    (ha : allocBuf (getDie s t) (poolFor (pktLen e.pkt)) 12
      { refs := 1, grp := 12, units := poolUnits (poolFor (pktLen e.pkt)), credit := some (96 + b, key), req := none } = some (h, y1)) :
    exec (.bridgeHop d b) s = .next (drainTick (bridgeEnd (getDie s t) (dropHeld (bridged s d b t key (poolUnits (poolFor (pktLen e.pkt))) e u y1) d e) t e
      { e with buf := some h, ein := s.now, inp := 96 + b, hop := e.hop + 1, fg := none } h)) := by
  have works : (!dieRuns s d || (bridgeOf (getDie s d) b).failed) = false := by rw [hr, hf]; rfl
  show Host.Outcome.next (drainTick (bridgeHop d b s)) = _
  simp only [bridgeHop_eq, works, ht, hl, hs, hc, ha, Bool.not_true, Bool.false_eq_true, if_false]

/-! The obligation -/

/-- Settles O42: the ports' cases are those of departed, the bridges' those of bridgeEnd. -/
theorem chosenPacketsLeaveOutputs : Obligations.ChosenPacketsLeaveOutputs := by
  intro s d e u hr x sent
  constructor
  · intro l b shr hl hp hs hc
    have leaves {v : State} (hv : departed s d l e u b shr = v) : sent l v := by
      show exec _ s = _
      rw [exec_packetTransmit_chosen hr hl hp hs hc, hv]
    refine ⟨setDie s d (startedDie x l e u b), ?_, rfl, ?_, fun trunk kind => leaves ?_, fun trunk kind => leaves ?_, fun port version => leaves ?_,
      fun port version => leaves ?_⟩
    · rw [getDie_setDie_same, outOf_startedDie]
    · rw [getPort, getDie_setDie_same, txS_startedDie]
    all_goals unfold x at *
    · simp only [departed, trunk, kind, Bool.and_false, Bool.false_eq_true, if_false, if_true]
    · simp only [departed, trunk, kind, Bool.and_true, if_true]
    · simp only [departed, port, version, Bool.false_and, Bool.false_eq_true, if_false]
    · simp only [departed, port, version, Bool.false_and, Bool.false_eq_true, if_false, if_true]
  · intro b t hf ht hd y cr n key h y1 hs hc ha hops
    refine ⟨bridged s d b t key n e u y1, ?_⟩
    intro e1 s2
    have ends {v : State} (hv : bridgeEnd y s2 t e e1 h = v) : hops v := by
      show exec _ s = _
      rw [exec_bridgeHop_chosen hr hf ht hd hs hc ha, ← hv]
    refine ⟨outOf_bridged (bridgeTo_ne ht) .., use_bridged .., fun more => ends (bridgeEnd_copies more), fun more => ⟨fun here die eng => ?_, fun here die src id n eng => ?_,
      fun here port => ends (bridgeEnd_output more here port), fun far lost => ends (bridgeEnd_lost more far lost), fun far way => ⟨fun flt esc out trunk => ?_, fun other => ?_⟩⟩⟩
    · exact ends ((bridgeEnd_here more here die).trans (takeAt_other eng))
    · exact ends ((bridgeEnd_here more here die).trans (takeAt_request eng))
    · exact ends (bridgeEnd_decides more far way flt esc out trunk)
    · exact ends (bridgeEnd_onward more far way other)

end Sys2Proof.Proofs
end

section
/-! PROOFS. A row of column sums folded into the accumulator. -/

namespace Sys2Proof.Proofs

open Sys2Proof.Machine Sys2Proof.Laws

/-! What a unit of a core leaves once it has written its die and its core -/

section
variable (s : State) (d c : Nat) (k : Core)

theorem gnd_put (x : Die) : (getDie (setCore (setDie s d x) d c k) d).gnd = x.gnd := by
  rw [getDie_setCore, if_pos rfl, getDie_setDie_same]

theorem same_put (h : k.scratch = (getCore s d c).scratch) : SameMemory s (setCore (setDie s d (getDie s d)) d c k) :=
  same_trans (same_setDie_self s d) (same_setCore (by rw [getCore_setDie_self]; exact h))

theorem same_tellPos : SameMemory s (tellPos s d c) := by
  intro e
  simp only [getCore_tellPos, getDie_tellPos, implies_true, and_self]

end

/-- Conditions joined to what is there already may be joined to each other first. -/
theorem or_foldl_or {α : Type} {n : Nat} (f : α → BitVec n) (l : List α) (a : BitVec n) :
    a ||| l.foldl (fun b p => b ||| f p) 0 = l.foldl (fun b p => b ||| f p) a := by
  have hom := List.foldl_hom (a ||| ·) (g₁ := fun b p => b ||| f p) (g₂ := fun b p => b ||| f p) (l := l) (init := 0)
    (fun b p => BitVec.or_assoc a b (f p))
  rw [← hom]
  simp only [BitVec.ofNat_eq_ofNat, BitVec.or_zero]

/-! One row's columns (R77, R79) -/

/-- R79, R83: the word that a column's sum makes of the word w of row u, and the conditions that it raises. -/
def foldWord (r : Run) (u : RowUpd) (p : Nat × ColSum) (w : AccWord) : AccWord × Word32 :=
  accUpdate w p.2 (srGen (dSeed r.job) (accCoord (dSrTag r.job) 0 u.row p.1) u.step)

/-- The table of words, the conditions and the count of roundings after one more column of row u. -/
def foldCol (r : Run) (u : RowUpd) (a : Tbl AccWord × Word32 × Nat) (p : Nat × ColSum) : Tbl AccWord × Word32 × Nat :=
  let w := foldWord r u p (tget a.1 (32 * u.row + p.1) accEmpty)
  (tset a.1 (32 * u.row + p.1) w.1, a.2.1 ||| w.2, a.2.2 + b2n (bit w.2 7))

/-- R77: the core whose row u is empty where the pass replaces it. -/
def openRow (k : Core) (u : RowUpd) : Core :=
  if u.replace then foldUpto 32 k (fun k c => { k with acc := tset k.acc (32 * u.row + c) accEmpty }) else k

/-- The word of column j of row u that the column's sum is folded into. -/
def rowWord (k : Core) (u : RowUpd) (j : Nat) : AccWord := if u.replace then accEmpty else tget k.acc (32 * u.row + j) accEmpty

theorem tget_emptied (k : Core) (row n j : Nat) (h : j < n) :
    tget (foldUpto n k (fun k c => { k with acc := tset k.acc (32 * row + c) accEmpty })).acc (32 * row + j) accEmpty = accEmpty := by
  induction n with
  | zero => omega
  | succ n ih =>
    rw [foldUpto_succ, tget_tset]
    split
    · rfl
    · exact ih (by omega)

theorem tget_openRow (k : Core) (u : RowUpd) {j : Nat} (h : j < 32) : tget (openRow k u).acc (32 * u.row + j) accEmpty = rowWord k u j := by
  unfold openRow rowWord
  split
  · exact tget_emptied k u.row 32 j h
  · rfl

section
variable {r : Run} {u : RowUpd}

theorem tget_foldCol (a : Tbl AccWord × Word32 × Nat) (p : Nat × ColSum) (j : Nat) :
    tget (foldCol r u a p).1 (32 * u.row + j) accEmpty =
      if j = p.1 then (foldWord r u p (tget a.1 (32 * u.row + j) accEmpty)).1 else tget a.1 (32 * u.row + j) accEmpty := by
  simp only [foldCol, tget_tset, Nat.add_left_cancel_iff]
  by_cases h : j = p.1
  · rw [if_pos h, if_pos h, h]
  · rw [if_neg h, if_neg h]

theorem column_ne {l : List (Nat × ColSum)} {p q : Nat × ColSum} (once : q.1 ∉ l.map (·.1)) (hp : p ∈ l) : p.1 ≠ q.1 :=
  fun e => once (e ▸ List.mem_map_of_mem hp)

theorem tget_foldCols_other {l : List (Nat × ColSum)} {j : Nat} (h : j ∉ l.map (·.1)) (a : Tbl AccWord × Word32 × Nat) :
    tget (l.foldl (foldCol r u) a).1 (32 * u.row + j) accEmpty = tget a.1 (32 * u.row + j) accEmpty := by
  induction l generalizing a with
  | nil => rfl
  | cons q l ih =>
    obtain ⟨first, later⟩ := not_or.mp (List.mem_cons.not.mp h)
    rw [List.foldl_cons, ih later, tget_foldCol, if_neg first]

/-- Columns that are all different each fold into the word that stands there before. -/
theorem tget_foldCols {l : List (Nat × ColSum)} (hl : (l.map (·.1)).Nodup) (a : Tbl AccWord × Word32 × Nat) {p : Nat × ColSum} (hp : p ∈ l) :
    tget (l.foldl (foldCol r u) a).1 (32 * u.row + p.1) accEmpty = (foldWord r u p (tget a.1 (32 * u.row + p.1) accEmpty)).1 := by
  induction l generalizing a with
  | nil => cases hp
  | cons q l ih =>
    obtain ⟨once, rest⟩ := List.nodup_cons.mp hl
    rw [List.foldl_cons]
    rcases List.mem_cons.mp hp with rfl | later
    · rw [tget_foldCols_other once, tget_foldCol, if_pos rfl]
    · rw [ih rest _ later, tget_foldCol, if_neg (column_ne once later)]

theorem foldCols_status {l : List (Nat × ColSum)} (hl : (l.map (·.1)).Nodup) (a : Tbl AccWord × Word32 × Nat) :
    (l.foldl (foldCol r u) a).2.1 = l.foldl (fun b p => b ||| (foldWord r u p (tget a.1 (32 * u.row + p.1) accEmpty)).2) a.2.1 := by
  induction l generalizing a with
  | nil => rfl
  | cons q l ih =>
    obtain ⟨once, rest⟩ := List.nodup_cons.mp hl
    rw [List.foldl_cons, List.foldl_cons, ih rest]
    refine List.foldl_ext _ _ _ fun b p hp => ?_
    rw [tget_foldCol, if_neg (column_ne once hp)]

variable (k : Core)

theorem updateRow_acc : (updateRow k r u).1.acc = (u.cols.foldl (foldCol r u) ((openRow k u).acc, 0, 0)).1 := rfl

theorem updateRow_conds : (updateRow k r u).2.status = r.status ||| (u.cols.foldl (foldCol r u) ((openRow k u).acc, 0, 0)).2.1 := rfl

theorem tget_updateRow (hl : (u.cols.map (·.1)).Nodup) {p : Nat × ColSum} (hp : p ∈ u.cols) (h : p.1 < 32) :
    tget (updateRow k r u).1.acc (32 * u.row + p.1) accEmpty = (foldWord r u p (rowWord k u p.1)).1 := by
  rw [updateRow_acc, tget_foldCols hl _ hp, tget_openRow k u h]

theorem tget_updateRow_other {j : Nat} (hj : j ∉ u.cols.map (·.1)) (h : j < 32) :
    tget (updateRow k r u).1.acc (32 * u.row + j) accEmpty = rowWord k u j := by
  rw [updateRow_acc, tget_foldCols_other hj, tget_openRow k u h]

theorem updateRow_status (hl : (u.cols.map (·.1)).Nodup) (h : ∀ p ∈ u.cols, p.1 < 32) :
    (updateRow k r u).2.status = u.cols.foldl (fun b p => b ||| (foldWord r u p (rowWord k u p.1)).2) r.status := by
  rw [updateRow_conds, foldCols_status hl, or_foldl_or]
  exact List.foldl_ext _ _ _ fun b p hp => by rw [tget_openRow k u (h p hp)]

end

/-! The update of a row (R58, R79) -/

/-- A core without the oldest of its rows of column sums. -/
def taken (k : Core) (rest : List RowUpd) : Core := { k with accq := rest }

/-- The die, the core and the job once row u is updated and, where its pass has STREAM, converted. -/
def foldedRow (x : Die) (k : Core) (r : Run) (u : RowUpd) : Die × Core × Run :=
  match u.conv with
  | none => (x, (updateRow k r u).1, (updateRow k r u).2)
  | some p => convertAccRow x (updateRow k r u).1 (updateRow k r u).2 p u.row u.o u.n0 u.step u.ordinal u.wr

theorem foldedRow_plain {u : RowUpd} (h : u.conv = none) (x : Die) (k : Core) (r : Run) :
    foldedRow x k r u = (x, (updateRow k r u).1, (updateRow k r u).2) := by
  simp only [foldedRow, h]

theorem foldedRow_stream {u : RowUpd} {p : ConvParams} (h : u.conv = some p) (x : Die) (k : Core) (r : Run) :
    foldedRow x k r u = convertAccRow x (updateRow k r u).1 (updateRow k r u).2 p u.row u.o u.n0 u.step u.ordinal u.wr := by
  simp only [foldedRow, h]

/-- A conversion reads the row's words and writes none of them. -/
theorem foldedRow_only (x : Die) (k : Core) (r : Run) (u : RowUpd) :
    ScratchOnly (updateRow k r u).1 (foldedRow x k r u).2.1 ∧ StatusOnly (updateRow k r u).2 (foldedRow x k r u).2.2 := by
  unfold foldedRow
  split
  · exact ⟨scratchOnly_refl _, statusOnly_refl _⟩
  · exact convertAccRow_only ..

theorem foldedRow_acc (x : Die) (k : Core) (r : Run) (u : RowUpd) : (foldedRow x k r u).2.1.acc = (updateRow k r u).1.acc := by
  obtain ⟨⟨m, only⟩, -⟩ := foldedRow_only x k r u
  rw [only]

theorem foldedRow_accq (x : Die) (k : Core) (r : Run) {u : RowUpd} (h : ∀ p ∈ u.cols, p.1 < 32) : (foldedRow x k r u).2.1.accq = k.accq := by
  obtain ⟨⟨m, only⟩, -⟩ := foldedRow_only x k r u
  obtain ⟨⟨a, p, row⟩, -⟩ := updateRow_only k r u h
  rw [only, row]

theorem foldedRow_arrDone (x : Die) (k : Core) (r : Run) {u : RowUpd} (h : ∀ p ∈ u.cols, p.1 < 32) :
    (foldedRow x k r u).2.2.arrDone = r.arrDone := by
  obtain ⟨-, job, -⟩ := updateRow_only k r u h
  obtain ⟨_, _, _, only⟩ := statusOnly_trans job (foldedRow_only x k r u).2
  rw [only]

theorem updateRow_scratch (k : Core) (r : Run) {u : RowUpd} (h : ∀ p ∈ u.cols, p.1 < 32) : (updateRow k r u).1.scratch = k.scratch := by
  obtain ⟨⟨a, p, row⟩, -⟩ := updateRow_only k r u h
  rw [row]

/-- The job after a row of update u: the last row counts the pass as done. -/
def rowCounted (r : Run) (u : RowUpd) : Run := if u.last then arrFinish r else r

theorem rowCounted_arrDone (r : Run) (u : RowUpd) : (rowCounted r u).arrDone = if u.last then r.arrDone + 1 else r.arrDone := by
  unfold rowCounted; split <;> rfl

theorem rowCounted_status (r : Run) (u : RowUpd) : (rowCounted r u).status = r.status := by
  unfold rowCounted; split <;> rfl

theorem rowCounted_digest (r : Run) (u : RowUpd) : (rowCounted r u).digest = r.digest := by
  unfold rowCounted; split <;> rfl

/-- The state with what update u leaves in the die, the core and the job of core c of die d. -/
def rowWritten (s : State) (d c : Nat) (u : RowUpd) (z : Die × Core × Run) : State :=
  let t := setCore (setDie s d z.1) d c (setRun z.2.1 (rowCounted z.2.2 u))
  if u.last then tellPos t d c else t

section
variable {s : State} {d c : Nat} {u : RowUpd}

theorem getCore_rowWritten (z : Die × Core × Run) : getCore (rowWritten s d c u z) d c = setRun z.2.1 (rowCounted z.2.2 u) := by
  unfold rowWritten
  extract_lets t
  split
  · rw [getCore_tellPos, put_core]
  · exact put_core ..

theorem gnd_rowWritten (z : Die × Core × Run) : (getDie (rowWritten s d c u z) d).gnd = z.1.gnd := by
  unfold rowWritten
  extract_lets t
  split
  · rw [getDie_tellPos, gnd_put]
  · exact gnd_put ..

theorem same_rowWritten {k : Core} (h : k.scratch = (getCore s d c).scratch) (r : Run) : SameMemory s (rowWritten s d c u (getDie s d, k, r)) := by
  have put := same_put s d c (setRun k (rowCounted r u)) h
  unfold rowWritten
  extract_lets t
  split
  · exact same_trans put (same_tellPos _ _ _)
  · exact put

theorem accUpdateStep_eq (d c : Nat) (mismatch : Bool) (s : State) : accUpdateStep d c mismatch s =
    if !dieUp s d then s
    else match (getCore s d c).run, (getCore s d c).accq with
      | some r, u :: rest =>
        if mismatch then coreStruck (setCore s d c (bumpCheck (getCore s d c) u.row)) d c 0x20
        else rowWritten s d c u (foldedRow (getDie s d) (taken (getCore s d c) rest) r u)
      | _, _ => s := rfl

section
variable {r : Run} {rest : List RowUpd} (hu : dieUp s d = true) (hr : (getCore s d c).run = some r) (hq : (getCore s d c).accq = u :: rest)
include hu hr hq

theorem exec_accUpdate_folds :
    exec (.accUpdate d c false) s = .next (rowWritten s d c u (foldedRow (getDie s d) (taken (getCore s d c) rest) r u)) := by
  show Host.Outcome.next (accUpdateStep d c false s) = _
  simp only [accUpdateStep_eq, hu, hr, hq, Bool.not_true, Bool.false_eq_true, if_false]

theorem exec_accUpdate_mismatch :
    exec (.accUpdate d c true) s = .next (coreStruck (setCore s d c (bumpCheck (getCore s d c) u.row)) d c 0x20) := by
  show Host.Outcome.next (accUpdateStep d c true s) = _
  simp only [accUpdateStep_eq, hu, hr, hq, Bool.not_true, Bool.false_eq_true, if_false, if_true]

/-- R72, R106, R425: what a residue mismatch leaves of the core, and asks for. -/
theorem accUpdate_mismatch_strikes :
    ∃ t, exec (.accUpdate d c true) s = .next t ∧ (getCore t d c).fenced = true ∧ (getCore t d c).aq = [] ∧ (getCore t d c).accq = [] ∧
      (∃ q, t.hoopQ = s.hoopQ ++ [q] ∧ q.act = 4 ∧ q.die = d ∧ q.unit = c) ∧
      (if u.row < 128 then (getCore t d c).rep0.chk = satInc 0xFF (getCore s d c).rep0.chk
        else (getCore t d c).rep1.chk = satInc 0xFF (getCore s d c).rep1.chk) := by
  obtain ⟨fenced, aq, accq, _, rep0, rep1, hoop⟩ := coreStruck_facts (setCore s d c (bumpCheck (getCore s d c) u.row)) d c 0x20
  rw [getCore_setCore_same] at rep0 rep1
  refine ⟨_, exec_accUpdate_mismatch hu hr hq, fenced, aq, accq, ⟨_, hoop, rfl, rfl, rfl⟩, ?_⟩
  rw [rep0, rep1, bumpCheck]
  split <;> rfl

end
end

/-- Settles O14: the columns of a row are different, so each folds into the word that rowWord gives; a conversion reads the row and writes
none of it (foldedRow_only). -/
theorem accumulatorUpdateFoldsOneRow : Obligations.AccumulatorUpdateFoldsOneRow := by
  intro s d c r u rest k old folded hu hr hq hcols hl
  refine ⟨?_, accUpdate_mismatch_strikes hu hr hq⟩
  obtain ⟨-, -, outside⟩ := updateRow_only (taken k rest) r u hcols
  refine ⟨_, rowCounted (foldedRow (getDie s d) (taken k rest) r u).2.2 u, exec_accUpdate_folds hu hr hq, ?_⟩
  rw [getCore_rowWritten, gnd_rowWritten, setRun_accq, setRun_acc, setRun_scratch]
  simp only [rowCounted_arrDone, rowCounted_status, rowCounted_digest, foldedRow_acc]
  refine ⟨foldedRow_accq _ _ r hcols, rfl, ?_, fun p hp => tget_updateRow _ hl hp (hcols p hp), fun j hj other => tget_updateRow_other _ other hj, outside,
    fun plain => ?_, fun p stream => ?_⟩
  · rw [foldedRow_arrDone _ _ r hcols]
  · rw [foldedRow_plain plain]
    exact ⟨same_rowWritten (updateRow_scratch (taken k rest) r hcols) _, updateRow_status _ hl hcols⟩
  · rw [foldedRow_stream stream]
    exact ⟨rfl, rfl, rfl, rfl⟩

end Sys2Proof.Proofs
end

section
/-! PROOFS. The completion of a vector instruction. -/

namespace Sys2Proof.Proofs

open Sys2Proof.Machine Sys2Proof.Laws

/-! The instruction leaves the engine (R128) -/

/-- The job that a vector instruction retires from, with the register that it has written, if any. -/
def retiredRun (r : Run) (reg : Option (Nat × Word64)) : Run :=
  { r with vecDone := r.vecDone + 1, pend := match reg with | some (g, _) => sdel r.pend g | none => r.pend }

section
variable (s : State) (d c : Nat) (x : Die) (k : Core) (r : Run) (o : VecOp) (rest : List VecOp)

theorem vq_vecRetire (reg : Option (Nat × Word64)) : (getCore (vecRetire s d c x k r o rest reg) d c).vq = rest := (vecRetire_core ..).1

theorem run_vecRetire (reg : Option (Nat × Word64)) : (getCore (vecRetire s d c x k r o rest reg) d c).run = some (retiredRun r reg) := by
  obtain ⟨-, run, -⟩ := vecRetire_core s d c x k r o rest reg
  rw [run]; rfl

theorem scratch_vecRetire (reg : Option (Nat × Word64)) : (getCore (vecRetire s d c x k r o rest reg) d c).scratch = k.scratch := by
  simp only [vecRetire, getCore_tellPos, put_core]
  cases reg with
  | none => rfl
  | some p => exact setReg_scratch ..

theorem gnd_vecRetire (reg : Option (Nat × Word64)) : (getDie (vecRetire s d c x k r o rest reg) d).gnd = x.gnd := by
  simp only [vecRetire, getDie_tellPos, gnd_put]

theorem greg_vecRetire_none (q : Nat) : greg (getCore (vecRetire s d c x k r o rest none) d c) q = greg k q := by
  obtain ⟨-, -, regs⟩ := vecRetire_core s d c x k r o rest none
  exact regs q

/-- The register of an instruction that has one holds its result. -/
theorem greg_vecRetire_some (g q : Nat) (v : Word64) :
    greg (getCore (vecRetire s d c x k r o rest (some (g, v))) d c) q = if q = g ∧ q ≠ 0 then v else greg k q := by
  obtain ⟨-, -, regs⟩ := vecRetire_core s d c x k r o rest (some (g, v))
  rw [regs]
  have same : (q = g ∧ g ≠ 0) = (q = g ∧ q ≠ 0) := propext (and_congr_right fun e => by rw [e])
  exact if_congr (iff_of_eq same) rfl rfl

theorem mem_pend_retiredRun (g q : Nat) (v : Word64) : q ∈ (retiredRun r (some (g, v))).pend ↔ q ∈ r.pend ∧ q ≠ g := mem_sdel ..

theorem same_vecRetire (reg : Option (Nat × Word64)) : SameMemory s (vecRetire s d c (getDie s d) (getCore s d c) r o rest reg) := by
  refine same_trans (same_put s d c _ ?_) (same_tellPos _ _ _)
  cases reg with
  | none => rfl
  | some p => exact setReg_scratch ..

end

/-! VKEEP (R126) -/

/-- The elements of operand A that pass VKEEP's comparison, each with its index. -/
def keepHits (x : Die) (k : Core) (r : Run) (o : VecOp) : List (F32 × Nat) :=
  (vecAs (coreByte x k) k r o).1.zipIdx.filter (fun p => keepPass (fld o.word 57 56) p.1 (o.thr.toNat % 2 ^ 32))

/-- The records of the first COUNT of them: where each is written, and its bytes. -/
def keepRecs (o : VecOp) (hits : List (F32 × Nat)) : List (Nat × List Byte) :=
  (hits.take o.d.count).zipIdx.map (fun p => (o.d.base + 8 * p.2, toLe 4 p.1.1 ++ toLe 4 ((o.idx.toNat + p.1.2) % 2 ^ 32)))

/-- The die and the core once records are written. -/
def storeRecs (x : Die) (k : Core) (recs : List (Nat × List Byte)) : Die × Core := recs.foldl (fun a q => coreStore a.1 a.2 q.1 q.2) (x, k)

theorem greg_storeRecs (x : Die) (k : Core) (recs : List (Nat × List Byte)) (q : Nat) : greg (storeRecs x k recs).2 q = greg k q := by
  obtain ⟨m, only⟩ := foldl_scratch' (fun (a : Die × Core) (q : Nat × List Byte) => coreStore a.1 a.2 q.1 q.2) (fun a q => coreStore_scratch a.1 a.2 q.1 q.2) recs x k
  rw [storeRecs, only]; rfl

theorem endRun_vecDone (r : Run) (st : Status) : (endRun r st).vecDone = r.vecDone := by unfold endRun; split <;> rfl

/-- VKEEP retires in either case; where its records lie in the core's map they are written, and the register holds their number. -/
theorem vecKeep_retires (s : State) (d c : Nat) (x : Die) (k : Core) (r : Run) (o : VecOp) (rest : List VecOp) :
    ∃ z r' reg, vecKeep s d c x k r o rest = vecRetire s d c z.1 z.2 r' o rest reg ∧ r'.vecDone = r.vecDone ∧
      (writeErr x (dGpart r.job) ((keepRecs o (keepHits x k r o)).map (fun q => (q.1, 8))) = none →
        z = storeRecs x k (keepRecs o (keepHits x k r o)) ∧ r'.pend = r.pend ∧
        reg = some (fld o.word 55 51, BitVec.ofNat 64 (keepHits x k r o).length)) := by
  generalize kept : vecKeep s d c x k r o rest = t
  unfold vecKeep at kept
  split at kept
  rename_i as' ka elements
  extract_lets thr hits recs r1 at kept
  have records : keepRecs o hits = recs.map (fun p => (o.d.base + 8 * p.1, toLe 4 p.2.1 ++ toLe 4 p.2.2)) := by
    simp only [keepRecs, recs, List.map_map]; rfl
  have found : keepHits x k r o = hits := by rw [keepHits, elements]
  have ranges : (keepRecs o hits).map (fun q => (q.1, 8)) = recs.map (fun p => (o.d.base + 8 * p.1, 8)) := by
    rw [records, List.map_map]; rfl
  have stored : storeRecs x k (keepRecs o hits) =
      recs.foldl (fun a p => coreStore a.1 a.2 (o.d.base + 8 * p.1) (toLe 4 p.2.1 ++ toLe 4 p.2.2)) (x, k) := by
    rw [records, storeRecs, List.foldl_map]
  rw [found, ranges, stored]
  subst kept
  split
  · next st refused => exact ⟨(x, k), _, none, rfl, endRun_vecDone .., fun allowed => absurd (refused.symm.trans allowed) (Option.some_ne_none st)⟩
  · exact ⟨_, _, _, rfl, rfl, fun _ => ⟨rfl, rfl, rfl⟩⟩

/-! Each instruction's completion (R123 to R126) -/

/-- R125: the job once a VRED has reduced the elements v of operand A to y. -/
def reducedRun (r : Run) (o : VecOp) (v : List F32 × Word32) (y : F32 × Word32) : Run :=
  { r with vstatus := r.vstatus ||| v.2 ||| y.2, digest := digUnits r.digest (dSrTag r.job) (digBase o.wr) [(0, y.1)] }

theorem reducedRun_vstatus (r : Run) (o : VecOp) (v : List F32 × Word32) (y : F32 × Word32) :
    (reducedRun r o v y).vstatus = r.vstatus ||| v.2 ||| y.2 := rfl

/-- R123, R124: the die, the core and the job once the results of a VOP or VFMA are written. -/
def resultsPut (x : Die) (k : Core) (r : Run) (o : VecOp) : Die × Core × Run :=
  let l := (upto o.n).map (vecResult (coreByte x k) k r o)
  vecPut x k { r with vstatus := l.foldl (fun a p => a ||| p.2) r.vstatus } o (o.n + 1) 0 (l.map (·.1))

theorem resultsPut_only (x : Die) (k : Core) (r : Run) (o : VecOp) :
    (∀ q, greg (resultsPut x k r o).2.1 q = greg k q) ∧ (resultsPut x k r o).2.2.vecDone = r.vecDone := by
  unfold resultsPut
  extract_lets l
  obtain ⟨⟨m, core⟩, _, _, _, job⟩ := vecPut_only x k { r with vstatus := l.foldl (fun a p => a ||| p.2) r.vstatus } o (o.n + 1) 0 (l.map (·.1))
  rw [core, job]
  exact ⟨fun _ => rfl, rfl⟩

section
variable {s : State} {d c : Nat} {r : Run} {o : VecOp} {rest : List VecOp}
  (hu : dieUp s d = true) (hr : (getCore s d c).run = some r) (hq : (getCore s d c).vq = o :: rest) (hw : vecWaits (getCore s d c) o = false)
include hu hr hq hw

theorem exec_vectorInstructionDone_keeps (h : opOf o.word = 0x2B) :
    exec (.vectorInstructionDone d c) s = .next (vecKeep s d c (getDie s d) (getCore s d c) r o rest) := by
  show Host.Outcome.next (vectorDone d c s) = _
  rw [getCore] at hr hq hw
  simp only [vectorDone, hu, hr, hq, hw, h, Bool.not_true, Bool.false_eq_true, if_false]
  rfl

theorem exec_vectorInstructionDone_reduces (h : opOf o.word = 0x2A) {v : List F32 × Word32} {y : F32 × Word32}
    (hv : vecAs (coreByte (getDie s d) (getCore s d c)) (getCore s d c) r o = v) (hy : vecReduce (fld o.word 57 54) v.1 = y) :
    exec (.vectorInstructionDone d c) s = .next (vecRetire s d c (getDie s d) (getCore s d c) (reducedRun r o v y) o rest
      (some (fld o.word 53 49, BitVec.ofNat 64 y.1))) := by
  show Host.Outcome.next (vectorDone d c s) = _
  rw [getCore] at hr hq hw hv
  simp only [vectorDone, hu, hr, hq, hw, h, hv, hy, Bool.not_true, Bool.false_eq_true, if_false]
  rfl

theorem exec_vectorInstructionDone_writes (h1 : opOf o.word ≠ 0x2A) (h2 : opOf o.word ≠ 0x2B) {z : Die × Core × Run}
    (hz : resultsPut (getDie s d) (getCore s d c) r o = z) :
    exec (.vectorInstructionDone d c) s = .next (vecRetire s d c z.1 z.2.1 z.2.2 o rest none) := by
  show Host.Outcome.next (vectorDone d c s) = _
  rw [getCore] at hr hq hw hz
  unfold resultsPut at hz
  simp only [vectorDone, hu, hr, hq, hw, hz, Bool.not_true, Bool.false_eq_true, if_false]

end

/-- Settles O16: whichever of the four instructions it is, the oldest one retires (vecRetire), and none but its own clause speaks of it. -/
theorem vectorInstructionDoneRetiresTheOldest : Obligations.VectorInstructionDoneRetiresTheOldest := by
  intro s d c r o rest x k rd as' holds reg hu hr hq hw
  by_cases keeps : opOf o.word = 0x2B
  · obtain ⟨z, r', v, retires, done, written⟩ := vecKeep_retires s d c x k r o rest
    refine ⟨_, retiredRun r' v, (exec_vectorInstructionDone_keeps hu hr hq hw keeps).trans (congrArg _ retires), vq_vecRetire .., run_vecRetire ..,
      congrArg (· + 1) done, fun _ other => absurd keeps other, fun other => absurd (keeps.symm.trans other) (by decide), ?_⟩
    intro _ hits recs allowed
    obtain ⟨rfl, pend, rfl⟩ := written allowed
    refine ⟨⟨scratch_vecRetire .., by rw [gnd_vecRetire]; rfl⟩, fun q => ?_, fun q => ?_⟩
    · rw [greg_vecRetire_some, greg_storeRecs]; rfl
    · rw [mem_pend_retiredRun, pend]
  by_cases reduces : opOf o.word = 0x2A
  · have retires := exec_vectorInstructionDone_reduces hu hr hq hw reduces rfl rfl
    refine ⟨_, retiredRun (reducedRun r o as' (vecReduce (fld o.word 57 54) as'.1)) _, retires, vq_vecRetire .., run_vecRetire .., rfl,
      fun other => absurd reduces other, fun _ => ⟨same_vecRetire _ _ _ _ _ _ _, reducedRun_vstatus r o _ _, fun q => greg_vecRetire_some .., fun q => mem_pend_retiredRun ..⟩,
      fun other => absurd other keeps⟩
  · obtain ⟨regs, done⟩ := resultsPut_only x k r o
    refine ⟨_, retiredRun _ none, exec_vectorInstructionDone_writes hu hr hq hw reduces keeps rfl, vq_vecRetire .., run_vecRetire ..,
      congrArg (· + 1) done, ?_, fun other => absurd other reduces, fun other => absurd other keeps⟩
    intro _ _ l z
    refine ⟨⟨scratch_vecRetire .., by rw [gnd_vecRetire]; rfl⟩, rfl, rfl, fun q => ?_⟩
    rw [greg_vecRetire_none, regs]

end Sys2Proof.Proofs
end

section
/-! PROOFS. Core instructions of the sequencer that touch no memory: scalar arithmetic, branches, their frame, badly formed words. -/

namespace Sys2Proof.Proofs

open Sys2Proof.Machine Sys2Proof.Laws

/-! Word arithmetic modulo 2^64 (R96) -/

theorem sub_eq_ofInt (a b : Word64) : a - b = BitVec.ofInt 64 ((a.toNat : Int) - b.toNat) := by
  apply BitVec.eq_of_toNat_eq
  rw [BitVec.toNat_sub, BitVec.toNat_ofInt]
  omega

theorem add_ofInt (a : Word64) (i : Int) : a + BitVec.ofInt 64 i = BitVec.ofInt 64 (a.toNat + i) := by
  rw [BitVec.ofInt_add, BitVec.ofInt_natCast, BitVec.ofNat_toNat, BitVec.setWidth_eq]

theorem shiftLeft_eq_ofNat (a : Word64) (n : Nat) : a <<< n = BitVec.ofNat 64 (a.toNat * 2 ^ n) := by
  apply BitVec.eq_of_toNat_eq
  rw [BitVec.toNat_shiftLeft, BitVec.toNat_ofNat, Nat.shiftLeft_eq]

theorem ushiftRight_eq_ofNat (a : Word64) (n : Nat) : a >>> n = BitVec.ofNat 64 (a.toNat / 2 ^ n) := by
  have small : a.toNat / 2 ^ n < 2 ^ 64 := (Nat.div_le_self ..).trans_lt a.isLt
  apply BitVec.eq_of_toNat_eq
  rw [BitVec.toNat_ushiftRight, BitVec.toNat_ofNat, Nat.shiftRight_eq_div_pow, Nat.mod_eq_of_lt small]

theorem sshiftRight_eq_ofInt (a : Word64) (n : Nat) : a.sshiftRight n = BitVec.ofInt 64 (a.toInt / 2 ^ n) := by
  rw [BitVec.sshiftRight, Int.shiftRight_eq_div_pow, Nat.cast_pow, Nat.cast_ofNat]

theorem signed_emod (n v : Nat) : signed n v % 2 ^ n = (v % 2 ^ n : Nat) := by
  unfold signed
  split
  · exact_mod_cast Nat.mod_mod ..
  · rw [Int.sub_emod_right]; exact_mod_cast Nat.mod_mod ..

/-- LIH (R112): a word whose low half is a's and whose high half is the immediate's. -/
theorem lih_eq_ofNat (a : Word64) (v : Nat) :
    (a &&& (0xFFFFFFFF : Word64)) ||| (BitVec.ofInt 64 (signed 32 v) <<< 32) = BitVec.ofNat 64 (2 ^ 32 * (v % 2 ^ 32) + a.toNat % 2 ^ 32) := by
  have high : (BitVec.ofInt 64 (signed 32 v) <<< 32).toNat = (v % 2 ^ 32) <<< 32 := by
    have imm := signed_emod 32 v
    rw [BitVec.toNat_shiftLeft, BitVec.toNat_ofInt, Nat.shiftLeft_eq, Nat.shiftLeft_eq]
    omega
  have low : (a &&& 0xFFFFFFFF : Word64).toNat = a.toNat % 2 ^ 32 := Nat.and_two_pow_sub_one_eq_mod a.toNat 32
  apply BitVec.eq_of_toNat_eq
  rw [BitVec.toNat_or, BitVec.toNat_ofNat, high, low, Nat.or_comm, ← Nat.shiftLeft_add_eq_or_of_lt (Nat.mod_lt _ (by decide)), Nat.shiftLeft_eq]
  omega

theorem toNat_ofInt_emod (v : Int) : ((BitVec.ofInt 64 v).toNat : Int) = v % 2 ^ 64 := by
  rw [BitVec.toNat_ofInt]; omega

theorem toNat_ofNat_emod (n : Nat) : ((BitVec.ofNat 64 n).toNat : Int) = (n : Int) % 2 ^ 64 := by
  rw [BitVec.toNat_ofNat]; omega

/-! What an instruction of the ALU writes (R112) -/

/-- The state after an instruction that writes v to g[D] and goes on. -/
def wrote (s : State) (d c : Nat) (k : Core) (r : Run) (w : Word64) (v : Word64) : State :=
  setCore s d c (setReg (issued k (runNext r)) (fD w) v)

theorem greg_wrote {w : Word64} (h : fD w ≠ 0) (s : State) (d c : Nat) (k : Core) (r : Run) (v : Word64) :
    greg (getCore (wrote s d c k r w v) d c) (fD w) = v := by
  rw [wrote, getCore_setCore_same, greg_setReg, if_pos ⟨rfl, h⟩]

section
variable {s : State} {d c op : Nat} {k : Core} {r : Run} {w : Word64}

/-- An ALU instruction writes what it computes from the core's registers, which the issue itself leaves alone. -/
theorem exec_alu_of {i : Instr} {f : Core → Word64 → Word64} (hi : exec i s = .next (alu op d c s f)) (h : Issues s d c op k r w) {v : Word64}
    (hv : f (issued k (runNext r)) w = v) : exec i s = .next (wrote s d c k r w v) := by
  rw [hi, alu_of h, hv, wrote]

theorem exec_add_of (h : Issues s d c 0x01 k r w) :
    exec (.add d c) s = .next (wrote s d c k r w (BitVec.ofNat 64 ((greg k (fA w)).toNat + (greg k (fB w)).toNat))) :=
  exec_alu_of rfl h (BitVec.add_def ..)

theorem exec_sub_of (h : Issues s d c 0x02 k r w) :
    exec (.sub d c) s = .next (wrote s d c k r w (BitVec.ofInt 64 (((greg k (fA w)).toNat : Int) - (greg k (fB w)).toNat))) :=
  exec_alu_of rfl h (sub_eq_ofInt ..)

theorem exec_mul_of (h : Issues s d c 0x03 k r w) :
    exec (.mul d c) s = .next (wrote s d c k r w (BitVec.ofNat 64 ((greg k (fA w)).toNat * (greg k (fB w)).toNat))) :=
  exec_alu_of rfl h (BitVec.mul_def ..)

theorem exec_addi_of (h : Issues s d c 0x0B k r w) :
    exec (.addi d c) s = .next (wrote s d c k r w (BitVec.ofInt 64 ((greg k (fA w)).toNat + fImm w))) :=
  exec_alu_of rfl h (add_ofInt ..)

theorem exec_shl_of (h : Issues s d c 0x07 k r w) :
    exec (.shl d c) s = .next (wrote s d c k r w (BitVec.ofNat 64 ((greg k (fA w)).toNat * 2 ^ ((greg k (fB w)).toNat % 64)))) :=
  exec_alu_of rfl h (shiftLeft_eq_ofNat ..)

end

/-! The obligations about the ALU -/

/-- Settles O1: a register is a table entry but for g0, and each result is of an integer modulo 2^64. -/
theorem registerZeroReadsZeroAndIgnoresWrites : Obligations.RegisterZeroReadsZeroAndIgnoresWrites := by
  refine ⟨fun k i j v => ⟨greg_zero k, if_pos rfl, ?_⟩, fun s d c k r w hD => ?_⟩
  · rw [greg_setReg]
    simp only [and_comm]
  · refine ⟨fun h => ⟨_, exec_add_of h, ?_⟩, fun h => ⟨_, exec_sub_of h, ?_⟩, fun h => ⟨_, exec_mul_of h, ?_⟩, fun h => ⟨_, exec_shl_of h, ?_⟩,
      fun h => ⟨_, exec_addi_of h, ?_⟩⟩
    · rw [greg_wrote hD, toNat_ofNat_emod, Nat.cast_add]
    · rw [greg_wrote hD, toNat_ofInt_emod]
    · rw [greg_wrote hD, toNat_ofNat_emod, Nat.cast_mul]
    · rw [greg_wrote hD, toNat_ofNat_emod, Nat.cast_mul, Nat.cast_pow, Nat.cast_ofNat]
    · rw [greg_wrote hD, toNat_ofInt_emod]; rfl

/-- Settles O2: NOP goes on; each other instruction writes the value of its row of Table 5-6. -/
theorem scalarArithmeticWritesItsResult : Obligations.ScalarArithmeticWritesItsResult := by
  intro s d c k r w
  refine ⟨fun h => congrArg _ (issue_of h _), exec_add_of, exec_sub_of, exec_mul_of, fun h => exec_alu_of rfl h rfl, fun h => exec_alu_of rfl h rfl,
    fun h => exec_alu_of rfl h rfl, exec_addi_of, fun h => exec_alu_of rfl h rfl, fun h => exec_alu_of rfl h ?_⟩
  have imm : fld w 31 0 % 2 ^ 32 = fld w 31 0 := Nat.mod_eq_of_lt (fld_lt w 31 0)
  exact (lih_eq_ofNat ..).trans (by rw [imm]; rfl)

/-- Settles O3: the shifts of a word are products and quotients by powers of 2. -/
theorem shiftsAndCompareWriteTheirResult : Obligations.ShiftsAndCompareWriteTheirResult := by
  intro s d c k r w
  refine ⟨exec_shl_of, fun h => exec_alu_of rfl h (ushiftRight_eq_ofNat ..), fun h => exec_alu_of rfl h (sshiftRight_eq_ofInt ..), fun h => exec_alu_of rfl h ?_⟩
  simp only [greg_issued, BitVec.slt_eq_decide, decide_eq_true_eq]

/-! Branches (R113) -/

/-- R113: where a jump to a target leaves a job: there, or ended with BAD_INSN outside the image. -/
def Lands (r : Run) (target : Int) (r' : Run) : Prop :=
  if 0 ≤ target ∧ target < dProgLen r.job then r' = { r with pc := target.toNat } else r'.ended = some .badInsn ∧ r'.posts = []

theorem Lands.jump {r : Run} (h : r.ended = none) (target : Int) : Lands r target (runJump r target) := by
  have := lands_runJump r target
  unfold Lands
  split
  · next inside => rwa [if_pos inside] at this
  · next outside => rw [if_neg outside] at this; exact this h

theorem Lands.next {r : Run} (h : r.ended = none) : Lands r (r.pc + 1) (runNext r) := by
  have := lands_runNext r
  unfold Lands
  split
  · next inside => rwa [if_pos inside] at this
  · next outside => rw [if_neg outside] at this; exact this h

section
variable {s : State} {d c op : Nat} {k : Core} {r : Run} {w : Word64}

theorem exec_branch_of {i : Instr} {cond : Word64 → Word64 → Bool} (hi : exec i s = .next (branch op d c s cond)) (h : Issues s d c op k r w) {target : Int}
    (ht : target = if cond (greg k (fA w)) (greg k (fB w)) then r.pc + fImm w else r.pc + 1) :
    ∃ r', Lands r target r' ∧ exec i s = .next (setCore s d c (issued k r')) := by
  refine ⟨_, ?_, hi.trans (congrArg _ (issue_of h _))⟩
  subst ht
  split
  · exact .jump h.going.1 _
  · exact .next h.going.1

end

/-- Settles O4: a branch that is taken jumps by IMM, and every other one goes on. -/
theorem branchesMoveThePc : Obligations.BranchesMoveThePc := by
  intro s d c k r w
  refine ⟨fun h => exec_branch_of rfl h ?_, fun h => exec_branch_of rfl h ?_, fun h => exec_branch_of rfl h ?_, fun h => exec_branch_of rfl h ?_,
    fun h => exec_branch_of rfl h ?_, fun h => ⟨_, Lands.jump h.going.1 _, congrArg _ (issue_of h _)⟩, fun h => ⟨_, Lands.jump h.going.1 _, congrArg _ (issue_of h _)⟩⟩
  · simp only [beq_iff_eq]; rfl
  · simp only [bne_iff_ne, ite_not]; rfl
  · simp only [BitVec.slt_eq_decide, decide_eq_true_eq]; rfl
  · simp only [BitVec.slt_eq_decide, Bool.not_eq_true', decide_eq_false_iff_not, ite_not]; rfl
  · simp only [BitVec.ult_eq_decide, decide_eq_true_eq]; rfl

/-! The frame of the sequencer's instructions (R96, R97, R109, R113) -/

/-- R134: CTRD writes g[D], or ends the job. -/
theorem frame_ctrd {s t : State} {d c : Nat} (h : exec (.ctrd d c) s = .next t) : FrameOf s t d c (some (fD (nextWord s d c))) := by
  cases h
  refine frame_issue fun k r w _ hk hw => ?_
  subst hk hw
  dsimp only
  split
  · exact frame_set (sameUnits_issued _ _) fun q _ => greg_issued ..
  · exact frame_reg rfl

/-- R99: FENCE goes on, or the core stays as it is. -/
theorem frame_fence {s t : State} {d c : Nat} (h : exec (.fence d c) s = .next t) : FrameOf s t d c none := by
  cases h
  refine frame_issue fun k r w _ hk _ => ?_
  subst hk
  split
  · exact frame_set (sameUnits_issued _ _) fun q _ => greg_issued ..
  · exact frame_self ..

theorem setPos_ids (s : State) (id pos : Nat) : (setPos s id pos).ops.map (·.id) = s.ops.map (·.id) := by
  have moved (f : Op → Op) (hf : ∀ o, (f o).id = o.id) : (updOp s id f).ops.map (·.id) = s.ops.map (·.id) := by
    simp only [updOp, List.map_map]
    refine List.map_congr_left fun o _ => ?_
    simp only [Function.comp]
    split
    · exact hf o
    · rfl
  unfold setPos
  split
  · rfl
  · dsimp only
    split
    · rename_i o _ _
      obtain ⟨_, _, sent⟩ := putProgress_sent (updOp s id fun o => { o with pos := pos, wpos := pos }) { o with pos := pos } false
      rw [sent]
      exact moved _ fun _ => rfl
    · exact moved _ fun _ => rfl

theorem tellPos_ids (s : State) (d c : Nat) : (tellPos s d c).ops.map (·.id) = s.ops.map (·.id) := by
  unfold tellPos
  split
  · split
    · exact setPos_ids ..
    · rfl
  · rfl

/-- What PROG does beside the frame: its operation's position moves, and its progress entry is sent (R109, R367). -/
def PositionTold (s t : State) (d c : Nat) : Prop :=
  ∃ u ops out wait, OnlyCore s u d c ∧ t = { u with ops := ops, out := out, itgWait := wait } ∧ ops.map (·.id) = s.ops.map (·.id)

theorem positionTold_of_onlyCore {s t : State} {d c : Nat} (h : OnlyCore s t d c) : PositionTold s t d c := by
  refine ⟨t, t.ops, t.out, t.itgWait, h, rfl, ?_⟩
  rcases h with rfl | ⟨_, rfl⟩ <;> rfl

theorem positionTold_tellPos (s : State) (d c : Nat) (k : Core) : PositionTold s (tellPos (setCore s d c k) d c) d c := by
  obtain ⟨ops, os, wait, told⟩ := tellPos_only (setCore s d c k) d c
  refine ⟨setCore s d c k, ops, _, wait, .inr ⟨k, rfl⟩, told, ?_⟩
  have ids := tellPos_ids (setCore s d c k) d c
  rwa [told] at ids

/-- R109: PROG writes no register, and beside the frame tells the position. -/
theorem frame_prog {s t : State} {d c : Nat} (h : exec (.prog d c) s = .next t) :
    (SameUnits (getCore s d c) (getCore t d c) ∧ (∀ q, none ≠ some q → greg (getCore t d c) q = greg (getCore s d c) q) ∧ SameMemory s t) ∧
      PositionTold s t d c := by
  cases h
  rcases issue_cases 0x17 d c s (fun k r w => tellPos (setCore s d c (issued k (runNext { r with prog := gnat k (fA w) % 2 ^ 32 }))) d c)
    with stays | ⟨k, r, w, runs, bad⟩ | ⟨k, r, w, runs, told⟩
  · rw [stays]
    exact ⟨⟨sameUnits_refl _, fun _ _ => rfl, same_refl s⟩, positionTold_of_onlyCore (.inl rfl)⟩
  · obtain ⟨rfl, -⟩ := issueWord_core runs
    obtain ⟨only, frame⟩ := frame_set (s := s) (d := d) (c := c) (dst := none) (k := setRun (getCore s d c) (endRun r .badInsn)) ⟨_, _, _, rfl⟩ fun _ _ => rfl
    rw [bad]
    exact ⟨frame, positionTold_of_onlyCore only⟩
  · obtain ⟨rfl, -⟩ := issueWord_core runs
    rw [told]
    refine ⟨⟨?_, fun q _ => ?_, same_trans (same_setCore (issued_scratch _ _)) (same_tellPos _ _ _)⟩, positionTold_tellPos ..⟩
    · rw [getCore_tellPos, getCore_setCore_same]; exact sameUnits_issued ..
    · rw [getCore_tellPos, getCore_setCore_same]; exact greg_issued ..

/-- Settles O5: the ALU, JAL and CTRD write g[D]; the branches, JR, NOP, FENCE and PROG write no register. -/
theorem scalarInstructionsChangeOnlyTheirRegister : Obligations.ScalarInstructionsChangeOnlyTheirRegister := by
  intro s t d c
  refine ⟨?_, ?_, frame_prog⟩
  · have alu {op : Nat} {f : Core → Word64 → Word64} {i : Instr} (hi : exec i s = .next (alu op d c s f)) (h : exec i s = .next t) :
        FrameOf s t d c (some (fD (nextWord s d c))) := by
      cases hi.symm.trans h; exact frame_alu
    simp only [List.forall_mem_cons]
    refine ⟨alu rfl, alu rfl, alu rfl, alu rfl, alu rfl, alu rfl, alu rfl, alu rfl, alu rfl, alu rfl, alu rfl, alu rfl, alu rfl, fun h => ?_, frame_ctrd,
      fun _ h => absurd h List.not_mem_nil⟩
    cases h
    refine frame_issue fun k r w _ hk hw => ?_
    subst hk hw
    exact frame_reg rfl
  · have branch {op : Nat} {cond : Word64 → Word64 → Bool} {i : Instr} (hi : exec i s = .next (branch op d c s cond)) (h : exec i s = .next t) :
        FrameOf s t d c none := by
      cases hi.symm.trans h; exact frame_branch
    have goes {op : Nat} {f : Run → Core → Word64 → Run} {i : Instr} (hi : exec i s = .next (issue op d c s fun k r w => setCore s d c (issued k (f r k w))))
        (h : exec i s = .next t) : FrameOf s t d c none := by
      cases hi.symm.trans h
      refine frame_issue fun k r w _ hk _ => ?_
      subst hk
      exact frame_set (sameUnits_issued _ _) fun q _ => greg_issued ..
    simp only [List.forall_mem_cons]
    exact ⟨goes (f := fun r _ _ => runNext r) rfl, branch rfl, branch rfl, branch rfl, branch rfl, branch rfl,
      goes (f := fun r k w => runJump r (greg k (fA w) + immWord w).toInt) rfl, frame_fence, fun _ h => absurd h List.not_mem_nil⟩

/-! Words that are no instruction (R110, R111) -/

/-- The command i issues the instructions of opcode op on core c of die d. -/
def IssuesOp (d c : Nat) (i : Instr) (op : Nat) : Prop := ∃ f : State → Core → Run → Word64 → State, ∀ s, exec i s = .next (issue op d c s (f s))

/-- R110, R111: a word at the PC that is no instruction, or a badly formed one of the command's opcode, ends the job. -/
theorem exec_badWord {s : State} {d c op : Nat} {i : Instr} {k : Core} {r : Run} {w : Word64} (hi : IssuesOp d c i op) (hw : issueWord s d c = some (k, r, w))
    (bad : usedBits (opOf w) = none ∨ (opOf w = op ∧ wellWord w = false)) :
    ∃ r', exec i s = .next (setCore s d c { k with run := some r' }) ∧ r'.ended = some .badInsn ∧ r'.posts = [] := by
  obtain ⟨f, hf⟩ := hi
  obtain ⟨-, -, running, -⟩ := issueWord_core hw
  have refused : ((usedBits (opOf w)).isNone || (opOf w == op && !wellWord w)) = true := by
    rcases bad with h | ⟨h, ill⟩
    · rw [h]; rfl
    · rw [h, ill, beq_self_eq_true, Bool.not_false, Bool.and_true, Bool.or_true]
  refine ⟨endRun r .badInsn, ?_, ?_⟩
  · rw [hf, issue, hw]
    exact congrArg _ (if_pos refused)
  · simp only [endRun, running, and_self]

/-- Settles O6: every core instruction goes through issue, which refuses such a word before anything else. -/
theorem badInstructionWordsEndTheJob : Obligations.BadInstructionWordsEndTheJob := by
  intro s d c k r w hw p hp bad
  refine exec_badWord ?_ hw bad
  clear bad
  revert p
  simp only [List.forall_mem_cons]
  refine ⟨⟨_, fun _ => rfl⟩, ⟨_, fun _ => rfl⟩, ⟨_, fun _ => rfl⟩, ⟨_, fun _ => rfl⟩, ⟨_, fun _ => rfl⟩, ⟨_, fun _ => rfl⟩, ⟨_, fun _ => rfl⟩, ⟨_, fun _ => rfl⟩,
    ⟨_, fun _ => rfl⟩, ⟨_, fun _ => rfl⟩, ⟨_, fun _ => rfl⟩, ⟨_, fun _ => rfl⟩, ⟨_, fun _ => rfl⟩, ⟨_, fun _ => rfl⟩, ⟨_, fun _ => rfl⟩, ⟨_, fun _ => rfl⟩,
    ⟨_, fun _ => rfl⟩, ⟨_, fun _ => rfl⟩, ⟨_, fun _ => rfl⟩, ⟨_, fun _ => rfl⟩, ⟨_, fun _ => rfl⟩, ⟨_, fun _ => rfl⟩, ⟨_, fun _ => rfl⟩, ⟨_, fun _ => rfl⟩,
    ⟨_, fun _ => rfl⟩, ⟨_, fun _ => rfl⟩, ⟨_, fun _ => rfl⟩, ⟨_, fun _ => rfl⟩, ⟨_, fun _ => rfl⟩, ⟨_, fun _ => rfl⟩, ⟨_, fun _ => rfl⟩, ⟨_, fun _ => rfl⟩,
    ⟨_, fun _ => rfl⟩, ⟨_, fun _ => rfl⟩, ⟨_, fun _ => rfl⟩, ⟨_, fun _ => rfl⟩, ⟨_, fun _ => rfl⟩, ⟨_, fun _ => rfl⟩, ⟨_, fun _ => rfl⟩, ⟨_, fun _ => rfl⟩,
    ⟨_, fun _ => rfl⟩, ⟨_, fun _ => rfl⟩, ⟨_, fun _ => rfl⟩, ⟨_, fun _ => rfl⟩, ⟨_, fun _ => rfl⟩, ⟨_, fun _ => rfl⟩, ⟨_, fun _ => rfl⟩, fun _ h => absurd h List.not_mem_nil⟩

end Sys2Proof.Proofs
end

section
/-! PROOFS. Core instructions that access memory: loads, the store, the ground atomic, and what ends the job. -/

namespace Sys2Proof.Proofs

open Sys2Proof.Machine Sys2Proof.Laws

/-! What an access of the sequencer leaves alone -/

/-- R96: a register reads what was written to it, but for g0. -/
theorem greg_setReg_ne_zero (k : Core) (i j : Nat) (v : Word64) : greg (setReg k i v) j = if j = i ∧ j ≠ 0 then v else greg k j := by
  rw [greg_setReg]
  have same : (j = i ∧ i ≠ 0) ↔ (j = i ∧ j ≠ 0) := and_congr_right fun h => by rw [h]
  simp only [same]

theorem coreLoc_ground {x : Die} {gp a n o : Nat} (h : coreLoc x gp a n = some (false, o)) : o = a - gndBase ∧ 0x80000000 ≤ a := by
  rcases coreLoc_cases h with ⟨e, -⟩ | ⟨e, high⟩
  · exact absurd (congrArg Prod.fst e) Bool.false_ne_true
  · exact ⟨congrArg Prod.snd e, high⟩

/-- A die of which only the fault counts may have changed keeps its memories. -/
theorem same_of_faults {s t : State} (h : ∀ e, ∃ f, getDie t e = { getDie s e with faults := f }) : SameMemory s t := by
  intro e
  obtain ⟨f, hf⟩ := h e
  refine ⟨fun c a => ?_, fun a => by rw [hf], fun a => by rw [hf]⟩
  simp only [getCore, coreOf, hf]

theorem same_endBy {s : State} {d c : Nat} {k : Core} (h : k.scratch = (getCore s d c).scratch) (st : Status) : SameMemory s (endBy s d c k st) := by
  unfold endBy
  dsimp only
  split
  · exact same_trans (same_setCore h) (same_of_faults fun e => reportFault_die ..)
  · exact same_setCore h

theorem same_seqSeen (s : State) (d : Nat) (r : Run) (a n : Nat) : SameMemory s (seqSeen s d r a n) := by
  unfold seqSeen
  split
  · exact same_readRanges _ _ _ _
  · exact same_refl s

theorem getCore_seqSeen (s : State) (d : Nat) (r : Run) (a n e c : Nat) : getCore (seqSeen s d r a n) e c = getCore s e c := by
  unfold seqSeen
  split
  · exact getCore_readRanges ..
  · rfl

theorem greg_corePmcEvent (k : Core) (e n i : Nat) : greg (corePmcEvent k e n) i = greg k i := by
  simp only [greg, corePmcEvent_g]

/-- A core of which only the performance counters may have changed. -/
def Counted (k l : Core) : Prop := ∃ p, l = { k with pmc := p }

theorem counted_event (k : Core) (e n : Nat) : Counted k (corePmcEvent k e n) := ⟨_, rfl⟩

theorem counted_load (k : Core) (a : Nat) : Counted k (loadCounted k a) := by
  unfold loadCounted
  split
  · exact ⟨k.pmc, rfl⟩
  · exact counted_event ..

/-- The job on core c of die d has ended with st at the instruction i: its posts are discarded, and no byte of memory and no register has changed. -/
def EndsWithout (s : State) (d c : Nat) (k : Core) (i : Instr) (st : Status) : Prop :=
  ∃ t r', exec i s = .next t ∧ (getCore t d c).run = some r' ∧ r'.ended = some st ∧ r'.posts = [] ∧ SameMemory s t ∧ ∀ q, greg (getCore t d c) q = greg k q

/-- R110: the end of a job at an instruction whose reads have left u of the state. -/
theorem endsWithout_endBy {s u : State} {d c : Nat} {k k1 : Core} {r : Run} {i : Instr} {st : Status} (he : r.ended = none) (hu : SameMemory s u)
    (hk : getCore u d c = k) (h1 : Counted k k1) (hi : exec i s = .next (endBy u d c (issued k1 (endRun r st)) st)) : EndsWithout s d c k i st := by
  obtain ⟨p, rfl⟩ := h1
  refine ⟨_, _, hi, by rw [endBy_core]; exact issued_run .., ?_, ?_, same_trans hu (same_endBy (by rw [hk]; rfl) _), fun q => by rw [endBy_core]; rfl⟩
  · simp only [endRun, he]
  · simp only [endRun, he]

/-- A word of ground memory in the range is poisoned. -/
def Poisoned (x : Die) (gp a n : Nat) : Prop := ∃ o, coreLoc x gp a n = some (false, o) ∧ gndPoisoned x.gnd o n = true

theorem Poisoned.check {x : Die} {gp a n : Nat} (h : Poisoned x gp a n) : coreCheck x gp a n = some .memUe := by
  obtain ⟨o, loc, pois⟩ := h
  simp only [coreCheck, loc, pois, if_true]

theorem seqRead_poisoned {s : State} {d : Nat} {k : Core} {r : Run} {a n : Nat} (ha : a % n = 0) (h : Poisoned (getDie s d) (dGpart r.job) a n) :
    seqRead s d k r a n = .error .memUe := by
  obtain ⟨o, loc, pois⟩ := h
  simp only [seqRead, aligned, ha, if_true, coreRead, loc, pois]

/-! LD, SLD and CVLD (R113, R114, R117) -/

theorem run_issued_next (k : Core) (r : Run) : (issued k (runNext r)).run = some (goneOn r) := rfl

/-- What a good read of the sequencer leaves of the state (R142). -/
def readState (s : State) (d a n : Nat) : State := if a < spadEnd then s else setDie s d (dieGndTouch (getDie s d) (a - gndBase) n)

theorem getCore_readState (s : State) (d a n e c : Nat) : getCore (readState s d a n) e c = getCore s e c := getCore_seqRead ..

theorem same_readState (s : State) (d a n : Nat) : SameMemory s (readState s d a n) := same_seqRead s d a n

/-- The bytes that a core sees at an address. -/
def seenBytes (s : State) (d : Nat) (k : Core) (a n : Nat) : List Byte := (List.range n).map (fun j => coreByte (getDie s d) k (a + j))

/-- A job that goes on after a read, on a core whose scratchpad stays. -/
theorem goesOn_read {s : State} {d c a n : Nat} {k k2 : Core} {r : Run} (hk : getCore s d c = k) (hr : k2.run = some (goneOn r)) (hs : k2.scratch = k.scratch) :
    (getCore (setCore (readState s d a n) d c k2) d c).run = some (goneOn r) ∧ SameMemory s (setCore (readState s d a n) d c k2) :=
  ⟨by rw [getCore_setCore_same, hr], same_trans (same_readState s d a n) (same_setCore (by rw [getCore_readState, hk, hs]))⟩

section
variable {s : State} {d c : Nat} {k : Core} {r : Run} {w : Word64}

theorem exec_ld_read (h : Issues s d c 0x10 k r w) {bs : List Byte} {t : State} (hr : seqRead s d k r (effAddr k w) (2 ^ fld w 33 32) = .ok (bs, t)) :
    exec (.ld d c) s = .next (setCore t d c (setReg (issued (loadCounted k (effAddr k w)) (runNext r)) (fD w)
      (if bit w 34 then BitVec.ofInt 64 (signed (8 * 2 ^ fld w 33 32) (leNat bs)) else BitVec.ofNat 64 (leNat bs)))) := by
  refine congrArg _ ((issue_of h _).trans ?_)
  simp only [hr, orEnd]

theorem exec_sld_read (h : Issues s d c 0x13 k r w) {bs : List Byte} {t : State} (hr : seqRead s d k r (effAddr k w) 32 = .ok (bs, t)) :
    exec (.sld d c) s = .next (setCore t d c { issued (loadCounted k (effAddr k w)) (runNext r) with
      slots := tset (loadCounted k (effAddr k w)).slots (fld w 36 32) (BitVec.ofNat 256 (leNat bs)) }) := by
  refine congrArg _ ((issue_of h _).trans ?_)
  simp only [hr, orEnd, issued_slots]

theorem exec_cvld_read (h : Issues s d c 0x15 k r w) {bs : List Byte} {t : State} (hr : seqRead s d k r (effAddr k w) 32 = .ok (bs, t)) :
    exec (.cvld d c) s = .next (setCore t d c { issued (loadCounted k (effAddr k w)) (runNext r) with
      convs := tset (loadCounted k (effAddr k w)).convs (fld w 34 32) (BitVec.ofNat 256 (leNat bs)) }) := by
  refine congrArg _ ((issue_of h _).trans ?_)
  simp only [hr, orEnd, issued_convs]

/-- A read that is refused ends the job, whichever of the three asked for it. -/
theorem load_ends {i : Instr} {n op : Nat} {st : Status} (h : Issues s d c op k r w) (hr : seqRead s d k r (effAddr k w) n = .error st)
    (hi : ∀ e, seqRead s d k r (effAddr k w) n = .error e →
      exec i s = .next (endBy (seqSeen s d r (effAddr k w) n) d c (issued (loadCounted k (effAddr k w)) (endRun r e)) e)) :
    EndsWithout s d c k i st :=
  endsWithout_endBy h.going.1 (same_seqSeen _ _ _ _ _) (by rw [getCore_seqSeen, h.core_eq]) (counted_load ..) (hi _ hr)

theorem ld_ends {st : Status} (h : Issues s d c 0x10 k r w) (hr : seqRead s d k r (effAddr k w) (2 ^ fld w 33 32) = .error st) :
    EndsWithout s d c k (.ld d c) st :=
  load_ends h hr fun e he => congrArg _ ((issue_of h _).trans (by simp only [he, orEnd]))

theorem sld_ends {st : Status} (h : Issues s d c 0x13 k r w) (hr : seqRead s d k r (effAddr k w) 32 = .error st) : EndsWithout s d c k (.sld d c) st :=
  load_ends h hr fun e he => congrArg _ ((issue_of h _).trans (by simp only [he, orEnd]))

theorem cvld_ends {st : Status} (h : Issues s d c 0x15 k r w) (hr : seqRead s d k r (effAddr k w) 32 = .error st) : EndsWithout s d c k (.cvld d c) st :=
  load_ends h hr fun e he => congrArg _ ((issue_of h _).trans (by simp only [he, orEnd]))

end

/-- Settles O7: the bytes are those that the core sees (seqRead_ok), and the read leaves every byte as it was. -/
theorem loadsReadTheAddressedBytes : Obligations.LoadsReadTheAddressedBytes := by
  intro s d c k r w op n h a ha hn hc v done
  have hk := h.core_eq
  have read : seqRead s d k r (effAddr k w) n = .ok (seenBytes s d k a n, readState s d a n) := seqRead_ok ha hn hc
  obtain ⟨p, counted⟩ := counted_load k (effAddr k w)
  refine ⟨?_, ?_, ?_⟩
  · rintro rfl rfl
    refine ⟨_, exec_ld_read h read, goesOn_read hk (by rw [setReg_run, run_issued_next]) (by rw [setReg_scratch, counted]; rfl), fun q => ?_⟩
    rw [getCore_setCore_same, greg_setReg_ne_zero, counted]
    rfl
  · rintro rfl rfl
    refine ⟨_, exec_sld_read h read, goesOn_read hk rfl (by rw [counted]; rfl), fun i => ?_⟩
    rw [getCore_setCore_same, counted]
    exact tget_tset ..
  · rintro rfl rfl
    refine ⟨_, exec_cvld_read h read, goesOn_read hk rfl (by rw [counted]; rfl), fun i => ?_⟩
    rw [getCore_setCore_same, counted]
    exact tget_tset ..

/-! ST (R113) -/

theorem dieGndWrite_only (x : Die) (o : Nat) (bs : List Byte) : ∃ g f, dieGndWrite x o bs = { x with gnd := g, faults := f } := by
  have reads (ws : List Nat) (y : Die) : ∃ g f, ws.foldl (fun x w => dieGndTouch x (8 * w) 8) y = { y with gnd := g, faults := f } := by
    induction ws generalizing y with
    | nil => exact ⟨_, _, rfl⟩
    | cons w ws ih =>
      obtain ⟨g, f, h⟩ := ih (dieGndTouch y (8 * w) 8)
      exact ⟨g, f, h⟩
  obtain ⟨g, f, h⟩ := reads (partWords o bs.length) x
  exact ⟨gndWrite g o bs, f, by simp only [dieGndWrite, h]⟩

/-- R95: a write that is mapped and in the partition replaces its bytes of the core's map, in the scratchpad or in ground memory. -/
theorem coreWrite_ok {x : Die} {k : Core} {gp a : Nat} {bs : List Byte} (h : (coreLoc x gp a bs.length).isSome = true) :
    ∃ y l, coreWrite x k gp a bs = .ok (y, l) ∧ (∃ g f, y = { x with gnd := g, faults := f }) ∧ ScratchOnly k l ∧
      ∀ e, e < 0x60000 ∨ 0x80000000 ≤ e → coreByte y l e = if a ≤ e ∧ e < a + bs.length then nth bs (e - a) 0 else coreByte x k e := by
  obtain ⟨loc, hl⟩ := Option.isSome_iff_exists.mp h
  have spad : spadEnd = 0x60000 := rfl
  have base : gndBase = 0x80000000 := rfl
  unfold coreWrite
  rcases coreLoc_cases hl with ⟨rfl, low⟩ | ⟨rfl, high⟩
  · refine ⟨x, { k with scratch := memWrite k.scratch a bs }, by rw [hl], ⟨_, _, rfl⟩, ⟨_, rfl⟩, fun e he => ?_⟩
    unfold coreByte
    split
    · exact memGet_memWrite ..
    · rw [if_neg (by omega)]
  · refine ⟨dieGndWrite x (a - gndBase) bs, k, by rw [hl], dieGndWrite_only .., scratchOnly_refl k, fun e he => ?_⟩
    unfold coreByte
    split
    · rw [if_neg (by omega)]
    · rw [dieGndWrite_cells, memGet_memWrite]
      have range : (a - gndBase ≤ e - gndBase ∧ e - gndBase < a - gndBase + bs.length) ↔ (a ≤ e ∧ e < a + bs.length) := by omega
      have index : e - gndBase - (a - gndBase) = e - a := by omega
      simp only [range, index]

section
variable {s : State} {d c : Nat} {k : Core} {r : Run} {w : Word64}

theorem exec_st_written (h : Issues s d c 0x11 k r w) (ha : effAddr k w % 2 ^ fld w 33 32 = 0) {y : Die} {l : Core}
    (hw : coreWrite (getDie s d) k (dGpart r.job) (effAddr k w) (toLe (2 ^ fld w 33 32) (gnat k (fB w))) = .ok (y, l)) :
    exec (.st d c) s = .next (setCore (setDie s d y) d c (issued l (runNext r))) := by
  refine congrArg _ ((issue_of h _).trans ?_)
  simp only [aligned, ha, if_true, hw]
  rfl

theorem st_ends (h : Issues s d c 0x11 k r w)
    (bad : effAddr k w % 2 ^ fld w 33 32 ≠ 0 ∨ coreLoc (getDie s d) (dGpart r.job) (effAddr k w) (2 ^ fld w 33 32) = none) :
    EndsWithout s d c k (.st d c) .badAddr := by
  have refused : (do aligned (effAddr k w) (2 ^ fld w 33 32)
                     coreWrite (getDie s d) k (dGpart r.job) (effAddr k w) (toLe (2 ^ fld w 33 32) (gnat k (fB w)))) = Except.error Status.badAddr := by
    unfold aligned
    by_cases ha : effAddr k w % 2 ^ fld w 33 32 = 0
    · rw [if_pos ha]
      show coreWrite _ _ _ _ _ = _
      simp only [coreWrite, toLe_length, bad.resolve_left (not_not_intro ha)]
    · rw [if_neg ha]; rfl
  refine endsWithout_endBy h.going.1 (same_refl s) h.core_eq ⟨k.pmc, rfl⟩ (congrArg _ ((issue_of h _).trans ?_))
  simp only [refused, orEnd]

end

/-- Settles O8: the write replaces the addressed bytes of the core's map (coreWrite_ok) and only the core and its die's ground memory change. -/
theorem storeWritesTheLowBytesOfItsRegister : Obligations.StoreWritesTheLowBytesOfItsRegister := by
  intro s d c k r w h n a ha hloc
  have hk := h.core_eq
  have size : (toLe n (gnat k (fB w))).length = n := toLe_length ..
  obtain ⟨_, _, hw, ⟨g, f, rfl⟩, ⟨m, rfl⟩, bytes⟩ := coreWrite_ok (k := k) (bs := toLe n (gnat k (fB w))) (by rwa [size])
  refine ⟨_, exec_st_written h ha hw, ?_, fun e he => ?_, fun q => ?_, ?_, fun e he => ?_, fun e he => ?_, rfl, ?_⟩
  · rw [getCore_setCore_same]; rfl
  · rw [getCore_setCore_same, getDie_setCore, if_pos rfl, getDie_setDie_same]
    refine (bytes e he).trans ?_
    rw [size]
    split
    · exact nth_toLe _ _ _ (by omega)
    · rfl
  · rw [getCore_setCore_same]; rfl
  · rw [getCore_setCore_same]; exact ⟨_, _, _, rfl⟩
  · rw [getCore_setCore, if_neg fun hh => he hh.2]
    exact getCore_setDie_cores (by rfl) ..
  · rw [getDie_setCore, if_neg he, getDie_setDie, if_neg he]
  · rw [getDie_setCore, if_pos rfl, getDie_setDie_same]; exact ⟨_, _, _, rfl⟩

/-! GAT (R145, R147) -/

theorem mem_foldl_sadd (l : List Nat) (t : NSet) (i : Nat) : i ∈ l.foldl sadd t ↔ i ∈ t ∨ i ∈ l := by
  induction l generalizing t with
  | nil => simp
  | cons a l ih => rw [List.foldl_cons, ih, mem_sadd, List.mem_cons, or_assoc]

/-- R142: a read marks the words whose errors it meets, which then are as poisoned as before. -/
theorem gndPoisoned_gndTouch (g : Ground) (o n : Nat) : gndPoisoned (gndTouch g o n) o n = gndPoisoned g o n := by
  rw [Bool.eq_iff_iff]
  simp only [gndPoisoned, gndTouch, Bool.or_eq_true, List.any_eq_true, mem_foldl_sadd, List.mem_filter, Bool.not_eq_true']
  grind

/-- Table 6-3: the new value of the word under ADD64, SWAP64 and SMAX64. -/
def gatNew (aop x y : Nat) : Nat :=
  match aop with
  | 0 => (x + y) % 2 ^ 64
  | 1 => y
  | _ => if signed 64 x < signed 64 y then y else x

/-- R134: the fourth function of GAT is reserved. -/
theorem gat_function {w : Word64} (op : opOf w = 0x12) (well : wellWord w = true) : fld w 33 32 < 3 := by
  have reserved : reservedFn w = false := by
    simp only [wellWord, op, usedBits, Bool.and_eq_true, Bool.not_eq_true'] at well
    exact well.1.2
  simp only [reservedFn, op, beq_eq_false_iff_ne] at reserved
  have small := fld_lt w 33 32
  omega

theorem gndAtomic_word {g : Ground} {aop o y : Nat} (ha : aop < 3) (ho : o % 8 = 0) (hp : gndPoisoned g o 8 = false) :
    gndAtomic g aop o y = .ok (memNat g.cells o 8, { g with cells := memWrite g.cells o (toLe 8 (gatNew aop (memNat g.cells o 8) y)) }) := by
  have size : atomicSize aop = some 8 := by interval_cases aop <;> rfl
  have new : atomicValue (fun i => gndPoisoned g (o + 8 * i) 8) aop (memNat g.cells o 8) y = gatNew aop (memNat g.cells o 8) y := by
    interval_cases aop <;> rfl
  unfold gndAtomic
  simp only [size, ho, hp, new, ne_eq, not_true_eq_false, if_false, Bool.false_eq_true, and_false]

theorem gndAtomic_refused {g : Ground} {aop o y : Nat} (ha : aop < 3) :
    (o % 8 ≠ 0 → gndAtomic g aop o y = .error .badAddr) ∧ (o % 8 = 0 → gndPoisoned g o 8 = true → gndAtomic g aop o y = .error .memUe) := by
  have size : atomicSize aop = some 8 := by interval_cases aop <;> rfl
  unfold gndAtomic
  simp only [size]
  refine ⟨fun h => if_pos h, fun h hp => ?_⟩
  rw [if_neg (not_not_intro h), if_pos ⟨by omega, hp⟩]

/-- R113: what GAT asks of ground memory. -/
def gatAccess (s : State) (d : Nat) (k : Core) (r : Run) (w : Word64) : Except Status (Nat × Ground) :=
  match coreLoc (getDie s d) (dGpart r.job) (effAddr k w) 8 with
  | some (false, o) => gndAtomic (dieGndTouch (getDie s d) o 8).gnd (fld w 33 32) o (gnat k (fB w))
  | _ => .error .badAddr

section
variable {s : State} {d c : Nat} {k : Core} {r : Run} {w : Word64}

theorem exec_gat_of (h : Issues s d c 0x12 k r w) : exec (.gat d c) s =
    .next (orEnd (seqSeen s d { r with shared := true } (effAddr k w) 8) d c (corePmcEvent k 0x0A 1) { r with shared := true } (gatAccess s d k r w) fun (old, g) =>
      setCore (setDie s d { dieGndTouch (getDie s d) (effAddr k w - gndBase) 8 with gnd := g }) d c
        (setReg (issued (corePmcEvent k 0x0A 1) (runNext { r with shared := true })) (fD w) (BitVec.ofNat 64 old))) :=
  congrArg _ (issue_of h _)

theorem exec_gat_read (h : Issues s d c 0x12 k r w) {old : Nat} {g : Ground} (ha : gatAccess s d k r w = .ok (old, g)) : exec (.gat d c) s =
    .next (setCore (setDie s d { dieGndTouch (getDie s d) (effAddr k w - gndBase) 8 with gnd := g }) d c
      (setReg (issued (corePmcEvent k 0x0A 1) (runNext { r with shared := true })) (fD w) (BitVec.ofNat 64 old))) := by
  rw [exec_gat_of h, ha]
  rfl

theorem gat_ends {st : Status} (h : Issues s d c 0x12 k r w) (he : gatAccess s d k r w = .error st) : EndsWithout s d c k (.gat d c) st := by
  have hi := exec_gat_of h
  rw [he] at hi
  exact endsWithout_endBy (r := { r with shared := true }) h.going.1 (same_seqSeen _ _ _ _ _) (by rw [getCore_seqSeen, h.core_eq]) (counted_event ..) hi

theorem gatAccess_ground {o : Nat} (loc : coreLoc (getDie s d) (dGpart r.job) (effAddr k w) 8 = some (false, o)) :
    gatAccess s d k r w = gndAtomic (gndTouch (getDie s d).gnd o 8) (fld w 33 32) o (gnat k (fB w)) := by
  unfold gatAccess
  rw [loc]
  rfl

/-- R95: what is not a word of ground memory that the job may access. -/
theorem gatAccess_badAddr (h : Issues s d c 0x12 k r w)
    (bad : (effAddr k w % 8 ≠ 0 ∨ coreLoc (getDie s d) (dGpart r.job) (effAddr k w) 8 = none) ∨ effAddr k w < 0x80000000) :
    gatAccess s d k r w = .error .badAddr := by
  have base : gndBase = 0x80000000 := rfl
  cases loc : coreLoc (getDie s d) (dGpart r.job) (effAddr k w) 8 with
  | none => simp only [gatAccess, loc]
  | some l =>
    rcases coreLoc_cases loc with ⟨rfl, -⟩ | ⟨rfl, high⟩
    · simp only [gatAccess, loc]
    · rw [gatAccess_ground loc]
      rw [loc] at bad
      refine (gndAtomic_refused (gat_function h.op_eq h.well)).1 ?_
      rcases bad with (bad | bad) | bad
      · omega
      · cases bad
      · omega

theorem gatAccess_poisoned (h : Issues s d c 0x12 k r w) (ha : effAddr k w % 8 = 0) (hp : Poisoned (getDie s d) (dGpart r.job) (effAddr k w) 8) :
    gatAccess s d k r w = .error .memUe := by
  have base : gndBase = 0x80000000 := rfl
  obtain ⟨o, loc, pois⟩ := hp
  rw [gatAccess_ground loc]
  refine (gndAtomic_refused (gat_function h.op_eq h.well)).2 ?_ (by rwa [gndPoisoned_gndTouch])
  obtain ⟨offset, high⟩ := coreLoc_ground loc
  omega

end

/-- Settles O9: the word is read, replaced (gndAtomic_word) and written to g[D]. -/
theorem groundAtomicReturnsTheOldValue : Obligations.GroundAtomicReturnsTheOldValue := by
  intro s d c k r w o h aop a g x y loc ho hp new
  have access : gatAccess s d k r w = .ok (x, { gndTouch g o 8 with cells := memWrite g.cells o (toLe 8 (gatNew aop x y)) }) := by
    rw [gatAccess_ground loc, gndAtomic_word (gat_function h.op_eq h.well) ho (by rwa [gndPoisoned_gndTouch]), gndTouch_cells]
    rfl
  refine ⟨_, exec_gat_read h access, ?_, fun q => ?_, fun e => ?_, fun e => ?_⟩
  · rw [getCore_setCore_same, setReg_run]; exact run_issued_next ..
  · rw [getCore_setCore_same, greg_setReg_ne_zero, greg_issued, greg_corePmcEvent]
  · rw [gnd_put, memGet_memWrite, toLe_length]
    exact ite_congr rfl (fun inside => nth_toLe _ _ _ (by omega)) fun _ => rfl
  · rw [getCore_setCore_same, setReg_scratch, issued_scratch, corePmcEvent_scratch]

/-! VRED on a poisoned stream (R426) -/

/-- R111: without ASRC, VRED names no conversion. -/
theorem vred_plain {w : Word64} (op : opOf w = 0x2A) (well : wellWord w = true) (hb : bit w 43 = false) : fld w 32 31 = 0 := by
  have unused : fld w 32 30 = 0 := by
    simp only [wellWord, op, usedBits, unusedBits, hb, Bool.and_eq_true] at well
    obtain ⟨-, empty⟩ := well
    simp only [Bool.false_eq_true, if_false, List.all_cons, List.all_nil, Bool.and_true, Bool.and_eq_true, beq_iff_eq] at empty
    exact empty.2
  simp only [fld, nbits, Nat.shiftRight_eq_div_pow] at unused ⊢
  omega

/-- A list of ranges is refused for the first range that is. -/
theorem touchErr_first {x : Die} {gp : Nat} {l m : List (Nat × Nat)} {p : Nat × Nat} {st : Status} (hl : ∀ u ∈ l, coreCheck x gp u.1 u.2 = none)
    (hp : coreCheck x gp p.1 p.2 = some st) : touchErr x gp false (l ++ p :: m) = some st := by
  induction l with
  | nil => simp only [touchErr, List.nil_append, List.findSome?_cons, Bool.false_and, Bool.false_eq_true, if_false, hp]
  | cons u l ih =>
    have rest := ih fun v hv => hl v (List.mem_cons_of_mem _ hv)
    simpa only [touchErr, List.cons_append, List.findSome?_cons, Bool.false_and, Bool.false_eq_true, if_false, hl u List.mem_cons_self] using rest

section
variable {s : State} {d c : Nat} {k : Core} {r : Run} {w : Word64}

theorem vecErr_vred_poisoned (h : Issues s d c 0x2A k r w) (hb : bit w 43 = false) (hs : streamErr (slotStream k (fld w 48 44)) = none)
    (hn : gnat k (fld w 37 33) % 2 ^ 32 ≤ 2 ^ 24) {l m : List (Nat × Nat)} {p : Nat × Nat}
    (ht : vTouch (slotStream k (fld w 48 44)) (gnat k (fld w 37 33) % 2 ^ 32) = l ++ p :: m)
    (hl : ∀ u ∈ l, coreCheck (getDie s d) (dGpart r.job) u.1 u.2 = none) (hp : Poisoned (getDie s d) (dGpart r.job) p.1 p.2) :
    vecErr vredForm (getDie s d) k r w = some .memUe := by
  have op := h.op_eq
  have src : vAsrc w = false := by simp only [vAsrc, op, hb]
  have mode : vRmode w = 0 := by simp only [vRmode, op, vred_plain op h.well hb]
  have count : vGn w = fld w 37 33 := by simp only [vGn, op]
  have slot : vAslot w = fld w 48 44 := by simp only [vAslot, op]
  have reads : vecSrcs vredForm (vecOp vredForm k r w) = [slotStream k (fld w 48 44)] := by
    simp only [vecSrcs, vecOp, vredForm, src, slot, Bool.false_eq_true, if_false, List.append_nil]
  have stream : vSrcErr (getDie s d) (dGpart r.job) (slotStream k (fld w 48 44)) (gnat k (fld w 37 33) % 2 ^ 32) = some .memUe := by
    simp only [vSrcErr, hs, ht, touchErr_first hl hp.check]
  unfold vecErr
  simp only [reads, count, mode, src, List.map_cons, List.map_nil, stream, Bool.false_and, Bool.false_eq_true, if_false, if_neg (Nat.not_lt.mpr hn)]
  rfl

theorem vred_ends (h : Issues s d c 0x2A k r w) (room : k.vq.length < 2) {st : Status} (he : vecErr vredForm (getDie s d) k r w = some st) :
    EndsWithout s d c k (.vred d c) st := by
  refine endsWithout_endBy h.going.1 (u := if st = .memUe then readRanges s d (dGpart r.job)
    ((vecSrcs vredForm (vecOp vredForm k r w)).map (fun t => vTouch t (vecOp vredForm k r w).n)).flatten else s) ?_ ?_ ⟨k.pmc, rfl⟩
    (congrArg _ ((issue_of h _).trans ?_))
  · split
    · exact same_readRanges _ _ _ _
    · exact same_refl s
  · split
    · rw [getCore_readRanges, h.core_eq]
    · exact h.core_eq
  · simp only [if_neg (Nat.not_le.mpr room), he]

end

/-- Settles O11: each access is refused before it has an effect, and the end of a job writes no register and no byte. -/
theorem badAddressEndsTheJobWithoutEffect : Obligations.BadAddressEndsTheJobWithoutEffect := by
  intro s d c k r w x n a ends refused poisoned
  refine ⟨fun h => ⟨fun hr => ld_ends h (seqRead_bad hr), fun ha hp => ld_ends h (seqRead_poisoned ha hp)⟩, fun h hr => st_ends h hr,
    fun h => ⟨fun hr => sld_ends h (seqRead_bad hr), fun ha hp => sld_ends h (seqRead_poisoned ha hp)⟩,
    fun h => ⟨fun hr => cvld_ends h (seqRead_bad hr), fun ha hp => cvld_ends h (seqRead_poisoned ha hp)⟩,
    fun h => ⟨fun hr => gat_ends h (gatAccess_badAddr h hr), fun ha hp => gat_ends h (gatAccess_poisoned h ha hp)⟩, ?_⟩
  intro h room hb hs e hn l p m ht hl hp
  exact vred_ends h room (vecErr_vred_poisoned h hb hs hn ht hl hp)

end Sys2Proof.Proofs
end

section
/-! PROOFS. Core instructions of setup and control; the issue of array and vector instructions. -/

namespace Sys2Proof.Proofs

open Sys2Proof.Machine Sys2Proof.Laws

/-! SBASE, FENCE, CTRD and HALT (R99, R105, R114, R134) -/

/-- R114: a stream slot with another BASE. -/
theorem toNat_rebased (v : BitVec 256) (a : Nat) :
    (BitVec.ofNat 256 (v.toNat - v.toNat % 2 ^ 32 + a % 2 ^ 32)).toNat = v.toNat / 2 ^ 32 * 2 ^ 32 + a % 2 ^ 32 := by
  have small := v.isLt
  rw [BitVec.toNat_ofNat]
  omega

theorem fenceReady_of {x : Die} {c : Nat} {k : Core} {w : Word64} (array : bit w 32 = true → k.aq = [] ∧ k.accq = []) (vector : bit w 33 = true → k.vq = [])
    (dma : bit w 34 = true → coreDmas x c = []) : fenceReady x c k w = true := by
  have idle {named ready : Bool} (h : named = true → ready = true) : (!named || ready) = true := by
    cases named with
    | false => rfl
    | true => exact h rfl
  rw [fenceReady, Bool.and_eq_true, Bool.and_eq_true]
  refine ⟨⟨idle fun h => ?_, idle fun h => ?_⟩, idle fun h => ?_⟩
  · rw [arrIdle, (array h).1, (array h).2]; rfl
  · rw [vector h]; rfl
  · rw [dma h]; rfl

/-- The posts of a job as requests that wait for their engines (R105). -/
def released (d c : Nat) (posts : List (Nat × Word512)) : List EngReq :=
  posts.map (fun (e, q) =>
    { id := 0, req := q, src := .core d c, unit := e, done := none, digest := none, writes := 0, wstatus := .ok, got := [], reads := [], replayed := false, aborted := false })

theorem released_names (d c : Nat) (posts : List (Nat × Word512)) :
    (released d c posts).map (fun q => (q.unit, q.req, q.src)) = posts.map (fun p => (p.1, p.2, EngSrc.core d c)) := by
  rw [released, List.map_map]; rfl

section
variable {s : State} {d c : Nat} {k : Core} {r : Run} {w : Word64}

theorem exec_fence_of (h : Issues s d c 0x16 k r w) (ready : fenceReady (getDie s d) c k w = true) :
    exec (.fence d c) s = .next (setCore s d c (issued k (runNext r))) := by
  refine congrArg _ ((issue_of h _).trans ?_)
  rw [if_pos ready]

theorem exec_ctrd_of (h : Issues s d c 0x3B k r w) (may : fld w 52 49 = 0 ∨ fld w 52 49 = 9 ∨ bit (regWord (getDie s d) (rPMC_CCTL c)) 0 = true) :
    exec (.ctrd d c) s = .next (setCore s d c (setReg (issued k (runNext r)) (fD w) (BitVec.ofNat 64 (
      if fld w 52 49 = 0 then (getDie s d).cycles / 16 else if fld w 52 49 = 9 then (getDie s d).cycles / 16 - r.startCyc
      else pmcCnt k.pmc (fld w 52 49 - 1))))) := by
  refine congrArg _ ((issue_of h _).trans (if_neg ?_))
  rintro ⟨time, job, shut⟩
  rw [Bool.not_eq_true'] at shut
  exact Bool.false_ne_true (shut.symm.trans ((may.resolve_left time).resolve_left job))

theorem exec_halt_of (h : Issues s d c 0x1F k r w) (ready : haltReady (getDie s d) c k r = true) :
    exec (.halt d c) s = .next (setCore { s with engWait := s.engWait ++ released d c r.posts } d c (issued k { r with halted := true, posts := [] })) := by
  refine congrArg _ ((issue_of h _).trans ?_)
  rw [if_pos ready]
  rfl

theorem exec_prog_of (h : Issues s d c 0x17 k r w) :
    exec (.prog d c) s = .next (tellPos (setCore s d c (issued k (runNext { r with prog := gnat k (fA w) % 2 ^ 32 }))) d c) :=
  congrArg _ (issue_of h _)

end

/-! The position that PROG tells (R109, R367) -/

theorem findOp_updOp (s : State) (id : Nat) (f : Op → Op) (hf : ∀ o, (f o).id = o.id) : findOp (updOp s id f) id = (findOp s id).map f := by
  have names : (fun o => o.id == id) ∘ (fun o => if o.id == id then f o else o) = fun o => o.id == id := by
    funext o
    dsimp only [Function.comp]
    split
    · rw [hf]
    · rfl
  rw [findOp, updOp, List.find?_map, names]
  cases found : s.ops.find? (fun o => o.id == id) with
  | none => rw [findOp, found]; rfl
  | some o =>
    have named := List.find?_some (p := fun o : Op => o.id == id) found
    rw [findOp, found, Option.map_some, Option.map_some, if_pos named]

theorem findOp_sent {s t : State} (h : SentOnly s t) (id : Nat) : findOp t id = findOp s id := by
  obtain ⟨_, _, rfl⟩ := h; rfl

theorem findOp_setPos {s : State} {id : Nat} {o : Op} (h : findOp s id = some o) (pos : Nat) :
    ∃ o', findOp (setPos s id pos) id = some o' ∧ o'.pos = pos := by
  have moved (f : Op → Op) (hf : ∀ o, (f o).id = o.id) : findOp (updOp s id f) id = some (f o) := by
    rw [findOp_updOp s id f hf, h, Option.map_some]
  simp only [setPos, h]
  split
  · exact ⟨_, (findOp_sent (putProgress_sent ..) id).trans (moved _ fun _ => rfl), rfl⟩
  · exact ⟨_, moved _ fun _ => rfl, rfl⟩

theorem findOp_tellPos {s : State} {d c id : Nat} {r : Run} {o : Op} (hr : (getCore s d c).run = some r) (hj : r.job.op = some id) (ho : findOp s id = some o) :
    ∃ o', findOp (tellPos s d c) id = some o' ∧ o'.pos = jobPos r := by
  simp only [tellPos, hr, hj]
  exact findOp_setPos ho _

theorem runNext_job (r : Run) : (runNext r).job = r.job := by
  unfold runNext endRun
  split
  · rfl
  · split <;> rfl

theorem runNext_prog (r : Run) : (runNext r).prog = r.prog := by
  unfold runNext endRun
  split
  · rfl
  · split <;> rfl

/-- Settles O10: each of the five goes on with the effect of its lemma above. -/
theorem setupAndControlInstructionsComplete : Obligations.SetupAndControlInstructionsComplete := by
  intro s d c k r w a x goes
  refine ⟨fun h => ?_, fun h array vector dma => ?_, fun h => ?_, fun h may => ?_, fun h harr hacc hvec hdma hdef => ?_⟩
  · refine ⟨_, congrArg Host.Outcome.next (issue_of h _), by simp only [goes, getCore_setCore_same]; rfl, fun i => ?_⟩
    rw [getCore_setCore_same]
    dsimp only
    rw [issued_slots, tget_tset]
    split
    · next here => subst here; exact toNat_rebased ..
    · rfl
  · exact ⟨_, exec_fence_of h (fenceReady_of array vector dma), by simp only [goes, getCore_setCore_same]; exact run_issued_next ..⟩
  · refine ⟨_, _, exec_prog_of h, by rw [getCore_tellPos, getCore_setCore_same]; exact issued_run .., runNext_prog _, fun hp => ?_, fun id o hj ho => ?_⟩
    · rw [runNext_go (by exact hp)]; exact ⟨rfl, h.going.1⟩
    · exact findOp_tellPos (by rw [getCore_setCore_same]; exact issued_run ..) ((congrArg Job.op (runNext_job _)).trans hj) ho
  · refine ⟨_, exec_ctrd_of h may, by simp only [goes, getCore_setCore_same, setReg_run]; exact run_issued_next .., fun q => ?_⟩
    rw [getCore_setCore_same, greg_setReg_ne_zero, greg_issued]
  · have ready : haltReady (getDie s d) c k r = true := by
      rw [haltReady, arrIdle, harr, hacc, hvec, hdma, hdef]; rfl
    refine ⟨_, exec_halt_of h ready, by rw [getCore_setCore_same]; rfl, ?_⟩
    rw [setCore_engWait, List.map_append, released_names]

/-! Array and vector instructions (R98, R116, Table 5-2) -/

/-- Settles O12: each of the five asks the array unit with its own checks and record (arr_does). -/
theorem arrayInstructionsQueueOrEndTheJob : Obligations.ArrayInstructionsQueueOrEndTheJob := by
  intro s d c k r w x does
  exact ⟨arr_does id _ _ (fun h => congrArg _ (issue_of h _)) ⟨_, _, _, rfl⟩, arr_does id _ _ (fun h => congrArg _ (issue_of h _)) ⟨r.load, _, _, rfl⟩,
    arr_does id _ _ (fun h => congrArg _ (issue_of h _)) ⟨r.load, _, _, rfl⟩, arr_does id _ _ (fun h => congrArg _ (issue_of h _)) ⟨r.load, _, _, rfl⟩,
    arr_does id _ _ (fun h => congrArg _ (issue_of h _)) ⟨r.load, _, _, rfl⟩⟩

/-- Settles O15: the four are the vector engine's one issue (vec_does), each with its own form. -/
theorem vectorInstructionsQueueOrEndTheJob : Obligations.VectorInstructionsQueueOrEndTheJob := by
  intro s d c k r w x does
  exact ⟨vec_does rfl, vec_does rfl, vec_does rfl, vec_does rfl⟩

end Sys2Proof.Proofs
end

section
/-! PROOFS. Knots: arrivals and signals deferred and in effect, waits, timeouts, configuration, timed releases. -/

namespace Sys2Proof.Proofs

open Sys2Proof.Machine Sys2Proof.Laws

/-! KARV and KSIG (R130, R131) -/

theorem runNext_defer (r : Run) : (runNext r).defer = r.defer ∧ (runNext r).shared = r.shared := by
  unfold runNext endRun
  split
  · exact ⟨rfl, rfl⟩
  · split <;> exact ⟨rfl, rfl⟩

/-- A job that has issued an arrival or signal q: P are its pending registers then. -/
def deferred (r : Run) (P : NSet) (q : Deferred) : Run := runNext { r with shared := true, pend := P, defer := r.defer ++ [q] }

section
variable {s : State} {d c : Nat} {k : Core} {r : Run} {w : Word64}

/-- R110: an instruction that names a wrong knot ends its job. -/
theorem ends_badKnot {i : Instr} (he : r.ended = none) (hi : exec i s = .next (setCore s d c (setRun k (endRun r .badKnot)))) :
    ∃ t r', exec i s = .next t ∧ (getCore t d c).run = some r' ∧ r'.ended = some .badKnot := by
  rw [hi]
  exact badKnot_of he

/-- What an arrival or signal that is deferred changes: the job alone. -/
theorem deferred_waits {i : Instr} {P : NSet} {q : Deferred} {g n : Nat} (he : r.ended = none) (hk : getCore s d c = k)
    (hi : exec i s = .next (setCore s d c (issued k (deferred r P q)))) (hP : ∀ e, e ∈ P ↔ e ∈ r.pend ∨ (q.sig = false ∧ e = g ∧ g ≠ 0)) :
    ∃ t r', exec i s = .next t ∧ (getCore t d c).run = some r' ∧ r'.defer = r.defer ++ [q] ∧ r'.shared = true ∧
      (r.pc + 1 < dProgLen r.job → r'.pc = r.pc + 1 ∧ r'.ended = none) ∧ (∀ e, e ∈ r'.pend ↔ e ∈ r.pend ∨ (q.sig = false ∧ e = g ∧ g ≠ 0)) ∧
      getKnot t d n = getKnot s d n ∧ SameMemory s t := by
  refine ⟨_, _, hi, by rw [getCore_setCore_same]; exact issued_run .., (runNext_defer _).1, (runNext_defer _).2, fun hp => ?_, fun e => ?_, getKnot_setCore ..,
    same_setCore (by rw [hk]; rfl)⟩
  · rw [deferred, runNext_go (by exact hp)]
    exact ⟨rfl, he⟩
  · obtain ⟨-, -, -, -, pend⟩ := runNext_keep { r with shared := true, pend := P, defer := r.defer ++ [q] }
    rw [← hP e]
    exact iff_of_eq (congrArg (e ∈ ·) pend)

theorem exec_karv_deferred (h : Issues s d c 0x30 k r w) (ok : knotOk s d r (fld w 57 49) [1, 3] = true) :
    exec (.karv d c) s = .next (setCore s d c (issued k (deferred r (if fld w 48 44 = 0 then r.pend else sadd r.pend (fld w 48 44))
      (deferOf s d c r false (fld w 57 49) (fld w 48 44) 0)))) := by
  refine congrArg _ ((issue_of h _).trans (if_neg ?_))
  rw [ok]; decide

theorem exec_ksig_deferred (h : Issues s d c 0x32 k r w) (ok : knotOk s d r (fld w 57 49) [2] = true) (h1 : 1 ≤ gnat k (fld w 48 44))
    (h2 : gnat k (fld w 48 44) ≤ 65535) :
    exec (.ksig d c) s = .next (setCore s d c (issued k (deferred r r.pend (deferOf s d c r true (fld w 57 49) 0 (gnat k (fld w 48 44)))))) := by
  refine congrArg _ ((issue_of h _).trans (if_neg ?_))
  rw [ok]
  rintro (bad | bad | bad)
  · cases bad
  · omega
  · omega

theorem pend_karv (P : NSet) (g e : Nat) : e ∈ (if g = 0 then P else sadd P g) ↔ e ∈ P ∨ (false = false ∧ e = g ∧ g ≠ 0) := by
  split
  · next zero => simp only [zero, ne_eq, not_true_eq_false, and_false, or_false]
  · next other => rw [mem_sadd]; simp only [ne_eq, other, not_false_eq_true, and_true, true_and]

end

/-- Settles O17: a wrong knot or amount is found at the issue; else the arrival or signal joins those that the job has waiting. -/
theorem knotArrivalsAreDeferredOrEndTheJob : Obligations.KnotArrivalsAreDeferredOrEndTheJob := by
  intro s d c k r w n g v bad waits
  have wrong {kinds : List Nat} (h : knotOk s d r n kinds = false) : (!knotOk s d r n kinds) = true := by rw [h]; rfl
  have amount {kinds : List Nat} (h : knotOk s d r n kinds = false ∨ v = 0 ∨ 65535 < v) : (!knotOk s d r n kinds) = true ∨ v = 0 ∨ 65535 < v := h.imp_left wrong
  refine ⟨fun h hb => ends_badKnot (k := k) h.going.1 ?_, fun h ok => ?_, fun h hb => ends_badKnot (k := k) h.going.1 ?_, fun h ok h1 h2 => ?_,
    fun h hb => ends_badKnot (k := k) h.going.1 ?_, fun h hb => ends_badKnot (k := k) h.going.1 ?_⟩
  · exact congrArg _ ((issue_of h _).trans (if_pos (wrong hb)))
  · exact deferred_waits h.going.1 h.core_eq (exec_karv_deferred h ok) fun e => pend_karv ..
  · exact congrArg _ ((issue_of h _).trans (if_pos (amount hb)))
  · refine deferred_waits h.going.1 h.core_eq (exec_ksig_deferred h ok h1 h2) fun e => ?_
    simp only [deferOf, Bool.true_eq_false, false_and, or_false]
  · exact congrArg _ ((issue_of h _).trans (if_pos (wrong hb)))
  · exact congrArg _ ((issue_of h _).trans (if_pos (amount hb)))

/-! KWAIT and KTAKE (R130, R390, R391) -/

/-- The knot that a KWAIT or KTAKE w of core k waits at, for generation or amount g. -/
def knotWaitOf (k : Core) (w : Word64) (take : Bool) (g : Nat) : KnotWait :=
  { take := take, knot := fld w 57 49, gen := g, limited := gnat k (fld w 43 39) != 0, reg := fld w 38 34 }

/-- The job of a KTAKE that has joined the semaphore's queue. -/
def taking (r : Run) (k : Core) (w : Word64) : Run := { r with shared := true, wait := some (knotWaitOf k w true (gnat k (fld w 48 44))) }

theorem runNext_wait {r : Run} (h : r.wait = none) : (runNext r).wait = none := by
  unfold runNext endRun
  split
  · exact h
  · split
    · exact h
    · rfl

/-- R391: the one KTAKE of a semaphore's queue is served where the count reaches its amount. -/
theorem serveTakes_one {u : State} {d k d' c' a : Nat} (h : (getKnot u d k).takes = [(d', c', a)]) : serveTakes u d k 1 =
    if a ≤ (getKnot u d k).count then wake (setKnot u d k { getKnot u d k with count := (getKnot u d k).count - a, takes := [] }) d' c' 0 else u := by
  simp only [serveTakes, h]

section
variable {s : State} {d c : Nat} {k : Core} {r : Run} {w : Word64}

theorem exec_kwait_of (h : Issues s d c 0x31 k r w) (ok : knotOk s d r (fld w 57 49) [1, 3] = true) : exec (.kwait d c) s = .next (
    if knotReleased (getKnot s d (fld w 57 49)) (gnat k (fld w 48 44) % 2 ^ 16) then
      setCore s d c (setReg (issued k (runNext r)) (fld w 38 34)
        (BitVec.ofNat 64 (knotResult (getKnot s d (fld w 57 49)) (gnat k (fld w 48 44) % 2 ^ 16))))
    else setCore s d c (issued k { r with wait := some (knotWaitOf k w false (gnat k (fld w 48 44) % 2 ^ 16)) })) := by
  refine congrArg _ ((issue_of h _).trans (if_neg ?_))
  rw [ok]; decide

/-- KTAKE at a semaphore that nobody queues at: the core joins the queue alone. -/
theorem exec_ktake_of (h : Issues s d c 0x33 k r w) (ok : knotOk s d r (fld w 57 49) [2] = true) (h1 : 1 ≤ gnat k (fld w 48 44))
    (h2 : gnat k (fld w 48 44) ≤ 65535) (alone : (getKnot s d (fld w 57 49)).takes = []) : exec (.ktake d c) s =
    .next (serveTakes (setKnot (setCore s d c (issued k (taking r k w))) d (fld w 57 49)
      { getKnot s d (fld w 57 49) with takes := [(d, c, gnat k (fld w 48 44))] }) d (fld w 57 49) 1) := by
  refine congrArg _ ((issue_of h _).trans ((if_neg ?_).trans ?_))
  · rw [ok]
    rintro (bad | bad | bad)
    · cases bad
    · omega
    · omega
  · dsimp only
    rw [getKnot_setCore, alone]
    rfl

theorem ktake_taken (h : Issues s d c 0x33 k r w) (ok : knotOk s d r (fld w 57 49) [2] = true) (h1 : 1 ≤ gnat k (fld w 48 44))
    (h2 : gnat k (fld w 48 44) ≤ 65535) (alone : (getKnot s d (fld w 57 49)).takes = [])
    (enough : gnat k (fld w 48 44) ≤ (getKnot s d (fld w 57 49)).count) :
    ∃ t r', exec (.ktake d c) s = .next t ∧ (getCore t d c).run = some r' ∧ r'.wait = none ∧ (r.pc + 1 < dProgLen r.job → r'.pc = r.pc + 1) ∧
      (∀ q, greg (getCore t d c) q = if q = fld w 38 34 ∧ fld w 38 34 ≠ 0 then BitVec.ofNat 64 0 else greg k q) ∧
      getKnot t d (fld w 57 49) = { getKnot s d (fld w 57 49) with count := (getKnot s d (fld w 57 49)).count - gnat k (fld w 48 44) } := by
  have done := exec_ktake_of h ok h1 h2 alone
  rw [serveTakes_one (by rw [getKnot_setKnot_same]), getKnot_setKnot_same, if_pos enough] at done
  have queued (n m : Knot) : getCore (setKnot (setKnot (setCore s d c (issued k (taking r k w))) d (fld w 57 49) n) d (fld w 57 49) m) d c = issued k (taking r k w) := by
    rw [getCore_setKnot, getCore_setKnot, getCore_setCore_same]
  have woken (n m : Knot) := wake_core (setKnot (setKnot (setCore s d c (issued k (taking r k w))) d (fld w 57 49) n) d (fld w 57 49) m) d c 0
    (by rw [queued]; exact issued_run ..) (w := knotWaitOf k w true (gnat k (fld w 48 44))) rfl
  refine ⟨_, _, done, by rw [woken, setReg_run]; rfl, runNext_wait rfl, fun hp => ?_, fun q => ?_, ?_⟩
  · rw [runNext_go (by exact hp)]; rfl
  · rw [woken, queued, greg_setReg]; rfl
  · rw [getKnot_wake, getKnot_setKnot_same, ← alone]

theorem ktake_queues (h : Issues s d c 0x33 k r w) (ok : knotOk s d r (fld w 57 49) [2] = true) (h1 : 1 ≤ gnat k (fld w 48 44))
    (h2 : gnat k (fld w 48 44) ≤ 65535) (alone : (getKnot s d (fld w 57 49)).takes = [])
    (few : ¬gnat k (fld w 48 44) ≤ (getKnot s d (fld w 57 49)).count) :
    ∃ t r' q, exec (.ktake d c) s = .next t ∧ (getCore t d c).run = some r' ∧ r'.wait = some q ∧ r'.pc = r.pc ∧ q.take = true ∧
      getKnot t d (fld w 57 49) = { getKnot s d (fld w 57 49) with takes := [(d, c, gnat k (fld w 48 44))] } := by
  have done := exec_ktake_of h ok h1 h2 alone
  rw [serveTakes_one (by rw [getKnot_setKnot_same]), getKnot_setKnot_same, if_neg few] at done
  refine ⟨_, { taking r k w with instr := r.instr + 1 }, knotWaitOf k w true (gnat k (fld w 48 44)), done, ?_, rfl, rfl, rfl, getKnot_setKnot_same ..⟩
  rw [getCore_setKnot, getCore_setCore_same]; exact issued_run ..

end

/-- Settles O18: KWAIT by whether its generation has been released, KTAKE by whether the count reaches its amount. -/
theorem knotWaitsGoOnOrStall : Obligations.KnotWaitsGoOnOrStall := by
  intro s d c k r w n v rd kn reg
  refine ⟨fun h ok => ?_, fun h ok h1 h2 alone => ?_⟩
  · have done := exec_kwait_of h ok
    split
    · next released =>
      rw [if_pos (by exact released)] at done
      refine ⟨_, done, by rw [getCore_setCore_same, setReg_run]; exact run_issued_next .., fun q => ?_, same_setCore ?_⟩
      · rw [getCore_setCore_same, greg_setReg]; rfl
      · rw [h.core_eq, setReg_scratch, issued_scratch]
    · next ahead =>
      rw [if_neg (by exact ahead)] at done
      refine ⟨_, { r with wait := some (knotWaitOf k w false (v % 2 ^ 16)), instr := r.instr + 1 }, knotWaitOf k w false (v % 2 ^ 16), done, ?_,
        rfl, rfl, rfl, rfl, rfl, rfl⟩
      rw [getCore_setCore_same]; exact issued_run ..
  · split
    · next enough => exact ktake_taken h ok h1 h2 alone enough
    · next few => exact ktake_queues h ok h1 h2 alone few

/-! Arrivals and signals in effect (R131, R389, R391) -/

/-- A job whose oldest arrival or signal q has come to its turn. -/
def deferTaken (r : Run) (q : Deferred) (rest : List Deferred) : Run := { r with defer := rest, pend := sdel r.pend q.reg }

section
variable {s : State} {d c : Nat} {r : Run} {q : Deferred} {rest : List Deferred} (hu : dieUp s d = true) (hr : (getCore s d c).run = some r)
  (hd : r.defer = q :: rest) (ready : deferReady s d c r q = true)
include hu hr hd ready

theorem exec_arrivalTakesEffect_signal (sig : q.sig = true) (kind : knotKind (getKnot s d q.knot) = 2) : exec (.arrivalTakesEffect d c) s =
    .next (knotSignal (setCore s d c (setRun (getCore s d c) (deferTaken r q rest))) d q.knot q.amount) := by
  show Host.Outcome.next (arrivalTakesEffect d c s) = _
  simp only [arrivalTakesEffect, hu, hr, hd, ready, sig, kind, Bool.not_true, Bool.false_eq_true, if_false, if_true, ne_eq, not_true_eq_false]
  rfl

/-- The register of an arrival holds the generation that it arrives in. -/
def arrivedCore (s : State) (d c : Nat) (r : Run) (q : Deferred) (rest : List Deferred) : Core :=
  setReg (setRun (getCore s d c) (deferTaken r q rest)) q.reg
    (BitVec.ofNat 64 (knotArrive (setCore s d c (setRun (getCore s d c) (deferTaken r q rest))) d q.knot).1)

theorem exec_arrivalTakesEffect_arrives (sig : q.sig = false) (kind : knotKind (getKnot s d q.knot) = 1) : exec (.arrivalTakesEffect d c) s =
    .next (knotArrive (setCore (setCore s d c (setRun (getCore s d c) (deferTaken r q rest))) d c (arrivedCore s d c r q rest)) d q.knot).2 := by
  show Host.Outcome.next (arrivalTakesEffect d c s) = _
  simp only [arrivalTakesEffect, hu, hr, hd, ready, sig, kind, Bool.not_true, Bool.false_eq_true, if_false, ne_eq, not_true_eq_false, false_and]
  rfl

end

/-- Settles O19: a signal by knotSignal_idle; an arrival by knotArrive_facts, once for its generation and once for its effect. -/
theorem arrivalsTakeEffectInOrder : Obligations.ArrivalsTakeEffectInOrder := by
  intro s d c r q rest n hu hr hw hd ready
  refine ⟨fun sig kind idle => ?_, fun sig kind package few unarmed unsent => ?_⟩
  · obtain ⟨signalled, cores⟩ := knotSignal_idle (setCore s d c (setRun (getCore s d c) (deferTaken r q rest))) d q.knot q.amount (by rwa [getKnot_setCore])
    refine ⟨_, exec_arrivalTakesEffect_signal hu hr hd ready sig kind, by rw [signalled, getKnot_setCore], deferTaken r q rest, ?_, rfl, fun g => mem_sdel ..⟩
    rw [cores, getCore_setCore_same]; rfl
  · have knot (u : State) (k : Core) : getKnot (setCore u d c k) d q.knot = getKnot u d q.knot := getKnot_setCore ..
    have facts (u : State) (hk : getKnot u d q.knot = n) := knotArrive_facts u d q.knot (by rwa [hk]) package (by rwa [hk]) (by rwa [hk]) (by rwa [hk])
    obtain ⟨generation, -⟩ := facts (setCore s d c (setRun (getCore s d c) (deferTaken r q rest))) (knot ..)
    obtain ⟨-, gen, arrivals, cores⟩ := facts (setCore (setCore s d c (setRun (getCore s d c) (deferTaken r q rest))) d c (arrivedCore s d c r q rest))
      (by rw [knot, knot])
    simp only [knot] at generation gen arrivals
    have run : (arrivedCore s d c r q rest).run = some (deferTaken r q rest) := setReg_run ..
    have core := cores d c (deferTaken r q rest) (by rw [getCore_setCore_same, run]) hw
    rw [getCore_setCore_same] at core
    refine ⟨_, exec_arrivalTakesEffect_arrives hu hr hd ready sig kind, gen, arrivals, ?_, deferTaken r q rest, by rw [core, run], rfl, fun g => mem_sdel ..⟩
    rw [core, arrivedCore, greg_setReg_ne_zero, generation]
    by_cases zero : q.reg = 0
    · rw [if_neg (fun hh => hh.2 zero), if_pos zero, zero]; rfl
    · rw [if_pos ⟨rfl, zero⟩, if_neg zero]

/-! A limited wait that gives up (R130, R391) -/

theorem getCore_wake_other {s : State} {d c v e b : Nat} (h : d ≠ e ∨ c ≠ b) : getCore (wake s d c v) e b = getCore s e b := by
  rw [wake, updCore, getCore_setCore, if_neg]
  rintro ⟨rfl, rfl⟩
  exact h.elim (absurd rfl) (absurd rfl)

/-- No KTAKE of core c of die e is in a semaphore's queue. -/
def NotQueued (n : Knot) (e c : Nat) : Prop := ∀ q ∈ n.takes, q.1 ≠ e ∨ q.2.1 ≠ c

/-- R391: serving a queue leaves a core alone that is not in it. -/
theorem serveTakes_notQueued {s : State} {d k e c : Nat} (n : Nat) (h : NotQueued (getKnot s d k) e c) :
    getCore (serveTakes s d k n) e c = getCore s e c ∧ NotQueued (getKnot (serveTakes s d k n) d k) e c := by
  induction n generalizing s with
  | zero => exact ⟨rfl, h⟩
  | succ n ih =>
    simp only [serveTakes]
    split
    · next d' c' a rest queue =>
      split
      · have later : NotQueued (getKnot (wake (setKnot s d k { getKnot s d k with count := (getKnot s d k).count - a, takes := rest }) d' c' 0) d k) e c := by
          rw [getKnot_wake, getKnot_setKnot_same]
          exact fun q hq => h q (queue ▸ List.mem_cons_of_mem _ hq)
        obtain ⟨core, takes⟩ := ih later
        refine ⟨?_, takes⟩
        rw [core, getCore_wake_other (h (d', c', a) (queue ▸ List.mem_cons_self)), getCore_setKnot]
      · exact ⟨rfl, h⟩
    · exact ⟨rfl, h⟩

/-- R391: a core that leaves a semaphore's queue is in it no longer, and is left as it is. -/
theorem dropTake_leaves (s : State) (d c k : Nat) :
    getCore (dropTake s d c k) d c = getCore s d c ∧ NotQueued (getKnot (dropTake s d c k) d k) d c := by
  unfold dropTake
  extract_lets n
  have gone : NotQueued (getKnot (setKnot s d k { n with takes := n.takes.filter (fun t => !(t.1 == d && t.2.1 == c)) }) d k) d c := by
    rw [getKnot_setKnot_same]
    intro q hq
    have other := (List.mem_filter.mp hq).2
    rw [Bool.not_eq_true', Bool.and_eq_false_iff] at other
    exact other.imp ne_of_beq_false ne_of_beq_false
  obtain ⟨core, takes⟩ := serveTakes_notQueued n.takes.length gone
  exact ⟨by rw [core, getCore_setKnot], takes⟩

theorem exec_knotWaitTimeout_of {s : State} {d c : Nat} {r : Run} {w : KnotWait} (hu : dieUp s d = true) (hr : (getCore s d c).run = some r)
    (hw : r.wait = some w) (hl : w.limited = true) :
    exec (.knotWaitTimeout d c) s = .next (if w.take then dropTake (wake s d c 1) d c w.knot else wake s d c 1) := by
  show Host.Outcome.next (knotWaitTimeout d c s) = _
  simp only [knotWaitTimeout, hr, hw, hl, hu, Bool.not_true, Bool.or_self, Bool.false_eq_true, if_false]

/-- R130: what a wait that ends with a value leaves of its core's job and registers. -/
def wokenCore (k : Core) (r : Run) (w : KnotWait) (v : Nat) : Core := setReg (setRun k (runNext { r with wait := none })) w.reg (BitVec.ofNat 64 v)

theorem wokenCore_run (k : Core) (r : Run) (w : KnotWait) (v : Nat) : (wokenCore k r w v).run = some (runNext { r with wait := none }) := setReg_run ..

theorem greg_wokenCore (k : Core) (r : Run) (w : KnotWait) (v q : Nat) :
    greg (wokenCore k r w v) q = if q = w.reg ∧ w.reg ≠ 0 then BitVec.ofNat 64 v else greg k q := by
  rw [wokenCore, greg_setReg]; rfl

theorem knotWaitTimeout_givesUp {s : State} {d c : Nat} {r : Run} {w : KnotWait} (hu : dieUp s d = true) (hr : (getCore s d c).run = some r)
    (hw : r.wait = some w) (hl : w.limited = true) :
    ∃ t, exec (.knotWaitTimeout d c) s = .next t ∧ getCore t d c = wokenCore (getCore s d c) r w 1 ∧
      (w.take = true → NotQueued (getKnot t d w.knot) d c) := by
  have woken := wake_core s d c 1 hr hw
  refine ⟨_, exec_knotWaitTimeout_of hu hr hw hl, ?_⟩
  split
  · obtain ⟨core, takes⟩ := dropTake_leaves (wake s d c 1) d c w.knot
    exact ⟨core.trans woken, fun _ => takes⟩
  · next waits => exact ⟨woken, fun takes => absurd takes waits⟩

/-! Configuration (R388, R397) -/

theorem exec_knotCfgWrite_taken {s : State} {d k : Nat} {v : Word32} (hu : regsUp s = true) (hl : linkReaches s d = true) (hk : k < 256 ∨ (k < 352 ∧ d = 0))
    (hc : fld v 14 2 ≠ 0 ∨ fld v 1 0 = 0) (hf : k < 320 ∨ fld v 1 0 ≠ 2) : exec (.knotCfgWrite d k v) s =
    .next ((knotWaiters s d k).foldl (fun s (d', c, _) => wake s d' c 1)
      (setKnot s d k { knotReset with cfg := v &&& 0x7FFF, time := (getKnot s d k).time, fab := (getKnot s d k).fab })) := by
  have reached : ¬(!regsUp s || !linkReaches s d || decide (352 ≤ k) || (decide (256 ≤ k) && d != 0)) = true := by
    rw [hu, hl]
    simp only [Bool.not_true, Bool.false_or, Bool.or_eq_true, Bool.and_eq_true, decide_eq_true_eq, bne_iff_ne]
    omega
  have taken : ¬((fld v 14 2 = 0 ∧ fld v 1 0 ≠ 0) ∨ (320 ≤ k ∧ fld v 1 0 = 2)) := by omega
  show Host.Outcome.next (knotCfgWrite d k v s) = _
  unfold knotCfgWrite
  extract_lets kind n ws s1
  rw [if_neg reached, if_neg taken]

/-! Timed releases (R395) -/

theorem getDie_reachTime_each (s : State) (d t e : Nat) : ∃ n, getDie (reachTime s d t) e =
    if e < ndies s.variant then passDie s e n (((getDie s e).clock + (t * 2 ^ 32 - (getDie s d).clock)) % 2 ^ 96) (getDie s e) else getDie s e := by
  unfold reachTime
  extract_lets k pass
  exact ⟨k / (20 * 2 ^ 32), by rw [getDie_now, getDie_foldUpto_setDie]⟩

theorem pknots_now (s : State) (n : Nat) : { s with now := n }.pknots = s.pknots := rfl

theorem pknots_foldUpto_setDie (n : Nat) (s : State) (g : Nat → Die) : (foldUpto n s (fun t e => setDie t e (g e))).pknots = s.pknots := by
  induction n with
  | zero => rfl
  | succ n ih => rw [foldUpto_succ]; exact ih

theorem getKnot_reachTime (s : State) (e t d k : Nat) : getKnot (reachTime s e t) d k = getKnot s d k := by
  have package : (reachTime s e t).pknots = s.pknots := by
    unfold reachTime
    extract_lets k pass
    rw [pknots_now, pknots_foldUpto_setDie]
  have die : (getDie (reachTime s e t) d).knots = (getDie s d).knots := by
    obtain ⟨n, hn⟩ := getDie_reachTime_each s e t d
    rw [hn]
    split <;> rfl
  rw [getKnot, getKnot, package, die]

/-- Log entry 20: the counter is at the reported time, or past it already. -/
theorem clock_reachTime {s : State} {d t : Nat} (hd : d < ndies s.variant) (ht : t < 2 ^ 64) (hc : (getDie s d).clock < 2 ^ 96) :
    t * 2 ^ 32 ≤ (getDie (reachTime s d t) d).clock := by
  obtain ⟨n, hn⟩ := getDie_reachTime_each s d t d
  rw [hn, if_pos hd]
  show t * 2 ^ 32 ≤ ((getDie s d).clock + (t * 2 ^ 32 - (getDie s d).clock)) % 2 ^ 96
  omega

theorem releaseBehind_timed {s : State} {d k : Nat} (n : Nat) (h : ∀ p ∈ (getKnot s d k).armed, p.2 ≠ 0) : releaseBehind d k n s = s := by
  cases n with
  | zero => rfl
  | succ n =>
    rw [releaseBehind]
    split
    · next untimed => exact absurd rfl (h _ (untimed ▸ List.mem_cons_self))
    · rfl

/-- R395: no generation beyond those armed is complete after one of them is released. -/
theorem arrivals_left {a n c : Nat} (h : a < (n + 2) * c) : a - c < (n + 1) * c := by
  have split : (n + 2) * c = (n + 1) * c + c := by ring
  have one : c ≤ (n + 1) * c := Nat.le_mul_of_pos_left c n.succ_pos
  omega

theorem exec_timedRelease_armed {s : State} {d k g t0 : Nat} {l : List (Nat × Nat)} (hp : s.phase = .up) (ha : (getKnot s d k).armed = (g, t0) :: l)
    (hl : ∀ p ∈ l, p.2 ≠ 0) (few : (getKnot s d k).arrivals < (l.length + 2) * knotCount (getKnot s d k)) :
    exec (.timedRelease d k) s = .next (releaseGen (reachTime s (knotDie d k) t0) d k 0) := by
  obtain ⟨knot, -⟩ := releaseGen_facts (reachTime s (knotDie d k) t0) d k 0
  rw [getKnot_reachTime, ha] at knot
  have up : (s.phase != .up) = false := by rw [hp]; rfl
  have behind := releaseBehind_timed (s := releaseGen (reachTime s (knotDie d k) t0) d k 0) (d := d) (k := k) l.length (by rw [knot]; exact hl)
  have settled : settle (releaseGen (reachTime s (knotDie d k) t0) d k 0) d k = releaseGen (reachTime s (knotDie d k) t0) d k 0 := by
    refine settleKnot_few _ _ _ _ ?_
    rw [knot]
    exact arrivals_left few
  show Host.Outcome.next (timedRelease d k s) = _
  simp only [timedRelease, up, ha, behind, settled, Bool.false_eq_true, if_false]

/-- Settles O20: a timeout by knotWaitTimeout_givesUp, a KNOT_CFG write by the fold over the knot's waiters, a timed release by releaseGen_facts. -/
theorem knotTimeoutsConfigurationAndTimedRelease : Obligations.KnotTimeoutsConfigurationAndTimedRelease := by
  refine ⟨fun s d c r w hu hr hw hl => ?_, fun s d k v hu hl hk hc hf => ?_, fun s d k g t0 l => ?_⟩
  · obtain ⟨t, done, core, takes⟩ := knotWaitTimeout_givesUp hu hr hw hl
    refine ⟨t, _, done, by rw [core, wokenCore_run], runNext_wait rfl, fun hp => ?_, takes, fun q => ?_⟩
    · rw [runNext_go (by exact hp)]
    · rw [core, greg_wokenCore]; rfl
  · obtain ⟨knots, -⟩ := wakes_keep (fun s (q : Nat × Nat × KnotWait) => wake s q.1 q.2.1 1) (fun s a => .inr ⟨_, _, _, rfl⟩) (knotWaiters s d k)
      (setKnot s d k { knotReset with cfg := v &&& 0x7FFF, time := (getKnot s d k).time, fab := (getKnot s d k).fab })
    have knot := (knots d k).trans (getKnot_setKnot_same ..)
    refine ⟨_, exec_knotCfgWrite_taken hu hl hk hc hf, knot, congrArg Knot.gen knot, congrArg Knot.arrivals knot, congrArg Knot.count knot, ?_⟩
    intro e c r w hr hw hn he
    have core := wakes_reach 1 (knotWaiters s d k) (setKnot s d k { knotReset with cfg := v &&& 0x7FFF, time := (getKnot s d k).time, fab := (getKnot s d k).fab })
      (by rw [getCore_setKnot]; exact hr) hw (mem_knotWaiters s hr hw hn he)
    rw [getCore_setKnot] at core
    refine ⟨_, by rw [core]; exact wokenCore_run .., runNext_wait rfl, fun q => ?_⟩
    rw [core]
    exact greg_wokenCore ..
  · intro n hp hd ha hz few
    obtain ⟨knot, -⟩ := releaseGen_facts (reachTime s (knotDie d k) t0) d k 0
    rw [getKnot_reachTime] at knot
    refine ⟨_, exec_timedRelease_armed hp ha hz few, congrArg Knot.gen knot, ?_, congrArg Knot.arrivals knot, fun ht hc => ?_⟩
    · rw [knot, ha]; rfl
    · rw [clock_releaseGen]
      refine clock_reachTime ?_ ht hc
      unfold knotDie
      split
      · exact hd
      · exact Nat.zero_lt_of_lt hd

end Sys2Proof.Proofs
end

section
/-! PROOFS. The core's DMA requests and the engine requests that it holds. -/

namespace Sys2Proof.Proofs

open Sys2Proof.Machine Sys2Proof.Laws

/-- A die that keeps its cores, its ground memory and its stack keeps its memories. -/
theorem same_setDie_keeps {s : State} {d : Nat} {x : Die} (cores : x.cores = (getDie s d).cores) (gnd : x.gnd = (getDie s d).gnd)
    (stk : x.stk = (getDie s d).stk) : SameMemory s (setDie s d x) := by
  intro e
  refine ⟨fun c a => by rw [getCore_setDie_cores cores], fun a => ?_, fun a => ?_⟩
  all_goals
    rw [getDie_setDie]
    split
    · next same => rw [same]; simp only [gnd, stk]
    · rfl

/-! DMA and DMAW (R132, R174) -/

section
variable {s : State} {d c : Nat} {k : Core} {r : Run} {w : Word64}

/-- R110: an instruction ends its job with st and leaves the DMA requests of its die alone. -/
def EndsBeforeDma (s : State) (d c : Nat) (i : Instr) (st : Status) : Prop :=
  ∃ t r', exec i s = .next t ∧ (getCore t d c).run = some r' ∧ r'.ended = some st ∧ (getDie t d).dmas = (getDie s d).dmas

theorem endRun_going {r : Run} (h : r.ended = none) (st : Status) : endRun r st = { r with ended := some st, posts := [], wait := none } := by
  simp only [endRun, h]

theorem endsBeforeDma_of {i : Instr} {st : Status} (he : r.ended = none) (hi : exec i s = .next (setCore s d c (setRun k (endRun r st)))) :
    EndsBeforeDma s d c i st :=
  ⟨_, _, hi, by rw [getCore_setCore_same]; rfl, by rw [endRun_going he], by rw [getDie_setCore, if_pos rfl]⟩

/-- The places that the source or the destination of the DMA instruction w names. -/
def dmaSrc (s : State) (d c : Nat) (k : Core) (r : Run) (w : Word64) : Except Status (List Seg) :=
  coreDmaSegs s d c r (bit w 38) .rd (greg k (fld w 57 53)).toNat (greg k (fld w 47 43)).toNat
def dmaDst (s : State) (d c : Nat) (k : Core) (r : Run) (w : Word64) : Except Status (List Seg) :=
  coreDmaSegs s d c r (bit w 37) .wr (greg k (fld w 52 48)).toNat (greg k (fld w 47 43)).toNat

/-- The core that has issued a DMA instruction of n bytes, in a state. -/
def dmaIssued (s : State) (d c : Nat) (k : Core) (r : Run) (n : Nat) : State := setCore s d c (corePmcEvent (issued k (runNext r)) 0x0B n)

theorem exec_dma_full (h : Issues s d c 0x38 k r w) (full : 64 ≤ (coreDmas (getDie s d) c).length) : exec (.dma d c) s = .next s :=
  congrArg Host.Outcome.next ((issue_of h _).trans (if_pos full))

theorem exec_dma_empty (h : Issues s d c 0x38 k r w) (room : (coreDmas (getDie s d) c).length < 64) (empty : (greg k (fld w 47 43)).toNat = 0) :
    exec (.dma d c) s = .next (setCore s d c (issued k (runNext r))) := by
  refine congrArg Host.Outcome.next ((issue_of h _).trans ?_)
  simp only [gnat, empty, if_neg (Nat.not_le.2 room)]
  rfl

theorem exec_dma_long (h : Issues s d c 0x38 k r w) (room : (coreDmas (getDie s d) c).length < 64) (long : 2 ^ 24 < (greg k (fld w 47 43)).toNat) :
    exec (.dma d c) s = .next (setCore s d c (setRun k (endRun r .badSlot))) :=
  congrArg Host.Outcome.next ((issue_of h _).trans ((if_neg (Nat.not_le.2 room)).trans (if_pos long)))

section
variable (h : Issues s d c 0x38 k r w) (room : (coreDmas (getDie s d) c).length < 64) (pos : 0 < (greg k (fld w 47 43)).toNat)
  (short : (greg k (fld w 47 43)).toNat ≤ 2 ^ 24)
include h room pos short

/-- R132: a DMA instruction of a length that the core serves depends on its two places alone. -/
theorem exec_dma_of : exec (.dma d c) s = .next (match dmaSrc s d c k r w, dmaDst s d c k r w with
    | .error e, _ => setCore s d c (setRun k (endRun r e))
    | _, .error e => setCore s d c (setRun k (endRun r e))
    | .ok src, .ok dst => dmaStart (dmaIssued s d c k r (greg k (fld w 47 43)).toNat) d (.core c (fld w 42 39)) src dst (greg k (fld w 47 43)).toNat) :=
  congrArg Host.Outcome.next ((issue_of h _).trans ((if_neg (Nat.not_le.2 room)).trans ((if_neg (Nat.not_lt.2 short)).trans (if_neg pos.ne'))))

theorem dma_badSource {e : Status} (src : dmaSrc s d c k r w = .error e) : EndsBeforeDma s d c (.dma d c) e :=
  endsBeforeDma_of h.going.1 ((exec_dma_of h room pos short).trans (by rw [src]))

theorem dma_badDestination {e : Status} {a : List Seg} (src : dmaSrc s d c k r w = .ok a) (dst : dmaDst s d c k r w = .error e) :
    EndsBeforeDma s d c (.dma d c) e :=
  endsBeforeDma_of h.going.1 ((exec_dma_of h room pos short).trans (by rw [src, dst]))

theorem exec_dma_starts {a b : List Seg} (src : dmaSrc s d c k r w = .ok a) (dst : dmaDst s d c k r w = .ok b) : exec (.dma d c) s =
    .next (dmaStart (dmaIssued s d c k r (greg k (fld w 47 43)).toNat) d (.core c (fld w 42 39)) a b (greg k (fld w 47 43)).toNat) :=
  (exec_dma_of h room pos short).trans (by rw [src, dst])

end

theorem dmaIssued_die (h : getCore s d c = k) (n : Nat) : (getCore (dmaIssued s d c k r n) d c).run = some (goneOn r) ∧ SameMemory s (dmaIssued s d c k r n) ∧
    (getDie (dmaIssued s d c k r n) d).dmas = (getDie s d).dmas := by
  refine ⟨?_, same_setCore (by rw [corePmcEvent_scratch, issued_scratch, h]), ?_⟩
  · rw [dmaIssued, getCore_setCore_same]; exact run_issued_next k r
  · rw [dmaIssued, getDie_setCore, if_pos rfl]

/-- The request that starts at die d. -/
def newDma (u : State) (d : Nat) (o : DmaOwner) (a b : List Seg) (n : Nat) : DmaReq :=
  { id := (getDie u d).nextId, owner := o, src := a, dst := b, len := n, next := 0, units := 0, busy := [], status := .ok, aborted := false,
    replayed := false }

/-- R174: a request with both places inside the package starts as the die's last, and moves nothing yet. -/
theorem dmaStart_lists (u : State) {a b : List Seg} (inside : ∀ g ∈ a ++ b, (placeDie g.place).isSome = true) (o : DmaOwner) (n : Nat) :
    (getCore (dmaStart u d o a b n) d c).run = (getCore u d c).run ∧ SameMemory u (dmaStart u d o a b n) ∧
    ∃ q, (getDie (dmaStart u d o a b n) d).dmas = (getDie u d).dmas ++ [q] ∧ q.owner = o ∧ q.src = a ∧ q.dst = b ∧ q.len = n ∧ q.next = 0 ∧
      q.busy = [] ∧ q.status = .ok := by
  rw [dmaStart_inside u d o a b n inside]
  refine ⟨?_, ?_, newDma u d o a b n, ?_, rfl, rfl, rfl, rfl, rfl, rfl, rfl⟩
  · simp only [getCore, coreOf, getDie_setDie_same]
  · exact same_setDie_keeps rfl rfl rfl
  · rw [getDie_setDie_same]; rfl

theorem exec_dmaw_of (h : Issues s d c 0x39 k r w) : exec (.dmaw d c) s =
    .next (if ∃ q ∈ (getDie s d).dmas, q.owner = .core c (fld w 57 54) then s else setCore s d c (issued k (runNext r))) := by
  refine congrArg Host.Outcome.next ((issue_of h _).trans ?_)
  have awaited : dmawReady (getDie s d) c w = true ↔ ¬ ∃ q ∈ (getDie s d).dmas, q.owner = .core c (fld w 57 54) := by
    simp [dmawReady]
  by_cases busy : ∃ q ∈ (getDie s d).dmas, q.owner = .core c (fld w 57 54)
  · rw [if_pos busy, if_neg (fun ready => awaited.1 ready busy)]
  · rw [if_neg busy, if_pos (awaited.2 busy)]

end

/-- Settles O21: the branches of the instruction in their order; a request inside the package is only listed (dmaStart_lists). -/
theorem dmaInstructionsStartAndAwaitRequests : Obligations.DmaInstructionsStartAndAwaitRequests := by
  intro s d c k r w n src dst goes ends
  refine ⟨exec_dma_full, fun h room => ⟨exec_dma_empty h room, fun long => endsBeforeDma_of h.going.1 (exec_dma_long h room long), fun pos short =>
    ⟨fun e => dma_badSource h room pos short, fun a e => dma_badDestination h room pos short, fun a b ha hb => ?_⟩⟩, exec_dmaw_of⟩
  have starts := exec_dma_starts h room pos short ha hb
  refine ⟨starts, fun inside => ⟨_, starts, ?_⟩⟩
  obtain ⟨run, same, dmas⟩ := dmaIssued_die (r := r) h.core_eq n
  obtain ⟨runs, moves, lists⟩ := dmaStart_lists (d := d) (c := c) (dmaIssued s d c k r n) inside (.core c (fld w 42 39)) n
  rw [dmas] at lists
  exact ⟨runs.trans run, same_trans same moves, lists⟩

/-! ENG (R133, R157) -/

/-- The record that ENG holds: the bytes read, with the engine's number, the job's partition and a register in their places. -/
def engBody (bs : List Byte) (e gpart v : Nat) : List Byte :=
  BitVec.ofNat 8 e :: (bs.drop 1).take 1 ++ [BitVec.ofNat 8 gpart] ++ (bs.drop 3).take 53 ++ toLe 8 v

theorem nth_engBody {bs : List Byte} (full : bs.length = 64) (e gpart v : Nat) {j : Nat} (hj : j < 64) : nth (engBody bs e gpart v) j 0 =
    if j = 0 then BitVec.ofNat 8 e else if j = 2 then BitVec.ofNat 8 gpart else if 56 ≤ j then BitVec.ofNat 8 (v / 256 ^ (j - 56)) else nth bs j 0 := by
  have front : (BitVec.ofNat 8 e :: (bs.drop 1).take 1 ++ [BitVec.ofNat 8 gpart]).length = 3 := by simp [full]
  have body : (BitVec.ofNat 8 e :: (bs.drop 1).take 1 ++ [BitVec.ofNat 8 gpart] ++ (bs.drop 3).take 53).length = 56 := by simp [full]
  rw [engBody, nth_append, body, nth_append, front]
  by_cases h56 : j < 56
  · rw [if_pos h56, if_neg (Nat.not_le.2 h56)]
    by_cases h3 : j < 3
    · rw [if_pos h3]
      have one : (bs.drop 1).take 1 = [nth bs 1 0] := by
        rw [List.take_one, List.head?_drop, nth, List.getElem?_eq_getElem (by omega)]; rfl
      rw [one]
      interval_cases j <;> rfl
    · rw [if_neg h3, if_neg (by omega), if_neg (by omega), nth_take_drop _ _ _ _ _ (by omega), Nat.add_sub_cancel' (Nat.not_lt.1 h3)]
  · rw [if_neg h56, if_neg (by omega), if_neg (by omega), if_pos (Nat.not_lt.1 h56), nth_toLe _ _ _ (by omega)]

section
variable {s : State} {d c : Nat} {k : Core} {r : Run} {w : Word64}

theorem exec_eng_full (h : Issues s d c 0x3A k r w) (full : r.posts.length = 16) :
    exec (.eng d c) s = .next (setCore s d c (setRun k (endRun r .badInsn))) :=
  congrArg Host.Outcome.next ((issue_of h _).trans (if_pos full.ge))

/-- A job that holds one more post. -/
def posted (r : Run) (e : Nat) (q : Word512) : Run := { r with posts := r.posts ++ [(e, q)] }

theorem exec_eng_read (h : Issues s d c 0x3A k r w) (room : r.posts.length < 16) (ha : (greg k (fld w 54 50)).toNat % 64 = 0) {bs : List Byte} {t : State}
    (hr : seqRead s d k r (greg k (fld w 54 50)).toNat 64 = .ok (bs, t)) :
    exec (.eng d c) s = .next (setCore t d c (issued k (runNext (posted r (fld w 57 55)
      (BitVec.ofNat 512 (leNat (engBody bs (fld w 57 55) (dGpart r.job) (greg k (fld w 49 45)).toNat))))))) := by
  refine congrArg Host.Outcome.next ((issue_of h _).trans ((if_neg (Nat.not_le.2 room)).trans ?_))
  simp only [gnat, aligned, ha, if_true, hr]
  rfl

end

/-- Settles O22: the record is engBody of the bytes that the core sees. -/
theorem engHoldsARequestAsAPost : Obligations.EngHoldsARequestAsAPost := by
  intro s d c k r w h a
  refine ⟨fun full => ⟨_, _, exec_eng_full h full, by rw [getCore_setCore_same]; rfl, by rw [endRun_going h.going.1], by rw [endRun_going h.going.1]⟩,
    fun room ha hc next => ?_⟩
  have read : seqRead s d k r a 64 = .ok (seenBytes s d k a 64, readState s d a 64) := seqRead_ok ha (by decide) hc
  have full : (seenBytes s d k a 64).length = 64 := by rw [seenBytes, List.length_map, List.length_range]
  refine ⟨_, { posted r (fld w 57 55) (BitVec.ofNat 512 (leNat (engBody (seenBytes s d k a 64) (fld w 57 55) (dGpart r.job) (greg k (fld w 49 45)).toNat))) with
    pc := r.pc + 1, instr := r.instr + 1 }, _, exec_eng_read h room ha read, ?_, rfl, h.going.1, rfl, ?_, fun j hj => ?_⟩
  · rw [getCore_setCore_same]; exact issued_goes (r := posted r _ _) (r1 := r) next h.going.1
  · exact same_trans (same_readState s d a 64) (same_setCore (by rw [getCore_readState, issued_scratch, h.core_eq]))
  · rw [fld_record _ _ (by omega), nth_engBody full _ _ _ hj]
    have engine : fld w 57 55 < 256 := lt_of_lt_of_le (fld_lt ..) (by decide)
    split
    · exact Nat.mod_eq_of_lt engine
    · split
      · rfl
      · split
        · rfl
        · rw [seenBytes, nth_map_range _ _ _ _ hj]

end Sys2Proof.Proofs
end

section
/-! PROOFS. A job's life on its core: its start, its time limit, its end with a record. -/

namespace Sys2Proof.Proofs

open Sys2Proof.Machine Sys2Proof.Laws

/-! The start (R102, R103) -/

/-- Whether a job loads its image, and the image that its core then holds, the words at po where it is loaded. -/
def loads (k : Core) (j : Job) : Bool := dLoad j || k.image.isNone
def startImage (x : Die) (k : Core) (j : Job) (po : Nat) : Image :=
  let bs := if loads k j then memRead x.gnd.cells po (8 * dProgLen j) else []
  if loads k j then (upto (dProgLen j)).map (fun i => BitVec.ofNat 64 (bytesNat bs (8 * i) 8)) else k.image.getD []

/-- What the reads of a job's start leave of its die. -/
def startTouch (k : Core) (j : Job) (po ao : Nat) (x : Die) : Die := dieGndTouch (if loads k j then dieGndTouch x po (8 * dProgLen j) else x) ao 64

theorem loads_iff (k : Core) (j : Job) : loads k j = true ↔ dLoad j = true ∨ k.image = none := by
  rw [loads, Bool.or_eq_true, Option.isNone_iff_eq_none]

theorem startImage_loaded {x : Die} {k : Core} {j : Job} {po : Nat} (need : loads k j = true) : (startImage x k j po).length = dProgLen j ∧
    ∀ i, i < dProgLen j → nth (startImage x k j po) i 0 = BitVec.ofNat 64 (memNat x.gnd.cells (po + 8 * i) 8) := by
  simp only [startImage, if_pos need]
  refine ⟨by rw [List.length_map, upto, List.length_range], fun i hi => ?_⟩
  rw [upto, nth_map_range _ _ _ _ hi, bytesNat_memRead _ _ _ _ _ (by omega)]

theorem startImage_held {x : Die} {k : Core} {j : Job} {po : Nat} (held : ¬loads k j = true) : k.image = some (startImage x k j po) := by
  simp only [startImage, if_neg held]
  rw [loads_iff] at held
  cases h : k.image with
  | none => exact absurd (.inr h) held
  | some im => rfl

/-- R103: g1 to g8 are the argument block, every other register is zero. -/
theorem greg_startCore (x : Die) (k : Core) (j : Job) (im : Image) (m : List Host.Cell) (ao q : Nat) : greg (startCore x k j im (memRead m ao 64)) q =
    if 1 ≤ q ∧ q ≤ 8 then BitVec.ofNat 64 (memNat m (ao + 8 * (q - 1)) 8) else 0 := by
  have args : q - 1 ∈ upto 8 ↔ q ≤ 8 ∨ q = 0 := by rw [upto, List.mem_range]; omega
  simp only [greg, startCore, tget, tfind_map_succ, args]
  by_cases hq : 1 ≤ q ∧ q ≤ 8
  · rw [if_pos hq, if_neg (by omega), if_pos ⟨hq.1, .inl hq.2⟩, Option.getD_some, bytesNat_memRead _ _ _ _ _ (by omega)]
  · rw [if_neg hq]
    split
    · rfl
    · rw [if_neg (by omega), Option.getD_none]

theorem touchOnly_startTouch (k : Core) (j : Job) (po ao : Nat) (x : Die) : TouchOnly x (startTouch k j po ao x) := by
  unfold startTouch
  split
  · exact touchOnly_trans (dieGndTouch_only ..) (dieGndTouch_only ..)
  · exact dieGndTouch_only ..

section
variable {s : State} {d c : Nat} {j : Job} {rest : List Job} {po ao : Nat}

/-- The state in which the oldest job of a core has started. -/
def started (s : State) (d c : Nat) (j : Job) (rest : List Job) (po ao : Nat) : State :=
  let x := getDie s d
  let k := { getCore s d c with jobs := rest }
  setCore (updDie (setCore s d c k) d (startTouch k j po ao)) d c (startCore x k j (startImage x k j po) (memRead x.gnd.cells ao 64))

theorem exec_jobStart_of (up : dieUp s d = true) (hc : c < 150) (idle : (getCore s d c).run = none) (free : (getCore s d c).fenced = false)
    (works : (getCore s d c).testing = false) (there : (getCore s d c).retired = false) (comp : (getDie s d).compFenced = false)
    (jobs : (getCore s d c).jobs = j :: rest) (prog : jobGround (getDie s d) j (dProgAddr j) (8 * dProgLen j) = some po)
    (args : jobGround (getDie s d) j (dArgAddr j) 64 = some ao) (clean : gndPoisoned (getDie s d).gnd ao 64 = false)
    (image : loads (getCore s d c) j = true → gndPoisoned (getDie s d).gnd po (8 * dProgLen j) = false) :
    exec (.jobStart d c) s = .next (started s d c j rest po ao) := by
  have good : (loads (getCore s d c) j && gndPoisoned (getDie s d).gnd po (8 * dProgLen j) || gndPoisoned (getDie s d).gnd ao 64) = false := by
    rw [clean, Bool.or_false, Bool.and_eq_false_imp]
    exact image
  have starts : (!dieUp s d || decide (150 ≤ c) || (getCore s d c).run.isSome || (getCore s d c).fenced || (getCore s d c).testing) = false := by
    rw [up, idle, free, works, decide_eq_false (Nat.not_le.2 hc)]; rfl
  have stays : ((getCore s d c).retired || (getDie s d).compFenced) = false := by rw [there, comp]; rfl
  refine congrArg Host.Outcome.next ((if_neg (Bool.eq_false_iff.1 starts)).trans ?_)
  simp only [show (coreOf (getDie s d) c).jobs = j :: rest from jobs]
  refine (if_neg (Bool.eq_false_iff.1 stays)).trans ?_
  simp only [prog, args]
  unfold loads at good
  refine (if_neg (Bool.eq_false_iff.1 good)).trans ?_
  rfl

theorem getDie_started (s : State) (d c : Nat) (j : Job) (rest : List Job) (po ao : Nat) :
    (getDie (started s d c j rest po ao) d).dmas = (getDie s d).dmas ∧ (getDie (started s d c j rest po ao) d).gnd.cells = (getDie s d).gnd.cells := by
  obtain ⟨g, f, only, cells⟩ := touchOnly_startTouch { getCore s d c with jobs := rest } j po ao (getDie (setCore s d c { getCore s d c with jobs := rest }) d)
  have die : getDie (started s d c j rest po ao) d = { { getDie (setCore s d c { getCore s d c with jobs := rest }) d with gnd := g, faults := f } with
      cores := (getDie (started s d c j rest po ao) d).cores } := by
    rw [← only, started]
    simp only [getDie_setCore, if_true, getDie_updDie_same]
  rw [die]
  refine ⟨?_, cells.trans ?_⟩ <;> rw [getDie_setCore, if_pos rfl]

end

/-- Settles O23: the core is startCore of the idle one; the reads of the image and the arguments leave every byte (touchOnly_startTouch). -/
theorem jobStartsWithItsArgumentsOnAClearedCore : Obligations.JobStartsWithItsArgumentsOnAClearedCore := by
  intro s d c j rest po ao x k up hc idle free works there comp jobs prog args clean need image
  have starts := exec_jobStart_of up hc idle free works there comp jobs prog args clean (fun h => image ((loads_iff k j).1 h))
  have core : getCore (started s d c j rest po ao) d c = startCore x { k with jobs := rest } j (startImage x k j po) (memRead x.gnd.cells ao 64) :=
    getCore_setCore_same ..
  obtain ⟨dmas, cells⟩ := getDie_started s d c j rest po ao
  refine ⟨_, _, startImage x k j po, starts, by rw [core]; rfl, rfl, rfl, rfl, rfl, rfl, by rw [core]; rfl, by rw [core]; rfl,
    fun h => startImage_loaded ((loads_iff k j).2 h), fun h => startImage_held (mt (loads_iff k j).1 h), fun q => by rw [core]; exact greg_startCore ..,
    fun a => by rw [core]; rfl, fun a => by rw [core]; rfl, fun i => by rw [core]; exact ⟨rfl, rfl⟩, by rw [core]; rfl, by rw [core]; rfl, by rw [core]; rfl,
    by rw [core]; rfl, rfl, rfl, rfl, dmas, fun a => by rw [cells]⟩

/-! The end with a record (R105, R110, R365) -/

/-- R402: a digest log that is off takes no record. -/
theorem putLog_off {s : State} (off : bit (regWord (getDie s 0) rTIME_DLOG) 0 = false) (source die core key tag : Nat) (digest : Word128) :
    putLog s source die core key tag digest = s := by
  simp only [putLog, off, Bool.false_and, Bool.false_eq_true, if_false]

/-- R365: the record of an operation goes to its completion ring where that has room and no earlier record waits. -/
theorem postRec_opRec {s : State} {o : Op} (st : Status) (pos : Nat) (d0 d1 d2 : Word32) (takes : cqTakes s o.cq = true)
    (first : s.recs.any (fun x => x.cq == o.cq && recReady s x) = false) : postRec s (opRec o st pos d0 d1 d2) = writeRec s (opRec o st pos d0 d1 d2) := by
  have ready : recReady s (opRec o st pos d0 d1 d2) = true := rfl
  unfold postRec
  rw [if_pos]
  rw [ready, Bool.and_true, Bool.and_eq_true, Bool.not_eq_true']
  exact ⟨takes, first⟩

section
variable {s : State} {d c : Nat} {r : Run} {o : Op}

/-- The core that its ended job leaves. -/
def leftCore (k : Core) (r : Run) : Core :=
  { k with
    run := none
    accStatus := if r.ended.isNone then r.status else k.accStatus
    vecStatus := if r.ended.isNone then r.vstatus else k.vecStatus
    pmc := pmcEvent (pmcSlot k.pmc (if r.ended.isNone then 0 else 1) r.instr) 0x0F (b2n r.ended.isNone) }

/-- The record of a job that has ended. -/
def jobRec (r : Run) (o : Op) : Rec := opRec o (r.ended.getD .ok) (jobPos r) r.status r.vstatus 0

/-- A job's record, as the model writes it where its operation is listed and its ring has room. -/
theorem jobRecord_written {u : State} (hj : r.job.op = some o.id) (ho : findOp u o.id = some o) (hq : r.job.cq = o.cq) (room : jobRoom u r.job = true) :
    jobRecord u r.job (r.ended.getD .ok) (jobPos r) r.status r.vstatus = writeRec u (jobRec r o) := by
  rw [jobRoom, Bool.and_eq_true, Bool.not_eq_true', hq] at room
  simp only [jobRecord, hj, ho]
  exact postRec_opRec _ _ _ _ _ room.1 room.2

theorem exec_jobCommit_of (up : dieUp s d = true) (hr : (getCore s d c).run = some r) (ends : r.halted = true ∨ r.ended.isSome = true)
    (idle : unitsIdle s d c (getCore s d c) r = true) (room : jobRoom s r.job = true) (posts : ∀ e ∈ s.engWait, e.src ≠ .core d c)
    (off : bit (regWord (getDie s 0) rTIME_DLOG) 0 = false) : exec (.jobCommit d c) s =
      .next (jobRecord (setCore s d c (leftCore (getCore s d c) r)) r.job (r.ended.getD .ok) (jobPos r) r.status r.vstatus) := by
  have waits : s.engWait.any (fun q => q.src == .core d c) = false := by
    rw [List.any_eq_false]
    intro e he
    rw [beq_iff_eq]
    exact posts e he
  have done : (!dieUp s d || !(r.halted || r.ended.isSome) || !unitsIdle s d c (getCore s d c) r || !jobRoom s r.job ||
      (r.ended.isNone && s.engWait.any (fun q => q.src == .core d c))) = false := by
    have ending : (r.halted || r.ended.isSome) = true := by rw [Bool.or_eq_true]; exact ends
    rw [up, idle, room, waits, ending, Bool.and_false]; rfl
  have offStill : bit (regWord (getDie (setCore s d c (leftCore (getCore s d c) r)) 0) rTIME_DLOG) 0 = false := by
    rw [getDie_setCore]
    split
    · next same => rw [← same]; exact off
    · exact off
  refine congrArg Host.Outcome.next ?_
  simp only [jobCommit, hr]
  refine (if_neg (Bool.eq_false_iff.1 done)).trans (congrArg (fun u => jobRecord u r.job (r.ended.getD .ok) (jobPos r) r.status r.vstatus) ?_)
  exact (ite_congr rfl (fun _ => putLog_off offStill ..) fun _ => rfl).trans (ite_self _)

end

/-- Settles O24: with its ring's room the record is written at once (postRec_opRec), and writing it leaves the dies (writeRec_facts). -/
theorem jobEndsWithItsRecord : Obligations.JobEndsWithItsRecord := by
  intro s d c r o k q st up hr ends idle hj ho hq room posts off
  obtain ⟨sent, -, tail, dies, variant, -, gone⟩ := writeRec_facts (setCore s d c (leftCore k r)) (jobRec r o)
  have core : getCore (writeRec (setCore s d c (leftCore k r)) (jobRec r o)) d c = leftCore k r := by
    rw [getCore, getDie_of_dies dies variant]
    exact getCore_setCore_same ..
  refine ⟨_, (exec_jobCommit_of up hr ends idle room posts off).trans (congrArg Host.Outcome.next (jobRecord_written hj ho hq room)), ?_, gone _ rfl, sent, tail, ?_, ?_⟩
  · rw [core]; rfl
  all_goals
    rw [core]
    simp only [leftCore, Option.isNone_iff_eq_none]

/-! The time limit (R108) and a log record without a partner (R403) -/

theorem same_wake (s : State) (d c v : Nat) : SameMemory s (wake s d c v) := by
  obtain ⟨r, g, woken⟩ := (wake_woken s d c v).1 d c
  refine same_setCore ?_
  rw [wake, updCore, getCore_setCore_same] at woken
  have kept := congrArg Core.scratch woken
  exact kept

theorem same_setKnot (s : State) (d k : Nat) (n : Knot) : SameMemory s (setKnot s d k n) := by
  unfold setKnot
  split
  · exact same_setDie_keeps rfl rfl rfl
  · exact same_refl s

theorem same_serveTakes (s : State) (d k n : Nat) : SameMemory s (serveTakes s d k n) := by
  induction n generalizing s with
  | zero => exact same_refl s
  | succ n ih =>
    simp only [serveTakes]
    split
    · split
      · exact same_trans (same_setKnot _ _ _ _) (same_trans (same_wake _ _ _ _) (ih _))
      · exact same_refl s
    · exact same_refl s

/-- What a core that leaves its knot leaves as it is: itself and every byte of memory; a KTAKE of it waits no longer. -/
theorem leaveKnot_leaves {s : State} {d c : Nat} {r : Run} (hr : (getCore s d c).run = some r) :
    getCore (leaveKnot s d c) d c = getCore s d c ∧ SameMemory s (leaveKnot s d c) ∧
    ∀ w, r.wait = some w → w.take = true → NotQueued (getKnot (leaveKnot s d c) d w.knot) d c := by
  simp only [leaveKnot, hr]
  split
  · next w waits =>
    split
    · obtain ⟨core, out⟩ := dropTake_leaves s d c w.knot
      refine ⟨core, same_trans (same_setKnot _ _ _ _) (same_serveTakes _ _ _ _), fun v hv _ => ?_⟩
      obtain rfl : w = v := Option.some.inj (waits.symm.trans hv)
      exact out
    · next stays =>
      refine ⟨rfl, same_refl s, fun v hv takes => absurd takes ?_⟩
      obtain rfl : w = v := Option.some.inj (waits.symm.trans hv)
      exact stays
  · next free => exact ⟨rfl, same_refl s, fun v hv _ => absurd (free.symm.trans hv) (by simp)⟩

section
variable {s : State} {d c : Nat} {r : Run}

/-- The posts of core c of die d that no engine has accepted are discarded. -/
def postsDropped (s : State) (d c : Nat) : State := { s with engWait := s.engWait.filter (fun q => q.src != .core d c) }

theorem getKnot_postsDropped (s : State) (d c e k : Nat) : getKnot (postsDropped s d c) e k = getKnot s e k := rfl

theorem exec_jobTimeout_of (up : dieUp s d = true) (hr : (getCore s d c).run = some r) (going : r.ended = none) (limit : dTimeLimit r.job ≠ 0) :
    exec (.jobTimeout d c) s =
      .next (setCore (postsDropped (leaveKnot s d c) d c) d c (endJob (getCore (leaveKnot s d c) d c) .timeout)) := by
  have goes : ¬(dTimeLimit r.job = 0 ∨ r.ended.isSome = true ∨ (!dieUp s d) = true) := by
    rw [going, up]
    rintro (none | ended | down)
    · exact limit none
    · cases ended
    · cases down
  refine congrArg Host.Outcome.next ?_
  simp only [jobTimeout, hr]
  exact if_neg goes

theorem jobTimeout_ends (up : dieUp s d = true) (hr : (getCore s d c).run = some r) (going : r.ended = none) (limit : dTimeLimit r.job ≠ 0) :
    ∃ t r', exec (.jobTimeout d c) s = .next t ∧ (getCore t d c).run = some r' ∧ r'.ended = some .timeout ∧ r'.posts = [] ∧ r'.wait = none ∧
      (∀ w, r.wait = some w → w.take = true → NotQueued (getKnot t d w.knot) d c) ∧ (∀ e ∈ t.engWait, e.src ≠ .core d c) ∧ SameMemory s t := by
  obtain ⟨core, same, out⟩ := leaveKnot_leaves hr
  have run : (endJob (getCore s d c) .timeout).run = some { r with ended := some .timeout, posts := [], wait := none } := by
    simp only [endJob, hr, endRun_going going, setRun]
  refine ⟨_, _, exec_jobTimeout_of up hr going limit, by rw [getCore_setCore_same, core]; exact run, rfl, rfl, rfl, fun w hw takes => ?_, fun e he => ?_, ?_⟩
  · rw [getKnot_setCore, getKnot_postsDropped]
    exact out w hw takes
  · exact bne_iff_ne.1 (List.mem_filter.1 he).2
  · exact same_trans same (same_setCore (by rw [endJob_scratch]; rfl))

end

/-- R403: the oldest own record is given up. -/
def orphaned (s : State) (rest : List LsRec) : State :=
  { s with time := { s.time with own := rest, peer := s.time.peer.filter (fun r => !lsOver s r), lsOrph := satInc 0xFF s.time.lsOrph } }

theorem exec_lockstepOrphanTimeout_of {s : State} {o : LsRec} {rest : List LsRec} (up : s.phase = .up) (own : s.time.own = o :: rest) (old : lsOver s o = true) :
    exec .lockstepOrphanTimeout s = .next (postEvent (orphaned s rest) 0x11 0xFF 7 (o.tag % 2 ^ 32) (o.tag / 2 ^ 32) 0) := by
  rw [← Nat.shiftRight_eq_div_pow]
  refine congrArg Host.Outcome.next ((if_pos (by rw [up]; rfl)).trans ?_)
  simp only [orphan, own]
  refine (if_neg ?_).trans rfl
  rw [Bool.not_eq_true', Bool.not_eq_false]
  exact old

/-- Settles O25: a core that leaves its knot is left as it is (leaveKnot_leaves), and then its job ends. -/
theorem jobTimeLimitAndLockstepOrphan : Obligations.JobTimeLimitAndLockstepOrphan :=
  ⟨fun _ _ _ _ => jobTimeout_ends, fun _ _ _ => exec_lockstepOrphanTimeout_of⟩

end Sys2Proof.Proofs
end

section
/-! PROOFS. Descriptors of core jobs, engine operations and DMA, and aborts. -/

namespace Sys2Proof.Proofs

open Sys2Proof.Machine Sys2Proof.Laws

/-! NOP, core jobs and DMA (R102, R104, R175, R364) -/

section
variable {s : State} {q : Nat} {desc : Word512} {ext : List Host.Cell}

/-- A descriptor command that acts on a descriptor of its own TYPE. -/
theorem takeDesc_type {n : Nat} {body : State → Op → State} (h : Accepts s q desc ext) (hn : fld desc 7 0 = n) :
    takeDesc q desc ext (dType desc == n) body s = body (accepted s q desc ext) (newOp s q desc ext) :=
  takeDesc_of h (beq_iff_eq.2 hn)

theorem exec_nopDescriptor_of (h : Accepts s q desc ext) (type : fld desc 7 0 = 0) : exec (.nopDescriptor q desc ext) s =
    .next (complete (accepted s q desc ext) (newOp s q desc ext) (if fld desc 511 128 = 0 then .ok else .badDesc) 0) :=
  congrArg Host.Outcome.next (takeDesc_type h type)

theorem exec_coreJob_of (h : Accepts s q desc ext) (type : fld desc 7 0 = 1) :
    exec (.coreJob q desc ext) s = .next (jobBody (accepted s q desc ext) (newOp s q desc ext)) :=
  congrArg Host.Outcome.next (takeDesc_type h type)

theorem jobBody_refused {a : State} {o : Op} {e : Status} (he : jobErr a o.desc = some e) : jobBody a o = complete a o e 0 := by
  simp only [jobBody, he]

/-- R104: the job of an operation. -/
def jobOf (o : Op) : Job := { op := some o.id, cq := o.cq, tag := o.tag, desc := o.desc, replay := false, told := false }

theorem jobBody_queued {a : State} {o : Op} (he : jobErr a o.desc = none) : jobBody a o = queueJob a (jobOf o) := by
  simp only [jobBody, he]; rfl

theorem jobs_queueJob (a : State) (j : Job) :
    (getCore (queueJob a j) (jobDie j.desc) (jobCore j.desc)).jobs = (getCore a (jobDie j.desc) (jobCore j.desc)).jobs ++ [j] := by
  rw [queueJob, updCore, getCore_setCore_same]

theorem getCore_accepted (s : State) (q : Nat) (desc : Word512) (ext : List Host.Cell) (d c : Nat) :
    getCore (accepted s q desc ext) d c = getCore s d c := by
  obtain ⟨dies, variant, -⟩ := accepted_dies s q desc ext
  rw [getCore, getDie_of_dies dies variant]; rfl

theorem exec_dmaDescriptor_of (h : Accepts s q desc ext) (type : fld desc 7 0 = 3) :
    exec (.dmaDescriptor q desc ext) s = .next (dmaBody (accepted s q desc ext) (newOp s q desc ext)) :=
  congrArg Host.Outcome.next (takeDesc_type h type)

theorem dmaBody_empty {a : State} {o : Op} (clean : fld o.desc 511 288 = 0) (empty : fld o.desc 287 256 = 0) : dmaBody a o = complete a o .ok 0 :=
  (if_neg (not_not_intro clean)).trans (if_pos empty)

/-- R175: a DMA whose two places are good starts at its die's movers. -/
theorem dmaBody_starts {a : State} {o : Op} {src dst : List Seg} (clean : fld o.desc 511 288 = 0) (nonempty : fld o.desc 287 256 ≠ 0)
    (hs : segs a .rd (fld o.desc 191 128) (fld o.desc 287 256) = .ok src) (hd : segs a .wr (fld o.desc 255 192) (fld o.desc 287 256) = .ok dst)
    (reach : linkReaches a (dmaDie src dst) = true) (works : (getDie a (dmaDie src dst)).flt = 0)
    (movers : (getDie a (dmaDie src dst)).moverFenced.length < 4) (es : segsErr a (dmaDie src dst) none src = none)
    (ed : segsErr a (dmaDie src dst) none dst = none) :
    dmaBody a o = dmaStart a (dmaDie src dst) (.op o.id) src dst (fld o.desc 287 256) := by
  have fs : dsc o.desc 16 8 = fld o.desc 191 128 := rfl
  have fd : dsc o.desc 24 8 = fld o.desc 255 192 := rfl
  have fn : dsc o.desc 32 4 = fld o.desc 287 256 := rfl
  refine (if_neg (not_not_intro clean)).trans ((if_neg nonempty).trans ?_)
  simp only [fs, fd, fn, hs, hd, reach, works, es, ed, Nat.not_le.2 movers, ne_eq, not_true_eq_false, Bool.not_true, Bool.false_eq_true, or_self, if_false, Option.orElse_none]

/-! Engine operations (R177) -/

/-- R177: the request that an engine operation copies. -/
def engineReq (o : Op) (bs : List Byte) : EngReq :=
  { id := 0, req := BitVec.ofNat 512 (leNat bs), src := .op o.id, unit := 0, done := none, digest := none, writes := 0, wstatus := .ok
    got := [], reads := [], replayed := false, aborted := false }

theorem exec_engineOperation_of (h : Accepts s q desc ext) (type : fld desc 7 0 = 2) (clean : fld desc 511 192 = 0) (aligned : fld desc 191 128 % 64 = 0)
    {bs : List Byte} {s1 : State} (read : devRead (accepted s q desc ext) (linkDie (accepted s q desc ext)) (fld desc 191 128) 64 ext = .ok (bs, s1)) :
    exec (.engineOperation q desc ext) s = .next ((submit s1 (linkDie s1) (engineReq (newOp s q desc ext) bs) true).getD s1) := by
  have fa : dsc (newOp s q desc ext).desc 16 8 = fld desc 191 128 := rfl
  refine congrArg Host.Outcome.next ((takeDesc_type h type).trans ((if_neg (not_not_intro clean)).trans ((if_neg (not_not_intro aligned)).trans ?_)))
  simp only [fa, read]
  rfl

/-- R152: a request whose record is reserved is accepted at its executing die. -/
theorem submit_reserved {u : State} {d t : Nat} {g : EngReq} (dest : engDest u (toLe 64 g.req.toNat) = .die t) (reach : crosses u d t = true)
    (works : (getDie u t).flt = 0) : submit u d g true = some (if t = d then acceptOn u t g none else crossReq u d t g) := by
  simp only [submit, dest, reach, works, Bool.not_true, Bool.false_eq_true, if_false, Bool.true_or, if_true, ne_eq, not_true_eq_false]

theorem submitted_listed {u : State} {d t : Nat} {g : EngReq} (way : g.way = none) (dest : engDest u (toLe 64 g.req.toNat) = .die t)
    (reach : crosses u d t = true) (works : (getDie u t).flt = 0) : ∃ g', (getDie ((submit u d g true).getD u) t).engs = (getDie u t).engs ++ [g'] ∧
      g'.req = g.req ∧ g'.src = g.src ∧ g'.way = (if t = d then none else some d) ∧
      (rq g.req 0 1 < 4 → ∀ n, pickUnit (getDie u t) (rq g.req 0 1) = some n → g'.unit = n ∧ g'.done = (reqErr u t g).map doneWith) := by
  rw [submit_reserved dest reach works, Option.getD_some]
  obtain ⟨g', -, engs, req, src, away, here, unit, -⟩ := submitted_accepted (q := g) reach
  refine ⟨g', engs, req, src, ?_, unit⟩
  split
  · next same => rw [here same, way]
  · next other => exact away other

end

/-- Settles O31: takeDesc_type leaves each TYPE its own body; an engine request with its record reserved is accepted (submitted_listed). -/
theorem nopJobEngineAndDmaDescriptorsTakeEffect : Obligations.NopJobEngineAndDmaDescriptorsTakeEffect := by
  intro s q desc ext h a o
  refine ⟨exec_nopDescriptor_of h, fun type e he => ?_, fun type he => ?_, fun type clean aligned bs s1 read => ?_, fun type clean empty => ?_,
    fun type clean nonempty src dst hs hd reach works movers es ed => ?_⟩
  · exact (exec_coreJob_of h type).trans (congrArg _ (jobBody_refused he))
  · refine ⟨_, jobOf o, (exec_coreJob_of h type).trans (congrArg _ (jobBody_queued he)), (jobs_queueJob a (jobOf o)).trans ?_, rfl, rfl, rfl, rfl⟩
    rw [getCore_accepted]; rfl
  · exact ⟨engineReq o bs, rfl, rfl, rfl, exec_engineOperation_of h type clean aligned read,
      fun t dest reach works => let ⟨g', listed⟩ := submitted_listed rfl dest reach works; ⟨_, g', exec_engineOperation_of h type clean aligned read, listed⟩⟩
  · exact (exec_dmaDescriptor_of h type).trans (congrArg _ (dmaBody_empty (o := o) clean empty))
  · exact (exec_dmaDescriptor_of h type).trans (congrArg _ (dmaBody_starts (o := o) clean nonempty hs hd reach works movers es ed))

/-! Aborts (R108, R369) -/

section
variable {s : State} {q : Nat} {desc : Word512} {ext : List Host.Cell}

theorem exec_abort_of (h : Accepts s q desc ext) (type : fld desc 7 0 = 0x0C) :
    exec (.abort q desc ext) s = .next (abortBody ext (accepted s q desc ext) (newOp s q desc ext)) :=
  congrArg Host.Outcome.next (takeDesc_type h type)

theorem abortBody_badFormat {a : State} {o : Op} (bad : fld o.desc 159 136 ≠ 0 ∨ fld o.desc 511 192 ≠ 0) : abortBody ext a o = complete a o .badFormat 0 :=
  if_pos bad

/-- A state in which one free value has been drawn. -/
def drawn (a : State) : State := { a with fresh := a.fresh + 1 }

/-- The companion address of the target's descriptor, and the TYPE that an abort finds there (log entries 4 and 13). -/
def targetSlot (a : State) (o : Op) : Nat :=
  (getSq a (fld o.desc 135 128)).base + 64 * (fld o.desc 191 160 % 2 ^ (getSq a (fld o.desc 135 128)).log2)
def targetType (ext : List Host.Cell) (a : State) (o : Op) : Nat := leNat (cellsRead ext (Config.outsideByte a.fresh) (targetSlot a o) 1)

theorem abortBody_target {a : State} {o : Op} (clean : fld o.desc 159 136 = 0) (clean2 : fld o.desc 511 192 = 0) :
    abortBody ext a o = abortTarget ext (drawn a) o (fld o.desc 135 128) (fld o.desc 191 160) (targetType ext a o) :=
  if_neg (by rintro (bad | bad); exacts [bad clean, bad clean2])

/-- The byte that a list of cells gives for an address, where all its cells of that address agree. -/
theorem cellsRead_given {m : List Host.Cell} {f : Nat → Byte} {i : Nat} {b : Byte} (given : (i, b) ∈ m) (only : ∀ c ∈ m, c.1 = i → c.2 = b) :
    leNat (cellsRead m f i 1) = b.toNat := by
  have found : (m.find? (fun c => c.1 == i)).map (·.2) = some b := by
    cases hf : m.find? (fun c => c.1 == i) with
    | none => exact absurd (beq_self_eq_true i) (List.find?_eq_none.1 hf _ given)
    | some c =>
      have hit := List.find?_some hf
      exact congrArg some (only c (List.mem_of_find?_eq_some hf) (beq_iff_eq.1 hit))
  simp only [cellsRead, found, Option.getD_some, leNat, Nat.mul_zero, Nat.add_zero]

end

/-- A list without an entry of two given fields. -/
theorem find_pair_none {α : Type} {l : List α} {f g : α → Nat} {i j : Nat} (h : ∀ x ∈ l, f x ≠ i ∨ g x ≠ j) : l.find? (fun x => f x == i && g x == j) = none := by
  rw [List.find?_eq_none]
  intro x hx both
  rw [Bool.and_eq_true, beq_iff_eq, beq_iff_eq] at both
  exact (h x hx).elim (absurd both.1) (absurd both.2)

section
variable {ext : List Host.Cell} {b : State} {o : Op} {tq ti type : Nat}

/-- R369: an abort of a descriptor not yet accepted marks it. -/
theorem abortTarget_ahead (ahead : (ti + 2 ^ 32 - (getSq b tq).head) % 2 ^ 32 < ((getSq b tq).tail + 2 ^ 32 - (getSq b tq).head) % 2 ^ 32)
    (stops : ¬(type = 0 ∨ type = 0x0C)) :
    (getSq (abortTarget ext b o tq ti type) tq).aborts = sadd (getSq b tq).aborts ti := by
  have marks : abortTarget ext b o tq ti type = complete (setSq b tq { getSq b tq with aborts := sadd (getSq b tq).aborts ti }) o .ok 0 :=
    (if_pos ahead).trans (if_neg stops)
  rw [marks, aborts_complete, getSq_setSq_same]

/-- R369: descriptor ti of a ring has been accepted and is one that an abort can name. -/
def Behind (r : SubRing) (ti : Nat) : Prop :=
  ¬(ti + 2 ^ 32 - r.head) % 2 ^ 32 < (r.tail + 2 ^ 32 - r.head) % 2 ^ 32 ∧ (r.head + 2 ^ 32 - 1 - ti) % 2 ^ 32 < 2 ^ 31 ∧ ti ∉ r.quiet

/-- The abort's own record, which waits for its target's. -/
def abortRec (o : Op) (tq ti : Nat) : Rec := { opRec o .ok 0 0 0 0 with after := some (tq, ti) }

section
variable (past : Behind (getSq b tq) ti) (free : ∀ c ∈ b.ctxs, c.sq ≠ tq ∨ c.idx ≠ ti)
include past free

/-- R369: an abort of a descriptor that no context is of looks for its operation, and for records of it. -/
theorem abortTarget_behind : abortTarget ext b o tq ti type = match b.ops.find? (fun t => t.sq == tq && t.idx == ti) with
    | some t =>
      if atCommit b t.id then
        if keepsStatus b t then complete b o .alreadyComplete 0
        else postRec (abortRecs b tq ti) (abortRec o tq ti)
      else
        match stopOp ext b t with
        | some s1 => postRec s1 (abortRec o tq ti)
        | none => complete b o .alreadyComplete 0
    | none => if b.recs.any (fun x => x.sq == tq && x.idx == ti && x.source == 1) then postRec (abortRecs b tq ti) (abortRec o tq ti)
        else complete b o .alreadyComplete 0 := by
  obtain ⟨accepted, recent, named⟩ := past
  have noCtx : b.ctxs.find? (fun c => c.sq == tq && c.idx == ti) = none := find_pair_none free
  have reaches : ¬(2 ^ 31 ≤ ((getSq b tq).head + 2 ^ 32 - 1 - ti) % 2 ^ 32 ∨ (getSq b tq).quiet.contains ti = true) := by
    rintro (old | quiet)
    · exact absurd recent (Nat.not_lt.2 old)
    · exact named (List.contains_iff_mem.1 quiet)
  refine (if_neg accepted).trans ((if_neg reaches).trans ?_)
  rw [noCtx]
  cases b.ops.find? (fun t => t.sq == tq && t.idx == ti) <;> rfl

theorem abortTarget_gone (ended : ∀ e ∈ b.ops, e.sq ≠ tq ∨ e.idx ≠ ti) : abortTarget ext b o tq ti type =
    if b.recs.any (fun x => x.sq == tq && x.idx == ti && x.source == 1) then postRec (abortRecs b tq ti) (abortRec o tq ti)
    else complete b o .alreadyComplete 0 := by
  have noOp : b.ops.find? (fun t => t.sq == tq && t.idx == ti) = none := find_pair_none ended
  rw [abortTarget_behind past free, noOp]

/-- R108: an accepted job that has no record yet is stopped. -/
theorem abortTarget_job {e : Op} (found : b.ops.find? (fun t => t.sq == tq && t.idx == ti) = some e) (going : ∀ x ∈ b.recs, x.op ≠ some e.id)
    (granted : e.hoopWait = false) (job : e.type = 1) : abortTarget ext b o tq ti type = postRec (abortJob b e) (abortRec o tq ti) := by
  have before : atCommit b e.id = false := by
    rw [atCommit, List.any_eq_false]
    intro x hx
    rw [beq_iff_eq]
    exact going x hx
  have stops : stopOp ext b e = some (abortJob b e) := by
    simp only [stopOp, granted, job, Bool.false_eq_true, if_false]
  rw [abortTarget_behind past free, found]
  simp only [before, stops, Bool.false_eq_true, if_false]

end

/-- R369: the waiting records of an aborted descriptor become ABORTED. -/
theorem abortRecs_aborted {x : Rec} (hx : x ∈ (abortRecs b tq ti).recs) (ring : x.sq = tq) (index : x.idx = ti) (source : x.source = 1) :
    x.status = .aborted := by
  obtain ⟨y, -, rfl⟩ := List.mem_map.1 hx
  by_cases mine : (y.sq == tq && y.idx == ti && decide (y.source ≤ 1)) = true
  · rw [if_pos mine]
    split <;> rfl
  · rw [if_neg mine] at ring index source
    refine absurd ?_ mine
    rw [Bool.and_eq_true, Bool.and_eq_true, beq_iff_eq, beq_iff_eq, decide_eq_true_eq]
    exact ⟨⟨ring, index⟩, source.le⟩

end

/-- Settles O37: an abort acts on its target (abortTarget_ahead, abortTarget_gone, abortTarget_job) after it has drawn the target's TYPE. -/
theorem abortsStopWhatHasNotCommitted : Obligations.AbortsStopWhatHasNotCommitted := by
  intro s q desc ext h type a o tq ti r ahead past
  have runs := exec_abort_of h type
  refine ⟨fun bad => runs.trans (congrArg _ (abortBody_badFormat (o := o) bad)), fun clean clean2 => ?_⟩
  have target : exec (.abort q desc ext) s = .next (abortTarget ext (drawn a) o tq ti (targetType ext a o)) :=
    runs.trans (congrArg Host.Outcome.next (abortBody_target (o := o) clean clean2))
  have recs : a.recs = s.recs := (accepted_dies s q desc ext).2.2.2.2.2
  refine ⟨fun hahead b given only hb hc => ⟨_, target, ?_⟩, fun hpast free ended => ⟨fun gone => ⟨drawn a, rfl, rfl, ?_⟩, fun waiting => ⟨drawn a, rfl, rfl, recs, ?_, ?_⟩⟩,
    fun hpast free e found going granted job idle => ⟨_, target, ?_⟩⟩
  · have read : targetType ext a o = b.toNat := cellsRead_given given only
    refine abortTarget_ahead (b := drawn a) hahead ?_
    rw [read]
    rintro (zero | abort)
    · exact hb (BitVec.eq_of_toNat_eq zero)
    · exact hc (BitVec.eq_of_toNat_eq abort)
  · refine target.trans (congrArg _ ((abortTarget_gone (b := drawn a) hpast free ended).trans (if_neg ?_)))
    rw [Bool.not_eq_true, List.any_eq_false]
    intro x hx all
    simp only [Bool.and_eq_true, beq_iff_eq, and_assoc] at all
    obtain ⟨ring, index, source⟩ := all
    rcases gone x (recs ▸ hx) with bad | bad | bad
    · exact bad ring
    · exact bad index
    · exact bad source
  · exact fun x hx => abortRecs_aborted hx
  · refine target.trans (congrArg _ ((abortTarget_gone (b := drawn a) hpast free ended).trans (if_pos ?_)))
    obtain ⟨x, hx, ring, index, source⟩ := waiting
    rw [List.any_eq_true]
    refine ⟨x, (show x ∈ a.recs from recs ▸ hx), ?_⟩
    simp only [ring, index, source, beq_self_eq_true, Bool.and_self]
  · have core : getCore (drawn a) (jobDie e.desc) (jobCore e.desc) = getCore s (jobDie e.desc) (jobCore e.desc) := getCore_accepted ..
    rw [abortTarget_job (b := drawn a) hpast free found (fun x hx => going x (recs ▸ hx)) granted job, paper_core (paper_postRec ..),
      abortJob_jobs _ _ (core ▸ idle), core]

end Sys2Proof.Proofs
end

section
/-! PROOFS. The pooling, codec and digest engines: their outputs and the commit of their requests. -/

namespace Sys2Proof.Proofs

open Sys2Proof.Machine Sys2Proof.Laws

/-! Where addresses lead, and which areas a request may access (R139, R140, R235 to R240) -/

/-- Two states of a die with the same areas: the same register words, service and retired parts of its memories. -/
structure SameAreas (x y : Die) : Prop where
  regs : y.regs = x.regs
  flt : y.flt = x.flt
  gnd : y.gnd.retired = x.gnd.retired
  stk : y.stk.retired = x.stk.retired

theorem sameAreas_refl (x : Die) : SameAreas x x := ⟨rfl, rfl, rfl, rfl⟩

theorem sameAreas_trans {x y z : Die} (h1 : SameAreas x y) (h2 : SameAreas y z) : SameAreas x z :=
  ⟨h2.regs.trans h1.regs, h2.flt.trans h1.flt, h2.gnd.trans h1.gnd, h2.stk.trans h1.stk⟩

theorem sameAreas_foldl {α : Type} (f : Die → α → Die) (h : ∀ x a, SameAreas x (f x a)) (l : List α) (x : Die) : SameAreas x (l.foldl f x) := by
  induction l generalizing x with
  | nil => exact sameAreas_refl x
  | cons a l ih => exact sameAreas_trans (h x a) (ih _)

theorem sameAreas_dieGndTouch (x : Die) (o n : Nat) : SameAreas x (dieGndTouch x o n) := ⟨rfl, rfl, rfl, rfl⟩

theorem sameAreas_dieStkTouch (x : Die) (o n : Nat) : SameAreas x (dieStkTouch x o n) := ⟨rfl, rfl, rfl, rfl⟩

theorem sameAreas_dieGndWrite (x : Die) (o : Nat) (bs : List Byte) : SameAreas x (dieGndWrite x o bs) := by
  have read := sameAreas_foldl (fun x w => dieGndTouch x (8 * w) 8) (fun x w => sameAreas_dieGndTouch x _ _) (partWords o bs.length) x
  exact ⟨read.regs, read.flt, read.gnd, read.stk⟩

theorem sameAreas_dieStkWrite (x : Die) (o : Nat) (bs : List Byte) : SameAreas x (dieStkWrite x o bs) := by
  have read := sameAreas_foldl (fun x w => dieStkTouch x (8 * w) 8) (fun x w => sameAreas_dieStkTouch x _ _) (partWords o bs.length) x
  exact ⟨read.regs, read.flt, read.gnd, read.stk⟩

section
variable {x y : Die} (h : SameAreas x y)
include h

theorem SameAreas.regWord_eq (off : Nat) : regWord y off = regWord x off := by rw [regWord, regWord, h.regs]

theorem SameAreas.inUser_eq (off n : Nat) : inUser y off n = inUser x off n := by
  have lower : collEnd y = collEnd x := by rw [collEnd, collEnd, regFld, regFld, h.regWord_eq]
  have upper : gndCap y = gndCap x := by rw [gndCap, gndCap, h.gnd]
  rw [inUser, inUser, lower, upper]

theorem SameAreas.inPart_eq (p off n : Nat) : inPart y p off n = inPart x p off n := by
  simp only [inPart, h.inUser_eq, h.regWord_eq]

theorem SameAreas.inStkUser_eq (off n : Nat) : inStkUser y off n = inStkUser x off n := by
  have lower : ovfEnd y = ovfEnd x := by rw [ovfEnd, ovfEnd, regFld, regFld, h.regWord_eq]
  have upper : stkCap y.stk = stkCap x.stk := by rw [stkCap, stkCap, h.stk]
  rw [inStkUser, inStkUser, lower, upper]

theorem SameAreas.remoteGrant_eq (g : Word64) (k a n t : Nat) : remoteGrant y g k a n t = remoteGrant x g k a n t := by
  simp only [remoteGrant, regionGrant, h.inPart_eq, h.inStkUser_eq]

end

/-- Two states in which every address leads to the same place, and every party may access the same areas. -/
structure SameMap (s t : State) : Prop where
  variant : t.variant = s.variant
  tabs : t.tabs = s.tabs
  link : t.itgActive = s.itgActive
  areas : ∀ d, SameAreas (getDie s d) (getDie t d)

theorem sameMap_refl (s : State) : SameMap s s := ⟨rfl, rfl, rfl, fun _ => sameAreas_refl _⟩

theorem sameMap_trans {s t u : State} (h1 : SameMap s t) (h2 : SameMap t u) : SameMap s u :=
  ⟨h2.variant.trans h1.variant, h2.tabs.trans h1.tabs, h2.link.trans h1.link, fun d => sameAreas_trans (h1.areas d) (h2.areas d)⟩

theorem sameMap_foldl {α : Type} (f : State → α → State) (l : List α) (h : ∀ s, ∀ a ∈ l, SameMap s (f s a)) (s : State) :
    SameMap s (l.foldl f s) := by
  induction l generalizing s with
  | nil => exact sameMap_refl s
  | cons a l ih => exact sameMap_trans (h s a List.mem_cons_self) (ih (fun s b hb => h s b (List.mem_cons_of_mem _ hb)) _)

theorem sameMap_updDie {s : State} {d : Nat} (f : Die → Die) (h : SameAreas (getDie s d) (f (getDie s d))) : SameMap s (updDie s d f) := by
  refine ⟨rfl, rfl, rfl, fun e => ?_⟩
  rw [getDie_updDie]
  split
  · next here => rw [here]; exact h
  · exact sameAreas_refl _

theorem sameMap_placeTouch (s : State) (p : Place) (n : Nat) : SameMap s (placeTouch s p n) := by
  cases p with
  | ground d o => exact sameMap_updDie (fun x => dieGndTouch x o n) (sameAreas_dieGndTouch ..)
  | stack d o => exact sameMap_updDie (fun x => dieStkTouch x o n) (sameAreas_dieStkTouch ..)
  | scratch | remote | board => exact sameMap_refl s

theorem sameMap_touchAll (s : State) (ins : List (Place × Nat)) : SameMap s (touchAll s ins) :=
  sameMap_foldl _ ins (fun s p _ => sameMap_placeTouch s p.1 p.2) s

theorem sameMap_placePut (s : State) (p : Place) (bs : List Byte) : SameMap s (placePut s p bs) := by
  cases p with
  | ground d o => exact sameMap_updDie (fun x => dieGndWrite x o bs) (sameAreas_dieGndWrite ..)
  | stack d o => exact sameMap_updDie (fun x => dieStkWrite x o bs) (sameAreas_dieStkWrite ..)
  | scratch d c o => exact sameMap_updDie (fun x => { x with cores := tset x.cores c _ }) ⟨rfl, rfl, rfl, rfl⟩
  | remote | board => exact sameMap_refl s

section
variable {s t : State} (h : SameMap s t)
include h

theorem SameMap.dieOfChip_eq (chip : Nat) : dieOfChip t chip = dieOfChip s chip := by
  simp only [dieOfChip, h.variant, (h.areas _).regWord_eq]

theorem SameMap.findWindow_eq (a : Nat) : findWindow t a = findWindow s a := by rw [findWindow, findWindow, h.tabs]

theorem SameMap.chipEntry_eq (chip : Nat) : chipEntry t chip = chipEntry s chip := by rw [chipEntry, chipEntry, h.tabs]

theorem SameMap.portGrant_eq (port : Nat) : portGrant t port = portGrant s port := by rw [portGrant, portGrant, h.tabs]

theorem SameMap.addrPlace_eq (a : Nat) (acc : Acc) : addrPlace t a acc = addrPlace s a acc := by
  simp only [addrPlace, windowPlace, h.dieOfChip_eq, h.findWindow_eq, h.chipEntry_eq, h.portGrant_eq, h.variant]

theorem SameMap.mapEnd_eq (a : Nat) : mapEnd t a = mapEnd s a := by
  simp only [mapEnd, h.dieOfChip_eq, h.findWindow_eq, h.tabs]

theorem SameMap.segsFrom_eq (acc : Acc) (f a off n : Nat) : segsFrom t acc f a off n = segsFrom s acc f a off n := by
  induction f generalizing a off n with
  | zero => rfl
  | succ f ih => simp only [segsFrom, h.addrPlace_eq, h.mapEnd_eq, ih]

theorem SameMap.dieLives_eq (d : Nat) : dieLives t d = dieLives s d := by rw [dieLives, dieLives, h.variant, (h.areas d).flt]

theorem SameMap.dieServes_eq (d : Nat) : dieServes t d = dieServes s d := by rw [dieServes, dieServes, (h.areas d).flt]

theorem SameMap.crosses_eq (a b : Nat) : crosses t a b = crosses s a b := by
  simp only [crosses, reaches, diePath, h.dieLives_eq, h.variant, h.tabs]

theorem SameMap.placeErr_eq (d : Nat) (part : Option Nat) (p : Place) (n : Nat) : placeErr t d part p n = placeErr s d part p n := by
  have link : linkDie t = linkDie s := by rw [linkDie, linkDie, h.link]
  cases p <;> simp only [placeErr, h.crosses_eq, h.dieServes_eq, (h.areas _).inPart_eq, (h.areas _).inUser_eq, (h.areas _).inStkUser_eq, link]

theorem SameMap.reqPart_eq (q : EngReq) : reqPart t q = reqPart s q := by
  have known (chip : Nat) : dieChip t chip = dieChip s chip := by rw [dieChip, dieChip, h.dieOfChip_eq, h.chipEntry_eq]
  simp only [reqPart, h.portGrant_eq, known]

theorem SameMap.grantBars_eq (d : Nat) (q : EngReq) (wr : Bool) (p : Place) (n : Nat) : grantBars t d q wr p n = grantBars s d q wr p n := by
  simp only [grantBars, h.portGrant_eq, h.chipEntry_eq, (h.areas _).remoteGrant_eq]

/-- A range of a request has the same parts, or the same refusal, in both. -/
theorem SameMap.reqSegs_eq (d : Nat) (q : EngReq) (wr : Bool) (a n : Nat) : reqSegs t d q wr a n = reqSegs s d q wr a n := by
  simp only [reqSegs, segs, segsErr, h.segsFrom_eq, h.placeErr_eq, h.reqPart_eq, h.grantBars_eq]

end

/-! Writing outputs (R154, R163, R250) -/

/-- The state after the bytes of one part of an output range are written. -/
def partPut (d : Nat) (q : EngReq) (ins : List (Place × Nat)) (bs : List Byte) (s : State) (g : Seg) : State :=
  let (k, s0) := draw s
  let b := blur k g.place ((bs.drop g.off).take g.len) (ins ++ otherReads s d q.id)
  match g.place with
  | .remote c ra =>
    let s1 := updReq s0 d q.id (fun p => { p with writes := p.writes + writeCount b })
    issueWrites s1 d q.unit c ra b kREPLY_WRITE (match q.src with | .packet _ _ t _ => some t | _ => none) (.eng q.id)
  | .board ba => emit s0 (.store ba b)
  | p => placePut s0 p b

section
variable {s t : State} {d a : Nat} {q : EngReq} {ext : List Host.Cell} {bs : List Byte} {l : List Seg}

/-- An output whose range the request may write is written part by part. -/
theorem engPut_writable (ins : List (Place × Nat)) (h : reqSegs s d q true a bs.length = .ok l) :
    engPut s d q ins a bs = .ok (l.foldl (partPut d q ins bs) s) := by
  rw [engPut, h]; rfl

theorem sameMap_partPut {g : Seg} (ins : List (Place × Nat)) (here : (placeDie g.place).isSome = true) (s : State) :
    SameMap s (partPut d q ins bs s g) := by
  have drawn : SameMap s (draw s).2 := ⟨rfl, rfl, rfl, fun _ => sameAreas_refl _⟩
  obtain ⟨off, len, place⟩ := g
  cases place with
  | ground e o => exact sameMap_trans drawn (sameMap_placePut _ (.ground e o) _)
  | stack e o => exact sameMap_trans drawn (sameMap_placePut _ (.stack e o) _)
  | scratch e c o => exact sameMap_trans drawn (sameMap_placePut _ (.scratch e c o) _)
  | remote | board => exact absurd here Bool.false_ne_true

/-- Whether a request may write each of its outputs, and each lies in the package. -/
def OutputsHere (s : State) (d : Nat) (q : EngReq) (outs : List (Nat × List Byte)) : Prop :=
  ∀ o ∈ outs, ∃ l, reqSegs s d q true o.1 o.2.length = .ok l ∧ segsHere l = true

/-- Outputs in the package that a request may write are all written, since no such write changes where an address leads. -/
theorem engPuts_here {outs : List (Nat × List Byte)} (ins : List (Place × Nat)) (here : OutputsHere s d q outs) (h : SameMap s t) :
    ∃ u, engPuts t d q ins outs = .ok u ∧ SameMap s u := by
  induction outs generalizing t with
  | nil => exact ⟨t, rfl, h⟩
  | cons o outs ih =>
    obtain ⟨l, writable, inside⟩ := here o List.mem_cons_self
    have put := engPut_writable (s := t) ins ((h.reqSegs_eq ..).trans writable)
    have same := sameMap_foldl (partPut d q ins o.2) l (fun s g hg => sameMap_partPut ins (List.all_eq_true.mp inside g hg) s) t
    obtain ⟨u, puts, kept⟩ := ih (fun b hb => here b (List.mem_cons_of_mem _ hb)) (sameMap_trans h same)
    exact ⟨u, by rw [engPuts, put]; exact puts, kept⟩

/-- R142: what a request has read changes no output's range. -/
theorem engPut_touched (ps ins : List (Place × Nat)) (h : reqSegs s d q true a bs.length = .ok l) : ∃ u, engPut (touchAll s ps) d q ins a bs = .ok u :=
  ⟨_, engPut_writable ins (((sameMap_touchAll s ps).reqSegs_eq ..).trans h)⟩

theorem engPuts_touched {outs : List (Nat × List Byte)} (ps ins : List (Place × Nat)) (here : OutputsHere s d q outs) :
    ∃ u, engPuts (touchAll s ps) d q ins outs = .ok u := by
  obtain ⟨u, puts, -⟩ := engPuts_here ins here (sameMap_touchAll s ps)
  exact ⟨u, puts⟩

/-! The pooling engine (R159 to R163) -/

theorem engStep_head {u : Nat} {ok : Word512 → Bool} (h : engHead s d u = some q) (hok : ok q.req = true) (f : EngReq → State) :
    engStep d u s ok f = f q := by
  simp only [engStep, h, hok, if_true]

/-- The offsets that the bytes of an offsets array hold (R159). -/
def offsetsOf (q : EngReq) (bs : List Byte) : List Nat := (upto (rq q.req 56 4 + 1)).map (fun i => bytesNat bs (4 * i) 4)

/-- The state once the offsets of a pooling request are read. -/
def offsetsRead (s : State) (q : EngReq) : State := touchAll s (engPlaces s [(offsAddr q.req, 4 * (rq q.req 56 4 + 1))])

section
variable (hq : engHead s d 0 = some q) (hb : engGet s d q ext (offsAddr q.req) (4 * (rq q.req 56 4 + 1)) = .ok bs)
include hq hb

/-- R159: a request whose offsets fall ends with BAD_REQ. -/
theorem exec_pool_falling (h : rising (offsetsOf q bs) = false) : exec (.pool d ext) s = .next (setDone s d q.id (doneWith .badReq)) := by
  show Host.Outcome.next (pool d ext s) = _
  rw [offsetsOf] at h
  rw [pool, engStep_head hq rfl]
  simp only [hb, h, Bool.not_false, if_true]

/-- R162: a request whose offsets never fall pools its bags in order. -/
theorem exec_pool_rising (h : rising (offsetsOf q bs) = true) : exec (.pool d ext) s =
    .next (match poolBags s d q ext (engPlaces s (poolReads s d q ext)) (offsetsOf q bs) (rq q.req 56 4) 0 (offsetsRead s q) 0 with
      | .ok (s1, w) => setDone s1 d q.id w
      | .error l => engFetch s d q l) := by
  show Host.Outcome.next (pool d ext s) = _
  have goes := h
  rw [offsetsOf] at goes
  rw [pool, engStep_head hq rfl]
  simp only [hb, goes, Bool.not_true, Bool.false_eq_true, if_false, offsetsOf, offsetsRead]
  cases poolBags s d q ext (engPlaces s (poolReads s d q ext)) _ (rq q.req 56 4) 0 _ 0 <;> rfl

end

/-- A bag whose operands can be read and whose outputs lie in the package, where the request may write them. -/
def BagPools (s : State) (d : Nat) (q : EngReq) (ext : List Host.Cell) (offs : List Nat) (b : Nat) : Prop :=
  ∃ outs kb ins, poolBag s d q ext offs b = .ok (outs, kb, ins) ∧ OutputsHere s d q outs

/-- Bags that all pool are all written, and counted. -/
theorem poolBags_all {offs : List Nat} (own : List (Place × Nat)) (n : Nat) : ∀ (b : Nat) (t : State) (k : Word32), SameMap s t →
    (∀ i, b ≤ i → i < b + n → BagPools s d q ext offs i) →
    ∃ u k', poolBags s d q ext own offs n b t k = .ok (u, { status := .ok, conds := k', count := b + n }) := by
  induction n with
  | zero => exact fun b t k _ _ => ⟨t, k, rfl⟩
  | succ n ih =>
    intro b t k same pools
    obtain ⟨outs, kb, ins, bag, here⟩ := pools b le_rfl (by omega)
    obtain ⟨u, puts, kept⟩ := engPuts_here own here (sameMap_trans same (sameMap_touchAll t (engPlaces s ins)))
    obtain ⟨v, k', rest⟩ := ih (b + 1) u (k ||| kb) kept (fun i low high => pools i (by omega) (by omega))
    refine ⟨v, k', ?_⟩
    rw [show b + (n + 1) = b + 1 + n by omega, ← rest, poolBags]
    simp only [bag, puts]

theorem exec_pool_all (hq : engHead s d 0 = some q) (hb : engGet s d q ext (offsAddr q.req) (4 * (rq q.req 56 4 + 1)) = .ok bs)
    (h : rising (offsetsOf q bs) = true) (pools : ∀ b, b < rq q.req 56 4 → BagPools s d q ext (offsetsOf q bs) b) :
    ∃ u k, exec (.pool d ext) s = .next (setDone u d q.id { status := .ok, conds := k, count := rq q.req 56 4 }) := by
  obtain ⟨u, k, all⟩ := poolBags_all (engPlaces s (poolReads s d q ext)) (rq q.req 56 4) 0 (offsetsRead s q) 0 (sameMap_touchAll ..)
    (fun i _ high => pools i (by omega))
  refine ⟨u, k, ?_⟩
  rw [exec_pool_rising hq hb h, all, Nat.zero_add]

/-- A request of no bag is done once its one offset is read. -/
theorem exec_pool_none (hq : engHead s d 0 = some q) (hb : engGet s d q ext (offsAddr q.req) (4 * (rq q.req 56 4 + 1)) = .ok bs)
    (hn : rq q.req 56 4 = 0) : exec (.pool d ext) s = .next (setDone (offsetsRead s q) d q.id (doneWith .ok)) := by
  have one : rising (offsetsOf q bs) = true := by rw [offsetsOf, hn]; rfl
  rw [exec_pool_rising hq hb one, hn]
  rfl

/-! The codec engines (R169, R173) -/

/-- What a CONVERT from format sf reads: its elements and their scales. -/
def convertPlaces (s : State) (r : Word512) (sf : Fmt) : List (Place × Nat) :=
  engPlaces s [(rq r 16 8, packBytes sf (rq r 56 4)), (relAddr (rq r 16 8) (rq r 32 4), scaleBytes (bit r 325) (rq r 56 4))]

/-- The elements of a CONVERT from format sf to df, of the bytes bs with the scales sc, converted at die d (R169). -/
def converted (s : State) (d : Nat) (r : Word512) (sf df : Fmt) (bs sc : List Byte) : VecOut :=
  encodeVector df (bit r 333) (fld r 337 336) (bit r 338) (bit r 339) (fun e => srGen (engSeed (getDie s d)) (e % 2 ^ 32) (rq r 44 4))
    (decodeVector sf (bit r 325) bs sc (rq r 56 4))

/-- The outputs of a CONVERT: the elements, and the scales of a format that has them. -/
def convertOuts (r : Word512) (o : VecOut) : List (Nat × List Byte) :=
  (rq r 24 8, o.bytes) :: (if bit r 333 then [(relAddr (rq r 24 8) (rq r 36 4), o.scales)] else [])

/-- The request of a CONVERT to format df that has written o (R169, R173). -/
def convertDone (df : Fmt) (r : Word512) (o : VecOut) (p : EngReq) : EngReq :=
  { p with
    done := some { status := .ok, conds := o.conds, count := rq r 56 4 }
    digest := if bit r 340 then some (digestOf (rq r 43 1) (rq r 52 4) (digestUnits df o.bytes (rq r 56 4))) else none }

theorem exec_convert_written {u : Nat} {sf df : Fmt} {sc : List Byte} (hq : engHead s d u = some q) (codec : rq q.req 0 1 = 2)
    (hsf : vecFmt (fld q.req 324 320) (bit q.req 325) = some sf) (hdf : vecFmt (fld q.req 332 328) (bit q.req 333) = some df)
    (hb : engGet s d q ext (rq q.req 16 8) (packBytes sf (rq q.req 56 4)) = .ok bs)
    (hsc : engGet s d q ext (relAddr (rq q.req 16 8) (rq q.req 32 4)) (scaleBytes (bit q.req 325) (rq q.req 56 4)) = .ok sc)
    (ht : engPuts (touchAll s (convertPlaces s q.req sf)) d q (convertPlaces s q.req sf) (convertOuts q.req (converted s d q.req sf df bs sc)) = .ok t) :
    exec (.convert d u ext) s = .next (updReq t d q.id (convertDone df q.req (converted s d q.req sf df bs sc))) := by
  show Host.Outcome.next (convert d u ext s) = _
  rw [convertPlaces, convertOuts, converted] at ht
  rw [convert, engStep_head hq (by rw [codec]; rfl)]
  simp only [hsf, hdf, hb, hsc, ht]
  rfl

/-! The digest engine (R170 to R172) -/

/-- What a digest request reads: n bytes at SRC. -/
def digestPlaces (s : State) (r : Word512) (n : Nat) : List (Place × Nat) := engPlaces s [(rq r 16 8, n)]

/-- A digest request whose operand can be read and whose 16 bytes may be written is done with them. -/
theorem digestStep_written {op : Nat} (hq : engHead s d 4 = some q) (hop : rq q.req 1 1 = op) (n : Word512 → Nat)
    (f : Word512 → List Byte → Word128 × Nat) (hb : engGet s d q ext (rq q.req 16 8) (n q.req) = .ok bs)
    (hl : reqSegs s d q true (rq q.req 24 8) 16 = .ok l) :
    ∃ t, engPut (touchAll s (digestPlaces s q.req (n q.req))) d q (digestPlaces s q.req (n q.req)) (rq q.req 24 8) (toLe 16 (f q.req bs).1.toNat) = .ok t ∧
      digestStep d ext s op n f = setDone t d q.id { status := .ok, conds := 0, count := (f q.req bs).2 % 2 ^ 32 } := by
  obtain ⟨t, put⟩ := engPut_touched (bs := toLe 16 (f q.req bs).1.toNat) (digestPlaces s q.req (n q.req)) (digestPlaces s q.req (n q.req))
    (by rw [toLe_length]; exact hl)
  refine ⟨t, put, ?_⟩
  rw [digestPlaces] at put
  rw [digestStep, engStep_of hq hop]
  simp only [hb, put]

/-! Commit (R151, R156) -/

/-- Whether a request of unit u can commit now. -/
def commits (s : State) (u : Nat) (q : EngReq) : Bool := q.unit == u && q.way.isNone && q.done.isSome && q.writes == 0 && commitRoom s q

theorem commits_false {u : Nat} (h : q.unit ≠ u ∨ q.way ≠ none ∨ q.done = none ∨ q.writes ≠ 0 ∨ commitRoom s q = false) :
    commits s u q = false := by
  rw [Bool.eq_false_iff]
  intro all
  simp only [commits, Bool.and_eq_true, beq_iff_eq, Option.isNone_iff_eq_none] at all
  obtain ⟨⟨⟨⟨unit, way⟩, done⟩, writes⟩, room⟩ := all
  rcases h with bad | bad | bad | bad | bad
  · exact bad unit
  · exact bad way
  · rw [bad] at done; cases done
  · exact bad writes
  · rw [bad] at room; cases room

theorem engineCommit_eq (d u : Nat) (s : State) : engineCommit d u s =
    if !dieUp s d then s
    else match (getDie s d).engs.find? (commits s u) with
      | some q => (match q.done with | some w => commitReq s d q w | none => s)
      | none => s := rfl

/-- R151: the first request of a unit that can commit does. -/
theorem exec_engineRequestCommit_first {u : Nat} {w : DoneWord} {l m : List EngReq} (up : dieUp s d = true) (engs : (getDie s d).engs = l ++ q :: m)
    (before : ∀ p ∈ l, commits s u p = false) (able : commits s u q = true) (done : q.done = some w) :
    exec (.engineRequestCommit d u) s = .next (commitReq s d q w) := by
  show Host.Outcome.next (engineCommit d u s) = _
  rw [engineCommit_eq, engs, find_split l m q _ able before]
  simp only [up, done, Bool.not_true, Bool.false_eq_true, if_false]

/-- A core's request without actions of its own only leaves its unit. -/
theorem commitReq_plain {w : DoneWord} {c tag : Nat} (plain : ∀ i, i < 5 → rqCmpl q.req i = false) (digest : q.digest = none)
    (core : q.src = .core c tag) (ok : w.status = .ok) (stored : q.wstatus = .ok) :
    commitReq s d q w = updDie (freeRoom s q) d (fun x => { x with engs := x.engs.filter (fun p => p.id != q.id) }) := by
  obtain ⟨word, signal, record, job, request⟩ : rqCmpl q.req 0 = false ∧ rqCmpl q.req 1 = false ∧ rqCmpl q.req 2 = false ∧
      rqCmpl q.req 3 = false ∧ rqCmpl q.req 4 = false :=
    ⟨plain 0 (by decide), plain 1 (by decide), plain 2 (by decide), plain 3 (by decide), plain 4 (by decide)⟩
  have clean : Status.ok ≠ .memUe := Status.noConfusion
  simp only [commitReq, fireActions, ok, stored, clean, digest, core, word, signal, record, job, request, Bool.false_and, Bool.false_eq_true, and_false,
    if_false, if_true]

end

/-! The obligation -/

/-- Settles O39: a pooling request by its offsets and its bags (poolBags_all), a codec's by engPuts_touched, a digest's by digestStep_written, a
commit by what keeps each earlier request from committing. -/
theorem enginesWriteTheirOutputsAndCommit : Obligations.EnginesWriteTheirOutputsAndCommit := by
  intro s d ext q r
  refine ⟨fun hq bs hb => ⟨exec_pool_falling hq hb, exec_pool_rising hq hb, exec_pool_all hq hb, exec_pool_none hq hb⟩,
    fun u hq codec sf df bs sc hsf hdf hb hsc => ⟨fun t => exec_convert_written hq codec hsf hdf hb hsc, engPuts_touched _ _⟩,
    fun hq => ⟨fun hop bs hb l hl => ?_, fun hop bs hb l hl => ?_⟩,
    fun u w l m up engs unit done writes room before way => ⟨?_, fun plain digest core _ ok stored => ?_⟩⟩
  · obtain ⟨t, put, step⟩ := digestStep_written hq hop (fun r => packBytes (hashFmt r) (rq r 56 4))
      (fun r bs => (digestOf (rq r 36 4) (rq r 40 4) (digestUnits (hashFmt r) bs (rq r 56 4)), (digestUnits (hashFmt r) bs (rq r 56 4)).length)) hb hl
    exact ⟨t, put, congrArg Host.Outcome.next step⟩
  · obtain ⟨t, put, step⟩ := digestStep_written hq hop (fun r => 16 * rq r 56 4)
      (fun r bs => ((upto (rq r 56 4)).foldl (fun (a : Word128) i => a + BitVec.ofNat 128 (bytesNat bs (16 * i) 16)) 0, rq r 56 4)) hb hl
    exact ⟨t, put, congrArg Host.Outcome.next step⟩
  · refine exec_engineRequestCommit_first up engs (fun p hp => commits_false (before p hp)) ?_ done
    rw [commits, unit, way, done, writes, room, beq_self_eq_true]
    rfl
  · obtain ⟨c, tag, core⟩ := core
    exact commitReq_plain plain digest core ok stored

end Sys2Proof.Proofs
end

section
/-! PROOFS. The state after reset. -/

namespace Sys2Proof.Proofs

open Sys2Proof.Machine Sys2Proof.Laws

/-- Tables 10-13 to 10-17: in the ports' blocks of the switch no register but a port's own has a reset value. -/
theorem regDefault_port {off : Nat} (low : 0x11000 ≤ off) (high : off < 0x17000) : regDefault off = swDefault ((off - oSW) % 0x100) := by
  have apart (c : Nat) (h : c < 0x11000 ∨ 0x17000 ≤ c) : ¬off = c := by omega
  have quotas : ¬(oBPM + 0x40 ≤ off ∧ off < oBPM + 0x74) := by simp only [oBPM]; omega
  have block : oSW + 0x1000 ≤ off ∧ off < oSW + 0x7000 := ⟨low, high⟩
  unfold regDefault
  iterate 12 rw [if_neg (apart _ (by decide))]
  rw [if_neg quotas, if_neg (apart _ (by decide)), if_pos block]

theorem regDefault_swPort {l : Nat} (h : l < 96) : regDefault (rSW_PORT l 0) = 0x26534 := by
  have block : rSW_PORT l 0 = 0x11000 + 0x100 * l := rfl
  have first : (0x11000 + 0x100 * l - oSW) % 0x100 = 0 := by simp only [oSW]; omega
  rw [block, regDefault_port (by omega) (by omega), first]
  rfl

theorem getDie_reset (d : Nat) : getDie State.reset d = dieReset .tx8 d := rfl

/-- A register word of a die at reset holds its table's value. -/
theorem regWord_dieReset (v : Variant) (d off : Nat) : regWord (dieReset v d) off = BitVec.ofNat 32 (regDefault off) := rfl

/-- R388, R397: the knots of the dies and those of the package are as Table 13-9 has them. -/
theorem getKnot_reset (d k : Nat) : getKnot State.reset d k = knotReset := by
  unfold getKnot
  split <;> rfl

theorem getSq_reset (q : Nat) : getSq State.reset q = sqReset := rfl

theorem getCq_reset (q : Nat) : getCq State.reset q = cqReset := rfl

theorem getCore_reset (d c : Nat) : getCore State.reset d c = coreReset c := rfl

/-- Settles O59: no table of the reset state has an entry, so each read finds the reset value of what it names. -/
theorem resetLeavesItsValues : Obligations.ResetLeavesItsValues := by
  refine ⟨rfl, rfl, rfl, rfl, rfl, rfl, rfl, rfl, rfl, rfl, rfl, rfl, rfl, rfl, rfl, rfl, rfl, rfl,
    fun q => ?_, fun d k => ?_, fun d => ?_, ⟨rfl, rfl, Nat.zero_le _⟩⟩
  · rw [getSq_reset, getCq_reset]
    exact ⟨rfl, rfl, rfl, rfl, rfl⟩
  · rw [getKnot_reset]
    exact ⟨rfl, rfl, rfl⟩
  · rw [getDie_reset]
    refine ⟨rfl, rfl, rfl, rfl, rfl, rfl, rfl, empty_wf, empty_wf, fun c => ?_, fun l => ⟨rfl, rfl⟩, fun n => rfl,
      rfl, rfl, rfl, rfl, rfl, rfl, rfl, rfl, rfl, rfl, fun l hl => ?_⟩
    · rw [getCore_reset]
      exact ⟨rfl, rfl, rfl⟩
    · rw [regWord_dieReset, regDefault_swPort hl]
      rfl

end Sys2Proof.Proofs
end

section
/-! PROOFS. The sums of a chunk's slot. -/

namespace Sys2Proof.Proofs

open Sys2Proof.Machine Sys2Proof.Laws

/-! Two contributions to a slot (R189 to R191) -/

/-- R189, R190: what element i of a contribution adds to its filet word. -/
def gridTerm (c : Ctx) (t : Slot) (rank : Nat) (bs : List Byte) (i : Nat) : Word64 :=
  BitVec.ofInt 64 (toGrid (nth (grainValues c bs t.chunk) i .nan) (nth (slotWins c t) (i / 256) 0) (cRIn c)
    (if cRIn c = 1 then srGen (cSeed c) ((t.chunk * cE c + i) % 2 ^ 32) rank else 0)).1

/-- R191: what element i of a contribution ORs into its special code. -/
def specTerm (c : Ctx) (t : Slot) (bs : List Byte) (i : Nat) : Nat := specCode (nth (grainValues c bs t.chunk) i .nan)

/-- The slot after two contributions: its words each with both terms added, its special codes with both ORed. -/
def summedSlot (c : Ctx) (t : Slot) (r1 r2 : Nat) (b1 b2 : List Byte) : Slot :=
  { t with
    words := (List.range (cNel c t.chunk)).map (fun i => nth (slotWords c t) i 0 + gridTerm c t r1 b1 i + gridTerm c t r2 b2 i)
    spec := (List.range (cNel c t.chunk)).map (fun i => nth (slotSpec c t) i 0 ||| specTerm c t b1 i ||| specTerm c t b2 i) }

section
variable {c : Ctx} {t : Slot} {b1 b2 : List Byte}

theorem combine_combine_eq (r1 r2 : Nat) (sum : cSum c = true) (noTopk : cTopk c = false) (words : (slotWords c t).length = cNel c t.chunk)
    (specs : (slotSpec c t).length = cNel c t.chunk) (len1 : (grainValues c b1 t.chunk).length = cNel c t.chunk)
    (len2 : (grainValues c b2 t.chunk).length = cNel c t.chunk) :
    (combine c (combine c t r1 b1).1 r2 b2).1 = summedSlot c t r1 r2 b1 b2 := by
  obtain ⟨A1, A2, B1, B2, a1, s1, a2, s2, e⟩ := combine_twice c t r1 r2 b1 b2 sum noTopk words specs len1 len2
  obtain rfl : A1 = gridTerm c t r1 b1 := funext a1
  obtain rfl : A2 = gridTerm c t r2 b2 := funext a2
  obtain rfl : B1 = specTerm c t b1 := funext s1
  obtain rfl : B2 = specTerm c t b2 := funext s2
  exact e

/-- R192: addition and OR are commutative, so neither contribution comes first. -/
theorem summedSlot_comm (r1 r2 : Nat) : summedSlot c t r1 r2 b1 b2 = summedSlot c t r2 r1 b2 b1 := by
  have words (i : Nat) : nth (slotWords c t) i 0 + gridTerm c t r1 b1 i + gridTerm c t r2 b2 i =
      nth (slotWords c t) i 0 + gridTerm c t r2 b2 i + gridTerm c t r1 b1 i := add_right_comm ..
  have specs (i : Nat) : nth (slotSpec c t) i 0 ||| specTerm c t b1 i ||| specTerm c t b2 i =
      nth (slotSpec c t) i 0 ||| specTerm c t b2 i ||| specTerm c t b1 i := by rw [Nat.or_assoc, Nat.or_comm (specTerm c t b1 i), ← Nat.or_assoc]
  simp only [summedSlot, words, specs]

end

/-- Settles O48: both orders leave the slot with both terms in every word and code (combine_combine_eq), in which they commute. -/
theorem sumsDoNotDependOnArrivalOrder : Obligations.SumsDoNotDependOnArrivalOrder := by
  intro c t r1 r2 b1 b2 sum noTopk words specs len1 len2 u v
  have hu : u = summedSlot c t r1 r2 b1 b2 := combine_combine_eq r1 r2 sum noTopk words specs len1 len2
  have hv : v = summedSlot c t r2 r1 b2 b1 := combine_combine_eq r2 r1 sum noTopk words specs len2 len1
  have same : u = v := hu.trans ((summedSlot_comm r1 r2).trans hv.symm)
  have whole : u.words.length = cNel c t.chunk := by rw [hu, summedSlot, List.length_map, List.length_range]
  exact ⟨congrArg Slot.words same, congrArg Slot.spec same, whole, by rw [hu]; rfl, by rw [hu]; rfl⟩

end Sys2Proof.Proofs
end

section
/-! PROOFS. Records that wait, coalesced interrupts and progress entries. -/

namespace Sys2Proof.Proofs

open Sys2Proof.Machine Sys2Proof.Laws

/-! A record that waits (R365) -/

/-- What writing a record can do: its ring moves and a STAGE's slot may become valid, stores and an interrupt go out, and the operation ends. -/
theorem writeRec_only (s : State) (r : Rec) : ∃ keep ring t, SentOnly (setCq { s with keep := keep } r.cq ring) t ∧
    writeRec s r = settleRings (r.op.elim t (endOp t)) := by
  unfold writeRec
  extract_lets s0 c j c1
  obtain ⟨keep, first⟩ : ∃ k, SentOnly { s with keep := k } s0 := recFirst_only s r
  clear_value s0 c c1
  generalize (if r.noint then (c1, false) else countRecord c1) = p
  obtain ⟨ring, irq⟩ := p
  have ringed : SentOnly (setCq { s with keep := keep } r.cq ring) (setCq s0 r.cq ring) := by
    obtain ⟨os, wait, rfl⟩ := first
    exact ⟨os, wait, rfl⟩
  have stored := sentOnly_trans ringed (linkStore_sent (setCq s0 r.cq ring) (c.base + 32 * (j % 2 ^ c.log2)) (recBytes r c.log2 j))
  refine ⟨keep, ring, if irq = true then linkIrq (linkStore (setCq s0 r.cq ring) (c.base + 32 * (j % 2 ^ c.log2)) (recBytes r c.log2 j)) c.vector
    else linkStore (setCq s0 r.cq ring) (c.base + 32 * (j % 2 ^ c.log2)) (recBytes r c.log2 j), ?_, ?_⟩
  · split
    · exact sentOnly_trans stored (linkIrq_sent ..)
    · exact stored
  · cases r.op <;> rfl

theorem writeRec_recs (s : State) (r : Rec) : (writeRec s r).recs = s.recs := by
  obtain ⟨keep, ring, t, ⟨os, wait, rfl⟩, e⟩ := writeRec_only s r
  rw [e]
  cases r.op <;> rfl

theorem exec_completionRecordWrite_oldest {s : State} {r : Rec} {l m : List Rec} (up : regsUp s = true) (recs : s.recs = l ++ r :: m)
    (takes : cqTakes s r.cq = true) (ready : recReady s r = true) (older : ∀ e ∈ l, e.cq ≠ r.cq ∨ recReady s e = false) :
    exec (.completionRecordWrite r.cq) s = .next (writeRec { s with recs := l ++ m } r) := by
  have first : s.recs.zipIdx.find? (fun p => p.1.cq == r.cq && recReady s p.1) = some (r, l.length) := by
    rw [recs, find_zipIdx l m r (fun e => e.cq == r.cq && recReady s e) 0 (by rw [ready, beq_self_eq_true]; rfl), Nat.zero_add]
    exact fun e he => (older e he).elim (fun other => by rw [beq_false_of_ne other]; rfl) (fun waits => by rw [waits, Bool.and_false])
  show Host.Outcome.next (recordWrite r.cq s) = _
  simp only [recordWrite, up, takes, first, Bool.not_true, Bool.or_self, Bool.false_eq_true, if_false]
  rw [recs, eraseIdx_split]

/-! Coalesced interrupts (R366) -/

theorem linkIrq_sends (s : State) (v : Nat) : Sent (linkIrq s v) (.interrupt v) := by
  unfold Sent linkIrq
  cases lost : s.itgLost with
  | true => simp
  | false => simp [emit, lost]

theorem linkIrq_up {s : State} (up : s.itgLost = false) (v : Nat) : linkIrq s v = emit s (.interrupt v) := by
  rw [linkIrq, up, if_neg Bool.false_ne_true]

theorem getCq_sent {s t : State} (h : SentOnly s t) (q : Nat) : getCq t q = getCq s q := by
  obtain ⟨_, _, rfl⟩ := h; rfl

/-- R366: the state with the records of completion ring q signalled. -/
def signalled (s : State) (q : Nat) : State := setCq s q { getCq s q with count := 0, armed := false }

theorem exec_interruptCoalesceTimeout_of {s : State} {q : Nat} (up : regsUp s = true) (hq : q < 256) (runs : (getCq s q).state = 1 ∨ (getCq s q).state = 2)
    (ien : (getCq s q).ien = true) (armed : (getCq s q).armed = true) (coal : (getCq s q).coalT ≠ 0) (count : (getCq s q).count ≠ 0) :
    exec (.interruptCoalesceTimeout q) s = .next (linkIrq (signalled s q) (getCq s q).vector) := by
  have going : ((getCq s q).state == 1 || (getCq s q).state == 2) = true := by simpa only [Bool.or_eq_true, beq_iff_eq] using runs
  have inRange : decide (256 ≤ q) = false := decide_eq_false (by omega)
  show Host.Outcome.next (coalesce q s) = _
  simp only [coalesce, up, inRange, going, ien, armed, beq_false_of_ne coal, beq_false_of_ne count, Bool.not_true, Bool.or_self, Bool.false_eq_true, if_false,
    signalled]

/-! Progress entries (R217, R367) -/

/-- A field of 4 bytes. -/
theorem leNat_toLe_four (v : Nat) : leNat (toLe 4 v) = v % 2 ^ 32 := leNat_toLe 4 v

theorem progressBytes_fields (idx pos total : Nat) (done : Bool) : (progressBytes idx pos total done).length = 16 ∧
    bytesNat (progressBytes idx pos total done) 0 4 = pos % 2 ^ 32 ∧ bytesNat (progressBytes idx pos total done) 4 4 = total % 2 ^ 32 ∧
    bytesNat (progressBytes idx pos total done) 12 4 = idx % 2 ^ 32 := by
  have len (v : Nat) : 4 = (toLe 4 v).length := (toLe_length 4 v).symm
  obtain ⟨mil, four, e⟩ : ∃ mil : List Byte, mil.length = 4 ∧ progressBytes idx pos total done = toLe 4 pos ++ (toLe 4 total ++ (mil ++ toLe 4 idx)) :=
    ⟨toLe 2 (if total = 0 then 0 else if done then 1000 else min 999 (1000 * pos / total)) ++ toLe 2 0,
      by rw [List.length_append, toLe_length, toLe_length], by simp only [progressBytes, List.append_assoc]⟩
  have last : progressBytes idx pos total done = (toLe 4 pos ++ (toLe 4 total ++ mil)) ++ (toLe 4 idx ++ []) := by simp only [e, List.append_assoc, List.append_nil]
  refine ⟨by simp only [e, List.length_append, toLe_length, four], ?_, ?_, ?_⟩
  · rw [e, ← leNat_toLe_four]
    exact bytesNat_mid [] _ _ 0 4 rfl (len pos)
  · rw [e, bytesNat_mid _ _ _ 4 4 (len pos) (len total), leNat_toLe_four]
  · rw [last, bytesNat_mid _ _ _ 12 4 (by simp only [List.length_append, toLe_length, four]) (len idx), leNat_toLe_four]

theorem progressEntry_sends {s : State} {q : Nat} (pen : (getSq s q).pen = true) (idx pos total : Nat) (done : Bool) :
    Sent (progressEntry s q idx pos total done) (.store ((getSq s q).pbase + 16 * (idx % 2 ^ (getSq s q).log2)) (progressBytes idx pos total done)) := by
  simp only [progressEntry, pen, if_true]
  exact linkStore_sends ..

/-- R286, R367: the position that an operation's entry gets: the drain's for the one that drains, the one reported for a maintenance activity or a firmware
operation that has begun, which never moves back nor past TOTAL. -/
def toldPos (s : State) (o : Op) (pos : Nat) : Nat :=
  if s.drain.op = some o.id then drainPos s
  else if o.begun = true ∧ (o.type = 7 ∨ o.type = 9) ∧ o.pos ≤ pos ∧ pos ≤ o.total then pos else o.pos

/-- The state with that position taken over. -/
def positioned (s : State) (o : Op) (pos : Nat) : State := updOp s o.id (fun e => { e with pos := toldPos s o pos, wpos := toldPos s o pos })

theorem atCommit_false {s : State} {id : Nat} (going : ∀ e ∈ s.recs, e.op ≠ some id) : atCommit s id = false := by
  rw [atCommit, List.any_eq_false]
  exact fun e he => by rw [beq_iff_eq]; exact going e he

theorem exec_progressEntryWrite_op {s : State} {o : Op} (pos : Nat) (up : regsUp s = true)
    (found : s.ops.find? (fun e => e.sq == o.sq && e.idx == o.idx) = some o) (going : ∀ e ∈ s.recs, e.op ≠ some o.id) :
    exec (.progressEntryWrite o.sq o.idx pos) s =
      .next (progressEntry (positioned s o pos) o.sq o.idx (toldPos s o pos) o.total false) := by
  show Host.Outcome.next (progressWrite o.sq o.idx pos s) = _
  simp only [progressWrite, found, up, atCommit_false going, Bool.not_true, Bool.not_false, Bool.false_eq_true, if_false, and_true, true_and]
  rfl

theorem exec_progressEntryWrite_ctx {s : State} {c : Ctx} (pos : Nat) (up : regsUp s = true) (noOp : ∀ o ∈ s.ops, o.sq ≠ c.sq ∨ o.idx ≠ c.idx)
    (found : s.ctxs.find? (fun e => e.opened && e.sq == c.sq && e.idx == c.idx) = some c) :
    exec (.progressEntryWrite c.sq c.idx pos) s =
      .next (ctxMap (progressEntry s c.sq c.idx (ctxPos s c) (cChunks c) false) c.id c.gen (fun k => { k with cpos := ctxPos s c })) := by
  show Host.Outcome.next (progressWrite c.sq c.idx pos s) = _
  simp only [progressWrite, find_pair_none noOp, found, up, if_true]

/-- Settles O29: the oldest record that waits is written (writeRec_facts), an interrupt or a progress entry is sent on the link. -/
theorem waitingRecordsInterruptsAndProgressAreWritten : Obligations.WaitingRecordsInterruptsAndProgressAreWritten := by
  refine ⟨?_, ?_, ?_, ?_⟩
  · intro s r l m q up recs takes ready older
    obtain ⟨sent, -, tail, -⟩ := writeRec_facts { s with recs := l ++ m } r
    exact ⟨_, exec_completionRecordWrite_oldest up recs takes ready older, writeRec_recs .., tail, sent⟩
  · intro s q r up hq runs ien armed coal count
    have ring := (getCq_sent (linkIrq_sent (signalled s q) r.vector) q).trans (getCq_setCq_same ..)
    exact ⟨_, exec_interruptCoalesceTimeout_of up hq runs ien armed coal count, linkIrq_sends ..,
      fun live => congrArg State.out (linkIrq_up (s := signalled s q) live r.vector),
      congrArg ComRing.count ring, congrArg ComRing.armed ring⟩
  · intro s o pos q up found waits pen
    obtain ⟨len, position, total, index⟩ := progressBytes_fields o.idx (toldPos s o pos) o.total false
    have sent := progressEntry_sends (s := positioned s o pos) pen o.idx (toldPos s o pos) o.total false
    exact ⟨_, _, exec_progressEntryWrite_op pos up found waits, len, sent, total, index, position⟩
  · intro s c pos q up noOp found pen
    obtain ⟨len, position, total, index⟩ := progressBytes_fields c.idx (ctxPos s c) (cChunks c) false
    exact ⟨_, _, exec_progressEntryWrite_ctx pos up noOp found, len, progressEntry_sends pen .., position, total, index⟩

end Sys2Proof.Proofs
end

section
/-! PROOFS. Descriptors of contexts and of table updates. -/

namespace Sys2Proof.Proofs

open Sys2Proof.Machine Sys2Proof.Laws

/-! Context opens (R180, R204) -/

section
variable {s : State} {q : Nat} {desc : Word512} {ext : List Host.Cell}

theorem exec_contextOpen_of (h : Accepts s q desc ext) (type : fld desc 7 0 = 4) :
    exec (.contextOpen q desc ext) s = .next (openBody ext (accepted s q desc ext) (newOp s q desc ext)) :=
  congrArg Host.Outcome.next (takeDesc_type h type)

/-- The context block that an open's descriptor names, as its bytes are read. -/
def blockOf (bs : List Byte) : BitVec 1024 := BitVec.ofNat 1024 (leNat bs)

/-- The descriptor of an open is good, and its context block is read. -/
structure BlockRead (a : State) (o : Op) (ext : List Host.Cell) (bs : List Byte) (s1 : State) : Prop where
  clean : fld o.desc 191 160 = 0
  aligned : fld o.desc 255 192 % 64 = 0
  rest : fld o.desc 511 256 = 0
  read : devRead a (linkDie a) (fld o.desc 255 192) 128 ext = .ok (bs, s1)

section
variable {a s1 s2 : State} {o : Op} {bs tbl : List Byte}

/-- R180: what an open whose context block has been read does. -/
def openBlock (ext : List Host.Cell) (s : State) (o : Op) (blk : BitVec 1024) : State :=
  if blockBad blk then complete s o .badFormat 0
  else if fld blk 335 320 = 0 then openContext s o (fld o.desc 159 128) blk []
  else match devRead s (linkDie s) (fld blk 319 256) (16 * fld blk 335 320) ext with
    | .error e => complete (devSeen s (fld blk 319 256) (16 * fld blk 335 320) e) o e 0
    | .ok (tbl, t) => openContext t o (fld o.desc 159 128) blk tbl

theorem openBody_read (h : BlockRead a o ext bs s1) : openBody ext a o = openBlock ext s1 o (blockOf bs) := by
  have good : ¬(dsc o.desc 20 4 ≠ 0 ∨ dsc o.desc 24 8 % 64 ≠ 0 ∨ dsc o.desc 32 32 ≠ 0) :=
    fun bad => bad.elim (· h.clean) (·.elim (· h.aligned) (· h.rest))
  have address : dsc o.desc 24 8 = fld o.desc 255 192 := rfl
  refine (if_neg good).trans ?_
  simp only [address, h.read]
  rfl

theorem openBody_badBlock (h : BlockRead a o ext bs s1) (bad : blockBad (blockOf bs) = true) : openBody ext a o = complete s1 o .badFormat 0 :=
  (openBody_read h).trans (if_pos bad)

theorem openBody_members (h : BlockRead a o ext bs s1) (good : blockBad (blockOf bs) = false) (nonempty : 0 < fld (blockOf bs) 335 320)
    (members : devRead s1 (linkDie s1) (fld (blockOf bs) 319 256) (16 * fld (blockOf bs) 335 320) ext = .ok (tbl, s2)) :
    openBody ext a o = openContext s2 o (fld o.desc 159 128) (blockOf bs) tbl := by
  rw [openBody_read h, openBlock, good, if_neg Bool.false_ne_true, if_neg (Nat.pos_iff_ne_zero.1 nonempty), members]

/-- R180 to R187: the context of an open that waits for admission. -/
def waitingCtx (s : State) (o : Op) (id : Nat) (blk : BitVec 1024) (ms : List Member) (ds : List Nat) : Ctx :=
  { blockCtx blk with id := id, gen := fld blk 191 184, op := some o.id, sq := o.sq, idx := o.idx, cq := o.cq, tag := o.tag, noint := o.noint, at0 := s.now,
                      dies := ds, members := ms }

/-- R204, R220: an open that nothing refuses joins the queue, whose head is tried. -/
theorem openContext_joins {id : Nat} {blk : BitVec 1024} {ms : List Member} {ds : List Nat} (good : blockBad blk = false)
    (members : memberTable tbl (fld blk 335 320) = some ms) (dies : homeDies a (fld blk 167 160) = some ds)
    (group : groupBad a (waitingCtx a o id blk ms ds) = false) (new : ∀ k ∈ a.ctxs, k.id ≠ id) (room : (a.ctxs.filter (fun k => !k.opened)).length < 2048) :
    openContext a o id blk tbl = admissionTry { a with ctxs := a.ctxs ++ [waitingCtx a o id blk ms ds] } := by
  have fresh : a.ctxs.any (fun k => k.id == id) = false := by
    rw [List.any_eq_false]
    exact fun k hk => by rw [beq_iff_eq]; exact new k hk
  unfold openContext
  rw [good, if_neg Bool.false_ne_true]
  simp only [members, dies, fresh, Nat.not_le.2 room, Option.getD_some, Option.isNone_some, Bool.false_or, Bool.false_eq_true, if_false]
  exact if_neg (fun bad => Bool.false_ne_true (group.symm.trans bad))

end

/-! Context closes (R218) -/

theorem exec_contextClose_of (h : Accepts s q desc ext) (type : fld desc 7 0 = 5) (clean : fld desc 511 168 = 0) : exec (.contextClose q desc ext) s =
    .next (closeContext (accepted s q desc ext) (newOp s q desc ext) (fld desc 159 128) (fld desc 167 160)) :=
  congrArg Host.Outcome.next ((takeDesc_type h type).trans (if_neg (not_not_intro clean)))

theorem ctxs_diesOnly {s t : State} (h : DiesOnly s t) : t.ctxs = s.ctxs := by
  obtain ⟨_, _, _, _, _, _, _, rfl⟩ := h; rfl

theorem unstage_dies (s : State) (d : Nat) (ps : List Piece) : DiesOnly s (unstage s d ps) := diesOnly_foldl _ (fun _ _ => decOpt_dies ..) ps s

theorem dropItems_dies (s : State) (mine : Nat → TxItem → Bool) : DiesOnly s (dropItems s mine) :=
  diesOnly_foldl _ (fun _ _ => diesOnly_foldl _ (fun _ _ => diesOnly_trans (diesOnly_upd ..) (decOpt_dies ..)) _ _) _ s

/-- R218: a context that ends otherwise than by its own completion leaves the package, and no other does. -/
theorem ctxs_ctxEnd (s : State) (c : Ctx) {st : Status} (hst : st ≠ .ok) :
    (ctxEnd s c st).ctxs = s.ctxs.filter (fun k => !(k.id == c.id && k.gen == c.gen)) := by
  unfold ctxEnd
  extract_lets pos s1 s2 s3
  have staged : DiesOnly s s1 := diesOnly_foldl _ (fun _ t => unstage_dies _ t.die t.staged) c.slots s
  have dropped : s2.ctxs = s1.ctxs.filter (fun k => !(k.id == c.id && k.gen == c.gen)) := ctxs_diesOnly (dropItems_dies ..)
  have unlogged : s3 = s2 := if_neg hst
  rw [(paper_ctxs (paper_postRec ..)).1, unlogged, dropped, ctxs_diesOnly staged]

theorem ctxs_ctxStop (s : State) (c : Ctx) {st : Status} (hst : st ≠ .ok) :
    (ctxStop s c st).ctxs = s.ctxs.filter (fun k => !(k.id == c.id && k.gen == c.gen)) := by
  unfold ctxStop
  rw [ctxs_ctxEnd _ _ hst]
  split
  · rw [(paper_ctxs (paper_completeId ..)).1]
  · rfl

theorem closeContext_missing {a : State} {o : Op} {id gen : Nat} (missing : ∀ c ∈ a.ctxs, c.id ≠ id ∨ c.gen ≠ gen) :
    closeContext a o id gen = complete a o .alreadyComplete 0 := by
  simp only [closeContext, find_pair_none missing]

theorem ctxs_closeContext {a : State} {o : Op} {id gen : Nat} (there : ∃ c ∈ a.ctxs, c.id = id ∧ c.gen = gen) :
    (closeContext a o id gen).ctxs = a.ctxs.filter (fun c => !(c.id == id && c.gen == gen)) := by
  obtain ⟨c, found⟩ : ∃ c, a.ctxs.find? (fun c => c.id == id && c.gen == gen) = some c := by
    obtain ⟨c, hc, hid, hgen⟩ := there
    exact Option.isSome_iff_exists.1 (List.find?_isSome.2 ⟨c, hc, by rw [hid, hgen, beq_self_eq_true, beq_self_eq_true]; rfl⟩)
  obtain ⟨hid, hgen⟩ : c.id = id ∧ c.gen = gen := by simpa only [Bool.and_eq_true, beq_iff_eq] using List.find?_some found
  simp only [closeContext, found]
  rw [(paper_ctxs (paper_complete ..)).1, ctxs_ctxStop _ _ (by decide), hid, hgen]

/-! Table updates (R263, R371) -/

theorem exec_tableUpdate_of (h : Accepts s q desc ext) (type : fld desc 7 0 = 6) (later : bit desc 136 = false) : exec (.tableUpdate q desc ext) s =
    .next (tableUpdate (accepted s q desc ext) (newOp s q desc ext) (dWaitHoop desc) false ext) := by
  have row : (dType desc == 6 && !dActivate desc) = true := by rw [dType_eq, type, dActivate, later]; rfl
  refine congrArg Host.Outcome.next ((takeDesc_of h row).trans ?_)
  rw [updateBody, ← later]; rfl

theorem exec_tableUpdateActivate_of (h : Accepts s q desc ext) (type : fld desc 7 0 = 6) (now : bit desc 136 = true) :
    exec (.tableUpdateActivate q desc ext) s =
      .next (tableUpdate (accepted s q desc ext) (newOp s q desc ext) (dWaitHoop desc) true ext) := by
  have row : (dType desc == 6 && dActivate desc) = true := by rw [dType_eq, type, dActivate, now]; rfl
  refine congrArg Host.Outcome.next ((takeDesc_of h row).trans ?_)
  rw [updateBody, ← now]; rfl

/-- R371: a table update is not accepted while a drain is on. -/
theorem drainStage_of_accepts (h : Accepts s q desc ext) (type : fld desc 7 0 = 6) : s.drain.stage = 0 := by
  have noWait : waits s q desc ext = none := by
    have takes := h.takes
    rw [takesNow, Bool.and_eq_true, Option.isNone_iff_eq_none] at takes
    exact takes.2
  have six : dType desc = 6 := type
  by_contra busy
  have waiting : updateWaits s = true := by rw [updateWaits, bne_iff_ne.2 busy, Bool.true_or]
  simp [waits, six, waiting, h.header] at noWait
  split at noWait <;> cases noWait

/-- A record that is written or waits leaves the drain, or ends it where its operation started it. -/
theorem drain_complete (s : State) (o : Op) (st : Status) (pos : Nat) :
    (complete s o st pos).drain = s.drain ∨ (complete s o st pos).drain = { s.drain with stage := 0, op := none } := by
  unfold complete completeWith postRec
  split
  · obtain ⟨keep, ring, t, ⟨os, wait, rfl⟩, e⟩ := writeRec_only s (opRec o st pos 0 0 0)
    rw [e]
    exact (ite_eq_or_eq ..).symm
  · obtain ⟨ops, os, wait, e⟩ := setPos_only s o.id pos
    have same : (setPos s o.id pos).drain = s.drain := by rw [e]
    exact .inl same

/-- While no drain is on, a record changes neither the tables nor the drain's stage and epoch. -/
theorem complete_tables {s : State} (idle : s.drain.stage = 0) (o : Op) (st : Status) (pos : Nat) : let t := complete s o st pos
    t.stagedTabs = s.stagedTabs ∧ t.tabs = s.tabs ∧ t.drain.stage = s.drain.stage ∧ t.drain.epoch = s.drain.epoch := by
  have drain := drain_complete s o st pos
  obtain ⟨_, _, _, _, _, _, _, _, _, e⟩ := paper_complete s o st pos
  refine ⟨by rw [e], by rw [e], ?_⟩
  rcases drain with same | ended
  · rw [same]; exact ⟨rfl, rfl⟩
  · rw [ended, idle]; exact ⟨rfl, rfl⟩

/-- R371: what staging a table's entries keeps. -/
theorem tableStage_keeps {a t : State} (h : tableStage a desc ext = .ok t) :
    t.tabs = a.tabs ∧ t.drain = a.drain ∧ t.hoopHold = a.hoopHold := by
  obtain ⟨u, ⟨_, _, _, _, _, _, _, rfl⟩, e⟩ := tableStage_dies h
  rw [e]; exact ⟨rfl, rfl, rfl⟩

section
variable {a s1 : State} {o : Op} {wait : Bool}

theorem tableUpdate_refused {e : Status} {act : Bool} {size lim : Nat} (entry : tabEntry a.variant (fld o.desc 135 128) = some (size, lim))
    (stage : tableStage a o.desc ext = .error e) :
    tableUpdate a o wait act ext = complete (devSeen a (fld o.desc 319 256) (size * fld o.desc 223 192) e) o e 0 := by
  simp only [tableUpdate, stage, entry]

theorem tableUpdate_staged (stage : tableStage a o.desc ext = .ok s1) : ∃ o', tableUpdate a o wait false ext =
    complete (updOp s1 o.id (fun p => { p with total := fld o.desc 223 192 })) o' .ok (fld o.desc 223 192) := by
  refine ⟨{ o with total := fld o.desc 223 192 }, ?_⟩
  simp only [tableUpdate, stage, Bool.not_false, if_true]

theorem hoopBlock_free (hold : a.hoopHold = []) (queue : a.hoopQ = []) (act : Nat) (dies : NSet) : hoopBlock a act dies true = none := by
  rw [hoopBlock, List.findSome?_eq_none_iff]
  intro d _
  rw [hold, queue]; rfl

/-- R370: the request for the hoops of a drain that an update starts. -/
def drainReq (a : State) (o : Op) : HoopReq := { act := 1, dies := upto (ndies a.variant), op := some o.id, die := 0, unit := 0, arg := 0 }

theorem tableUpdate_activates (stage : tableStage a o.desc ext = .ok s1) (hold : a.hoopHold = []) (queue : a.hoopQ = []) :
    tableUpdate a o wait true ext = hoopStart (updOp s1 o.id (fun p => { p with total := 1024 })) (drainReq a o) := by
  have free := hoopBlock_free hold queue 1 (upto (ndies a.variant))
  simp only [tableUpdate, stage, Bool.not_true, Bool.false_eq_true, if_false, free]
  rfl

/-- R286, R446: an update granted the hoops holds them, and its drain begins; the tables in force stay. -/
theorem hoopStart_drain (v : State) : let t := hoopStart v (drainReq a o)
    t.drain.stage = 1 ∧ t.drain.op = some o.id ∧ t.tabs = v.tabs ∧ t.hoopHold = v.hoopHold ++ [drainReq a o] := ⟨rfl, rfl, rfl, rfl⟩

end

end

/-- Settles O32: takeDesc leaves each TYPE its own body; an open joins the queue, a close removes by identifier and generation, an update stages. -/
theorem contextAndTableDescriptorsTakeEffect : Obligations.ContextAndTableDescriptorsTakeEffect := by
  intro s q desc ext h a o id
  obtain ⟨ctxs, hold, queue, tabs, drain⟩ := accepted_ctxs s q desc ext
  refine ⟨?_, ?_, ?_, ?_⟩
  · intro type clean aligned rest bs s1 tbl s2 read blk n
    have block : BlockRead a o ext bs s1 := ⟨clean, aligned, rest, read⟩
    refine ⟨fun bad => (exec_contextOpen_of h type).trans (congrArg _ (openBody_badBlock block bad)), fun good nonempty members ms ds table dies new room => ?_⟩
    refine ⟨waitingCtx s2 o id blk ms ds, rfl, rfl, rfl, rfl, rfl, rfl, rfl, fun group => (exec_contextOpen_of h type).trans (congrArg _ ?_)⟩
    exact (openBody_members block good nonempty members).trans (openContext_joins good table dies group new room)
  · intro type clean
    refine ⟨fun missing => ?_, fun there => ⟨_, exec_contextClose_of h type clean, ?_⟩⟩
    · exact (exec_contextClose_of h type clean).trans (congrArg _ (closeContext_missing (ctxs.symm ▸ missing)))
    · rw [ctxs_closeContext (ctxs.symm ▸ there), ctxs]
  · intro type later
    refine ⟨fun e size lim entry stage => ?_, fun s1 stage => ?_⟩
    · obtain ⟨-, variant, -⟩ := accepted_dies s q desc ext
      exact (exec_tableUpdate_of h type later).trans (congrArg _ (tableUpdate_refused (o := o) (variant.symm ▸ entry) stage))
    · obtain ⟨stagedTabs, stagedDrain, -⟩ := tableStage_keeps stage
      obtain ⟨o', updated⟩ := tableUpdate_staged (o := o) (wait := dWaitHoop desc) stage
      have idle : s1.drain.stage = 0 := by rw [stagedDrain, drain]; exact drainStage_of_accepts h type
      obtain ⟨staged, inForce, stages, epoch⟩ := complete_tables (s := updOp s1 o.id (fun p => { p with total := fld o.desc 223 192 })) idle o' .ok
        (fld o.desc 223 192)
      have same : s1.drain = s.drain := stagedDrain.trans drain
      exact ⟨_, (exec_tableUpdate_of h type later).trans (congrArg _ updated), staged, inForce.trans (stagedTabs.trans tabs),
        stages.trans (congrArg Drain.stage same), epoch.trans (congrArg Drain.epoch same)⟩
  · intro type now s1 stage free empty
    obtain ⟨stagedTabs, -, stagedHold⟩ := tableStage_keeps stage
    obtain ⟨begun, owner, inForce, holds⟩ := hoopStart_drain (a := a) (o := o) (updOp s1 o.id (fun p => { p with total := 1024 }))
    refine ⟨_, drainReq a o, (exec_tableUpdateActivate_of h type now).trans (congrArg _ (tableUpdate_activates stage (hold.trans free) (queue.trans empty))),
      begun, owner, inForce.trans (stagedTabs.trans tabs), holds.trans ?_, rfl, rfl⟩
    rw [show (updOp s1 o.id _).hoopHold = s1.hoopHold from rfl, stagedHold, hold, free, List.nil_append]

end Sys2Proof.Proofs
end

section
/-! PROOFS. Collective packets: pieces and pricking bytes at a chunk's home, what the home sends, acknowledgements. -/

namespace Sys2Proof.Proofs

open Sys2Proof.Machine Sys2Proof.Laws

/-- What a packet's step leaves after it: the collective traffic goes on, and the packet's buffer is given back. -/
def afterColl (d : Nat) (e : Held) (t : State) : Host.Outcome State Fault Refusal := .next (drainTick (dropHeld (ctxPump t) d e))

/-- R206: the state with slot t given to its chunk, where no slot is the chunk's yet. -/
def slotGiven (s : State) (c : Ctx) (ch : Nat) (t : Slot) : State :=
  if (slotFind c ch).isSome then s else ctxMap s c.id c.gen (fun c => { c with slots := c.slots ++ [t] })

section
variable {s s1 : State} {d poison : Nat} {e : Held} {c : Ctx} {t : Slot}

/-! A piece at its chunk's home (R188, R194, R196 to R198, R206, R519) -/

theorem exec_data_of (h : takeKind s d kDATA = some (e, s1)) : exec (.data d poison) s = afterColl d e (dataStep s1 d e poison) :=
  congrArg Host.Outcome.next (onKind_of _ h)

theorem dataStep_closed (closed : findCtx s (hCTX e.pkt.hdr) (hGEN e.pkt.hdr) = none) : dataStep s d e poison = bump s d nNOT_OPEN := by
  simp only [dataStep, closed]

theorem dataStep_invalid (found : findCtx s (hCTX e.pkt.hdr) (hGEN e.pkt.hdr) = some c) (invalid : upValid s d c e.pkt.hdr = false) :
    dataStep s d e poison = bump s d nNOT_OPEN := by
  simp only [dataStep, found, invalid, Bool.not_false, if_true]

theorem dataStep_emitted (found : findCtx s (hCTX e.pkt.hdr) (hGEN e.pkt.hdr) = some c) (valid : upValid s d c e.pkt.hdr = true)
    (out : hCHUNK e.pkt.hdr ∈ c.emitted) : dataStep s d e poison = ackUp (bump s d nCOLLDUP) d e.pkt.hdr := by
  simp only [dataStep, found, valid, contains_true out, Bool.not_true, Bool.false_eq_true, if_false, if_true]

/-- R188, R197, R519: a COLL_UP packet of an open context, for a chunk at this home whose result is not out. -/
structure Counts (s : State) (d : Nat) (e : Held) (c : Ctx) : Prop where
  found : findCtx s (hCTX e.pkt.hdr) (hGEN e.pkt.hdr) = some c
  valid : upValid s d c e.pkt.hdr = true
  going : hCHUNK e.pkt.hdr ∉ c.emitted

theorem dataStep_early (h : Counts s d e c) (pricks : cWmode c = 1) (unfixed : slotFixed c (hCHUNK e.pkt.hdr) = false) :
    dataStep s d e poison = bump s d nEARLY := by
  simp only [dataStep, h.found, h.valid, contains_false h.going, pricks, unfixed, beq_self_eq_true, Bool.not_true, Bool.not_false, Bool.and_self, Bool.false_eq_true,
    if_false, if_true]

/-- The piece that a DATA packet carries. -/
def pieceOf (e : Held) : Piece :=
  { rank := hRANK e.pkt.hdr, piece := hPIECE e.pkt.hdr, last := hLAST e.pkt.hdr, cchk := hCCHK e.pkt.hdr, bytes := payload e.pkt, buf := none }

/-- The pieces of the packet's rank with its own. -/
def rankPieces (t : Slot) (e : Held) : List Piece := t.staged.filter (fun q => q.rank == hRANK e.pkt.hdr) ++ [pieceOf e]

/-- R198: whether pieces are a whole contribution: the one with LAST and every lower-numbered one. -/
def wholePieces (ps : List Piece) : Bool :=
  match ps.find? (fun q => q.last) with
  | some q => (upto (q.piece + 1)).all (fun i => ps.any (fun r => r.piece == i))
  | none => false

theorem wholePieces_iff (ps : List Piece) :
    wholePieces ps = true ↔ ∃ q, ps.find? (fun q => q.last) = some q ∧ ∀ i, i ≤ q.piece → ∃ r ∈ ps, r.piece = i := by
  unfold wholePieces
  cases ps.find? (fun q => q.last) with
  | none => simp
  | some q => simp [upto]

/-- R197: whether a slot has the packet's piece already. -/
def hasPiece (t : Slot) (h : Hdr) : Bool := t.arrived.contains (hRANK h) || t.staged.any (fun p => p.rank == hRANK h && p.piece == hPIECE h)

theorem hasPiece_true {h : Hdr} (has : hRANK h ∈ t.arrived ∨ ∃ p ∈ t.staged, p.rank = hRANK h ∧ p.piece = hPIECE h) : hasPiece t h = true := by
  simpa only [hasPiece, Bool.or_eq_true, List.contains_iff_mem, List.any_eq_true, Bool.and_eq_true, beq_iff_eq] using has

theorem hasPiece_false {h : Hdr} (out : hRANK h ∉ t.arrived) (new : ∀ p ∈ t.staged, p.rank = hRANK h → p.piece ≠ hPIECE h) : hasPiece t h = false := by
  rw [hasPiece, contains_false out, Bool.false_or, List.any_eq_false]
  intro p hp both
  rw [Bool.and_eq_true, beq_iff_eq, beq_iff_eq] at both
  exact new p hp both.1 both.2

/-- R197, R198: what a piece does at its chunk's slot t: counted as a duplicate, added with its contribution, or staged. -/
def pieceAt (s : State) (d : Nat) (e : Held) (poison : Nat) (c : Ctx) (t : Slot) : State :=
  if hasPiece t e.pkt.hdr then ackUp (bump s d nCOLLDUP) d e.pkt.hdr
  else if wholePieces (rankPieces t e) then
    contribute (ackUp (slotGiven s c (hCHUNK e.pkt.hdr) t) d e.pkt.hdr) d c t (hRANK e.pkt.hdr) (rankPieces t e) poison
  else match e.buf with
    | none => s
    | some b => match stageBuf (slotGiven s c (hCHUNK e.pkt.hdr) t) d b with
      | none => s
      | some u => slotPut (ackUp u d e.pkt.hdr) c { t with staged := t.staged ++ [{ pieceOf e with buf := some b }] }

/-- R196: windows that are in force let a piece in. -/
theorem timely_of_inForce (inForce : cWmode c ≠ 1 ∨ slotFixed c (hCHUNK e.pkt.hdr) = true) :
    (cWmode c == 1 && !slotFixed c (hCHUNK e.pkt.hdr)) = false := by
  rcases inForce with fixed | fixed
  · rw [beq_false_of_ne fixed, Bool.false_and]
  · rw [fixed, Bool.not_true, Bool.and_false]

section
variable (h : Counts s d e c) (inForce : cWmode c ≠ 1 ∨ slotFixed c (hCHUNK e.pkt.hdr) = true)
include h inForce

theorem dataStep_full (full : slotFor c d (hCHUNK e.pkt.hdr) = none) : dataStep s d e poison = bump s d nNOSLOT := by
  simp only [dataStep, h.found, h.valid, contains_false h.going, timely_of_inForce inForce, full, Bool.not_true, Bool.false_eq_true, if_false]

/-- R196, R206: a piece whose chunk's windows are in force is for the chunk's slot, or the free one that it is given. -/
theorem dataStep_slotted (slot : slotFor c d (hCHUNK e.pkt.hdr) = some t) : dataStep s d e poison = pieceAt s d e poison c t := by
  simp only [dataStep, h.found, h.valid, contains_false h.going, timely_of_inForce inForce, slot, Bool.not_true, Bool.false_eq_true, if_false]
  rfl

end

theorem pieceAt_again (has : hasPiece t e.pkt.hdr = true) : pieceAt s d e poison c t = ackUp (bump s d nCOLLDUP) d e.pkt.hdr := if_pos has

theorem pieceAt_whole (new : hasPiece t e.pkt.hdr = false) (whole : wholePieces (rankPieces t e) = true) : pieceAt s d e poison c t =
    contribute (ackUp (slotGiven s c (hCHUNK e.pkt.hdr) t) d e.pkt.hdr) d c t (hRANK e.pkt.hdr) (rankPieces t e) poison :=
  (if_neg (ne_true_of_eq_false new)).trans (if_pos whole)

theorem pieceAt_part {b : Nat} (new : hasPiece t e.pkt.hdr = false) (part : ¬wholePieces (rankPieces t e) = true) (buf : e.buf = some b) :
    pieceAt s d e poison c t = match stageBuf (slotGiven s c (hCHUNK e.pkt.hdr) t) d b with
      | some u => slotPut (ackUp u d e.pkt.hdr) c { t with staged := t.staged ++ [{ pieceOf e with buf := some b }] }
      | none => s := by
  refine (if_neg (ne_true_of_eq_false new)).trans ((if_neg part).trans ?_)
  simp only [buf]
  cases stageBuf (slotGiven s c (hCHUNK e.pkt.hdr) t) d b <;> rfl

/-! Pricking bytes at a chunk's home (R193, R194, R199, R206) -/

theorem exec_prick_of (h : takeKind s d kPRICK = some (e, s1)) : exec (.prick d poison) s = afterColl d e (prickStep s1 d e poison) :=
  congrArg Host.Outcome.next (onKind_of _ h)

theorem prickStep_closed (closed : findCtx s (hCTX e.pkt.hdr) (hGEN e.pkt.hdr) = none) : prickStep s d e poison = bump s d nNOT_OPEN := by
  simp only [prickStep, closed]

theorem prickStep_invalid (found : findCtx s (hCTX e.pkt.hdr) (hGEN e.pkt.hdr) = some c) (invalid : upValid s d c e.pkt.hdr = false ∨ cWmode c ≠ 1) :
    prickStep s d e poison = bump s d nNOT_OPEN := by
  have refused : (!upValid s d c e.pkt.hdr || cWmode c != 1) = true := by
    simpa only [Bool.or_eq_true, Bool.not_eq_true', bne_iff_ne] using invalid
  simp only [prickStep, found, refused, if_true]

theorem prickStep_emitted (found : findCtx s (hCTX e.pkt.hdr) (hGEN e.pkt.hdr) = some c) (valid : upValid s d c e.pkt.hdr = true) (pricks : cWmode c = 1)
    (out : hCHUNK e.pkt.hdr ∈ c.emitted) : prickStep s d e poison = ackUp (bump s d nCOLLDUP) d e.pkt.hdr := by
  simp only [prickStep, found, valid, pricks, contains_true out, bne_self_eq_false, Bool.not_true, Bool.or_self, Bool.false_eq_true, if_false, if_true]

/-- R194: a slot with the pricking bytes of the packet's rank counted. -/
def prickedSlot (c : Ctx) (t : Slot) (e : Held) : Slot :=
  { t with
    pricked := sadd t.pricked (hRANK e.pkt.hdr)
    prick := maxList (if t.prick.isEmpty then List.replicate (cGrains c) 0 else t.prick) (((payload e.pkt).take (cGrains c)).map (·.toNat)) }

/-- R194: the state with every rank of a chunk counted: its windows are fixed, and its WINDOW packet goes to the box. -/
def windowSent (s : State) (d : Nat) (c : Ctx) (ch : Nat) (t : Slot) : State :=
  downPost (slotPut s c { t with fixed := true }) d c kWINDOW ch true 0 0 (t.prick.map (BitVec.ofNat 8 ·))

/-- R194, R199: what a pricking packet does at its chunk's slot t: the slot's poison is met, or the packet is counted, once. -/
def prickAt (s : State) (d : Nat) (e : Held) (poison : Nat) (c : Ctx) (t : Slot) : State :=
  if poison ≠ 0 ∧ (slotFind c (hCHUNK e.pkt.hdr)).isSome then slotPoisoned (slotGiven s c (hCHUNK e.pkt.hdr) t) d c t (poison == 2)
  else if t.pricked.contains (hRANK e.pkt.hdr) then ackUp (bump (slotGiven s c (hCHUNK e.pkt.hdr) t) d nCOLLDUP) d e.pkt.hdr
  else if (prickedSlot c t e).pricked.length < cNC c then
    slotPut (ackUp (slotGiven s c (hCHUNK e.pkt.hdr) t) d e.pkt.hdr) c (prickedSlot c t e)
  else
    let s3 := windowSent (ackUp (slotGiven s c (hCHUNK e.pkt.hdr) t) d e.pkt.hdr) d c (hCHUNK e.pkt.hdr) (prickedSlot c t e)
    if cLocal c then localWindow s3 c (hCHUNK e.pkt.hdr) else s3

section
variable (h : Counts s d e c) (pricks : cWmode c = 1)
include h pricks

theorem prickStep_full (full : slotFor c d (hCHUNK e.pkt.hdr) = none) : prickStep s d e poison = bump s d nNOSLOT := by
  simp only [prickStep, h.found, h.valid, pricks, contains_false h.going, full, bne_self_eq_false, Bool.not_true, Bool.or_self, Bool.false_eq_true, if_false]

theorem prickStep_slotted (slot : slotFor c d (hCHUNK e.pkt.hdr) = some t) : prickStep s d e poison = prickAt s d e poison c t := by
  simp only [prickStep, h.found, h.valid, pricks, contains_false h.going, slot, bne_self_eq_false, Bool.not_true, Bool.or_self, Bool.false_eq_true, if_false]
  rfl

end

theorem slotGiven_there {ch : Nat} (there : (slotFind c ch).isSome = true) : slotGiven s c ch t = s := if_pos there

theorem prickAt_poisoned (bad : poison ≠ 0) (there : (slotFind c (hCHUNK e.pkt.hdr)).isSome = true) :
    prickAt s d e poison c t = slotPoisoned s d c t (poison == 2) :=
  (if_pos ⟨bad, there⟩).trans (by rw [slotGiven_there there])

section
variable (good : poison = 0 ∨ slotFind c (hCHUNK e.pkt.hdr) = none)
include good

theorem unpoisoned_of_good : ¬(poison ≠ 0 ∧ (slotFind c (hCHUNK e.pkt.hdr)).isSome = true) :=
  fun ⟨bad, there⟩ => good.elim bad (fun free => by rw [free] at there; cases there)

theorem prickAt_again (has : hRANK e.pkt.hdr ∈ t.pricked) :
    prickAt s d e poison c t = ackUp (bump (slotGiven s c (hCHUNK e.pkt.hdr) t) d nCOLLDUP) d e.pkt.hdr :=
  (if_neg (unpoisoned_of_good good)).trans (if_pos (contains_true has))

variable (new : hRANK e.pkt.hdr ∉ t.pricked)
include new

theorem prickAt_few (few : (prickedSlot c t e).pricked.length < cNC c) :
    prickAt s d e poison c t = slotPut (ackUp (slotGiven s c (hCHUNK e.pkt.hdr) t) d e.pkt.hdr) c (prickedSlot c t e) :=
  (if_neg (unpoisoned_of_good good)).trans ((if_neg (ne_true_of_eq_false (contains_false new))).trans (if_pos few))

theorem prickAt_all (all : cNC c ≤ (prickedSlot c t e).pricked.length) : prickAt s d e poison c t =
    let s3 := windowSent (ackUp (slotGiven s c (hCHUNK e.pkt.hdr) t) d e.pkt.hdr) d c (hCHUNK e.pkt.hdr) (prickedSlot c t e)
    if cLocal c = true then localWindow s3 c (hCHUNK e.pkt.hdr) else s3 :=
  (if_neg (unpoisoned_of_good good)).trans ((if_neg (ne_true_of_eq_false (contains_false new))).trans (if_neg (Nat.not_lt.2 all)))

end

/-! What the home sends, at a package (R188, R209, R249, R282) -/

theorem downStep_lost (act : State → Ctx → Held → Nat → State) (closed : findCtx s (hCTX e.pkt.hdr) (hGEN e.pkt.hdr) = none) :
    downStep s d e act = bump (sendCollAck s d e.pkt.hdr) d nNOT_OPEN := by
  simp only [downStep, closed]

theorem downStep_found (act : State → Ctx → Held → Nat → State) {b : Nat} (found : findCtx s (hCTX e.pkt.hdr) (hGEN e.pkt.hdr) = some c) (buf : e.buf = some b) :
    downStep s d e act =
      if cChunks c ≤ hCHUNK e.pkt.hdr then bump (sendCollAck s d e.pkt.hdr) d nNOT_OPEN
      else ctxPump (act (if hRESENT e.pkt.hdr = true then sendCollAck s d e.pkt.hdr
        else treeCopies (sendCollAck s d e.pkt.hdr) d c e b (cameFrom (sendCollAck s d e.pkt.hdr) d e)) c e b) := by
  simp only [downStep, found, buf]

theorem exec_result_of (h : takeKind s d kRESULT = some (e, s1)) : exec (.result d) s =
    .next (drainTick (dropHeld (downStep s1 d e (fun s c e b => gotResult s d c e.pkt.hdr (payload e.pkt) b)) d e)) :=
  congrArg Host.Outcome.next (onKind_of _ h)

theorem exec_window_of (h : takeKind s d kWINDOW = some (e, s1)) : exec (.window d) s =
    .next (drainTick (dropHeld (downStep s1 d e (fun s c e b => localWindow (memberCopies s d c e b) c (hCHUNK e.pkt.hdr))) d e)) :=
  congrArg Host.Outcome.next (onKind_of _ h)

theorem exec_recontrib_of (h : takeKind s d kRECONTRIB = some (e, s1)) : exec (.recontrib d) s =
    .next (drainTick (dropHeld (downStep s1 d e (fun s c e b =>
      localAgain (memberCopies s d c e b) c (hCHUNK e.pkt.hdr) (hRANK e.pkt.hdr) (hCCHK e.pkt.hdr % 2 == 1))) d e)) :=
  congrArg Host.Outcome.next (onKind_of _ h)

/-! Acknowledgements (R249) -/

theorem exec_collAck_of (h : takeKind s d kCOLL_ACK = some (e, s1)) : exec (.collAck d) s = .next (drainTick (dropHeld (collAckStep s1 d e.pkt.hdr) d e)) :=
  congrArg Host.Outcome.next (onKind_of _ h)

theorem takeKind_variant {kind : Nat} (h : takeKind s d kind = some (e, s1)) : s1.variant = s.variant := by
  unfold takeKind at h
  extract_lets x blocked at h
  split at h
  · cases h
  · split at h
    · cases h
    · injection h with h
      rw [← (Prod.mk.inj h).2]
      rfl

theorem collAckStep_package {h : Hdr} (package : ackFrom s (hSRC h) < 65536) : collAckStep s d h = ctxPump (collAcked s d h (ackFrom s (hSRC h))) :=
  congrArg ctxPump (if_neg (Nat.not_le.2 package))

theorem collAckStep_endpoint {h : Hdr} (endpoint : 65536 ≤ ackFrom s (hSRC h)) :
    collAckStep s d h = ctxPump (foldUpto (ndies s.variant) s (fun u t => collAcked u t h (ackFrom s (hSRC h)))) :=
  congrArg ctxPump (if_pos endpoint)

end

/-- Settles O47: each kind's step by its cases above: a piece or pricking packet at its home, a packet that the home sends, an acknowledgement. -/
theorem collectivePacketsAreCountedOnce : Obligations.CollectivePacketsAreCountedOnce := by
  intro s d kind poison e s1 take h ch ends grown
  refine ⟨?_, ?_, ?_, ?_⟩
  · rintro rfl
    have step {t : State} (eq : dataStep s1 d e poison = t) : exec (.data d poison) s = ends t := eq ▸ exec_data_of take
    refine ⟨fun closed => step (dataStep_closed closed), fun c found => ⟨fun invalid => step (dataStep_invalid found invalid),
      fun valid out => step (dataStep_emitted found valid out), fun valid going => ?_⟩⟩
    have counts : Counts s1 d e c := ⟨found, valid, going⟩
    refine ⟨fun pricks unfixed => step (dataStep_early counts pricks unfixed), fun inForce => ⟨fun full => step (dataStep_full counts inForce full),
      fun t slot => ?_⟩⟩
    have atSlot {u : State} (eq : pieceAt s1 d e poison c t = u) := step ((dataStep_slotted counts inForce slot).trans eq)
    refine ⟨fun has => atSlot (pieceAt_again (hasPiece_true has)), fun out unstaged => ?_⟩
    have new := hasPiece_false out unstaged
    refine ⟨pieceOf e, rfl, rfl, rfl, rfl, rfl, fun whole => ?_, fun part b buf => ?_⟩
    · exact atSlot (pieceAt_whole new ((wholePieces_iff _).2 whole))
    · exact atSlot (pieceAt_part new (fun whole => part ((wholePieces_iff _).1 whole)) buf)
  · rintro rfl
    have step {t : State} (eq : prickStep s1 d e poison = t) : exec (.prick d poison) s = ends t := eq ▸ exec_prick_of take
    refine ⟨fun closed => step (prickStep_closed closed), fun c found => ⟨fun invalid => step (prickStep_invalid found invalid),
      fun valid pricks out => step (prickStep_emitted found valid pricks out), fun valid pricks going => ?_⟩⟩
    have counts : Counts s1 d e c := ⟨found, valid, going⟩
    refine ⟨fun full => step (prickStep_full counts pricks full), fun t slot => ?_⟩
    have atSlot {u : State} (eq : prickAt s1 d e poison c t = u) := step ((prickStep_slotted counts pricks slot).trans eq)
    exact ⟨fun bad there => atSlot (prickAt_poisoned bad there), fun good => ⟨fun has => atSlot (prickAt_again good has), fun new =>
      ⟨prickedSlot c t e, rfl, rfl, rfl, rfl, fun few => atSlot (prickAt_few good new few), fun all => atSlot (prickAt_all good new all)⟩⟩⟩
  · intro i act packet s0 lost
    have step : exec i s = .next (drainTick (dropHeld (downStep s1 d e act) d e)) := by
      rcases packet with ⟨rfl, rfl, rfl⟩ | ⟨rfl, rfl, rfl⟩ | ⟨rfl, rfl, rfl⟩
      · exact exec_result_of take
      · exact exec_window_of take
      · exact exec_recontrib_of take
    refine ⟨fun closed => by rw [step, downStep_lost act closed], fun c b found buf => ?_⟩
    rw [step, downStep_found act found buf]
    refine ⟨fun beyond => by rw [if_pos beyond], fun inRange again => ?_, fun inRange first => ?_⟩
    · rw [if_neg (Nat.not_le.2 inRange), if_pos again]
    · rw [if_neg (Nat.not_le.2 inRange), if_neg (ne_true_of_eq_false first)]
  · rintro rfl
    refine ⟨fun package => ?_, fun endpoint => ?_⟩
    · rw [exec_collAck_of take, collAckStep_package package]
    · rw [exec_collAck_of take, collAckStep_endpoint endpoint, takeKind_variant take]

end Sys2Proof.Proofs
end

section
/-! PROOFS. Responses, acknowledgements, re-send requests and lock-step messages at the die that consumes them. -/

namespace Sys2Proof.Proofs

open Sys2Proof.Machine Sys2Proof.Laws

section
variable {s s1 s2 s3 : State} {d kind : Nat} {e : Held}

/-- What follows a packet's effect: its buffer is freed and a drain goes on. -/
def consumed (d : Nat) (e : Held) (t : State) : Host.Outcome State Fault Refusal := .next (drainTick (dropHeld t d e))

/-- An instruction that serves packets of a kind does what its step f does with the one that waits. -/
theorem exec_taken {i : Instr} {f : State → Held → State} {t : State} (take : takeKind s d kind = some (e, s1))
    (run : exec i s = .next (onKind kind d s f)) (step : f s1 e = t) : exec i s = consumed d e t := by
  rw [run, onKind_of f take, step]; rfl

/-! Responses (R517, R518) -/

theorem responseStep_void (void : heldVoid e = true) (kinds : List Nat) : responseStep s d e kinds = finCount s d e := if_pos void

section
variable (whole : heldVoid e = false)
include whole

theorem responseStep_stray {kinds : List Nat} (stray : takeReq' (finCount s d e) d (hSRC e.pkt.hdr) (hTAG e.pkt.hdr) kinds = none) :
    responseStep s d e kinds = bump (finCount s d e) d nBADADDR := by
  simp only [responseStep, whole, stray, Bool.false_eq_true, if_false]

theorem responseStep_answers {kinds : List Nat} {r : ReqOut} (req : takeReq' (finCount s d e) d (hSRC e.pkt.hdr) (hTAG e.pkt.hdr) kinds = some (r, s2)) :
    responseStep s d e kinds = pump (answered (strayReply s2 e.pkt.hdr r (payload e.pkt)) d r (replyStatus (hAUX e.pkt.hdr)) (landed e.pkt.hdr r (payload e.pkt))) := by
  simp only [responseStep, whole, req, Bool.false_eq_true, if_false]

end

/-- The three cases of a response that instruction i applies: it is void, it answers nothing, it answers a request of kind req. -/
theorem response_cases {i : Instr} {req : Nat} (take : takeKind s d kind = some (e, s1))
    (run : exec i s = .next (onKind kind d s (fun s e => responseStep s d e [req]))) :
    (heldVoid e = true → exec i s = consumed d e (finCount s1 d e)) ∧
    (heldVoid e = false → takeReq' (finCount s1 d e) d (hSRC e.pkt.hdr) (hTAG e.pkt.hdr) [req] = none →
      exec i s = consumed d e (bump (finCount s1 d e) d nBADADDR)) ∧
    (heldVoid e = false → ∀ r s3, takeReq' (finCount s1 d e) d (hSRC e.pkt.hdr) (hTAG e.pkt.hdr) [req] = some (r, s3) →
      exec i s = consumed d e (pump (answered (strayReply s3 e.pkt.hdr r (payload e.pkt)) d r (replyStatus (hAUX e.pkt.hdr)) (landed e.pkt.hdr r (payload e.pkt))))) := by
  have does {t : State} (step : responseStep s1 d e [req] = t) : exec i s = consumed d e t := exec_taken take run step
  exact ⟨fun void => does (responseStep_void void _), fun whole stray => does (responseStep_stray whole stray),
    fun whole r s3 req => does (responseStep_answers whole req)⟩

theorem strayReply_home {h : Hdr} {r : ReqOut} (home : hADDR h % 2 ^ 48 = r.reply) (bs : List Byte) : strayReply s h r bs = s ∧ landed h r bs = bs := by
  refine ⟨if_pos home, ?_⟩
  unfold landed
  split
  · exact if_pos home
  · rfl

theorem strayReply_away {h : Hdr} {r : ReqOut} {p : Place} (away : hADDR h % 2 ^ 48 ≠ r.reply) (place : addrPlace s (hADDR h) .wr = .ok p) (bs : List Byte) :
    strayReply s h r bs = placePut s p bs := by
  simp only [strayReply, if_neg away, place]

theorem answered_companion {r : ReqOut} {n : Nat} (what : r.what = .companion n) (bs : List Byte) : answered s d r .ok bs = emit s (.data (bs.take n)) := by
  simp only [answered, what, companionAnswer, if_true]

/-- R518: the request taken is the one that the response names. -/
theorem takeReq_some {chip tag k : Nat} {r : ReqOut} (h : takeReq' s d chip tag [k] = some (r, s3)) :
    r.chip = chip ∧ r.tag = tag ∧ r.kind = k ∧ r ∈ (getDie s d).reqs := by
  unfold takeReq' at h
  split at h
  · cases h
  · next q found =>
    obtain rfl : q = r := congrArg Prod.fst (Option.some.inj h)
    have named := List.find?_some found
    simp only [Bool.and_eq_true, beq_iff_eq, List.contains_iff_mem, List.mem_singleton] at named
    obtain ⟨⟨chip, tag⟩, kind⟩ := named
    exact ⟨chip, tag, kind, List.mem_of_find?_eq_some found⟩

/-! Engine output (R517, R518) -/

/-- R518: whether an engine request is outstanding that the packet names. -/
def awaited (s : State) (d : Nat) (h : Hdr) : Bool := (getDie s d).reqs.any (fun r => r.chip == hSRC h && r.tag == hTAG h && r.kind == kENGINE)

theorem awaited_iff (s : State) (d : Nat) (h : Hdr) : awaited s d h = true ↔ ∃ r ∈ (getDie s d).reqs, r.chip = hSRC h ∧ r.tag = hTAG h ∧ r.kind = kENGINE := by
  simp only [awaited, List.any_eq_true, Bool.and_eq_true, beq_iff_eq, and_assoc]

theorem awaited_false {h : Hdr} (stray : ∀ r ∈ (getDie s d).reqs, r.chip ≠ hSRC h ∨ r.tag ≠ hTAG h ∨ r.kind ≠ kENGINE) : awaited s d h = false := by
  rw [Bool.eq_false_iff, ne_eq, awaited_iff]
  rintro ⟨r, mem, chip, tag, kind⟩
  rcases stray r mem with h | h | h
  · exact h chip
  · exact h tag
  · exact h kind

theorem replyWriteStep_eq (s : State) (d : Nat) (e : Held) : replyWriteStep s d e =
    if heldVoid e then finCount s d e
    else if awaited s d e.pkt.hdr then
      if e.brd then emit (finCount s d e) (.store (hADDR e.pkt.hdr) (payload e.pkt))
      else match addrPlace (finCount s d e) (hADDR e.pkt.hdr) .wr with
        | .ok (.board a) => emit (finCount s d e) (.store a (payload e.pkt))
        | .ok p => placePut (finCount s d e) p (payload e.pkt)
        | .error _ => finCount s d e
    else bump (finCount s d e) d nBADADDR := rfl

theorem replyWriteStep_stray (whole : heldVoid e = false) (stray : awaited s d e.pkt.hdr = false) : replyWriteStep s d e = bump (finCount s d e) d nBADADDR := by
  simp only [replyWriteStep_eq, whole, stray, Bool.false_eq_true, if_false]

theorem replyWriteStep_ground {g o : Nat} (whole : heldVoid e = false) (own : e.brd = false) (asked : awaited s d e.pkt.hdr = true)
    (place : addrPlace (finCount s d e) (hADDR e.pkt.hdr) .wr = .ok (.ground g o)) :
    replyWriteStep s d e = placePut (finCount s d e) (.ground g o) (payload e.pkt) := by
  simp only [replyWriteStep_eq, whole, own, asked, place, Bool.false_eq_true, if_false, if_true]

/-! Acknowledgements and re-sends (R245 to R247) -/

/-- R245: an ACK is over with the records that its map names, and no other. -/
theorem ackedAt_covers {x t : Xport} {chip start map : Nat} {gone : List Replay} (h : ackedAt x chip start map = (t, gone)) :
    ∀ r ∈ gone, seqSub r.seq start < 64 ∧ map.testBit (seqSub r.seq start) = true := by
  unfold ackedAt at h
  split at h
  · obtain rfl := congrArg Prod.snd h
    exact fun r stray => absurd stray List.not_mem_nil
  · obtain rfl := congrArg Prod.snd h
    intro r mem
    obtain ⟨-, covered⟩ := List.mem_filter.1 mem
    simpa only [Bool.and_eq_true, decide_eq_true_eq] using covered

theorem ackStep_of {h : Hdr} {t : Xport} {gone : List Replay} (acked : ackedAt (getDie s d).tr (hSRC h) (hSEQ h) (hADDR h) = (t, gone)) : ackStep s d h =
    pump (gone.foldl (fun s r => ownerDone (decOpt s d r.buf 13) d r .ok) (setDie s d { getDie s d with tr := t })) := by
  simp only [ackStep, acked]

/-- R247: what a RESEND asks for, by its code. -/
theorem resendStep_die {h : Hdr} (recs : (spaceOf (getDie s d).tr (hSRC h)).recs ≠ []) (goes : resendWaits s d 96 = false) :
    (hAUX h = 0 → resendStep s d 96 h = resendAll s d 96 (hSRC h) (fun r => hTAG r.pkt.hdr == hTAG h)) ∧
    (hAUX h = 1 → resendStep s d 96 h = resendAll s d 96 (hSRC h) (fun r => decide (seqSub r.seq (hSEQ h) < 2 ^ 23))) ∧
    (hAUX h = 2 → resendStep s d 96 h = restart s d 96 (hSRC h)) := by
  have kept : (spaceOf (xport (getDie s d) 96) (hSRC h)).recs.isEmpty = false := List.isEmpty_eq_false_iff.2 recs
  refine ⟨fun code => ?_, fun code => ?_, fun code => ?_⟩ <;> simp only [resendStep, kept, goes, code, Bool.false_eq_true, if_false]

/-! The lock-step partner's records (R403) -/

/-- The digest record that a message carries. -/
def recordOf (s : State) (e : Held) : LsRec :=
  { source := bytesNat (payload e.pkt) 0 1, tag := bytesNat (payload e.pkt) 8 8, digest := bytesNat (payload e.pkt) 16 16, at0 := s.now }

theorem mgmtStep_off (off : bit (regWord (getDie s 0) rTIME_LSTEP) 15 = false) : mgmtStep s d e = finCount s d e := by
  simp only [mgmtStep, off, Bool.and_false, Bool.false_and, Bool.false_eq_true, if_false]

theorem mgmtStep_partner (on : bit (regWord (getDie s 0) rTIME_LSTEP) 15 = true) (whole : isVoid e.pkt.hdr = false)
    (partner : fld (regWord (getDie s 0) rTIME_LSTEP) 14 0 = hSRC e.pkt.hdr) (len : (payload e.pkt).length = 32) : mgmtStep s d e =
    lsCompare { finCount s d e with time := { (finCount s d e).time with peer := (finCount s d e).time.peer ++ [recordOf s e] } } := by
  have record : (!isVoid e.pkt.hdr && bit (regWord (getDie s 0) rTIME_LSTEP) 15 && fld (regWord (getDie s 0) rTIME_LSTEP) 14 0 == hSRC e.pkt.hdr
      && (payload e.pkt).length == 32) = true := by
    rw [on, whole, partner, len, beq_self_eq_true, beq_self_eq_true]; rfl
  simp only [mgmtStep, record, if_true, recordOf]

end

/-- Settles O45: each kind of packet by the lemmas about its step. -/
theorem answersAndAcknowledgementsTakeEffect : Obligations.AnswersAndAcknowledgementsTakeEffect := by
  intro s d kind e s1 take h b s2 ends answers
  refine ⟨?_, ?_, ?_, fun t r home => strayReply_home home b, fun t r p away place => strayReply_away away place b, fun t r n bs what => answered_companion what bs,
    fun i k t r s3 req => takeReq_some req, ?_, ?_, ?_, ?_, ?_⟩
  · rintro rfl; exact response_cases take rfl
  · rintro rfl; exact response_cases take rfl
  · rintro rfl; exact response_cases take rfl
  · rintro rfl whole stray
    exact exec_taken take rfl (replyWriteStep_stray whole (awaited_false stray))
  · rintro rfl whole own asked g o place
    exact exec_taken take rfl (replyWriteStep_ground whole own ((awaited_iff ..).2 asked) place)
  · rintro rfl t gone acked
    exact ⟨ackedAt_covers acked, exec_taken take rfl (ackStep_of acked)⟩
  · rintro rfl recs goes
    have does {t : State} (step : resendStep s1 d 96 h = t) : exec (.resend d) s = ends t := exec_taken take rfl step
    obtain ⟨message, later, all⟩ := resendStep_die recs goes
    exact ⟨fun code => does (message code), fun code => does (later code), fun code => does (all code)⟩
  · rintro rfl ls
    have does {t : State} (step : mgmtStep s1 d e = t) : exec (.mgmtMsg d) s = ends t := exec_taken take rfl step
    exact ⟨fun off => does (mgmtStep_off off), fun on whole partner len => ⟨recordOf s1 e, rfl, rfl, rfl, does (mgmtStep_partner on whole partner len)⟩⟩

end Sys2Proof.Proofs
end

section
/-! PROOFS. Request packets at the die that consumes them. -/

namespace Sys2Proof.Proofs

open Sys2Proof.Machine Sys2Proof.Laws

section
variable {s s1 s2 : State} {d kind n : Nat} {e : Held}

/-- An ordered packet that the older ones in the inbox hold up: one of them is of its order (R252). -/
def heldUp (older : List Held) (e : Held) : Bool :=
  hORD e.pkt.hdr && older.any (fun q => hORD q.pkt.hdr && hSRC q.pkt.hdr == hSRC e.pkt.hdr && hCHAN q.pkt.hdr == hCHAN e.pkt.hdr)

theorem heldUp_false {l : List Held} (free : hORD e.pkt.hdr = true →
    ∀ p ∈ l, hORD p.pkt.hdr = false ∨ hSRC p.pkt.hdr ≠ hSRC e.pkt.hdr ∨ hCHAN p.pkt.hdr ≠ hCHAN e.pkt.hdr) : heldUp l e = false := by
  cases ord : hORD e.pkt.hdr with
  | false => rw [heldUp, ord, Bool.false_and]
  | true =>
    rw [heldUp, ord, Bool.true_and, List.any_eq_false]
    intro p hp both
    simp only [Bool.and_eq_true, beq_iff_eq] at both
    obtain ⟨⟨pOrd, pSrc⟩, pChan⟩ := both
    rcases free ord p hp with no | src | chan
    · exact absurd (pOrd.symm.trans no) Bool.noConfusion
    · exact src pSrc
    · exact chan pChan

/-- R252: the oldest waiting packet of its kind is served, unless an older one of its order waits. -/
theorem takeKind_oldest {l m : List Held} (runs : dieRuns s d = true) (inbox : (getDie s d).inbox = l ++ e :: m) (mine : hKIND e.pkt.hdr = kind)
    (older : ∀ p ∈ l, hKIND p.pkt.hdr ≠ kind) (free : heldUp l e = false) :
    takeKind s d kind = some (e, setDie s d { getDie s d with inbox := l ++ m }) := by
  simp only [dieRuns, Bool.and_eq_true, beq_iff_eq] at runs
  obtain ⟨up, lives⟩ := runs
  have serves : (s.phase != .up || !dieLives s d) = false := by rw [up, lives]; rfl
  have first : (l ++ e :: m).zipIdx.find? (fun p => hKIND p.1.pkt.hdr == kind && !heldUp ((l ++ e :: m).take p.2) p.1) = some (e, l.length) := by
    rw [find_zipIdx_split l m e _ 0 ?_ (fun p hp i => by rw [beq_false_of_ne (older p hp), Bool.false_and]), Nat.zero_add]
    rw [mine, beq_self_eq_true, Nat.zero_add, List.take_left, free]; rfl
  simp only [heldUp] at first
  simp only [takeKind, serves, inbox, first, eraseIdx_split, Bool.false_eq_true, if_false]

/-! WRITE (R255) -/

theorem writeStep_void (void : isVoid e.pkt.hdr = true) : writeStep s d e = finCount s d e := by
  simp only [writeStep, void, if_true]

theorem writeStep_place {p : Place} (whole : isVoid e.pkt.hdr = false) (own : e.brd = false) (place : packetPlace s d (hADDR e.pkt.hdr) (hLEN e.pkt.hdr) = .ok p) :
    writeStep s d e = finCount (placePut s p (payload e.pkt)) d e := by
  simp only [writeStep, whole, own, place, Bool.false_eq_true, if_false]

theorem writeStep_board (whole : isVoid e.pkt.hdr = false) (board : e.brd = true) :
    writeStep s d e = finCount (emit s (.store (hADDR e.pkt.hdr) (payload e.pkt))) d e := by
  simp only [writeStep, whole, board, Bool.false_eq_true, if_false, if_true]

/-! Requests that are whole (R234, R517) -/

theorem reqStep_whole {bad : Bool} (whole : isVoid e.pkt.hdr = false) (good : bad = false) (f : State → State) : reqStep s d e bad f = f (finCount s d e) := by
  simp only [reqStep, whole, good, Bool.false_eq_true, if_false]

/-! READ (R234) -/

/-- A READ of n bytes that keeps to its row of the table. -/
structure WholeRead (e : Held) (n : Nat) : Prop where
  whole : isVoid e.pkt.hdr = false
  len : 16 ≤ (payload e.pkt).length
  zero : bytesNat (payload e.pkt) 10 6 = 0
  size : n = bytesNat (payload e.pkt) 8 2
  any : 0 < n
  few : n ≤ 4096
  own : e.brd = false

/-- The answer to a READ. -/
def readReply (s : State) (d : Nat) (e : Held) (st : Nat) (bs : List Byte) : State :=
  respond s d kREAD_DATA (hSRC e.pkt.hdr) (hTAG e.pkt.hdr) st (bytesNat (payload e.pkt) 0 8) bs

section
variable (h : WholeRead e n)
include h

theorem WholeRead.row : (decide ((payload e.pkt).length < 16) || n == 0 || decide (4096 < n) || bytesNat (payload e.pkt) 10 6 != 0) = false := by
  rw [h.zero, decide_eq_false (Nat.not_lt.2 h.len), beq_false_of_ne (Nat.ne_of_gt h.any), decide_eq_false (Nat.not_lt.2 h.few)]; rfl

theorem readStep_noPlace {st : Status} (place : packetPlace (finCount s d e) d (hADDR e.pkt.hdr) n = .error st) :
    readStep s d e = readReply (finCount s d e) d e (replyCode st) [] := by
  obtain rfl := h.size
  simp only [readStep, reqStep_whole h.whole h.row, h.own, place, Bool.false_eq_true, if_false, readReply]

theorem readStep_refused {p : Place} {st : Status} (place : packetPlace (finCount s d e) d (hADDR e.pkt.hdr) n = .ok p)
    (read : placeRead (finCount s d e) d none p n = .error st) :
    readStep s d e = readReply (if st = .memUe then placeSeen (finCount s d e) d none p n else finCount s d e) d e (replyCode st) [] := by
  obtain rfl := h.size
  simp only [readStep, reqStep_whole h.whole h.row, h.own, place, read, Bool.false_eq_true, if_false, readReply]

theorem readStep_read {p : Place} {bs : List Byte} (place : packetPlace (finCount s d e) d (hADDR e.pkt.hdr) n = .ok p)
    (read : placeRead (finCount s d e) d none p n = .ok (bs, s2)) : readStep s d e = readReply s2 d e 0 bs := by
  obtain rfl := h.size
  simp only [readStep, reqStep_whole h.whole h.row, h.own, place, read, Bool.false_eq_true, if_false, readReply]

end

/-! ATOMIC (R145, R234) -/

/-- An ATOMIC on n bytes that keeps to its row of the table. -/
structure WholeAtomic (e : Held) (n : Nat) : Prop where
  whole : isVoid e.pkt.hdr = false
  zero : bytesNat (payload e.pkt) 1 7 = 0
  size : atomicSize (bytesNat (payload e.pkt) 0 1) = some n
  len : 16 + n ≤ (payload e.pkt).length

/-- The answer to an ATOMIC, where one is due. -/
def atomicReply (s : State) (d : Nat) (e : Held) (v : Nat) : State :=
  if bytesNat (payload e.pkt) 8 8 = 0 ∨ bytesNat (payload e.pkt) 0 1 = 8 then s
  else respond s d kATOMIC_DATA (hSRC e.pkt.hdr) (hTAG e.pkt.hdr) 0 (bytesNat (payload e.pkt) 8 8) (toLe 8 v)

theorem consumed_atomicReply (v : Nat) : consumed d e (atomicReply s d e v) =
    if bytesNat (payload e.pkt) 8 8 = 0 ∨ bytesNat (payload e.pkt) 0 1 = 8 then consumed d e s
    else consumed d e (respond s d kATOMIC_DATA (hSRC e.pkt.hdr) (hTAG e.pkt.hdr) 0 (bytesNat (payload e.pkt) 8 8) (toLe 8 v)) := by
  unfold atomicReply
  split <;> rfl

section
variable (h : WholeAtomic e n)
include h

theorem WholeAtomic.row : (decide ((payload e.pkt).length < 16) || bytesNat (payload e.pkt) 1 7 != 0 || (some n).isNone
    || decide ((payload e.pkt).length < 16 + n)) = false := by
  have len := h.len
  rw [h.zero, decide_eq_false (by omega), decide_eq_false (by omega)]; rfl

theorem atomicStep_place {p : Place} {old : Nat} (own : e.brd = false) (place : packetPlace (finCount s d e) d (hADDR e.pkt.hdr) n = .ok p)
    (done : placeAtomic (finCount s d e) d p (bytesNat (payload e.pkt) 0 1) (bytesNat (payload e.pkt) 16 n) = .ok (old, s2)) :
    atomicStep s d e = atomicReply s2 d e old := by
  simp only [atomicStep, h.size, reqStep_whole h.whole h.row, Option.getD_some, own, place, done, Bool.false_eq_true, if_false, atomicReply]

/-- The state once an atomic has left for the companion's memory, which answers a free value. -/
def sentAtomic (s : State) (e : Held) (n : Nat) : State :=
  (draw (emit s (.atomic (hADDR e.pkt.hdr) (bytesNat (payload e.pkt) 0 1) (((payload e.pkt).drop 16).take n)))).2

theorem atomicStep_board (board : e.brd = true) : ∃ v, atomicStep s d e = atomicReply (sentAtomic (finCount s d e) e n) d e v := by
  simp only [atomicStep, h.size, reqStep_whole h.whole h.row, Option.getD_some, board, if_true]
  exact ⟨_, rfl⟩

end

/-! ENGINE (R152) -/

/-- The request that an ENGINE packet brings. -/
def packetReq (s : State) (e : Held) : EngReq :=
  { id := 0, req := BitVec.ofNat 512 (leNat ((payload e.pkt).take 64)),
    src := .packet (hSRC e.pkt.hdr) (bytesNat (payload e.pkt) 64 8) (hTAG e.pkt.hdr) (portOfChip s (hSRC e.pkt.hdr)),
    unit := 0, done := none, digest := none, writes := 0, wstatus := .ok, got := [], reads := [], replayed := false, aborted := false }

section
variable (take : takeKind s d kENGINE = some (e, s1)) (whole : isVoid e.pkt.hdr = false) (len : 72 ≤ (payload e.pkt).length)
include take whole len

theorem exec_engine_submitted {t : State} (accepts : submit (finCount s1 d e) d (packetReq s e) false = some t) : exec (.engine d) s = consumed d e t := by
  have good : (isVoid e.pkt.hdr || decide ((payload e.pkt).length < 72)) = false := by rw [whole, decide_eq_false (Nat.not_lt.2 len)]; rfl
  simp only [packetReq] at accepts
  show Host.Outcome.next (engineStep d s) = _
  simp only [engineStep, take, good, accepts, Bool.false_eq_true, if_false, consumed]

theorem exec_engine_waits (full : submit (finCount s1 d e) d (packetReq s e) false = none) : exec (.engine d) s = .next s := by
  have good : (isVoid e.pkt.hdr || decide ((payload e.pkt).length < 72)) = false := by rw [whole, decide_eq_false (Nat.not_lt.2 len)]; rfl
  simp only [packetReq] at full
  show Host.Outcome.next (engineStep d s) = _
  simp only [engineStep, take, good, full, Bool.false_eq_true, if_false]

end

end

/-- Settles O44: the packet that is served is the oldest of its kind (takeKind_oldest); each kind by the lemmas about its step. -/
theorem requestPacketsTakeEffectAtTheirDie : Obligations.RequestPacketsTakeEffectAtTheirDie := by
  refine ⟨fun s d kind e l m runs inbox mine older free => takeKind_oldest runs inbox mine older (heldUp_false free), ?_⟩
  intro s d kind e s1 take h b s2 ends reply
  refine ⟨?_, ?_, ?_, ?_, ?_, ?_⟩
  · rintro rfl void
    exact exec_taken take rfl (writeStep_void void)
  · rintro rfl whole own p place
    exact exec_taken take rfl (writeStep_place whole own place)
  · rintro rfl whole board
    exact exec_taken take rfl (writeStep_board whole board)
  · rintro rfl - whole len zero n size any few own
    have good : WholeRead e n := ⟨whole, len, zero, size, any, few, own⟩
    exact ⟨fun st place => exec_taken take rfl (readStep_noPlace good place), fun p st place read => exec_taken take rfl (readStep_refused good place read),
      fun p bs s3 place read => exec_taken take rfl (readStep_read good place read)⟩
  · rintro rfl whole zero n size len
    have good : WholeAtomic e n := ⟨whole, zero, size, len⟩
    refine ⟨fun own p place old s3 done => ?_, fun board => ?_⟩
    · exact (exec_taken take rfl (atomicStep_place good own place done)).trans (consumed_atomicReply old)
    · obtain ⟨v, step⟩ := atomicStep_board (s := s1) (d := d) good board
      exact ⟨v, sentAtomic s2 e n, rfl, rfl, (exec_taken take rfl step).trans (consumed_atomicReply v)⟩
  · rintro rfl whole len
    refine ⟨packetReq s e, rfl, rfl, rfl, ?_⟩
    cases accepts : submit s2 d (packetReq s e) false with
    | none => exact exec_engine_waits take whole len accepts
    | some t => exact exec_engine_submitted take whole len accepts

end Sys2Proof.Proofs
end

section
/-! PROOFS. The transport's timers: owed acknowledgements, re-sends, parked messages; fabric-wide knots. -/

namespace Sys2Proof.Proofs

open Sys2Proof.Machine Sys2Proof.Laws

/-! Owed acknowledgements (R245) -/

theorem allocBuf_tr (x : Die) (t : Xport) (p g : Nat) (e : BufEnt) :
    allocBuf { x with tr := t } p g e = (allocBuf x p g e).map (fun a => (a.1, { a.2 with tr := t })) := by
  by_cases fetch : ((cacheOf x p g).isEmpty && x.flt == 0) = true
  · have same : ((cacheOf { x with tr := t } p g).isEmpty && x.flt == 0) = true := fetch
    have hs : cacheOf (cacheFetch { x with tr := t } p g) p g = cacheOf (cacheFetch x p g) p g := rfl
    simp only [allocBuf, fetch, same, if_true, hs]
    cases cacheOf (cacheFetch x p g) p g <;> rfl
  · have hs : cacheOf { x with tr := t } p g = cacheOf x p g := rfl
    simp only [allocBuf, if_neg fetch, hs]
    cases cacheOf x p g <;> rfl

/-- R300: the transport's state has no part in what an internal requester may take. -/
theorem allocReq_isSome_tr (v : Variant) (d : Nat) (x : Die) (t : Xport) (n len refs : Nat) :
    (allocReq v d { x with tr := t } n len refs).isSome = (allocReq v d x n len refs).isSome := by
  have may : reqMay v d { x with tr := t } n (poolFor len) = reqMay v d x n (poolFor len) := rfl
  simp only [allocReq, may, allocBuf_tr]
  cases reqMay v d x n (poolFor len) with
  | false => rfl
  | true =>
    cases allocBuf x (poolFor len) 13 { refs := refs, grp := 13, units := poolUnits (poolFor len), credit := none, req := some n } <;> rfl

/-- The numbers owed that an ACK from a covers no more. -/
def ackRest (a : Nat) (l : List Nat) : List Nat := l.filter (fun q => !decide (seqSub q a < 64))

/-- Die d owes a chip only the given numbers any more. -/
def owing (s : State) (d chip : Nat) (rest : List Nat) : State :=
  updDie s d (fun x => { x with
    tr := { (getDie s d).tr with ackDue := if rest.isEmpty then tdel (getDie s d).tr.ackDue chip else tset (getDie s d).tr.ackDue chip rest } })

theorem ackDue_owing {rest : List Nat} (h : rest ≠ []) (s : State) (d chip : Nat) : tget (getDie (owing s d chip rest) d).tr.ackDue chip [] = rest := by
  rw [owing, getDie_updDie_same, List.isEmpty_eq_false_iff.2 h]
  exact tget_tset_same ..

theorem inject_owing (s : State) (d chip : Nat) (rest : List Nat) (p : Packet) (h : Hdr) (n refs : Nat) :
    (inject (owing s d chip rest) d { p with hdr := h } n refs).isSome = (allocReq s.variant d (getDie s d) n (pktLen p) refs).isSome := by
  have len : pktLen { p with hdr := h } = pktLen p := rfl
  rw [inject_isSome, owing, getDie_updDie_same, len]
  exact allocReq_isSome_tr ..

/-- R245: the acknowledgement that chip me sends for numbers l. -/
def ackPacket (me chip : Nat) (l : List Nat) : Packet := mkPacket 5 kACK me (ackStart l <<< 104) (memForm 0 chip 0 (ackMap (ackStart l) l)) []

/-- R245: the acknowledgement leaves by the route of the chip: the state from s, in which s1 owes what it does not cover. -/
def ackSent (s s1 : State) (d chip me : Nat) (l : List Nat) : State :=
  match chipRoute s1 chip with
  | none => bump s1 d nBADADDR
  | some (bits, own) =>
    match inject s1 d { ackPacket me chip l with hdr := fillRoute (getDie s1 d) (ackPacket me chip l).hdr bits } 11 1 with
    | none => s
    | some (e, s2) => decideWith consumeAt s2 d e own none

theorem ackOwed_die {s : State} {d chip me : Nat} {l : List Nat} (owed : tget (getDie s d).tr.ackDue chip [] = l) (any : l ≠ []) (self : chipOfDie s d = some me) :
    ackOwed s d 96 chip = ackSent s (owing s d chip (ackRest (ackStart l) l)) d chip me l := by
  obtain ⟨q, l, rfl⟩ := List.exists_cons_of_ne_nil any
  have die : xport (getDie s d) 96 = (getDie s d).tr := rfl
  simp only [ackOwed, die, owed, self, Nat.lt_irrefl, if_false]
  rfl

theorem ackSent_routed {s s1 s2 : State} {d chip me bits : Nat} {own : Bool} {l : List Nat} {e : Held} (route : chipRoute s1 chip = some (bits, own))
    (taken : inject s1 d { ackPacket me chip l with hdr := fillRoute (getDie s1 d) (ackPacket me chip l).hdr bits } 11 1 = some (e, s2)) :
    ackSent s s1 d chip me l = decideWith consumeAt s2 d e own none := by
  simp only [ackSent, route, taken]

theorem chipRoute_owing (s : State) (d chip : Nat) (rest : List Nat) (c : Nat) : chipRoute (owing s d chip rest) c = chipRoute s c := chipRoute_updDie _ _ _ rfl _

theorem exec_ackDelayExpiry {s : State} {d : Nat} (runs : dieRuns s d = true) (agent chip : Nat) :
    exec (.ackDelayExpiry d agent chip) s = .next (ackOwed s d agent chip) := by
  show Host.Outcome.next (if dieRuns s d then ackOwed s d agent chip else s) = _
  rw [runs, if_pos rfl]

/-! Records past their interval (R246) -/

theorem stopped_of_idle {s : State} (h : s.drain.stage = 0) : stopped s = false := by rw [stopped, h]; rfl

section
variable {s : State} {d chip : Nat} {r : Replay}

theorem exec_rtoExpiry_record (runs : dieRuns s d = true) (idle : s.drain.stage = 0) (self : (chipOfDie s d).isSome = true) (seq : Nat) :
    exec (.rtoExpiry d 96 chip seq) s = .next (rtoRecord s d 96 chip seq) := by
  have named : (chipOfDie s d).isNone = false := by rw [← Option.not_isSome, self]; rfl
  show Host.Outcome.next (rtoExpiry d 96 chip seq s) = _
  simp [rtoExpiry, runs, stopped_of_idle idle, named]

variable (found : (spaceOf (getDie s d).tr chip).recs.find? (fun q => q.seq == r.seq) = some r)
include found

theorem rtoRecord_again (few : r.tries < retryLimit s d) (route : (chipRoute s chip).isSome = true) :
    rtoRecord s d 96 chip r.seq = resend (updRecs s d 96 chip (fun l =>
      l.map (fun q => if q.seq == r.seq then { q with tries := q.tries + 1 } else q))) d (spaceOf (getDie s d).tr chip).fresh r := by
  have going : ¬(retryLimit s d ≤ r.tries ∨ (chipRoute s chip).isNone = true) := by
    rw [← Option.not_isSome, route]
    exact fun spent => spent.elim (Nat.not_le.2 few) Bool.noConfusion
  simp only [rtoRecord, xport, Nat.lt_irrefl, if_false, found, going]

theorem rtoRecord_givenUp (spent : retryLimit s d ≤ r.tries ∨ (chipRoute s chip).isNone = true) :
    let st := if (chipRoute s chip).isNone then .badAddr else giveUpStatus s d chip
    rtoRecord s d 96 chip r.seq = pump (ownerDone (reportFault
      (decOpt (updRecs s d 96 chip (fun l => l.filter (fun q => q.seq != r.seq))) d r.buf 13) 1 12 (statusCode st) d 0x12 2) d r st) := by
  simp only [rtoRecord, xport, Nat.lt_irrefl, if_false, found, spent, if_true]

end

/-! Parked messages (R257) -/

section
variable {s : State} {d src tag : Nat} {f : FinEnt}

/-- How often a parked message has been asked for since it last grew. -/
def asksOf (f : FinEnt) : Nat := if f.asks = 0 ∨ f.mark ≠ f.count then 0 else f.asks

theorem exec_finWaitExpiry_parked (runs : dieRuns s d = true) (found : tfind (getDie s d).fin (finKey src tag) = some f) (parked : f.total.isSome = true) :
    exec (.finWaitExpiry d src tag) s = .next (if 8 ≤ asksOf f then finLost s d (finKey src tag) else sendResend
      (updDie s d (fun x => { x with fin := tset x.fin (finKey src tag) { f with asks := asksOf f + 1, mark := f.count } })) d src 0 tag 0) := by
  simp only [dieRuns, Bool.and_eq_true, beq_iff_eq] at runs
  obtain ⟨up, lives⟩ := runs
  have waits : (f.total.isNone || s.phase != .up || !dieLives s d) = false := by rw [← Option.not_isSome, parked, up, lives]; rfl
  show Host.Outcome.next (finWait d src tag s) = _
  simp only [finWait, found]
  exact congrArg _ (if_neg (ne_true_of_eq_false waits))

end

/-! Fabric-wide knots (R394, R395) -/

section
variable {s s2 : State} {d : Nat}

variable {h : Hdr} {k : Nat} (number : fld h 143 128 = k) (low : 320 ≤ k) (high : k < 352)
include number low high

section
variable (kind : knotKind (getKnot s 0 k) = 1 ∨ knotKind (getKnot s 0 k) = 3) (home : chipOfDie s d = some (knotHome (getKnot s 0 k)))
include kind home

/-- R394: the conditions under which an arrival counts at its barrier's home. -/
theorem arrival_counts : ¬(fld h 143 128 < 320 ∨ 352 ≤ fld h 143 128 ∨ (knotKind (getKnot s 0 (fld h 143 128)) ≠ 1 ∧ knotKind (getKnot s 0 (fld h 143 128)) ≠ 3) ∨
    chipOfDie s d ≠ some (knotHome (getKnot s 0 (fld h 143 128)))) := by
  subst number
  rintro (l | l | ⟨one, three⟩ | away)
  · omega
  · omega
  · exact kind.elim one three
  · exact away home

theorem arriveStep_waits (counted : homeCount s d k (fld h 159 144) (hSRC h) = (none, s2)) : arriveStep s d h = s2 := by
  have counts := arrival_counts number low high kind home
  subst number
  simp only [arriveStep, if_neg counts, counted]

theorem arriveStep_completes {g t : Nat} {timed : Bool} (counted : homeCount s d k (fld h 159 144) (hSRC h) = (some (g, t, timed), s2)) :
    arriveStep s d h = settle (applyRelease s2 k g t timed false) 0 k := by
  have counts := arrival_counts number low high kind home
  subst number
  simp only [arriveStep, if_neg counts, counted]

end

theorem releaseStep_fabric : releaseStep s h = settle (applyRelease s k (fld h 159 144) (hADDR h) (bit h 160) true) 0 k := by
  subst number
  exact if_neg (by omega)

end

theorem exec_arriveRepeat_sent {s : State} {k : Nat} (low : 320 ≤ k) (high : k < 352) (up : s.phase = .up) (sent : (getKnot s 0 k).sentArrive = true)
    (away : dieOfChip s (knotHome (getKnot s 0 k)) = none) : exec (.arriveRepeat k) s = .next (sendArrive s k) := by
  have repeats : (s.phase != .up || !(getKnot s 0 k).sentArrive || decide (k < 320) || decide (352 ≤ k) || (dieOfChip s (knotHome (getKnot s 0 k))).isSome) = false := by
    rw [up, sent, away, decide_eq_false (by omega), decide_eq_false (by omega)]; rfl
  show Host.Outcome.next (arriveRepeat k s) = _
  simp only [arriveRepeat, repeats, Bool.false_eq_true, if_false]

/-! Work that waits to be sent (R244, R262) -/

theorem exec_sequenceHoldoffExpiry_on {s : State} (on : s.phase ≠ .off) (free : s.phase ≠ .held) : exec .sequenceHoldoffExpiry s =
    .next (pumpAll (foldUpto (ndies s.variant) s (fun s d => updDie s d (fun x => { x with holdoff := false })))) := by
  show Host.Outcome.next (if s.phase == .off || s.phase == .held then s else _) = _
  rw [beq_false_of_ne on, beq_false_of_ne free, Bool.or_self, if_neg Bool.false_ne_true]

theorem exec_fabSelfWrite_reached {s : State} {d : Nat} (up : regsUp s = true) (reached : linkReaches s d = true) (v : Word32) :
    exec (.fabSelfWrite d v) s = .next (pumpAll (writeLocked s d rFAB_SELF (v &&& 0xFFFF))) := by
  show Host.Outcome.next (fabSelfWrite d v s) = _
  simp only [fabSelfWrite, up, reached, Bool.not_true, Bool.or_self, Bool.false_eq_true, if_false]

/-- Settles O46: each timer and knot packet by the lemma about its command. -/
theorem transportTimersAndFabricKnots : Obligations.TransportTimersAndFabricKnots := by
  refine ⟨?_, ?_, ?_, fun s on free => exec_sequenceHoldoffExpiry_on on free, ?_, ?_⟩
  · intro s d chip me bits own l runs owed any self route
    refine ⟨owing s d chip (ackRest (ackStart l) l), ackPacket me chip l, rfl, fun rest => ackDue_owing rest s d chip, fun room => ?_⟩
    rw [← inject_owing s d chip (ackRest (ackStart l) l) (ackPacket me chip l)
      (fillRoute (getDie (owing s d chip (ackRest (ackStart l) l)) d) (ackPacket me chip l).hdr bits)] at room
    obtain ⟨⟨e, s2⟩, taken⟩ := Option.isSome_iff_exists.1 room
    exact ⟨e, s2, taken, by rw [exec_ackDelayExpiry runs, ackOwed_die owed any self, ackSent_routed ((chipRoute_owing ..).trans route) taken]⟩
  · intro s d chip r runs idle found self
    refine ⟨fun few route => ?_, fun spent => ?_⟩
    · rw [exec_rtoExpiry_record runs idle self, rtoRecord_again found few route]
    · rw [exec_rtoExpiry_record runs idle self, rtoRecord_givenUp found spent]
  · intro s d src tag f runs found parked asks
    refine ⟨fun (all : 8 ≤ asksOf f) => ?_, fun (few : asksOf f < 8) => ?_⟩
    · rw [exec_finWaitExpiry_parked runs found parked, if_pos all]
    · rw [exec_finWaitExpiry_parked runs found parked, if_neg (Nat.not_le.2 few)]
      rfl
  · intro s d v up reached
    refine ⟨fun unlocked => ?_, fun locked => ?_⟩
    · rw [exec_fabSelfWrite_reached up reached, writeLocked_open unlocked]
    · rw [exec_fabSelfWrite_reached up reached, writeLocked_shut locked]
      rfl
  · intro s d e s1 h k low high
    refine ⟨fun take kind home => ⟨fun s2 counted => ?_, fun g t timed s2 counted => ?_⟩, fun take => ?_,
      fun up sent away => exec_arriveRepeat_sent low high up sent away⟩
    · exact exec_taken take rfl (arriveStep_waits rfl low high kind home counted)
    · exact exec_taken take rfl (arriveStep_completes rfl low high kind home counted)
    · exact exec_taken take rfl (releaseStep_fabric rfl low high)

end Sys2Proof.Proofs
end

section
/-! PROOFS. Headers and packets that arrive at a port. -/

namespace Sys2Proof.Proofs

open Sys2Proof.Machine Sys2Proof.Laws

section
variable {s : State} {d l : Nat} {hdr : Hdr}

/-- Die y with a header, and what is kept with it, pending at port l, whose packet holds n units. -/
def headerHeld (y : Die) (l n : Nat) (r : Hdr × Option Nat × Nat × Nat) : Die :=
  { y with rxPend := tset y.rxPend l r, ports := tset y.ports l { portOf y l with held := (portOf y l).held + n } }

theorem rxPend_headerHeld (y : Die) (l n : Nat) (r : Hdr × Option Nat × Nat × Nat) : tfind (headerHeld y l n r).rxPend l = some r :=
  (tfind_tset ..).trans (if_pos rfl)

theorem held_headerHeld (y : Die) (l n : Nat) (r : Hdr × Option Nat × Nat × Nat) : (portOf (headerHeld y l n r) l).held = (portOf y l).held + n :=
  congrArg Port.held (tget_tset_same ..)

/-- R267: a header takes effect on the state in which the packet that it may have cut off is lost: the port's version, and the time and the counter of its arrival,
are those at which it came. -/
def headerTaken (old : State) (d l : Nat) (hdr : Hdr) (tfp1 : Bool) (at0 stamp : Nat) : State :=
  let x := getDie old d
  let len := if tfp1 then fld hdr 27 16 else hLEN hdr
  if 4096 < len then
    portEvent (bump (setDie old d { x with rxPend := tdel x.rxPend l }) d nKIND) d l 0x05 1 (some (arrivalClass x l hdr))
  else
    let pool := poolFor (36 + bodyLen len)
    let b := if tfp1 then fld hdr 7 4 else arrivalBuf x l hdr
    match allocBuf x pool (groupOf l) { refs := 1, grp := groupOf l, units := poolUnits pool, credit := some (l, b), req := none } with
    | none => setDie old d { x with rxPend := tset x.rxPend l (hdr, none, at0, stamp) }
    | some (h, y) => setDie old d (headerHeld y l (poolUnits pool) (hdr, some h, at0, stamp))

theorem exec_packetHeaderArrival_of (runs : dieRuns s d = true) (sends : portSends (portOf (getDie s d) l) = true) : exec (.packetHeaderArrival d l hdr) s =
    .next (headerTaken (lostArriving s d l) d l hdr ((portOf (getDie s d) l).major == 1) s.now (time16 s d)) := by
  have takes : ¬(!dieRuns s d || !portSends (portOf (getDie s d) l)) = true := by rw [runs, sends]; exact Bool.false_ne_true
  exact congrArg Host.Outcome.next (if_neg takes)

theorem lostArriving_none (clear : tfind (getDie s d).rxPend l = none) : lostArriving s d l = s := by
  simp only [lostArriving, clear]

theorem arrivalClass_tfp2 {x : Die} (version : (portOf x l).major ≠ 1) : arrivalClass x l hdr = hCLASS hdr :=
  if_neg (fun one => version (beq_iff_eq.1 one))

/-- R293: a header within 4,096 bytes that finds a buffer keeps it, with its arrival. -/
theorem headerTaken_buffered {h at0 stamp : Nat} {y : Die} (short : hLEN hdr ≤ 4096)
    (taken : allocBuf (getDie s d) (poolFor (36 + bodyLen (hLEN hdr))) (groupOf l)
      { refs := 1, grp := groupOf l, units := poolUnits (poolFor (36 + bodyLen (hLEN hdr))), credit := some (l, arrivalBuf (getDie s d) l hdr), req := none } = some (h, y)) :
    headerTaken s d l hdr false at0 stamp = setDie s d (headerHeld y l (poolUnits (poolFor (36 + bodyLen (hLEN hdr)))) (hdr, some h, at0, stamp)) := by
  simp only [headerTaken, Bool.false_eq_true, if_false, Nat.not_lt.2 short, taken]

/-- R294: a header of more than 4,096 bytes takes no buffer. -/
theorem headerTaken_long {at0 stamp : Nat} (long : 4096 < hLEN hdr) (version : (portOf (getDie s d) l).major ≠ 1) : headerTaken s d l hdr false at0 stamp =
    portEvent (bump (setDie s d { getDie s d with rxPend := tdel (getDie s d).rxPend l }) d nKIND) d l 0x05 1 (some (hCLASS hdr)) := by
  simp only [headerTaken, Bool.false_eq_true, if_false, if_pos long, arrivalClass_tfp2 version]

/-! Whole packets (R294, R297) -/

/-- What came after the header: the body and the trailer. -/
def receivedPacket (hdr : Hdr) (rest : List Byte) : Packet :=
  { hdr := hdr, body := rest.take (rest.length - 4), trailer := BitVec.ofNat 32 (leNat (rest.drop (rest.length - 4))) }

/-- The codewords and the CRC of a received packet hold, and a buffer holds it. -/
def wholeArrival (hdr : Hdr) (rest : List Byte) (ok : Bool) (buf : Option Nat) : Bool :=
  ok && decide (4 ≤ rest.length) && buf.isSome && checkOk (receivedPacket hdr rest)

theorem wholeArrival_false {rest : List Byte} {ok : Bool} {buf : Option Nat}
    (bad : ok = false ∨ rest.length < 4 ∨ buf = none ∨ checkOk (receivedPacket hdr rest) = false) : wholeArrival hdr rest ok buf = false := by
  rcases bad with h | h | h | h
  · rw [wholeArrival, h]; rfl
  · rw [wholeArrival, decide_eq_false (Nat.not_le.2 h), Bool.and_false]; rfl
  · rw [wholeArrival, h, Option.isSome_none, Bool.and_false]; rfl
  · rw [wholeArrival, h, Bool.and_false]

section
variable {rest : List Byte} {ok : Bool} {buf : Option Nat} {t : Nat × Nat}
variable (runs : dieRuns s d = true) (pending : tfind (getDie s d).rxPend l = some (hdr, buf, t)) (version : (portOf (getDie s d) l).major ≠ 1)
include runs pending version

/-- R293, R297: what port l of TFP 2 does with a packet whose header waits. -/
theorem exec_packetReceived_of : exec (.packetReceived d l rest ok) s =
    let s0 := setDie s d { getDie s d with rxPend := tdel (getDie s d).rxPend l }
    let e := arrivedHeld d l (receivedPacket hdr rest) buf t
    let s1 := portRx s0 d l (pktLen (receivedPacket hdr rest)) (hCLASS hdr)
    .next (if (!wholeArrival hdr rest ok buf) = true then portDiscard (reportFault s0 1 12 0 d 0x10 1) d l e (some nCRC)
      else if badKind hdr (isTrunk (getDie s d) l) = true then portDiscard s1 d l e (some nKIND)
      else if isTrunk (getDie s d) l = true then trunkEntry s1 d l e else endpointEntry s1 d l e) := by
  have version2 : ((portOf (getDie s d) l).major == 1) = false := beq_false_of_ne version
  show Host.Outcome.next (packetReceived d l rest ok s) = _
  simp only [packetReceived, runs, pending, version2, arrivalClass_tfp2 version, Bool.not_true, Bool.false_eq_true, if_false]
  rfl

end

theorem trunkEntry_lastHop {e : Held} (hops : hHOPS e.pkt.hdr = 63) (kind : linkKind (hKIND e.pkt.hdr) = false) : trunkEntry s d l e = discard s d e nLIFE := by
  simp only [trunkEntry, kind, hops, Bool.false_eq_true, if_false, if_true]

end

/-- Settles O41: headers by headerTaken, whole packets by exec_packetReceived_of. -/
theorem packetsArriveAtPorts : Obligations.PacketsArriveAtPorts := by
  intro s d l runs x
  refine ⟨?_, ?_, ?_, ?_, ?_⟩
  · intro hdr sends version clear short n ent h y taken
    obtain ⟨-, bufs, -⟩ := allocBuf_keep taken
    refine ⟨_, by rw [exec_packetHeaderArrival_of runs sends, beq_false_of_ne version, lostArriving_none clear, headerTaken_buffered short taken], ?_, ?_, ?_⟩
    · rw [getDie_setDie_same, rxPend_headerHeld]
    · rw [getDie_setDie_same]
      exact (congrArg (tfind · h) bufs).trans ((tfind_tset ..).trans (if_pos rfl))
    · rw [getPort, getDie_setDie_same, held_headerHeld]
  · intro hdr sends version clear long
    rw [exec_packetHeaderArrival_of runs sends, beq_false_of_ne version, lostArriving_none clear, headerTaken_long long version]
  · intro hdr q sends pending runs' sends' version clear now stamp
    rw [exec_packetHeaderArrival_of runs sends, exec_packetHeaderArrival_of runs' sends', lostArriving_none clear, now, stamp]
    exact congrArg (fun v : Nat => Host.Outcome.next (headerTaken (lostArriving s d l) d l hdr (v == 1) s.now (time16 s d))) version.symm
  · intro hdr rest ok buf t pending version s0 p e
    have received := exec_packetReceived_of (rest := rest) (ok := ok) runs pending version
    refine ⟨fun bad => ?_, fun fec trailer held crc kind => ?_⟩
    · rw [received, wholeArrival_false bad]
      rfl
    · have whole : wholeArrival hdr rest ok buf = true := by
        rw [wholeArrival, fec, held, decide_eq_true trailer]
        exact crc
      rw [received, whole, kind]
      rfl
  · intro e hops kind
    refine trunkEntry_lastHop hops ?_
    simpa [linkKind, and_assoc] using kind

end Sys2Proof.Proofs
end

section
/-! PROOFS. An access to a port's module. -/

namespace Sys2Proof.Proofs

open Sys2Proof.Machine Sys2Proof.Laws

/-! Writes of an operation (R250) -/

theorem sameMap_updOp (s : State) (id : Nat) (f : Op → Op) : SameMap s (updOp s id f) := ⟨rfl, rfl, rfl, fun _ => sameAreas_refl _⟩

theorem sameMap_draw (s : State) : SameMap s (draw s).2 := ⟨rfl, rfl, rfl, fun _ => sameAreas_refl _⟩

theorem sameMap_emit (s : State) (o : Out) : SameMap s (emit s o) := ⟨rfl, rfl, rfl, fun _ => sameAreas_refl _⟩

theorem SameMap.segsErr_eq {s t : State} (h : SameMap s t) (d : Nat) (part : Option Nat) (l : List Seg) : segsErr t d part l = segsErr s d part l := by
  simp only [segsErr, h.placeErr_eq]

/-- R250: a write whose addresses all lead somewhere that takes them is carried out. -/
theorem devWrite_ok {s t : State} (h : SameMap s t) {a : Nat} {bs : List Byte} {l : List Seg} (place : segs s .wr a bs.length = .ok l)
    (free : segsErr s (linkDie s) none l = none) (req id : Nat) : ∃ u, devWrite t (linkDie t) req id a bs = .ok u := by
  have link : linkDie t = linkDie s := congrArg itgDie h.link
  have place2 : segs t .wr a bs.length = .ok l := (h.segsFrom_eq ..).trans place
  have free2 : segsErr t (linkDie t) none l = none := by rw [link, h.segsErr_eq, free]
  simp only [devWrite, place2, free2]
  exact ⟨_, rfl⟩

/-! The access (R344, R372, R373) -/

/-- The state with operation o begun. -/
def begunOp (s : State) (id : Nat) : State := updOp s id (fun o => { o with begun := true })

/-- The oldest access to a cage whose record does not wait yet. -/
def oldestAccess (s : State) (d octet : Nat) : Option Op :=
  s.ops.find? (fun o => o.type == 0x0B && dsc o.desc 17 1 == d && dsc o.desc 18 1 == octet && !atCommit s o.id && o.fin.isNone)

/-- The bytes that a module brings, those that it does not name being free (log entry 13). -/
def moduleBytes (k : Nat) (bytes : List Byte) (n : Nat) : List Byte := (upto n).map (fun i => nth bytes i (Config.outsideByte k i))

theorem moduleBytes_named {bytes : List Byte} {n : Nat} (h : n ≤ bytes.length) (k : Nat) : moduleBytes k bytes n = bytes.take n := by
  refine List.ext_getElem (by simp [moduleBytes, upto, h]) fun i hi _ => ?_
  have short : i < bytes.length := by simp [moduleBytes, upto] at hi; omega
  simp [moduleBytes, upto, nth, short]

/-- R344: what access o sends its module. -/
def cmisOut (d octet : Nat) (o : Op) (write : Bool) (bs : List Byte) : Out := .cmis d octet (dsc o.desc 19 1) (dsc o.desc 20 1) (dsc o.desc 21 1) write bs

/-- R344, R372, R373: the access o, which has begun, at a cage; answers says that its module acknowledges it. -/
def moduleServed (s : State) (d octet : Nat) (o : Op) (answers : Bool) (bytes : List Byte) (ext : List Host.Cell) : State :=
  if !(cageOf (getDie s d) octet).prs then complete s o .noModule 0
  else if dsc o.desc 16 1 = 0 then
    if !answers then complete s o .modNoack 0
    else
      match devWrite (emit (draw s).2 (cmisOut d octet o false [])) (linkDie (draw s).2) 12 o.id (dsc o.desc 24 8) (moduleBytes (draw s).1 bytes (dsc o.desc 22 1)) with
      | .error e => complete (draw s).2 o e 0
      | .ok t => finishWrites t o .ok 0
  else
    match devRead s (linkDie s) (dsc o.desc 24 8) (dsc o.desc 22 1) ext with
    | .error e => complete (devSeen s (dsc o.desc 24 8) (dsc o.desc 22 1) e) o e 0
    | .ok (bs, t) => if answers then complete (emit t (cmisOut d octet o true bs)) o .ok 0 else complete t o .modNoack 0

section
variable {s : State} {d octet : Nat} {o : Op} {ack : Bool} {bytes : List Byte} {ext : List Host.Cell}

theorem exec_moduleAccessStart_of (up : s.phase = .up) (reached : linkReaches s d = true) (found : oldestAccess s d octet = some o) :
    exec (.moduleAccessStart d octet ack bytes ext) s =
      .next (moduleServed (begunOp s o.id) d octet o (ack && !isolated (cageOf (getDie s d) octet)) bytes ext) := by
  have link : linkReaches (updOp s o.id fun o => { o with begun := true }) d = true := reached
  have phase : (updOp s o.id fun o => { o with begun := true }).phase = .up := up
  simp only [oldestAccess] at found
  show Host.Outcome.next (moduleStart d octet ack bytes ext s) = _
  simp only [moduleStart, found, up, link, phase, beq_self_eq_true, bne_self_eq_false, Bool.not_true, if_true, Bool.false_eq_true, if_false]
  rfl

theorem moduleServed_absent {answers : Bool} (empty : (cageOf (getDie s d) octet).prs = false) : moduleServed s d octet o answers bytes ext = complete s o .noModule 0 := by
  simp only [moduleServed, empty, Bool.not_false, if_true]

section
variable (there : (cageOf (getDie s d) octet).prs = true)
include there

theorem moduleServed_silent (read : dsc o.desc 16 1 = 0) : moduleServed s d octet o false bytes ext = complete s o .modNoack 0 := by
  simp only [moduleServed, there, read, Bool.not_true, Bool.not_false, Bool.false_eq_true, if_false, if_true]

theorem moduleServed_read {t : State} (read : dsc o.desc 16 1 = 0) (many : dsc o.desc 22 1 ≤ bytes.length)
    (written : let c := emit (draw s).2 (cmisOut d octet o false [])
      devWrite c (linkDie c) 12 o.id (dsc o.desc 24 8) (bytes.take (dsc o.desc 22 1)) = .ok t) :
    moduleServed s d octet o true bytes ext = finishWrites t o .ok 0 := by
  have put : devWrite (emit (draw s).2 (cmisOut d octet o false [])) (linkDie (draw s).2) 12 o.id (dsc o.desc 24 8) (moduleBytes (draw s).1 bytes (dsc o.desc 22 1)) = .ok t := by
    rw [moduleBytes_named many]; exact written
  simp only [moduleServed, there, read, put, Bool.not_true, Bool.false_eq_true, if_false, if_true]

theorem moduleServed_write {answers : Bool} {bs : List Byte} {t : State} (write : dsc o.desc 16 1 ≠ 0)
    (source : devRead s (linkDie s) (dsc o.desc 24 8) (dsc o.desc 22 1) ext = .ok (bs, t)) :
    moduleServed s d octet o answers bytes ext = if answers then complete (emit t (cmisOut d octet o true bs)) o .ok 0 else complete t o .modNoack 0 := by
  simp only [moduleServed, there, write, source, Bool.not_true, Bool.false_eq_true, if_false]

end
end

/-- Settles O36: each outcome of an access is a case of moduleServed. -/
theorem moduleAccessesReachTheModule : Obligations.ModuleAccessesReachTheModule := by
  intro s d octet o ack bytes ext f k b i up reached found
  have does {t : State} (served : moduleServed b d octet o (ack && !isolated k) bytes ext = t) : exec i s = .next t :=
    (exec_moduleAccessStart_of up reached found).trans (congrArg _ served)
  have mute (h : ack = false ∨ isolated k = true) : (ack && !isolated k) = false := by rcases h with h | h <;> simp [h]
  refine ⟨fun empty => does (moduleServed_absent (s := b) empty), fun there read silent => does (mute silent ▸ moduleServed_silent (s := b) there read), ?_, ?_⟩
  · intro there read acked branch many l place free
    have answers : (ack && !isolated k) = true := by rw [acked, branch]; rfl
    have map : SameMap s (emit (draw b).2 (cmisOut d octet o false [])) :=
      sameMap_trans (sameMap_updOp ..) (sameMap_trans (sameMap_draw _) (sameMap_emit ..))
    have whole : segs s .wr (f 24 8) (bytes.take (f 22 1)).length = .ok l := by rw [List.length_take_of_le many, place]
    obtain ⟨t, written⟩ := devWrite_ok map whole free 12 o.id
    refine ⟨emit (draw b).2 (cmisOut d octet o false []), t, rfl, rfl, written, does ?_⟩
    rw [answers, moduleServed_read (s := b) there read many written]
  · intro there write bs t source
    rw [does (moduleServed_write (s := b) there write source)]
    simp only [Bool.and_eq_true, Bool.not_eq_true']
    rfl

end Sys2Proof.Proofs
end

section
/-! PROOFS. How many bytes hashes, signatures and a report have. -/

namespace Sys2Proof.Proofs

open Sys2Proof.Machine Sys2Proof.Laws

/-! Hashes (FIPS 180-4) -/

theorem length_flatten_map {α β : Type} {f : α → List β} {n : Nat} {l : List α} (each : ∀ a ∈ l, (f a).length = n) :
    (l.map f).flatten.length = l.length * n := by
  rw [List.length_flatten, List.map_map, List.map_congr_left (f := List.length ∘ f) (g := fun _ => n) each, List.map_const', List.sum_replicate_nat]

theorem toBe_length (n v : Nat) : (toBe n v).length = n := by rw [toBe, List.length_reverse, toLe_length]

theorem upto_length (n : Nat) : (upto n).length = n := by simp [upto]

theorem shaRound_length {v : List Nat} (kw : Nat) (eight : v.length = 8) : (shaRound v kw).length = 8 := by
  unfold shaRound
  split
  · rfl
  · exact eight

theorem sha256Round_length {v : List Nat} (kw : Nat) (eight : v.length = 8) : (sha256Round v kw).length = 8 := by
  unfold sha256Round
  split
  · rfl
  · exact eight

theorem foldl_length {α β : Type} {f : List β → α → List β} {n : Nat} (step : ∀ v a, v.length = n → (f v a).length = n) (l : List α) {v : List β}
    (start : v.length = n) : (l.foldl f v).length = n := by
  induction l generalizing v with
  | nil => exact start
  | cons a l ih => exact ih (step v a start)

theorem shaBlock_length {h : List Nat} (bs : List Byte) (eight : h.length = 8) : (shaBlock h bs).length = 8 := by
  rw [shaBlock, List.length_map, List.length_zip, foldl_length (fun v p => shaRound_length _) _ eight, eight, Nat.min_self]

theorem sha256Block_length {h : List Nat} (bs : List Byte) (eight : h.length = 8) : (sha256Block h bs).length = 8 := by
  rw [sha256Block, List.length_map, List.length_zip, foldl_length (fun v p => sha256Round_length _) _ eight, eight, Nat.min_self]

theorem shaBlocks_length (n : Nat) {h : List Nat} (bs : List Byte) (eight : h.length = 8) : (shaBlocks n h bs).length = 8 := by
  induction n generalizing h bs with
  | zero => exact eight
  | succ n ih => exact ih _ (shaBlock_length _ eight)

theorem sha256Blocks_length (n : Nat) {h : List Nat} (bs : List Byte) (eight : h.length = 8) : (sha256Blocks n h bs).length = 8 := by
  induction n generalizing h bs with
  | zero => exact eight
  | succ n ih => exact ih _ (sha256Block_length _ eight)

theorem sha384_length (bs : List Byte) : (sha384 bs).length = 48 := by
  rw [sha384, List.length_take, length_flatten_map fun w _ => toBe_length 8 w, shaBlocks_length _ _ rfl]
  decide

theorem sha512_length (bs : List Byte) : (sha512 bs).length = 64 := by
  rw [sha512, length_flatten_map fun w _ => toBe_length 8 w, shaBlocks_length _ _ rfl]

theorem sha256_length (bs : List Byte) : (sha256 bs).length = 32 := by
  rw [sha256, length_flatten_map fun w _ => toBe_length 4 w, sha256Blocks_length _ _ rfl]

/-! Signatures (R478) -/

section
variable (lt : Nat × Nat) (sk pk m : List Byte)

theorem slhF_length (adrs : List Byte) : (slhF pk adrs m).length = 24 := by rw [slhF, List.length_take, sha256_length]; decide

theorem slhH_length (adrs : List Byte) : (slhH pk adrs m).length = 24 := by rw [slhH, List.length_take, sha512_length]; decide

theorem slhNode_length (z i : Nat) : (slhNode lt sk pk z i).length = 24 := by
  cases z with
  | zero => exact slhH_length ..
  | succ z => exact slhH_length ..

theorem forsNode_length (leaf z i : Nat) : (forsNode lt sk pk leaf z i).length = 24 := by
  cases z with
  | zero => exact slhF_length ..
  | succ z => exact slhH_length ..

theorem slhChain_length (i c j n : Nat) {x : List Byte} (start : x.length = 24) : (slhChain lt pk i c j n x).length = 24 :=
  foldl_length (fun _ _ _ => slhF_length ..) _ start

theorem slhDigits_length : (slhDigits m).length = 2 * m.length + 3 := by
  rw [slhDigits, List.length_append, length_flatten_map (n := 2) fun _ _ => rfl, Nat.mul_comm]
  rfl

theorem wotsSign_length (i : Nat) : (wotsSign lt sk pk i m).length = (2 * m.length + 3) * 24 := by
  rw [wotsSign, length_flatten_map (n := 24), List.length_zipIdx, slhDigits_length]
  exact fun p _ => slhChain_length _ _ _ _ _ _ (slhF_length ..)

theorem xmssSign_length (i : Nat) {m : List Byte} (hash : m.length = 24) : (xmssSign lt sk pk i m).length = 1440 := by
  rw [xmssSign, List.length_append, wotsSign_length, length_flatten_map fun _ _ => slhNode_length .., upto_length, hash]

theorem htSign_length (n l tree i : Nat) {m : List Byte} (hash : m.length = 24) : (htSign sk pk n l tree i m).length = n * 1440 := by
  induction n generalizing l tree i m with
  | zero => rfl
  | succ n ih => rw [htSign, List.length_append, xmssSign_length _ _ _ _ hash, ih _ _ _ (slhNode_length ..)]; omega

theorem forsSign_length (leaf : Nat) (md : List Byte) : (forsSign lt sk pk leaf md).length = 6120 := by
  rw [forsSign, length_flatten_map (n := 360), upto_length]
  intro t _
  rw [List.length_append, slhF_length, length_flatten_map fun _ _ => forsNode_length .., upto_length]

end

theorem slhSign_length (k : SlhSeeds) (m rnd : List Byte) : (slhSign k m rnd).length = 16224 := by
  simp only [slhSign, List.length_append, List.length_take, hmac512, sha512_length, forsSign_length, htSign_length _ _ _ _ _ _ (slhH_length ..), forsRoot]
  decide

theorem pssSign_length (pq : Nat × Nat) (m salt : List Byte) : (pssSign pq m salt).length = 384 := toBe_length ..

theorem reportSigs_length (seed : Nat) (head salt rnd : List Byte) : (reportSigs seed head salt rnd).length = 16608 := by
  rw [reportSigs, List.length_append, pssSign_length, slhSign_length]

/-- R478, Table 17-3: what the signatures of a report are of. -/
theorem reportHead_length {s : State} (measured : s.boot.meas.length = 48) (nonce : Nat) : (reportHead s nonce).length = 256 := by
  simp only [reportHead, List.length_append, toLe_length, measured, repMeas, cfgMeas, sha384_length]

end Sys2Proof.Proofs
end

section
/-! PROOFS. Firmware descriptors: what they ask for, what FWSTAGE's activity does at its commit, reports and certificates. -/

namespace Sys2Proof.Proofs

open Sys2Proof.Machine Sys2Proof.Laws

section
variable {s t u : State} {q slot : Nat} {desc : Word512} {ext : List Host.Cell} {o p : Op} {wait : Bool}

/-! The descriptor (R481, Table 17-4) -/

/-- The command of a firmware descriptor of operation n. -/
def fwInstr (q : Nat) (desc : Word512) (ext : List Host.Cell) : Nat → Instr
  | 0 => .fwStage q desc ext
  | 1 => .fwSelect q desc ext
  | 2 => .fwCommitSvn q desc ext
  | 3 => .fwAttest q desc ext
  | _ => .fwReadCert q desc ext

theorem takeDesc_fw {n : Nat} {body : State → Op → State} (h : Accepts s q desc ext) (type : fld desc 7 0 = 9) (op : fld desc 135 128 = n) :
    takeDesc q desc ext (fwRow desc n) body s = body (accepted s q desc ext) (newOp s q desc ext) := by
  refine takeDesc_of h ?_
  have kind : dType desc = 9 := type
  have same : dsc desc 16 1 = n := op
  simp only [fwRow, kind, same, beq_self_eq_true, Bool.true_or, Bool.and_self]

theorem exec_fwInstr_of {n : Nat} (h : Accepts s q desc ext) (type : fld desc 7 0 = 9) (op : fld desc 135 128 = n) (five : n ≤ 4) :
    exec (fwInstr q desc ext n) s = .next (firmware (accepted s q desc ext) (newOp s q desc ext) (dWaitHoop desc)) :=
  match n with
  | 0 | 1 | 2 | 3 | 4 => congrArg Host.Outcome.next (takeDesc_fw h type op)

theorem firmware_badFields (bad : fwFields o.desc = false) : firmware s o wait = complete s o .badFormat 0 := by
  simp only [firmware, bad, Bool.not_false, if_true]

/-- R481: an operation with its progress total. -/
def fwSized (o : Op) : Op := { o with total := if dsc o.desc 16 1 = 0 then stageTotal (dsc o.desc 20 4) else 1 }

/-- R481: the state in which the operation has its progress total. -/
def fwBegun (s : State) (o : Op) : State := updOp s o.id (fun p => { p with total := (fwSized o).total })

/-- R481: the hoops that a firmware operation asks for: FWSTAGE on every die. -/
def fwReq (s : State) (o : Op) : HoopReq :=
  { act := 7, dies := upto (ndies s.variant), op := some o.id, die := 0, unit := dsc o.desc 16 1, arg := dsc o.desc 17 1 }

/-- R481: the state in which the operation holds FWSTAGE. -/
def fwStarted (s : State) (o : Op) : State := hoopStart (fwBegun s o) (fwReq s o)

theorem firmware_goodFields (fields : fwFields o.desc = true) : firmware s o wait =
    if dsc o.desc 16 1 = 3 then attest (fwBegun s o) (fwSized o)
    else if dsc o.desc 16 1 = 4 then readCert (fwBegun s o) (fwSized o)
    else if dsc o.desc 16 1 = 0 ∧ dsc o.desc 17 1 = s.boot.slot then complete (fwBegun s o) (fwSized o) (.fw 4) 0
    else hoopAsk (fwBegun s o) (fwSized o) wait (fwReq s o) := by
  rw [firmware, fields, Bool.not_true, if_neg Bool.false_ne_true]
  rfl

theorem firmware_starts (fields : fwFields o.desc = true) (hoop : dsc o.desc 16 1 ≤ 2) (other : dsc o.desc 16 1 = 0 → dsc o.desc 17 1 ≠ s.boot.slot)
    (free : hoopBlock s 7 (upto (ndies s.variant)) true = none) : firmware s o wait = fwStarted s o := by
  have ask : hoopAsk (fwBegun s o) (fwSized o) wait (fwReq s o) = fwStarted s o := (hoopAsk_cases ..).1 free
  rw [firmware_goodFields fields, if_neg (by omega), if_neg (by omega), if_neg fun both => other both.1 both.2, ask]

theorem firmware_attests (fields : fwFields o.desc = true) (op : dsc o.desc 16 1 = 3) : firmware s o wait = attest (fwBegun s o) (fwSized o) := by
  rw [firmware_goodFields fields, if_pos op]

theorem firmware_readsCert (fields : fwFields o.desc = true) (op : dsc o.desc 16 1 = 4) : firmware s o wait = readCert (fwBegun s o) (fwSized o) := by
  rw [firmware_goodFields fields, if_neg (by omega), if_pos op]

theorem sameMap_fwBegun (s : State) (o : Op) : SameMap s (fwBegun s o) := sameMap_updOp ..

/-! FWSTAGE held (R370, R481) -/

theorem keepSlot_setSlot (s : State) (slot : Nat) (f : FwSlot) : keepSlot (setSlot s slot f) slot = f := by
  simp only [keepSlot, setSlot]
  split <;> rfl

/-- A keep with what a slot holds. -/
def keepWith (k : Keep) (slot : Nat) (f : FwSlot) : Keep := if slot = 0 then { k with a := f } else { k with b := f }

theorem keepWith_again (k : Keep) (slot : Nat) (f g : FwSlot) : keepWith (keepWith k slot g) slot f = keepWith k slot f := by
  unfold keepWith
  split <;> rfl

theorem setSlot_keep (s : State) (slot : Nat) (f : FwSlot) : (setSlot s slot f).keep = keepWith s.keep slot f := rfl

theorem setSlot_image (s : State) (slot : Nat) (bs : List Byte) : (setSlot s slot { keepSlot s slot with image := bs }).keep =
    if slot = 0 then { s.keep with a := { s.keep.a with image := bs } } else { s.keep with b := { s.keep.b with image := bs } } := by
  unfold setSlot keepSlot
  split <;> rfl

/-- The state in which the operation holds FWSTAGE, its slot still as it was. -/
def fwHeld (s : State) (o : Op) : State :=
  updOp { fwBegun s o with hoopHold := s.hoopHold ++ [fwReq s o] } o.id (fun p => { p with begun := true, hoopWait := false })

theorem fwStarted_stage (stage : dsc o.desc 16 1 = 0) :
    fwStarted s o = setSlot (fwHeld s o) (dsc o.desc 17 1) { keepSlot s (dsc o.desc 17 1) with valid := false, svn := 0 } := if_pos stage

theorem fwStarted_other (other : dsc o.desc 16 1 ≠ 0) : fwStarted s o = fwHeld s o := if_neg other

theorem fwStarted_only (s : State) (o : Op) : ∃ keep, fwStarted s o = { fwHeld s o with keep := keep } := by
  by_cases stage : dsc o.desc 16 1 = 0
  · exact ⟨_, fwStarted_stage stage⟩
  · exact ⟨_, fwStarted_other stage⟩

theorem fwStarted_hold (s : State) (o : Op) : (fwStarted s o).hoopHold = s.hoopHold ++ [fwReq s o] := by
  obtain ⟨_, started⟩ := fwStarted_only s o
  rw [started]
  rfl

theorem fwStarted_invalid (stage : dsc o.desc 16 1 = 0) : (keepSlot (fwStarted s o) (dsc o.desc 17 1)).valid = false := by
  rw [fwStarted_stage stage, keepSlot_setSlot]

theorem fwStarted_restaged (stage : dsc o.desc 16 1 = 0) (f : FwSlot) :
    keepWith (fwStarted s o).keep (dsc o.desc 17 1) f = keepWith s.keep (dsc o.desc 17 1) f := by
  rw [fwStarted_stage stage, setSlot_keep, keepWith_again]
  rfl

theorem fwStarted_keep (other : dsc o.desc 16 1 ≠ 0) : (fwStarted s o).keep = s.keep := by
  rw [fwStarted_other other]
  rfl

theorem fwStarted_boot (s : State) (o : Op) : (fwStarted s o).boot = s.boot := by
  obtain ⟨_, started⟩ := fwStarted_only s o
  rw [started]
  rfl

theorem findOp_updOp_found {id : Nat} {f : Op → Op} (found : findOp s id = some o) (names : ∀ o, (f o).id = o.id) : findOp (updOp s id f) id = some (f o) := by
  rw [findOp_updOp s id f names, found, Option.map_some]

theorem findOp_fwStarted (found : findOp s o.id = some o) : ∃ p, findOp (fwStarted s o) o.id = some p ∧ p.id = o.id ∧ p.desc = o.desc := by
  obtain ⟨keep, started⟩ := fwStarted_only s o
  have begun : findOp (fwBegun s o) o.id = some (fwSized o) := findOp_updOp_found found fun _ => by rfl
  have held : findOp (fwHeld s o) o.id = some { fwSized o with begun := true, hoopWait := false } :=
    findOp_updOp_found (s := { fwBegun s o with hoopHold := s.hoopHold ++ [fwReq s o] }) begun fun _ => by rfl
  exact ⟨_, (congrArg (findOp · o.id) started).trans held, rfl, rfl⟩

/-- An accepted operation is found by its identifier where no earlier one has it. -/
theorem findOp_accepted (new : ∀ x ∈ s.ops, x.id ≠ (newOp s q desc ext).id) :
    findOp (accepted s q desc ext) (newOp s q desc ext).id = some (newOp s q desc ext) := by
  rw [findOp_sent (accepted_sent s q desc ext)]
  show (s.ops ++ [newOp s q desc ext]).find? _ = _
  rw [List.find?_append, List.find?_eq_none.2 fun x hx => by rw [beq_false_of_ne (new x hx)]; exact Bool.false_ne_true, Option.none_or]
  exact List.find?_cons_of_pos (beq_self_eq_true _)

/-- The activity that commits: the first that holds FWSTAGE and whose operation's record does not wait. -/
def fwHolder (s : State) : Option HoopReq := s.hoopHold.find? (fun h => h.act == 7 && !holdOver s h)

theorem fwHolder_fwStarted (alone : ∀ h ∈ s.hoopHold, h.act ≠ 7) (going : ∀ x ∈ s.recs, x.op ≠ some o.id) : fwHolder (fwStarted s o) = some (fwReq s o) := by
  obtain ⟨keep, started⟩ := fwStarted_only s o
  have commits : holdOver (fwStarted s o) (fwReq s o) = false := by rw [started]; exact atCommit_false going
  rw [fwHolder, fwStarted_hold, List.find?_append, List.find?_eq_none.2 fun h hh => by rw [beq_false_of_ne (alone h hh)]; exact Bool.false_ne_true, Option.none_or,
    List.find?_cons_of_pos (by rw [commits]; rfl)]

/-! FWSTAGE's commit (R472, R480, R481) -/

/-- What the activity h of operation p does at its commit: the status, the position and the state. -/
def fwDone (s : State) (p : Op) (h : HoopReq) (ext : List Host.Cell) : Status × Nat × State :=
  if h.unit = 0 then stageEnd s p h.arg ext
  else if h.unit = 1 then ((selectEnd s h.arg).1, p.total, (selectEnd s h.arg).2)
  else ((commitSvn s).1, p.total, (commitSvn s).2)

section
variable {h : HoopReq}

theorem fwDone_stage (unit : h.unit = 0) : fwDone s p h ext = stageEnd s p h.arg ext := if_pos unit

theorem fwDone_select (unit : h.unit = 1) : fwDone s p h ext = ((selectEnd s h.arg).1, p.total, (selectEnd s h.arg).2) := by
  rw [fwDone, if_neg (by omega), if_pos unit]

theorem fwDone_commitSvn (unit : h.unit = 2) : fwDone s p h ext = ((commitSvn s).1, p.total, (commitSvn s).2) := by
  rw [fwDone, if_neg (by omega), if_neg (by omega)]

end

theorem exec_fwCommit_of {c : State} {d id : Nat} {h : HoopReq} {st : Status} (up : s.phase = .up) (holder : fwHolder s = some h)
    (owner : h.op = some id) (found : findOp s id = some p) (done : fwDone s p h ext = (st, p.total, c)) (ops : c.ops = s.ops) :
    exec (.hoopActivityCommit 7 d [] ext) s = .next (complete c p st p.total) := by
  have commit : fwCommit ext false s = hoopEnd (fwDone s p h ext).2.2 h (fwDone s p h ext).1 (fwDone s p h ext).2.1 := by
    rw [fwHolder] at holder
    simp only [fwCommit, holder, owner, Option.bind_some, found, up, bne_self_eq_false, Bool.false_eq_true, if_false]
    rfl
  have still : findOp c id = some p := by rw [findOp, ops]; exact found
  show Host.Outcome.next (fwCommit ext false s) = _
  rw [commit, done]
  simp only [hoopEnd, owner, Option.bind_some, still]

/-- R481: what the activity does at its commit ends the operation that holds FWSTAGE. -/
theorem fwStarted_commits (up : s.phase = .up) (alone : ∀ h ∈ s.hoopHold, h.act ≠ 7) (going : ∀ x ∈ s.recs, x.op ≠ some o.id) (found : findOp s o.id = some o) :
    ∃ p, p.id = o.id ∧ p.desc = o.desc ∧ ∀ d ext st c, fwDone (fwStarted s o) p (fwReq s o) ext = (st, p.total, c) → c.ops = (fwStarted s o).ops →
      exec (.hoopActivityCommit 7 d [] ext) (fwStarted s o) = .next (complete c p st p.total) := by
  obtain ⟨keep, started⟩ := fwStarted_only s o
  obtain ⟨p, still, names, same⟩ := findOp_fwStarted found
  have runs : (fwStarted s o).phase = .up := by rw [started]; exact up
  exact ⟨p, names, same, fun d ext st c => exec_fwCommit_of runs (fwHolder_fwStarted alone going) rfl still⟩

section
variable {bs : List Byte} (small : dsc p.desc 20 4 ≤ 8 * 1024 * 1024)
  (read : devRead s (linkDie s) (dsc p.desc 24 8) (dsc p.desc 20 4) ext = .ok (bs, u))
include small read

theorem stageEnd_good (good : imageRefused bs (dsc p.desc 20 4) s.keep.arb (arbNow s) = none) :
    stageEnd s p slot ext = (.ok, p.total, setSlot u slot (imageSlot bs)) := by
  simp only [stageEnd, Nat.not_lt.2 small, read, good, if_false]

theorem stageEnd_refused {c : Nat} (refused : imageRefused bs (dsc p.desc 20 4) s.keep.arb (arbNow s) = some c) :
    stageEnd s p slot ext = (.fw (c - 0x40), p.total, setSlot u slot { keepSlot u slot with image := bs }) := by
  simp only [stageEnd, Nat.not_lt.2 small, read, refused, if_false]

end

theorem selectEnd_valid (valid : (keepSlot s slot).valid = true) : selectEnd s slot = (.ok, { s with keep := { s.keep with pref := slot } }) := if_pos valid

/-- R480: a slot's image of an older version than the counter is no longer valid. -/
def clearBelow (n : Nat) (f : FwSlot) : FwSlot := if f.svn < n then { f with valid := false } else f

/-- R480: the keep with the counter at n. -/
def svnKeep (s : State) (n : Nat) : Keep :=
  { s.keep with arb := n, tags := arbTags (s.boot.seed.getD 0) n, a := clearBelow n s.keep.a, b := clearBelow n s.keep.b }

theorem diesOnly_ops_keep (h : DiesOnly s t) : t.ops = s.ops ∧ t.keep = s.keep := by
  obtain ⟨_, _, _, _, _, _, _, rfl⟩ := h
  exact ⟨rfl, rfl⟩

/-- R480: the state with the counter at n, and the event that tells of a higher one. -/
def svnCommitted (s : State) (n : Nat) : State :=
  if s.keep.arb < n then postEvent { s with keep := svnKeep s n } 0x12 0xFF 3 n 0 0 else { s with keep := svnKeep s n }

theorem svnCommitted_ops_keep (s : State) (n : Nat) : (svnCommitted s n).ops = s.ops ∧ (svnCommitted s n).keep = svnKeep s n := by
  unfold svnCommitted
  split
  · exact diesOnly_ops_keep (diesOnly_event ..)
  · exact ⟨rfl, rfl⟩

theorem commitSvn_counts (low : max s.keep.arb s.boot.svn ≤ 255) : commitSvn s = (.ok, svnCommitted s (max s.keep.arb s.boot.svn)) :=
  if_neg (Nat.not_lt.2 low)

/-! A record's writing (R481) -/

theorem keep_sent (h : SentOnly s t) : t.keep = s.keep := by
  obtain ⟨_, _, rfl⟩ := h
  rfl

theorem writeRec_keep {r : Rec} (owner : r.op.bind (findOp s) = some p) : (writeRec s r).keep = (commitSlot s r).keep := by
  obtain ⟨id, op, -⟩ := Option.bind_eq_some_iff.1 owner
  unfold writeRec
  extract_lets s0 c j c1
  have first : s0.keep = (commitSlot s r).keep := by
    simp only [s0, owner]
    exact keep_sent (putProgress_sent ..)
  clear_value s0 c c1
  generalize (if r.noint then (c1, false) else countRecord c1) = counted
  obtain ⟨ring, irq⟩ := counted
  have stored : (linkStore (setCq s0 r.cq ring) (c.base + 32 * (j % 2 ^ c.log2)) (recBytes r c.log2 j)).keep = s0.keep := keep_sent (s := setCq s0 r.cq ring) (linkStore_sent ..)
  rw [op, ← first, ← stored]
  show (if irq = true then linkIrq _ c.vector else _ : State).keep = _
  split
  · exact keep_sent (linkIrq_sent ..)
  · rfl

theorem commitSlot_valid {r : Rec} (owner : r.op.bind (findOp s) = some p) (type : p.type = 9) (ok : r.status = .ok) (stage : fld p.desc 135 128 = 0) :
    (keepSlot (commitSlot s r) (fld p.desc 143 136)).valid = true := by
  simp only [commitSlot, owner, type, ok, stage, and_self, if_true, keepSlot]
  split <;> rfl

/-! Reports and certificates (R478, R479) -/

/-- The salt and the randomizer of a report's signatures, from a free value (log entry 26). -/
def signSalt (k : Nat) : List Byte := (upto 48).map (Config.signRandom k)
def signRnd (k : Nat) : List Byte := (upto 24).map (fun i => Config.signRandom k (48 + i))

theorem attest_written {s : State} (identity : s.lead ∈ s.boot.ids)
    (written : let head := reportHead s (dsc o.desc 32 32)
      devWrite (draw s).2 (linkDie (draw s).2) 12 o.id (dsc o.desc 24 8)
        (head ++ reportSigs (s.boot.seed.getD 0) head (signSalt s.fresh) (signRnd s.fresh)) = .ok t) :
    attest s o = finishWrites t o .ok 1 := by
  have holds : s.boot.ids.contains s.lead = true := contains_true identity
  simp only [signSalt, signRnd, draw] at written
  simp only [attest, holds, draw, written, Bool.not_true, Bool.false_eq_true, if_false]

theorem attest_room {boot : Boot} {l : List Seg} (same : s.boot = boot) (identity : s.lead ∈ boot.ids) (measured : boot.meas.length = 48)
    (place : segs s .wr (dsc o.desc 24 8) 16864 = .ok l) (free : segsErr s (linkDie s) none l = none) : let c := fwBegun s o
    let b := (draw c).2
    let head := reportHead c (dsc o.desc 32 32)
    ∃ t, devWrite b (linkDie b) 12 o.id (dsc o.desc 24 8) (head ++ reportSigs (boot.seed.getD 0) head (signSalt c.fresh) (signRnd c.fresh)) = .ok t ∧
      attest c (fwSized o) = finishWrites t (fwSized o) .ok 1 := by
  subst same
  intro c b head
  have map : SameMap s b := sameMap_trans (sameMap_fwBegun s o) (sameMap_draw c)
  have size : (head ++ reportSigs (s.boot.seed.getD 0) head (signSalt c.fresh) (signRnd c.fresh)).length = 16864 := by
    rw [List.length_append, reportSigs_length, reportHead_length (s := c) measured]
  obtain ⟨t, written⟩ := devWrite_ok map (size.symm ▸ place) free 12 o.id
  exact ⟨t, written, attest_written (s := c) (o := fwSized o) identity written⟩

theorem readCert_long (long : dsc o.desc 20 4 < (nth s.keep.certs (dsc o.desc 17 1) []).length) : readCert s o = complete s o (.fw 9) 0 := if_pos long

theorem readCert_written (fits : (nth s.keep.certs (dsc o.desc 17 1) []).length ≤ dsc o.desc 20 4)
    (written : devWrite s (linkDie s) 12 o.id (dsc o.desc 24 8) (nth s.keep.certs (dsc o.desc 17 1) []) = .ok t) : readCert s o = finishWrites t o .ok 1 := by
  simp only [readCert, Nat.not_lt.2 fits, written, if_false]

theorem readCert_room {cert : List Byte} {l : List Seg} (same : nth s.keep.certs (dsc o.desc 17 1) [] = cert) (fits : cert.length ≤ dsc o.desc 20 4)
    (place : segs s .wr (dsc o.desc 24 8) cert.length = .ok l) (free : segsErr s (linkDie s) none l = none) : let b := fwBegun s o
    ∃ t, devWrite b (linkDie b) 12 o.id (dsc o.desc 24 8) cert = .ok t ∧ readCert b (fwSized o) = finishWrites t (fwSized o) .ok 1 := by
  subst same
  intro b
  obtain ⟨t, written⟩ := devWrite_ok (sameMap_fwBegun s o) place free 12 o.id
  exact ⟨t, written, readCert_written (s := b) (o := fwSized o) fits written⟩

theorem finishWrites_done {st : Status} {pos : Nat} (found : findOp t o.id = some p) (arrived : p.writes = 0) (good : p.wstatus = .ok) :
    finishWrites t o st pos = complete t o st pos := by
  simp only [finishWrites, found, arrived, good, if_true]

theorem finishWrites_waits {st : Status} {pos : Nat} (found : findOp t o.id = some p) (outstanding : p.writes ≠ 0) :
    finishWrites t o st pos = updOp t o.id (fun p => { p with fin := some (st, pos) }) := by
  simp only [finishWrites, found, outstanding, if_false]

end

theorem phase_of_accepts {s : State} {q : Nat} {desc : Word512} {ext : List Host.Cell} (h : Accepts s q desc ext) : s.phase = .up := by
  have serves := h.takes
  simp only [takesNow, sqServes, Bool.and_eq_true, beq_iff_eq] at serves
  obtain ⟨⟨⟨⟨up, -⟩, -⟩, -⟩, -⟩ := serves
  exact up

theorem phase_accepted (s : State) (q : Nat) (desc : Word512) (ext : List Host.Cell) : (accepted s q desc ext).phase = s.phase := by
  obtain ⟨_, _, h⟩ := accepted_sent s q desc ext
  rw [h]
  rfl

/-- Settles O34: a descriptor in range starts FWSTAGE or is served at once; FWSTAGE's commit is a case of fwDone; report and certificate are written where there is room. -/
theorem firmwareDescriptorsTakeEffect : Obligations.FirmwareDescriptorsTakeEffect := by
  intro s q desc ext ext2 h type a o op slot row goes takes commits
  obtain ⟨dies, variant, lead, boot, keep, recs⟩ := accepted_dies s q desc ext
  obtain ⟨-, hold, queue, -, -⟩ := accepted_ctxs s q desc ext
  have rowOf (n : Nat) (five : n ≤ 4) : row (fwInstr q desc ext n) n := fun named bad =>
    (exec_fwInstr_of h type named five).trans (congrArg _ (firmware_badFields bad))
  have starts (n : Nat) (three : n ≤ 2) (named : op = n) (fields : fwFields desc = true) (other : n = 0 → slot ≠ s.boot.slot)
      (free : hoopBlock s 7 (upto (ndies s.variant)) true = none) : exec (fwInstr q desc ext n) s = .next (fwStarted a o) := by
    refine (exec_fwInstr_of h type named (by omega)).trans (congrArg _ (firmware_starts (o := o) fields (named.trans_le three) (fun stage => ?_) ?_))
    · exact boot.symm ▸ other (named.symm.trans stage)
    · exact (hoopBlock_congr hold queue ..).trans (variant.symm ▸ free)
  have takesOf (n : Nat) (three : n ≤ 2) : takes (fwInstr q desc ext n) n := by
    intro named fields other free
    have dieList : (fwReq a o).dies = upto (ndies s.variant) := congrArg (fun v => upto (ndies v)) variant
    have holds : (fwStarted a o).hoopHold = s.hoopHold ++ [fwReq a o] := (fwStarted_hold a o).trans (congrArg (· ++ _) hold)
    exact ⟨fwStarted a o, fwReq a o, starts n three named fields other free, holds, rfl, dieList, rfl, named, rfl,
      fun stage => fwStarted_invalid (o := o) (named.trans stage), fun other => (fwStarted_keep (o := o) fun stage => other (named.symm.trans stage)).trans keep⟩
  have running (n : Nat) (three : n ≤ 2) {t : State} : goes (fwInstr q desc ext n) n t → op = n ∧ t = fwStarted a o ∧ ∃ p, p.id = o.id ∧ p.desc = desc ∧
      ∀ d st c, fwDone t p (fwReq a o) ext2 = (st, p.total, c) → c.ops = t.ops →
        exec (.hoopActivityCommit 7 d [] ext2) t = .next (complete c p st p.total) := by
    rintro ⟨named, fields, other, free, alone, new, going, ran⟩
    obtain rfl : t = fwStarted a o := Host.Outcome.next.inj (ran.symm.trans (starts n three named fields other free))
    obtain ⟨p, names, same, ends⟩ := fwStarted_commits (s := a) (o := o) ((phase_accepted ..).trans (phase_of_accepts h)) (hold.symm ▸ alone) (recs.symm ▸ going) (findOp_accepted new)
    exact ⟨named, rfl, p, names, same, fun d => ends d ext2⟩
  refine ⟨rowOf 0 (by omega), rowOf 1 (by omega), rowOf 2 (by omega), rowOf 3 (by omega), rowOf 4 (by omega), takesOf 0 (by omega), takesOf 1 (by omega), takesOf 2 (by omega),
    ?_, ?_, ?_, ?_, ?_, ?_, ?_⟩
  · intro t d bs u staged small read
    obtain ⟨stage, started, p, names, same, ends⟩ := running 0 (by omega) staged
    obtain ⟨ops, unchanged⟩ := diesOnly_ops_keep (devRead_dies read)
    have slotKeep (f : FwSlot) : keepWith u.keep slot f = keepWith s.keep slot f := by
      rw [unchanged, started, ← keep]
      exact fwStarted_restaged (o := o) stage f
    have ended (st : Status) (f : FwSlot) (done : stageEnd t p slot ext2 = (st, p.total, setSlot u slot f)) :
        exec (.hoopActivityCommit 7 d [] ext2) t = .next (complete (setSlot u slot f) p st p.total) :=
      ends d st _ ((fwDone_stage (h := fwReq a o) stage).trans done) ops
    rw [← same] at small read
    split
    next good =>
      rw [← same] at good
      exact ⟨_, p, slotKeep _, names, ended _ _ (stageEnd_good small read good)⟩
    next c refused =>
      rw [← same] at refused
      exact ⟨_, p, (setSlot_image ..).trans (by rw [unchanged]), names, ended _ _ (stageEnd_refused small read refused)⟩
  · intro c r p owner typed ok stage
    have valid := commitSlot_valid owner typed ok stage
    rw [keepSlot, ← writeRec_keep owner] at valid
    exact valid
  · intro t d selected valid
    obtain ⟨named, started, p, names, -, ends⟩ := running 1 (by omega) selected
    have unchanged : t.keep = s.keep := started ▸ (fwStarted_keep (o := o) (ne_of_eq_of_ne named (by decide))).trans keep
    have done : fwDone t p (fwReq a o) ext2 = (.ok, p.total, { t with keep := { t.keep with pref := slot } }) := by
      rw [fwDone_select named]
      rw [keepSlot, ← unchanged] at valid
      exact congrArg (fun e : Status × State => (e.1, p.total, e.2)) (selectEnd_valid valid)
    exact ⟨_, p, congrArg (fun k : Keep => { k with pref := slot }) unchanged, names, ends d .ok _ done rfl⟩
  · intro t d n cleared counted low
    obtain ⟨named, started, p, names, -, ends⟩ := running 2 (by omega) counted
    have unchanged : t.keep = s.keep := started ▸ (fwStarted_keep (o := o) (ne_of_eq_of_ne named (by decide))).trans keep
    have booted : t.boot = s.boot := started ▸ (fwStarted_boot a o).trans boot
    have done : fwDone t p (fwReq a o) ext2 = (.ok, p.total, svnCommitted t n) := by
      rw [fwDone_commitSvn named, show n = max t.keep.arb t.boot.svn by rw [unchanged, booted], commitSvn_counts (by rw [unchanged, booted]; exact low)]
    obtain ⟨ops, kept⟩ := svnCommitted_ops_keep t n
    refine ⟨_, p, kept.trans ?_, names, ends d .ok _ done ops⟩
    rw [svnKeep, unchanged, booted]
    rfl
  · intro named fields identity measured l place free
    obtain ⟨t, written, served⟩ := attest_room (s := a) (o := o) boot (lead.symm ▸ identity) measured place free
    exact ⟨(draw (fwBegun a o)).2, fwBegun a o, _, _, t, fwSized o, rfl, rfl, keep, boot, by simp [signSalt, upto], by simp [signRnd, upto], rfl, written,
      (exec_fwInstr_of (n := 3) h type named (by omega)).trans (congrArg _ ((firmware_attests (o := o) fields named).trans served))⟩
  · exact fun t p o' st pos found => ⟨finishWrites_done found, finishWrites_waits found⟩
  · intro named fields cert
    have certs : nth (fwBegun a o).keep.certs (dsc o.desc 17 1) [] = cert := congrArg (fun k : Keep => nth k.certs slot []) keep
    have serves {t : State} (served : readCert (fwBegun a o) (fwSized o) = t) : exec (.fwReadCert q desc ext) s = .next t :=
      (exec_fwInstr_of (n := 4) h type named (by omega)).trans (congrArg _ ((firmware_readsCert (o := o) fields named).trans served))
    refine ⟨fun long => ⟨fwBegun a o, fwSized o, rfl, rfl, serves (readCert_long (o := fwSized o) ?_)⟩, fun fits l place free => ?_⟩
    · exact certs.symm ▸ long
    · obtain ⟨t, written, served⟩ := readCert_room (s := a) (o := o) certs fits place free
      exact ⟨fwBegun a o, t, fwSized o, rfl, rfl, written, serves served⟩

end Sys2Proof.Proofs
end

section
/-! PROOFS. Packets that wait: their residence limit and ESC_WAIT; warm groups; the histories of trunk ports. -/

namespace Sys2Proof.Proofs

open Sys2Proof.Machine Sys2Proof.Laws

section
variable {s : State} {d o i g l : Nat} {e : Held}

/-! Residence (R296) -/

/-- The packet at position i of the place that RESIDENCE_EXPIRY names by o: the packets waiting for a candidate, those that a drain holds, or an output's queue. -/
def residing (x : Die) (o i : Nat) : Option Held :=
  if o = 100 then x.adapt[i]? else if o = 101 then x.held[i]? else (outOf x o).q[i]?

/-- Die x without that packet. -/
def unresided (x : Die) (o i : Nat) : Die :=
  if o = 100 then { x with adapt := x.adapt.eraseIdx i }
  else if o = 101 then { x with held := x.held.eraseIdx i }
  else { x with outs := tset x.outs o { outOf x o with q := (outOf x o).q.eraseIdx i } }

theorem residing_output (x : Die) (i : Nat) (output : o < 100) : residing x o i = (outOf x o).q[i]? := by
  rw [residing, if_neg (by omega), if_neg (by omega)]

theorem unresided_output (x : Die) (i : Nat) (output : o < 100) :
    unresided x o i = { x with outs := tset x.outs o { outOf x o with q := (outOf x o).q.eraseIdx i } } := by
  rw [unresided, if_neg (by omega), if_neg (by omega)]

theorem residenceExpiry_residing (runs : dieRuns s d = true) (here : residing (getDie s d) o i = some e) :
    residenceExpiry d o i s = if resideOver s d e = true then discard (setDie s d (unresided (getDie s d) o i)) d e nLIFE else s := by
  simp only [residing] at here
  simp only [residenceExpiry, unresided, runs, Bool.not_true, Bool.false_eq_true, if_false]
  by_cases waits : o = 100
  · simp only [if_pos waits] at here ⊢
    simp only [here]
  · by_cases drains : o = 101
    · simp only [if_neg waits, if_pos drains] at here ⊢
      simp only [here]
    · simp only [if_neg waits, if_neg drains] at here ⊢
      simp only [here]

/-- A queue that nothing left has not become empty. -/
theorem tellDrained_self (s : State) (d l : Nat) : tellDrained s s d l = s := by
  refine if_neg fun ⟨_, some_waited, none_waits⟩ => ?_
  rw [some_waited] at none_waits
  exact Bool.false_ne_true none_waits

theorem exec_residenceExpiry_late (runs : dieRuns s d = true) (late : resideOver s d e = true) (here : residing (getDie s d) o i = some e) :
    exec (.residenceExpiry d o i) s =
      .next (drainTick (tellDrained s (discard (setDie s d (unresided (getDie s d) o i)) d e nLIFE) d o)) := by
  show Host.Outcome.next (drainTick (tellDrained s (residenceExpiry d o i s) d o)) = _
  rw [residenceExpiry_residing runs here, if_pos late]

theorem exec_residenceExpiry_early (runs : dieRuns s d = true) (early : resideOver s d e = false) (here : residing (getDie s d) o i = some e) :
    exec (.residenceExpiry d o i) s = .next (drainTick s) := by
  show Host.Outcome.next (drainTick (tellDrained s (residenceExpiry d o i s) d o)) = _
  rw [residenceExpiry_residing runs here, early, if_neg Bool.false_ne_true, tellDrained_self]

/-! A packet without a candidate (R274) -/

theorem exec_escWaitExpiry_moves {p v : Nat} {esc : Bool} (runs : dieRuns s d = true) (here : (getDie s d).adapt[i]? = some e)
    (noCandidate : candidates s e.pkt.hdr (chargeOf (pktLen e.pkt)) = []) (escape : routeEscape s e.pkt.hdr = .port p esc) (dir : dirOfPort s p = some v)
    (credit : (trunkCredit (getPort s (p / 96) (p % 96)) (vcOf (hCLASS e.pkt.hdr) true) (nextDL s e.pkt.hdr (cameFrom s d e) v)
      (chargeOf (pktLen e.pkt))).isSome = true) :
    exec (.escWaitExpiry d i) s = .next (decide' (setDie s d { getDie s d with adapt := (getDie s d).adapt.eraseIdx i }) d
      { e with pkt := { e.pkt with hdr := setH e.pkt.hdr 28 28 1 } } false (cameFrom s d e)) := by
  show Host.Outcome.next (escWaitExpiry d i s) = _
  simp only [escWaitExpiry, runs, here, noCandidate, escape, dir, credit, List.isEmpty_nil, Bool.not_true, Bool.false_eq_true, if_false, if_true]

/-! Warm groups (R275) -/

theorem exec_warmGroupEnd_due {t0 : Nat} (warming : (warmOf s g).warming = true) (counted : 4096 ≤ (warmOf s g).dec)
    (since : (warmOf s g).since = some t0) (passed : t0 + 100000 ≤ s.now) :
    exec (.warmGroupEnd g) s = .next { s with warm := tset s.warm g { warmOf s g with warming := false } } := by
  show Host.Outcome.next (warmGroupEnd g s) = _
  simp only [warmGroupEnd, warming, counted, since, passed, decide_true, Bool.and_self, if_true]

/-! Depth samples (R277, R313) -/

/-- R277: the bytes queued at port l of a die for adaptive classes. -/
def adaptiveBytes (x : Die) (l : Nat) : Nat :=
  (((outOf x l).q.filter (fun e => vcAdaptive (vcOf (hCLASS e.pkt.hdr) (hESC e.pkt.hdr)))).map (fun e => pktLen e.pkt)).foldl (· + ·) 0

/-- R277: port p once a sample has found b such bytes. -/
def sampledPort (b : Nat) (p : Port) : Port := { p with hist := min 65535 (p.hist - p.hist / 8 + b / 256 / 8) }

/-- R277: a die's ports after a sample. -/
def sampledPorts (x : Die) : Tbl Port :=
  foldUpto 96 x.ports (fun ps l =>
    if ((portWidth x l).isNone || !isTrunk x l) = true then ps else tset ps l (sampledPort (adaptiveBytes x l) (tget ps l portReset)))

/-- R313, R314: a die after a sample that left its ground memory as g1. -/
def sampledDie (x : Die) (g1 : Ground) : Die := { x with gnd := g1, ports := sampledPorts x }

theorem portOf_sampledDie {x : Die} (g1 : Ground) (hl : l < 96) (wide : (portWidth x l).isSome = true) (trunk : isTrunk x l = true) :
    portOf (sampledDie x g1) l = sampledPort (adaptiveBytes x l) (portOf x l) := by
  have sampled : ((portWidth x l).isNone || !isTrunk x l) = false := by
    rw [← Option.not_isSome, wide, trunk]
    rfl
  have each := foldUpto_tset 96 x.ports portReset (fun l => (portWidth x l).isNone || !isTrunk x l) (fun l => sampledPort (adaptiveBytes x l)) l
  rw [if_pos ⟨hl, sampled⟩] at each
  exact each

theorem getPort_sampledDie (g1 : Ground) (hl : l < 96) (wide : (portWidth (getDie s d) l).isSome = true) (trunk : isTrunk (getDie s d) l = true) :
    getPort (setDie s d (sampledDie (getDie s d) g1)) d l = sampledPort (adaptiveBytes (getDie s d) l) (getPort s d l) := by
  rw [getPort, getDie_setDie_same, portOf_sampledDie g1 hl wide trunk, getPort]

/-- R313, R314: a sample writes histograms to ground memory, where HIST_EN asks for them, and the histories of the ports. -/
theorem exec_depthSample_of (runs : dieRuns s d = true) : ∃ g1, (bit (regWord (getDie s d) rSW_SAMPLE) 8 = false → g1 = (getDie s d).gnd) ∧
    exec (.depthSample d) s = .next (setDie s d (sampledDie (getDie s d) g1)) := by
  show ∃ g1, _ ∧ Host.Outcome.next (depthSample d s) = _
  unfold depthSample
  simp only [runs, Bool.not_true, Bool.false_eq_true, if_false]
  refine ⟨_, fun off => ?_, rfl⟩
  simp only [off, Bool.not_false, if_true]

end

/-- Settles O43: the packet that residing names leaves its place at its limit and not before, and a sample's fold over the ports reaches each trunk port once (foldUpto_tset). -/
theorem waitingPacketsGroupsAndSamples : Obligations.WaitingPacketsGroupsAndSamples := by
  refine ⟨fun s d o i e runs => ⟨fun late => ⟨fun here output => ?_, fun here => ?_, fun here => ?_⟩, fun early here output => ?_, ?_⟩, ?_, ?_, fun d l => rfl⟩
  · rw [← unresided_output _ i output]
    exact exec_residenceExpiry_late runs late ((residing_output _ i output).trans here)
  · exact exec_residenceExpiry_late (o := 100) runs late here
  · exact exec_residenceExpiry_late (o := 101) runs late here
  · exact exec_residenceExpiry_early runs early ((residing_output _ i output).trans here)
  · exact fun here noCandidate p _ v escape dir credit => exec_escWaitExpiry_moves runs here noCandidate escape dir credit
  · intro s g warming counted ⟨t0, since, passed⟩
    exact ⟨_, exec_warmGroupEnd_due warming counted since passed, tget_tset_same .., rfl⟩
  · intro s d runs
    obtain ⟨g1, kept, samples⟩ := exec_depthSample_of runs
    exact ⟨_, samples, fun off => (congrArg Die.gnd (getDie_setDie_same ..)).trans (kept off),
      fun l hl wide trunk => congrArg Port.hist (getPort_sampledDie g1 hl wide trunk)⟩

end Sys2Proof.Proofs
end

section
/-! PROOFS. Descriptors of ports (PORT_ADMIT, PORT_WITHDRAW) and of module accesses, and one that has waited 1 ms. -/

namespace Sys2Proof.Proofs

open Sys2Proof.Machine Sys2Proof.Laws

section
variable {s a : State} {q d l p op type : Nat} {desc : Word512} {ext : List Host.Cell} {o : Op}

/-! Ports (R299, R337) -/

theorem getPort_accepted (s : State) (q : Nat) (desc : Word512) (ext : List Host.Cell) (d l : Nat) :
    getPort (accepted s q desc ext) d l = getPort s d l := by
  obtain ⟨dies, variant, -⟩ := accepted_dies s q desc ext
  rw [getPort, getDie_of_dies dies variant, getPort]

theorem getPort_setPortSt (s : State) (d l st : Nat) : getPort (setPortSt s d l st) d l = { getPort s d l with st := st } := by
  rw [← getPort_updPort_same s d l (fun p => { p with st := st })]
  simp only [setPortSt]
  split <;> rfl

theorem getPort_sendAdverts (s : State) (d l e k : Nat) : getPort (sendAdverts s d l) e k = getPort s e k := by
  simp only [sendAdverts]
  split <;> rfl

/-- R299: whether the pools of die d have the reserves of the port at l too. -/
def reservesFit (s : State) (d l : Nat) : Bool :=
  (upto 3).all (fun k => decide (poolReserve s.variant d (getDie s d) k (some l) ≤ poolFree (getDie s d) k))

theorem reservesFit_accepted (s : State) (q : Nat) (desc : Word512) (ext : List Host.Cell) (d l : Nat) :
    reservesFit (accepted s q desc ext) d l = reservesFit s d l := by
  obtain ⟨dies, variant, -⟩ := accepted_dies s q desc ext
  simp only [reservesFit, getDie_of_dies dies variant, variant]

/-- R336, R337: a port that comes into service is ACTIVE, advertises and reserves. -/
theorem activate_serves (s : State) (d l : Nat) : ∃ u, activate s d l = pumpAll (retryAll u) ∧
    (getPort u d l).st = 6 ∧ (getPort u d l).adv = true ∧ (getPort u d l).reserved = true := by
  refine ⟨_, rfl, ?_⟩
  rw [getPort_sendAdverts, getPort_setPortSt, getPort_updPort_same]
  exact ⟨rfl, rfl, rfl⟩

theorem admitPort_unready (unready : linkReaches s (p / 96) = false ∨ (getPort s (p / 96) (p % 96)).st ≠ 5 ∧ (getPort s (p / 96) (p % 96)).st ≠ 6) :
    admitPort s p = (.notReady, s) := by
  cases reach : linkReaches s (p / 96) with
  | false => simp only [admitPort, reach, Bool.not_false, if_true]
  | true =>
    obtain ⟨notUp, notActive⟩ := unready.resolve_left (by simp [reach])
    simp only [admitPort, reach, notUp, notActive, Bool.not_true, Bool.false_eq_true, if_false, ne_eq, not_false_eq_true, if_true]

section
variable (reach : linkReaches s (p / 96) = true)
include reach

theorem admitPort_active (active : (getPort s (p / 96) (p % 96)).st = 6) : admitPort s p = (.ok, s) := by
  simp only [admitPort, reach, active, Bool.not_true, Bool.false_eq_true, if_false, if_true]

/-- R299, R337: a port in LINK_UP comes into service where its reserves can be held. -/
theorem admitPort_linkUp (up : (getPort s (p / 96) (p % 96)).st = 5) :
    admitPort s p = if reservesFit s (p / 96) (p % 96) = true then (.ok, activate s (p / 96) (p % 96)) else (.noBuf, bump s (p / 96) nNOADM) := by
  simp only [admitPort, reach, up, Bool.not_true, Bool.false_eq_true, if_false, Nat.reduceEqDiff, ne_eq, not_true_eq_false]
  rfl

end

theorem withdrawPort_active (active : (getPort s (p / 96) (p % 96)).st = 6) (die : p / 96 < ndies s.variant) : ∃ u, withdrawPort s p = (.ok, u) ∧
    (getPort u (p / 96) (p % 96)).st = 5 ∧ (getPort u (p / 96) (p % 96)).adv = false ∧ (getPort u (p / 96) (p % 96)).reserved = false := by
  refine ⟨_, if_pos ⟨active, die⟩, ?_⟩
  rw [getPort_sendAdverts, getPort_setPortSt, getPort_updPort_same]
  exact ⟨rfl, rfl, rfl⟩

theorem withdrawPort_other (other : (getPort s (p / 96) (p % 96)).st ≠ 6) :
    withdrawPort s p = (.raw (Config.openStatus 0x0A (getPort s (p / 96) (p % 96)).st), s) :=
  if_neg fun both => other both.1

/-! Port-control descriptors (R337, Table 12-9) -/

/-- A descriptor command of an operation of its TYPE. -/
theorem takeDesc_op {body : State → Op → State} (h : Accepts s q desc ext) (kind : fld desc 7 0 = type) (named : fld desc 135 128 = op) :
    takeDesc q desc ext (opRow desc type op) body s = body (accepted s q desc ext) (newOp s q desc ext) := by
  refine takeDesc_of h ?_
  have typed : dType desc = type := kind
  have same : dsc desc 16 1 = op := named
  simp only [opRow, typed, same, beq_self_eq_true, Bool.true_or, Bool.and_self]

/-- Table 12-9: a port-control descriptor that names a port and keeps its zero fields zero. -/
structure PortFields (desc : Word512) : Prop where
  kind : fld desc 7 0 = 0x0A
  zero : fld desc 143 136 = 0
  port : fld desc 159 144 < 1024
  rest : fld desc 511 160 = 0

/-- The status and the state that operation op of a port-control descriptor ends with: 0 admits the port, 1 withdraws it. -/
def portControl (s : State) (op p : Nat) : Status × State := if op = 0 then admitPort s p else withdrawPort s p

theorem portBody_controls (fields : PortFields o.desc) (named : fld o.desc 135 128 = op) (known : op < 2) : portBody a o =
    complete (portControl (begunOp a o.id) op (fld o.desc 159 144)).2 o (portControl (begunOp a o.id) op (fld o.desc 159 144)).1 0 := by
  subst named
  refine (if_neg ?_).trans rfl
  show ¬(2 ≤ fld o.desc 135 128 ∨ fld o.desc 143 136 ≠ 0 ∨ 1024 ≤ fld o.desc 159 144 ∨ fld o.desc 511 160 ≠ 0)
  obtain ⟨-, zero, port, rest⟩ := fields
  omega

theorem takeDesc_port {st : Status} {t : State} (h : Accepts s q desc ext) (fields : PortFields desc) (named : fld desc 135 128 = op) (known : op < 2)
    (answers : portControl (begunOp (accepted s q desc ext) (newOp s q desc ext).id) op (fld desc 159 144) = (st, t)) :
    takeDesc q desc ext (opRow desc 0x0A op) portBody s = complete t (newOp s q desc ext) st 0 := by
  rw [takeDesc_op h fields.kind named, portBody_controls (o := newOp s q desc ext) fields named known]
  exact congrArg (fun r : Status × State => complete r.2 (newOp s q desc ext) r.1 0) answers

/-! Module-access descriptors (R372, R373) -/

/-- R372: a module access whose fields are in range, a write (op 1) staying clear of bytes 126 and 127. -/
structure AccessInRange (v : Variant) (desc : Word512) (op : Nat) : Prop where
  zero : fld desc 191 184 = 0
  rest : fld desc 511 256 = 0
  die : fld desc 143 136 < ndies v
  cage : fld desc 151 144 < 12
  least : 1 ≤ fld desc 183 176
  most : fld desc 183 176 ≤ 128
  page : fld desc 175 168 + fld desc 183 176 ≤ 256
  select : op = 1 → 127 < fld desc 175 168 ∨ fld desc 175 168 + fld desc 183 176 ≤ 126

theorem moduleBody_waits (range : AccessInRange a.variant o.desc op) (named : fld o.desc 135 128 = op) (known : op < 2)
    (reach : linkReaches a (fld o.desc 143 136) = true) : moduleBody a o = a := by
  subst named
  refine (if_neg ?_).trans (if_neg (by rw [show linkReaches a (dsc o.desc 17 1) = true from reach]; decide))
  show ¬(2 ≤ fld o.desc 135 128 ∨ fld o.desc 191 184 ≠ 0 ∨ fld o.desc 511 256 ≠ 0 ∨ ndies a.variant ≤ fld o.desc 143 136 ∨ 12 ≤ fld o.desc 151 144 ∨
    fld o.desc 183 176 = 0 ∨ 128 < fld o.desc 183 176 ∨ 256 < fld o.desc 175 168 + fld o.desc 183 176 ∨
    (fld o.desc 135 128 = 1 ∧ fld o.desc 175 168 ≤ 127 ∧ 126 < fld o.desc 175 168 + fld o.desc 183 176))
  obtain ⟨zero, rest, die, cage, least, most, page, select⟩ := range
  omega

/-- R372: a module access that is taken and waits for its cage. -/
theorem takeDesc_access (h : Accepts s q desc ext) (kind : fld desc 7 0 = 0x0B) (range : AccessInRange s.variant desc op) (named : fld desc 135 128 = op)
    (known : op < 2) (reach : linkReaches (accepted s q desc ext) (fld desc 143 136) = true) :
    takeDesc q desc ext (opRow desc 0x0B op) moduleBody s = accepted s q desc ext := by
  obtain ⟨-, variant, -⟩ := accepted_dies s q desc ext
  exact (takeDesc_op h kind named).trans (moduleBody_waits (o := newOp s q desc ext) (variant.symm ▸ range) named known reach)

/-! A descriptor that waits (R363) -/

theorem descWait_reports {e : Nat} (up : s.phase = .up) (runs : (getSq s q).state = 1) (pending : (getSq s q).head ≠ (getSq s q).tail)
    (unreported : (getSq s q).waitPosted = false) (why : waits s q desc ext = some e) : descWait q desc ext s =
      ringError (setSq s q { getSq s q with waitPosted := true, err := if e = 4 then 4 else (getSq s q).err }) false q e := by
  have apart : ((getSq s q).head == (getSq s q).tail) = false := beq_false_of_ne pending
  simp only [descWait, up, runs, apart, unreported, why, bne_self_eq_false, Bool.or_self, Bool.false_eq_true, if_false]

end

/-- Settles O35: a port command ends with what admitPort or withdrawPort answers for its port; a module access in range only waits (moduleBody_waits). -/
theorem portModuleAndWaitDescriptorsTakeEffect : Obligations.PortModuleAndWaitDescriptorsTakeEffect := by
  intro s q desc ext a o b
  refine ⟨?ports, ?modules, ?waiting⟩
  case ports =>
    intro h kind zero port rest d l x st room
    have fields : PortFields desc := ⟨kind, zero, port, rest⟩
    have state : (getPort b d l).st = st := congrArg Port.st (getPort_accepted s q desc ext d l)
    have fit : reservesFit b d l = room := reservesFit_accepted s q desc ext d l
    have admits (named : fld desc 135 128 = 0) {e : Status} {t : State} (answers : admitPort b (fld desc 159 144) = (e, t)) :
        exec (.portAdmit q desc ext) s = .next (complete t o e 0) := congrArg Host.Outcome.next (takeDesc_port h fields named (by decide) answers)
    have withdraws (named : fld desc 135 128 = 1) {e : Status} {t : State} (answers : withdrawPort b (fld desc 159 144) = (e, t)) :
        exec (.portWithdraw q desc ext) s = .next (complete t o e 0) := congrArg Host.Outcome.next (takeDesc_port h fields named (by decide) answers)
    have linkUpAnswer (reach : linkReaches a d = true) (linkUp : st = 5) : admitPort b (fld desc 159 144) =
        if reservesFit b d l = true then (.ok, activate b d l) else (.noBuf, bump b d nNOADM) := admitPort_linkUp reach (state.trans linkUp)
    refine ⟨fun named => ⟨fun reach active => ?_, fun unready => ?_, fun reach linkUp full => ?_, fun reach linkUp free => ?_⟩,
      fun named => ⟨fun active die => ?_, fun other => ?_⟩⟩
    · exact admits named (admitPort_active reach (state.trans active))
    · exact admits named (admitPort_unready (state.symm ▸ unready))
    · exact admits named ((linkUpAnswer reach linkUp).trans (if_neg (ne_true_of_eq_false (fit.trans full))))
    · obtain ⟨u, activates, serves⟩ := activate_serves b d l
      exact ⟨u, activates ▸ admits named ((linkUpAnswer reach linkUp).trans (if_pos (fit.trans free))), serves⟩
    · obtain ⟨-, variant, -⟩ := accepted_dies s q desc ext
      obtain ⟨u, answers, idle⟩ := withdrawPort_active (s := b) (p := fld desc 159 144) (state.trans active) (die.trans_eq (congrArg ndies variant.symm))
      exact ⟨u, withdraws named answers, idle⟩
    · exact state ▸ withdraws named (withdrawPort_other (state.trans_ne other))
  case modules =>
    intro h kind zero rest die cage least most page reach
    refine ⟨fun read => ?_, fun write select => ?_⟩
    · exact congrArg Host.Outcome.next (takeDesc_access h kind ⟨zero, rest, die, cage, least, most, page, nofun⟩ read (by decide) reach)
    · exact congrArg Host.Outcome.next (takeDesc_access h kind ⟨zero, rest, die, cage, least, most, page, fun _ => select⟩ write (by decide) reach)
  case waiting => exact fun up runs pending unreported e why => congrArg Host.Outcome.next (descWait_reports up runs pending unreported why)

end Sys2Proof.Proofs
end

section
/-! PROOFS. Cages, their modules and buttons; writes of PORT_CFG and LANE_CTL; lanes in a test mode and their checkers. -/

namespace Sys2Proof.Proofs

open Sys2Proof.Machine Sys2Proof.Laws

section
variable {s : State} {d o i l : Nat}

/-! Cages with ports (R339, R344 to R346, R348) -/

section
variable (runs : dieRuns s d = true) (ports : octetPorts (getDie s d) o ≠ [])
include runs ports

theorem cage_serves : (!dieRuns s d || (octetPorts (getDie s d) o).isEmpty) = false := by
  rw [runs, List.isEmpty_eq_false_iff.mpr ports]; rfl

theorem cage_watched : (dieRuns s d && !(octetPorts (getDie s d) o).isEmpty) = true := by
  rw [runs, List.isEmpty_eq_false_iff.mpr ports]; rfl

theorem presence_of : presence d o s = (octetPorts (getDie s d) o).foldl (fun s l => if (getPort s d l).st = 1 then setPortSt s d l 2 else s)
    (updCage s d o (fun c => { c with prs := true, ready := c.prs && c.ready, app := c.prs && c.app })) :=
  if_neg (ne_true_of_eq_false (cage_serves runs ports))

/-- R346: whether a port of the cage is in REMOVING, so that a pull comes early. -/
def pulledEarly (s : State) (d o : Nat) : Bool := (octetPorts (getDie s d) o).any (fun l => (portOf (getDie s d) l).st == 9)

/-- R339, R346: the cage and its ports after a pull. -/
def cageEmptied (s : State) (d o : Nat) : State :=
  updCage ((octetPorts (getDie s d) o).foldl (fun s l => if (getPort s d l).st = 0 then s else portEmpty s d l) s) d o (fun c =>
    { c with prs := false, ready := false, flat := false, app := false, modst := 0, early := c.early || pulledEarly s d o })

theorem unplug_of : unplug d o s = if pulledEarly s d o = true then cageEvent (cageEmptied s d o) d o else cageEmptied s d o :=
  if_neg (ne_true_of_eq_false (cage_serves runs ports))

theorem readyTimeout_of (there : (cageOf (getDie s d) o).prs = true) (waits : (cageOf (getDie s d) o).ready = false) :
    readyTimeout d o s = postEvent (moduleReady s d o) 0x08 d (16 * d + o) 0 0 0 := by
  simp only [readyTimeout, cage_serves runs ports, there, waits, Bool.not_true, Bool.or_self, Bool.false_eq_true, if_false]

/-! Module polls (R344, R348) -/

section
variable {app : Option Nat} {ready : Bool} {modst alarms : Nat} (there : (cageOf (getDie s d) o).prs = true)
include there

/-- R344: a module that does not acknowledge, or that an isolated branch hides, is MOD_NOACK. -/
theorem cmisPoll_unanswered {ack : Bool} (silent : (!ack || isolated (cageOf (getDie s d) o)) = true) :
    cmisPoll d o ack app ready modst alarms s = moduleReady (addCageFault s d o 6) d o := by
  simp only [cmisPoll, cage_serves runs ports, there, silent, Bool.not_true, Bool.or_self, Bool.false_eq_true, if_false, if_true]

theorem cmisPoll_answered (joined : isolated (cageOf (getDie s d) o) = false) :
    cmisPoll d o true app ready modst alarms s =
      (let st := if app = none then 0 else if modst < 6 then modst else (cageOf (getDie s d) o).modst
       let s1 := updCage s d o (fun c => { c with flat := app.isNone, modst := st, faults := sdel c.faults 6 })
       let s2 := if app = none ∨ (cageOf (getDie s d) o).app = true then s1 else selectApp s1 d o (app.getD 0)
       let s3 := if app = none ∨ ready = true then moduleReady s2 d o else s2
       alarmEvents s3 d o alarms) := by
  simp only [cmisPoll, cage_serves runs ports, there, joined, Bool.not_true, Bool.or_self, Bool.false_eq_true, if_false]
  cases app with
  | none => rfl
  | some a => simp only [Option.isNone_some, Bool.false_or, Bool.false_eq_true, if_false, reduceCtorEq, false_or]; rfl

end

/-! The button (R345) -/

/-- R344, R345: of a cage whose button cannot be trusted only BTN follows the button. -/
theorem buttonRelease_stuck {ms : Nat}
    (stuck : 15 ∈ (cageOf (getDie s d) o).faults ∨ 16 ∈ (cageOf (getDie s d) o).faults ∨ 17 ∈ (cageOf (getDie s d) o).faults) :
    buttonRelease d o ms s = updCage s d o (fun c => { c with btn := false }) := by
  have distrusted : ((cageOf (getDie s d) o).faults.contains 15 || (cageOf (getDie s d) o).faults.contains 16 || (cageOf (getDie s d) o).faults.contains 17) = true := by
    simp only [Bool.or_eq_true, List.contains_iff_mem, or_assoc]
    exact stuck
  simp only [buttonRelease, cage_serves runs ports, distrusted, Bool.false_eq_true, if_false, if_true]

section
variable {ms : Nat} (trusted : ¬(15 ∈ (cageOf (getDie s d) o).faults ∨ 16 ∈ (cageOf (getDie s d) o).faults ∨ 17 ∈ (cageOf (getDie s d) o).faults))
include trusted

theorem buttonRelease_ignored (length : ms < 50 ∨ 10000 < ms) : buttonRelease d o ms s = updCage s d o (fun c => { c with btn := false }) := by
  rw [button_eq runs (List.isEmpty_eq_false_iff.mpr ports) trusted]
  rcases length with short | long
  · exact if_pos short
  · exact (if_neg (by omega)).trans ((if_neg (by omega)).trans (if_neg (by omega)))

theorem buttonRelease_short (least : 50 ≤ ms) (most : ms < 2000) : buttonRelease d o ms s =
    if bit (regWord (getDie s d) (rCAGE_CFG o)) 1 = true then clearLocate (updCage s d o (fun c => { c with btn := false })) d o
    else postEvent (updCage s d o (fun c => { c with btn := false })) 0x07 d (16 * d + o) 0 0 0 := by
  rw [button_eq runs (List.isEmpty_eq_false_iff.mpr ports) trusted]
  exact (if_neg (by omega)).trans (if_pos most)

theorem buttonRelease_long (least : 2000 ≤ ms) (most : ms ≤ 10000) : buttonRelease d o ms s =
    (octetPorts (getDie s d) o).foldl (fun s1 l =>
      if (getPort s1 d l).st = 10 then
        (if (cageOf (getDie s d) o).prs = true then startTrain (updPort s1 d l (fun p => { p with fails := 0 })) d l false else s1)
      else removePort s1 d l) (clearLocate (updCage s d o (fun c => { c with btn := false })) d o) := by
  rw [button_eq runs (List.isEmpty_eq_false_iff.mpr ports) trusted]
  exact (if_neg (by omega)).trans ((if_neg (by omega)).trans (if_pos most))

end

/-! Faults of a cage's sideband (R344) -/

theorem buttonStuck_of : cageOf (getDie (buttonStuck d o s) d) o =
    { cageOf (getDie s d) o with btn := true, faults := sadd (cageOf (getDie s d) o).faults 17 } := by
  simp only [buttonStuck, cage_watched runs ports, if_true, addCageFault, setCageFaults_cage, cageOf_updCage]

theorem mem_faults_sideband (found : NSet) (f : Nat) : f ∈ (cageOf (getDie (sideband d o found s) d) o).faults ↔
    (5 ≤ f ∧ f ≤ 16 ∧ f ∈ found) ∨ (f = 17 ∧ 17 ∈ (cageOf (getDie s d) o).faults) := by
  have tested := mem_found found 12 f
  rw [Nat.lt_succ_iff (n := 16)] at tested
  simp only [sideband, cage_watched runs ports, if_true, setCageFaults_cage]
  by_cases held : 17 ∈ (cageOf (getDie s d) o).faults
  · rw [if_pos (contains_true held), mem_sadd, tested, and_iff_left held]
  · rw [if_neg (ne_true_of_eq_false (contains_false held)), tested, or_iff_left (fun h => held h.2)]

end

theorem buttonClear_of : cageOf (getDie (buttonClear d o s) d) o =
    { cageOf (getDie s d) o with btn := false, faults := sdel (cageOf (getDie s d) o).faults 17 } := cageOf_updCage ..

/-! PORT_CFG (R349) -/

section
variable (up : regsUp s = true) (reach : linkReaches s d = true)
include up reach

theorem write_served {k n : Nat} (within : k < n) : ¬(k ≥ n ∨ regsUp s = false ∨ linkReaches s d = false) := by
  rw [up, reach]
  simpa only [Bool.true_eq_false, or_false, Nat.not_le] using within

/-- R349: the octet's ports leave service and are as at reset, but for their counters, their transport and their gates. -/
def octetCleared (s : State) (d o : Nat) : State :=
  (octetPorts (getDie s d) o).foldl (fun s l => updPort (stopLanes (portLeave s d l) d l) d l (fun p =>
    { portReset with pmc := p.pmc, t1 := p.t1, pdrop := p.pdrop, gate := p.gate, staged := p.staged, shTok := p.shTok, polTok := p.polTok })) s

/-- R349: PORT_CFG w after a write of v: reserved values of MODE and ROLE keep the old ones. -/
def portCfgOf (w v : Word32) : Word32 :=
  BitVec.ofNat 32 ((if fld v 2 0 = 7 then fld w 2 0 else fld v 2 0) + 8 * (if 2 ≤ fld v 4 3 then fld w 4 3 else fld v 4 3) + 32 * fld v 5 5)

/-- R349: the cleared octet with its new PORT_CFG. -/
def octetConfigured (s : State) (d o : Nat) (v : Word32) : State :=
  updDie (octetCleared s d o) d (fun x => { x with regs := tset x.regs (rPORT_CFG o) (portCfgOf (regWord (getDie s d) (rPORT_CFG o)) v) })

theorem portCfgWrite_of {v : Word32} (octet : o < 12) (unlocked : s.locked = false) : portCfgWrite d o v s =
    (octetPorts (getDie (octetConfigured s d o v) d) o).foldl (fun s l => setPortSt s d l 1) (octetConfigured s d o v) :=
  (if_neg (write_served up reach octet)).trans (if_neg (ne_true_of_eq_false unlocked))

/-! LANE_CTL (R342, R343) -/

/-- R343: the sequence after a write of v to LANE_CTL w: the reserved value keeps the old one. -/
def prbsOf (w v : Word32) : Nat := if fld v 4 3 = 3 then fld w 4 3 else fld v 4 3

/-- R343: whether LANE_CTL w keeps its test, sequence and precoding as v is written with TEST test. -/
def laneCtlKept (w v : Word32) (test : Nat) : Bool := test == fld w 2 0 && prbsOf w v == fld w 4 3 && fld v 5 5 == fld w 5 5

/-- R342, R343: LANE_CTL of lane i written with TEST test; the lane's error count is 0, and its generator and checker go on only where nothing changed. -/
def laneCtlSet (s : State) (d i : Nat) (v : Word32) (test : Nat) : State :=
  let w := regWord (getDie s d) (rLANE_CTL i)
  updLane (updDie s d (fun x => { x with regs := tset x.regs (rLANE_CTL i) (BitVec.ofNat 32 (test + 8 * prbsOf w v + 32 * fld v 5 5)) })) d i (fun n =>
    { n with prbse := 0, prbsLock := n.prbsLock && laneCtlKept w v test, prbs := if laneCtlKept w v test = true then n.prbs else {} })

/-- R342: the port at l goes down for a test of its lanes: LANE_TEST. -/
def laneTested (s : State) (d l : Nat) : State :=
  setPortSt (updPort (stopLanes (portLeave s d l) d l) d l (fun p =>
    { p with was := none, reserved := false, width := 0, major := 0, minor := 0, txuse := 0, faruse := 0 })) d l 11

variable {v : Word32} (lane : i < 96) (port : laneWidthPort (getDie s d) i = some l)
include lane port

/-- R342: a TEST of a lane whose port is in service keeps its old value and is reported. -/
theorem laneCtlWrite_refused (test : fld v 2 0 ≠ 0) (serves : (portOf (getDie s d) l).st = 6 ∨ (portOf (getDie s d) l).st = 9) :
    laneCtlWrite d i v s = postEvent (laneCtlSet s d i v (fld (regWord (getDie s d) (rLANE_CTL i)) 2 0)) 0x0E d i 0 0 0 := by
  have refused : (decide (fld v 2 0 ≠ 0) && ((portOf (getDie s d) l).st == 6 || (portOf (getDie s d) l).st == 9)) = true := by
    simpa only [decide_eq_true test, Bool.true_and, Bool.or_eq_true, beq_iff_eq] using serves
  rw [laneCtl_eq (write_served up reach lane) port refused (if_pos (.inr rfl)) rfl rfl rfl (if_pos rfl), if_neg (by omega), if_neg (by omega)]
  rfl

/-- R342: a TEST that is not refused is written; then the port goes into LANE_TEST, trains anew after its last test, or stays as it is. -/
theorem laneCtlWrite_taken {t : Nat} (test : fld v 2 0 = t) (known : t < 5) (free : t = 0 ∨ (portOf (getDie s d) l).st ≠ 6 ∧ (portOf (getDie s d) l).st ≠ 9) :
    laneCtlWrite d i v s =
      if t ≠ 0 ∧ (portOf (getDie s d) l).st ≠ 11 ∧ (portOf (getDie s d) l).st ≠ 10 ∧ (portOf (getDie s d) l).st ≠ 0 ∧
        (portOf (getDie s d) l).st ≠ 6 ∧ (portOf (getDie s d) l).st ≠ 9 then laneTested (laneCtlSet s d i v t) d l
      else if (portOf (getDie s d) l).st = 11 ∧
        (portLanes (getDie s d) l).all (fun j => laneTest (getDie (laneCtlSet s d i v t) d) j == 0) = true then
        startTrain (laneCtlSet s d i v t) d l false
      else laneCtlSet s d i v t := by
  subst test
  have taken : (decide (fld v 2 0 ≠ 0) && ((portOf (getDie s d) l).st == 6 || (portOf (getDie s d) l).st == 9)) = false := by
    rw [Bool.and_eq_false_iff, decide_eq_false_iff_not, not_not, Bool.or_eq_false_iff, beq_eq_false_iff_ne, beq_eq_false_iff_ne]
    exact free
  exact laneCtl_eq (write_served up reach lane) port taken (if_neg (by simp only [Bool.false_eq_true, or_false]; omega)) rfl rfl rfl (if_neg Bool.false_ne_true)

end

/-! Lanes in a test mode (R343) -/

/-- R343: lane i of die x after the levels rx have come from its line, and the levels that it has sent meanwhile. -/
def testedBy (x : Die) (i : Nat) (rx : List Nat) : Lane × List Nat :=
  let code := regFld x (rLANE_CTL i) 4 3
  let pre := regFld x (rLANE_CTL i) 5 5 == 1
  let line (v : Nat) : Nat := if (laneOf x i).pol = true then 3 - v % 4 else v % 4
  rx.foldl (fun (a : Lane × List Nat) v =>
    let g := (prbsLevel code pre a.1.prbs).1
    (prbsTake code pre { a.1 with prbs := (prbsLevel code pre a.1.prbs).2 } (if laneTest x i ≤ 2 then g else line v),
      a.2 ++ [if laneTest x i = 3 then line v else g])) (laneOf x i, [])

/-- R346: whether the port of lane i is in SAFE. -/
def laneSafe (x : Die) (i : Nat) : Bool :=
  match laneWidthPort x i with
  | some l => (portOf x l).st == 10
  | none => false

theorem laneSafe_iff (x : Die) (i : Nat) : laneSafe x i = true ↔ ∃ l, laneWidthPort x i = some l ∧ (portOf x l).st = 10 := by
  unfold laneSafe
  cases laneWidthPort x i with
  | none => simp only [Bool.false_eq_true, reduceCtorEq, false_and, exists_false]
  | some l => simp only [beq_iff_eq, Option.some.injEq, exists_eq_left']

theorem prbsRun_of {rx : List Nat} (runs : dieRuns s d = true) (lane : i < 96) (tests : laneTest (getDie s d) i ≠ 0) : prbsRun d i rx s =
    (let s1 := updLane s d i (fun _ => (testedBy (getDie s d) i rx).1)
     if laneSafe (getDie s d) i = true then s1 else emit s1 (.control d i 10 (testedBy (getDie s d) i rx).2)) := by
  refine (if_neg ?_).trans rfl
  simp only [runs, tests, Nat.not_le.mpr lane, Bool.not_true, decide_false, Bool.or_self, Bool.false_eq_true, not_false_eq_true]

/-! Checkers (R343) -/

section
variable {code : Nat} {n : Lane} {b : Bool} (seeded : prbsLen code ≤ n.prbs.seeded)
include seeded

theorem prbse_prbsCheck_locked (locked : n.prbsLock = true) :
    (prbsCheck code n b).prbse = if b = prbsBit code n.prbs.chk then n.prbse else satInc (2 ^ 32 - 1) n.prbse := by
  simp only [prbsCheck, if_neg (Nat.not_lt.mpr seeded), locked, if_true]
  rw [apply_ite Lane.prbse]
  exact ite_self _

/-- R343: a checker locks on its 256th right bit in a row. -/
theorem prbsCheck_unlocked (unlocked : n.prbsLock = false) : (prbsCheck code n b).prbse = n.prbse ∧
    ((prbsCheck code n b).prbsLock = true ↔ b = prbsBit code n.prbs.chk ∧ 255 ≤ n.prbs.good) := by
  simp only [prbsCheck, if_neg (Nat.not_lt.mpr seeded), unlocked, Bool.false_eq_true, if_false, decide_eq_true_eq, true_and]
  by_cases right : b = prbsBit code n.prbs.chk
  · simp only [right, if_true, true_and]; omega
  · simp only [right, if_false, false_and, iff_false]; omega

end
end

/-- Settles O54: each command by the lemma above about it, where the octet has ports, its die runs, or the registers are reached. -/
theorem cagesModulesAndTestModesTakeEffect : Obligations.CagesModulesAndTestModesTakeEffect := by
  intro s d o x c stuck restart
  refine ⟨fun runs ports => ⟨?presence, ?pull, ?poll, ?timeout, ?button, ?held, ?sideband⟩, ?clear, ?portCfg, ?laneCtl, ?levels, ?checker⟩
  case presence => exact congrArg Host.Outcome.next (presence_of runs ports)
  case pull => exact congrArg Host.Outcome.next (unplug_of runs ports)
  case poll =>
    exact fun there app ready modst alarms => ⟨congrArg Host.Outcome.next (cmisPoll_unanswered runs ports there rfl),
      fun hidden => congrArg Host.Outcome.next (cmisPoll_unanswered runs ports there hidden),
      fun joined => congrArg Host.Outcome.next (cmisPoll_answered runs ports there joined)⟩
  case timeout => exact fun there waits => congrArg Host.Outcome.next (readyTimeout_of runs ports there waits)
  case button =>
    exact fun ms => ⟨fun stuck => congrArg Host.Outcome.next (buttonRelease_stuck runs ports stuck), fun trusted =>
      ⟨fun length => congrArg Host.Outcome.next (buttonRelease_ignored runs ports trusted length),
       fun least most => congrArg Host.Outcome.next (buttonRelease_short runs ports trusted least most),
       fun least most => congrArg Host.Outcome.next (buttonRelease_long runs ports trusted least most)⟩⟩
  case held =>
    refine ⟨_, rfl, ?_⟩
    rw [buttonStuck_of runs ports]
    exact ⟨rfl, fun f => (mem_sadd _ _ _).trans or_comm⟩
  case sideband => exact fun found => ⟨_, rfl, mem_faults_sideband runs ports found⟩
  case clear => exact ⟨_, rfl, congrArg Cage.btn buttonClear_of, congrArg Cage.faults buttonClear_of⟩
  case portCfg => exact fun up reach octet unlocked v => congrArg Host.Outcome.next (portCfgWrite_of up reach octet unlocked)
  case laneCtl =>
    intro up reach i l v lane port st w t prbs same put clean
    refine ⟨fun test serves => ?_, fun least most off active removing safe tested => ?_, fun ends elsewhere => ?_, fun ends here last => ?_⟩
    · exact congrArg Host.Outcome.next (laneCtlWrite_refused up reach lane port test serves)
    · have goes := (laneCtlWrite_taken up reach lane port rfl (Nat.lt_succ_of_le most) (.inr ⟨active, removing⟩)).trans
        (if_pos ⟨Nat.ne_of_gt least, tested, safe, off, active, removing⟩)
      exact ⟨_, congrArg Host.Outcome.next goes, setPortSt_st .., rfl⟩
    · exact congrArg Host.Outcome.next ((laneCtlWrite_taken up reach lane port ends (by decide) (.inl rfl)).trans
        ((if_neg (fun h => h.1 rfl)).trans (if_neg (fun h => elsewhere h.1))))
    · exact congrArg Host.Outcome.next ((laneCtlWrite_taken up reach lane port ends (by decide) (.inl rfl)).trans
        ((if_neg (fun h => h.1 rfl)).trans (if_pos ⟨here, last⟩)))
  case levels =>
    intro i m rx runs lane tests code pre line r s1
    have run := prbsRun_of (rx := (upto m).map (fun k => nbits rx (2 * k + 1) (2 * k))) runs lane tests
    refine ⟨fun l port safe => ?_, fun apart => ?_⟩
    · exact congrArg Host.Outcome.next (run.trans (if_pos ((laneSafe_iff x i).mpr ⟨l, port, safe⟩)))
    · exact congrArg Host.Outcome.next (run.trans (if_neg fun silent =>
        let ⟨l, port, safe⟩ := (laneSafe_iff x i).mp silent
        apart l port safe))
  case checker => exact fun code n b seeded => ⟨prbse_prbsCheck_locked seeded, prbsCheck_unlocked seeded⟩

end Sys2Proof.Proofs
end

section
/-! PROOFS. Events. -/

namespace Sys2Proof.Proofs

open Sys2Proof.Machine Sys2Proof.Laws

/-! Fields of a record written in bytes -/

theorem bytesNat_first (n v : Nat) (l : List Byte) : bytesNat (toLe n v ++ l) 0 n = v % 256 ^ n := by
  rw [← leNat_toLe]
  exact bytesNat_mid [] (toLe n v) l 0 n rfl (toLe_length n v).symm

theorem bytesNat_toLe (n v : Nat) : bytesNat (toLe n v) 0 n = v % 256 ^ n := by
  rw [← bytesNat_first n v [], List.append_nil]

theorem bytesNat_later {n o : Nat} (after : n ≤ o) (v k : Nat) (l : List Byte) : bytesNat (toLe n v ++ l) o k = bytesNat l (o - n) k := by
  rw [bytesNat, List.drop_append, toLe_length, List.drop_eq_nil_of_le (by rw [toLe_length]; exact after), List.nil_append, bytesNat]

/-! Events (R366, R374) -/

section
variable {s : State} {code die d0 d1 d2 d3 : Nat}

/-- Whether the event ring takes an event: enabled, not in error, with room. -/
def TakesEvents (r : ComRing) : Prop := r.en = true ∧ r.state ≠ 3 ∧ ringRoom r = true

/-- R374: the 32 bytes of an event. -/
def eventBytes (s : State) (code die d0 d1 d2 d3 : Nat) : List Byte :=
  toLe 2 code ++ (toLe 1 die ++ (toLe 1 (phaseBit s.ev.log2 s.ev.tail + 2 * b2n s.evFlag) ++ (toLe 4 0
    ++ (toLe 8 (timeNs s (if die < ndies s.variant then die else s.lead)) ++ (toLe 4 d0 ++ (toLe 4 d1 ++ (toLe 4 d2 ++ toLe 4 d3)))))))

theorem eventBytes_length (s : State) (code die d0 d1 d2 d3 : Nat) : (eventBytes s code die d0 d1 d2 d3).length = 32 := by
  simp only [eventBytes, List.length_append, toLe_length]

theorem phaseBit_eq (log2 j : Nat) : phaseBit log2 j = if j / 2 ^ log2 % 2 = 0 then 1 else 0 := by
  rw [phaseBit, Nat.shiftRight_eq_div_pow]

theorem eventBytes_fields (s : State) (code die d0 d1 d2 d3 : Nat) : let bs := eventBytes s code die d0 d1 d2 d3
    bytesNat bs 0 2 = code % 2 ^ 16 ∧ bytesNat bs 2 1 = die % 2 ^ 8 ∧
    bytesNat bs 3 1 = (if s.ev.tail / 2 ^ s.ev.log2 % 2 = 0 then 1 else 0) + (if s.evFlag = true then 2 else 0) ∧ bytesNat bs 4 4 = 0 ∧
    bytesNat bs 8 8 = (getDie s (if die < ndies s.variant then die else s.lead)).clock / 2 ^ 32 % 2 ^ 64 ∧
    bytesNat bs 16 4 = d0 % 2 ^ 32 ∧ bytesNat bs 20 4 = d1 % 2 ^ 32 ∧ bytesNat bs 24 4 = d2 % 2 ^ 32 ∧ bytesNat bs 28 4 = d3 % 2 ^ 32 := by
  intro bs
  have marks : (phaseBit s.ev.log2 s.ev.tail + 2 * b2n s.evFlag) % 256 ^ 1 =
      (if s.ev.tail / 2 ^ s.ev.log2 % 2 = 0 then 1 else 0) + (if s.evFlag = true then 2 else 0) := by
    rw [phaseBit_eq, b2n]
    split <;> split <;> rfl
  refine ⟨bytesNat_first .., ?_, Eq.trans ?_ marks, ?_, ?_, ?_, ?_, ?_, ?_⟩ <;>
    simp [bs, eventBytes, bytesNat_later, bytesNat_first, bytesNat_toLe, timeNs, Nat.shiftRight_eq_div_pow]

theorem events_sent {t : State} (h : SentOnly s t) : t.ev = s.ev ∧ t.evFlag = s.evFlag ∧ t.evLost = s.evLost := by
  obtain ⟨_, _, rfl⟩ := h; exact ⟨rfl, rfl, rfl⟩

/-- An interrupt that may follow what has been sent. -/
theorem linkIrq_mayFollow {o : Out} (h : Sent s o) (irq : Bool) (v : Nat) :
    SentOnly s (if irq = true then linkIrq s v else s) ∧ Sent (if irq = true then linkIrq s v else s) o := by
  cases irq with
  | false => exact ⟨sentOnly_refl s, h⟩
  | true => exact ⟨linkIrq_sent s v, linkIrq_keeps v h⟩

theorem postEvent_taken (takes : TakesEvents s.ev) : let t := postEvent s code die d0 d1 d2 d3
    t.ev.tail = (s.ev.tail + 1) % 2 ^ 32 ∧ t.evFlag = false ∧ t.evLost = s.evLost ∧
    Sent t (.store (s.ev.base + 32 * (s.ev.tail % 2 ^ s.ev.log2)) (eventBytes s code die d0 d1 d2 d3)) := by
  obtain ⟨en, running, room⟩ := takes
  have taken : (!s.ev.en || s.ev.state == 3 || !ringRoom s.ev) = false := by rw [en, beq_false_of_ne running, room]; rfl
  obtain ⟨tail, -⟩ := countRecord_tail { s.ev with tail := (s.ev.tail + 1) % 2 ^ 32, coalN := 1 }
  simp only [postEvent, taken, Bool.false_eq_true, if_false, List.append_assoc]
  generalize countRecord { s.ev with tail := (s.ev.tail + 1) % 2 ^ 32, coalN := 1 } = counted at *
  have stored := linkStore_sent { s with ev := { counted.1 with coalN := s.ev.coalN }, evFlag := false }
    (s.ev.base + 32 * (s.ev.tail % 2 ^ s.ev.log2)) (eventBytes s code die d0 d1 d2 d3)
  obtain ⟨only, sent⟩ := linkIrq_mayFollow (linkStore_sends { s with ev := { counted.1 with coalN := s.ev.coalN }, evFlag := false }
    (s.ev.base + 32 * (s.ev.tail % 2 ^ s.ev.log2)) (eventBytes s code die d0 d1 d2 d3)) counted.2 s.ev.vector
  obtain ⟨ev, flag, lost⟩ := events_sent (sentOnly_trans stored only)
  exact ⟨(congrArg ComRing.tail ev).trans tail, flag, lost, sent⟩

theorem postEvent_dropped (full : ¬TakesEvents s.ev) :
    postEvent s code die d0 d1 d2 d3 = { s with evLost := satInc (2 ^ 32 - 1) s.evLost, evFlag := true } := by
  refine if_pos ?_
  simpa [TakesEvents, or_iff_not_imp_left] using full

end

/-- Settles O26: an event is written where the ring takes it (postEvent_taken), field by field (eventBytes_fields), else it is dropped. -/
theorem eventsAreRecordedOrCounted : Obligations.EventsAreRecordedOrCounted := by
  intro s code die d0 d1 d2 d3 r t
  refine ⟨postEvent_dies .., fun en running room => ?_, fun full => ?_⟩
  · obtain ⟨tail, flag, lost, sent⟩ := postEvent_taken (code := code) (die := die) (d0 := d0) (d1 := d1) (d2 := d2) (d3 := d3) ⟨en, running, room⟩
    exact ⟨tail, flag, lost, _, eventBytes_length .., sent, eventBytes_fields ..⟩
  · have dropped : t = { s with evLost := satInc (2 ^ 32 - 1) s.evLost, evFlag := true } := postEvent_dropped full
    rw [dropped]
    exact ⟨rfl, rfl, rfl, rfl⟩

end Sys2Proof.Proofs
end

section
/-! PROOFS. Doorbells and the configuration words of rings. -/

namespace Sys2Proof.Proofs

open Sys2Proof.Machine Sys2Proof.Laws

/-! Doorbells (R361, R365, R366) -/

section
variable {s : State} {q : Nat} {v : Word32} (up : regsUp s = true) (hq : q < 256)
include up hq

theorem exec_sqTailWrite_of (runs : (getSq s q).state = 1) (moves : v.toNat ≠ (getSq s q).tail) : exec (.sqTailWrite q v) s =
    .next (if (v.toNat + 2 ^ 32 - (getSq s q).tail) % 2 ^ 32 ≤ 2 ^ (getSq s q).log2 - ((getSq s q).tail + 2 ^ 32 - (getSq s q).head) % 2 ^ 32
      then setSq s q { getSq s q with tail := v.toNat } else ringError (setSq s q { getSq s q with state := 3, err := 3 }) false q 3) := by
  refine congrArg Host.Outcome.next (if_neg ?_)
  simp [up, hq, runs, moves]

theorem exec_cqHeadWrite_of (runs : (getCq s q).state = 1 ∨ (getCq s q).state = 2) (moves : v.toNat ≠ (getCq s q).head) :
    exec (.cqHeadWrite q v) s = .next (headTells (setCq s q (moveHead (getCq s q) v.toNat)) (getCq s q) q v.toNat) := by
  have going : ((getCq s q).state == 1 || (getCq s q).state == 2) = true := by simpa only [Bool.or_eq_true, beq_iff_eq] using runs
  show Host.Outcome.next (cqHead q v s) = _
  simp only [cqHead, up, Nat.ne_of_lt hq, Nat.lt_asymm hq, going, beq_false_of_ne moves, Bool.not_true, Bool.or_self, Bool.false_eq_true, if_false]

end

section
variable {s : State} {r : ComRing} {q h : Nat}

/-- R366: a head that passes the tail stops its ring, and RING_ERROR is posted. -/
theorem headTells_passed (bad : headBad r h = true) :
    headTells (setCq s q (moveHead r h)) r q h = ringError (setCq s q { r with state := 3, err := 3 }) true q 3 := by
  rw [headTells, moveHead, if_pos bad, if_pos bad]

/-- R366: a head within the records moves, and neither the tail nor the state. -/
theorem moveHead_free (good : headBad r h = false) : (moveHead r h).head = h ∧ (moveHead r h).tail = r.tail ∧ (moveHead r h).state = r.state := by
  rw [moveHead, good]; exact ⟨rfl, rfl, rfl⟩

/-- R366: a head within the records raises a new interrupt where records are left after one. -/
theorem headTells_free {t : State} (good : headBad r h = false) :
    headTells t r q h = if r.ien = true ∧ r.armed = false ∧ h ≠ r.tail then linkIrq t r.vector else t := by
  rw [headTells, good, if_neg Bool.false_ne_true]
  exact if_congr (by simp only [headAgain, Bool.and_eq_true, Bool.not_eq_true', bne_iff_ne, and_assoc]) rfl rfl

section
variable (s) (irq : Prop) [Decidable irq] (v : Nat)

theorem linkIrq_if_sent : SentOnly s (if irq then linkIrq s v else s) := by
  split
  · exact linkIrq_sent s v
  · exact sentOnly_refl s

/-- R355: what an interrupt leaves on the link, or waiting for it. -/
theorem linkIrq_if_puts : let t := if irq then linkIrq s v else s
    let told := if irq then [Out.interrupt v] else []
    if s.itgLost then t.out = s.out ∧ t.itgWait = s.itgWait ++ told.map (fun o => (s.now, o)) else t.out = s.out ++ told := by
  by_cases h : irq
  · cases lost : s.itgLost <;> simp [h, linkIrq, lost]
  · cases lost : s.itgLost <;> simp [h]

end

end

/-- Settles O27: SQ_TAIL is exec_sqTailWrite_of; a head that passes the tail stops its ring (headTells_passed), any other moves it. -/
theorem doorbellsMoveRingsWithinTheirRoom : Obligations.DoorbellsMoveRingsWithinTheirRoom := by
  intro s q v up hq
  refine ⟨fun runs moves => exec_sqTailWrite_of up hq runs moves, fun runs moves => ⟨fun passes => ?_, fun within => ?_⟩⟩
  · exact (exec_cqHeadWrite_of up hq runs moves).trans (congrArg _ (headTells_passed (decide_eq_true passes)))
  · have good : headBad (getCq s q) v.toNat = false := decide_eq_false (Nat.not_lt.2 within)
    obtain ⟨head, tail, state⟩ := moveHead_free good
    refine ⟨_, (exec_cqHeadWrite_of up hq runs moves).trans (congrArg _ (headTells_free good)), ?_, ?_, ?_, linkIrq_if_puts (setCq s q _) _ _⟩ <;>
      rw [getCq_sent (linkIrq_if_sent ..), getCq_setCq_same] <;> assumption

/-! Rings that settle (R376) -/

section
variable {s : State} {q : Nat} {v : Word32}

/-- R376: whether something accepted, or its record that waits, names submission ring q. -/
def sqNamed (s : State) (q : Nat) : Bool :=
  s.ops.any (fun o => o.sq == q) || s.ctxs.any (fun c => c.sq == q) || s.recs.any (fun r => r.sq == q && decide (r.source ≤ 1))

/-- R376: whether a job of a core that no descriptor started names completion ring q. -/
def jobNamed (q : Nat) (j : Job) : Bool := j.op.isNone && j.cq == q

/-- R376: whether a core's jobs name completion ring q. -/
def coreNamed (q : Nat) (k : Core) : Bool :=
  k.jobs.any (jobNamed q) || (match k.run with | some r => jobNamed q r.job | none => false)

/-- R376: whether a die's jobs or engine requests name completion ring q. -/
def dieNamed (q : Nat) (x : Die) : Bool :=
  x.cores.any (fun k => coreNamed q k.2) || x.engs.any (fun e => ringReq e.req q) || x.topk.any (fun t => ringReq t.2.req q)

/-- R376: whether something accepted, or a record that waits, names completion ring q. -/
def cqNamed (s : State) (q : Nat) : Bool :=
  s.ops.any (fun o => o.cq == q) || s.recs.any (fun r => r.cq == q) || s.ctxs.any (fun c => c.cq == q)
    || s.engWait.any (fun e => ringReq e.req q) || s.dies.any (fun x => dieNamed q x.2)

/-- R376: a submission ring after the rings settle. -/
def settledSq (named : Bool) (r : SubRing) : SubRing :=
  if r.state == 2 && !named then (if r.en then startSq r else { r with state := 0 }) else r

/-- R376: a completion ring after the rings settle. -/
def settledCq (named : Bool) (r : ComRing) : ComRing := if r.state == 2 && !named then { r with state := b2n r.en } else r

theorem getSq_settleRings_eq (s : State) (q : Nat) : getSq (settleRings s) q = settledSq (sqNamed s q) (getSq s q) := by
  simp only [getSq, settleRings, tget]
  rw [tfind_map]
  · cases tfind s.sqs q <;> rfl
  · exact fun _ => rfl

theorem getCq_settleRings_eq (s : State) (q : Nat) : getCq (settleRings s) q = settledCq (cqNamed s q) (getCq s q) := by
  simp only [getCq, settleRings, tget]
  rw [tfind_map]
  · cases tfind s.cqs q <;> rfl
  · exact fun _ => rfl

theorem settledSq_running {named : Bool} {r : SubRing} (runs : r.state = 1) : settledSq named r = r := by
  rw [settledSq, runs]; rfl

theorem settledCq_running {named : Bool} {r : ComRing} (runs : r.state = 1) : settledCq named r = r := by
  rw [settledCq, runs]; rfl

/-! What names a ring -/

theorem sqNamed_of_op (there : ∃ o ∈ s.ops, o.sq = q) : sqNamed s q = true := by
  have op : s.ops.any (fun o => o.sq == q) = true := by simpa using there
  rw [sqNamed, op]; rfl

theorem sqNamed_false (ops : ∀ o ∈ s.ops, o.sq ≠ q) (ctxs : ∀ x ∈ s.ctxs, x.sq ≠ q) (recs : ∀ x ∈ s.recs, x.sq ≠ q ∨ 1 < x.source) :
    sqNamed s q = false := by
  have waiting : ∀ x ∈ s.recs, x.sq = q → 1 < x.source := fun x hx same => (recs x hx).resolve_left (not_not_intro same)
  simpa [sqNamed] using ⟨⟨ops, ctxs⟩, waiting⟩

theorem cqNamed_of_work (there : (∃ o ∈ s.ops, o.cq = q) ∨ (∃ x ∈ s.recs, x.cq = q) ∨ (∃ x ∈ s.ctxs, x.cq = q)) : cqNamed s q = true := by
  have work : (s.ops.any (fun o => o.cq == q) || s.recs.any (fun r => r.cq == q) || s.ctxs.any (fun c => c.cq == q)) = true := by
    simpa [or_assoc] using there
  rw [cqNamed, work]; rfl

theorem jobNamed_false {j : Job} (other : j.op.isSome = true ∨ j.cq ≠ q) : jobNamed q j = false := by
  rcases other with started | other
  · rw [jobNamed, Option.isNone_eq_false_iff.2 started]; rfl
  · rw [jobNamed, beq_false_of_ne other, Bool.and_false]

theorem coreNamed_false {k : Core} (jobs : ∀ j ∈ k.jobs, j.op.isSome = true ∨ j.cq ≠ q)
    (run : ∀ r, k.run = some r → r.job.op.isSome = true ∨ r.job.cq ≠ q) : coreNamed q k = false := by
  have queued : k.jobs.any (jobNamed q) = false := List.any_eq_false.2 (fun j hj => ne_true_of_eq_false (jobNamed_false (jobs j hj)))
  rw [coreNamed, queued, Bool.false_or]
  split
  · next r running => exact jobNamed_false (run r running)
  · rfl

/-- Nothing on a die names completion ring q. -/
structure DieFree (q : Nat) (x : Die) : Prop where
  engs : ∀ e ∈ x.engs, ringReq e.req q = false
  topk : ∀ e ∈ x.topk, ringReq e.2.req q = false
  cores : ∀ k ∈ x.cores, (∀ j ∈ k.2.jobs, j.op.isSome = true ∨ j.cq ≠ q) ∧ ∀ r, k.2.run = some r → r.job.op.isSome = true ∨ r.job.cq ≠ q

theorem dieNamed_false {x : Die} (free : DieFree q x) : dieNamed q x = false := by
  have cores : ∀ k ∈ x.cores, coreNamed q k.2 = false := fun k hk => coreNamed_false (free.cores k hk).1 (free.cores k hk).2
  simpa [dieNamed] using ⟨⟨fun a b h => cores (a, b) h, free.engs⟩, fun a b h => free.topk (a, b) h⟩

theorem cqNamed_false (ops : ∀ o ∈ s.ops, o.cq ≠ q) (recs : ∀ x ∈ s.recs, x.cq ≠ q) (ctxs : ∀ x ∈ s.ctxs, x.cq ≠ q)
    (wait : ∀ e ∈ s.engWait, ringReq e.req q = false) (dies : ∀ x ∈ s.dies, DieFree q x.2) : cqNamed s q = false := by
  have dies : ∀ x ∈ s.dies, dieNamed q x.2 = false := fun x hx => dieNamed_false (dies x hx)
  simpa [cqNamed] using ⟨⟨⟨⟨ops, recs⟩, ctxs⟩, wait⟩, fun a b h => dies (a, b) h⟩

/-! Configuration words (R358, R360, R376) -/

section
variable (up : regsUp s = true) (hq : q < 256)
include up hq

theorem ringCfg_reached : ¬(!regsUp s || decide (256 ≤ q)) = true := by simp [up, hq]

theorem exec_ringEnable_sq (on : bit v 31 = true) : exec (.ringEnable 0 q v) s = .next (sqCfgWrite s q v) :=
  congrArg Host.Outcome.next ((if_pos on).trans (if_neg (ringCfg_reached up hq)))

theorem exec_ringEnable_cq (on : bit v 31 = true) : exec (.ringEnable 1 q v) s = .next (cqCfgWrite s q v) :=
  congrArg Host.Outcome.next ((if_pos on).trans (if_neg (ringCfg_reached up hq)))

theorem exec_ringEnable_ev (on : bit v 31 = true) : exec (.ringEnable 2 q v) s = .next (evCfgWrite s v) :=
  congrArg Host.Outcome.next ((if_pos on).trans (if_neg (ringCfg_reached up hq)))

theorem exec_ringDisable_sq (off : bit v 31 = false) : exec (.ringDisable 0 q v) s = .next (sqCfgWrite s q v) :=
  congrArg Host.Outcome.next ((if_neg (ne_true_of_eq_false off)).trans (if_neg (ringCfg_reached up hq)))

theorem exec_ringDisable_cq (off : bit v 31 = false) : exec (.ringDisable 1 q v) s = .next (cqCfgWrite s q v) :=
  congrArg Host.Outcome.next ((if_neg (ne_true_of_eq_false off)).trans (if_neg (ringCfg_reached up hq)))

theorem exec_ringDisable_ev (off : bit v 31 = false) : exec (.ringDisable 2 q v) s = .next (evCfgWrite s v) :=
  congrArg Host.Outcome.next ((if_neg (ne_true_of_eq_false off)).trans (if_neg (ringCfg_reached up hq)))

end

/-- R360: a submission ring that EN = 1 starts. -/
theorem sqCfgWrite_starts (on : bit v 31 = true) (off : (getSq (settleRings s) q).state = 0) : ∃ r : SubRing,
    getSq (sqCfgWrite s q v) q = startSq r ∧ r.rver = fld v 15 8 ∧ r.dver = fld v 23 16 ∧ r.head = 0 ∧ r.tail = 0 ∧ r.en = true := by
  refine ⟨{ getSq (settleRings s) q with log2 := log2Value (getSq (settleRings s) q).log2 (fld v 4 0), rver := fld v 15 8, dver := fld v 23 16, en := true
                                         head := 0, tail := 0, aborts := [], quiet := [], waitPosted := false }, ?_, rfl, rfl, rfl, rfl, rfl⟩
  simp only [sqCfgWrite, off, on, if_true, Bool.not_true, Bool.false_eq_true, if_false, getSq_setSq_same]

theorem startSq_facts (r : SubRing) : (startSq r).head = r.head ∧ (startSq r).tail = r.tail ∧ (startSq r).en = r.en ∧
    (if r.rver = 0x10 ∧ r.dver = 0x10 then (startSq r).state = 1 ∧ (startSq r).err = 0 else (startSq r).state = 3 ∧ (startSq r).err = 1) := by
  have versions : (versionOk r.rver && versionOk r.dver) = true ↔ r.rver = 0x10 ∧ r.dver = 0x10 := by
    rw [Bool.and_eq_true, versionOk, versionOk, beq_iff_eq, beq_iff_eq]
  obtain ⟨st, er, e⟩ := startSq_only r
  refine ⟨by rw [e], by rw [e], by rw [e], ?_⟩
  rw [startSq, if_congr versions rfl rfl]
  split <;> exact ⟨rfl, rfl⟩

/-- R376: EN = 0 written to a running submission ring: it drains while something names it. -/
theorem sqCfgWrite_stops (off : bit v 31 = false) (runs : (getSq s q).state = 1) :
    getSq (sqCfgWrite s q v) q = settledSq (sqNamed s q) { getSq s q with en := false, state := 2 } := by
  have settled : getSq (settleRings s) q = getSq s q := (getSq_settleRings_eq s q).trans (settledSq_running runs)
  simp only [sqCfgWrite, settled, runs, off, one_ne_zero, Bool.false_eq_true, if_false]
  rw [getSq_settleRings_eq, getSq_setSq_same]; rfl

theorem sqCfgWrite_restarts (on : bit v 31 = true) (drains : (getSq (settleRings s) q).state = 2) (off : (getSq (settleRings s) q).en = false) :
    getSq (sqCfgWrite s q v) q = { getSq (settleRings s) q with en := true, head := 0, tail := 0, aborts := [], quiet := [], waitPosted := false } := by
  simp only [sqCfgWrite, drains, on, off, OfNat.ofNat_ne_zero, if_true, Bool.false_eq_true, if_false, getSq_setSq_same]

theorem cqCfgWrite_starts (on : bit v 31 = true) (off : (getCq (settleRings s) q).state = 0) : let r := getCq (cqCfgWrite s q v) q
    r.head = 0 ∧ r.tail = 0 ∧ r.en = true ∧ r.state = 1 ∧ r.err = 0 := by
  simp only [cqCfgWrite, off, on, if_true, getCq_setCq_same, and_self]

/-- R376: EN = 0 written to a running completion ring: it drains while something names it. -/
theorem cqCfgWrite_stops (off : bit v 31 = false) (runs : (getCq s q).state = 1) :
    getCq (cqCfgWrite s q v) q = settledCq (cqNamed s q) { getCq s q with en := false, state := 2 } := by
  have settled : getCq (settleRings s) q = getCq s q := (getCq_settleRings_eq s q).trans (settledCq_running runs)
  simp only [cqCfgWrite, settled, runs, off, one_ne_zero, Bool.false_eq_true, if_false]
  rw [getCq_settleRings_eq, getCq_setCq_same]; rfl

theorem evCfgWrite_starts (on : bit v 31 = true) (off : s.ev.en = false) : ∃ e, evCfgWrite s v = bootEvents { s with ev := e } ∧ e.en = true ∧ e.state = 0 ∧
    e.head = 0 ∧ e.tail = 0 ∧ e.base = s.ev.base ∧ e.ien = bit v 5 ∧ e.vector = fld v 15 8 :=
  ⟨_, (if_neg (ne_true_of_eq_false off)).trans (if_pos on), on, rfl, rfl, rfl, rfl, rfl, rfl⟩

theorem evCfgWrite_stops (off : bit v 31 = false) (on : s.ev.en = true) : evCfgWrite s v = { s with ev := { s.ev with en := false } } := by
  rw [evCfgWrite, if_pos on, off]

theorem setupLock_set (up : regsUp s = true) (lock : bit v 0 = true) : setupLock v s = { s with locked := true } :=
  if_pos (by rw [up, lock]; rfl)

end

/-- Settles O28: a configuration word starts a ring that is DISABLED, and one that runs settles by what names it (sqCfgWrite_stops, cqCfgWrite_stops). -/
theorem ringsStartDrainAndLock : Obligations.RingsStartDrainAndLock := by
  intro s q v up hq
  refine ⟨fun on off => ?_, fun on off => ?_, fun off runs there => ?_, fun off runs ops ctxs recs => ?_, fun off runs there => ?_,
    fun off runs ops recs ctxs wait dies => ?_, fun on off => ?_, fun off on => ?_, fun on drains off => ?_, fun lock => ?_⟩
  · obtain ⟨r, new, rver, dver, head, tail, en⟩ := sqCfgWrite_starts on off
    obtain ⟨startHead, startTail, startEn, start⟩ := startSq_facts r
    rw [rver, dver] at start
    refine ⟨_, exec_ringEnable_sq up hq on, ?_⟩
    rw [new]
    exact ⟨startHead.trans head, startTail.trans tail, startEn.trans en, start⟩
  · exact ⟨_, exec_ringEnable_cq up hq on, cqCfgWrite_starts on off⟩
  · have new := sqCfgWrite_stops off runs
    rw [sqNamed_of_op there] at new
    exact ⟨_, exec_ringDisable_sq up hq off, congrArg SubRing.state new, congrArg SubRing.en new⟩
  · have new := sqCfgWrite_stops off runs
    rw [sqNamed_false ops ctxs recs] at new
    exact ⟨_, exec_ringDisable_sq up hq off, congrArg SubRing.state new, congrArg SubRing.en new⟩
  · have new := cqCfgWrite_stops off runs
    rw [cqNamed_of_work there] at new
    exact ⟨_, exec_ringDisable_cq up hq off, new⟩
  · have new := cqCfgWrite_stops off runs
    rw [cqNamed_false ops recs ctxs wait (fun x hx => let ⟨engs, topk, cores⟩ := dies x hx; ⟨engs, topk, cores⟩)] at new
    exact ⟨_, exec_ringDisable_cq up hq off, new⟩
  · obtain ⟨e, new, ring⟩ := evCfgWrite_starts on off
    exact ⟨e, (exec_ringEnable_ev up hq on).trans (congrArg _ new), ring⟩
  · exact (exec_ringDisable_ev up hq off).trans (congrArg _ (evCfgWrite_stops off on))
  · have new := sqCfgWrite_restarts on drains off
    exact ⟨_, exec_ringEnable_sq up hq on, (congrArg SubRing.state new).trans drains, congrArg SubRing.en new, congrArg SubRing.head new,
      congrArg SubRing.tail new⟩
  · exact congrArg Host.Outcome.next (setupLock_set up lock)

end Sys2Proof.Proofs
end

section
/-! PROOFS. The acceptance of descriptors and the round robin of the rings. -/

namespace Sys2Proof.Proofs

open Sys2Proof.Machine Sys2Proof.Laws

/-! Acceptance and turns (R361, R364, R368, R369) -/

section
variable {s : State} {q : Nat} {desc : Word512} {ext : List Host.Cell}

/-- R361: acceptance moves the ring's head on, and no other ring. -/
theorem getSq_accepted (s : State) (q : Nat) (desc : Word512) (ext : List Host.Cell) : let a := accepted s q desc ext
    (getSq a q).head = ((getSq s q).head + 1) % 2 ^ 32 ∧ (getSq a q).tail = (getSq s q).tail ∧ ∀ p, p ≠ q → getSq a p = getSq s p := by
  obtain ⟨r, head, tail, rings⟩ : ∃ r : SubRing, r.head = ((getSq s q).head + 1) % 2 ^ 32 ∧ r.tail = (getSq s q).tail ∧
      ∀ p, getSq (accepted s q desc ext) p = if p = q then r else getSq s p := by
    refine ⟨_, ?_, ?_, fun p => (getSq_sent (accepted_sent s q desc ext) p).trans (getSq_setSq _ q p _)⟩ <;> rfl
  refine ⟨?_, ?_, fun p other => (rings p).trans (if_neg other)⟩
  · rw [rings, if_pos rfl, head]
  · rw [rings, if_pos rfl, tail]

theorem accepted_lists (s : State) (q : Nat) (desc : Word512) (ext : List Host.Cell) :
    (accepted s q desc ext).ops = s.ops ++ [newOp s q desc ext] ∧ (accepted s q desc ext).sqTurn = (q + 1) % 256 := by
  obtain ⟨_, _, e⟩ := accepted_sent s q desc ext
  rw [e]; exact ⟨rfl, rfl⟩

/-- R361: a ring before which another one with work stands in the round robin is not served. -/
theorem sqServes_behind {e : Nat × SubRing} (listed : e ∈ s.sqs) (runs : e.2.state = 1) (work : e.2.head ≠ e.2.tail)
    (first : (e.1 + 256 - s.sqTurn) % 256 < (q + 256 - s.sqTurn) % 256) : sqServes s q = false := by
  have ahead : s.sqs.any (fun e => e.2.state == 1 && e.2.head != e.2.tail && decide ((e.1 + 256 - s.sqTurn) % 256 < (q + 256 - s.sqTurn) % 256)) = true :=
    List.any_eq_true.2 ⟨e, listed, by rw [runs, bne_iff_ne.2 work, decide_eq_true first]; rfl⟩
  rw [sqServes, ahead, Bool.not_true, Bool.and_false]

theorem sqServes_work (serves : sqServes s q = true) : s.phase = .up ∧ (getSq s q).state = 1 ∧ (getSq s q).head ≠ (getSq s q).tail := by
  simp only [sqServes, Bool.and_eq_true, beq_iff_eq, bne_iff_ne] at serves
  obtain ⟨⟨⟨up, runs⟩, work⟩, -⟩ := serves
  exact ⟨up, runs, work⟩

/-- An instruction that takes a descriptor, of the TYPEs that its row has or of a reserved one. -/
def Takes (i : Instr) (q : Nat) (desc : Word512) (ext : List Host.Cell) : Prop :=
  ∃ row body, ∀ s, exec i s = .next (takeDesc q desc ext row body s)

/-- Every descriptor command takes a descriptor. -/
theorem takes_of_mem {i : Instr} (mem : i ∈ [Instr.nopDescriptor q desc ext, .coreJob q desc ext, .engineOperation q desc ext, .dmaDescriptor q desc ext,
    .contextOpen q desc ext, .contextClose q desc ext, .tableUpdate q desc ext, .tableUpdateActivate q desc ext, .maintRecal q desc ext,
    .maintStackScrub q desc ext, .maintStackRepair q desc ext, .maintCore q desc ext, .maintGnd q desc ext, .maintSelftest q desc ext,
    .gateList q desc ext, .fwStage q desc ext, .fwSelect q desc ext, .fwCommitSvn q desc ext, .fwAttest q desc ext, .fwReadCert q desc ext,
    .portAdmit q desc ext, .portWithdraw q desc ext, .moduleRead q desc ext, .moduleWrite q desc ext, .abort q desc ext]) : Takes i q desc ext := by
  revert i
  simp only [List.forall_mem_cons, List.not_mem_nil, false_imp_iff, implies_true, and_true]
  and_intros <;> exact ⟨_, _, fun _ => rfl⟩

/-- What a descriptor command does with a descriptor that is not taken, or whose TYPE is reserved. -/
theorem exec_of_takes {i : Instr} (takes : Takes i q desc ext) :
    (takesNow s q desc ext = false → exec i s = .next s ∨ exec i s = .next (sqPass s q)) ∧
    (takesNow s q desc ext = false → 0x0D ≤ fld desc 7 0 → exec i s = .next (sqPass s q)) ∧
    (takesNow s q desc ext = true → 0x0D ≤ fld desc 7 0 → exec i s =
      .next (complete (accepted s q desc ext) (newOp s q desc ext) (if (getSq s q).head ∈ (getSq s q).aborts then .aborted else .badDesc) 0)) := by
  obtain ⟨row, body, run⟩ := takes
  rw [run]
  refine ⟨fun untaken => ?_, fun untaken reserved => congrArg _ (takeDesc_waits untaken (fun _ => reserved)),
    fun taken reserved => congrArg _ (takeDesc_reserved taken reserved)⟩
  unfold takeDesc
  rw [untaken]
  exact (ite_eq_or_eq ..).imp (congrArg Host.Outcome.next) (congrArg Host.Outcome.next)

end

/-- Settles O30: acceptance by getSq_accepted and accepted_lists; a command that takes no descriptor passes the turn at most (exec_of_takes). -/
theorem acceptanceTakesTheDescriptorAtTheHead : Obligations.AcceptanceTakesTheDescriptorAtTheHead := by
  intro s q desc ext r a o
  refine ⟨?_, fun e listed runs work first => ?_, fun serves => ?_, fun idle => ?_, ?_, fun i mem => exec_of_takes (takes_of_mem mem)⟩
  · obtain ⟨head, tail, others⟩ := getSq_accepted s q desc ext
    obtain ⟨ops, turn⟩ := accepted_lists s q desc ext
    obtain ⟨dies, -, -, -, -, recs⟩ := accepted_dies s q desc ext
    exact ⟨head, tail, others, ops, rfl, rfl, rfl, rfl, rfl, rfl, dies, recs, turn⟩
  · have behind := sqServes_behind listed runs work first
    exact ⟨behind, by rw [takesNow, behind, Bool.false_and]⟩
  · obtain ⟨up, runs, work⟩ := sqServes_work serves
    exact ⟨up, runs, work, if_pos serves⟩
  · exact if_neg (ne_true_of_eq_false idle)
  · intro p mem type untaken
    have own (n : Nat) (body : State → Op → State) (hn : fld desc 7 0 = n) : takeDesc q desc ext (dType desc == n) body s = sqPass s q :=
      takeDesc_waits untaken (fun other => absurd hn (beq_eq_false_iff_ne.1 other))
    revert p
    simp only [List.forall_mem_cons, List.not_mem_nil, false_imp_iff, implies_true, and_true]
    and_intros <;> exact fun type => congrArg Host.Outcome.next (own _ _ type)

end Sys2Proof.Proofs
end

section
/-! PROOFS. Maintenance and gate-list descriptors. -/

namespace Sys2Proof.Proofs

open Sys2Proof.Machine Sys2Proof.Laws

/-! Maintenance (R370, R446, R447) -/

section
variable {s : State} {q : Nat} {desc : Word512} {ext : List Host.Cell}

/-- R446: the request for a hoop that a maintenance descriptor makes. -/
def maintReq (o : Op) (act d unit arg : Nat) : HoopReq :=
  { act := act, dies := [d], op := some o.id, die := d, unit := if act = 2 then unit % 96 else unit, arg := arg }

/-- Table 15-10: the operation with the total of its activity. -/
def maintSized (s : State) (o : Op) (act d unit arg : Nat) : Op := { o with total := maintTotal s act d unit arg }

/-- The state whose list has that total. -/
def maintBegun (s : State) (o : Op) (act d unit arg : Nat) : State := updOp s o.id (fun p => { p with total := maintTotal s act d unit arg })

section
variable {a : State} {o : Op} {wait : Bool} {act d unit arg : Nat}

theorem maintain_badFormat (bad : maintOk a act d unit arg = false) : maintain a o wait act d unit arg = complete a o .badFormat 0 := by
  simp only [maintain, bad, Bool.not_false, if_true]

theorem maintain_unreachable (ok : maintOk a act d unit arg = true) (gone : linkReaches a d = false) :
    maintain a o wait act d unit arg = complete a o .dieUnreachable 0 := by
  simp only [maintain, ok, gone, Bool.not_true, Bool.not_false, Bool.false_eq_true, if_false, if_true]

/-- R371: a maintenance descriptor that nothing refuses asks for its die's hoop; of a self-test the unit is neither a port nor fenced. -/
theorem maintain_asks (ok : maintOk a act d unit arg = true) (reach : linkReaches a d = true)
    (works : act = 6 → unit / 65536 ≠ 4 ∧ selfFenced a d (unit / 65536) (unit % 65536) = false) : maintain a o wait act d unit arg =
      hoopAsk (maintBegun a o act d unit arg) (maintSized a o act d unit arg) wait (maintReq o act d unit arg) := by
  have notPort (away : Prop) : ¬(act = 6 ∧ unit / 65536 = 4 ∧ away) := fun ⟨test, port, _⟩ => (works test).1 port
  have notFenced : ¬(act = 6 ∧ selfFenced a d (unit / 65536) (unit % 65536) = true) :=
    fun ⟨test, fenced⟩ => ne_true_of_eq_false (works test).2 fenced
  simp only [maintain, ok, reach, notPort, notFenced, Bool.not_true, Bool.false_eq_true, if_false]
  rfl

end

/-- R370: what an asked hoop does, as the state and the request before the descriptor's acceptance give it. -/
theorem hoopAsk_maint {a : State} {o : Op} {act d unit arg : Nat} (wait : Bool) (hold : a.hoopHold = s.hoopHold) (queue : a.hoopQ = s.hoopQ) :
    let b := maintBegun a o act d unit arg
    let asked := hoopAsk b (maintSized a o act d unit arg) wait (maintReq o act d unit arg)
    (hoopBlock s act [d] true = none → asked = hoopStart b (maintReq o act d unit arg)) ∧
    (∀ e g queued, hoopBlock s act [d] true = some (e, g, queued) → asked =
      if wait = true then { updOp b o.id (fun o => { o with hoopWait := true }) with hoopQ := s.hoopQ ++ [maintReq o act d unit arg] }
      else hoopBusy b (maintSized a o act d unit arg) e g queued) := by
  intro b asked
  have block : hoopBlock b act [d] true = hoopBlock s act [d] true := hoopBlock_congr hold queue act [d] true
  obtain ⟨free, blocked⟩ := hoopAsk_cases b (maintSized a o act d unit arg) wait (maintReq o act d unit arg)
  refine ⟨fun none => free (block.trans none), fun e g queued some => ?_⟩
  rw [← queue]
  exact blocked e g queued (block.trans some)

/-- R371: a maintenance descriptor of its command's row, whose reserved fields are zero, is served. -/
theorem exec_maint_of {i : Instr} {row : Bool} (h : Accepts s q desc ext) (run : exec i s = .next (takeDesc q desc ext row maintBody s)) (mine : row = true)
    (least : 2 ≤ fld desc 135 128) (most : fld desc 135 128 ≤ 6) (clean : fld desc 159 144 = 0) (rest : fld desc 511 256 = 0) :
    exec i s = .next (maintain (accepted s q desc ext) (newOp s q desc ext) (bit desc 9) (fld desc 135 128) (fld desc 143 136) (fld desc 191 160)
      (fld desc 255 192)) := by
  have activity : ¬(fld desc 135 128 < 2 ∨ 6 < fld desc 135 128) := by omega
  have zero : ¬(fld desc 159 144 ≠ 0 ∨ fld desc 511 256 ≠ 0) := fun bad => bad.elim (· clean) (· rest)
  exact run.trans (congrArg _ ((takeDesc_of h mine).trans ((if_neg activity).trans (if_neg zero))))

theorem maintRow_true {n : Nat} {ok : Nat → Bool} (type : fld desc 7 0 = 7) (act : fld desc 135 128 = n) (unit : ok (fld desc 191 160) = true) :
    maintRow desc n ok = true := by
  have activity : dsc desc 16 1 = n := act
  have selected : ok (dsc desc 20 4) = true := unit
  have seven : dType desc = 7 := type
  rw [maintRow, activity, selected, seven, beq_self_eq_true, beq_self_eq_true]; rfl

/-! Gate lists (R309, R310) -/

/-- Tables 10-7, 10-8: a gate list in range, whose bytes have been read and whose port has none staged. -/
structure GoodList (a s1 : State) (o : Op) (ext : List Host.Cell) (bs : List Byte) (ents : List (Nat × Nat)) : Prop where
  port : fld o.desc 143 128 < 96 * ndies a.variant
  least : 1 ≤ fld o.desc 159 144
  most : fld o.desc 159 144 ≤ 256
  clean : fld o.desc 191 160 = 0
  rest : fld o.desc 511 320 = 0
  aligned : fld o.desc 255 192 % 8 = 0
  valid : timeValid a = true
  later : timeNs a (fld o.desc 143 128 / 96) + 10000 ≤ fld o.desc 319 256
  trunk : isTrunk (getDie a (fld o.desc 143 128 / 96)) (fld o.desc 143 128 % 96) = true
  there : (portWidth (getDie a (fld o.desc 143 128 / 96)) (fld o.desc 143 128 % 96)).isSome = true
  reach : linkReaches a (fld o.desc 143 128 / 96) = true
  read : devRead a (linkDie a) (fld o.desc 255 192) (8 * fld o.desc 159 144) ext = .ok (bs, s1)
  entries : gateEntries bs (fld o.desc 159 144) = (ents, false)
  fine : gateBad (getDie a (fld o.desc 143 128 / 96)) (fld o.desc 143 128 % 96) ents = false
  free : (portOf (getDie a (fld o.desc 143 128 / 96)) (fld o.desc 143 128 % 96)).staged = none

/-- R310: the list that a descriptor stages. -/
def stagedList (o : Op) (ents : List (Nat × Nat)) : GateList := { ents := ents, start := fld o.desc 319 256, op := o.id, cur := 0 }

theorem gateList_stages {a s1 : State} {o : Op} {bs : List Byte} {ents : List (Nat × Nat)} (good : GoodList a s1 o ext bs ents) : gateList a o ext =
    updPort (updOp s1 o.id (fun o => { o with begun := true })) (fld o.desc 143 128 / 96) (fld o.desc 143 128 % 96)
      (fun p => { p with staged := some (stagedList o ents) }) := by
  obtain ⟨port, least, most, clean, rest, aligned, valid, later, trunk, there, reach, read, entries, fine, free⟩ := good
  have dies : ndies a.variant ≤ 8 := by cases a.variant <;> decide
  have fields : dsc o.desc 16 2 = fld o.desc 143 128 ∧ dsc o.desc 18 2 = fld o.desc 159 144 ∧ dsc o.desc 24 8 = fld o.desc 255 192 ∧
      dsc o.desc 32 8 = fld o.desc 319 256 := ⟨rfl, rfl, rfl, rfl⟩
  have onDie : fld o.desc 143 128 / 96 < ndies a.variant := by omega
  have nearest : min (fld o.desc 143 128 / 96) (ndies a.variant - 1) = fld o.desc 143 128 / 96 := by omega
  have format : ¬(1024 ≤ fld o.desc 143 128 ∨ fld o.desc 191 160 ≠ 0 ∨ fld o.desc 511 320 ≠ 0 ∨ 256 < fld o.desc 159 144 ∨
      fld o.desc 255 192 % 8 ≠ 0) := by omega
  have isThere : (portWidth (getDie a (fld o.desc 143 128 / 96)) (fld o.desc 143 128 % 96)).isNone = false := Option.isNone_eq_false_iff.2 there
  refine (if_neg format).trans ?_
  simp only [fields, valid, nearest, Nat.not_lt.2 later, Nat.not_le.2 onDie, trunk, isThere,
    reach, Nat.ne_of_gt least, read, entries, fine, free, Bool.not_true, Bool.or_self, Bool.false_eq_true, if_false, Option.isSome_none]
  rfl

end

/-- Settles O33: a maintenance command serves its row (exec_maint_of) and asks for its die's hoop (maintain_asks); a good list is staged (gateList_stages). -/
theorem maintenanceAndGateListDescriptorsTakeEffect : Obligations.MaintenanceAndGateListDescriptorsTakeEffect := by
  intro s q desc ext h a o act d unit arg req maint
  obtain ⟨-, hold, queue, -, -⟩ := accepted_ctxs s q desc ext
  have served {i : Instr} {n : Nat} {ok : Nat → Bool} (run : exec i s = .next (takeDesc q desc ext (maintRow desc n ok) maintBody s))
      (range : 2 ≤ n ∧ n ≤ 6) (selects : ok unit = true) : maint i n := by
    intro type activity clean rest
    have run := exec_maint_of h run (maintRow_true type activity selects) (range.1.trans_eq activity.symm) (activity.trans_le range.2) clean rest
    refine ⟨fun bad => run.trans (congrArg _ (maintain_badFormat bad)), fun ok gone => run.trans (congrArg _ (maintain_unreachable ok gone)),
      fun ok reach works => ?_⟩
    obtain ⟨free, blocked⟩ := hoopAsk_maint (a := a) (o := o) (act := act) (d := d) (unit := unit) (arg := arg) (bit desc 9) hold queue
    have asks := run.trans (congrArg _ (maintain_asks ok reach works))
    exact ⟨maintBegun a o act d unit arg, maintSized a o act d unit arg, rfl, hold, queue, rfl, fun none => asks.trans (congrArg _ (free none)),
      fun e g queued some => asks.trans (congrArg _ (blocked e g queued some))⟩
  refine ⟨served rfl (by decide) rfl, served rfl (by decide) rfl, served rfl (by decide) rfl, served rfl (by decide) rfl, fun scrub => ?_, fun repair => ?_, ?_⟩
  · exact served rfl (by decide) (bne_iff_ne.2 (by omega))
  · exact served rfl (by decide) (bne_iff_ne.2 repair)
  · intro type p n bs s1 ents hp hn port least most clean rest aligned valid later trunk there reach read entries fine free
    subst hp hn
    obtain ⟨-, variant, -⟩ := accepted_dies s q desc ext
    have good : GoodList a s1 o ext bs ents :=
      ⟨variant.symm ▸ port, least, most, clean, rest, aligned, valid, later, trunk, there, reach, read, entries, fine, free⟩
    have run : exec (.gateList q desc ext) s = .next (gateList a o ext) := congrArg Host.Outcome.next (takeDesc_type h type)
    exact ⟨_, stagedList o ents, run.trans (congrArg _ (gateList_stages good)), congrArg Port.staged (getPort_updPort_same ..), rfl, rfl, rfl⟩

end Sys2Proof.Proofs
end

section
/-! PROOFS. One step: the command at the front of the queue, and what of the keep outlives it. -/

namespace Sys2Proof.Proofs

open Sys2Proof.Machine Sys2Proof.Laws

/-- What a step keeps: it takes the front of the queue, and only raises the counter. -/
theorem step_kept {s t : State} (run : step s = .next t) : ∃ n, s.keep.arb ≤ n ∧ kept t = (s.variant, s.pending.tail, n, s.keep.ident) := by
  unfold step at run
  split at run
  next idle =>
    cases run
    exact ⟨s.keep.arb, Nat.le_refl _, by rw [kept_tick, idle]; exact congrArg (fun p => (s.variant, p, _)) idle⟩
  next c rest queue =>
    rw [queue]
    exact exec_kept c { s with pending := rest } t run

/-- R480: the counter moves only by the commit of a firmware activity. -/
theorem step_raises {s t : State} (run : step s = .next t) (rises : t.keep.arb ≠ s.keep.arb) : ∃ d found ext rest h,
    s.pending = .hoopActivityCommit 7 d found ext :: rest ∧ s.hoopHold.find? (fun h => h.act == 7 && !holdOver s h) = some h ∧
      h.unit ≠ 0 ∧ h.unit ≠ 1 := by
  have arb {a b : State} (same : kept a = kept b) : a.keep.arb = b.keep.arb := congrArg (fun k => k.2.2.1) same
  unfold step at run
  split at run
  · cases run
    exact absurd (arb (kept_tick s)) rises
  next c rest queue =>
    obtain same | ⟨act, d, found, ext, rfl⟩ := exec_kept_or c { s with pending := rest } t run
    · exact absurd (arb same) rises
    · have ended : t = if act = 7 then fwCommit ext (!found.isEmpty) { s with pending := rest } else activityCommit act d found { s with pending := rest } :=
        (Host.Outcome.next.inj run).symm
      by_cases fw : act = 7
      · subst fw
        rw [if_pos rfl] at ended
        obtain ⟨h, held, stage, select⟩ := fwCommit_arb ext (!found.isEmpty) { s with pending := rest } (ended ▸ rises)
        exact ⟨d, found, ext, rest, h, queue, held, stage, select⟩
      · rw [if_neg fw] at ended
        have same : t.keep.arb = ({ s with pending := rest } : State).keep.arb := arb (ended ▸ kept_activityCommit act d found _)
        exact absurd same rises

/-- Settles O58: step takes the front of the queue by its definition, and an idle cycle is tick's 20 ns. -/
theorem aStepExecutesTheFirstWaitingCommand : Obligations.AStepExecutesTheFirstWaitingCommand := by
  refine ⟨fun s c rest => rfl, fun s idle => ⟨?_, ?_⟩, fun s nbits w => rfl⟩
  · unfold step; rw [idle]
  · unfold tick; split <;> rfl

/-- Settles O60: the parts of the keep that step_kept names, and step_raises for the counter. -/
theorem theKeepOutlivesEveryStep : Obligations.TheKeepOutlivesEveryStep := by
  constructor
  · intro v i k s t ⟨variant, ident, counter⟩ run
    obtain ⟨n, least, same⟩ := step_kept run
    simp only [kept, Prod.mk.injEq] at same
    obtain ⟨hv, -, ha, hi⟩ := same
    exact ⟨hv.trans variant, hi.trans ident, by omega⟩
  · intro s t run
    obtain ⟨n, -, same⟩ := step_kept run
    exact ⟨congrArg (fun k => k.2.1) same, step_raises run⟩

end Sys2Proof.Proofs
end

section
/-! PROOFS. What the fabric's traffic leaves alone: packets that are queued, decided, emitted and released move within the dies, the package's knots and what
leaves the package. -/

namespace Sys2Proof.Proofs

open Sys2Proof.Machine Sys2Proof.Laws

/-- A state without its dies, the package's knots, its warm groups, drawn values, events and what left or waits to leave. -/
def outside (s : State) : State :=
  { s with dies := [], pknots := [], warm := [], fresh := 0, out := [], itgWait := [], ev := State.reset.ev, evLost := 0, evFlag := false }

theorem outside_of_diesOnly {s t : State} (same : DiesOnly s t) : outside t = outside s := by
  obtain ⟨_, _, _, _, _, _, _, rfl⟩ := same; rfl

theorem time_of_outside {s t : State} (same : outside t = outside s) : t.time = s.time :=
  (congrArg State.time same : (outside t).time = (outside s).time)

theorem ctxs_of_outside {s t : State} (same : outside t = outside s) : t.ctxs = s.ctxs :=
  (congrArg State.ctxs same : (outside t).ctxs = (outside s).ctxs)

/-! Updates of dies and folds -/

@[simp] theorem outside_setDie (s : State) (d : Nat) (x : Die) : outside (setDie s d x) = outside s := rfl
@[simp] theorem outside_updDie (s : State) (d : Nat) (f : Die → Die) : outside (updDie s d f) = outside s := rfl
@[simp] theorem outside_updPort (s : State) (d l : Nat) (f : Port → Port) : outside (updPort s d l f) = outside s := rfl
@[simp] theorem outside_bump (s : State) (d n : Nat) : outside (bump s d n) = outside s := rfl
@[simp] theorem outside_joinQueue (s : State) (d o : Nat) (e : Held) : outside (joinQueue s d o e) = outside s := rfl

@[simp] theorem outside_setKnot (s : State) (d k : Nat) (n : Knot) : outside (setKnot s d k n) = outside s := by
  unfold setKnot; split <;> rfl

@[simp] theorem outside_decOpt (s : State) (d : Nat) (b : Option Nat) (g : Nat) : outside (decOpt s d b g) = outside s :=
  outside_of_diesOnly (decOpt_dies s d b g)

@[simp] theorem outside_decBuf (s : State) (d b g : Nat) : outside (decBuf s d b g) = outside s := outside_decOpt s d (some b) g

@[simp] theorem outside_event (s : State) (c d a b e f : Nat) : outside (postEvent s c d a b e f) = outside s :=
  outside_of_diesOnly (diesOnly_event s c d a b e f)

@[simp] theorem outside_timeEvent (s : State) (d sub a b : Nat) : outside (timeEvent s d sub a b) = outside s := outside_event ..

@[simp] theorem outside_foldl {α : Type} (f : State → α → State) (step : ∀ s a, outside (f s a) = outside s) (l : List α) (s : State) :
    outside (l.foldl f s) = outside s := by
  induction l generalizing s with
  | nil => rfl
  | cons a l ih => rw [List.foldl_cons, ih, step]

@[simp] theorem outside_foldUpto (n : Nat) (f : State → Nat → State) (step : ∀ s a, outside (f s a) = outside s) (s : State) :
    outside (foldUpto n s f) = outside s := outside_foldl f step _ s

/-! Packets within a die (R298 to R305) -/

@[simp] theorem outside_dropHeld (s : State) (d : Nat) (e : Held) : outside (dropHeld s d e) = outside s := outside_decOpt ..

@[simp] theorem outside_loseHeld (s : State) (d : Nat) (e : Held) : outside (loseHeld s d e) = outside s := by
  unfold loseHeld resendReq; split <;> simp

@[simp] theorem outside_discard (s : State) (d : Nat) (e : Held) (n : Nat) : outside (discard s d e n) = outside s :=
  (outside_loseHeld (bump s d n) d e).trans (outside_bump s d n)

@[simp] theorem outside_toward (s : State) (d : Nat) (e : Held) : outside (toward s d e) = outside s := by
  unfold toward
  split
  · rfl
  · split
    · rfl
    · exact outside_loseHeld s d e

@[simp] theorem outside_copyOver (s : State) (d : Nat) (e : Held) (b r : Nat) (ts : List (Nat × Hdr)) : outside (copyOver s d e b r ts) = outside s := by
  unfold copyOver; split <;> rfl

@[simp] theorem outside_copies (s : State) (d : Nat) (e : Held) (b : Nat) (ts : List (Nat × Hdr)) : outside (copies s d e b ts) = outside s := by
  unfold copies
  extract_lets up s1 s2 far
  have here : outside s2 = outside s :=
    (outside_foldl (fun s (t : Nat × Hdr) => copyHere s d e b t.1 t.2) (fun _ _ => rfl) _ s1).trans (outside_foldUpto _ (fun s _ => bump s d nDOWN) (fun _ _ => rfl) s)
  exact (outside_foldUpto _ _ (fun _ _ => outside_copyOver ..) s2).trans here

theorem outside_decideWith {consume : State → Nat → Held → State} (consumes : ∀ s d e, outside (consume s d e) = outside s) (s : State) (d : Nat) (e : Held)
    (own : Bool) (frm : Option Nat) : outside (decideWith consume s d e own frm) = outside s := by
  unfold decideWith
  extract_lets up ctx h src e2 adaptive s0
  have counted : outside s0 = outside s := by simp only [s0]; split <;> rfl
  split
  · exact outside_discard ..
  · split
    · exact outside_discard ..
    · exact counted
    · split
      · exact (consumes ..).trans counted
      · split
        · exact (outside_toward ..).trans counted
        · exact (outside_dropHeld ..).trans counted
    · extract_lets src e1 e3
      split
      · exact counted
      · split
        · exact (outside_toward ..).trans counted
        · exact (outside_dropHeld ..).trans counted

@[simp] theorem outside_launch (s : State) (d : Nat) (e : Held) (own : Bool) : outside (launch s d e own) = outside s :=
  outside_decideWith outside_dropHeld s d e own none

/-! Emission (R241, R300, R516): what an item that goes leaves -/

theorem outside_inject {s t : State} {d req refs : Nat} {p : Packet} {e : Held} (goes : inject s d p req refs = some (e, t)) : outside t = outside s := by
  unfold inject at goes
  split at goes <;> cases goes
  rfl

theorem outside_reserveAll {d req : Nat} {l : List Nat} {s t : State} {bs : List Nat} (goes : reserveAll d req l s = some (bs, t)) :
    outside t = outside s := by
  induction l generalizing s bs t with
  | nil => cases goes; rfl
  | cons n l ih =>
    unfold reserveAll at goes
    split at goes
    · cases goes
    · obtain ⟨⟨b, u⟩, rest, same⟩ := Option.map_eq_some_iff.1 goes
      cases same
      exact (ih rest).trans rfl

theorem outside_reserveRoom {s t : State} {d : Nat} {i : TxItem} (goes : reserveRoom s d i = some t) : outside t = outside s := by
  unfold reserveRoom at goes
  split at goes
  · cases goes; rfl
  · obtain ⟨⟨b, u⟩, rest, same⟩ := Option.map_eq_some_iff.1 goes
    rw [← same, outside_updDie]
    exact outside_reserveAll rest
  · cases goes; rfl

theorem outside_launchReq {s u : State} {d t id n : Nat} {p : Packet} (goes : launchReq s d t id n p = some u) : outside u = outside s := by
  obtain ⟨⟨e, v⟩, took, rfl⟩ := Option.map_eq_some_iff.1 goes
  exact (outside_toward ..).trans (outside_inject took)

theorem outside_emitReq {s u : State} {d t id : Nat} {i : TxItem} (goes : emitReq s d i t id = some u) : outside u = outside s := by
  unfold emitReq at goes
  split at goes
  · cases goes; rfl
  · split at goes
    · cases goes; rfl
    · split at goes
      · cases goes; rfl
      · split at goes
        · cases goes
        · split at goes
          · exact outside_launchReq goes
          · obtain ⟨⟨b, v⟩, room, rest⟩ := Option.bind_eq_some_iff.1 goes
            obtain ⟨_, _, same⟩ := Option.map_eq_some_iff.1 room
            cases same
            exact (outside_launchReq rest).trans rfl

theorem outside_emitPacket {s u : State} {d : Nat} {i : TxItem} (goes : emitPacket s d i = some u) : outside u = outside s := by
  unfold emitPacket at goes
  dsimp only at goes
  split at goes
  · cases goes
  · split at goes
    · cases goes
    · split at goes
      · next s0 _ reserved =>
        have room := outside_reserveRoom reserved
        split at goes
        · cases goes
        · next e s1 took =>
          have buffered : outside s1 = outside s := by
            split at took
            · rw [← (Prod.mk.inj (Option.some.inj took)).2]; exact room
            · exact (outside_inject took).trans room
          split at goes
          · rw [← Option.some.inj goes, outside_launch, outside_setDie, buffered]
          · rw [← Option.some.inj goes, outside_launch, buffered]
      · cases goes

theorem outside_emitLink {s u : State} {d l : Nat} {i : TxItem} (goes : emitLink s d l i = some u) : outside u = outside s := by
  unfold emitLink at goes
  split at goes
  · cases goes
  · split at goes
    · cases goes; rfl
    · obtain ⟨⟨e, v⟩, took, same⟩ := Option.map_eq_some_iff.1 goes
      rw [← same, outside_joinQueue]
      exact outside_inject took

theorem outside_emitPort {s u : State} {d l : Nat} {i : TxItem} (goes : emitPort s d l i = some u) : outside u = outside s := by
  unfold emitPort at goes
  split at goes
  · cases goes; rfl
  · split at goes
    · cases goes
    · obtain ⟨⟨e, v⟩, took, rest⟩ := Option.bind_eq_some_iff.1 goes
      have buffered := outside_inject took
      split at rest
      · obtain ⟨q, _, rfl⟩ := Option.map_eq_some_iff.1 rest
        exact (outside_launch ..).trans buffered
      · cases rest
        exact (outside_launch ..).trans buffered

theorem outside_emitItem {s u : State} {d : Nat} {i : TxItem} (goes : emitItem s d i = some u) : outside u = outside s := by
  unfold emitItem at goes
  split at goes
  · unfold emitVia at goes
    split at goes
    · exact outside_emitLink goes
    · exact outside_emitPort goes
  · exact outside_emitReq goes
  · exact outside_emitPacket goes

@[simp] theorem outside_pumpList (s : State) (d : Nat) (l : List TxItem) : outside (pumpList s d l).1 = outside s := by
  induction l generalizing s with
  | nil => rfl
  | cons i l ih =>
    unfold pumpList
    split
    · next goes => exact (ih _).trans (outside_emitItem goes)
    · exact ih s

@[simp] theorem outside_pumpDie (s : State) (d : Nat) : outside (pumpDie s d) = outside s := by
  unfold pumpDie
  split
  · rfl
  · exact outside_pumpList ..

@[simp] theorem outside_send (s : State) (d : Nat) (i : TxItem) : outside (send s d i) = outside s := outside_pumpDie ..

@[simp] theorem outside_sendUns (s : State) (d cls kind flags rest : Nat) (bs : List Byte) (bits req : Nat) :
    outside (sendUns s d cls kind flags rest bs bits req) = outside s := outside_send ..

@[simp] theorem outside_sendSync (s : State) (d kind dst seq rest : Nat) : outside (sendSync s d kind dst seq rest) = outside s := by
  unfold sendSync; split
  · rfl
  · exact outside_send ..

/-! Collective packets of a home (R249, R282) -/

@[simp] theorem outside_treeCopies (s : State) (d : Nat) (c : Ctx) (e : Held) (b : Nat) (frm : Option Nat) :
    outside (treeCopies s d c e b frm) = outside s := by
  unfold treeCopies; split
  · rfl
  · exact (outside_copies ..).trans (outside_foldl (fun s _ => bump s d nNOROUTE) (fun _ _ => rfl) _ s)

@[simp] theorem outside_memberCopies (s : State) (d : Nat) (c : Ctx) (e : Held) (b : Nat) : outside (memberCopies s d c e b) = outside s := by
  unfold memberCopies
  extract_lets ports s0 s1
  have sent : outside s1 = outside s := (outside_foldl _ (fun _ _ => outside_sendUns ..) _ _).trans (outside_copies ..)
  split
  · rfl
  · exact sent

@[simp] theorem outside_downSend (s : State) (d : Nat) (c : Ctx) (p : Packet) (b : Nat) : outside (downSend s d c p b) = outside s := by
  unfold downSend
  extract_lets s1 w
  have copied : outside s1 = outside s := outside_treeCopies ..
  split <;> exact copied

theorem outside_pipeBuf {s t : State} {d n b : Nat} (got : pipeBuf s d n = some (b, t)) : outside t = outside s := by
  unfold pipeBuf at got
  split at got <;> cases got
  rfl

@[simp] theorem outside_downTry (s : State) (d : Nat) (r : CollRec) : outside (downTry s d r) = outside s := by
  unfold downTry
  split
  · rfl
  · split
    · rfl
    · split
      · rfl
      · next got => simp [outside_pipeBuf got]

@[simp] theorem outside_collPump (s : State) : outside (collPump s) = outside s :=
  outside_foldUpto _ _ (fun _ _ => outside_foldl _ (fun _ _ => outside_downTry ..) _ _) s

/-! Knots (R389, R394, R395) -/

@[simp] theorem outside_releaseGen (s : State) (d k res : Nat) : outside (releaseGen s d k res) = outside s :=
  (outside_foldl _ (fun _ _ => by dsimp only; split <;> rfl) _ _).trans (outside_setKnot ..)

@[simp] theorem outside_releaseUntimed (s : State) (d k : Nat) : outside (releaseUntimed s d k) = outside s := outside_releaseGen ..

@[simp] theorem outside_armRelease (s : State) (d k t : Nat) (timed late : Bool) : outside (armRelease s d k t timed late) = outside s := by
  unfold armRelease
  extract_lets n s1
  split
  · exact outside_setKnot ..
  · split
    · exact outside_releaseUntimed ..
    · split
      · simp [s1]
      · exact outside_setKnot ..

@[simp] theorem outside_homeCount (s : State) (hd k g who : Nat) : outside (homeCount s hd k g who).2 = outside s := by
  unfold homeCount
  extract_lets n counted timed t s1
  split
  · split
    · exact outside_setKnot ..
    · exact (outside_foldl _ (fun _ _ => outside_sendSync ..) _ _).trans (outside_setKnot ..)
  · split
    · exact outside_sendSync ..
    · rfl

@[simp] theorem outside_applyRelease (s : State) (k g t : Nat) (timed late : Bool) : outside (applyRelease s k g t timed late) = outside s := by
  unfold applyRelease
  extract_lets n s1
  have marked : outside s1 = outside s := outside_setKnot ..
  split
  · rfl
  · split
    · exact (outside_armRelease ..).trans marked
    · exact (outside_releaseGen ..).trans marked

@[simp] theorem outside_settleKnot (d k f : Nat) (s : State) : outside (settleKnot d k f s) = outside s := by
  induction f generalizing s with
  | zero => rfl
  | succ f ih =>
    unfold settleKnot
    extract_lets n s1
    have marked : outside s1 = outside s := outside_setKnot ..
    split
    · rfl
    · split
      · split
        · next hd _ =>
          have counted := (outside_homeCount s1 hd k (knotNext n) 32768).trans marked
          split <;> next home => rw [home] at counted; simpa [ih] using counted
        · exact (outside_sendSync ..).trans marked
      · split <;> simp [ih]

/-- R395: releases that are made at once, untimed, change no more than knots, cores and packets. -/
@[simp] theorem outside_disarmAll (s : State) : outside (disarmAll s) = outside s := by
  have one (s : State) (d k : Nat) : outside (if (getKnot s d k).armed.isEmpty then s
      else settle (foldUpto (getKnot s d k).armed.length s (fun s _ => releaseUntimed s d k)) d k) = outside s := by
    split
    · rfl
    · exact (outside_settleKnot ..).trans (outside_foldUpto _ _ (fun _ _ => outside_releaseUntimed ..) s)
  exact (outside_foldl _ (fun _ _ => one ..) _ _).trans (outside_foldUpto _ _ (fun _ _ => outside_foldl _ (fun _ _ => one ..) _ _) s)

end Sys2Proof.Proofs
end

section
/-! PROOFS. Time: measurements, PTP, link-local packets, the time registers. -/

namespace Sys2Proof.Proofs

open Sys2Proof.Machine Sys2Proof.Laws

/-! The time state (R380, R381) -/

theorem afterValid_time (was : Bool) (s : State) : (afterValid was s).time = s.time := by
  unfold afterValid
  split
  · exact time_of_outside (outside_disarmAll s)
  · rfl

theorem enterAcquire_time (s : State) (cause : Nat) : (enterAcquire s cause).time = { s.time with st := 1, good := 0, stepped := false } :=
  (afterValid_time ..).trans (timeEvent_time ..)

theorem sourceChanged_time (s : State) : (sourceChanged s).time =
    if timeSrc s = 0 then { s.time with hops := 0x3F, rootValid := false, good := 0, stepped := false, st := 0, fadj := 0 }
    else { s.time with hops := 0x3F, rootValid := false, good := 0, stepped := false, st := 1 } := by
  unfold sourceChanged
  extract_lets t
  split
  · rfl
  · split
    next acquire =>
      have kept : t.st = 1 := acquire
      rw [← kept]
    next => exact timeEvent_time ..

/-- Table 13-8: whether an offset exceeds STEP_US. -/
def farOff (s : State) (k : Int) : Bool := decide (16000 * fld (regWord (getDie s 0) rTIME_CFG) 27 20 < k.natAbs)

/-- Table 13-8: whether an offset lies within LOCK_NS. -/
def nearOff (s : State) (k : Int) : Bool := decide (k.natAbs ≤ 16 * fld (regWord (getDie s 0) rTIME_CFG) 19 10)

/-- R380, R381: what a measurement does in each time state. -/
theorem measure_eq (s : State) (k : Int) : measure s k =
    let s0 := { s with time := { s.time with offset := k } }
    let good := if nearOff s k then s.time.good + 1 else 0
    match s.time.st with
    | 1 =>
      let s1 := if !s.time.stepped || farOff s k then stepClocks { s0 with time := { s0.time with stepped := true } } (-k) else steer s0 k
      if 16 ≤ good ∧ srcAgrees s then timeEvent { s1 with time := { s1.time with st := 2, good := 0 } } 0xFF 1 (timeHops s1) 0
      else { s1 with time := { s1.time with good := good } }
    | 2 => if farOff s k then enterAcquire s0 2 else steer s0 k
    | 3 =>
      if farOff s k then enterAcquire s0 2
      else if 4 ≤ good then timeEvent { s0 with time := { s0.time with st := 2, good := 0 } } 0xFF 1 (timeHops s0) 0
      else { s0 with time := { s0.time with good := good } }
    | _ => s0 := rfl

/-- R381: an offset measured in ACQUIRE steps the counters where it is the first or far off, and steers them otherwise. -/
def acquireStep (s : State) (k : Int) : State :=
  if !s.time.stepped || farOff s k then stepClocks { s with time := { s.time with offset := k, stepped := true } } (-k)
  else steer { s with time := { s.time with offset := k } } k

theorem acquireStep_offset (s : State) (k : Int) : (acquireStep s k).time.offset = k := by
  unfold acquireStep
  split
  · rw [stepClocks_time]
  · rfl

/-- R405: OFFSET is the last measurement's. -/
theorem measure_offset (s : State) (k : Int) : (measure s k).time.offset = k := by
  rw [measure_eq]
  extract_lets s0 good
  split
  · split
    · rw [timeEvent_time]; exact acquireStep_offset s k
    · exact acquireStep_offset s k
  · split
    · rw [enterAcquire_time]
    · rfl
  · split
    · rw [enterAcquire_time]
    · split
      · rw [timeEvent_time]
      · rfl
  · rfl

/-- R380: fewer than 16 near measurements in a row leave ACQUIRE in force. -/
theorem measure_acquire {s : State} {k : Int} (acquire : s.time.st = 1) (few : s.time.good < 15) :
    measure s k = { acquireStep s k with time := { (acquireStep s k).time with good := if nearOff s k then s.time.good + 1 else 0 } } := by
  have low : ¬(16 ≤ (if nearOff s k then s.time.good + 1 else 0) ∧ srcAgrees s = true) := by split <;> omega
  rw [measure_eq]
  extract_lets s0 good
  split
  next => exact if_neg low
  next locked => rw [acquire] at locked; contradiction
  next held => rw [acquire] at held; contradiction
  next other _ _ => exact absurd acquire other

/-- R381: the first measurement after ACQUIRE is entered steps the counters by the offset. -/
theorem acquireStep_first {s : State} {k : Int} (first : s.time.stepped = false) :
    acquireStep s k = stepClocks { s with time := { s.time with offset := k, stepped := true } } (-k) := by
  unfold acquireStep
  rw [first]
  rfl

/-- R381: LOCKED steers within ±500 ppm; log entry 24. -/
theorem measure_locked {s : State} {k : Int} (locked : s.time.st = 2) (close : farOff s k = false) :
    ∃ n : Int, -42949672 ≤ n ∧ n ≤ 42949672 ∧ measure s k = { s with time := { s.time with offset := k, fadj := n }, fresh := s.fresh + 1 } := by
  refine ⟨max (-42949672) (min 42949672 (Config.servo s.fresh k)), le_max_left .., max_le (by decide) (min_le_left ..), ?_⟩
  rw [measure_eq]
  simp only [locked, close]
  rfl

/-- R380: LOCKED and HOLDOVER go back to ACQUIRE where the offset is far off. -/
theorem measure_far {s : State} {k : Int} (held : s.time.st = 2 ∨ s.time.st = 3) (far : farOff s k = true) :
    measure s k = enterAcquire { s with time := { s.time with offset := k } } 2 := by
  rw [measure_eq]
  obtain st | st := held <;> simp only [st, far, if_true]

/-- R380: the fourth near measurement in a row ends HOLDOVER. -/
theorem measure_relocks {s : State} {k : Int} (held : s.time.st = 3) (close : farOff s k = false) (near : nearOff s k = true) (good : s.time.good = 3) :
    measure s k = timeEvent { s with time := { s.time with offset := k, st := 2, good := 0 } } 0xFF 1 (timeHops s) 0 := by
  rw [measure_eq]
  simp only [held, close, near, good]
  rfl

/-! PTP (R382) -/

/-- R382: a one-step Sync of the master followed is a measurement once the delay is known. -/
theorem ptpStep_sync_offset {t : State} {m : List Byte} {dl : Int} (sync : ptpType m = 0) (mine : t.time.ptp.parent = some (ptpPort m))
    (plain : (ptpAt m 6 1).testBit 0 = false) (oneStep : (ptpAt m 6 1).testBit 1 = false) (mean : fld (regWord (getDie t 0) rTIME_PTP) 10 10 = 0)
    (src : timeSrc t = 1) (delay : t.time.ptp.delay = some dl) :
    (ptpStep t m).time.offset = (ptpNow t - ptpStamp m - ptpCorr m - dl) / 4096 := by
  have inForce : ptpDelay t = some dl := by
    unfold ptpDelay
    rw [if_neg (by rw [regFld, mean]; decide), delay]
  have followed : (t.time.ptp.parent == some (ptpPort m) && !(ptpAt m 6 1).testBit 0) = true := by rw [mine, plain]; simp
  have step : ptpStep t m = ptpSynced t (ptpStamp m) (ptpNow t) (ptpCorr m) := by
    unfold ptpStep
    simp only [sync, followed, if_true, ptpSync, oneStep, Bool.false_eq_true, if_false]
  have asks (u : State) : (ptpAsk u).time.offset = u.time.offset := by unfold ptpAsk; dsimp only; split <;> rfl
  rw [step]
  unfold ptpSynced
  simp only [inForce, src, if_true]
  exact (asks _).trans (measure_offset ..)

/-! Link-local packets (R384 to R386) -/

theorem exec_delayReq_of {s s1 : State} {d : Nat} {e : Held} (served : takeKind s d kDELAY_REQ = some (e, s1)) (port : e.inp < 96)
    (trunk : isTrunk (getDie s1 d) e.inp = true) : exec (.delayReq d) s =
      .next (drainTick (dropHeld (linkSend s1 d e.inp kDELAY_RSP (fld e.pkt.hdr 191 128 + (e.stamp % 2 ^ 32) <<< 64)) d e)) := by
  have answers : delayReqStep s1 d e = linkSend s1 d e.inp kDELAY_RSP (fld e.pkt.hdr 191 128 + (e.stamp % 2 ^ 32) <<< 64) := if_pos ⟨port, trunk⟩
  exact congrArg Host.Outcome.next ((onKind_of _ served).trans (by rw [answers]))

theorem exec_delayRsp_of {s s1 : State} {d : Nat} {e : Held} (served : takeKind s d kDELAY_RSP = some (e, s1)) (port : e.inp < 96) :
    exec (.delayRsp d) s = .next (drainTick (dropHeld (updPort s1 d e.inp (fun p => { p with
      delays := (signed 64 ((e.stamp + 2 ^ 64 * 2 - fld e.pkt.hdr 191 128 - fld e.pkt.hdr 223 192) % 2 ^ 64) :: p.delays).take 64 })) d e)) := by
  have joins : delayRspStep s1 d e = updPort s1 d e.inp (fun p => { p with
      delays := (signed 64 ((e.stamp + 2 ^ 64 * 2 - fld e.pkt.hdr 191 128 - fld e.pkt.hdr 223 192) % 2 ^ 64) :: p.delays).take 64 }) := if_pos port
  exact congrArg Host.Outcome.next ((onKind_of _ served).trans (by rw [joins]))

/-- R383: a sync flit that the package does not follow, or that did not come by the parent port, counts nowhere. -/
theorem exec_syncTime_ignored {s s1 : State} {d : Nat} {e : Held} (served : takeKind s d kSYNC_TIME = some (e, s1))
    (stray : timeSrc s1 ≠ 2 ∨ 96 ≤ e.inp ∨ parentPort s1 ≠ some (96 * d + e.inp)) : exec (.syncTime d) s = .next (drainTick (dropHeld s1 d e)) := by
  have ignored : syncStep s1 d e = s1 := if_pos stray
  exact congrArg Host.Outcome.next ((onKind_of _ served).trans (by rw [ignored]))

/-- R385: a sync flit at the parent port is a measurement at the counter value of its arrival. -/
theorem exec_syncTime_of {s s1 s2 : State} {d : Nat} {e : Held} {dl : Int} (served : takeKind s d kSYNC_TIME = some (e, s1)) (src : timeSrc s1 = 2)
    (port : e.inp < 96) (parent : parentPort s1 = some (96 * d + e.inp)) (link : linkDelay s1 d e.inp = (dl, s2)) :
    exec (.syncTime d) s = .next (drainTick (dropHeld (measure (afterValid (timeValid s1)
      { s2 with time := { s2.time with hops := min 0x3F (fld e.pkt.hdr 199 192), rootValid := bit e.pkt.hdr 200 } })
      (signed 64 ((((e.stamp : Int) - fld e.pkt.hdr 191 128 - dl) % 2 ^ 64).toNat))) d e)) := by
  have counted : ¬(timeSrc s1 ≠ 2 ∨ 96 ≤ e.inp ∨ parentPort s1 ≠ some (96 * d + e.inp)) := by
    rw [src, parent]; simp only [ne_eq, not_true_eq_false, or_false, false_or]; omega
  have measured : syncStep s1 d e = measure (afterValid (timeValid s1)
      { s2 with time := { s2.time with hops := min 0x3F (fld e.pkt.hdr 199 192), rootValid := bit e.pkt.hdr 200 } })
      (signed 64 ((((e.stamp : Int) - fld e.pkt.hdr 191 128 - dl) % 2 ^ 64).toNat)) := by
    unfold syncStep
    rw [if_neg counted, link]
  exact congrArg Host.Outcome.next ((onKind_of _ served).trans (by rw [measured]))

/-! The time registers (R379, R402, R405) -/

/-- R405: the low word is read as it is, and latches the high one. -/
theorem timeNowRead_reads {s : State} {d : Nat} (up : regsUp s = true) (reach : linkReaches s d = true) : timeNowRead d s =
    emit (updDie s d (fun x => { x with lat := tset x.lat 0 (timeNs s d >>> 32 % 2 ^ 32) })) (.data (toLe 4 (timeNs s d % 2 ^ 32))) := by
  unfold timeNowRead
  rw [notBooting up, if_neg (by decide), if_neg (by rw [up, reach]; decide)]
  rfl

/-- R379: a write of TIME_CFG that leaves the source as it is. -/
theorem timeCfgWrite_same {s : State} {v : Word32} {n : Nat} (up : regsUp s = true) (reach : linkReaches s 0 = true) (unlocked : s.locked = false)
    (value : timeCfgValue (regWord (getDie s 0) rTIME_CFG) v = n) :
    timeCfgWrite v s =
      let cfg := updDie s 0 (fun x => { x with regs := tset x.regs rTIME_CFG (BitVec.ofNat 32 n) })
      if timeSrc cfg = timeSrc s then cfg else afterValid (timeValid s) (sourceChanged cfg) := by
  unfold timeCfgWrite
  rw [if_neg (by rw [up, reach]; decide), if_neg (by rw [unlocked]; decide), value, writeLocked_open unlocked]

theorem timeCfgWrite_locked {s : State} (v : Word32) (up : regsUp s = true) (reach : linkReaches s 0 = true) (locked : s.locked = true) :
    timeCfgWrite v s = writeLocked s 0 rTIME_CFG v := by
  unfold timeCfgWrite
  rw [if_neg (by rw [up, reach]; decide), if_pos locked]

theorem dlogWrite_locked {s : State} (v : Word32) (up : regsUp s = true) (reach : linkReaches s 0 = true) (locked : s.locked = true) :
    dlogWrite v s = writeLocked s 0 rTIME_DLOG v := by
  unfold dlogWrite
  rw [if_neg (by rw [up, reach]; decide), if_pos locked]

/-- R402: the LOG and BASE fields that a write of TIME_DLOG leaves in the register. -/
def dlogFields (s : State) (v : Word32) : Nat :=
  2 * (if 6 ≤ fld v 5 1 ∧ fld v 5 1 ≤ 20 then fld v 5 1 else fld (regWord (getDie s 0) rTIME_DLOG) 5 1) + fld v 26 6 * 64

theorem dlogWrite_unlocked {s : State} (v : Word32) (up : regsUp s = true) (reach : linkReaches s 0 = true) (unlocked : s.locked = false) :
    dlogWrite v s = if logFits (getDie s 0) (BitVec.ofNat 32 (dlogFields s v)) then
        updDie s 0 (fun x => { x with regs := tset x.regs rTIME_DLOG (BitVec.ofNat 32 (dlogFields s v + fld v 0 0)) })
      else timeEvent (updDie s 0 (fun x => { x with regs := tset x.regs rTIME_DLOG (BitVec.ofNat 32 (dlogFields s v)) })) 0xFF 8 (fld v 26 6 * 64) 0 := by
  unfold dlogWrite
  rw [if_neg (by rw [up, reach]; decide), if_neg (by rw [unlocked]; decide)]
  simp only [writeLocked_open unlocked]
  rfl

/-! PTP messages (R382) and the timers (R380, R384) -/

theorem ptpMessage_dropped {s : State} {tr : Nat} {m : List Byte} (up : s.phase = .up) (alive : dieLives s 0 = true)
    (foreign : tr ≠ fld (regWord (getDie s 0) rTIME_PTP) 9 8 ∨ ptpWell m = false) :
    ptpMessage tr m s = { s with time := { s.time with ptpDrop := satInc (2 ^ 32 - 1) s.time.ptpDrop } } := by
  unfold ptpMessage
  rw [if_neg (by rw [up, alive]; decide), if_pos (foreign.imp Ne.symm (by intro ill; rw [ill]; rfl))]

theorem ptpMessage_read {s : State} {tr : Nat} {m : List Byte} (up : s.phase = .up) (alive : dieLives s 0 = true)
    (transport : tr = fld (regWord (getDie s 0) rTIME_PTP) 9 8) (well : ptpWell m = true) :
    ptpMessage tr m s = if ptpAt m 4 1 ≠ fld (regWord (getDie s 0) rTIME_PTP) 7 0 ∨ ptpAt m 0 1 / 16 ≠ 0 then s
      else ptpStep (setPtp s (ptpChoose s.time.ptp s.now)) m := by
  unfold ptpMessage
  rw [if_neg (by rw [up, alive]; decide), if_neg (by rw [transport, well]; simp)]

theorem measureTimeout_locked {s : State} (up : regsUp s = true) (locked : s.time.st = 2) : measureTimeout s =
    afterValid (timeValid s) (timeEvent { s with time := { s.time with st := 3, good := 0 } } 0xFF 2 0 0) := by
  unfold measureTimeout
  rw [if_neg (by rw [up, locked]; decide)]

theorem holdExpiry_held {s : State} (up : regsUp s = true) (held : s.time.st = 3) : holdExpiry s = enterAcquire s 1 := by
  unfold holdExpiry
  rw [if_neg (by rw [up, held]; decide)]

theorem syncSend_runs {s : State} (up : s.phase = .up) (known : timeValid s = true ∨ isRoot s = true) : syncSend s = (activeTrunks s).foldl
    (fun s (d, l) => linkSend s d l kSYNC_TIME (min 0x3F (timeHops s + 1) <<< 64 + b2n (timeRootValid s) <<< 72)) s := by
  have any : (timeValid s || isRoot s) = true := Bool.or_eq_true_iff.mpr known
  unfold syncSend
  rw [if_neg (by rw [up, any]; decide)]

theorem delaySend_runs {s : State} (up : s.phase = .up) :
    delaySend s = (activeTrunks s).foldl (fun s (d, l) => linkSend s d l kDELAY_REQ 0) s := by
  unfold delaySend
  rw [if_neg (by rw [up]; decide)]

theorem timeNowRead_booting {s : State} (d : Nat) (booting : s.phase = .booting) : timeNowRead d s = emit s (.data (toLe 4 0)) := by
  unfold timeNowRead
  rw [if_pos (by rw [booting]; decide)]

/-- Settles O50: the time states one by one, then the packets, then the registers. -/
theorem timeIsMeasuredSteppedAndRead : Obligations.TimeIsMeasuredSteppedAndRead := by
  unfold Obligations.TimeIsMeasuredSteppedAndRead
  refine ⟨fun s => ⟨?_, ?_, fun k => measure_locked, fun k => measure_far, fun k => measure_relocks, ?_, ?_, ?_, ?_, fun d => ⟨?_, ?_, ?_, ?_, ?_, ?_⟩⟩, ?_⟩
  · intro up alive tr m p t
    refine ⟨fun foreign => congrArg _ (ptpMessage_dropped up alive foreign), fun transport well domain => ?_, fun transport well domain major => ⟨?_, ?_⟩⟩
    · exact congrArg _ ((ptpMessage_read up alive transport well).trans (if_pos domain))
    · exact congrArg _ ((ptpMessage_read up alive transport well).trans (if_neg (by rintro (other | other) <;> contradiction)))
    · exact fun sync mine plain oneStep mean src dl delay => ptpStep_sync_offset (t := t) sync mine plain oneStep mean src delay
  · intro k acquire first few
    rw [measure_acquire acquire few, acquireStep_first first]
    refine ⟨?_, ?_, ?_, rfl, fun d inside => stepClocks_clock _ (-k) d inside⟩
    · exact (congrArg TimeSt.st (stepClocks_time ..)).trans acquire
    · exact congrArg TimeSt.offset (stepClocks_time ..)
    · exact congrArg TimeSt.stepped (stepClocks_time ..)
  · exact fun up locked => congrArg _ (measureTimeout_locked up locked)
  · exact fun up held => congrArg _ (holdExpiry_held up held)
  · exact fun up known => congrArg _ (syncSend_runs up known)
  · exact fun up => congrArg _ (delaySend_runs up)
  · exact fun e s1 => exec_delayReq_of
  · exact fun e s1 served port => ⟨_, _, exec_delayRsp_of served port, congrArg Port.delays (getPort_updPort_same ..), rfl⟩
  · exact fun e s1 => exec_syncTime_ignored
  · exact fun e s1 dl s2 => exec_syncTime_of
  · exact fun booting => congrArg _ (timeNowRead_booting d booting)
  · intro up reach
    refine ⟨_, congrArg Host.Outcome.next (timeNowRead_reads up reach), rfl, ?_⟩
    rw [getDie_emit, getDie_updDie_same, tget_tset_same]
  · intro s v up reach x put cfg lg n locked
    refine ⟨fun shut => ⟨?_, ?_⟩, fun unlocked same => ?_, fun unlocked changed => ⟨?_, ?_, ?_⟩, fun unlocked fits => ?_, fun unlocked out => ?_⟩
    · exact congrArg _ ((timeCfgWrite_locked v up reach shut).trans (writeLocked_shut shut ..))
    · exact congrArg _ ((dlogWrite_locked v up reach shut).trans (writeLocked_shut shut ..))
    · exact congrArg _ ((timeCfgWrite_same up reach unlocked rfl).trans (if_pos same))
    · exact congrArg _ ((timeCfgWrite_same up reach unlocked rfl).trans (if_neg changed))
    · intro free
      rw [sourceChanged_time, if_pos free]
      exact ⟨rfl, rfl⟩
    · intro source
      rw [sourceChanged_time, if_neg source]
      exact ⟨rfl, rfl⟩
    · exact congrArg _ ((dlogWrite_unlocked v up reach unlocked).trans (if_pos fits))
    · exact congrArg _ ((dlogWrite_unlocked v up reach unlocked).trans (if_neg (ne_true_of_eq_false out)))

end Sys2Proof.Proofs
end

section
/-! PROOFS. Collective contexts: the conversion of a full slot, and two contexts of one name. -/

namespace Sys2Proof.Proofs

open Sys2Proof.Machine Sys2Proof.Laws

/-! The conversion of a full slot (R206) -/

theorem chunkConvert_runs {s : State} {d : Nat} (poison : Nat) (up : s.phase = .up) (lives : dieLives s d = true)
    (codec : 2 ∉ (getDie s d).engFenced ∨ 3 ∉ (getDie s d).engFenced) (chip : (chipOfDie s d).isSome = true)
    (sends : (getDie s d).holdoff = false) (flows : stopped s = false) : chunkConvert d poison s = match readySlot s d with
    | none => s
    | some (c, t) =>
      if poison ≠ 0 then slotPoisoned s d c t (poison == 2)
      else
        match pipeBufs d ((if (convertChunk c t).1.isEmpty then [(0, [])] else pieces 4096 (convertChunk c t).1).map (fun p => p.2.length)) s with
        | none => s
        | some (bufs, s1) =>
          let ps := if (convertChunk c t).1.isEmpty then [(0, [])] else pieces 4096 (convertChunk c t).1
          let s3 := unstage (ctxMap (orStatus s1 c.id c.gen (convertChunk c t).2) c.id c.gen (fun c => { c with
            slots := c.slots.filter (fun u => u.chunk != t.chunk), emitted := sadd c.emitted t.chunk })) d t.staged
          (ps.zip bufs).zipIdx.foldl (fun s ((p, b), i) =>
            match findCtx s c.id c.gen with
            | none => decBuf s d b 13
            | some k =>
              let q := downPacket s d k kRESULT t.chunk i (i + 1 == ps.length) 0
                ((convertChunk c t).2 ||| ((match findCtx s3 c.id c.gen with | some c => c.status | none => 0) &&& 0x1E0)).toNat p.2
              decBuf (gotResult (downSend s d k q b) d k q.hdr p.2 b) d b 13) s3 := by
  have codecs : ((getDie s d).engFenced.contains 2 && (getDie s d).engFenced.contains 3) = false := by
    rw [Bool.and_eq_false_iff, List.contains_eq_mem, List.contains_eq_mem]
    simpa using codec
  have chipless : (chipOfDie s d).isNone = false := Option.isNone_eq_false_iff.2 chip
  have guard : (s.phase != .up || !dieLives s d || ((getDie s d).engFenced.contains 2 && (getDie s d).engFenced.contains 3) ||
      (chipOfDie s d).isNone || (getDie s d).holdoff || stopped s) = false := by
    rw [up, lives, codecs, chipless, sends, flows]; rfl
  unfold chunkConvert
  simp only [guard, Bool.false_eq_true, if_false] <;> rfl

/-- R208: of a chunk whose result has been taken, a further result packet only adds its conditions. -/
theorem gotResult_again {s : State} {d buf : Nat} {c : Ctx} {h : Hdr} {bs : List Byte} (got : hCHUNK h ∈ c.got) :
    gotResult s d c h bs buf = orStatus s c.id c.gen (BitVec.ofNat 32 (hCCHK h % 2 ^ 9)) := by
  have taken : (c.got.contains (hCHUNK h) || (tget c.pieces (hCHUNK h) []).any (fun p => p.1 == hPIECE h)) = true := by
    rw [List.contains_eq_mem, decide_eq_true got, Bool.true_or]
  unfold gotResult
  exact if_pos taken

/-- Table 7-5: the conditions and the chunk that a result packet of context 0 names. -/
theorem resultPacket_fields (s : State) (d w : Nat) {c : Ctx} {bs : List Byte} (id : c.id = 0) (gen : c.gen = 0) (short : bs.length < 2 ^ 16) (word : w < 2 ^ 32) :
    hCCHK (downPacket s d c kRESULT 0 0 true 0 w bs).hdr = w ∧ hCHUNK (downPacket s d c kRESULT 0 0 true 0 w bs).hdr = 0 := by
  have chip : (chipOfDie s d).getD 0 < 2 ^ 15 := by
    unfold chipOfDie
    dsimp only
    split
    · exact fld_lt _ 14 0
    · decide
  generalize source : (chipOfDie s d).getD 0 = k at chip
  generalize size : bs.length = n at short
  have header : (downPacket s d c kRESULT 0 0 true 0 w bs).hdr = BitVec.ofNat 256 (2 <<< 48 + 4 <<< 52 + kRESULT <<< 56 + n <<< 64 + 0 + k <<< 88 +
      (0 + 0 <<< 32 + 0 <<< 40 + 1 <<< 47 + 0 <<< 48 + 0 <<< 64 + w <<< 96) <<< 128) := by
    unfold downPacket mkPacket collForm
    rw [id, gen, source, size]
    rfl
  unfold hCCHK hCHUNK fld nbits
  rw [header, BitVec.toNat_ofNat]
  simp only [kRESULT, Nat.shiftLeft_eq, Nat.shiftRight_eq_div_pow]
  omega

/-! The pump of a package whose contexts wait for nothing -/

theorem localPumpAll_quiet {s : State} (waiting : ∀ c ∈ s.ctxs, c.ltaken = false) : localPumpAll s = s := by
  have nobody : s.ctxs.filter (fun c => c.opened && c.ltaken) = [] := List.filter_eq_nil_iff.2 fun c mem => by simp [waiting c mem]
  unfold localPumpAll
  rw [nobody]
  rfl

theorem ctxTell_quiet {s : State} {c : Ctx} (pen : (getSq s c.sq).pen = false) : ctxTell s c = s := by
  unfold ctxTell
  exact if_neg (by rw [pen]; simp)

theorem ctxPump_ctxs {s : State} (waiting : ∀ c ∈ s.ctxs, c.ltaken = false) (pen : ∀ q, (getSq s q).pen = false) : (ctxPump s).ctxs = s.ctxs := by
  have same : outside (collPump s) = outside s := outside_collPump s
  have rings : (collPump s).sqs = s.sqs := congrArg (·.sqs) same
  have untold (l : List Ctx) : l.foldl ctxTell (collPump s) = collPump s := by
    induction l with
    | nil => rfl
    | cons c l ih =>
      have quiet : (getSq (collPump s) c.sq).pen = false := by unfold getSq; rw [rings]; exact pen c.sq
      rw [List.foldl_cons, ctxTell_quiet quiet, ih]
  unfold ctxPump
  rw [localPumpAll_quiet waiting]
  dsimp only
  rw [untold]
  exact ctxs_of_outside same

/-! Two contexts of one identifier and generation: of the first, chunk 0 is done and the operation is TOPK; the second's slot of chunk 0, an AND's, is full -/

def twinFull : Slot := { slotNew (blockCtx (BitVec.ofNat 1024 (3 + 1 <<< 48))) 0 0 0 with arrived := [0], nan := true }
def twinAnd : Ctx := { blockCtx (BitVec.ofNat 1024 (3 + 1 <<< 48)) with opened := true, slots := [twinFull] }
def twinTopk : Ctx := { blockCtx (BitVec.ofNat 1024 (5 + 1 <<< 48)) with opened := true, got := [0] }
def twinState : State := { State.reset with
  phase := .up, variant := .tx2, ctxs := [twinTopk, twinAnd], dies := [(0, { dieReset .tx2 0 with holdoff := false, regs := [(rFAB_SELF, 0x8000)] })] }


theorem readySlot_twin : readySlot twinState 0 = some (twinAnd, twinFull) := by
  have full : (twinFull.die == 0 && twinFull.arrived.length == cNC twinAnd) = true := by decide +kernel
  have found : twinAnd.slots.find? (fun t => t.die == 0 && t.arrived.length == cNC twinAnd) = some twinFull := List.find?_cons_of_pos full
  show [twinTopk, twinAnd].findSome? _ = _
  simp only [List.findSome?_cons, found, twinTopk, blockCtx]
  rfl

theorem convertChunk_twin : (convertChunk twinAnd twinFull).1.length = 4096 := by decide +kernel

theorem pipeBufs_twin : ∃ b s1, pipeBufs 0 [4096] twinState = some ([b], s1) ∧ outside s1 = outside twinState := by
  have room : (pipeBuf twinState 0 4096).isSome = true := by decide +kernel
  obtain ⟨⟨b, s1⟩, got⟩ := Option.isSome_iff_exists.1 room
  exact ⟨b, s1, by simp only [pipeBufs, got, Option.map_some], outside_pipeBuf got⟩

/-- R206: the one result packet of a chunk goes to the box and is taken here. -/
def resultSent (s : State) (k : Ctx) (b w : Nat) (bs : List Byte) : State :=
  let q := downPacket s 0 k kRESULT 0 0 true 0 w bs
  decBuf (gotResult (downSend s 0 k q b) 0 k q.hdr bs b) 0 b 13

theorem outside_resultSent {s : State} {k : Ctx} {b w : Nat} {bs : List Byte} (id : k.id = 0) (gen : k.gen = 0) (got : 0 ∈ k.got)
    (short : bs.length < 2 ^ 16) (word : w < 2 ^ 32) : outside (resultSent s k b w bs) = outside (orStatus s 0 0 (BitVec.ofNat 32 (w % 2 ^ 9))) := by
  obtain ⟨conds, chunk⟩ := resultPacket_fields s 0 w id gen short word
  have taken := gotResult_again (s := downSend s 0 k (downPacket s 0 k kRESULT 0 0 true 0 w bs) b) (d := 0) (buf := b) (bs := bs) (by rw [chunk]; exact got)
  have sent : (downSend s 0 k (downPacket s 0 k kRESULT 0 0 true 0 w bs) b).ctxs = s.ctxs := ctxs_of_outside (outside_downSend ..)
  have same := outside_downSend s 0 k (downPacket s 0 k kRESULT 0 0 true 0 w bs) b
  unfold resultSent
  rw [outside_decBuf, taken, conds, id, gen]
  calc outside (orStatus (downSend s 0 k (downPacket s 0 k kRESULT 0 0 true 0 w bs) b) 0 0 (BitVec.ofNat 32 (w % 2 ^ 9)))
    _ = orStatus (outside (downSend s 0 k (downPacket s 0 k kRESULT 0 0 true 0 w bs) b)) 0 0 (BitVec.ofNat 32 (w % 2 ^ 9)) := rfl
    _ = orStatus (outside s) 0 0 (BitVec.ofNat 32 (w % 2 ^ 9)) := by rw [same]

/-- The contexts once the slot is converted, with the conditions w of the result packet. -/
def twinsAfter (w : Word32) : List Ctx :=
  [{ twinTopk with emitted := [0], status := w }, { twinAnd with slots := [], emitted := [0], status := w }]

/-- The first twin once the slot is converted. -/
def twinDone : Ctx := { twinTopk with emitted := [0] }

/-- The state in which the result of the slot leaves. -/
def twinConverted (s1 : State) : State :=
  unstage (ctxMap (orStatus s1 twinAnd.id twinAnd.gen (convertChunk twinAnd twinFull).2) twinAnd.id twinAnd.gen (fun c => { c with
    slots := c.slots.filter (fun u => u.chunk != twinFull.chunk), emitted := sadd c.emitted twinFull.chunk })) 0 twinFull.staged

theorem convertChunk_twin_conds : (convertChunk twinAnd twinFull).2 = 0 := by decide +kernel

theorem twinConverted_ctxs {s1 : State} (same : outside s1 = outside twinState) : (twinConverted s1).ctxs = twinsAfter 0 := by
  have ctxs : s1.ctxs = [twinTopk, twinAnd] := ctxs_of_outside same
  unfold twinConverted
  rw [convertChunk_twin_conds]
  show ((s1.ctxs.map _).map _) = _
  rw [ctxs]
  rfl

theorem ctxPump_resultSent {s1 : State} {b w : Nat} {bs : List Byte} (same : outside s1 = outside twinState) (short : bs.length < 2 ^ 16) (word : w < 2 ^ 32) :
    (ctxPump (resultSent (twinConverted s1) twinDone b w bs)).ctxs = twinsAfter (BitVec.ofNat 32 (w % 2 ^ 9)) := by
  have sent := outside_resultSent (s := twinConverted s1) (k := twinDone) (b := b) rfl rfl (List.mem_singleton.2 rfl) short word
  have ctxs : (resultSent (twinConverted s1) twinDone b w bs).ctxs = twinsAfter (BitVec.ofNat 32 (w % 2 ^ 9)) := by
    rw [ctxs_of_outside sent]
    show (twinConverted s1).ctxs.map _ = _
    rw [twinConverted_ctxs same]
    simp [twinsAfter, twinTopk, twinAnd, blockCtx]
  have sqs : (resultSent (twinConverted s1) twinDone b w bs).sqs = [] :=
    (congrArg (·.sqs) sent).trans (congrArg (·.sqs) same)
  rw [ctxPump_ctxs, ctxs]
  · rw [ctxs]
    intro c mem
    obtain rfl | rfl := by simpa [twinsAfter] using mem
    · rfl
    · rfl
  · intro q
    unfold getSq
    rw [sqs]
    rfl

/-- What the second clause of O49 says of a slot of one result packet: the packet carries the conditions of the conversion under the context found. -/
theorem one_result_of_stated (converts : Obligations.ContextsAreAdmittedAndEnd) {s s1 s3 : State} {c k : Ctx} {t : Slot} {b : Nat} {bs : List Byte}
    (up : s.phase = .up) (lives : dieLives s 0 = true) (codec : 2 ∉ (getDie s 0).engFenced) (chip : (chipOfDie s 0).isSome = true)
    (free : (getDie s 0).holdoff = false) (flows : stopped s = false) (ready : readySlot s 0 = some (c, t)) (chunk : t.chunk = 0)
    (bytes : (convertChunk c t).1 = bs) (whole : pieces 4096 bs = [(0, bs)]) (some' : bs ≠ []) (bufs : pipeBufs 0 [bs.length] s = some ([b], s1))
    (freed : s3 = unstage (ctxMap (orStatus s1 c.id c.gen (convertChunk c t).2) c.id c.gen
      (fun c => { c with slots := c.slots.filter (fun u => u.chunk != t.chunk), emitted := sadd c.emitted t.chunk })) 0 t.staged)
    (found : findCtx s3 c.id c.gen = some k) :
    ∃ w, ctxPump (resultSent s3 k b ((convertChunk c t).2 ||| (k.status &&& 0x1E0)).toNat bs) = ctxPump (resultSent s3 k b ((convertChunk k t).2 ||| w).toNat bs) := by
  obtain ⟨-, convert, -⟩ := converts
  obtain ⟨-, convert⟩ := convert s 0 up lives (.inl codec) chip free flows 0
  obtain ⟨-, good⟩ := convert c t ready
  obtain ⟨-, sends⟩ := good rfl
  rw [bytes, if_neg some', whole] at sends
  obtain ⟨s3', w, at3, stated⟩ := sends [b] s1 bufs
  obtain rfl : s3' = s3 := at3.trans freed.symm
  have modelled : exec (.chunkResultConvert 0 0) s = .next (ctxPump (chunkConvert 0 0 s)) := rfl
  have filled : bs.isEmpty = false := List.isEmpty_eq_false_iff.2 some'
  rw [modelled, chunkConvert_runs 0 up lives (.inl codec) chip free flows, ready] at stated
  simp only [bytes, filled, whole, bufs, ne_eq, not_true_eq_false, if_false, Bool.false_eq_true, List.map_cons, List.map_nil, ← freed] at stated
  simp only [List.zip_cons_cons, List.zip_nil_left, List.zipIdx_cons, List.zipIdx_nil, List.foldl_cons, List.foldl_nil, found, chunk] at stated
  exact ⟨w, Host.Outcome.next.inj stated⟩

theorem findCtx_twinConverted {s1 : State} (same : outside s1 = outside twinState) : findCtx (twinConverted s1) twinAnd.id twinAnd.gen = some twinDone := by
  unfold findCtx
  rw [twinConverted_ctxs same]
  exact List.find?_cons_of_pos rfl

theorem pieces_twin : pieces 4096 (convertChunk twinAnd twinFull).1 = [(0, (convertChunk twinAnd twinFull).1)] := by
  unfold pieces
  rw [convertChunk_twin, show upto (cdiv 4096 4096) = [0] by decide]
  simp only [List.map_cons, List.map_nil, Nat.mul_zero, List.drop_zero, List.take_of_length_le (le_of_eq convertChunk_twin)]

/-- The conversion of the AND's slot under the first twin's operation: TOPK has seen a NaN. -/
theorem convertChunk_twinDone : (convertChunk twinDone twinFull).2 = cNAN := by decide +kernel

/-- Refutes O49: where two contexts have one identifier and generation, the statement takes the conditions of the conversion under the first context's
operation, the model under that of the context whose slot is full: a TOPK's NaN condition reaches the first context's status in the statement alone. -/
theorem not_contextsAreAdmittedAndEnd : ¬ Obligations.ContextsAreAdmittedAndEnd := by
  intro stated
  have lives : dieLives twinState 0 = true := by decide +kernel
  have codec : 2 ∉ (getDie twinState 0).engFenced := by decide +kernel
  have chip : (chipOfDie twinState 0).isSome = true := by decide +kernel
  have flows : stopped twinState = false := by decide +kernel
  obtain ⟨b, s1, bufs, same⟩ := pipeBufs_twin
  generalize bytes : (convertChunk twinAnd twinFull).1 = bs
  have size : bs.length = 4096 := bytes ▸ convertChunk_twin
  have whole : pieces 4096 bs = [(0, bs)] := bytes ▸ pieces_twin
  have some' : bs ≠ [] := List.ne_nil_of_length_pos (by rw [size]; decide)
  obtain ⟨w, sent⟩ := one_result_of_stated stated rfl lives codec chip rfl flows readySlot_twin rfl bytes whole some' (by rw [size]; exact bufs)
    (s3 := twinConverted s1) rfl (findCtx_twinConverted same)
  have short : bs.length < 2 ^ 16 := by rw [size]; decide
  have ctxs := congrArg State.ctxs sent
  rw [ctxPump_resultSent same short (BitVec.isLt _), ctxPump_resultSent same short (BitVec.isLt _), convertChunk_twin_conds, convertChunk_twinDone] at ctxs
  have status : twinDone.status = 0 := rfl
  have word : BitVec.ofNat 32 (((0 : Word32) ||| (twinDone.status &&& 0x1E0)).toNat % 2 ^ 9) = BitVec.ofNat 32 ((cNAN ||| w).toNat % 2 ^ 9) :=
    congrArg Ctx.status (List.cons.inj ctxs).1
  have silent : (BitVec.ofNat 32 (((0 : Word32) ||| (twinDone.status &&& 0x1E0)).toNat % 2 ^ 9)).getLsbD 3 = false := by rw [status]; decide
  have nan : (BitVec.ofNat 32 ((cNAN ||| w).toNat % 2 ^ 9)).getLsbD 3 = true := by
    rw [BitVec.getLsbD_ofNat, Nat.testBit_mod_two_pow, BitVec.toNat_or, Nat.testBit_or, show cNAN.toNat.testBit 3 = true by decide]
    rfl
  rw [word, nan] at silent
  exact Bool.noConfusion silent

end Sys2Proof.Proofs
end

section
/-! PROOFS. Gate lists, policers' rates, histograms' areas; hoop grants, core tests and activities' commits; the drain. -/

namespace Sys2Proof.Proofs

open Sys2Proof.Machine Sys2Proof.Laws

/-! Gate lists (R311) and the clocks (log entry 20) -/

theorem reachTime_ops (s : State) (d t : Nat) : (reachTime s d t).ops = s.ops := by
  unfold reachTime
  extract_lets k pass
  have same := outside_foldUpto (ndies s.variant) (fun t e => setDie t e (pass (getDie s e) e)) (fun t e => outside_setDie ..) s
  exact congrArg (·.ops) same

/-- Log entry 20: one span passes on every die. -/
theorem reachTime_clocks {s : State} {d : Nat} (t : Nat) (inside : d < ndies s.variant) {e : Nat} (other : e < ndies s.variant) :
    ∃ k, (getDie (reachTime s d t) e).clock = ((getDie s e).clock + k) % 2 ^ 96 ∧ (getDie (reachTime s d t) d).clock = ((getDie s d).clock + k) % 2 ^ 96 := by
  obtain ⟨n, there⟩ := getDie_reachTime_each s d t e
  obtain ⟨m, here⟩ := getDie_reachTime_each s d t d
  rw [there, here, if_pos inside, if_pos other]
  exact ⟨t * 2 ^ 32 - (getDie s d).clock, rfl, rfl⟩

theorem timeNs_reachTime_ge {s : State} {d t : Nat} (inside : d < ndies s.variant) (small : t < 2 ^ 64) (clock : (getDie s d).clock < 2 ^ 96) :
    t ≤ timeNs (reachTime s d t) d := by
  have reached := clock_reachTime inside small clock
  rw [timeNs, Nat.shiftRight_eq_div_pow]
  exact (Nat.le_div_iff_mul_le (Nat.two_pow_pos 32)).2 reached

theorem clock_updPort (s : State) (d l e : Nat) (f : Port → Port) : (getDie (updPort s d l f) e).clock = (getDie s e).clock := by
  unfold updPort setPort
  rw [getDie_updDie]
  split
  · next same => rw [same]
  · rfl

theorem timeNs_updPort (s : State) (d l : Nat) (f : Port → Port) : timeNs (updPort s d l f) d = timeNs s d := by
  rw [timeNs, timeNs, clock_updPort]

theorem dieLives_lt {s : State} {d : Nat} (lives : dieLives s d = true) : d < ndies s.variant := by
  rw [dieLives, Bool.and_eq_true, decide_eq_true_eq] at lives
  exact lives.1

/-- R311: a port after its staged list takes over, at the list's start or later. -/
def gateTaken (s : State) (d l : Nat) (g : GateList) : State :=
  updPort (reachTime s d g.start) d l (fun p => { p with gate := some { g with cur := (gateAt g (timeNs (reachTime s d g.start) d)).1 }, staged := none })

theorem gateTaken_ops (s : State) (d l : Nat) (g : GateList) : (gateTaken s d l g).ops = s.ops := by
  unfold gateTaken updPort setPort
  rw [updDie_ops, reachTime_ops]

theorem gateTaken_port (s : State) (d l : Nat) (g : GateList) : (getPort (gateTaken s d l g) d l).staged = none ∧
    (getPort (gateTaken s d l g) d l).gate = some { g with cur := (gateAt g (timeNs (reachTime s d g.start) d)).1 } := by
  unfold gateTaken
  rw [getPort_updPort_same]
  exact ⟨rfl, rfl⟩

theorem gateTaken_clock (s : State) (d l e : Nat) (g : GateList) : (getDie (gateTaken s d l g) e).clock = (getDie (reachTime s d g.start) e).clock := by
  unfold gateTaken
  exact clock_updPort ..

theorem gateTakeover_takes {s : State} {d l : Nat} {g : GateList} (staged : (getPort s d l).staged = some g) (up : s.phase = .up) (lives : dieLives s d = true) :
    gateTakeover d l s = completeId (gateTaken s d l g) g.op .ok 0 := by
  have inside := dieLives_lt lives
  unfold gateTakeover
  simp only [staged]
  rw [if_neg (by simp [up, inside]), if_neg (by rw [lives]; decide)]
  rfl

theorem gateChange_changes {s : State} {d l : Nat} {g : GateList} (gate : (getPort s d l).gate = some g) (runs : dieRuns s d = true) (ents : g.ents ≠ []) :
    gateChange d l s =
      let s1 := if (gateAt g (timeNs s d)).1 = g.cur then reachTime s d (timeNs s d + (gateAt g (timeNs s d)).2.2) else s
      updPort s1 d l (fun p => { p with gate := some { g with cur := (gateAt g (timeNs s1 d)).1 } }) := by
  unfold gateChange
  simp only [gate]
  rw [if_neg (by simp [runs, ents])]

/-! Policers' rates (R307) and histograms' areas (R314) -/

theorem polRateWrite_open {s : State} {d l c : Nat} (v : Word32) (up : regsUp s = true) (reach : linkReaches s d = true) (port : l < 96) (cls : c < 7)
    (unlocked : s.locked = false) : polRateWrite d l c v s =
      let off := rSW_PORT l (0x90 + 8 * c)
      let n := rateValue (regWord (getDie s d) off) v
      let s1 := updDie s d (fun x => { x with regs := tset x.regs off (BitVec.ofNat 32 n) })
      if 65536 ≤ n then updPort s1 d l (fun p => { p with polTok := tset p.polTok c (4 * 64 * regFld (getDie s d) (rSW_PORT l (0x94 + 8 * c)) 15 0) }) else s1 := by
  unfold polRateWrite
  rw [if_neg (by simp [up, reach, port, cls])]
  dsimp only
  rw [if_neg (by rw [unlocked]; decide), writeLocked_open unlocked]

theorem histBaseWrite_open {s : State} {d : Nat} (v : Word32) (up : regsUp s = true) (reach : linkReaches s d = true) (unlocked : s.locked = false) :
    histBaseWrite d v s =
      let s1 := updDie s d (fun x => { x with regs := tset x.regs rSW_HIST_BASE (BitVec.ofNat 32 (fld v 26 6 * 64)) })
      if histFits (getDie s d) (fld v 26 6 * 64) then s1
      else postEvent (updDie s1 d (fun x => { x with regs := tset x.regs rSW_SAMPLE (regWord x rSW_SAMPLE &&& 0xFF) })) 0x0F d (fld v 26 6 * 64) 0 0 0 := by
  unfold histBaseWrite
  rw [if_neg (by rw [up, reach]; decide), if_neg (by rw [unlocked]; decide)]
  dsimp only
  rw [writeLocked_open unlocked]

/-! Hoops (R370, R427, R446) -/

theorem hoopGrant_head {s : State} {h : HoopReq} {rest : List HoopReq} (up : s.phase = .up) (queue : s.hoopQ = h :: rest) :
    hoopGrant s = if hoopBlock s h.act h.dies false = none then hoopStart { s with hoopQ := rest } h else s := by
  unfold hoopGrant
  rw [if_neg (by rw [up]; decide), queue]
  simp only [Option.isNone_iff_eq_none]

/-- R428, R448: what a find of core c's test does, and whether the core still serves. -/
def coreFound (s : State) (d c find arr col row : Nat) : Bool × State :=
  match find with
  | 0 => if thriceStruck s (getCore s d c) then substitute s d c else (true, s)
  | 1 => if arr < 2 ∧ col ≤ 32 then failColumn s d c arr col else (true, s)
  | 2 => failMemRow s d c (col % 4096) row
  | _ => substitute s d c

theorem coreFound_broken (s : State) {d c find arr col row : Nat} (broken : 3 ≤ find) : coreFound s d c find arr col row = substitute s d c := by
  obtain ⟨n, rfl⟩ := Nat.exists_eq_add_of_le' broken
  rfl

/-- R428: a test that is aborted, one that replaces the core, or one that ends with a find. -/
def coreTested (s : State) (h : HoopReq) (d find arr col row : Nat) : Bool × State :=
  if holdStop s h then (true, s) else if h.arg % 2 = 1 then substitute s d h.unit else coreFound s d h.unit find arr col row

theorem coreTest_found {s : State} {d find arr col row : Nat} {h : HoopReq}
    (held : s.hoopHold.find? (fun h => h.act == 4 && h.die == d && h.st.isNone && !holdOver s h) = some h) (up : s.phase = .up)
    (whole : (getDie s d).flt = 0) (idle : (getCore s d h.unit).run = none) :
    coreTest d find arr col row s = coreOutcome (coreTested s h d find arr col row).2 d (coreTested s h d find arr col row).1 := by
  unfold coreTest
  simp only [held]
  rw [if_neg (by rw [up, whole, idle]; decide)]
  rfl

section
variable {s : State} {h : HoopReq} {d find arr col row : Nat}

theorem coreTested_stopped (stop : holdStop s h = true) : coreTested s h d find arr col row = (true, s) := if_pos stop

theorem coreTested_replaced (goes : holdStop s h = false) (asked : h.arg % 2 = 1) : coreTested s h d find arr col row = substitute s d h.unit := by
  rw [coreTested, goes, if_neg Bool.false_ne_true, if_pos asked]

theorem coreTested_finds (goes : holdStop s h = false) (test : h.arg % 2 = 0) : coreTested s h d find arr col row = coreFound s d h.unit find arr col row := by
  rw [coreTested, goes, if_neg Bool.false_ne_true, if_neg (by omega)]

end

/-! Commits of activities (R370, R446, R447) -/

/-- R447: the end of a self-test of a kind of unit, 0 for a core. -/
def selfTested (s : State) (d : Nat) (h : HoopReq) (found : List Nat) (kind idx : Nat) : State :=
  if kind = 0 ∧ (getCore s d idx).run.isSome then s
  else
    let s1 := if kind = 0 then updCore s d idx (fun k => { k with testing := false }) else s
    if holdStop s h then hoopEnd s1 h .aborted 0
    else
      let s2 := hoopEnd s1 h (if found.isEmpty then .ok else .faulted) 1
      if found.isEmpty then s2 else selfFail s2 d kind idx found

/-- R447: a self-test of anything but a core. -/
theorem selfTested_other {s : State} {d : Nat} {h : HoopReq} {found : List Nat} {kind : Nat} (idx : Nat) (other : kind ≠ 0) : selfTested s d h found kind idx =
    if holdStop s h then hoopEnd s h .aborted 0
    else if found = [] then hoopEnd s h .ok 1 else selfFail (hoopEnd s h .faulted 1) d kind idx found := by
  unfold selfTested
  rw [if_neg (fun core => other core.1)]
  dsimp only
  rw [if_neg other]
  simp only [List.isEmpty_iff]
  by_cases clean : found = []
  · rw [if_pos clean, if_pos clean, if_pos clean]
  · rw [if_neg clean, if_neg clean, if_neg clean]

/-- What the activity h of kind act does at its commit. -/
def activityDone (s : State) (act d : Nat) (h : HoopReq) (found : List Nat) : State :=
  match act with
  | 2 => if recalOver s (96 * d + h.unit % 96) then hoopEnd (updPort s d (h.unit % 96) (fun p => { p with recal := none })) h .ok (holdTotal s h) else s
  | 3 => if h.st.isSome then s else stackWork s h found
  | 4 =>
    match h.st with
    | none => s
    | some st => if holdStop s h then hoopEnd (coreServes s d h.unit) h .aborted 0 else hoopEnd (coreServes s d h.unit) h st 1
  | 5 => hoopEnd (gndActs s h found) h .ok (holdTotal s h)
  | 6 => selfTested s d h found (h.unit / 65536) (h.unit % 65536)
  | _ => s

theorem activityCommit_found {s : State} {act d : Nat} {h : HoopReq} (found : List Nat)
    (held : s.hoopHold.find? (fun h => h.act == act && h.die == d && !holdOver s h) = some h) (up : s.phase = .up) (lives : dieLives s d = true) :
    activityCommit act d found s = activityDone s act d h found := by
  unfold activityCommit
  simp only [held]
  rw [if_neg (by rw [up, lives]; decide)]
  rfl

theorem fwCommit_found {s : State} {h : HoopReq} {o : Op} (ext : List Host.Cell) (failed : Bool) (holder : fwHolder s = some h)
    (owner : h.op.bind (findOp s) = some o) (up : s.phase = .up) : fwCommit ext failed s =
      if failed then hoopEnd s h (.fw 6) o.total else hoopEnd (fwDone s o h ext).2.2 h (fwDone s o h ext).1 (fwDone s o h ext).2.1 := by
  rw [fwHolder] at holder
  unfold fwCommit
  simp only [holder, owner]
  rw [if_neg (by rw [up]; decide)]
  cases failed with
  | true => rfl
  | false => rfl

theorem exec_activity {s : State} {act : Nat} (d : Nat) (found : List Nat) (ext : List Host.Cell) (other : act ≠ 7) :
    exec (.hoopActivityCommit act d found ext) s = .next (activityCommit act d found s) := by
  have runs : exec (.hoopActivityCommit act d found ext) s = execHoopActivityCommit act d found ext s := rfl
  rw [runs, execHoopActivityCommit, if_neg other]

theorem exec_fwActivity (s : State) (d : Nat) (found : List Nat) (ext : List Host.Cell) :
    exec (.hoopActivityCommit 7 d found ext) s = .next (fwCommit ext (!found.isEmpty) s) := rfl

/-! A record gives the hoops back (R370) -/

theorem writeRec_hoops {s : State} {r : Rec} {id : Nat} (owner : r.op = some id) :
    (writeRec s r).hoopHold = s.hoopHold.filter (fun h => h.op != some id) ∧
      (writeRec s r).drain = if s.drain.op = some id then { s.drain with stage := 0, op := none } else s.drain := by
  obtain ⟨keep, ring, t, ⟨os, wait, rfl⟩, e⟩ := writeRec_only s r
  rw [e, owner]
  exact ⟨rfl, rfl⟩

/-! The drain (R286, R288) -/

theorem drainStop_runs {s : State} (up : s.phase = .up) (stage : s.drain.stage = 1) :
    drainStop s = drainProgress { s with drain := { s.drain with stage := 2, n0 := inflight s } } := by
  unfold drainStop
  rw [if_neg (by rw [up, stage]; decide)]

theorem drainSwap_waits {s : State} (flying : inflight s ≠ 0) : drainSwap s = s := by
  unfold drainSwap
  rw [if_pos (by simp [flying])]

theorem drainSwap_runs {s : State} (up : s.phase = .up) (stage : s.drain.stage = 2) (empty : inflight s = 0) :
    drainSwap s = drainProgress (foldUpto (ndies s.variant)
      (warmSwap (dropRemoved { s with tabs := s.stagedTabs, drain := { s.drain with stage := 3 } } s.tabs) s.tabs)
      (fun s d => ((getDie s d).ports.map (·.1)).foldl (fun s l => retest s d l) s)) := by
  unfold drainSwap
  rw [if_neg (by rw [up, stage, empty]; decide)]

theorem drainCommit_runs {s : State} (up : s.phase = .up) (stage : s.drain.stage = 3) :
    drainCommit s = drainEnd (releaseHeld { s with drain := { s.drain with epoch := (s.drain.epoch + 1) % 2 ^ 16 } } 4) .ok 1024 := by
  unfold drainCommit
  rw [if_neg (by rw [up, stage]; decide)]

/-- Settles O51: each command by the lemma that says what it does once its guard holds; gate lists reach their time by log entry 20. -/
theorem gatesHoopsAndTheDrainProceed : Obligations.GatesHoopsAndTheDrainProceed := by
  intro s
  refine ⟨?takeover, ?change, ?rate, ?hist, ?grant, ?test, ?commit, ?firmware, ?ended, ?record, ?drain⟩
  case takeover =>
    intro d l g staged up lives
    have inside := dieLives_lt lives
    obtain ⟨unstaged, gate⟩ := gateTaken_port s d l g
    refine ⟨gateTaken s d l g, congrArg _ (gateTakeover_takes staged up lives), gateTaken_ops .., unstaged, ⟨_, gate⟩, ?_, ?_⟩
    · intro small clock
      rw [timeNs, gateTaken_clock]
      exact timeNs_reachTime_ge inside small clock
    · intro e other
      rw [gateTaken_clock, gateTaken_clock]
      exact reachTime_clocks g.start inside other
  case change =>
    intro d l g n o k gate runs ents entry
    have changes := gateChange_changes gate runs ents
    rw [entry] at changes
    refine ⟨_, congrArg Host.Outcome.next changes, ?_, ?_, ?_⟩
    · rw [getPort_updPort_same, timeNs_updPort]
    · intro same small clock
      rw [timeNs_updPort, if_pos same.symm]
      exact timeNs_reachTime_ge (dieRuns_lt runs) small clock
    · intro passed
      rw [timeNs_updPort, if_neg (Ne.symm passed)]
  case rate =>
    intro d l c v up reach port cls unlocked off n
    refine ⟨_, congrArg Host.Outcome.next (polRateWrite_open v up reach port cls unlocked), ?_⟩
    dsimp only
    by_cases enabled : 65536 ≤ n
    · rw [if_pos enabled, if_pos enabled, regWord_updPort, getPort_updPort_same, getDie_updDie_same, tget_tset_same]
      exact ⟨tget_tset_same .., rfl⟩
    · rw [if_neg enabled, if_neg enabled, getPort, getDie_updDie_same]
      exact ⟨tget_tset_same .., rfl⟩
  case hist => exact fun d v up reach unlocked => congrArg _ (histBaseWrite_open v up reach unlocked)
  case grant => exact fun h rest up queue => congrArg _ (hoopGrant_head up queue)
  case test =>
    intro d h find arr col row held up whole idle done test
    have tested : test = done (coreTested s h d find arr col row) := congrArg _ (coreTest_found held up whole idle)
    refine ⟨fun stop => by rw [tested, coreTested_stopped stop], fun goes => ⟨fun asked => by rw [tested, coreTested_replaced goes asked], fun run => ⟨?_, ?_, ?_, ?_⟩⟩⟩
    · rintro rfl
      rw [tested, coreTested_finds goes run]
      rfl
    · rintro rfl array column
      rw [tested, coreTested_finds goes run]
      exact congrArg done (if_pos ⟨array, column⟩)
    · rintro rfl
      rw [tested, coreTested_finds goes run]
      rfl
    · intro broken
      rw [tested, coreTested_finds goes run, coreFound_broken s broken]
  case commit =>
    intro act d h found ext held up lives go l recal
    have commits (other : act ≠ 7) : go = .next (activityDone s act d h found) :=
      (exec_activity d found ext other).trans (congrArg _ (activityCommit_found found held up lives))
    refine ⟨?_, ?_, ?_, ?_, ?_, ?_, ?_⟩
    · rintro rfl settled
      exact (commits (by decide)).trans (congrArg _ (if_pos settled))
    · rintro rfl fresh s1
      exact (commits (by decide)).trans (congrArg _ (if_neg (by rw [fresh]; decide)))
    · rintro rfl ended
      exact (commits (by decide)).trans (congrArg _ (if_pos (Option.isSome_iff_ne_none.2 ended)))
    · rintro rfl
      exact commits (by decide)
    · rintro rfl st ended
      rw [commits (by decide)]
      simp only [activityDone, ended]
    · rintro rfl other goes
      exact (commits (by decide)).trans (congrArg _ ((selfTested_other _ other).trans (if_neg (ne_true_of_eq_false goes))))
    · rintro rfl other stop
      exact (commits (by decide)).trans (congrArg _ ((selfTested_other _ other).trans (if_pos stop)))
  case firmware =>
    intro d h o found ext holder owner up go
    have commits : go = _ := (exec_fwActivity s d found ext).trans (congrArg _ (fwCommit_found ext (!found.isEmpty) holder owner up))
    have passed (clean : found = []) : go = .next (hoopEnd (fwDone s o h ext).2.2 h (fwDone s o h ext).1 (fwDone s o h ext).2.1) := by
      rw [commits, clean]
      rfl
    refine ⟨fun failed => ?_, fun clean stage => ?_, fun clean select valid => ?_, fun clean commit => ⟨?_, fun arb svn => ?_⟩⟩
    · rw [commits, if_pos (by simpa using failed)]
    · rw [passed clean, fwDone_stage stage]
    · rw [passed clean, fwDone_select select, selectEnd_valid valid]
    · rw [passed clean, fwDone_commitSvn commit]
    · rw [commitSvn_counts (max_le arb svn), (svnCommitted_ops_keep ..).2]
      exact ⟨rfl, rfl, rfl⟩
  case ended =>
    intro h st pos
    refine ⟨fun o owner => ?_, fun none' => ?_⟩
    · simp only [hoopEnd, owner]
    · simp only [hoopEnd, none', giveHoops]
  case record =>
    intro r id owner
    obtain ⟨hoops, drain⟩ := writeRec_hoops (s := s) owner
    refine ⟨fun h => ?_, fun mine => ?_⟩
    · rw [hoops, List.mem_filter, bne_iff_ne]
    · rw [drain, if_pos mine]
  case drain =>
    intro up
    refine ⟨fun stage => congrArg _ (drainStop_runs up stage), fun _ flying => congrArg _ (drainSwap_waits flying),
      fun stage empty => ⟨_, congrArg _ (drainSwap_runs up stage empty), rfl⟩, fun stage => ⟨_, rfl, fun o owner => ?_, fun none' => ?_⟩⟩
    · refine (congrArg Host.Outcome.next (drainCommit_runs up stage)).trans ?_
      simp only [drainEnd, owner]
    · refine (congrArg Host.Outcome.next (drainCommit_runs up stage)).trans ?_
      simp only [drainEnd, none', Option.bind_none, giveHoops]

end Sys2Proof.Proofs
end

section
/-! PROOFS. Lanes: codewords, signals, training, hellos; the control words of a port. -/

namespace Sys2Proof.Proofs

open Sys2Proof.Machine Sys2Proof.Laws

/-! The outer code (R321) -/

theorem rsFix_length (loc syn c : List Nat) (xi : Nat) : (rsFix loc syn c xi).length = c.length := by
  induction c generalizing xi with
  | nil => rfl
  | cons v c ih => rw [rsFix, List.length_cons, List.length_cons, ih]

theorem zip_self_ne (c : List Nat) : (c.zip c).filter (fun p => p.1 != p.2) = [] := by
  induction c with
  | nil => rfl
  | cons v c ih => rw [List.zip_cons_cons, List.filter_cons_of_neg (by simp), ih]

/-- R321: what is decoded is a codeword of the code's length, as far from what was received as the number of symbols corrected. -/
theorem rsDecode_corrects {c c' : List Nat} {k : Nat} (decoded : rsDecode c = some (c', k)) :
    k ≤ 15 ∧ (rsSyndromes c').all (· == 0) = true ∧ c'.length = c.length ∧ ((c'.zip c).filter (fun p => p.1 != p.2)).length = k := by
  unfold rsDecode at decoded
  extract_lets syn loc fixed n at decoded
  by_cases clean : syn.all (· == 0) = true
  · rw [if_pos clean] at decoded
    obtain ⟨rfl, rfl⟩ := Prod.mk.inj (Option.some.inj decoded)
    exact ⟨Nat.zero_le _, clean, rfl, by rw [zip_self_ne]; rfl⟩
  · rw [if_neg clean] at decoded
    by_cases within : loc.len ≤ 15 ∧ n = loc.len ∧ (rsSyndromes fixed).all (· == 0) = true
    · rw [if_pos within] at decoded
      obtain ⟨few, far, codeword⟩ := within
      obtain ⟨fixes, counts⟩ := Prod.mk.inj (Option.some.inj decoded)
      rw [← fixes, ← counts]
      exact ⟨far.trans_le few, codeword, rsFix_length .., rfl⟩
    · rw [if_neg within] at decoded
      contradiction

/-! A lane's state -/

theorem laneOf_updLane (s : State) (d i j : Nat) (f : Lane → Lane) :
    laneOf (getDie (updLane s d i f) d) j = if j = i then f (laneOf (getDie s d) i) else laneOf (getDie s d) j := by
  simp only [updLane, laneOf, getDie_updDie_same, tget_tset]

theorem laneOf_updPort (s : State) (d l i : Nat) (f : Port → Port) : laneOf (getDie (updPort s d l f) d) i = laneOf (getDie s d) i := by
  simp only [updPort, setPort, laneOf, getDie_updDie_same]

theorem laneOf_countC0 (s : State) (d k i : Nat) : laneOf (getDie (countC0 s d k) d) i = laneOf (getDie s d) i := by
  simp only [countC0, laneOf, getDie_updDie_same]

/-- Lanes of a list fail. -/
def failLanes (s : State) (d : Nat) (l : List Nat) : State := l.foldl (fun s j => updLane s d j (fun n => { n with failed := true })) s

theorem laneOf_failLanes (s : State) (d i : Nat) (l : List Nat) :
    (laneOf (getDie (failLanes s d l) d) i).fosRow = (laneOf (getDie s d) i).fosRow ∧ (laneOf (getDie (failLanes s d l) d) i).rxuse = (laneOf (getDie s d) i).rxuse := by
  induction l generalizing s with
  | nil => exact ⟨rfl, rfl⟩
  | cons j l ih =>
    obtain ⟨fos, rx⟩ := ih (updLane s d j (fun n => { n with failed := true }))
    rw [failLanes, List.foldl_cons, ← failLanes, fos, rx, laneOf_updLane]
    split
    · next same => rw [same]; exact ⟨rfl, rfl⟩
    · exact ⟨rfl, rfl⟩

/-! Codewords (R321 to R324) -/

theorem codeword_decodes {s : State} {d i l : Nat} {cw : BitVec 5440} (port : laneWidthPort (getDie s d) i = some l) (runs : dieRuns s d = true)
    (done : (laneOf (getDie s d) i).done = true) (works : (laneOf (getDie s d) i).failed = false) (plain : laneTest (getDie s d) i = 0)
    (safe : (getPort s d l).st ≠ 10) : codeword d i cw s =
      (rsDecode (cwSymbols cw)).elim (codewordBad d i l s) (fun r => codewordGood d i l (cwParts r.1) r.2 s) := by
  have guard : (!dieRuns s d || !(laneOf (getDie s d) i).done || (laneOf (getDie s d) i).failed || laneTest (getDie s d) i != 0 || (portOf (getDie s d) l).st == 10) = false := by
    rw [runs, done, works, plain, beq_false_of_ne (by exact safe)]; rfl
  unfold codeword
  simp only [port, guard, Bool.false_eq_true, if_false]
  cases rsDecode (cwSymbols cw) <;> rfl

/-- R321, R323: the state in which lane i's corrected codeword has been counted. -/
def codewordCounted (s : State) (d i l : Nat) (w : Codeword) (fixed : Nat) : State :=
  let s1 := updLane s d i (fun n => { n with
    lock := true, sig := true, uncRow := 0, fosRow := if cwFault w = true then n.fosRow + 1 else 0, fecc := satAdd (2 ^ 32 - 1) n.fecc fixed
    mark := (cwMark w).orElse (fun _ => n.mark.map (fun m => (m + 1) % 2 ^ 17)) })
  if fixed = 0 then s1 else portEvent (countC0 s1 d fixed) d l 0x07 fixed none

theorem laneOf_codewordCounted (s : State) (d i l : Nat) (w : Codeword) (fixed : Nat) :
    (laneOf (getDie (codewordCounted s d i l w fixed) d) i).fosRow = (if cwFault w = true then (laneOf (getDie s d) i).fosRow + 1 else 0) ∧
      (laneOf (getDie (codewordCounted s d i l w fixed) d) i).rxuse = (laneOf (getDie s d) i).rxuse := by
  unfold codewordCounted
  dsimp only
  split
  · rw [laneOf_updLane, if_pos rfl]
    exact ⟨rfl, rfl⟩
  · rw [portEvent, laneOf_updPort, laneOf_countC0, laneOf_updLane, if_pos rfl]
    exact ⟨rfl, rfl⟩

/-- R322 to R324: the contents of lane i's codeword at the port, its control words being in effect. -/
def codewordContents (d i l : Nat) (w : Codeword) (s : State) : State :=
  if (getPort s d l).st = 4 ∨ (getPort s d l).st = 7 ∨ (getPort s d l).st = 8 then helloFrame d i (w.bytes.take 64) s
  else if (laneOf (getDie s d) i).rxuse && ((getPort s d l).st == 5 || (getPort s d l).st == 6 || (getPort s d l).st == 9) then
    match (laneOf (getDie s d) i).mark with
    | some m => joinFrame s d l { count := m, lane := i, body := some (w.bytes, cwFirst w) }
    | none => s
  else s

theorem codewordContents_hello {d i l : Nat} {w : Codeword} {s : State} (st : (getPort s d l).st = 4 ∨ (getPort s d l).st = 7 ∨ (getPort s d l).st = 8) :
    codewordContents d i l w s = helloFrame d i (w.bytes.take 64) s := if_pos st

theorem codewordContents_data {d i l m : Nat} {w : Codeword} {s : State} (used : (getLane s d i).rxuse = true)
    (st : (getPort s d l).st = 5 ∨ (getPort s d l).st = 6 ∨ (getPort s d l).st = 9) (mark : (getLane s d i).mark = some m) :
    codewordContents d i l w s = joinFrame s d l { count := m, lane := i, body := some (w.bytes, cwFirst w) } := by
  have takes : ((laneOf (getDie s d) i).rxuse && ((getPort s d l).st == 5 || (getPort s d l).st == 6 || (getPort s d l).st == 9)) = true := by
    rw [show (laneOf (getDie s d) i).rxuse = true from used]
    simpa [or_assoc] using st
  unfold codewordContents
  rw [if_neg (by omega), if_pos takes, show (laneOf (getDie s d) i).mark = some m from mark]

theorem codewordContents_none {d i l : Nat} {w : Codeword} {s : State} (idle : (getLane s d i).rxuse = false ∨ (getLane s d i).mark = none)
    (not4 : (getPort s d l).st ≠ 4) (not7 : (getPort s d l).st ≠ 7) (not8 : (getPort s d l).st ≠ 8) : codewordContents d i l w s = s := by
  unfold codewordContents
  rw [if_neg (by omega)]
  obtain unused | unmarked := idle
  · rw [show (laneOf (getDie s d) i).rxuse = false from unused]
    rfl
  · rw [show (laneOf (getDie s d) i).mark = none from unmarked]
    exact ite_self s

/-- R323, R436: a corrected codeword takes the port down, fails its lane or brings its contents. -/
theorem codewordGood_eq (s : State) (d i l : Nat) (w : Codeword) (fixed : Nat) : codewordGood d i l w fixed s =
    let s2 := codewordCounted s d i l w fixed
    let bad := skewed (getDie s2 d) l
    let s3 := failLanes s2 d bad
    let serves := 5 ≤ (getPort s d l).st ∧ (getPort s d l).st ≤ 9
    if (∃ j ∈ bad, (laneOf (getDie s2 d) j).rxuse = true ∨ (laneOf (getDie s2 d) j).txuse = true) ∧ serves then portDown s3 d l false false
    else if i ∈ bad then s3
    else if cwFault w = true ∧ 1 ≤ (laneOf (getDie s d) i).fosRow ∧ (laneOf (getDie s d) i).rxuse = true ∧ serves then portDown s3 d l false true
    else codewordContents d i l w (w.ctl.foldl (fun s v => controlWord d l v s) s3) := by
  extract_lets s2 bad s3 serves
  have counted : codewordGood d i l w fixed s =
      if bad.any (fun j => (laneOf (getDie s2 d) j).rxuse || (laneOf (getDie s2 d) j).txuse) && decide (5 ≤ (getPort s d l).st) && decide ((getPort s d l).st ≤ 9) then
        portDown s3 d l false false
      else if bad.contains i then s3
      else if 2 ≤ (laneOf (getDie s3 d) i).fosRow ∧ (laneOf (getDie s3 d) i).rxuse ∧ 5 ≤ (getPort s d l).st ∧ (getPort s d l).st ≤ 9 then portDown s3 d l false true
      else codewordContents d i l w (w.ctl.foldl (fun s v => controlWord d l v s) s3) := by
    simp only [s3, bad, s2, codewordCounted]
    unfold codewordGood
    cases cwMark w <;> rfl
  rw [counted]
  refine if_congr ?_ rfl (if_congr ?_ rfl (if_congr ?_ rfl rfl))
  · simp only [Bool.and_eq_true, List.any_eq_true, Bool.or_eq_true, decide_eq_true_eq, and_assoc, serves]
  · rw [List.contains_iff_mem]
  · obtain ⟨fos, rx⟩ := laneOf_failLanes s2 d i bad
    obtain ⟨row, used⟩ := laneOf_codewordCounted s d i l w fixed
    rw [fos, rx, row, used]
    by_cases fault : cwFault w = true
    · rw [if_pos fault]
      simp only [fault, true_and, serves]
      exact and_congr_left fun _ => by omega
    · rw [if_neg fault]
      exact iff_of_false (fun again => absurd again.1 (by decide)) (fun again => fault again.1)

/-- R324: the state in which a codeword that lane i cannot correct has been counted. -/
def codewordLost (s : State) (d i l : Nat) : State :=
  let n := laneOf (getDie s d) i
  let s1 := updLane s d i (fun n' => { n' with
    fecu := satInc (2 ^ 32 - 1) n'.fecu, uncRow := n'.uncRow + 1, uncs := n.uncs.filter (fun t => decide (s.now < t + 1000000)) ++ [s.now]
    mark := n.mark.map (fun m => (m + 1) % 2 ^ 17), fosRow := 0, hellos := if (getPort s d l).st = 4 then 0 else n'.hellos })
  portEvent (reportFault s1 1 5 (portNum d l) d 0x11 1) d l 0x08 1 none

/-- R324: the frame of a codeword that could not be corrected is discarded, by its count where there is one. -/
def frameLost (s : State) (d i l : Nat) (mark : Option Nat) : State :=
  match mark with
  | some m => joinFrame s d l { count := m, lane := i, body := none }
  | none => lostArriving s d l

/-- R324, R340: only a lane in use discards, and takes the port down where too many codewords are lost. -/
theorem codewordBad_eq (s : State) (d i l : Nat) : codewordBad d i l s =
    let n := laneOf (getDie s d) i
    let s3 := frameLost (codewordLost s d i l) d i l (n.mark.map (fun m => (m + 1) % 2 ^ 17))
    if ¬(n.rxuse = true ∧ 5 ≤ (getPort s d l).st ∧ (getPort s d l).st ≤ 9) then codewordLost s d i l
    else if 4 ≤ n.uncRow + 1 ∨ regFld (getDie s d) rPORT_TIMERS 15 8 < (n.uncs.filter (fun t => decide (s.now < t + 1000000)) ++ [s.now]).length then
      portDown s3 d l false false
    else s3 := by
  have unused : (!(laneOf (getDie s d) i).rxuse || decide ((getPort s d l).st < 5) || decide (9 < (getPort s d l).st)) = true ↔
      ¬((laneOf (getDie s d) i).rxuse = true ∧ 5 ≤ (getPort s d l).st ∧ (getPort s d l).st ≤ 9) := by
    cases (laneOf (getDie s d) i).rxuse with
    | false => simp
    | true => simp only [Bool.not_true, Bool.false_or, Bool.or_eq_true, decide_eq_true_eq, true_and]; omega
  have counted : codewordBad d i l s =
      if !(laneOf (getDie s d) i).rxuse || decide ((getPort s d l).st < 5) || decide (9 < (getPort s d l).st) then codewordLost s d i l
      else
        match (laneOf (getDie s d) i).mark.map (fun m => (m + 1) % 2 ^ 17) with
        | some m =>
          if 4 ≤ (laneOf (getDie s d) i).uncRow + 1 ∨
              regFld (getDie s d) rPORT_TIMERS 15 8 < ((laneOf (getDie s d) i).uncs.filter (fun t => decide (s.now < t + 1000000)) ++ [s.now]).length then
            portDown (frameLost (codewordLost s d i l) d i l (some m)) d l false false
          else frameLost (codewordLost s d i l) d i l (some m)
        | none =>
          if 4 ≤ (laneOf (getDie s d) i).uncRow + 1 ∨
              regFld (getDie s d) rPORT_TIMERS 15 8 < ((laneOf (getDie s d) i).uncs.filter (fun t => decide (s.now < t + 1000000)) ++ [s.now]).length then
            portDown (frameLost (codewordLost s d i l) d i l none) d l false false
          else frameLost (codewordLost s d i l) d i l none := rfl
  rw [counted]
  refine if_congr unused rfl ?_
  cases (laneOf (getDie s d) i).mark.map (fun m => (m + 1) % 2 ^ 17) with
  | none => rfl
  | some m => rfl

/-! Signals (R328, R340, R436) -/

section
variable {s : State} {d i l : Nat} (port : laneWidthPort (getDie s d) i = some l) (runs : dieRuns s d = true)
include port runs

theorem signalDetect_eq (long : Bool) : signalDetect d i long s =
    let s1 := updLane s d i (fun n => { n with sig := true })
    let s2 := if long && !(cageOf (getDie s d) (l / 8)).prs then addCageFault s1 d (l / 8) 5 else s1
    if ((getPort s d l).st = 1 ∧ (cageOf (getDie s d) (l / 8)).prs = false) ∨ ((getPort s d l).st = 3 ∧ (getPort s d l).fos = true) then startTrain s2 d l false
    else s2 := by
  unfold signalDetect
  simp only [port]
  exact if_neg (by rw [runs]; decide)

theorem signalLost_eq : signalLost d i s =
    let s1 := updLane s d i (fun n => { n with sig := false, lock := false })
    if (laneOf (getDie s d) i).rxuse && decide (5 ≤ (getPort s d l).st) && decide ((getPort s d l).st ≤ 9) then portDown s1 d l false false else s1 := by
  unfold signalLost
  simp only [port]
  exact if_neg (by rw [runs]; decide)

theorem faultSet_down (used : (laneOf (getDie s d) i).rxuse = true) (serves : 5 ≤ (getPort s d l).st ∧ (getPort s d l).st ≤ 9) :
    faultSet d i s = portDown s d l false true := by
  have down : ((laneOf (getDie s d) i).rxuse && decide (5 ≤ (getPort s d l).st) && decide ((getPort s d l).st ≤ 9)) = true := lost_cond used serves
  unfold faultSet
  simp only [port]
  refine if_pos ?_
  rw [runs]
  exact down

/-! Training (R329 to R331) -/

/-- The lane once its training frame's control field is applied. -/
def laneControlled (n : Lane) (c : BitVec 64) (inv ready : Bool) : Lane :=
  let n1 := { n with sig := true, pol := inv, readySent := if ready = true then n.readySent + 1 else n.readySent }
  if fld c 63 56 = crc8 (c.toNat % 2 ^ 56) then applyControl n1 c.toNat else n1

theorem trainingFrame_eq (training : (getPort s d l).st = 3) (new : (laneOf (getDie s d) i).done = false) (works : (laneOf (getDie s d) i).failed = false)
    (quiet : (getPort s d l).fos = false) (c : BitVec 64) (inv ready : Bool) (req : Nat) : trainingFrame d i c inv ready req s =
      let n2 := laneControlled (laneOf (getDie s d) i) c inv ready
      let s0 := updLane s d i (fun _ => n2)
      if 16 ≤ n2.readySent ∧ 16 ≤ n2.readyGot then
        laneTrained (emits (emit s0 (trainFrame s0 d l i req ready 15)) ((upto 15).map (fun k => trainFrame s0 d l i req ready (14 - k)))) d l i
      else emit s0 (trainFrame s0 d l i req ready 15) := by
  have guard : (!dieRuns s d || (portOf (getDie s d) l).st != 3 || (laneOf (getDie s d) i).done || (laneOf (getDie s d) i).failed) = false := by
    rw [runs, show (portOf (getDie s d) l).st = 3 from training, new, works]; rfl
  have calm : (portOf (getDie s d) l).fos = false := quiet
  unfold trainingFrame
  simp only [port, guard, calm, Bool.false_eq_true, if_false, beq_iff_eq]
  rfl

end

theorem trainExpiry_eq {s : State} {d l : Nat} (runs : dieRuns s d = true) (training : (getPort s d l).st = 3) (quiet : (getPort s d l).fos = false)
    (wide : (portWidth (getDie s d) l).isSome = true) : trainExpiry d l s =
      trainOver (recalProgress ((portLanes (getDie s d) l).foldl (fun s i => updLane s d i (fun n => if n.done = true then n else { n with failed := true })) s) d l) d l := by
  have guard : (!dieRuns s d || (portOf (getDie s d) l).st != 3 || (portOf (getDie s d) l).fos || (portWidth (getDie s d) l).isNone) = false := by
    rw [runs, show (portOf (getDie s d) l).st = 3 from training, show (portOf (getDie s d) l).fos = false from quiet, Option.isNone_eq_false_iff.2 wide]; rfl
  unfold trainExpiry
  exact if_neg (by rw [guard]; decide)

/-! Removal (R346) and control words (R322, R325, R336, R515) -/

theorem stateWord_removes {s : State} {d l : Nat} (runs : dieRuns s d = true) (hello : (getPort s d l).st = 4) (wide : (portWidth (getDie s d) l).isSome = true)
    (drained : Bool) : stateWord d l 9 drained s = removePort (updPort s d l (fun p => { p with farSt := 9, farDrained := drained })) d l := by
  unfold stateWord
  dsimp only
  rw [if_neg (by simp [runs, hello, Option.isNone_eq_false_iff.2 wide]), if_pos ⟨hello, rfl⟩]

theorem removalComplete_safe {s : State} {d l : Nat} {late : Bool} (runs : dieRuns s d = true) (removing : (getPort s d l).st = 9)
    (over' : (late = true ∧ removalOver s d l = true) ∨ ((getPort s d l).farDrained = true ∧ (outOf (getDie s d) l).q = [])) :
    removalComplete d l late s = portSafe s d l := by
  unfold removalComplete
  refine if_pos ?_
  rw [runs, removing]
  simpa using over'

section
variable {s : State} {d l : Nat} (ctl : ctlPort s d l = true)
include ctl

theorem creditWord_counts {b : Nat} (known : ctlBuf (getDie s d) l b = true) (k : Nat) : creditWord d l b k s = retryAll (updPort s d l (fun p =>
    { p with txR := tset p.txR b (tget p.txR b 0 + (k % 4096 + 4096 - tget p.txC b 0) % 4096), txC := tset p.txC b (k % 4096) })) := by
  unfold creditWord
  exact if_neg (by rw [ctl, known]; decide)

theorem advertWord_counts {b : Nat} (known : ctlBuf (getDie s d) l b = true) (k : Nat) :
    advertWord d l b k s = retryAll (updPort s d l (fun p => { p with txA := tset p.txA b (k % 4096) })) := by
  unfold advertWord
  exact if_neg (by rw [ctl, known]; decide)

theorem creditRepeat_sends : creditRepeat d l s =
    emits s ((fullAdverts (getDie s d) l).map (fun (b, _) => .control d l 2 [creditOf b (tget (getPort s d l).rxRet b 0)])) := by
  unfold creditRepeat
  exact if_neg (by rw [ctl]; decide)

theorem advertRepeat_sends : advertRepeat d l s = sendAdverts s d l := if_pos ctl

end

theorem words_unknown {s : State} {d l b : Nat} (unknown : ctlBuf (getDie s d) l b = false) (k : Nat) : creditWord d l b k s = s ∧ advertWord d l b k s = s := by
  have guard : (!ctlPort s d l || !ctlBuf (getDie s d) l b) = true := by rw [unknown, Bool.not_false, Bool.or_true]
  exact ⟨if_pos guard, if_pos guard⟩

/-- Settles O53: codewords by codewordGood_eq and codewordBad_eq, hellos and STATE words by hello_eq and stateWord_eq, the rest by the lemma on each event. -/
theorem lanesTrainAndCarryControlWords : Obligations.LanesTrainAndCarryControlWords := by
  refine ⟨fun c c' k => rsDecode_corrects, fun n c => applyControl_ok n c, fun s d i l runs => ?_⟩
  intro x n p serves
  refine ⟨fun port => ⟨?codewords, ?detect, ?lost, ?faults, ?training, ?hellos⟩, ?expiry, ?timeout, ?far, ?removal, fun ctl => ⟨?words, ?unknown, ?credits, ?adverts, ?held, ?kinds, ?states⟩⟩
  case codewords =>
    intro done works plain safe ctl data par go dec
    have decodes : go = .next (dec.elim (codewordBad d i l s) (fun r => codewordGood d i l (cwParts r.1) r.2 s)) :=
      congrArg Host.Outcome.next (codeword_decodes port runs done works plain safe)
    refine ⟨fun c fixed decoded => ?_, fun undecoded => ?_⟩
    · intro w s1 s2 bad s3 uses
      have good := codewordGood_eq s d i l w fixed
      rw [decoded, Option.elim_some, good] at decodes
      refine ⟨fun used serves => ?_, fun stays fails => ?_, fun stays kept fos => ?_, fun stays kept calm => ?_⟩
      · exact decodes.trans (congrArg _ (if_pos ⟨used, serves⟩))
      · exact decodes.trans (congrArg _ ((if_neg stays).trans (if_pos fails)))
      · exact decodes.trans (congrArg _ ((if_neg stays).trans ((if_neg kept).trans (if_pos fos))))
      · intro s4 st
        have contents : go = .next (codewordContents d i l w s4) := decodes.trans (congrArg _ ((if_neg stays).trans ((if_neg kept).trans (if_neg calm))))
        refine ⟨fun hello => ?_, fun used data m mark => ?_, fun idle not4 not7 not8 => ?_⟩
        · rw [contents, codewordContents_hello hello]
          rfl
        · rw [contents, codewordContents_data used data mark]
        · rw [contents, codewordContents_none idle not4 not7 not8]
    · intro uncs mark s1 s2 s3 many
      have bad := codewordBad_eq s d i l
      rw [undecoded, Option.elim_none, bad] at decodes
      refine ⟨fun unused => ?_, fun used serves lost => ?_, fun used serves few => ?_⟩
      · exact decodes.trans (congrArg _ (if_pos unused))
      · exact decodes.trans (congrArg _ ((if_neg (not_not_intro ⟨used, serves⟩)).trans (if_pos lost)))
      · exact decodes.trans (congrArg _ ((if_neg (not_not_intro ⟨used, serves⟩)).trans (if_neg few)))
  case detect =>
    intro s1
    have eq (long : Bool) : exec (.laneSignalDetect d i long) s = _ := congrArg Host.Outcome.next (signalDetect_eq port runs long)
    refine ⟨fun not1 not3 => ?_, fun starts => ?_, fun training quiet => ?_, fun not1 not3 absent => ?_⟩
    · exact (eq false).trans (congrArg _ (if_neg (by rintro (⟨st, -⟩ | ⟨st, -⟩) <;> contradiction)))
    · exact (eq false).trans (congrArg _ (if_pos starts))
    · refine (eq false).trans (congrArg _ (if_neg ?_))
      rintro (⟨st, -⟩ | ⟨-, faulty⟩)
      · exact absurd (st.symm.trans training) (by decide)
      · exact absurd (faulty.symm.trans quiet) (by decide)
    · refine (eq true).trans (congrArg _ ((if_neg (by rintro (⟨st, -⟩ | ⟨st, -⟩) <;> contradiction)).trans (if_pos ?_)))
      rw [show (cageOf (getDie s d) (l / 8)).prs = false from absent]
      rfl
  case lost =>
    intro s1
    have eq : exec (.lossOfSignal d i) s = _ := congrArg Host.Outcome.next (signalLost_eq port runs)
    refine ⟨fun used serves => eq.trans (congrArg _ (if_pos (lost_cond used serves))), fun unused => eq.trans (congrArg _ (if_neg ?_))⟩
    rw [show (laneOf (getDie s d) i).rxuse = false from unused]
    exact Bool.false_ne_true
  case faults => exact fun used serves => congrArg _ (faultSet_down port runs used serves)
  case training =>
    intro training new works quiet c inv ask n1 n2 s0 frame
    have eq : exec (.trainingFrame d i c inv ask) s = _ := congrArg Host.Outcome.next (trainingFrame_eq port runs training new works quiet c inv (ask.testBit 16) (ask % 2 ^ 10))
    exact ⟨fun early => eq.trans (congrArg _ (if_neg early)), fun sent got => eq.trans (congrArg _ (if_pos ⟨sent, got⟩))⟩
  case hellos =>
    intro done works low high bs
    have eq : exec (.helloFrame d i bs) s = _ := congrArg Host.Outcome.next (hello_eq port runs done works low high)
    refine ⟨fun unread => by rw [eq, unread], fun f read => ?_⟩
    rw [read] at eq
    refine ⟨fun later stays clear => ?_, fun st stays mis => ?_, fun later removes => ?_, fun hello removes => ?_, fun hello stays one first narrow => ?_⟩
    · refine eq.trans (congrArg _ ((if_pos later).trans ((if_neg (ne_true_of_eq_false stays)).trans (if_neg ?_))))
      rw [clear]
      exact fun h => Bool.false_ne_true h.1
    · have later : (portOf (getDie s d) l).st ≠ 4 := by obtain st | st := st <;> exact fun four => absurd (st.symm.trans four) (by decide)
      exact eq.trans (congrArg _ ((if_pos later).trans ((if_neg (ne_true_of_eq_false stays)).trans (if_pos ⟨mis, st⟩))))
    · exact eq.trans (congrArg _ ((if_pos later).trans (if_pos removes)))
    · exact eq.trans (congrArg _ ((if_neg (not_not_intro hello)).trans (if_pos removes)))
    · intro s0 s1
      refine eq.trans (congrArg _ ((if_neg (not_not_intro hello)).trans ((if_neg (ne_true_of_eq_false stays)).trans (if_neg ?_))))
      rw [show portLanes (getDie s d) l = [i] from one, show portWidth (getDie s d) l = some 0 from narrow, first]
      simp
  case expiry =>
    intro training quiet wide t
    exact congrArg _ (trainExpiry_eq runs training quiet wide)
  case timeout =>
    intro hello
    refine congrArg Host.Outcome.next (if_pos ?_)
    rw [runs, show (getPort s d l).st = 4 from hello]
    rfl
  case far => exact fun hello wide drained => congrArg _ (stateWord_removes runs hello wide drained)
  case removal =>
    intro removing late ends
    exact ⟨_, congrArg Host.Outcome.next (removalComplete_safe runs removing ends), setPortSt_st ..⟩
  case words => exact fun b k known => ⟨congrArg _ (creditWord_counts ctl known k), congrArg _ (advertWord_counts ctl known k)⟩
  case unknown => exact fun b k unknown => ⟨congrArg _ (words_unknown unknown k).1, congrArg _ (words_unknown unknown k).2⟩
  case credits => exact congrArg _ (creditRepeat_sends ctl)
  case adverts =>
    intro sends
    refine congrArg _ ((advertRepeat_sends ctl).trans (if_neg ?_))
    obtain flows | trunk | silent := sends
    · rw [flows]; exact Bool.false_ne_true
    · rw [show isTrunk (getDie s d) l = true from trunk]; simp
    · rw [show (portOf (getDie s d) l).adv = false from silent]; simp
  case held =>
    intro stop edge open'
    refine congrArg _ ((advertRepeat_sends ctl).trans (if_pos ?_))
    rw [stop, show isTrunk (getDie s d) l = false from edge, show (portOf (getDie s d) l).adv = true from open']
    rfl
  case kinds =>
    intro w
    refine ⟨fun kind => ?_, fun kind => ?_, fun kind => ?_, fun not2 not3 not4 => ?_⟩
    · unfold controlWord; rw [kind]; rfl
    · unfold controlWord; rw [kind]; rfl
    · unfold controlWord; rw [kind]; rfl
    · unfold controlWord
      split
      · contradiction
      · contradiction
      · contradiction
      · rfl
  case states =>
    intro st drained s1
    have eq : exec (.state d l st drained) s = _ := congrArg Host.Outcome.next (stateWord_eq (st := st) (dr := drained) ctl)
    refine ⟨fun nine later => ?_, fun seven st => ?_, fun back mis f far => ?_, fun not9 not7 settled => ?_⟩
    · exact eq.trans (congrArg _ (if_pos ⟨nine, later⟩))
    · exact eq.trans (congrArg _ ((if_neg (by omega)).trans (if_pos ⟨seven, st⟩)))
    · refine eq.trans (congrArg _ ((if_neg (by omega)).trans ((if_neg (by omega)).trans ((if_pos ⟨mis, back⟩).trans ?_))))
      rw [show (getPort s d l).far = some f from far]
    · exact eq.trans (congrArg _ ((if_neg (fun h => not9 h.1)).trans ((if_neg (fun h => not7 h.1)).trans (if_neg (fun h => settled h.1)))))

end Sys2Proof.Proofs
end

section
/-! PROOFS. Start-up: the choice of the slot, the boot checks, the end of the boot; the test access port. -/

namespace Sys2Proof.Proofs

open Sys2Proof.Machine Sys2Proof.Laws

/-! The slot that boots (R472, R473) -/

/-- R472: why slot b fails where the counter's record authenticates. -/
def slotRefusal (s : State) (b st : Nat) : Option Nat :=
  let f := if b = 0 then s.keep.a else s.keep.b
  let why := if f.image = [] then (if st = 0 then none else some st) else imageFault f.image f.image.length
  if f.valid = false then some (Config.openStatus 9 b % 2 ^ 16) else if why.isSome = true then why else if f.svn < s.keep.arb then some 0x42 else none

theorem slotFails_authentic (s : State) (b st : Nat) : slotFails s b st true = slotRefusal s b st := by
  unfold slotFails slotRefusal
  simp only [Bool.not_true, Bool.false_eq_true, or_false, List.isEmpty_iff, Bool.not_eq_true']

theorem pickSlot_forged (s : State) (stA stB : Nat) : pickSlot s stA stB false = none := by
  unfold pickSlot
  dsimp only
  obtain ⟨why, first⟩ := Option.isSome_iff_exists.1 (slotFails_some s (if s.keep.pref = 0 then 0 else 1) (if (if s.keep.pref = 0 then 0 else 1) = 0 then stA else stB))
  obtain ⟨why', second⟩ := Option.isSome_iff_exists.1
    (slotFails_some s (1 - if s.keep.pref = 0 then 0 else 1) (if (1 - if s.keep.pref = 0 then 0 else 1) = 0 then stA else stB))
  simp only [first, second, Option.isNone_some, Bool.false_eq_true, if_false]

theorem pickSlot_authentic {s : State} {b : Nat} (slot : b < 2) (preferred : b = 0 ↔ s.keep.pref = 0) (stA stB : Nat) : pickSlot s stA stB true =
    match slotRefusal s b (if b = 0 then stA else stB) with
    | none => some (b, false, 0)
    | some why => if (slotRefusal s (1 - b) (if 1 - b = 0 then stA else stB)).isNone then some (1 - b, true, why) else none := by
  have chosen : (if s.keep.pref = 0 then 0 else 1) = b := by split <;> omega
  unfold pickSlot
  simp only [chosen, slotFails_authentic] <;> rfl

/-! Firmware verification (R473 to R476) -/

/-- R473: the state in which the lead steward has verified slot b. -/
def firmwareVerified (s : State) (have' : List Nat) (lead : Nat) (b : Nat) (fb : Bool) (why : Nat) (bad : List Nat) : State :=
  let seed := Config.seedOf s.keep.ident
  let all := upto (ndies s.variant)
  let f := if b = 0 then s.keep.a else s.keep.b
  let lost := all.filter (fun d => bad.contains d && d != lead)
  applyRecord (lost.foldl (fun s d => dieFault s d 0x33) { s with
    lead := lead
    boot := { s.boot with
      verified := true, slot := b, fallback := fb, failing := why, ids := have'
      noIds := all.filter (fun d => !have'.contains d && !lost.contains d)
      fenced := lost, uid := uidOf seed, seed := some seed, svn := f.svn, meas := f.meas }
    power := { s.power with alive := true, aliveAt := s.now } })

/-- R474: the dies that know the identity and are not fenced. -/
def identified (s : State) (ids : List Nat) : List Nat := (upto (ndies s.variant)).filter (fun d => ids.contains d && decide ((getDie s d).flt < 2))

section
variable {s : State} {ids bad : List Nat} {stA stB : Nat} (booting : s.phase = .booting) (first : s.boot.verified = false)
include booting first

theorem firmwareVerify_faults
    (fails : identified s ids = [] ∨ pickSlot s stA stB (s.keep.tags == arbTags (Config.seedOf s.keep.ident) s.keep.arb && !(identified s ids).isEmpty) = none) :
    firmwareVerify ids bad stA stB s = packageFault s 0x43 := by
  unfold firmwareVerify
  dsimp only
  rw [if_neg (by rw [booting, first]; decide)]
  split
  · next lead rest b fb why some' picked =>
    obtain none' | none' := fails
    · exact absurd (some'.symm.trans none') (List.cons_ne_nil lead rest)
    · exact absurd (picked.symm.trans none') (Option.some_ne_none _)
  · rfl

theorem firmwareVerify_picks {lead b why : Nat} {rest : List Nat} {fb : Bool} (leads : identified s ids = lead :: rest)
    (picked : pickSlot s stA stB (s.keep.tags == arbTags (Config.seedOf s.keep.ident) s.keep.arb && !(identified s ids).isEmpty) = some (b, fb, why)) :
    firmwareVerify ids bad stA stB s = firmwareVerified s (identified s ids) lead b fb why bad := by
  unfold firmwareVerify
  dsimp only
  rw [if_neg (by rw [booting, first]; decide)]
  split
  · next lead' rest' b' fb' why' leads' picked' =>
    obtain ⟨rfl, -⟩ := List.cons.inj (leads'.symm.trans leads)
    obtain ⟨rfl, rfl, rfl⟩ : b' = b ∧ fb' = fb ∧ why' = why := by simpa using picked'.symm.trans picked
    rfl
  · next other => exact absurd picked (other _ _ _ _ _ leads)

end

/-! Boot checks and the stacks' zero fill (R418, R467) -/

/-- R467: the state in which the failures that a die's checks found are repaired or fenced. -/
def bootFound (s : State) (d : Nat) (found : List BootFind) : State :=
  found.foldl (bootFinding d) { s with boot := { s.boot with checked := sadd s.boot.checked d } }

/-- R467: the memories that the checks tested are zero. -/
def checkedDie (x : Die) : Die := { x with
  gnd := { x.gnd with cells := [], pois := [], latent := [], bad := [] }
  cores := x.cores.map (fun (c, k) => (c, { k with image := none, scratch := [], acc := [] })) }

theorem checksComplete_checks {s : State} {d : Nat} (found : List BootFind) (booting : s.phase = .booting) (verified : s.boot.verified = true)
    (inside : d < ndies s.variant) (new : d ∉ s.boot.checked) (serves : (getDie s d).flt ≠ 2) :
    checksComplete d found s = updDie (bootFound s d found) d checkedDie := by
  have guard : ¬((s.phase != .booting || !s.boot.verified || decide (ndies s.variant ≤ d) || s.boot.checked.contains d || decide ((getDie s d).flt = 2)) = true) := by
    rw [booting, verified, decide_eq_false (Nat.not_le.2 inside), List.contains_eq_mem, decide_eq_false new, decide_eq_false serves]
    decide
  unfold checksComplete
  exact if_neg guard

theorem coreOf_checkedDie {x : Die} {c : Nat} (there : (tfind (checkedDie x).cores c).isSome = true) :
    (coreOf (checkedDie x) c).scratch = [] ∧ (coreOf (checkedDie x) c).acc = [] ∧ (coreOf (checkedDie x) c).image = none := by
  have cores : tfind (checkedDie x).cores c = (tfind x.cores c).map (fun k => { k with image := none, scratch := [], acc := [] }) :=
    tfind_map x.cores (fun (c, k) => (c, { k with image := none, scratch := [], acc := [] })) (fun _ => rfl) c
  rw [cores, Option.isSome_map] at there
  obtain ⟨k, held⟩ := Option.isSome_iff_exists.1 there
  rw [coreOf, tget, cores, held]
  exact ⟨rfl, rfl, rfl⟩

theorem zeroFilled_fills {s : State} {d : Nat} (booting : s.phase = .booting) (dark : s.power.stkOff = true) (boots : bootDie s d = true)
    (new : (getDie s d).stk.ready = false) :
    zeroFilled d s = updDie s d (fun x => { x with stk := { x.stk with cells := [], pois := [], latent := [], bad := [], ready := true } }) := by
  unfold zeroFilled
  exact if_neg (by rw [booting, dark, boots, new]; decide)

/-! The end of the boot (R466) -/

/-- Table 16-5, R328: a die as it enters service. -/
def bootedDie (s : State) (d : Nat) (x : Die) : Die := { x with
  stk := { x.stk with ready := true }
  lanes := (upto 96).map (fun i => (i, { laneOf x i with
    preset := (startCoeffs s d i).2, cm1 := (startCoeffs s d i).1.1, c0 := (startCoeffs s d i).1.2.1, cp1 := (startCoeffs s d i).1.2.2 })) }

theorem startCoeffs_of_keep {s t : State} (same : t.keep = s.keep) (d i : Nat) : startCoeffs t d i = startCoeffs s d i := by
  unfold startCoeffs
  rw [same]

/-- R466: every die enters service. -/
def bootedDies (s : State) (n : Nat) : State := foldUpto n s (fun s d => lanesStart (updDie s d (fun x => { x with stk := { x.stk with ready := true } })) d)

theorem bootedDies_dies (s : State) (n : Nat) : (bootedDies s n).keep = s.keep ∧
    ∀ d, getDie (bootedDies s n) d = if d < n then bootedDie s d (getDie s d) else getDie s d := by
  induction n with
  | zero => exact ⟨rfl, fun d => rfl⟩
  | succ n ih =>
    obtain ⟨keep, dies⟩ := ih
    have last : bootedDies s (n + 1) = lanesStart (updDie (bootedDies s n) n (fun x => { x with stk := { x.stk with ready := true } })) n := foldUpto_succ ..
    have started : getDie (bootedDies s (n + 1)) n = bootedDie (bootedDies s n) n (getDie (bootedDies s n) n) := by
      rw [last, lanesStart, getDie_updDie_same, getDie_updDie_same]
      rfl
    refine ⟨last ▸ keep, fun d => ?_⟩
    by_cases this : d = n
    · rw [this, if_pos (by omega), started, dies n, if_neg (by omega)]
      simp only [bootedDie, startCoeffs_of_keep keep]
    · rw [last, lanesStart, getDie_updDie, if_neg this, getDie_updDie, if_neg this, dies d]
      by_cases before : d < n
      · rw [if_pos before, if_pos (by omega)]
      · rw [if_neg before, if_neg (by omega)]

theorem tfind_map_self {α : Type} (l : List Nat) (i : Nat) (f : Nat → α) : tfind (l.map (fun j => (j, f j))) i = if i ∈ l then some (f i) else none := by
  induction l with
  | nil => rfl
  | cons j l ih =>
    rw [List.map_cons, tfind]
    by_cases same : j = i
    · rw [if_pos same, same, if_pos List.mem_cons_self]
    · rw [if_neg same, ih]
      simp only [List.mem_cons, Ne.symm same, false_or]

theorem laneOf_bootedDie (s : State) (d : Nat) (x : Die) {i : Nat} (inside : i < 96) : laneOf (bootedDie s d x) i = { laneOf x i with
    preset := (startCoeffs s d i).2, cm1 := (startCoeffs s d i).1.1, c0 := (startCoeffs s d i).1.2.1, cp1 := (startCoeffs s d i).1.2.2 } := by
  have known : i ∈ upto 96 := List.mem_range.2 inside
  rw [laneOf, tget, bootedDie, tfind_map_self, if_pos known, Option.getD_some]

/-- R466: the state in service; up1: the second Itgil link trained with w1 lanes. -/
def inService (s : State) (width0 w1 : Nat) (up1 : Bool) : State :=
  let fenced := (upto (ndies s.variant)).filter (fun d => (getDie s d).flt == 2)
  { bootedDies s (ndies s.variant) with
    phase := .up
    boot := { s.boot with booted := true }
    itgActive := 0
    itgUp := [0] ++ (if up1 then [1] else [])
    itgLost := false
    itgWait := []
    itgWidth := [(0, width0), (1, if up1 then w1 else 0)]
    tabs := { s.tabs with avoid := fenced ++ s.stagedTabs.avoid.filter (fun a => decide (100 ≤ a)) }
    stagedTabs := { s.stagedTabs with avoid := fenced ++ s.stagedTabs.avoid.filter (fun a => decide (100 ≤ a)) }
    power := { s.power with stkOff := false } }

section
variable {s : State} {a : Nat} (b : Nat) (booting : s.phase = .booting)

theorem bootComplete_waits (a : Nat) (waits : bootReady s = false) : bootComplete a b s = s := by
  unfold bootComplete
  exact if_pos (by rw [waits, Bool.not_false, Bool.or_true])

include booting

theorem bootComplete_serves (ready : bootReady s = true) (some' : 0 < a) (lanes : a ≤ 16) (whole : (getDie s 0).flt = 0) :
    ∃ w1 up1, bootComplete a b s = inService s a w1 up1 := by
  have up0 : (decide (0 < a) && decide (a ≤ 16) && (getDie s 0).flt == 0) = true := by rw [decide_eq_true some', decide_eq_true lanes, whole]; rfl
  unfold bootComplete
  dsimp only
  rw [if_neg (by rw [booting, ready]; decide), up0, if_neg (by simp)]
  exact ⟨_, _, rfl⟩

theorem bootComplete_unlinked (ready : bootReady s = true) (other : s.variant ≠ .tx8) : bootComplete 0 b s = packageFault s 0x45 := by
  have one : (s.variant == .tx8) = false := beq_false_of_ne other
  unfold bootComplete
  dsimp only
  rw [if_neg (by rw [booting, ready]; decide), one]
  exact if_pos rfl

end

/-! The boundary register (R508) -/

theorem segLen_eq (v : Variant) (e : Nat) : segLen v e = 528 + (if e = 0 then 68 else 0) + (if v = .tx8 ∧ e = 7 then 64 else 0) := by
  unfold segLen itgCells mgmtCells
  by_cases first : e = 0
  · rw [if_pos (.inl first), if_pos first, if_pos first, if_neg (by omega)]
  · rw [if_neg first, if_neg first]
    by_cases last : v = .tx8 ∧ e = 7
    · rw [if_pos (.inr last), if_pos last]
    · rw [if_neg (by rintro (h | h) <;> contradiction), if_neg last]

theorem segAt_succ (v : Variant) (e : Nat) : segAt v (e + 1) = segAt v e + segLen v e := foldUpto_succ ..

/-- R508: the segments before a die: of 528 cells, with the 68 of die 0's Itgil and management lanes. -/
theorem segAt_eq (v : Variant) {e : Nat} (inside : e < 8) : segAt v e = 12 + 528 * e + (if e = 0 then 0 else 68) := by
  induction e with
  | zero => rfl
  | succ e ih =>
    rw [segAt_succ, ih (by omega), segLen_eq, if_neg (show ¬(v = .tx8 ∧ e = 7) by omega), if_neg e.succ_ne_zero]
    split <;> omega

theorem boundaryLen_eq (v : Variant) : boundaryLen v = 12 + 528 * ndies v + 68 + (if v = .tx8 then 64 else 0) := by
  unfold boundaryLen
  cases v with
  | tx8 => rw [ndies, segAt_succ, segAt_eq _ (by decide), segLen_eq]; decide
  | tx4 => rw [ndies, segAt_eq _ (by decide)]; decide
  | tx2 => rw [ndies, segAt_eq _ (by decide)]; decide

theorem ndies_le (v : Variant) : ndies v ≤ 8 := by cases v <;> decide

theorem mem_drivenLanes {s : State} {e i : Nat} (die : e < ndies s.variant) (lane : i < 96) (b : Bool) : (96 * e + i, b) ∈ drivenLanes s ↔
    s.test.cells.testBit (laneCell s.variant e i 1) = true ∧ s.test.cells.testBit (laneCell s.variant e i 0) = b := by
  have inside : 96 * e + i ∈ upto (96 * ndies s.variant) := List.mem_range.2 (by omega)
  have quot : (96 * e + i) / 96 = e := by omega
  have rest : (96 * e + i) % 96 = i := by omega
  unfold drivenLanes
  simp only [List.mem_map, List.mem_filter, Prod.mk.injEq]
  constructor
  · rintro ⟨j, ⟨-, enabled⟩, rfl, data⟩
    rw [quot, rest] at enabled data
    exact ⟨enabled, data⟩
  · rintro ⟨enabled, data⟩
    exact ⟨96 * e + i, ⟨inside, by rw [quot, rest]; exact enabled⟩, rfl, by rw [quot, rest]; exact data⟩

/-! Instructions of the test port (R507, R509) -/

/-- R507: the port with an instruction in force. -/
def testLoaded (s : State) (ir : Nat) : State := { s with test := { s.test with ir := ir } }

/-- R507, R509: the port with an instruction in force whose register is scanned. -/
def testScanned (s : State) (ir pins v : Nat) : State :=
  { s with test := { s.test with ir := ir, cells := v % 2 ^ boundaryLen s.variant }, out := s.out ++ [.test (pins % 2 ^ boundaryLen s.variant)] }

theorem loadIr_off {s : State} (off : s.phase = .off) (ir : Nat) : loadIr s ir = s := by
  unfold loadIr
  exact if_pos (by rw [off]; rfl)

theorem loadIr_on {s : State} (on : s.phase ≠ .off) {ir : Nat} (free : s.phase ≠ .safe ∨ ir = 0x01 ∨ ir = 0xFF) : loadIr s ir = testLoaded s ir := by
  have live : (s.phase == .off) = false := beq_false_of_ne on
  unfold loadIr
  rw [live, if_neg Bool.false_ne_true]
  obtain away | rfl | rfl := free
  · rw [beq_false_of_ne away]; rfl
  · rw [bne_self_eq_false, Bool.and_false]; rfl
  · rw [ite_self]; rfl

theorem loadIr_safe {s : State} (safe : s.phase = .safe) {ir : Nat} (other : ir ≠ 0x01) : loadIr s ir = testLoaded s 0xFF := by
  have bypass : (s.phase == .safe && ir != 0x01) = true := by rw [safe, bne_iff_ne.2 other]; rfl
  unfold loadIr
  rw [bypass, if_neg (by rw [safe]; decide)]
  rfl

theorem loadHeld_effective {s : State} (on : s.phase ≠ .off) (away : s.phase ≠ .safe) (held : resetHeld s = true) (ir : Nat) : loadHeld s ir = testLoaded s ir := by
  rw [loadHeld, if_pos held, loadIr_on on (.inl away)]

theorem loadHeld_bypass {s : State} (on : s.phase ≠ .off) (barred : s.phase = .safe ∨ resetHeld s = false) {ir : Nat} (other : ir ≠ 0x01) :
    loadHeld s ir = testLoaded s 0xFF := by
  unfold loadHeld
  by_cases held : resetHeld s = true
  · obtain safe | free := barred
    · rw [if_pos held, loadIr_safe safe other]
    · exact absurd (held.symm.trans free) (by decide)
  · rw [if_neg held, loadIr_on on (.inr (.inr rfl))]

section
variable {s : State} {low : Nat} (on : s.phase ≠ .off) (ir pins v : Nat)
include on

theorem boundaryTest_effective (away : s.phase ≠ .safe) (held : resetHeld (inputsLow s low) = true) :
    boundaryTest ir pins v low s = testScanned (inputsLow s low) ir pins v := by
  have live : (inputsLow s low).phase ≠ .off := on
  have free : (inputsLow s low).phase ≠ .safe := away
  unfold boundaryTest
  dsimp only
  rw [bne_iff_ne.2 live, bne_iff_ne.2 free, held, if_pos (by decide), loadHeld_effective live free held]
  rfl

theorem boundaryTest_bypass (barred : s.phase = .safe ∨ resetHeld (inputsLow s low) = false) (other : ir ≠ 0x01) :
    boundaryTest ir pins v low s = testLoaded (inputsLow s low) 0xFF := by
  have live : (inputsLow s low).phase ≠ .off := on
  have stays : ((inputsLow s low).phase != .off && (inputsLow s low).phase != .safe && resetHeld (inputsLow s low)) = false := by
    obtain safe | free := barred
    · rw [show (inputsLow s low).phase = .safe from safe]; rfl
    · rw [free, Bool.and_false]
  unfold boundaryTest
  dsimp only
  rw [stays, if_neg Bool.false_ne_true, loadHeld_bypass live barred other]

end

/-- Settles O57: the boot's steps in their order, then the test port's instructions. -/
theorem startUpAndTestAccessTakeEffect : Obligations.StartUpAndTestAccessTakeEffect := by
  intro s slot all
  refine ⟨?slots, ?verify, ?checks, ?zero, fun booting => ⟨?waits, ?serves, ?unlinked⟩, ?port, ?dead⟩
  case slots =>
    intro stA stB auth why
    refine ⟨fun forged => by rw [forged, pickSlot_forged], fun b two preferred authentic => ?_⟩
    intro fails
    have refusal (b : Nat) : slotRefusal s b (if b = 0 then stA else stB) = fails b := rfl
    rw [authentic, pickSlot_authentic two preferred, refusal, refusal]
    refine ⟨fun boots => by rw [boots], fun st first second => ?_, fun st st' first second => ?_⟩
    · rw [first, second]; rfl
    · rw [first, second]; rfl
  case verify =>
    intro booting first ids bad stA stB seed have' pick go
    refine ⟨fun fails => congrArg _ (firmwareVerify_faults booting first fails), fun lead rest b fb why leads picked => ?_⟩
    exact congrArg _ (firmwareVerify_picks booting first leads picked)
  case checks =>
    intro d found booting verified inside new serves
    refine ⟨_, bootFound s d found, congrArg Host.Outcome.next (checksComplete_checks found booting verified inside new serves), rfl, ?_, ?_, ?_⟩
    · rw [getDie_updDie_same]; rfl
    · intro e other
      rw [getDie_updDie, if_neg other]
    · intro c there
      rw [getCore]
      rw [getDie_updDie_same] at there ⊢
      exact coreOf_checkedDie there
  case zero => exact fun d booting dark boots new => congrArg _ (zeroFilled_fills booting dark boots new)
  case waits => exact fun waits a b => congrArg _ (bootComplete_waits b a waits)
  case serves =>
    intro ready a b some' lanes whole
    obtain ⟨w1, up1, serves⟩ := bootComplete_serves b booting ready some' lanes whole
    obtain ⟨keep, dies⟩ := bootedDies_dies s (ndies s.variant)
    refine ⟨inService s a w1 up1, congrArg _ serves, rfl, rfl, rfl, List.mem_cons_self, rfl, keep, fun d inside => ?_⟩
    have booted : getDie (inService s a w1 up1) d = bootedDie s d (getDie s d) := (dies d).trans (if_pos inside)
    rw [booted]
    refine ⟨rfl, fun i lane => ?_⟩
    rw [laneOf_bootedDie s d _ lane]
    exact ⟨rfl, rfl, rfl, rfl⟩
  case unlinked => exact fun ready b other => congrArg _ (bootComplete_unlinked b booting ready other)
  case port =>
    intro on pins v low code n s1 load scan
    have live : s1.phase ≠ .off := on
    refine ⟨boundaryLen_eq _, rfl, ?_, ?_, fun low high => ?_, fun other => ?_, fun away => ⟨?_, fun held => ?_⟩, fun safe => ?_, fun barred => ?_, fun e i die lane => ⟨?_, mem_drivenLanes die lane⟩⟩
    · exact congrArg _ (loadIr_on on (.inr (.inl rfl)))
    · refine congrArg Host.Outcome.next ((if_neg (by rw [beq_false_of_ne on]; decide)).trans ?_)
      rw [loadIr_on on (.inr (.inl rfl))]
      rfl
    · refine congrArg Host.Outcome.next (if_neg ?_)
      rw [irOf, if_pos ⟨low, high⟩]
      omega
    · refine congrArg Host.Outcome.next ((if_pos ?_).trans (loadIr_on on (.inr (.inr rfl))))
      rw [irOf, if_neg (by omega)]
    · refine congrArg Host.Outcome.next ((if_neg ?_).trans ?_)
      · rw [beq_false_of_ne on, beq_false_of_ne away]; decide
      · rw [loadIr_on on (.inl away)]
        rfl
    · exact ⟨congrArg _ (boundaryTest_effective on 3 pins v away held), congrArg _ (boundaryTest_effective on 4 pins v away held),
        congrArg _ (boundaryTest_effective on 5 pins v away held), congrArg _ (loadHeld_effective live away held 6), congrArg _ (loadHeld_effective live away held 7)⟩
    · exact congrArg Host.Outcome.next ((if_pos (by rw [safe]; rfl)).trans (loadIr_safe safe (by decide)))
    · exact ⟨congrArg _ (boundaryTest_bypass on 3 pins v barred (by decide)), congrArg _ (boundaryTest_bypass on 4 pins v barred (by decide)),
        congrArg _ (boundaryTest_bypass on 5 pins v barred (by decide)), congrArg _ (loadHeld_bypass live barred (by decide)), congrArg _ (loadHeld_bypass live barred (by decide))⟩
    · rw [laneCell, segAt_eq _ (die.trans_le (ndies_le _)), Nat.add_zero]
  case dead =>
    intro off code
    refine ⟨congrArg Host.Outcome.next (if_pos (by rw [off]; rfl)), congrArg Host.Outcome.next ?_, congrArg Host.Outcome.next (loadIr_off off _)⟩
    split
    · exact loadIr_off off _
    · rfl

end Sys2Proof.Proofs
end

section
/-! PROOFS. Duties, idle units, Standby, resets and the loss of power. -/

namespace Sys2Proof.Proofs

open Sys2Proof.Machine Sys2Proof.Laws

/-! What the ports of a package that leaves service leave alone -/

theorem phase_of_outside {s t : State} (same : outside t = outside s) : t.phase = s.phase :=
  (congrArg State.phase same : (outside t).phase = (outside s).phase)

@[simp] theorem outside_setPortSt (s : State) (d l st : Nat) : outside (setPortSt s d l st) = outside s := by
  unfold setPortSt
  split <;> rfl

@[simp] theorem outside_updLane (s : State) (d i : Nat) (f : Lane → Lane) : outside (updLane s d i f) = outside s := rfl

@[simp] theorem outside_stopLanes (s : State) (d l : Nat) : outside (stopLanes s d l) = outside s := outside_foldl _ (fun s i => outside_updLane s d i _) _ s

@[simp] theorem outside_warmLost (s : State) (d l : Nat) : outside (warmLost s d l) = outside s := by
  have restarts (g : Nat) (ps : List Nat) : outside (warmRestart s g ps) = outside s :=
    (outside_foldl (fun s p => updPort s (p / 96) (p % 96) (fun q => { q with hist := 0 })) (fun s p => outside_updPort ..) ps _).trans rfl
  unfold warmLost
  split
  · rfl
  · next g _ =>
    dsimp only
    split
    · rfl
    · exact restarts g _

@[simp] theorem outside_dropArriving (s : State) (d l : Nat) : outside (dropArriving s d l) = outside s := by
  unfold dropArriving
  split
  · rfl
  · rw [outside_decOpt, outside_updDie]

@[simp] theorem outside_dropQueued (s : State) (d l : Nat) : outside (dropQueued s d l) = outside s :=
  outside_foldl _ (fun s e => outside_discard s d e nDOWN) _ _

@[simp] theorem outside_portLeave (s : State) (d l : Nat) : outside (portLeave s d l) = outside s := by
  unfold portLeave
  split
  · rw [outside_warmLost, outside_dropQueued, outside_dropArriving]
  · rw [outside_dropQueued, outside_dropArriving]

@[simp] theorem outside_octetEmpty (s : State) (d o : Nat) : outside (octetEmpty s d o) = outside s :=
  outside_foldl _ (fun s l => by rw [outside_setPortSt, outside_updPort, outside_stopLanes, outside_portLeave]) _ s

@[simp] theorem outside_octetsEmpty (s : State) : outside (octetsEmpty s) = outside s := by
  refine outside_foldUpto _ _ (fun s d => ?_) s
  split
  · exact outside_foldUpto _ _ (fun s o => outside_octetEmpty s d o) s
  · rfl

/-! Duties (R461 to R464) -/

/-- Table 16-4: a die's thermal duty after a sample of tj °C. -/
def tjDuty (s : State) (x : Die) (tj : Nat) : Nat :=
  let move (n : Nat) : Nat := if decide (x.tdAt ≤ s.now) then n else x.tduty
  if 105 ≤ tj then 2 else if 100 ≤ tj then move (max 2 (x.tduty - 1)) else if 97 ≤ tj then x.tduty else move (min 16 (x.tduty + 1))

section
variable {s : State} {x : Die} {tj : Nat}

theorem tjDuty_hot (hot : 105 ≤ tj) : tjDuty s x tj = 2 := if_pos hot

theorem tjDuty_warm (low : 97 ≤ tj) (high : tj < 100) : tjDuty s x tj = x.tduty := by
  unfold tjDuty
  dsimp only
  rw [if_neg (by omega), if_neg (by omega), if_pos low]

theorem tjDuty_falls (may : x.tdAt ≤ s.now) (low : 100 ≤ tj) (high : tj < 105) : tjDuty s x tj = max 2 (x.tduty - 1) := by
  unfold tjDuty
  dsimp only
  rw [if_neg (by omega), if_pos low, if_pos (decide_eq_true may)]

theorem tjDuty_rises (may : x.tdAt ≤ s.now) (cool : tj < 97) : tjDuty s x tj = min 16 (x.tduty + 1) := by
  unfold tjDuty
  dsimp only
  rw [if_neg (by omega), if_neg (by omega), if_neg (by omega), if_pos (decide_eq_true may)]

theorem tjDuty_waits (waits : s.now < x.tdAt) (below : tj < 105) : tjDuty s x tj = x.tduty := by
  have early : ¬decide (x.tdAt ≤ s.now) = true := by rw [decide_eq_true_eq]; omega
  unfold tjDuty
  dsimp only
  rw [if_neg (by omega), if_neg early, if_neg early, ite_self, ite_self]

end

/-- R463: the state after a die's sample, the trip apart. -/
def tjSampled (s : State) (d tj : Nat) : State :=
  let x := getDie s d
  setDie s d { x with
    tj := min tj 0xFF, tjMax := max (min tj 0xFF) x.tjMax, tduty := tjDuty s x tj, hotAt := if 110 ≤ tj then some (x.hotAt.getD s.now) else none
    tdAt := if tjDuty s x tj = x.tduty then x.tdAt else s.now + 100000 }

section
variable {s : State} {d tj : Nat} (on : s.phase ≠ .off) (away : s.phase ≠ .safe) (free : s.phase ≠ .held) (inside : d < ndies s.variant)
include on away free inside

theorem tjSample_eq : tjSample d tj s = match (getDie s d).hotAt with
    | some t => if 110 ≤ tj ∧ t + 10000 ≤ s.now then packageFault (tjSampled s d tj) 0x42 else tjSampled s d tj
    | none => tjSampled s d tj := by
  have guard : (s.phase == .off || s.phase == .safe || s.phase == .held || decide (ndies s.variant ≤ d)) = false := by
    rw [beq_false_of_ne on, beq_false_of_ne away, beq_false_of_ne free, decide_eq_false (Nat.not_le.2 inside)]; rfl
  unfold tjSample
  exact if_neg (ne_true_of_eq_false guard)

theorem tjSample_trips {u : Nat} (hot : (getDie s d).hotAt = some u) (long : u + 10000 ≤ s.now) (high : 110 ≤ tj) :
    (tjSample d tj s).phase = .safe := by
  rw [tjSample_eq on away free inside, hot]
  dsimp only
  rw [if_pos ⟨high, long⟩]
  unfold packageFault
  rw [if_neg (by rw [show (tjSampled s d tj).phase = s.phase from rfl, beq_false_of_ne on, beq_false_of_ne away]; decide)]

end

theorem capStep_eq {s : State} (w : Nat) (up : regsUp s = true) (on : bit (pwrCap s) 11 = true) : capStep w s =
    let cap := fld (pwrCap s) 10 0
    let p := s.power
    let duty := if cap < w then max 2 (p.capDuty - 1) else if 100 * w < 97 * cap then min 16 (p.capDuty + 1) else p.capDuty
    let at2 := if duty = 2 then some (p.capAt.getD s.now) else none
    let lim := if 100 * w < 97 * cap then false
      else p.capLim || (decide (cap < w) && p.capDuty == 2 && (match p.capAt with | some t => decide (t + 1000000 ≤ s.now) | none => false))
    { s with power := { p with watts := min w 0x7FF, capDuty := duty, capAt := at2, capLim := lim } } := by
  unfold capStep
  dsimp only
  rw [if_neg (by rw [up, on]; decide)]
  simp only [decide_eq_true_eq] <;> rfl

theorem dieDuty_le (s : State) (d : Nat) : dieDuty s d ≤ (getDie s d).tduty := (min_le_left ..).trans (min_le_right ..)

theorem dieDuty_throttled {s : State} (d : Nat) (throt : s.power.throt = true) : dieDuty s d ≤ 4 := by
  unfold dieDuty
  rw [if_pos throt]
  exact min_le_right ..

/-! Set points and idle units (R453, R457) -/

theorem avsStep_eq {s : State} {d : Nat} (up : s.phase = .up) (lives : dieLives s d = true) (rise ack : Bool) : avsStep d rise ack s =
    if !(ack || (getDie s d).vAck) || decide (s.now < (getDie s d).vAt) then setDie s d { getDie s d with vAck := ack || (getDie s d).vAck }
    else setDie s d { getDie s d with vset := if rise then min 30 ((getDie s d).vset + 1) else (getDie s d).vset - 1, vAt := s.now + 100000, vAck := false } := by
  unfold avsStep
  dsimp only
  rw [if_neg (by rw [up, lives]; decide)]

theorem coreSleep_sleeps {s : State} {d c : Nat} (up : s.phase = .up) (inside : d < ndies s.variant) (core : c < 150) (idle : (getCore s d c).run = none)
    (none' : (getCore s d c).jobs = []) : coreSleep d c s = setCore s d c { getCore s d c with asleep := true } := by
  unfold coreSleep
  dsimp only
  rw [if_neg (by rw [up, idle, none', decide_eq_false (Nat.not_le.2 inside), decide_eq_false (Nat.not_le.2 core)]; decide)]

theorem engineSleep_sleeps {s : State} {d u : Nat} (up : s.phase = .up) (inside : d < ndies s.variant) (idle : ∀ q ∈ (getDie s d).engs, q.unit ≠ u) :
    engineSleep d u s = setDie s d { getDie s d with engAwake := sdel (getDie s d).engAwake u } := by
  have free : (getDie s d).engs.any (fun q => q.unit == u) = false := List.any_eq_false.2 fun q mem => by simpa using idle q mem
  unfold engineSleep
  dsimp only
  rw [if_neg (by rw [up, free, decide_eq_false (Nat.not_le.2 inside)]; decide)]

/-! Standby (R459, R460) -/

theorem ctlStandby_eq {s : State} (wake : Bool) (up : regsUp s = true) (reach : linkReaches s 0 = true) : ctlStandby wake s =
    if mayStandby (wakeEnWrite s wake) then { setTarget (wakeEnWrite s wake) 1 with power := { (wakeEnWrite s wake).power with entering := (wakeEnWrite s wake).power.coreEn } }
    else { wakeEnWrite s wake with power := { (wakeEnWrite s wake).power with refused := true } } := by
  unfold ctlStandby
  exact if_neg (by rw [up, reach]; decide)

theorem leaveStandby_eq (s : State) : leaveStandby s = if s.phase = .up then { s with power := { s.power with entering := false } }
    else { s with power := { s.power with entering := false, coreEn := true, laneEn := true, enAt := if s.power.coreEn = true then s.power.enAt else some s.now } } := by
  unfold leaveStandby
  simp only [beq_iff_eq]

theorem ctlReady_leaves {s : State} (wake : Bool) (up : regsUp s = true) (reach : linkReaches s 0 = true) :
    ctlReady wake s = leaveStandby (setTarget (wakeEnWrite s wake) 2) := if_neg (by rw [up, reach]; decide)

theorem wakeN_leaves {s : State} (up : regsUp s = true) (sleeps : s.phase = .standby ∨ s.power.entering = true)
    (enabled : bit (regWord (getDie s 0) rPWR_CTL) 2 = true) : wakeN s = leaveStandby s := by
  have asleep : (s.phase == .standby || s.power.entering) = true := Bool.or_eq_true_iff.2 (sleeps.imp beq_iff_eq.2 id)
  unfold wakeN
  exact if_pos (by rw [up, asleep, enabled]; rfl)

/-- R459: a die in Standby. -/
def standbyDie (x : Die) : Die :=
  { x with stk := { x.stk with selfRef := true }, engAwake := [], cores := x.cores.map (fun (c, k) => (c, corePowerLost c k)) }

/-- R459: the package in Standby, before its enables fall. -/
def standbyEntered (s : State) : State :=
  foldUpto (ndies s.variant) (octetsEmpty { s with phase := .standby }) (fun s d => updDie s d standbyDie)

theorem standbyDone_enters {s : State} (up : s.phase = .up) (entering : s.power.entering = true) : standbyDone s =
    { standbyEntered s with power := { (standbyEntered s).power with entering := false, coreEn := false, laneEn := false, enAt := none } } := by
  unfold standbyDone
  rw [if_neg (by rw [regsUp_of_up up, entering]; decide), if_neg (by rw [up]; decide)]
  rfl

theorem standbyEntered_phase (s : State) : (standbyEntered s).phase = .standby :=
  (foldUpto_phase ..).trans (phase_of_outside (outside_octetsEmpty { s with phase := .standby }))

theorem standbyEntered_die (s : State) {e : Nat} (inside : e < ndies s.variant) :
    (getDie (standbyEntered s) e).stk.selfRef = true ∧ (getDie (standbyEntered s) e).engAwake = [] := by
  have die : getDie (standbyEntered s) e = standbyDie _ := (getDie_foldUpto_updDie ..).trans (if_pos inside)
  rw [die]
  exact ⟨rfl, rfl⟩

theorem standbyDone_again {s : State} (standby : s.phase = .standby) (entering : s.power.entering = true) : standbyDone s =
    { s with power := { s.power with entering := false, coreEn := false, laneEn := false, enAt := none } } := by
  have up : regsUp s = true := by unfold regsUp; rw [standby]; rfl
  unfold standbyDone
  rw [if_neg (by rw [up, entering]; decide), if_pos (by rw [standby]; rfl)]

/-- R460: the package in Ready again, its ports apart. -/
def railsReady (s : State) : State :=
  foldUpto (ndies s.variant) { s with phase := .up } (fun s d => updDie s d (fun x => { x with stk := { x.stk with selfRef := decide (x.flt ≠ 0) } }))

theorem railsIn_ready {s : State} (standby : s.phase = .standby) (enabled : s.power.coreEn = true) : railsIn s = octetsEmpty (railsReady s) := by
  unfold railsIn
  exact if_neg (by rw [standby, enabled]; decide)

theorem railsReady_die (s : State) {e : Nat} (inside : e < ndies s.variant) :
    getDie (railsReady s) e = { getDie s e with stk := { (getDie s e).stk with selfRef := decide ((getDie s e).flt ≠ 0) } } :=
  (getDie_foldUpto_updDie ..).trans (if_pos inside)

/-! Resets (R454, R455) -/

theorem getDie_packageReset {s : State} {e : Nat} (there : (tfind s.dies e).isSome = true) : getDie (packageReset s) e = dieAfterReset s e (getDie s e) :=
  map_die (s := s) (f := dieAfterReset s) rfl e there

theorem dieAfterReset_kept {s : State} (e : Nat) (x : Die) : ∃ k, dieAfterReset s e x = { dieReset s.variant e with stk := k } ∧
    (s.power.stkOff = false → k = { (dieReset s.variant e).stk with cells := x.stk.cells, pois := x.stk.pois, latent := x.stk.latent, bad := x.stk.bad }) ∧
    (s.power.stkOff = true → k = (dieReset s.variant e).stk) := by
  unfold dieAfterReset
  cases s.power.stkOff with
  | false => exact ⟨_, rfl, fun _ => rfl, fun dark => absurd dark Bool.false_ne_true⟩
  | true => exact ⟨(dieReset s.variant e).stk, rfl, fun lit => absurd lit (by decide), fun _ => rfl⟩

theorem resetRelease_eq {s : State} (on : s.phase ≠ .off) (away : s.phase ≠ .safe) (low : Bool) (wait : Power → Power) :
    resetRelease s low wait = if low then { s with power := wait s.power } else packageReset s :=
  if_neg (by rw [beq_false_of_ne on, beq_false_of_ne away]; decide)

/-- Settles O56: the duties, the idle units, Standby's entry and end, the resets and the loss of power, each by its lemma. -/
theorem powerStatesDutiesAndResetsFollowTheirCauses : Obligations.PowerStatesDutiesAndResetsFollowTheirCauses := by
  intro s d x cap
  refine ⟨?temperature, ?caps, fun low => rfl, dieDuty_le s d, dieDuty_throttled d, ?voltage, ?idle, ?requests, ?enters, ?again, ?rails, ?resets, ?off, ?on⟩
  case temperature =>
    intro on away free inside tj
    refine ⟨fun cool => ?_, fun u hot long high => ⟨_, rfl, tjSample_trips on away free inside hot long high⟩⟩
    have sampled : tjSample d tj s = tjSampled s d tj := by rw [tjSample_eq on away free inside, cool]
    have die : getDie (tjSampled s d tj) d = _ := getDie_setDie_same ..
    refine ⟨_, congrArg Host.Outcome.next sampled, ?_⟩
    rw [die]
    refine ⟨rfl, rfl, tjDuty_hot, tjDuty_warm, tjDuty_falls, tjDuty_rises, tjDuty_waits, ?_⟩
    dsimp only
    rw [cool]
    rfl
  case caps =>
    intro up on w
    refine ⟨_, congrArg Host.Outcome.next (capStep_eq w up on), rfl, fun above => ⟨if_pos above, fun u low at2 long => ?_⟩, fun below far => ⟨?_, if_pos far⟩, fun below near => ⟨?_, ?_⟩⟩
    · refine (if_neg (show ¬100 * w < 97 * cap by omega)).trans ?_
      rw [decide_eq_true above, low, at2]
      exact Bool.or_eq_true_iff.2 (.inr (decide_eq_true long))
    · exact (if_neg (Nat.not_lt.2 below)).trans (if_pos far)
    · exact (if_neg (Nat.not_lt.2 below)).trans (if_neg (Nat.not_lt.2 near))
    · refine (if_neg (Nat.not_lt.2 near)).trans ?_
      rw [decide_eq_false (Nat.not_lt.2 below)]
      exact Bool.or_false _
  case voltage =>
    intro up lives rise ack came
    refine ⟨fun acked due => congrArg _ ((avsStep_eq up lives rise ack).trans (if_neg ?_)), fun waits => congrArg _ ((avsStep_eq up lives rise ack).trans (if_pos ?_))⟩
    · rw [show (ack || (getDie s d).vAck) = true from acked, decide_eq_false (Nat.not_lt.2 due)]
      decide
    · obtain silent | early := waits
      · rw [show (ack || (getDie s d).vAck) = false from silent]; rfl
      · rw [decide_eq_true early, Bool.or_true]
  case idle =>
    intro up inside
    exact ⟨fun c core idle none' => congrArg _ (coreSleep_sleeps up inside core idle none'), fun u idle => congrArg _ (engineSleep_sleeps up inside idle)⟩
  case requests =>
    intro up left
    refine ⟨fun reach wake => ⟨fun may => ?_, fun busy => ?_, ?_⟩, fun sleeps enabled => ?_⟩
    · exact congrArg _ ((ctlStandby_eq wake up reach).trans (if_pos may))
    · exact congrArg _ ((ctlStandby_eq wake up reach).trans (if_neg (ne_true_of_eq_false busy)))
    · exact congrArg _ ((ctlReady_leaves wake up reach).trans (leaveStandby_eq _))
    · exact congrArg _ ((wakeN_leaves up sleeps enabled).trans (leaveStandby_eq _))
  case enters =>
    intro up entering
    refine ⟨_, congrArg Host.Outcome.next (standbyDone_enters up entering), standbyEntered_phase s, rfl, rfl, rfl, rfl, fun e inside => ?_⟩
    exact standbyEntered_die s inside
  case again => exact fun standby entering => congrArg _ (standbyDone_again standby entering)
  case rails =>
    intro standby enabled
    refine ⟨railsReady s, congrArg _ (railsIn_ready standby enabled), foldUpto_phase .., fun e inside => ?_⟩
    rw [railsReady_die s inside]
    exact ⟨rfl, rfl⟩
  case resets =>
    intro on away
    have released (low : Bool) (wait : Power → Power) := resetRelease_eq on away low wait
    refine ⟨⟨packageReset s, congrArg _ (released false _), congrArg _ (released false _), rfl, rfl, rfl, rfl, rfl, rfl, rfl, rfl, rfl, rfl, rfl, fun e there => ?_⟩,
      congrArg _ (released true _), congrArg _ (released true _)⟩
    rw [getDie_packageReset there]
    exact dieAfterReset_kept e (getDie s e)
  case off => exact ⟨powerOff s, rfl, rfl, rfl, rfl, rfl, rfl, rfl, rfl, rfl, rfl, rfl⟩
  case on => exact fun off => congrArg _ (if_neg (by rw [off]; decide))

end Sys2Proof.Proofs
end

section
/-! PROOFS. Scrubs, a stack's refresh, temperature and channels, the keep's record and presets, bridges' wires. -/

namespace Sys2Proof.Proofs

open Sys2Proof.Machine Sys2Proof.Laws

/-! Sets of words (R142, R407) -/

theorem mem_foldl_sadd_map {α : Type} (f : α → Nat) (l : List α) (t : NSet) (w : Nat) : w ∈ l.foldl (fun t a => sadd t (f a)) t ↔ w ∈ t ∨ ∃ a ∈ l, f a = w := by
  induction l generalizing t with
  | nil => simp
  | cons a l ih =>
    rw [List.foldl_cons, ih, mem_sadd]
    simp only [List.mem_cons, exists_eq_or_imp, or_assoc, eq_comm (a := w)]

/-- R142, R413: a bit turns in an unpoisoned word of the memory alone. -/
theorem mem_turnedWords (turned : List Nat) (n : Nat) (pois : NSet) (w : Nat) (two : Bool) :
    w ∈ turnedWords turned n pois two ↔ w < n ∧ w ∉ pois ∧ 2 * w + (if two = true then 1 else 0) ∈ turned := by
  have parity (t : Nat) : ((t % 2 == 1) == two) = true ∧ t / 2 = w ↔ t = 2 * w + (if two = true then 1 else 0) := by
    cases two <;> simp <;> omega
  unfold turnedWords
  rw [mem_foldl_sadd_map (fun t => t / 2)]
  simp only [List.mem_filter, Bool.and_eq_true, decide_eq_true_eq, Bool.not_eq_true', List.contains_eq_mem, decide_eq_false_iff_not, List.not_mem_nil, false_or]
  constructor
  · rintro ⟨t, ⟨listed, ⟨odd, inside⟩, good⟩, half⟩
    have names := (parity t).1 ⟨odd, half⟩
    exact ⟨half ▸ inside, half ▸ good, names ▸ listed⟩
  · rintro ⟨inside, good, listed⟩
    obtain ⟨odd, half⟩ := (parity _).2 rfl
    exact ⟨_, ⟨listed, ⟨odd, by rw [half]; exact inside⟩, by rw [half]; exact good⟩, half⟩

theorem mem_poisonChannel (k : Stack) (c w : Nat) : w ∈ (poisonChannel k c [w]).pois ↔ w ∈ k.pois ∨ (w < stkCap k / 8 ∧ (stkSite k (8 * w)).1 = c) := by
  unfold poisonChannel
  dsimp only
  rw [mem_foldl_sadd]
  simp

/-! Scrubs (R143, R414) -/

/-- The words that a pass over a memory of cap words finds uncorrectable. -/
def scrubLost (bad pois : NSet) (cap : Nat) (ues : List Nat) : NSet :=
  (ues.filter (fun w => decide (w < cap))).foldl (fun t w => if w ∈ pois then t else sadd t w) bad

theorem scrubLost_eq (bad pois : NSet) (cap : Nat) (ues : List Nat) :
    (ues.filter (fun w => decide (w < cap))).foldl (fun t w => if pois.contains w then t else sadd t w) bad = scrubLost bad pois cap ues := by
  simp only [scrubLost, List.contains_iff_mem]

/-- R143: the ground memory after a pass. -/
def scrubbedGnd (g : Ground) (cap ces : Nat) (ues rows turned : List Nat) : Ground :=
  let us := scrubLost g.bad g.pois cap ues
  { g with
    latent := turnedWords turned cap (us.foldl sadd g.pois) false, bad := turnedWords turned cap (us.foldl sadd g.pois) true
    ce := satAdd 0xFFFF g.ce (g.latent.length + ces), ue := satAdd 0xFF g.ue us.length, pois := us.foldl sadd g.pois, weak := weakPass g.weak rows }

theorem groundScrub_eq {s : State} {d : Nat} (away : s.phase ≠ .safe) (on : s.phase ≠ .off) (free : s.phase ≠ .held) (inside : d < ndies s.variant)
    (whole : (getDie s d).flt = 0) (ces : Nat) (ues rows turned : List Nat) : groundScrub d ces ues rows turned s =
      (rows.filter (fun r => tget (weakPass (getDie s d).gnd.weak rows) r 0 == 3)).foldl (fun s r => askHoop s 5 d (r / 1024) (r % 1024 + 1))
        (countC0 (setDie s d { getDie s d with gnd := scrubbedGnd (getDie s d).gnd (gndCap (getDie s d) / 8) ces ues rows turned }) d
          ((getDie s d).gnd.latent.length + ces)) := by
  have guard : (s.phase == .safe || s.phase == .off || s.phase == .held || decide (ndies s.variant ≤ d) || decide ((getDie s d).flt ≠ 0)) = false := by
    rw [beq_false_of_ne away, beq_false_of_ne on, beq_false_of_ne free, decide_eq_false (Nat.not_le.2 inside), whole]; rfl
  unfold groundScrub
  simp only [scrubLost_eq]
  exact if_neg (ne_true_of_eq_false guard)

/-- R413: the stack after a pass. -/
def scrubbedStk (s : State) (k : Stack) (cap ces : Nat) (ues rows lines turned : List Nat) : Stack :=
  let us := scrubLost k.bad k.pois cap (ues ++ lineWords lines)
  { k with
    latent := turnedWords turned cap (us.foldl sadd k.pois) false, bad := turnedWords turned cap (us.foldl sadd k.pois) true
    ce := satAdd 0xFFFF k.ce (k.latent.length + ces), ue := satAdd 0xFF k.ue us.length, pois := us.foldl sadd k.pois, weak := weakPass k.weak rows
    linkFails := linkFailed s k lines }

theorem stackPatrol_eq {s : State} {d : Nat} (up : s.phase = .up) (inside : d < ndies s.variant) (whole : (getDie s d).flt = 0)
    (ready : (getDie s d).stk.ready = true) (awake : (getDie s d).stk.selfRef = false) (ces : Nat) (ues rows tested cols chans lines turned : List Nat) :
    stackPatrol d ces ues rows tested cols chans lines turned s =
      let s2 := countC0 (setDie s d { getDie s d with stk := scrubbedStk s (getDie s d).stk (stkCap (getDie s d).stk / 8) ces ues rows lines turned }) d
        ((getDie s d).stk.latent.length + ces)
      (chans ++ (upto 32).filter (fun c => decide (3 ≤ (tget (linkFailed s (getDie s d).stk lines) c []).length))).foldl (fun s c => askHoop s 3 d 2 (c * 4 + 2))
        (cols.foldl (fun s c => askHoop s 3 d 2 (c * 4 + 1))
          ((rows.filter (fun r => tget (weakPass (getDie s d).stk.weak rows) r 0 == 3) ++ tested).foldl (fun s r => askHoop s 3 d 2 (r * 4)) s2)) := by
  have guard : (s.phase != .up || decide (ndies s.variant ≤ d) || decide ((getDie s d).flt ≠ 0) || !(getDie s d).stk.ready || (getDie s d).stk.selfRef) = false := by
    rw [up, decide_eq_false (Nat.not_le.2 inside), whole, ready, awake]; rfl
  unfold stackPatrol
  simp only [scrubLost_eq]
  exact if_neg (ne_true_of_eq_false guard)

theorem getDie_countC0 (s : State) (d n : Nat) : getDie (countC0 s d n) d = { getDie s d with faults := { (getDie s d).faults with c0 := satAdd (2 ^ 32 - 1) (getDie s d).faults.c0 n } } :=
  getDie_updDie_same ..

/-- The state in which hoops are asked for. -/
def asking (s : State) (l : List HoopReq) : State := { s with hoopQ := s.hoopQ ++ l }

theorem getDie_asking (s : State) (l : List HoopReq) (e : Nat) : getDie (asking s l) e = getDie s e := rfl

theorem asking_asking (s : State) (l m : List HoopReq) : asking (asking s l) m = asking s (l ++ m) := by
  unfold asking
  rw [List.append_assoc]

theorem askHoop_pairs (d a : Nat) (f : Nat → Nat × Nat) (l : List Nat) (s : State) : l.foldl (fun s r => askHoop s a d (f r).1 (f r).2) s =
    asking s (l.map (fun r => { act := a, dies := [d], op := none, die := d, unit := (f r).1, arg := (f r).2 })) := askHoops d a 0 f l s

/-- Hoops of one activity and unit are asked for in order. -/
theorem askHoop_args (d a u : Nat) (f : Nat → Nat) (l : List Nat) (s : State) : l.foldl (fun s r => askHoop s a d u (f r)) s =
    asking s ((l.map f).map (fun arg => { act := a, dies := [d], op := none, die := d, unit := u, arg := arg })) := by
  rw [List.map_map]
  exact askHoop_pairs d a (fun r => (u, f r)) l s

/-- What a pass of the ground memory's scrub leaves, and the hoops that it asks for. -/
theorem groundScrub_scrubs {s : State} {d : Nat} (away : s.phase ≠ .safe) (on : s.phase ≠ .off) (free : s.phase ≠ .held) (inside : d < ndies s.variant)
    (whole : (getDie s d).flt = 0) (ces : Nat) (ues rows turned : List Nat) :
    (getDie (groundScrub d ces ues rows turned s) d).gnd = scrubbedGnd (getDie s d).gnd (gndCap (getDie s d) / 8) ces ues rows turned ∧
      (getDie (groundScrub d ces ues rows turned s) d).faults.c0 = satAdd (2 ^ 32 - 1) (getDie s d).faults.c0 ((getDie s d).gnd.latent.length + ces) ∧
      (groundScrub d ces ues rows turned s).hoopQ = s.hoopQ ++ (rows.filter (fun r => tget (weakPass (getDie s d).gnd.weak rows) r 0 == 3)).map
        (fun r => { act := 5, dies := [d], op := none, die := d, unit := r / 1024, arg := r % 1024 + 1 }) := by
  rw [groundScrub_eq away on free inside whole, askHoop_pairs d 5 (fun r => (r / 1024, r % 1024 + 1)), getDie_asking, getDie_countC0, getDie_setDie_same]
  exact ⟨rfl, rfl, rfl⟩

/-- What a patrol of a stack leaves, and the repairs that it asks for. -/
theorem stackPatrol_scrubs {s : State} {d : Nat} (up : s.phase = .up) (inside : d < ndies s.variant) (whole : (getDie s d).flt = 0)
    (ready : (getDie s d).stk.ready = true) (awake : (getDie s d).stk.selfRef = false) (ces : Nat) (ues rows tested cols chans lines turned : List Nat) :
    let t := stackPatrol d ces ues rows tested cols chans lines turned s
    (getDie t d).stk = scrubbedStk s (getDie s d).stk (stkCap (getDie s d).stk / 8) ces ues rows lines turned ∧
      (getDie t d).faults.c0 = satAdd (2 ^ 32 - 1) (getDie s d).faults.c0 ((getDie s d).stk.latent.length + ces) ∧
      t.hoopQ = s.hoopQ ++ ((rows.filter (fun r => tget (weakPass (getDie s d).stk.weak rows) r 0 == 3) ++ tested).map (fun r => r * 4) ++
        cols.map (fun c => c * 4 + 1) ++
        (chans ++ (upto 32).filter (fun c => decide (3 ≤ (tget (linkFailed s (getDie s d).stk lines) c []).length))).map (fun c => c * 4 + 2)).map
          (fun arg => { act := 3, dies := [d], op := none, die := d, unit := 2, arg := arg }) := by
  dsimp only
  rw [stackPatrol_eq up inside whole ready awake]
  dsimp only
  rw [askHoop_args, askHoop_args, askHoop_args, asking_asking, asking_asking, ← List.map_append, ← List.map_append, ← List.append_assoc (List.map _ _), getDie_asking, getDie_countC0, getDie_setDie_same]
  exact ⟨rfl, rfl, rfl⟩

/-! Stacks (R415, R416, R419) -/

theorem stackRefresh_counts {s : State} {d : Nat} (away : s.phase ≠ .safe) (on : s.phase ≠ .off) (inside : d < ndies s.variant) :
    stackRefresh d s = updDie s d (fun x => { x with stk := { x.stk with refreshed := (x.stk.refreshed + 1) % 2 ^ 32 } }) := by
  unfold stackRefresh
  exact if_neg (by rw [beq_false_of_ne away, beq_false_of_ne on, decide_eq_false (Nat.not_le.2 inside)]; decide)

theorem stackTemp_samples {s : State} {d : Nat} (away : s.phase ≠ .safe) (on : s.phase ≠ .off) (inside : d < ndies s.variant) (deg : Nat) :
    stackTemp d deg s = updDie s d (fun x => { x with stk := { x.stk with
      temp := min deg 0xFF, hotref := decide (85 < deg), throttle := if 95 < deg then true else if deg < 92 then false else x.stk.throttle } }) := by
  unfold stackTemp
  exact if_neg (by rw [beq_false_of_ne away, beq_false_of_ne on, decide_eq_false (Nat.not_le.2 inside)]; decide)

/-- R419: the state in which the spare channel of a die's stack stands in for channel c. -/
def channelCopied (s : State) (d c : Nat) (bad : List Nat) : State :=
  recAdd (updDie s d (fun x => { x with stk := { poisonChannel x.stk c bad with copying := none, spareCh := some c } })) 13 d c 0 32

theorem channelCopied_hoopHold (s : State) (d c : Nat) (bad : List Nat) : (channelCopied s d c bad).hoopHold = s.hoopHold := rfl

theorem copyComplete_copies {s : State} {d c : Nat} (bad : List Nat) (away : s.phase ≠ .safe) (on : s.phase ≠ .off) (copying : (getDie s d).stk.copying = some c) :
    copyComplete d bad s =
      let s1 := channelCopied s d c bad
      (s.hoopHold.find? (fun h => h.act == 3 && h.die == d && h.st.isSome && !holdOver s1 h)).elim s1 (fun h => hoopEnd s1 h .ok (holdTotal s1 h)) := by
  have hold := channelCopied_hoopHold s d c bad
  rw [← hold]
  unfold copyComplete
  simp only [copying, channelCopied]
  rw [if_neg (by rw [beq_false_of_ne away, beq_false_of_ne on]; decide)]
  split <;> next found => simp only [found, Option.elim]

/-! The keep (R338, R441) -/

/-- R441: the oldest change enters the record where it has room. -/
theorem keepRecord_enters {s : State} {e : RepEntry} {rest : List RepEntry} (serves : s.phase = .up ∨ s.phase = .standby) (pending : s.recPending = e :: rest) :
    (keepRecord s).recPending = rest ∧
      (keepRecord s).keep.record = if s.keep.record.length < 4096 then s.keep.record ++ [e] else s.keep.record := by
  have guard : (s.phase != .up && s.phase != .standby) = false := by obtain up | standby := serves <;> simp [*]
  unfold keepRecord
  simp only [pending, guard, Bool.false_eq_true, if_false]
  by_cases full : 4096 ≤ s.keep.record.length
  · rw [if_pos full, if_neg (Nat.not_lt.2 full)]
    exact ⟨rfl, rfl⟩
  · rw [if_neg full, if_pos (Nat.not_le.1 full)]
    split
    · obtain ⟨pending, keep⟩ := reportFault_rec { s with recPending := rest, keep := { s.keep with record := s.keep.record ++ [e] } } 0 0 0 s.lead 0x0F 0
      exact ⟨pending, congrArg Keep.record keep⟩
    · exact ⟨rfl, rfl⟩

/-- R338: whether lane i of die d has been entered within the last hour. -/
def presetSoon (s : State) (k : Nat) : Bool := match tfind s.keep.presetAt k with | some t => decide (s.now < t + 3600000000000) | none => false

theorem keepPreset_one {s : State} {d l i : Nat} (runs : dieRuns s d = true) (one : portLanes (getDie s d) l = [i])
    (linked : (portOf (getDie s d) l).st = 5 ∨ (portOf (getDie s d) l).st = 6) : keepPreset d l s =
      let n := laneOf (getDie s d) i
      let k := 96 * d + i
      if n.trained = false ∨ (tfind s.keep.presets k = some (n.cm1, n.c0, n.cp1) ∧ tfind s.keep.adapts k = some n.adapt) ∨ presetSoon s k = true then s
      else { s with keep := { s.keep with
        presets := tset s.keep.presets k (n.cm1, n.c0, n.cp1), adapts := tset s.keep.adapts k n.adapt, presetAt := tset s.keep.presetAt k s.now } } := by
  have guard : (!dieRuns s d || !((portOf (getDie s d) l).st == 5 || (portOf (getDie s d) l).st == 6)) = false := by
    obtain st | st := linked <;> rw [runs, st] <;> rfl
  unfold keepPreset
  dsimp only
  rw [guard, if_neg Bool.false_ne_true, one]
  refine if_congr ?_ rfl rfl
  simp only [Bool.or_eq_true, Bool.and_eq_true, Bool.not_eq_true', beq_iff_eq, or_assoc]
  rfl

/-! Bridges (R429) -/

/-- A bridge's group as a correction leaves it: the times of the last second at which wire w was corrected. -/
def wireTimes (s : State) (d b g w : Nat) : List Nat :=
  (tget (bridgeOf (getDie s d) b).corr (65 * g + w) []).filter (fun t => decide (s.now < t + 1000000000)) ++ [s.now]

/-- R429: the correction is counted and dated. -/
def wireSeen (s : State) (d b g w : Nat) : State :=
  countC0 (updBridge s d b (fun r => { r with corr := tset r.corr (65 * g + w) (wireTimes s d b g w) })) d 1

theorem bridgeOf_wireSeen (s : State) (d b g w : Nat) :
    bridgeOf (getDie (wireSeen s d b g w) d) b = { bridgeOf (getDie s d) b with corr := tset (bridgeOf (getDie s d) b).corr (65 * g + w) (wireTimes s d b g w) } := by
  rw [wireSeen, getDie_countC0, updBridge]
  simp only [bridgeOf, getDie_updDie_same, tget_tset_same]

theorem bridgeOf_countC0 (s : State) (d b n : Nat) : bridgeOf (getDie (countC0 s d n) d) b = bridgeOf (getDie s d) b := by
  rw [getDie_countC0]
  rfl

theorem wireFailed_first {s : State} {d b g : Nat} (w : Nat) (none' : tget (bridgeOf (getDie s d) b).spares g 0 = 0) : wireFailed s d b g w =
    recAdd (updBridge s d b (fun r => { r with spares := tset r.spares g 1, corr := tdel r.corr (65 * g + w) })) 9 d b (64 * g + w) 0 := by
  unfold wireFailed
  simp only [none']

theorem wireFailed_second {s : State} {d b g : Nat} (w : Nat) (one : tget (bridgeOf (getDie s d) b).spares g 0 = 1) : wireFailed s d b g w = dropGroup s d b g := by
  unfold wireFailed
  simp only [one]

section
variable {s : State} {d b g w : Nat}

theorem wireCorrected_rarely (few : (wireTimes s d b g w).length < 16) : wireCorrected s d b g w = wireSeen s d b g w := by
  unfold wireCorrected
  exact if_neg (Nat.not_le.2 few)

theorem wireCorrected_often (many : 16 ≤ (wireTimes s d b g w).length) : wireCorrected s d b g w = wireFailed (wireSeen s d b g w) d b g w := by
  unfold wireCorrected
  exact if_pos many

variable (runs : dieRuns s d = true) (group : g < 16) (works : (bridgeOf (getDie s d) b).failed = false) (leads : (bridgeTo s.variant d b).isSome = true)

theorem bridgeFailure_dead (how : Nat) (dead : 2 ≤ tget (bridgeOf (getDie s d) b).spares g 0 ∨ (w = 64 ∧ tget (bridgeOf (getDie s d) b).spares g 0 = 0)) :
    bridgeFailure d b g w how s = s := by
  unfold bridgeFailure
  refine if_pos ?_
  obtain gone | spare := dead
  · simp [gone]
  · simp [spare]

include runs group works leads

theorem bridgeFailure_live (how : Nat) (wire : w < 65) (few : tget (bridgeOf (getDie s d) b).spares g 0 < 2) (live : w < 64 ∨ tget (bridgeOf (getDie s d) b).spares g 0 = 1) :
    bridgeFailure d b g w how s = if how = 0 then wireCorrected s d b g w else if how < 5 then countC0 s d how else wireFailed (countC0 s d 4) d b g w := by
  have able := bridge_cond runs group works leads
  have whole : decide (2 ≤ tget (bridgeOf (getDie s d) b).spares g 0) = false := decide_eq_false (Nat.not_le.2 few)
  have used : decide (w = 64 ∧ tget (bridgeOf (getDie s d) b).spares g 0 = 0) = false := decide_eq_false (by omega)
  have real : decide (65 ≤ w) = false := decide_eq_false (Nat.not_le.2 wire)
  simp only [Bool.or_eq_false_iff] at able
  obtain ⟨⟨⟨runs', group'⟩, works'⟩, leads'⟩ := able
  unfold bridgeFailure
  dsimp only
  rw [if_neg (by rw [runs', group', works', leads', whole, used, real]; decide)]

end

end Sys2Proof.Proofs
end

section
/-! PROOFS. Faults of a unit: cores, engines, pipes, movers, ports and rows of buffers. -/

namespace Sys2Proof.Proofs

open Sys2Proof.Machine Sys2Proof.Laws

/-! A core that leaves its knot (R130, R391) -/

/-- What neither a knot nor a woken core changes, a core that leaves its knot does not change. -/
theorem leaveKnot_keeps {α : Type} (f : State → α) (knot : ∀ s d k n, f (setKnot s d k n) = f s) (woken : ∀ s d c v, f (wake s d c v) = f s) (s : State)
    (d c : Nat) : f (leaveKnot s d c) = f s := by
  have serve (s : State) (d k n : Nat) : f (serveTakes s d k n) = f s := by
    induction n generalizing s with
    | zero => rfl
    | succ n ih =>
      simp only [serveTakes]
      split
      · split
        · rw [ih, woken, knot]
        · rfl
      · rfl
  simp only [leaveKnot]
  split
  · split
    · split
      · exact (serve ..).trans (knot ..)
      · rfl
    · rfl
  · rfl

theorem leaveKnot_out (s : State) (d c : Nat) : (leaveKnot s d c).out = s.out :=
  leaveKnot_keeps State.out (fun s d k n => by simp only [setKnot]; split <;> rfl) (fun _ _ _ _ => rfl) s d c

theorem leaveKnot_faults (s : State) (d c e : Nat) : (getDie (leaveKnot s d c) e).faults = (getDie s e).faults := by
  refine leaveKnot_keeps (fun s => (getDie s e).faults) (fun s d k n => ?_) (fun s d c v => ?_) s d c
  · simp only [setKnot]
    split
    · rw [getDie_updDie]; split <;> simp [*]
    · rfl
  · simp only [wake, updCore, setCore]
    rw [getDie_updDie]; split <;> simp [*]

theorem getCore_leaveKnot (s : State) (d c : Nat) : getCore (leaveKnot s d c) d c = getCore s d c := by
  cases run : (getCore s d c).run with
  | none => simp only [leaveKnot, run]
  | some r => exact (leaveKnot_leaves run).1

/-! Reports (R431) -/

/-- What an event writes depends on no die but for the time of the one that it names. -/
theorem postEvent_withDies {s : State} {ds : Tbl Die} (code : Nat) {die : Nat} (d0 d1 d2 d3 : Nat) (clock : ∀ e, timeNs { s with dies := ds } e = timeNs s e) :
    postEvent { s with dies := ds } code die d0 d1 d2 d3 = { postEvent s code die d0 d1 d2 d3 with dies := ds } := by
  unfold postEvent linkStore linkIrq emit
  simp only [clock]
  split
  · rfl
  · split
    · split <;> split <;> simp_all
    · split <;> simp_all

theorem clock_setDie {s : State} {die : Nat} {y : Die} (clock : y.clock = (getDie s die).clock) (e : Nat) : timeNs (setDie s die y) e = timeNs s e := by
  simp only [timeNs, getDie_setDie]
  split
  · subst_vars; rw [clock]
  · rfl

theorem postEvent_out_setDie {s : State} {die : Nat} {y : Die} (code a b c d e : Nat) (clock : y.clock = (getDie s die).clock) :
    (postEvent (setDie s die y) code e a b c d).out = (postEvent s code e a b c d).out := by
  have same := clock_setDie clock
  unfold setDie at same ⊢
  rw [postEvent_withDies _ _ _ _ _ same]

theorem faultEvent_out_setDie {s : State} {die : Nat} {y : Die} (cls kind idx code react : Nat) (clock : y.clock = (getDie s die).clock)
    (last : y.faults.last = (getDie s die).faults.last) :
    (faultEvent (setDie s die y) cls kind idx die code react).out = (faultEvent s cls kind idx die code react).out := by
  have now : (setDie s die y).now = s.now := rfl
  simp only [faultEvent, getDie_setDie_same, last, now]
  split
  · rfl
  · rw [postEvent_out_setDie, postEvent_out_setDie, postEvent_out_setDie]
    · rfl
    · exact clock
    · simp only [getDie_setDie_same]

theorem reportFault_c2 (s : State) (kind idx die code react : Nat) : reportFault s 2 kind idx die code react =
    faultEvent (setDie s die { getDie s die with faults := { (getDie s die).faults with c2 := satInc 0xFF (getDie s die).faults.c2 } }) 2 kind idx die code react := by
  unfold reportFault
  exact if_neg (fun minor => absurd minor.1 (by decide))

theorem reportFault_out_setCore (s : State) (d c : Nat) (k : Core) (kind idx code react : Nat) :
    (reportFault (setCore s d c k) 2 kind idx d code react).out = (reportFault s 2 kind idx d code react).out := by
  simp only [reportFault_c2, setCore, updDie]
  rw [faultEvent_out_setDie, faultEvent_out_setDie, faultEvent_out_setDie] <;> simp only [getDie_setDie_same]

theorem faultEvent_counts (s : State) (cls kind idx die code react : Nat) :
    (getDie (faultEvent s cls kind idx die code react) die).faults.c2 = (getDie s die).faults.c2 := by
  simp only [faultEvent]
  split
  · rw [getDie_setDie_same]
  · rw [getDie_postEvent, getDie_setDie_same]

theorem reportFault_counts (s : State) (kind idx die code react : Nat) :
    (getDie (reportFault s 2 kind idx die code react) die).faults.c2 = satInc 0xFF (getDie s die).faults.c2 := by
  rw [reportFault_c2, faultEvent_counts, getDie_setDie_same]

/-! Cores (R433) -/

/-- R433: core k after a fault of code at time now. -/
def struckCore (now : Nat) (k : Core) (code : Nat) : Core :=
  { replayJob k with fenced := true, c2 := k.c2 ++ [now], image := if code = 0x21 then none else k.image }

/-- R433: the state in which core c of die d has neither posts nor DMA requests of its own and is as f makes it. -/
def coreCutOff (s : State) (d c : Nat) (f : Core → Core) : State :=
  updCore (updDie (postsDropped s d c) d (fun x => { x with dmas := x.dmas.filter (fun q => match q.owner with
    | .core c' _ => c' != c
    | .op _ => true) })) d c f

theorem coreStruck_eq (s : State) (d c code : Nat) : coreStruck s d c code =
    askHoop (coreCutOff (leaveKnot (reportFault s 2 1 (256 * d + c) d code 3) d c) d c (fun k => struckCore s.now k code)) 4 d c 0 := rfl

section
variable (s : State) (d c : Nat) (f : Core → Core)

theorem getCore_coreCutOff : getCore (coreCutOff s d c f) d c = f (getCore s d c) := by
  rw [coreCutOff, updCore, getCore_setCore_same, getCore_updDie_of _ _ _ rfl]
  rfl

theorem getDie_postsDropped (e : Nat) : getDie (postsDropped s d c) e = getDie s e := rfl

theorem coreCutOff_out : (coreCutOff s d c f).out = s.out := rfl

theorem coreCutOff_die : (getDie (coreCutOff s d c f) d).faults = (getDie s d).faults ∧ ∀ q ∈ (getDie (coreCutOff s d c f) d).dmas, ∀ w, q.owner ≠ .core c w := by
  rw [coreCutOff, updCore, setCore, getDie_updDie_same, getDie_updDie_same, getDie_postsDropped]
  refine ⟨rfl, fun q mem w owned => ?_⟩
  have stays := (List.mem_filter.1 mem).2
  simp [owned] at stays

theorem coreCutOff_posts : ∀ q ∈ (coreCutOff s d c f).engWait, q.src ≠ .core d c := by
  intro q mem own
  have stays := (List.mem_filter.1 (mem : q ∈ (postsDropped s d c).engWait)).2
  simp [own] at stays

end

theorem askHoop_out (s : State) (a x u g : Nat) : (askHoop s a x u g).out = s.out := rfl

theorem askHoop_engWait (s : State) (a x u g : Nat) : (askHoop s a x u g).engWait = s.engWait := rfl

theorem getDie_askHoop (s : State) (a x u g e : Nat) : getDie (askHoop s a x u g) e = getDie s e := rfl

section
variable (s : State) (d c code : Nat)

theorem getCore_coreStruck : getCore (coreStruck s d c code) d c = struckCore s.now (getCore s d c) code := by
  rw [coreStruck_eq, getCore_askHoop, getCore_coreCutOff, getCore_leaveKnot, reportFault_core]

theorem coreStruck_out : (coreStruck s d c code).out = (reportFault s 2 1 (256 * d + c) d code 3).out := by
  rw [coreStruck_eq, askHoop_out, coreCutOff_out, leaveKnot_out]

/-- What remains at die d after its core c was struck. -/
theorem coreStruck_die : (getDie (coreStruck s d c code) d).faults.c2 = satInc 0xFF (getDie s d).faults.c2 ∧
    (∀ q ∈ (getDie (coreStruck s d c code) d).dmas, ∀ w, q.owner ≠ .core c w) ∧ ∀ q ∈ (coreStruck s d c code).engWait, q.src ≠ .core d c := by
  have counted : (getDie (leaveKnot (reportFault s 2 1 (256 * d + c) d code 3) d c) d).faults.c2 = satInc 0xFF (getDie s d).faults.c2 := by
    rw [leaveKnot_faults, reportFault_counts]
  rw [coreStruck_eq, getDie_askHoop, askHoop_engWait]
  generalize leaveKnot (reportFault s 2 1 (256 * d + c) d code 3) d c = s1 at counted ⊢
  obtain ⟨faults, dmas⟩ := coreCutOff_die s1 d c (fun k => struckCore s.now k code)
  exact ⟨(congrArg FaultLog.c2 faults).trans counted, dmas, coreCutOff_posts s1 d c _⟩

end

end Sys2Proof.Proofs
end

section
/-! PROOFS. Faults of engines, pipes, movers, ports and rows of buffers (R432 to R436). -/

namespace Sys2Proof.Proofs

open Sys2Proof.Machine Sys2Proof.Laws

/-! Engines, pipes and movers -/

section
variable (s : State) (cls kind idx die code react : Nat) (e : Nat)

theorem reportFault_nextId : (getDie (reportFault s cls kind idx die code react) e).nextId = (getDie s e).nextId := by
  obtain ⟨f, same⟩ := reportFault_die s cls kind idx die code react e
  rw [same]

theorem reportFault_dmas : (getDie (reportFault s cls kind idx die code react) e).dmas = (getDie s e).dmas := by
  obtain ⟨f, same⟩ := reportFault_die s cls kind idx die code react e
  rw [same]

theorem reportFault_pipeFenced : (getDie (reportFault s cls kind idx die code react) e).pipeFenced = (getDie s e).pipeFenced := by
  obtain ⟨f, same⟩ := reportFault_die s cls kind idx die code react e
  rw [same]

theorem reportFault_moverFenced : (getDie (reportFault s cls kind idx die code react) e).moverFenced = (getDie s e).moverFenced := by
  obtain ⟨f, same⟩ := reportFault_die s cls kind idx die code react e
  rw [same]

theorem reportFault_ports : (getDie (reportFault s cls kind idx die code react) e).ports = (getDie s e).ports := by
  obtain ⟨f, same⟩ := reportFault_die s cls kind idx die code react e
  rw [same]

end

theorem getDie_recAdd (s : State) (kind die unit site spare e : Nat) : getDie (recAdd s kind die unit site spare) e = getDie s e := rfl

theorem length_sadd {t : NSet} {i : Nat} (new : i ∉ t) : (sadd t i).length = t.length + 1 := by
  induction t with
  | nil => rfl
  | cons k t ih =>
    have other : i ≠ k := fun same => new (same ▸ List.mem_cons_self)
    have later : i ∉ t := fun old => new (List.mem_cons_of_mem _ old)
    simp only [sadd, if_neg other]
    split
    · rfl
    · rw [List.length_cons, ih later, List.length_cons]

section
variable {s : State} {d u : Nat}

theorem engineStruck_fences (unit : u < 5) (works : u ∉ (getDie s d).engFenced) : engineStruck s d u =
    let x := getDie s d
    let s1 := recAdd (reportFault s 2 2 u d 0x23 4) 15 d (2 * 256 + u) 0 noSpare
    let head := (x.engs.find? (fun q => q.unit == u && q.done.isNone && q.way.isNone)).map (·.id)
    let other := (engUnits (unitEng u)).find? (fun v => v != u && !x.engFenced.contains v)
    updDie s1 d (fun x => { x with engFenced := sadd x.engFenced u, engAwake := sdel x.engAwake u, engs := x.engs.map (strikeReq s1 d u head other) }) := by
  unfold engineStruck
  simp only [if_neg (Nat.not_le.2 unit), List.contains_iff_mem, if_neg works]

/-- R434: what becomes of a request that is not done at an engine that was struck. -/
theorem strikeReq_going (head other : Option Nat) {q : EngReq} (own : q.unit = u) (going : q.done = none) : strikeReq s d u head other q =
    if head ≠ some q.id then { q with unit := other.getD u }
    else if q.replayed then { q with done := some (doneWith .faulted) } else { q with unit := other.getD u, replayed := true, got := [] } := by
  unfold strikeReq
  simp only [own, bne_self_eq_false, Bool.false_eq_true, if_false, going]

theorem pipeStruck_fences (unit : u < 2) (works : u ∉ (getDie s d).pipeFenced) : pipeStruck s d u =
    let s1 := updDie (recAdd (reportFault s 2 3 u d 0x24 4) 15 d (3 * 256 + u) 0 noSpare) d (fun x => { x with pipeFenced := sadd x.pipeFenced u })
    if (getDie s d).pipeFenced = [] then s1 else homeLost s1 d := by
  have fenced : (getDie (updDie (recAdd (reportFault s 2 3 u d 0x24 4) 15 d (3 * 256 + u) 0 noSpare) d (fun x => { x with pipeFenced := sadd x.pipeFenced u })) d).pipeFenced =
      sadd (getDie s d).pipeFenced u := by
    rw [getDie_updDie_same, getDie_recAdd, reportFault_pipeFenced]
  unfold pipeStruck
  dsimp only
  rw [if_neg (by simpa [Nat.not_le.2 unit] using works), fenced, length_sadd works]
  by_cases both : (getDie s d).pipeFenced = []
  · rw [if_pos both, both]; exact if_neg (by decide)
  · rw [if_neg both]; exact if_pos (Nat.succ_le_succ (List.length_pos_iff.2 both))

/-- R435: the state in which mover u of die d is fenced. -/
def moverFencedOff (s : State) (d u : Nat) : State :=
  updDie (recAdd (reportFault s 2 4 u d 0x25 4) 15 d (4 * 256 + u) 0 noSpare) d (fun x => { x with moverFenced := sadd x.moverFenced u })

theorem getDma_moverFencedOff (s : State) (d u id : Nat) : getDma (moverFencedOff s d u) d id = getDma s d id := by
  unfold getDma moverFencedOff
  rw [getDie_updDie_same, getDie_recAdd]
  exact congrArg _ (reportFault_dmas ..)

theorem moverFencedOff_nextId (s : State) (d u : Nat) : (getDie (moverFencedOff s d u) d).nextId = (getDie s d).nextId := by
  rw [moverFencedOff, getDie_updDie_same, getDie_recAdd, ← reportFault_nextId s 2 4 u d 0x25 4 d]

theorem moverStruck_fences (arg : Nat) (unit : u < 4) (works : u ∉ (getDie s d).moverFenced) : moverStruck s d u arg =
    let s1 := moverFencedOff s d u
    if 4 ≤ (sadd (getDie s d).moverFenced u).length then updDie s1 d (fun x => { x with dmas := x.dmas.map (fun q => dmaDead (dmaFail q .engineGone)) })
    else match getDma s d arg with
      | none => s1
      | some q =>
        if q.aborted then s1
        else if q.replayed then updDma s1 d arg (fun q => dmaDead (dmaFail q .faulted))
        else
          let k := (getDie s1 d).nextId
          let s2 := updDma (setDie s1 d { getDie s1 d with nextId := k + 1 }) d arg
            (fun q => { q with id := k, next := 0, units := 0, busy := [], status := .ok, replayed := true, lost := [] })
          if dmaOutside q then dmaAdvance d k [] (dmaFuel q) s2 else s2 := by
  have fenced : (getDie (moverFencedOff s d u) d).moverFenced = sadd (getDie s d).moverFenced u := by
    rw [moverFencedOff, getDie_updDie_same, getDie_recAdd, reportFault_moverFenced]
  unfold moverStruck
  dsimp only
  rw [if_neg (by simpa [Nat.not_le.2 unit] using works)]
  rw [show updDie (recAdd (reportFault s 2 4 u d 0x25 4) 15 d (4 * 256 + u) 0 noSpare) d (fun x => { x with moverFenced := sadd x.moverFenced u }) =
    moverFencedOff s d u from rfl]
  have off : decide (4 ≤ (getDie (moverFencedOff s d u) d).moverFenced.length) = decide (4 ≤ (sadd (getDie s d).moverFenced u).length) := by rw [fenced]
  rw [off, getDma_moverFencedOff]
  simp only [decide_eq_true_eq]
  split
  · rfl
  · cases getDma s d arg with
    | none => rfl
    | some q => simp only [takeId]

/-! Rows of buffers -/

theorem failBufRow_spares (arg : Nat) (spare : tget (getDie s d).pbRows u 0 < 4) : failBufRow s d u arg =
    recAdd (updDie s d (fun x => { x with pbRows := tset x.pbRows u (tget (getDie s d).pbRows u 0 + 1) })) 7 d u arg (tget (getDie s d).pbRows u 0) := by
  unfold failBufRow
  exact if_pos spare

theorem failBufRow_loses (arg : Nat) (used : 4 ≤ tget (getDie s d).pbRows u 0) : failBufRow s d u arg =
    let hs := Config.rowBuffers d u arg
    reportFault (recAdd (updDie s d (fun x => { x with
      pbLost := satInc 0xFF x.pbLost
      pbOut := hs.foldl sadd x.pbOut
      pools := x.pools.map (fun p => (p.1, { p.2 with back := p.2.back.filter (fun h => !hs.contains h) }))
      caches := x.caches.map (fun p => (p.1, p.2.filter (fun h => !hs.contains h))) })) 8 d u arg noSpare) 2 9 u d 0x2A 4 := by
  unfold failBufRow
  exact if_neg (Nat.not_lt.2 used)

end

/-! Ports -/

theorem portFault_out (s : State) (d l : Nat) : (getPort (portFault s d l) d l).st = 12 := by
  unfold portFault getPort portOf
  dsimp only
  rw [reportFault_ports]
  exact setPortSt_st ..

/-- What waits at the outputs of die e. -/
def outsOf (s : State) (e : Nat) : Tbl OutQ := (getDie s e).outs

theorem outsOf_setDie {s : State} {d : Nat} {x : Die} (same : x.outs = (getDie s d).outs) (e : Nat) : outsOf (setDie s d x) e = outsOf s e := by
  simp only [outsOf, getDie_setDie]
  split
  · subst_vars; exact same
  · rfl

theorem outsOf_updDie {s : State} {d : Nat} {f : Die → Die} (same : (f (getDie s d)).outs = (getDie s d).outs) (e : Nat) :
    outsOf (updDie s d f) e = outsOf s e := outsOf_setDie same e

theorem outsOf_updPort (s : State) (d l e : Nat) (f : Port → Port) : outsOf (updPort s d l f) e = outsOf s e := outsOf_updDie (by rfl) e

theorem outsOf_bump (s : State) (d n e : Nat) : outsOf (bump s d n) e = outsOf s e := outsOf_updDie (by rfl) e

theorem outsOf_postEvent (s : State) (a b c f g h e : Nat) : outsOf (postEvent s a b c f g h) e = outsOf s e := by
  rw [outsOf, getDie_postEvent]; rfl

theorem outsOf_emit (s : State) (o : Out) (e : Nat) : outsOf (emit s o) e = outsOf s e := rfl

theorem outsOf_sendCredit (s : State) (d l b n e : Nat) : outsOf (sendCredit s d l b n) e = outsOf s e := by
  unfold sendCredit
  dsimp only
  rw [outsOf_emit, setPort, outsOf_updDie (by rfl)]

theorem outsOf_returnCredit (s : State) (d inp b n e : Nat) : outsOf (returnCredit s d inp b n) e = outsOf s e := by
  unfold returnCredit
  split
  · dsimp only
    split
    · rw [outsOf_updPort, outsOf_updPort]
    · rw [outsOf_sendCredit, outsOf_updPort]
  · exact outsOf_updDie (by rfl) e

theorem cachePut_outs (x : Die) (p g h : Nat) : (cachePut x p g h).outs = x.outs := by
  unfold cachePut
  split
  · rfl
  · dsimp only; split <;> rfl

theorem outsOf_decBuf (s : State) (d b g e : Nat) : outsOf (decBuf s d b g) e = outsOf s e := by
  unfold decBuf
  dsimp only
  split
  · rw [outsOf_postEvent, outsOf_bump]
  · next entry _ =>
    split
    · rw [outsOf_postEvent, outsOf_bump]
    · split
      · exact outsOf_setDie (by rfl) e
      · have freed (x : Die) (same : x.outs = (getDie s d).outs) : outsOf (setDie s d x) e = outsOf s e := outsOf_setDie same e
        rcases entry.credit with _ | ⟨inp, b'⟩
        · exact freed _ (by cases entry.req <;> exact cachePut_outs ..)
        · exact (outsOf_returnCredit ..).trans (freed _ (by cases entry.req <;> exact cachePut_outs ..))

theorem outsOf_discard (s : State) (d : Nat) (h : Held) (n e : Nat) : outsOf (Machine.discard s d h n) e = outsOf s e := by
  have dropped : outsOf (dropHeld (bump s d n) d h) e = outsOf s e := by
    unfold dropHeld decOpt
    split
    · rw [outsOf_decBuf, outsOf_bump]
    · exact outsOf_bump ..
  unfold Machine.discard loseHeld resendReq
  split
  · exact (outsOf_updDie (by rfl) e).trans dropped
  · exact dropped

theorem outsOf_warmLost (s : State) (d l e : Nat) : outsOf (warmLost s d l) e = outsOf s e := by
  have restarted (ps : List Nat) (s : State) : outsOf (ps.foldl (fun s p => updPort s (p / 96) (p % 96) (fun q => { q with hist := 0 })) s) e = outsOf s e := by
    induction ps generalizing s with
    | nil => rfl
    | cons p ps ih => rw [List.foldl_cons, ih, outsOf_updPort]
  unfold warmLost
  split
  · rfl
  · dsimp only
    split
    · rfl
    · exact restarted ..

/-- R436: no packet waits at a port that was left. -/
theorem portLeave_empties (s : State) (d l : Nat) : (outOf (getDie (portLeave s d l) d) l).q = [] := by
  have dropped (es : List Held) (s : State) : outsOf (es.foldl (fun s e => Machine.discard s d e nDOWN) s) d = outsOf s d := by
    induction es generalizing s with
    | nil => rfl
    | cons h es ih => rw [List.foldl_cons, ih, outsOf_discard]
  have empty (s : State) : (tget (outsOf (dropQueued s d l) d) l outReset).q = [] := by
    unfold dropQueued
    dsimp only
    rw [dropped, outsOf, getDie_updDie_same, tget_tset_same]
  show (tget (outsOf (portLeave s d l) d) l outReset).q = []
  unfold portLeave
  dsimp only
  split
  · rw [outsOf_warmLost, empty]
  · exact empty _

end Sys2Proof.Proofs
end

section
/-! PROOFS. Faults of a die and of the package (R422, R437, R438, R441). -/

namespace Sys2Proof.Proofs

open Sys2Proof.Machine Sys2Proof.Laws

/-! The cores of a die that is lost -/

/-- Whether core c of die d runs no job, and the jobs that it has waiting. -/
def coreLoad (s : State) (d c : Nat) : Bool × List Job := ((getCore s d c).run.isNone, (getCore s d c).jobs)

theorem coreLoad_setCore (s : State) (d a c : Nat) (k : Core) :
    coreLoad (setCore s d a k) d c = if c = a then (k.run.isNone, k.jobs) else coreLoad s d c := by
  simp only [coreLoad, getCore_setCore, true_and]
  split <;> rfl

theorem coreLoad_wake (s : State) (e a v d c : Nat) : coreLoad (wake s e a v) d c = coreLoad s d c := by
  simp only [coreLoad, wake, updCore, getCore_setCore]
  split
  · next same =>
    obtain ⟨rfl, rfl⟩ := same
    split
    · next r run =>
      split
      · simp only [setReg_run, setReg_jobs, setRun, run, Option.isNone_some]
      · rfl
    · rfl
  · rfl

theorem coreLoad_leaveKnot (s : State) (e a d c : Nat) : coreLoad (leaveKnot s e a) d c = coreLoad s d c :=
  leaveKnot_keeps (fun s => coreLoad s d c) (fun s e k n => by simp only [coreLoad, getCore_setKnot]) (fun s e a v => coreLoad_wake s e a v d c) s e a

theorem coreLoad_wasteCycles (s : State) (d a n c : Nat) : coreLoad (wasteCycles s d a n) d c = coreLoad s d c := by
  unfold wasteCycles
  split
  · rfl
  · rw [updCore, coreLoad_setCore]
    split
    · subst_vars; rfl
    · rfl

theorem coreLoad_jobRecord (s : State) (j : Job) (st : Status) (pos : Nat) (w v : Word32) (d c : Nat) :
    coreLoad (jobRecord s j st pos w v) d c = coreLoad s d c := by
  simp only [coreLoad, paper_core (paper_jobRecord ..)]

theorem coreLoad_dropJobs (l : List Job) (s : State) (d a c : Nat) (st : Status) : coreLoad (l.foldl (fun s j => dropJob s d a j st) s) d c = coreLoad s d c := by
  induction l generalizing s with
  | nil => rfl
  | cons j l ih => rw [List.foldl_cons, ih, dropJob, coreLoad_jobRecord, coreLoad_wasteCycles]

/-- R437: core c of a die that is lost loses its jobs. -/
def loseCore (s : State) (d c : Nat) : State :=
  let s1 := postsDropped (leaveKnot s d c) d c
  let k := getCore s1 d c
  let s2 := setCore s1 d c { k with run := none, jobs := [], aq := [], accq := [], vq := [] }
  let s3 := match k.run with
    | some r => jobRecord (wasteCycles s2 d c r.instr) r.job .coreGone (jobPos r) r.status r.vstatus
    | none => s2
  k.jobs.foldl (fun s j => dropJob s d c j .coreGone) s3

theorem loseCores_eq (s : State) (d : Nat) : loseCores s d = ((getDie s d).cores.map (·.1)).foldl (fun s c => loseCore s d c) s := rfl

theorem coreLoad_loseCore (s : State) (d a c : Nat) : coreLoad (loseCore s d a) d c = if c = a then (true, []) else coreLoad s d c := by
  have kept : coreLoad (postsDropped (leaveKnot s d a) d a) d c = coreLoad s d c := coreLoad_leaveKnot ..
  unfold loseCore
  extract_lets s1 k s2 s3
  have emptied : coreLoad s3 d c = if c = a then (true, []) else coreLoad s d c := by
    have idle : coreLoad s2 d c = if c = a then (true, []) else coreLoad s d c := by rw [← kept]; exact coreLoad_setCore ..
    simp only [s3]
    split
    · rw [coreLoad_jobRecord, coreLoad_wasteCycles, idle]
    · exact idle
  rw [coreLoad_dropJobs, emptied]

theorem coreLoad_loseEach (l : List Nat) (s : State) (d c : Nat) :
    coreLoad (l.foldl (fun s a => loseCore s d a) s) d c = if c ∈ l then (true, []) else coreLoad s d c := by
  induction l generalizing s with
  | nil => rfl
  | cons a l ih =>
    rw [List.foldl_cons, ih, coreLoad_loseCore]
    by_cases later : c ∈ l
    · rw [if_pos later, if_pos (List.mem_cons_of_mem _ later)]
    · rw [if_neg later]
      by_cases first : c = a
      · rw [if_pos first, if_pos (first ▸ List.mem_cons_self)]
      · rw [if_neg first, if_neg (List.not_mem_cons_of_ne_of_not_mem first later)]

theorem tfind_unlisted {α : Type} {t : Tbl α} {i : Nat} (absent : i ∉ t.map (·.1)) : tfind t i = none := by
  cases found : tfind t i with
  | none => rfl
  | some v => exact absurd (List.mem_map_of_mem (tfind_mem found)) absent

theorem loseCores_idle (s : State) (d c : Nat) : (getCore (loseCores s d) d c).run = none ∧ (getCore (loseCores s d) d c).jobs = [] := by
  have empty : coreLoad (loseCores s d) d c = (true, []) := by
    rw [loseCores_eq, coreLoad_loseEach]
    split
    · rfl
    · next absent => simp only [coreLoad, getCore, coreOf, tget, tfind_unlisted absent, Option.getD_none, coreReset, Option.isNone_none]
  obtain ⟨idle, none'⟩ := Prod.mk.inj empty
  exact ⟨Option.isNone_iff_eq_none.1 idle, none'⟩

/-! The ports of a die that is lost -/

theorem st_updPort (s : State) (d l e i : Nat) (f : Port → Port) :
    (getPort (updPort s d l f) e i).st = if e = d ∧ i = l then (f (getPort s d l)).st else (getPort s e i).st := by
  unfold updPort setPort getPort portOf
  rw [getDie_updDie]
  split
  · subst_vars
    rw [tget_tset]
    split <;> simp [*]
  · simp [*]

theorem st_warmLost (s : State) (d l e i : Nat) : (getPort (warmLost s d l) e i).st = (getPort s e i).st := by
  have restarted (ps : List Nat) (s : State) :
      (getPort (ps.foldl (fun s p => updPort s (p / 96) (p % 96) (fun q => { q with hist := 0 })) s) e i).st = (getPort s e i).st := by
    induction ps generalizing s with
    | nil => rfl
    | cons p ps ih =>
      rw [List.foldl_cons, ih, st_updPort]
      split
      · next same => obtain ⟨rfl, rfl⟩ := same; rfl
      · rfl
  unfold warmLost
  split
  · rfl
  · dsimp only
    split
    · rfl
    · exact restarted ..

/-- R436: port l of a die that is lost is down, where it served at all. -/
def losePort (s : State) (d l : Nat) : State := if (getPort s d l).st = 0 then s else updPort s d l (fun p => { p with st := 12, reserved := false, was := none })

theorem st_losePort (s : State) (d l i : Nat) : (getPort (losePort s d l) d i).st = if i = l ∧ (getPort s d i).st ≠ 0 then 12 else (getPort s d i).st := by
  unfold losePort
  by_cases same : i = l
  · subst same
    by_cases out : (getPort s d i).st = 0
    · rw [if_pos out, if_neg (fun h => h.2 out)]
    · rw [if_neg out, st_updPort, if_pos ⟨rfl, rfl⟩, if_pos ⟨rfl, out⟩]
  · split
    · rw [if_neg (fun h => same h.1)]
    · rw [st_updPort, if_neg (fun h => same h.2), if_neg (fun h => same h.1)]

theorem losePorts_down (s : State) (d i : Nat) : (getPort (losePorts s d) d i).st = 0 ∨ (getPort (losePorts s d) d i).st = 12 := by
  have down (ls : List Nat) (s : State) (settled : i ∈ ls ∨ (getPort s d i).st = 0 ∨ (getPort s d i).st = 12) :
      (getPort (ls.foldl (fun s l => losePort s d l) s) d i).st = 0 ∨ (getPort (ls.foldl (fun s l => losePort s d l) s) d i).st = 12 := by
    induction ls generalizing s with
    | nil => exact settled.resolve_left (List.not_mem_nil)
    | cons l ls ih =>
      refine ih _ ?_
      rw [st_losePort]
      by_cases out : (getPort s d i).st = 0
      · exact .inr (.inl (by rw [if_neg (fun h => h.2 out), out]))
      · by_cases same : i = l
        · exact .inr (.inr (if_pos ⟨same, out⟩))
        · rw [if_neg (fun h => same h.1)]
          exact settled.imp_left (fun mem => (List.mem_cons.1 mem).resolve_left same)
  have warm (ls : List Nat) (s : State) : (getPort (ls.foldl (fun s l => warmLost s d l) s) d i).st = (getPort s d i).st := by
    induction ls generalizing s with
    | nil => rfl
    | cons l ls ih => rw [List.foldl_cons, ih, st_warmLost]
  have settled : i ∈ (getDie s d).ports.map (·.1) ∨ (getPort s d i).st = 0 ∨ (getPort s d i).st = 12 := by
    by_cases listed : i ∈ (getDie s d).ports.map (·.1)
    · exact .inl listed
    · exact .inr (.inl (by simp only [getPort, portOf, tget, tfind_unlisted listed, Option.getD_none, portReset]))
  have lost : (getPort (losePorts s d) d i).st = (getPort (((getDie s d).ports.map (·.1)).foldl (fun s l => losePort s d l) s) d i).st := warm ..
  rw [lost]
  exact down _ s settled

/-! Faults of a die (R437) -/

/-- R437: what follows once the cores, engines, hoops and contexts of die d are gone. -/
def dieGone (homes : State) (d code lvl : Nat) : State :=
  let s4 := if lvl = 2 then updDie (losePorts (resendFrom (dropToward homes d) d) d) d clearPackets else homes
  let s5 := if lvl = 2 then passLead s4 else s4
  let s6 := dropLink (if regsUp s5 && itgDie s5.itgActive == d then loseLink s5 else s5) d
  let by' := if lvl = 2 then s6.lead else d
  let s7 := updDie (if lvl = 2 then loseSource s6 d else s6) by' (fun x => { x with faults := { x.faults with c3 := satInc 0xFF x.faults.c3 } })
  let s8 := faultEvent s7 3 11 d d code (4 + lvl)
  retryAll (if lvl = 2 ∧ s8.variant = .tx8 ∧ regsUp s8 then askDrain s8 d else s8)

theorem dieGone_eq (homes : State) (d code lvl : Nat) : dieGone homes d code lvl =
    let slice := if lvl = 2 then passLead (updDie (losePorts (resendFrom (dropToward homes d) d) d) d clearPackets) else homes
    let link := dropLink (if regsUp slice = true ∧ itgDie slice.itgActive = d then loseLink slice else slice) d
    let by' := if lvl = 2 then link.lead else d
    let counted := updDie (if lvl = 2 then loseSource link d else link) by' (fun x => { x with faults := { x.faults with c3 := satInc 0xFF x.faults.c3 } })
    let told := faultEvent counted 3 11 d d code (4 + lvl)
    retryAll (if lvl = 2 ∧ told.variant = .tx8 ∧ regsUp told = true then askDrain told d else told) := by
  unfold dieGone
  by_cases all : lvl = 2
  · simp only [if_pos all, Bool.and_eq_true, beq_iff_eq]
  · simp only [if_neg all, Bool.and_eq_true, beq_iff_eq]

section
variable {s : State} {d code : Nat}

theorem dieFault_guard (away : s.phase ≠ .safe) (on : s.phase ≠ .off) (free : s.phase ≠ .held) (inside : d < ndies s.variant) {lvl : Nat}
    (worse : (getDie s d).flt < lvl) :
    ¬((s.phase == .safe || s.phase == .off || s.phase == .held || decide (ndies s.variant ≤ d) || decide (lvl ≤ (getDie s d).flt)) = true) := by
  rw [beq_false_of_ne away, beq_false_of_ne on, beq_false_of_ne free, decide_eq_false (Nat.not_le.2 inside), decide_eq_false (Nat.not_le.2 worse)]
  decide

theorem dieFault_known (known : (if selvage code = true then 1 else 2) ≤ (getDie s d).flt) : dieFault s d code = s := by
  unfold dieFault
  dsimp only
  rw [decide_eq_true known]
  exact if_pos (Bool.or_true _)

variable (away : s.phase ≠ .safe) (on : s.phase ≠ .off) (free : s.phase ≠ .held) (inside : d < ndies s.variant)
  (worse : (getDie s d).flt < if selvage code = true then 1 else 2)
include away on free inside worse

theorem dieFault_last {c4 : Nat} (last : lastFault s d (if selvage code = true then 1 else 2) = some c4) : dieFault s d code = packageFault s c4 := by
  unfold dieFault
  dsimp only
  rw [if_neg (dieFault_guard away on free inside worse), last]

theorem dieFault_fences (stays : lastFault s d (if selvage code = true then 1 else 2) = none) : dieFault s d code =
    let lvl := if selvage code = true then 1 else 2
    dieGone (homeLost (loseHoops (updDie (loseEngines (loseCores s d) d) d (fun x => { x with
      flt := lvl, stk := { x.stk with selfRef := x.stk.selfRef || lvl == 1 }, engFenced := upto 5, pipeFenced := upto 2, moverFenced := upto 4 })) d) d) d code lvl := by
  unfold dieFault
  dsimp only
  rw [if_neg (dieFault_guard away on free inside worse), stays]
  rfl

end

/-! Faults of the package (R438, R441) -/

/-- R438: the state in which the package is safe after a fault of code. -/
def packageSafe (s : State) (code : Nat) : State :=
  let s1 := emits s ((allLanes s).map (fun e => .control e.1 e.2 9 fosBody))
  let s2 := foldUpto (ndies s.variant) s1 (fun s d => updDie s d (fun x => { clearPackets x with stk := { x.stk with selfRef := true } }))
  { s2 with
    phase := .safe
    power := { s2.power with alive := false, aliveHi := alivePin s }
    keep := { s2.keep with faultLog := if s2.keep.faultLog.length < 4096 then s2.keep.faultLog ++ [code] else s2.keep.faultLog } }

theorem packageFault_safe {s : State} {code : Nat} (away : s.phase ≠ .safe) (on : s.phase ≠ .off) (low : 0x40 ≤ code) (high : code ≤ 0x46) :
    packageFault s code = packageSafe s code := by
  unfold packageFault
  exact if_neg (by rw [beq_false_of_ne away, beq_false_of_ne on, decide_eq_false (Nat.not_lt.2 low), decide_eq_false (Nat.not_lt.2 high)]; decide)

theorem packageFault_other {s : State} {code : Nat} (other : code < 0x40 ∨ 0x46 < code) : packageFault s code = s := by
  unfold packageFault
  refine if_pos ?_
  obtain low | high := other
  · rw [decide_eq_true low, Bool.or_true]; rfl
  · rw [decide_eq_true high, Bool.or_true]

theorem foldUpto_out (n : Nat) (s : State) (f : Die → Die) : (foldUpto n s (fun s d => updDie s d f)).out = s.out := by
  induction n with
  | zero => rfl
  | succ n ih => rw [foldUpto_succ]; exact ih

theorem packageSafe_keep (s : State) (code : Nat) : (packageSafe s code).keep.faultLog =
    if s.keep.faultLog.length < 4096 then s.keep.faultLog ++ [code] else s.keep.faultLog := by
  unfold packageSafe
  dsimp only
  rw [foldUpto_keep]
  rfl

theorem packageSafe_die (s : State) (code : Nat) {e : Nat} (inside : e < ndies s.variant) :
    getDie (packageSafe s code) e = { clearPackets (getDie s e) with stk := { (getDie s e).stk with selfRef := true } } :=
  (getDie_foldUpto_updDie ..).trans (if_pos inside)

end Sys2Proof.Proofs
end

section
/-! PROOFS. What a fault's code selects, and the statement about faults, scrubs and repairs. -/

namespace Sys2Proof.Proofs

open Sys2Proof.Machine Sys2Proof.Laws

/-! Jobs of a core that is struck (R433) -/

theorem replayJob_idle {k : Core} (idle : k.run = none) : (replayJob k).run = none ∧ (replayJob k).jobs = k.jobs := by
  simp only [replayJob, idle, true_and]

section
variable {k : Core} {r : Run} (run : k.run = some r) (abort : r.ended ≠ some .aborted) (late : r.ended ≠ some .timeout)
include run abort late

theorem replayJob_shared (shared : r.shared = true) : (replayJob k).run = some (strikeRun r .noReplay) := by
  simp only [replayJob, run, beq_false_of_ne abort, beq_false_of_ne late, shared, Bool.or_self, Bool.false_eq_true, if_false, if_true, setRun]

theorem replayJob_again (own : r.shared = false) (again : r.job.replay = true) : (replayJob k).run = some (strikeRun r .faulted) := by
  simp only [replayJob, run, beq_false_of_ne abort, beq_false_of_ne late, own, again, Bool.or_self, Bool.false_eq_true, if_false, if_true, setRun]

theorem replayJob_once (own : r.shared = false) (first : r.job.replay = false) : (replayJob k).run = none ∧
    (replayJob k).jobs = { r.job with replay := true, pos := jobPos r, instr := r.instr } :: k.jobs := by
  simp only [replayJob, run, beq_false_of_ne abort, beq_false_of_ne late, own, first, Bool.or_self, Bool.false_eq_true, if_false, true_and]

end

/-! Codes of a unit's faults (Table 15-1) -/

section
variable {s : State} {d : Nat} (up : s.phase = .up) (lives : dieLives s d = true) (whole : (getDie s d).flt = 0)
include up lives whole

theorem unitFault_guard : ¬((s.phase != .up || !dieLives s d || (getDie s d).flt != 0) = true) := by
  rw [up, lives, whole]
  decide

theorem unitFault_correctable {code : Nat} (u arg n : Nat) (counts : (code = 0x02 ∧ n = 1) ∨ (code = 0x03 ∧ n = min arg 4)) :
    unitFault d code u arg s = countC0 s d n := by
  unfold unitFault
  rw [if_neg (unitFault_guard up lives whole)]
  obtain ⟨rfl, rfl⟩ | ⟨rfl, rfl⟩ := counts <;> rfl

theorem unitFault_core {code u : Nat} (arg : Nat) (low : 0x20 ≤ code) (high : code ≤ 0x22) (core : u < 150) (stays : (getCore s d u).retired = false)
    (works : (getCore s d u).fenced = false) : unitFault d code u arg s =
      coreStruck (if code = 0x20 ∧ arg < 2 then setCore s d u (bumpCheck (getCore s d u) (128 * arg)) else s) d u code := by
  have serves : u < 150 ∧ (!(getCore s d u).retired) = true ∧ (!(getCore s d u).fenced) = true := ⟨core, by rw [stays]; rfl, by rw [works]; rfl⟩
  unfold unitFault
  rw [if_neg (unitFault_guard up lives whole)]
  obtain rfl | rfl | rfl : code = 0x20 ∨ code = 0x21 ∨ code = 0x22 := by omega
  all_goals exact if_pos serves

theorem unitFault_engine (u arg : Nat) : unitFault d 0x23 u arg s = engineStruck s d u := if_neg (unitFault_guard up lives whole)

theorem unitFault_pipe (u arg : Nat) : unitFault d 0x24 u arg s = pipeStruck s d u := if_neg (unitFault_guard up lives whole)

theorem unitFault_mover (u arg : Nat) : unitFault d 0x25 u arg s = moverStruck s d u arg := if_neg (unitFault_guard up lives whole)

theorem unitFault_port {u : Nat} (arg : Nat) (wide : (portWidth (getDie s d) u).isSome = true) (serves : (getPort s d u).st ≠ 12) :
    unitFault d 0x26 u arg s = portFault (portLeave s d u) d u :=
  (if_neg (unitFault_guard up lives whole)).trans (if_pos ⟨wide, serves⟩)

theorem unitFault_row (u arg : Nat) : unitFault d 0x2A u arg s = failBufRow s d u arg := if_neg (unitFault_guard up lives whole)

theorem unitFault_other {code : Nat} (u arg : Nat) (other : code ∉ [0x02, 0x03, 0x20, 0x21, 0x22, 0x23, 0x24, 0x25, 0x26, 0x2A]) :
    unitFault d code u arg s = s := by
  unfold unitFault
  rw [if_neg (unitFault_guard up lives whole)]
  split
  case h_11 => rfl
  all_goals exact absurd (by decide) other

end

/-! The row check of a core's fault (R433) -/

theorem bumpCheck_keeps (k : Core) (row : Nat) : (bumpCheck k row).c2 = k.c2 ∧ (bumpCheck k row).image = k.image := by
  unfold bumpCheck
  split <;> exact ⟨rfl, rfl⟩

/-- R433: the state in which a fault of code has counted in the row check that it names. -/
def rowChecked (s : State) (d u code arg : Nat) : State :=
  if code = 0x20 ∧ arg < 2 then setCore s d u (bumpCheck (getCore s d u) (128 * arg)) else s

section
variable (s : State) (d u code arg : Nat)

theorem getCore_rowChecked : getCore (rowChecked s d u code arg) d u =
    if code = 0x20 ∧ arg < 2 then bumpCheck (getCore s d u) (128 * arg) else getCore s d u := by
  unfold rowChecked
  split
  · exact getCore_setCore_same ..
  · rfl

theorem rowChecked_keeps : (rowChecked s d u code arg).hoopQ = s.hoopQ ∧ (rowChecked s d u code arg).now = s.now ∧
    (getDie (rowChecked s d u code arg) d).faults = (getDie s d).faults := by
  unfold rowChecked
  split
  · refine ⟨rfl, rfl, ?_⟩
    rw [setCore, getDie_updDie_same]
  · exact ⟨rfl, rfl, rfl⟩

theorem reportFault_out_rowChecked (kind idx react : Nat) :
    (reportFault (rowChecked s d u code arg) 2 kind idx d code react).out = (reportFault s 2 kind idx d code react).out := by
  unfold rowChecked
  split
  · exact reportFault_out_setCore ..
  · rfl

theorem coreStruck_hoopQ (c : Nat) : (coreStruck s d c code).hoopQ = s.hoopQ ++ [{ act := 4, dies := [d], op := none, die := d, unit := c, arg := 0 }] := by
  obtain ⟨_, _, _, _, _, _, asked⟩ := coreStruck_facts s d c code
  exact asked

end

/-! Bridges (R429) -/

theorem dropGroup_eq (s : State) (d b g : Nat) : dropGroup s d b g =
    let t := reportFault (recAdd (updBridge s d b (fun r => { r with groups := (bridgeOf (getDie s d) b).groups - 1, spares := tset r.spares g 2 })) 10 d b g noSpare)
      2 6 b d 0x27 4
    if (bridgeOf (getDie s d) b).groups ≤ 4 then bridgeFailed t d b else t := by
  unfold dropGroup
  exact if_congr (by omega) rfl rfl

/-! Presets (R338) -/

theorem presetSoon_of_old {s : State} {k : Nat} (old : ∀ u, tfind s.keep.presetAt k = some u → u + 3600000000000 ≤ s.now) : presetSoon s k = false := by
  unfold presetSoon
  split
  · next u found => exact decide_eq_false (Nat.not_lt.2 (old u found))
  · rfl

theorem presetSoon_of_recent {s : State} {k u : Nat} (recent : tfind s.keep.presetAt k = some u) (soon : s.now < u + 3600000000000) : presetSoon s k = true := by
  unfold presetSoon
  rw [recent]
  exact decide_eq_true soon

/-! The statement -/

/-- Settles O55: scrubs, stacks, the keep, and the faults of units, bridges, dies and the package, by the rules above. -/
theorem faultsScrubsAndRepairsTakeEffect : Obligations.FaultsScrubsAndRepairsTakeEffect := by
  unfold Obligations.FaultsScrubsAndRepairsTakeEffect
  intro s d x hoop
  refine ⟨?ground, ?stack, mem_turnedWords, ?refresh, ?copy, mem_poisonChannel x.stk, ?record, ?preset, ?unit, ?bridge, rfl, ?noDie, ?die, ?package, ?noPackage⟩
  case ground =>
    intro away on free inside whole ces ues rows turned g cap n us weak
    exact ⟨_, rfl, groundScrub_scrubs away on free inside whole ces ues rows turned⟩
  case stack =>
    intro up inside whole ready awake ces ues rows tested cols chans lines turned k cap n us weak fails
    exact ⟨_, rfl, stackPatrol_scrubs up inside whole ready awake ces ues rows tested cols chans lines turned⟩
  case refresh =>
    intro away on inside
    refine ⟨congrArg _ (stackRefresh_counts away on inside), fun deg => ⟨_, congrArg Host.Outcome.next (stackTemp_samples away on inside deg), ?_⟩⟩
    rw [getDie_updDie_same]
    exact ⟨rfl, decide_eq_true_iff, fun hot => if_pos hot, fun cool => (if_neg (by omega)).trans (if_pos cool),
      fun low high => (if_neg (Nat.not_lt.2 high)).trans (if_neg (Nat.not_lt.2 low))⟩
  case copy =>
    intro away on c bad copying s1 waits
    have copied := copyComplete_copies bad away on copying
    refine ⟨fun none' => congrArg _ (copied.trans ?_), fun h found => congrArg _ (copied.trans ?_)⟩
    · exact congrArg (fun o => Option.elim o s1 _) none'
    · exact congrArg (fun o => Option.elim o s1 _) found
  case record =>
    intro serves e rest pending
    exact ⟨_, rfl, keepRecord_enters serves pending⟩
  case preset =>
    intro runs l i one linked n k keep known
    have written := keepPreset_one runs one linked
    refine ⟨fun trained new old => congrArg _ (written.trans (if_neg ?_)), fun same => congrArg _ (written.trans (if_pos ?_)),
      fun u recent soon => congrArg _ (written.trans (if_pos ?_))⟩
    · rintro (untrained | same | soon)
      · exact absurd (trained.symm.trans untrained) (by decide)
      · exact new same
      · exact absurd ((presetSoon_of_old old).symm.trans soon) (by decide)
    · exact same.imp_right .inl
    · exact .inr (.inr (presetSoon_of_recent recent soon))
  case unit =>
    intro up lives whole code u arg go c0 k
    refine ⟨?one, ?few, ?core, replayJob_idle, ?job, ?engine, ?pipe, ?mover, ?port, ?row, ?other⟩
    case one => exact fun is => congrArg _ (unitFault_correctable up lives whole u arg 1 (.inl ⟨is, rfl⟩))
    case few => exact fun is => congrArg _ (unitFault_correctable up lives whole u arg (min arg 4) (.inr ⟨is, rfl⟩))
    case core =>
      intro low high core stays works j
      refine ⟨_, congrArg Host.Outcome.next (unitFault_core up lives whole arg low high core stays works), ?_⟩
      change getCore (coreStruck (rowChecked s d u code arg) d u code) d u = _ ∧ (coreStruck (rowChecked s d u code arg) d u code).hoopQ = _ ∧ _
      obtain ⟨hoops, now, faults⟩ := rowChecked_keeps s d u code arg
      obtain ⟨counted, dmas, posts⟩ := coreStruck_die (rowChecked s d u code arg) d u code
      refine ⟨?_, (coreStruck_hoopQ ..).trans (congrArg (· ++ _) hoops), counted.trans (by rw [faults]),
        (coreStruck_out ..).trans (reportFault_out_rowChecked ..), dmas, posts⟩
      have checked : (j.c2 = k.c2) ∧ j.image = k.image := by
        simp only [j]
        split
        · exact bumpCheck_keeps ..
        · exact ⟨rfl, rfl⟩
      rw [getCore_coreStruck, getCore_rowChecked, now, struckCore]
      change { replayJob j with fenced := true, c2 := j.c2 ++ [s.now], image := if code = 0x21 then none else j.image } = _
      rw [checked.1, checked.2]
    case job =>
      intro r run abort late
      exact ⟨replayJob_shared run abort late, replayJob_again run abort late, replayJob_once run abort late⟩
    case engine =>
      rintro rfl unit works s1 head other
      refine ⟨congrArg _ ((unitFault_engine up lives whole u arg).trans (engineStruck_fences unit works)), fun q own going => ?_⟩
      rw [strikeReq_going head other own going]
      exact ⟨fun later => if_pos later, fun first fresh => (if_neg (not_not.2 first)).trans (if_neg (ne_true_of_eq_false fresh)),
        fun first again => (if_neg (not_not.2 first)).trans (if_pos again)⟩
    case pipe =>
      rintro rfl unit works s1
      exact congrArg _ ((unitFault_pipe up lives whole u arg).trans (pipeStruck_fences unit works))
    case mover =>
      rintro rfl unit works s1
      have fenced := (unitFault_mover up lives whole u arg).trans (moverStruck_fences arg unit works)
      refine ⟨fun gone => congrArg _ (fenced.trans (if_pos gone)), fun left => ?_⟩
      replace fenced := fenced.trans (if_neg (Nat.not_le.2 left))
      refine ⟨fun none' => congrArg _ (fenced.trans (by rw [none'] <;> rfl)), fun q found => ?_⟩
      rw [found] at fenced
      refine ⟨fun ended => congrArg _ (fenced.trans (if_pos ended)), fun going again => ?_, fun going once => ?_⟩
      · exact congrArg _ (fenced.trans ((if_neg (ne_true_of_eq_false going)).trans (if_pos again)))
      · intro s2
        rw [moverFencedOff_nextId] at fenced
        exact congrArg _ (fenced.trans ((if_neg (ne_true_of_eq_false going)).trans (if_neg (ne_true_of_eq_false once))))
    case port =>
      rintro rfl wide serves
      exact ⟨congrArg _ (unitFault_port up lives whole arg wide serves), portFault_out .., portLeave_empties ..⟩
    case row =>
      rintro rfl n hs
      exact ⟨fun spare => congrArg _ ((unitFault_row up lives whole u arg).trans (failBufRow_spares arg spare)),
        fun used => congrArg _ ((unitFault_row up lives whole u arg).trans (failBufRow_loses arg used))⟩
    case other => exact fun other => congrArg _ (unitFault_other up lives whole u arg other)
  case bridge =>
    intro runs b g w inside wire works leads r n go c0 spare group ts seen
    have live (how : Nat) (few : n < 2) (used : w < 64 ∨ n = 1) := bridgeFailure_live runs inside works leads how wire few used
    have lost {m : Nat} (many : 5 ≤ m) (s1 s2 : State) : (if m = 0 then s1 else if m < 5 then countC0 s d m else s2) = s2 :=
      (if_neg (by omega)).trans (if_neg (Nat.not_lt.2 many))
    refine ⟨fun dead how => congrArg _ (bridgeFailure_dead how dead), fun few used => ⟨fun how low high => ?_, fun rare => ?_⟩,
      fun fresh wire => ⟨fun often => ?_, fun how many => ?_⟩, fun one => ⟨fun often => ?_, fun how many => ?_⟩⟩
    · exact congrArg _ ((live how few used).trans ((if_neg (by omega)).trans (if_pos (by omega))))
    · exact congrArg _ ((live 0 few used).trans ((if_pos rfl).trans (wireCorrected_rarely rare)))
    · refine congrArg _ ((live 0 (by omega) (.inl wire)).trans ((if_pos rfl).trans ((wireCorrected_often often).trans (wireFailed_first w ?_))))
      rw [bridgeOf_wireSeen]
      exact fresh
    · refine congrArg _ ((live how (by omega) (.inl wire)).trans ((lost many _ _).trans (wireFailed_first w ?_)))
      rw [bridgeOf_countC0]
      exact fresh
    · refine congrArg _ ((live 0 (by omega) (.inr one)).trans ((if_pos rfl).trans ((wireCorrected_often often).trans ((wireFailed_second w ?_).trans ((dropGroup_eq ..).trans ?_)))))
      · rw [bridgeOf_wireSeen]
        exact one
      · exact if_congr (by rw [bridgeOf_wireSeen]) rfl rfl
    · refine congrArg _ ((live how (by omega) (.inr one)).trans ((lost many _ _).trans ((wireFailed_second w ?_).trans ((dropGroup_eq ..).trans ?_))))
      · rw [bridgeOf_countC0]
        exact one
      · exact if_congr (by rw [bridgeOf_countC0]) rfl rfl
  case noDie =>
    intro code other
    exact congrArg Host.Outcome.next (if_neg (by omega))
  case die =>
    intro code low high lvl go
    have named : go = .next (dieFault s d code) := congrArg Host.Outcome.next (if_pos ⟨low, high⟩)
    refine ⟨fun known => named.trans (congrArg _ (dieFault_known known)), fun away on free inside worse => ⟨fun c4 last => ?_, fun stays => ?_⟩⟩
    · exact named.trans (congrArg _ (dieFault_last away on free inside worse last))
    · intro noCores y noEngs noSets noDmas out homes ports slice link by' counted told
      refine ⟨named.trans (congrArg _ ((dieFault_fences away on free inside worse stays).trans (dieGone_eq ..))), loseCores_idle s d,
        fun l _ => losePorts_down _ d l, _, rfl⟩
  case package =>
    intro away on
    refine ⟨fun code low high => ⟨_, congrArg Host.Outcome.next (packageFault_safe away on low high), rfl, foldUpto_out .., rfl, rfl, packageSafe_keep s code,
      fun e inside => ?_⟩, fun rail held watched => ?_, fun rail quiet => ?_, rfl⟩
    · rw [packageSafe_die s code inside]
      exact ⟨rfl, rfl, rfl, rfl, rfl, rfl, rfl⟩
    · refine congrArg Host.Outcome.next (if_neg ?_)
      rw [held, watched]
      decide
    · refine congrArg Host.Outcome.next (if_pos ?_)
      obtain waits | unwatched := quiet
      · rw [waits]; rfl
      · rw [unwatched]; exact Bool.or_true _
  case noPackage => exact fun code other => congrArg _ (packageFault_other other)

end Sys2Proof.Proofs
end
